-- ==== Sys2Proof/Word.lean ====
section
/-! DEFINITION. The words the spec treats as bits, and the sparse maps that hold everything the spec numbers.
Registers and window words are 32 bits (R44). -/
set_option Elab.async false
namespace Sys2Proof

/-- A register, window or mailbox word (R44). -/
abbrev Word := BitVec 32
/-- A byte of a window, of a frame or of a store page. -/
abbrev Byte := BitVec 8

/-- A sparse map from numbers (addresses, instance numbers, handles) to values. Canonical form: keys strictly rising, and
no entry equal to what an unlisted key reads as. -/
abbrev Map (α : Type) := List (Nat × α)

end Sys2Proof
end

