-- ==== Sys2Proof/Syntax.lean ====
section
/-! DEFINITION. The commands the block takes: host-port transactions, events of the field, of the clocks, of the fabric and
of the panel, and the instants its own engines work at. -/
set_option Elab.async false
namespace Sys2Proof

/-- A host-port transaction as it arrives (R58): command byte, start address, the words sent, the CRC sent (used while
HOST.CFG.CRC_EN = 1), and whether every clock of it was given before HCS_N rose. -/
structure Xact where
  cmd : BitVec 8
  addr : BitVec 24
  data : List Word := []
  crc : BitVec 16 := 0
  whole : Bool := true
deriving DecidableEq, Repr

/-- What the front end measures of one output stage in a skim frame for R454: mean pin voltage while sourcing in mV, on time
in µs, mean current over the on time in mA, clamp energy of inductive turn-offs in µJ. -/
structure StageMeas where
  von : Nat := 0
  on : Nat := 0
  onMa : Nat := 0
  clamp : Nat := 0
deriving DecidableEq, Repr

/-- What the field die measures in a skim frame (R90, R99, R454), as it arrives. -/
structure Meas where
  /-- Per output channel: number, the measured quantity of R90 in the unit of its mode (Q16.16), the PWM high level in V
  (Q16.16) when one was sampled. -/
  rdbk : List (Nat × Int × Option Int) := []
  /-- Per output stage, by ball: mean load current over the frame, mA. -/
  cur : List (Nat × Nat) := []
  /-- Per output stage, by ball (the halves of an FLT pair each by their own). -/
  stages : List (Nat × StageMeas) := []
deriving DecidableEq, Repr

/-- Where a command frame of the levee comes from (R383): the host's mailbox, or a COMMAND request at a port. -/
inductive CmdSrc where
  | mailbox
  | fabric (port : Nat)
deriving DecidableEq, Repr

/-- One sample of the key matrix (R423): the closed keys as a 64-bit image, and the encoders' switches. -/
structure Matrix where
  keys : Nat := 0
  sw0 : Bool := false
  sw1 : Bool := false
deriving DecidableEq, Repr

/-- The commands of the block: one constructor per row of spec/opcode_table.json. The table gives its rows no operands;
the operands here are what each row's rule takes from outside (log entry 2). -/
inductive Instr where
  /-- LATH_EDGE (R13). -/
  | lathEdge (unfinished : Nat) (meas : Meas)
  /-- LATH_PHASE_DONE (R13). -/
  | lathPhaseDone
  /-- SKIM_EDGE (R14). -/
  | skimEdge (unfinished : Nat) (meas : Meas)
  /-- MISS_CLR (R38). -/
  | missClr
  /-- LATH_ACTIVATION_CHECK (R27). -/
  | lathActivationCheck
  /-- CONFIG_SWITCH (R33). -/
  | configSwitch
  /-- PERIOD_GAP_END (R34). -/
  | periodGapEnd
  /-- PARAM_TAKE_EFFECT (R18). -/
  | paramTakeEffect (skimRate : Bool)
  /-- HOST_READ (R58). -/
  | hostRead (t : Xact)
  /-- REGISTER_WRITE (R63). -/
  | registerWrite (t : Xact)
  /-- SNAPSHOT_EXPIRY (R47). -/
  | snapshotExpiry
  /-- PAIR_TIMEOUT (R48). -/
  | pairTimeout
  /-- LOCK_WRITE (R55). -/
  | lockWrite (page : Nat) (w : Word)
  /-- SOFT_RESET (R50). -/
  | softReset (page : Nat) (w : Word)
  /-- SOFT_RESET_DONE (R50). -/
  | softResetDone (page : Nat)
  /-- BLOCK_ENABLE (R51). -/
  | blockEnable (page : Nat) (w : Word)
  /-- GATE_REQUEST (R469). -/
  | gateRequest (page : Nat) (w : Word)
  /-- GATE_FORCE (R469). -/
  | gateForce (page : Nat) (off : Nat) (write : Bool) (took : Bool) (w : Word)
  /-- UNGATE (R469). -/
  | ungate (page : Nat) (w : Word)
  /-- IRQ_TEST_WRITE (R54). -/
  | irqTestWrite (page : Nat) (w : Word)
  /-- IRQ_STAT_CLEAR (R4). -/
  | irqStatClear (page : Nat) (w : Word)
  /-- NME_CLEAR (R70). -/
  | nmeClear (w : Word)
  /-- RST_CMD (R71). -/
  | rstCmd (w : Word)
  /-- MODE_CHANGE (R84). -/
  | modeChange (ch : Nat)
  /-- MODE_GAP_END (R84). -/
  | modeGapEnd (ch : Nat)
  /-- PRI_WRITE (R89). -/
  | priWrite (out : Nat) (lv : Nat) (w : Word)
  /-- PRI_RELINQUISH (R87). -/
  | priRelinquish (out : Nat) (w : Word)
  /-- FLT_CLR_RDBK (R97). -/
  | fltClrRdbk (ch : Nat)
  /-- FLT_CLR_LSW_SC (R97). -/
  | fltClrLswSc (ch : Nat)
  /-- FLT_CLR_LSW_OT (R97). -/
  | fltClrLswOt (ch : Nat)
  /-- FLT_CLR_OVV (R94). -/
  | fltClrOvv (ch : Nat) (pin : Int)
  /-- OVV_DETECT (R94). -/
  | ovvDetect (ch : Nat) (pin : Int)
  /-- OVV_AUTO_REENTRY (R94). -/
  | ovvAutoReentry (ch : Nat) (pin : Int)
  /-- OVI_DETECT (R95). -/
  | oviDetect (ch : Nat) (ua : Int)
  /-- BURDEN_CLOSURE (R95). -/
  | burdenClosure (ch : Nat)
  /-- BURDEN_CLOSURE_END (R95). -/
  | burdenClosureEnd (ch : Nat) (ua : Int)
  /-- LSW_SC (R96). -/
  | lswSc (ch : Nat)
  /-- LSW_OT (R96). -/
  | lswOt (ch : Nat)
  /-- LSW_OT_RECOVERED (R96). -/
  | lswOtRecovered (ch : Nat)
  /-- DI_DEBOUNCE (R77). -/
  | diDebounce (ch : Nat) (mv : Int)
  /-- TACH_EDGE (R77). -/
  | tachEdge (ch : Nat) (dt : Nat)
  /-- TACH_TIMEOUT (R77). -/
  | tachTimeout (ch : Nat)
  /-- COUNT_PULSE (R77). -/
  | countPulse (ch : Nat) (lowUs : Nat)
  /-- FLT_FAILSAFE_TIMEOUT (R98). -/
  | fltFailsafeTimeout (ch : Nat)
  /-- CONVERSION_DONE (R103). -/
  | conversionDone (core : Nat) (code : Nat) (ovf : Bool) (hi : Bool)
  /-- DISCHARGE_END (R116). -/
  | dischargeEnd (core : Nat)
  /-- INTERVAL_END (R110). -/
  | intervalEnd (ch : Nat)
  /-- SLUICE_REQUEST (R118). -/
  | sluiceRequest (core : Nat) (slot : Nat)
  /-- URGENT_START (R120). -/
  | urgentStart (core : Nat)
  /-- URGENT_RESULT (R124). -/
  | urgentResult (core : Nat) (code : Nat) (ovf : Bool) (hi : Bool)
  /-- SELF_CHECK_BLOCK_END (R126). -/
  | selfCheckBlockEnd (core : Nat)
  /-- STALL (R126). -/
  | stall (core : Nat)
  /-- TEMP_BLOCK_END (R125). -/
  | tempBlockEnd (core : Nat)
  /-- CORRECTION_WRITE (R113). -/
  | correctionWrite (core : Nat) (slot : Nat) (gain : Bool) (w : Word)
  /-- XFORM_WRITE (R518). -/
  | xformWrite (addr : Nat) (w : Word)
  /-- POLL_CYCLE_START (R140). -/
  | pollCycleStart (port : Nat)
  /-- MODBUS_REPLY (R141). -/
  | modbusReply (port : Nat) (bytes : List Byte)
  /-- REPLY_TIMEOUT (R141). -/
  | replyTimeout (port : Nat)
  /-- RETRY_GAP_END (R141). -/
  | retryGapEnd (port : Nat)
  /-- ZONE_MODE_WRITE (R154). -/
  | zoneModeWrite (zone : Nat) (lv : Nat) (mode : Nat)
  /-- ZONE_MODE_RELINQUISH (R154). -/
  | zoneModeRelinquish (zone : Nat) (lv : Nat)
  /-- FEN_MODE_WRITE (R165). -/
  | fenModeWrite (fen : Nat) (lv : Nat) (mode : Nat)
  /-- FEN_MODE_RELINQUISH (R165). -/
  | fenModeRelinquish (fen : Nat) (lv : Nat)
  /-- SETPOINT_WRITE (R160). -/
  | setpointWrite (zone : Nat) (mode : Nat) (w : Word)
  /-- LOOP_PARAM_WRITE (R519). -/
  | loopParamWrite (loop : Nat) (off : Nat) (w : Word)
  /-- HELD_FIELD_WRITE (R520). -/
  | heldFieldWrite (loop : Nat) (off : Nat) (w : Word)
  /-- RESET_P (R189). -/
  | resetP (zone : Nat)
  /-- RESET_THETA (R189). -/
  | resetTheta (zone : Nat)
  /-- THETA_WRITE (R202). -/
  | thetaWrite (zone : Nat) (k : Nat) (w : Word)
  /-- MODEL_SNAPSHOT (R198). -/
  | modelSnapshot
  /-- PARAM_RETUNE (R211). -/
  | paramRetune (w : Word)
  /-- VIEW_LOAD (R209). -/
  | viewLoad (w : Word)
  /-- FAN_START_TIMEOUT (R239). -/
  | fanStartTimeout (fan : Nat)
  /-- FAN_PULSE_TIMEOUT (R239). -/
  | fanPulseTimeout (fan : Nat)
  /-- RETRY_OFF_END (R241). -/
  | retryOffEnd (fan : Nat)
  /-- KICK_END (R241). -/
  | kickEnd (fan : Nat)
  /-- FAN_FLT_CLR (R244). -/
  | fanFltClr (fan : Nat)
  /-- LEARN (R246). -/
  | learn (fan : Nat)
  /-- LEARN_ABORT (R246). -/
  | learnAbort (fan : Nat)
  /-- LEARN_POINT_END (R246). -/
  | learnPointEnd (fan : Nat)
  /-- AGE_UPDATE (R247). -/
  | ageUpdate (fan : Nat)
  /-- CAL_SET (R253). -/
  | calSet (lo : Word) (hi : Word)
  /-- CAL_RANGE_END (R252). -/
  | calRangeEnd
  /-- DST_CHANGE (R256). -/
  | dstChange
  /-- SCHED_APPLY (R269). -/
  | schedApply
  /-- STORE_WINDOW_WRITE (R275). -/
  | storeWindowWrite (t : Xact)
  /-- RUN_SETUP (R275). -/
  | runSetup (addr : Word) (len : Word)
  /-- STORE_RUN_PUSH (R275). -/
  | storeRunPush (t : Xact)
  /-- RUN_GO (R276). -/
  | runGo
  /-- RUN_DISCARD (R275). -/
  | runDiscard
  /-- PAGE_PROGRAMMED (R277). -/
  | pageProgrammed (ok : Bool)
  /-- STORE_UNLOCK (R285). -/
  | storeUnlock (w : Word)
  /-- ARM_TIMEOUT (R285). -/
  | armTimeout
  /-- PROTECT_WRITE (R285). -/
  | protectWrite (w : Word)
  /-- WP_CHANGE (R285). -/
  | wpChange (high : Bool)
  /-- RECALL_DONE (R286). -/
  | recallDone
  /-- PEAT_FLUSH (R292). -/
  | peatFlush
  /-- FLUSH_NOW (R292). -/
  | flushNow
  /-- PEAT_PROGRAM_DONE (R289). -/
  | peatProgramDone (bank : Nat) (ok : Bool)
  /-- PEAT_PRESET (R297). -/
  | peatPreset (lo : Word) (hi : Word)
  /-- RESERVATION_DONE (R395). -/
  | reservationDone
  /-- IMAGE_OPEN (R304). -/
  | imageOpen
  /-- SLOT_ERASE_DONE (R304). -/
  | slotEraseDone
  /-- IMAGE_PUSH (R304). -/
  | imagePush (t : Xact)
  /-- IMAGE_CLOSE (R304). -/
  | imageClose
  /-- IMAGE_CHECK_DONE (R304). -/
  | imageCheckDone
  /-- IMAGE_ABORT (R304). -/
  | imageAbort
  /-- ACTIVATE (R306). -/
  | activate (slot : Nat)
  /-- SLOT_RECORD_WRITTEN (R308). -/
  | slotRecordWritten
  /-- SLOT_ATTEMPT_DONE (R309). -/
  | slotAttemptDone
  /-- QUERY (R314). -/
  | query (t : Xact)
  /-- QUERY_CHUNK_POSTED (R314). -/
  | queryChunkPosted
  /-- QUERY_NEXT (R314). -/
  | queryNext
  /-- QUERY_CANCEL (R314). -/
  | queryCancel
  /-- PHY_LINK_UP (R321). -/
  | phyLinkUp (port : Nat) (amp24 : Bool) (sqi : Nat)
  /-- PHY_LINK_DOWN (R321). -/
  | phyLinkDown (port : Nat)
  /-- HELLO_TIMER (R320). -/
  | helloTimer (port : Nat)
  /-- HELLO_RECEIVED (R321). -/
  | helloReceived (port : Nat) (frame : List Byte)
  /-- HELLO_TIMEOUT (R321). -/
  | helloTimeout (port : Nat)
  /-- LSA_RECEIVED (R324). -/
  | lsaReceived (port : Nat) (frame : List Byte)
  /-- LSA_ACK_RECEIVED (R324). -/
  | lsaAckReceived (port : Nat) (frame : List Byte)
  /-- LSA_RETRANSMIT (R324). -/
  | lsaRetransmit (port : Nat)
  /-- LSA_REFRESH (R323). -/
  | lsaRefresh
  /-- LSA_EXPIRY (R324). -/
  | lsaExpiry (uid : Nat)
  /-- RECONVERGENCE_WAIT_END (R333). -/
  | reconvergenceWaitEnd
  /-- ROUTE_TABLE_REPLACE (R333). -/
  | routeTableReplace
  /-- GRANT_RECEIVED (R328). -/
  | grantReceived (port : Nat) (frame : List Byte)
  /-- ADDR_REQ (R329). -/
  | addrReq (w : Word)
  /-- PDELAY_TIMER (R335). -/
  | pdelayTimer (port : Nat)
  /-- PDELAY_REQ_RECEIVED (R335). -/
  | pdelayReqReceived (port : Nat) (frame : List Byte)
  /-- PDELAY_RESP_RECEIVED (R335). -/
  | pdelayRespReceived (port : Nat) (frame : List Byte)
  /-- SYNC_TIMER (R336). -/
  | syncTimer
  /-- SYNC_RECEIVED (R336). -/
  | syncReceived (port : Nat) (frame : List Byte)
  /-- SYNC_TIMEOUT (R337). -/
  | syncTimeout
  /-- FABRIC_CYCLE_START (R341). -/
  | fabricCycleStart
  /-- T_SLOT_START (R341). -/
  | tSlotStart (port : Nat) (slot : Nat)
  /-- FRAME_SENT (R343). -/
  | frameSent (port : Nat)
  /-- T_FORWARD_POINT (R357). -/
  | tForwardPoint
  /-- T_FRAME_RECEIVED (R357). -/
  | tFrameReceived (port : Nat) (frame : List Byte)
  /-- PUBLISH_RECEIVED (R380). -/
  | publishReceived (port : Nat) (frame : List Byte)
  /-- FRAME_FORWARD (R332). -/
  | frameForward (port : Nat) (frame : List Byte)
  /-- READ_REQUEST (R376). -/
  | readRequest (port : Nat) (frame : List Byte)
  /-- WRITE_REQUEST (R376). -/
  | writeRequest (port : Nat) (frame : List Byte)
  /-- SUBSCRIBE_REQUEST (R378). -/
  | subscribeRequest (port : Nat) (frame : List Byte)
  /-- UNSUBSCRIBE_REQUEST (R378). -/
  | unsubscribeRequest (port : Nat) (frame : List Byte)
  /-- STREAM_REQ_RECEIVED (R358). -/
  | streamReqReceived (port : Nat) (frame : List Byte)
  /-- STREAM_REL_RECEIVED (R360). -/
  | streamRelReceived (port : Nat) (frame : List Byte)
  /-- STREAM_LOST_RECEIVED (R360). -/
  | streamLostReceived (port : Nat) (frame : List Byte)
  /-- ALARM_RECEIVED (R419). -/
  | alarmReceived (port : Nat) (frame : List Byte)
  /-- QUERY_REQUEST (R362). -/
  | queryRequest (port : Nat) (frame : List Byte)
  /-- QUERY_NEXT_REQUEST (R362). -/
  | queryNextRequest (port : Nat) (frame : List Byte)
  /-- RESPONSE_RECEIVED (R351). -/
  | responseReceived (port : Nat) (frame : List Byte)
  /-- TRANSACTION_TIMEOUT (R350). -/
  | transactionTimeout (tid : Nat)
  /-- STREAM_REFRESH (R360). -/
  | streamRefresh
  /-- TRANSIT_RESERVATION_EXPIRY (R360). -/
  | transitReservationExpiry
  /-- ADMISSION_RECORD_EXPIRY (R26). -/
  | admissionRecordExpiry
  /-- SUBSCRIBER_EXPIRY (R378). -/
  | subscriberExpiry
  /-- SUBSCRIBE_REFRESH (R379). -/
  | subscribeRefresh
  /-- REG_WRITE (R385). -/
  | regWrite (src : CmdSrc) (frame : List Byte)
  /-- STORE_GO (R283). -/
  | storeGo (src : CmdSrc) (frame : List Byte)
  /-- ACTIVATE_OP (R306). -/
  | activateOp (src : CmdSrc) (frame : List Byte)
  /-- PAGE_UNLOCK (R385). -/
  | pageUnlock (src : CmdSrc) (frame : List Byte)
  /-- KEY_ROLL (R398). -/
  | keyRoll (src : CmdSrc) (frame : List Byte)
  /-- SESSION_SET (R390). -/
  | sessionSet (src : CmdSrc) (frame : List Byte)
  /-- SESSION_CLR (R390). -/
  | sessionClr (src : CmdSrc) (frame : List Byte)
  /-- TRUST_SET (R400). -/
  | trustSet (src : CmdSrc) (frame : List Byte)
  /-- KEY_ERASE (R399). -/
  | keyErase (src : CmdSrc) (frame : List Byte)
  /-- GRACE_SET (R384). -/
  | graceSet (src : CmdSrc) (frame : List Byte)
  /-- IDENT (R389). -/
  | ident (src : CmdSrc) (frame : List Byte)
  /-- SESSION_RECORD_COMMITTED (R393). -/
  | sessionRecordCommitted
  /-- QUARANTINE_END (R394). -/
  | quarantineEnd (session : Nat)
  /-- GRACE_EXPIRY (R398). -/
  | graceExpiry
  /-- KEY_PROVISION (R397). -/
  | keyProvision
  /-- SESSION_BIND (R390). -/
  | sessionBind (w : Word)
  /-- LEVEE_DISCARD (R401). -/
  | leveeDiscard
  /-- FAULT_PROCESSING_DONE (R408). -/
  | faultProcessingDone
  /-- QUEUE_OVERFLOW (R412). -/
  | queueOverflow
  /-- FM_WATCHDOG (R418). -/
  | fmWatchdog
  /-- FM_STATE_ERROR (R418). -/
  | fmStateError
  /-- FAULT_CLR (R413). -/
  | faultClr
  /-- SRAM_SCRUB (R416). -/
  | sramScrub (corr : Nat) (uncorr : Option Nat)
  /-- TJ_CRIT_CLEAR (R414). -/
  | tjCritClear
  /-- PFW (R450). -/
  | pfw
  /-- VFIELD_DIP (R446). -/
  | vfieldDip
  /-- BROWN_OUT (R451). -/
  | brownOut
  /-- BROWN_OUT_CORE_RESET (R451). -/
  | brownOutCoreReset
  /-- PFW_RECOVERY_RESET (R415). -/
  | pfwRecoveryReset
  /-- CORE_UNDERVOLTAGE (R449). -/
  | coreUndervoltage
  /-- VFIELD_LOW (R446). -/
  | vfieldLow
  /-- VFIELD_HIGH (R446). -/
  | vfieldHigh
  /-- SHED_RESTORE (R458). -/
  | shedRestore
  /-- KEY_WAKE (R422). -/
  | keyWake
  /-- KEY_SCAN (R423). -/
  | keyScan (rows : Matrix)
  /-- KEY_IDLE (R422). -/
  | keyIdle
  /-- KEY_EVENT_READ (R425). -/
  | keyEventRead
  /-- ENCODER_TRANSITION (R426). -/
  | encoderTransition (enc : Nat) (ab : Nat)
  /-- COMBO_FIRE (R427). -/
  | comboFire (k : Nat)
  /-- FIXED_COMBO (R429). -/
  | fixedCombo
  /-- UNLOCK_EXPIRY (R428). -/
  | unlockExpiry
  /-- PANEL_WRITE (R430). -/
  | panelWrite (w : Word)
  /-- PANEL_RELINQUISH (R430). -/
  | panelRelinquish (w : Word)
  /-- PANEL_LOCK (R428). -/
  | panelLock
  /-- UPDATE_REQUEST (R437). -/
  | updateRequest (w : Word)
  /-- EPD_FRAME_BOUNDARY (R437). -/
  | epdFrameBoundary
  /-- UPDATE_COPY_DONE (R438). -/
  | updateCopyDone (id : Nat)
  /-- CRC_STALE (R438). -/
  | crcStale
  /-- FB_CRC_PASS (R439). -/
  | fbCrcPass
  /-- FB_CRC_PASS_END (R439). -/
  | fbCrcPassEnd
  /-- RAIL_STEP (R433). -/
  | railStep (good : Bool)
  /-- RAIL_HOLD_EXPIRY (R433). -/
  | railHoldExpiry
  /-- MOSC_TRIP (R472). -/
  | moscTrip
  /-- LXO_TRIP (R472). -/
  | lxoTrip
  /-- HRC_TRIP (R472). -/
  | hrcTrip
  /-- PLL_LOCK_LOSS (R464). -/
  | pllLockLoss
  /-- PLL_LOCKED (R467). -/
  | pllLocked (serviceN : Bool) (bootSafeN : Bool)
  /-- SOURCE_REQUALIFIED (R472). -/
  | sourceRequalified (src : Nat)
  /-- CLOCK_RETURN (R472). -/
  | clockReturn
  /-- HRC_QUAL_ATTEMPT (R470). -/
  | hrcQualAttempt (ok : Bool)
  /-- MOSC_QUALIFIED (R470). -/
  | moscQualified (us : Nat)
  /-- MOSC_QUAL_TIMEOUT (R470). -/
  | moscQualTimeout
  /-- LXO_QUALIFIED (R470). -/
  | lxoQualified
  /-- TRIM_STEP (R475). -/
  | trimStep (dev : Int)
  /-- DISCIPLINE_WINDOW (R465). -/
  | disciplineWindow (ppb : Int)
  /-- NO_FALLBACK_RETRY (R472). -/
  | noFallbackRetry
  /-- POWER_ON_RESET (R479). -/
  | powerOnReset (coreSrc : Bool)
  /-- RST_N_ASSERT (R479). -/
  | rstNAssert (lowNs : Nat)
  /-- RST_N_RELEASE (R479). -/
  | rstNRelease (serviceN : Bool) (bootSafeN : Bool)
  /-- RESET_RELEASE (R479). -/
  | resetRelease
  /-- DISCARDED_FRAME_RECEIVED (R318). -/
  | discardedFrameReceived (port : Nat) (frame : List Byte) (fcsOk : Bool)
  /-- PHY_TRAINING (R321). -/
  | phyTraining (port : Nat)
  /-- TREND_UNIT_PROGRAMMED (R312). -/
  | trendUnitProgrammed (ok : Bool)
  /-- RAIL_DOWN_STEP (R433). -/
  | railDownStep
  /-- TID_QUARANTINE_END (R349). -/
  | tidQuarantineEnd (tid : Nat)
  /-- EXTREF_QUALIFIED (R475). -/
  | extrefQualified
  /-- EXTREF_DISQUALIFIED (R475). -/
  | extrefDisqualified
  /-- BROWN_OUT_RELEASE (R479). -/
  | brownOutRelease (coreSrc : Bool)
  /-- RAILS_UP (R470). -/
  | railsUp
deriving DecidableEq, Repr

end Sys2Proof
end

