-- ==== Sys2Proof/Machine/Bits.lean ====
section
/-! DEFINITION. The operations over words and sparse maps that every later file uses: reading and writing a map in its
canonical form, bit fields, sign extension, rounding division and byte order. Engine arithmetic is exact `Int` arithmetic
narrowed explicitly where a rule says so. -/
set_option Elab.async false
namespace Sys2Proof

namespace Map

/-- What key `k` reads as: the listed value, or `d k` where none is listed. -/
def look {α : Type} (d : Nat → α) : Map α → Nat → α
  | [], k => d k
  | (k', v) :: m, k => if k' = k then v else look d m k

/-- Put `(k, v)` in its place. -/
def ins {α : Type} : Map α → Nat → α → Map α
  | [], k, v => [(k, v)]
  | (k', v') :: m, k, v =>
    if k < k' then (k, v) :: (k', v') :: m
    else if k' = k then (k, v) :: m
    else (k', v') :: ins m k v

/-- Write `v` at key `k`, keeping the canonical form: the default value removes the entry. -/
def put {α : Type} [DecidableEq α] (d : Nat → α) (m : Map α) (k : Nat) (v : α) : Map α :=
  if v = d k then m.filter (fun p => p.1 ≠ k) else ins m k v

/-- Keys strictly rising above `lo`, and no entry equal to its default. -/
def okFrom {α : Type} [DecidableEq α] (d : Nat → α) (lo : Nat) : Map α → Bool
  | [] => true
  | (k, v) :: m => decide (lo ≤ k) && decide (v ≠ d k) && okFrom d (k + 1) m

/-- The canonical form. -/
def wf {α : Type} [DecidableEq α] (d : Nat → α) (m : Map α) : Bool := okFrom d 0 m

end Map

/-- `n` low bits set. -/
def ones (n : Nat) : Word := BitVec.ofNat 32 (2 ^ n - 1)

/-- Bits `lsb` to `lsb + width - 1` of a word. -/
def bitsOf (w : Word) (lsb width : Nat) : Nat := ((w >>> lsb) &&& ones width).toNat

/-- The word with bits `lsb` to `lsb + width - 1` replaced by the low bits of `v`. -/
def bitsSet (w : Word) (lsb width v : Nat) : Word :=
  (w &&& ~~~ (ones width <<< lsb)) ||| ((BitVec.ofNat 32 v &&& ones width) <<< lsb)

/-- One bit of a word. -/
def bitAt (w : Word) (i : Nat) : Bool := w.getLsbD i

/-- Two's-complement reading of the low `width` bits of a number. -/
def signedOf (width v : Nat) : Int :=
  let m := v % 2 ^ width
  if 2 ^ (width - 1) ≤ m then (m : Int) - (2 ^ width : Nat) else (m : Int)

/-- Two's-complement encoding in `width` bits. -/
def unsignedOf (width : Nat) (v : Int) : Nat := (v % ((2 ^ width : Nat) : Int)).toNat

/-- A number held to a range. -/
def clampI (lo hi v : Int) : Int := if v < lo then lo else if hi < v then hi else v

/-- Saturation to a signed 32-bit number. -/
def sat32 (v : Int) : Int := clampI (-2147483648) 2147483647 v

/-- A counter that stops at `top`. -/
def satAdd (top a b : Nat) : Nat := if top < a + b then top else a + b

/-- Division rounding half up (towards plus infinity), `d` positive. -/
def divHalfUp (n d : Int) : Int := (2 * n + d) / (2 * d)

/-- Ceiling division of natural numbers. -/
def ceilDiv (n d : Nat) : Nat := if d = 0 then 0 else (n + d - 1) / d

/-- The value of a list of bits of bytes, least significant byte first (R5: register and window space). -/
def leNat : List Byte → Nat
  | [] => 0
  | b :: bs => b.toNat + 256 * leNat bs

/-- Most significant byte first (R5: every field of the fabric). -/
def beNat (bs : List Byte) : Nat := leNat bs.reverse

/-- `n` bytes of a number, least significant first. -/
def leBytes : Nat → Nat → List Byte
  | 0, _ => []
  | n + 1, v => BitVec.ofNat 8 v :: leBytes n (v / 256)

/-- `n` bytes of a number, most significant first. -/
def beBytes (n v : Nat) : List Byte := (leBytes n v).reverse

end Sys2Proof
end

