-- ==== Sys2Proof/Machine/Math.lean ====
section
/-! DEFINITION. Exact arithmetic the engines share: integer square root, binary32 (IEEE 754, round to nearest even), the
natural logarithm in fixed point, the resistance curves of R130, and piecewise-linear curves. -/
set_option Elab.async false
namespace Sys2Proof.Machine

/-- Bit `i` of a number, and the number with that bit set or cleared. -/
def bitNat (m i : Nat) : Bool := m / 2 ^ i % 2 = 1
def setBitNat (m i : Nat) (b : Bool) : Nat := if bitNat m i = b then m else if b then m + 2 ^ i else m - 2 ^ i

/-! ### Square root -/

def isqrtGo (n : Nat) : Nat → Nat → Nat
  | 0, acc => acc
  | k + 1, acc => let t := acc + 2 ^ k; isqrtGo n k (if t * t ≤ n then t else acc)
/-- ⌊√n⌋. -/
def isqrt (n : Nat) : Nat := isqrtGo n (Nat.log2 n / 2 + 1) 0

/-- Rounded to nearest, ties away from zero (R204). -/
def divAway (n d : Int) : Int := if 0 ≤ n then (2 * n + d) / (2 * d) else -((-2 * n + d) / (2 * d))
/-- Truncated toward zero. -/
def divTrunc (n d : Int) : Int := if 0 ≤ n then n / d else -((-n) / d)

/-! ### binary32 -/

def f32Sign (b : Nat) : Bool := b / 2 ^ 31 % 2 = 1
def f32Exp (b : Nat) : Nat := b / 2 ^ 23 % 256
def f32Man (b : Nat) : Nat := b % 2 ^ 23
/-- Neither a NaN nor an infinity. -/
def f32Finite (b : Nat) : Bool := f32Exp b ≠ 255
def f32Nan (b : Nat) : Bool := f32Exp b = 255 && f32Man b ≠ 0
/-- A finite binary32 as an integer multiple of 2^−149. -/
def f32Int (b : Nat) : Int :=
  let m := if f32Exp b = 0 then f32Man b else (f32Man b + 2 ^ 23) * 2 ^ (f32Exp b - 1)
  if f32Sign b then -(m : Int) else m
/-- The scale of `f32Int`. -/
def f32One : Nat := 2 ^ 149
def f32Inf (neg : Bool) : Nat := 0x7F800000 + (if neg then 2 ^ 31 else 0)
def f32Zero (neg : Bool) : Nat := if neg then 2 ^ 31 else 0
/-- The quiet NaN. -/
def f32NaN : Nat := 0x7FC00000

/-- num / den (positive) times 2^−149 to the nearest integer mantissa, ties to even; subnormal results become zero when
`ftz`. -/
def f32Round (neg ftz : Bool) (num den : Nat) : Nat :=
  if num = 0 then f32Zero neg else
  -- e: the unit in the last place is 2^e (times 2^−149)
  let q := num / den
  let e := if q < 2 ^ 24 then 0 else Nat.log2 q - 23
  let d := den * 2 ^ e
  let m := num / d
  let r := num % d
  let m := if d < 2 * r || (2 * r = d && m % 2 = 1) then m + 1 else m
  let (m, e) := if 2 ^ 24 ≤ m then (m / 2, e + 1) else (m, e)
  if m < 2 ^ 23 then (if ftz then f32Zero neg else m + (if neg then 2 ^ 31 else 0))
  else if 254 ≤ e then f32Inf neg
  else (e + 1) * 2 ^ 23 + (m - 2 ^ 23) + (if neg then 2 ^ 31 else 0)
/-- The binary32 nearest to the rational n / d, d positive. -/
def f32OfRat (ftz : Bool) (n : Int) (d : Nat) : Nat := f32Round (n < 0) ftz (n.natAbs * f32One) d

/-! Operations of TME: binary32, round to nearest even, subnormal results flushed to zero. -/

def fNeg (a : Nat) : Nat := (a + 2 ^ 31) % 2 ^ 32
def fIsInf (a : Nat) : Bool := f32Exp a = 255 && f32Man a = 0
def fIsZero (a : Nat) : Bool := a % 2 ^ 31 = 0
def fAdd (a b : Nat) : Nat :=
  if f32Nan a || f32Nan b then f32NaN
  else if fIsInf a then (if fIsInf b && f32Sign a ≠ f32Sign b then f32NaN else a)
  else if fIsInf b then b
  else if fIsZero a && fIsZero b then f32Zero (f32Sign a && f32Sign b)
  else
    let n := f32Int a + f32Int b
    f32Round (n < 0) true n.natAbs 1
def fSub (a b : Nat) : Nat := fAdd a (fNeg b)
def fMul (a b : Nat) : Nat :=
  let neg := f32Sign a ≠ f32Sign b
  if f32Nan a || f32Nan b || (fIsInf a && fIsZero b) || (fIsZero a && fIsInf b) then f32NaN
  else if fIsInf a || fIsInf b then f32Inf neg
  else f32Round neg true ((f32Int a).natAbs * (f32Int b).natAbs) f32One
def fDiv (a b : Nat) : Nat :=
  let neg := f32Sign a ≠ f32Sign b
  if f32Nan a || f32Nan b || (fIsInf a && fIsInf b) || (fIsZero a && fIsZero b) then f32NaN
  else if fIsInf a || fIsZero b then f32Inf neg
  else if fIsInf b then f32Zero neg
  else f32Round neg true ((f32Int a).natAbs * f32One) (f32Int b).natAbs
def fSqrt (a : Nat) : Nat :=
  if f32Nan a then f32NaN
  else if fIsZero a then a
  else if f32Sign a then f32NaN
  else if fIsInf a then a
  else
    let x := (f32Int a).toNat * f32One * 2 ^ 100
    let r := isqrt x
    f32Round false true (2 * r + (if r * r = x then 0 else 1)) (2 ^ 51)
/-- a < b and a ≤ b; false with a NaN. An infinity compares beyond every finite number. -/
def fKey (a : Nat) : Int :=
  if fIsInf a then (if f32Sign a then -(2 ^ 300 : Nat) else ((2 ^ 300 : Nat) : Int)) else f32Int a
def fLt (a b : Nat) : Bool := !f32Nan a && !f32Nan b && fKey a < fKey b
def fLe (a b : Nat) : Bool := !f32Nan a && !f32Nan b && fKey a ≤ fKey b
/-- A Q16.16 number and an integer as binary32. -/
def fOfQ (v : Int) : Nat := f32OfRat true v 65536
def fOfInt (v : Int) : Nat := f32OfRat true v 1
/-- A binary32 as Q16.16, rounded to nearest and saturated; a NaN gives 0. -/
def fToQ (a : Nat) : Int :=
  if f32Nan a then 0
  else if fIsInf a then sat32 (if f32Sign a then -(2 ^ 40) else 2 ^ 40)
  else sat32 (divHalfUp (f32Int a * 65536) (f32One : Nat))
def fMax (a b : Nat) : Nat := if fLt a b then b else a
def fMin (a b : Nat) : Nat := if fLt b a then b else a

/-! ### Sine -/

/-- π in units of 2^−160. -/
def piFix : Nat := 4591442807048218921384805199743311128454155024418
/-- Σ (−1)^k x^(2k+1) / (2k+1)!, `t` being the current term, in units of 2^−p. -/
def sinSum (p : Nat) (x2 : Int) : Nat → Nat → Int → Int
  | 0, _, _ => 0
  | k + 1, i, t => t + sinSum p x2 k (i + 1) (-(t * x2 / (2 ^ p : Nat)) / (((2 * i + 2) * (2 * i + 3) : Nat) : Int))
/-- sin of n / d degrees in units of 2^−160. -/
def sinFix (n : Int) (d : Nat) : Int :=
  let r := n % (360 * d : Nat)
  let half : Int := (180 * d : Nat)
  let neg := half ≤ r
  let r := if neg then r - half else r
  let r := if half < 2 * r then half - r else r
  let x := r * piFix / half
  let v := sinSum 160 (x * x / (2 ^ 160 : Nat)) 40 0 x
  if neg then -v else v
/-- sin and cos of a binary32 in degrees, rounded to binary32. -/
def fSinDeg (a : Nat) : Nat := if !f32Finite a then f32NaN else f32OfRat true (sinFix (f32Int a) f32One) (2 ^ 160)
def fCosDeg (a : Nat) : Nat :=
  if !f32Finite a then f32NaN else f32OfRat true (sinFix (f32Int a + 90 * (f32One : Nat)) f32One) (2 ^ 160)

/-! ### Logarithm -/

/-- Σ z^(2i+1) / (2i+1) in units of 2^−p, `k` terms. -/
def atanhSum (p z2 : Nat) : Nat → Nat → Nat → Nat
  | 0, _, _ => 0
  | k + 1, i, t => t / (2 * i + 1) + atanhSum p z2 k (i + 1) (t * z2 / 2 ^ p)
/-- 2 atanh(n / d) in units of 2^−p. -/
def atanh2 (p n d : Nat) : Nat :=
  let z := n * 2 ^ p / d
  2 * atanhSum p (z * z / 2 ^ p) (p / 3 + 1) 0 z
/-- ln(n / d) in units of 2^−p, both positive; exact to a few units. -/
def lnFix (p n d : Nat) : Int :=
  let k : Int := (Nat.log2 n : Int) - (Nat.log2 d : Int)
  let n' := if k < 0 then n * 2 ^ k.natAbs else n
  let d' := if k < 0 then d else d * 2 ^ k.natAbs
  let ln2 : Int := (atanh2 p 1 3 : Nat)
  let m : Int := if d' ≤ n' then (atanh2 p (n' - d') (n' + d') : Nat) else -((atanh2 p (d' - n') (n' + d') : Nat) : Int)
  k * ln2 + m

/-! ### Exponential -/

/-- Σ x^i / i!, `t` being the current term, in units of 2^−p. -/
def expSum (p : Nat) (x : Int) : Nat → Nat → Int → Int
  | 0, _, _ => 0
  | k + 1, i, t => t + expSum p x k (i + 1) (t * x / (2 ^ p : Nat) / ((i + 1 : Nat) : Int))
/-- e^(x / 2^p) in units of 2^−p, for |x| up to a few times 2^p. -/
def expFix (p : Nat) (x : Int) : Int := expSum p x 80 0 (2 ^ p : Nat)

/-! ### Curves (R130) -/

/-- The greatest T in [lo, lo + 2^k − 1] with f T ≤ r, for f rising. -/
def bisect (f : Int → Int) (r : Int) : Nat → Int → Int
  | 0, lo => lo
  | k + 1, lo => let t := lo + (2 ^ k : Nat); bisect f r k (if f t ≤ r then t else lo)

/-- R in Ω of a PT1000 at T / 65536 °C, times 10^12 × 65536^4. -/
def pt1000 (t : Int) : Int :=
  let o : Int := 65536
  let quad := 10 ^ 15 * o ^ 4 + 39083 * 10 ^ 8 * t * o ^ 3 - 5775 * 10 ^ 5 * t ^ 2 * o ^ 2
  if t < 0 then quad - 4183 * (t - 100 * o) * t ^ 3 else quad
/-- R in Ω of an NI1000 at T / 65536 °C, times 10^17 × 65536^6. -/
def ni1000 (t : Int) : Int :=
  let o : Int := 65536
  10 ^ 20 * o ^ 6 + 5485 * 10 ^ 14 * t * o ^ 5 + 6650 * 10 ^ 11 * t ^ 2 * o ^ 4 + 2805 * 10 ^ 6 * t ^ 4 * o ^ 2 - 2000 * t ^ 6

/-- Temperature, Q16.16 °C, of a resistance in kΩ Q16.16 on a curve with its range and scale; `none` outside it. -/
def curveTemp (f : Int → Int) (scale lo hi q : Int) : Option Int :=
  let r := q * 1000 * scale
  let g (t : Int) : Int := f t * 65536
  if r < g (lo * 65536) || g (hi * 65536) < r then none
  else some (min (hi * 65536) (bisect g r 27 (lo * 65536)))
def pt1000Temp (q : Int) : Option Int := curveTemp pt1000 (10 ^ 12 * 65536 ^ 4) (-200) 850 q
def ni1000Temp (q : Int) : Option Int := curveTemp ni1000 (10 ^ 17 * 65536 ^ 6) (-60) 250 q

/-- R130's Steinhart–Hart in °C, Q16.16, of a resistance in kΩ Q16.16; `none` where R131 makes the sample faulty. -/
def steinhart (k0 k1 k2 : Nat) (q : Int) : Option Int :=
  if q ≤ 0 || !f32Finite k0 || !f32Finite k1 || !f32Finite k2 then none else
  let p := 256
  let l := lnFix p (q.toNat * 1000) 65536
  let inv : Int := f32Int k0 * (2 ^ (3 * p) : Nat) + f32Int k1 * l * (2 ^ (2 * p) : Nat) + f32Int k2 * l ^ 3
  if inv ≤ 0 then none
  else
    let one : Int := (f32One * 2 ^ (3 * p) : Nat)
    some (divHalfUp (one * 6553600 - 27315 * 65536 * inv) (100 * inv))

/-- Linear between points, the end value beyond them, rounded to nearest. -/
def pwl : List (Int × Int) → Int → Int
  | [], _ => 0
  | [(_, y)], _ => y
  | (x0, y0) :: (x1, y1) :: t, q =>
    if q ≤ x0 then y0
    else if q ≤ x1 then y0 + divHalfUp ((y1 - y0) * (q - x0)) (x1 - x0)
    else pwl ((x1, y1) :: t) q
/-- X values strictly rising. -/
def curveRising : List (Int × Int) → Bool
  | (x0, _) :: (x1, y1) :: t => decide (x0 < x1) && curveRising ((x1, y1) :: t)
  | _ => true

/-- The CRC of a Modbus RTU frame, sent low byte first (R136, R141). -/
def crcModbusBit (c : BitVec 16) : BitVec 16 := if c.getLsbD 0 then (c >>> 1) ^^^ 0xA001#16 else c >>> 1
def crcModbusBits : Nat → BitVec 16 → BitVec 16
  | 0, c => c
  | n + 1, c => crcModbusBits n (crcModbusBit c)
def crcModbus (bs : List Byte) : Nat :=
  (bs.foldl (fun c b => crcModbusBits 8 (c ^^^ b.setWidth 16)) 0xFFFF#16).toNat

end Sys2Proof.Machine
end

