-- ==== Sys2Proof/Config.lean ====
section
/-! DEFINITION. What the spec leaves open and the machine still produces: free values. Each is an opaque constant with no
body, so no proof can learn what it is; it is applied to the operands it depends on, or to the counter `State.fresh` for a
value that nothing determines. Log entries name them one by one. -/
set_option Elab.async false
namespace Sys2Proof.Config

/-- A free number for the use named by the first argument, at the count given by the second (log entry 10). -/
opaque freeNat : Nat → Nat → Nat
/-- A free signed number for the use named by the first argument, from the operands given (log entry 10). -/
opaque freeInt : Nat → List Int → Int
/-- A free truth value for the use named by the first argument, at the count given by the second (log entry 10). -/
opaque freeBool : Nat → Nat → Bool

end Sys2Proof.Config
end

