-- ==== Sys2Proof/Machine/Regs.lean ====
section
/-! DEFINITION. The register space of the ZX96: the address of every register, the place of every field, and one
description row per register (R3, R41–R49 and the register tables of every chapter of spec/). Field constants are named
f<Block><Register><Field>, register addresses r<Block><Register>; an instance register takes its instance number. -/
set_option Elab.async false
namespace Sys2Proof.Machine

/-- A bit field of a register: the register's host address, its least significant bit and its width. -/
structure Field where
  addr : Nat
  lsb : Nat
  width : Nat
deriving DecidableEq, Repr

/-- Instance bases (R43) and the instance formulas of the block chapters. -/
def uchBase (n : Nat) : Nat := 0x08000 + 0x1000 * (n / 24) + 0x100 + 0x80 * (n % 24)
def zoneBase (n : Nat) : Nat := 0x20000 + 0x1000 * (n / 6) + 0x100 + 0x200 * (n % 6)
def loopBase (n : Nat) : Nat := 0x40000 + 0x1000 * (n / 16) + 0x100 + 0x80 * (n % 16)
def fanBase (n : Nat) : Nat := 0x62000 + 0x1000 * (n / 8) + 0x100 + 0x180 * (n % 8)
/-- The drive block of governor `n` (chapter *Fan governors*). -/
def drvBase (n : Nat) : Nat := 0x62000 + 0x1000 * (n / 8) + 0xD00 + 0x60 * (n % 8)
/-- The registers of fen `n` (R165). -/
def fenBase (n : Nat) : Nat := 0x20000 + 0x1000 * (n / 2) + 0xD00 + 0x100 * (n % 2)
/-- The sensing context of channel `n`. -/
def senseBase (n : Nat) : Nat := 0x18100 + 0x20 * n
/-- The presence context of zone `n`. -/
def presBase (n : Nat) : Nat := 0x1D100 + 0x20 * n
/-- The thermal-model context of zone `n`. -/
def tmeBase (n : Nat) : Nat := 0x60100 + 0x20 * n
/-- Channel registers of slot `n` of core `c`. -/
def convSlotBase (c n : Nat) : Nat := 0x10000 + 0x1000 * c + 0x100 + 0x10 * n

/-! The common registers of page `p` (R49). -/
def rBlkId (p : Nat) : Nat := 0x1000 * p
def rBlkCtrl (p : Nat) : Nat := 0x1000 * p + 0x004
def rBlkStat (p : Nat) : Nat := 0x1000 * p + 0x008
def rIrqStat (p : Nat) : Nat := 0x1000 * p + 0x00C
def rIrqEn (p : Nat) : Nat := 0x1000 * p + 0x010
def rIrqTest (p : Nat) : Nat := 0x1000 * p + 0x014
def rLock (p : Nat) : Nat := 0x1000 * p + 0x018
def rBlkErr (p : Nat) : Nat := 0x1000 * p + 0x01C
def fBlkEn (p : Nat) : Field := ⟨rBlkCtrl p, 0, 1⟩
def fBlkGateReq (p : Nat) : Field := ⟨rBlkCtrl p, 2, 1⟩
def fBlkFreeze (p : Nat) : Field := ⟨rBlkCtrl p, 3, 1⟩
def fBlkEnAck (p : Nat) : Field := ⟨rBlkStat p, 0, 1⟩
def fBlkGated (p : Nat) : Field := ⟨rBlkStat p, 1, 1⟩
def fBlkBusy (p : Nat) : Field := ⟨rBlkStat p, 2, 1⟩
def fBlkFault (p : Nat) : Field := ⟨rBlkStat p, 3, 1⟩
def fBlkState (p : Nat) : Field := ⟨rBlkStat p, 4, 4⟩

/-! The block registers, chapter by chapter. -/
def rSysIrqSum : Nat := 0x00020
def fSysIrqSumNme : Field := ⟨rSysIrqSum, 31, 1⟩
def fSysIrqSumBlocks : Field := ⟨rSysIrqSum, 0, 27⟩
def rSysNmeStat : Nat := 0x00024
def fSysNmeStatSramUncorr : Field := ⟨rSysNmeStat, 4, 1⟩
def fSysNmeStatLathMiss : Field := ⟨rSysNmeStat, 3, 1⟩
def fSysNmeStatTjCrit : Field := ⟨rSysNmeStat, 2, 1⟩
def fSysNmeStatPfw : Field := ⟨rSysNmeStat, 1, 1⟩
def fSysNmeStatClkfail : Field := ⟨rSysNmeStat, 0, 1⟩
def rSysRstCause : Nat := 0x00028
def fSysRstCauseCause : Field := ⟨rSysRstCause, 0, 4⟩
def rSysRstCmd : Nat := 0x0002C
def fSysRstCmdKey : Field := ⟨rSysRstCmd, 0, 32⟩
def rSysUidLo : Nat := 0x00030
def fSysUidLoUid : Field := ⟨rSysUidLo, 0, 32⟩
def rSysUidHi : Nat := 0x00034
def fSysUidHiUid : Field := ⟨rSysUidHi, 0, 32⟩
def rSysStraps : Nat := 0x00038
def fSysStrapsBootSafeN : Field := ⟨rSysStraps, 3, 1⟩
def fSysStrapsWpN : Field := ⟨rSysStraps, 2, 1⟩
def fSysStrapsServiceN : Field := ⟨rSysStraps, 1, 1⟩
def fSysStrapsCoreSrc : Field := ⟨rSysStraps, 0, 1⟩
def rPwrCfg : Nat := 0x01020
def fPwrCfgRestoreT : Field := ⟨rPwrCfg, 24, 8⟩
def fPwrCfgHyst : Field := ⟨rPwrCfg, 16, 8⟩
def fPwrCfgLimit : Field := ⟨rPwrCfg, 0, 7⟩
def rPwrStat : Nat := 0x01024
def fPwrStatExtCore : Field := ⟨rPwrStat, 31, 1⟩
def fPwrStatPfw : Field := ⟨rPwrStat, 30, 1⟩
def fPwrStatDerating : Field := ⟨rPwrStat, 29, 1⟩
def fPwrStatShedding : Field := ⟨rPwrStat, 28, 1⟩
def fPwrStatExhausted : Field := ⟨rPwrStat, 27, 1⟩
def fPwrStatVhostOk : Field := ⟨rPwrStat, 26, 1⟩
def fPwrStatOpMax : Field := ⟨rPwrStat, 24, 2⟩
def fPwrStatNStepped : Field := ⟨rPwrStat, 16, 8⟩
def rPwrPEst : Nat := 0x01028
def fPwrPEstPeak : Field := ⟨rPwrPEst, 16, 16⟩
def fPwrPEstMw : Field := ⟨rPwrPEst, 0, 16⟩
def rPwrPLim : Nat := 0x0102C
def fPwrPLimMw : Field := ⟨rPwrPLim, 0, 16⟩
def rPwrPPart0 : Nat := 0x01030
def fPwrPPart0Bias : Field := ⟨rPwrPPart0, 16, 16⟩
def fPwrPPart0Core : Field := ⟨rPwrPPart0, 0, 16⟩
def rPwrPPart1 : Nat := 0x01034
def fPwrPPart1Switch : Field := ⟨rPwrPPart1, 16, 16⟩
def fPwrPPart1Source : Field := ⟨rPwrPPart1, 0, 16⟩
def rPwrTj : Nat := 0x01038
def fPwrTjValue : Field := ⟨rPwrTj, 0, 32⟩
def rPwrVcore : Nat := 0x0103C
def fPwrVcoreXReset : Field := ⟨rPwrVcore, 16, 16⟩
def fPwrVcoreMv : Field := ⟨rPwrVcore, 0, 16⟩
def rPwrDipCnt : Nat := 0x01040
def fPwrDipCntCount : Field := ⟨rPwrDipCnt, 0, 16⟩
def rPwrRstInfo : Nat := 0x01044
def fPwrRstInfoCoreUv : Field := ⟨rPwrRstInfo, 1, 1⟩
def fPwrRstInfoVfieldBor : Field := ⟨rPwrRstInfo, 0, 1⟩
def rPwrShed (i : Nat) : Nat := 0x01048 + 4 * i
def fPwrShedCh (i : Nat) : Field := ⟨rPwrShed i, 0, 32⟩
def rPwrStepSel : Nat := 0x01054
def fPwrStepSelCh : Field := ⟨rPwrStepSel, 0, 7⟩
def rPwrStepView : Nat := 0x01058
def fPwrStepViewSaved : Field := ⟨rPwrStepView, 16, 16⟩
def fPwrStepViewRank : Field := ⟨rPwrStepView, 8, 8⟩
def fPwrStepViewStep : Field := ⟨rPwrStepView, 0, 3⟩
def rPwrRailFlt : Nat := 0x0105C
def fPwrRailFltVhostLow : Field := ⟨rPwrRailFlt, 4, 1⟩
def fPwrRailFltVioLow : Field := ⟨rPwrRailFlt, 3, 1⟩
def fPwrRailFltArail : Field := ⟨rPwrRailFlt, 2, 1⟩
def fPwrRailFltVfieldHigh : Field := ⟨rPwrRailFlt, 1, 1⟩
def fPwrRailFltVfieldLow : Field := ⟨rPwrRailFlt, 0, 1⟩
def rClkCtrl : Nat := 0x02020
def fClkCtrlReturn : Field := ⟨rClkCtrl, 3, 1⟩
def fClkCtrlExtrefEn : Field := ⟨rClkCtrl, 2, 1⟩
def fClkCtrlAutoRet : Field := ⟨rClkCtrl, 1, 1⟩
def fClkCtrlMonMode : Field := ⟨rClkCtrl, 0, 1⟩
def rClkStat : Nat := 0x02024
def fClkStatSafeRosc : Field := ⟨rClkStat, 31, 1⟩
def fClkStatLock : Field := ⟨rClkStat, 30, 1⟩
def fClkStatCoast : Field := ⟨rClkStat, 29, 1⟩
def fClkStatMoscOk : Field := ⟨rClkStat, 27, 1⟩
def fClkStatHrcOk : Field := ⟨rClkStat, 26, 1⟩
def fClkStatLxoOk : Field := ⟨rClkStat, 25, 1⟩
def fClkStatExtrefOk : Field := ⟨rClkStat, 24, 1⟩
def fClkStatCoreDiv : Field := ⟨rClkStat, 16, 2⟩
def fClkStatTrimSrc : Field := ⟨rClkStat, 8, 2⟩
def fClkStatTbSrc : Field := ⟨rClkStat, 4, 2⟩
def fClkStatAonSrc : Field := ⟨rClkStat, 3, 1⟩
def fClkStatRef : Field := ⟨rClkStat, 0, 2⟩
def rClkTbLo : Nat := 0x02028
def fClkTbLoUs : Field := ⟨rClkTbLo, 0, 32⟩
def rClkTbHi : Nat := 0x0202C
def fClkTbHiUs : Field := ⟨rClkTbHi, 0, 32⟩
def rClkTbRate : Nat := 0x02030
def fClkTbRatePpb : Field := ⟨rClkTbRate, 0, 32⟩
def rClkTrim : Nat := 0x02034
def fClkTrimSteps : Field := ⟨rClkTrim, 0, 16⟩
def rClkExtref : Nat := 0x02038
def fClkExtrefFreq : Field := ⟨rClkExtref, 0, 16⟩
def rClkMonMosc : Nat := 0x0203C
def fClkMonMoscDev : Field := ⟨rClkMonMosc, 0, 16⟩
def rClkMonLxo : Nat := 0x02040
def fClkMonLxoDev : Field := ⟨rClkMonLxo, 0, 16⟩
def rClkMonHrc : Nat := 0x02044
def fClkMonHrcDev : Field := ⟨rClkMonHrc, 0, 16⟩
def rClkEvtCnt : Nat := 0x02048
def fClkEvtCntMosc : Field := ⟨rClkEvtCnt, 24, 8⟩
def fClkEvtCntLxo : Field := ⟨rClkEvtCnt, 16, 8⟩
def fClkEvtCntHrc : Field := ⟨rClkEvtCnt, 8, 8⟩
def fClkEvtCntSwitches : Field := ⟨rClkEvtCnt, 0, 8⟩
def rClkQual : Nat := 0x0204C
def fClkQualHrcTries : Field := ⟨rClkQual, 28, 4⟩
def fClkQualMoscUs : Field := ⟨rClkQual, 0, 16⟩
def rLathPeriod : Nat := 0x03020
def fLathPeriodPeriod : Field := ⟨rLathPeriod, 0, 7⟩
def rLathPendPeriod : Nat := 0x03024
def fLathPendPeriodPeriod : Field := ⟨rLathPendPeriod, 0, 7⟩
def rLathStat : Nat := 0x03028
def fLathStatOp : Field := ⟨rLathStat, 8, 2⟩
def fLathStatMissRun : Field := ⟨rLathStat, 4, 2⟩
def fLathStatFailsafe : Field := ⟨rLathStat, 2, 1⟩
def fLathStatSafe : Field := ⟨rLathStat, 1, 1⟩
def fLathStatFsync : Field := ⟨rLathStat, 0, 1⟩
def rLathCtrl : Nat := 0x0302C
def fLathCtrlMissPolicy : Field := ⟨rLathCtrl, 8, 1⟩
def fLathCtrlMissClr : Field := ⟨rLathCtrl, 0, 1⟩
def rLathFrameLo : Nat := 0x03030
def fLathFrameLoFrame : Field := ⟨rLathFrameLo, 0, 32⟩
def rLathFrameHi : Nat := 0x03034
def fLathFrameHiFrame : Field := ⟨rLathFrameHi, 0, 32⟩
def rLathSkimIdx : Nat := 0x03038
def fLathSkimIdxIdx : Field := ⟨rLathSkimIdx, 0, 4⟩
def rLathActCause : Nat := 0x03040
def fLathActCauseCause : Field := ⟨rLathActCause, 0, 4⟩
def rLathActDetail : Nat := 0x03044
def fLathActDetailEngine : Field := ⟨rLathActDetail, 28, 4⟩
def fLathActDetailItem : Field := ⟨rLathActDetail, 0, 16⟩
def rLathRunLath : Nat := 0x03048
def fLathRunLathCycles : Field := ⟨rLathRunLath, 0, 32⟩
def rLathRunSkim : Nat := 0x0304C
def fLathRunSkimCycles : Field := ⟨rLathRunSkim, 0, 32⟩
def rLathChkLath : Nat := 0x03050
def fLathChkLathCycles : Field := ⟨rLathChkLath, 0, 32⟩
def rLathChkSkim : Nat := 0x03054
def fLathChkSkimCycles : Field := ⟨rLathChkSkim, 0, 32⟩
def rLathXlatMax : Nat := 0x03060
def fLathXlatMaxHops : Field := ⟨rLathXlatMax, 16, 5⟩
def fLathXlatMaxFrames : Field := ⟨rLathXlatMax, 0, 4⟩
def rLathMissCnt : Nat := 0x03064
def fLathMissCntCount : Field := ⟨rLathMissCnt, 0, 32⟩
def rLathMissEngine : Nat := 0x03068
def fLathMissEngineRate : Field := ⟨rLathMissEngine, 4, 1⟩
def fLathMissEngineEngine : Field := ⟨rLathMissEngine, 0, 4⟩
def rLathRealignCnt : Nat := 0x0306C
def fLathRealignCntCount : Field := ⟨rLathRealignCnt, 0, 16⟩
def rLathPeakLath : Nat := 0x03070
def fLathPeakLathCycles : Field := ⟨rLathPeakLath, 0, 32⟩
def rLathPeakSkim : Nat := 0x03074
def fLathPeakSkimCycles : Field := ⟨rLathPeakSkim, 0, 32⟩
def rHostCfg : Nat := 0x04020
def fHostCfgCrcEn : Field := ⟨rHostCfg, 0, 1⟩
def rHostTrust : Nat := 0x04024
def fHostTrustSiteKey : Field := ⟨rHostTrust, 1, 1⟩
def fHostTrustMode : Field := ⟨rHostTrust, 0, 1⟩
def rHostLastErr : Nat := 0x04028
def fHostLastErrResp : Field := ⟨rHostLastErr, 28, 4⟩
def fHostLastErrAddr : Field := ⟨rHostLastErr, 0, 24⟩
def rHostCrcErrCnt : Nat := 0x0402C
def fHostCrcErrCntCount : Field := ⟨rHostCrcErrCnt, 0, 16⟩
def rHostXactCnt : Nat := 0x04030
def fHostXactCntCount : Field := ⟨rHostXactCnt, 0, 32⟩
def rUchBudget (p : Nat) : Nat := 0x08020 + 0x1000 * p
def fUchBudgetLswHi (p : Nat) : Field := ⟨rUchBudget p, 24, 8⟩
def fUchBudgetRailMa (p : Nat) : Field := ⟨rUchBudget p, 8, 16⟩
def fUchBudgetAoiUsed (p : Nat) : Field := ⟨rUchBudget p, 0, 4⟩
def rUchCfg (n : Nat) : Nat := uchBase n + 0x00
def fUchCfgLoopChk (n : Nat) : Field := ⟨rUchCfg n, 15, 1⟩
def fUchCfgOvAuto (n : Nat) : Field := ⟨rUchCfg n, 14, 1⟩
def fUchCfgFsAct (n : Nat) : Field := ⟨rUchCfg n, 12, 2⟩
def fUchCfgRate (n : Nat) : Field := ⟨rUchCfg n, 8, 2⟩
def fUchCfgSkim (n : Nat) : Field := ⟨rUchCfg n, 7, 1⟩
def fUchCfgMode (n : Nat) : Field := ⟨rUchCfg n, 0, 4⟩
def rUchParam (n : Nat) : Nat := uchBase n + 0x04
def fUchParamDeb (n : Nat) : Field := ⟨rUchParam n, 16, 8⟩
def fUchParamFreq (n : Nat) : Field := ⟨rUchParam n, 0, 16⟩
def rUchInit (n : Nat) : Nat := uchBase n + 0x08
def fUchInitValue (n : Nat) : Field := ⟨rUchInit n, 0, 32⟩
def rUchFsVal (n : Nat) : Nat := uchBase n + 0x0C
def fUchFsValValue (n : Nat) : Field := ⟨rUchFsVal n, 0, 32⟩
def rUchShed (n : Nat) : Nat := uchBase n + 0x10
def fUchShedShedRank (n : Nat) : Field := ⟨rUchShed n, 0, 8⟩
def rUchLead (n : Nat) : Nat := uchBase n + 0x14
def fUchLeadLeadR (n : Nat) : Field := ⟨rUchLead n, 0, 16⟩
def rUchStat (n : Nat) : Nat := uchBase n + 0x18
def fUchStatHizProt (n : Nat) : Field := ⟨rUchStat n, 31, 1⟩
def fUchStatWinLvl (n : Nat) : Field := ⟨rUchStat n, 28, 3⟩
def fUchStatEmpty (n : Nat) : Field := ⟨rUchStat n, 27, 1⟩
def fUchStatClamp (n : Nat) : Field := ⟨rUchStat n, 26, 1⟩
def fUchStatGap (n : Nat) : Field := ⟨rUchStat n, 25, 1⟩
def fUchStatDiState (n : Nat) : Field := ⟨rUchStat n, 24, 1⟩
def fUchStatFaults (n : Nat) : Field := ⟨rUchStat n, 8, 8⟩
def fUchStatStreak (n : Nat) : Field := ⟨rUchStat n, 6, 2⟩
def fUchStatEvents (n : Nat) : Field := ⟨rUchStat n, 4, 2⟩
def fUchStatEffMode (n : Nat) : Field := ⟨rUchStat n, 0, 4⟩
def rUchFltClr (n : Nat) : Nat := uchBase n + 0x1C
def fUchFltClrLswOt (n : Nat) : Field := ⟨rUchFltClr n, 7, 1⟩
def fUchFltClrLswSc (n : Nat) : Field := ⟨rUchFltClr n, 6, 1⟩
def fUchFltClrRdbk (n : Nat) : Field := ⟨rUchFltClr n, 5, 1⟩
def fUchFltClrOvv (n : Nat) : Field := ⟨rUchFltClr n, 3, 1⟩
def rUchOut (n : Nat) : Nat := uchBase n + 0x20
def fUchOutValue (n : Nat) : Field := ⟨rUchOut n, 0, 32⟩
def rUchRdbk (n : Nat) : Nat := uchBase n + 0x24
def fUchRdbkValue (n : Nat) : Field := ⟨rUchRdbk n, 0, 32⟩
def rUchCnt (n : Nat) : Nat := uchBase n + 0x28
def fUchCntValue (n : Nat) : Field := ⟨rUchCnt n, 0, 32⟩
def rUchPeriod (n : Nat) : Nat := uchBase n + 0x2C
def fUchPeriodValue (n : Nat) : Field := ⟨rUchPeriod n, 0, 32⟩
def rUchPri0 (n : Nat) : Nat := uchBase n + 0x30
def fUchPri0Value (n : Nat) : Field := ⟨rUchPri0 n, 0, 32⟩
def rUchPri (n k : Nat) : Nat := uchBase n + 0x34 + 4 * k
def fUchPriValue (n k : Nat) : Field := ⟨rUchPri n k, 0, 32⟩
def rUchPriMask (n : Nat) : Nat := uchBase n + 0x50
def fUchPriMaskHeld (n : Nat) : Field := ⟨rUchPriMask n, 0, 8⟩
def rUchPriRel (n : Nat) : Nat := uchBase n + 0x54
def fUchPriRelRel (n : Nat) : Field := ⟨rUchPriRel n, 1, 7⟩
def rConvSluice (c : Nat) : Nat := 0x10020 + 0x1000 * c
def fConvSluiceReq (c : Nat) : Field := ⟨rConvSluice c, 8, 1⟩
def fConvSluiceSlot (c : Nat) : Field := ⟨rConvSluice c, 0, 4⟩
def rConvSluiceStat (c : Nat) : Nat := 0x10024 + 0x1000 * c
def fConvSluiceStatQdepth (c : Nat) : Field := ⟨rConvSluiceStat c, 8, 3⟩
def fConvSluiceStatCredit (c : Nat) : Field := ⟨rConvSluiceStat c, 4, 1⟩
def fConvSluiceStatSeq (c : Nat) : Field := ⟨rConvSluiceStat c, 0, 4⟩
def rConvSluiceLo (c : Nat) : Nat := 0x10028 + 0x1000 * c
def fConvSluiceLoResult (c : Nat) : Field := ⟨rConvSluiceLo c, 0, 32⟩
def rConvSluiceHi (c : Nat) : Nat := 0x1002C + 0x1000 * c
def fConvSluiceHiResult (c : Nat) : Field := ⟨rConvSluiceHi c, 0, 32⟩
def rConvSluiceTag (c : Nat) : Nat := 0x10030 + 0x1000 * c
def fConvSluiceTagSeq (c : Nat) : Field := ⟨rConvSluiceTag c, 28, 4⟩
def fConvSluiceTagDsc (c : Nat) : Field := ⟨rConvSluiceTag c, 8, 1⟩
def fConvSluiceTagReq (c : Nat) : Field := ⟨rConvSluiceTag c, 4, 2⟩
def fConvSluiceTagSlot (c : Nat) : Field := ⟨rConvSluiceTag c, 0, 4⟩
def rConvRound (c : Nat) : Nat := 0x10034 + 0x1000 * c
def fConvRoundMax (c : Nat) : Field := ⟨rConvRound c, 8, 8⟩
def fConvRoundLast (c : Nat) : Field := ⟨rConvRound c, 0, 8⟩
def rConvOvrMask (c : Nat) : Nat := 0x10038 + 0x1000 * c
def fConvOvrMaskSlot (c : Nat) : Field := ⟨rConvOvrMask c, 0, 16⟩
def rConvUrgCnt (c : Nat) : Nat := 0x1003C + 0x1000 * c
def fConvUrgCntRefused (c : Nat) : Field := ⟨rConvUrgCnt c, 16, 16⟩
def fConvUrgCntDone (c : Nat) : Field := ⟨rConvUrgCnt c, 0, 16⟩
def rConvRef (c : Nat) : Nat := 0x10040 + 0x1000 * c
def fConvRefMean (c : Nat) : Field := ⟨rConvRef c, 0, 16⟩
def rConvZero (c : Nat) : Nat := 0x10044 + 0x1000 * c
def fConvZeroMean (c : Nat) : Field := ⟨rConvZero c, 0, 16⟩
def rConvTemp (c : Nat) : Nat := 0x10048 + 0x1000 * c
def fConvTempValue (c : Nat) : Field := ⟨rConvTemp c, 0, 32⟩
def rConvSupply (c k : Nat) : Nat := 0x1004C + 0x1000 * c + 4 * k
def fConvSupplyValue (c k : Nat) : Field := ⟨rConvSupply c k, 0, 32⟩
def rConvFault (c : Nat) : Nat := 0x1006C + 0x1000 * c
def fConvFaultStall (c : Nat) : Field := ⟨rConvFault c, 2, 1⟩
def fConvFaultZero (c : Nat) : Field := ⟨rConvFault c, 1, 1⟩
def fConvFaultRef (c : Nat) : Field := ⟨rConvFault c, 0, 1⟩
def rConvResLo (c n : Nat) : Nat := convSlotBase c n + 0x00
def fConvResLoResult (c n : Nat) : Field := ⟨rConvResLo c n, 0, 32⟩
def rConvResHi (c n : Nat) : Nat := convSlotBase c n + 0x04
def fConvResHiResult (c n : Nat) : Field := ⟨rConvResHi c n, 0, 32⟩
def rConvCorOfs (c n : Nat) : Nat := convSlotBase c n + 0x08
def fConvCorOfsSrc (c n : Nat) : Field := ⟨rConvCorOfs c n, 24, 2⟩
def fConvCorOfsOffset (c n : Nat) : Field := ⟨rConvCorOfs c n, 0, 24⟩
def rConvCorGain (c n : Nat) : Nat := convSlotBase c n + 0x0C
def fConvCorGainGain (c n : Nat) : Field := ⟨rConvCorGain c n, 0, 32⟩
def rSenseFaultCnt : Nat := 0x18020
def fSenseFaultCntLast : Field := ⟨rSenseFaultCnt, 16, 7⟩
def fSenseFaultCntCount : Field := ⟨rSenseFaultCnt, 0, 7⟩
def rSenseCurve (c j : Nat) : Nat := 0x18D00 + 128 * c + 4 * j
def fSenseCurveValue (c j : Nat) : Field := ⟨rSenseCurve c j, 0, 32⟩
def rSenseCfg (n : Nat) : Nat := senseBase n + 0x00
def fSenseCfgForce (n : Nat) : Field := ⟨rSenseCfg n, 31, 1⟩
def fSenseCfgEn (n : Nat) : Field := ⟨rSenseCfg n, 30, 1⟩
def fSenseCfgPoint (n : Nat) : Field := ⟨rSenseCfg n, 16, 14⟩
def fSenseCfgXform (n : Nat) : Field := ⟨rSenseCfg n, 12, 4⟩
def fSenseCfgPolicy (n : Nat) : Field := ⟨rSenseCfg n, 10, 2⟩
def rSenseFilt (n : Nat) : Nat := senseBase n + 0x04
def fSenseFiltStatus (n : Nat) : Field := ⟨rSenseFilt n, 28, 4⟩
def fSenseFiltEffPol (n : Nat) : Field := ⟨rSenseFilt n, 26, 2⟩
def fSenseFiltHeld (n : Nat) : Field := ⟨rSenseFilt n, 25, 1⟩
def fSenseFiltCurve (n : Nat) : Field := ⟨rSenseFilt n, 16, 4⟩
def fSenseFiltTau (n : Nat) : Field := ⟨rSenseFilt n, 0, 13⟩
def rSenseK (n i : Nat) : Nat := senseBase n + 0x08 + 4 * i
def fSenseKValue (n i : Nat) : Field := ⟨rSenseK n i, 0, 32⟩
def rSenseSubst (n : Nat) : Nat := senseBase n + 0x14
def fSenseSubstValue (n : Nat) : Field := ⟨rSenseSubst n, 0, 32⟩
def rSenseHiLim (n : Nat) : Nat := senseBase n + 0x18
def fSenseHiLimValue (n : Nat) : Field := ⟨rSenseHiLim n, 0, 32⟩
def rSenseValue (n : Nat) : Nat := senseBase n + 0x1C
def fSenseValueValue (n : Nat) : Field := ⟨rSenseValue n, 0, 32⟩
def rRbusCfg (c : Nat) : Nat := 0x19020 + 0x1000 * c
def fRbusCfgResp (c : Nat) : Field := ⟨rRbusCfg c, 16, 8⟩
def fRbusCfgBaud (c : Nat) : Field := ⟨rRbusCfg c, 13, 3⟩
def fRbusCfgParity (c : Nat) : Field := ⟨rRbusCfg c, 11, 2⟩
def fRbusCfgTerm (c : Nat) : Field := ⟨rRbusCfg c, 9, 1⟩
def fRbusCfgBias (c : Nat) : Field := ⟨rRbusCfg c, 8, 1⟩
def fRbusCfgTimeout (c : Nat) : Field := ⟨rRbusCfg c, 0, 8⟩
def rRbusPlan (c : Nat) : Nat := 0x19024 + 0x1000 * c
def fRbusPlanCycle (c : Nat) : Field := ⟨rRbusPlan c, 16, 16⟩
def fRbusPlanSlow (c : Nat) : Field := ⟨rRbusPlan c, 15, 1⟩
def fRbusPlanXact (c : Nat) : Field := ⟨rRbusPlan c, 0, 10⟩
def rRbusUnitFlt (c : Nat) : Nat := 0x19028 + 0x1000 * c
def fRbusUnitFltSlot (c : Nat) : Field := ⟨rRbusUnitFlt c, 0, 32⟩
def rRbusErrCnt (c : Nat) : Nat := 0x1902C + 0x1000 * c
def fRbusErrCntCrc (c : Nat) : Field := ⟨rRbusErrCnt c, 16, 16⟩
def fRbusErrCntTimeout (c : Nat) : Field := ⟨rRbusErrCnt c, 0, 16⟩
def rRbusExc (c : Nat) : Nat := 0x19030 + 0x1000 * c
def fRbusExcSlot (c : Nat) : Field := ⟨rRbusExc c, 16, 5⟩
def fRbusExcFunc (c : Nat) : Field := ⟨rRbusExc c, 8, 8⟩
def fRbusExcCode (c : Nat) : Field := ⟨rRbusExc c, 0, 8⟩
def rRbusCycle (c : Nat) : Nat := 0x19034 + 0x1000 * c
def fRbusCycleLast (c : Nat) : Field := ⟨rRbusCycle c, 16, 16⟩
def fRbusCycleCount (c : Nat) : Field := ⟨rRbusCycle c, 0, 16⟩
def rRbusUnitCfg (c k : Nat) : Nat := 0x19200 + 0x1000 * c + 8 * k
def fRbusUnitCfgEn (c k : Nat) : Field := ⟨rRbusUnitCfg c k, 31, 1⟩
def fRbusUnitCfgAddr (c k : Nat) : Field := ⟨rRbusUnitCfg c k, 0, 8⟩
def rRbusUnitStat (c k : Nat) : Nat := 0x19204 + 0x1000 * c + 8 * k
def fRbusUnitStatState (c k : Nat) : Field := ⟨rRbusUnitStat c k, 30, 2⟩
def fRbusUnitStatRun (c k : Nat) : Field := ⟨rRbusUnitStat c k, 16, 8⟩
def fRbusUnitStatFails (c k : Nat) : Field := ⟨rRbusUnitStat c k, 0, 16⟩
def rRbusMap0 (c e : Nat) : Nat := 0x19400 + 0x1000 * c + 12 * e
def fRbusMap0En (c e : Nat) : Field := ⟨rRbusMap0 c e, 31, 1⟩
def fRbusMap0Dir (c e : Nat) : Field := ⟨rRbusMap0 c e, 30, 1⟩
def fRbusMap0Fc4 (c e : Nat) : Field := ⟨rRbusMap0 c e, 29, 1⟩
def fRbusMap0Swap (c e : Nat) : Field := ⟨rRbusMap0 c e, 28, 1⟩
def fRbusMap0Type (c e : Nat) : Field := ⟨rRbusMap0 c e, 26, 2⟩
def fRbusMap0Unit (c e : Nat) : Field := ⟨rRbusMap0 c e, 21, 5⟩
def fRbusMap0Exp (c e : Nat) : Field := ⟨rRbusMap0 c e, 16, 5⟩
def fRbusMap0Reg (c e : Nat) : Field := ⟨rRbusMap0 c e, 0, 16⟩
def rRbusMap1 (c e : Nat) : Nat := 0x19404 + 0x1000 * c + 12 * e
def fRbusMap1Point (c e : Nat) : Field := ⟨rRbusMap1 c e, 0, 14⟩
def rRbusMap2 (c e : Nat) : Nat := 0x19408 + 0x1000 * c + 12 * e
def fRbusMap2Ofs (c e : Nat) : Field := ⟨rRbusMap2 c e, 0, 32⟩
def rPresCo2Rise : Nat := 0x1D020
def fPresCo2RiseValue : Field := ⟨rPresCo2Rise, 0, 16⟩
def rPresConfirm : Nat := 0x1D024
def fPresConfirmValue : Field := ⟨rPresConfirm, 0, 16⟩
def rPresChg (i : Nat) : Nat := 0x1D028 + 4 * i
def fPresChgZone (i : Nat) : Field := ⟨rPresChg i, 0, 32⟩
def rPresProfThr (p : Nat) : Nat := 0x1D040 + 8 * p
def fPresProfThrThr (p : Nat) : Field := ⟨rPresProfThr p, 0, 32⟩
def rPresProfNw (p : Nat) : Nat := 0x1D044 + 8 * p
def fPresProfNwW (p : Nat) : Field := ⟨rPresProfNw p, 8, 8⟩
def fPresProfNwN (p : Nat) : Field := ⟨rPresProfNw p, 0, 4⟩
def rPresZcfg (n : Nat) : Nat := presBase n + 0x00
def fPresZcfgStandbyHold (n : Nat) : Field := ⟨rPresZcfg n, 16, 8⟩
def fPresZcfgOccHold (n : Nat) : Field := ⟨rPresZcfg n, 8, 8⟩
def fPresZcfgOvr (n : Nat) : Field := ⟨rPresZcfg n, 0, 2⟩
def rPresZstat (n : Nat) : Nat := presBase n + 0x04
def fPresZstatHoldLeft (n : Nat) : Field := ⟨rPresZstat n, 24, 8⟩
def fPresZstatFlt (n : Nat) : Field := ⟨rPresZstat n, 18, 6⟩
def fPresZstatEvid (n : Nat) : Field := ⟨rPresZstat n, 12, 6⟩
def fPresZstatNosrc (n : Nat) : Field := ⟨rPresZstat n, 3, 1⟩
def fPresZstatOvr (n : Nat) : Field := ⟨rPresZstat n, 2, 1⟩
def fPresZstatOcc (n : Nat) : Field := ⟨rPresZstat n, 0, 2⟩
def rPresSrc (n i : Nat) : Nat := presBase n + 0x08 + 4 * i
def fPresSrcKind (n i : Nat) : Field := ⟨rPresSrc n i, 29, 3⟩
def fPresSrcWeak (n i : Nat) : Field := ⟨rPresSrc n i, 28, 1⟩
def fPresSrcActiveLow (n i : Nat) : Field := ⟨rPresSrc n i, 27, 1⟩
def fPresSrcProfile (n i : Nat) : Field := ⟨rPresSrc n i, 24, 2⟩
def fPresSrcRef (n i : Nat) : Field := ⟨rPresSrc n i, 0, 14⟩
def rZoneSum (p : Nat) : Nat := 0x20020 + 0x1000 * p
def fZoneSumNComfort (p : Nat) : Field := ⟨rZoneSum p, 24, 8⟩
def fZoneSumNPrecomfort (p : Nat) : Field := ⟨rZoneSum p, 16, 8⟩
def fZoneSumNEconomy (p : Nat) : Field := ⟨rZoneSum p, 8, 8⟩
def fZoneSumNProtect (p : Nat) : Field := ⟨rZoneSum p, 0, 8⟩
def rZoneWin (p i : Nat) : Nat := 0x20024 + 0x1000 * p + 4 * i
def fZoneWinZone (p i : Nat) : Field := ⟨rZoneWin p i, 0, 32⟩
def rZoneCfg (n : Nat) : Nat := zoneBase n + 0x00
def fZoneCfgEn (n : Nat) : Field := ⟨rZoneCfg n, 31, 1⟩
def fZoneCfgOccEn (n : Nat) : Field := ⟨rZoneCfg n, 30, 1⟩
def fZoneCfgOccRaise (n : Nat) : Field := ⟨rZoneCfg n, 29, 1⟩
def fZoneCfgUnoccMode (n : Nat) : Field := ⟨rZoneCfg n, 20, 3⟩
def fZoneCfgDefMode (n : Nat) : Field := ⟨rZoneCfg n, 16, 3⟩
def fZoneCfgShiftMax (n : Nat) : Field := ⟨rZoneCfg n, 0, 8⟩
def rZoneTaSrc (n : Nat) : Nat := zoneBase n + 0x04
def fZoneTaSrcShiftEn (n : Nat) : Field := ⟨rZoneTaSrc n, 31, 1⟩
def fZoneTaSrcShiftPt (n : Nat) : Field := ⟨rZoneTaSrc n, 16, 14⟩
def fZoneTaSrcTaPt (n : Nat) : Field := ⟨rZoneTaSrc n, 0, 14⟩
def rZoneWinSrc (n : Nat) : Nat := zoneBase n + 0x08
def fZoneWinSrcWinEn (n : Nat) : Field := ⟨rZoneWinSrc n, 31, 1⟩
def fZoneWinSrcWinInv (n : Nat) : Field := ⟨rZoneWinSrc n, 30, 1⟩
def fZoneWinSrcWinDly (n : Nat) : Field := ⟨rZoneWinSrc n, 16, 10⟩
def fZoneWinSrcWinPt (n : Nat) : Field := ⟨rZoneWinSrc n, 0, 14⟩
def rZonePtBase (n : Nat) : Nat := zoneBase n + 0x0C
def fZonePtBasePub (n : Nat) : Field := ⟨rZonePtBase n, 31, 1⟩
def fZonePtBaseBase (n : Nat) : Field := ⟨rZonePtBase n, 0, 14⟩
def rZoneFens (n : Nat) : Nat := zoneBase n + 0x10
def fZoneFensFen (n : Nat) : Field := ⟨rZoneFens n, 0, 32⟩
def rZoneLoops (n i : Nat) : Nat := zoneBase n + 0x14 + 4 * i
def fZoneLoopsValidH (n i : Nat) : Field := ⟨rZoneLoops n i, 31, 1⟩
def fZoneLoopsRoleH (n i : Nat) : Field := ⟨rZoneLoops n i, 29, 2⟩
def fZoneLoopsLoopH (n i : Nat) : Field := ⟨rZoneLoops n i, 16, 9⟩
def fZoneLoopsValid (n i : Nat) : Field := ⟨rZoneLoops n i, 15, 1⟩
def fZoneLoopsRole (n i : Nat) : Field := ⟨rZoneLoops n i, 13, 2⟩
def fZoneLoopsLoop (n i : Nat) : Field := ⟨rZoneLoops n i, 0, 9⟩
def rZoneSp (n m : Nat) : Nat := zoneBase n + 0x24 + 4 * m
def fZoneSpCool (n m : Nat) : Field := ⟨rZoneSp n m, 16, 16⟩
def fZoneSpHeat (n m : Nat) : Field := ⟨rZoneSp n m, 0, 16⟩
def rZoneModeWr (n : Nat) : Nat := zoneBase n + 0x34
def fZoneModeWrRel (n : Nat) : Field := ⟨rZoneModeWr n, 31, 1⟩
def fZoneModeWrLevel (n : Nat) : Field := ⟨rZoneModeWr n, 8, 3⟩
def fZoneModeWrMode (n : Nat) : Field := ⟨rZoneModeWr n, 0, 3⟩
def rZoneModeArr (n : Nat) : Nat := zoneBase n + 0x38
def fZoneModeArrLvl (n : Nat) : Field := ⟨rZoneModeArr n, 4, 28⟩
def rZoneStat (n : Nat) : Nat := zoneBase n + 0x3C
def fZoneStatShiftFlt (n : Nat) : Field := ⟨rZoneStat n, 29, 1⟩
def fZoneStatWinFlt (n : Nat) : Field := ⟨rZoneStat n, 28, 1⟩
def fZoneStatTaFlt (n : Nat) : Field := ⟨rZoneStat n, 27, 1⟩
def fZoneStatWin (n : Nat) : Field := ⟨rZoneStat n, 25, 2⟩
def fZoneStatOccAdj (n : Nat) : Field := ⟨rZoneStat n, 24, 1⟩
def fZoneStatArbLvl (n : Nat) : Field := ⟨rZoneStat n, 20, 3⟩
def fZoneStatArbMode (n : Nat) : Field := ⟨rZoneStat n, 16, 3⟩
def fZoneStatEffMode (n : Nat) : Field := ⟨rZoneStat n, 8, 3⟩
def fZoneStatOcc (n : Nat) : Field := ⟨rZoneStat n, 0, 2⟩
def rZoneVal (n q : Nat) : Nat := zoneBase n + 0x40 + 4 * q
def fZoneValValue (n q : Nat) : Field := ⟨rZoneVal n q, 0, 32⟩
def rZoneFencfg (n : Nat) : Nat := fenBase n + 0x00
def fZoneFencfgPub (n : Nat) : Field := ⟨rZoneFencfg n, 31, 1⟩
def fZoneFencfgCallThr (n : Nat) : Field := ⟨rZoneFencfg n, 16, 8⟩
def fZoneFencfgPtBase (n : Nat) : Field := ⟨rZoneFencfg n, 0, 14⟩
def rZoneFenmodeWr (n : Nat) : Nat := fenBase n + 0x04
def fZoneFenmodeWrRel (n : Nat) : Field := ⟨rZoneFenmodeWr n, 31, 1⟩
def fZoneFenmodeWrLevel (n : Nat) : Field := ⟨rZoneFenmodeWr n, 8, 3⟩
def fZoneFenmodeWrMode (n : Nat) : Field := ⟨rZoneFenmodeWr n, 0, 3⟩
def rZoneMemb (n i : Nat) : Nat := fenBase n + 0x08 + 4 * i
def fZoneMembZone (n i : Nat) : Field := ⟨rZoneMemb n i, 0, 32⟩
def rZoneCount (n : Nat) : Nat := fenBase n + 0x14
def fZoneCountNCall (n : Nat) : Field := ⟨rZoneCount n, 16, 8⟩
def fZoneCountNOcc (n : Nat) : Field := ⟨rZoneCount n, 8, 8⟩
def fZoneCountNOn (n : Nat) : Field := ⟨rZoneCount n, 0, 8⟩
def rZoneFenval (n q : Nat) : Nat := fenBase n + 0x18 + 4 * q
def fZoneFenvalValue (n q : Nat) : Field := ⟨rZoneFenval n q, 0, 32⟩
def rLoopFlt (p : Nat) : Nat := 0x40020 + 0x1000 * p
def fLoopFltLoop (p : Nat) : Field := ⟨rLoopFlt p, 0, 16⟩
def rLoopCfg (n : Nat) : Nat := loopBase n + 0x00
def fLoopCfgMan (n : Nat) : Field := ⟨rLoopCfg n, 31, 1⟩
def fLoopCfgOnFlt (n : Nat) : Field := ⟨rLoopCfg n, 26, 2⟩
def fLoopCfgDir (n : Nat) : Field := ⟨rLoopCfg n, 25, 1⟩
def fLoopCfgSkim (n : Nat) : Field := ⟨rLoopCfg n, 24, 1⟩
def fLoopCfgType (n : Nat) : Field := ⟨rLoopCfg n, 0, 3⟩
def rLoopSrcA (n : Nat) : Nat := loopBase n + 0x04
def fLoopSrcAWSrc (n : Nat) : Field := ⟨rLoopSrcA n, 16, 16⟩
def fLoopSrcAYSrc (n : Nat) : Field := ⟨rLoopSrcA n, 0, 16⟩
def rLoopSrcB (n : Nat) : Nat := loopBase n + 0x08
def fLoopSrcBFfSrc (n : Nat) : Field := ⟨rLoopSrcB n, 16, 16⟩
def fLoopSrcBEnSrc (n : Nat) : Field := ⟨rLoopSrcB n, 0, 16⟩
def rLoopOutPt (n : Nat) : Nat := loopBase n + 0x0C
def fLoopOutPtPub (n : Nat) : Field := ⟨rLoopOutPt n, 31, 1⟩
def fLoopOutPtPoint (n : Nat) : Field := ⟨rLoopOutPt n, 0, 14⟩
def rLoopBind (n i : Nat) : Nat := loopBase n + 0x10 + 4 * i
def fLoopBindKind (n i : Nat) : Field := ⟨rLoopBind n i, 30, 2⟩
def fLoopBindIndex (n i : Nat) : Field := ⟨rLoopBind n i, 0, 8⟩
def rLoopKp (n : Nat) : Nat := loopBase n + 0x20
def fLoopKpValue (n : Nat) : Field := ⟨rLoopKp n, 0, 32⟩
def rLoopTi (n : Nat) : Nat := loopBase n + 0x24
def fLoopTiValue (n : Nat) : Field := ⟨rLoopTi n, 0, 32⟩
def rLoopTd (n : Nat) : Nat := loopBase n + 0x28
def fLoopTdValue (n : Nat) : Field := ⟨rLoopTd n, 0, 32⟩
def rLoopTt (n : Nat) : Nat := loopBase n + 0x2C
def fLoopTtValue (n : Nat) : Field := ⟨rLoopTt n, 0, 32⟩
def rLoopB (n : Nat) : Nat := loopBase n + 0x30
def fLoopBValue (n : Nat) : Field := ⟨rLoopB n, 0, 32⟩
def rLoopN (n : Nat) : Nat := loopBase n + 0x34
def fLoopNValue (n : Nat) : Field := ⟨rLoopN n, 0, 8⟩
def rLoopOutMin (n : Nat) : Nat := loopBase n + 0x38
def fLoopOutMinValue (n : Nat) : Field := ⟨rLoopOutMin n, 0, 32⟩
def rLoopOutMax (n : Nat) : Nat := loopBase n + 0x3C
def fLoopOutMaxValue (n : Nat) : Field := ⟨rLoopOutMax n, 0, 32⟩
def rLoopWConst (n : Nat) : Nat := loopBase n + 0x40
def fLoopWConstValue (n : Nat) : Field := ⟨rLoopWConst n, 0, 32⟩
def rLoopManVal (n : Nat) : Nat := loopBase n + 0x44
def fLoopManValValue (n : Nat) : Field := ⟨rLoopManVal n, 0, 32⟩
def rLoopAux0 (n : Nat) : Nat := loopBase n + 0x48
def fLoopAux0Value (n : Nat) : Field := ⟨rLoopAux0 n, 0, 32⟩
def rLoopAux (n i : Nat) : Nat := loopBase n + 0x4C + 4 * i
def fLoopAuxValue (n i : Nat) : Field := ⟨rLoopAux n i, 0, 32⟩
def rLoopU (n : Nat) : Nat := loopBase n + 0x58
def fLoopUValue (n : Nat) : Field := ⟨rLoopU n, 0, 32⟩
def rLoopW (n : Nat) : Nat := loopBase n + 0x5C
def fLoopWValue (n : Nat) : Field := ⟨rLoopW n, 0, 32⟩
def rLoopILo (n : Nat) : Nat := loopBase n + 0x60
def fLoopILoValue (n : Nat) : Field := ⟨rLoopILo n, 0, 32⟩
def rLoopIHi (n : Nat) : Nat := loopBase n + 0x64
def fLoopIHiValue (n : Nat) : Field := ⟨rLoopIHi n, 0, 32⟩
def rLoopD (n : Nat) : Nat := loopBase n + 0x68
def fLoopDValue (n : Nat) : Field := ⟨rLoopD n, 0, 32⟩
def rLoopYPrev (n : Nat) : Nat := loopBase n + 0x6C
def fLoopYPrevValue (n : Nat) : Field := ⟨rLoopYPrev n, 0, 32⟩
def rLoopStat (n : Nat) : Nat := loopBase n + 0x70
def fLoopStatStatus (n : Nat) : Field := ⟨rLoopStat n, 28, 4⟩
def fLoopStatState (n : Nat) : Field := ⟨rLoopStat n, 24, 4⟩
def fLoopStatSatHi (n : Nat) : Field := ⟨rLoopStat n, 23, 1⟩
def fLoopStatSatLo (n : Nat) : Field := ⟨rLoopStat n, 22, 1⟩
def fLoopStatReinit (n : Nat) : Field := ⟨rLoopStat n, 21, 1⟩
def fLoopStatCasHold (n : Nat) : Field := ⟨rLoopStat n, 20, 1⟩
def fLoopStatDrive (n : Nat) : Field := ⟨rLoopStat n, 18, 2⟩
def fLoopStatSync (n : Nat) : Field := ⟨rLoopStat n, 17, 1⟩
def fLoopStatS (n : Nat) : Field := ⟨rLoopStat n, 16, 1⟩
def fLoopStatPos (n : Nat) : Field := ⟨rLoopStat n, 0, 9⟩
def rLoopY (n : Nat) : Nat := loopBase n + 0x74
def fLoopYValue (n : Nat) : Field := ⟨rLoopY n, 0, 32⟩
def rTmeCfg : Nat := 0x60020
def fTmeCfgSaveEn : Field := ⟨rTmeCfg, 31, 1⟩
def fTmeCfgSaveHour : Field := ⟨rTmeCfg, 24, 5⟩
def fTmeCfgMinSteps : Field := ⟨rTmeCfg, 16, 8⟩
def fTmeCfgStep : Field := ⟨rTmeCfg, 0, 10⟩
def rTmeLambda : Nat := 0x60024
def fTmeLambdaValue : Field := ⟨rTmeLambda, 0, 32⟩
def rTmeP0 : Nat := 0x60028
def fTmeP0Value : Field := ⟨rTmeP0, 0, 32⟩
def rTmePmax : Nat := 0x6002C
def fTmePmaxValue : Field := ⟨rTmePmax, 0, 32⟩
def rTmeOat : Nat := 0x60030
def fTmeOatHeld : Field := ⟨rTmeOat, 14, 1⟩
def fTmeOatOatPt : Field := ⟨rTmeOat, 0, 14⟩
def rTmeSiteLat : Nat := 0x60034
def fTmeSiteLatValue : Field := ⟨rTmeSiteLat, 0, 32⟩
def rTmeSiteLon : Nat := 0x60038
def fTmeSiteLonValue : Field := ⟨rTmeSiteLon, 0, 32⟩
def rTmeTheta01 : Nat := 0x6003C
def fTmeTheta01Value : Field := ⟨rTmeTheta01, 0, 32⟩
def rTmeTheta02 : Nat := 0x60040
def fTmeTheta02Value : Field := ⟨rTmeTheta02, 0, 32⟩
def rTmeTheta03 : Nat := 0x60044
def fTmeTheta03Value : Field := ⟨rTmeTheta03, 0, 32⟩
def rTmeTheta04 : Nat := 0x60048
def fTmeTheta04Value : Field := ⟨rTmeTheta04, 0, 32⟩
def rTmeTheta05 : Nat := 0x6004C
def fTmeTheta05Value : Field := ⟨rTmeTheta05, 0, 32⟩
def rTmeTheta06 : Nat := 0x60050
def fTmeTheta06Value : Field := ⟨rTmeTheta06, 0, 32⟩
def rTmeFbHeat (j : Nat) : Nat := 0x60060 + 4 * j
def fTmeFbHeatTo (j : Nat) : Field := ⟨rTmeFbHeat j, 16, 16⟩
def fTmeFbHeatMin (j : Nat) : Field := ⟨rTmeFbHeat j, 0, 16⟩
def rTmeFbCool (j : Nat) : Nat := 0x60070 + 4 * j
def fTmeFbCoolTo (j : Nat) : Field := ⟨rTmeFbCool j, 16, 16⟩
def fTmeFbCoolMin (j : Nat) : Field := ⟨rTmeFbCool j, 0, 16⟩
def rTmeCounts : Nat := 0x60080
def fTmeCountsPResets : Field := ⟨rTmeCounts, 16, 16⟩
def fTmeCountsAnoms : Field := ⟨rTmeCounts, 0, 16⟩
def rTmeMcfg (n : Nat) : Nat := tmeBase n + 0x00
def fTmeMcfgEn (n : Nat) : Field := ⟨rTmeMcfg n, 31, 1⟩
def fTmeMcfgCoolOnly (n : Nat) : Field := ⟨rTmeMcfg n, 30, 1⟩
def fTmeMcfgSolSrc (n : Nat) : Field := ⟨rTmeMcfg n, 29, 1⟩
def fTmeMcfgFacade (n : Nat) : Field := ⟨rTmeMcfg n, 0, 16⟩
def rTmePts (n : Nat) : Nat := tmeBase n + 0x04
def fTmePtsLightPt (n : Nat) : Field := ⟨rTmePts n, 16, 14⟩
def fTmePtsPub (n : Nat) : Field := ⟨rTmePts n, 15, 1⟩
def fTmePtsBase (n : Nat) : Field := ⟨rTmePts n, 0, 14⟩
def rTmeLimits (n : Nat) : Nat := tmeBase n + 0x08
def fTmeLimitsAnomMax (n : Nat) : Field := ⟨rTmeLimits n, 24, 8⟩
def fTmeLimitsCoastTol (n : Nat) : Field := ⟨rTmeLimits n, 8, 8⟩
def fTmeLimitsAnomK (n : Nat) : Field := ⟨rTmeLimits n, 0, 8⟩
def rTmeCmd (n : Nat) : Nat := tmeBase n + 0x0C
def fTmeCmdResetTheta (n : Nat) : Field := ⟨rTmeCmd n, 1, 1⟩
def fTmeCmdResetP (n : Nat) : Field := ⟨rTmeCmd n, 0, 1⟩
def rTmeStat (n : Nat) : Nat := tmeBase n + 0x10
def fTmeStatAnom (n : Nat) : Field := ⟨rTmeStat n, 31, 1⟩
def fTmeStatFb (n : Nat) : Field := ⟨rTmeStat n, 30, 1⟩
def fTmeStatLeadSat (n : Nat) : Field := ⟨rTmeStat n, 29, 1⟩
def fTmeStatLeadLatch (n : Nat) : Field := ⟨rTmeStat n, 28, 1⟩
def fTmeStatCoast (n : Nat) : Field := ⟨rTmeStat n, 27, 1⟩
def fTmeStatHist (n : Nat) : Field := ⟨rTmeStat n, 26, 1⟩
def fTmeStatDir (n : Nat) : Field := ⟨rTmeStat n, 24, 2⟩
def fTmeStatConf (n : Nat) : Field := ⟨rTmeStat n, 0, 10⟩
def rTmeLead (n : Nat) : Nat := tmeBase n + 0x14
def fTmeLeadSeconds (n : Nat) : Field := ⟨rTmeLead n, 0, 16⟩
def rTmeCoastT (n : Nat) : Nat := tmeBase n + 0x18
def fTmeCoastTSeconds (n : Nat) : Field := ⟨rTmeCoastT n, 0, 16⟩
def rTmeUpd (n : Nat) : Nat := tmeBase n + 0x1C
def fTmeUpdProj (n : Nat) : Field := ⟨rTmeUpd n, 16, 16⟩
def fTmeUpdUpd (n : Nat) : Field := ⟨rTmeUpd n, 0, 16⟩
def rBlkNetStat : Nat := 0x61020
def fBlkNetStatPendDirty : Field := ⟨rBlkNetStat, 31, 1⟩
def fBlkNetStatCount : Field := ⟨rBlkNetStat, 0, 13⟩
def rBlkCost : Nat := 0x61024
def fBlkCostCycles : Field := ⟨rBlkCost, 0, 32⟩
def rBlkViewSel : Nat := 0x61028
def fBlkViewSelInst : Field := ⟨rBlkViewSel, 0, 12⟩
def rBlkViewOut (o : Nat) : Nat := 0x6102C + 4 * o
def fBlkViewOutValue (o : Nat) : Field := ⟨rBlkViewOut o, 0, 32⟩
def rBlkViewStat : Nat := 0x61034
def fBlkViewStatEn : Field := ⟨rBlkViewStat, 31, 1⟩
def fBlkViewStatType : Field := ⟨rBlkViewStat, 24, 6⟩
def fBlkViewStatSt1 : Field := ⟨rBlkViewStat, 20, 4⟩
def fBlkViewStatSt0 : Field := ⟨rBlkViewStat, 16, 4⟩
def fBlkViewStatPos : Field := ⟨rBlkViewStat, 0, 12⟩
def rBlkViewS (i : Nat) : Nat := 0x61038 + 4 * i
def fBlkViewSState (i : Nat) : Field := ⟨rBlkViewS i, 0, 32⟩
def rBlkParamSel : Nat := 0x61048
def fBlkParamSelWord : Field := ⟨rBlkParamSel, 16, 2⟩
def fBlkParamSelInst : Field := ⟨rBlkParamSel, 0, 12⟩
def rBlkParamVal : Nat := 0x6104C
def fBlkParamValValue : Field := ⟨rBlkParamVal, 0, 32⟩
def rBlkAlm : Nat := 0x61050
def fBlkAlmLast : Field := ⟨rBlkAlm, 16, 12⟩
def fBlkAlmActive : Field := ⟨rBlkAlm, 0, 13⟩
def rBlkSnCnt : Nat := 0x61054
def fBlkSnCntRefused : Field := ⟨rBlkSnCnt, 16, 16⟩
def fBlkSnCntDone : Field := ⟨rBlkSnCnt, 0, 16⟩
def rBlkTbl (t r : Nat) : Nat := 0x61100 + 64 * t + 4 * r
def fBlkTblValid (t r : Nat) : Field := ⟨rBlkTbl t r, 31, 1⟩
def fBlkTblAny (t r : Nat) : Field := ⟨rBlkTbl t r, 27, 1⟩
def fBlkTblFrom (t r : Nat) : Field := ⟨rBlkTbl t r, 24, 3⟩
def fBlkTblCond (t r : Nat) : Field := ⟨rBlkTbl t r, 20, 3⟩
def fBlkTblNeg (t r : Nat) : Field := ⟨rBlkTbl t r, 19, 1⟩
def fBlkTblTo (t r : Nat) : Field := ⟨rBlkTbl t r, 16, 3⟩
def rBlkConst (k : Nat) : Nat := 0x61400 + 4 * k
def fBlkConstValue (k : Nat) : Field := ⟨rBlkConst k, 0, 32⟩
def rBlkCurve (c j : Nat) : Nat := 0x61800 + 128 * c + 4 * j
def fBlkCurveValue (c j : Nat) : Field := ⟨rBlkCurve c j, 0, 32⟩
def rFanCfg (n : Nat) : Nat := fanBase n + 0x00
def fFanCfgEn (n : Nat) : Field := ⟨rFanCfg n, 31, 1⟩
def fFanCfgSkim (n : Nat) : Field := ⟨rFanCfg n, 30, 1⟩
def fFanCfgCl (n : Nat) : Field := ⟨rFanCfg n, 29, 1⟩
def fFanCfgOffAtZero (n : Nat) : Field := ⟨rFanCfg n, 28, 1⟩
def fFanCfgFenEn (n : Nat) : Field := ⟨rFanCfg n, 27, 1⟩
def fFanCfgFen (n : Nat) : Field := ⟨rFanCfg n, 22, 5⟩
def fFanCfgPpr (n : Nat) : Field := ⟨rFanCfg n, 20, 2⟩
def fFanCfgTstart (n : Nat) : Field := ⟨rFanCfg n, 16, 4⟩
def rFanDrv (n : Nat) : Nat := fanBase n + 0x04
def fFanDrvDrvEn (n : Nat) : Field := ⟨rFanDrv n, 31, 1⟩
def fFanDrvTachEn (n : Nat) : Field := ⟨rFanDrv n, 30, 1⟩
def fFanDrvIEn (n : Nat) : Field := ⟨rFanDrv n, 29, 1⟩
def fFanDrvTach (n : Nat) : Field := ⟨rFanDrv n, 16, 7⟩
def fFanDrvDrive (n : Nat) : Field := ⟨rFanDrv n, 0, 7⟩
def rFanDuty (n : Nat) : Nat := fanBase n + 0x08
def fFanDutyMaxDuty (n : Nat) : Field := ⟨rFanDuty n, 16, 16⟩
def fFanDutyMinDuty (n : Nat) : Field := ⟨rFanDuty n, 0, 16⟩
def rFanSpeedCfg (n : Nat) : Nat := fanBase n + 0x0C
def fFanSpeedCfgLoop (n : Nat) : Field := ⟨rFanSpeedCfg n, 16, 9⟩
def fFanSpeedCfgRpmMax (n : Nat) : Field := ⟨rFanSpeedCfg n, 0, 16⟩
def rFanIlim (n : Nat) : Nat := fanBase n + 0x10
def fFanIlimIStall (n : Nat) : Field := ⟨rFanIlim n, 16, 16⟩
def fFanIlimStallPct (n : Nat) : Field := ⟨rFanIlim n, 8, 8⟩
def fFanIlimIMin (n : Nat) : Field := ⟨rFanIlim n, 0, 8⟩
def rFanPtBase (n : Nat) : Nat := fanBase n + 0x14
def fFanPtBasePub (n : Nat) : Field := ⟨rFanPtBase n, 31, 1⟩
def fFanPtBaseBase (n : Nat) : Field := ⟨rFanPtBase n, 0, 14⟩
def rFanPeatA (n : Nat) : Nat := fanBase n + 0x18
def fFanPeatAEn (n : Nat) : Field := ⟨rFanPeatA n, 31, 1⟩
def fFanPeatARun (n : Nat) : Field := ⟨rFanPeatA n, 16, 11⟩
def fFanPeatAStart (n : Nat) : Field := ⟨rFanPeatA n, 0, 11⟩
def rFanPeatB (n : Nat) : Nat := fanBase n + 0x1C
def fFanPeatBEn (n : Nat) : Field := ⟨rFanPeatB n, 31, 1⟩
def fFanPeatBAge (n : Nat) : Field := ⟨rFanPeatB n, 0, 11⟩
def rFanCmd (n : Nat) : Nat := fanBase n + 0x20
def fFanCmdLearnAbort (n : Nat) : Field := ⟨rFanCmd n, 2, 1⟩
def fFanCmdLearn (n : Nat) : Field := ⟨rFanCmd n, 1, 1⟩
def fFanCmdFltClr (n : Nat) : Field := ⟨rFanCmd n, 0, 1⟩
def rFanStat (n : Nat) : Nat := fanBase n + 0x24
def fFanStatState (n : Nat) : Field := ⟨rFanStat n, 28, 4⟩
def fFanStatAttempt (n : Nat) : Field := ⟨rFanStat n, 26, 2⟩
def fFanStatFenRaise (n : Nat) : Field := ⟨rFanStat n, 25, 1⟩
def fFanStatBaseOk (n : Nat) : Field := ⟨rFanStat n, 24, 1⟩
def fFanStatLearnK (n : Nat) : Field := ⟨rFanStat n, 21, 3⟩
def fFanStatAgeLvl (n : Nat) : Field := ⟨rFanStat n, 19, 2⟩
def fFanStatBlockCnt (n : Nat) : Field := ⟨rFanStat n, 0, 16⟩
def rFanDemand (n : Nat) : Nat := fanBase n + 0x28
def fFanDemandValue (n : Nat) : Field := ⟨rFanDemand n, 0, 32⟩
def rFanSpeed (n : Nat) : Nat := fanBase n + 0x2C
def fFanSpeedValue (n : Nat) : Field := ⟨rFanSpeed n, 0, 32⟩
def rFanCurrent (n : Nat) : Nat := fanBase n + 0x30
def fFanCurrentValue (n : Nat) : Field := ⟨rFanCurrent n, 0, 32⟩
def rFanAge (n : Nat) : Nat := fanBase n + 0x34
def fFanAgeValue (n : Nat) : Field := ⟨rFanAge n, 0, 32⟩
def rFanMem (n m : Nat) : Nat := fanBase n + 0x40 + 4 * m
def fFanMemValid (n m : Nat) : Field := ⟨rFanMem n m, 31, 1⟩
def fFanMemPoint (n m : Nat) : Field := ⟨rFanMem n m, 0, 14⟩
def rFanCrv (n m j : Nat) : Nat := fanBase n + 0x80 + 16 * m + 4 * j
def fFanCrvX (n m j : Nat) : Field := ⟨rFanCrv n m j, 16, 16⟩
def fFanCrvY (n m j : Nat) : Field := ⟨rFanCrv n m j, 0, 16⟩
def rFanDrvpri0 (n : Nat) : Nat := drvBase n + 0x00
def fFanDrvpri0Value (n : Nat) : Field := ⟨rFanDrvpri0 n, 0, 32⟩
def rFanDrvpri (n k : Nat) : Nat := drvBase n + 0x04 + 4 * k
def fFanDrvpriValue (n k : Nat) : Field := ⟨rFanDrvpri n k, 0, 32⟩
def rFanDrvpriMask (n : Nat) : Nat := drvBase n + 0x20
def fFanDrvpriMaskHeld (n : Nat) : Field := ⟨rFanDrvpriMask n, 0, 8⟩
def rFanDrvpriRel (n : Nat) : Nat := drvBase n + 0x24
def fFanDrvpriRelRel (n : Nat) : Field := ⟨rFanDrvpriRel n, 1, 7⟩
def fFanDrvpriRelIgn (n : Nat) : Field := ⟨rFanDrvpriRel n, 0, 1⟩
def rFanDrvinit (n : Nat) : Nat := drvBase n + 0x28
def fFanDrvinitValue (n : Nat) : Field := ⟨rFanDrvinit n, 0, 32⟩
def rFanDrvout (n : Nat) : Nat := drvBase n + 0x2C
def fFanDrvoutValue (n : Nat) : Field := ⟨rFanDrvout n, 0, 32⟩
def rFanDrvstat (n : Nat) : Nat := drvBase n + 0x30
def fFanDrvstatChL0 (n : Nat) : Field := ⟨rFanDrvstat n, 4, 1⟩
def fFanDrvstatEmpty (n : Nat) : Field := ⟨rFanDrvstat n, 3, 1⟩
def fFanDrvstatWinLvl (n : Nat) : Field := ⟨rFanDrvstat n, 0, 3⟩
def rCalSecLo : Nat := 0x68020
def fCalSecLoSec : Field := ⟨rCalSecLo, 0, 32⟩
def rCalSecHi : Nat := 0x68024
def fCalSecHiSec : Field := ⟨rCalSecHi, 0, 32⟩
def rCalSetLo : Nat := 0x68028
def fCalSetLoSec : Field := ⟨rCalSetLo, 0, 32⟩
def rCalSetHi : Nat := 0x6802C
def fCalSetHiSec : Field := ⟨rCalSetHi, 0, 32⟩
def rCalStat : Nat := 0x68030
def fCalStatSet : Field := ⟨rCalStat, 31, 1⟩
def fCalStatRange : Field := ⟨rCalStat, 30, 1⟩
def fCalStatDst : Field := ⟨rCalStat, 29, 1⟩
def fCalStatSrc : Field := ⟨rCalStat, 0, 2⟩
def rCalTz : Nat := 0x68034
def fCalTzDstMin : Field := ⟨rCalTz, 16, 8⟩
def fCalTzOffset : Field := ⟨rCalTz, 0, 16⟩
def rCalDstStart : Nat := 0x68038
def fCalDstStartEn : Field := ⟨rCalDstStart, 31, 1⟩
def fCalDstStartMonth : Field := ⟨rCalDstStart, 24, 4⟩
def fCalDstStartWeek : Field := ⟨rCalDstStart, 20, 3⟩
def fCalDstStartWeekday : Field := ⟨rCalDstStart, 16, 3⟩
def fCalDstStartMinute : Field := ⟨rCalDstStart, 0, 11⟩
def rCalDstEnd : Nat := 0x6803C
def fCalDstEndEn : Field := ⟨rCalDstEnd, 31, 1⟩
def fCalDstEndMonth : Field := ⟨rCalDstEnd, 24, 4⟩
def fCalDstEndWeek : Field := ⟨rCalDstEnd, 20, 3⟩
def fCalDstEndWeekday : Field := ⟨rCalDstEnd, 16, 3⟩
def fCalDstEndMinute : Field := ⟨rCalDstEnd, 0, 11⟩
def rCalUtcOfs : Nat := 0x68040
def fCalUtcOfsLeap : Field := ⟨rCalUtcOfs, 0, 16⟩
def rCalLocal (i : Nat) : Nat := 0x68044 + 4 * i
def fCalLocalFields (i : Nat) : Field := ⟨rCalLocal i, 0, 32⟩
def rCalLastStep : Nat := 0x6804C
def fCalLastStepSec : Field := ⟨rCalLastStep, 0, 32⟩
def rSchedCount : Nat := 0x69020
def fSchedCountRun : Field := ⟨rSchedCount, 31, 1⟩
def fSchedCountEntries : Field := ⟨rSchedCount, 16, 13⟩
def fSchedCountExc : Field := ⟨rSchedCount, 0, 10⟩
def rSchedReserve : Nat := 0x69024
def fSchedReserveResE : Field := ⟨rSchedReserve, 16, 13⟩
def fSchedReserveResX : Field := ⟨rSchedReserve, 0, 10⟩
def rSchedApply : Nat := 0x69028
def fSchedApplyGo : Field := ⟨rSchedApply, 0, 1⟩
def rSchedApplyRes : Nat := 0x6902C
def fSchedApplyResPend : Field := ⟨rSchedApplyRes, 31, 1⟩
def fSchedApplyResItem : Field := ⟨rSchedApplyRes, 16, 12⟩
def fSchedApplyResCause : Field := ⟨rSchedApplyRes, 0, 4⟩
def rSchedTrans (i : Nat) : Nat := 0x69030 + 4 * i
def fSchedTransSched (i : Nat) : Field := ⟨rSchedTrans i, 0, 32⟩
def rSchedVal (i : Nat) : Nat := 0x69100 + 8 * i
def fSchedValValue (i : Nat) : Field := ⟨rSchedVal i, 0, 32⟩
def rSchedNxt (i : Nat) : Nat := 0x69104 + 8 * i
def fSchedNxtRel (i : Nat) : Field := ⟨rSchedNxt i, 31, 1⟩
def fSchedNxtDef (i : Nat) : Field := ⟨rSchedNxt i, 30, 1⟩
def fSchedNxtDpri (i : Nat) : Field := ⟨rSchedNxt i, 16, 4⟩
def fSchedNxtNextMin (i : Nat) : Field := ⟨rSchedNxt i, 0, 15⟩
def rStoreStatus : Nat := 0x70020
def fStoreStatusRecall : Field := ⟨rStoreStatus, 31, 1⟩
def fStoreStatusBusy : Field := ⟨rStoreStatus, 30, 1⟩
def fStoreStatusReady : Field := ⟨rStoreStatus, 29, 1⟩
def fStoreStatusIdMismatch : Field := ⟨rStoreStatus, 28, 1⟩
def fStoreStatusBpArmed : Field := ⟨rStoreStatus, 27, 1⟩
def fStoreStatusQdepth : Field := ⟨rStoreStatus, 16, 3⟩
def fStoreStatusPage : Field := ⟨rStoreStatus, 0, 10⟩
def rStoreLastRun : Nat := 0x70024
def fStoreLastRunResult : Field := ⟨rStoreLastRun, 28, 4⟩
def fStoreLastRunSrc : Field := ⟨rStoreLastRun, 25, 3⟩
def fStoreLastRunTotal : Field := ⟨rStoreLastRun, 16, 5⟩
def fStoreLastRunDone : Field := ⟨rStoreLastRun, 8, 5⟩
def rStoreLastRunAddr : Nat := 0x70028
def fStoreLastRunAddrAddr : Field := ⟨rStoreLastRunAddr, 0, 18⟩
def rStoreProtect : Nat := 0x7002C
def fStoreProtectBp : Field := ⟨rStoreProtect, 0, 2⟩
def rStoreUnlock : Nat := 0x70030
def fStoreUnlockKey : Field := ⟨rStoreUnlock, 0, 32⟩
def rStoreRunAddr : Nat := 0x70034
def fStoreRunAddrAddr : Field := ⟨rStoreRunAddr, 0, 18⟩
def rStoreRunLen : Nat := 0x70038
def fStoreRunLenLen : Field := ⟨rStoreRunLen, 0, 13⟩
def rStoreRunCtrl : Nat := 0x7003C
def fStoreRunCtrlDiscard : Field := ⟨rStoreRunCtrl, 1, 1⟩
def fStoreRunCtrlGo : Field := ⟨rStoreRunCtrl, 0, 1⟩
def rStoreRunFill : Nat := 0x70040
def fStoreRunFillValue : Field := ⟨rStoreRunFill, 0, 32⟩
def rStoreRunCrc : Nat := 0x70044
def fStoreRunCrcValue : Field := ⟨rStoreRunCrc, 0, 32⟩
def rStoreRunMbx : Nat := 0x70048
def fStoreRunMbxBox : Field := ⟨rStoreRunMbx, 0, 32⟩
def rStoreWear : Nat := 0x7004C
def fStoreWearPage : Field := ⟨rStoreWear, 18, 10⟩
def fStoreWearSeq : Field := ⟨rStoreWear, 0, 18⟩
def rStoreBadCnt : Nat := 0x70050
def fStoreBadCntCount : Field := ⟨rStoreBadCnt, 0, 11⟩
def rStoreRestore : Nat := 0x70054
def fStoreRestoreDone : Field := ⟨rStoreRestore, 31, 1⟩
def fStoreRestoreTrunc : Field := ⟨rStoreRestore, 30, 1⟩
def fStoreRestoreSkip : Field := ⟨rStoreRestore, 16, 14⟩
def fStoreRestoreWords : Field := ⟨rStoreRestore, 0, 16⟩
def rStoreBadPage (i : Nat) : Nat := 0x70080 + 4 * i
def fStoreBadPagePage (i : Nat) : Field := ⟨rStoreBadPage i, 0, 32⟩
def rPeatFlush : Nat := 0x71020
def fPeatFlushMin : Field := ⟨rPeatFlush, 0, 11⟩
def rPeatCtrl : Nat := 0x71024
def fPeatCtrlFlushNow : Field := ⟨rPeatCtrl, 0, 1⟩
def rPeatStat : Nat := 0x71028
def fPeatStatReady : Field := ⟨rPeatStat, 31, 1⟩
def fPeatStatFlushing : Field := ⟨rPeatStat, 30, 1⟩
def fPeatStatPending : Field := ⟨rPeatStat, 16, 12⟩
def fPeatStatLost : Field := ⟨rPeatStat, 0, 12⟩
def rPeatSel : Nat := 0x7102C
def fPeatSelEntry : Field := ⟨rPeatSel, 0, 11⟩
def rPeatValLo : Nat := 0x71030
def fPeatValLoValue : Field := ⟨rPeatValLo, 0, 32⟩
def rPeatValHi : Nat := 0x71034
def fPeatValHiValue : Field := ⟨rPeatValHi, 0, 32⟩
def rPeatEstat : Nat := 0x71038
def fPeatEstatKind : Field := ⟨rPeatEstat, 30, 2⟩
def fPeatEstatLost : Field := ⟨rPeatEstat, 29, 1⟩
def fPeatEstatPfw : Field := ⟨rPeatEstat, 28, 1⟩
def fPeatEstatCell : Field := ⟨rPeatEstat, 24, 4⟩
def fPeatEstatEpoch : Field := ⟨rPeatEstat, 0, 24⟩
def rPeatPresetLo : Nat := 0x7103C
def fPeatPresetLoValue : Field := ⟨rPeatPresetLo, 0, 32⟩
def rPeatPresetHi : Nat := 0x71040
def fPeatPresetHiValue : Field := ⟨rPeatPresetHi, 0, 32⟩
def rPeatLastFlush : Nat := 0x71044
def fPeatLastFlushEntries : Field := ⟨rPeatLastFlush, 16, 16⟩
def fPeatLastFlushMs : Field := ⟨rPeatLastFlush, 0, 16⟩
def rPeatPfw (w : Nat) : Nat := 0x71100 + 4 * w
def fPeatPfwMark (w : Nat) : Field := ⟨rPeatPfw w, 0, 32⟩
def rPeatMap (j : Nat) : Nat := 0x71200 + 4 * j
def fPeatMapEn (j : Nat) : Field := ⟨rPeatMap j, 31, 1⟩
def fPeatMapSrc (j : Nat) : Field := ⟨rPeatMap j, 30, 1⟩
def fPeatMapQty (j : Nat) : Field := ⟨rPeatMap j, 26, 4⟩
def fPeatMapIndex (j : Nat) : Field := ⟨rPeatMap j, 12, 14⟩
def fPeatMapEntry (j : Nat) : Field := ⟨rPeatMap j, 0, 11⟩
def rNstoreStat : Nat := 0x72020
def fNstoreStatSafe : Field := ⟨rNstoreStat, 31, 1⟩
def fNstoreStatSafeWhy : Field := ⟨rNstoreStat, 29, 2⟩
def fNstoreStatLoading : Field := ⟨rNstoreStat, 28, 1⟩
def fNstoreStatActivating : Field := ⟨rNstoreStat, 27, 1⟩
def fNstoreStatActive : Field := ⟨rNstoreStat, 16, 2⟩
def fNstoreStatRestored : Field := ⟨rNstoreStat, 7, 1⟩
def fNstoreStatTried : Field := ⟨rNstoreStat, 4, 2⟩
def rNstoreSlotA : Nat := 0x72024
def fNstoreSlotAValid : Field := ⟨rNstoreSlotA, 31, 1⟩
def fNstoreSlotAActive : Field := ⟨rNstoreSlotA, 30, 1⟩
def fNstoreSlotAAseq : Field := ⟨rNstoreSlotA, 0, 24⟩
def rNstoreGenA : Nat := 0x72028
def fNstoreGenAValue : Field := ⟨rNstoreGenA, 0, 32⟩
def rNstoreSlotB : Nat := 0x7202C
def fNstoreSlotBValid : Field := ⟨rNstoreSlotB, 31, 1⟩
def fNstoreSlotBActive : Field := ⟨rNstoreSlotB, 30, 1⟩
def fNstoreSlotBAseq : Field := ⟨rNstoreSlotB, 0, 24⟩
def rNstoreGenB : Nat := 0x72030
def fNstoreGenBValue : Field := ⟨rNstoreGenB, 0, 32⟩
def rNstoreImgCtrl : Nat := 0x72034
def fNstoreImgCtrlAbort : Field := ⟨rNstoreImgCtrl, 2, 1⟩
def fNstoreImgCtrlClose : Field := ⟨rNstoreImgCtrl, 1, 1⟩
def fNstoreImgCtrlOpen : Field := ⟨rNstoreImgCtrl, 0, 1⟩
def rNstoreImgFill : Nat := 0x72038
def fNstoreImgFillValue : Field := ⟨rNstoreImgFill, 0, 32⟩
def rNstoreImgMbx : Nat := 0x7203C
def fNstoreImgMbxBox : Field := ⟨rNstoreImgMbx, 0, 32⟩
def rNstoreActivate : Nat := 0x72040
def fNstoreActivateSlot : Field := ⟨rNstoreActivate, 8, 1⟩
def fNstoreActivateGo : Field := ⟨rNstoreActivate, 0, 1⟩
def rNstoreActRes : Nat := 0x72044
def fNstoreActResCause : Field := ⟨rNstoreActRes, 28, 4⟩
def fNstoreActResSlot : Field := ⟨rNstoreActRes, 27, 1⟩
def fNstoreActResItem : Field := ⟨rNstoreActRes, 0, 19⟩
def rNstoreCfg : Nat := 0x72048
def fNstoreCfgTrdEn : Field := ⟨rNstoreCfg, 31, 1⟩
def rNstoreTrdOldLo : Nat := 0x72050
def fNstoreTrdOldLoValue : Field := ⟨rNstoreTrdOldLo, 0, 32⟩
def rNstoreTrdOldHi : Nat := 0x72054
def fNstoreTrdOldHiValue : Field := ⟨rNstoreTrdOldHi, 0, 32⟩
def rNstoreTrdRecLo : Nat := 0x72058
def fNstoreTrdRecLoValue : Field := ⟨rNstoreTrdRecLo, 0, 32⟩
def rNstoreTrdRecHi : Nat := 0x7205C
def fNstoreTrdRecHiValue : Field := ⟨rNstoreTrdRecHi, 0, 32⟩
def rNstoreTrdDrop : Nat := 0x72060
def fNstoreTrdDropValue : Field := ⟨rNstoreTrdDrop, 0, 32⟩
def rNstoreAudSeq : Nat := 0x72064
def fNstoreAudSeqValue : Field := ⟨rNstoreAudSeq, 0, 32⟩
def rNstoreEcc : Nat := 0x72068
def fNstoreEccUncorr : Field := ⟨rNstoreEcc, 16, 16⟩
def fNstoreEccSpare : Field := ⟨rNstoreEcc, 0, 16⟩
def rNstoreQryMbx : Nat := 0x7206C
def fNstoreQryMbxBox : Field := ⟨rNstoreQryMbx, 0, 32⟩
def rNstoreQryStat : Nat := 0x72070
def fNstoreQryStatDone : Field := ⟨rNstoreQryStat, 31, 1⟩
def fNstoreQryStatBusy : Field := ⟨rNstoreQryStat, 30, 1⟩
def fNstoreQryStatGap : Field := ⟨rNstoreQryStat, 29, 1⟩
def fNstoreQryStatCount : Field := ⟨rNstoreQryStat, 0, 9⟩
def rNstoreQryNext : Nat := 0x72074
def fNstoreQryNextCancel : Field := ⟨rNstoreQryNext, 1, 1⟩
def fNstoreQryNextNext : Field := ⟨rNstoreQryNext, 0, 1⟩
def rNstoreTrdCls (c : Nat) : Nat := 0x72080 + 8 * c
def fNstoreTrdClsMinInt (c : Nat) : Field := ⟨rNstoreTrdCls c, 16, 16⟩
def fNstoreTrdClsInterval (c : Nat) : Field := ⟨rNstoreTrdCls c, 0, 16⟩
def rNstoreTrdCov (c : Nat) : Nat := 0x72084 + 8 * c
def fNstoreTrdCovValue (c : Nat) : Field := ⟨rNstoreTrdCov c, 0, 32⟩
def rNstoreReply (i : Nat) : Nat := 0x72800 + 4 * i
def fNstoreReplyData (i : Nat) : Field := ⟨rNstoreReply i, 0, 32⟩
def rFabCfg : Nat := 0x78020
def fFabCfgEtype : Field := ⟨rFabCfg, 16, 16⟩
def fFabCfgPrio : Field := ⟨rFabCfg, 0, 8⟩
def rFabAddr : Nat := 0x78024
def fFabAddrValid : Field := ⟨rFabAddr, 31, 1⟩
def fFabAddrReq : Field := ⟨rFabAddr, 30, 1⟩
def fFabAddrConflict : Field := ⟨rFabAddr, 29, 1⟩
def fFabAddrFull : Field := ⟨rFabAddr, 28, 1⟩
def fFabAddrAddr : Field := ⟨rFabAddr, 0, 16⟩
def rFabAddrReq : Nat := 0x78028
def fFabAddrReqGo : Field := ⟨rFabAddrReq, 31, 1⟩
def fFabAddrReqWant : Field := ⟨rFabAddrReq, 0, 16⟩
def rFabStat : Nat := 0x7802C
def fFabStatRoot : Field := ⟨rFabStat, 31, 1⟩
def fFabStatLevel : Field := ⟨rFabStat, 24, 5⟩
def fFabStatDepth : Field := ⟨rFabStat, 16, 5⟩
def fFabStatDevices : Field := ⟨rFabStat, 0, 13⟩
def rFabRootLo : Nat := 0x78030
def fFabRootLoUid : Field := ⟨rFabRootLo, 0, 32⟩
def rFabRootHi : Nat := 0x78034
def fFabRootHiUid : Field := ⟨rFabRootHi, 0, 32⟩
def rFabParent : Nat := 0x78038
def fFabParentValid : Field := ⟨rFabParent, 31, 1⟩
def fFabParentPort : Field := ⟨rFabParent, 16, 2⟩
def fFabParentAddr : Field := ⟨rFabParent, 0, 16⟩
def rFabTimeOfs : Nat := 0x7803C
def fFabTimeOfsOfs : Field := ⟨rFabTimeOfs, 0, 32⟩
def rFabReconv : Nat := 0x78040
def fFabReconvLast : Field := ⟨rFabReconv, 16, 16⟩
def fFabReconvCount : Field := ⟨rFabReconv, 0, 16⟩
def rFabRtSel : Nat := 0x78044
def fFabRtSelKey : Field := ⟨rFabRtSel, 0, 16⟩
def rFabRtEnt : Nat := 0x78048
def fFabRtEntValid : Field := ⟨rFabRtEnt, 31, 1⟩
def fFabRtEntLocal : Field := ⟨rFabRtEnt, 30, 1⟩
def fFabRtEntPorts : Field := ⟨rFabRtEnt, 24, 4⟩
def fFabRtEntHops : Field := ⟨rFabRtEnt, 16, 5⟩
def rFabDrop : Nat := 0x7804C
def fFabDropNoroute : Field := ⟨rFabDrop, 16, 16⟩
def fFabDropTtl : Field := ⟨rFabDrop, 0, 16⟩
def rFabLsdb : Nat := 0x78050
def fFabLsdbCount : Field := ⟨rFabLsdb, 0, 13⟩
def rFabGrp (k : Nat) : Nat := 0x78080 + 4 * k
def fFabGrpEn (k : Nat) : Field := ⟨rFabGrp k, 31, 1⟩
def fFabGrpGroup (k : Nat) : Field := ⟨rFabGrp k, 0, 16⟩
def rFportCfg (c : Nat) : Nat := 0x79020 + 0x1000 * c
def fFportCfgForce (c : Nat) : Field := ⟨rFportCfg c, 9, 1⟩
def fFportCfgAmp24 (c : Nat) : Field := ⟨rFportCfg c, 8, 1⟩
def rFportStat (c : Nat) : Nat := 0x79024 + 0x1000 * c
def fFportStatState (c : Nat) : Field := ⟨rFportStat c, 28, 4⟩
def fFportStatAmp (c : Nat) : Field := ⟨rFportStat c, 27, 1⟩
def fFportStatSqi (c : Nat) : Field := ⟨rFportStat c, 24, 3⟩
def fFportStatNbrPort (c : Nat) : Field := ⟨rFportStat c, 16, 2⟩
def fFportStatNbrAddr (c : Nat) : Field := ⟨rFportStat c, 0, 16⟩
def rFportNbrLo (c : Nat) : Nat := 0x79028 + 0x1000 * c
def fFportNbrLoUid (c : Nat) : Field := ⟨rFportNbrLo c, 0, 32⟩
def rFportNbrHi (c : Nat) : Nat := 0x7902C + 0x1000 * c
def fFportNbrHiUid (c : Nat) : Field := ⟨rFportNbrHi c, 0, 32⟩
def rFportDelay (c : Nat) : Nat := 0x79030 + 0x1000 * c
def fFportDelayNs (c : Nat) : Field := ⟨rFportDelay c, 0, 32⟩
def rFportRx (c : Nat) : Nat := 0x79034 + 0x1000 * c
def fFportRxCount (c : Nat) : Field := ⟨rFportRx c, 0, 32⟩
def rFportTx (c : Nat) : Nat := 0x79038 + 0x1000 * c
def fFportTxCount (c : Nat) : Field := ⟨rFportTx c, 0, 32⟩
def rFportErr (c : Nat) : Nat := 0x7903C + 0x1000 * c
def fFportErrFrame (c : Nat) : Field := ⟨rFportErr c, 16, 16⟩
def fFportErrHelloMiss (c : Nat) : Field := ⟨rFportErr c, 0, 16⟩
def rFportUpcnt (c : Nat) : Nat := 0x79040 + 0x1000 * c
def fFportUpcntCount (c : Nat) : Field := ⟨rFportUpcnt c, 0, 16⟩
def rPdirDirCnt : Nat := 0x7D020
def fPdirDirCntLocal : Field := ⟨rPdirDirCnt, 16, 15⟩
def fPdirDirCntRemote : Field := ⟨rPdirDirCnt, 0, 15⟩
def rPdirDirStat : Nat := 0x7D024
def fPdirDirStatPendDirty : Field := ⟨rPdirDirStat, 31, 1⟩
def fPdirDirStatNotOk : Field := ⟨rPdirDirStat, 0, 15⟩
def rPdirPubCap : Nat := 0x7D028
def fPdirPubCapCap : Field := ⟨rPdirPubCap, 0, 13⟩
def rPdirPubCnt : Nat := 0x7D02C
def fPdirPubCntDeferred : Field := ⟨rPdirPubCnt, 16, 16⟩
def fPdirPubCntLast : Field := ⟨rPdirPubCnt, 0, 13⟩
def rPdirRx : Nat := 0x7D030
def fPdirRxUnit : Field := ⟨rPdirRx, 16, 16⟩
def fPdirRxUnknown : Field := ⟨rPdirRx, 0, 16⟩
def rPdirSubCnt : Nat := 0x7D034
def fPdirSubCntUsed : Field := ⟨rPdirSubCnt, 0, 14⟩
def rPdirSubSel : Nat := 0x7D038
def fPdirSubSelIndex : Field := ⟨rPdirSubSel, 0, 14⟩
def rPdirSubStat : Nat := 0x7D03C
def fPdirSubStatCount : Field := ⟨rPdirSubStat, 28, 4⟩
def rPdirDlvCfg : Nat := 0x7D040
def fPdirDlvCfgIdQuar : Field := ⟨rPdirDlvCfg, 0, 8⟩
def rPdirStrmSel : Nat := 0x7D044
def fPdirStrmSelIndex : Field := ⟨rPdirStrmSel, 0, 10⟩
def rPdirStrmCfg : Nat := 0x7D048
def fPdirStrmCfgEn : Field := ⟨rPdirStrmCfg, 31, 1⟩
def fPdirStrmCfgR : Field := ⟨rPdirStrmCfg, 16, 6⟩
def fPdirStrmCfgDest : Field := ⟨rPdirStrmCfg, 0, 16⟩
def rPdirStrmStat : Nat := 0x7D04C
def fPdirStrmStatState : Field := ⟨rPdirStrmStat, 30, 2⟩
def fPdirStrmStatCause : Field := ⟨rPdirStrmStat, 26, 4⟩
def fPdirStrmStatHops : Field := ⟨rPdirStrmStat, 21, 5⟩
def fPdirStrmStatSlot : Field := ⟨rPdirStrmStat, 16, 2⟩
def fPdirStrmStatPhase : Field := ⟨rPdirStrmStat, 10, 6⟩
def rPdirStrmCnt : Nat := 0x7D050
def fPdirStrmCntAdmitted : Field := ⟨rPdirStrmCnt, 16, 11⟩
def fPdirStrmCntNg : Field := ⟨rPdirStrmCnt, 0, 12⟩
def rPdirTransit : Nat := 0x7D054
def fPdirTransitCount : Field := ⟨rPdirTransit, 0, 12⟩
def rPdirLateDrop : Nat := 0x7D058
def fPdirLateDropCount : Field := ⟨rPdirLateDrop, 0, 32⟩
def rPdirXact : Nat := 0x7D05C
def fPdirXactGiveup : Field := ⟨rPdirXact, 16, 16⟩
def fPdirXactRetries : Field := ⟨rPdirXact, 0, 16⟩
def rPdirLoad (i : Nat) : Nat := 0x7D060 + 4 * i
def fPdirLoadEPeak (i : Nat) : Field := ⟨rPdirLoad i, 16, 8⟩
def fPdirLoadB (i : Nat) : Field := ⟨rPdirLoad i, 8, 8⟩
def fPdirLoadE (i : Nat) : Field := ⟨rPdirLoad i, 0, 8⟩
def rPdirTDrop : Nat := 0x7D070
def fPdirTDropUnres : Field := ⟨rPdirTDrop, 16, 16⟩
def fPdirTDropFull : Field := ⟨rPdirTDrop, 0, 16⟩
def rPdirTid : Nat := 0x7D074
def fPdirTidWaits : Field := ⟨rPdirTid, 16, 16⟩
def fPdirTidOpen : Field := ⟨rPdirTid, 0, 9⟩
def rPdirSubAddr (i : Nat) : Nat := 0x7D080 + 4 * i
def fPdirSubAddrH (i : Nat) : Field := ⟨rPdirSubAddr i, 16, 16⟩
def fPdirSubAddrL (i : Nat) : Field := ⟨rPdirSubAddr i, 0, 16⟩
def rLeveeStat : Nat := 0x80020
def fLeveeStatSiteKey : Field := ⟨rLeveeStat, 31, 1⟩
def fLeveeStatGrace : Field := ⟨rLeveeStat, 30, 1⟩
def fLeveeStatProvOk : Field := ⟨rLeveeStat, 29, 1⟩
def fLeveeStatReserving : Field := ⟨rLeveeStat, 28, 1⟩
def rLeveeKeyId : Nat := 0x80024
def fLeveeKeyIdId : Field := ⟨rLeveeKeyId, 0, 32⟩
def rLeveeCfg : Nat := 0x80028
def fLeveeCfgGrace : Field := ⟨rLeveeCfg, 0, 12⟩
def rLeveeTxLo : Nat := 0x8002C
def fLeveeTxLoValue : Field := ⟨rLeveeTxLo, 0, 32⟩
def rLeveeTxHi : Nat := 0x80030
def fLeveeTxHiValue : Field := ⟨rLeveeTxHi, 0, 32⟩
def rLeveeTopLo : Nat := 0x80034
def fLeveeTopLoValue : Field := ⟨rLeveeTopLo, 0, 32⟩
def rLeveeTopHi : Nat := 0x80038
def fLeveeTopHiValue : Field := ⟨rLeveeTopHi, 0, 32⟩
def rLeveeKeyIn (i : Nat) : Nat := 0x80040 + 4 * i
def fLeveeKeyInKey (i : Nat) : Field := ⟨rLeveeKeyIn i, 0, 32⟩
def rLeveeKeyCmd : Nat := 0x80050
def fLeveeKeyCmdProvision : Field := ⟨rLeveeKeyCmd, 0, 1⟩
def rLeveeCmdRes : Nat := 0x80054
def fLeveeCmdResResult : Field := ⟨rLeveeCmdRes, 28, 4⟩
def fLeveeCmdResCause : Field := ⟨rLeveeCmdRes, 24, 4⟩
def fLeveeCmdResOp : Field := ⟨rLeveeCmdRes, 16, 8⟩
def fLeveeCmdResItem : Field := ⟨rLeveeCmdRes, 0, 6⟩
def rLeveeCmdEchoLo : Nat := 0x80058
def fLeveeCmdEchoLoValue : Field := ⟨rLeveeCmdEchoLo, 0, 32⟩
def rLeveeCmdEchoHi : Nat := 0x8005C
def fLeveeCmdEchoHiValue : Field := ⟨rLeveeCmdEchoHi, 0, 32⟩
def rLeveeCmdMbx : Nat := 0x80060
def fLeveeCmdMbxBox : Field := ⟨rLeveeCmdMbx, 0, 32⟩
def rLeveeCmdCtrl : Nat := 0x80064
def fLeveeCmdCtrlDiscard : Field := ⟨rLeveeCmdCtrl, 0, 1⟩
def rLeveeSessSel : Nat := 0x80070
def fLeveeSessSelSession : Field := ⟨rLeveeSessSel, 0, 8⟩
def rLeveeSessCfg : Nat := 0x80074
def fLeveeSessCfgBound : Field := ⟨rLeveeSessCfg, 31, 1⟩
def fLeveeSessCfgSync : Field := ⟨rLeveeSessCfg, 30, 1⟩
def fLeveeSessCfgQuar : Field := ⟨rLeveeSessCfg, 29, 1⟩
def fLeveeSessCfgMask : Field := ⟨rLeveeSessCfg, 1, 9⟩
def rLeveeSessUidLo : Nat := 0x80078
def fLeveeSessUidLoUid : Field := ⟨rLeveeSessUidLo, 0, 32⟩
def rLeveeSessUidHi : Nat := 0x8007C
def fLeveeSessUidHiUid : Field := ⟨rLeveeSessUidHi, 0, 32⟩
def rLeveeSessFloor : Nat := 0x80080
def fLeveeSessFloorB : Field := ⟨rLeveeSessFloor, 0, 24⟩
def rLeveeSessHiLo : Nat := 0x80084
def fLeveeSessHiLoHi : Field := ⟨rLeveeSessHiLo, 0, 32⟩
def rLeveeSessHiHi : Nat := 0x80088
def fLeveeSessHiHiHi : Field := ⟨rLeveeSessHiHi, 0, 32⟩
def rLeveeSessFail : Nat := 0x8008C
def fLeveeSessFailRun : Field := ⟨rLeveeSessFail, 28, 4⟩
def fLeveeSessFailQuarLeft : Field := ⟨rLeveeSessFail, 0, 6⟩
def rLeveeCnt : Nat := 0x80090
def fLeveeCntTag : Field := ⟨rLeveeCnt, 16, 16⟩
def fLeveeCntReplay : Field := ⟨rLeveeCnt, 0, 16⟩
def rFaultCtrl : Nat := 0x88020
def fFaultCtrlCritPolicy : Field := ⟨rFaultCtrl, 8, 1⟩
def fFaultCtrlClr : Field := ⟨rFaultCtrl, 0, 1⟩
def rFaultStat : Nat := 0x88024
def fFaultStatDevFs : Field := ⟨rFaultStat, 31, 1⟩
def fFaultStatProc : Field := ⟨rFaultStat, 30, 1⟩
def fFaultStatPreempt : Field := ⟨rFaultStat, 29, 1⟩
def fFaultStatQdepth : Field := ⟨rFaultStat, 24, 5⟩
def fFaultStatCqdepth : Field := ⟨rFaultStat, 21, 3⟩
def fFaultStatListFull : Field := ⟨rFaultStat, 20, 1⟩
def fFaultStatActive : Field := ⟨rFaultStat, 0, 8⟩
def rFaultCounts : Nat := 0x88028
def fFaultCountsRaised : Field := ⟨rFaultCounts, 16, 16⟩
def fFaultCountsCoalesced : Field := ⟨rFaultCounts, 0, 16⟩
def rFaultAlmCfg : Nat := 0x8802C
def fFaultAlmCfgEn : Field := ⟨rFaultAlmCfg, 31, 1⟩
def fFaultAlmCfgAuth : Field := ⟨rFaultAlmCfg, 30, 1⟩
def fFaultAlmCfgSession : Field := ⟨rFaultAlmCfg, 16, 8⟩
def fFaultAlmCfgDest : Field := ⟨rFaultAlmCfg, 0, 16⟩
def rFaultAlmCnt : Nat := 0x88030
def fFaultAlmCntDropped : Field := ⟨rFaultAlmCnt, 16, 16⟩
def fFaultAlmCntSent : Field := ⟨rFaultAlmCnt, 0, 16⟩
def rFaultEcc : Nat := 0x88034
def fFaultEccCorr : Field := ⟨rFaultEcc, 0, 16⟩
def rFaultEccAddr : Nat := 0x88038
def fFaultEccAddrValid : Field := ⟨rFaultEccAddr, 31, 1⟩
def fFaultEccAddrIndex : Field := ⟨rFaultEccAddr, 0, 20⟩
def rFaultFsStat : Nat := 0x8803C
def fFaultFsStatArmed : Field := ⟨rFaultFsStat, 31, 1⟩
def fFaultFsStatActive : Field := ⟨rFaultFsStat, 30, 1⟩
def fFaultFsStatTrig : Field := ⟨rFaultFsStat, 24, 4⟩
def fFaultFsStatTrips : Field := ⟨rFaultFsStat, 0, 16⟩
def rFaultAlmRx : Nat := 0x88040
def fFaultAlmRxCount : Field := ⟨rFaultAlmRx, 16, 16⟩
def fFaultAlmRxSrc : Field := ⟨rFaultAlmRx, 0, 16⟩
def rFaultIrqCause (b : Nat) : Nat := 0x88080 + 4 * b
def fFaultIrqCauseValid (b : Nat) : Field := ⟨rFaultIrqCause b, 31, 1⟩
def fFaultIrqCauseMore (b : Nat) : Field := ⟨rFaultIrqCause b, 30, 1⟩
def fFaultIrqCauseClass (b : Nat) : Field := ⟨rFaultIrqCause b, 28, 2⟩
def fFaultIrqCauseInst (b : Nat) : Field := ⟨rFaultIrqCause b, 16, 12⟩
def fFaultIrqCauseCode (b : Nat) : Field := ⟨rFaultIrqCause b, 0, 16⟩
def rFaultList (r w : Nat) : Nat := 0x88400 + 16 * r + 4 * w
def fFaultListWord (r w : Nat) : Field := ⟨rFaultList r w, 0, 32⟩
def rKeyCfg : Nat := 0x90020
def fKeyCfgTrel : Field := ⟨rKeyCfg, 24, 8⟩
def fKeyCfgTpress : Field := ⟨rKeyCfg, 16, 8⟩
def fKeyCfgUnlockT : Field := ⟨rKeyCfg, 8, 8⟩
def rKeyStat : Nat := 0x90024
def fKeyStatScanning : Field := ⟨rKeyStat, 31, 1⟩
def fKeyStatUnlocked : Field := ⟨rKeyStat, 30, 1⟩
def fKeyStatCommission : Field := ⟨rKeyStat, 29, 1⟩
def fKeyStatUnlockLeft : Field := ⟨rKeyStat, 8, 8⟩
def fKeyStatFifo : Field := ⟨rKeyStat, 0, 5⟩
def rKeyEvt : Nat := 0x90028
def fKeyEvtValid : Field := ⟨rKeyEvt, 31, 1⟩
def fKeyEvtKind : Field := ⟨rKeyEvt, 29, 2⟩
def fKeyEvtRefused : Field := ⟨rKeyEvt, 28, 1⟩
def fKeyEvtCode : Field := ⟨rKeyEvt, 16, 7⟩
def fKeyEvtTime : Field := ⟨rKeyEvt, 0, 16⟩
def rKeyImageLo : Nat := 0x9002C
def fKeyImageLoKeys : Field := ⟨rKeyImageLo, 0, 32⟩
def rKeyImageHi : Nat := 0x90030
def fKeyImageHiKeys : Field := ⟨rKeyImageHi, 0, 32⟩
def rKeyEnc (i : Nat) : Nat := 0x90034 + 4 * i
def fKeyEncSw (i : Nat) : Field := ⟨rKeyEnc i, 16, 1⟩
def fKeyEncCount (i : Nat) : Field := ⟨rKeyEnc i, 0, 16⟩
def rKeyEncCfg : Nat := 0x9003C
def fKeyEncCfgDir1 : Field := ⟨rKeyEncCfg, 5, 1⟩
def fKeyEncCfgDir0 : Field := ⟨rKeyEncCfg, 4, 1⟩
def fKeyEncCfgSteps1 : Field := ⟨rKeyEncCfg, 2, 2⟩
def fKeyEncCfgSteps0 : Field := ⟨rKeyEncCfg, 0, 2⟩
def rKeyComboCtrl (k : Nat) : Nat := 0x90040 + 8 * k
def fKeyComboCtrlEn (k : Nat) : Field := ⟨rKeyComboCtrl k, 31, 1⟩
def fKeyComboCtrlAction (k : Nat) : Field := ⟨rKeyComboCtrl k, 29, 2⟩
def fKeyComboCtrlHold (k : Nat) : Field := ⟨rKeyComboCtrl k, 24, 5⟩
def rKeyComboKeys (k : Nat) : Nat := 0x90044 + 8 * k
def fKeyComboKeysKeys (k : Nat) : Field := ⟨rKeyComboKeys k, 0, 32⟩
def rKeyPanelVal : Nat := 0x90060
def fKeyPanelValValue : Field := ⟨rKeyPanelVal, 0, 32⟩
def rKeyPanelWr : Nat := 0x90064
def fKeyPanelWrRel : Field := ⟨rKeyPanelWr, 31, 1⟩
def fKeyPanelWrKind : Field := ⟨rKeyPanelWr, 29, 2⟩
def fKeyPanelWrIndex : Field := ⟨rKeyPanelWr, 0, 14⟩
def rKeyCmd : Nat := 0x90068
def fKeyCmdLock : Field := ⟨rKeyCmd, 0, 1⟩
def rEpdGeom : Nat := 0x91020
def fEpdGeomH : Field := ⟨rEpdGeom, 16, 16⟩
def fEpdGeomW : Field := ⟨rEpdGeom, 0, 16⟩
def rEpdTiming : Nat := 0x91024
def fEpdTimingVblank : Field := ⟨rEpdTiming, 24, 8⟩
def fEpdTimingFrameHz : Field := ⟨rEpdTiming, 16, 8⟩
def fEpdTimingSdDiv : Field := ⟨rEpdTiming, 0, 5⟩
def rEpdVcom : Nat := 0x91028
def fEpdVcomCode : Field := ⟨rEpdVcom, 0, 9⟩
def rEpdCfg : Nat := 0x9102C
def fEpdCfgBootClear : Field := ⟨rEpdCfg, 31, 1⟩
def fEpdCfgChkEn : Field := ⟨rEpdCfg, 30, 1⟩
def fEpdCfgDefBand : Field := ⟨rEpdCfg, 27, 3⟩
def fEpdCfgRailHold : Field := ⟨rEpdCfg, 16, 8⟩
def fEpdCfgRebal : Field := ⟨rEpdCfg, 8, 8⟩
def rEpdTemp : Nat := 0x91030
def fEpdTempEn : Field := ⟨rEpdTemp, 31, 1⟩
def fEpdTempPt : Field := ⟨rEpdTemp, 0, 14⟩
def rEpdBandTh0 : Nat := 0x91034
def fEpdBandTh0T : Field := ⟨rEpdBandTh0, 0, 32⟩
def rEpdBandTh1 : Nat := 0x91038
def fEpdBandTh1T : Field := ⟨rEpdBandTh1, 0, 24⟩
def rEpdFbCrc : Nat := 0x9103C
def fEpdFbCrcCrc : Field := ⟨rEpdFbCrc, 0, 32⟩
def rEpdFbCrcExpect : Nat := 0x91040
def fEpdFbCrcExpectCrc : Field := ⟨rEpdFbCrcExpect, 0, 32⟩
def rEpdFbStat : Nat := 0x91044
def fEpdFbStatCrcValid : Field := ⟨rEpdFbStat, 31, 1⟩
def fEpdFbStatLatch : Field := ⟨rEpdFbStat, 30, 1⟩
def rEpdUpdXy : Nat := 0x91048
def fEpdUpdXyY : Field := ⟨rEpdUpdXy, 16, 16⟩
def fEpdUpdXyX : Field := ⟨rEpdUpdXy, 0, 16⟩
def rEpdUpdWh : Nat := 0x9104C
def fEpdUpdWhH : Field := ⟨rEpdUpdWh, 16, 16⟩
def fEpdUpdWhW : Field := ⟨rEpdUpdWh, 0, 16⟩
def rEpdUpdCmd : Nat := 0x91050
def fEpdUpdCmdGo : Field := ⟨rEpdUpdCmd, 31, 1⟩
def fEpdUpdCmdMode : Field := ⟨rEpdUpdCmd, 0, 2⟩
def rEpdUpdRes : Nat := 0x91054
def fEpdUpdResResult : Field := ⟨rEpdUpdRes, 28, 4⟩
def fEpdUpdResId : Field := ⟨rEpdUpdRes, 0, 8⟩
def rEpdRun : Nat := 0x91058
def fEpdRunLastDone : Field := ⟨rEpdRun, 24, 8⟩
def fEpdRunQdepth : Field := ⟨rEpdRun, 16, 5⟩
def fEpdRunSlots : Field := ⟨rEpdRun, 8, 8⟩
def fEpdRunBand : Field := ⟨rEpdRun, 5, 3⟩
def fEpdRunRails : Field := ⟨rEpdRun, 4, 1⟩
def fEpdRunBootPend : Field := ⟨rEpdRun, 3, 1⟩

/-- One row of a page's register table: offset of the first instance, two index dimensions (count, stride), the bits of
each access code (R3), the remaining readable bits, and the reset word. -/
structure RegDesc where
  off : Nat
  n1 : Nat
  s1 : Nat
  n2 : Nat
  s2 : Nat
  rw : Nat
  rwl : Nat
  w1c : Nat
  wo : Nat
  ro : Nat
  reset : Nat
deriving DecidableEq, Repr

def descSys : List RegDesc :=
  [⟨0x020, 1, 0, 1, 0, 0x0, 0x0, 0x0, 0x0, 0x87FFFFFF, 0x0⟩,
   ⟨0x024, 1, 0, 1, 0, 0x0, 0x0, 0x1F, 0x0, 0x0, 0x0⟩,
   ⟨0x028, 1, 0, 1, 0, 0x0, 0x0, 0x0, 0x0, 0xF, 0x1⟩,
   ⟨0x02C, 1, 0, 1, 0, 0x0, 0x0, 0x0, 0xFFFFFFFF, 0x0, 0x0⟩,
   ⟨0x030, 1, 0, 1, 0, 0x0, 0x0, 0x0, 0x0, 0xFFFFFFFF, 0x0⟩,
   ⟨0x034, 1, 0, 1, 0, 0x0, 0x0, 0x0, 0x0, 0xFFFFFFFF, 0x0⟩,
   ⟨0x038, 1, 0, 1, 0, 0x0, 0x0, 0x0, 0x0, 0xF, 0x0⟩]
def descPwr : List RegDesc :=
  [⟨0x020, 1, 0, 1, 0, 0x0, 0xFFFF007F, 0x0, 0x0, 0x0, 0x21E0046⟩,
   ⟨0x024, 1, 0, 1, 0, 0x0, 0x0, 0x0, 0x0, 0xFFFF0000, 0x7000000⟩,
   ⟨0x028, 1, 0, 1, 0, 0x0, 0x0, 0x0, 0x0, 0xFFFFFFFF, 0x0⟩,
   ⟨0x02C, 1, 0, 1, 0, 0x0, 0x0, 0x0, 0x0, 0xFFFF, 0x1B58⟩,
   ⟨0x030, 1, 0, 1, 0, 0x0, 0x0, 0x0, 0x0, 0xFFFFFFFF, 0x0⟩,
   ⟨0x034, 1, 0, 1, 0, 0x0, 0x0, 0x0, 0x0, 0xFFFFFFFF, 0x0⟩,
   ⟨0x038, 1, 0, 1, 0, 0x0, 0x0, 0x0, 0x0, 0xFFFFFFFF, 0x0⟩,
   ⟨0x03C, 1, 0, 1, 0, 0x0, 0x0, 0x0, 0x0, 0xFFFFFFFF, 0x0⟩,
   ⟨0x040, 1, 0, 1, 0, 0x0, 0x0, 0x0, 0x0, 0xFFFF, 0x0⟩,
   ⟨0x044, 1, 0, 1, 0, 0x0, 0x0, 0x0, 0x0, 0x3, 0x0⟩,
   ⟨0x048, 3, 4, 1, 0, 0x0, 0x0, 0x0, 0x0, 0xFFFFFFFF, 0x0⟩,
   ⟨0x054, 1, 0, 1, 0, 0x7F, 0x0, 0x0, 0x0, 0x0, 0x0⟩,
   ⟨0x058, 1, 0, 1, 0, 0x0, 0x0, 0x0, 0x0, 0xFFFFFF07, 0x8000⟩,
   ⟨0x05C, 1, 0, 1, 0, 0x0, 0x0, 0x0, 0x0, 0x1F, 0x0⟩]
def descClk : List RegDesc :=
  [⟨0x020, 1, 0, 1, 0, 0x0, 0x7, 0x0, 0x8, 0x0, 0x2⟩,
   ⟨0x024, 1, 0, 1, 0, 0x0, 0x0, 0x0, 0x0, 0xEF03033B, 0x2000A⟩,
   ⟨0x028, 1, 0, 1, 0, 0x0, 0x0, 0x0, 0x0, 0xFFFFFFFF, 0x0⟩,
   ⟨0x02C, 1, 0, 1, 0, 0x0, 0x0, 0x0, 0x0, 0xFFFFFFFF, 0x0⟩,
   ⟨0x030, 1, 0, 1, 0, 0x0, 0x0, 0x0, 0x0, 0xFFFFFFFF, 0x0⟩,
   ⟨0x034, 1, 0, 1, 0, 0x0, 0x0, 0x0, 0x0, 0xFFFF, 0x0⟩,
   ⟨0x038, 1, 0, 1, 0, 0x0, 0xFFFF, 0x0, 0x0, 0x0, 0x2710⟩,
   ⟨0x03C, 1, 0, 1, 0, 0x0, 0x0, 0x0, 0x0, 0xFFFF, 0x0⟩,
   ⟨0x040, 1, 0, 1, 0, 0x0, 0x0, 0x0, 0x0, 0xFFFF, 0x0⟩,
   ⟨0x044, 1, 0, 1, 0, 0x0, 0x0, 0x0, 0x0, 0xFFFF, 0x0⟩,
   ⟨0x048, 1, 0, 1, 0, 0x0, 0x0, 0x0, 0x0, 0xFFFFFFFF, 0x0⟩,
   ⟨0x04C, 1, 0, 1, 0, 0x0, 0x0, 0x0, 0x0, 0xF000FFFF, 0x0⟩]
def descLath : List RegDesc :=
  [⟨0x020, 1, 0, 1, 0, 0x0, 0x0, 0x0, 0x0, 0x7F, 0xA⟩,
   ⟨0x024, 1, 0, 1, 0, 0x0, 0x7F, 0x0, 0x0, 0x0, 0xA⟩,
   ⟨0x028, 1, 0, 1, 0, 0x0, 0x0, 0x0, 0x0, 0x337, 0x100⟩,
   ⟨0x02C, 1, 0, 1, 0, 0x0, 0x100, 0x0, 0x1, 0x0, 0x100⟩,
   ⟨0x030, 1, 0, 1, 0, 0x0, 0x0, 0x0, 0x0, 0xFFFFFFFF, 0x0⟩,
   ⟨0x034, 1, 0, 1, 0, 0x0, 0x0, 0x0, 0x0, 0xFFFFFFFF, 0x0⟩,
   ⟨0x038, 1, 0, 1, 0, 0x0, 0x0, 0x0, 0x0, 0xF, 0x0⟩,
   ⟨0x040, 1, 0, 1, 0, 0x0, 0x0, 0x0, 0x0, 0xF, 0x0⟩,
   ⟨0x044, 1, 0, 1, 0, 0x0, 0x0, 0x0, 0x0, 0xF000FFFF, 0x0⟩,
   ⟨0x048, 1, 0, 1, 0, 0x0, 0x0, 0x0, 0x0, 0xFFFFFFFF, 0x0⟩,
   ⟨0x04C, 1, 0, 1, 0, 0x0, 0x0, 0x0, 0x0, 0xFFFFFFFF, 0x0⟩,
   ⟨0x050, 1, 0, 1, 0, 0x0, 0x0, 0x0, 0x0, 0xFFFFFFFF, 0x0⟩,
   ⟨0x054, 1, 0, 1, 0, 0x0, 0x0, 0x0, 0x0, 0xFFFFFFFF, 0x0⟩,
   ⟨0x060, 1, 0, 1, 0, 0x0, 0x0, 0x0, 0x0, 0x1F000F, 0x0⟩,
   ⟨0x064, 1, 0, 1, 0, 0x0, 0x0, 0x0, 0x0, 0xFFFFFFFF, 0x0⟩,
   ⟨0x068, 1, 0, 1, 0, 0x0, 0x0, 0x0, 0x0, 0x1F, 0x0⟩,
   ⟨0x06C, 1, 0, 1, 0, 0x0, 0x0, 0x0, 0x0, 0xFFFF, 0x0⟩,
   ⟨0x070, 1, 0, 1, 0, 0x0, 0x0, 0x0, 0x0, 0xFFFFFFFF, 0x0⟩,
   ⟨0x074, 1, 0, 1, 0, 0x0, 0x0, 0x0, 0x0, 0xFFFFFFFF, 0x0⟩]
def descHost : List RegDesc :=
  [⟨0x020, 1, 0, 1, 0, 0x0, 0x1, 0x0, 0x0, 0x0, 0x0⟩,
   ⟨0x024, 1, 0, 1, 0, 0x0, 0x0, 0x0, 0x0, 0x3, 0x0⟩,
   ⟨0x028, 1, 0, 1, 0, 0x0, 0x0, 0x0, 0x0, 0xF0FFFFFF, 0x0⟩,
   ⟨0x02C, 1, 0, 1, 0, 0x0, 0x0, 0x0, 0x0, 0xFFFF, 0x0⟩,
   ⟨0x030, 1, 0, 1, 0, 0x0, 0x0, 0x0, 0x0, 0xFFFFFFFF, 0x0⟩]
def descUch : List RegDesc :=
  [⟨0x020, 1, 0, 1, 0, 0x0, 0x0, 0x0, 0x0, 0xFFFFFF0F, 0x0⟩,
   ⟨0x100, 24, 128, 1, 0, 0x0, 0xF38F, 0x0, 0x0, 0x0, 0x5200⟩,
   ⟨0x104, 24, 128, 1, 0, 0x0, 0xFFFFFF, 0x0, 0x0, 0x0, 0x140064⟩,
   ⟨0x108, 24, 128, 1, 0, 0x0, 0xFFFFFFFF, 0x0, 0x0, 0x0, 0x0⟩,
   ⟨0x10C, 24, 128, 1, 0, 0x0, 0xFFFFFFFF, 0x0, 0x0, 0x0, 0x0⟩,
   ⟨0x110, 24, 128, 1, 0, 0x0, 0xFF, 0x0, 0x0, 0x0, 0x80⟩,
   ⟨0x114, 24, 128, 1, 0, 0x0, 0xFFFF, 0x0, 0x0, 0x0, 0x0⟩,
   ⟨0x118, 24, 128, 1, 0, 0x0, 0x0, 0x0, 0x0, 0xFF00FFFF, 0x78000000⟩,
   ⟨0x11C, 24, 128, 1, 0, 0x0, 0x0, 0x0, 0xE8, 0x0, 0x0⟩,
   ⟨0x120, 24, 128, 1, 0, 0x0, 0x0, 0x0, 0x0, 0xFFFFFFFF, 0x0⟩,
   ⟨0x124, 24, 128, 1, 0, 0x0, 0x0, 0x0, 0x0, 0xFFFFFFFF, 0x0⟩,
   ⟨0x128, 24, 128, 1, 0, 0x0, 0x0, 0x0, 0x0, 0xFFFFFFFF, 0x0⟩,
   ⟨0x12C, 24, 128, 1, 0, 0x0, 0x0, 0x0, 0x0, 0xFFFFFFFF, 0x0⟩,
   ⟨0x130, 24, 128, 1, 0, 0x0, 0x0, 0x0, 0x0, 0xFFFFFFFF, 0x0⟩,
   ⟨0x134, 24, 128, 7, 4, 0xFFFFFFFF, 0x0, 0x0, 0x0, 0x0, 0x0⟩,
   ⟨0x150, 24, 128, 1, 0, 0x0, 0x0, 0x0, 0x0, 0xFF, 0x0⟩,
   ⟨0x154, 24, 128, 1, 0, 0x0, 0x0, 0x0, 0xFE, 0x0, 0x0⟩]
def descConv : List RegDesc :=
  [⟨0x020, 1, 0, 1, 0, 0x0, 0x0, 0x0, 0x10F, 0x0, 0x0⟩,
   ⟨0x024, 1, 0, 1, 0, 0x0, 0x0, 0x0, 0x0, 0x71F, 0x0⟩,
   ⟨0x028, 1, 0, 1, 0, 0x0, 0x0, 0x0, 0x0, 0xFFFFFFFF, 0x0⟩,
   ⟨0x02C, 1, 0, 1, 0, 0x0, 0x0, 0x0, 0x0, 0xFFFFFFFF, 0x0⟩,
   ⟨0x030, 1, 0, 1, 0, 0x0, 0x0, 0x0, 0x0, 0xF000013F, 0x0⟩,
   ⟨0x034, 1, 0, 1, 0, 0x0, 0x0, 0x0, 0x0, 0xFFFF, 0x0⟩,
   ⟨0x038, 1, 0, 1, 0, 0x0, 0x0, 0x0, 0x0, 0xFFFF, 0x0⟩,
   ⟨0x03C, 1, 0, 1, 0, 0x0, 0x0, 0x0, 0x0, 0xFFFFFFFF, 0x0⟩,
   ⟨0x040, 1, 0, 1, 0, 0x0, 0x0, 0x0, 0x0, 0xFFFF, 0x0⟩,
   ⟨0x044, 1, 0, 1, 0, 0x0, 0x0, 0x0, 0x0, 0xFFFF, 0x0⟩,
   ⟨0x048, 1, 0, 1, 0, 0x0, 0x0, 0x0, 0x0, 0xFFFFFFFF, 0x0⟩,
   ⟨0x04C, 8, 4, 1, 0, 0x0, 0x0, 0x0, 0x0, 0xFFFFFFFF, 0x0⟩,
   ⟨0x06C, 1, 0, 1, 0, 0x0, 0x0, 0x0, 0x0, 0x7, 0x0⟩,
   ⟨0x100, 12, 16, 1, 0, 0x0, 0x0, 0x0, 0x0, 0xFFFFFFFF, 0x1000000⟩,
   ⟨0x104, 12, 16, 1, 0, 0x0, 0x0, 0x0, 0x0, 0xFFFFFFFF, 0x0⟩,
   ⟨0x108, 12, 16, 1, 0, 0x0, 0xFFFFFF, 0x0, 0x0, 0x3000000, 0x0⟩,
   ⟨0x10C, 12, 16, 1, 0, 0x0, 0xFFFFFFFF, 0x0, 0x0, 0x0, 0x400000⟩]
def descSense : List RegDesc :=
  [⟨0x020, 1, 0, 1, 0, 0x0, 0x0, 0x0, 0x0, 0x7F007F, 0x0⟩,
   ⟨0xD00, 6, 128, 32, 4, 0x0, 0xFFFFFFFF, 0x0, 0x0, 0x0, 0x0⟩,
   ⟨0x100, 96, 32, 1, 0, 0x80000000, 0x7FFFFC00, 0x0, 0x0, 0x0, 0x0⟩,
   ⟨0x104, 96, 32, 1, 0, 0x0, 0xF1FFF, 0x0, 0x0, 0xFE000000, 0x50000000⟩,
   ⟨0x108, 96, 32, 3, 4, 0x0, 0xFFFFFFFF, 0x0, 0x0, 0x0, 0x0⟩,
   ⟨0x114, 96, 32, 1, 0, 0x0, 0xFFFFFFFF, 0x0, 0x0, 0x0, 0x0⟩,
   ⟨0x118, 96, 32, 1, 0, 0x0, 0xFFFFFFFF, 0x0, 0x0, 0x0, 0x960000⟩,
   ⟨0x11C, 96, 32, 1, 0, 0x0, 0x0, 0x0, 0x0, 0xFFFFFFFF, 0x0⟩]
def descRbus : List RegDesc :=
  [⟨0x020, 1, 0, 1, 0, 0x0, 0xFFFBFF, 0x0, 0x0, 0x0, 0xA280A⟩,
   ⟨0x024, 1, 0, 1, 0, 0x0, 0x0, 0x0, 0x0, 0xFFFF83FF, 0x0⟩,
   ⟨0x028, 1, 0, 1, 0, 0x0, 0x0, 0x0, 0x0, 0xFFFFFFFF, 0x0⟩,
   ⟨0x02C, 1, 0, 1, 0, 0x0, 0x0, 0x0, 0x0, 0xFFFFFFFF, 0x0⟩,
   ⟨0x030, 1, 0, 1, 0, 0x0, 0x0, 0x0, 0x0, 0x1FFFFF, 0x0⟩,
   ⟨0x034, 1, 0, 1, 0, 0x0, 0x0, 0x0, 0x0, 0xFFFFFFFF, 0x0⟩,
   ⟨0x200, 32, 8, 1, 0, 0x0, 0x800000FF, 0x0, 0x0, 0x0, 0x0⟩,
   ⟨0x204, 32, 8, 1, 0, 0x0, 0x0, 0x0, 0x0, 0xC0FFFFFF, 0xC0000000⟩,
   ⟨0x400, 256, 12, 1, 0, 0x0, 0xFFFFFFFF, 0x0, 0x0, 0x0, 0x0⟩,
   ⟨0x404, 256, 12, 1, 0, 0x0, 0x3FFF, 0x0, 0x0, 0x0, 0x0⟩,
   ⟨0x408, 256, 12, 1, 0, 0x0, 0xFFFFFFFF, 0x0, 0x0, 0x0, 0x0⟩]
def descPres : List RegDesc :=
  [⟨0x020, 1, 0, 1, 0, 0x0, 0xFFFF, 0x0, 0x0, 0x0, 0x32⟩,
   ⟨0x024, 1, 0, 1, 0, 0x0, 0xFFFF, 0x0, 0x0, 0x0, 0xA⟩,
   ⟨0x028, 3, 4, 1, 0, 0x0, 0x0, 0xFFFFFFFF, 0x0, 0x0, 0x0⟩,
   ⟨0x040, 4, 8, 1, 0, 0x0, 0xFFFFFFFF, 0x0, 0x0, 0x0, 0x3333⟩,
   ⟨0x044, 4, 8, 1, 0, 0x0, 0xFF0F, 0x0, 0x0, 0x0, 0xA02⟩,
   ⟨0x100, 96, 32, 1, 0, 0x3, 0xFFFF00, 0x0, 0x0, 0x0, 0x1E0F00⟩,
   ⟨0x104, 96, 32, 1, 0, 0x0, 0x0, 0x0, 0x0, 0xFFFFF00F, 0x0⟩,
   ⟨0x108, 96, 32, 6, 4, 0x0, 0xFB003FFF, 0x0, 0x0, 0x0, 0x0⟩]
def descZone0 : List RegDesc :=
  [⟨0x020, 1, 0, 1, 0, 0x0, 0x0, 0x0, 0x0, 0xFFFFFFFF, 0x0⟩,
   ⟨0x024, 3, 4, 1, 0, 0x0, 0x0, 0x0, 0x0, 0xFFFFFFFF, 0x0⟩,
   ⟨0x100, 6, 512, 1, 0, 0x0, 0xE07700FF, 0x0, 0x0, 0x0, 0x4032001E⟩,
   ⟨0x104, 6, 512, 1, 0, 0x0, 0xBFFF3FFF, 0x0, 0x0, 0x0, 0x0⟩,
   ⟨0x108, 6, 512, 1, 0, 0x0, 0xC3FF3FFF, 0x0, 0x0, 0x0, 0x1E0000⟩,
   ⟨0x10C, 6, 512, 1, 0, 0x0, 0x80003FFF, 0x0, 0x0, 0x0, 0x0⟩,
   ⟨0x110, 6, 512, 1, 0, 0x0, 0xFFFFFFFF, 0x0, 0x0, 0x0, 0x0⟩,
   ⟨0x114, 6, 512, 4, 4, 0x0, 0xE1FFE1FF, 0x0, 0x0, 0x0, 0x0⟩,
   ⟨0x124, 6, 512, 1, 0, 0xFFFFFFFF, 0x0, 0x0, 0x0, 0x0, 0xDAC0320⟩,
   ⟨0x128, 6, 512, 1, 0, 0xFFFFFFFF, 0x0, 0x0, 0x0, 0x0, 0xAF00640⟩,
   ⟨0x12C, 6, 512, 1, 0, 0xFFFFFFFF, 0x0, 0x0, 0x0, 0x0, 0xA28076C⟩,
   ⟨0x130, 6, 512, 1, 0, 0xFFFFFFFF, 0x0, 0x0, 0x0, 0x0, 0x9600834⟩,
   ⟨0x134, 6, 512, 1, 0, 0x0, 0x0, 0x0, 0x80000707, 0x0, 0x0⟩,
   ⟨0x138, 6, 512, 1, 0, 0x0, 0x0, 0x0, 0x0, 0xFFFFFFF0, 0xFFFFFFF0⟩,
   ⟨0x13C, 6, 512, 1, 0, 0x0, 0x0, 0x0, 0x0, 0x3F770703, 0x0⟩,
   ⟨0x140, 6, 512, 7, 4, 0x0, 0x0, 0x0, 0x0, 0xFFFFFFFF, 0x0⟩,
   ⟨0xD00, 2, 256, 1, 0, 0x0, 0x80FF3FFF, 0x0, 0x0, 0x0, 0xA0000⟩,
   ⟨0xD04, 2, 256, 1, 0, 0x0, 0x0, 0x0, 0x80000707, 0x0, 0x0⟩,
   ⟨0xD08, 2, 256, 3, 4, 0x0, 0x0, 0x0, 0x0, 0xFFFFFFFF, 0x0⟩,
   ⟨0xD14, 2, 256, 1, 0, 0x0, 0x0, 0x0, 0x0, 0xFFFFFF, 0x0⟩]
def descZone1 : List RegDesc :=
  [⟨0xD18, 2, 256, 6, 4, 0x0, 0x0, 0x0, 0x0, 0xFFFFFFFF, 0x0⟩]
def descZone : List RegDesc := descZone0 ++ descZone1
def descLoop0 : List RegDesc :=
  [⟨0x020, 1, 0, 1, 0, 0x0, 0x0, 0x0, 0x0, 0xFFFF, 0x0⟩,
   ⟨0x100, 16, 128, 1, 0, 0x80000000, 0xF000007, 0x0, 0x0, 0x0, 0x0⟩,
   ⟨0x104, 16, 128, 1, 0, 0x0, 0xFFFFFFFF, 0x0, 0x0, 0x0, 0xFFFFFFFF⟩,
   ⟨0x108, 16, 128, 1, 0, 0x0, 0xFFFFFFFF, 0x0, 0x0, 0x0, 0xFFFFFFFF⟩,
   ⟨0x10C, 16, 128, 1, 0, 0x0, 0x80003FFF, 0x0, 0x0, 0x0, 0x0⟩,
   ⟨0x110, 16, 128, 4, 4, 0x0, 0xC00000FF, 0x0, 0x0, 0x0, 0x0⟩,
   ⟨0x120, 16, 128, 1, 0, 0x0, 0xFFFFFFFF, 0x0, 0x0, 0x0, 0x10000⟩,
   ⟨0x124, 16, 128, 1, 0, 0x0, 0xFFFFFFFF, 0x0, 0x0, 0x0, 0x0⟩,
   ⟨0x128, 16, 128, 1, 0, 0x0, 0xFFFFFFFF, 0x0, 0x0, 0x0, 0x0⟩,
   ⟨0x12C, 16, 128, 1, 0, 0x0, 0xFFFFFFFF, 0x0, 0x0, 0x0, 0x0⟩,
   ⟨0x130, 16, 128, 1, 0, 0x0, 0xFFFFFFFF, 0x0, 0x0, 0x0, 0x10000⟩,
   ⟨0x134, 16, 128, 1, 0, 0x0, 0xFF, 0x0, 0x0, 0x0, 0xA⟩,
   ⟨0x138, 16, 128, 1, 0, 0x0, 0xFFFFFFFF, 0x0, 0x0, 0x0, 0x0⟩,
   ⟨0x13C, 16, 128, 1, 0, 0x0, 0xFFFFFFFF, 0x0, 0x0, 0x0, 0x640000⟩,
   ⟨0x140, 16, 128, 1, 0, 0x0, 0xFFFFFFFF, 0x0, 0x0, 0x0, 0x0⟩,
   ⟨0x144, 16, 128, 1, 0, 0xFFFFFFFF, 0x0, 0x0, 0x0, 0x0, 0x0⟩,
   ⟨0x148, 16, 128, 1, 0, 0x0, 0xFFFFFFFF, 0x0, 0x0, 0x0, 0xC8⟩,
   ⟨0x14C, 16, 128, 3, 4, 0x0, 0xFFFFFFFF, 0x0, 0x0, 0x0, 0x0⟩,
   ⟨0x158, 16, 128, 1, 0, 0x0, 0x0, 0x0, 0x0, 0xFFFFFFFF, 0x0⟩,
   ⟨0x15C, 16, 128, 1, 0, 0x0, 0x0, 0x0, 0x0, 0xFFFFFFFF, 0x0⟩]
def descLoop1 : List RegDesc :=
  [⟨0x160, 16, 128, 1, 0, 0x0, 0x0, 0x0, 0x0, 0xFFFFFFFF, 0x0⟩,
   ⟨0x164, 16, 128, 1, 0, 0x0, 0x0, 0x0, 0x0, 0xFFFFFFFF, 0x0⟩,
   ⟨0x168, 16, 128, 1, 0, 0x0, 0x0, 0x0, 0x0, 0xFFFFFFFF, 0x0⟩,
   ⟨0x16C, 16, 128, 1, 0, 0x0, 0x0, 0x0, 0x0, 0xFFFFFFFF, 0x0⟩,
   ⟨0x170, 16, 128, 1, 0, 0x0, 0x0, 0x0, 0x0, 0xFFFF01FF, 0x50000000⟩,
   ⟨0x174, 16, 128, 1, 0, 0x0, 0x0, 0x0, 0x0, 0xFFFFFFFF, 0x0⟩]
def descLoop : List RegDesc := descLoop0 ++ descLoop1
def descTme0 : List RegDesc :=
  [⟨0x020, 1, 0, 1, 0, 0x0, 0x9FFF03FF, 0x0, 0x0, 0x0, 0x8230012C⟩,
   ⟨0x024, 1, 0, 1, 0, 0x0, 0xFFFFFFFF, 0x0, 0x0, 0x0, 0x3F7F7CEE⟩,
   ⟨0x028, 1, 0, 1, 0, 0x0, 0xFFFFFFFF, 0x0, 0x0, 0x0, 0x41200000⟩,
   ⟨0x02C, 1, 0, 1, 0, 0x0, 0xFFFFFFFF, 0x0, 0x0, 0x0, 0x47C35000⟩,
   ⟨0x030, 1, 0, 1, 0, 0x0, 0x3FFF, 0x0, 0x0, 0x4000, 0x0⟩,
   ⟨0x034, 1, 0, 1, 0, 0x0, 0xFFFFFFFF, 0x0, 0x0, 0x0, 0x0⟩,
   ⟨0x038, 1, 0, 1, 0, 0x0, 0xFFFFFFFF, 0x0, 0x0, 0x0, 0x0⟩,
   ⟨0x03C, 1, 0, 1, 0, 0x0, 0xFFFFFFFF, 0x0, 0x0, 0x0, 0xBB83126F⟩,
   ⟨0x040, 1, 0, 1, 0, 0x0, 0xFFFFFFFF, 0x0, 0x0, 0x0, 0x3E4CCCCD⟩,
   ⟨0x044, 1, 0, 1, 0, 0x0, 0xFFFFFFFF, 0x0, 0x0, 0x0, 0x3BC49BA6⟩,
   ⟨0x048, 1, 0, 1, 0, 0x0, 0xFFFFFFFF, 0x0, 0x0, 0x0, 0x3D4CCCCD⟩,
   ⟨0x04C, 1, 0, 1, 0, 0x0, 0xFFFFFFFF, 0x0, 0x0, 0x0, 0x3DCCCCCD⟩,
   ⟨0x050, 1, 0, 1, 0, 0x0, 0xFFFFFFFF, 0x0, 0x0, 0x0, 0x0⟩,
   ⟨0x060, 1, 0, 1, 0, 0x0, 0xFFFFFFFF, 0x0, 0x0, 0x0, 0xFF9C0078⟩,
   ⟨0x064, 1, 0, 1, 0, 0x0, 0xFFFFFFFF, 0x0, 0x0, 0x0, 0x5A⟩,
   ⟨0x068, 1, 0, 1, 0, 0x0, 0xFFFFFFFF, 0x0, 0x0, 0x0, 0x64002D⟩,
   ⟨0x06C, 1, 0, 1, 0, 0x0, 0xFFFFFFFF, 0x0, 0x0, 0x0, 0x960000⟩,
   ⟨0x070, 1, 0, 1, 0, 0x0, 0xFFFFFFFF, 0x0, 0x0, 0x0, 0xC80000⟩,
   ⟨0x074, 1, 0, 1, 0, 0x0, 0xFFFFFFFF, 0x0, 0x0, 0x0, 0xFA001E⟩,
   ⟨0x078, 1, 0, 1, 0, 0x0, 0xFFFFFFFF, 0x0, 0x0, 0x0, 0x12C003C⟩]
def descTme1 : List RegDesc :=
  [⟨0x07C, 1, 0, 1, 0, 0x0, 0xFFFFFFFF, 0x0, 0x0, 0x0, 0x15E005A⟩,
   ⟨0x080, 1, 0, 1, 0, 0x0, 0x0, 0x0, 0x0, 0xFFFFFFFF, 0x0⟩,
   ⟨0x100, 96, 32, 1, 0, 0x0, 0xE000FFFF, 0x0, 0x0, 0x0, 0x4000⟩,
   ⟨0x104, 96, 32, 1, 0, 0x0, 0x3FFFBFFF, 0x0, 0x0, 0x0, 0x0⟩,
   ⟨0x108, 96, 32, 1, 0, 0x0, 0xFF00FFFF, 0x0, 0x0, 0x0, 0xC003250⟩,
   ⟨0x10C, 96, 32, 1, 0, 0x0, 0x0, 0x0, 0x3, 0x0, 0x0⟩,
   ⟨0x110, 96, 32, 1, 0, 0x0, 0x0, 0x0, 0x0, 0xFF0003FF, 0x40000000⟩,
   ⟨0x114, 96, 32, 1, 0, 0x0, 0x0, 0x0, 0x0, 0xFFFF, 0x0⟩,
   ⟨0x118, 96, 32, 1, 0, 0x0, 0x0, 0x0, 0x0, 0xFFFF, 0x0⟩,
   ⟨0x11C, 96, 32, 1, 0, 0x0, 0x0, 0x0, 0x0, 0xFFFFFFFF, 0x0⟩]
def descTme : List RegDesc := descTme0 ++ descTme1
def descBlk : List RegDesc :=
  [⟨0x020, 1, 0, 1, 0, 0x0, 0x0, 0x0, 0x0, 0x80001FFF, 0x0⟩,
   ⟨0x024, 1, 0, 1, 0, 0x0, 0x0, 0x0, 0x0, 0xFFFFFFFF, 0x0⟩,
   ⟨0x028, 1, 0, 1, 0, 0xFFF, 0x0, 0x0, 0x0, 0x0, 0x0⟩,
   ⟨0x02C, 2, 4, 1, 0, 0x0, 0x0, 0x0, 0x0, 0xFFFFFFFF, 0x0⟩,
   ⟨0x034, 1, 0, 1, 0, 0x0, 0x0, 0x0, 0x0, 0xBFFF0FFF, 0x550000⟩,
   ⟨0x038, 4, 4, 1, 0, 0x0, 0x0, 0x0, 0x0, 0xFFFFFFFF, 0x0⟩,
   ⟨0x048, 1, 0, 1, 0, 0x30FFF, 0x0, 0x0, 0x0, 0x0, 0x0⟩,
   ⟨0x04C, 1, 0, 1, 0, 0x0, 0x0, 0x0, 0xFFFFFFFF, 0x0, 0x0⟩,
   ⟨0x050, 1, 0, 1, 0, 0x0, 0x0, 0x0, 0x0, 0xFFF1FFF, 0x0⟩,
   ⟨0x054, 1, 0, 1, 0, 0x0, 0x0, 0x0, 0x0, 0xFFFFFFFF, 0x0⟩,
   ⟨0x100, 8, 64, 16, 4, 0x0, 0x8F7F0000, 0x0, 0x0, 0x0, 0x0⟩,
   ⟨0x400, 256, 4, 1, 0, 0x0, 0xFFFFFFFF, 0x0, 0x0, 0x0, 0x0⟩,
   ⟨0x800, 16, 128, 32, 4, 0x0, 0xFFFFFFFF, 0x0, 0x0, 0x0, 0x0⟩]
def descFan0 : List RegDesc :=
  [⟨0x100, 8, 384, 1, 0, 0x0, 0xFFFF0000, 0x0, 0x0, 0x0, 0x50130000⟩,
   ⟨0x104, 8, 384, 1, 0, 0x0, 0xE07F007F, 0x0, 0x0, 0x0, 0x0⟩,
   ⟨0x108, 8, 384, 1, 0, 0x0, 0xFFFFFFFF, 0x0, 0x0, 0x0, 0x271007D0⟩,
   ⟨0x10C, 8, 384, 1, 0, 0x0, 0x1FFFFFF, 0x0, 0x0, 0x0, 0x0⟩,
   ⟨0x110, 8, 384, 1, 0, 0x0, 0xFFFFFFFF, 0x0, 0x0, 0x0, 0x190B414⟩,
   ⟨0x114, 8, 384, 1, 0, 0x0, 0x80003FFF, 0x0, 0x0, 0x0, 0x0⟩,
   ⟨0x118, 8, 384, 1, 0, 0x0, 0x87FF07FF, 0x0, 0x0, 0x0, 0x0⟩,
   ⟨0x11C, 8, 384, 1, 0, 0x0, 0x800007FF, 0x0, 0x0, 0x0, 0x0⟩,
   ⟨0x120, 8, 384, 1, 0, 0x0, 0x0, 0x0, 0x7, 0x0, 0x0⟩,
   ⟨0x124, 8, 384, 1, 0, 0x0, 0x0, 0x0, 0x0, 0xFFF8FFFF, 0x0⟩,
   ⟨0x128, 8, 384, 1, 0, 0x0, 0x0, 0x0, 0x0, 0xFFFFFFFF, 0x0⟩,
   ⟨0x12C, 8, 384, 1, 0, 0x0, 0x0, 0x0, 0x0, 0xFFFFFFFF, 0x0⟩,
   ⟨0x130, 8, 384, 1, 0, 0x0, 0x0, 0x0, 0x0, 0xFFFFFFFF, 0x0⟩,
   ⟨0x134, 8, 384, 1, 0, 0x0, 0x0, 0x0, 0x0, 0xFFFFFFFF, 0x0⟩,
   ⟨0x140, 8, 384, 16, 4, 0x0, 0x80003FFF, 0x0, 0x0, 0x0, 0x0⟩,
   ⟨0x180, 8, 384, 64, 4, 0x0, 0xFFFFFFFF, 0x0, 0x0, 0x0, 0x0⟩,
   ⟨0xD00, 8, 96, 1, 0, 0x0, 0x0, 0x0, 0x0, 0xFFFFFFFF, 0x0⟩,
   ⟨0xD04, 8, 96, 7, 4, 0xFFFFFFFF, 0x0, 0x0, 0x0, 0x0, 0x0⟩,
   ⟨0xD20, 8, 96, 1, 0, 0x0, 0x0, 0x0, 0x0, 0xFF, 0x0⟩,
   ⟨0xD24, 8, 96, 1, 0, 0x0, 0x0, 0x0, 0xFF, 0x0, 0x0⟩]
def descFan1 : List RegDesc :=
  [⟨0xD28, 8, 96, 1, 0, 0x0, 0xFFFFFFFF, 0x0, 0x0, 0x0, 0x0⟩,
   ⟨0xD2C, 8, 96, 1, 0, 0x0, 0x0, 0x0, 0x0, 0xFFFFFFFF, 0x0⟩,
   ⟨0xD30, 8, 96, 1, 0, 0x0, 0x0, 0x0, 0x0, 0x1F, 0xF⟩]
def descFan : List RegDesc := descFan0 ++ descFan1
def descCal : List RegDesc :=
  [⟨0x020, 1, 0, 1, 0, 0x0, 0x0, 0x0, 0x0, 0xFFFFFFFF, 0x0⟩,
   ⟨0x024, 1, 0, 1, 0, 0x0, 0x0, 0x0, 0x0, 0xFFFFFFFF, 0x0⟩,
   ⟨0x028, 1, 0, 1, 0, 0x0, 0x0, 0x0, 0xFFFFFFFF, 0x0, 0x0⟩,
   ⟨0x02C, 1, 0, 1, 0, 0x0, 0x0, 0x0, 0xFFFFFFFF, 0x0, 0x0⟩,
   ⟨0x030, 1, 0, 1, 0, 0x0, 0x0, 0x0, 0x0, 0xE0000003, 0x0⟩,
   ⟨0x034, 1, 0, 1, 0, 0x0, 0xFFFFFF, 0x0, 0x0, 0x0, 0x3C0000⟩,
   ⟨0x038, 1, 0, 1, 0, 0x0, 0x8F7707FF, 0x0, 0x0, 0x0, 0x1170000⟩,
   ⟨0x03C, 1, 0, 1, 0, 0x0, 0x8F7707FF, 0x0, 0x0, 0x0, 0x1170000⟩,
   ⟨0x040, 1, 0, 1, 0, 0xFFFF, 0x0, 0x0, 0x0, 0x0, 0x0⟩,
   ⟨0x044, 2, 4, 1, 0, 0x0, 0x0, 0x0, 0x0, 0xFFFFFFFF, 0x0⟩,
   ⟨0x04C, 1, 0, 1, 0, 0x0, 0x0, 0x0, 0x0, 0xFFFFFFFF, 0x0⟩]
def descSched : List RegDesc :=
  [⟨0x020, 1, 0, 1, 0, 0x0, 0x0, 0x0, 0x0, 0x9FFF03FF, 0x0⟩,
   ⟨0x024, 1, 0, 1, 0, 0x0, 0x1FFF03FF, 0x0, 0x0, 0x0, 0x0⟩,
   ⟨0x028, 1, 0, 1, 0, 0x0, 0x0, 0x0, 0x1, 0x0, 0x0⟩,
   ⟨0x02C, 1, 0, 1, 0, 0x0, 0x0, 0x0, 0x0, 0x8FFF000F, 0x0⟩,
   ⟨0x030, 2, 4, 1, 0, 0x0, 0x0, 0xFFFFFFFF, 0x0, 0x0, 0x0⟩,
   ⟨0x100, 64, 8, 1, 0, 0x0, 0x0, 0x0, 0x0, 0xFFFFFFFF, 0x0⟩,
   ⟨0x104, 64, 8, 1, 0, 0x0, 0x0, 0x0, 0x0, 0xC00F7FFF, 0x40007FFF⟩]
def descStore : List RegDesc :=
  [⟨0x020, 1, 0, 1, 0, 0x0, 0x0, 0x0, 0x0, 0xF80703FF, 0x80000000⟩,
   ⟨0x024, 1, 0, 1, 0, 0x0, 0x0, 0x0, 0x0, 0xFE1F1F00, 0x0⟩,
   ⟨0x028, 1, 0, 1, 0, 0x0, 0x0, 0x0, 0x0, 0x3FFFF, 0x0⟩,
   ⟨0x02C, 1, 0, 1, 0, 0x3, 0x0, 0x0, 0x0, 0x0, 0x1⟩,
   ⟨0x030, 1, 0, 1, 0, 0x0, 0x0, 0x0, 0xFFFFFFFF, 0x0, 0x0⟩,
   ⟨0x034, 1, 0, 1, 0, 0x3FFFF, 0x0, 0x0, 0x0, 0x0, 0x0⟩,
   ⟨0x038, 1, 0, 1, 0, 0x1FFF, 0x0, 0x0, 0x0, 0x0, 0x1⟩,
   ⟨0x03C, 1, 0, 1, 0, 0x0, 0x0, 0x0, 0x3, 0x0, 0x0⟩,
   ⟨0x040, 1, 0, 1, 0, 0x0, 0x0, 0x0, 0x0, 0xFFFFFFFF, 0x0⟩,
   ⟨0x044, 1, 0, 1, 0, 0x0, 0x0, 0x0, 0x0, 0xFFFFFFFF, 0xFFFFFFFF⟩,
   ⟨0x048, 1, 0, 1, 0, 0x0, 0x0, 0x0, 0xFFFFFFFF, 0x0, 0x0⟩,
   ⟨0x04C, 1, 0, 1, 0, 0x0, 0x0, 0x0, 0x0, 0xFFFFFFF, 0x0⟩,
   ⟨0x050, 1, 0, 1, 0, 0x0, 0x0, 0x0, 0x0, 0x7FF, 0x0⟩,
   ⟨0x054, 1, 0, 1, 0, 0x0, 0x0, 0x0, 0x0, 0xFFFFFFFF, 0x0⟩,
   ⟨0x080, 32, 4, 1, 0, 0x0, 0x0, 0x0, 0x0, 0xFFFFFFFF, 0x0⟩]
def descPeat : List RegDesc :=
  [⟨0x020, 1, 0, 1, 0, 0x0, 0x7FF, 0x0, 0x0, 0x0, 0x3C⟩,
   ⟨0x024, 1, 0, 1, 0, 0x0, 0x0, 0x0, 0x1, 0x0, 0x0⟩,
   ⟨0x028, 1, 0, 1, 0, 0x0, 0x0, 0x0, 0x0, 0xCFFF0FFF, 0x0⟩,
   ⟨0x02C, 1, 0, 1, 0, 0x7FF, 0x0, 0x0, 0x0, 0x0, 0x0⟩,
   ⟨0x030, 1, 0, 1, 0, 0x0, 0x0, 0x0, 0x0, 0xFFFFFFFF, 0x0⟩,
   ⟨0x034, 1, 0, 1, 0, 0x0, 0x0, 0x0, 0x0, 0xFFFFFFFF, 0x0⟩,
   ⟨0x038, 1, 0, 1, 0, 0x0, 0x0, 0x0, 0x0, 0xFFFFFFFF, 0x0⟩,
   ⟨0x03C, 1, 0, 1, 0, 0x0, 0x0, 0x0, 0xFFFFFFFF, 0x0, 0x0⟩,
   ⟨0x040, 1, 0, 1, 0, 0x0, 0x0, 0x0, 0xFFFFFFFF, 0x0, 0x0⟩,
   ⟨0x044, 1, 0, 1, 0, 0x0, 0x0, 0x0, 0x0, 0xFFFFFFFF, 0x0⟩,
   ⟨0x100, 64, 4, 1, 0, 0x0, 0xFFFFFFFF, 0x0, 0x0, 0x0, 0x0⟩,
   ⟨0x200, 256, 4, 1, 0, 0x0, 0xFFFFF7FF, 0x0, 0x0, 0x0, 0x0⟩]
def descNstore0 : List RegDesc :=
  [⟨0x020, 1, 0, 1, 0, 0x0, 0x0, 0x0, 0x0, 0xF80300B0, 0x20000⟩,
   ⟨0x024, 1, 0, 1, 0, 0x0, 0x0, 0x0, 0x0, 0xC0FFFFFF, 0x0⟩,
   ⟨0x028, 1, 0, 1, 0, 0x0, 0x0, 0x0, 0x0, 0xFFFFFFFF, 0x0⟩,
   ⟨0x02C, 1, 0, 1, 0, 0x0, 0x0, 0x0, 0x0, 0xC0FFFFFF, 0x0⟩,
   ⟨0x030, 1, 0, 1, 0, 0x0, 0x0, 0x0, 0x0, 0xFFFFFFFF, 0x0⟩,
   ⟨0x034, 1, 0, 1, 0, 0x0, 0x0, 0x0, 0x7, 0x0, 0x0⟩,
   ⟨0x038, 1, 0, 1, 0, 0x0, 0x0, 0x0, 0x0, 0xFFFFFFFF, 0x0⟩,
   ⟨0x03C, 1, 0, 1, 0, 0x0, 0x0, 0x0, 0xFFFFFFFF, 0x0, 0x0⟩,
   ⟨0x040, 1, 0, 1, 0, 0x0, 0x0, 0x0, 0x101, 0x0, 0x0⟩,
   ⟨0x044, 1, 0, 1, 0, 0x0, 0x0, 0x0, 0x0, 0xF807FFFF, 0x0⟩,
   ⟨0x048, 1, 0, 1, 0, 0x0, 0x80000000, 0x0, 0x0, 0x0, 0x80000000⟩,
   ⟨0x050, 1, 0, 1, 0, 0x0, 0x0, 0x0, 0x0, 0xFFFFFFFF, 0x0⟩,
   ⟨0x054, 1, 0, 1, 0, 0x0, 0x0, 0x0, 0x0, 0xFFFFFFFF, 0x0⟩,
   ⟨0x058, 1, 0, 1, 0, 0x0, 0x0, 0x0, 0x0, 0xFFFFFFFF, 0x0⟩,
   ⟨0x05C, 1, 0, 1, 0, 0x0, 0x0, 0x0, 0x0, 0xFFFFFFFF, 0x0⟩,
   ⟨0x060, 1, 0, 1, 0, 0x0, 0x0, 0x0, 0x0, 0xFFFFFFFF, 0x0⟩,
   ⟨0x064, 1, 0, 1, 0, 0x0, 0x0, 0x0, 0x0, 0xFFFFFFFF, 0x0⟩,
   ⟨0x068, 1, 0, 1, 0, 0x0, 0x0, 0x0, 0x0, 0xFFFFFFFF, 0x0⟩,
   ⟨0x06C, 1, 0, 1, 0, 0x0, 0x0, 0x0, 0xFFFFFFFF, 0x0, 0x0⟩,
   ⟨0x070, 1, 0, 1, 0, 0x0, 0x0, 0x0, 0x0, 0xE00001FF, 0x0⟩]
def descNstore1 : List RegDesc :=
  [⟨0x074, 1, 0, 1, 0, 0x0, 0x0, 0x0, 0x3, 0x0, 0x0⟩,
   ⟨0x080, 16, 8, 1, 0, 0x0, 0xFFFFFFFF, 0x0, 0x0, 0x0, 0x0⟩,
   ⟨0x084, 16, 8, 1, 0, 0x0, 0xFFFFFFFF, 0x0, 0x0, 0x0, 0x0⟩,
   ⟨0x800, 510, 4, 1, 0, 0x0, 0x0, 0x0, 0x0, 0xFFFFFFFF, 0x0⟩]
def descNstore : List RegDesc := descNstore0 ++ descNstore1
def descFab : List RegDesc :=
  [⟨0x020, 1, 0, 1, 0, 0x0, 0xFFFF00FF, 0x0, 0x0, 0x0, 0x88B50080⟩,
   ⟨0x024, 1, 0, 1, 0, 0x0, 0x0, 0x0, 0x0, 0xF000FFFF, 0x0⟩,
   ⟨0x028, 1, 0, 1, 0, 0x0, 0x0, 0x0, 0x8000FFFF, 0x0, 0x0⟩,
   ⟨0x02C, 1, 0, 1, 0, 0x0, 0x0, 0x0, 0x0, 0x9F1F1FFF, 0x80000001⟩,
   ⟨0x030, 1, 0, 1, 0, 0x0, 0x0, 0x0, 0x0, 0xFFFFFFFF, 0x0⟩,
   ⟨0x034, 1, 0, 1, 0, 0x0, 0x0, 0x0, 0x0, 0xFFFFFFFF, 0x0⟩,
   ⟨0x038, 1, 0, 1, 0, 0x0, 0x0, 0x0, 0x0, 0x8003FFFF, 0x0⟩,
   ⟨0x03C, 1, 0, 1, 0, 0x0, 0x0, 0x0, 0x0, 0xFFFFFFFF, 0x0⟩,
   ⟨0x040, 1, 0, 1, 0, 0x0, 0x0, 0x0, 0x0, 0xFFFFFFFF, 0x0⟩,
   ⟨0x044, 1, 0, 1, 0, 0xFFFF, 0x0, 0x0, 0x0, 0x0, 0x0⟩,
   ⟨0x048, 1, 0, 1, 0, 0x0, 0x0, 0x0, 0x0, 0xCF1F0000, 0x0⟩,
   ⟨0x04C, 1, 0, 1, 0, 0x0, 0x0, 0x0, 0x0, 0xFFFFFFFF, 0x0⟩,
   ⟨0x050, 1, 0, 1, 0, 0x0, 0x0, 0x0, 0x0, 0x1FFF, 0x0⟩,
   ⟨0x080, 16, 4, 1, 0, 0x0, 0x8000FFFF, 0x0, 0x0, 0x0, 0x0⟩]
def descFport : List RegDesc :=
  [⟨0x020, 1, 0, 1, 0, 0x0, 0x300, 0x0, 0x0, 0x0, 0x100⟩,
   ⟨0x024, 1, 0, 1, 0, 0x0, 0x0, 0x0, 0x0, 0xFF03FFFF, 0x0⟩,
   ⟨0x028, 1, 0, 1, 0, 0x0, 0x0, 0x0, 0x0, 0xFFFFFFFF, 0x0⟩,
   ⟨0x02C, 1, 0, 1, 0, 0x0, 0x0, 0x0, 0x0, 0xFFFFFFFF, 0x0⟩,
   ⟨0x030, 1, 0, 1, 0, 0x0, 0x0, 0x0, 0x0, 0xFFFFFFFF, 0x0⟩,
   ⟨0x034, 1, 0, 1, 0, 0x0, 0x0, 0x0, 0x0, 0xFFFFFFFF, 0x0⟩,
   ⟨0x038, 1, 0, 1, 0, 0x0, 0x0, 0x0, 0x0, 0xFFFFFFFF, 0x0⟩,
   ⟨0x03C, 1, 0, 1, 0, 0x0, 0x0, 0x0, 0x0, 0xFFFFFFFF, 0x0⟩,
   ⟨0x040, 1, 0, 1, 0, 0x0, 0x0, 0x0, 0x0, 0xFFFF, 0x0⟩]
def descPdir : List RegDesc :=
  [⟨0x020, 1, 0, 1, 0, 0x0, 0x0, 0x0, 0x0, 0x7FFF7FFF, 0x0⟩,
   ⟨0x024, 1, 0, 1, 0, 0x0, 0x0, 0x0, 0x0, 0x80007FFF, 0x0⟩,
   ⟨0x028, 1, 0, 1, 0, 0x0, 0x1FFF, 0x0, 0x0, 0x0, 0x100⟩,
   ⟨0x02C, 1, 0, 1, 0, 0x0, 0x0, 0x0, 0x0, 0xFFFF1FFF, 0x0⟩,
   ⟨0x030, 1, 0, 1, 0, 0x0, 0x0, 0x0, 0x0, 0xFFFFFFFF, 0x0⟩,
   ⟨0x034, 1, 0, 1, 0, 0x0, 0x0, 0x0, 0x0, 0x3FFF, 0x0⟩,
   ⟨0x038, 1, 0, 1, 0, 0x3FFF, 0x0, 0x0, 0x0, 0x0, 0x0⟩,
   ⟨0x03C, 1, 0, 1, 0, 0x0, 0x0, 0x0, 0x0, 0xF0000000, 0x0⟩,
   ⟨0x040, 1, 0, 1, 0, 0x0, 0xFF, 0x0, 0x0, 0x0, 0x4⟩,
   ⟨0x044, 1, 0, 1, 0, 0x3FF, 0x0, 0x0, 0x0, 0x0, 0x0⟩,
   ⟨0x048, 1, 0, 1, 0, 0x0, 0x803FFFFF, 0x0, 0x0, 0x0, 0x10000⟩,
   ⟨0x04C, 1, 0, 1, 0, 0x0, 0x0, 0x0, 0x0, 0xFFE3FC00, 0x0⟩,
   ⟨0x050, 1, 0, 1, 0, 0x0, 0x0, 0x0, 0x0, 0x7FF0FFF, 0x0⟩,
   ⟨0x054, 1, 0, 1, 0, 0x0, 0x0, 0x0, 0x0, 0xFFF, 0x0⟩,
   ⟨0x058, 1, 0, 1, 0, 0x0, 0x0, 0x0, 0x0, 0xFFFFFFFF, 0x0⟩,
   ⟨0x05C, 1, 0, 1, 0, 0x0, 0x0, 0x0, 0x0, 0xFFFFFFFF, 0x0⟩,
   ⟨0x060, 4, 4, 1, 0, 0x0, 0x0, 0x0, 0x0, 0xFFFFFF, 0x0⟩,
   ⟨0x070, 1, 0, 1, 0, 0x0, 0x0, 0x0, 0x0, 0xFFFFFFFF, 0x0⟩,
   ⟨0x074, 1, 0, 1, 0, 0x0, 0x0, 0x0, 0x0, 0xFFFF01FF, 0x0⟩,
   ⟨0x080, 4, 4, 1, 0, 0x0, 0x0, 0x0, 0x0, 0xFFFFFFFF, 0x0⟩]
def descLevee0 : List RegDesc :=
  [⟨0x020, 1, 0, 1, 0, 0x0, 0x0, 0x0, 0x0, 0xF0000000, 0x0⟩,
   ⟨0x024, 1, 0, 1, 0, 0x0, 0x0, 0x0, 0x0, 0xFFFFFFFF, 0x0⟩,
   ⟨0x028, 1, 0, 1, 0, 0xFFF, 0x0, 0x0, 0x0, 0x0, 0x258⟩,
   ⟨0x02C, 1, 0, 1, 0, 0x0, 0x0, 0x0, 0x0, 0xFFFFFFFF, 0x0⟩,
   ⟨0x030, 1, 0, 1, 0, 0x0, 0x0, 0x0, 0x0, 0xFFFFFFFF, 0x0⟩,
   ⟨0x034, 1, 0, 1, 0, 0x0, 0x0, 0x0, 0x0, 0xFFFFFFFF, 0x0⟩,
   ⟨0x038, 1, 0, 1, 0, 0x0, 0x0, 0x0, 0x0, 0xFFFFFFFF, 0x0⟩,
   ⟨0x040, 4, 4, 1, 0, 0x0, 0x0, 0x0, 0xFFFFFFFF, 0x0, 0x0⟩,
   ⟨0x050, 1, 0, 1, 0, 0x0, 0x0, 0x0, 0x1, 0x0, 0x0⟩,
   ⟨0x054, 1, 0, 1, 0, 0x0, 0x0, 0x0, 0x0, 0xFFFF003F, 0x0⟩,
   ⟨0x058, 1, 0, 1, 0, 0x0, 0x0, 0x0, 0x0, 0xFFFFFFFF, 0x0⟩,
   ⟨0x05C, 1, 0, 1, 0, 0x0, 0x0, 0x0, 0x0, 0xFFFFFFFF, 0x0⟩,
   ⟨0x060, 1, 0, 1, 0, 0x0, 0x0, 0x0, 0xFFFFFFFF, 0x0, 0x0⟩,
   ⟨0x064, 1, 0, 1, 0, 0x0, 0x0, 0x0, 0x1, 0x0, 0x0⟩,
   ⟨0x070, 1, 0, 1, 0, 0xFF, 0x0, 0x0, 0x0, 0x0, 0xFF⟩,
   ⟨0x074, 1, 0, 1, 0, 0x800003FE, 0x0, 0x0, 0x0, 0x60000000, 0x0⟩,
   ⟨0x078, 1, 0, 1, 0, 0xFFFFFFFF, 0x0, 0x0, 0x0, 0x0, 0x0⟩,
   ⟨0x07C, 1, 0, 1, 0, 0xFFFFFFFF, 0x0, 0x0, 0x0, 0x0, 0x0⟩,
   ⟨0x080, 1, 0, 1, 0, 0x0, 0x0, 0x0, 0x0, 0xFFFFFF, 0x0⟩,
   ⟨0x084, 1, 0, 1, 0, 0x0, 0x0, 0x0, 0x0, 0xFFFFFFFF, 0x0⟩]
def descLevee1 : List RegDesc :=
  [⟨0x088, 1, 0, 1, 0, 0x0, 0x0, 0x0, 0x0, 0xFFFFFFFF, 0x0⟩,
   ⟨0x08C, 1, 0, 1, 0, 0x0, 0x0, 0x0, 0x0, 0xF000003F, 0x0⟩,
   ⟨0x090, 1, 0, 1, 0, 0x0, 0x0, 0x0, 0x0, 0xFFFFFFFF, 0x0⟩]
def descLevee : List RegDesc := descLevee0 ++ descLevee1
def descFault : List RegDesc :=
  [⟨0x020, 1, 0, 1, 0, 0x0, 0x100, 0x0, 0x1, 0x0, 0x100⟩,
   ⟨0x024, 1, 0, 1, 0, 0x0, 0x0, 0x0, 0x0, 0xFFF000FF, 0x0⟩,
   ⟨0x028, 1, 0, 1, 0, 0x0, 0x0, 0x0, 0x0, 0xFFFFFFFF, 0x0⟩,
   ⟨0x02C, 1, 0, 1, 0, 0x0, 0xC0FFFFFF, 0x0, 0x0, 0x0, 0x0⟩,
   ⟨0x030, 1, 0, 1, 0, 0x0, 0x0, 0x0, 0x0, 0xFFFFFFFF, 0x0⟩,
   ⟨0x034, 1, 0, 1, 0, 0x0, 0x0, 0x0, 0x0, 0xFFFF, 0x0⟩,
   ⟨0x038, 1, 0, 1, 0, 0x0, 0x0, 0x0, 0x0, 0x800FFFFF, 0x0⟩,
   ⟨0x03C, 1, 0, 1, 0, 0x0, 0x0, 0x0, 0x0, 0xCF00FFFF, 0x0⟩,
   ⟨0x040, 1, 0, 1, 0, 0x0, 0x0, 0x0, 0x0, 0xFFFFFFFF, 0x0⟩,
   ⟨0x080, 27, 4, 1, 0, 0x0, 0x0, 0x80000000, 0x0, 0x7FFFFFFF, 0x0⟩,
   ⟨0x400, 128, 16, 4, 4, 0x0, 0x0, 0x0, 0x0, 0xFFFFFFFF, 0x0⟩]
def descKey : List RegDesc :=
  [⟨0x020, 1, 0, 1, 0, 0x0, 0xFFFFFF00, 0x0, 0x0, 0x0, 0x32140F00⟩,
   ⟨0x024, 1, 0, 1, 0, 0x0, 0x0, 0x0, 0x0, 0xE000FF1F, 0x0⟩,
   ⟨0x028, 1, 0, 1, 0, 0x0, 0x0, 0x0, 0x0, 0xF07FFFFF, 0x0⟩,
   ⟨0x02C, 1, 0, 1, 0, 0x0, 0x0, 0x0, 0x0, 0xFFFFFFFF, 0x0⟩,
   ⟨0x030, 1, 0, 1, 0, 0x0, 0x0, 0x0, 0x0, 0xFFFFFFFF, 0x0⟩,
   ⟨0x034, 2, 4, 1, 0, 0x0, 0x0, 0x0, 0x0, 0x1FFFF, 0x0⟩,
   ⟨0x03C, 1, 0, 1, 0, 0x0, 0x3F, 0x0, 0x0, 0x0, 0x0⟩,
   ⟨0x040, 4, 8, 1, 0, 0x0, 0xFF000000, 0x0, 0x0, 0x0, 0x3000000⟩,
   ⟨0x044, 4, 8, 1, 0, 0x0, 0xFFFFFFFF, 0x0, 0x0, 0x0, 0x0⟩,
   ⟨0x060, 1, 0, 1, 0, 0xFFFFFFFF, 0x0, 0x0, 0x0, 0x0, 0x0⟩,
   ⟨0x064, 1, 0, 1, 0, 0x0, 0x0, 0x0, 0xE0003FFF, 0x0, 0x0⟩,
   ⟨0x068, 1, 0, 1, 0, 0x0, 0x0, 0x0, 0x1, 0x0, 0x0⟩]
def descEpd : List RegDesc :=
  [⟨0x020, 1, 0, 1, 0, 0x0, 0xFFFFFFFF, 0x0, 0x0, 0x0, 0x2580320⟩,
   ⟨0x024, 1, 0, 1, 0, 0x0, 0xFFFF001F, 0x0, 0x0, 0x0, 0x4550008⟩,
   ⟨0x028, 1, 0, 1, 0, 0x0, 0x1FF, 0x0, 0x0, 0x0, 0x96⟩,
   ⟨0x02C, 1, 0, 1, 0, 0x0, 0xF8FFFF00, 0x0, 0x0, 0x0, 0xA00A0800⟩,
   ⟨0x030, 1, 0, 1, 0, 0x0, 0x80003FFF, 0x0, 0x0, 0x0, 0x0⟩,
   ⟨0x034, 1, 0, 1, 0, 0x0, 0xFFFFFFFF, 0x0, 0x0, 0x0, 0xF0A0500⟩,
   ⟨0x038, 1, 0, 1, 0, 0x0, 0xFFFFFF, 0x0, 0x0, 0x0, 0x1E1914⟩,
   ⟨0x03C, 1, 0, 1, 0, 0x0, 0x0, 0x0, 0x0, 0xFFFFFFFF, 0x0⟩,
   ⟨0x040, 1, 0, 1, 0, 0xFFFFFFFF, 0x0, 0x0, 0x0, 0x0, 0x0⟩,
   ⟨0x044, 1, 0, 1, 0, 0x0, 0x0, 0x0, 0x0, 0xC0000000, 0x0⟩,
   ⟨0x048, 1, 0, 1, 0, 0xFFFFFFFF, 0x0, 0x0, 0x0, 0x0, 0x0⟩,
   ⟨0x04C, 1, 0, 1, 0, 0xFFFFFFFF, 0x0, 0x0, 0x0, 0x0, 0x0⟩,
   ⟨0x050, 1, 0, 1, 0, 0x0, 0x0, 0x0, 0x80000003, 0x0, 0x0⟩,
   ⟨0x054, 1, 0, 1, 0, 0x0, 0x0, 0x0, 0x0, 0xF00000FF, 0x0⟩,
   ⟨0x058, 1, 0, 1, 0, 0x0, 0x0, 0x0, 0x0, 0xFF1FFFF8, 0x80⟩]

/-- The blocks in the order of SYS.IRQ_SUM's bits (R57). -/
inductive Blk where
  | sys | pwr | clk | lath | host | uch | conv | sense | rbus | pres | zone | loop | tme | blk | fan | cal | sched | store | peat | nstore | fab | fport | pdir | levee | fault | key | epd
deriving DecidableEq, Repr

/-- The first page of a block (table of R1's chapter). -/
def Blk.first : Blk → Nat
  | .sys => 0x00
  | .pwr => 0x01
  | .clk => 0x02
  | .lath => 0x03
  | .host => 0x04
  | .uch => 0x08
  | .conv => 0x10
  | .sense => 0x18
  | .rbus => 0x19
  | .pres => 0x1D
  | .zone => 0x20
  | .loop => 0x40
  | .tme => 0x60
  | .blk => 0x61
  | .fan => 0x62
  | .cal => 0x68
  | .sched => 0x69
  | .store => 0x70
  | .peat => 0x71
  | .nstore => 0x72
  | .fab => 0x78
  | .fport => 0x79
  | .pdir => 0x7D
  | .levee => 0x80
  | .fault => 0x88
  | .key => 0x90
  | .epd => 0x91

/-- How many pages a block owns. -/
def Blk.count : Blk → Nat
  | .sys => 1
  | .pwr => 1
  | .clk => 1
  | .lath => 1
  | .host => 1
  | .uch => 4
  | .conv => 8
  | .sense => 1
  | .rbus => 4
  | .pres => 1
  | .zone => 16
  | .loop => 32
  | .tme => 1
  | .blk => 1
  | .fan => 3
  | .cal => 1
  | .sched => 1
  | .store => 1
  | .peat => 1
  | .nstore => 1
  | .fab => 1
  | .fport => 4
  | .pdir => 1
  | .levee => 1
  | .fault => 1
  | .key => 1
  | .epd => 1

/-- The defined event bits of a block's IRQ_STAT, IRQ_EN and IRQ_TEST. -/
def Blk.irqMask : Blk → Nat
  | .sys => 0x3
  | .pwr => 0x7F
  | .clk => 0xFF
  | .lath => 0x3F
  | .host => 0x7
  | .uch => 0xFFFFFF
  | .conv => 0xF
  | .sense => 0x1
  | .rbus => 0x7
  | .pres => 0x3
  | .zone => 0x3F3F
  | .loop => 0xFFFF
  | .tme => 0x1F
  | .blk => 0x7
  | .fan => 0xFFFFFF
  | .cal => 0x7
  | .sched => 0x7
  | .store => 0x1F
  | .peat => 0x7
  | .nstore => 0x3F
  | .fab => 0x3F
  | .fport => 0x7
  | .pdir => 0xF00F
  | .levee => 0xF
  | .fault => 0x7F
  | .key => 0x1F
  | .epd => 0x3F

/-- The block-specific registers of a block's page. -/
def Blk.desc : Blk → List RegDesc
  | .sys => descSys
  | .pwr => descPwr
  | .clk => descClk
  | .lath => descLath
  | .host => descHost
  | .uch => descUch
  | .conv => descConv
  | .sense => descSense
  | .rbus => descRbus
  | .pres => descPres
  | .zone => descZone
  | .loop => descLoop
  | .tme => descTme
  | .blk => descBlk
  | .fan => descFan
  | .cal => descCal
  | .sched => descSched
  | .store => descStore
  | .peat => descPeat
  | .nstore => descNstore
  | .fab => descFab
  | .fport => descFport
  | .pdir => descPdir
  | .levee => descLevee
  | .fault => descFault
  | .key => descKey
  | .epd => descEpd

def allBlks : List Blk :=
  [.sys, .pwr, .clk, .lath, .host, .uch, .conv, .sense, .rbus, .pres, .zone, .loop, .tme, .blk, .fan, .cal, .sched, .store, .peat, .nstore, .fab, .fport, .pdir, .levee, .fault, .key, .epd]

/-- The block that owns page `p`, if the page is assigned (R42). -/
def blkOfPage (p : Nat) : Option Blk := allBlks.find? (fun b => b.first ≤ p && p < b.first + b.count)

/-- The bit of SYS.IRQ_SUM of a block. -/
def Blk.sumBit (b : Blk) : Nat := allBlks.idxOf b

/-- Whether row `d` describes the page offset `o`. -/
def RegDesc.covers (d : RegDesc) (o : Nat) : Bool :=
  let r := o - d.off
  let i := if d.s1 = 0 then 0 else r / d.s1
  let r' := r - i * d.s1
  let j := if d.s2 = 0 then 0 else r' / d.s2
  d.off ≤ o && i < d.n1 && j < d.n2 && i * d.s1 + j * d.s2 = r

/-- The register row at a host address of register space, if any. -/
def descAt (a : Nat) : Option RegDesc :=
  match blkOfPage (a / 0x1000) with
  | none => none
  | some b => b.desc.find? (fun d => d.covers (a % 0x1000))

/-- The reset word of every register: the common registers by R49, the others by their table. BLK_CTRL.EN and
BLK_STAT.EN_ACK reset to 1 on every page, and SYS.IRQ_STAT.RESET_DONE to 1. -/
def resetWord (a : Nat) : Word :=
  match blkOfPage (a / 0x1000) with
  | none => 0
  | some b =>
    match a % 0x1000 with
    | 0x000 => BitVec.ofNat 32 ((0xD000 + b.first) * 0x10000 + (a / 0x1000 - b.first) * 0x100 + 0x02)
    | 0x004 => 1
    | 0x008 => 1
    | 0x00C => if b = .sys then 1 else 0
    | _ => match descAt a with
      | some d => BitVec.ofNat 32 d.reset
      | none => 0

end Sys2Proof.Machine
end

