-- ==== Sys2Proof/Machine/State.lean ====
section
/-! DEFINITION. The state of the block: every register face (one sparse file against the reset words of Machine/Regs.lean),
every window and store, every queue, timer and hidden engine state that spec/ gives the ZX96, and the queue of waiting
commands. Plain data throughout. Times are TIMEBASE microseconds; point values are Q16.16 integers. -/
set_option Elab.async false
namespace Sys2Proof.Machine

/-- No meaning of this model faults: the block reports its errors in its own registers. The one constructor is for a
state outside `State.wf` and is raised by no meaning. Safe. -/
inductive Fault where
  /-- Raised by no meaning (safe). -/
  | unreachable
deriving DecidableEq, Repr

/-- Refusals. -/
inductive Refusal where
  /-- The arm of a command that has no meaning yet; raised by `exec` only (safe: a claim becomes unprovable). -/
  | notModelled (mnemonic : String)
deriving DecidableEq, Repr

/-- Point status (R368). -/
inductive Status where
  | ok | stale | fault | overridden | substituted | unconfirmed
deriving DecidableEq, Repr

/-- A value that one engine hands to another: Q16.16 value, status and timestamp (R368, R372). -/
structure Val where
  v : Int := 0
  st : Status := .unconfirmed
  ts : Nat := 0
deriving DecidableEq, Repr

/-- The two frame rates (R12). -/
inductive Rate where
  | lath | skim
deriving DecidableEq, Repr

/-! ### Host port (chapter *Register space and the host port*) -/

structure Port where
  /-- The HI register captured by a LO read: its address, value and the time of the LO read (R47). -/
  snap : Option (Nat × Word × Nat) := none
  /-- Staged LO writes: LO address, word and time (R48). -/
  staged : List (Nat × Word × Nat) := []
  /-- Pages whose LOCK has taken 0x0000_5A5A, and when, with no other write since (R55). -/
  lockSeq : List (Nat × Nat) := []
  /-- RESP of the previous transaction (R60, R61). -/
  resp : Nat := 0
  /-- The words returned by the last READ, and its data CRC when CRC_EN = 1 (R58, R64). -/
  rdata : List Word := []
  rcrc : Option Nat := none
  /-- HOST_STATUS as driven in the last transaction (R60); `none` when the device did not drive HIO1 (R488). -/
  hostStatus : Option Nat := none
deriving DecidableEq, Repr

/-! ### Frame (chapter *The lath frame*) -/

/-- A running activation (R306–R309): its source, the writes collected from the image blocks and the restore list, each
with its block index, and how far it has come. -/
inductive ActStage where
  /-- Blocks applied to the pending configuration; the LATH check is due (R27). -/
  | applied
  /-- Accepted; the switch edge E is due (R33). -/
  | accepted
  /-- Refused by NSTORE or LATH at start-up; SLOT_ATTEMPT_DONE is due (R309). -/
  | refused
deriving DecidableEq, Repr

structure Activation where
  slot : Nat := 0
  startup : Bool := false
  writes : List (Nat × Word × Nat) := []
  stage : ActStage := .applied
  /-- The restore list was applied in this attempt (R309). -/
  restored : Bool := false
  /-- The pending directory as it stood when the check began (R371). -/
  dir : Map Word := []
  /-- The pending block network as it stood when the check began (R210). -/
  net : Map Word := []
  /-- The pending schedule tables as they stood when the check began (R269). -/
  sch : Map Word := []
  /-- The operating point selected by R31. -/
  op : Nat := 0
  /-- The pending stream definitions as they stood when the check began (R353). -/
  strm : Map Word := []
  /-- The block order found by R213. -/
  order : List Nat := []
  /-- The command session that asked, for the audit record: 0xFF host port, 0xFE device (R310). -/
  sess : Nat := 0xFE
  src : Nat := 0
deriving DecidableEq, Repr

structure LathSt where
  /-- Frames run: the first commit E has happened since reset, and no period gap is in progress. -/
  running : Bool := false
  /-- SAFE configuration: frames run with no engines (R35). -/
  safe : Bool := false
  /-- Capture edge of the running lath frame, and the instant its commit edge is due (R11, R23). -/
  cap : Nat := 0
  due : Nat := 0
  /-- Phase in progress: 2–6, or 7 when every phase has finished (R13). -/
  phase : Nat := 7
  /-- Skim frame j and its capture edge (R11). -/
  skim : Nat := 0
  skimCap : Nat := 0
  /-- The device resets at the next lath edge, with this cause (R38, R413, R418). -/
  resetAtEdge : Option Nat := none
  /-- The activation in progress. -/
  act : Option Activation := none
  /-- E′, while a period change keeps frames from running (R34). -/
  gapTo : Option Nat := none
  /-- The last frame of the old configuration has committed at E; the switch is due (R33). -/
  atE : Bool := false
  /-- SAFE configuration has been selected at start-up and begins at E (R490). -/
  safeSel : Bool := false
  /-- When the start-up selected its configuration: t_ready (R485). -/
  readyAt : Nat := 0
  /-- The first commit of a new configuration is still to come: the operating point to lower to (R32). -/
  opAfter : Option Nat := none
  /-- Admission records of streams from other devices (R26): source, stream, number, hops, instant of the last refresh. -/
  adm : List (Nat × Nat × Nat × Nat × Nat) := []
  /-- Load currents, mA, as measured over the frame that ended at the last edge of each rate (R238, R454). -/
  curL : List (Nat × Nat) := []
  curS : List (Nat × Nat) := []
deriving DecidableEq, Repr

/-! ### Universal channels -/

/-- Who holds level 0 of an output (R86, R88); `gov` is the governor of a fan drive (R241, R246). -/
inductive L0Owner where
  | path | devFs | rdbk | lswSc | lswOt | shed | blocked | core | gov | arail
deriving DecidableEq, Repr

/-- A write to a level of an output's priority array: output 0–95 is a channel, 96 + g the drive of fan governor g.
`none` empties the level. -/
structure LvWrite where
  out : Nat
  lv : Nat
  v : Option Int
deriving DecidableEq, Repr

/-- A level-0 write or release staged by the fault manager, with the time its processing ended (R409). -/
structure L0Write where
  out : Nat
  owner : L0Owner
  set : Bool
  time : Nat
deriving DecidableEq, Repr

structure Chan where
  /-- Mode the channel is set to since the last edge that changed it, in effect outside gaps, HIZ-PROTECT and EN = 0. -/
  mode : Nat := 0
  /-- The channel has left HIZ for the first time (R83). -/
  started : Bool := false
  /-- EN of its page as taken at the last lath edge (R100). -/
  en : Bool := true
  /-- End of the mode gap (R84). -/
  gapEnd : Option Nat := none
  hizProt : Bool := false
  /-- The pin has been below the re-entry level since (R94). -/
  belowSince : Option Nat := none
  /-- A write of FLT_CLR.OVV below the re-entry level, waiting for the edge (R94). -/
  reenter : Bool := false
  /-- Committed value (UCHn.OUT), whether it was clamped, and the edge that last changed it (R80, R91). -/
  out : Int := 0
  clamp : Bool := false
  changedAt : Nat := 0
  /-- Duty in steps of FREQ / 100 MHz taken by the stage (R81). -/
  duty : Nat := 0
  /-- FLT: direction in force (1 open, −1 close, 0 stop), the half last on, and when it turned off (R82). -/
  fltDir : Int := 0
  fltLast : Int := 0
  fltOff : Nat := 0
  /-- A reversal was commanded since the last half turned off: the dead time also holds for its return (R82). -/
  fltRev : Bool := false
  /-- Time each half has been on, µs, up to the instant `fltAt` (R178). -/
  onOpen : Nat := 0
  onClose : Nat := 0
  fltAt : Nat := 0
  /-- LSW: the switch is on. -/
  lswOn : Bool := false
  /-- FLT under FAILSAFE VALUE: when both halves turn off (R98), and whether they have. -/
  fsEnd : Option Nat := none
  fsDone : Bool := false
  /-- Readback streak and its pending verification (R91, R92). -/
  streak : Nat := 0
  verify : Bool := false
  rdbk : Int := 0
  /-- Active faults of R93, bit (cause − 1); the latched ones among RDBK, LSW_SC, LSW_OT. -/
  faults : Nat := 0
  latched : Nat := 0
  /-- Consecutive results with, and without, each of OPEN, SHORT, LOOP_BRK, OVI (R93). -/
  runs : List (Nat × Nat) := [(0, 0), (0, 0), (0, 0), (0, 0)]
  /-- LSW_SC (7) and LSW_OT (8) events with their times (R96). -/
  events : List (Nat × Nat) := []
  /-- The LSW stage is off after an event: the time of an LSW_SC, or an LSW_OT waiting for its temperature. -/
  scOff : Option Nat := none
  otOff : Bool := false
  /-- AI-I burden: when it opened, and the start of a closure in progress (R95). -/
  burdenOpen : Option Nat := none
  closure : Option Nat := none
  /-- DI: reported state, the level at the comparator and since when (R77). -/
  di : Bool := false
  diRaw : Bool := false
  diSince : Nat := 0
  cnt : Nat := 0
  period : Nat := 0
  lastEdge : Option Nat := none
  /-- Results of intervals that began before this instant carry STALE (R83, R84). -/
  staleTill : Nat := 0
  /-- Power-governor step 0–4 and the power saved by its last step, mW (R456, R458). -/
  step : Nat := 0
  saved : Nat := 0
  /-- On-resistance of the stage, mΩ, as the front end measured it at the last mode entry (R238). -/
  ron : Nat := 0
deriving DecidableEq, Repr

/-! ### Fault manager (chapter *Faults, interrupts and failsafe*) -/

inductive FClass where
  | minor | major | critical
deriving DecidableEq, Repr

/-- A request of a fault source (R406): a raise with its repeat count, or a clear. -/
structure FReq where
  code : Nat
  inst : Nat
  cls : FClass
  clear : Bool := false
  rep : Nat := 0
deriving DecidableEq, Repr

/-- An active fault; `slot` is its record in FAULT.LIST, when it holds one (R413). `settled` once its raise settled. -/
structure FRec where
  code : Nat
  inst : Nat
  cls : FClass
  rep : Nat
  time : Nat
  slot : Option (Fin 128)
  settled : Bool := false
  /-- The rate of the commit edge at which its handling ends (R409). -/
  ends : Rate := .lath
deriving DecidableEq, Repr

structure FaultSt where
  /-- Requests held in their sources' pending flags, in order of arrival (R406). -/
  flags : List FReq := []
  ordQ : List FReq := []
  critQ : List FReq := []
  /-- The request being processed, and since when. -/
  proc : Option (FReq × Nat) := none
  /-- A request suspended by a CRITICAL one, with the time its processing has taken, µs (R410). -/
  susp : Option (FReq × Nat) := none
  active : List FRec := []
  /-- Since when the ordinary queue has been full (R412). -/
  fullSince : Option Nat := none
  stopped : Bool := false
  /-- Level-0 writes and releases staged by processing (R409). -/
  staged : List L0Write := []
  /-- A CRITICAL raise under CRIT_POLICY has been processed and awaits its settlement (R413). -/
  critWait : Bool := false
  /-- Alarm payloads waiting to be sent, oldest first (R419). -/
  alarms : List (List Byte) := []
  /-- The failsafe path: per output, its FS_ACT and FS_VAL as loaded at E, and its last committed value (R417). -/
  fsAct : Map (Nat × Int) := []
  fsOut : Map Int := []
  /-- TJ_CRIT is held. -/
  tjHeld : Bool := false
  /-- Since when the highest temperature has been below 125 °C. -/
  tjBelow : Option Nat := none
deriving DecidableEq, Repr

/-! ### Converter cores (chapter *Conversion cores, the scan and the sluice*) -/

/-- What a core is doing: an ordinary conversion, a discharge, or an urgent conversion (R103, R116, R120). -/
inductive ConvPh where
  | conv | disch | urgent
deriving DecidableEq, Repr

/-- Valid raw samples of one interval: sum, count, over-range seen high, seen low, last over-range was high (R110). -/
structure Acc where
  acc : Nat := 0
  n : Nat := 0
  oh : Bool := false
  ol : Bool := false
  lastHi : Bool := false
deriving DecidableEq, Repr

structure Core where
  run : Bool := false
  slot : Nat := 0
  ph : ConvPh := .conv
  /-- Start of what the core is doing, and of the round, in 20 ns ticks of TIMEBASE (R103). -/
  t0 : Nat := 0
  roundT0 : Nat := 0
  /-- Ticks of a shortened discharge still to run after the urgent conversion (R121). -/
  left : Nat := 0
  dsc : Bool := false
  /-- Over-range slots of the running round and of the last one, and ordinary over-range conversions in the round. -/
  ovr : Nat := 0
  ovrN : Nat := 0
  /-- Samples of the open interval of each channel slot, and of the one after it. -/
  cur : Map Acc := []
  nxt : Map Acc := []
  /-- End of the last interval closed, per slot (R108). -/
  lastEnd : Map Nat := []
  /-- Correction pair in use: OFFSET and GAIN (R112, R113). -/
  cor : Map (Int × Nat) := []
  /-- SEQ of the last result, per slot. -/
  seq : Map Nat := []
  /-- Urgent requests: slot and requester (0 host, 1 SAMPLE_NOW, 2 fault manager, 3 fan governor), first in first out. -/
  queue : List (Nat × Nat) := []
  /-- Ordinary conversions completed since the last urgent one ended, up to 7 (R119). -/
  since : Nat := 0
  urgN : Nat := 0
  /-- Sums of slots 12 and 13 over the rounds of the block, and a finished block (R126). -/
  s12 : Nat := 0
  s13 : Nat := 0
  rounds : Nat := 0
  blk : Option (Nat × Nat) := none
  /-- Blocks within limit since REF, ZERO were raised. -/
  refOk : Nat := 0
  zeroOk : Nat := 0
  stallRst : Bool := false
  /-- Slot 14 samples of the running 1 ms block (R125). -/
  t14 : Nat := 0
  n14 : Nat := 0
  /-- The rail slot 15 converts next (R125). -/
  rail : Nat := 0
  /-- Rails: consecutive samples outside, and inside after a failure (R453). -/
  railOut : Map Nat := []
  railIn : Map Nat := []
deriving DecidableEq, Repr
/-! ### Sensing, room units and presence -/

/-- What the capture edge of a lath frame took from a channel: its result, and the DI state, PERIOD and CNT (R111, R129). -/
structure Cap where
  y : Int := 0
  ovhi : Bool := false
  ovlo : Bool := false
  flt : Bool := false
  stale : Bool := true
  ts : Nat := 0
  di : Bool := false
  period : Nat := 0
  cnt : Nat := 0
  /-- The committed value and the winning level of the output, and the on times of an FLT pair's halves (R173, R178). -/
  out : Int := 0
  win : Nat := 7
  onOpen : Nat := 0
  onClose : Nat := 0
deriving DecidableEq, Repr

/-- A sense context (R133, R518). -/
structure SenseSt where
  f : Int := 0
  haveGood : Bool := false
  recovering : Bool := false
  staleRun : Nat := 0
  /-- CNT at the previous capture of the point (R130 DELTA). -/
  lastCnt : Option Nat := none
  /-- The last valid transform and curve, X and Y of its points. -/
  xform : Nat := 0
  curve : List (Int × Int) := []
  out : Int := 0
  ts : Nat := 0
  st : Status := .unconfirmed
deriving DecidableEq, Repr

/-- A transaction of a port's poll cycle (R139): unit slot, function code, first register, register count, its map
entries, and for a write the registers and the point value sent. -/
structure RbTx where
  slot : Nat
  func : Nat
  reg : Nat
  n : Nat
  entries : List Nat
  data : List Nat := []
  v : Int := 0
deriving DecidableEq, Repr

/-- What a completed poll does to the point of a map entry, waiting for the capture edge (R140, R142). -/
inductive RbVal where
  | raw (v : Int)
  /-- binary32 bits of a TYPE 3 entry. -/
  | flt (bits : Nat)
  | stale
  | fault
deriving DecidableEq, Repr

structure RbUpd where
  entry : Nat
  v : RbVal
  time : Nat
deriving DecidableEq, Repr

/-- A port: what it does now. -/
inductive RbPh where
  /-- No cycle runs. -/
  | idle
  /-- A request has been sent and its reply is awaited. -/
  | reply
  /-- The silence before a retry (R141). -/
  | gap
deriving DecidableEq, Repr

structure RbPort where
  ph : RbPh := .idle
  /-- The cycle's start and the end of the previous one (R140). -/
  t0 : Nat := 0
  ended : Nat := 0
  /-- Transactions of the cycle still to do, the running one first; attempts made on it; when it was sent. -/
  todo : List RbTx := []
  tries : Nat := 0
  sent : Nat := 0
  /-- The plan made at activation (R139): its read transactions in order. -/
  plan : List RbTx := []
  /-- CFG as taken at the start of the cycle (R150). -/
  cfg : Word := 0
  /-- Per write entry, the last acknowledged value and when (R138). -/
  acked : Map (Option (Int × Nat)) := []
  upd : List RbUpd := []
  /-- Taken at a capture edge, for the sensing phase of that frame (R140). -/
  img : List RbUpd := []
deriving DecidableEq, Repr

/-- A zone's presence (R145, R147): the state the evidence gives, frames since the last evidence, last weak evidence per
source in TIMEBASE µs, and per CO2 source its ring of minutes and the entry of ten minutes before. -/
structure PresSt where
  occ : Nat := 0
  since : Nat := 0
  /-- No evidence since the start of R148: both timers are expired. -/
  expired : Bool := true
  weak : Map (Option Nat) := []
  minute : Option Nat := none
  /-- Keyed 10 × source + minute mod 10: the minute and its value. -/
  ring : Map (Option (Nat × Int)) := []
  ref : Map (Option Int) := []
  nosrc : Bool := false
  /-- The occupancy reported in the last frame. -/
  last : Nat := 0
deriving DecidableEq, Repr

/-- A PIR detector of a channel (R146), Q16.16. -/
structure PirSt where
  h : Int := 0
  z : Int := 0
  xPrev : Int := 0
  armed : Bool := false
  quiet : Nat := 0
  starts : List Nat := []
deriving DecidableEq, Repr

/-! ### Configuration images, audit log and trend store -/

/-- An image slot (R304, R305): its bytes, whether its record is valid, ASEQ and GENERATION. -/
structure Slot where
  img : List Byte := []
  valid : Bool := false
  aseq : Nat := 0
  gen : Nat := 0
deriving DecidableEq, Repr

/-- An audit record (R310), field by field; AUD_SEQ is its position. -/
structure Audit where
  time : Nat
  kind : Nat
  sess : Nat
  code : Nat
  src : Nat
  ctr : Nat
  detail : Nat
  seq : Nat
deriving DecidableEq, Repr

/-- A trend record (R312). -/
structure Trend where
  time : Nat
  point : Nat
  st : Nat
  reason : Nat
  unit : Nat
  v : Int
deriving DecidableEq, Repr

/-- A query (R314): audit or trend, its points, window, how many matching records have been returned, and whether a chunk
is owed. `peer` is the requester's address and TID for a fabric query. -/
structure Query where
  audit : Bool := false
  points : List Nat := []
  frm : Nat := 0
  upto : Nat := 0
  sent : Nat := 0
  chunk : Nat := 0
  owed : Bool := true
  done : Bool := false
  peer : Option (Nat × Nat) := none
  /-- The last chunk sent to the peer (R362). -/
  lastChunk : List Byte := []
  /-- Records lost to the wrap when the query last ran (QRY_STAT.GAP). -/
  erased : Nat := 0
deriving DecidableEq, Repr

/-- A trend segment: base in CAL seconds, number, its programmed records, and whether its header and units read back
(R312, R313). -/
structure Segment where
  base : Nat := 0
  num : Nat := 0
  recs : List Trend := []
  good : Bool := true
deriving DecidableEq, Repr

structure NstSt where
  slotA : Slot := {}
  slotB : Slot := {}
  /-- A load: erase in progress, bytes pushed so far, the check owed (R304). -/
  loading : Bool := false
  erasing : Bool := false
  checking : Bool := false
  buf : List Byte := []
  /-- The slot whose record is due after E (R308). -/
  recDue : Option Nat := none
  aud : List Audit := []
  audSeq : Nat := 0
  /-- Oldest audit records erased (AUDIT is circular). -/
  audErased : Nat := 0
  /-- Last recorded value, status and time of each trended point (R311). -/
  last : Map (Option (Int × Nat × Nat)) := []
  /-- Records buffered and not yet programmed (R312, R313). -/
  pendRecs : List Trend := []
  segs : List Segment := []
  segNum : Nat := 0
  segNew : Bool := true
  erasedRecs : Nat := 0
  query : Option Query := none
  peers : List Query := []
  spares : Nat := 0
deriving DecidableEq, Repr

/-! ### Point directory -/

/-- A remote update received and not yet in an input image (R24, R25, R380). -/
structure RxUpd where
  entry : Nat
  v : Int
  st : Status
  /-- End of reception, and the earliest capture edge that may take it. -/
  time : Nat
  notBefore : Nat
  viaT : Bool
  hops : Nat
deriving DecidableEq, Repr

structure DirSt where
  /-- Pending and running words 0–4 of the entries, keyed by window offset / 4 (R369, R371). -/
  pend : Map Word := []
  run : Map Word := []
  /-- Remote updates received since the last capture, in order (R380). -/
  rx : List RxUpd := []
  /-- Last update of each remote entry: status carried, time of reception. -/
  upd : Map (Option (Status × Nat)) := []
  /-- VIA_T and HOPS of the last update of each remote entry. -/
  via : Map (Bool × Nat) := []
  /-- Writes of HOST values waiting for the next skim capture edge, in order of completion (R18, R377). -/
  hostW : List (Nat × Int) := []
  /-- Written TREND, TCLASS, MIN_INT, MAX_INT, STALE_T and COV bits waiting for the lath capture edge: key, mask, word
  (R371). -/
  liveW : List (Nat × Word × Word) := []
  /-- Last published value, status and time of each class-E point; due since (R374, R375). -/
  pub : Map (Option (Int × Status × Nat)) := []
  due : Map (Option Nat) := []
  /-- Subscriber lists: entry → addresses with their last refresh (R378). -/
  subs : Map (List (Nat × Nat)) := []
  /-- Remote entries whose SUBSCRIBE has been sent, and when (R379). -/
  subSent : Map (Option Nat) := []
  /-- The first commit after reset or activation is still to come (R374 reason 1). -/
  first : Bool := true
deriving DecidableEq, Repr

/-! ### Reset and start-up -/

structure Boot where
  /-- The asserted reset, if one is (R479), and whether the core is held in reset (R478, R484). -/
  rst : Option Nat := some 1
  coreRst : Bool := true
  /-- RST_N is held low. -/
  rstN : Bool := false
  /-- First commit done since reset (HOST_STATUS.READY). -/
  first : Bool := false
  /-- The reset in progress or last taken was cold (R477). -/
  cold : Bool := true
  /-- The PLL has locked since the reset was released (R484). -/
  locked : Bool := false
  restored : Bool := false
  /-- When the present reset was asserted (R479, R480), and whether VCORE_X lies too low to run (R448). -/
  rstAt : Nat := 0
  lowCore : Bool := false
  /-- The source whose end releases the reset (R479). -/
  heldBy : Nat := 1
  /-- A word has asked for this reset; it is asserted when the transaction or command that carried it ends (R71). -/
  cmdRst : Option Nat := none
deriving DecidableEq, Repr
/-! ### Calendar and schedules -/

/-- What a schedule last wrote to its target: value and relinquished (R263). -/
structure Written where
  v : Int
  rel : Bool
deriving DecidableEq, Repr

/-- Schedule evaluation (R262–R266). -/
structure SchSt where
  /-- CAL minute of the last evaluation. -/
  minute : Option Nat := none
  /-- The next evaluation writes every target (R263). -/
  force : Bool := true
  written : Map (Option Written) := []
  /-- Per zone: the S whose optimised entry has fired, and the E whose coast stop has been written. -/
  fired : Map (Option Nat) := []
  coasted : Map (Option Nat) := []
  /-- Per zone: S and E of the next comfort period, and the end of the one the zone is in (R264, R195). -/
  nextS : Map (Option Nat) := []
  nextE : Map (Option Nat) := []
  curE : Map (Option Nat) := []
deriving DecidableEq, Repr

/-- The schedule tables (R268, R269), words keyed by window offset / 4. -/
structure SchTab where
  pend : Map Word := []
  run : Map Word := []
  /-- An APPLY accepted and waiting for the next evaluation: the tables it took. -/
  apply : Option (Map Word) := none
  /-- Entries and exceptions charged by the running configuration. -/
  chargedE : Nat := 0
  chargedX : Nat := 0
deriving DecidableEq, Repr

/-! ### Zone thermal models; every number is a binary32 bit pattern unless it is said otherwise -/

structure TmeSt where
  theta : List Nat := [0, 0, 0, 0, 0, 0]
  /-- Upper triangle of P, row by row. -/
  p : List Nat := []
  ms : Nat := 0x3E800000
  upd : Nat := 0
  proj : Nat := 0
  lastE : Nat := 0
  ta1 : Nat := 0
  ta2 : Nat := 0
  to1 : Nat := 0
  u1 : Nat := 0
  occ1 : Nat := 0
  sol1 : Nat := 0
  /-- Usable steps in a row, up to 2 (R186). -/
  hist : Nat := 0
  cand : Bool := false
  /-- When the anomaly flag was set, TIMEBASE µs (R191). -/
  anom : Option Nat := none
  preds : List Nat := [0, 0, 0, 0]
  predicted : Bool := false
  /-- Sums over the lath frames since the last boundary, and their number (R183). -/
  uAcc : Nat := 0
  solAcc : Nat := 0
  occN : Nat := 0
  n : Nat := 0
  /-- LEAD in s with its flags, and the S it is latched for (R193, R194). -/
  lead : Nat := 0
  leadSat : Bool := false
  dir : Nat := 0
  latch : Option Nat := none
  /-- COAST: the E it holds for, and COAST_T in s (R195). -/
  coast : Option Nat := none
  coastT : Nat := 0
  fb : Bool := true
  /-- A model is in use, and has been since its record was loaded. -/
  inUse : Bool := false
deriving DecidableEq, Repr

/-- What all zones share: To as last usable and since when it is held (R186), and the step in use, µs (R189). -/
structure TmeGl where
  toV : Int := 0
  toOk : Bool := false
  toHeld : Option Nat := none
  stepE : Nat := 0
  minute : Nat := 0
deriving DecidableEq, Repr

/-! ### Zones and loops -/

structure ZoneSt where
  eff : Nat := 0
  occ : Nat := 0
  /-- The contact has read open at every capture edge since (R158). -/
  openSince : Option Nat := none
  /-- STAT.WIN. -/
  win : Nat := 0
  shiftFlt : Bool := false
  /-- Values q = 0–7 as last computed, with their statuses. -/
  q : List (Int × Status) := []
deriving DecidableEq, Repr

/-- A write to a level of zone arrays (R154, R165): of one zone, or of a fen's members. -/
structure ZmWrite where
  fen : Bool
  idx : Nat
  lv : Nat
  v : Option Nat
deriving DecidableEq, Repr

structure LoopSt where
  /-- The running TYPE, rate and bindings (R520). -/
  typ : Nat := 0
  skim : Bool := false
  bind : List Word := []
  /-- I with its remainder, Q32.48 (R171). -/
  i : Int := 0
  d : Int := 0
  yPrev : Int := 0
  uRaw : Int := 0
  uSat : Int := 0
  u : Int := 0
  st : Status := .unconfirmed
  state : Nat := 0
  w : Int := 0
  y : Int := 0
  evaluated : Bool := false
  /-- The next frame is a fresh start; or the first after a switch; or has a parameter write taking effect (R174, R175). -/
  fresh : Bool := true
  sw : Bool := false
  par : Bool := false
  /-- ONOFF state and since when. -/
  s : Bool := false
  sAt : Nat := 0
  /-- STEP3: position, SYNC, command (1 open, −1 close), end drives, and the on times at the last capture. -/
  p : Int := 6553600
  sync : Bool := true
  cmd : Int := 0
  endOpen : Bool := false
  endClose : Bool := false
  onOpen : Nat := 0
  onClose : Nat := 0
  seen : Bool := false
  /-- SEQ. -/
  x : Int := 0
  reinit : Bool := false
  cas : Bool := false
  pos : Nat := 0
deriving DecidableEq, Repr
/-! ### The parameter store and peat -/

/-- A physical slot of a store page (R273, R274): never programmed, or its header and data; `valid` when COMMIT and the
CRC agree. -/
structure PSlot where
  erased : Bool := true
  valid : Bool := false
  seq : Nat := 0
  run : Nat := 0
  data : List Word := []
deriving DecidableEq, Repr

/-- Sources of a run (STORE.LAST_RUN.SRC). -/
inductive RunSrc where
  | window | staged | tme | fan | levee | fab | control
deriving DecidableEq, Repr

/-- A write run (R275): where, what, and for whom; pages left and committed, and the attempts made on the present page.
`tag` tells the requester which of its runs it is. -/
structure Run where
  src : RunSrc
  addr : Nat
  bytes : List Byte
  tag : Nat := 0
  id : Nat := 0
  total : Nat := 0
  done : Nat := 0
  tries : Nat := 0
deriving DecidableEq, Repr

/-- A BASE copy (R290): valid, erased or neither; VALUE, and EPOCH or SEQ. -/
structure PBase where
  valid : Bool := false
  erased : Bool := true
  v : Int := 0
  epoch : Nat := 0
deriving DecidableEq, Repr

/-- A programmed cell (R290): valid, TAG and SUB. -/
structure PCell where
  valid : Bool := false
  tag : Nat := 0
  sub : Nat := 0
deriving DecidableEq, Repr

/-- What peat does with an entry's array: a cell, or a copy of a BASE pair that is being written. -/
inductive POp where
  | cell (i : Nat) (sub : Nat)
  | base (b : Bool) (v : Int) (epoch : Nat) (pair : Bool)
deriving DecidableEq, Repr

/-- A peat entry: the array (R289, R290), and what the engine holds of it in RAM (R291). -/
structure PEnt where
  a : PBase := {}
  b : PBase := {}
  cells : Map PCell := []
  /-- Live total, and the total last written; VALUE and EPOCH of the present BASE. -/
  v : Int := 0
  written : Int := 0
  base : Int := 0
  epoch : Nat := 0
  next : Nat := 0
  lost : Bool := false
  /-- Kind of the last write: 0 none, 1 counter, 2 gauge. -/
  kind : Nat := 0
  /-- Sub-unit remainder of the entry's source. -/
  remn : Int := 0
  /-- The next write is a BASE pair (R296, R297). -/
  force : Bool := false
deriving DecidableEq, Repr

/-- A bank: entries waiting, and the programs of the entry in progress. -/
structure PBank where
  queue : List Nat := []
  cur : Option (Nat × List POp) := none
deriving DecidableEq, Repr

structure StoSt where
  /-- The RAM image that is served, by word address / 4 (R271, R286). -/
  ram : Map Word := []
  /-- Physical slots, keyed 2 × page + slot. -/
  slots : Map PSlot := []
  cur : Option Run := none
  queue : List Run := []
  /-- Pages being finished at PFW or in a reset are the last of their run: LAST_RUN code (R282). -/
  stop : Option Nat := none
  /-- Engine runs are refused after PFW, until the next reset (R282). -/
  closed : Bool := false
  /-- Engine runs that have ended, with whether they completed, for their requesters. -/
  ended : List (RunSrc × Nat × Bool) := []
  /-- The journal in the management area: RUN_ID, address and pages of a run not ended (R277). -/
  journal : Option (Nat × Nat × Nat) := none
  runId : Nat := 0
  /-- Staged buffer (R275). -/
  buf : List Byte := []
  /-- The first word of the arming sequence was written at; armed since (R285). -/
  unlock1 : Option Nat := none
  armed : Option Nat := none
  /-- BP as accepted and not yet committed to the control record is in the register; the pin WP_N. -/
  wpHigh : Bool := false
  /-- The served image is complete. -/
  served : Bool := false
  /-- Entry 2047 leaves manufacture at 2^24 (R395). -/
  ents : Map PEnt := [(2047, {
    a := { valid := true, erased := false, v := 16777216, epoch := 1 }
    b := { valid := true, erased := false, v := 16777216, epoch := 1 }
    v := 16777216, written := 16777216, base := 16777216, epoch := 1 })]
  banks : Map PBank := []
  /-- The running flush: since when, and entries written. -/
  flushT : Option Nat := none
  flushN : Nat := 0
  /-- From when the next ordinary flush is counted (R292). -/
  flushRef : Option Nat := none
  /-- Bindings: previous value of each MAP's source, and whether there was one. -/
  prev : Map (Option Int) := []
  /-- Ordinary flushes have ended for good: the PFW flush runs. -/
  pfw : Bool := false
  /-- A counter reservation is in progress on entry 2047 (R296). -/
  resv : Bool := false
deriving DecidableEq, Repr

/-! ### The block network -/

/-- A block instance: its outputs and the state words S0–S3 by what they hold (R209, VIEW_S0–VIEW_S3). -/
structure BlkSt where
  typ : Nat := 0
  o0 : Val := {}
  o1 : Val := {}
  /-- No evaluation yet (R215). -/
  first : Bool := true
  /-- S0: frame count, counter or held value. -/
  s0 : Int := 0
  /-- S1 bits: previous inputs of edge types. -/
  prev0 : Bool := false
  prev1 : Bool := false
  /-- S1–S2: accumulator with its remainder, Q16.32, and RUNTIME's microseconds. -/
  acc : Int := 0
  /-- ALARM: the active kind and the counts of HIGH, LOW, FLT. -/
  act : Nat := 0
  cnts : List Nat := [0, 0, 0]
  /-- DELAY1: in0 at the end of phase 4. -/
  last : Val := {}
  /-- PRIORITY_WRITE: the level holds the value `wrote`; the enable of the previous frame. -/
  holds : Bool := false
  wrote : Int := 0
  en : Bool := true
deriving DecidableEq, Repr

/-- The pending and running networks and what an activation captured with them (R208, R210–R212). -/
structure BlkNet where
  /-- Keyed by 8 × instance + word. -/
  pend : Map Word := []
  run : Map Word := []
  /-- State-table and curve words captured at activation, by register address. -/
  cap : Map Word := []
  order : List Nat := []
  /-- Retunes waiting for the lath capture edge: instance, WORD, value. -/
  retune : List (Nat × Nat × Word) := []
  /-- SAMPLE_NOW requests not answered: core, slot, instance; results posted, and those in the frame's image (R224). -/
  snReq : List (Nat × Nat × Nat) := []
  snRes : Map (Option (Int × Status)) := []
  snImg : Map (Option (Int × Status)) := []
deriving DecidableEq, Repr

/-! ### Fan governors -/

/-- Host commands of a governor waiting for the capture edge (R18, R249). -/
inductive FanCmd where
  | clr | learn | abort
deriving DecidableEq, Repr

/-- A governor (R229–R249). States have the codes of FANn.STAT.STATE. -/
structure FanSt where
  state : Nat := 0
  /-- The state has been set since the governor started afresh. -/
  begun : Bool := false
  /-- Start of the running duration, TIMEBASE µs. -/
  t0 : Nat := 0
  /-- CNT at the last capture edge, when it last changed, and CNT at the start of the running test. -/
  cnt : Nat := 0
  seen : Bool := false
  pulseAt : Nat := 0
  mark : Option Nat := none
  attempt : Nat := 0
  /-- BLOCKED is latched (R244). -/
  blocked : Bool := false
  /-- Verification (R240): 0 none, 1 wanted, 2 requested. -/
  verify : Nat := 0
  /-- Frames in a row with CURRENT outside the band (R239). -/
  outN : Nat := 0
  /-- The committed duty, and since when it has not changed; the duty held in TACH_LOST (R242). -/
  duty : Int := 0
  dutyAt : Nat := 0
  held : Int := 0
  demand : Int := 0
  demSt : Status := .ok
  speed : Int := 0
  speedFlt : Bool := false
  current : Int := 0
  /-- LEARN: the point, sums over its last 5 s, their number, and CNT at the start of the 5 s; the points recorded. -/
  k : Nat := 0
  sumS : Int := 0
  sumC : Int := 0
  num : Nat := 0
  recs : List (Nat × Nat) := []
  /-- Valid baseline: speeds in rpm and currents in mA at the eight duties (R246). -/
  base : List (Nat × Nat) := []
  age : Int := 0
  ageLvl : Nat := 0
  /-- The x of the last frame's ageing sample, and the CAL minute of the last update (R247). -/
  x : Option Int := none
  minute : Option Nat := none
  /-- Running bindings, to see what a switch keeps (R248): EN, DRV word without I_EN, SKIM. -/
  key : List Nat := []
  /-- Host commands taken at the capture edge. -/
  cmds : List FanCmd := []
deriving DecidableEq, Repr

/-- Verification conversions of R240: requested (core, slot, governor), and results with the time they were posted, mA
Q16.16; `none` is an over-range result. Host commands wait for the capture edge. -/
structure FanIo where
  req : List (Nat × Nat × Nat) := []
  res : Map (Option (Nat × Option Int)) := []
  cmds : List (Nat × FanCmd) := []
deriving DecidableEq, Repr

/-! ### The service panel -/

/-- An event of the key FIFO (KEY.EVT). -/
structure KeyEv where
  kind : Nat
  refused : Bool := false
  code : Nat
  time : Nat
deriving DecidableEq, Repr

/-- The key matrix, the encoders and the combinations (R422–R429). Key images are 66-bit masks by key code. -/
structure KeySt where
  scanning : Bool := false
  /-- End of the last scan, and of the first scan of the quiet run that leads to idle. -/
  last : Nat := 0
  quiet : Option Nat := none
  /-- Consecutive scans present and absent, by key code. -/
  pres : Map Nat := []
  absn : Map Nat := []
  /-- Candidates, reported keys, suppressed keys. -/
  cand : Nat := 0
  rep : Nat := 0
  supp : Nat := 0
  fifo : List KeyEv := []
  /-- Per combination: since when it matches, and whether it has fired with the image not empty since. -/
  since : Map (Option Nat) := []
  fired : Map Bool := []
  /-- The fixed combination has fired and neither of its keys has read open since (R479). -/
  fixed : Bool := false
  /-- Encoders: last valid level pair 2A + B, and the sub-count. -/
  ab : Map Nat := []
  sub : Map Int := []
  /-- End of PANEL_UNLOCK (R428). -/
  unlock : Option Nat := none
deriving DecidableEq, Repr

/-- An update request of the panel (R437): ID, rectangle, mode, and since when it has waited for a checksum. -/
structure Upd where
  id : Nat
  x : Nat
  y : Nat
  w : Nat
  h : Nat
  mode : Nat
  wait : Option Nat := none
deriving DecidableEq, Repr

/-- A running update: its slot, latched band, phase, phase count and buffer of new greys row by row (R438). -/
structure UpdRun where
  slot : Nat
  u : Upd
  band : Nat
  phase : Nat := 0
  total : Nat
  buf : List Nat := []
  copying : Bool := true
deriving DecidableEq, Repr

/-- The boot clear (R441): waiting, or running with its frames done, its rebalance frames, band and CLEAR count. -/
inductive BootClr where
  | no | pend
  | run (done rebal band total : Nat)
deriving DecidableEq, Repr

/-- The panel rails (R433): down, going up or down with the steps done, or up. -/
inductive Rails where
  | down | up
  | rising (steps : Nat)
  | falling (steps : Nat)
deriving DecidableEq, Repr

structure EpdSt where
  /-- New image and waveform tables, by window offset / 4; current greys by 1024 × row + column. -/
  win : Map Word := []
  cur : Map Nat := []
  queue : List Upd := []
  runs : List UpdRun := []
  /-- Requests accepted. -/
  acc : Nat := 0
  boot : BootClr := .no
  rails : Rails := .down
  /-- End of the last rail step or frame boundary, and since when no update has run. -/
  railT : Nat := 0
  frameT : Nat := 0
  idle : Option Nat := none
  /-- Start of a running checksum pass. -/
  crcT : Option Nat := none
  /-- The RAIL fault is raised. -/
  fault : Bool := false
deriving DecidableEq, Repr

/-! ### Supply and clocks -/

structure PwrSt where
  /-- Steps in the order made: channel, step before, saving in mW (R457, R458). -/
  stepped : List (Nat × Nat × Nat) := []
  /-- Steps not yet in effect: channel, saving in mW, source current cut in mA (R457, log entry 37). -/
  pend : List (Nat × Nat × Nat) := []
  /-- Since when the restore conditions have held. -/
  okSince : Option Nat := none
  /-- The core whose samples failed each rail, by slot-15 index (R453). -/
  railBy : Map (Option Nat) := []
  /-- Since when VFIELD has read above 18.5 V, and below 36.0 V. -/
  lowOk : Option Nat := none
  highOk : Option Nat := none
  /-- When PFW tripped, and brown-out. -/
  pfwAt : Option Nat := none
  bor : Bool := false
  /-- CORE_SRC as last sampled. -/
  coreSrc : Bool := false
deriving DecidableEq, Repr

structure ClkSt where
  /-- Tripped or not yet qualified sources, and the retries of the running HRC qualification; `lost`: the PLL has lost lock. -/
  hrcQual : Bool := true
  tries : Nat := 0
  /-- The running qualification of HRC follows a trip, not a reset. -/
  requal : Bool := false
  /-- When the last attempt without a fallback failed (R472). -/
  noFall : Option Nat := none
  /-- Rails up since (R470). -/
  railsUp : Option Nat := none
  /-- MOSC, LXO and HRC have tripped and are not requalified (CLKFAIL persists). -/
  moscTrip : Bool := false
  lxoTrip : Bool := false
  hrcTrip : Bool := false
  /-- The PLL locked on HRC at start-up because MOSC did not qualify in time. -/
  startHrc : Bool := false
  /-- TIMEBASE counts (R483). -/
  counts : Bool := false
deriving DecidableEq, Repr

/-! ### The levee -/

/-- A session (R390, R392, R394). -/
structure Sess where
  bound : Bool := false
  uid : Nat := 0
  mask : Nat := 0
  sync : Bool := false
  hi : Nat := 0
  /-- Bit i: counter HI − i accepted. -/
  map : Nat := 0
  b : Nat := 0
  fails : Nat := 0
  /-- End of quarantine. -/
  quar : Option Nat := none
deriving DecidableEq, Repr

/-- What a store run of the levee completes (R390, R393, R397–R400). -/
inductive LevRun where
  /-- A session record: session, bound, UID, mask; the command answered when it commits. -/
  | bind (sess : Nat) (on : Bool) (uid mask : Nat) (src : Option CmdSrc) (frame : List Byte)
  /-- The floor B of a session is persisted for a waiting frame. -/
  | floor (sess b : Nat) (src : CmdSrc) (frame : List Byte)
  /-- A new site key (`none`: erased). -/
  | key (k : Option (List Byte)) (roll : Bool) (src : Option CmdSrc) (frame : List Byte)
  | trust (mode : Nat) (src : Option CmdSrc) (frame : List Byte)
deriving DecidableEq, Repr

structure LevSt where
  /-- The device key (injected at manufacture; log entry 40). -/
  devKey : List Byte := (List.range 16).map (fun i => BitVec.ofNat 8 (0xA0 + i))
  site : Option (List Byte) := none
  /-- The previous key during grace, and when it is discarded. -/
  prev : Option (List Byte × Nat) := none
  /-- KEY_IN, as last written (R397). -/
  keyIn : List Word := [0, 0, 0, 0]
  sess : Map Sess := []
  tx : Nat := 0
  top : Nat := 16777216
  /-- The reservation at recall has completed: frames may be originated; no more may be. -/
  ready : Bool := false
  dead : Bool := false
  mbx : List Word := []
  /-- A mailbox frame waits for its run. -/
  busy : Bool := false
  runs : Map (Option LevRun) := []
  tag : Nat := 0
deriving DecidableEq, Repr

/-! ### The fabric -/

/-- A link-state advertisement (R323). -/
structure Lsa where
  uid : Nat
  seq : Nat := 0
  addr : Nat := 0
  prio : Nat := 128
  flags : Nat := 0
  want : Nat := 0
  /-- Neighbour UID, local port, neighbour port. -/
  links : List (Nat × Nat × Nat) := []
  groups : List Nat := []
  /-- When it was last refreshed. -/
  time : Nat := 0
deriving DecidableEq, Repr

/-- The root, the tree and the routes (R325, R330, R331). -/
structure Routes where
  root : Nat := 0
  level : Nat := 0
  depth : Nat := 0
  devs : Nat := 1
  /-- Parent: UID, local port, address. -/
  parent : Option (Nat × Nat × Nat) := none
  /-- Ports of the tree links to children. -/
  kids : List Nat := []
  /-- Per unicast address: egress port and hops. -/
  routes : Map (Option (Nat × Nat)) := []
  /-- Per other device: UID, tree port and tree distance. -/
  tree : List (Nat × Nat × Nat) := []
  /-- Groups listed by other devices: UID and groups. -/
  grps : List (Nat × List Nat) := []
deriving DecidableEq, Repr

/-- A frame queued at an egress port (R343, R344): its channel, bytes, the ingress port whose buffer it holds, and a number
that its copies share. -/
structure OutFrame where
  vc : Nat
  bytes : List Byte
  src : Option Nat := none
  num : Nat := 0
  /-- Arrival of a forwarded SYNC, ns. -/
  stamp : Nat := 0
deriving DecidableEq, Repr

/-- A flooded frame awaiting its acknowledgement on a port (R324, R328): origin, sequence, kind, when last sent. -/
structure Unack where
  uid : Nat
  seq : Nat
  kind : Nat
  payload : List Byte
  sent : Nat
deriving DecidableEq, Repr

structure PortSt where
  /-- Last HELLO: the neighbour's UID and port; the UID echoed in HEARD, and when the HELLO came. -/
  nbr : Nat := 0
  nport : Nat := 0
  heard : Nat := 0
  hello : Nat := 0
  linkQ : List OutFrame := []
  q : List OutFrame := []
  /-- Allowances of E-req, E-resp, B-req, B-resp; frames begun in the last 80 µs: channel and instant. -/
  allow : List Nat := [0, 0, 0, 0]
  begun : List (Nat × Nat) := []
  /-- Free counts of the last report, and whether one has been sent. -/
  told : List Nat := [8, 8, 8, 8]
  /-- B allowance and the end of the frame on the wire, in 0.1 µs. -/
  bAllow : Nat := 0
  till : Nat := 0
  /-- Class-T frames received here and waiting for the 750 µs point: reception, frame; those held to be sent from here:
  slot, cycle, frame. -/
  tWait : List (Nat × List Byte) := []
  tReg : List (Nat × Nat × List Byte) := []
  delays : List Nat := []
  /-- The open PDELAY_REQ: its TID and t1 in ns. -/
  t1 : Option (Nat × Nat) := none
  pdTid : Nat := 0
  unack : List Unack := []
  /-- Wire time sent in the last second: instant, class B, 0.1 µs. -/
  load : List (Nat × Bool × Nat) := []
deriving DecidableEq, Repr

/-- Something to originate once a counter is free (R395). -/
structure Origin where
  port : Nat
  vc : Nat
  kind : Nat
  tid : Nat
  dst : Nat
  flags : Nat := 0
  sess : Nat := 0
  stream : Nat := 0
  payload : List Byte
  /-- The tag is computed under the previous site key (R398). -/
  old : Bool := false
  /-- Further ports that send a copy (R331). -/
  more : List Nat := []
deriving DecidableEq, Repr

structure FabSt where
  ports : Map PortSt := []
  db : List Lsa := []
  /-- LSEQ of the next origination less one; REQ, CONFLICT and WANT of this device's LSA; its payload as last originated. -/
  seq : Nat := 0
  req : Bool := false
  conflict : Bool := false
  want : Nat := 0
  gseq : Nat := 0
  seen : List (Nat × Nat) := []
  /-- Addresses claimed by reachable LSAs, with the last instant (R328). -/
  claimed : Map (Option Nat) := []
  /-- The waiting reconvergence: first and last change; the table computed. -/
  change : Option (Nat × Nat) := none
  next : Option (Nat × Routes) := none
  rt : Routes := {}
  /-- Offsets of the last accepted SYNCs in ns, and when the last came. -/
  offs : List Int := []
  syncAt : Option Nat := none
  /-- The 1 s PDELAY schedule, HELLO schedule and LSA refresh: last instants. -/
  refresh : Nat := 0
  num : Nat := 0
  /-- Frames waiting for a transmit counter. -/
  wait : List Origin := []
  /-- The store record's run, and a GRANT's GSEQ and root kept with it. -/
  recSeq : Nat := 0
  recRoot : Nat := 0
deriving DecidableEq, Repr

/-! ### Delivery -/

/-- A reservation of a T slot on an egress port (R356–R358). -/
structure Resv where
  port : Nat
  slot : Nat
  off : Nat
  n : Nat
  src : Nat
  stream : Nat
  own : Bool := false
  pos : Nat := 0
  dest : Nat := 0
  time : Nat := 0
deriving DecidableEq, Repr

/-- A stream of this producer (R353, R358–R361). -/
structure Strm where
  state : Nat := 0
  cause : Nat := 0
  hops : Nat := 0
  slot : Nat := 0
  /-- E0 in ms cycles modulo N, N, and whether a first-hop slot was chosen at activation. -/
  e0 : Nat := 0
  n : Nat := 0
  local_ : Bool := false
  /-- Members still to answer, for a running admission. -/
  todo : List Nat := []
deriving DecidableEq, Repr

/-- An open transaction (R349–R351). -/
structure Xfer where
  tid : Nat
  vc : Nat
  kind : Nat
  dst : Nat
  payload : List Byte
  attempt : Nat := 0
  ctrs : List Nat := []
  sent : Nat := 0
  h : Nat := 0
  /-- Session + 1 of a tagged request; 0 untagged. -/
  sess : Nat := 0
  /-- Members of a group that have answered OK. -/
  oks : List Nat := []
deriving DecidableEq, Repr

/-- A request that waits for a transaction ID (R349). -/
structure XReq where
  vc : Nat
  kind : Nat
  dst : Nat
  payload : List Byte
  sess : Nat := 0
deriving DecidableEq, Repr

/-- A kept answer (R352). -/
structure Kept where
  src : Nat
  tid : Nat
  vc : Nat
  kind : Nat
  payload : List Byte
  time : Nat
deriving DecidableEq, Repr

structure DlvSt where
  pend : Map Word := []
  run : Map Word := []
  strm : Map Strm := []
  resv : List Resv := []
  opens : List Xfer := []
  freed : Map (Option Nat) := []
  waits : List XReq := []
  /-- Per source address, the COUNTER of the last applied request of R352, plus 1. -/
  last : Map Nat := []
  kept : List Kept := []
  cmds : List Kept := []
  /-- Last refresh of the streams and the last alarm's transaction in flight. -/
  refresh : Nat := 0
  retry : Bool := false
deriving DecidableEq, Repr

/-! ### The block -/

/-- The states of the frame engines that a missed edge takes back with the frame's work (R36). -/
structure Eng where
  sen : Map SenseSt := []
  pres : Map PresSt := []
  sch : SchSt := {}
  tme : Map TmeSt := []
  tmeG : TmeGl := {}
  /-- Zone-mode arrays, keyed 8 × zone + level (R154). -/
  zm : Map (Option Nat) := []
  zone : Map ZoneSt := []
  loop : Map LoopSt := []
  blk : Map BlkSt := []
  fan : Map FanSt := []
deriving DecidableEq, Repr

/-- What a frame engine shows outside, waiting for its frame's commit edge (R16, R36). -/
inductive Ev where
  /-- A register field takes a value. -/
  | reg (f : Field) (v : Nat)
  /-- A bit of a register is set. -/
  | orWord (a : Nat) (w : Word)
  | irq (page bit : Nat)
  | raise (code inst : Nat) (cls : FClass)
  | clear (code inst : Nat)
  /-- A saturating counter counts. -/
  | bump (f : Field)
  /-- A peat entry counts (R291). -/
  | peat (e n : Nat)
deriving DecidableEq, Repr

structure State where
  /-- Commands waiting, first in, first out. -/
  pending : List Instr := []
  /-- TIMEBASE, µs (R8); while a warm reset holds the core, the always-on count (R251, R487). -/
  now : Nat := 0
  /-- Register faces. -/
  regs : Map Word := []
  /-- Registers whose written value waits for a capture edge, with the value still in force (R18). -/
  held : Map (Option Word) := []
  /-- What the block-specific registers of frozen pages read: their words when FREEZE was set (R49). -/
  frozen : Map (Option Word) := []
  /-- Pages whose soft reset runs, with its start (R50). -/
  softRst : List (Nat × Nat) := []
  port : Port := {}
  lath : LathSt := {}
  uch : Map Chan := []
  /-- Levels 1–7 of the outputs, keyed by 8 × output + level; holders of level 0 (R86). -/
  lv : Map (Option Int) := []
  l0 : Map (List (L0Owner × Int)) := []
  /-- Level writes of the running lath and skim frames, latched at their commit edges (R17, R88). -/
  stL : List LvWrite := []
  stS : List LvWrite := []
  /-- Host and fabric level writes waiting for the capture edge, in order of completion (R18, R377). -/
  hostLv : List LvWrite := []
  /-- Values by handle (R168): committed; the image of the running lath frame; written by the running frames (R16). -/
  vis : Map Val := []
  img : Map Val := []
  lwork : Map (Option Val) := []
  swork : Map (Option Val) := []
  flt : FaultSt := {}
  cores : Map Core := []
  nst : NstSt := {}
  dir : DirSt := {}
  boot : Boot := {}
  sto : StoSt := {}
  /-- Engine states, and their copies from the capture edges of the running frames (R36). -/
  eng : Eng := {}
  engL : Eng := {}
  engS : Eng := {}
  evL : List Ev := []
  evS : List Ev := []
  /-- Results captured by the running lath frame, per channel (R111). -/
  cap : Map Cap := []
  rbus : Map RbPort := []
  pir : Map PirSt := []
  tab : SchTab := {}
  /-- Zone-mode writes of the host and the fabric waiting for the lath capture edge, in order of completion (R156, R165);
  those of PRIORITY_WRITE blocks waiting for the commit edge. -/
  hostZm : List ZmWrite := []
  stZ : List ZmWrite := []
  /-- Loops with a parameter write waiting for their capture edge (R174). -/
  loopPar : List Nat := []
  /-- Evaluation orders of the lath-rate and the skim-rate loops (R170). -/
  loopsL : List Nat := []
  loopsS : List Nat := []
  /-- Model commands and θ writes waiting for the lath capture edge (R201): zone, which (0–5 θ, 6 RESET_P, 7 RESET_THETA),
  word. -/
  tmeCmd : List (Nat × Nat × Word) := []
  net : BlkNet := {}
  fanIo : FanIo := {}
  key : KeySt := {}
  epd : EpdSt := {}
  pwr : PwrSt := {}
  clk : ClkSt := {}
  /-- The UID, as manufactured (log entry 40). -/
  uid : Nat := 0x0002000000000001
  lev : LevSt := {}
  fab : FabSt := {}
  dlv : DlvSt := {}
  /-- Count of free values taken (DESIGN CHOICE 0, log entry 10). -/
  fresh : Nat := 0
deriving DecidableEq, Repr

/-- The identity page that the factory bound to the UID above (R270, R272): page 0x301, slot 0 (log entry 40). -/
def identityPage : Nat × PSlot :=
  (0x602, { erased := false, valid := true, seq := 1, data := [0x00000001#32, 0x00020000#32] })
/-- The machine right after reset: the power-on reset is asserted, every register at its reset value, every queue empty;
the parameter store holds the factory's identity page and nothing else. -/
def State.reset : State := { sto := { slots := [identityPage] } }

end Sys2Proof.Machine
end

