-- ==== Sys2Proof/Machine/Ops.lean ====
section
/-! DEFINITION. The named operations every meaning is built from: reading and writing registers and fields, events,
values in force against register faces (R18), priority arrays (R86–R88), requests to the fault manager (R406), audit
records (R310), point values (R16), and time. -/
set_option Elab.async false
namespace Sys2Proof.Machine
namespace State

/-! ### Registers -/

/-- The word of the register face at a host address. -/
def word (s : State) (a : Nat) : Word := Map.look resetWord s.regs a
def setWord (s : State) (a : Nat) (w : Word) : State := { s with regs := Map.put resetWord s.regs a w }
/-- The value of a field. -/
def get (s : State) (f : Field) : Nat := bitsOf (s.word f.addr) f.lsb f.width
def set (s : State) (f : Field) (v : Nat) : State := s.setWord f.addr (bitsSet (s.word f.addr) f.lsb f.width v)
def bit (s : State) (f : Field) : Bool := s.get f != 0
def setB (s : State) (f : Field) (b : Bool) : State := s.set f (if b then 1 else 0)
/-- A field read as two's complement. -/
def geti (s : State) (f : Field) : Int := signedOf f.width (s.get f)
def seti (s : State) (f : Field) (v : Int) : State := s.set f (unsignedOf f.width v)
/-- The word a frame engine uses: the value still in force while a host write waits for its capture edge (R18). -/
def inForce (s : State) (a : Nat) : Word := (Map.look (fun _ => none) s.held a).getD (s.word a)
def eget (s : State) (f : Field) : Nat := bitsOf (s.inForce f.addr) f.lsb f.width
def ebit (s : State) (f : Field) : Bool := s.eget f != 0
def egeti (s : State) (f : Field) : Int := signedOf f.width (s.eget f)
/-- Saturating and wrapping counters in fields. -/
def bump (s : State) (f : Field) : State := s.set f (satAdd (2 ^ f.width - 1) (s.get f) 1)
def bumpBy (s : State) (f : Field) (n : Nat) : State := s.set f (satAdd (2 ^ f.width - 1) (s.get f) n)
def bumpWrap (s : State) (f : Field) : State := s.set f ((s.get f + 1) % 2 ^ f.width)
/-- A pair of LO and HI registers as one number. -/
def pair (s : State) (lo hi : Nat) : Nat := (s.word lo).toNat + 2 ^ 32 * (s.word hi).toNat
def setPair (s : State) (lo hi v : Nat) : State :=
  (s.setWord lo (BitVec.ofNat 32 v)).setWord hi (BitVec.ofNat 32 (v / 2 ^ 32))

/-- A word of the parameter store as served from its RAM image, by byte address (R270, R286). -/
def storeWord (s : State) (a : Nat) : Word := Map.look (fun _ => 0xFFFFFFFF#32) s.sto.ram (a / 4)

/-- An event sets its IRQ_STAT bit, enabled or not (R54). -/
def irq (s : State) (page bit : Nat) : State :=
  s.setWord (rIrqStat page) (s.word (rIrqStat page) ||| (1#32 <<< bit))
/-- An access error on a page (R56): the fields of BLK_ERR, overwritten. -/
def blkErr (s : State) (page cause : Nat) (wr : Bool) (off : Nat) : State :=
  s.setWord (rBlkErr page)
    (BitVec.ofNat 32 (0x80000000 + (if wr then 0x40000000 else 0) + 0x10000 * (cause % 256) + off % 0x1000 / 4 * 4))
/-- BLK_CTRL.EN of a page. -/
def en (s : State) (page : Nat) : Bool := s.bit (fBlkEn page)
/-- BLK_STAT.EN_ACK, the engine's enable state (R51). -/
def enAck (s : State) (page : Nat) : Bool := s.bit (fBlkEnAck page)
/-- A free number that nothing determines, and the state with its counter advanced. -/
def freeNat (s : State) (use : Nat) : Nat × State := (Config.freeNat use s.fresh, { s with fresh := s.fresh + 1 })
def freeBool (s : State) (use : Nat) : Bool × State := (Config.freeBool use s.fresh, { s with fresh := s.fresh + 1 })

/-! ### Time and rates -/

/-- An event bound to an instant happens at that instant, or now when it has passed. -/
def at_ (s : State) (t : Nat) : State := { s with now := max s.now t }
/-- One microsecond of TIMEBASE, while it counts (R8; DESIGN CHOICE, log entry 1). -/
def tick (s : State) : State := if s.clk.counts then { s with now := s.now + 1 } else s
/-- L in µs (R10). -/
def lathPeriod (s : State) : Nat := 10000 * s.get fLathPeriodPeriod
def skimPeriod (s : State) : Nat := s.lathPeriod / 10
/-- Calendar seconds (R8, R251). -/
def calSec (s : State) : Nat := s.now / 1000000

end State

namespace State

def chan (s : State) (n : Nat) : Chan := Map.look (fun _ => {}) s.uch n
def setChan (s : State) (n : Nat) (c : Chan) : State := { s with uch := Map.put (fun _ => {}) s.uch n c }
def modChan (s : State) (n : Nat) (f : Chan → Chan) : State := s.setChan n (f (s.chan n))
/-- Rate of an output: a channel by CFG.SKIM, a fan drive by its governor's SKIM (R12). -/
def outRate (s : State) (o : Nat) : Rate :=
  if o < 96 then (if s.ebit (fUchCfgSkim o) then .skim else .lath)
  else (if s.ebit (fFanCfgSkim (o - 96)) then .skim else .lath)

/-! ### Priority arrays (R86–R88) -/

/-- Level `k` of output `o`; level 0 is the failsafe path's value while the path holds it (every commit edge keeps that one,
R88), else the latest other holder's, and the power governor's only when no other holds it (R456). -/
def level (s : State) (o k : Nat) : Option Int :=
  if k = 0 then
    let l := Map.look (fun _ => []) s.l0 o
    ((l.filter (fun p => p.1 = .path) ++ l.filter (fun p => p.1 ≠ .path && p.1 ≠ .shed) ++ l.filter (fun p => p.1 = .shed)).head?).map
      Prod.snd
  else Map.look (fun _ => none) s.lv (8 * o + k)
def setLevel (s : State) (o k : Nat) (v : Option Int) : State :=
  { s with lv := Map.put (fun _ => none) s.lv (8 * o + k) v }
/-- A holder writes level 0; it overrides the earlier holders (R88). -/
def setL0 (s : State) (o : Nat) (w : L0Owner) (v : Int) : State :=
  { s with l0 := Map.put (fun _ => []) s.l0 o ((w, v) :: (Map.look (fun _ => []) s.l0 o).filter (fun p => p.1 ≠ w)) }
/-- A holder releases level 0; the remaining holders stay. -/
def relL0 (s : State) (o : Nat) (w : L0Owner) : State :=
  { s with l0 := Map.put (fun _ => []) s.l0 o ((Map.look (fun _ => []) s.l0 o).filter (fun p => p.1 ≠ w)) }
def holdsL0 (s : State) (o : Nat) (w : L0Owner) : Bool := (Map.look (fun _ => []) s.l0 o).any (fun p => p.1 = w)
/-- The lowest-numbered level that holds a value, with the value (R87). -/
def winner (s : State) (o : Nat) : Option (Nat × Int) :=
  (List.range 8).findSome? (fun k => (s.level o k).map (fun v => (k, v)))
/-- An engine of a frame writes a level: latched at the frame's commit edge (R17, R88). Level 0 is the fan governor's own
hold (R241, R246). -/
def stage (s : State) (r : Rate) (w : LvWrite) : State :=
  match r with
  | .lath => { s with stL := s.stL ++ [w] }
  | .skim => { s with stS := s.stS ++ [w] }
def applyLv (s : State) (w : LvWrite) : State :=
  if w.lv = 0 then (match w.v with | some v => s.setL0 w.out .gov v | none => s.relL0 w.out .gov)
  else s.setLevel w.out w.lv w.v
/-- Bit k set for each held level (PRI_MASK). -/
def heldMask (s : State) (o : Nat) : Nat :=
  (List.range 8).foldl (fun m k => if (s.level o k).isSome then m + 2 ^ k else m) 0

/-! ### Point values by handle (R16, R168) -/

def valDflt (_ : Nat) : Val := {}
/-- The value committed at the last edge: what the host, peers and the other rate see. -/
def visVal (s : State) (h : Nat) : Val := Map.look valDflt s.vis h
/-- What a lath-rate engine reads: its own frame's earlier phases, else the image of its capture edge. -/
def lathVal (s : State) (h : Nat) : Val := (Map.look (fun _ => none) s.lwork h).getD (Map.look valDflt s.img h)
/-- What a skim-rate engine reads: its own frame's earlier work, else the last commit. -/
def skimVal (s : State) (h : Nat) : Val := (Map.look (fun _ => none) s.swork h).getD (s.visVal h)
def readVal (s : State) (r : Rate) (h : Nat) : Val := match r with | .lath => s.lathVal h | .skim => s.skimVal h
/-- An engine of a frame produces a value: released at that frame's commit edge. -/
def produce (s : State) (r : Rate) (h : Nat) (v : Val) : State :=
  match r with
  | .lath => { s with lwork := Map.put (fun _ => none) s.lwork h (some v) }
  | .skim => { s with swork := Map.put (fun _ => none) s.swork h (some v) }
/-- The capture edge of the running frame of a rate: the timestamp of what it produces (R372). -/
def frameTs (s : State) : Rate → Nat
  | .lath => s.lath.cap
  | .skim => s.lath.skimCap
def setVis (s : State) (h : Nat) (v : Val) : State := { s with vis := Map.put valDflt s.vis h v }

/-! ### Requests to the fault manager (R406, R407, R411) -/

/-- Move waiting requests into their queues while there is room, and start processing (R407, R408, R410). -/
def faultAdmit (s : State) : State :=
  let step (acc : List FReq × List FReq × List FReq) (q : FReq) : List FReq × List FReq × List FReq :=
    match acc with
    | (wait, oq, cq) =>
      if q.cls = .critical then (if cq.length < 4 then (wait, oq, cq ++ [q]) else (wait ++ [q], oq, cq))
      else if wait.any (fun w => w.code = q.code && w.inst = q.inst) then (wait ++ [q], oq, cq)
      else (if oq.length < 16 then (wait, oq ++ [q], cq) else (wait ++ [q], oq, cq))
  match s.flt.flags.foldl step ([], s.flt.ordQ, s.flt.critQ) with
  | (wait, oq, cq) => { s with flt := { s.flt with flags := wait, ordQ := oq, critQ := cq } }

/-- Take the next request up when the manager is idle; a CRITICAL one suspends ordinary processing (R408, R410). -/
def faultTake (s : State) : State :=
  if s.flt.stopped then s else
  match s.flt.proc, s.flt.critQ with
  | none, q :: cq => { s with flt := { s.flt with proc := some (q, s.now), critQ := cq } }
  | some (p, t), q :: cq =>
    if p.cls ≠ .critical && s.flt.susp.isNone then
      { s with flt := { s.flt with proc := some (q, s.now), susp := some (p, s.now - t), critQ := cq } }
    else s
  | none, [] =>
    match s.flt.susp, s.flt.ordQ with
    | some (p, d), _ => { s with flt := { s.flt with proc := some (p, s.now - d), susp := none } }
    | none, q :: oq => { s with flt := { s.flt with proc := some (q, s.now), ordQ := oq } }
    | none, [] => s
  | some _, [] => s

/-- The queue and record counts of FAULT.STAT, and the block state (R421); the start of a full ordinary queue (R412). -/
def faultFaces (s : State) : State :=
  let full := s.flt.ordQ.length = 16 && !s.flt.flags.isEmpty
  let s := { s with flt := { s.flt with fullSince := if full then some (s.flt.fullSince.getD s.now) else none } }
  let s := s.setB fFaultStatProc s.flt.proc.isSome
  let s := s.setB fFaultStatPreempt s.flt.susp.isSome
  let s := s.set fFaultStatQdepth s.flt.ordQ.length
  let s := s.set fFaultStatCqdepth s.flt.critQ.length
  let recs := (s.flt.active.filter (fun r => r.slot.isSome)).length
  let s := s.set fFaultStatActive recs
  let s := s.setB fFaultStatListFull (recs = 128)
  s.set (fBlkState 0x88) (if s.flt.stopped then 2 else if s.flt.proc.isSome then 1 else 0)

def faultSettleQueues (s : State) : State := s.faultAdmit.faultTake.faultFaces

/-- Whether a request is of one source. -/
def sameSrc (code inst : Nat) (q : FReq) : Bool := q.code = code && q.inst = inst

/-- A source posts a raise (R406, R411). -/
def raise (s : State) (code inst : Nat) (cls : FClass) : State :=
  let isRaise (q : FReq) : Bool := sameSrc code inst q && !q.clear
  let isClear (q : FReq) : Bool := sameSrc code inst q && q.clear
  let inc (q : FReq) : FReq := if isRaise q then { q with rep := satAdd 0xFFFF q.rep 1 } else q
  if s.flt.flags.any isRaise then
    { s with flt := { s.flt with flags := s.flt.flags.map inc } }
  else if s.flt.ordQ.any isRaise || s.flt.critQ.any isRaise
      || (s.flt.proc.map (fun p => isRaise p.1)).getD false || (s.flt.susp.map (fun p => isRaise p.1)).getD false then
    bump { s with
      flt := { s.flt with
      ordQ := s.flt.ordQ.map inc, critQ := s.flt.critQ.map inc,
      proc := s.flt.proc.map (fun p => (inc p.1, p.2)), susp := s.flt.susp.map (fun p => (inc p.1, p.2)) } }
      fFaultCountsCoalesced
  else if s.flt.active.any (fun r => r.code = code && r.inst = inst)
      && !(s.flt.flags ++ s.flt.ordQ ++ s.flt.critQ).any isClear
      && !((s.flt.proc.map (fun p => isClear p.1)).getD false || (s.flt.susp.map (fun p => isClear p.1)).getD false) then
    let up (r : FRec) : FRec := if r.code = code && r.inst = inst then { r with rep := satAdd 0xFFFF r.rep 1 } else r
    let waits := s.flt.active.any (fun r => r.code = code && r.inst = inst && !r.settled)
    let s := { s with flt := { s.flt with active := s.flt.active.map up } }
    let s := match s.flt.active.find? (fun r => r.code = code && r.inst = inst) with
      | some r => (match r.slot with | some i => s.setWord (rFaultList i 1) (BitVec.ofNat 32 (r.rep * 0x10000)) | none => s)
      | none => s
    if waits then bump s fFaultCountsCoalesced else s
  else
    faultSettleQueues
      { s with flt := { s.flt with flags := s.flt.flags ++ [{ code := code, inst := inst, cls := cls }] } }

/-- A source posts a clear after its raise (R406); a clear with no raise before it is not a request. -/
def clearFault (s : State) (code inst : Nat) : State :=
  let mine := sameSrc code inst
  let open_ := (s.flt.flags ++ s.flt.ordQ ++ s.flt.critQ ++ (s.flt.proc.map Prod.fst).toList
    ++ (s.flt.susp.map Prod.fst).toList).filter mine
  let act := s.flt.active.find? (fun r => r.code = code && r.inst = inst)
  let cls := match open_.head?, act with
    | some q, _ => some q.cls
    | none, some r => some r.cls
    | none, none => none
  match cls with
  | none => s
  | some c =>
    if (open_.getLast?.map (fun q => q.clear)).getD false then s
    else faultSettleQueues
      { s with flt := { s.flt with flags := s.flt.flags ++ [{ code := code, inst := inst, cls := c, clear := true }] } }

/-! ### Audit records (R310) -/

/-- Append an audit record; when AUDIT is full the oldest records are erased. -/
def audit (s : State) (kind sess code src ctr detail : Nat) : State :=
  let seq := s.nst.audSeq + 1
  let r : Audit := { time := s.now, kind := kind, sess := sess, code := code, src := src, ctr := ctr,
                     detail := detail, seq := seq }
  let kept := if s.nst.aud.length < 8388608 then s.nst.aud else s.nst.aud.drop 1
  { s with nst := { s.nst with aud := kept ++ [r], audSeq := seq } }.set fNstoreAudSeqValue seq

/-! ### Peat entries in RAM (R291) -/

def peatEnt (s : State) (e : Nat) : PEnt := Map.look (fun _ => {}) s.sto.ents e
def setPeat (s : State) (e : Nat) (x : PEnt) : State :=
  { s with sto := { s.sto with ents := Map.put (fun _ => {}) s.sto.ents e x } }
/-- A counter counts `n`, saturating at 2^64 − 1. -/
def peatAdd (s : State) (e n : Nat) : State :=
  let x := s.peatEnt e
  if n = 0 then s else s.setPeat e { x with v := min (x.v + (n : Int)) (2 ^ 64 - 1) }
/-- A gauge takes a value. -/
def peatGauge (s : State) (e : Nat) (v : Int) : State := s.setPeat e { s.peatEnt e with v := v }

/-! ### What a frame shows at its commit edge (R16, R36) -/

/-- An engine of a frame of rate `r` asks for an effect at the frame's commit edge. -/
def later (s : State) (r : Rate) (e : Ev) : State :=
  match r with
  | .lath => { s with evL := s.evL ++ [e] }
  | .skim => { s with evS := s.evS ++ [e] }
def laterSet (s : State) (r : Rate) (f : Field) (v : Nat) : State := s.later r (.reg f v)
def laterSeti (s : State) (r : Rate) (f : Field) (v : Int) : State := s.later r (.reg f (unsignedOf f.width v))
def laterB (s : State) (r : Rate) (f : Field) (b : Bool) : State := s.later r (.reg f (if b then 1 else 0))
def applyEv (s : State) : Ev → State
  | .reg f v => s.set f v
  | .orWord a w => s.setWord a (s.word a ||| w)
  | .irq p b => s.irq p b
  | .raise c i k => s.raise c i k
  | .clear c i => s.clearFault c i
  | .bump f => s.bump f
  | .peat e n => s.peatAdd e n
/-- The commit edge of a frame lets its effects happen. -/
def flushEv (s : State) (r : Rate) : State :=
  match r with
  | .lath => s.evL.foldl applyEv { s with evL := [] }
  | .skim => s.evS.foldl applyEv { s with evS := [] }

end State
end Sys2Proof.Machine
end

