-- ==== Sys2Proof/Machine/Channels.lean ====
section
/-! DEFINITION. Universal field channels (R72–R101, R514, R515): modes, the mode gap, arbitration and commit of an output,
the faults a channel detects, readback, and the pin events that arrive between edges. -/
set_option Elab.async false
namespace Sys2Proof.Machine

/-- Mode codes (R72). -/
def isIn (m : Nat) : Bool := 1 ≤ m && m ≤ 7
def isOut (m : Nat) : Bool := 8 ≤ m && m ≤ 0xD
def isLsw (m : Nat) : Bool := 0xB ≤ m && m ≤ 0xD
def isLowVolt (m : Nat) : Bool := 1 ≤ m && m ≤ 0xA
/-- OVV threshold of a low-voltage mode, mV (R93), and its re-entry level (R94). -/
def ovvMv (m : Nat) : Int := if m = 5 || m = 6 || m = 7 || m = 0xA then 15000 else 12000
def reentryMv (m : Nat) : Int := if m = 5 || m = 6 || m = 7 || m = 0xA then 14000 else 11000
/-- Range of an output value, Q16.16, in the unit of its mode (R80). -/
def modeClamp (m : Nat) (v : Int) : Int :=
  match m with
  | 0x8 => clampI 0 (10 * 65536) v
  | 0x9 => clampI 0 (24 * 65536) v
  | 0xA => clampI 0 (100 * 65536) v
  | 0xC => clampI 0 (100 * 65536) v
  | _ => v
/-- FREQ clamped to the mode's range (R80). -/
def freqClamp (m f : Nat) : Nat :=
  let top := if m = 0xA then 25000 else 1000
  if f < 1 then 1 else if top < f then top else f
/-- Duty in steps of FREQ / 100 MHz, halves upward (R81). -/
def dutySteps (v : Int) (freq : Nat) : Nat := (divHalfUp (v * 1000000) (65536 * (freq : Int))).toNat

namespace State

/-- Channel `n` is the odd member of an active FLT pair (R75). -/
def oddMember (s : State) (n : Nat) : Bool := n % 2 = 1 && (s.chan (n - 1)).mode = 0xD
/-- The mode in effect: 0 in reset, gaps, HIZ-PROTECT and with the page disabled (UCHn.STAT.EFF_MODE). -/
def effMode (c : Chan) : Nat := if !c.started || c.gapEnd.isSome || c.hizProt || !c.en then 0 else c.mode
/-- An output channel whose array and level 0 act (R89): not an input, not an odd member. -/
def isOutput (s : State) (n : Nat) : Bool := isOut (s.chan n).mode && !s.oddMember n
/-- The governor that drives channel `n` (R231). -/
def driveGov (s : State) (n : Nat) : Option Nat :=
  (List.range 24).find? (fun g => s.ebit (fFanCfgEn g) && s.ebit (fFanDrvDrvEn g) && s.eget (fFanDrvDrive g) = n)

/-- The status faces of a channel: STAT, OUT, RDBK, CNT, PERIOD. -/
def chanFaces (s : State) (n : Nat) : State :=
  let c := s.chan n
  let ev := if 3 ≤ c.events.length then 3 else c.events.length
  let s := s.setB (fUchStatHizProt n) c.hizProt
  let s := s.setB (fUchStatClamp n) c.clamp
  let s := s.setB (fUchStatGap n) c.gapEnd.isSome
  let s := s.setB (fUchStatDiState n) c.di
  let s := s.set (fUchStatFaults n) c.faults
  let s := s.set (fUchStatStreak n) c.streak
  let s := s.set (fUchStatEvents n) ev
  let s := s.set (fUchStatEffMode n) (effMode c)
  let s := s.seti (fUchOutValue n) c.out
  let s := s.seti (fUchRdbkValue n) c.rdbk
  let s := s.set (fUchCntValue n) c.cnt
  s.set (fUchPeriodValue n) c.period
/-- The on time of an FLT pair's halves counted up to now (R178). -/
def countOn (now : Nat) (c : Chan) : Chan :=
  { c with
    onOpen := if c.fltDir = 1 then c.onOpen + (now - c.fltAt) else c.onOpen
    onClose := if c.fltDir = -1 then c.onClose + (now - c.fltAt) else c.onClose
    fltAt := now }
/-- Update a channel and its faces. -/
def upChan (s : State) (n : Nat) (f : Chan → Chan) : State := (s.modChan n (fun c => f (countOn s.now c))).chanFaces n
/-- Channels in AO-I (R76), by their configured mode. -/
def aoiUsed (s : State) : Nat := ((List.range 96).filter (fun n => s.get (fUchCfgMode n) = 9)).length
/-- A fault bit of R93 changes: STAT.FAULTS and the page's IRQ_STAT bit. -/
def markFault (s : State) (n cause : Nat) (on : Bool) : State :=
  let b := 2 ^ (cause - 1)
  let s := s.upChan n (fun c => { c with faults := if on then c.faults ||| b else c.faults &&& (0xFF - b) })
  s.irq (8 + n / 24) (n % 24)
/-- UCH.BUDGET is the same on every UCH page. -/
def budgetFaces (s : State) (rail hi : Option Nat) : State :=
  (List.range 4).foldl (fun s p =>
    let s := s.set (fUchBudgetAoiUsed p) s.aoiUsed
    let s := match rail with | some v => s.set (fUchBudgetRailMa p) (min v 65535) | none => s
    match hi with | some v => s.set (fUchBudgetLswHi p) v | none => s) s

/-- The direction of an FLT pair at a commit edge or between edges, under the interlock of R82. -/
def fltStep (now : Nat) (cmd : Int) (c : Chan) : Chan :=
  if cmd = 0 then
    if c.fltDir = 0 then c else { c with fltDir := 0, fltLast := c.fltDir, fltOff := now }
  else if c.fltDir = cmd then c
  else if c.fltDir ≠ 0 then { c with fltDir := 0, fltLast := c.fltDir, fltOff := now, fltRev := true }
  else if (c.fltRev || (c.fltLast ≠ 0 && c.fltLast ≠ cmd)) && now < c.fltOff + 100000 then
    { c with fltRev := c.fltRev || c.fltLast ≠ cmd }
  else { c with fltDir := cmd, fltRev := false }

/-- The stage of an LSW-type channel may turn on: no event holds it off (R96). -/
def lswFree (now : Nat) (c : Chan) : Bool :=
  !c.otOff && (c.latched / 0x40) % 4 = 0 && (match c.scOff with | some t => t + 1000000 ≤ now | none => true)

/-- The arbitrated duty of the drive of governor `g`, clamped to 0–100 %, with its level and whether DRV_INIT gave it
(R231). -/
def driveDuty (s : State) (g : Nat) : Nat × Int × Bool :=
  let (l, v, e) : Nat × Int × Bool := match s.winner (96 + g) with
    | some (k, v) => (k, v, false)
    | none => (7, s.egeti (fFanDrvinitValue g), true)
  (l, clampI 0 6553600 v, e)
/-- What a drive hands to its channel (R231). -/
def driveValue (m : Nat) (duty : Int) : Int :=
  match m with | 0x8 => divHalfUp duty 10 | 0xB => if 0 < duty then 65536 else 0 | _ => duty

/-- What output `n` is to drive: the level that wins, its value, and whether no level is set (R80, R87). A channel driven by
a governor takes its drive's arbitrated duty unless its own level 0 is held (R231, R233). -/
def outputValue (s : State) (n : Nat) : Nat × Int × Bool :=
  match s.winner n with
  | some (0, v) => (0, v, false)
  | w => match s.driveGov n with
    | some g => (7, driveValue (s.chan n).mode (s.driveDuty g).2.1, false)
    | none => match w with
      | some (k, v) => (k, v, false)
      | none => (7, s.egeti (fUchInitValue n), true)
/-- An output's state after its commit of `raw` from level `lvl` (R17, R82–R84, R98). -/
def commitChan (s : State) (n lvl : Nat) (raw : Int) : Chan :=
  let c := s.chan n
  let f := s.eget (fUchParamFreq n)
  let fc := freqClamp c.mode f
  let timed := c.mode = 0xD && lvl = 0 && (Map.look (fun _ => (1, 0)) s.flt.fsAct n).1 = 2
  let c := if !timed then { c with fsEnd := none, fsDone := false }
    else if c.fsEnd.isNone && !c.fsDone then
      { c with fsEnd := some (s.now + 150000 * s.eget (fUchParamFreq n)) }
    else c
  let v := modeClamp c.mode raw
  let changed : Bool := decide (v ≠ c.out)
  let isP := c.mode = 0xA || c.mode = 0xC
  let c := { c with
    out := v
    clamp := v ≠ raw || (isP && fc ≠ f)
    changedAt := if changed then s.now else c.changedAt
    duty := if isP then dutySteps v fc else 0 }
  let cmd : Int := if c.fsDone then 0 else if 0 < v then 1 else if v < 0 then -1 else 0
  let free := lswFree s.now c && effMode c ≠ 0
  let c := if c.mode = 0xD then fltStep s.now (if free then cmd else 0) c
    else if isLsw c.mode then { c with lswOn := free && v ≠ 0 }
    else c
  if isLsw c.mode && v ≠ 0 && free then { c with scOff := none } else c

/-- Arbitration and commit of output `n` at a commit edge of its rate, or at once for the failsafe path (R80–R82, R87,
R88, R98). -/
def commitOutput (s : State) (n : Nat) : State :=
  if !(s.chan n).started || !s.isOutput n then s else
  let (lvl, raw, empty) := s.outputValue n
  let was := (s.chan n).scOff.isSome
  let c := s.commitChan n lvl raw
  let s := s.upChan n (fun o => { c with onOpen := o.onOpen, onClose := o.onClose, fltAt := o.fltAt })
  let s := s.set (fUchStatWinLvl n) lvl
  let s := s.setB (fUchStatEmpty n) empty
  if was && c.scOff.isNone && c.latched = 0 then (s.markFault n 7 false).clearFault 0x3007 n else s

/-! ### FAILSAFE (R98, R417) -/

/-- Level-0 value of an output's FAILSAFE action: from the failsafe path's own copies (R417). A fan drive takes 0. -/
def fsValue (s : State) (o : Nat) : Int :=
  if 96 ≤ o then 0 else
  let a := Map.look (fun _ => (1, 0)) s.flt.fsAct o
  if a.1 = 0 then Map.look (fun _ => 0) s.flt.fsOut o
  else if a.1 = 2 then modeClamp (s.chan o).mode a.2
  else 0
/-- Level-0 value that the fault manager writes: the FAILSAFE action of the registers in effect (R98). -/
def fmValue (s : State) (o : Nat) : Int :=
  if 96 ≤ o then 0 else
  let act := s.eget (fUchCfgFsAct o)
  if act = 0 then Map.look (fun _ => 0) s.flt.fsOut o
  else if act = 2 then modeClamp (s.chan o).mode (s.egeti (fUchFsValValue o))
  else 0
/-- The path loads the action fields at every switch edge E (R417). -/
def fsLoad (s : State) : State :=
  { s with
    flt := { s.flt with
    fsAct := (List.range 96).foldl (fun m n =>
      Map.put (fun _ => (1, 0)) m n (s.get (fUchCfgFsAct n), s.geti (fUchFsValValue n))) [] } }
/-- The path reads the committed values at every commit edge (R417); level 0 itself is not read back. -/
def fsRead (s : State) : State :=
  { s with
    flt := { s.flt with
    fsOut := (List.range 96).foldl (fun m n =>
      if (s.level n 0).isSome then m else Map.put (fun _ => 0) m n (s.chan n).out) s.flt.fsOut } }

/-- A non-maskable event sets its NME_STAT bit (R414). -/
def nme (s : State) (f : Field) : State := s.set f 1

/-- The independent failsafe path trips: level 0 of every output with its FAILSAFE action, driven at once (R88, R417). -/
def tripPath (s : State) (trig : Nat) : State :=
  let s := s.set fFaultFsStatTrig trig
  let s := s.bump fFaultFsStatTrips
  let s := s.setB fFaultFsStatActive true
  let s := s.irq 0x88 4
  (List.range 96).foldl (fun s n =>
    if s.isOutput n then (s.setL0 n .path (s.fsValue n)).commitOutput n else s) s
/-- Release of the path's level 0, settled at the next commit edge of each output's rate (R38, R413, R414). -/
def stageRelease (s : State) (w : L0Owner) : State :=
  let l := ((List.range 96).filter (fun n => s.holdsL0 n w
      || s.flt.staged.any (fun x => decide (x.out = n) && decide (x.owner = w)))).map
    (fun n => { out := n, owner := w, set := false, time := s.now : L0Write })
  { s with flt := { s.flt with staged := s.flt.staged ++ l } }
/-- Level-0 writes and releases staged before this instant take effect at a commit edge of rate `r` (R409). -/
def settleL0 (s : State) (r : Rate) : State :=
  let mine (w : L0Write) : Bool := s.outRate w.out = r && w.time < s.now
  let (now_, later) := s.flt.staged.partition mine
  let s := { s with flt := { s.flt with staged := later } }
  now_.foldl (fun s w => if w.set then s.setL0 w.out w.owner (s.fmValue w.out) else s.relL0 w.out w.owner) s

/-! ### Mode changes (R83–R85, R100) -/

/-- The clearing of R84 at a mode change: latched faults, streak and every level but 1, which stays between outputs. -/
def clearForMode (s : State) (n old new : Nat) : State :=
  let keep1 := isOut old && isOut new
  let s := (List.range 7).foldl (fun s k => if k + 1 = 1 && keep1 then s else s.setLevel n (k + 1) none) s
  let s := [L0Owner.rdbk, .lswSc, .lswOt].foldl (fun s w => s.relL0 n w) s
  let latched := (s.chan n).latched
  let s := s.upChan n (fun c => { c with
    latched := 0, streak := 0, verify := false, events := [], scOff := none, otOff := false, lswOn := false,
    faults := c.faults &&& 0x1F,
    runs := [(0, 0), (0, 0), (0, 0), (0, 0)], burdenOpen := none, closure := none })
  [(0x20, 6), (0x40, 7), (0x80, 8)].foldl (fun s p =>
    if latched &&& p.1 ≠ 0 then s.clearFault (0x3000 + p.2) n else s) s

/-- Start a mode gap of 1.0 ms into `m` (R84). -/
def startGap (s : State) (n m : Nat) : State :=
  s.upChan n (fun c => { c with
    mode := m, gapEnd := some (s.now + 1000), fltDir := 0,
    fltLast := if c.fltDir ≠ 0 then c.fltDir else c.fltLast, fltOff := if c.fltDir ≠ 0 then s.now else c.fltOff,
    lswOn := false, hizProt := false, belowSince := none, reenter := false })

/-- A channel changes mode at an edge: the gap, the clearing, and the odd member of an FLT pair (R75, R84). -/
def changeMode (s : State) (n : Nat) : State :=
  let old := (s.chan n).mode
  let new := s.get (fUchCfgMode n)
  if old = new || s.oddMember n then s else
  let s := (s.clearForMode n old new).startGap n new
  let s := if new = 0xD then
      let o := (s.chan (n + 1)).mode
      (((s.clearForMode (n + 1) o 0xD).startGap (n + 1) 0xD).set (fUchCfgMode (n + 1)) 0xD)
    else if old = 0xD then
      ((s.clearForMode (n + 1) 0xD 0).startGap (n + 1) 0).set (fUchCfgMode (n + 1)) 0
    else s
  s.budgetFaces none none

/-- First commit edge after reset: the channel leaves HIZ into its configured mode (R83). -/
def firstEnter (s : State) (n : Nat) : State :=
  if s.oddMember n then s else
  let m := s.get (fUchCfgMode n)
  let s := s.upChan n (fun c => { c with
    started := true, mode := m, en := s.en (8 + n / 24), staleTill := s.now,
    gapEnd := none, cnt := 0, period := 0, lastEdge := none })
  if m = 0xD then
    ((s.upChan (n + 1) (fun c => { c with started := true, mode := 0xD })).set (fUchCfgMode (n + 1)) 0xD)
  else s

/-- EN of a UCH page as taken at a lath edge: HIZ when it went to 0; back through the mode gap, with nothing cleared,
when it went to 1 (R100). -/
def takeChanEn (s : State) (n : Nat) : State :=
  let c := s.chan n
  let e := s.en (8 + n / 24)
  if c.en = e then s
  else if e then (s.upChan n (fun c => { c with en := true })).startGap n c.mode
  else s.upChan n (fun c => { c with en := false, fltDir := 0, lswOn := false })

/-! ### Faults of a channel (R92–R97) -/

/-- RDBK is raised: latched, MAJOR, FAILSAFE at level 0 (R92, R93). -/
def raiseRdbk (s : State) (n : Nat) : State :=
  let s := s.upChan n (fun c => { c with latched := c.latched ||| 0x20, verify := false })
  (s.markFault n 6 true).raise 0x3006 n .major

/-- Host write of a FLT_CLR bit for a latched fault (R97): the fault clears and its level 0 goes with the clear. -/
def clearLatched (s : State) (n cause : Nat) : State :=
  let b := 2 ^ (cause - 1)
  if (s.chan n).latched &&& b = 0 then s else
  let s := s.upChan n (fun c => { c with
    latched := c.latched &&& (0xFF - b), streak := 0, verify := false, events := [],
    scOff := if cause = 7 then none else c.scOff, otOff := if cause = 8 then false else c.otOff })
  (s.markFault n cause false).clearFault (0x3000 + cause) n

/-- A new input result counts toward one of OPEN (1), SHORT (2), LOOP_BRK (3), OVI (5): set after 3 in a row, cleared
after 10 in a row without it (R93). `k` is its place in `runs`. -/
def countInput (s : State) (n k cause : Nat) (holds : Bool) : State :=
  let c := s.chan n
  let r := c.runs.getD k (0, 0)
  let r' : Nat × Nat := if holds then (min 3 (r.1 + 1), 0) else (0, min 10 (r.2 + 1))
  let b := 2 ^ (cause - 1)
  let s := s.modChan n (fun c => { c with runs := c.runs.set k r' })
  if holds && r'.1 = 3 && c.faults &&& b = 0 then (s.markFault n cause true).raise (0x3000 + cause) n .minor
  else if !holds && r'.2 = 10 && c.faults &&& b ≠ 0 && c.burdenOpen.isNone then
    (s.markFault n cause false).clearFault (0x3000 + cause) n
  else s

/-- A pin above the OVV threshold of a low-voltage mode in effect puts the channel into HIZ-PROTECT at once (R94). -/
def ovv (s : State) (n : Nat) (mv : Int) : State :=
  let c := s.chan n
  if !isLowVolt (effMode c) || mv ≤ ovvMv c.mode then s else
  let s := s.upChan n (fun c => { c with hizProt := true, belowSince := none, reenter := false })
  (s.markFault n 4 true).raise 0x3004 n .major

/-- Leave HIZ-PROTECT at a commit edge: a mode gap without the clearing of levels (R94). -/
def leaveProtect (s : State) (n : Nat) : State :=
  let s := (s.markFault n 4 false).clearFault 0x3004 n
  s.startGap n (s.chan n).mode

/-- An LSW_SC (7) or LSW_OT (8) event: the stage turns off; the third of either kind within 60 s latches it (R96). -/
def lswEvent (s : State) (n cause : Nat) : State :=
  let m := if s.oddMember n then n - 1 else n
  let c := s.chan m
  if !isLsw (effMode c) then s else
  let keep := c.events.filter (fun e => s.now < e.2 + 60000000)
  let ev := keep ++ [(cause, s.now)]
  let latch := 3 ≤ ev.length
  let b := 2 ^ (cause - 1)
  let s := s.upChan m (fun c => { c with
    events := ev
    scOff := if cause = 7 then some s.now else c.scOff
    otOff := c.otOff || cause = 8
    lswOn := false
    fltLast := if c.fltDir ≠ 0 then c.fltDir else c.fltLast
    fltOff := if c.fltDir ≠ 0 then s.now else c.fltOff
    fltDir := 0
    latched := if latch then c.latched ||| b else c.latched })
  let s := s.markFault m cause true
  if latch then (s.clearFault (0x3000 + cause) m).raise (0x3000 + cause) m .major
  else s.raise (0x3000 + cause) m .minor

/-! ### Readback (R90–R92, R515) -/

/-- Blank after a change of the committed value, µs (R90). -/
def blankUs (s : State) (n : Nat) (c : Chan) : Nat :=
  match c.mode with
  | 0x8 => 100
  | 0x9 => 1000
  | 0xA => ceilDiv 2000000 (freqClamp 0xA (s.eget (fUchParamFreq n)))
  | 0xC => ceilDiv 2000000 (freqClamp 0xC (s.eget (fUchParamFreq n)))
  | _ => 100

/-- Whether a measured quantity lies outside the tolerance of R90. -/
def outOfTol (c : Chan) (m : Int) (high : Option Int) : Bool :=
  let off := fun (tol : Int) => tol < (if m < c.out then c.out - m else m - c.out)
  match c.mode with
  | 0x8 => off 13107
  | 0x9 => off 31457
  | 0xA => off (2 * 65536) || (match high with | some h => 0 < c.out && h < 10 * 65536 | none => false)
  | 0xC => off (2 * 65536)
  | 0xB => c.out ≠ 0 && 52428 < m
  | 0xD => c.fltDir ≠ 0 && 52428 < m
  | _ => false

/-- Whether the comparison applies: LSW compares only while on (R90). -/
def compared (c : Chan) : Bool :=
  match effMode c with
  | 0xB => c.lswOn
  | 0xD => c.fltDir ≠ 0
  | m => isOut m

/-- One skim frame's comparison of one output, with the request of its verification (R91, R92). `sluice` asks the core of
the channel for a verification sample, and answers whether it was queued. -/
def readbackOne (s : State) (sluice : State → Nat → Option State) (frameStart : Nat) (n : Nat) (m : Int)
    (high : Option Int) : State :=
  let c := s.chan n
  if !c.en || !s.isOutput n || !compared c then s else
  let start := max frameStart (c.changedAt + s.blankUs n c)
  let s :=
    if s.now < start + 1000 then s
    else
      let streak := if c.verify then c.streak else if outOfTol c m high then min 3 (c.streak + 1) else 0
      s.upChan n (fun c => { c with streak := streak, rdbk := m })
  let c := s.chan n
  if c.streak < 3 || c.verify || c.latched &&& 0x20 ≠ 0 then s
  else if c.mode = 0xA || c.mode = 0xC then s.raiseRdbk n
  else match sluice s n with
    | some s' => s'.upChan n (fun c => { c with verify := true })
    | none => s

end State
end Sys2Proof.Machine
end

