-- ==== Sys2Proof/Machine/Conv.lean ====
section
/-! DEFINITION. Converter cores (R102–R127): the scan, decimation and correction, over-range and discharge, the sluice,
self-checks and the internal slots. Core time runs in 20 ns ticks of TIMEBASE. -/
set_option Elab.async false
namespace Sys2Proof.Machine
namespace State

/-- While the PLL coasts, durations derived from it are doubled (R473). -/
def slow (s : State) : Nat := if s.bit fClkStatCoast then 2 else 1
def core (s : State) (c : Nat) : Core := Map.look (fun _ => {}) s.cores c
def setCore (s : State) (c : Nat) (k : Core) : State := { s with cores := Map.put (fun _ => {}) s.cores c k }
def modCore (s : State) (c : Nat) (f : Core → Core) : State := s.setCore c (f (s.core c))

/-- The slot of a core converts zero (R106). -/
def convertsZero (s : State) (c i : Nat) : Bool := i < 12 && effMode (s.chan (12 * c + i)) = 0
/-- A core fault of R126 is active. -/
def coreFault (s : State) (c : Nat) : Bool := s.word (rConvFault c) ≠ 0
/-- Output interval T of RATE, µs (R108). -/
def rateUs (r : Nat) : Nat := match r with | 0 => 100000 | 1 => 20000 | 2 => 10000 | _ => 1000

/-- QDEPTH, CREDIT and STATE faces (R119, R127). -/
def coreFaces (s : State) (c : Nat) : State :=
  let k := s.core c
  let s := s.set (fConvSluiceStatQdepth c) k.queue.length
  let s := s.setB (fConvSluiceStatCredit c) (7 ≤ k.since)
  s.set (fBlkState (0x10 + c)) (if s.coreFault c then 2 else if k.run then 0 else 1)

/-- The scan starts or restarts at slot 0 (R105, R126, R127). -/
def startScan (s : State) (c : Nat) : State :=
  (s.modCore c (fun k => { k with
    run := true, slot := 0, ph := .conv, t0 := 50 * s.now, roundT0 := 50 * s.now,
    left := 0, ovr := 0, ovrN := 0, s12 := 0, s13 := 0, rounds := 0, blk := none })).coreFaces c

/-! ### Correction (R110, R112, R113) -/

/-- The record of a store address for a channel and mode, when valid (R112). -/
def corRecord (s : State) (base n m : Nat) : Option (Int × Nat) :=
  let a := base + (n * 16 + m) * 8
  let w := s.storeWord a
  let g := (s.storeWord (a + 4)).toNat
  if bitAt w 31 && 0x200000 ≤ g && g ≤ 0x800000 then some (signedOf 24 (w.toNat % 2 ^ 24), g) else none

/-- On entry into a mode the core loads the pair from the field record, the factory record or identity (R112, R272). -/
def loadCorrection (s : State) (n : Nat) : State :=
  let c := n / 12
  let i := n % 12
  let m := (s.chan n).mode
  let (p, src) : (Int × Nat) × Nat :=
    match s.corRecord 0x2000 n m, (if s.bit fStoreStatusIdMismatch then none else s.corRecord 0x31000 n m) with
    | some p, _ => (p, 2)
    | none, some p => (p, 1)
    | none, none => ((0, 0x400000), 0)
  let s := s.modCore c (fun k => { k with cor := Map.put (fun _ => (0, 0x400000)) k.cor i p })
  let s := s.seti (fConvCorOfsOffset c i) p.1
  let s := s.set (fConvCorOfsSrc c i) src
  s.set (fConvCorGainGain c i) p.2

/-- R110's correction of x. -/
def correct (p : Int × Nat) (x : Int) : Int :=
  clampI (-8388608) 8388607 (((x - p.1) * (p.2 : Int) + 2097152) / 4194304)
/-- A mode's LEAD_R in result units of AI-RLO: milliohms against 5.0 kΩ full scale (R79, R104; log entry 21). -/
def leadUnits (mohm : Nat) : Int := divHalfUp ((mohm : Int) * 8388608) 5000000

/-! ### Scan -/

/-- A raw sample of a channel slot enters the interval that holds its sample instant (R108–R110). -/
def addSample (s : State) (c i code : Nat) (ovf hi : Bool) (tick : Nat) : State :=
  let T := rateUs (s.eget (fUchCfgRate (12 * c + i)))
  let k := s.core c
  let last := Map.look (fun _ => 0) k.lastEnd i
  let us := tick / 50
  let later := last / T * T + T ≤ us && last ≠ 0
  let add (a : Acc) : Acc :=
    { acc := a.acc + code, n := a.n + 1, oh := a.oh || (ovf && hi), ol := a.ol || (ovf && !hi),
      lastHi := if ovf then hi else a.lastHi }
  if later then
    s.setCore c { k with nxt := Map.put (fun _ => {}) k.nxt i (add (Map.look (fun _ => {}) k.nxt i)) }
  else
    s.setCore c { k with cur := Map.put (fun _ => {}) k.cur i (add (Map.look (fun _ => {}) k.cur i)) }

/-- Voltage divider of rail `k` (R125). -/
def railDiv (k : Nat) : Int := match k with | 0 => 10 | 1 => 4 | 5 => 4 | 6 => 4 | _ => 1
/-- A code of an internal slot in volts, Q16.16, on the span of ±5.000 V (R104). -/
def internalVolts (code : Nat) : Int := (code : Int) * 10 - 5 * 65536

/-- End of a round (R105, R117, R126). -/
def endRound (s : State) (c endTick : Nat) : State :=
  let k := s.core c
  let len := (endTick - k.roundT0) / 50
  let clean := s.slow * (16 + 2 * k.ovrN)
  let s := s.set (fConvRoundLast c) (min 255 len)
  let s := s.set (fConvRoundMax c) (max (s.get (fConvRoundMax c)) clean)
  let old := s.get (fConvOvrMaskSlot c)
  let s := s.set (fConvOvrMaskSlot c) k.ovr
  let s := if k.ovr &&& (0xFFFF - old) ≠ 0 then s.irq (0x10 + c) 2 else s
  let k := { k with roundT0 := endTick, ovr := 0, ovrN := 0, rounds := k.rounds + 1 }
  let k := if k.rounds = 16 then { k with rounds := 0, blk := some (k.s12, k.s13), s12 := 0, s13 := 0 } else k
  let s := s.setCore c k
  if k.stallRst then
    let s := s.modCore c (fun k => { k with stallRst := false })
    let s := (s.setB (fConvFaultStall c) false).irq (0x10 + c) 3
    (s.clearFault 0x4003 c).coreFaces c
  else s

/-- A conversion of the scan completes (R103, R105, R106, R109, R116, R119). `code` is the raw code; `ovf` and `hi` say
that the input lay beyond its span and on which side. -/
def conversionDone (s : State) (c code : Nat) (ovf hi : Bool) : State :=
  let k := s.core c
  if !k.run || k.ph ≠ .conv then s else
  let i := k.slot
  let zero := s.convertsZero c i
  let ovf := ovf && !zero
  let code := if ovf then (if hi then 0xFFFF else 0) else if zero then 0x8000 else code % 65536
  let tick := k.t0 + 24 * s.slow
  let done := k.t0 + 50 * s.slow
  let s := s.at_ (done / 50)
  let s := if i < 12 && !zero then s.addSample c i code ovf hi tick else s
  let k := s.core c
  let k := { k with
    since := min 7 (k.since + 1)
    s12 := if i = 12 then k.s12 + code else k.s12
    s13 := if i = 13 then k.s13 + code else k.s13
    t14 := if i = 14 then k.t14 + code else k.t14
    n14 := if i = 14 then k.n14 + 1 else k.n14
    ovr := if ovf then k.ovr ||| 2 ^ i else k.ovr
    ovrN := if ovf then k.ovrN + 1 else k.ovrN
    rail := if i = 15 then (k.rail + 1) % 8 else k.rail
    slot := (i + 1) % 16
    ph := if ovf then .disch else .conv
    t0 := done }
  let rail := (s.core c).rail
  let s := s.setCore c k
  let s := if i = 15 then s.seti (fConvSupplyValue c rail) (internalVolts code * railDiv rail) else s
  let s := if i = 15 && !ovf then s.endRound c done else s
  let s := if s.en (0x10 + c) then s else s.modCore c (fun k => { k with run := false })
  s.coreFaces c

/-- A discharge ends and the next slot starts; over-range on the last slot lengthens the round it ended (R116). -/
def dischargeEnd (s : State) (c : Nat) : State :=
  let k := s.core c
  if !k.run || k.ph ≠ .disch then s else
  let len := if k.left = 0 then 100 * s.slow else k.left
  let done := k.t0 + len
  let s := (s.at_ (done / 50)).setCore c { k with ph := .conv, t0 := done, left := 0 }
  let s := if k.slot = 0 && k.roundT0 ≠ done && k.ovr / 0x8000 = 1 then s.endRound c done else s
  s.coreFaces c

/-! ### Interval end (R108–R111, R113, R114) -/

/-- The fault conditions of a new input result (R93). -/
def inputFaults (s : State) (n : Nat) (y : Int) (ovhi : Bool) : State :=
  let m := (s.chan n).mode
  let fs : Int := 8388608
  match m with
  | 4 => let s := s.countInput n 0 1 (450 * fs < y * 500); s.countInput n 1 2 (y * 500000 < 20 * fs)
  | 3 => let s := s.countInput n 0 1 (4500 * fs < y * 5000); s.countInput n 1 2 (y * 5000 < 20 * fs)
  | 2 =>
    let s := if s.ebit (fUchCfgLoopChk n) then s.countInput n 2 3 (y * 320 < 36 * fs) else s
    s.countInput n 3 5 ovhi
  | _ => s

/-- An output interval of channel `n` ends: its result is decimated, corrected and posted. -/
def intervalEnd (s : State) (n : Nat) : State :=
  let c := n / 12
  let i := n % 12
  if !(s.core c).run then s else
  let T := rateUs (s.eget (fUchCfgRate n))
  let k := s.core c
  let last := Map.look (fun _ => 0) k.lastEnd i
  let due := max (last / T * T + T) ((s.now + T - 1) / T * T)
  let s := s.at_ due
  let a := Map.look (fun _ => {}) k.cur i
  let lo := s.word (rConvResLo c i)
  let prev := signedOf 24 (lo.toNat % 2 ^ 24)
  let p := Map.look (fun _ => (0, 0x400000)) k.cor i
  let x : Int := (((a.acc * 256 + a.n / 2) / a.n : Nat) : Int) - 0x800000
  let x := if (s.chan n).mode = 3 then x - leadUnits (s.eget (fUchLeadLeadR n)) else x
  let overAny := a.oh || a.ol
  let y := if overAny then (if a.lastHi then 8388607 else -8388608)
    else if a.n = 0 then prev else correct p x
  let noSample := !overAny && a.n = 0
  let stale := noSample || due < (s.chan n).staleTill + T || s.bit (fConvFaultStall c)
  let seq := (Map.look (fun _ => 0) k.seq i + 1) % 16
  let s := s.setCore c { k with
    cur := Map.put (fun _ => {}) k.cur i (Map.look (fun _ => {}) k.nxt i)
    nxt := Map.put (fun _ => {}) k.nxt i {}
    lastEnd := Map.put (fun _ => 0) k.lastEnd i due
    seq := Map.put (fun _ => 0) k.seq i seq
    cor := Map.put (fun _ => (0, 0x400000)) k.cor i (s.geti (fConvCorOfsOffset c i), s.get (fConvCorGainGain c i)) }
  let s := if noSample then s else s.inputFaults n y (overAny && a.lastHi)
  let flt := (s.chan n).faults ≠ 0 || s.coreFault c
  let b (v : Bool) (j : Nat) : Nat := if v then 2 ^ j else 0
  let w := seq * 2 ^ 28 + b a.oh 27 + b a.ol 26 + b flt 25 + b stale 24 + unsignedOf 24 y
  let s := s.setWord (rConvResLo c i) (BitVec.ofNat 32 w)
  s.setWord (rConvResHi c i) (BitVec.ofNat 32 (seq * 2 ^ 28 + due % 2 ^ 28))

/-- The latest result of a channel: y, over-range, FLT, STALE, TIMEBASE at the interval's end (R114). -/
structure Result where
  y : Int
  ovhi : Bool
  ovlo : Bool
  flt : Bool
  stale : Bool
  ts : Nat
deriving DecidableEq, Repr

def result (s : State) (n : Nat) : Result :=
  let w := s.word (rConvResLo (n / 12) (n % 12))
  { y := signedOf 24 (w.toNat % 2 ^ 24), ovhi := bitAt w 27, ovlo := bitAt w 26, flt := bitAt w 25, stale := bitAt w 24,
    ts := Map.look (fun _ => 0) (s.core (n / 12)).lastEnd (n % 12) }

/-! ### The sluice (R118–R124) -/

/-- An urgent request enters the queue of a core in RUN, or is refused when 4 wait (R118, R123). -/
def sluicePut (s : State) (c slot req : Nat) : Option State :=
  let k := s.core c
  if 4 ≤ k.queue.length || !k.run || s.coreFault c then none
  else some ((s.setCore c { k with queue := k.queue ++ [(slot, req)] }).coreFaces c)

/-- The fault manager's verification sample of an output channel (R92). -/
def sluiceVerify (s : State) (n : Nat) : Option State := s.sluicePut (n / 12) (n % 12) 2

/-- A host request (R118, R123). -/
def sluiceHost (s : State) (c slot : Nat) : State :=
  match s.sluicePut c slot 0 with
  | some s' => s'
  | none => ((s.blkErr (0x10 + c) 0x40 true 0x20).irq (0x10 + c) 1).bump (fConvUrgCntRefused c)

/-- An urgent conversion starts: the running conversion is aborted, or a discharge is cut short (R119–R121). -/
def urgentStart (s : State) (c : Nat) : State :=
  let k := s.core c
  if !k.run || k.ph = .urgent || k.since < 7 || k.queue.isEmpty then s else
  let tick := 50 * s.now
  let k' := match k.ph with
    | .disch =>
      let len := if k.left = 0 then 100 * s.slow else k.left
      let el := if tick < k.t0 + 60 * s.slow then 60 * s.slow else min len (tick - k.t0)
      { k with ph := .urgent, t0 := k.t0 + el, left := len - el, dsc := el < len, since := 0 }
    | _ => { k with ph := .urgent, t0 := max tick k.t0, left := 0, dsc := false, since := 0 }
  ((s.at_ (k'.t0 / 50)).setCore c k').coreFaces c

/-- The registers and the engine after an urgent conversion of `slot` (R120, R124). -/
def urgentFinish (s : State) (c slot req : Nat) (q : List (Nat × Nat)) (ovf hi zero : Bool) (y : Int) : State :=
  let k := s.core c
  let done := k.t0 + 50 * s.slow
  let s := s.at_ (done / 50)
  let n := (k.urgN + 1) % 16
  let flt := s.coreFault c || (slot < 12 && (s.chan (12 * c + slot)).faults ≠ 0)
  let b (v : Bool) (j : Nat) : Nat := if v then 2 ^ j else 0
  let lo := n * 2 ^ 28 + b (ovf && hi) 27 + b (ovf && !hi) 26 + b flt 25 + b zero 24 + unsignedOf 24 y
  let disch := ovf || k.left ≠ 0
  let s := s.setCore c { k with
    queue := q, urgN := n, since := 0, t0 := done, left := if ovf then 0 else k.left,
    ph := if disch then .disch else .conv }
  let s := s.setWord (rConvSluiceLo c) (BitVec.ofNat 32 lo)
  let s := s.setWord (rConvSluiceHi c) (BitVec.ofNat 32 (n * 2 ^ 28 + (k.t0 + 24 * s.slow) / 50 % 2 ^ 28))
  let s := s.set (fConvSluiceTagSeq c) n
  let s := s.setB (fConvSluiceTagDsc c) k.dsc
  let s := s.set (fConvSluiceTagReq c) req
  let s := s.set (fConvSluiceTagSlot c) slot
  let s := s.set (fConvSluiceStatSeq c) n
  let s := s.bump (fConvUrgCntDone c)
  let s := if req = 0 then s.irq (0x10 + c) 0 else s
  s.coreFaces c

/-- The urgent conversion in progress ends with `code`: who asked, the corrected value and the state after it (R120, R124). -/
def urgentDone (s : State) (c code : Nat) (ovf hi : Bool) : Option (Nat × Nat × Int × Bool × State) :=
  let k := s.core c
  match k.ph, k.queue with
  | .urgent, (slot, req) :: q =>
    let zero := s.convertsZero c slot
    let ovf := ovf && !zero
    let code := if ovf then (if hi then 0xFFFF else 0) else if zero then 0x8000 else code % 65536
    let p := if slot < 12 then Map.look (fun _ => (0, 0x400000)) k.cor slot else (0, 0x400000)
    let x : Int := (code * 256 : Nat) - 0x800000
    let x := if slot < 12 && (s.chan (12 * c + slot)).mode = 3
      then x - leadUnits (s.eget (fUchLeadLeadR (12 * c + slot))) else x
    let y := if ovf then (if hi then 8388607 else -8388608) else correct p x
    some (slot, req, y, zero, s.urgentFinish c slot req q ovf hi zero y)
  | _, _ => none

/-- Full scale of a channel mode, Q16.16 in the unit of R80/R90 (R104). -/
def fullScale (m : Nat) : Int :=
  match m with
  | 1 => 12 * 65536 | 2 => 32 * 65536 | 3 => 5 * 65536 | 4 => 500 * 65536 | 5 => 16 * 65536 | 6 => 16 * 65536
  | 7 => 16 * 65536 | 8 => 12 * 65536 | 9 => 32 * 65536 | 0xA => 16 * 65536 | 0 => 0 | _ => 48 * 65536

/-- The verification sample of R92: RDBK when it is out of tolerance, else the streak returns to 0. -/
def verifyResult (s : State) (n : Nat) (y : Int) : State :=
  let c := s.chan n
  if !c.verify then s else
  let m := y * fullScale c.mode / 8388608
  if compared c && outOfTol c m none then s.raiseRdbk n
  else s.upChan n (fun c => { c with verify := false, streak := 0 })

/-! ### Self-checks and temperature (R125, R126) -/

/-- One check of a finished block: limit, count of good blocks, raise and clear. -/
def selfCheck (s : State) (c : Nat) (f : Field) (cause sum centre ok : Nat) : Nat × State :=
  let d : Int := (sum : Int) - 16 * centre
  let bad := 256 < d || d < -256
  if bad then
    if s.bit f then (0, s) else (0, ((s.setB f true).irq (0x10 + c) 3).raise (0x4000 + cause) c .major)
  else if s.bit f then
    if 15 ≤ ok then (0, ((s.setB f false).irq (0x10 + c) 3).clearFault (0x4000 + cause) c) else (ok + 1, s)
  else (0, s)

/-- The end of a block of 16 complete rounds (R126). -/
def selfCheckBlock (s : State) (c : Nat) : State :=
  match (s.core c).blk with
  | none => s
  | some (a, b) =>
    let s := s.set (fConvRefMean c) ((a + 8) / 16)
    let s := s.set (fConvZeroMean c) ((b + 8) / 16)
    let (r, s) := s.selfCheck c (fConvFaultRef c) 1 a 0xC000 (s.core c).refOk
    let (z, s) := s.selfCheck c (fConvFaultZero c) 2 b 0x8000 (s.core c).zeroOk
    (s.modCore c (fun k => { k with blk := none, refOk := r, zeroOk := z })).coreFaces c

/-- No conversion has completed for 50 µs: STALL; the fault manager applies SOFT_RST to the core once (R126). -/
def coreStall (s : State) (c : Nat) (softReset : State → State) : State :=
  if !(s.core c).run || s.bit (fConvFaultStall c) then s else
  let s := softReset (s.at_ ((s.core c).t0 / 50 + 50))
  let s := ((s.setB (fConvFaultStall c) true).irq (0x10 + c) 3).raise 0x4003 c .major
  let s := (List.range 12).foldl (fun s i =>
    s.setWord (rConvResLo c i) (s.word (rConvResLo c i) ||| 0x03000000#32)) s
  (s.modCore c (fun k => { k with stallRst := true })).coreFaces c

/-- The 1 ms block of slot 14 ends: CONVc.TEMP, from 0.500 V at 0 °C and 10.0 mV per °C (R125). -/
def tempBlock (s : State) (c : Nat) : State :=
  let k := s.core c
  let s := s.at_ ((s.now + 999) / 1000 * 1000)
  let s := if k.n14 = 0 then s
    else s.seti (fConvTempValue c) (divHalfUp ((k.t14 : Int) * 1000) k.n14 - 550 * 65536)
  s.modCore c (fun k => { k with t14 := 0, n14 := 0 })

/-- The highest of the eight CONVc.TEMP values, Q16.16 °C (R125, R414, R460). -/
def maxTemp (s : State) : Int :=
  (List.range 7).foldl (fun m c => max m (s.geti (fConvTempValue (c + 1)))) (s.geti (fConvTempValue 0))

/-- A host write of COR_OFS_i or COR_GAIN_i (R113): SRC reads 3; the pair takes effect at the next interval boundary. -/
def correctionWrite (s : State) (c i : Nat) (gain : Bool) (w : Word) : State :=
  if gain then
    if w.toNat < 0x200000 || 0x800000 < w.toNat then s.blkErr (0x10 + c) 0x41 true (0x100 + 0x10 * i + 0xC)
    else (s.set (fConvCorGainGain c i) w.toNat).set (fConvCorOfsSrc c i) 3
  else (s.set (fConvCorOfsOffset c i) (w.toNat % 2 ^ 24)).set (fConvCorOfsSrc c i) 3

/-- A channel enters its mode: at the first commit, or at the end of a gap (R78, R83, R84, R112). -/
def enterMode (s : State) (n : Nat) : State :=
  let m := (s.chan n).mode
  let s := s.upChan n (fun c => { c with
    gapEnd := none, staleTill := s.now,
    cnt := if m = 6 || m = 7 then 0 else c.cnt, period := if m = 6 then 0 else c.period,
    lastEdge := if m = 6 then none else c.lastEdge })
  let s := s.loadCorrection n
  -- R135, R146: the sense filter and the PIR detector start afresh at a mode entry
  let fresh (e : Eng) : Eng :=
    let x := Map.look (fun _ => {}) e.sen n
    let x := { x with haveGood := false, recovering := false, staleRun := 0, lastCnt := none }
    { e with sen := Map.put (fun _ => {}) e.sen n x }
  let s := { s with
    eng := fresh s.eng
    engL := fresh s.engL
    engS := fresh s.engS
    pir := Map.put (fun _ => {}) s.pir n {} }
  -- the front end measures the on-resistance of a switch stage at its mode entry (R238, R454)
  let s := if isLsw m then
      let (r, s) := s.freeNat 5
      s.modChan n (fun c => { c with ron := r })
    else s
  if isOut m then s.commitOutput n else s

end State
end Sys2Proof.Machine
end

