-- ==== Sys2Proof/Machine/Faults.lean ====
section
/-! DEFINITION. The fault manager and the independent failsafe path (R404–R421): processing of a request, its record, its
alarm and its level-0 writes, settlement, the non-maskable events and the policies that follow. -/
set_option Elab.async false
namespace Sys2Proof.Machine

def FClass.code : FClass → Nat
  | .minor => 0 | .major => 1 | .critical => 2

/-- The owning page of a fault source (R404, R408). -/
def srcPage (code inst : Nat) : Nat :=
  match code / 0x1000 with
  | 0x0 => 0x00 | 0x1 => 0x01 | 0x2 => 0x03
  | 0x3 => 0x08 + inst / 24
  | 0x4 => 0x10 + inst
  | 0x5 => 0x19 + inst / 32
  | 0x6 => 0x1D
  | 0x7 => 0x40 + inst / 16
  | 0x8 => 0x61
  | 0x9 => 0x62 + inst / 8
  | 0xA => 0x68 | 0xB => 0x70 | 0xC => 0x71 | 0xD => 0x72 | 0xE => 0x80
  | _ => match code / 0x100 % 0x10 with
    | 0x0 => 0x02 | 0x1 => 0x78 | 0x2 => 0x90 | 0x3 => 0x91 | 0x4 => 0x60 | _ => 0x88

/-- The page's IRQ_STAT bit for a source, where the block's table has one per source (R408 step 1). -/
def srcIrq (code inst : Nat) : Option Nat :=
  match code / 0x1000 with
  | 0x3 => some (inst % 24)
  | 0x4 => some 3
  | 0x7 => some (inst % 16)
  | 0x9 => if code = 0x9005 || code = 0x9006 then some (8 + inst % 8) else some (inst % 8)
  | _ => if code = 0x2001 then some 2 else none

/-- Fault codes raised by the non-maskable events (R414). -/
def isNme (code : Nat) : Bool := 1 ≤ code && code ≤ 5

namespace State

/-- IRQ_CAUSE_b of the source's block (R408, R420). -/
def setCause (s : State) (q : FReq) : State :=
  match blkOfPage (srcPage q.code q.inst) with
  | none => s
  | some b =>
    let i := b.sumBit
    let more := s.bit (fFaultIrqCauseValid i)
    let s := s.setB (fFaultIrqCauseMore i) (more || s.bit (fFaultIrqCauseMore i))
    let s := s.setB (fFaultIrqCauseValid i) true
    let s := s.set (fFaultIrqCauseClass i) q.cls.code
    let s := s.set (fFaultIrqCauseInst i) (q.inst % 4096)
    s.set (fFaultIrqCauseCode i) q.code

/-- The four words of an active record (FAULT.LIST_r). -/
def listFace (s : State) (r : FRec) : State :=
  match r.slot with
  | none => s
  | some i =>
    let w0 := r.code * 0x10000 + r.cls.code * 0x4000 + (if isNme r.code then 0x2000 else 0) + r.inst % 4096
    let s := s.setWord (rFaultList i 0) (BitVec.ofNat 32 w0)
    let s := s.setWord (rFaultList i 1) (BitVec.ofNat 32 (r.rep * 0x10000))
    s.setPair (rFaultList i 2) (rFaultList i 3) r.time
def listFree (s : State) (i : Fin 128) : State :=
  (List.range 4).foldl (fun s w => s.setWord (rFaultList i w) 0) s

/-- BLK_STAT.FAULT of a page follows the active faults of its sources. -/
def pageFault (s : State) (page : Nat) : State :=
  s.setB (fBlkFault page) (s.flt.active.any (fun r => srcPage r.code r.inst = page))

/-- Queue an alarm for a processed raise or clear (R419). -/
def queueAlarm (s : State) (q : FReq) (rep : Nat) : State :=
  if !s.bit fFaultAlmCfgEn then s
  else if 32 ≤ s.flt.alarms.length then (s.bump fFaultAlmCntDropped).irq 0x88 5
  else
    let b2 := q.cls.code * 64 + (if isNme q.code then 32 else 0) + (if q.clear then 0 else 16)
    let p := beBytes 2 q.code ++ beBytes 1 b2 ++ beBytes 1 0 ++ beBytes 2 q.inst ++ beBytes 2 rep
      ++ beBytes 8 s.now ++ beBytes 4 s.nst.audSeq
    { s with flt := { s.flt with alarms := s.flt.alarms ++ [p] } }

/-- The level-0 writes of a class and source: the device-wide failsafe, or what the owning chapter gives a MAJOR fault. -/
def l0Actions (s : State) (q : FReq) : List (Nat × L0Owner) :=
  let outs := (List.range 96).filter (fun n => s.isOutput n)
  match q.cls with
  | .minor => []
  | .critical => outs.map (fun n => (n, L0Owner.devFs))
  | .major =>
    if q.code = 0x3006 then [(q.inst, .rdbk)]
    else if q.code = 0x3007 then [(q.inst, .lswSc)]
    else if q.code = 0x3008 then [(q.inst, .lswOt)]
    else if q.code / 0x1000 = 4 then
      (outs.filter (fun n => n / 12 = q.inst)).map (fun n => (n, L0Owner.core))
    else if q.code = 0x1005 then
      (outs.filter (fun n => (s.chan n).mode ≤ 0xA)).map (fun n => (n, L0Owner.arail))
    else if q.code = 0x9002 then [(96 + q.inst, .blocked)]
    else []

def stageL0 (s : State) (set : Bool) (l : List (Nat × L0Owner)) : State :=
  { s with
    flt := { s.flt with
    staged := s.flt.staged ++ l.map (fun p => { out := p.1, owner := p.2, set := set, time := s.now : L0Write }) } }

/-- The rate of the edge at which handling ends: the latest settlement of what it staged (R409). -/
def endsAt (s : State) (l : List (Nat × L0Owner)) : Rate :=
  if l ≠ [] && l.all (fun p => s.outRate p.1 = .skim) then .skim else .lath

/-- A free record, or for a MAJOR or CRITICAL raise that of the oldest MINOR fault (R413). -/
def takeSlot (s : State) (cls : FClass) : Option (Fin 128) × State :=
  let used := s.flt.active.filterMap (fun r => r.slot)
  match (List.finRange 128).find? (fun i => !used.contains i) with
  | some i => (some i, s)
  | none =>
    if cls = .minor then (none, s) else
    match s.flt.active.find? (fun r => r.cls = .minor && r.slot.isSome) with
    | some r =>
      (r.slot, { s with
        flt := { s.flt with
        active := s.flt.active.map (fun x => if x.code = r.code && x.inst = r.inst then { x with slot := none } else x) } })
    | none => (none, s)

/-- Processing of a raise (R408). -/
def processRaise (s : State) (q : FReq) : State :=
  let (slot, s) := s.takeSlot q.cls
  let acts := s.l0Actions q
  let r : FRec := { code := q.code, inst := q.inst, cls := q.cls, rep := q.rep, time := s.now, slot := slot,
                    ends := s.endsAt acts }
  let s := { s with flt := { s.flt with active := s.flt.active ++ [r] } }
  let s := (s.listFace r).setCause q
  let page := srcPage q.code q.inst
  let s := s.pageFault page
  let s := match srcIrq q.code q.inst with | some b => s.irq page b | none => s
  let s := s.audit 3 0xFE q.code 0 0 q.rep
  let s := s.queueAlarm q q.rep
  let s := s.stageL0 true acts
  let s := if q.cls = .critical then s.setB fFaultStatDevFs true else s
  let s := if q.cls = .critical && !(2 ≤ q.code && q.code ≤ 4)
    then { s with flt := { s.flt with critWait := true } } else s
  let s := (s.irq 0x88 0).bump fFaultCountsRaised
  if q.cls = .critical then s.irq 0x88 2 else s

/-- Processing of a clear (R408): the record is freed and the releases of the owning chapter are staged. -/
def processClear (s : State) (q : FReq) : State :=
  let rec_ := s.flt.active.find? (fun r => r.code = q.code && r.inst = q.inst)
  let rep := (rec_.map (fun r => r.rep)).getD 0
  let s := match rec_.bind (fun r => r.slot) with | some i => s.listFree i | none => s
  let s := { s with flt := { s.flt with active := s.flt.active.filter (fun r => !(r.code = q.code && r.inst = q.inst)) } }
  let s := s.pageFault (srcPage q.code q.inst)
  let s := s.audit 4 0xFE q.code 0 0 rep
  let s := s.queueAlarm q rep
  let s := match q.cls with
    | .minor => s
    | .major => s.stageL0 false (s.l0Actions q)
    | .critical =>
      -- TJ_CRIT and LATH_MISS release the device-wide failsafe with their condition (R413, R414)
      if (q.code = 3 || q.code = 4) && !(s.flt.active.any (fun r => decide (r.cls = FClass.critical))) && !s.flt.critWait then
        (s.stageRelease .devFs).setB fFaultStatDevFs false
      else s
  s.irq 0x88 1

/-- The processing of a request completes, its actions are staged, and the next request is taken (R408). -/
def faultProcessed (s : State) : State :=
  if s.flt.stopped then s else
  match s.flt.proc with
  | none => s
  | some (q, _) =>
    let s := if q.clear then s.processClear q else s.processRaise q
    let s := { s with flt := { s.flt with proc := none } }
    let s := s.faultSettleQueues
    if s.flt.ordQ.isEmpty && s.flt.active.any (fun r => r.code = 0x10) then s.clearFault 0x10 0 else s

/-- What a commit edge of rate `r` ends (R409, R413): handling of the requests staged before it, and at a lath edge the
CRIT_POLICY of a settled CRITICAL raise and the release written by CTRL.CLR. -/
def faultEdge (s : State) (r : Rate) : State :=
  let s := s.settleL0 r
  let s := { s with
    flt := { s.flt with
    active := s.flt.active.map (fun x => if x.time < s.now && (r = .lath || x.ends = r) then { x with settled := true } else x) } }
  if r = .lath && s.flt.critWait then
    let s := { s with flt := { s.flt with critWait := false } }
    if s.bit fFaultCtrlCritPolicy then { s with lath := { s.lath with resetAtEdge := some 8 } } else s
  else s

/-- The ordinary queue has been full for one lath period with requests waiting (R412). -/
def queueOverflow (s : State) : State :=
  match s.flt.fullSince with
  | none => s
  | some t =>
    let s := s.at_ (t + s.lathPeriod)
    let s := { s with flt := { s.flt with fullSince := none } }
    (s.raise 0x10 0 .critical).irq 0x88 3

/-- The failsafe path trips for the fault manager's own memory or time-out, and the manager stops (R418). -/
def fmStop (s : State) (trig : Nat) : State :=
  let s := s.tripPath trig
  let s := { s with flt := { s.flt with stopped := true } }
  let s := s.faultFaces
  if s.bit fFaultCtrlCritPolicy then { s with lath := { s.lath with resetAtEdge := some 8 } } else s

/-- CTRL.CLR: releases the held device-wide failsafe while no CRITICAL fault is active (R413). -/
def faultClr (s : State) : State :=
  if s.flt.active.any (fun r => decide (r.cls = FClass.critical)) || s.flt.stopped || !s.bit fFaultStatDevFs then s
  else
    let s := (s.stageRelease .devFs).stageRelease .path
    (s.setB fFaultStatDevFs false).setB fFaultFsStatActive false

/-- A read of the core SRAM meets errors (R416). -/
def sramErrors (s : State) (corr : Nat) (uncorr : Option Nat) : State :=
  let s := s.bumpBy fFaultEccCorr corr
  match uncorr with
  | none => s
  | some i =>
    let s := (s.set fFaultEccAddrIndex i).setB fFaultEccAddrValid true
    ((s.nme fSysNmeStatSramUncorr).tripPath 4).raise 5 0 .critical

/-- TJ_CRIT: the highest CONVc.TEMP reaches 135 °C; its condition is timed below 125 °C (R414). -/
def tjCheck (s : State) : State :=
  let t := s.maxTemp
  if s.bit fSysNmeStatTjCrit || s.flt.tjHeld then
    let below := if t < 125 * 65536 then some (s.flt.tjBelow.getD s.now) else none
    let s := { s with flt := { s.flt with tjBelow := below } }
    if 135 * 65536 ≤ t && !s.flt.tjHeld then
      (({ s with flt := { s.flt with tjHeld := true } }.nme fSysNmeStatTjCrit).tripPath 3).raise 3 0 .critical
    else s
  else if 135 * 65536 ≤ t then
    (({ s with flt := { s.flt with tjHeld := true, tjBelow := none } }.nme fSysNmeStatTjCrit).tripPath 3).raise 3 0 .critical
  else s

/-- Ten seconds below 125 °C: TJ_CRIT clears and level 0 is released at the next commit edges (R414). -/
def tjClear (s : State) : State :=
  match s.flt.tjHeld, s.flt.tjBelow with
  | true, some t =>
    let s := s.at_ (t + 10000000)
    let s := { s with flt := { s.flt with tjHeld := false, tjBelow := none } }
    let s := (s.stageRelease .path).setB fFaultFsStatActive false
    s.clearFault 3 0
  | _, _ => s

end State
end Sys2Proof.Machine
end

