-- ==== Sys2Proof/Machine/Points.lean ====
section
/-! DEFINITION. The point directory (R366–R381, R523): entries, the window, OUTPUT and HOST writers, remote ingest and
ageing, what is due for publication, subscriber lists, and the switch to a new directory. -/
set_option Elab.async false
namespace Sys2Proof.Machine

def Status.code : Status → Nat
  | .ok => 0 | .stale => 1 | .fault => 2 | .overridden => 3 | .substituted => 4 | .unconfirmed => 5
/-- A received status code; 6–15 are taken as FAULT (R368). -/
def Status.ofCode (n : Nat) : Status :=
  match n with | 0 => .ok | 1 => .stale | 2 => .fault | 3 => .overridden | 4 => .substituted | 5 => .unconfirmed | _ => .fault
/-- Rank for every worst-status rule: FAULT, UNCONFIRMED, STALE, SUBSTITUTED, OVERRIDDEN, OK (R169). -/
def Status.rank : Status → Nat
  | .ok => 0 | .overridden => 1 | .substituted => 2 | .stale => 3 | .unconfirmed => 4 | .fault => 5
def worst (a b : Status) : Status := if a.rank < b.rank then b else a
def worstOf (l : List Status) : Status := l.foldl worst .ok

/-- Word `w` of entry `i` of a directory copy (R369). -/
def entW (d : Map Word) (i w : Nat) : Word := Map.look (fun _ => 0#32) d (8 * i + w)
def entValid (d : Map Word) (i : Nat) : Bool := bitAt (entW d i 0) 31
def entKind (d : Map Word) (i : Nat) : Nat := bitsOf (entW d i 0) 28 3
def entUnit (d : Map Word) (i : Nat) : Nat := bitsOf (entW d i 0) 8 8
def entType (d : Map Word) (i : Nat) : Nat := bitsOf (entW d i 0) 16 2
def entPubEn (d : Map Word) (i : Nat) : Bool := bitAt (entW d i 3) 31
def entClassT (d : Map Word) (i : Nat) : Bool := bitAt (entW d i 3) 30
def entStream (d : Map Word) (i : Nat) : Nat := bitsOf (entW d i 3) 20 10 + 1
def entGroup (d : Map Word) (i : Nat) : Nat := bitsOf (entW d i 3) 0 16
def entMin (d : Map Word) (i : Nat) : Nat := bitsOf (entW d i 2) 0 16
def entMax (d : Map Word) (i : Nat) : Nat := bitsOf (entW d i 2) 16 16
def entLocal (d : Map Word) (i : Nat) : Bool := entValid d i && entKind d i ≤ 2
def entRemote (d : Map Word) (i : Nat) : Bool := entValid d i && entKind d i = 3
/-- The VALID entries of a directory copy, ascending. -/
def entries (d : Map Word) : List Nat :=
  d.filterMap (fun p => if p.1 % 8 = 0 && bitAt p.2 31 then some (p.1 / 8) else none)

namespace State

def kindOf (s : State) (i : Nat) : Option Nat := if entValid s.dir.run i then some (entKind s.dir.run i) else none

/-- PEND_DIRTY, DIR_CNT and NOT_OK (R371). -/
def dirFaces (s : State) : State :=
  let es := entries s.dir.run
  let rem := es.filter (fun i => entKind s.dir.run i = 3)
  let s := s.set fPdirDirCntLocal (es.length - rem.length)
  let s := s.set fPdirDirCntRemote rem.length
  let s := s.setB fPdirDirStatPendDirty (s.dir.pend ≠ s.dir.run)
  s.set fPdirDirStatNotOk (rem.filter (fun i => 2 < (s.visVal i).st.rank)).length

/-! ### Window (R369, R371) -/

/-- A word of the window as the host reads it: words 0–4 pending, with the running STATUS, VIA_T and HOPS; words 5–7 the
running value and timestamp as committed. -/
def pdirRead (s : State) (off : Nat) : Word :=
  let i := off / 32
  let w := off / 4 % 8
  let v := s.visVal i
  match w with
  | 0 => bitsSet (entW s.dir.pend i 0) 24 4 v.st.code
  | 3 =>
    let p := entW s.dir.pend i 3
    if entKind s.dir.pend i = 3 then
      let x := Map.look (fun _ => (false, 0)) s.dir.via i
      bitsSet (bitsSet p 30 1 (if x.1 then 1 else 0)) 25 5 x.2
    else p
  | 5 => BitVec.ofInt 32 v.v
  | 6 => BitVec.ofNat 32 v.ts
  | 7 => BitVec.ofNat 32 (v.ts / 2 ^ 32)
  | _ => entW s.dir.pend i w

/-- The bits of words 0, 2 and 4 that take effect in both copies at the capture edge (R371). -/
def liveMask (w : Nat) : Word :=
  match w with | 0 => 0x00F80000#32 | 2 => 0xFFFFFFFF#32 | 4 => 0xFFFFFFFF#32 | _ => 0#32

/-- A write to the window. `image` is a word of an image block or restore record, whose HOST value acts at E in the new
directory (R371). -/
def pdirWrite (s : State) (off : Nat) (w : Word) (image : Bool) : State :=
  let i := off / 32
  let k := off / 4 % 8
  if k ≤ 4 then
    let resv : Word := match k with | 0 => 0xFF#32 | 3 => 0x000F0000#32 | _ => 0#32
    let s := if w &&& resv ≠ 0 && !image then s.blkErr 0x7D 0x05 true off else s
    let w := w &&& ~~~resv
    let w := if k = 0 then w &&& 0xF0FFFFFF#32 else w
    let s := { s with
      dir := { s.dir with
      pend := Map.put (fun _ => 0#32) s.dir.pend (8 * i + k) w
      liveW := if image || liveMask k = 0 then s.dir.liveW else s.dir.liveW ++ [(8 * i + k, liveMask k, w)] } }
    s.setB fPdirDirStatPendDirty (s.dir.pend ≠ s.dir.run)
  else if k = 5 && (image || s.kindOf i = some 1) then
    { s with dir := { s.dir with hostW := s.dir.hostW ++ [(i, w.toInt)] } }
  else if image then s
  else s.blkErr 0x7D 0x40 true off

/-- HOST values written before a skim capture edge take effect there, in order of completion (R18, R372, R377). -/
def takeHostW (s : State) : State :=
  let l := s.dir.hostW
  let s := { s with dir := { s.dir with hostW := [] } }
  l.foldl (fun s p =>
    if s.kindOf p.1 ≠ some 1 then s else
    let v : Val := { v := p.2, st := .ok, ts := s.now }
    let s := s.setVis p.1 v
    if s.now = s.lath.cap then { s with img := Map.put valDflt s.img p.1 v } else s) s
/-- Directory fields of R371 take effect in the running copy at a lath capture edge. -/
def takeDirLive (s : State) : State :=
  let l := s.dir.liveW
  let run := l.foldl (fun d p =>
    let old := Map.look (fun _ => 0#32) d p.1
    Map.put (fun _ => 0#32) d p.1 ((old &&& ~~~ p.2.1) ||| (p.2.2 &&& p.2.1))) s.dir.run
  ({ s with dir := { s.dir with run := run, liveW := [] } }).setB fPdirDirStatPendDirty (s.dir.pend ≠ run)

/-! ### OUTPUT entries (R370) -/

def outputTarget (s : State) (i : Nat) : Option (Rate × Val × Rate) :=
  let ref := entW s.dir.run i 1
  let n := bitsOf ref 0 8
  let lv (l : Nat) (e : Bool) : Status := if !e && 1 ≤ l && l ≤ 4 then .overridden else .ok
  match bitsOf ref 30 2 with
  | 1 =>
    let r := s.outRate n
    some (r, { v := s.geti (fUchOutValue n), st := lv (s.get (fUchStatWinLvl n)) (s.bit (fUchStatEmpty n)), ts := s.frameTs r }, r)
  | 2 =>
    let r := s.outRate (96 + n)
    some (r, { v := s.geti (fFanDrvoutValue n), st := lv (s.get (fFanDrvstatWinLvl n)) (s.bit (fFanDrvstatEmpty n)), ts := s.frameTs r }, r)
  | 3 =>
    some (.lath, { v := (s.get (fZoneStatEffMode n) : Int) * 65536, st := lv (s.get (fZoneStatArbLvl n)) false, ts := s.lath.cap }, .lath)
  | _ => none

/-- OUTPUT entries take their target's committed value at each commit edge of its rate. -/
def commitOutputs (s : State) (r : Rate) : State :=
  (entries s.dir.run).foldl (fun s i =>
    if entKind s.dir.run i ≠ 2 then s else
    match s.outputTarget i with
    | some (r', v, _) => if r' = r then s.setVis i v else s
    | none => s) s

/-! ### Remote entries (R379, R380) -/

/-- The running remote entry whose REF is a point ID. -/
def remoteEntry (s : State) (id : Nat) : Option Nat :=
  (entries s.dir.run).find? (fun i => entKind s.dir.run i = 3 && (entW s.dir.run i 1).toNat = id)

/-- An update arrives (R380): `id` the point ID (SRC, index); it waits for the capture edge. -/
def rxUpdate (s : State) (id : Nat) (v : Int) (st : Status) (unit : Nat) (notBefore : Nat) (viaT : Bool) (hops : Nat) : State :=
  if !s.en 0x7D then s else
  match s.remoteEntry id with
  | none => (s.bump fPdirRxUnknown).irq 0x7D 2
  | some i =>
    let bad := unit ≠ entUnit s.dir.run i
    let s := if bad then s.bump fPdirRxUnit else s
    let u : RxUpd := { entry := i, v := v, st := if bad then .fault else st, time := s.now, notBefore := notBefore,
                       viaT := viaT, hops := hops }
    { s with dir := { s.dir with rx := s.dir.rx ++ [u] } }

/-- At a lath capture edge the updates received before it enter the image, the last one of each entry standing (R25). -/
def takeRx (s : State) : State :=
  let edge := s.lath.cap
  let (in_, wait) := s.dir.rx.partition (fun u => u.time < edge && u.notBefore ≤ edge)
  in_.foldl (fun s u =>
    let s := { s with
      dir := { s.dir with
      upd := Map.put (fun _ => none) s.dir.upd u.entry (some (u.st, u.time))
      via := Map.put (fun _ => (false, 0)) s.dir.via u.entry (u.viaT, u.hops) } }
    s.setVis u.entry { (s.visVal u.entry) with v := u.v, ts := u.time }) { s with dir := { s.dir with rx := wait } }

/-- The status of every remote entry at a lath capture edge (R380). `route` says whether a producer has a route. -/
def remoteAge (s : State) (route : Nat → Bool) : State :=
  let s := (entries s.dir.run).foldl (fun s i =>
    if entKind s.dir.run i ≠ 3 then s else
    let v := s.visVal i
    let staleT := entMax s.dir.run i
    let st := match Map.look (fun _ => none) s.dir.upd i with
      | none => Status.unconfirmed
      | some (st, t) =>
        if !route ((entW s.dir.run i 1).toNat / 0x10000) then .fault
        else if staleT ≠ 0 && t + staleT * 1000000 ≤ s.lath.cap then worst st .stale
        else st
    let cls (x : Status) : Nat := if 2 < x.rank then x.rank else 0
    let s := if cls v.st ≠ cls st then s.irq 0x7D 1 else s
    s.setVis i { v with st := st }) s
  s.dirFaces

/-! ### What is due for publication (R373–R375, R492) -/

def classE (s : State) (i : Nat) : Bool := entLocal s.dir.run i && entPubEn s.dir.run i && !entClassT s.dir.run i

/-- Whether a class-E entry is due at this lath commit edge by the first applicable reason of R374. -/
def pubReason (s : State) (i : Nat) : Bool :=
  let v := s.visVal i
  match Map.look (fun _ => none) s.dir.pub i with
  | none => true
  | some (pv, pst, pt) =>
    let diff := if v.v < pv then pv - v.v else v.v - pv
    let cov := (entW s.dir.run i 4).toInt
    let moved := if entType s.dir.run i = 0 then 0 < cov && cov ≤ diff else v.v ≠ pv
    v.st ≠ pst || (moved && pt + 10000 * entMin s.dir.run i ≤ s.now)
      || (entMax s.dir.run i ≠ 0 && pt + 1000000 * entMax s.dir.run i ≤ s.now)

/-- Mark what became due at this edge, and choose the entries emitted: in order of first due edge, then ascending index,
up to PUB_CAP (R374, R375). Nothing is emitted before an address is held (R492). -/
def pubSelect (s : State) (hasAddr : Bool) : List Nat × State :=
  if !s.en 0x7D then ([], s) else
  let es := (entries s.dir.run).filter (fun i => s.classE i)
  let s := es.foldl (fun s i =>
    if (Map.look (fun _ => none) s.dir.due i).isSome then s
    else if s.dir.first || s.pubReason i then
      { s with dir := { s.dir with due := Map.put (fun _ => none) s.dir.due i (some s.now) } }
    else s) s
  let s := { s with dir := { s.dir with first := false } }
  if !hasAddr then ([], s.set fPdirPubCntLast 0) else
  let ds := es.filterMap (fun i => (Map.look (fun _ => none) s.dir.due i).map (fun t => (t, i)))
  let sorted := ds.mergeSort (fun a b => a.1 < b.1 || (a.1 = b.1 && a.2 ≤ b.2))
  let cap := s.get fPdirPubCapCap
  let sel := (sorted.take cap).map Prod.snd
  let left := ds.length - sel.length
  let s := s.set fPdirPubCntLast sel.length
  let s := if left = 0 then s else (s.bumpBy fPdirPubCntDeferred left).irq 0x7D 0
  let s := sel.foldl (fun s i =>
    let v := s.visVal i
    { s with
      dir := { s.dir with
      due := Map.put (fun _ => none) s.dir.due i none
      pub := Map.put (fun _ => none) s.dir.pub i (some (v.v, v.st, s.now)) } }) s
  (sel.mergeSort (fun a b => a ≤ b), s)

/-! ### Subscriber lists (R378) -/

def subList (s : State) (i : Nat) : List (Nat × Nat) := Map.look (fun _ => []) s.dir.subs i
def subUsed (s : State) : Nat := (s.dir.subs.map (fun p => p.2.length)).foldl (· + ·) 0
def setSubs (s : State) (i : Nat) (l : List (Nat × Nat)) : State :=
  let s := { s with dir := { s.dir with subs := Map.put (fun _ => []) s.dir.subs i l } }
  (s.set fPdirSubCntUsed s.subUsed).irq 0x7D 3
/-- A write of SUB_SEL loads the list view (R378). -/
def subView (s : State) (i : Nat) : State :=
  let l := (s.subList i).map Prod.fst
  let s := s.set fPdirSubStatCount l.length
  (List.range 4).foldl (fun s k =>
    (s.set (fPdirSubAddrL k) (l.getD (2 * k) 0)).set (fPdirSubAddrH k) (l.getD (2 * k + 1) 0)) s
/-- Subscribers not renewed for 180 s are removed (R378). -/
def subExpire (s : State) : State :=
  let due := s.dir.subs.flatMap (fun p => p.2.map (fun a => a.2 + 180000000))
  match due.min? with
  | none => s
  | some t =>
    let s := s.at_ t
    s.dir.subs.foldl (fun s p =>
      let l := p.2.filter (fun a => s.now < a.2 + 180000000)
      if l.length = p.2.length then s else s.setSubs p.1 l) s

/-! ### Switch (R523, R378) -/

/-- The new directory takes over at E. -/
def dirSwitch (s : State) (new : Map Word) : State :=
  let old := s.dir.run
  let same (i : Nat) : Bool := entValid old i && entValid new i && entKind old i = entKind new i
    && entW old i 1 = entW new i 1 && entUnit old i = entUnit new i && entType old i = entType new i
  let gone := (entries old ++ entries new).filter (fun i => !same i)
  let s := gone.foldl (fun s i =>
    let s := s.setVis i {}
    { s with
      img := Map.put valDflt s.img i {}
      dir := { s.dir with
        upd := Map.put (fun _ => none) s.dir.upd i none
        via := Map.put (fun _ => (false, 0)) s.dir.via i (false, 0) } }) s
  let keep (i : Nat) : Bool := entLocal new i && entPubEn new i && !entClassT new i && entGroup new i = 0
  let subs := s.dir.subs.filter (fun p => keep p.1)
  let s := { s with
    dir := { s.dir with
    run := new, subs := subs, first := true, due := [], subSent := [],
    rx := s.dir.rx.filter (fun u => same u.entry) } }
  (s.set fPdirSubCntUsed s.subUsed).dirFaces

end State
end Sys2Proof.Machine
end

