-- ==== Sys2Proof/Machine/Sense.lean ====
section
/-! DEFINITION. SENSE (R128–R135, R149, R518): the sensed point of every input channel. -/
set_option Elab.async false
namespace Sys2Proof.Machine

/-- Modes that a transform accepts (R130). -/
def xformAccepts (x m : Nat) : Bool :=
  match x with
  | 0 => isIn m
  | 1 | 3 => 1 ≤ m && m ≤ 4
  | 2 => m = 1 || m = 2
  | 4 | 5 => m = 3
  | 6 => m = 4
  | 7 => m = 6
  | 8 => m = 7
  | _ => false

namespace State

def senseSt (s : State) (n : Nat) : SenseSt := Map.look (fun _ => {}) s.eng.sen n
def setSenseSt (s : State) (n : Nat) (x : SenseSt) : State :=
  { s with eng := { s.eng with sen := Map.put (fun _ => {}) s.eng.sen n x } }

/-- The points of curve `c` as in force. -/
def senseCurve (s : State) (c : Nat) : List (Int × Int) :=
  (List.range 16).map (fun j => (s.egeti (fSenseCurveValue c (2 * j)), s.egeti (fSenseCurveValue c (2 * j + 1))))

/-- A point is the member temperature of an enabled fan governor (R134, R142, R237). -/
def fanMember (s : State) (p : Nat) : Bool :=
  (List.range 24).any (fun g => s.ebit (fFanCfgEn g) && (List.range 16).any (fun m =>
    s.ebit (fFanMemValid g m) && s.eget (fFanMemPoint g m) = p))

/-- The effective policy of a context (R134): 0 HOLD_LAST, 1 SUBSTITUTE, 2 HOTTEST. -/
def sensePolicy (s : State) (n : Nat) : Nat :=
  if s.fanMember (s.eget (fSenseCfgPoint n)) then 2 else s.eget (fSenseCfgPolicy n)

/-- What a channel (0–95) or a fan drive (96 + g) shows a frame at its capture edge: result, DI state, PERIOD and CNT
(R111), committed output, winning level and on times (R173, R178). -/
def capOf (s : State) (n : Nat) : Cap :=
  if 96 ≤ n then { out := s.geti (fFanDrvoutValue (n - 96)), win := s.get (fFanDrvstatWinLvl (n - 96)) } else
  let r := s.result n
  let c := countOn s.now (s.chan n)
  { y := r.y, ovhi := r.ovhi, ovlo := r.ovlo, flt := r.flt, stale := r.stale, ts := r.ts, di := c.di,
    period := c.period, cnt := c.cnt, out := c.out, win := s.get (fUchStatWinLvl n), onOpen := c.onOpen,
    onClose := c.onClose }
/-- A lath capture edge takes them for every channel and drive. -/
def captureResults (s : State) : State :=
  { s with cap := (List.range 120).foldl (fun m n => Map.put (fun _ => {}) m n (s.capOf n)) [] }
/-- What a frame of a rate captured of a channel or drive. -/
def capAt (s : State) (r : Rate) (n : Nat) : Cap :=
  match r with | .lath => Map.look (fun _ => {}) s.cap n | .skim => s.capOf n

/-- Quantity q of R129, Q16.16. -/
def senseQ (m : Nat) (k : Cap) : Int :=
  match m with
  | 5 => if k.di then 65536 else 0
  | 6 => (k.period : Int) * 65536
  | 7 => (k.cnt : Int) * 65536
  | _ => divHalfUp (k.y * fullScale m) 8388608

/-- The transform of R130 on q, before HI_LIM; `none` where the sample is faulty (R131, R518). The curves 0x4–0x6 are exact
to within 0.01 K: a free value within that bound stands for the rest (log entry 30). -/
def senseXform (s : State) (n m : Nat) (x : SenseSt) (k : Cap) : Option Int :=
  let q := senseQ m k
  let k0 := s.egeti (fSenseKValue n 0)
  let k1 := s.egeti (fSenseKValue n 1)
  let k2 := s.egeti (fSenseKValue n 2)
  let near (r : Option Int) : Option Int :=
    r.map (fun t => t + clampI (-653) 653 (Config.freeInt 1 [x.xform, q, k0, k1, k2]))
  if !xformAccepts x.xform m then none else
  (match x.xform with
    | 0 => some q
    | 1 => some (divHalfUp (k0 * q) 65536 + k1)
    | 2 =>
      let d := q - k1
      if k2 ≤ d && 0 ≤ d then
        let r : Int := ((isqrt (4 * k0.natAbs ^ 2 * d.toNat * 65536) + 65536) / 131072 : Nat)
        some (if k0 < 0 then -r else r)
      else some 0
    | 3 => some (pwl x.curve q)
    | 4 => near (pt1000Temp q)
    | 5 => near (ni1000Temp q)
    | 6 => near (steinhart (s.eget (fSenseKValue n 0)) (s.eget (fSenseKValue n 1)) (s.eget (fSenseKValue n 2)) q)
    | 7 => if k.period = 0 then some 0
      else some (divHalfUp (60000000 * 65536) ((k.period : Int) * clampI 1 4 (k0 / 65536)))
    | _ =>
      let d : Int := match x.lastCnt with
        | some c => (((k.cnt + 2 ^ 32 - c) % 2 ^ 32 : Nat) : Int)
        -- no previous capture: the change is not stated (log entry 31)
        | none => Config.freeInt 2 [n, k.cnt]
      some (k0 * d)).map sat32

/-- The coefficient of R133, Q0.16, at rate `r`. -/
def senseAlpha (s : State) (r : Rate) (n : Nat) : Int :=
  let ts : Nat := match r with | .lath => s.lathPeriod | .skim => s.skimPeriod
  let tau := 100000 * s.eget (fSenseFiltTau n)
  divHalfUp ((ts : Int) * 65536) ((ts + tau : Nat) : Int)

/-- One evaluation of the sensed point of channel `n` (R133, R149). -/
def senseEval (s : State) (r : Rate) (n m : Nat) (k : Cap) (x : SenseSt) : SenseSt :=
  let subst := s.egeti (fSenseSubstValue n)
  let hi := s.egeti (fSenseHiLimValue n)
  let policy (x : SenseSt) : Int :=
    match s.sensePolicy n with
    | 1 => subst
    | 2 => hi
    | _ => if x.haveGood then x.f else subst
  let keepCnt (x : SenseSt) : SenseSt := if m = 7 then { x with lastCnt := some k.cnt } else x
  if !s.enAck 0x18 then
    let run := satAdd 255 x.staleRun 1
    keepCnt { x with staleRun := run, recovering := x.recovering || 3 ≤ run, st := .stale }
  else if s.ebit (fSenseCfgForce n) then keepCnt { x with out := subst, st := .substituted, ts := k.ts }
  else
    let v := s.senseXform n m x k
    let bad := k.flt || k.ovhi || k.ovlo
    if bad || (!k.stale && v.isNone) then
      keepCnt { x with recovering := true, out := policy x, st := .fault, ts := k.ts }
    else if k.stale then
      let run := satAdd 255 x.staleRun 1
      let x := keepCnt { x with staleRun := run, ts := k.ts }
      if 3 ≤ run then { x with recovering := true, out := policy x, st := .fault }
      else if x.haveGood then { x with out := x.f, st := .stale }
      else { x with out := policy x, st := .unconfirmed }
    else
      let v := min (v.getD 0) hi
      let f := if !x.haveGood || x.recovering then v
        else x.f + divHalfUp (s.senseAlpha r n * (v - x.f)) 65536
      keepCnt { x with staleRun := 0, f := f, haveGood := true, recovering := false, out := f, st := .ok, ts := k.ts }

/-- The transform and curve a context uses: the written ones once they are valid (R518). Answers HELD too. -/
def senseTake (s : State) (n m : Nat) (x : SenseSt) : SenseSt × Bool :=
  let xf := s.eget (fSenseCfgXform n)
  let cv := if xf = 3 then s.senseCurve (s.eget (fSenseFiltCurve n)) else []
  if xformAccepts xf m && (xf ≠ 3 || curveRising cv) then ({ x with xform := xf, curve := cv }, false)
  else (x, x.xform ≠ xf || x.curve ≠ cv)

/-- The sensing phase for the contexts of one rate (R128, R133). -/
def senseFrame (s : State) (r : Rate) : State :=
  (List.range 96).foldl (fun s n =>
    let m := (s.chan n).mode
    if !s.ebit (fSenseCfgEn n) || !isIn m || s.outRate n ≠ r then s else
    let k := s.capAt r n
    let old := s.senseSt n
    let (x, held) := s.senseTake n m old
    let x := s.senseEval r n m k x
    let s := s.setSenseSt n x
    let s := s.produce r (s.eget (fSenseCfgPoint n)) { v := x.out, st := x.st, ts := x.ts }
    let s := s.laterSeti r (fSenseValueValue n) x.out
    let s := s.laterSet r (fSenseFiltStatus n) x.st.code
    let s := s.laterSet r (fSenseFiltEffPol n) (s.sensePolicy n)
    let s := s.laterB r (fSenseFiltHeld n) held
    let s := if old.st ≠ x.st then s.laterSet r fSenseFaultCntLast n else s
    if (old.st = .fault) ≠ (x.st = .fault) then
      let cnt := (s.eng.sen.filter (fun p => p.2.st = .fault)).length
      (s.later r (.irq 0x18 0)).laterSet r fSenseFaultCntCount cnt
    else s) s

/-- A new configuration takes over (R135): contexts no longer in use are dropped, the others keep their filter; the
activation judged the transforms as written. -/
def senseSwitch (s : State) : State :=
  let keep (n : Nat) : Bool := s.bit (fSenseCfgEn n)
  let s := { s with eng := { s.eng with sen := s.eng.sen.filter (fun p => keep p.1) } }
  let s := (List.range 96).foldl (fun s n =>
    if !keep n then s else
    let xf := s.get (fSenseCfgXform n)
    let x := s.senseSt n
    s.setSenseSt n { x with xform := xf, curve := if xf = 3 then s.senseCurve (s.get (fSenseFiltCurve n)) else [] }) s
  s.set fSenseFaultCntCount (s.eng.sen.filter (fun p => p.2.st = .fault)).length

/-- R132: the first thing wrong with a context in use. -/
def senseBadRef (s : State) (isLocal : Nat → Bool) : Option Nat :=
  (List.range 96).find? (fun n => s.bit (fSenseCfgEn n) &&
    (!xformAccepts (s.get (fSenseCfgXform n)) (s.get (fUchCfgMode n)) || !isLocal (s.get (fSenseCfgPoint n))
      || (s.get (fSenseCfgXform n) = 3 && !curveRising (s.senseCurve (s.get (fSenseFiltCurve n))))))

/-- BLK_ERR cause of a refused SENSE write (R130, R149), by page offset. -/
def senseRefuse (off : Nat) (w : Word) : Option Nat :=
  if 0x100 ≤ off && off < 0xD00 then
    if off % 0x20 = 0 then (if 9 ≤ bitsOf w 12 4 || bitsOf w 10 2 = 3 then some 0x40 else none)
    else if off % 0x20 = 4 then
      (if 6 ≤ bitsOf w 16 4 then some 0x40 else if 6000 < bitsOf w 0 13 then some 0x41 else none)
    else none
  else none

end State
end Sys2Proof.Machine
end

