-- ==== Sys2Proof/Machine/Rbus.lean ====
section
/-! DEFINITION. Room units on RS-485 (R136–R143, R150): the plan, the poll cycle, replies, unit states and decoding. -/
set_option Elab.async false
namespace Sys2Proof.Machine
namespace State

def rport (s : State) (p : Nat) : RbPort := Map.look (fun _ => {}) s.rbus p
def setRport (s : State) (p : Nat) (x : RbPort) : State := { s with rbus := Map.put (fun _ => {}) s.rbus p x }
def rbPage (p : Nat) : Nat := 0x19 + p

def rbBaud (b : Nat) : Nat := match b with | 0 => 9600 | 1 => 19200 | 2 => 38400 | 3 => 57600 | _ => 115200
/-- Time of `n` characters, µs (R136: 11 bits each). -/
def rbTime (baud n : Nat) : Nat := ceilDiv (n * 11000000) baud
/-- t3.5, µs (R136). -/
def rbT35 (baud : Nat) : Nat := if baud ≤ 19200 then ceilDiv 38500000 baud else 1750
/-- Request and reply bytes of a transaction (R139). -/
def txBytes (t : RbTx) : Nat × Nat :=
  match t.func with | 6 => (8, 8) | 0x10 => (13, 8) | _ => (8, 5 + 2 * t.n)

/-! ### Plan (R139) -/

def mapRegs (s : State) (p e : Nat) : Nat := if 2 ≤ s.get (fRbusMap0Type p e) then 2 else 1
def unitOn (s : State) (p k : Nat) : Bool := s.bit (fRbusUnitCfgEn p k)
def unitState (s : State) (p k : Nat) : Nat := s.get (fRbusUnitStatState p k)
/-- Map entries in use of one direction. -/
def mapEntries (s : State) (p : Nat) (wr : Bool) : List Nat :=
  (List.range 256).filter (fun e => s.bit (fRbusMap0En p e) && s.bit (fRbusMap0Dir p e) = wr)
/-- Group entries in ascending register order into reads of at most 32 consecutive registers. -/
def groupReads (s : State) (p slot func : Nat) (es : List Nat) : List RbTx :=
  (es.foldl (fun (acc : List RbTx) e =>
    let r := s.get (fRbusMap0Reg p e)
    let top := r + s.mapRegs p e
    match acc with
    | t :: ts =>
      if top ≤ t.reg + 32 then { t with n := max t.n (top - t.reg), entries := t.entries ++ [e] } :: ts
      else { slot := slot, func := func, reg := r, n := top - r, entries := [e] } :: acc
    | [] => [{ slot := slot, func := func, reg := r, n := top - r, entries := [e] }]) []).reverse
/-- The read transactions of a port in plan order. -/
def planReads (s : State) (p : Nat) : List RbTx :=
  let es := s.mapEntries p false
  (List.range 32).flatMap (fun k =>
    if !s.unitOn p k then [] else
    [(3, false), (4, true)].flatMap (fun fc =>
      let mine := es.filter (fun e => s.get (fRbusMap0Unit p e) = k && s.bit (fRbusMap0Fc4 p e) = fc.2)
      let sorted := mine.mergeSort (fun a b => s.get (fRbusMap0Reg p a) ≤ s.get (fRbusMap0Reg p b))
      s.groupReads p k fc.1 sorted))
/-- The write transaction of an entry, without its data. -/
def writeTx (s : State) (p e : Nat) : RbTx :=
  let n := s.mapRegs p e
  { slot := s.get (fRbusMap0Unit p e), func := if n = 2 then 0x10 else 6, reg := s.get (fRbusMap0Reg p e), n := n,
    entries := [e] }
/-- R139: the plan and the PLAN register. -/
def rbPlan (s : State) (p : Nat) : State :=
  let reads := s.planReads p
  let writes := (s.mapEntries p true).map (fun e => s.writeTx p e)
  let all := reads ++ writes
  let baud := rbBaud (s.get (fRbusCfgBaud p))
  let bytes := (all.map (fun t => (txBytes t).1 + (txBytes t).2)).foldl (· + ·) 0
  let n := all.length
  let num := bytes * 11000000 + n * (if baud ≤ 19200 then 77000000 else 3500 * baud)
    + n * s.get (fRbusCfgResp p) * 1000 * baud
  let ms := (divHalfUp num ((baud * 1000 : Nat) : Int)).toNat
  let s := s.set (fRbusPlanCycle p) (min 0xFFFF ms)
  let s := s.setB (fRbusPlanSlow p) (10000000 * baud < num)
  let s := s.set (fRbusPlanXact p) n
  s.setRport p { s.rport p with plan := reads }

/-! ### Faces -/

def rbFaces (s : State) (p : Nat) : State :=
  let any := !(s.mapEntries p false ++ s.mapEntries p true).isEmpty
  s.set (fBlkState (rbPage p)) (if !s.enAck (rbPage p) then 2 else if any then 1 else 0)

/-- Unit slots follow their enables: disabled reads 3, a slot just enabled is OK (R142). -/
def rbUnits (s : State) (p : Nat) : State :=
  (List.range 32).foldl (fun s k =>
    let st := s.unitState p k
    if s.unitOn p k then (if st = 3 then (s.set (fRbusUnitStatState p k) 0).set (fRbusUnitStatRun p k) 0 else s)
    else if st = 3 then s
    else
      let s := (s.set (fRbusUnitStatState p k) 3).set (fRbusUnitStatRun p k) 0
      if st ≠ 2 then s else
      let s := s.setWord (rRbusUnitFlt p) (s.word (rRbusUnitFlt p) &&& ~~~(1#32 <<< k))
      (s.irq (rbPage p) 0).clearFault 0x5001 (32 * p + k)) s

/-! ### Values (R137, R138) -/

def pow10 (v : Int) (e : Int) : Int × Int := if 0 ≤ e then (v * 10 ^ e.toNat, 1) else (v, 10 ^ e.natAbs)
/-- A raw value to its point value, Q16.16. -/
def rbDecode (s : State) (p e : Nat) (num : Int) (den : Int) : Int :=
  let x := s.geti (fRbusMap0Exp p e)
  let (n, d) := pow10 (num * 65536) x
  sat32 (divHalfUp n (d * den) + s.geti (fRbusMap2Ofs p e))
/-- A point value to the registers of a write entry. -/
def rbEncode (s : State) (p e : Nat) (v : Int) : List Nat :=
  let x := s.geti (fRbusMap0Exp p e)
  let (n, d) := pow10 (v - s.geti (fRbusMap2Ofs p e)) (-x)
  let r := divHalfUp n (d * 65536)
  let two (u : Nat) : List Nat := if s.bit (fRbusMap0Swap p e) then [u % 65536, u / 65536] else [u / 65536, u % 65536]
  match s.get (fRbusMap0Type p e) with
  | 0 => [unsignedOf 16 (clampI (-32768) 32767 r)]
  | 1 => [(clampI 0 65535 r).toNat]
  | 2 => two (unsignedOf 32 (sat32 r))
  | _ => two (f32OfRat false n (d * 65536).toNat)

/-! ### The cycle (R140–R142) -/

/-- The last transaction of a cycle completes it (R140). -/
def cycleDone (s : State) (p : Nat) : State :=
  let x := s.rport p
  let s := s.setRport p { x with ph := .idle, todo := [], tries := 0, ended := s.now }
  let s := s.set (fRbusCycleLast p) (min 0xFFFF ((s.now - x.t0) / 1000))
  (s.bumpWrap (fRbusCycleCount p)).irq (rbPage p) 2
/-- Polling stops (R150): the port's points go to STALE. -/
def rbStop (s : State) (p : Nat) : State :=
  let x := s.rport p
  let ups := (s.mapEntries p false).map (fun e => { entry := e, v := .stale, time := s.now : RbUpd })
  let s := s.setRport p { x with ph := .idle, todo := [], tries := 0, ended := s.now, upd := x.upd ++ ups }
  (s.setB (fBlkEnAck (rbPage p)) false).rbFaces p
/-- The running transaction is over; the next one is sent, or the cycle ends. -/
def nextTx (s : State) (p : Nat) : State :=
  let x := s.rport p
  let todo := x.todo.drop 1
  if !s.en (rbPage p) then s.rbStop p
  else if todo.isEmpty then s.cycleDone p
  else s.setRport p { x with
    todo := todo, ph := .reply, tries := 1
    sent := s.now + rbT35 (rbBaud (bitsOf x.cfg 13 3)) }

/-- A cycle starts at the first lath edge at or after the end of the previous one (R140). -/
def pollStart (s : State) (p : Nat) : State :=
  let x := s.rport p
  if !s.en (rbPage p) || !s.lath.running || s.lath.safe || x.ph ≠ .idle || s.lath.cap < x.ended
      || (s.mapEntries p false ++ s.mapEntries p true).isEmpty then s
  else
    let s := (s.rbUnits p).rbFaces p
    let dueW := (s.mapEntries p true).filterMap (fun e =>
      let t := s.writeTx p e
      let v := (s.visVal (s.get (fRbusMap1Point p e))).v
      let due := match Map.look (fun _ => none) x.acked e with
        | none => true
        | some (a, at_) => a ≠ v || at_ + 60000000 ≤ s.now
      if due && s.unitOn p t.slot && s.unitState p t.slot ≠ 2 then some { t with data := s.rbEncode p e v, v := v } else none)
    let reads := x.plan.filter (fun t => s.unitOn p t.slot)
    let dueR := reads.filter (fun t => s.unitState p t.slot ≠ 2
      || (reads.find? (fun u => u.slot = t.slot)) = some t)
    let todo := dueW ++ dueR
    let x := { x with t0 := s.now, cfg := s.word (rRbusCfg p), todo := todo, ph := .reply, tries := 1, sent := s.now }
    let s := s.setRport p x
    if todo.isEmpty then s.cycleDone p else s

/-- A poll fails (R142). -/
def pollFailed (s : State) (p : Nat) (t : RbTx) : State :=
  let s := s.bump (fRbusUnitStatRun p t.slot)
  let s := s.bump (fRbusUnitStatFails p t.slot)
  let st := s.unitState p t.slot
  let put (s : State) (l : List Nat) (v : RbVal) : State :=
    let x := s.rport p
    s.setRport p { x with upd := x.upd ++ l.map (fun e => { entry := e, v := v, time := s.now : RbUpd }) }
  if st = 2 then s
  else if s.get (fRbusUnitStatRun p t.slot) < 3 then
    let s := s.set (fRbusUnitStatState p t.slot) 1
    if t.func = 3 || t.func = 4 then put s t.entries .stale else s
  else
    let s := s.set (fRbusUnitStatState p t.slot) 2
    let s := s.setWord (rRbusUnitFlt p) (s.word (rRbusUnitFlt p) ||| (1#32 <<< t.slot))
    let s := put s ((s.mapEntries p false).filter (fun e => s.get (fRbusMap0Unit p e) = t.slot)) .fault
    let x := s.rport p
    let s := s.setRport p { x with todo := x.todo.take 1 ++ (x.todo.drop 1).filter (fun u => u.slot ≠ t.slot) }
    (s.irq (rbPage p) 0).raise 0x5001 (32 * p + t.slot) .minor

/-- A poll succeeds (R142): `regs` are the registers read. -/
def pollOk (s : State) (p : Nat) (t : RbTx) (regs : List Nat) : State :=
  let was := s.unitState p t.slot
  let s := (s.set (fRbusUnitStatState p t.slot) 0).set (fRbusUnitStatRun p t.slot) 0
  let s := if was ≠ 2 then s else
    let s := s.setWord (rRbusUnitFlt p) (s.word (rRbusUnitFlt p) &&& ~~~(1#32 <<< t.slot))
    (s.irq (rbPage p) 0).clearFault 0x5001 (32 * p + t.slot)
  let x := s.rport p
  if t.func = 6 || t.func = 0x10 then
    s.setRport p { x with
      acked := t.entries.foldl (fun m e => Map.put (fun _ => none) m e (some (t.v, s.now))) x.acked }
  else
    let ups := t.entries.map (fun e =>
      let i := s.get (fRbusMap0Reg p e) - t.reg
      let a := regs.getD i 0
      let b := regs.getD (i + 1) 0
      let two := if s.bit (fRbusMap0Swap p e) then b * 65536 + a else a * 65536 + b
      let v : RbVal := match s.get (fRbusMap0Type p e) with
        | 0 => .raw (signedOf 16 a)
        | 1 => .raw a
        | 2 => .raw (signedOf 32 two)
        | _ => .flt two
      { entry := e, v := v, time := s.now : RbUpd })
    s.setRport p { x with upd := x.upd ++ ups }

/-- An attempt fails: retried after t3.5 up to 3 times, but once only in FAULT (R141, R142). -/
def attemptFailed (s : State) (p : Nat) : State :=
  let x := s.rport p
  match x.todo with
  | [] => s
  | t :: _ =>
    if x.tries < 4 && s.unitState p t.slot ≠ 2 then s.setRport p { x with ph := .gap }
    else (s.pollFailed p t).nextTx p

/-- Pairs of bytes as registers, high byte first. -/
def regWords : List Byte → List Nat
  | a :: b :: t => (a.toNat * 256 + b.toNat) :: regWords t
  | _ => []

/-- A frame arrives at the port (R136, R141). -/
def modbusReply (s : State) (p : Nat) (bs : List Byte) : State :=
  let x := s.rport p
  match x.ph, x.todo with
  | .reply, t :: _ =>
    let body := bs.dropLast.dropLast
    let crcOk := 4 ≤ bs.length && leNat (bs.drop (bs.length - 2)) = crcModbus body
    let a := (bs.getD 0 0).toNat
    let f := (bs.getD 1 0).toNat
    let bad := (s.bump (fRbusErrCntCrc p)).attemptFailed p
    if !crcOk || a ≠ s.get (fRbusUnitCfgAddr p t.slot) then bad
    else if f = t.func + 0x80 && bs.length = 5 then
      let s := (s.set (fRbusExcSlot p) t.slot).set (fRbusExcFunc p) f
      let s := (s.set (fRbusExcCode p) (bs.getD 2 0).toNat).irq (rbPage p) 1
      (s.pollFailed p t).nextTx p
    else if f ≠ t.func then bad
    else if f = 6 || f = 0x10 then
      if bs.length = 8 then (s.pollOk p t []).nextTx p else bad
    else if bs.length = 5 + 2 * t.n && (bs.getD 2 0).toNat = 2 * t.n then
      (s.pollOk p t (regWords (body.drop 3))).nextTx p
    else bad
  | _, _ => s

/-- No first character within TIMEOUT after the end of the request (R141). -/
def replyTimeout (s : State) (p : Nat) : State :=
  let x := s.rport p
  match x.ph, x.todo with
  | .reply, t :: _ =>
    let s := s.at_ (x.sent + rbTime (rbBaud (bitsOf x.cfg 13 3)) (txBytes t).1 + 10000 * bitsOf x.cfg 0 8)
    (s.bump (fRbusErrCntTimeout p)).attemptFailed p
  | _, _ => s

/-- The silence before a retry ends and the request is sent again (R141). -/
def retryGapEnd (s : State) (p : Nat) : State :=
  let x := s.rport p
  if x.ph ≠ .gap then s else
  let s := s.at_ (s.now + rbT35 (rbBaud (bitsOf x.cfg 13 3)))
  s.setRport p { x with ph := .reply, tries := x.tries + 1, sent := s.now }

/-- BLK_CTRL.EN of a port (R150). -/
def rbEnable (s : State) (p : Nat) : State :=
  if s.en (rbPage p) then (s.setB (fBlkEnAck (rbPage p)) true).rbFaces p
  else if (s.rport p).ph = .idle then s.rbStop p else s

/-! ### Frame (R140) -/

/-- Values received before a lath capture edge enter its image. -/
def rbCapture (s : State) : State :=
  (List.range 4).foldl (fun s p =>
    let x := s.rport p
    let (in_, wait) := x.upd.partition (fun u => u.time < s.lath.cap)
    s.setRport p { x with img := x.img ++ in_, upd := wait }) s
/-- The sensing phase decodes them. -/
def rbIngest (s : State) : State :=
  (List.range 4).foldl (fun s p =>
    (s.rport p).img.foldl (fun s u =>
      let pt := s.get (fRbusMap1Point p u.entry)
      let cur := s.lathVal pt
      let v : Val := match u.v with
        | .raw r => { v := s.rbDecode p u.entry r 1, st := .ok, ts := u.time }
        | .flt b => if f32Finite b then { v := s.rbDecode p u.entry (f32Int b) (f32One : Nat), st := .ok, ts := u.time }
          else { cur with st := .fault, ts := u.time }
        | .stale => { cur with st := .stale }
        | .fault => { v := if s.fanMember pt then 150 * 65536 else cur.v, st := .fault, ts := u.time }
      s.produce .lath pt v) s) s
/-- The frame commits: its image is done with. -/
def rbCommit (s : State) : State :=
  (List.range 4).foldl (fun s p => s.setRport p { s.rport p with img := [] }) s

/-- A new configuration takes over: each port is planned again and starts a new cycle (R139; log entry 32). -/
def rbSwitch (s : State) : State :=
  (List.range 4).foldl (fun s p =>
    let x := s.rport p
    let s := s.setRport p { x with ph := .idle, todo := [], tries := 0, ended := s.now, upd := [], img := [], acked := [] }
    let s := ((s.rbPlan p).rbUnits p).rbFaces p
    (s.mapEntries p false).foldl (fun s e =>
      let pt := s.get (fRbusMap1Point p e)
      if s.fanMember pt && (s.visVal pt).st = .unconfirmed then s.setVis pt { (s.visVal pt) with v := 150 * 65536 } else s) s) s

/-- R143: the first bad map entry of port `p`. -/
def rbBadRef (s : State) (isLocal : Nat → Bool) (p : Nat) : Option Nat :=
  (List.range 256).find? (fun e => s.bit (fRbusMap0En p e) &&
    (!s.unitOn p (s.get (fRbusMap0Unit p e)) || !isLocal (s.get (fRbusMap1Point p e))))

/-- BLK_ERR cause of a refused RBUS write (R150). -/
def rbRefuse (off : Nat) (w : Word) : Option Nat :=
  if off = 0x20 then
    if 5 ≤ bitsOf w 13 3 || bitsOf w 11 2 = 3 then some 0x40
    else if bitsOf w 0 8 = 0 || 100 < bitsOf w 0 8 then some 0x41 else none
  else if 0x200 ≤ off && off < 0x300 && off % 8 = 0 then
    if bitAt w 31 && (bitsOf w 0 8 = 0 || 247 < bitsOf w 0 8) then some 0x42 else none
  else none

end State
end Sys2Proof.Machine
end

