-- ==== Sys2Proof/Machine/Pres.lean ====
section
/-! DEFINITION. Presence (R144–R148, R151, R152): PIR detectors, evidence and the occupancy rules. Occupancy codes: 0
UNOCCUPIED, 1 STANDBY, 2 OCCUPIED. -/
set_option Elab.async false
namespace Sys2Proof.Machine
namespace State

def presSt (s : State) (z : Nat) : PresSt := Map.look (fun _ => {}) s.eng.pres z
def setPresSt (s : State) (z : Nat) (x : PresSt) : State :=
  { s with eng := { s.eng with pres := Map.put (fun _ => {}) s.eng.pres z x } }

/-- The PIR source that names channel `n`, with its profile, if one does (R145). -/
def pirSource (s : State) (n : Nat) : Option Nat :=
  (List.range 576).findSome? (fun k =>
    let z := k / 6
    let i := k % 6
    if s.eget (fPresSrcKind z i) = 1 && s.eget (fPresSrcRef z i) = n then some (s.eget (fPresSrcProfile z i)) else none)

/-- A 10 ms result of a PIR channel passes the band-pass and the window comparator (R146). -/
def pirProcess (s : State) (n : Nat) : State :=
  if (s.chan n).mode ≠ 1 || s.eget (fUchCfgRate n) ≠ 2 then s else
  match s.pirSource n with
  | none => s
  | some prof =>
    let r := s.result n
    let x := divHalfUp (r.y * fullScale 1) 8388608
    let p := Map.look (fun _ => {}) s.pir n
    let h := divHalfUp (64324 * (p.h + x - p.xPrev)) 65536
    let z := p.z + divHalfUp (15667 * (h - p.z)) 65536
    let thr := s.egeti (fPresProfThrThr prof)
    let az := if z < 0 then -z else z
    let quiet := if !p.armed && az ≤ thr then p.quiet + 10 else p.quiet
    let armed := p.armed || 200 ≤ quiet
    let fire := armed && thr < az
    let starts := p.starts.filter (fun t => r.ts < t + 60000000)
    let p' : PirSt := { h := h, z := z, xPrev := x, armed := armed && !fire, quiet := if fire then 0 else quiet,
                        starts := if fire then starts ++ [r.ts] else starts }
    { s with pir := Map.put (fun _ => {}) s.pir n p' }

/-- Evidence of one source at the capture edge (R145). -/
structure Evid where
  configured : Bool := false
  faulted : Bool := false
  evid : Bool := false
  strong : Bool := false
deriving DecidableEq, Repr

def presEvid (s : State) (z i : Nat) (x : PresSt) : Evid :=
  let kind := s.eget (fPresSrcKind z i)
  let ref := s.eget (fPresSrcRef z i)
  let weak := s.ebit (fPresSrcWeak z i)
  if kind = 0 || kind = 7 then {}
  else if kind = 1 then
    let k := Map.look (fun _ => {}) s.cap ref
    let prof := s.eget (fPresSrcProfile z i)
    let w := s.eget (fPresProfNwW prof)
    let n := ((Map.look (fun _ => {}) s.pir ref).starts.filter (fun t => s.lath.cap ≤ t + 1000000 * w)).length
    let bad := k.flt || k.ovhi || k.ovlo
    { configured := true, faulted := bad, evid := !bad && s.eget (fPresProfNwN prof) ≤ n, strong := !weak }
  else
    let v := s.lathVal ref
    let bad := v.st = .fault || v.st = .stale || v.st = .unconfirmed
    let e : Bool := match kind with
      | 2 => if s.ebit (fPresSrcActiveLow z i) then v.v = 0 else v.v ≠ 0
      | 4 => match Map.look (fun _ => none) x.ref i with
        | some r => r + clampI 10 500 (s.eget fPresCo2RiseValue) * 65536 < v.v
        | none => false
      | _ => v.v ≠ 0
    { configured := true, faulted := bad, evid := !bad && e, strong := !weak && kind ≠ 4 && kind ≠ 6 }

/-- The CO2 rings at a minute boundary (R145). -/
def presMinute (s : State) (z : Nat) (x : PresSt) : PresSt :=
  let m := s.lath.cap / 60000000
  if x.minute = some m then x
  else if x.minute = none then { x with minute := some m }
  else
    (List.range 6).foldl (fun x i =>
      if s.eget (fPresSrcKind z i) ≠ 4 then x else
      let key := 10 * i + m % 10
      let ref := match Map.look (fun _ => none) x.ring key with
        | some (t, v) => if t + 10 = m then some v else none
        | none => none
      let v := s.lathVal (s.eget (fPresSrcRef z i))
      let bad := v.st = .fault || v.st = .stale || v.st = .unconfirmed
      { x with
        ref := Map.put (fun _ => none) x.ref i ref
        ring := Map.put (fun _ => none) x.ring key (if bad then none else some (m, v.v)) }) { x with minute := some m }

/-- A hold time of `min` minutes has passed since the last evidence. -/
def presHeld (s : State) (x : PresSt) (min : Nat) : Bool := x.expired || min * 60000000 ≤ x.since * s.lathPeriod

/-- The occupancy that the evidence gives a zone in this frame (R147, the rules below the override). -/
def presRule (s : State) (z : Nat) (x : PresSt) (es : List Evid) : Nat × Bool :=
  let usable := es.any (fun e => e.configured && !e.faulted)
  let weakNow := ((List.range 6).zip es).filterMap (fun p => if p.2.evid && !p.2.strong then some p.1 else none)
  let confirm := (clampI 1 60 (s.eget fPresConfirmValue)).toNat * 60000000
  let second := weakNow.any (fun i => (List.range 6).any (fun j => i ≠ j &&
    (match Map.look (fun _ => none) x.weak j with | some t => s.lath.cap ≤ t + confirm | none => false)))
  if !usable then (2, true)
  else if es.any (fun e => e.evid && e.strong) then (2, false)
  else
    let weak := !weakNow.isEmpty
    (match x.occ with
      | 0 => if weak then 1 else 0
      | 1 => if weak then (if second then 2 else 1)
        else if s.presHeld x (s.eget (fPresZcfgStandbyHold z)) then 0 else 1
      | _ => if weak then 2 else if s.presHeld x (s.eget (fPresZcfgOccHold z)) then 1 else 2, false)

/-- Minutes left on the running hold timer, rounded up. -/
def presLeft (s : State) (z : Nat) (x : PresSt) : Nat :=
  let hold := match x.occ with | 1 => s.eget (fPresZcfgStandbyHold z) | 2 => s.eget (fPresZcfgOccHold z) | _ => 0
  if x.expired then 0 else ceilDiv (hold * 60000000 - x.since * s.lathPeriod) 60000000

/-- One zone in phase 3 (R147, R151). -/
def presZone (s : State) (z : Nat) : State :=
  let old := s.presSt z
  let out (s : State) (x : PresSt) (occ : Nat) (nosrc : Bool) : State :=
    let s := s.setPresSt z { x with last := occ, nosrc := nosrc }
    let s := s.laterSet .lath (fPresZstatOcc z) occ
    let s := s.laterB .lath (fPresZstatNosrc z) nosrc
    let s := if old.nosrc = nosrc then s
      else if nosrc then (s.later .lath (.irq 0x1D 1)).later .lath (.raise 0x6002 z .minor)
      else s.later .lath (.clear 0x6002 z)
    if old.last = occ then s
    else (s.later .lath (.orWord (rPresChg (z / 32)) (1#32 <<< (z % 32)))).later .lath (.irq 0x1D 0)
  if !s.enAck 0x1D then out s old 2 false else
  let x := s.presMinute z old
  let es := (List.range 6).map (fun i => s.presEvid z i x)
  let any := es.any (fun e => e.evid)
  let x := if any then { x with since := 0, expired := false } else { x with since := x.since + 1 }
  let x := { x with
    weak := ((List.range 6).zip es).foldl (fun m p =>
      if p.2.evid && !p.2.strong then Map.put (fun _ => none) m p.1 (some s.lath.cap) else m) x.weak }
  let (occ, nosrc) := s.presRule z x es
  let x := { x with occ := occ }
  let ovr := s.eget (fPresZcfgOvr z)
  let mask (f : Evid → Bool) : Nat := ((List.range 6).zip es).foldl (fun m p => if f p.2 then m + 2 ^ p.1 else m) 0
  let s := s.laterSet .lath (fPresZstatFlt z) (mask (fun e => e.configured && e.faulted))
  let s := s.laterSet .lath (fPresZstatEvid z) (mask (fun e => e.evid))
  let s := s.laterB .lath (fPresZstatOvr z) (ovr ≠ 0)
  let s := s.laterSet .lath (fPresZstatHoldLeft z) (s.presLeft z x)
  out s x (if ovr = 0 then occ else ovr - 1) nosrc

def presFrame (s : State) : State := (List.range 96).foldl presZone s
/-- The occupancy of a zone as phase 3 left it. -/
def occOf (s : State) (z : Nat) : Nat := if s.enAck 0x1D then (s.presSt z).last else 2

/-- A zone whose sources a new configuration changes starts afresh (R148). -/
def presSwitch (old s : State) : State :=
  (List.range 96).foldl (fun s z =>
    if (List.range 6).all (fun i => old.word (rPresSrc z i) = s.word (rPresSrc z i)) then s
    else s.setPresSt z { last := (s.presSt z).last, nosrc := (s.presSt z).nosrc }) s

/-- R152: the first zone with a bad source. `entry` says whether an index names a point-directory entry, `unit` its unit. -/
def presBadRef (s : State) (entry : Nat → Bool) (unit : Nat → Nat) : Option Nat :=
  (List.range 96).find? (fun z => (List.range 6).any (fun i =>
    let ref := s.get (fPresSrcRef z i)
    match s.get (fPresSrcKind z i) with
    | 0 => false
    | 1 => 96 ≤ ref || s.get (fUchCfgMode ref) ≠ 1 || s.get (fUchCfgRate ref) ≠ 2
    | 4 => !entry ref || unit ref ≠ 5
    | _ => !entry ref))

/-- BLK_ERR cause of a refused PRES write (R152). -/
def presRefuse (off : Nat) (w : Word) : Option Nat :=
  if 0x100 ≤ off && off < 0xD00 && 0x08 ≤ off % 0x20 && bitsOf w 29 3 = 7 then some 0x40 else none

end State
end Sys2Proof.Machine
end

