-- ==== Sys2Proof/Machine/Cal.lean ====
section
/-! DEFINITION. The calendar (R251–R257): the Gregorian date of a count of seconds, local time, daylight saving, and the
steps of TIMEBASE (R23, R253). Seconds are signed, from the epoch of R8; weekdays are 1 = Monday to 7 = Sunday. -/
set_option Elab.async false
namespace Sys2Proof.Machine

structure Date where
  y : Int
  m : Nat
  d : Nat
deriving DecidableEq, Repr

/-- The date of a day number; day 0 is 2000-01-01. -/
def civil (day : Int) : Date :=
  let z := day + 730425
  let era := z / 146097
  let doe := (z % 146097).toNat
  let yoe := (doe - doe / 1460 + doe / 36524 - doe / 146096) / 365
  let doy := doe - (365 * yoe + yoe / 4 - yoe / 100)
  let mp := (5 * doy + 2) / 153
  let m := if mp < 10 then mp + 3 else mp - 9
  { y := (yoe : Int) + era * 400 + (if m ≤ 2 then 1 else 0), m := m, d := doy - (153 * mp + 2) / 5 + 1 }
/-- The day number of a date. -/
def dayOf (y : Int) (m d : Nat) : Int :=
  let y := if m ≤ 2 then y - 1 else y
  let era := y / 400
  let yoe := (y % 400).toNat
  let doy := (153 * (if 2 < m then m - 3 else m + 9) + 2) / 5 + d - 1
  let doe := yoe * 365 + yoe / 4 - yoe / 100 + doy
  era * 146097 + doe - 730425
def leapYear (y : Int) : Bool := y % 4 = 0 && (y % 100 ≠ 0 || y % 400 = 0)
def monthDays (y : Int) (m : Nat) : Nat :=
  if m = 2 then (if leapYear y then 29 else 28) else if m = 4 || m = 6 || m = 9 || m = 11 then 30 else 31
def weekday (day : Int) : Nat := ((day + 5) % 7).toNat + 1
/-- Day of the year, 1–366. -/
def dayInYear (day : Int) : Nat := (day - dayOf (civil day).y 1 1).toNat + 1

/-- End of the calendar's range (R252). -/
def calEnd : Nat := 0x17830D580

namespace State

/-- 60 × TZ.OFFSET and 60 × DST_MIN. -/
def tzOfs (s : State) : Int := 60 * s.geti fCalTzOffset
def dstSec (s : State) : Int := 60 * (s.get fCalTzDstMin : Int)

/-- The day that a rule names in year `y` (R256): nth weekday of the month, 5 for the last. -/
def ruleDay (y : Int) (month week wd : Nat) : Int :=
  let first := dayOf y month 1
  let d0 := first + ((wd + 7 - weekday first) % 7 : Nat)
  if week < 5 then d0 + 7 * ((week : Int) - 1)
  else
    let last := first + monthDays y month - 1
    last - ((weekday last + 7 - wd) % 7 : Nat)
/-- START and END of year `y` as calendar seconds (R256). -/
def dstStart (s : State) (y : Int) : Int :=
  ruleDay y (s.get fCalDstStartMonth) (s.get fCalDstStartWeek) (s.get fCalDstStartWeekday) * 86400
    + 60 * s.get fCalDstStartMinute - s.tzOfs
def dstEnd (s : State) (y : Int) : Int :=
  ruleDay y (s.get fCalDstEndMonth) (s.get fCalDstEndWeek) (s.get fCalDstEndWeekday) * 86400
    + 60 * s.get fCalDstEndMinute - s.tzOfs - s.dstSec
/-- The local standard year of an instant. -/
def stdYear (s : State) (t : Int) : Int := (civil ((t + s.tzOfs) / 86400)).y
/-- Daylight saving is in force at `t` (R256). -/
def dstAt (s : State) (t : Int) : Bool :=
  let a := s.dstStart (s.stdYear t)
  let b := s.dstEnd (s.stdYear t)
  s.bit fCalDstStartEn && ((a < b && a ≤ t && t < b) || (b < a && (a ≤ t || t < b)))
/-- Local time of an instant (R255). -/
def localSec (s : State) (t : Int) : Int := t + s.tzOfs + (if s.dstAt t then s.dstSec else 0)
/-- The instant of local time `tod` seconds on local day `day` (R260). -/
def localInstant (s : State) (day : Int) (tod : Int) : Int :=
  let std := day * 86400 + tod - s.tzOfs
  let dst := std - s.dstSec
  if s.dstAt dst then dst
  else if s.dstAt std then s.dstStart (s.stdYear std)
  else std

/-- The calendar is beyond its range (R252). -/
def calOver (s : State) : Bool := calEnd ≤ s.calSec
/-- The two words of CAL.LOCAL. -/
def calLocal (s : State) (i : Nat) : Word :=
  let t : Int := if s.calOver then dayOf 2199 12 31 * 86400 + 86399 else s.localSec s.calSec
  let day := t / 86400
  let c := civil day
  let r := (t % 86400).toNat
  if i = 0 then BitVec.ofNat 32 ((c.y.toNat % 4096) * 65536 + c.m * 256 + c.d)
  else BitVec.ofNat 32 (weekday day * 2 ^ 24 + (r / 3600) * 65536 + (r / 60 % 60) * 256 + r % 60)

/-- The count reaches the end of its range (R252). -/
def calRangeEnd (s : State) : State :=
  let s := s.at_ (calEnd * 1000000)
  if s.bit fCalStatRange then s
  else ((s.setB fCalStatRange true).irq 0x68 2).raise 0xA001 0 .minor

/-- Daylight saving is entered or left (R256): at once when the present state differs from STAT.DST, else at the next
change. -/
def dstChange (s : State) : State :=
  let now : Int := s.calSec
  let put (s : State) (b : Bool) : State := (s.setB fCalStatDst b).irq 0x68 1
  if s.dstAt now ≠ s.bit fCalStatDst then put s (s.dstAt now)
  else
    let y := s.stdYear now
    let c := [s.dstStart y, s.dstEnd y, s.dstStart (y + 1), s.dstEnd (y + 1)].filter
      (fun t => now < t && s.dstAt t ≠ s.dstAt (t - 1))
    match c.min? with
    | some t => if s.bit fCalDstStartEn then put (s.at_ (t.toNat * 1000000)) (s.dstAt t) else s
    | none => s

/-- TIMEBASE steps by `d` µs: the frame in progress is lengthened to the first aligned edge at least L after its capture
edge (R23, R253). -/
def stepTimebase (s : State) (d : Int) : State :=
  let mv (t : Nat) : Nat := ((t : Int) + d).toNat
  let L := s.lathPeriod
  let cap := mv s.lath.cap
  let s := { s with
    now := mv s.now
    lath := { s.lath with cap := cap, skimCap := mv s.lath.skimCap, due := ceilDiv (cap + L) L * L } }
  (s.bump fLathRealignCntCount).irq 0x03 3

/-- A write of the SET pair completes (R253). `source` says that the device is the fabric's time source. -/
def calSet (s : State) (lo hi : Word) (source : Bool) : State :=
  let v := lo.toNat + 2 ^ 32 * hi.toNat
  if calEnd ≤ v then s.blkErr 0x68 0x40 true 0x2C
  else if s.bit fLathStatFsync && !source then s.blkErr 0x68 0x41 true 0x2C
  else
    let d : Int := (v : Int) - s.calSec
    let s := s.stepTimebase (d * 1000000)
    let was := s.bit fCalStatSet
    let s := (s.setB fCalStatSet true).set fCalStatSrc 1
    let s := (s.seti fCalLastStepSec (sat32 d)).irq 0x68 0
    if was then s else { s with eng := { s.eng with sch := { s.eng.sch with force := true, minute := none } } }

/-- BLK_ERR cause of a refused CAL write (R255, R256). -/
def calRefuse (off : Nat) (w : Word) : Option Nat :=
  if off = 0x34 then
    let o := signedOf 16 (bitsOf w 0 16)
    if o < -720 || 840 < o || 120 < bitsOf w 16 8 then some 0x42 else none
  else if off = 0x38 || off = 0x3C then
    let m := bitsOf w 24 4
    let k := bitsOf w 20 3
    let d := bitsOf w 16 3
    if m < 1 || 12 < m || k < 1 || 5 < k || d < 1 || 1439 < bitsOf w 0 11 then some 0x42 else none
  else none

end State
end Sys2Proof.Machine
end

