-- ==== Sys2Proof/Machine/Sched.lean ====
section
/-! DEFINITION. Schedules (R258–R269): the tables, present values, evaluation and targets, optimum start and coast stop,
APPLY. A present value is a value and whether the schedule is relinquished. -/
set_option Elab.async false
namespace Sys2Proof.Machine

/-- Word `w` at window offset / 4. -/
def schW (t : Map Word) (k : Nat) : Word := Map.look (fun _ => 0#32) t k
def schE0 (t : Map Word) (e : Nat) : Word := schW t (3 * e)
def schE1 (t : Map Word) (e : Nat) : Word := schW t (3 * e + 1)
def schE2 (t : Map Word) (e : Nat) : Word := schW t (3 * e + 2)
def schX0 (t : Map Word) (x : Nat) : Word := schW t (0xC000 / 4 + 2 * x)
def schX1 (t : Map Word) (x : Nat) : Word := schW t (0xC000 / 4 + 2 * x + 1)
def schH (t : Map Word) (s w : Nat) : Word := schW t (0xD000 / 4 + 4 * s + w)
/-- Keys of the table in a range of window words, by record. -/
def schRecs (t : Map Word) (lo hi n : Nat) : List Nat :=
  t.filterMap (fun p => if lo ≤ p.1 && p.1 < hi && (p.1 - lo) % n = 0 && bitAt p.2 31 then some ((p.1 - lo) / n) else none)
/-- Valid entries, valid exceptions and enabled schedules of a table, ascending. -/
def schEntries (t : Map Word) : List Nat := schRecs t 0 (3 * 4096) 3
def schExcs (t : Map Word) : List Nat := schRecs t (0xC000 / 4) (0xC000 / 4 + 1024) 2
def schScheds (t : Map Word) : List Nat := schRecs t (0xD000 / 4) (0xD000 / 4 + 256) 4
def hdrKind (t : Map Word) (s : Nat) : Nat := bitsOf (schH t s 0) 28 3
def hdrOpt (t : Map Word) (s : Nat) : Bool := bitAt (schH t s 0) 27
def hdrCoast (t : Map Word) (s : Nat) : Bool := bitAt (schH t s 0) 26
def hdrTarget (t : Map Word) (s : Nat) : Nat := bitsOf (schH t s 0) 0 14
def hdrDefault (t : Map Word) (s : Nat) : Int := (schH t s 1).toInt

/-! ### Days (R258, R259) -/

/-- Exception `x` covers local day `day`. -/
def excCovers (t : Map Word) (x : Nat) (day : Int) : Bool :=
  let w := schX0 t x
  let d := schX1 t x
  let len : Int := (bitsOf w 8 8 : Nat)
  let m := bitsOf d 8 4
  let dd := bitsOf d 0 5
  let on (y : Int) : Bool :=
    (dd ≤ monthDays y m) && (let a := dayOf y m dd; a ≤ day && day ≤ a + len)
  if bitAt w 30 then
    let y := (civil day).y
    on y || on (y - 1)
  else on (bitsOf d 16 16 : Nat)
/-- The day priority D(s, d). -/
def dayPrio (t : Map Word) (s : Nat) (day : Int) : Nat :=
  ((schExcs t).filter (fun x => (bitsOf (schX0 t x) 16 8 = s || bitsOf (schX0 t x) 16 8 = 0xFF) && excCovers t x day)).foldl
    (fun m x => max m (bitsOf (schX0 t x) 26 4)) 0
/-- Entry `e` of schedule `s` is active on a day of priority `dp`. -/
def entryActive (t : Map Word) (e s dp : Nat) (day : Int) : Bool :=
  let w := schE0 t e
  let r := schE2 t e
  let c := civil day
  let md := c.m * 32 + c.d
  let frm := bitsOf r 28 4 * 32 + bitsOf r 23 5
  let to_ := bitsOf r 19 4 * 32 + bitsOf r 14 5
  bitsOf w 25 6 = s && bitsOf w 21 4 = dp && bitAt r (weekday day - 1)
    && (!bitAt w 19 || (if frm ≤ to_ then frm ≤ md && md ≤ to_ else frm ≤ md || md ≤ to_))

/-- A transition: its instant, its local day, its entry, and what it brings. -/
structure Trans where
  t : Int
  day : Int
  entry : Nat
  w : Written
deriving DecidableEq, Repr

def Trans.before (a b : Trans) : Bool := a.t < b.t || (a.t = b.t && a.entry ≤ b.entry)

namespace State

/-- The transitions of schedule `k` on the local days `d0` to `d0 + n − 1`, in order; of equal instants the last decides
(R260). -/
def transitions (s : State) (tab : Map Word) (k : Nat) (d0 : Int) (n : Nat) : List Trans :=
  let es := (schEntries tab).filter (fun e => bitsOf (schE0 tab e) 25 6 = k)
  let l := (List.range n).flatMap (fun (i : Nat) =>
    let day := d0 + (i : Int)
    let dp := dayPrio tab k day
    (es.filter (fun e => entryActive tab e k dp day)).map (fun e =>
      { t := s.localInstant day (60 * (bitsOf (schE0 tab e) 0 11 : Nat)), day := day, entry := e,
        w := { v := if bitAt (schE0 tab e) 20 then hdrDefault tab k else (schE1 tab e).toInt,
               rel := bitAt (schE0 tab e) 20 } : Trans }))
  l.mergeSort Trans.before

def localDay (s : State) (t : Int) : Int := s.localSec t / 86400
/-- The latest transition at or before `t` over 8 days (R261). -/
def lastTrans (s : State) (tab : Map Word) (k : Nat) (t : Int) : Option Trans :=
  ((s.transitions tab k (s.localDay t - 8) 9).filter (fun x => x.t ≤ t)).getLast?
def schDflt (tab : Map Word) (k : Nat) : Written := { v := hdrDefault tab k, rel := true }
/-- The present value of schedule `k` at `t` (R261). -/
def present (s : State) (tab : Map Word) (k : Nat) (t : Int) : Written :=
  ((s.lastTrans tab k t).map (fun x => x.w)).getD (schDflt tab k)
/-- The transitions after `t`, up to 8 days ahead. -/
def nextTrans (s : State) (tab : Map Word) (k : Nat) (t : Int) : List Trans :=
  (s.transitions tab k (s.localDay t) 9).filter (fun x => t < x.t && x.t ≤ t + 8 * 86400)
/-- The first of a list of transitions after which the value passes `f`, given the value before it. -/
def firstChange (f : Written → Written → Bool) : Written → List Trans → Option (Trans × List Trans)
  | _, [] => none
  | cur, x :: l => if f cur x.w then some (x, l) else firstChange f x.w l
/-- Whole minutes to the next change, 32,767 when there is none (R261). -/
def nextMin (s : State) (tab : Map Word) (k : Nat) (t : Int) : Nat :=
  match firstChange (fun a b => a ≠ b) (s.present tab k t) (s.nextTrans tab k t) with
  | some (x, _) => min 32767 (ceilDiv (x.t - t).toNat 60)
  | none => 32767

/-! ### Targets (R263) -/

/-- Zones of a zone or fen target. -/
def schZones (s : State) (tab : Map Word) (k : Nat) : List Nat :=
  match hdrKind tab k with
  | 1 => if hdrTarget tab k < 96 then [hdrTarget tab k] else []
  | 2 => (List.range 96).filter (fun z => s.ebit ⟨rZoneFens z, hdrTarget tab k % 32, 1⟩)
  | _ => []
def setZm (s : State) (z lv : Nat) (v : Option Nat) : State :=
  { s with eng := { s.eng with zm := Map.put (fun _ => none) s.eng.zm (8 * z + lv) v } }
/-- A mode code in Q16.16. -/
def modeOf (w : Written) : Option Nat := if w.rel then none else some ((w.v / 65536).toNat % 8)
/-- Schedule `k` writes its whole target, but for the zones of `skip`. -/
def schWrite (s : State) (tab : Map Word) (k : Nat) (w : Written) (skip : List Nat) : State :=
  let lv : Option Int := if w.rel then none else some w.v
  let n := hdrTarget tab k
  match hdrKind tab k with
  | 1 | 2 => (s.schZones tab k).foldl (fun s z => if skip.contains z then s else s.setZm z 6 (modeOf w)) s
  | 3 => s.stage .lath { out := n, lv := 6, v := lv }
  | 4 => s.stage .lath { out := 96 + n, lv := 6, v := lv }
  | 5 => s.produce .lath n { v := w.v, st := .ok, ts := s.lath.cap }
  | _ => s
def schMark (s : State) (k : Nat) : State :=
  (s.later .lath (.orWord (rSchedTrans (k / 32)) (1#32 <<< (k % 32)))).later .lath (.irq 0x69 0)

/-! ### Comfort periods and optimised entries (R264, R265) -/

def isComfort (w : Written) : Bool := !w.rel && w.v = 4 * 65536
/-- S, E and the end of the comfort period in progress, for schedule `k` at `t`. -/
def comfort (s : State) (tab : Map Word) (k : Nat) (t : Int) : Option Nat × Option Nat × Option Nat :=
  let cur := s.present tab k t
  let l := s.nextTrans tab k t
  let stop (w : Written) (l : List Trans) : Option Nat := (firstChange (fun _ b => !isComfort b) w l).map (fun p => p.1.t.toNat)
  let curE := if isComfort cur then stop cur l else none
  match firstChange (fun a b => !isComfort a && isComfort b) cur l with
  | some (x, r) => if x.t ≤ t + 86400 then (some x.t.toNat, stop x.w r, curE) else (none, none, curE)
  | none => (none, none, curE)
/-- The present transition is an optimised entry: answers S and the value before it (R265). -/
def optimised (s : State) (tab : Map Word) (k : Nat) (t : Int) : Option (Nat × Written) :=
  if !hdrOpt tab k || (hdrKind tab k ≠ 1 && hdrKind tab k ≠ 2) then none else
  match s.lastTrans tab k t with
  | none => none
  | some x =>
    if x.w.rel || x.w.v ≠ 3 * 65536 then none else
    match (s.nextTrans tab k t).head? with
    | some y => if y.day = x.day && isComfort y.w
        then some (y.t.toNat, s.present tab k (x.t - 1)) else none
    | none => none

def tmeSt (s : State) (z : Nat) : TmeSt := Map.look (fun _ => {}) s.eng.tme z
def setSch (s : State) (f : SchSt → SchSt) : State := { s with eng := { s.eng with sch := f s.eng.sch } }

/-- One schedule in an evaluation at `t` (R261–R266). -/
def schOne (s : State) (tab : Map Word) (force : Bool) (t : Int) (k : Nat) : State :=
  let last := s.lastTrans tab k t
  let w := (last.map (fun x => x.w)).getD (schDflt tab k)
  let s := s.laterSeti .lath (fSchedValValue k) w.v
  let s := s.laterB .lath (fSchedNxtRel k) w.rel
  let s := s.laterB .lath (fSchedNxtDef k) last.isNone
  let s := s.laterSet .lath (fSchedNxtDpri k) (dayPrio tab k (s.localDay t))
  let s := s.laterSet .lath (fSchedNxtNextMin k) (s.nextMin tab k t)
  let zs := s.schZones tab k
  let changed := force || Map.look (fun _ => none) s.eng.sch.written k ≠ some w
  let s := s.setSch (fun x => { x with written := Map.put (fun _ => none) x.written k (some w) })
  let opt := s.optimised tab k t
  let s := if hdrOpt tab k then
      let (a, b, c) := s.comfort tab k t
      zs.foldl (fun s z => s.setSch (fun x => { x with
        nextS := Map.put (fun _ => none) x.nextS z a
        nextE := Map.put (fun _ => none) x.nextE z b
        curE := Map.put (fun _ => none) x.curE z c })) s
    else s
  match opt with
  | some (S, prev) =>
    let firedFor (s : State) (z : Nat) : Bool := Map.look (fun _ => none) s.eng.sch.fired z = some S
    let s := if force then
        zs.foldl (fun s z => if firedFor s z then s.setZm z 6 (modeOf w) else s.setZm z 6 (modeOf prev)) (s.schMark k)
      else s
    zs.foldl (fun s z =>
      if firedFor s z || t + (s.tmeSt z).lead < S then s
      else
        let s := (s.setZm z 6 (modeOf w)).schMark k
        s.setSch (fun x => { x with fired := Map.put (fun _ => none) x.fired z (some S) })) s
  | none =>
    let s := if changed && hdrKind tab k ≠ 0 then (s.schWrite tab k w []).schMark k else s
    if !hdrCoast tab k || !isComfort w then s else
    zs.foldl (fun s z =>
      match (s.tmeSt z).coast with
      | none => s
      | some e =>
        if Map.look (fun _ => none) s.eng.sch.coasted z = some e then s
        else
          let s := (s.setZm z 6 (modeOf (s.present tab k e))).schMark k
          s.setSch (fun x => { x with coasted := Map.put (fun _ => none) x.coasted z (some e) })) s

/-- The pending tables taken by an APPLY, and the count registers. -/
def schFaces (s : State) : State :=
  let on := schScheds s.tab.run
  let es := (schEntries s.tab.run).filter (fun e => on.contains (bitsOf (schE0 s.tab.run e) 25 6))
  (s.set fSchedCountEntries es.length).set fSchedCountExc (schExcs s.tab.run).length

/-- Schedules in phase 3 (R262). -/
def schedFrame (s : State) : State :=
  let run := s.enAck 0x69 && s.bit fCalStatSet && !s.bit fCalStatRange
  let s := s.laterB .lath fSchedCountRun run
  if !run then s else
  let t : Int := ((s.lath.cap / 1000000 : Nat) : Int)
  let m := s.lath.cap / 60000000
  if s.eng.sch.minute = some m && !s.eng.sch.force then s else
  let force := s.eng.sch.force
  let s := match s.tab.apply with
    | none => s
    | some tab =>
      let s := ({ s with tab := { s.tab with run := tab, apply := none } }).schFaces
      (s.laterB .lath fSchedApplyResPend false).later .lath (.irq 0x69 1)
  let s := s.setSch (fun x => { x with minute := some m, force := false })
  (schScheds s.tab.run).foldl (fun s k => s.schOne s.tab.run force t k) s

/-! ### Checks (R267, R269) -/

/-- A schedule's target is as R267 wants it, in the configuration `s`. `isLocal` judges a point. -/
def schTargetOk (s : State) (tab : Map Word) (isLocal : Nat → Bool) (k : Nat) : Bool :=
  let n := hdrTarget tab k
  match hdrKind tab k with
  | 0 => true
  | 1 => n < 96 && s.bit (fZoneCfgEn n)
  | 2 => n < 32
  | 3 => n < 96 && isOut (s.get (fUchCfgMode n))
  | 4 => n < 24 && s.bit (fFanCfgEn n) && s.bit (fFanDrvDrvEn n)
  | 5 => isLocal n
  | _ => false
def entryDatesOk (t : Map Word) (e : Nat) : Bool :=
  let w := schE0 t e
  let r := schE2 t e
  let md (m d : Nat) : Bool := 1 ≤ m && m ≤ 12 && 1 ≤ d && d ≤ 31
  bitsOf w 0 11 ≤ 1439 && (!bitAt w 19 || (md (bitsOf r 28 4) (bitsOf r 23 5) && md (bitsOf r 19 4) (bitsOf r 14 5)))
def excDatesOk (t : Map Word) (x : Nat) : Bool :=
  let w := schX0 t x
  let d := schX1 t x
  let m := bitsOf d 8 4
  let dd := bitsOf d 0 5
  1 ≤ bitsOf w 26 4 && 1 ≤ m && m ≤ 12 && 1 ≤ dd && dd ≤ 31
    && (bitAt w 30 || (2000 ≤ bitsOf d 16 16 && bitsOf d 16 16 ≤ 2199 && dd ≤ monthDays (bitsOf d 16 16 : Nat) m))
/-- R267's first failure over the tables: schedules, entries, then exceptions. -/
def schBadRef (s : State) (tab : Map Word) (isLocal : Nat → Bool) : Option Nat :=
  let on := schScheds tab
  let es := schEntries tab
  let zones (k : Nat) : List Nat := if hdrKind tab k = 2
    then (List.range 96).filter (fun z => s.bit ⟨rZoneFens z, hdrTarget tab k % 32, 1⟩)
    else if hdrKind tab k = 1 then [hdrTarget tab k] else []
  let twice (k : Nat) : Bool := hdrOpt tab k && on.any (fun j => j < k && hdrOpt tab j && (zones j).any (fun z => (zones k).contains z))
  match on.find? (fun k => !s.schTargetOk tab isLocal k || twice k) with
  | some k => some k
  | none =>
    let badE (e : Nat) : Bool :=
      let k := bitsOf (schE0 tab e) 25 6
      let v := (schE1 tab e).toInt
      on.contains k && (!entryDatesOk tab e || ((hdrKind tab k = 1 || hdrKind tab k = 2) && !bitAt (schE0 tab e) 20
        && (v % 65536 ≠ 0 || v < 0 || 4 * 65536 < v)))
    match es.find? badE with
    | some e => some e
    | none => (schExcs tab).find? (fun x =>
        let k := bitsOf (schX0 tab x) 16 8
        !excDatesOk tab x || (k ≠ 0xFF && !on.contains k))

/-- Entries and exceptions an activation charges (R269). -/
def schCounts (tab : Map Word) : Nat × Nat :=
  let on := schScheds tab
  (((schEntries tab).filter (fun e => on.contains (bitsOf (schE0 tab e) 25 6))).length, (schExcs tab).length)

/-- SCHED.APPLY (R269). -/
def schedApply (s : State) (isLocal : Nat → Bool) : State :=
  if s.tab.apply.isSome then s.blkErr 0x69 0x40 true 0x28 else
  let res (s : State) (cause item : Nat) : State := ((s.set fSchedApplyResCause cause).set fSchedApplyResItem item).irq 0x69 2
  match s.schBadRef s.tab.pend isLocal with
  | some i => res s 1 i
  | none =>
    let (e, x) := schCounts s.tab.pend
    if s.tab.chargedE < e || s.tab.chargedX < x then res s 2 0
    else
      let s := (s.set fSchedApplyResCause 0).set fSchedApplyResItem 0
      ({ s with tab := { s.tab with apply := some s.tab.pend } }).setB fSchedApplyResPend true

/-- An accepted activation (R263, R269): the tables, and what they charge. -/
def schSwitch (s : State) (tab : Map Word) : State :=
  let s := if s.tab.apply.isSome
    then (s.setB fSchedApplyResPend false).set fSchedApplyResCause 3 else s
  let (e, x) := schCounts tab
  let s := { s with
    tab := { s.tab with
      run := tab, apply := none
      chargedE := max e (s.get fSchedReserveResE)
      chargedX := max x (s.get fSchedReserveResX) } }
  (s.setSch (fun y => { y with force := true })).schFaces

end State
end Sys2Proof.Machine
end

