-- ==== Sys2Proof/Machine/Tme.lean ====
section
/-! DEFINITION. The zone thermal models (R183–R203): identification, anomalies, prediction, optimum start, coast stop,
feed-forward, fallback, and their store records. Numbers are binary32 bit patterns, sums taken from left to right. -/
set_option Elab.async false
namespace Sys2Proof.Machine

/-- Sum of products, from the first to the last. -/
def fDot : List Nat → List Nat → Nat
  | [a], [b] => fMul a b
  | a :: as, b :: bs => (as.zip bs).foldl (fun acc p => fAdd acc (fMul p.1 p.2)) (fMul a b)
  | _, _ => 0
/-- Place of P_ij, i ≤ j, in the stored upper triangle. -/
def triIdx (i j : Nat) : Nat := let a := min i j; let b := max i j; a * 6 - a * (a - 1) / 2 + (b - a)
def triAt (p : List Nat) (i j : Nat) : Nat := p.getD (triIdx i j) 0
/-- P0 · I. -/
def triDiag (p0 : Nat) : List Nat :=
  (List.range 6).flatMap (fun i => (List.range (6 - i)).map (fun k => if k = 0 then p0 else 0))
def triTrace (p : List Nat) : Nat := (List.range 5).foldl (fun acc i => fAdd acc (triAt p (i + 1) (i + 1))) (triAt p 0 0)

def fHalf : Nat := 0x3F000000
def f1 : Nat := 0x3F800000
def f16 : Nat := 0x41800000
/-- A decimal constant n / 10^d. -/
def fDec (n : Int) (d : Nat) : Nat := f32OfRat true n (10 ^ d)

/-- θ inside the bounds of R188. -/
def thetaClamp (cool : Bool) (i v : Nat) : Nat :=
  match i with
  | 0 => fMin (fMax v (fDec (-5) 1)) 0
  | 1 => fMin (fMax v (fDec (-5) 1)) (fDec 95 2)
  | 2 => if cool then fMin v 0 else fMax v 0
  | 3 => fMax v 0
  | _ => v
def thetaProject (cool : Bool) (th : List Nat) : List Nat := (List.range 6).map (fun i => thetaClamp cool i (th.getD i 0))
/-- One step of R183: the next Ta. -/
def simStep (th : List Nat) (ta tb tOut u occ sol : Nat) : Nat :=
  fAdd ta (fDot th [fSub ta tOut, fSub ta tb, u, occ, sol, f1])
/-- `n` steps from Ta[k], Ta[k−1]; `u` and `sol` by step. Answers the predicted temperatures, the last one first. -/
def simRun (th : List Nat) (tOut occ : Nat) (u sol : Nat → Nat) : Nat → Nat → Nat → Nat → List Nat → List Nat
  | 0, _, _, _, acc => acc
  | n + 1, j, ta, tb, acc =>
    let t := simStep th ta tb tOut (u j) occ (sol j)
    simRun th tOut occ u sol n (j + 1) t ta (t :: acc)
/-- conf of R190. -/
def confOf (ms : Nat) : Nat := fSub f1 (fMin f1 (fDiv (fSqrt ms) fHalf))

namespace State

def setTme (s : State) (z : Nat) (x : TmeSt) : State :=
  { s with eng := { s.eng with tme := Map.put (fun _ => {}) s.eng.tme z x } }
def tmeOn (s : State) (z : Nat) : Bool := s.enAck 0x60 && s.ebit (fTmeMcfgEn z)
/-- THETA0 as a zone takes it (R189). -/
def theta0 (s : State) (z : Nat) : List Nat :=
  let w (a : Nat) : Nat := (s.inForce a).toNat
  let t3 := w rTmeTheta03
  [w rTmeTheta01, w rTmeTheta02, if s.ebit (fTmeMcfgCoolOnly z) then fNeg t3 else t3, w rTmeTheta04, w rTmeTheta05,
   w rTmeTheta06]
def p0I (s : State) : List Nat := triDiag (s.inForce rTmeP0).toNat
/-- A reset is counted and shown (R189). -/
def tmeCount (s : State) : State := (s.later .lath (.irq 0x60 2)).later .lath (.bump fTmeCountsPResets)
def resetTheta (s : State) (z : Nat) (x : TmeSt) : TmeSt :=
  { x with theta := s.theta0 z, ms := 0x3E800000, upd := 0, p := s.p0I }

/-- STEP in force as the effective step STEP_E, µs (R184). -/
def stepEOf (s : State) : Nat := s.eget fTmeCfgStep * 1000000 / s.lathPeriod * s.lathPeriod

/-! ### Sun (R185) -/

/-- FACADE × max(0, sin h) at a TIMEBASE instant. -/
def sunProxy (s : State) (z : Nat) (t : Int) : Nat :=
  let day := t / 86400000000
  let d := fOfInt ((dayInYear day : Int) - 81)
  let dec := fMul (fDec 2344 2) (fSinDeg (fDiv (fMul (fOfInt 360) d) (fOfInt 365)))
  let lat := (s.inForce rTmeSiteLat).toNat
  let lon := (s.inForce rTmeSiteLon).toNat
  let h := fMul (fOfInt 15) (fSub (fAdd (f32OfRat true (t % 86400000000) 3600000000) (fDiv lon (fOfInt 15))) (fOfInt 12))
  let sinH := fAdd (fMul (fSinDeg lat) (fSinDeg dec)) (fMul (fMul (fCosDeg lat) (fCosDeg dec)) (fCosDeg h))
  fMul (f32OfRat true (s.eget (fTmeMcfgFacade z) : Nat) 16384) (fMax 0 sinH)
/-- sol at the capture edge (R196). -/
def solNow (s : State) (z : Nat) : Nat :=
  if s.ebit (fTmeMcfgSolSrc z) then fDiv (fOfQ (s.lathVal (s.eget (fTmePtsLightPt z))).v) (fOfInt 100000)
  else s.sunProxy z s.lath.cap

/-! ### Zone facts -/

/-- Valid loop slots of a zone: loop and role (1 HEAT, 2 COOL, 3 AIR). -/
def zoneSlots (s : State) (z : Nat) : List (Nat × Nat) :=
  (List.range 4).flatMap (fun i =>
    (if s.ebit (fZoneLoopsValid z i) then [(s.eget (fZoneLoopsLoop z i), s.eget (fZoneLoopsRole z i))] else []) ++
    (if s.ebit (fZoneLoopsValidH z i) then [(s.eget (fZoneLoopsLoopH z i), s.eget (fZoneLoopsRoleH z i))] else []))
def namesRole (s : State) (z role : Nat) : Bool := (s.zoneSlots z).any (fun p => p.2 = role)
/-- SP_COMFORT in °C. -/
def spHeat (s : State) (z : Nat) : Nat := f32OfRat true (s.egeti (fZoneSpHeat z 3)) 100
def spCool (s : State) (z : Nat) : Nat := f32OfRat true (s.egeti (fZoneSpCool z 3)) 100

/-- The model is usable for control (R190). -/
def tmeUsable (s : State) (z : Nat) (x : TmeSt) : Bool :=
  s.tmeOn z && fLe (fDec 6 1) (confOf x.ms) && s.eget fTmeCfgMinSteps ≤ x.upd && 2 ≤ x.hist

/-! ### Identification (R187–R191) -/

def anomK (s : State) (z : Nat) : Nat := f32OfRat true (s.eget (fTmeLimitsAnomK z) : Nat) 100

/-- The anomaly flag clears: P is reset (R189, R191). -/
def anomClear (s : State) (x : TmeSt) : TmeSt × State :=
  ({ x with anom := none, p := s.p0I }, s.tmeCount.later .lath (.irq 0x60 0))

/-- The recursive update of R187 with the projection of R188. -/
def tmeUpdate (s : State) (z : Nat) (x : TmeSt) (phi : List Nat) (e : Nat) : TmeSt × State :=
  let cool := s.ebit (fTmeMcfgCoolOnly z)
  let lam := (s.inForce rTmeLambda).toNat
  let g := (List.range 6).map (fun i => fDot ((List.range 6).map (fun j => triAt x.p i j)) phi)
  let den := fAdd lam (fDot phi g)
  let k := g.map (fun v => fDiv v den)
  let th := (List.range 6).map (fun i => fAdd (x.theta.getD i 0) (fMul (k.getD i 0) e))
  let p := (List.range 6).flatMap (fun i => (List.range (6 - i)).map (fun d =>
    fDiv (fSub (triAt x.p i (i + d)) (fMul (k.getD i 0) (g.getD (i + d) 0))) lam))
  let ms := fAdd x.ms (fDiv (fSub (fMul e e) x.ms) f16)
  let th' := thetaProject cool th
  let x := { x with theta := th', p := p, ms := ms, proj := if th' = th then x.proj else satAdd 65535 x.proj 1 }
  if !(th'.all f32Finite) || !(p.all f32Finite) then (s.resetTheta z x, s.tmeCount)
  else
    let x := { x with upd := satAdd 65535 x.upd 1 }
    if fLt (s.inForce rTmePmax).toNat (triTrace p) then ({ x with p := s.p0I }, s.tmeCount) else (x, s)

/-- Anomaly detection and the update, from the residual (R187, R191). -/
def tmeIdentify (s : State) (z : Nat) (x : TmeSt) (phi : List Nat) (e : Nat) : TmeSt × State :=
  let k := s.anomK z
  let low := fLt e (fNeg k)
  match x.anom with
  | some _ => if fLe (fNeg (fDiv k (fOfInt 2))) e then s.anomClear x else (x, s)
  | none =>
    if s.tmeUsable z x && low then
      if x.cand then
        ({ x with cand := false, anom := some s.lath.cap },
          (s.later .lath (.bump fTmeCountsAnoms)).later .lath (.irq 0x60 0))
      else ({ x with cand := true }, s)
    else s.tmeUpdate z { x with cand := false } phi e

/-! ### Prediction, optimum start, coast stop (R192–R195, R197) -/

/-- sol of simulation step `j` (R192). -/
def solAt (s : State) (z : Nat) (x : TmeSt) (j : Nat) : Nat :=
  if s.ebit (fTmeMcfgSolSrc z) then x.sol1
  else s.sunProxy z ((s.lath.cap + j * s.eng.tmeG.stepE + s.eng.tmeG.stepE / 2 : Nat) : Int)
/-- Predicted Ta after `n` steps with `u` and `occ` given. -/
def simTo (s : State) (z : Nat) (x : TmeSt) (occ : Nat) (u : Nat → Nat) (n : Nat) : Nat :=
  ((simRun x.theta x.to1 occ u (s.solAt z x) n 0 x.ta1 x.ta2 []).head?).getD x.ta1
/-- The predictions at 15, 30, 60 and 120 min (R192). -/
def tmePredict (s : State) (z : Nat) (x : TmeSt) : List Nat :=
  let st := s.eng.tmeG.stepE
  let n := 7200000000 / st + 1
  let l := x.ta1 :: (simRun x.theta x.to1 x.occ1 (fun _ => x.u1) (s.solAt z x) n 0 x.ta1 x.ta2 []).reverse
  [15, 30, 60, 120].map (fun m =>
    let h := m * 60000000
    let a := l.getD (h / st) 0
    if h % st = 0 then a
    else fAdd a (fMul (fSub (l.getD (h / st + 1) 0) a) (f32OfRat true (h % st : Nat) st)))

/-- Least n in (lo, hi] that passes, by halving (R193). -/
def leadSearch (pass : Nat → Bool) : Nat → Nat → Nat → Nat
  | 0, _, hi => hi
  | k + 1, lo, hi =>
    if hi - lo ≤ 1 then hi
    else
      let mid := (lo + hi) / 2
      if pass mid then leadSearch pass k lo mid else leadSearch pass k mid hi

/-- LEAD by the model, with LEAD_SAT and DIR (R193); `S` in CAL seconds. -/
def leadModel (s : State) (z : Nat) (x : TmeSt) (S : Nat) : Nat × Bool × Nat :=
  let st := s.eng.tmeG.stepE
  let now := s.lath.cap
  let nmax := ceilDiv (S * 1000000 - now) st
  let cool := s.ebit (fTmeMcfgCoolOnly z)
  let at_ (us n : Nat) : Nat := s.simTo z x 0 (fun j => if nmax - n ≤ j then us else 0) nmax
  let free := at_ 0 0
  let lo := fSub (s.spHeat z) (fDec 2 1)
  let hi := fAdd (s.spCool z) (fDec 2 1)
  let run (us : Nat) (ok : Nat → Bool) (dir : Nat) : Nat × Bool × Nat :=
    let pass (n : Nat) : Bool := ok (at_ us n)
    let sat := !pass nmax
    let n := if sat then nmax else leadSearch pass 20 0 nmax
    -- LEAD = max(0, ⌈S − (g − n·STEP_E)⌉), with g = now + nmax·STEP_E
    let from_ : Int := (S * 1000000 : Nat) - ((now + (nmax - n) * st : Nat) : Int)
    ((-((-from_) / 1000000)).toNat, sat, dir)
  if fLt free lo && s.namesRole z 1 && !cool then run (fOfInt 100) (fun t => fLe lo t) 1
  else if fLt hi free && s.namesRole z 2 then run (fOfInt (if cool then 100 else -100)) (fun t => fLe t hi) 2
  else (0, false, 0)

/-- A fallback curve at To, in s, rounded up (R197; log entry 34). `f` gives a point's To (0.1 °C) and minutes. -/
def fbCurve (f : Nat → Int × Nat) (tOut : Int) : Nat :=
  let x := tOut * 10
  let pts := (List.range 4).map (fun j => ((f j).1 * 65536, ((f j).2 : Int) * 60))
  let rec_ (l : List (Int × Int)) : Int :=
    match l with
    | [a, b, c, d] =>
      let seg (p q : Int × Int) : Int := -((-(p.2 * (q.1 - p.1) + (q.2 - p.2) * (x - p.1))) / (q.1 - p.1))
      if x ≤ a.1 then a.2 else if x ≤ b.1 then seg a b else if x ≤ c.1 then seg b c else if x ≤ d.1 then seg c d else d.2
    | _ => 0
  (rec_ pts).toNat
/-- LEAD by the fixed tables (R197). Where To is not usable the spec states no lead: a free value (log entry 34). -/
def leadTable (s : State) (z : Nat) : Nat × Bool × Nat :=
  let ta := fOfQ (s.lathVal (s.eget (fZoneTaSrcTaPt z))).v
  let free := (Config.freeInt 3 [z, s.lath.cap] % 14401).toNat
  let pick (f : Nat → Int × Nat) : Nat := if s.eng.tmeG.toOk then fbCurve f s.eng.tmeG.toV else free
  if fLt ta (fSub (s.spHeat z) (fDec 2 1)) && s.namesRole z 1 then
    (pick (fun j => (s.egeti (fTmeFbHeatTo j), s.eget (fTmeFbHeatMin j))), false, 1)
  else if fLt (fAdd (s.spCool z) (fDec 2 1)) ta && s.namesRole z 2 then
    (pick (fun j => (s.egeti (fTmeFbCoolTo j), s.eget (fTmeFbCoolMin j))), false, 2)
  else (0, false, 0)

/-- LEAD, its latch and the coast test at a step or a minute boundary (R193–R195, R197). -/
def tmeLead (s : State) (z : Nat) (x : TmeSt) (usableStep : Bool) : TmeSt :=
  let now := s.lath.cap
  let x := match x.latch with
    | some t => if t * 1000000 ≤ now then { x with latch := none } else x
    | none => x
  let x := if x.latch.isSome then x else
    match Map.look (fun _ => none) s.eng.sch.nextS z with
    | none => { x with lead := 0, leadSat := false, dir := 0 }
    | some S =>
      if now + 14400000000 < S * 1000000 || S * 1000000 ≤ now then { x with lead := 0, leadSat := false, dir := 0 }
      else if !x.fb && !usableStep then x
      else
        let (l, sat, d) := if x.fb then s.leadTable z else s.leadModel z x S
        let x := { x with lead := min 14400 l, leadSat := sat, dir := d }
        if 0 < x.lead && S * 1000000 ≤ now + x.lead * 1000000 then { x with latch := some S } else x
  if x.fb then { x with coastT := 0 }
  else if !usableStep || x.coast.isSome then x
  else
    match Map.look (fun _ => none) s.eng.sch.curE z with
    | none => x
    | some E =>
      if E * 1000000 ≤ now || now + 14400000000 < E * 1000000 || fIsZero x.u1 then x
      else
        let n := ceilDiv (E * 1000000 - now) s.eng.tmeG.stepE
        let t := s.simTo z x x.occ1 (fun _ => 0) n
        let tol := f32OfRat true (s.eget (fTmeLimitsCoastTol z) : Nat) 100
        let warm := fLe (fSub (s.spHeat z) tol) t
        let cold := fLe t (fAdd (s.spCool z) tol)
        let pass := if fLt 0 x.u1 then (if s.ebit (fTmeMcfgCoolOnly z) then cold else warm) else cold
        if pass then { x with coast := some E, coastT := min 14400 (ceilDiv (E * 1000000 - now) 1000000) } else x

/-! ### One step (R186) -/

/-- The points published at a step. -/
def tmePublish (s : State) (z : Nat) (x : TmeSt) : State :=
  if !s.ebit (fTmePtsPub z) then s else
  let b := s.eget (fTmePtsBase z)
  let st : Status := if !x.predicted then .unconfirmed else if x.fb then .substituted else .ok
  let vs := x.preds.map fToQ ++ [sat32 (x.lead * 65536), sat32 (x.coastT * 65536), fToQ (confOf x.ms)]
  ((List.range 7).zip vs).foldl (fun s p => s.produce .lath (b + p.1) { v := p.2, st := st, ts := s.lath.cap }) s

/-- The step boundary of zone `z`. -/
def tmeStep (s : State) (z : Nat) : State :=
  let x := s.tmeSt z
  let ta := s.lathVal (s.eget (fZoneTaSrcTaPt z))
  let n := fOfInt x.n
  let mean (v : Nat) : Nat := if x.n = 0 then 0 else fDiv v n
  let u := mean x.uAcc
  let occ := mean (fOfInt x.occN)
  let sol := if s.ebit (fTmeMcfgSolSrc z) then fDiv (mean x.solAcc) (fOfInt 100000)
    else s.sunProxy z ((s.lath.cap : Int) - s.eng.tmeG.stepE / 2)
  let x := { x with uAcc := 0, solAcc := 0, occN := 0, n := 0 }
  let usable := ta.st ≠ .fault && ta.st ≠ .unconfirmed && s.eng.tmeG.toOk
  let fin (s : State) (x : TmeSt) (usable : Bool) : State :=
    let fb := !s.tmeUsable z x
    let s := if fb = x.fb then s else s.later .lath (.irq 0x60 1)
    let x := s.tmeLead z { x with fb := fb } usable
    (s.setTme z x).tmePublish z x
  if !usable then fin s { x with hist := 0 } false
  else
    let t := fOfQ ta.v
    let valid := 2 ≤ x.hist
    let phi := [fSub x.ta1 x.to1, fSub x.ta1 x.ta2, u, occ, sol, f1]
    let e := fSub (fSub t x.ta1) (fDot phi x.theta)
    let (x, s) := if valid then s.tmeIdentify z { x with lastE := e } phi e else (x, s)
    let x := { x with
                      ta2 := x.ta1, ta1 := t, to1 := fOfQ s.eng.tmeG.toV, u1 := u, occ1 := occ, sol1 := sol,
                      hist := min 2 (x.hist + 1) }
    let x := if valid then { x with preds := s.tmePredict z x, predicted := true } else x
    fin s x true

/-- What a zone's registers show. -/
def tmeFaces (s : State) (z : Nat) : State :=
  let x := s.tmeSt z
  let s := s.laterB .lath (fTmeStatAnom z) x.anom.isSome
  let s := s.laterB .lath (fTmeStatFb z) x.fb
  let s := s.laterB .lath (fTmeStatLeadSat z) x.leadSat
  let s := s.laterB .lath (fTmeStatLeadLatch z) x.latch.isSome
  let s := s.laterB .lath (fTmeStatCoast z) x.coast.isSome
  let s := s.laterB .lath (fTmeStatHist z) (2 ≤ x.hist)
  let s := s.laterSet .lath (fTmeStatDir z) x.dir
  let s := s.laterSet .lath (fTmeStatConf z) (f32Int (fMul (fOfInt 1000) (confOf x.ms)) / (f32One : Nat)).toNat
  let s := s.laterSet .lath (fTmeLeadSeconds z) x.lead
  let s := s.laterSet .lath (fTmeCoastTSeconds z) x.coastT
  let s := s.laterSet .lath (fTmeUpdProj z) x.proj
  s.laterSet .lath (fTmeUpdUpd z) x.upd

/-- To of the frame (R186). -/
def tmeOutdoor (s : State) : State :=
  let v := s.lathVal (s.eget fTmeOatOatPt)
  let g := s.eng.tmeG
  let g := if v.st ≠ .fault && v.st ≠ .unconfirmed then { g with toV := v.v, toOk := true, toHeld := none }
    else if !g.toOk then g
    else
      let since := g.toHeld.getD s.lath.cap
      if since + 3600000000 ≤ s.lath.cap then { g with toOk := false, toHeld := none } else { g with toHeld := some since }
  ({ s with eng := { s.eng with tmeG := g } }).laterB .lath fTmeOatHeld g.toHeld.isSome

/-- STEP_E has changed on a running model: every θ is reset and every history emptied (R189). -/
def tmeNewStep (s : State) : State :=
  let st := s.stepEOf
  if st = s.eng.tmeG.stepE then s else
  let s := { s with eng := { s.eng with tmeG := { s.eng.tmeG with stepE := st } } }
  (List.range 96).foldl (fun s z => (s.setTme z { s.resetTheta z (s.tmeSt z) with hist := 0 }).tmeCount) s

/-- One zone in frame `k`, every `f` of which the zones share out a step; `newMin` says that a minute began (R184, R197). -/
def tmeZone (s : State) (now f k : Nat) (newMin : Bool) (z : Nat) : State :=
  if !s.ebit (fZoneCfgEn z) then s else
  let x := s.tmeSt z
  let x := match x.coast with
    | some e => if e * 1000000 ≤ now then { x with coast := none, coastT := 0 } else x
    | none => x
  let s := if s.tmeOn z then
      let top := s.eget (fTmeLimitsAnomMax z)
      let (x, s) := match x.anom with
        | some t => if top ≠ 0 && t + top * 600000000 ≤ now then s.anomClear x else (x, s)
        | none => (x, s)
      let s := s.setTme z x
      if f ≠ 0 && k % f = z * f / 96 then s.tmeStep z
      else if newMin && x.hist = 0 then s.setTme z (s.tmeLead z x false) else s
    else
      let s := if x.anom.isSome then s.later .lath (.irq 0x60 0) else s
      let s := if x.fb then s else s.later .lath (.irq 0x60 1)
      let x := { x with anom := none, cand := false, fb := true, hist := 0 }
      s.setTme z (if newMin then s.tmeLead z x false else x)
  s.tmeFaces z

/-- The model steps of a lath frame, in phase 3 (R184). -/
def tmeFrame (s : State) : State :=
  let s := s.tmeOutdoor.tmeNewStep
  let now := s.lath.cap
  let f := s.eng.tmeG.stepE / s.lathPeriod
  let k := now / s.lathPeriod
  let minute := now / 60000000
  let newMin : Bool := decide (minute ≠ s.eng.tmeG.minute)
  let s := { s with eng := { s.eng with tmeG := { s.eng.tmeG with minute := minute } } }
  (List.range 96).foldl (fun s z => s.tmeZone now f k newMin z) s

/-- The accumulation of a frame, after the zone demands (R183). -/
def tmeAccumulate (s : State) (z : Nat) (heat cool : Int) (occupied : Bool) : State :=
  if !s.tmeOn z then s else
  let x := s.tmeSt z
  let u := if s.ebit (fTmeMcfgCoolOnly z) then cool else heat - cool
  s.setTme z { x with
    uAcc := fAdd x.uAcc (fOfQ u), n := x.n + 1, occN := x.occN + (if occupied then 1 else 0)
    solAcc := fAdd x.solAcc (fOfQ (s.lathVal (s.eget (fTmePtsLightPt z))).v) }

/-- FF_HEAT, FF_COOL and their status (R196). -/
def tmeFF (s : State) (z : Nat) (wHeat wCool : Int) (occupied : Bool) : Int × Int × Status :=
  let x := s.tmeSt z
  let th (i : Nat) : Nat := x.theta.getD i 0
  let t3 := th 2
  if x.fb || fLt (t3 % 2 ^ 31) (fDec 1 4) then (0, 0, .substituted)
  else
    let tOut := fOfQ s.eng.tmeG.toV
    let sol := s.solNow z
    let rest (w : Int) : Nat :=
      fAdd (fAdd (fAdd (fMul (th 0) (fSub (fOfQ w) tOut)) (fMul (th 3) (if occupied then f1 else 0))) (fMul (th 4) sol)) (th 5)
    let pct (v : Nat) : Int := fToQ (fMin (fMax v 0) (fOfInt 100))
    if s.ebit (fTmeMcfgCoolOnly z) then (0, pct (fDiv (fNeg (rest wCool)) t3), .ok)
    else (pct (fDiv (fNeg (rest wHeat)) t3), pct (fDiv (rest wCool) t3), .ok)

/-! ### Commands, records, switch (R189, R198–R203) -/

/-- The waiting commands and θ writes take effect at a lath capture edge (R201, R202). -/
def tmeTakeCmds (s : State) : State :=
  let l := s.tmeCmd
  l.foldl (fun s c =>
    let x := s.tmeSt c.1
    let x := if c.2.1 < 6 then { x with theta := x.theta.set c.2.1 c.2.2.toNat, p := s.p0I }
      else if c.2.1 = 6 then { x with p := s.p0I } else s.resetTheta c.1 x
    ((s.setTme c.1 x).irq 0x60 2).bump fTmeCountsPResets) { s with tmeCmd := [] }

/-- The record of a zone in the store, when valid (R199): θ, ms and UPD. -/
def tmeRecord (s : State) (z : Nat) : Option (List Nat × Nat × Nat) :=
  let a := 0x2F000 + 0x20 * z
  let th := (List.range 6).map (fun i => (s.storeWord (a + 4 * i)).toNat)
  let ms := (s.storeWord (a + 24)).toNat
  let w := s.storeWord (a + 28)
  let step := (divHalfUp s.stepEOf 1000000).toNat
  if bitsOf w 0 16 = step && (ms :: th).all f32Finite && thetaProject (s.ebit (fTmeMcfgCoolOnly z)) th = th
  then some (th, ms, bitsOf w 16 16) else none
/-- A zone's model starts from its record, or from THETA0 (R199). -/
def tmeLoad (s : State) (z : Nat) : State :=
  let x := s.tmeSt z
  let fresh : TmeSt := { lead := x.lead, leadSat := x.leadSat, dir := x.dir, latch := x.latch, coast := x.coast,
                         coastT := x.coastT, proj := x.proj, p := s.p0I, inUse := x.inUse }
  match s.tmeRecord z with
  | some (th, ms, upd) => s.setTme z { fresh with theta := th, ms := ms, upd := upd }
  | none => s.setTme z (s.resetTheta z fresh)
/-- Power-up: every zone's record is read (R199); each covariance reset is counted (R189). -/
def tmePowerUp (s : State) : State :=
  let s := { s with eng := { s.eng with tmeG := { s.eng.tmeG with stepE := s.stepEOf } } }
  (List.range 96).foldl (fun s z => ((s.tmeLoad z).irq 0x60 2).bump fTmeCountsPResets) s
/-- A new configuration takes over (R199, R200). -/
def tmeSwitch (s : State) : State :=
  let st := s.stepEOf
  let changed := st ≠ s.eng.tmeG.stepE
  let s := { s with eng := { s.eng with tmeG := { s.eng.tmeG with stepE := st } } }
  (List.range 96).foldl (fun s z =>
    let on := s.bit (fTmeMcfgEn z)
    let x := s.tmeSt z
    let s := if changed then ((s.tmeLoad z).irq 0x60 2).bump fTmeCountsPResets
      else if on && !x.inUse then s.tmeLoad z else s
    let x := s.tmeSt z
    if x.inUse = on then s else s.setTme z { x with inUse := on }) s

/-- The 3072 bytes of the daily snapshot (R198). -/
def tmeSnapshot (s : State) : List Byte :=
  let step := (divHalfUp s.eng.tmeG.stepE 1000000).toNat
  (List.range 96).flatMap (fun z =>
    let x := s.tmeSt z
    (List.range 6).flatMap (fun i => leBytes 4 (x.theta.getD i 0)) ++ leBytes 4 x.ms ++ leBytes 2 step ++ leBytes 2 x.upd)

/-- A word of the model state window (R202). -/
def tmeRead (s : State) (off : Nat) : Word :=
  let z := off / 0x200
  let o := off % 0x200
  let x := s.tmeSt z
  let w (v : Nat) : Word := BitVec.ofNat 32 v
  let sec (m : Map (Option Nat)) (hi : Bool) : Word :=
    let v := (Map.look (fun _ => none) m z).getD 0
    w (if hi then v / 2 ^ 32 else v)
  if 96 ≤ z then 0#32
  else if o < 0x18 then w (x.theta.getD (o / 4) 0)
  else if 0x20 ≤ o && o < 0x74 then w (x.p.getD ((o - 0x20) / 4) 0)
  else if 0x90 ≤ o && o < 0xA0 then w (x.preds.getD ((o - 0x90) / 4) 0)
  else match o with
    | 0x18 => w x.ms | 0x1C => w x.lastE | 0x74 => w (triTrace x.p) | 0x78 => w x.ta1 | 0x7C => w x.ta2
    | 0x80 => w x.to1 | 0x84 => w x.u1 | 0x88 => w x.occ1 | 0x8C => w x.sol1
    | 0xA0 => sec s.eng.sch.nextS false | 0xA4 => sec s.eng.sch.nextS true
    | 0xA8 => sec s.eng.sch.nextE false | 0xAC => sec s.eng.sch.nextE true
    | _ => 0#32

/-- R203: the first zone whose model is refused. -/
def tmeBadRef (s : State) (entry isLocal : Nat → Bool) (unit : Nat → Nat) : Option Nat :=
  (List.range 96).find? (fun z => s.bit (fTmeMcfgEn z) && s.en 0x60 &&
    (!entry (s.get fTmeOatOatPt) || unit (s.get fTmeOatOatPt) ≠ 1 || !s.bit (fZoneCfgEn z)
      || (s.bit (fTmeMcfgSolSrc z) && unit (s.get (fTmePtsLightPt z)) ≠ 0x0E)
      || (s.bit (fTmePtsPub z) && (List.range 7).any (fun i => !isLocal (s.get (fTmePtsBase z) + i)))))

/-- BLK_ERR cause of a refused TME write (R203). `s` supplies the other words of a condition. -/
def tmeRefuse (s : State) (off : Nat) (w : Word) : Option Nat :=
  let v := w.toNat
  let inR (lo hi : Nat) : Bool := fLe lo v && fLe v hi
  if off = 0x20 then
    if 23 < bitsOf w 24 5 || bitsOf w 0 10 < 60 || 900 < bitsOf w 0 10 then some 0x40 else none
  else if off = 0x24 then (if inR (fDec 990 3) (fDec 9999 4) then none else some 0x41)
  else if off = 0x28 then
    (if fLt 0 v && fLt (fMul (fOfInt 6) v) (s.word rTmePmax).toNat then none else some 0x41)
  else if off = 0x2C then (if fLt (fMul (fOfInt 6) (s.word rTmeP0).toNat) v then none else some 0x41)
  else if off = 0x34 then (if inR (fOfInt (-90)) (fOfInt 90) then none else some 0x42)
  else if off = 0x38 then (if inR (fOfInt (-180)) (fOfInt 180) then none else some 0x42)
  else if 0x3C ≤ off && off < 0x54 then
    (if f32Nan v || thetaClamp false ((off - 0x3C) / 4) v ≠ v then some 0x41 else none)
  else if 0x60 ≤ off && off < 0x80 then
    let j := (off - 0x60) / 4 % 4
    let tOut (i : Nat) : Int :=
      if i = j then signedOf 16 (bitsOf w 16 16)
      else if off < 0x70 then s.geti (fTmeFbHeatTo i) else s.geti (fTmeFbCoolTo i)
    if (List.range 3).all (fun i => tOut i < tOut (i + 1)) then none else some 0x43
  else if 0x100 ≤ off && off < 0xD00 then
    if off % 0x20 = 0 then (if 0x8000 < bitsOf w 0 16 then some 0x42 else none)
    else if off % 0x20 = 8 then (if bitsOf w 8 8 < 10 || bitsOf w 0 8 < 10 then some 0x44 else none)
    else none
  else none

end State
end Sys2Proof.Machine
end

