-- ==== Sys2Proof/Machine/Zone.lean ====
section
/-! DEFINITION. Zones and fens (R153–R166, R181, R522): mode arrays, evaluation in phase 3, demands and fens in phase 6.
Mode codes: 0 OFF, 1 PROTECT, 2 ECONOMY, 3 PRECOMFORT, 4 COMFORT. -/
set_option Elab.async false
namespace Sys2Proof.Machine
namespace State

def zoneOn (s : State) (z : Nat) : Bool := s.ebit (fZoneCfgEn z)
def zoneSt (s : State) (z : Nat) : ZoneSt := Map.look (fun _ => {}) s.eng.zone z
def setZone (s : State) (z : Nat) (x : ZoneSt) : State :=
  { s with eng := { s.eng with zone := Map.put (fun _ => {}) s.eng.zone z x } }

/-! ### Mode arrays (R154–R156, R165) -/

def zmLevel (s : State) (z k : Nat) : Option Nat := Map.look (fun _ => none) s.eng.zm (8 * z + k)
/-- MODE_ARR of a zone. -/
def zmFace (s : State) (z : Nat) : State :=
  s.set (fZoneModeArrLvl z) ((List.range 7).foldl (fun m k => m + ((s.zmLevel z (k + 1)).getD 15) * 16 ^ k) 0)
def zmFaces (s : State) : State := (List.range 96).foldl zmFace s
/-- The zones of a fen. -/
def fenZones (s : State) (f : Nat) : List Nat := (List.range 96).filter (fun z => s.ebit ⟨rZoneFens z, f, 1⟩)
def applyZm (s : State) (w : ZmWrite) : State :=
  if w.fen then (s.fenZones w.idx).foldl (fun s z => s.setZm z w.lv w.v) s else s.setZm w.idx w.lv w.v
/-- Host and fabric writes take effect at a lath capture edge, in the order they completed. -/
def takeHostZm (s : State) : State :=
  (s.hostZm.foldl applyZm { s with hostZm := [] }).zmFaces
/-- Writes of PRIORITY_WRITE blocks take effect at the commit edge, for phase 3 of the next frame. -/
def commitZm (s : State) : State := (s.stZ.foldl applyZm { s with stZ := [] }).zmFaces
/-- A MODE_WR word: level and mode, `none` to relinquish (R154). -/
def modeWr (w : Word) : Nat × Option Nat := (bitsOf w 8 3, if bitAt w 31 then none else some (bitsOf w 0 3))
/-- MEMB of every fen follows FENS. -/
def fenMembers (s : State) : State :=
  (List.range 32).foldl (fun s f => (List.range 3).foldl (fun s w =>
    s.set (fZoneMembZone f w) ((List.range 32).foldl (fun m i =>
      if s.bit ⟨rZoneFens (32 * w + i), f, 1⟩ then m + 2 ^ i else m) 0)) s) s

/-! ### Phase 3 (R157–R162) -/

/-- The arbitrated mode and its level (R155). -/
def zoneArb (s : State) (z : Nat) : Nat × Nat :=
  match (List.range 7).findSome? (fun k => (s.zmLevel z (k + 1)).map (fun m => (m, k + 1))) with
  | some p => p
  | none => (s.eget (fZoneCfgDefMode z), 0)
/-- The occupancy adjustment of R157. -/
def zoneAdjust (s : State) (z m lvl occ : Nat) : Nat × Bool :=
  if !s.ebit (fZoneCfgOccEn z) || !(lvl = 0 || 6 ≤ lvl) then (m, false)
  else if m = 4 && occ = 0 then (s.eget (fZoneCfgUnoccMode z), true)
  else if m = 4 && occ = 1 then (3, true)
  else if s.ebit (fZoneCfgOccRaise z) && occ = 2 && (m = 2 || m = 3) then (4, true)
  else (m, false)
/-- The window contact (R158): open since when, and WIN_FLT. -/
def zoneContact (s : State) (z : Nat) (x : ZoneSt) : Option Nat × Bool :=
  if !s.ebit (fZoneWinSrcWinEn z) then (none, false) else
  let v := s.lathVal (s.eget (fZoneWinSrcWinPt z))
  if v.st = .fault || v.st = .unconfirmed then (none, true)
  else if (v.v ≠ 0) ≠ s.ebit (fZoneWinSrcWinInv z) then (some (x.openSince.getD s.lath.cap), false)
  else (none, false)
/-- 0.01 °C to Q16.16. -/
def centi (v : Int) : Int := divHalfUp (v * 65536) 100
/-- The point of q, EFF_MODE and occupancy of a zone (R162); `stale` while its page is off (R181). -/
def zonePub (s : State) (z : Nat) (x : ZoneSt) (qs : List Nat) (stale : Bool) : State :=
  if !s.ebit (fZonePtBasePub z) then s else
  let b := s.eget (fZonePtBaseBase z)
  qs.foldl (fun s q =>
    let (v, st) : Int × Status := if q = 8 then ((x.eff : Int) * 65536, .ok) else if q = 9 then ((x.occ : Int) * 65536, .ok)
      else x.q.getD q (0, .unconfirmed)
    s.produce .lath (b + q) { v := v, st := if stale then .stale else st, ts := s.lath.cap }) s
/-- Make the quantities of a zone readable by handle. -/
def zoneHandles (s : State) (z : Nat) (x : ZoneSt) (qs : List Nat) : State :=
  qs.foldl (fun s q =>
    let (v, st) := x.q.getD q (0, .unconfirmed)
    s.produce .lath (0x7800 + 8 * z + q) { v := v, st := st, ts := s.lath.cap }) s

/-- One enabled zone in phase 3. -/
def zoneEval (s : State) (z : Nat) : State :=
  let old := s.zoneSt z
  if !s.enAck (0x20 + z / 6) then s.zonePub z old [0, 1, 2, 6, 7, 8, 9] true else
  let occ := s.occOf z
  let (arb, lvl) := s.zoneArb z
  let (m, adj) := s.zoneAdjust z arb lvl occ
  let (openSince, winFlt) := s.zoneContact z old
  let contact : Bool := match openSince with
    | some t => decide (t + 1000000 * s.eget (fZoneWinSrcWinDly z) ≤ s.lath.cap)
    | none => false
  let anom := (s.tmeSt z).anom.isSome
  let win := (if contact then 1 else 0) + (if anom then 2 else 0)
  let m := if win ≠ 0 then 1 else m
  let row := if m = 0 then 0 else m - 1
  let shEn := s.ebit (fZoneTaSrcShiftEn z)
  let sv := s.lathVal (s.eget (fZoneTaSrcShiftPt z))
  let shBad := sv.st = .fault || sv.st = .unconfirmed
  let top := divHalfUp ((s.eget (fZoneCfgShiftMax z) : Int) * 65536) 10
  let shift := if m = 3 || m = 4 then clampI (-top) top (if shEn && !shBad then sv.v else 0) else 0
  let wh := sat32 (centi (s.egeti (fZoneSpHeat z row)) + shift)
  let wc := sat32 (centi (s.egeti (fZoneSpCool z row)) + shift)
  let ta := s.lathVal (s.eget (fZoneTaSrcTaPt z))
  let (fh, fc, fst) := s.tmeFF z wh wc (occ = 2)
  let dem (q : Nat) : Int × Status := old.q.getD q (0, .ok)
  let x : ZoneSt := { eff := m, occ := occ, openSince := openSince, win := win,
                      shiftFlt := shEn && shBad,
                      q := [(wh, .ok), (wc, .ok), (ta.v, ta.st), dem 3, dem 4, dem 5, (fh, fst), (fc, fst)] }
  let s := s.setZone z x
  let s := s.zoneHandles z x [0, 1, 2, 6, 7]
  let s := s.zonePub z x [0, 1, 2, 6, 7, 8, 9] false
  let s := s.laterB .lath (fZoneStatShiftFlt z) x.shiftFlt
  let s := s.laterB .lath (fZoneStatWinFlt z) winFlt
  let s := s.laterB .lath (fZoneStatTaFlt z) (ta.st = .fault)
  let s := s.laterSet .lath (fZoneStatWin z) win
  let s := s.laterB .lath (fZoneStatOccAdj z) adj
  let s := s.laterSet .lath (fZoneStatArbLvl z) lvl
  let s := s.laterSet .lath (fZoneStatArbMode z) arb
  let s := s.laterSet .lath (fZoneStatEffMode z) m
  let s := s.laterSet .lath (fZoneStatOcc z) occ
  let s := s.laterSeti .lath (fZoneValValue z 0) wh
  let s := s.laterSeti .lath (fZoneValValue z 1) wc
  let s := s.laterSeti .lath (fZoneValValue z 2) ta.v
  let s := s.laterSeti .lath (fZoneValValue z 3) shift
  let s := if old.eff = m then s else s.later .lath (.irq (0x20 + z / 6) (z % 6))
  if (old.win ≠ 0) = (win ≠ 0) then s else s.later .lath (.irq (0x20 + z / 6) (8 + z % 6))

/-- The registers every ZONE page shows alike. -/
def zoneSums (s : State) : State :=
  let on := (List.range 96).filter (fun z => s.zoneOn z)
  let cnt (m : Nat) : Nat := (on.filter (fun z => (s.zoneSt z).eff = m)).length
  let win (w : Nat) : Nat := (List.range 32).foldl (fun m i =>
    if s.zoneOn (32 * w + i) && (s.zoneSt (32 * w + i)).win ≠ 0 then m + 2 ^ i else m) 0
  (List.range 16).foldl (fun s p =>
    let s := s.laterSet .lath (fZoneSumNComfort p) (cnt 4)
    let s := s.laterSet .lath (fZoneSumNPrecomfort p) (cnt 3)
    let s := s.laterSet .lath (fZoneSumNEconomy p) (cnt 2)
    let s := s.laterSet .lath (fZoneSumNProtect p) (cnt 1)
    (List.range 3).foldl (fun s w => s.laterSet .lath (fZoneWinZone p w) (win w)) s) s

def zoneFrame (s : State) : State :=
  ((List.range 96).foldl (fun s z => if s.zoneOn z then s.zoneEval z else s) s).zoneSums

/-! ### Phase 6 (R163, R166) -/

/-- A loop's contribution to a demand, Q16.16 %. -/
def contribution (s : State) (k : Nat) : Int × Status :=
  let u := s.lathVal (0x7000 + k)
  let lo := s.egeti (fLoopOutMinValue k)
  let hi := s.egeti (fLoopOutMaxValue k)
  (if lo < hi then clampI 0 (100 * 65536) (divHalfUp (100 * 65536 * (u.v - lo)) (hi - lo)) else 0, u.st)
def worstSt (l : List (Int × Status)) : Status := worstOf (l.map Prod.snd)
def largest (l : List (Int × Status)) : Int := (l.map Prod.fst).foldl max 0
/-- Demand of a role (1 HEAT, 2 COOL, 3 AIR) of a zone. -/
def roleDemand (s : State) (z role : Nat) : Int × Status :=
  let l := ((s.zoneSlots z).filter (fun p => p.2 = role)).map (fun p => s.contribution p.1)
  (largest l, worstSt l)
def zoneDemand (s : State) (z : Nat) : State :=
  let x := s.zoneSt z
  if !s.enAck (0x20 + z / 6) then s.zonePub z x [3, 4, 5] true else
  let zero : Int × Status := (0, .ok)
  let h := if x.eff = 0 then zero else s.roleDemand z 1
  let c := if x.eff = 0 then zero else s.roleDemand z 2
  let a := if x.eff = 0 then zero
    else if s.namesRole z 3 then s.roleDemand z 3 else (max h.1 c.1, worst h.2 c.2)
  let x := { x with q := ((x.q.set 3 h).set 4 c).set 5 a }
  let s := s.setZone z x
  let s := s.zoneHandles z x [3, 4, 5]
  let s := s.zonePub z x [3, 4, 5] false
  let s := s.laterSeti .lath (fZoneValValue z 4) h.1
  let s := s.laterSeti .lath (fZoneValValue z 5) c.1
  let s := s.laterSeti .lath (fZoneValValue z 6) a.1
  s.tmeAccumulate z h.1 c.1 (x.occ = 2)

/-- The demands of a fen (R166, R522): MAX_HEAT, MAX_COOL, MAX_AIR, AVG_HEAT, AVG_COOL, AVG_AIR with statuses. -/
def fenDemands (s : State) (f : Nat) : List (Int × Status) :=
  let mem := (s.fenZones f).filter (fun z => s.zoneOn z)
  let on := mem.filter (fun z => (s.zoneSt z).eff ≠ 0)
  let q (zs : List Nat) (i : Nat) : List (Int × Status) := zs.map (fun z => (s.zoneSt z).q.getD (3 + i) (0, .ok))
  ((List.range 3).map (fun i => (largest (q mem i), worstSt (q mem i)))) ++
  ((List.range 3).map (fun i =>
    let l := q on i
    (if l.isEmpty then 0 else divHalfUp ((l.map Prod.fst).foldl (· + ·) 0) (l.length : Int), worstSt l)))
def fenEval (s : State) (f : Nat) : State :=
  let mem := (s.fenZones f).filter (fun z => s.zoneOn z)
  if mem.isEmpty then s else
  let d := s.fenDemands f
  let thr := (s.eget (fZoneFencfgCallThr f) : Int) * 65536
  let nOn := (mem.filter (fun z => (s.zoneSt z).eff ≠ 0)).length
  let nOcc := (mem.filter (fun z => s.occOf z = 2)).length
  let calls (z : Nat) : Bool := [3, 4, 5].any (fun i => thr ≤ ((s.zoneSt z).q.getD i (0, .ok)).1)
  let nCall := (mem.filter calls).length
  let s := ((List.range 6).zip d).foldl (fun s p => s.laterSeti .lath (fZoneFenvalValue f p.1) p.2.1) s
  let s := s.laterSet .lath (fZoneCountNCall f) nCall
  let s := s.laterSet .lath (fZoneCountNOcc f) nOcc
  let s := s.laterSet .lath (fZoneCountNOn f) nOn
  if !s.ebit (fZoneFencfgPub f) then s else
  let b := s.eget (fZoneFencfgPtBase f)
  let all := worstSt (mem.flatMap (fun z => [3, 4, 5].map (fun i => (s.zoneSt z).q.getD i (0, .ok))))
  let vs := d ++ [((nOcc : Int) * 65536, Status.ok), ((nCall : Int) * 65536, all)]
  ((List.range 8).zip vs).foldl (fun s p => s.produce .lath (b + p.1) { v := p.2.1, st := p.2.2, ts := s.lath.cap }) s

def demandFrame (s : State) : State :=
  let s := (List.range 96).foldl (fun s z => if s.zoneOn z then s.zoneDemand z else s) s
  (List.range 32).foldl fenEval s

/-! ### Checks (R153, R160, R162, R164, R522) -/

/-- The first zone refused: TA_PT's unit, its published points, or its loop slots. `ownPt` says that a point is local and
that no other engine writes it. -/
def zoneBadRef (s : State) (unit : Nat → Nat) (ownPt : Nat → Bool) : Option Nat :=
  let named (z : Nat) : List Nat := ((s.zoneSlots z).filter (fun p => p.2 ≠ 0)).map Prod.fst
  let bad (z : Nat) : Bool :=
    (s.bit (fZoneCfgEn z) && unit (s.get (fZoneTaSrcTaPt z)) ≠ 1)
      || (s.bit (fZoneCfgEn z) && s.bit (fZonePtBasePub z) && (List.range 10).any (fun i => !ownPt (s.get (fZonePtBaseBase z) + i)))
      || (s.zoneSlots z).any (fun p => s.get (fLoopCfgType p.1) = 0)
      || (named z).any (fun k => (List.range z).any (fun y => (named y).contains k))
  match (List.range 96).find? bad with
  | some z => some z
  | none => ((List.range 32).find? (fun f => s.bit (fZoneFencfgPub f)
      && (List.range 8).any (fun i => !ownPt (s.get (fZoneFencfgPtBase f) + i)))).map (fun f => 96 + f)

/-- BLK_ERR cause of a refused ZONE write (R154, R158, R160, R165, R181). -/
def zoneRefuse (off : Nat) (w : Word) : Option Nat :=
  let mode : Option Nat := if bitsOf w 8 3 = 0 || (!bitAt w 31 && 5 ≤ bitsOf w 0 3) then some 0x42 else none
  if 0x100 ≤ off && off < 0xD00 then
    let o := (off - 0x100) % 0x200
    if o = 0 then
      if (bitsOf w 20 3 ≠ 2 && bitsOf w 20 3 ≠ 3) || 5 ≤ bitsOf w 16 3 then some 0x42
      else if 30 < bitsOf w 0 8 then some 0x41 else none
    else if o = 8 then (if 600 < bitsOf w 16 10 then some 0x41 else none)
    else if 0x24 ≤ o && o < 0x34 then
      let c := signedOf 16 (bitsOf w 16 16)
      let h := signedOf 16 (bitsOf w 0 16)
      if c < -4000 || 8000 < c || h < -4000 || 8000 < h then some 0x41
      else if c - h < 50 then some 0x40 else none
    else if o = 0x34 then mode else none
  else if 0xD00 ≤ off && off < 0xF00 then
    let o := (off - 0xD00) % 0x100
    if o = 0 then (if bitsOf w 16 8 < 1 || 100 < bitsOf w 16 8 then some 0x41 else none)
    else if o = 4 then mode else none
  else none

end State
end Sys2Proof.Machine
end

