-- ==== Sys2Proof/Machine/Loop.lean ====
section
/-! DEFINITION. The loop engine (R167–R182, R519, R520): order, states, the PID law, ONOFF, STEP3 and SEQ. -/
set_option Elab.async false
namespace Sys2Proof.Machine

/-! ### Evaluation order (R170, R213) -/

/-- Take the lowest-numbered node whose dependencies are placed, as often as there is one. Answers the order and what is
left. -/
def topo (deps : Nat → List Nat) : Nat → List Nat → List Nat → List Nat × List Nat
  | 0, left, done => (done, left)
  | n + 1, left, done =>
    match left.find? (fun k => (deps k).all (fun d => !left.contains d)) with
    | some k => topo deps n (left.filter (fun j => j ≠ k)) (done ++ [k])
    | none => (done, left)
/-- Nodes reached from a set over dependencies inside `within`. -/
def reach (deps : Nat → List Nat) (within : List Nat) : Nat → List Nat → List Nat
  | 0, l => l
  | n + 1, l =>
    let new := (within.filter (fun k => !l.contains k && l.any (fun j => (deps j).contains k)))
    if new.isEmpty then l else reach deps within n (l ++ new)
/-- The lowest-numbered node on a cycle among the nodes left over. -/
def onCycle (deps : Nat → List Nat) (left : List Nat) : Option Nat :=
  left.find? (fun k => (reach deps left left.length ((deps k).filter (fun d => left.contains d))).contains k)

/-! ### Coefficients (R171) -/

def sat48 (v : Int) : Int := clampI 0 (2 ^ 48 - 1) v
def satI (v : Int) : Int := clampI (-(2 ^ 79)) (2 ^ 79 - 1) v
/-- ki, kt, ad, bd in Q16.32 from the Q16.16 parameters; `ts` in µs. -/
def loopCoef (kp ti td tt n ts : Int) : Int × Int × Int × Int :=
  let tt := if 0 < tt then tt else ti
  let den := td * 1000000 + n * ts * 65536
  (if 0 < ti then sat48 (divHalfUp (kp * ts * 2 ^ 32) (ti * 1000000)) else 0,
   if 0 < tt then min (2 ^ 32) (divHalfUp (ts * 65536 * 2 ^ 32) (tt * 1000000)) else 0,
   if 0 < td then sat48 (divHalfUp (td * 1000000 * 2 ^ 32) den) else 0,
   if 0 < td then sat48 (divHalfUp (kp * td * n * 1000000 * 65536) den) else 0)

namespace State

def loopSt (s : State) (k : Nat) : LoopSt := Map.look (fun _ => {}) s.eng.loop k
def setLoop (s : State) (k : Nat) (x : LoopSt) : State :=
  { s with eng := { s.eng with loop := Map.put (fun _ => {}) s.eng.loop k x } }

/-- A source by handle (R168): 0xFFFF is none. -/
def srcOf (s : State) (r : Rate) (h : Nat) : Val := if h = 0xFFFF then { v := 0, st := .ok } else s.readVal r h
def badSt (st : Status) : Bool := st = .fault || st = .unconfirmed
/-- The inner loop that W_SRC names, once an evaluation of it is visible (R173, R176). -/
def innerLoop (s : State) (r : Rate) (k h : Nat) : Option LoopSt :=
  if h < 0x7000 || 0x7200 ≤ h then none else
  let x := s.loopSt (h - 0x7000)
  let same := x.skim = (s.loopSt k).skim
  -- a loop of the other rate shows as it was committed at the capture edge
  let x := if same then x else match r with
    | .lath => Map.look (fun _ => {}) s.engL.loop (h - 0x7000)
    | .skim => Map.look (fun _ => {}) s.engL.loop (h - 0x7000)
  if x.evaluated then some x else none
/-- A zone names the loop with a role and its EFF_MODE is OFF (R173). -/
def loopZoneOff (s : State) (r : Rate) (k : Nat) : Bool :=
  (List.range 96).any (fun z => s.zoneOn z
    && (match r with | .lath => (s.zoneSt z).eff | .skim => s.get (fZoneStatEffMode z)) = 0
    && (s.zoneSlots z).any (fun p => p.1 = k && p.2 ≠ 0))
/-- The output a binding names (R180). -/
def bindOut (w : Word) : Option Nat :=
  match bitsOf w 30 2 with
  | 1 => if bitsOf w 0 8 < 96 then some (bitsOf w 0 8) else none
  | 2 => if bitsOf w 0 8 < 24 then some (96 + bitsOf w 0 8) else none
  | _ => none
def loopTarget (x : LoopSt) : Option Nat := if x.typ = 5 then none else bindOut (x.bind.getD 0 0)
/-- Initial value of a target (R175). -/
def targetInit (s : State) (o : Nat) : Int :=
  if o < 96 then s.egeti (fUchInitValue o) else s.egeti (fFanDrvinitValue (o - 96))

/-- The state of R173. -/
def loopState (s : State) (r : Rate) (k : Nat) (x : LoopSt) (inner : Option LoopSt) (wst yst : Status) : Nat :=
  let en := s.srcOf r (s.eget (fLoopSrcBEnSrc k))
  let enabled := s.eget (fLoopSrcBEnSrc k) = 0xFFFF || (en.v ≠ 0 && !badSt en.st)
  if !enabled || !s.enAck (0x40 + k / 16) then 6
  else if s.ebit (fLoopCfgMan k) then 2
  else if s.loopZoneOff r k then 5
  else if badSt wst || badSt yst then 7
  else if x.typ = 5 then 1
  else if ((loopTarget x).map (fun o => decide ((s.capAt r o).win < 5))).getD false then 3
  else if (inner.map (fun i => decide (i.state ≠ 1))).getD false then 4
  else 1

/-- The positioner of R178. -/
def step3 (x : LoopSt) (u db : Int) : LoopSt :=
  let p100 : Int := 6553600
  if x.sync then
    if x.p ≤ -3276800 then { x with p := 0, sync := false, cmd := 0 } else { x with cmd := -1 }
  else if (p100 ≤ u && x.p < p100) || x.endOpen then
    if 9830400 ≤ x.p then { x with p := p100, cmd := 0, endOpen := false } else { x with cmd := 1, endOpen := true }
  else if (u ≤ 0 && 0 < x.p) || x.endClose then
    if x.p ≤ -3276800 then { x with p := 0, cmd := 0, endClose := false } else { x with cmd := -1, endClose := true }
  else
    let d := u - x.p
    if x.cmd = 0 && db ≤ d then { x with cmd := 1 }
    else if x.cmd = 0 && d ≤ -db then { x with cmd := -1 }
    else if x.cmd = 1 && d ≤ 0 then { x with cmd := 0 }
    else if x.cmd = -1 && 0 ≤ d then { x with cmd := 0 }
    else x

/-- The PID law of R171. -/
def pidLaw (s : State) (k : Nat) (ts : Nat) (x : LoopSt) (w y ff : Int) (reinit : Bool) (uref : Int) (hold : Bool) : LoopSt :=
  let kp := s.egeti (fLoopKpValue k)
  let td := if x.typ = 1 then s.egeti (fLoopTdValue k) else 0
  let lo := s.egeti (fLoopOutMinValue k)
  let hi := s.egeti (fLoopOutMaxValue k)
  let e := sat32 (w - y)
  let p := sat32 (divHalfUp (kp * sat32 (sat32 (divHalfUp (s.egeti (fLoopBValue k) * w) 65536) - y)) 65536)
  let x := if reinit then { x with d := 0, yPrev := y, i := satI ((uref - p - ff) * 2 ^ 32) }
    else
      let (ki, kt, ad, bd) := loopCoef kp (s.egeti (fLoopTiValue k)) td (s.egeti (fLoopTtValue k))
        (s.eget (fLoopNValue k)) ts
      let d := sat32 (divHalfUp (ad * x.d) (2 ^ 32) - divHalfUp (bd * sat32 (y - x.yPrev)) (2 ^ 32))
      let inc := kt * (x.uSat - x.uRaw) + (if hold then 0 else ki * e)
      { x with d := d, yPrev := y, i := satI (x.i + inc) }
  let u := sat32 (p + x.i / 2 ^ 32 + x.d + ff)
  { x with uRaw := u, uSat := clampI lo hi u }

/-- The ONOFF law of R177. -/
def onOffLaw (s : State) (r : Rate) (k : Nat) (x : LoopSt) (w y : Int) (reinit : Bool) (uref : Int) (auto : Bool) : LoopSt :=
  let lo := s.egeti (fLoopOutMinValue k)
  let hi := s.egeti (fLoopOutMaxValue k)
  let now := s.frameTs r
  let x := if reinit then { x with s := lo + hi ≤ 2 * uref, sAt := now }
    else if !auto then x
    else
      let e := sat32 (w - y)
      let hys := s.egeti (fLoopAux0Value k)
      let aux := s.inForce (rLoopAux k 0)
      if !x.s && hys ≤ 2 * e && x.sAt + 1000000 * bitsOf aux 0 16 ≤ now then { x with s := true, sAt := now }
      else if x.s && 2 * e ≤ -hys && x.sAt + 1000000 * bitsOf aux 16 16 ≤ now then { x with s := false, sAt := now }
      else x
  let u := if x.s then hi else lo
  { x with uRaw := u, uSat := u }

/-- AUX_i of a loop as a word. -/
def loopAux (s : State) (k i : Nat) : Word := if i = 0 then s.inForce (rLoopAux0 k) else s.inForce (rLoopAux k (i - 1))
/-- OUT_MIN + f_i × (OUT_MAX − OUT_MIN) (R179). -/
def seqRamp (x : Int) (aux : Word) (lo hi : Int) : Int :=
  let h : Int := bitsOf aux 16 16 * 65536
  let l : Int := bitsOf aux 0 16 * 65536
  let v := x * 100
  if h = l then (if l ≤ v then hi else lo)
  else
    let den := h - l
    let num := if 0 < den then clampI 0 den (v - l) else -(clampI 0 (-den) (l - v))
    if 0 < den then lo + divHalfUp (num * (hi - lo)) den else lo + divHalfUp (-num * (hi - lo)) (-den)

/-- A SEQ loop (R179): its x, and the levels it writes. -/
def seqEval (s : State) (r : Rate) (k : Nat) (x : LoopSt) (state : Nat) (st : Status) : LoopSt × State :=
  let lo := s.egeti (fLoopOutMinValue k)
  let hi := s.egeti (fLoopOutMaxValue k)
  let onFlt := s.eget (fLoopCfgOnFlt k)
  let v := match state with
    | 2 => s.egeti (fLoopManValValue k)
    | 5 => 0
    | 7 => if onFlt = 1 then 0 else if onFlt = 2 then 6553600 else x.x
    | _ => clampI 0 6553600 x.y
  let st : Status := match state with | 2 => .overridden | 5 => .ok | 7 => .fault | _ => st
  let s := (List.range 4).foldl (fun s i =>
    match bindOut (x.bind.getD i 0) with
    | none => s
    | some o =>
      let out : Option Int := if state = 7 && onFlt = 3 then none
        else if state = 5 then some lo else some (seqRamp v (s.loopAux k i) lo hi)
      s.stage r { out := o, lv := 5, v := out }) s
  ({ x with x := v, u := v, uRaw := v, uSat := v, st := st, state := state }, s)

/-- What a loop shows after its evaluation from the state `old` (R170): its output as a value, its state, its faces. -/
def loopFinish (s : State) (r : Rate) (k : Nat) (old x : LoopSt) : State :=
  let s := s.setLoop k x
  let v : Val := { v := x.u, st := x.st, ts := s.frameTs r }
  let s := s.produce r (0x7000 + k) v
  let s := if s.ebit (fLoopOutPtPub k) then s.produce r (s.eget (fLoopOutPtPoint k)) v else s
  let s := if (old.state = 7) = (x.state = 7) then s
    else if x.state = 7 then (s.later r (.irq (0x40 + k / 16) (k % 16))).later r (.raise 0x7001 k .minor)
    else (s.later r (.irq (0x40 + k / 16) (k % 16))).later r (.clear 0x7001 k)
  let s := s.laterB r ⟨rLoopFlt (k / 16), k % 16, 1⟩ (x.state = 7)
  let ih := x.i / 2 ^ 32
  let s := s.laterSeti r (fLoopUValue k) x.u
  let s := s.laterSeti r (fLoopWValue k) x.w
  let s := s.laterSeti r (fLoopYValue k) x.y
  let s := s.laterSeti r (fLoopILoValue k) ih
  let s := s.laterSeti r (fLoopIHiValue k) (ih / 2 ^ 32)
  let s := s.laterSeti r (fLoopDValue k) x.d
  let s := s.laterSeti r (fLoopYPrevValue k) (if x.typ = 4 then x.p else x.yPrev)
  let s := s.laterSet r (fLoopStatStatus k) x.st.code
  let s := s.laterSet r (fLoopStatState k) x.state
  let s := s.laterB r (fLoopStatSatHi k) (x.uSat < x.uRaw)
  let s := s.laterB r (fLoopStatSatLo k) (x.uRaw < x.uSat)
  let s := s.laterB r (fLoopStatReinit k) x.reinit
  let s := s.laterB r (fLoopStatCasHold k) x.cas
  let s := s.laterSet r (fLoopStatDrive k) (if x.cmd = 1 then 1 else if x.cmd = -1 then 2 else 0)
  let s := s.laterB r (fLoopStatSync k) (x.typ = 4 && x.sync)
  s.laterB r (fLoopStatS k) x.s

/-- Evaluation of loop `k` in a frame of its rate (R171–R179). -/
def loopEval (s : State) (r : Rate) (k : Nat) : State :=
  let old := s.loopSt k
  let wh := s.eget (fLoopSrcAWSrc k)
  let w : Val := if wh = 0xFFFF then { v := s.egeti (fLoopWConstValue k), st := .ok } else s.readVal r wh
  let y := s.srcOf r (s.eget (fLoopSrcAYSrc k))
  let f := s.srcOf r (s.eget (fLoopSrcBFfSrc k))
  let ff := if badSt f.st then 0 else f.v
  let dir := s.ebit (fLoopCfgDir k)
  let wl := if dir then sat32 (-w.v) else w.v
  let yl := if dir then sat32 (-y.v) else y.v
  let ts : Nat := match r with | .lath => s.lathPeriod | .skim => s.skimPeriod
  let inner := s.innerLoop r k wh
  let lo := s.egeti (fLoopOutMinValue k)
  let hi := s.egeti (fLoopOutMaxValue k)
  let onFlt := s.eget (fLoopCfgOnFlt k)
  let target := loopTarget old
  let x := { old with w := w.v, y := y.v, reinit := false, cas := false, evaluated := true }
  -- R178: p counts the on time of each half since the last capture
  let x := match x.typ, target with
    | 4, some o =>
      let c := s.capAt r o
      let run : Int := s.eget (fUchParamFreq o)
      let t : Int := ((c.onOpen - x.onOpen : Nat) : Int) - ((c.onClose - x.onClose : Nat) : Int)
      let p := if !x.seen then x.p
        else if run = 0 then Config.freeInt 4 [x.p, t]
        else sat32 (x.p + divHalfUp (100 * 65536 * t) (run * 100000))
      { x with p := p, onOpen := c.onOpen, onClose := c.onClose, seen := true }
    | _, _ => x
  let state := s.loopState r k x inner w.st y.st
  let manV := s.egeti (fLoopManValValue k)
  let outs := if x.typ = 5 then (List.range 4).filterMap (fun i => bindOut (x.bind.getD i 0)) else target.toList
  if state = 6 then
    let s := outs.foldl (fun s o => s.stage r { out := o, lv := 5, v := none }) s
    s.loopFinish r k old { x with state := 6, st := .stale }
  else if x.typ = 5 then
    let (x, s) := s.seqEval r k x state (worstOf [w.st, y.st, f.st])
    s.loopFinish r k old x
  else
    let fval := match onFlt with | 1 => lo | 2 => hi | _ => old.u
    let again := old.state = 2 || old.state = 5 || old.state = 7 || old.state = 3 || old.state = 4 || old.state = 6
      || x.sw || x.par
    let (reinit, uref) : Bool × Int :=
      match state with
      | 2 => (true, manV)
      | 5 => (true, lo)
      | 7 => (true, fval)
      | 3 => (true, if x.typ = 4 then x.p else match target with | some o => (s.capAt r o).out | none => 0)
      | 4 => (true, match inner with | some i => i.y | none => 0)
      | _ =>
        if x.fresh then (true, match target with | some o => clampI lo hi (s.targetInit o) | none => lo)
        else if again then (true, old.uRaw)
        else (false, 0)
    let hold := match inner with | some i => i.uSat ≠ i.uRaw | none => false
    let x := { x with fresh := false, sw := false, par := false, reinit := reinit }
    let x := if x.typ = 3 then s.onOffLaw r k x wl yl reinit uref (state = 1)
      else { s.pidLaw k ts x wl yl ff reinit uref hold with cas := hold }
    let (u, st) : Int × Status :=
      match state with
      | 2 => (clampI lo hi manV, .overridden)
      | 5 => (lo, .ok)
      | 7 => (fval, .fault)
      | 3 => (x.uSat, .overridden)
      | _ => (x.uSat, worstOf [w.st, y.st, f.st])
    let x := { x with u := u, st := st, state := state }
    let rel := state = 7 && onFlt = 3
    let x := if x.typ ≠ 4 then x
      else if state = 7 && (onFlt = 0 || onFlt = 3) then { x with cmd := 0 }
      else step3 x u (divHalfUp ((bitsOf (s.loopAux k 0) 0 16 : Int) * 65536) 100)
    let out : Option Int := if rel then none else some (if x.typ = 4 then x.cmd * 65536 else x.u)
    (outs.foldl (fun s o => s.stage r { out := o, lv := 5, v := out }) s).loopFinish r k old x

/-- The loops of a rate, in order (R170). -/
def loopFrame (s : State) (r : Rate) : State :=
  (match r with | .lath => s.loopsL | .skim => s.loopsS).foldl (fun s k => s.loopEval r k) s
/-- Parameter writes take effect at a capture edge of the loop's rate (R174). -/
def takeLoopPar (s : State) (r : Rate) : State :=
  let mine (k : Nat) : Bool := (s.loopSt k).skim = (match r with | .lath => false | .skim => true)
  let (now_, later) := s.loopPar.partition mine
  now_.foldl (fun s k => s.setLoop k { s.loopSt k with par := true }) { s with loopPar := later }

/-! ### Activation (R168, R170, R175, R178, R180, R519) -/

/-- Loops of a configuration that have a type, and those of one rate. -/
def loopsOn (s : State) : List Nat := (List.range 512).filter (fun k => let t := s.get (fLoopCfgType k); 1 ≤ t && t ≤ 5)
def loopsOf (s : State) (skim : Bool) : List Nat := s.loopsOn.filter (fun k => s.bit (fLoopCfgSkim k) = skim)
def loopHandles (s : State) (k : Nat) : List Nat :=
  [s.get (fLoopSrcAWSrc k), s.get (fLoopSrcAYSrc k), s.get (fLoopSrcBFfSrc k), s.get (fLoopSrcBEnSrc k)]
/-- Same-rate loops that loop `k` names. -/
def loopDeps (s : State) (k : Nat) : List Nat :=
  (s.loopHandles k).filterMap (fun h => if 0x7000 ≤ h && h < 0x7200 then some (h - 0x7000) else none)
/-- The order of a rate, or the lowest-numbered loop on a cycle. -/
def loopOrder (s : State) (skim : Bool) : List Nat × Option Nat :=
  let l := s.loopsOf skim
  let (o, left) := topo s.loopDeps l.length l []
  (o, if left.isEmpty then none else onCycle s.loopDeps left)

/-- The conditions that join registers (R519), for a type, its limits, AUX words and bindings. -/
def loopJoined (typ : Nat) (lo hi : Int) (aux bind : List Word) : Bool :=
  let a (i : Nat) : Word := aux.getD i 0
  lo < hi && (match typ with
    | 3 => 0 ≤ (a 0).toInt && bitsOf (a 1) 16 16 ≤ 3600 && bitsOf (a 1) 0 16 ≤ 3600
    | 4 => lo = 0 && hi = 6553600 && bitsOf (a 0) 0 16 ≤ 5000
    | 5 => (List.range 4).all (fun i => bitsOf (bind.getD i 0) 30 2 = 0
        || (bitsOf (a i) 16 16 ≤ 10000 && bitsOf (a i) 0 16 ≤ 10000))
    | _ => true)
def loopBinds (s : State) (k : Nat) : List Word := (List.range 4).map (fun i => s.word (rLoopBind k i))
def loopAuxWords (s : State) (k : Nat) : List Word := [s.word (rLoopAux0 k), s.word (rLoopAux k 0), s.word (rLoopAux k 1), s.word (rLoopAux k 2)]
/-- Bindings in use: all four of a SEQ, else the first. -/
def usedBinds (s : State) (k : Nat) : List Word := (s.loopBinds k).take (if s.get (fLoopCfgType k) = 5 then 4 else 1)

/-- R168, R178, R180, R519: the first loop refused. `handleOk` judges a handle, `ownPt` a published point. -/
def loopBadRef (s : State) (handleOk ownPt : Nat → Bool) : Option Nat :=
  let on := s.loopsOn
  let outs (k : Nat) : List Nat := (s.usedBinds k).filterMap bindOut
  let badBind (k : Nat) (b : Word) : Bool :=
    let i := bitsOf b 0 8
    match bitsOf b 30 2 with
    | 0 => false
    | 1 => 96 ≤ i || !isOut (s.get (fUchCfgMode i)) || (i % 2 = 1 && s.get (fUchCfgMode (i - 1)) = 0xD)
        || (s.bit (fLoopCfgSkim k) && !s.bit (fUchCfgSkim i))
    | 2 => 24 ≤ i || !s.bit (fFanCfgEn i) || !s.bit (fFanDrvDrvEn i)
    | _ => true
  let rec_ (k : Nat) : Bool :=
    let o := outs k
    s.get (fLoopSrcAYSrc k) = 0xFFFF || (s.loopHandles k).any (fun h => !handleOk h)
      || (s.usedBinds k).any (badBind k)
      || o.any (fun v => 1 < o.count v) || on.any (fun j => j < k && (outs j).any (fun v => o.contains v))
      || (s.get (fLoopCfgType k) = 4 && !(bitsOf (s.word (rLoopBind k 0)) 30 2 = 1 && bitsOf (s.word (rLoopBind k 0)) 0 8 % 2 = 0
          && s.get (fUchCfgMode (bitsOf (s.word (rLoopBind k 0)) 0 8)) = 0xD))
      || !loopJoined (s.get (fLoopCfgType k)) (s.geti (fLoopOutMinValue k)) (s.geti (fLoopOutMaxValue k)) (s.loopAuxWords k)
          (s.loopBinds k)
      || (s.bit (fLoopOutPtPub k) && !ownPt (s.get (fLoopOutPtPoint k)))
  on.find? rec_

/-- A new configuration takes over (R175, R520). -/
def loopSwitch (s : State) : State :=
  let oL := (s.loopOrder false).1
  let oS := (s.loopOrder true).1
  let s := { s with loopsL := oL, loopsS := oS, loopPar := [] }
  let on := s.loopsOn
  let s := { s with eng := { s.eng with loop := s.eng.loop.filter (fun p => on.contains p.1) } }
  let s := on.foldl (fun s k =>
    let x := s.loopSt k
    let typ := s.get (fLoopCfgType k)
    let skim := s.bit (fLoopCfgSkim k)
    let bind := s.loopBinds k
    let keep := x.typ = typ && x.skim = skim && x.bind.getD 0 0 = bind.getD 0 0
    let pos := ((if skim then oS else oL).idxOf k)
    let x := if keep then { x with sw := true, par := false, bind := bind, pos := pos }
      else { typ := typ, skim := skim, bind := bind, pos := pos }
    s.setLoop k x) s
  (List.range 512).foldl (fun s k =>
    let s := s.set (fLoopStatPos k) (s.loopSt k).pos
    if on.contains k || s.get (fLoopStatState k) = 0 then s
    else
      let s := if s.get (fLoopStatState k) = 7 then
          ((s.clearFault 0x7001 k).irq (0x40 + k / 16) (k % 16)).set ⟨rLoopFlt (k / 16), k % 16, 1⟩ 0 else s
      s.set (fLoopStatState k) 0) s

/-- BLK_ERR cause of a refused LOOP write (R167, R172, R180, R519). `live` judges the joined conditions with the running
type. -/
def loopRefuse (s : State) (page off : Nat) (w : Word) (live : Bool) : Option Nat :=
  if off < 0x100 || 0x900 ≤ off then none else
  let k := 16 * (page - 0x40) + (off - 0x100) / 0x80
  let o := (off - 0x100) % 0x80
  let v := w.toInt
  let bad (b : Bool) : Option Nat := if b then some 0x41 else none
  let joined : Bool :=
    let x := s.loopSt k
    let put (a : Nat) (old : Word) : Word := if o = a then w else old
    let aux := (List.range 4).map (fun i => put (0x48 + 4 * i) ((s.loopAuxWords k).getD i 0))
    loopJoined x.typ (put 0x38 (s.word (rLoopOutMin k))).toInt (put 0x3C (s.word (rLoopOutMax k))).toInt aux x.bind
  if o = 0 then (if 6 ≤ bitsOf w 0 3 then some 0x40 else none)
  else if 0x10 ≤ o && o < 0x20 then bad (bitsOf w 30 2 = 3)
  else if o = 0x20 then bad (v < 0)
  else if 0x24 ≤ o && o < 0x30 then bad (v < 0 || 32767 * 65536 < v)
  else if o = 0x30 then bad (v < 0 || 65536 < v)
  else if o = 0x34 then bad (bitsOf w 0 8 < 1 || 100 < bitsOf w 0 8)
  else if o = 0x38 || o = 0x3C || (0x48 ≤ o && o < 0x58) then bad (live && !joined)
  else none

end State
end Sys2Proof.Machine
end

