-- ==== Sys2Proof/Machine/Blk.lean ====
section
/-! DEFINITION. The block network (R204–R228): instance records, the catalogue, evaluation in phase 4, retunes, the
activation checks and the switch. -/
set_option Elab.async false
namespace Sys2Proof.Machine

/-- An instance record (R209). -/
structure BRec where
  typ : Nat
  opt : Nat
  arg : Nat
  w5 : Word
  w6 : Word
  w7 : Word
  ins : List Nat
deriving DecidableEq, Repr

def blkW (m : Map Word) (i w : Nat) : Word := Map.look (fun _ => 0#32) m (8 * i + w)
def blkOn (m : Map Word) (i : Nat) : Bool := bitAt (blkW m i 0) 31
/-- Enabled instances, ascending. -/
def blkAll (m : Map Word) : List Nat :=
  m.filterMap (fun p => if p.1 % 8 = 0 && bitAt p.2 31 then some (p.1 / 8) else none)
def blkRec (m : Map Word) (i : Nat) : BRec :=
  let w0 := blkW m i 0
  { typ := bitsOf w0 24 6, opt := bitsOf w0 16 8, arg := bitsOf w0 0 16, w5 := blkW m i 5, w6 := blkW m i 6,
    w7 := blkW m i 7,
    ins := (List.range 8).map (fun k => bitsOf (blkW m i (1 + k / 2)) (16 * (k % 2)) 16) }
def BRec.p0 (r : BRec) : Int := r.w5.toInt
def BRec.p1 (r : BRec) : Int := r.w6.toInt
def BRec.p2 (r : BRec) : Int := r.w7.toInt
/-- Connected inputs. -/
def BRec.n (r : BRec) : Nat := (r.ins.filter (fun h => h ≠ 0xFFFF)).length
def BRec.conn (r : BRec) (i : Nat) : Bool := r.ins.getD i 0xFFFF ≠ 0xFFFF

/-- A row of the catalogue (R218): required and greatest number of inputs, variable arity, cycles and cycles per connected
input. -/
structure BCat where
  req : Nat
  top : Nat
  var : Bool
  cyc : Nat
  per : Nat
deriving DecidableEq, Repr

def blkCat (t : Nat) : BCat :=
  let f (n c : Nat) : BCat := ⟨n, n, false, c, 0⟩
  let o (n m c : Nat) : BCat := ⟨n, m, false, c, 0⟩
  let v (c p : Nat) : BCat := ⟨1, 8, true, c, p⟩
  match t with
  | 0x00 => f 0 4 | 0x01 => f 0 6 | 0x02 => f 1 8 | 0x03 => f 1 30 | 0x04 => f 1 14 | 0x05 => f 1 10
  | 0x06 => v 12 6 | 0x07 => f 2 12 | 0x08 => v 8 4 | 0x09 => v 8 4 | 0x0A => v 8 4 | 0x0B => f 1 8
  | 0x0C => f 2 14 | 0x0D => f 2 14 | 0x0E => f 1 12 | 0x0F => f 1 12 | 0x10 => o 1 2 14 | 0x11 => v 10 4
  | 0x12 => f 2 16 | 0x13 => f 2 16 | 0x14 => f 2 16 | 0x15 => f 1 24 | 0x16 => f 1 18 | 0x17 => f 1 20
  | 0x18 => v 8 6 | 0x19 => f 2 12 | 0x1A => f 2 24 | 0x1B => f 2 60 | 0x1C => v 10 6 | 0x1D => v 10 6
  | 0x1E => v 40 6 | 0x1F => ⟨2, 8, true, 16, 0⟩ | 0x20 => f 1 24 | 0x21 => f 1 8 | 0x22 => f 1 70 | 0x23 => f 1 16
  | 0x24 => f 3 24 | 0x25 => o 1 2 40 | 0x26 => o 1 3 14 | 0x27 => f 1 30 | 0x28 => f 1 20 | 0x29 => f 1 20
  | 0x2A => f 1 20 | 0x2B => f 1 28 | 0x2C => f 1 24 | 0x2D => o 1 2 28 | 0x2E => o 1 2 20 | 0x2F => o 2 3 24
  | 0x30 => f 1 80 | 0x31 => f 2 220 | 0x32 => f 2 200 | 0x33 => f 1 30 | 0x34 => ⟨1, 4, true, 24, 0⟩ | 0x35 => o 1 2 40
  | 0x36 => o 1 2 60 | 0x37 => f 0 50 | 0x38 => f 1 40 | 0x39 => ⟨1, 8, true, 30, 0⟩ | 0x3A => f 0 30 | 0x3B => o 1 2 40
  | 0x3C => f 1 36 | 0x3D => f 1 10 | 0x3E => f 1 30 | _ => f 1 20

def bOne : Int := 65536
/-- Q16.16 whole part. -/
def bFloor (v : Int) : Int := v / 65536
/-- The time unit of OPT[1:0], µs (R220). -/
def bUnit (r : BRec) : Nat := match r.opt % 4 with | 0 => 100000 | 1 => 1000000 | _ => 60000000
/-- N1 and N2 with a lath period of `L` µs (R220). -/
def bN1 (L : Nat) (r : BRec) : Nat := max 1 (ceilDiv (r.arg * bUnit r) L)
def bN2 (L : Nat) (r : BRec) : Nat := max 1 (ceilDiv (bitsOf r.w5 16 16 * bUnit r) L)
def bTimer (t : Nat) : Bool := 0x28 ≤ t && t ≤ 0x2C

/-- Parameters, OPT and ARG lie in the ranges of the catalogue (R214, R218–R227). -/
def bRangeOk (r : BRec) : Bool :=
  let t := r.typ
  let optMask := if t = 0x1C || t = 0x1D || t = 0x1E then 1 else if t = 0x25 || bTimer t || t = 0x3A then 3
    else if t = 0x35 || t = 0x36 then 7 else if t = 0x39 then 0x87 else 0
  let argMask := match t with
    | 0x03 => 0x3FFF | 0x30 => 0x0F0F | 0x34 => 7 | 0x35 => 0xC0FF | 0x37 => 63 | 0x38 => 0x7F | 0x39 => 7 | 0x3B => 15
    | 0x25 | 0x28 | 0x29 | 0x2A | 0x2B | 0x2C | 0x36 => 0xFFFF
    | 0x3F => 0xFF
    | _ => 0
  r.opt ||| optMask = optMask && r.arg ||| argMask = argMask
    && !((t = 0x25 || bTimer t) && r.opt % 4 = 3)
    && (match t with
      | 0x11 => bOne ≤ r.p0 && r.p0 < 9 * bOne
      | 0x12 | 0x13 | 0x14 | 0x23 => 0 ≤ r.p0
      | 0x15 => r.p0 ≤ r.p1 && 0 ≤ r.p2
      | 0x16 => r.p1 ≤ r.p0
      | 0x17 | 0x3E => 0 < r.p0
      | 0x25 => 1 ≤ r.arg
      | 0x27 => 0 < r.p0 && 0 < r.p1
      | 0x2C => bitsOf r.w5 16 16 ≤ r.arg
      | 0x2F => r.p0 ≤ r.p1
      | 0x30 => 1 ≤ r.arg / 256
      | 0x33 => 0 ≤ r.p0 && r.p0 ≤ 32767 * bOne
      | 0x34 => r.arg ≤ 4
      | 0x35 => r.opt % 4 ≠ 3 && r.arg / 0x4000 ≠ 0 && r.arg % 256 < (if r.arg / 0x4000 = 2 then 24 else 96)
      | 0x36 => 0 ≤ r.p2
      | 0x38 => r.arg % 16 ≤ 13
      | 0x3B => 1 ≤ r.arg && r.arg ≤ 8
      | 0x3F => bOne ≤ r.p0 && r.p0 < 65 * bOne && (r.arg : Int) + bFloor r.p0 ≤ 256
      | _ => true)

/-! ### Psychrometrics (R221) -/

/-- T in Q16.16 °C and RH in Q16.16 %, clamped; e^(aT/(b+T)) and γ in units of 2^−128. -/
def psyT (t : Int) : Int := clampI (-40 * 65536) (80 * 65536) t
def psyRh (h : Int) : Int := clampI 65536 (100 * 65536) h
def psyY (t : Int) : Int := 1762 * psyT t * (2 ^ 128 : Nat) / (24312 * 65536 + 100 * psyT t)
/-- pw in units of hPa / (65536 · 10^5 · 2^128). -/
def psyPw (t h : Int) : Int := psyRh h * 6112 * expFix 128 (psyY t)
/-- p − pw in the same units. -/
def psyDry (t h p0 : Int) : Int := (if p0 = 0 then 101325 * 65536 else p0) * 1000 * (2 ^ 128 : Nat) - psyPw t h
/-- A result within `tol` of the nominal value: which one is free (log entry 33). -/
def psyNear (use : Nat) (ops : List Int) (tol v : Int) : Int := v + clampI (-tol) tol (Config.freeInt use ops)
def psyDew (t h : Int) : Int :=
  let g := lnFix 128 (psyRh h).toNat 6553600 + psyY t
  psyNear 10 [t, h] 3277 (24312 * g * 65536 / (1762 * (2 ^ 128 : Nat) - 100 * g))
def psyVap (t h : Int) : Int := psyNear 11 [t, h] 656 (psyPw t h / (10 ^ 5 * (2 ^ 128 : Nat)))
def psyX (t h p0 : Int) : Int :=
  let d := psyDry t h p0
  if d = 0 then Config.freeInt 13 [t, h, p0] else psyNear 13 [t, h, p0] 656 (622 * psyPw t h * 65536 / d)
def psyH (t h p0 : Int) : Int :=
  let d := psyDry t h p0
  if d = 0 then Config.freeInt 12 [t, h, p0] else
  psyNear 12 [t, h, p0] 6554
    (1006 * psyT t / 1000 + 622 * psyPw t h * (250100 * 65536 + 186 * psyT t) / (d * 100000))

/-! ### The catalogue (R218): types that need no reference into the device -/

/-- Index of the winner of a non-empty list under `better`, the lowest on a tie. -/
def bPick (better : Int → Int → Bool) : List (Nat × Int) → Option (Nat × Int)
  | [] => none
  | p :: l => some (l.foldl (fun a q => if better q.2 a.2 then q else a) p)

def goodSt (st : Status) : Bool := st = .ok || st = .overridden
def usableSt (st : Status) : Bool := !(st = .fault || st = .unconfirmed)

/-- One evaluation of an instance with the values of its inputs; `L` in µs. -/
def bEval (L : Nat) (r : BRec) (x : List Val) (b : BlkSt) : BlkSt :=
  let v (i : Nat) : Int := (x.getD i { st := .ok }).v
  let st (i : Nat) : Status := (x.getD i { st := .ok }).st
  let t (i : Nat) : Bool := v i ≠ 0
  let n := r.n
  let ws := worstOf (x.map (fun y => y.st))
  let first := b.first
  let q := b.o0.v ≠ 0
  let rise (i : Nat) : Bool := t i && !first && !(if i = 0 then b.prev0 else b.prev1)
  let fall (i : Nat) : Bool := !t i && !first && (if i = 0 then b.prev0 else b.prev1)
  let l (c : Bool) : Int := if c then bOne else 0
  let put (b : BlkSt) (v0 : Int) (s0 : Status) (v1 : Int) (s1 : Status) : BlkSt :=
    { b with
      o0 := { v := sat32 v0, st := s0 }, o1 := { v := sat32 v1, st := s1 }
      first := false, prev0 := t 0, prev1 := t 1 }
  let one (b : BlkSt) (v0 : Int) : BlkSt := put b v0 ws 0 .ok
  let two (b : BlkSt) (v0 v1 : Int) : BlkSt := put b v0 ws v1 ws
  let xs : List (Nat × Int) := (List.range n).map (fun i => (i, v i))
  let nTrue := (xs.filter (fun p => p.2 ≠ 0)).length
  let good := xs.filter (fun p => usableSt (st p.1))
  let part := if r.opt % 2 = 1 && !good.isEmpty then good else xs
  let pst := worstOf (part.map (fun p => st p.1))
  -- an accumulator with its remainder, Q16.32, and its whole part
  let lim (a : Int) : Int := clampI (-(2 ^ 47)) (2 ^ 47 - 1) a
  -- the output of an accumulator, rounded by R204 (log 15)
  let rnd (a : Int) : Int := clampI (-2147483648) 2147483647 (divAway a 65536)
  match r.typ with
  | 0x00 => put b r.p0 .ok 0 .ok
  | 0x01 => put b r.p0 .ok r.p1 .ok
  | 0x02 => one b (v 0)
  | 0x04 => if usableSt (st 0) then two b (v 0) 0 else put b r.p0 .substituted bOne ws
  | 0x05 => put b ((st 0).code * 65536) .ok (l (usableSt (st 0))) .ok
  | 0x06 =>
    let pick := match xs.find? (fun p => goodSt (st p.1)) with
      | some p => some p.1
      | none => (xs.find? (fun p => usableSt (st p.1))).map Prod.fst
    match pick with
    | some k => put b (v k) (st k) (k * 65536) (st k)
    | none => put b r.p0 .fault (-bOne) .fault
  | 0x07 => if t 1 then one b (v 0) else put b b.o0.v b.o0.st 0 .ok
  | 0x08 => one b (l (nTrue = n))
  | 0x09 => one b (l (0 < nTrue))
  | 0x0A => one b (l (nTrue % 2 = 1))
  | 0x0B => one b (l (!t 0))
  | 0x0C => let s := t 0 || (q && !t 1); two b (l s) (l (!s))
  | 0x0D => let s := !t 1 && (t 0 || q); two b (l s) (l (!s))
  | 0x0E => one b (l (rise 0))
  | 0x0F => one b (l (fall 0))
  | 0x10 => one b (l (!t 1 && (q != rise 0)))
  | 0x11 => one b (l (bFloor r.p0 ≤ nTrue))
  | 0x12 => one b (l (v 1 < v 0 || (q && !(v 0 ≤ v 1 - r.p0))))
  | 0x13 => one b (l (v 0 < v 1 || (q && !(v 1 + r.p0 ≤ v 0))))
  | 0x14 => one b (l (((v 0 - v 1).natAbs : Int) ≤ r.p0))
  | 0x15 =>
    let on := (r.p0 ≤ v 0 && v 0 ≤ r.p1) || (q && !(v 0 < r.p0 - r.p2 || r.p1 + r.p2 < v 0))
    two b (l on) (l (r.p1 < v 0))
  | 0x16 => let on := r.p0 ≤ v 0 || (q && !(v 0 ≤ r.p1)); two b (l on) (l (!on))
  | 0x17 =>
    let ref := if first then v 0 else b.o1.v
    if r.p0 ≤ ((v 0 - ref).natAbs : Int) then two b bOne (v 0) else two b 0 ref
  | 0x18 => one b ((xs.map Prod.snd).foldl (· + ·) 0)
  | 0x19 => one b (v 0 - v 1)
  | 0x1A => one b (divAway (v 0 * v 1) 65536)
  | 0x1B =>
    if v 1 = 0 then put b r.p0 (worst .substituted ws) bOne ws
    else two b (if 0 < v 1 then divAway (v 0 * 65536) (v 1) else divAway (-(v 0 * 65536)) (-(v 1))) 0
  | 0x1C => match bPick (fun a c => a < c) part with
    | some (k, y) => put b y pst (k * 65536) pst
    | none => one b 0
  | 0x1D => match bPick (fun a c => c < a) part with
    | some (k, y) => put b y pst (k * 65536) pst
    | none => one b 0
  | 0x1E =>
    let m := part.length
    put b (divAway ((part.map Prod.snd).foldl (· + ·) 0) (max 1 m : Nat)) pst (m * 65536) pst
  | 0x1F =>
    let k := (clampI 0 ((n : Int) - 2) (bFloor (v 0))).toNat
    let s := worst (st 0) (st (k + 1))
    put b (v (k + 1)) s (k * 65536) s
  | 0x20 => one b (divAway (r.p0 * v 0 + r.p1 * 65536) 65536)
  | 0x21 => one b (v 0).natAbs
  | 0x22 =>
    if v 0 < 0 then put b 0 .fault 0 .ok
    else
      let m := (v 0).toNat * 65536
      let y := isqrt m
      one b ((if y < m - y * y then y + 1 else y : Nat) : Int)
  | 0x23 => one b (if ((v 0).natAbs : Int) ≤ r.p0 then 0 else if 0 < v 0 then v 0 - r.p0 else v 0 + r.p0)
  | 0x24 =>
    -- the median: at most one of the other two lies below it, and at most one above
    let mid (i j k : Nat) : Bool := (v j ≤ v i && v i ≤ v k) || (v k ≤ v i && v i ≤ v j)
    let k := if mid 0 1 2 then 0 else if mid 1 0 2 then 1 else 2
    two b (v k) (k * 65536)
  | 0x25 =>
    let a := if t 1 then 0 else
      lim (b.acc + divAway (v 0 * 65536 * (L : Int)) (max 1 (r.arg * bUnit r) : Nat))
    let o := rnd a
    two { b with acc := a } o (l (o = 2147483647 || o = -2147483648))
  | 0x26 =>
    let lo := if r.conn 1 then v 1 else r.p0
    let hi := if r.conn 2 then v 2 else r.p1
    let o := if hi < lo then lo else clampI lo hi (v 0)
    two b o (l (o ≠ v 0))
  | 0x27 =>
    let to_ := v 0 * 65536
    let up := divAway (r.p0 * 65536 * (L : Int)) 1000000
    let down := divAway (r.p1 * 65536 * (L : Int)) 1000000
    let a := if first then to_ else clampI (b.acc - down) (b.acc + up) to_
    two { b with acc := a } (rnd a) (l (a ≠ to_))
  | 0x28 =>
    let c := if t 0 then min (b.s0 + 1) (bN1 L r : Nat) else 0
    one { b with s0 := c } (l ((bN1 L r : Nat) ≤ c))
  | 0x29 =>
    let c : Int := if t 0 || !q then 0 else b.s0 + 1
    let on := t 0 || (q && c < (bN1 L r : Nat))
    one { b with s0 := if on then c else 0 } (l on)
  | 0x2A =>
    if q then
      let on := b.s0 < (bN1 L r : Nat)
      one { b with s0 := if on then b.s0 + 1 else 0 } (l on)
    else if rise 0 then one { b with s0 := 1 } bOne else one b 0
  | 0x2B =>
    let c : Int := if first then (bN2 L r : Nat) else b.s0
    let need : Int := ((if q then bN1 L r else bN2 L r : Nat) : Int)
    if t 0 ≠ q && need ≤ c then one { b with s0 := 1 } (l (!q))
    else one { b with s0 := min (c + 1) 2147483647 } (l q)
  | 0x2C =>
    if t 0 then one { b with s0 := (b.s0 + 1) % (bN1 L r : Nat) } (l (b.s0 < (bN2 L r : Nat)))
    else one { b with s0 := 0 } 0
  | 0x2D =>
    let us := if t 1 then 0 else if t 0 then min (b.acc + (L : Int)) (32767 * 3600000000) else b.acc
    let c := if t 1 then 0 else if rise 0 then min (b.s0 + 1) 32767 else b.s0
    put { b with acc := us, s0 := c } (divAway (us * 65536) 3600000000) .ok (c * 65536) .ok
  | 0x2E =>
    let c := if first || t 1 then bFloor r.p0 else if rise 0 then min (b.s0 + 1) 32767 else b.s0
    two { b with s0 := c } (c * 65536) (l (r.p1 ≤ c * 65536))
  | 0x2F =>
    let c := if first || t 2 then bFloor r.p0 * 65536 else b.s0 + l (rise 0) - l (rise 1)
    let c := clampI r.p0 r.p1 c
    one { b with s0 := c } c
  | 0x31 => two b (psyDew (v 0) (v 1)) (psyVap (v 0) (v 1))
  | 0x32 => two b (psyH (v 0) (v 1) r.p0) (psyX (v 0) (v 1) r.p0)
  | 0x33 =>
    let al := divAway ((L : Int) * 65536 * 65536) (r.p0 * 1000000 + (L : Int) * 65536)
    let a := if first then v 0 * 65536 else b.acc + divAway (al * (v 0 * 65536 - b.acc)) 65536
    one { b with acc := a } (rnd a)
  | 0x34 =>
    let k := ((xs.find? (fun p => p.2 ≠ 0)).map Prod.fst).getD 4
    let s := worstOf ((List.range (min (k + 1) n)).map st)
    put b (((match k with | 0 => 4 | 1 => 3 | 2 => 2 | 3 => 1 | _ => r.arg % 8 : Nat) : Int) * 65536) s (k * 65536) s
  | 0x3B =>
    let c := if t 1 then 0 else if rise 0 then (b.s0 + 1) % (max 1 r.arg : Nat) else b.s0
    two { b with s0 := c } (c * 65536) ((c + 1) % (max 1 r.arg : Nat) * 65536)
  | 0x3C => one b (divAway (r.p0 * v 0 * v 0 + r.p1 * v 0 * 65536 + r.p2 * 65536 * 65536) (65536 * 65536))
  | 0x3D => if first then put b r.p0 .unconfirmed 0 .ok else put b b.last.v b.last.st 0 .ok
  | 0x3E => one b (divAway (v 0) (max 1 r.p0) * max 1 r.p0)
  | _ => b

namespace State

def blkSt (s : State) (i : Nat) : BlkSt := Map.look (fun _ => {}) s.eng.blk i
def setBlk (s : State) (i : Nat) (b : BlkSt) : State :=
  { s with eng := { s.eng with blk := Map.put (fun _ => {}) s.eng.blk i b } }
def updNet (s : State) (f : BlkNet → BlkNet) : State := { s with net := f s.net }

/-- A word of the pages captured at activation: state tables and curves (R208). -/
def blkCap (s : State) (a : Nat) : Word := Map.look (fun _ => 0#32) s.net.cap a
/-- The points of curve `c` as captured. -/
def blkCurve (s : State) (c n : Nat) : List (Int × Int) :=
  (List.range n).map (fun j => ((s.blkCap (rBlkCurve c (2 * j))).toInt, (s.blkCap (rBlkCurve c (2 * j + 1))).toInt))
/-- Linear between points, ties away from zero (R204, R222). -/
def blkPwl : List (Int × Int) → Int → Int
  | [], _ => 0
  | [(_, y)], _ => y
  | (x0, y0) :: (x1, y1) :: t, q =>
    if q ≤ x0 then y0 else if q < x1 then y0 + divAway ((y1 - y0) * (q - x0)) (x1 - x0) else blkPwl ((x1, y1) :: t) q

/-- Points that the running network's POINT_WRITE instances write. -/
def blkPoints (s : State) : List Nat :=
  (blkAll s.net.run).filterMap (fun i => let r := blkRec s.net.run i; if r.typ = 3 then some r.arg else none)
/-- The value of an input handle in phase 4 (R207). -/
def blkIn (s : State) (pts : List Nat) (h : Nat) : Val :=
  if h = 0xFFFF then { v := 0, st := .ok }
  else if h < 0x4000 && pts.contains h then Map.look valDflt s.img h
  else s.lathVal h

/-- Writes to level 3 of a PRIORITY_WRITE target (R223); `none` relinquishes. Answers whether it wrote. -/
def pwWrite (s : State) (arg : Nat) (v : Option Int) : State × Bool :=
  let i := arg % 256
  match arg / 0x4000 with
  | 1 => (s.stage .lath { out := i, lv := 3, v := v }, true)
  | 2 => (s.stage .lath { out := 96 + i, lv := 3, v := v }, true)
  | _ =>
    match v with
    | none => ({ s with stZ := s.stZ ++ [{ fen := false, idx := i, lv := 3, v := none }] }, true)
    | some y =>
      let m := divAway y 65536
      if m < 0 || 4 < m then (s, false)
      else ({ s with stZ := s.stZ ++ [{ fen := false, idx := i, lv := 3, v := some m.toNat }] }, true)
/-- Level 3 of the target holds the value the instance last wrote. -/
def pwStands (s : State) (arg : Nat) (b : BlkSt) : Bool :=
  let i := arg % 256
  b.holds && (match arg / 0x4000 with
    | 1 => s.level i 3 = some b.wrote
    | 2 => s.level (96 + i) 3 = some b.wrote
    | _ => s.zmLevel i 3 = some (divAway b.wrote 65536).toNat)

/-- PRIORITY_WRITE (R223). -/
def blkPriority (s : State) (r : BRec) (x : List Val) (b : BlkSt) : BlkSt × State :=
  let v := x.getD 0 {}
  let e := x.getD 1 { st := .ok }
  let en := if !r.conn 1 then true else if badSt e.st then r.opt / 4 % 2 = 1 else e.v ≠ 0
  let act := if badSt v.st then r.opt % 4 else 0
  let (holds, s) : Bool × State :=
    if en then
      match act with
      | 0 => let (s', wrote) := s.pwWrite r.arg (some v.v); (wrote || s.pwStands r.arg b, s')
      | 1 => (s.pwStands r.arg b, s)
      | _ => (false, (s.pwWrite r.arg none).1)
    else if b.en then (false, (s.pwWrite r.arg none).1)
    else (s.pwStands r.arg b, s)
  let wrote := if en && act = 0 then v.v else b.wrote
  let ws := worstOf (x.map (fun y => y.st))
  ({ b with
    o0 := { v := v.v, st := ws }, o1 := { v := if holds then bOne else 0, st := ws }
    first := false, holds := holds, wrote := wrote, en := en }, s)

/-- The number of ALARMs active, and the face of the last to change (BLK.ALM). -/
def blkAlarmChange (s : State) (i : Nat) (old new : Nat) : State :=
  if old = new then s else
  let s := if old ≠ 0 then s.later .lath (.clear (0x8000 + old) i) else s
  let s := if new ≠ 0 then s.later .lath (.raise (0x8000 + new) i .minor) else s
  (s.laterSet .lath fBlkAlmLast i).later .lath (.irq 0x61 0)
/-- ALARM (R225). -/
def blkAlarm (s : State) (i : Nat) (r : BRec) (x : List Val) (b : BlkSt) : BlkSt × State :=
  let v := x.getD 0 {}
  let e := x.getD 1 { st := .ok }
  let en := !r.conn 1 || e.v ≠ 0
  let need := max 1 (ceilDiv (r.arg * 1000000) s.lathPeriod)
  let hi := r.opt % 2 = 1 && r.p0 < v.v
  let lo := r.opt / 2 % 2 = 1 && v.v < r.p1
  let fl := r.opt / 4 % 2 = 1 && v.st = .fault
  let c (k : Nat) (on : Bool) : Nat := if on then min need (b.cnts.getD k 0 + 1) else 0
  let cnts := if en then [c 0 hi, c 1 lo, c 2 fl] else [0, 0, 0]
  let keep : Bool := match b.act with
    | 1 => decide (r.p0 - r.p2 < v.v) | 2 => decide (v.v < r.p1 + r.p2) | 3 => decide (v.st = .fault) | _ => false
  let act := if keep then b.act else 0
  let ripe (k : Nat) : Bool := need ≤ cnts.getD (k - 1) 0
  let new := if !en then 0
    else if ripe 3 || act = 3 then 3
    else if ripe 1 || act = 1 then 1
    else if ripe 2 || act = 2 then 2
    else 0
  ({ b with
    act := new, cnts := cnts, first := false
    o0 := { v := if new ≠ 0 then bOne else 0, st := .ok }, o1 := { v := new * 65536, st := .ok } },
   s.blkAlarmChange i b.act new)

/-- A result that waits for SAMPLE_NOW number `i` is taken: its output 0, and whether there was one (R224). -/
def snTake (s : State) (i core slot : Nat) (o0 : Val) : Val × Bool × State :=
  match Map.look (fun _ => none) s.net.snImg i with
  | some (y, st) =>
    let fs := if slot < 12 then fullScale (effMode (s.chan (12 * core + slot))) else 5 * 65536
    ({ v := sat32 (divAway (y * fs) 8388608), st := st }, true,
      (s.updNet (fun n => { n with snImg := Map.put (fun _ => none) n.snImg i none })).later .lath (.bump fBlkSnCntDone))
  | none => (o0, false, s)
/-- SAMPLE_NOW number `i` asks for an urgent conversion: its output 1 (R224). -/
def snAsk (s : State) (i core slot : Nat) (got : Bool) : Nat × State :=
  match s.sluicePut core slot 1 with
  | some s' => (if got then 2 else 1, s'.updNet (fun n => { n with snReq := n.snReq ++ [(core, slot, i)] }))
  | none => (3, (s.later .lath (.bump fBlkSnCntRefused)).later .lath (.irq 0x61 1))
/-- SAMPLE_NOW (R224). -/
def blkSample (s : State) (i : Nat) (r : BRec) (x : List Val) (b : BlkSt) : BlkSt × State :=
  let v := x.getD 0 {}
  let t := v.v ≠ 0
  let rise := t && !b.first && !b.prev0
  let core := r.arg / 16 % 8
  let slot := r.arg % 16
  let (o0, got, s) := s.snTake i core slot b.o0
  let pend := s.net.snReq.any (fun q => q.2.2 = i) || (Map.look (fun _ => none) s.net.snRes i).isSome
  let (o1, s) : Nat × State :=
    if rise && !pend then s.snAsk i core slot got else (if got then 2 else if pend then 1 else 0, s)
  ({ b with o0 := o0, o1 := { v := o1 * 65536, st := v.st }, first := false, prev0 := t }, s)
/-- The result of an urgent conversion goes to the SAMPLE_NOW that asked (R224). -/
def blkSampleDone (s : State) (core slot : Nat) (y : Int) (ovf flt stale : Bool) : State :=
  match s.net.snReq.find? (fun q => q.1 = core && q.2.1 = slot) with
  | none => s
  | some q =>
    let st : Status := if flt || ovf then .fault else if stale then .stale else .ok
    s.updNet (fun n => { n with
      snReq := n.snReq.erase q
      snRes := if q.2.2 < 4096 then Map.put (fun _ => none) n.snRes q.2.2 (some (y, st)) else n.snRes })

/-- TABLE8 (R227). -/
def blkTable (s : State) (r : BRec) (x : List Val) (b : BlkSt) : BlkSt :=
  let rows := ((List.range 16).map (fun j => s.blkCap (rBlkTbl (r.arg % 8) j))).filter (fun w => bitAt w 31)
  let inp (w : Word) : Val := x.getD (bitsOf w 20 3) { st := .ok }
  let fires (w : Word) : Bool :=
    (bitAt w 27 || (bitsOf w 24 3 : Nat) = b.s0.toNat) && ((inp w).v ≠ 0) != bitAt w 19
  let (before, rest) := rows.span (fun w => !fires w)
  let tested := before ++ rest.take 1
  let hold := r.opt / 128 % 2 = 1 && tested.any (fun w => badSt (inp w).st)
  let ws := worstOf (tested.map (fun w => (inp w).st))
  let (q, n) : Int × Int := match rest.head? with
    | some w => if hold then (b.s0, if b.first then 0 else b.acc + 1) else (bitsOf w 16 3, 0)
    | none => (b.s0, if b.first then 0 else b.acc + 1)
  let n := min n (32767 * 1000000)
  { b with
    s0 := q, acc := n, first := false
    o0 := { v := q * 65536, st := ws }
    o1 := { v := min (32767 * 65536) (divAway (n * (s.lathPeriod : Int) * 65536) 1000000), st := ws } }

/-- SCHED_READ and CAL_READ (R226). -/
def blkSched (s : State) (r : BRec) (b : BlkSt) : BlkSt :=
  let k := r.arg % 64
  match Map.look (fun _ => none) s.eng.sch.written k with
  | none => { b with o0 := { v := 0 }, o1 := { v := 0 }, first := false }
  | some w =>
    let t : Int := ((60 * s.eng.sch.minute.getD 0 : Nat) : Int)
    { b with
      o0 := { v := w.v, st := .ok }, o1 := { v := (s.nextMin s.tab.run k t : Int) * 65536, st := .ok }, first := false }
def blkCal (s : State) (r : BRec) (b : BlkSt) : BlkSt :=
  let t : Int := ((s.lath.cap / 1000000 : Nat) : Int)
  let l := s.localSec t
  let d := l / 86400
  let c := civil d
  let st : Status := if s.bit fCalStatSet then .ok else .unconfirmed
  let (a, e) : Int × Int := match r.opt % 4 with
    | 0 => (l % 86400 / 60, (weekday d : Nat))
    | 1 => ((c.d : Nat), (c.m : Nat))
    | 2 => (c.y, (dayInYear d : Nat))
    | _ => (if s.dstAt t then 1 else 0, (l - t) / 60)
  { b with o0 := { v := a * 65536, st := st }, o1 := { v := e * 65536, st := st }, first := false }

/-- One instance in phase 4 (R212). -/
def blkOne (s : State) (pts : List Nat) (i : Nat) : State :=
  let r := blkRec s.net.run i
  let b := s.blkSt i
  let x := r.ins.map (fun h => s.blkIn pts h)
  let ws := worstOf (x.map (fun y => y.st))
  let v := (x.getD 0 {}).v
  let (b, s) : BlkSt × State :=
    match r.typ with
    | 0x03 =>
      let b := { b with o0 := { v := v, st := ws }, o1 := { v := 0, st := .ok }, first := false }
      (b, s.produce .lath r.arg { v := v, st := (x.getD 0 {}).st, ts := s.lath.cap })
    | 0x30 =>
      let n := r.arg / 256 % 16 + 1
      let cv := s.blkCurve (r.arg % 16) n
      let out := (match cv.head? with | some p => decide (v < p.1) | none => false)
        || (match cv.getLast? with | some p => decide (p.1 < v) | none => false)
      ({ b with o0 := { v := blkPwl cv v, st := ws }, o1 := { v := if out then bOne else 0, st := ws }, first := false }, s)
    | 0x35 => s.blkPriority r x b
    | 0x36 => s.blkAlarm i r x b
    | 0x37 => (s.blkSched r b, s)
    | 0x38 => s.blkSample i r x b
    | 0x39 => (s.blkTable r x b, s)
    | 0x3A => (s.blkCal r b, s)
    | 0x3F =>
      let k := (clampI 0 (bFloor r.p0 - 1) (bFloor v)).toNat
      ({ b with
        o0 := { v := (Map.look valDflt s.img (0x6000 + r.arg + k)).v, st := ws }
        o1 := { v := (k : Int) * 65536, st := ws }, first := false }, s)
    | _ => (bEval s.lathPeriod r x b, s)
  let s := s.setBlk i b
  let s := s.produce .lath (0x4000 + 2 * i) { b.o0 with ts := s.lath.cap }
  s.produce .lath (0x4001 + 2 * i) { b.o1 with ts := s.lath.cap }

/-- What an instance with the page disabled, or taken out of the network, lets go (R216): its level 3 and its alarm. -/
def blkDrop (s : State) (i : Nat) : State :=
  let r := blkRec s.net.run i
  let b := s.blkSt i
  if r.typ = 0x35 && b.holds then (s.setBlk i { b with holds := false, en := true }).pwWrite r.arg none |>.1
  else if r.typ = 0x36 && b.act ≠ 0 then (s.setBlk i { b with act := 0 }).blkAlarmChange i b.act 0
  else s
/-- Active ALARMs. -/
def blkActive (s : State) : Nat :=
  ((blkAll s.net.run).filter (fun i => (blkRec s.net.run i).typ = 0x36 && (s.blkSt i).act ≠ 0)).length
/-- Phase 4 (R13, R212, R216). -/
def blkFrame (s : State) : State :=
  let all := blkAll s.net.run
  let s := s.set (fBlkState 0x61) (if !s.enAck 0x61 then 1 else if all.isEmpty then 2 else 0)
  let s :=
    if !s.enAck 0x61 then
      all.foldl (fun s i =>
        let s := s.blkDrop i
        let b := s.blkSt i
        let b := { b with o0 := { b.o0 with st := .stale }, o1 := { b.o1 with st := .stale } }
        ((s.setBlk i b).produce .lath (0x4000 + 2 * i) b.o0).produce .lath (0x4001 + 2 * i) b.o1) s
    else
      let pts := s.blkPoints
      let s := s.net.order.foldl (fun s i => s.blkOne pts i) s
      all.foldl (fun s i =>
        let r := blkRec s.net.run i
        if r.typ = 0x3D then s.setBlk i { s.blkSt i with last := s.blkIn pts (r.ins.getD 0 0xFFFF) } else s) s
  s.laterSet .lath fBlkAlmActive s.blkActive

/-- The lath capture edge takes retunes (R211) and the SAMPLE_NOW results posted before it (R224). -/
def takeBlk (s : State) : State :=
  s.updNet (fun n => { n with
    run := n.retune.foldl (fun m q =>
      let k := 8 * q.1 + (if q.2.1 = 0 then 0 else 4 + q.2.1)
      let w := Map.look (fun _ => 0#32) m k
      Map.put (fun _ => 0#32) m k (if q.2.1 = 0 then bitsSet w 0 16 q.2.2.toNat else q.2.2)) n.run
    retune := []
    snImg := n.snRes.foldl (fun m p => Map.put (fun _ => none) m p.1 p.2) n.snImg
    snRes := [] })

/-- BLK.NET_STAT (R210). -/
def blkDirty (s : State) : Bool := s.net.pend ≠ s.net.run
/-- A write of PARAM_VAL (R211). -/
def blkRetune (s : State) (w : Word) : State :=
  let i := s.get fBlkParamSelInst
  let k := s.get fBlkParamSelWord
  let refuse (cause : Nat) : State := (s.blkErr 0x61 cause true 0x4C).irq 0x61 2
  if !blkOn s.net.run i then refuse 0x41 else
  let r := blkRec s.net.run i
  if k = 0 && [0x03, 0x35, 0x38, 0x37, 0x30, 0x39, 0x3F].contains r.typ then refuse 0x41 else
  let r' := match k with
    | 0 => { r with arg := bitsOf w 0 16 } | 1 => { r with w5 := w } | 2 => { r with w6 := w } | _ => { r with w7 := w }
  if !bRangeOk r' then refuse 0x40 else
  let key := 8 * i + (if k = 0 then 0 else 4 + k)
  s.updNet (fun n =>
    let old := Map.look (fun _ => 0#32) n.pend key
    { n with
      pend := Map.put (fun _ => 0#32) n.pend key (if k = 0 then bitsSet old 0 16 w.toNat else w)
      retune := n.retune ++ [(i, k, w)] })
/-- A word of the block-network window (R209, R210). -/
def blkWrite (s : State) (off : Nat) (w : Word) : State :=
  let k := off / 4
  let ok := k % 8 ≠ 0 || !bitAt w 30
  let s := if ok then s else s.blkErr 0x61 5 true off
  s.updNet (fun n => { n with pend := Map.put (fun _ => 0#32) n.pend k (if k % 8 = 0 then bitsSet w 30 1 0 else w) })
/-- VIEW_SEL loads the view registers with the instance as committed at the last lath edge (R209). -/
def blkView (s : State) (i : Nat) : State :=
  let on := blkOn s.net.run i
  let b : BlkSt := if on then Map.look (fun _ => {}) s.engL.blk i else {}
  let t := (blkRec s.net.run i).typ
  let s := s.seti (fBlkViewOutValue 0) b.o0.v
  let s := s.seti (fBlkViewOutValue 1) b.o1.v
  let s := s.setB fBlkViewStatEn on
  let s := s.set fBlkViewStatType (if on then t else 0)
  let s := s.set fBlkViewStatSt0 b.o0.st.code
  let s := s.set fBlkViewStatSt1 b.o1.st.code
  let s := s.set fBlkViewStatPos (if on then s.net.order.idxOf i else 0)
  let accum := t = 0x25 || t = 0x27 || t = 0x33
  let s := s.seti (fBlkViewSState 0) b.s0
  let s := s.seti (fBlkViewSState 1) (if accum then b.acc / 65536 else if b.prev0 then 1 else 0)
  let s := s.seti (fBlkViewSState 2) (if accum then b.acc % 65536 else 0)
  let (w, s) := s.freeNat 22
  s.set (fBlkViewSState 3) (if on then w else 0)

/-! ### Activation (R212–R215, R217) -/

/-- Instances that instance `i` names through block-output handles, but for the IN0 of a DELAY1. -/
def blkDeps (m : Map Word) (i : Nat) : List Nat :=
  let r := blkRec m i
  ((List.range 8).filterMap (fun k =>
    let h := r.ins.getD k 0xFFFF
    if 0x4000 ≤ h && h < 0x6000 && !(r.typ = 0x3D && k = 0) then some ((h - 0x4000) / 2) else none))
/-- The order of a network, or the lowest-numbered instance on a cycle. -/
def blkOrder (m : Map Word) : List Nat × Option Nat :=
  let l := blkAll m
  let (o, left) := topo (blkDeps m) l.length l []
  (o, if left.isEmpty then none else onCycle (blkDeps m) left)
/-- Valid rows of a state table in the configuration `s`. -/
def blkRows (s : State) (t : Nat) : List Word :=
  ((List.range 16).map (fun j => s.word (rBlkTbl t j))).filter (fun w => bitAt w 31)
/-- Cycles of an instance (R217). -/
def blkCycles (s : State) (m : Map Word) (i : Nat) : Nat :=
  let r := blkRec m i
  let c := blkCat r.typ
  12 + c.cyc + c.per * r.n + (if r.typ = 0x39 then 6 * (s.blkRows (r.arg % 8)).length else 0)
def blkCost (s : State) (m : Map Word) : Nat := ((blkAll m).map (s.blkCycles m)).foldl (· + ·) 0

/-- R214, R219, R222, R223, R227: the first instance refused in the configuration `s` with network `m`. -/
def blkBadRef (s : State) (m : Map Word) (handleOk ownPt : Nat → Bool) : Option Nat :=
  let all := blkAll m
  let target (i : Nat) : Option Nat := let r := blkRec m i; if r.typ = 0x35 then some r.arg else none
  let bad (i : Nat) : Bool :=
    let r := blkRec m i
    let c := blkCat r.typ
    let conn (k : Nat) : Bool := r.conn k
    (List.range 8).any (fun k => (conn k && (c.top ≤ k || !handleOk (r.ins.getD k 0)))
        || (!conn k && (k < c.req || (c.var && k < r.n))))
      || !bRangeOk r
      || (match r.typ with
        | 0x03 => !ownPt r.arg
        | 0x30 => !curveRising ((List.range (r.arg / 256 % 16 + 1)).map (fun j =>
            (s.geti (fBlkCurveValue (r.arg % 16) (2 * j)), s.geti (fBlkCurveValue (r.arg % 16) (2 * j + 1)))))
        | 0x35 =>
          let t := r.arg % 256
          all.any (fun j => j ≠ i && target j = some r.arg) || (match r.arg / 0x4000 with
            | 1 => !isOut (s.get (fUchCfgMode t)) || (t % 2 = 1 && s.get (fUchCfgMode (t - 1)) = 0xD)
            | 2 => !s.bit (fFanCfgEn t) || !s.bit (fFanDrvDrvEn t)
            | _ => !s.bit (fZoneCfgEn t))
        | 0x39 => (s.blkRows (r.arg % 8)).any (fun w => r.n ≤ bitsOf w 20 3)
        | _ => false)
  all.find? bad

/-- A new network takes over (R208, R210, R215): `m` with its order. -/
def blkSwitch (s : State) (m : Map Word) (order : List Nat) : State :=
  let stays (i : Nat) : Bool := blkOn m i && (s.blkSt i).typ = (blkRec m i).typ
  let s := (blkAll s.net.run).foldl (fun s i =>
    if stays i then s else
    let b := s.blkSt i
    let s := if b.act ≠ 0 then (s.clearFault (0x8000 + b.act) i).irq 0x61 0 else s
    s.updNet (fun n => { n with
      snReq := n.snReq.map (fun q => if q.2.2 = i then (q.1, q.2.1, 4096) else q)
      snRes := Map.put (fun _ => none) n.snRes i none, snImg := Map.put (fun _ => none) n.snImg i none })) s
  let new := (blkAll m).foldl (fun t i =>
    let r := blkRec m i
    let b : BlkSt := if stays i then s.blkSt i
      else { typ := r.typ, s0 := if r.typ = 0x39 then (r.opt % 8 : Nat) else 0 }
    Map.put (fun _ => ({} : BlkSt)) t i b) []
  let s := { s with eng := { s.eng with blk := new } }
  let s := (List.range 256).foldl (fun s k =>
    let c : Val := { v := s.geti (fBlkConstValue k), st := .ok, ts := s.now }
    (s.setVis (0x6000 + k) c)) s
  let s := (List.range 4096).foldl (fun s i =>
    if !blkOn s.net.run i && !blkOn m i then s else
    let b := s.blkSt i
    ((s.setVis (0x4000 + 2 * i) (if blkOn m i then b.o0 else {})).setVis (0x4001 + 2 * i) (if blkOn m i then b.o1 else {}))) s
  let capd := ((List.range 128).map (fun j => rBlkTbl 0 0 + 4 * j) ++ (List.range 512).map (fun j => rBlkCurve 0 0 + 4 * j)).foldl
    (fun c a => Map.put (fun _ => 0#32) c a (s.word a)) ([] : Map Word)
  let s := s.updNet (fun n => { n with run := m, order := order, cap := capd, retune := [] })
  let s := s.set fBlkNetStatCount (blkAll m).length
  (s.set fBlkCostCycles (s.blkCost m)).set fBlkAlmActive s.blkActive

end State
end Sys2Proof.Machine
end

