-- ==== Sys2Proof/Machine/Crc.lean ====
section
/-! DEFINITION. The two checks of the spec: CRC-32 (R273: IEEE 802.3, reflected, initial and final 0xFFFF_FFFF) and the host
port's CRC-16 (R66: polynomial 0x1021, initial 0xFFFF, not reflected, no final XOR). -/
set_option Elab.async false
namespace Sys2Proof.Machine

/-- One bit of the reflected CRC-32. -/
def crc32Bit (c : BitVec 32) : BitVec 32 := if c.getLsbD 0 then (c >>> 1) ^^^ 0xEDB88320#32 else c >>> 1
def crc32Bits : Nat → BitVec 32 → BitVec 32
  | 0, c => c
  | n + 1, c => crc32Bits n (crc32Bit c)
def crc32Byte (c : BitVec 32) (b : Byte) : BitVec 32 := crc32Bits 8 (c ^^^ b.setWidth 32)
/-- The running register after the bytes (no final XOR). -/
def crc32Run (c : BitVec 32) (bs : List Byte) : BitVec 32 := bs.foldl crc32Byte c
/-- CRC-32 of R273. -/
def crc32 (bs : List Byte) : Nat := (crc32Run 0xFFFFFFFF#32 bs ^^^ 0xFFFFFFFF#32).toNat

def crc16Bit (c : BitVec 16) : BitVec 16 := if c.getLsbD 15 then (c <<< 1) ^^^ 0x1021#16 else c <<< 1
def crc16Bits : Nat → BitVec 16 → BitVec 16
  | 0, c => c
  | n + 1, c => crc16Bits n (crc16Bit c)
def crc16Byte (c : BitVec 16) (b : Byte) : BitVec 16 := crc16Bits 8 (c ^^^ (b.setWidth 16 <<< 8))
/-- CRC-16 of R66. -/
def crc16 (bs : List Byte) : Nat := (bs.foldl crc16Byte 0xFFFF#16).toNat

/-- The bytes of words as the host port and the windows carry them (R5). -/
def wordsBytes (ws : List Word) : List Byte := ws.flatMap (fun w => leBytes 4 w.toNat)
/-- Words from bytes, least significant first; a short tail is padded with zero bytes. -/
def bytesWords : List Byte → List Word
  | a :: b :: c :: d :: t => BitVec.ofNat 32 (leNat [a, b, c, d]) :: bytesWords t
  | [] => []
  | t => [BitVec.ofNat 32 (leNat t)]

end Sys2Proof.Machine
end

