-- ==== Sys2Proof/Machine/Key.lean ====
section
/-! DEFINITION. The key matrix, the encoders, the hardware combinations and the panel writes (R422–R431, R444). -/
set_option Elab.async false
namespace Sys2Proof.Machine

/-- Code of the key at row `r` and column `c` (R422). -/
def keyCode (r c : Nat) : Nat := 8 * r + c
/-- The rectangles complete in an image: two rows and two columns whose four keys are all in it (R424). -/
def rects (m : Nat) : List (Nat × Nat × Nat × Nat) :=
  (List.range 8).flatMap (fun r => (List.range 8).flatMap (fun r2 =>
    if r2 ≤ r then [] else
    let both := (List.range 8).filter (fun c => bitNat m (keyCode r c) && bitNat m (keyCode r2 c))
    both.flatMap (fun c => (both.filter (fun c2 => c < c2)).map (fun c2 => (r, r2, c, c2)))))
def rectKeys (q : Nat × Nat × Nat × Nat) : List Nat :=
  [keyCode q.1 q.2.2.1, keyCode q.1 q.2.2.2, keyCode q.2.1 q.2.2.1, keyCode q.2.1 q.2.2.2]

namespace State

def updKey (s : State) (f : KeySt → KeySt) : State := { s with key := f s.key }
/-- Minutes left of PANEL_UNLOCK, rounded up. -/
def unlockLeft (s : State) : Nat := match s.key.unlock with | some t => min 255 (ceilDiv (t - s.now) 60000000) | none => 0
def keyFaces (s : State) : State :=
  let s := s.setB fKeyStatScanning s.key.scanning
  let s := s.set fKeyStatFifo s.key.fifo.length
  let s := s.set fKeyStatUnlockLeft s.unlockLeft
  let s := s.set fKeyImageLoKeys s.key.rep
  let s := s.set fKeyImageHiKeys (s.key.rep / 2 ^ 32)
  (s.setB (fKeyEncSw 0) (bitNat s.key.rep 64)).setB (fKeyEncSw 1) (bitNat s.key.rep 65)

/-- An event enters the FIFO, or is dropped when it is full (R425). -/
def keyPost (s : State) (e : KeyEv) : State :=
  if 16 ≤ s.key.fifo.length then s.irq 0x90 2
  else (s.updKey (fun k => { k with fifo := k.fifo ++ [e] })).irq 0x90 0
/-- A read of KEY.EVT removes the oldest event (R425). -/
def keyRead (s : State) : Word × State :=
  match s.key.fifo with
  | [] => (0, s)
  | e :: l =>
    let w := 0x80000000 + e.kind * 0x20000000 + (if e.refused then 0x10000000 else 0) + e.code * 0x10000 + e.time
    (BitVec.ofNat 32 w, (s.updKey (fun k => { k with fifo := l })).keyFaces)

/-- Combination `k` matches the reported image: exactly its keys (R427). -/
def comboKeys (s : State) (k : Nat) : Nat :=
  (List.range 4).foldl (fun m j =>
    let b := s.get (fKeyComboKeysKeys k) / 2 ^ (8 * j) % 256
    if 128 ≤ b then setBitNat m (b % 128) true else m) 0
def comboMatch (s : State) (k : Nat) : Bool :=
  s.bit (fKeyComboCtrlEn k) && s.comboKeys k ≠ 0 && s.key.rep = s.comboKeys k

/-- The counters of one key after a scan, and whether it is a candidate (R423). -/
def keyCount (s : State) (i : Nat) (down : Bool) : State :=
  let p := if down then min 255 (Map.look (fun _ => 0) s.key.pres i + 1) else 0
  let a := if down then 0 else min 255 (Map.look (fun _ => 0) s.key.absn i + 1)
  let was := bitNat s.key.cand i
  let now_ := if was then !(s.get fKeyCfgTrel ≤ a) else decide (s.get fKeyCfgTpress ≤ p)
  s.updKey (fun k => { k with
    pres := Map.put (fun _ => 0) k.pres i p, absn := Map.put (fun _ => 0) k.absn i a
    cand := setBitNat k.cand i now_ })

/-- One scan (R422–R425): debounce, ghosts, reports in ascending code order, and the matches of the combinations. -/
def keyScan (s : State) (m : Matrix) : State :=
  let s := if bitNat m.keys 0 && bitNat m.keys 63 then s else s.updKey (fun k => { k with fixed := false })
  if !s.key.scanning || !s.en 0x90 then s else
  let s := s.at_ (s.key.last + 1000)
  let closed := m.keys % 2 ^ 64 + (if m.sw0 then 2 ^ 64 else 0) + (if m.sw1 then 2 ^ 65 else 0)
  let old := s.key.cand
  let s := (List.range 66).foldl (fun s i => s.keyCount i (bitNat closed i)) s
  let cand := s.key.cand
  let before := rects old
  let all := rects cand
  let fresh := all.filter (fun q => !before.contains q)
  let newly := (List.range 66).filter (fun i => bitNat cand i && !bitNat old i)
  let ghost := !fresh.isEmpty
  let keys : List Nat := if ghost then newly.filter (fun i => i < 64) else []
  -- keys suppressed before this scan that now stand free of any rectangle, or are gone
  let held := (List.range 64).filter (fun i => bitNat s.key.supp i)
  let freed := held.filter (fun i => bitNat cand i && !all.any (fun q => (rectKeys q).contains i))
  let gone := held.filter (fun i => !bitNat cand i)
  let pressed := newly.filter (fun i => !keys.contains i) ++ freed
  let released := (List.range 66).filter (fun i => bitNat s.key.rep i && !bitNat cand i)
  let s := s.updKey (fun k => { k with
    last := s.now
    supp := keys.foldl (fun m i => setBitNat m i true) ((freed ++ gone).foldl (fun m i => setBitNat m i false) k.supp)
    rep := released.foldl (fun m i => setBitNat m i false) (pressed.foldl (fun m i => setBitNat m i true) k.rep) })
  let t := s.now / 1000 % 65536
  let low := keys.head?
  let s := (List.range 66).foldl (fun s i =>
    let s := if pressed.contains i then s.keyPost { kind := 0, code := i, time := t } else s
    let s := if released.contains i then s.keyPost { kind := 1, code := i, time := t } else s
    if low = some i then fresh.foldl (fun s _ => (s.keyPost { kind := 2, code := i, time := t }).irq 0x90 3) s else s) s
  -- each reported press restarts the time of PANEL_UNLOCK (R428)
  let s := if pressed.isEmpty || s.key.unlock.isNone then s
    else s.updKey (fun k => { k with unlock := some (s.now + 60000000 * s.get fKeyCfgUnlockT) })
  let s := (List.range 4).foldl (fun s k => s.updKey (fun x => { x with
    since := Map.put (fun _ => none) x.since k
      (if s.comboMatch k then some ((Map.look (fun _ => none) x.since k).getD s.now) else none)
    fired := Map.put (fun _ => false) x.fired k (Map.look (fun _ => false) x.fired k && x.rep ≠ 0) })) s
  let calm := closed = 0 && s.key.rep = 0
  (s.updKey (fun k => { k with quiet := if calm then some (k.quiet.getD s.now) else none })).keyFaces

/-- A row reads low while the matrix is idle (R422). -/
def keyWake (s : State) : State :=
  if s.key.scanning || !s.en 0x90 then s
  else (s.updKey (fun k => { k with scanning := true, last := s.now, quiet := none })).keyFaces
/-- 200 ms after the scans became quiet, the matrix is idle again (R422). -/
def keyIdle (s : State) : State :=
  match s.key.scanning, s.key.quiet with
  | true, some t =>
    let s := s.at_ (t + 200000)
    (s.updKey (fun k => { k with scanning := false, quiet := none, cand := 0, supp := 0, pres := [], absn := [] })).keyFaces
  | _, _ => s
/-- EN of the KEY page goes to 0: the scanner stops and the matrix is left idle (R431). -/
def keyStop (s : State) : State :=
  (s.updKey (fun k => { k with scanning := false, quiet := none, since := [] })).keyFaces

/-- A debounced level pair of an encoder, 2A + B (R426). Clockwise is A leading: 0, 2, 3, 1, 0. -/
def encTurn (a b : Nat) : Int :=
  match a, b with
  | 0, 2 => 1 | 2, 3 => 1 | 3, 1 => 1 | 1, 0 => 1
  | 2, 0 => -1 | 3, 2 => -1 | 1, 3 => -1 | 0, 1 => -1
  | _, _ => 0
def encoderMove (s : State) (e ab : Nat) : State :=
  if 2 ≤ e then s else
  let ab := ab % 4
  let old := Map.look (fun _ => 0) s.key.ab e
  let d := encTurn old ab
  let dir := if e = 0 then s.bit fKeyEncCfgDir0 else s.bit fKeyEncCfgDir1
  let d := if dir then -d else d
  let n : Int := match (if e = 0 then s.get fKeyEncCfgSteps0 else s.get fKeyEncCfgSteps1) with | 0 => 4 | 1 => 2 | _ => 1
  let sub := Map.look (fun _ => 0) s.key.sub e + d
  let full := sub = n || sub = -n
  let s := s.updKey (fun k => { k with
    ab := Map.put (fun _ => 0) k.ab e ab, sub := Map.put (fun _ => 0) k.sub e (if full then 0 else sub) })
  if full then ((s.seti (fKeyEncCount e) (s.geti (fKeyEncCount e) + (if 0 < sub then 1 else -1))).irq 0x90 1) else s

/-- A combination that has matched for HOLD fires (R427, R428); answers the action it carries out. -/
def comboFire (s : State) (k : Nat) : Option Nat × State :=
  if 4 ≤ k || !s.en 0x90 || !s.comboMatch k || Map.look (fun _ => false) s.key.fired k then (none, s) else
  match Map.look (fun _ => none) s.key.since k with
  | none => (none, s)
  | some t =>
    let s := s.at_ (t + 1000000 * s.get (fKeyComboCtrlHold k))
    let act := s.get (fKeyComboCtrlAction k)
    let refused := act = 3 && s.bit fSysStrapsServiceN
    let s := s.updKey (fun x => { x with fired := Map.put (fun _ => false) x.fired k true })
    let s := (s.keyPost { kind := 3, refused := refused, code := k, time := s.now / 1000 % 65536 }).irq 0x90 4
    let s := match act with
      | 1 => (s.setB fKeyStatUnlocked true).updKey (fun x => { x with
          unlock := some (s.now + 60000000 * s.get fKeyCfgUnlockT) })
      | 2 => ((s.setB fKeyStatUnlocked true).setB fKeyStatCommission true).updKey (fun x => { x with unlock := none })
      | _ => s
    (if refused then none else some act, s.keyFaces)

/-- PANEL_UNLOCK runs out (R428). -/
def unlockExpiry (s : State) : State :=
  match s.key.unlock with
  | none => s
  | some t =>
    let s := s.at_ t
    let s := s.updKey (fun k => { k with unlock := none })
    (if s.bit fKeyStatCommission then s else s.setB fKeyStatUnlocked false).keyFaces
/-- CMD.LOCK (R428). -/
def panelLock (s : State) : State :=
  (((s.updKey (fun k => { k with unlock := none })).setB fKeyStatUnlocked false).setB fKeyStatCommission false).keyFaces

/-- A write of PANEL_WR (R430): level 1 of a target from PANEL_VAL, or with REL = 1 its release; a HOST point in
commissioning. -/
def panelWr (s : State) (w : Word) : State :=
  let rel := bitAt w 31
  let kind := bitsOf w 29 2
  let i := bitsOf w 0 14
  let v := s.geti fKeyPanelValValue
  let bad := s.blkErr 0x90 0x42 true 0x064
  if !s.bit fKeyStatUnlocked || (kind = 0 && !s.bit fKeyStatCommission) then s.blkErr 0x90 0x41 true 0x064
  else match kind with
  | 0 =>
    if s.kindOf i ≠ some 1 || rel then bad
    else { s with dir := { s.dir with hostW := s.dir.hostW ++ [(i, v)] } }
  | 1 =>
    if 96 ≤ i || !s.isOutput i then bad
    else { s with hostLv := s.hostLv ++ [{ out := i, lv := 1, v := if rel then none else some v }] }
  | 2 =>
    if 24 ≤ i then bad
    else { s with hostLv := s.hostLv ++ [{ out := 96 + i, lv := 1, v := if rel then none else some v }] }
  | _ =>
    let m := divHalfUp v 65536
    if 96 ≤ i || (!rel && (m < 0 || 4 < m)) then bad
    else { s with hostZm := s.hostZm ++ [{ fen := false, idx := i, lv := 1, v := if rel then none else some m.toNat }] }

/-- What a write of a KEY register is refused for (R427, R444): BAD_COMBO. -/
def comboBad (w : Word) (en : Bool) : Bool :=
  let bs := (List.range 4).map (fun j => bitsOf w (8 * j) 8)
  let used := (bs.filter (fun b => 128 ≤ b)).map (fun b => b % 128)
  let corner := used.any (fun a => used.any (fun b => used.any (fun c =>
    a < 64 && b < 64 && c < 64 && a ≠ b && a ≠ c && a / 8 = b / 8 && a % 8 = c % 8)))
  bs.any (fun b => 65 < b % 128) || (en && used.isEmpty) || corner
def keyRefuse (s : State) (off : Nat) (w : Word) : Option Nat :=
  if off = 0x020 then (if bitsOf w 24 8 = 0 || bitsOf w 16 8 = 0 then some 0x40 else none)
  else if off = 0x03C then (if bitsOf w 0 2 = 3 || bitsOf w 2 2 = 3 then some 0x40 else none)
  else if 0x040 ≤ off && off < 0x060 then
    let k := (off - 0x040) / 8
    if off % 8 = 0 then
      (if bitsOf w 24 5 = 0 || comboBad (s.word (rKeyComboKeys k)) (bitAt w 31) then some 0x40 else none)
    else (if comboBad w (s.bit (fKeyComboCtrlEn k)) then some 0x40 else none)
  else none

end State
end Sys2Proof.Machine
end

