-- ==== Sys2Proof/Machine/Epd.lean ====
section
/-! DEFINITION. The bistable display (R432–R443, R445): frame memory, waveforms, updates, rails, checksum, boot clear. -/
set_option Elab.async false
namespace Sys2Proof.Machine

/-- Phase counts lie in bytes 0–2 of a band's table: GREY, MONO, CLEAR (R435). -/
def modeByte (mode : Nat) : Nat := match mode with | 1 => 0 | 2 => 1 | _ => 2
/-- Two rectangles share a pixel. -/
def overlap (a b : Upd) : Bool := a.x < b.x + b.w && b.x < a.x + a.w && a.y < b.y + b.h && b.y < a.y + a.h

namespace State

def updEpd (s : State) (f : EpdSt → EpdSt) : State := { s with epd := f s.epd }
/-- A word of the EPD window's storage, by window offset. -/
def epdWord (s : State) (o : Nat) : Word := Map.look (fun _ => 0#32) s.epd.win (o / 4)
def epdByte (s : State) (o : Nat) : Nat := bitsOf (s.epdWord o) (8 * (o % 4)) 8
def imageBytes (s : State) : Nat := s.get fEpdGeomW * s.get fEpdGeomH / 2
/-- Grey of pixel (x, y) in the new image (R434). -/
def newGrey (s : State) (x y : Nat) : Nat :=
  let b := s.epdByte (y * (s.get fEpdGeomW / 2) + x / 2)
  if x % 2 = 0 then b % 16 else b / 16
def curGrey (s : State) (x y : Nat) : Nat := Map.look (fun _ => 15) s.epd.cur (1024 * y + x)
/-- Start of a band's tables in the window. -/
def bandBase (b : Nat) : Nat := 0x40000 + 0x2000 * b
def phaseCount (s : State) (band mode : Nat) : Nat := min 64 (s.epdByte (bandBase band + modeByte mode))
/-- Two bits of a table: bit pair `k` from byte offset `o`. -/
def lut2 (s : State) (o k : Nat) : Nat := s.epdByte (o + k / 4) / 4 ^ (k % 4) % 4
/-- The drive code of an update for a pixel of current grey `c` and new grey `n` in phase `p` (R435). -/
def lutCode (s : State) (band mode p c n : Nat) : Nat :=
  match mode with
  | 1 => s.lut2 (bandBase band + 0x0220 + 64 * p) (16 * n + c)
  | 2 => s.lut2 (bandBase band + 0x0020 + 8 * p) (16 * (if n < 8 then 0 else 1) + c)
  | _ => s.lut2 (bandBase band + 0x0010) p
/-- The current grey that pixels take when an update of a mode ends (R435). -/
def endGrey (mode n : Nat) : Nat := match mode with | 1 => n | 2 => if n < 8 then 0 else 15 | _ => 15
def inside (u : Upd) (x y : Nat) : Bool := u.x ≤ x && x < u.x + u.w && u.y ≤ y && y < u.y + u.h
/-- The code that the panel bus carries for a pixel in the present frame (R432, R438, R441). -/
def driveCode (s : State) (x y : Nat) : Nat :=
  match s.epd.boot with
  | .run d r b _ =>
    if d < 2 * r then (if d % 2 = 0 then 2 else 1) else s.lutCode b 0 (d - 2 * r) 0 0
  | _ =>
    match s.epd.runs.find? (fun q => inside q.u x y) with
    | some q => s.lutCode q.band q.u.mode q.phase (s.curGrey x y) (q.buf.getD ((y - q.u.y) * q.u.w + (x - q.u.x)) 0)
    | none => 0

def epdFaces (s : State) : State :=
  let s := s.set fEpdRunQdepth s.epd.queue.length
  let s := s.set fEpdRunSlots (s.epd.runs.foldl (fun m q => m + 2 ^ q.slot) 0)
  let s := s.setB fEpdRunBootPend (s.epd.boot ≠ .no)
  s.setB fEpdFbStatLatch (s.epd.runs.any (fun q => q.copying))
/-- The rails are not all down. -/
def railsOn (s : State) : Bool := s.epd.rails ≠ .down

/-- The rails are asked for when work waits while they are off (R433, R443). -/
def railsAsk (s : State) : State :=
  let boot := match s.epd.boot with | .pend => s.phaseCount (s.get fEpdRunBand) 0 ≠ 0 | _ => false
  if s.epd.rails = .down && s.en 0x91 && !s.bit fPwrStatPfw && (boot || !s.epd.queue.isEmpty) then
    s.updEpd (fun e => { e with rails := .rising 0, railT := s.now })
  else s
/-- UPD_RES takes the outcome of a request. -/
def updRes (s : State) (res id : Nat) : State := (s.set fEpdUpdResResult res).set fEpdUpdResId id
/-- A request is refused (R437, R438). -/
def updRefuse (s : State) (res id : Nat) : State := (s.updRes res id).irq 0x91 2

/-- A write of UPD_CMD with GO = 1 (R437). -/
def updRequest (s : State) (w : Word) : State :=
  if !bitAt w 31 then s else
  let mode := bitsOf w 0 2
  let x := s.get fEpdUpdXyX
  let y := s.get fEpdUpdXyY
  let dw := s.get fEpdUpdWhW
  let dh := s.get fEpdUpdWhH
  let last := s.epd.acc % 256
  if mode = 3 || dw = 0 || dh = 0 || s.get fEpdGeomW < x + dw || s.get fEpdGeomH < y + dh then s.updRefuse 4 last
  else if s.phaseCount (s.get fEpdRunBand) mode = 0 then s.updRefuse 5 last
  else if 16 ≤ s.epd.queue.length then s.updRefuse 3 last
  else
    let id := (s.epd.acc + 1) % 256
    let u : Upd := { id := id, x := x, y := y, w := dw, h := dh, mode := mode }
    let s := s.updEpd (fun e => { e with queue := e.queue ++ [u], acc := id })
    ((s.updRes 0 id).railsAsk).epdFaces

/-- An update ends: its pixels take their current greys (R435, R438). -/
def updEnd (s : State) (q : UpdRun) : State :=
  let n := q.u.w * q.u.h
  let cur := (List.range n).foldl (fun m i =>
    let x := q.u.x + i % q.u.w
    let y := q.u.y + i / q.u.w
    Map.put (fun _ => 15) m (1024 * y + x) (endGrey q.u.mode (q.buf.getD i 0))) s.epd.cur
  let s := s.updEpd (fun e => { e with cur := cur, runs := e.runs.filter (fun r => r.slot ≠ q.slot) })
  (s.set fEpdRunLastDone q.u.id).irq 0x91 1

/-- A queued request starts in a free slot: band latched, pixels copied (R438). -/
def updStart (s : State) (u : Upd) : State :=
  let slot := ((List.range 8).find? (fun k => !(s.epd.runs.any (fun q => q.slot = k)))).getD 0
  let band := s.get fEpdRunBand
  let buf := (List.range (u.w * u.h)).map (fun i => s.newGrey (u.x + i % u.w) (u.y + i / u.w))
  let q : UpdRun := { slot := slot, u := u, band := band, total := s.phaseCount band u.mode, buf := buf }
  let s := s.updEpd (fun e => { e with runs := e.runs ++ [q], queue := e.queue.filter (fun v => v.id ≠ u.id), idle := none })
  s.irq 0x91 0

/-- The queue is scanned in order at a frame boundary (R437, R438). `earlier` are the requests that stay queued. -/
def updScan (s : State) : List Upd → List Upd → State
  | [], _ => s
  | u :: rest, earlier =>
    if 8 ≤ s.epd.runs.length || s.epd.runs.any (fun q => overlap q.u u) || earlier.any (fun v => overlap v u) then
      s.updScan rest (earlier ++ [u])
    else if !s.bit fEpdCfgChkEn then (s.updStart u).updScan rest earlier
    else if !s.bit fEpdFbStatCrcValid then
      let wait := u.wait.getD s.now
      let s := s.updEpd (fun e => { e with queue := e.queue.map (fun v => if v.id = u.id then { v with wait := some wait } else v) })
      s.updScan rest (earlier ++ [u])
    else if s.get fEpdFbCrcCrc ≠ s.get fEpdFbCrcExpectCrc then
      let s := s.updEpd (fun e => { e with queue := e.queue.filter (fun v => v.id ≠ u.id) })
      (s.updRefuse 1 u.id).updScan rest earlier
    else (s.updStart u).updScan rest earlier

/-- The boot clear advances one frame, or starts (R441). -/
def bootStep (s : State) : State :=
  match s.epd.boot with
  | .no => s
  | .pend =>
    let band := s.get fEpdRunBand
    let total := s.phaseCount band 0
    if total = 0 || !s.epd.runs.isEmpty then s
    else s.updEpd (fun e => { e with boot := .run 0 (s.get fEpdCfgRebal) band total, idle := none })
  | .run d r b total =>
    if d + 1 < 2 * r + total then s.updEpd (fun e => { e with boot := .run (d + 1) r b total })
    else (s.updEpd (fun e => { e with boot := .no, cur := [] })).irq 0x91 5

/-- Whole µs of a panel frame (R432). -/
def frameUs (s : State) : Nat :=
  let lines := s.get fEpdGeomH + s.get fEpdTimingVblank
  100000000 / (max 1 (s.get fEpdTimingFrameHz) * lines) * lines / 100

/-- A frame boundary (R437, R438, R441). -/
def epdBoundary (s : State) : State :=
  if s.epd.rails ≠ .up || !s.en 0x91 then s else
  let s := s.at_ (s.epd.frameT + s.frameUs)
  let s := s.updEpd (fun e => { e with frameT := s.now })
  let (done, run) := s.epd.runs.partition (fun q => q.total ≤ q.phase + 1)
  let s := s.updEpd (fun e => { e with runs := run.map (fun q => { q with phase := q.phase + 1 }) ++ done })
  let s := done.foldl updEnd s
  let s := s.bootStep
  let s := if s.epd.boot = .no then s.updScan s.epd.queue [] else s
  let busy := !s.epd.runs.isEmpty || (match s.epd.boot with | .run _ _ _ _ => true | _ => false)
  let s := s.updEpd (fun e => { e with idle := if busy then none else some (e.idle.getD s.now) })
  s.epdFaces

/-- The copy of an update's pixels completes (R438). -/
def updCopied (s : State) (id : Nat) : State :=
  if !s.epd.runs.any (fun q => q.u.id = id && q.copying) then s else
  (s.updEpd (fun e => { e with runs := e.runs.map (fun q => if q.u.id = id then { q with copying := false } else q) })).epdFaces

/-- No valid checksum within 200 ms of the boundary at which a request would have started (R438). -/
def crcStale (s : State) : State :=
  match s.epd.queue.find? (fun u => u.wait.isSome) with
  | none => s
  | some u =>
    if s.bit fEpdFbStatCrcValid then s else
    let s := s.at_ (u.wait.getD 0 + 200000)
    let s := s.updEpd (fun e => { e with queue := e.queue.filter (fun v => v.id ≠ u.id) })
    (s.updRefuse 2 u.id).epdFaces

/-- A checksum pass begins at a multiple of 50 ms, and ends (R439). -/
def crcPass (s : State) : State :=
  let s := s.at_ ((s.now + 49999) / 50000 * 50000)
  s.updEpd (fun e => { e with crcT := some s.now })
def crcPassEnd (s : State) : State :=
  match s.epd.crcT with
  | none => s
  | some t =>
    let s := s.at_ (t + 2000)
    let bs := (List.range (s.imageBytes / 4)).flatMap (fun i => leBytes 4 (s.epdWord (4 * i)).toNat)
    let s := s.updEpd (fun e => { e with crcT := none })
    (s.set fEpdFbCrcCrc (crc32 bs)).setB fEpdFbStatCrcValid true

/-- Running and queued updates end with an outcome; the boot clear waits again (R433, R440, R442). -/
def updAbort (s : State) (res : Option Nat) : State :=
  let ids := s.epd.runs.map (fun q => q.u.id) ++ s.epd.queue.map (fun u => u.id)
  let s := match res with | some r => ids.foldl (fun (s : State) i => s.updRefuse r i) s | none => s
  (s.updEpd (fun e => { e with
    runs := [], queue := [], boot := if e.boot = BootClr.no then BootClr.no else BootClr.pend })).epdFaces

/-- A rail is short at the end of its step: RAIL, NO_RAIL, and the rails go down (R433). -/
def railFail (s : State) (steps : Nat) : State :=
  let s := s.raise 0xF301 0 .minor
  let s := (s.updAbort (some 6)).irq 0x91 4
  s.updEpd (fun e => { e with rails := .falling (5 - steps), railT := s.now, fault := true })
/-- A 1.0 ms power-up step ends (R433). -/
def railStep (s : State) (good : Bool) : State :=
  match s.epd.rails with
  | .rising k =>
    let s := s.at_ (s.epd.railT + 1000)
    if !good then s.railFail (k + 1)
    else if k + 1 < 5 then s.updEpd (fun e => { e with rails := .rising (k + 1), railT := s.now })
    else
      let s := if s.epd.fault then s.clearFault 0xF301 0 else s
      let s := s.updEpd (fun e => { e with
        rails := .up, railT := s.now, frameT := s.now - s.frameUs, idle := some s.now, fault := false })
      s.setB fEpdRunRails true
  | _ => s
/-- No update has run for RAIL_HOLD × 10 ms: the rails start down in reverse order (R433). -/
def railHold (s : State) : State :=
  match s.epd.rails, s.epd.idle with
  | .up, some t =>
    if !s.epd.runs.isEmpty then s else
    let s := s.at_ (t + 10000 * s.get fEpdCfgRailHold)
    s.updEpd (fun e => { e with rails := .falling 0, railT := s.now })
  | _, _ => s
/-- A 1.0 ms step of the shutdown ends (R433). -/
def railDown (s : State) : State :=
  match s.epd.rails with
  | .falling k =>
    let s := s.at_ (s.epd.railT + 1000)
    if k + 1 < 5 then s.updEpd (fun e => { e with rails := .falling (k + 1), railT := s.now })
    else
      let s := s.updEpd (fun e => { e with rails := .down, railT := s.now, idle := none })
      -- after a RAIL fault the boot clear waits for the next request (R442)
      let s := s.setB fEpdRunRails false
      if s.epd.queue.isEmpty && s.epd.fault then s else s.railsAsk
  | _ => s
/-- PFW: the driver stops, its updates are abandoned and the rails are discharged (R440). -/
def epdPfw (s : State) : State :=
  ((s.updAbort none).updEpd (fun e => { e with rails := .down, idle := none })).setB fEpdRunRails false

/-- The temperature band (R436), from the point committed at a lath edge. -/
def bandTh (s : State) (b : Nat) : Int :=
  65536 * signedOf 8 (if b ≤ 4 then s.get fEpdBandTh0T / 2 ^ (8 * (b - 1)) else s.get fEpdBandTh1T / 2 ^ (8 * (b - 5)))
def bandOf (s : State) (t : Int) (b : Nat) : Nat :=
  let up := (List.range 7).foldl (fun m k => if s.bandTh (k + 1) ≤ t then max m (k + 1) else m) 0
  if b < up then up
  else (List.range 7).foldl (fun m _ => if 0 < m && t < s.bandTh m - 65536 then m - 1 else m) b
def bandUpdate (s : State) : State :=
  let v := s.visVal (s.get fEpdTempPt)
  let b := s.get fEpdRunBand
  let n := if !s.bit fEpdTempEn || v.st = .fault || v.st = .unconfirmed then s.get fEpdCfgDefBand else s.bandOf v.v b
  if n = b then s else (s.set fEpdRunBand n).irq 0x91 3

/-- The first commit after reset: the boot clear, or the current image taken as white (R441). -/
def bootClear (s : State) : State :=
  ((s.updEpd (fun e => { e with boot := if s.bit fEpdCfgBootClear then .pend else .no, cur := [] })).railsAsk).epdFaces

/-! ### Window and registers (R434, R435, R443) -/

def epdRead (s : State) (o : Nat) : Word :=
  if o < 0x40000 then (if o < s.imageBytes then s.epdWord o else 0)
  else if o < 0x50000 then (if o % 0x2000 < 0x1220 then s.epdWord o else 0)
  else 0
/-- The mode whose tables a table word belongs to; `none` is the counts word, which belongs to all. -/
def lutMode (o : Nat) : Option Nat :=
  let k := o % 0x2000
  if k < 0x10 then none else if k < 0x20 then some 0 else if k < 0x220 then some 2 else some 1
def lutBusy (s : State) (o : Nat) : Bool :=
  let b := (o - 0x40000) / 0x2000
  let uses (band mode : Nat) : Bool := band = b && (match lutMode o with | none => true | some m => m = mode)
  s.epd.runs.any (fun q => uses q.band q.u.mode) || (match s.epd.boot with | .run _ _ c _ => uses c 0 | _ => false)
/-- A write of a window word: whether it is taken, or NOT_READY with what that records. -/
def epdWrite (s : State) (o : Nat) (w : Word) : Bool × State :=
  if o < 0x40000 then
    if s.epd.runs.any (fun q => q.copying) then (false, s)
    else if s.imageBytes ≤ o then (true, s)
    else
      let s := s.updEpd (fun e => { e with win := Map.put (fun _ => 0#32) e.win (o / 4) w, crcT := none })
      (true, s.setB fEpdFbStatCrcValid false)
  else if o < 0x50000 then
    if s.lutBusy o then (false, s.blkErr 0x91 0x42 true (o % 0x1000))
    else if o % 0x2000 < 0x1220 then
      let k := o % 0x2000
      let w := if k < 0x10 then (if k = 0 then w &&& 0x00FFFFFF#32 else 0#32) else w
      let s := s.updEpd (fun e => { e with win := Map.put (fun _ => 0#32) e.win (o / 4) w })
      (true, if s.epd.boot = .pend then s.railsAsk else s)
    else (true, s)
  else (true, s)

/-- BAD_TIMING of R432. -/
def timingBad (wd ht vb hz div : Nat) : Bool :=
  vb < 1 || 32 < vb || hz < 50 || 85 < hz || div < 2
    || 100000000 / (max 1 hz * (ht + vb)) < wd / 8 * div + 64
/-- What a write of an EPD register is refused for (R432, R436, R443). -/
def epdRefuse (s : State) (off : Nat) (w : Word) : Option Nat :=
  let on := s.railsOn
  match off with
  | 0x020 =>
    let wd := bitsOf w 0 16
    let ht := bitsOf w 16 16
    if wd < 8 || 800 < wd || wd % 8 ≠ 0 || ht < 1 || 600 < ht then some 0x40
    else if timingBad wd ht (s.get fEpdTimingVblank) (s.get fEpdTimingFrameHz) (s.get fEpdTimingSdDiv) then some 0x41
    else if on && w ≠ s.word rEpdGeom then some 0x43 else none
  | 0x024 =>
    if timingBad (s.get fEpdGeomW) (s.get fEpdGeomH) (bitsOf w 24 8) (bitsOf w 16 8) (bitsOf w 0 5) then some 0x41
    else if on && w ≠ s.word rEpdTiming then some 0x43 else none
  | 0x028 => if on && w ≠ s.word rEpdVcom then some 0x43 else none
  | 0x034 =>
    let t (k : Nat) : Int := signedOf 8 (bitsOf w (8 * k) 8)
    if t 0 < t 1 && t 1 < t 2 && t 2 < t 3 && 65536 * t 3 < s.bandTh 5 then none else some 0x44
  | 0x038 =>
    let t (k : Nat) : Int := signedOf 8 (bitsOf w (8 * k) 8)
    if s.bandTh 4 < 65536 * t 0 && t 0 < t 1 && t 1 < t 2 then none else some 0x44
  | _ => none

end State
end Sys2Proof.Machine
end

