-- ==== Sys2Proof/Machine/Store.lean ====
section
/-! DEFINITION. The parameter store (R270–R288): slots, write runs, block protect, recall. -/
set_option Elab.async false
namespace Sys2Proof.Machine

def RunSrc.code : RunSrc → Nat
  | .window => 0 | .staged => 1 | .tme => 2 | .fan => 3 | .levee => 4 | .fab => 5 | .control => 6

namespace State

def updSto (s : State) (f : StoSt → StoSt) : State := { s with sto := f s.sto }
def pslot (s : State) (k : Nat) : PSlot := Map.look (fun _ => {}) s.sto.slots k
def setPslot (s : State) (k : Nat) (x : PSlot) : State :=
  s.updSto (fun t => { t with slots := Map.put (fun _ => {}) t.slots k x })
/-- The served slot of a page, as the slots stand (R274): its key. -/
def servedSlot (s : State) (p : Nat) : Option Nat :=
  let a := s.pslot (2 * p)
  let b := s.pslot (2 * p + 1)
  if a.valid && b.valid then (if a.seq < b.seq then some (2 * p + 1) else some (2 * p))
  else if a.valid then some (2 * p) else if b.valid then some (2 * p + 1) else none
/-- The 64 words of a page as its slots give them; a page with no valid slot is all ones. -/
def pageWords (s : State) (p : Nat) : List Word :=
  match s.servedSlot p with
  | some k => (List.range 64).map (fun i => (s.pslot k).data.getD i 0xFFFFFFFF#32)
  | none => List.replicate 64 0xFFFFFFFF#32
/-- Put a page into the served RAM image. -/
def serve (s : State) (p : Nat) (ws : List Word) : State :=
  s.updSto (fun t => { t with
    ram := (List.range 64).foldl (fun m i => Map.put (fun _ => 0xFFFFFFFF#32) m (64 * p + i) (ws.getD i 0xFFFFFFFF#32)) t.ram })
/-- A byte of the served image. -/
def storeByte (s : State) (a : Nat) : Byte := BitVec.ofNat 8 ((s.storeWord a).toNat / 2 ^ (8 * (a % 4)))
def storeBytes (s : State) (a n : Nat) : List Byte := (List.range n).map (fun i => s.storeByte (a + i))

/-! ### Refusals (R271, R276, R284) -/

/-- The lowest protected address under BP (R284). -/
def bpBase (bp : Nat) : Nat := match bp with | 0 => 0x40000 | 1 => 0x30000 | 2 => 0x20000 | _ => 0
def runProtected (s : State) (addr len : Nat) : Bool :=
  bpBase (s.get fStoreProtectBp) < addr + len
/-- A host run that touches the control record or the key material (R271). -/
def runDeviceOnly (addr len : Nat) : Bool :=
  (addr < 0x30100 && 0x30000 < addr + len) || (addr < 0x3C000 && 0x38000 < addr + len)
def runPages (addr len : Nat) : Nat := if len = 0 then 0 else (addr + len - 1) / 256 - addr / 256 + 1

/-- A run is refused whole: LAST_RUN, BLK_ERR and IRQ_STAT.RUN_FAIL (R276). `off` is the word offset BLK_ERR shows. -/
def runRefuse (s : State) (src : RunSrc) (addr len result cause off : Nat) : State :=
  let s := s.set fStoreLastRunResult result
  let s := s.set fStoreLastRunSrc src.code
  let s := s.set fStoreLastRunTotal (runPages addr len)
  let s := s.set fStoreLastRunDone 0
  let s := s.set fStoreLastRunAddrAddr addr
  (s.blkErr 0x70 cause true off).irq 0x70 1

/-! ### Runs (R275–R283) -/

def storeFaces (s : State) : State :=
  let s := s.setB fStoreStatusBusy s.sto.cur.isSome
  let s := s.set fStoreStatusQdepth s.sto.queue.length
  let s := match s.sto.cur with | some r => s.set fStoreStatusPage (r.addr / 256 + r.done) | none => s
  let s := s.setB fStoreStatusBpArmed s.sto.armed.isSome
  s.set (fBlkState 0x70) (if !s.sto.served then 0 else if s.sto.cur.isSome then 2 else 1)

/-- Programming begins: RUN_ID, journal, LAST_RUN (R277). -/
def runStart (s : State) (r : Run) : State :=
  let id := (s.sto.runId + 1) % 2 ^ 32
  let n := runPages r.addr r.bytes.length
  let s := s.updSto (fun t => { t with
    runId := id, journal := some (id, r.addr, n)
    cur := some { r with id := id, total := n, done := 0, tries := 0 } })
  let s := s.set fStoreLastRunSrc r.src.code
  let s := s.set fStoreLastRunTotal n
  let s := s.set fStoreLastRunDone 0
  (s.set fStoreLastRunAddrAddr r.addr).storeFaces

/-- BP governs a run when it starts; the control record and the levee's key material are exempt (R284, R285). -/
def runBarred (s : State) (r : Run) : Bool :=
  (r.src ≠ .control && !(r.src = .levee && 0x38000 ≤ r.addr) && s.runProtected r.addr r.bytes.length)
    || ((r.src = .window || r.src = .staged) && runDeviceOnly r.addr r.bytes.length)

/-- An engine requests a run: it starts, waits, or is refused (R276, R279, R282, R284). Answers whether it was accepted. -/
def engineRun (s : State) (r : Run) : Bool × State :=
  if s.sto.closed then (false, s)
  else if s.sto.cur.isSome || !s.sto.served then
    if 4 ≤ s.sto.queue.length then (false, s)
    else (true, (s.updSto (fun t => { t with queue := t.queue ++ [r] })).storeFaces)
  else if s.runBarred r then (false, s.runRefuse r.src r.addr r.bytes.length 6 0x41 0)
  else (true, s.runStart r)

/-- The next queued run that may start does (R279). -/
def runNext : Nat → State → State
  | 0, s => s
  | n + 1, s =>
    match s.sto.cur, s.sto.queue with
    | none, r :: q =>
      let s := s.updSto (fun t => { t with queue := q })
      if s.runBarred r then
        runNext n ((s.runRefuse r.src r.addr r.bytes.length 6 0x41 0).updSto
          (fun t => { t with ended := t.ended ++ [(r.src, r.tag, false)] }))
      else s.runStart r
    | _, _ => s

/-- A run ends with a LAST_RUN code; its journal is kept when it was abandoned (R277, R282). -/
def runEnd (s : State) (r : Run) (result : Nat) : State :=
  let s := s.set fStoreLastRunResult result
  let s := s.set fStoreLastRunDone r.done
  let s := s.updSto (fun t => { t with
    cur := none, journal := if result = 2 || result = 3 then t.journal else none
    ended := t.ended ++ [(r.src, r.tag, decide (result = 1))] })
  let s := if result = 1 then s.irq 0x70 0 else s.irq 0x70 1
  (runNext 5 s).storeFaces

/-- The data of a page with the run's bytes merged in (R274). -/
def mergePage (s : State) (r : Run) (p : Nat) : List Word :=
  let old := wordsBytes (s.pageWords p)
  bytesWords ((List.range 256).map (fun i =>
    let a := 256 * p + i
    if r.addr ≤ a && a < r.addr + r.bytes.length then r.bytes.getD (a - r.addr) 0 else old.getD i 0xFF#8))
/-- The page with the highest SEQ (R288). -/
def wearSee (s : State) (p seq : Nat) : State :=
  let s := if s.get fStoreWearSeq < min seq 0x3FFFF
    then (s.set fStoreWearPage p).set fStoreWearSeq (min seq 0x3FFFF) else s
  if seq = 200000 then (s.raise 0xB003 0 .minor).irq 0x70 2 else s
/-- The page is committed to the slot that is not served (R274 step 4). -/
def pageCommit (s : State) (r : Run) (p : Nat) : State :=
  let old := s.servedSlot p
  let k := match old with | some k => if k = 2 * p then 2 * p + 1 else 2 * p | none => 2 * p
  let seq := (old.map (fun k => (s.pslot k).seq)).getD 0 + 1
  let ws := s.mergePage r p
  let s := s.setPslot k { erased := false, valid := true, seq := seq, run := r.id, data := ws }
  let s := if s.sto.served then s.serve p ws else s
  let bad : Field := ⟨rStoreBadPage (p / 32), p % 32, 1⟩
  let s := if s.bit bad then (s.setB bad false).set fStoreBadCntCount (s.get fStoreBadCntCount - 1) else s
  s.wearSee p seq

/-- A page completes its program and verification (R277, R280, R282). -/
def pageDone (s : State) (ok : Bool) : State :=
  match s.sto.cur with
  | none => s
  | some r =>
    let p := r.addr / 256 + r.done
    if ok then
      let s := s.pageCommit r p
      let r := { r with done := r.done + 1, tries := 0 }
      let s := s.set fStoreLastRunDone r.done
      match s.sto.stop with
      | some code => (s.updSto (fun t => { t with stop := none })).runEnd r code
      | none => if r.total ≤ r.done then s.runEnd r 1 else (s.updSto (fun t => { t with cur := some r })).storeFaces
    else match s.sto.stop with
      | some code => (s.updSto (fun t => { t with stop := none })).runEnd r code
      | none =>
        if r.tries = 0 then s.updSto (fun t => { t with cur := some { r with tries := 1 } })
        else (s.runEnd r 4).raise 0xB002 0 .minor

/-- PFW and a core reset let the page in progress finish; the rest of the run and every queued run are given up (R282). -/
def storeStop (s : State) (code : Nat) : State :=
  let q := s.sto.queue
  (s.updSto (fun t => { t with
    stop := if t.cur.isSome then some code else none, queue := [], closed := true
    ended := t.ended ++ q.map (fun r => (r.src, r.tag, false)) })).storeFaces

/-! ### Host runs (R275, R276) -/

def emptyBuffer (s : State) : State :=
  ((s.updSto (fun t => { t with buf := [] })).set fStoreRunFillValue 0).set fStoreRunCrcValue 0xFFFFFFFF
/-- STORE.RUN_CRC: while bytes up to RUN_LEN are missing, its value is free. -/
def bufferFaces (s : State) : State :=
  let n := s.get fStoreRunLenLen
  let s := s.set fStoreRunFillValue s.sto.buf.length
  if n ≤ s.sto.buf.length then s.set fStoreRunCrcValue (crc32 (s.sto.buf.take n))
  else
    let (v, s) := s.freeNat 23
    s.set fStoreRunCrcValue v
/-- A push to RUN_MBX that fits (R275). -/
def runCanPush (s : State) (n : Nat) : Bool := s.sto.buf.length / 4 + n ≤ ceilDiv (s.get fStoreRunLenLen) 4
def runPush (s : State) (ws : List Word) : State :=
  (s.updSto (fun t => { t with buf := t.buf ++ wordsBytes ws })).bufferFaces

/-- A WRITE to the store window (R275, R276); `addr` is logical. -/
def windowRun (s : State) (addr : Nat) (ws : List Word) : State :=
  let bytes := wordsBytes ws
  let n := bytes.length
  if 0x40000 < addr + n then s.runRefuse .window addr n 5 0x40 addr
  else
    let r : Run := { src := .window, addr := addr, bytes := bytes }
    if s.runBarred r then s.runRefuse .window addr n 6 0x41 addr else s.runStart r

/-- RUN_CTRL.GO (R276, R283); `digest` is what an authenticated command carried: RUN_ADDR, RUN_LEN and the CRC. -/
def runGo (s : State) (digest : Option (Nat × Nat × Nat)) : State :=
  let addr := s.get fStoreRunAddrAddr
  let n := s.get fStoreRunLenLen
  let refuse (result cause : Nat) : State := s.runRefuse .staged addr n result cause 0x3C
  if (match digest with
      | some (a, l, c) => a ≠ addr || l ≠ n || c ≠ s.get fStoreRunCrcValue
      | none => false) = true then refuse 8 0x47
  else if 0x40000 < addr + n then refuse 5 0x40
  else if s.sto.cur.isSome || !s.sto.served then refuse 7 0x42
  else if s.sto.buf.length < n then refuse 9 0x45
  else
    let r : Run := { src := .staged, addr := addr, bytes := s.sto.buf.take n }
    if s.runBarred r then refuse 6 0x41 else s.runStart r

/-! ### Block protect (R284, R285) -/

/-- The control record as the store writes it: byte 0 BP, byte 1 the host trust mode (DESIGN CHOICE, log entry 35). -/
def controlBytes (bp mode : Nat) : List Byte := [BitVec.ofNat 8 bp, BitVec.ofNat 8 mode]
/-- BP and the stored trust mode of the served control record; 0xFF in byte 1 is no mode stored. -/
def controlBp (s : State) : Nat := let b := (s.storeByte 0x30000).toNat; if b < 4 then b else 1
def controlMode (s : State) : Nat := (s.storeByte 0x30001).toNat
/-- An accepted change of BP (R285). -/
def setBp (s : State) (bp : Nat) : State :=
  let s := (s.set fStoreProtectBp bp).updSto (fun t => { t with armed := none })
  ((s.engineRun { src := .control, addr := 0x30000, bytes := controlBytes bp s.controlMode }).2).storeFaces
/-- A PROTECT write under LOCAL_TRUSTED (R285). -/
def protectWrite (s : State) (w : Word) : State :=
  let armed := s.sto.armed.isSome
  let s := (s.updSto (fun t => { t with armed := none, unlock1 := none })).storeFaces
  if !s.sto.wpHigh then s.blkErr 0x70 0x43 true 0x2C
  else if !armed then s.blkErr 0x70 0x44 true 0x2C
  else s.setBp (bitsOf w 0 2)
/-- A PROTECT write by an authenticated command: no arming is needed, WP_N still applies (R285, R385). -/
def protectCmd (s : State) (w : Word) : State :=
  let s := (s.updSto (fun t => { t with armed := none, unlock1 := none })).storeFaces
  if !s.sto.wpHigh then s.blkErr 0x70 0x43 true 0x2C else s.setBp (bitsOf w 0 2)
/-- A write of UNLOCK (R285). -/
def storeUnlock (s : State) (w : Word) : State :=
  let s := s.updSto (fun t => { t with armed := none })
  let s := match s.sto.unlock1 with
    | some t0 =>
      if w = 0x0000C3C3#32 && s.now ≤ t0 + 1000
      then s.updSto (fun t => { t with unlock1 := none, armed := some s.now })
      else s.updSto (fun t => { t with unlock1 := if w = 0x00003C3C#32 then some s.now else none })
    | none => s.updSto (fun t => { t with unlock1 := if w = 0x00003C3C#32 then some s.now else none })
  s.storeFaces
/-- Any other STORE-page write ends arming and its sequence. -/
def storeDisarm (s : State) : State :=
  (s.updSto (fun t => { t with armed := none, unlock1 := none })).storeFaces

/-! ### Recall (R272, R286) -/

/-- At power-up every slot is read, every page served, bad pages reported, BP restored and the identity compared. -/
def storeRecall (s : State) : State :=
  let pages := (s.sto.slots.map (fun p => p.1 / 2)).eraseDups
  let s := s.updSto (fun t => { t with served := true, ram := [], stop := none, closed := false })
  let s := pages.foldl (fun s p => s.serve p (s.pageWords p)) s
  let bad := pages.filter (fun p => (s.servedSlot p).isNone
    && !((s.pslot (2 * p)).erased && (s.pslot (2 * p + 1)).erased))
  let s := bad.foldl (fun s p => s.setB ⟨rStoreBadPage (p / 32), p % 32, 1⟩ true) s
  let s := s.set fStoreBadCntCount bad.length
  let s := if bad.isEmpty then s else (s.irq 0x70 3).raise 0xB001 0 .minor
  let s := pages.foldl (fun s p => match s.servedSlot p with
    | some k => (let q := (s.pslot k).seq; if s.get fStoreWearSeq < min q 0x3FFFF
        then (s.set fStoreWearPage p).set fStoreWearSeq (min q 0x3FFFF) else s)
    | none => s) s
  let s := if pages.any (fun p => (s.servedSlot p).any (fun k => 200000 ≤ (s.pslot k).seq))
    then (s.raise 0xB003 0 .minor).irq 0x70 2 else s
  let idOk := (s.servedSlot 0x301).isSome && (s.storeWord 0x30100).toNat + 2 ^ 32 * (s.storeWord 0x30104).toNat = s.uid
  let s := if idOk then s else ((s.setB fStoreStatusIdMismatch true).irq 0x70 4).raise 0xB004 0 .major
  let s := s.set fStoreProtectBp s.controlBp
  let s := match s.sto.journal with
    | none => s.set fStoreLastRunResult 0
    | some (id, addr, n) =>
      let done := ((List.range n).filter (fun i =>
        (s.servedSlot (addr / 256 + i)).any (fun k => (s.pslot k).run = id))).length
      let (src, s) := s.freeNat 24
      let s := s.set fStoreLastRunResult 10
      let s := s.set fStoreLastRunSrc (src % 7)
      let s := s.set fStoreLastRunTotal n
      let s := s.set fStoreLastRunDone done
      (s.set fStoreLastRunAddrAddr addr).updSto (fun t => { t with journal := none })
  let s := (s.setB fStoreStatusRecall false).setB fStoreStatusReady true
  (runNext 5 s).storeFaces

/-! ### The restore list (R287) -/

/-- The records of the restore list: address and data words; and whether the list ran to the end of its area. -/
def restoreList (s : State) : Nat → Nat → List (Nat × List Word) × Bool
  | 0, _ => ([], true)
  | k + 1, a =>
    if 0x2E000 ≤ a then ([], true) else
    let h := s.storeWord a
    let n := bitsOf h 24 8
    if n = 0 || h = 0xFFFFFFFF#32 then ([], false)
    else if 0x2E000 < a + 4 + 4 * n then ([], true)
    else
      let (l, t) := s.restoreList k (a + 4 + 4 * n)
      ((bitsOf h 0 24, (List.range n).map (fun i => s.storeWord (a + 4 + 4 * i))) :: l, t)

end State
end Sys2Proof.Machine
end

