-- ==== Sys2Proof/Machine/Peat.lean ====
section
/-! DEFINITION. Peat (R289–R300): the lifetime counters and gauges, their flushes, their recovery. -/
set_option Elab.async false
namespace Sys2Proof.Machine
namespace State

def pbank (s : State) (b : Nat) : PBank := Map.look (fun _ => {}) s.sto.banks b
def setPbank (s : State) (b : Nat) (x : PBank) : State :=
  s.updSto (fun t => { t with banks := Map.put (fun _ => {}) t.banks b x })

/-- The MAP that names an entry. -/
def peatMapOf (s : State) (e : Nat) : Option Nat :=
  (List.range 256).find? (fun j => s.bit (fPeatMapEn j) && s.get (fPeatMapEntry j) = e)
/-- Kind of an entry in the running configuration (PEAT.ESTAT.KIND). -/
def peatKind (s : State) (e : Nat) : Nat :=
  if 2040 ≤ e then 3 else
  match s.peatMapOf e with
  | some j => if s.get (fPeatMapQty j) = 10 then 2 else 1
  | none =>
    if (List.range 24).any (fun g => s.bit (fFanPeatAEn g) && (s.get (fFanPeatARun g) = e || s.get (fFanPeatAStart g) = e)) then 1
    else if (List.range 24).any (fun g => s.bit (fFanPeatBEn g) && s.get (fFanPeatBAge g) = e) then 2
    else 0
/-- An entry has changed since its last write. -/
def peatChanged (x : PEnt) : Bool := x.v ≠ x.written
def peatDirty (s : State) : List Nat := s.sto.ents.filterMap (fun p => if peatChanged p.2 then some p.1 else none)
def peatFaces (s : State) : State :=
  let s := s.setB fPeatStatFlushing (s.sto.flushT.isSome || s.sto.pfw)
  let s := s.set fPeatStatPending s.peatDirty.length
  s.set fPeatStatLost (s.sto.ents.filter (fun p => p.2.lost)).length
/-- PEAT.ESTAT of the selected entry. -/
def peatEstat (s : State) : Word :=
  let e := s.get fPeatSelEntry
  let x := s.peatEnt e
  BitVec.ofNat 32 (s.peatKind e * 2 ^ 30 + (if x.lost then 2 ^ 29 else 0)
    + (if s.bit ⟨rPeatPfw (e / 32), e % 32, 1⟩ then 2 ^ 28 else 0) + (x.next % 16) * 2 ^ 24 + x.epoch % 2 ^ 24)
def peatVal (s : State) : Nat := unsignedOf 64 (s.peatEnt (s.get fPeatSelEntry)).v

/-! ### Sources (R291) -/

/-- A fractional count: `n` in units of `d` a unit, with the remainder kept. -/
def peatPart (s : State) (e : Nat) (n d : Int) : State :=
  let x := s.peatEnt e
  let t := x.remn + n
  (s.setPeat e { x with remn := t % d }).peatAdd e (t / d).toNat
/-- One MAP at a commit edge of its source's rate; `t` is the time since the last one, µs. -/
def peatMap (s : State) (t : Nat) (j : Nat) : State :=
  let e := s.get (fPeatMapEntry j)
  let i := s.get (fPeatMapIndex j)
  let q := s.get (fPeatMapQty j)
  let old := Map.look (fun _ => none) s.sto.prev j
  let keep (s : State) (v : Int) : State := s.updSto (fun x => { x with prev := Map.put (fun _ => none) x.prev j (some v) })
  if !s.bit (fPeatMapSrc j) then
    if 96 ≤ i then s else
    let c := countOn s.now (s.chan i)
    let m := effMode c
    let di := 5 ≤ m && m ≤ 7
    match q with
    | 0 =>
      if m ≠ 7 then s else
      (match old with | some o => s.peatAdd e (((c.cnt : Int) - o) % 2 ^ 32).toNat | none => s) |> (keep · c.cnt)
    | 1 =>
      if !di && !s.isOutput i then s else
      let v : Int := if di then (if c.di then 1 else 0) else c.out
      let s := if (old.getD 0) ≠ 0 then s.peatPart e t 1000000 else s
      keep s v
    | 2 =>
      if !di && !s.isOutput i then s else
      let v : Int := if di then (if c.di then 1 else 0) else c.out
      let s := if old = some 0 && v ≠ 0 then s.peatAdd e 1 else s
      keep s v
    | 3 => if c.mode ≠ 0xD || i % 2 = 1 then s else
      keep (match old with | some o => s.peatPart e ((c.onOpen : Int) - o) 1000000 | none => s) c.onOpen
    | 4 => if c.mode ≠ 0xD || i % 2 = 1 then s else
      keep (match old with | some o => s.peatPart e ((c.onClose : Int) - o) 1000000 | none => s) c.onClose
    | _ => s
  else
    let v := s.visVal i
    match q with
    | 8 => if v.st = .fault || v.st = .unconfirmed || v.v ≤ 0 then s
      else s.peatPart e (v.v * (t : Int)) (65536 * 3600000000)
    | 9 => keep (if old = some 0 && v.v ≠ 0 then s.peatAdd e 1 else s) v.v
    | 10 => s.peatGauge e v.v
    | _ => s
/-- A commit edge of a rate counts (R291): bound sources, running governors, and at a lath edge seconds powered. Points
count at lath edges (DEDUCED, log entry 36). -/
def peatCount (s : State) (r : Rate) : State :=
  let t := match r with | .lath => s.lathPeriod | .skim => s.skimPeriod
  let mine (j : Nat) : Bool := s.bit (fPeatMapEn j)
    && (if s.bit (fPeatMapSrc j) then r = .lath else s.outRate (s.get (fPeatMapIndex j)) = r)
  let s := ((List.range 256).filter mine).foldl (fun s j => s.peatMap t j) s
  let s := (List.range 24).foldl (fun s g =>
    if s.ebit (fFanCfgEn g) && s.outRate (96 + g) = r && s.bit (fFanPeatAEn g) && 0 < s.geti (fFanDrvoutValue g)
    then s.peatPart (s.get (fFanPeatARun g)) t 1000000 else s) s
  let s := match r with | .lath => s.peatPart 2045 t 1000000 | .skim => s
  s.peatFaces

/-! ### Programs (R290, R292, R294) -/

/-- What an entry programs at its flush: a cell, a BASE pair, or a gauge's older copy. -/
def peatPlan (s : State) (e : Nat) : List POp :=
  let x := s.peatEnt e
  let k := if s.peatKind e = 2 then 2 else 1
  let pair : List POp := [.base false x.v (x.epoch + 1) true, .base true x.v (x.epoch + 1) true]
  if x.force || !(x.a.valid || x.b.valid) || x.kind ≠ k then pair
  else if k = 2 then
    let b := if x.a.valid && x.b.valid then decide (x.b.epoch < x.a.epoch) else x.a.valid
    [.base b x.v (x.epoch + 1) false]
  else if 16 ≤ x.next || x.v - x.base < 0 || 2 ^ 23 - 1 < x.v - x.base then pair
  else [.cell x.next (x.v - x.base).toNat]
/-- An idle bank takes its next entry. -/
def bankStart (s : State) (b : Nat) : State :=
  let k := s.pbank b
  match k.cur, k.queue with
  | none, e :: q => s.setPbank b { queue := q, cur := some (e, s.peatPlan e) }
  | _, _ => s
/-- A flush has nothing left to write (R292). -/
def flushEnd (s : State) : State :=
  let idle := (List.range 4).all (fun b => (s.pbank b).cur.isNone && (s.pbank b).queue.isEmpty)
  match s.sto.flushT with
  | some t =>
    if !idle then s else
    let s := s.set fPeatLastFlushEntries (min s.sto.flushN 65535)
    let s := s.set fPeatLastFlushMs (min ((s.now - t) / 1000) 65535)
    (s.updSto (fun x => { x with flushT := none, flushN := 0 })).irq 0x71 0
  | none => s

/-- Entries 0–2047 to write in a flush, by bank: each keeps its place if it is queued already. -/
def flushQueue (s : State) (order : List Nat) : State :=
  (List.range 4).foldl (fun s b =>
    let k := s.pbank b
    let mine := order.filter (fun e => e % 4 = b && !k.queue.contains e)
    (s.setPbank b { k with queue := k.queue ++ mine }).bankStart b) s
/-- A flush starts (R247, R292): fan gauges take AGE first. -/
def peatFlush (s : State) : State :=
  if s.sto.pfw || !s.sto.served then s else
  let s := (List.range 24).foldl (fun s g =>
    if s.bit (fFanPeatBEn g) && s.bit (fFanCfgEn g) then s.peatGauge (s.get (fFanPeatBAge g)) (s.geti (fFanAgeValue g)) else s) s
  let s := s.updSto (fun x => { x with flushT := some (x.flushT.getD s.now) })
  ((s.flushQueue s.peatDirty).flushEnd).peatFaces
/-- The ordinary flush is due (R292). -/
def peatFlushDue (s : State) : State :=
  match s.sto.flushRef with
  | none => s
  | some t =>
    let s := s.at_ (t + 60000000 * s.get fPeatFlushMin)
    (s.updSto (fun x => { x with flushRef := some (t + 60000000 * s.get fPeatFlushMin) })).peatFlush

/-- A counter reservation: TOP of entry 2047 goes up by 2^24 in a BASE pair, ahead of any flush work (R296). -/
def peatReserve (s : State) : State :=
  let x := s.peatEnt 2047
  let s := s.setPeat 2047 { x with v := x.v + 2 ^ 24, force := true }
  let s := s.updSto (fun t => { t with resv := true })
  let k := s.pbank 3
  ((s.setPbank 3 { k with queue := 2047 :: k.queue.filter (fun e => e ≠ 2047) }).bankStart 3).peatFaces
/-- A preset (R297). -/
def peatPreset (s : State) (v : Nat) : State :=
  let e := s.get fPeatSelEntry
  let k := s.peatKind e
  if k = 0 || k = 3 then s.blkErr 0x71 0x43 true 0x40 else
  let x := s.peatEnt e
  let v : Int := if k = 2 then signedOf 64 v else v
  let s := s.setPeat e { x with v := v, remn := 0, lost := false, force := true }
  let b := s.pbank (e % 4)
  ((s.setPbank (e % 4) { b with queue := e :: b.queue.filter (fun i => i ≠ e) }).bankStart (e % 4)).peatFaces

/-- The effect of one program on an entry. -/
def peatProgram (s : State) (e : Nat) (op : POp) (last : Bool) : State :=
  let x := s.peatEnt e
  let k := if s.peatKind e = 2 then 2 else 1
  match op with
  | .cell i sub =>
    s.setPeat e { x with
      cells := Map.put (fun _ => {}) x.cells i { valid := true, tag := x.epoch % 16, sub := sub }
      next := i + 1, written := x.base + (sub : Int) }
  | .base b v ep pair =>
    let c : PBase := { valid := true, erased := false, v := v, epoch := ep }
    let x := if b then { x with b := c } else { x with a := c }
    s.setPeat e (if !last then x
      else { x with
        base := v, epoch := ep, written := v, kind := k, force := false
        next := if pair then 0 else x.next, cells := if pair then [] else x.cells })
/-- A program of bank `b` completes; a failed verification programs again, a cell at the next position (R300). Answers
whether a counter reservation completed. -/
def peatDone (s : State) (b : Nat) (ok : Bool) : Bool × State :=
  let k := s.pbank b
  match k.cur with
  | some (e, op :: rest) =>
    if ok then
      let s := s.peatProgram e op rest.isEmpty
      if rest.isEmpty then
        let s := if s.sto.flushT.isSome && !(e = 2047 && s.sto.resv)
          then s.updSto (fun t => { t with flushN := t.flushN + 1 }) else s
        let done := e = 2047 && s.sto.resv
        let s := s.updSto (fun t => { t with resv := t.resv && !done })
        (done, (((s.setPbank b { k with cur := none }).bankStart b).flushEnd).peatFaces)
      else (false, s.setPbank b { k with cur := some (e, rest) })
    else
      let s := (s.irq 0x71 1).raise 0xC002 0 .minor
      let s := match op with
        | .cell i _ =>
          let x := s.peatEnt e
          s.setPeat e { x with
            cells := Map.put (fun _ => {}) x.cells i { valid := false, tag := 0, sub := 1 }, next := i + 1 }
        | _ => s
      let ops := match op with | .cell _ _ => s.peatPlan e | _ => op :: rest
      (false, s.setPbank b { k with cur := some (e, ops) })
  | _ => (false, (((s.setPbank b { k with cur := none }).bankStart b).flushEnd).peatFaces)

/-- The PFW flush (R295): the entries in their order after the programs in progress. -/
def peatPfw (s : State) : State :=
  let s := s.peatAdd 2044 1
  let s := s.updSto (fun t => { t with pfw := true })
  let marked (e : Nat) : Bool := e < 2040 && s.bit ⟨rPeatPfw (e / 32), e % 32, 1⟩
  let d := s.peatDirty
  let first := d.filter (fun e => 2044 ≤ e && e ≤ 2046)
  let rest := d.filter (fun e => !(2044 ≤ e && e ≤ 2046))
  let order := (if s.sto.resv then [2047] else []) ++ first ++ rest.filter marked ++ rest.filter (fun e => !marked e && !(e = 2047 && s.sto.resv))
  let s := (List.range 4).foldl (fun s b => s.setPbank b { s.pbank b with queue := [] }) s
  (s.flushQueue order).peatFaces

/-! ### Recovery (R293, R294) -/

/-- An entry as its array gives it. -/
def peatRecover (x : PEnt) : PEnt :=
  let b : Option PBase :=
    if x.a.valid && x.b.valid then (if x.a.epoch < x.b.epoch then some x.b else some x.a)
    else if x.a.valid then some x.a else if x.b.valid then some x.b else none
  match b with
  | none => { a := x.a, b := x.b, cells := x.cells, lost := !(x.a.erased && x.b.erased), next := 16 }
  | some c =>
    let own := x.cells.filter (fun p => p.2.valid && p.2.tag = c.epoch % 16)
    let best := own.foldl (fun m p => max m p.2.sub) 0
    let v := c.v + (best : Int)
    let nxt := x.cells.foldl (fun m p => max m (p.1 + 1)) 0
    let fix (y : PBase) : PBase := if !y.valid || y.epoch < c.epoch then c else y
    { a := fix x.a, b := fix x.b, cells := x.cells, v := v, written := v, base := c.v, epoch := c.epoch,
      next := nxt, kind := x.kind }
/-- Recall of peat: values, LOST entries, READY (R293). -/
def peatRecall (s : State) : State :=
  let s := s.updSto (fun t => { t with
    ents := t.ents.map (fun p => (p.1, peatRecover p.2)), flushT := none, flushN := 0, pfw := false, prev := [] })
  let lost := s.sto.ents.filterMap (fun p => if p.2.lost then some p.1 else none)
  let s := lost.foldl (fun s e => (s.irq 0x71 2).raise 0xC001 e .minor) s
  (s.setB fPeatStatReady true).peatFaces
/-- A reset or the end of power: each bank's program in progress completes when `whole`, else its copy is left half written;
what was only in RAM is lost (R281, R298). -/
def peatCut (s : State) (whole : Bool) : State :=
  let s := (List.range 4).foldl (fun s b =>
    match (s.pbank b).cur with
    | some (e, op :: rest) =>
      if whole then s.peatProgram e op rest.isEmpty
      else
        let x := s.peatEnt e
        let torn : PBase := { valid := false, erased := false }
        match op with
        | .cell i _ => s.setPeat e { x with cells := Map.put (fun _ => {}) x.cells i { valid := false, tag := 0, sub := 1 } }
        | .base c _ _ _ => s.setPeat e (if c then { x with b := torn } else { x with a := torn })
    | _ => s) s
  s.updSto (fun t => { t with
                              banks := [], flushT := none, flushN := 0, pfw := false, resv := false, prev := [],
                              ents := t.ents.map (fun p => (p.1, peatRecover p.2)) })

/-! ### Refused writes (R291, R295, R300) -/

def peatRefuse (s : State) (off : Nat) (w : Word) : Option Nat :=
  if off = 0x20 then (if bitsOf w 0 11 < 10 || 1440 < bitsOf w 0 11 then some 0x40 else none)
  else if 0x100 ≤ off && off < 0x200 then
    let k := (off - 0x100) / 4
    let mark (v i : Nat) : Bool := if v = k then bitAt w i else bitAt (s.word (rPeatPfw v)) i
    let cnt (b : Nat) : Nat := ((List.range 64).flatMap (fun v => (List.range 32).filter (fun i =>
      mark v i && 32 * v + i < 2040 && i % 4 = b))).length
    if (List.range 4).any (fun b => 5 < cnt b) then some 0x42 else none
  else if 0x200 ≤ off && off < 0x600 then
    let j := (off - 0x200) / 4
    let q := bitsOf w 26 4
    let e := bitsOf w 0 11
    if (5 ≤ q && q ≤ 7) || 11 ≤ q || 2039 < e
        || (bitAt w 31 && (List.range 256).any (fun i => i ≠ j && s.bit (fPeatMapEn i) && s.get (fPeatMapEntry i) = e))
    then some 0x41 else none
  else none

end State
end Sys2Proof.Machine
end

