-- ==== Sys2Proof/Machine/Power.lean ====
section
/-! DEFINITION. The supply and the power governor (R446–R462): power-fail warning, brown-out, rails, the dissipation
estimate, shedding and restoring, derating. -/
set_option Elab.async false
namespace Sys2Proof.Machine

/-- f(n) in % from a step number (STEP_VIEW.STEP). -/
def stepPct (k : Nat) : Nat := 100 - 25 * min 4 k
/-- LSW and FLT take only 100 % or 0 (R456). -/
def isOnOff (m : Nat) : Bool := m = 0xB || m = 0xD
def isSource (m : Nat) : Bool := m = 8 || m = 9 || m = 0xA
/-- The cap of a mode at a step (R456). -/
def stepCap (m k : Nat) : Int :=
  let f : Int := (stepPct k : Nat)
  match m with
  | 8 => 10 * 65536 * f / 100
  | 9 => 24 * 65536 * f / 100
  | 0xA => 65536 * f
  | 0xC => 65536 * f
  | _ => 0

namespace State

def updPwr (s : State) (f : PwrSt → PwrSt) : State := { s with pwr := f s.pwr }

/-! ### Steps of a channel (R456, R459) -/

/-- The faces of stepping: SHED_w, N_STEPPED, SHEDDING and BLK_STAT.STATE. -/
def pwrFaces (s : State) : State :=
  let l := (List.range 96).filter (fun n => 0 < (s.chan n).step)
  let s := (List.range 3).foldl (fun s w =>
    s.set (fPwrShedCh w) ((l.filter (fun n => n / 32 = w)).foldl (fun m n => m + 2 ^ (n % 32)) 0)) s
  let s := s.set fPwrStatNStepped l.length
  let s := s.setB fPwrStatShedding (!l.isEmpty)
  s.set (fBlkState 0x01) (if s.bit fPwrStatPfw then 2 else if l.isEmpty then 0 else 1)
/-- f(n) changes: SHED is raised when the channel leaves 100 % and clears when it returns (R457). -/
def setStep (s : State) (n k saved : Nat) : State :=
  let old := (s.chan n).step
  if old = k then s else
  let s := (s.modChan n (fun c => { c with step := k, saved := saved })).irq 0x01 0
  let s := if old = 0 then s.raise 0x1001 n .minor else if k = 0 then s.clearFault 0x1001 n else s
  s.pwrFaces
/-- The channel's step returns to 100 % and it leaves the stepped list (R459). -/
def stepReset (s : State) (n : Nat) : State :=
  if (s.chan n).step = 0 then s else
  ((s.updPwr (fun p => { p with
    stepped := p.stepped.filter (fun q => q.1 ≠ n), pend := p.pend.filter (fun q => q.1 ≠ n) })).setStep n 0 0).relL0 n .shed

/-- The value that levels 1–7, the drive or INIT would give (R456). -/
def askValue (s : State) (n : Nat) : Int :=
  match s.driveGov n with
  | some g => driveValue (s.chan n).mode (s.driveDuty g).2.1
  | none => match (List.range 7).findSome? (fun k => s.level n (k + 1)) with
    | some v => v
    | none => s.egeti (fUchInitValue n)
/-- Level 0 of the governor as arbitration of a stepped channel begins at a commit edge (R456). -/
def capOne (s : State) (n : Nat) : State :=
  let c := s.chan n
  if c.step = 0 || !s.isOutput n then (if s.holdsL0 n .shed then s.relL0 n .shed else s)
  else
    let cap := stepCap c.mode c.step
    let v := s.askValue n
    if (if isOnOff c.mode then v ≠ 0 else cap < v) then s.setL0 n .shed cap else s.relL0 n .shed
def capAll (s : State) (r : Rate) : State :=
  (List.range 96).foldl (fun s n => if s.outRate n = r then s.capOne n else s) s

/-! ### The estimate (R447, R454) -/

def coreMw (s : State) : Nat :=
  match s.get fLathStatOp with
  | 0 => 600 | 1 => 900 | 2 => 1300
  | _ => let v := if s.bit fPwrStatExtCore then s.get fPwrVcoreXReset else 1100
         1700 * v * v / (1100 * 1100)
/-- Per fabric port not DISABLED: 125 mW at 2.4 Vpp, 60 mW at 1.0 Vpp (R454). -/
def phyMw (s : State) : Nat :=
  (List.range 4).foldl (fun m p =>
    if s.get (fFportStatState p) = 6 then m else m + (if s.bit (fFportStatAmp p) then 125 else 60)) 0
def curOf (m : Meas) (n : Nat) : Nat := (m.cur.lookup n).getD 0
def stageOf (m : Meas) (n : Nat) : StageMeas := (m.stages.lookup n).getD {}
/-- Source current of a channel in mA; current of an LSW-type channel, the greater half of a pair. -/
def chanMa (s : State) (m : Meas) (n : Nat) : Nat :=
  if (s.chan n).mode = 0xD then max (curOf m n) (curOf m (n + 1)) else curOf m n
/-- Shares of one output in nW: 12.5 V conversion, source stage, switch stage. `us` is the skim period. -/
def stageNw (s : State) (m : Meas) (us n : Nat) : Nat × Nat × Nat :=
  let md := (s.chan n).mode
  let sw (k : Nat) : Nat :=
    let g := stageOf m k
    (g.onMa * g.onMa * (s.chan n).ron * g.on) / (max 1 us) + g.clamp * 1000000000 / (max 1 us)
  if isSource md then
    (2200000 * curOf m n, curOf m n * (12500 - (stageOf m n).von) * 1000, 0)
  else if md = 0xD then (0, 0, sw n + sw (n + 1))
  else if isLsw md then (0, 0, sw n)
  else (0, 0, 0)
/-- c(n), mW (R454). -/
def partMw (s : State) (m : Meas) (us n : Nat) : Nat :=
  let (a, b, c) := s.stageNw m us n
  (a + b + c) / 1000000
def outputs (s : State) : List Nat := (List.range 96).filter (fun n => s.isOutput n)
/-- P_EST and its parts over the skim frame that has just ended. -/
def estimate (s : State) (m : Meas) (us : Nat) : State :=
  let parts := s.outputs.map (fun n => s.stageNw m us n)
  let conv := (parts.foldl (fun t p => t + p.1) 0) / 1000000
  let src := (parts.foldl (fun t p => t + p.2.1) 0) / 1000000
  let sw := (parts.foldl (fun t p => t + p.2.2) 0) / 1000000
  let bias := 10 * ((List.range 96).filter (fun n => effMode (s.chan n) ≠ 0)).length
  let panel := if s.bit fEpdRunRails then 150 else 0
  let core := s.coreMw
  let phy := s.phyMw
  let p := min 65535 (core + phy + bias + panel + conv + src + sw)
  let s := s.set fPwrPEstMw p
  let s := s.set fPwrPEstPeak (max p (s.get fPwrPEstPeak))
  let s := s.set fPwrPPart0Core (min 65535 (core + phy))
  let s := s.set fPwrPPart0Bias (bias + panel)
  let s := s.set fPwrPPart1Source (min 65535 (conv + src))
  s.set fPwrPPart1Switch (min 65535 sw)
/-- P_LIM, mW (R460). -/
def pLim (s : State) : Nat :=
  let tj := s.geti fPwrTjValue
  let lim : Int := 100 * s.get fPwrCfgLimit
  if tj < 115 * 65536 then lim.toNat
  else (((lim * 65536 - 200 * (tj - 115 * 65536)) / 655360) * 10).toNat

/-! ### The evaluation (R457) -/

/-- What one evaluation carries: P and RAIL, both mW or mA, and N_HI. -/
structure Gov where
  st : State
  p : Int
  rail : Int
  hi : Nat

/-- step(n, k): saved(n), P, f(n), and the stepped list; `cut` mA leave the rail with it. -/
def govStep (c : Nat → Nat) (g : Gov) (n k : Nat) (cut : Nat := 0) : Gov :=
  let old := (g.st.chan n).step
  if old = k then g else
  let sv := c n * (stepPct old - stepPct k) / max 1 (stepPct old)
  let s := g.st.updPwr (fun p => { p with stepped := p.stepped ++ [(n, old, sv)], pend := p.pend ++ [(n, sv, cut)] })
  { g with st := s.setStep n k sv, p := g.p - sv }
/-- The next lower step of a channel. -/
def nextStep (s : State) (n : Nat) : Nat := if isOnOff (s.chan n).mode then 4 else (s.chan n).step + 1
def govRail (c isrc : Nat → Nat) (n : Nat) : Nat → Gov → Gov
  | 0, g => g
  | k + 1, g =>
    let f := stepPct (g.st.chan n).step
    if 200 < g.rail && 0 < f then
      let nx := g.st.nextStep n
      let cut := isrc n * (f - stepPct nx) / f
      govRail c isrc n k (govStep c { g with rail := g.rail - cut } n nx cut)
    else g
def govPower (c : Nat → Nat) (lim : Int) (n : Nat) : Nat → Gov → Gov
  | 0, g => g
  | k + 1, g =>
    if lim < g.p && 0 < stepPct (g.st.chan n).step && 0 < c n then
      govPower c lim n k (govStep c g n (g.st.nextStep n))
    else g
/-- Output channels with SHED_RANK < 255, by rank and then from the highest number down. -/
def shedOrder (s : State) : List Nat :=
  let l := s.outputs.reverse.filter (fun n => s.get (fUchShedShedRank n) < 255)
  l.mergeSort (fun a b => s.get (fUchShedShedRank a) ≤ s.get (fUchShedShedRank b))

/-- LSW-type channels above 250 mA over the frame that has ended. -/
def highOnes (s : State) (m : Meas) : List Nat := s.outputs.filter (fun n => isLsw (s.chan n).mode && decide (250 < s.chanMa m n))
def railMa (s : State) (m : Meas) : Nat := (s.outputs.filter (fun n => isSource (s.chan n).mode)).foldl (fun t n => t + curOf m n) 0
/-- The estimate at a skim edge, before its commits (R454, R460). -/
def governMeasure (s : State) (m : Meas) (us : Nat) : State :=
  let s := (s.budgetFaces (some (s.railMa m)) (some (s.highOnes m).length)).estimate m us
  s.set fPwrPLimMw s.pLim

/-- The evaluation after a skim edge (R457–R459). `pre` is the state that the estimate saw, `done` the rates that
committed at the edge. A step that no commit has taken up yet counts as made (log entry 37). Evaluation stops at PFW and
rests during TJ_CRIT (R461). -/
def govern (s pre : State) (m : Meas) (us : Nat) (done : List Rate) : State :=
  let s := (List.range 96).foldl (fun s n => if s.isOutput n then s else s.stepReset n) s
  if s.bit fPwrStatPfw || s.flt.tjHeld then s else
  let same (n : Nat) : Bool := s.isOutput n && pre.isOutput n && (s.chan n).mode = (pre.chan n).mode
  let rail := pre.railMa m
  let high := pre.highOnes m
  let lim := s.get fPwrPLimMw
  let est := s.get fPwrPEstMw
  let c (n : Nat) : Nat := if same n then pre.partMw m us n else 0
  let isrc (n : Nat) : Nat := if same n then curOf m n else 0
  let order := s.shedOrder.filter same
  let ovf := (pre.outputs.filter same).filter (fun n => isLsw (s.chan n).mode && decide (500 < pre.chanMa m n))
  let waits := s.pwr.pend
  let p0 : Int := (est : Int) - (waits.foldl (fun t q => t + q.2.1) 0 : Nat)
  let rail0 : Int := (rail : Int) - (waits.foldl (fun t q => t + q.2.2) 0 : Nat)
  let high0 := high.filter (fun n => (s.chan n).step ≠ 4)
  let s := s.updPwr (fun p => { p with pend := p.pend.filter (fun q => !done.contains (s.outRate q.1)) })
  let g : Gov := { st := s, p := p0, rail := rail0, hi := high0.length }
  let g := ovf.foldl (fun g n => govStep c g n 4) g
  let g := (order.filter (fun n => isSource (s.chan n).mode)).foldl (fun g n => govRail c isrc n 4 g) g
  let g := (order.filter (fun n => high0.contains n)).foldl (fun g n =>
    if 24 < g.hi then { govStep c g n 4 with hi := g.hi - 1 } else g) g
  let g := order.foldl (fun g n => govPower c (lim : Nat) n 4 g) g
  let ex := decide ((lim : Int) < g.p)
  let was := g.st.bit fPwrStatExhausted
  let s := g.st.setB fPwrStatExhausted ex
  let s := if ex && !was then (s.raise 0x1008 0 .minor).irq 0x01 5
    else if was && !ex then s.clearFault 0x1008 0 else s
  -- R458: the conditions of a restore
  let ok := match s.pwr.stepped.getLast? with
    | none => false
    | some (_, _, sv) =>
      decide ((est : Int) + sv ≤ (lim : Int) - 10 * (s.get fPwrCfgHyst : Nat)) && rail ≤ 180 && high.length ≤ 22
  s.updPwr (fun p => { p with okSince := if ok then some (p.okSince.getD s.now) else none })

/-- The channel stepped last is raised by one step (R458). -/
def shedRestore (s : State) : State :=
  match s.pwr.stepped.getLast?, s.pwr.okSince with
  | some (n, old, _), some t =>
    let s := s.at_ (t + 1000000 * s.get fPwrCfgRestoreT)
    let rest := s.pwr.stepped.dropLast
    let sv := ((rest.filter (fun q => q.1 = n)).getLast?.map (fun q => q.2.2)).getD 0
    (s.updPwr (fun p => { p with stepped := rest, okSince := some s.now })).setStep n old sv
  | _, _ => s
/-- STEP_VIEW of the selected channel. -/
def stepView (s : State) : Word :=
  let n := s.get fPwrStepSelCh
  if 96 ≤ n then 0 else
  BitVec.ofNat 32 ((s.chan n).saved % 65536 * 65536 + s.get (fUchShedShedRank n) * 256 + (s.chan n).step)

/-! ### Derating (R460) -/

def derate (s : State) : State :=
  let tj := s.maxTemp
  let s := s.seti fPwrTjValue tj
  if s.bit fPwrStatDerating then
    if tj < 113 * 65536 then ((s.setB fPwrStatDerating false).irq 0x01 1).clearFault 0x1002 0 else s
  else if 115 * 65536 ≤ tj then ((s.setB fPwrStatDerating true).irq 0x01 1).raise 0x1002 0 .minor
  else s

/-! ### Rails (R446, R453) -/

/-- Window of a supervised rail in mV: index of slot 15, bit of RAIL_FLT, fault, class. -/
def railRule (k : Nat) : Option (Int × Int × Nat × Nat × FClass) :=
  match k with
  | 1 => some (11900, 13100, 2, 0x1005, .major)
  | 3 => some (1700, 3600, 4, 0x1007, .minor)
  | 4 => some (3135, 3465, 3, 0x1006, .minor)
  | _ => none
def railBit (b : Nat) : Field := ⟨rPwrRailFlt, b, 1⟩
/-- A rail fails or recovers. -/
def railSet (s : State) (b code : Nat) (cls : FClass) (on : Bool) : State :=
  let s := (s.setB (railBit b) on).irq 0x01 2
  let s := if b = 4 then s.setB fPwrStatVhostOk (!on) else s
  if on then s.raise code 0 cls else s.clearFault code 0
/-- VFIELD_LOW and VFIELD_HIGH change (R446). -/
def vfieldSet (s : State) (b code : Nat) (on : Bool) : State :=
  if s.bit (railBit b) = on then s else
  let s := (s.setB (railBit b) on).irq 0x01 3
  if on then s.raise code 0 .minor else s.clearFault code 0
/-- A slot-15 sample of core `c`, rail `k`. -/
def railSample (s : State) (c k : Nat) : State :=
  let mv : Int := s.geti (fConvSupplyValue c k) * 1000
  if k = 2 then s.set fPwrVcoreMv (clampI 0 65535 (mv / 65536)).toNat
  else if k = 0 then
    let low := if 18500 * 65536 < mv then some (s.pwr.lowOk.getD s.now) else none
    let high := if mv < 36000 * 65536 then some (s.pwr.highOk.getD s.now) else none
    let s := s.updPwr (fun p => { p with lowOk := low, highOk := high })
    let past (o : Option Nat) : Bool := match o with | some t => decide (t + 1000000 ≤ s.now) | none => false
    let s := if past low then s.vfieldSet 0 0x1003 false else s
    if past high then s.vfieldSet 1 0x1004 false else s
  else match railRule k with
  | none => s
  | some (lo, hi, b, code, cls) =>
    let bad := decide (mv < lo * 65536) || decide (hi * 65536 < mv)
    let out := if bad then min 3 (Map.look (fun _ => 0) (s.core c).railOut k + 1) else 0
    let inn := if bad then 0 else min 16 (Map.look (fun _ => 0) (s.core c).railIn k + 1)
    let s := s.modCore c (fun x => { x with
      railOut := Map.put (fun _ => 0) x.railOut k out, railIn := Map.put (fun _ => 0) x.railIn k inn })
    if !s.bit (railBit b) then
      (if out = 3 then (s.updPwr (fun p => { p with railBy := Map.put (fun _ => none) p.railBy k (some c) })).railSet b code cls true
        else s)
    else if inn = 16 && Map.look (fun _ => none) s.pwr.railBy k = some c then
      (s.updPwr (fun p => { p with railBy := Map.put (fun _ => none) p.railBy k none })).railSet b code cls false
    else s

/-! ### Power-fail warning and brown-out (R414, R450, R451) -/

/-- PFW trips. -/
def pfwTrip (s : State) : State :=
  if s.bit fPwrStatPfw then s else
  let s := (s.setB fPwrStatPfw true).updPwr (fun p => { p with pfwAt := some s.now })
  let s := (s.nme fSysNmeStatPfw).tripPath 2
  let s := s.raise 2 0 .critical
  (((s.storeStop 2).peatPfw).epdPfw).pwrFaces
/-- A dip shorter than 200 µs (R446). -/
def vfieldDip (s : State) : State := (s.bump fPwrDipCntCount).irq 0x01 4
/-- Every output stage turns off and every channel is HIZ (R451, R478). -/
def stagesOff (s : State) : State :=
  (List.range 96).foldl (fun s n => s.upChan n (fun c => { c with
    started := false, lswOn := false, fltDir := 0, duty := 0 })) s
/-- Brown-out of VFIELD (R451). -/
def brownOut (s : State) : State :=
  let s := s.pfwTrip.stagesOff
  let s := s.updPwr (fun p => { p with bor := true })
  (s.setB fPwrRstInfoVfieldBor true).setB fPwrRstInfoCoreUv false
/-- The core rail is low (R449). -/
def coreUv (s : State) : State := (s.setB fPwrRstInfoCoreUv true).setB fPwrRstInfoVfieldBor false
/-- What a write of a PWR register is refused for (R462): BAD_LIMIT. -/
def pwrRefuse (off : Nat) (w : Word) : Option Nat :=
  if off ≠ 0x020 then none else
  let t := bitsOf w 24 8
  let h := bitsOf w 16 8
  let l := bitsOf w 0 7
  if t < 1 || 60 < t || h < 10 || 200 < h || l < 30 || 90 < l then some 0x40 else none

end State
end Sys2Proof.Machine
end

