-- ==== Sys2Proof/Machine/Clk.lean ====
section
/-! DEFINITION. Clocks (R463–R476): the PLL and its references, TIMEBASE's counting clock, the monitors, requalification,
trimming and discipline. -/
set_option Elab.async false
namespace Sys2Proof.Machine
namespace State

def updClk (s : State) (f : ClkSt → ClkSt) : State := { s with clk := f s.clk }

/-- CLKFAIL's condition: a tripped source remains unqualified, or MOSC failed to qualify at start-up (R470, R472). -/
def clkFailed (s : State) : Bool := s.clk.moscTrip || s.clk.lxoTrip || s.clk.hrcTrip || s.clk.startHrc
/-- CLKFAIL is raised (R414). -/
def clkFail (s : State) : State := (s.nme fSysNmeStatClkfail).raise 1 0 .major
/-- CLKFAIL's fault clears once no failed source remains. -/
def clkOk (s : State) : State := if s.clkFailed then s else s.clearFault 1 0
/-- The PLL takes reference `r` (0 MOSC, 1 HRC) and locks (R467). -/
def lockOn (s : State) (r : Nat) : State :=
  let chg := s.get fClkStatRef ≠ r
  let s := (s.set fClkStatRef r).setB fClkStatLock true
  if chg then (s.bump fClkEvtCntSwitches).irq 0x02 4 else s
/-- The trim source of R475 and what follows it. -/
def trimSource (s : State) : State :=
  s.set fClkStatTrimSrc
    (if s.bit fClkStatMoscOk then 1 else if s.bit fClkCtrlExtrefEn && s.bit fClkStatExtrefOk then 2
     else if s.bit fLathStatFsync then 3 else 0)
/-- TIMEBASE's counting clock (R465). -/
def tbSource (s : State) : State :=
  s.set fClkStatTbSrc (if s.bit fClkStatSafeRosc then 2 else if s.bit fClkStatHrcOk then 0 else if s.bit fClkStatMoscOk then 1 else 0)
/-- CLK_AON's source. -/
def aonSource (s : State) (hrc : Bool) : State :=
  if s.bit fClkStatAonSrc = hrc then s else (s.setB fClkStatAonSrc hrc).irq 0x02 4
/-- Coasting begins or ends (R473). -/
def coastBegin (s : State) : State :=
  if s.bit fClkStatCoast then s else ((s.setB fClkStatCoast true).irq 0x02 5).raise 0xF001 0 .minor
def coastEnd (s : State) : State :=
  if s.bit fClkStatCoast then ((s.setB fClkStatCoast false).irq 0x02 5).clearFault 0xF001 0 else s

/-! ### Trips (R472) -/

/-- The MOSC monitor trips. Answers whether coasting began. -/
def moscTripped (s : State) : Bool × State :=
  if !s.bit fClkStatMoscOk || !s.clk.hrcQual then (false, s) else
  let s := ((s.bump fClkEvtCntMosc).irq 0x02 1).setB fClkStatMoscOk false
  let s := s.updClk (fun c => { c with moscTrip := true })
  let s := (s.trimSource).tbSource
  let onMosc := s.get fClkStatRef = 0
  if s.bit fClkCtrlMonMode then
    if onMosc then (true, ((s.set fClkStatRef 2).coastBegin)) else (false, s)
  else
    let s := s.clkFail
    (false, if onMosc then s.lockOn 1 else s)
/-- The LXO monitor trips. -/
def lxoTripped (s : State) : State :=
  if !s.bit fClkStatLxoOk || !s.clk.hrcQual then s else
  let s := ((s.bump fClkEvtCntLxo).irq 0x02 2).setB fClkStatLxoOk false
  let s := (s.updClk (fun c => { c with lxoTrip := true })).aonSource true
  if s.bit fClkCtrlMonMode then s else s.clkFail
/-- HRC's requalification starts (R470 step 2, R472). -/
def hrcRequal (s : State) : State :=
  s.updClk (fun c => { c with hrcQual := false, tries := 0, requal := true, noFall := none })
/-- The HRC monitor trips. With the PLL on HRC, it loses lock, and a qualified MOSC becomes its reference. -/
def hrcTripped (s : State) : State :=
  if !s.bit fClkStatHrcOk then s else
  let s := ((s.bump fClkEvtCntHrc).irq 0x02 3).setB fClkStatHrcOk false
  let s := (s.updClk (fun c => { c with hrcTrip := true })).hrcRequal
  let s := s.tbSource
  let s := if s.bit fClkCtrlMonMode then s else s.clkFail
  if s.get fClkStatRef = 1 then
    let s := (s.setB fClkStatLock false).irq 0x02 0
    if s.bit fClkStatMoscOk then s.lockOn 0 else s
  else s

/-! ### The PLL (R464, R467, R474) -/

/-- The PLL loses lock: every PLL domain stops. -/
def pllLost (s : State) : State :=
  if !s.bit fClkStatLock || s.bit fClkStatCoast then s else (s.setB fClkStatLock false).irq 0x02 0
/-- The PLL locks on the reference it has or may take: MOSC when qualified, else HRC. -/
def pllLock (s : State) : State :=
  if s.bit fClkStatSafeRosc then s
  else if s.bit fClkStatMoscOk then s.lockOn 0
  else if s.bit fClkStatHrcOk then s.lockOn 1
  else s

/-! ### Requalification and return (R472, R473) -/

/-- The PLL returns to MOSC and CLK_AON to LXO (R472); coasting ends. -/
def clkReturnTo (s : State) : State :=
  let s := if s.bit fClkStatMoscOk then
      (if s.get fClkStatRef = 0 && s.bit fClkStatLock then s else s.lockOn 0).coastEnd
    else s
  if s.bit fClkStatLxoOk then s.aonSource false else s
/-- A source has passed its monitor for 100 ms: 0 MOSC, 1 LXO, 2 HRC (R472). -/
def sourceOk (s : State) (src : Nat) : State :=
  let auto_ := s.bit fClkCtrlAutoRet
  match src with
  | 0 =>
    let s := (s.setB fClkStatMoscOk true).updClk (fun c => { c with moscTrip := false, startHrc := false })
    let s := (s.trimSource).tbSource
    let s := if s.bit fClkStatCoast then (s.lockOn 0).coastEnd
      else if !s.bit fClkStatLock && !s.bit fClkStatHrcOk then s.lockOn 0
      else if auto_ then s.clkReturnTo else s
    s.clkOk
  | 1 =>
    let s := (s.setB fClkStatLxoOk true).updClk (fun c => { c with lxoTrip := false })
    (if auto_ then s.aonSource false else s).clkOk
  | _ => s
/-- CTRL.RETURN is refused when its target is not qualified (R476). -/
def returnRefused (s : State) : Bool :=
  if s.bit fClkStatCoast then !s.bit fClkStatMoscOk && !s.bit fClkStatHrcOk else !s.bit fClkStatMoscOk
/-- A write of CTRL.RETURN (R472, R473). -/
def clkReturn (s : State) : State :=
  if s.returnRefused then s.blkErr 0x02 0x40 true 0x020
  else if s.bit fClkStatCoast then
    (if s.bit fClkStatMoscOk then s.lockOn 0 else s.lockOn 1).coastEnd
  else s.clkReturnTo

/-! ### Qualification (R470, R474) -/

/-- HRC qualifies: TIMEBASE counts on it. -/
def hrcPass (s : State) : State :=
  let s := (s.setB fClkStatHrcOk true).updClk (fun c => { c with
    hrcQual := true, hrcTrip := false, requal := false, counts := true, noFall := none })
  let s := ((s.set fClkQualHrcTries (min 9 (s.clk.tries + 1))).updClk (fun c => { c with tries := 0 })).tbSource
  let s := s.clearFault 0xF002 0
  let s := if !s.bit fClkStatLock && s.clk.railsUp.isSome && !s.bit fClkStatMoscOk && s.boot.locked then s.lockOn 1 else s
  s.clkOk
/-- An attempt fails. Answers whether the device resets into SAFE_ROSC: the last retry failed with no MOSC to run on. -/
def hrcMiss (s : State) : Bool × State :=
  let n := s.clk.tries + 1
  let s := (s.set fClkQualHrcTries (min 9 n)).updClk (fun c => { c with tries := n })
  if n < 9 then (false, s)
  else if s.clk.requal && s.bit fClkStatLock && s.get fClkStatRef ≠ 1 then
    (false, (s.updClk (fun c => { c with hrcQual := true, tries := 0, noFall := some s.now })).raise 0xF002 0 .minor)
  else (true, s)
/-- Requalification is tried again 10 s later (R472). -/
def noFallRetry (s : State) : State :=
  match s.clk.noFall with
  | none => s
  | some t =>
    let s := s.at_ (t + 10000000)
    s.hrcRequal
/-- LXO qualifies (R470). -/
def lxoPass (s : State) : State :=
  ((s.setB fClkStatLxoOk true).updClk (fun c => { c with lxoTrip := false })).aonSource false

/-! ### Trim and discipline (R465, R475) -/

/-- A 1 ms comparison of HRC with the trim source: `dev` is HRC's deviation in 0.001 %. -/
def trimStep (s : State) (dev : Int) : State :=
  let s := s.trimSource
  if s.get fClkStatTrimSrc = 0 then s else
  let t := s.geti fClkTrimSteps
  let t' := if 20 < dev then max (-300) (t - 1) else if dev < -20 then min 300 (t + 1) else t
  let s := s.seti fClkTrimSteps t'
  let lim (x : Int) : Bool := x = 300 || x = -300
  if lim t' && !lim t then (s.irq 0x02 7).raise 0xF004 0 .minor
  else if lim t && !lim t' then s.clearFault 0xF004 0 else s
/-- The end of a 100 ms window: INC follows MOSC unless fabric time disciplines it (R465). -/
def discipline (s : State) (ppb : Int) : State :=
  if s.bit fLathStatFsync || !s.bit fClkStatMoscOk then s else s.seti fClkTbRatePpb ppb
def extrefOk (s : State) (on : Bool) : State :=
  if s.bit fClkStatExtrefOk = on || (on && !s.bit fClkCtrlExtrefEn) then s else
  let s := ((s.setB fClkStatExtrefOk on).irq 0x02 6).trimSource
  if on then s.clearFault 0xF003 0 else s.raise 0xF003 0 .minor
/-- What a write of a CLK register is refused for (R475): BAD_FREQ. -/
def clkRefuse (off : Nat) (w : Word) : Option Nat :=
  if off ≠ 0x038 then none else
  let f := bitsOf w 0 16
  if f < 1000 || 50000 < f then some 0x40 else none
/-- The operating point and its divider (R447, R448, R464). -/
def setOp (s : State) (op : Nat) : State :=
  if s.get fLathStatOp = op then s else
  ((s.set fLathStatOp op).set fClkStatCoreDiv (3 - op)).irq 0x01 6

end State
end Sys2Proof.Machine
end

