-- ==== Sys2Proof/Machine/Aes.lean ====
section
/-! DEFINITION. The cryptography of the levee (R386–R389, R398): AES-128, its CMAC (NIST SP 800-38B), the counter-mode KDF of
R388 (NIST SP 800-108) and the AES key wrap (NIST SP 800-38F). The S-box is computed from its definition. -/
set_option Elab.async false
namespace Sys2Proof.Machine

/-- Multiplication by x in GF(2^8) with the AES polynomial. -/
def xtime (a : Byte) : Byte := if a.getLsbD 7 then (a <<< 1) ^^^ 0x1B#8 else a <<< 1
def gmulN : Nat → Byte → Byte → Byte
  | 0, _, _ => 0
  | n + 1, a, b => (if b.getLsbD 0 then a else 0) ^^^ gmulN n (xtime a) (b >>> 1)
def gmul (a b : Byte) : Byte := gmulN 8 a b
/-- a^254, the inverse (0 for 0). -/
def ginv (a : Byte) : Byte :=
  let a2 := gmul a a
  let a4 := gmul a2 a2
  let a8 := gmul a4 a4
  let a16 := gmul a8 a8
  let a32 := gmul a16 a16
  let a64 := gmul a32 a32
  let a128 := gmul a64 a64
  gmul a128 (gmul a64 (gmul a32 (gmul a16 (gmul a8 (gmul a4 a2)))))
def rotl8 (a : Byte) (n : Nat) : Byte := (a <<< n) ||| (a >>> (8 - n))
def sbox (a : Byte) : Byte :=
  let b := ginv a
  b ^^^ rotl8 b 1 ^^^ rotl8 b 2 ^^^ rotl8 b 3 ^^^ rotl8 b 4 ^^^ 0x63#8
def isbox (a : Byte) : Byte := ginv (rotl8 a 1 ^^^ rotl8 a 3 ^^^ rotl8 a 6 ^^^ 0x05#8)

def xorBytes (a b : List Byte) : List Byte := List.zipWith (fun x y => x ^^^ y) a b

/-- The next round key from a round key and a round constant. -/
def nextKey (k : List Byte) (rc : Byte) : List Byte :=
  let g (i : Nat) : Byte := k.getD i 0
  let t := [sbox (g 13) ^^^ rc, sbox (g 14), sbox (g 15), sbox (g 12)]
  let w0 := xorBytes (k.take 4) t
  let w1 := xorBytes ((k.drop 4).take 4) w0
  let w2 := xorBytes ((k.drop 8).take 4) w1
  let w3 := xorBytes ((k.drop 12).take 4) w2
  w0 ++ w1 ++ w2 ++ w3
def keysFrom (k : List Byte) (rc : Byte) : Nat → List (List Byte)
  | 0 => [k]
  | n + 1 => k :: keysFrom (nextKey k rc) (xtime rc) n
/-- The eleven round keys. -/
def roundKeys (k : List Byte) : List (List Byte) := keysFrom k 1#8 10

/-- Byte i of the state after ShiftRows comes from byte 4·((c + r) mod 4) + r. -/
def shiftRows (s : List Byte) : List Byte :=
  (List.range 16).map (fun i => s.getD (4 * ((i / 4 + i % 4) % 4) + i % 4) 0)
def unshiftRows (s : List Byte) : List Byte :=
  (List.range 16).map (fun i => s.getD (4 * ((i / 4 + 4 - i % 4) % 4) + i % 4) 0)
/-- MixColumns with the first row (a, b, c, d) of a circulant matrix. -/
def mixWith (a b c d : Byte) (s : List Byte) : List Byte :=
  (List.range 16).map (fun i =>
    let g (k : Nat) : Byte := s.getD (4 * (i / 4) + (i + k) % 4) 0
    gmul a (g 0) ^^^ gmul b (g 1) ^^^ gmul c (g 2) ^^^ gmul d (g 3))

def encRounds : List (List Byte) → List Byte → List Byte
  | [], s => s
  | [k], s => xorBytes (shiftRows (s.map sbox)) k
  | k :: ks, s => encRounds ks (xorBytes (mixWith 2#8 3#8 1#8 1#8 (shiftRows (s.map sbox))) k)
/-- AES-128 of one block. -/
def aesEnc (key block : List Byte) : List Byte :=
  match roundKeys key with
  | k :: ks => encRounds ks (xorBytes block k)
  | [] => block
def decRounds : List (List Byte) → List Byte → List Byte
  | [], s => s
  | [k], s => xorBytes ((unshiftRows s).map isbox) k
  | k :: ks, s => decRounds ks (mixWith 14#8 11#8 13#8 9#8 (xorBytes ((unshiftRows s).map isbox) k))
/-- The inverse cipher. -/
def aesDec (key block : List Byte) : List Byte :=
  match (roundKeys key).reverse with
  | k :: ks => decRounds ks (xorBytes block k)
  | [] => block

/-- Doubling in GF(2^128), for the CMAC subkeys. -/
def dbl128 (b : List Byte) : List Byte :=
  let n := beNat b
  let m := 2 * n % 2 ^ 128
  let r := beBytes 16 m
  if 2 ^ 127 ≤ n then xorBytes r (beBytes 16 0x87) else r
def cmacBlocks (key : List Byte) : Nat → List Byte → List Byte → List Byte
  | 0, x, _ => x
  | n + 1, x, m => cmacBlocks key n (aesEnc key (xorBytes x (m.take 16))) (m.drop 16)
/-- AES-128 CMAC. -/
def cmac (key msg : List Byte) : List Byte :=
  let k1 := dbl128 (aesEnc key (List.replicate 16 0))
  let n := msg.length
  let full := n ≠ 0 && n % 16 = 0
  let body := if full then n - 16 else n / 16 * 16
  let last := msg.drop body
  let last := if full then xorBytes last k1
    else xorBytes (last ++ [0x80#8] ++ List.replicate (15 - last.length) 0) (dbl128 k1)
  aesEnc key (xorBytes (cmacBlocks key (body / 16) (List.replicate 16 0) msg) last)

/-- KEY_ID: the first 4 bytes of the CMAC over 16 zero bytes (R387). -/
def keyId (key : List Byte) : Nat := beNat ((cmac key (List.replicate 16 0)).take 4)
/-- The key of a session (R388). -/
def sessionKey (site : List Byte) (uidA uidB s : Nat) : List Byte :=
  cmac site ([1#8] ++ [0x4F#8, 0x56#8, 0x4C#8, 0x53#8] ++ [0#8] ++ beBytes 8 (min uidA uidB) ++ beBytes 8 (max uidA uidB)
    ++ beBytes 1 s ++ beBytes 2 0x80)

/-- One of the six unwrapping steps of a 16-byte key, step t from 12 down to 1. -/
def unwrapSteps (kek : List Byte) : Nat → List Byte → List Byte → List Byte → List Byte × List Byte × List Byte
  | 0, a, r1, r2 => (a, r1, r2)
  | t + 1, a, r1, r2 =>
    let x := xorBytes a (beBytes 8 (t + 1))
    if (t + 1) % 2 = 0 then
      let b := aesDec kek (x ++ r2)
      unwrapSteps kek t (b.take 8) r1 (b.drop 8)
    else
      let b := aesDec kek (x ++ r1)
      unwrapSteps kek t (b.take 8) (b.drop 8) r2
/-- AES key unwrap of 24 bytes; `none` when the integrity value fails (R398). -/
def keyUnwrap (kek w : List Byte) : Option (List Byte) :=
  let (a, r1, r2) := unwrapSteps kek 12 (w.take 8) ((w.drop 8).take 8) ((w.drop 16).take 8)
  if a = List.replicate 8 0xA6#8 then some (r1 ++ r2) else none
def wrapSteps (kek : List Byte) : Nat → Nat → List Byte → List Byte → List Byte → List Byte
  | 0, _, a, r1, r2 => a ++ r1 ++ r2
  | n + 1, t, a, r1, r2 =>
    if t % 2 = 1 then
      let b := aesEnc kek (a ++ r1)
      wrapSteps kek n (t + 1) (xorBytes (b.take 8) (beBytes 8 t)) (b.drop 8) r2
    else
      let b := aesEnc kek (a ++ r2)
      wrapSteps kek n (t + 1) (xorBytes (b.take 8) (beBytes 8 t)) r1 (b.drop 8)
/-- AES key wrap of a 16-byte key. -/
def keyWrap (kek k : List Byte) : List Byte := wrapSteps kek 12 1 (List.replicate 8 0xA6#8) (k.take 8) (k.drop 8)

end Sys2Proof.Machine
end

