-- ==== Sys2Proof/Machine/Levee.lean ====
section
/-! DEFINITION. The levee's keys, sessions, windows and transmit counter (R386–R400, R403): what the command paths and the
fabric use. Commands themselves are in LeveeCmd.lean. -/
set_option Elab.async false
namespace Sys2Proof.Machine

/-! ### Frame fields (R317): byte offsets of the fabric header, big-endian -/

def byteAt (f : List Byte) (i : Nat) : Nat := (f.getD i 0).toNat
def be (f : List Byte) (i n : Nat) : Nat := beNat ((f.drop i).take n)
def frVersion (f : List Byte) : Nat := byteAt f 0 / 16
def frVc (f : List Byte) : Nat := byteAt f 0 % 16
def frHops (f : List Byte) : Nat := byteAt f 1
def frAuth (f : List Byte) : Bool := bitNat (be f 2 2) 15
def frMcast (f : List Byte) : Bool := bitNat (be f 2 2) 14
def frRetry (f : List Byte) : Bool := bitNat (be f 2 2) 13
def frSrc (f : List Byte) : Nat := be f 4 2
def frDst (f : List Byte) : Nat := be f 6 2
def frTid (f : List Byte) : Nat := be f 8 2 / 16
def frKind (f : List Byte) : Nat := be f 8 2 % 16
def frSess (f : List Byte) : Nat := byteAt f 10
def frCtr (f : List Byte) : Nat := be f 12 6
def frTag (f : List Byte) : List Byte := (f.drop 18).take 8
def frLen (f : List Byte) : Nat := be f 26 2
def frStream (f : List Byte) : Nat := be f 28 2
def frBody (f : List Byte) : List Byte := f.drop 32
/-- A header and its payload. -/
def mkFrame (vc hops flags src dst tid kind sess ctr : Nat) (tag : List Byte) (stream : Nat) (p : List Byte) : List Byte :=
  beBytes 1 (16 + vc) ++ beBytes 1 hops ++ beBytes 2 flags ++ beBytes 2 src ++ beBytes 2 dst
    ++ beBytes 2 (16 * (tid % 4096) + kind) ++ beBytes 1 sess ++ [0#8] ++ beBytes 6 ctr ++ tag ++ beBytes 2 p.length
    ++ beBytes 2 stream ++ [0#8, 0#8] ++ p
/-- Replace `n` bytes at `i`. -/
def putBytes (f : List Byte) (i : Nat) (b : List Byte) : List Byte := f.take i ++ b ++ f.drop (i + b.length)
/-- The frame as the tag sees it: HOPS and TAG 0 (R386). -/
def tagMsg (f : List Byte) : List Byte := putBytes (putBytes f 1 [0#8]) 18 (List.replicate 8 0#8)
def tagOf (key f : List Byte) : List Byte := (cmac key (tagMsg f)).take 8

/-- A refusal of the checks: its cause (R391). -/
inductive LevRefusal where
  | tag | replay | resync | quarantine | noKey | class_ | session
deriving DecidableEq, Repr
def levCause : LevRefusal → Nat
  | .tag => 1 | .replay => 2 | .resync => 3 | .quarantine => 4 | .noKey => 5 | .class_ => 6 | .session => 7
/-- Step 6 for counter `c` of session `i` (R392): refused, accepted at once, or accepted once B is persisted. -/
inductive Win where
  | refuse (r : LevRefusal)
  | accept (x : Sess)
  | floor (blk : Nat)

namespace State

def updLev (s : State) (f : LevSt → LevSt) : State := { s with lev := f s.lev }
def sess (s : State) (i : Nat) : Sess := Map.look (fun _ => {}) s.lev.sess i
def setSess (s : State) (i : Nat) (x : Sess) : State :=
  s.updLev (fun l => { l with sess := Map.put (fun _ => {}) l.sess i x })

/-- The trust mode in force (R68). -/
def authRequired (s : State) : Bool := s.lev.site.isSome && s.controlMode ≠ 0
/-- The faces of the LEVEE page and HOST.TRUST. -/
def levFaces (s : State) : State :=
  let has := s.lev.site.isSome
  let s := s.setB fLeveeStatSiteKey has
  let s := s.setB fLeveeStatGrace s.lev.prev.isSome
  let s := s.setB fLeveeStatProvOk (!has && !s.bit fSysStrapsServiceN && !s.bit fStoreStatusIdMismatch)
  let s := s.setB fLeveeStatReserving s.sto.resv
  let s := s.set fLeveeKeyIdId ((s.lev.site.map keyId).getD 0)
  let s := s.setPair rLeveeTxLo rLeveeTxHi s.lev.tx
  let s := s.setPair rLeveeTopLo rLeveeTopHi s.lev.top
  let s := s.setB fHostTrustSiteKey has
  s.setB fHostTrustMode s.authRequired

/-- The key of a session under a site key (R388). -/
def sessKey (s : State) (site : List Byte) (i : Nat) : List Byte :=
  if i = 255 then sessionKey site s.uid s.uid 255 else sessionKey site s.uid (s.sess i).uid i

/-! ### The view of a session (SESS_SEL) -/

def sessView (s : State) (i : Nat) : State :=
  let x := s.sess i
  let s := s.set fLeveeSessCfgMask (x.mask / 2 % 512)
  let s := s.setB fLeveeSessCfgBound x.bound
  s.setPair rLeveeSessUidLo rLeveeSessUidHi x.uid
/-- The live fields of the view, as a read shows them. -/
def sessLive (s : State) : State :=
  let x := s.sess (s.get fLeveeSessSelSession)
  let s := s.setB fLeveeSessCfgSync x.sync
  let s := s.setB fLeveeSessCfgQuar x.quar.isSome
  let s := s.set fLeveeSessFloorB x.b
  let s := s.setPair rLeveeSessHiLo rLeveeSessHiHi x.hi
  let s := s.set fLeveeSessFailRun x.fails
  s.set fLeveeSessFailQuarLeft (match x.quar with | some t => min 63 (ceilDiv (t - s.now) 1000000) | none => 0)

/-! ### Store records (R390) -/

/-- The record of a session, little-endian. -/
def sessBytes (x : Sess) : List Byte :=
  leBytes 8 x.uid ++ leBytes 2 x.mask ++ leBytes 1 (if x.bound then 1 else 0) ++ [0#8] ++ leBytes 3 x.b
    ++ List.replicate 17 0#8
/-- A run of the levee: accepted, with what its end completes; a refusal raises KEY_STORE. -/
def levRun (s : State) (src : RunSrc) (addr : Nat) (bytes : List Byte) (what : LevRun) : Bool × State :=
  let tag := s.lev.tag + 1
  let (ok, s) := s.engineRun { src := src, addr := addr, bytes := bytes, tag := tag }
  if ok then (true, s.updLev (fun l => { l with tag := tag, runs := Map.put (fun _ => none) l.runs tag (some what) }))
  else (false, s.raise 0xE003 0 .minor)
def keyRecord (s : State) (k : Option (List Byte)) : List Byte :=
  match k with
  | some k => keyWrap s.lev.devKey k ++ beBytes 4 (keyId k) ++ List.replicate 4 0#8
  | none => List.replicate 32 0#8

/-- What recall gives the levee: the site key, the bindings and the floors (R272, R388, R392). -/
def levRecall (s : State) : State :=
  let w := s.storeBytes 0x3A000 24
  let k := if s.bit fStoreStatusIdMismatch then none
    else match keyUnwrap s.lev.devKey w with
      | some k => if beNat (s.storeBytes 0x3A018 4) = keyId k then some k else none
      | none => none
  let s := s.updLev (fun l => { l with site := k, prev := none, sess := [] })
  let s := (List.range 255).foldl (fun s i =>
    let a := 0x38000 + 0x20 * i
    let c := (s.storeByte (a + 10)).toNat
    if c = 0xFF || s.bit fStoreStatusIdMismatch then s else
    s.setSess i {
      bound := c % 2 = 1, uid := leNat (s.storeBytes a 8), mask := leNat (s.storeBytes (a + 8) 2)
      b := leNat (s.storeBytes (a + 12) 3) }) s
  let c := s.storeBytes 0x39FEC 3
  let b := if (s.storeByte 0x39FEA).toNat = 0xFF || s.bit fStoreStatusIdMismatch then 0 else leNat c
  (s.setSess 255 { bound := true, uid := s.uid, mask := 0x3FE, b := b }).levFaces

/-! ### The transmit counter (R395) -/

/-- A step of the reservation: TOP rises by 2^24 through peat, or no counter is left. -/
def levReserve (s : State) : State :=
  if s.sto.resv || s.lev.dead then s
  else if 2 ^ 48 < s.lev.top + 2 ^ 24 then (s.updLev (fun l => { l with dead := true })).raise 0xE002 0 .major
  else (((s.updLev (fun l => { l with top := l.top + 2 ^ 24 })).peatReserve)).levFaces
/-- At recall TX takes the old TOP and a step is reserved. -/
def levStart (s : State) : State :=
  let top := (s.peatEnt 2047).v.toNat
  (s.updLev (fun l => { l with tx := top, top := top, ready := false })).levReserve
/-- A counter may be taken now. -/
def ctrFree (s : State) : Bool := s.lev.ready && !s.lev.dead && s.lev.tx < s.lev.top - (if s.sto.resv then 2 ^ 24 else 0)
/-- Take the next counter; within 2^20 of TOP the next step is reserved. -/
def takeCtr (s : State) : Nat × State :=
  let c := s.lev.tx
  let s := s.updLev (fun l => { l with tx := c + 1 })
  let s := if s.lev.top ≤ c + 1 + 2 ^ 20 then s.levReserve else s
  (c, s.levFaces)

/-! ### The checks (R391–R394) -/

/-- A session enters quarantine at its eighth failure in a row (R394). -/
def tagFail (s : State) (i : Nat) : State :=
  let x := s.sess i
  let n := x.fails + 1
  if n < 8 then s.setSess i { x with fails := n }
  else ((s.setSess i { x with fails := 8, quar := some (s.now + 60000000) }).irq 0x80 2).raise 0xE001 i .minor
/-- The end of a session's quarantine. -/
def quarEnd (s : State) (i : Nat) : State :=
  match (s.sess i).quar with
  | none => s
  | some t =>
    let s := s.at_ t
    ((s.setSess i { (s.sess i) with quar := none, fails := 0 }).irq 0x80 2).clearFault 0xE001 i
/-- A refusal is counted, logged and shown (R394, R310). -/
def levRefused (s : State) (r : LevRefusal) (sess cls src ctr op : Nat) : State :=
  let s := if r = .class_ || r = .replay || r = .resync then s.bump fLeveeCntReplay else s.bump fLeveeCntTag
  (s.irq 0x80 1).audit 2 sess (cls * 256 + levCause r) src ctr op

def window (x : Sess) (c : Nat) : Win :=
  let blk := c / 2 ^ 24
  if !x.sync then
    if blk ≤ x.b then .refuse .resync else .floor blk
  else if x.hi < c then
    if x.b < blk then .floor blk
    else
      let d := c - x.hi
      .accept { x with hi := c, map := if 64 ≤ d then 1 else (x.map * 2 ^ d % 2 ^ 64) ||| 1 }
  else if x.hi - c < 64 && !bitNat x.map (x.hi - c) then .accept { x with map := setBitNat x.map (x.hi - c) true }
  else .refuse .replay
/-- The window once a new floor is committed. -/
def windowFloor (x : Sess) (c blk : Nat) : Sess :=
  if !x.sync then { x with b := blk, hi := c, map := 1, sync := true }
  else
    let d := c - x.hi
    { x with b := blk, hi := c, map := if 64 ≤ d then 1 else (x.map * 2 ^ d % 2 ^ 64) ||| 1 }

/-- Steps 1–4 and 6 of the checks over a tagged frame (a response has no class of its own). `known` tells that the database
holds the peer (step 2). Answers the state with what the checks changed, or the refusal. -/
def checkTagged (s : State) (f : List Byte) (host known : Bool) (permit : Nat → Bool) : (LevRefusal ⊕ Win) × State :=
  let i := frSess f
  match s.lev.site with
  | none => (.inl .noKey, s)
  | some k =>
    let x := s.sess i
    if !x.bound || (host && i ≠ 255) || (!host && (i = 255 || !known)) then (.inl .session, s)
    else if x.quar.isSome then (.inl .quarantine, s)
    else
      let good (k : List Byte) : Bool := tagOf (s.sessKey k i) f = frTag f
      if !(good k || (match s.lev.prev with | some (p, _) => good p | none => false)) then (.inl .tag, s.tagFail i)
      else
        let x := { x with fails := 0 }
        let s := s.setSess i x
        if !permit x.mask then (.inl .class_, s)
        else match window x (frCtr f) with
          | .refuse r => (.inl r, s)
          | .accept y => (.inr (.accept y), s.setSess i y)
          | .floor b => (.inr (.floor b), s)

/-- The previous key is discarded (R398). -/
def graceEnd (s : State) : State :=
  match s.lev.prev with
  | none => s
  | some (_, t) => ((s.at_ t).updLev (fun l => { l with prev := none })).levFaces

/-! ### Keys and bindings taking effect (R390, R397–R400) -/

/-- A new site key governs; windows, counts and bindings carry across. -/
def keyInForce (s : State) (k : Option (List Byte)) (roll : Bool) : State :=
  let prev := if roll then s.lev.site.map (fun p => (p, s.now + 1000000 * s.get fLeveeCfgGrace)) else none
  let s := s.updLev (fun l => { l with site := k, prev := prev })
  let s := if k.isNone then s.updLev (fun l => { l with
      sess := l.sess.filterMap (fun p => if p.1 = 255 then some (p.1, { p.2 with sync := false }) else none) }) else s
  (s.irq 0x80 3).levFaces
/-- A binding takes effect: the window starts unsynchronised. -/
def bindInForce (s : State) (i : Nat) (on : Bool) (uid mask : Nat) : State :=
  let x := s.sess i
  let s := if x.quar.isSome then (s.irq 0x80 2).clearFault 0xE001 i else s
  s.setSess i { bound := on, uid := uid, mask := mask, b := x.b }

/-- KEY_ERASE and FACTORY_RESTORE (R399): site key, both records and every binding go. -/
def keyErase (s : State) : Bool × State :=
  let (ok, s) := s.levRun .levee 0x38000 (List.replicate 0x2000 0#8 ++ s.keyRecord none) (.key none false none [])
  if ok then (true, s.keyInForce none false) else (false, s)

end State
end Sys2Proof.Machine
end

