-- ==== Sys2Proof/Machine/Fab.lean ====
section
/-! DEFINITION. The Parrin fabric's links, discovery, addresses, routes and time (R315–R340), and the transmit side of a port
(R341–R346). -/
set_option Elab.async false
namespace Sys2Proof.Machine

/-! ### Link-state advertisements (R323) -/

def lsaBytes (l : Lsa) : List Byte :=
  beBytes 8 l.uid ++ beBytes 4 l.seq ++ beBytes 2 l.addr ++ beBytes 1 l.prio ++ beBytes 1 l.flags ++ beBytes 2 l.want
    ++ beBytes 1 l.links.length ++ beBytes 1 l.groups.length
    ++ l.links.flatMap (fun k => beBytes 8 k.1 ++ beBytes 1 k.2.1 ++ beBytes 1 k.2.2 ++ [0#8, 0#8])
    ++ l.groups.flatMap (fun g => beBytes 2 g)
/-- The LSA of a payload; `none` when its length disagrees with its counts. -/
def lsaOf (p : List Byte) : Option Lsa :=
  let nl := byteAt p 18
  let ng := byteAt p 19
  if p.length ≠ 20 + 12 * nl + 2 * ng || 4 < nl || 16 < ng then none else
  some {
    uid := be p 0 8, seq := be p 8 4, addr := be p 12 2, prio := byteAt p 14, flags := byteAt p 15, want := be p 16 2
    links := (List.range nl).map (fun i => (be p (20 + 12 * i) 8, byteAt p (28 + 12 * i), byteAt p (29 + 12 * i)))
    groups := (List.range ng).map (fun i => be p (20 + 12 * nl + 2 * i) 2) }

/-! ### The graph (R324, R325, R330) -/

def lsaFind (db : List Lsa) (u : Nat) : Option Lsa := db.find? (fun l => l.uid = u)
/-- Counted links of a device: both ends list them; ascending neighbour UID, then port. -/
def counted (db : List Lsa) (u : Nat) : List (Nat × Nat) :=
  match lsaFind db u with
  | none => []
  | some l =>
    let ok := l.links.filter (fun k => match lsaFind db k.1 with
      | some m => m.links.any (fun j => j.1 = u && j.2.1 = k.2.2 && j.2.2 = k.2.1)
      | none => false)
    (ok.map (fun k => (k.1, k.2.1))).mergeSort (fun a b => a.1 < b.1 || (a.1 = b.1 && a.2 ≤ b.2))

/-- Breadth-first distances over a neighbour function. -/
def bfs (nb : Nat → List Nat) : Nat → List (Nat × Nat) → List (Nat × Nat) → List (Nat × Nat)
  | 0, _, seen => seen
  | _, [], seen => seen
  | k + 1, (u, d) :: q, seen =>
    let fresh := ((nb u).eraseDups).filter (fun v => !seen.any (fun p => p.1 = v))
    let add := fresh.map (fun v => (v, d + 1))
    bfs nb k (q ++ add) (seen ++ add)
def distances (db : List Lsa) (u : Nat) : List (Nat × Nat) :=
  bfs (fun v => (counted db v).map Prod.fst) (db.length + 1) [(u, 0)] [(u, 0)]
def distOf (l : List (Nat × Nat)) (u : Nat) : Nat := (l.lookup u).getD 0

/-- One state of the legal-route search: device, phase (true UP), distance, first port. -/
structure RtState where
  dev : Nat
  up : Bool
  dist : Nat
  first : Option Nat
deriving DecidableEq, Repr
/-- The search of R330. `lower a b`: the end `a` has the lower (LEVEL, UID). -/
def legalSearch (db : List Lsa) (self : Nat) (lower : Nat → Nat → Bool) : Nat → List RtState → List RtState → List RtState
  | 0, _, seen => seen
  | _, [], seen => seen
  | k + 1, n :: q, seen =>
    let step (acc : List RtState × List RtState) (e : Nat × Nat) : List RtState × List RtState :=
      let upward := lower e.1 n.dev
      let nph := if upward && n.up then some true else if !upward then some false else none
      match nph with
      | none => acc
      | some ph =>
        if acc.2.any (fun x => x.dev = e.1 && x.up = ph) then acc
        else
          let x : RtState := { dev := e.1, up := ph, dist := n.dist + 1,
                               first := if n.dev = self then some e.2 else n.first }
          (acc.1 ++ [x], acc.2 ++ [x])
    let (add, seen) := (counted db n.dev).foldl step ([], seen)
    legalSearch db self lower k (q ++ add) seen

/-- A device's parent: the neighbour one level nearer the root with the lowest UID, by its lowest local port (R325). -/
def parentOf (db : List Lsa) (lv : List (Nat × Nat)) (root u : Nat) : Option (Nat × Nat) :=
  if u = root then none else
  (counted db u).find? (fun e => distOf lv e.1 + 1 = distOf lv u)

/-- The root, the tree and every route from the database (R325, R330, R331). -/
def computeRoutes (db : List Lsa) (self : Nat) : Routes :=
  let reach := distances db self
  let devs := db.filter (fun l => reach.any (fun p => p.1 = l.uid))
  let better (a b : Lsa) : Bool := a.prio < b.prio || (a.prio = b.prio && a.uid < b.uid)
  let root := devs.foldl (fun (m : Option Lsa) l => match m with
    | some x => if better l x then some l else m
    | none => some l) none
  let rootUid := (root.map (fun l => l.uid)).getD self
  let lv := distances db rootUid
  let lower (a b : Nat) : Bool := distOf lv a < distOf lv b || (distOf lv a = distOf lv b && a < b)
  let start : RtState := { dev := self, up := true, dist := 0, first := none }
  let st := legalSearch db self lower (2 * db.length + 2) [start] [start]
  let best (u : Nat) : Option RtState :=
    match st.find? (fun x => x.dev = u && x.up), st.find? (fun x => x.dev = u && !x.up) with
    | some a, some b => if b.dist < a.dist then some b else some a
    | some a, none => some a
    | none, r => r
  let routes := devs.foldl (fun m l =>
    if l.uid = self || l.addr = 0 then m else
    match best l.uid with
    | some x => Map.put (fun _ => none) m l.addr (x.first.map (fun p => (p, x.dist)))
    | none => m) []
  let par (u : Nat) : Option (Nat × Nat) := parentOf db lv rootUid u
  let treeNb (u : Nat) : List (Nat × Nat) :=
    let up := (par u).toList
    let down := (counted db u).filter (fun e => match par e.1 with
      | some (w, port) => w = u && (match lsaFind db e.1 with
          | some l => l.links.any (fun k => k.1 = u && k.2.1 = port && k.2.2 = e.2)
          | none => false)
      | none => false)
    up ++ down
  let kids := ((treeNb self).filter (fun e => match par self with | some q => q ≠ e | none => true)).map Prod.snd
  let tree := (treeNb self).flatMap (fun e =>
    let d := bfs (fun v => (treeNb v).map Prod.fst) (db.length + 1) [(e.1, 1)] [(self, 0), (e.1, 1)]
    (d.filter (fun p => p.1 ≠ self)).map (fun p => (p.1, e.2, p.2)))
  { root := rootUid
    level := distOf lv self, depth := (devs.map (fun l => distOf lv l.uid)).foldl max 0, devs := max 1 devs.length
    parent := (par self).map (fun q => (q.1, q.2, ((lsaFind db q.1).map (fun l => l.addr)).getD 0))
    kids := kids, routes := routes, tree := tree
    grps := (devs.filter (fun l => l.uid ≠ self)).map (fun l => (l.uid, l.groups)) }

namespace State

def updFab (s : State) (f : FabSt → FabSt) : State := { s with fab := f s.fab }
def port_ (s : State) (p : Nat) : PortSt := Map.look (fun _ => {}) s.fab.ports p
def setPort (s : State) (p : Nat) (x : PortSt) : State :=
  s.updFab (fun f => { f with ports := Map.put (fun _ => {}) f.ports p x })
def modPort (s : State) (p : Nat) (g : PortSt → PortSt) : State := s.setPort p (g (s.port_ p))
def pstate (s : State) (p : Nat) : Nat := s.get (fFportStatState p)
def isUp (s : State) (p : Nat) : Bool := s.pstate p = 3
def upPorts (s : State) : List Nat := (List.range 4).filter (fun p => s.isUp p)
def myAddr (s : State) : Nat := s.get fFabAddrAddr
/-- A timestamp on CLK_FAB in ns, 5 ns resolution: the µs of TIMEBASE and a free part below it (log entry 10). -/
def stampNs (s : State) : Nat × State :=
  let (x, s) := s.freeNat 6
  (s.now * 1000 + x % 200 * 5, s)

/-! ### Origination (R317, R395) -/

/-- Queue a frame at an egress port; a LINK queue holds two (R319), and only a port in UP carries other frames. -/
def enqueue (s : State) (p : Nat) (x : OutFrame) : State :=
  if x.vc = 5 then
    if 2 ≤ (s.port_ p).linkQ.length then s else s.modPort p (fun q => { q with linkQ := q.linkQ ++ [x] })
  else if !s.isUp p then s
  else s.modPort p (fun q => { q with q := q.q ++ [x] })
/-- The frame of an origination with counter `c`, tagged when its FLAGS say so. -/
def buildFrame (s : State) (o : Origin) (c : Nat) : List Byte :=
  let f (t : List Byte) : List Byte := mkFrame o.vc 0 o.flags s.myAddr o.dst o.tid o.kind o.sess c t o.stream o.payload
  let key := if o.old then s.lev.prev.map Prod.fst else s.lev.site
  match bitNat o.flags 15, key with
  | true, some k => f (tagOf (s.sessKey k o.sess) (f (List.replicate 8 0#8)))
  | _, _ => f (List.replicate 8 0#8)
/-- The counter of an attempt is kept with its transaction (R351). -/
def noteCtr (s : State) (o : Origin) (c : Nat) : State :=
  if (o.vc = 1 || o.vc = 3) && o.kind ≠ 1 && o.kind ≠ 0xC then
    { s with dlv := { s.dlv with
      opens := s.dlv.opens.map (fun x => if x.tid = o.tid then { x with ctrs := x.ctrs ++ [c] } else x) } }
  else s
/-- Originate a frame: with the next counter, or later when none is free (LINK frames are dropped then). Answers the
counter used. -/
def originate (s : State) (o : Origin) : Option Nat × State :=
  if !s.ctrFree then
    (none, if o.vc = 5 then s else s.updFab (fun f => { f with wait := f.wait ++ [o] }))
  else
    let (c, s) := s.takeCtr
    let x : OutFrame := { vc := o.vc, bytes := s.buildFrame o c }
    (some c, (o.port :: o.more).foldl (fun s p => s.enqueue p x) (s.noteCtr o c))
def linkSend (s : State) (p kind : Nat) (payload : List Byte) : State :=
  if s.lev.ready then (s.originate { port := p, vc := 5, kind := kind, tid := 0, dst := 0, payload := payload }).2 else s
/-- Frames that waited for a counter are originated. -/
def originateWaiting (s : State) : State :=
  let l := s.fab.wait
  l.foldl (fun s o => (s.originate o).2) (s.updFab (fun f => { f with wait := [] }))

/-! ### HELLO and flooding (R320, R323, R324) -/

def calSetFlag (s : State) : Nat := if s.bit fCalStatSet then 1 else 0
def sendHello (s : State) (p : Nat) : State :=
  let lvl := if s.fab.rt.level = 0 && s.fab.rt.root ≠ s.uid then 255 else s.fab.rt.level
  let flags := (if s.bit fLathStatFsync then 1 else 0) + 2 * s.calSetFlag
  s.linkSend p 0 (beBytes 8 s.uid ++ beBytes 2 s.myAddr ++ beBytes 1 (s.get fFabCfgPrio) ++ beBytes 1 p
    ++ beBytes 1 lvl ++ beBytes 1 flags ++ [0#8, 0#8] ++ beBytes 8 (s.port_ p).heard)
/-- Groups this device has joined besides 0xFFFF (R331, R379). -/
def myGroups (s : State) : List Nat :=
  let g := (List.range 16).filterMap (fun k => if s.bit (fFabGrpEn k) then some (s.get (fFabGrpGroup k)) else none)
  let r := (entries s.dir.run).filterMap (fun i =>
    if entKind s.dir.run i = 3 && entGroup s.dir.run i ≠ 0 then some (entGroup s.dir.run i) else none)
  (g ++ r).eraseDups
def ownLsa (s : State) : Lsa :=
  { uid := s.uid, seq := s.fab.seq, addr := s.myAddr, prio := s.get fFabCfgPrio
    flags := (if s.fab.req then 1 else 0) + (if s.fab.conflict then 2 else 0), want := s.fab.want
    links := s.upPorts.map (fun p => ((s.port_ p).nbr, p, (s.port_ p).nport))
    groups := s.myGroups.take 16, time := s.now }
/-- Send a flooded frame on a port and await its acknowledgement. -/
def floodOn (s : State) (p kind uid seq : Nat) (payload : List Byte) : State :=
  let s := s.linkSend p kind payload
  s.modPort p (fun q => { q with
    unack := q.unack.filter (fun u => !(u.kind = kind && u.uid = uid && u.seq ≤ seq))
      ++ [{ uid := uid, seq := seq, kind := kind, payload := payload, sent := s.now }] })
def floodAll (s : State) (except_ : Option Nat) (kind uid seq : Nat) (payload : List Byte) : State :=
  (s.upPorts.filter (fun p => some p ≠ except_)).foldl (fun s p => s.floodOn p kind uid seq payload) s
/-- The database changed: TOPO, LSDB, and the wait of R333 restarts. -/
def dbChanged (s : State) : State :=
  let s := s.updFab (fun f => { f with change := some ((f.change.map Prod.fst).getD s.now, s.now), next := none })
  (s.set fFabLsdbCount s.fab.db.length).irq 0x78 0
def dbPut (s : State) (l : Lsa) : State :=
  s.updFab (fun f => { f with db := f.db.filter (fun x => x.uid ≠ l.uid) ++ [l] })
/-- This device originates its LSA (R323). -/
def originateLsa (s : State) : State :=
  if !s.en 0x78 then s else
  let s := s.updFab (fun f => { f with seq := f.seq + 1, refresh := s.now })
  let l := s.ownLsa
  (s.dbPut l).dbChanged.floodAll none 1 l.uid l.seq (lsaBytes l)

/-! ### Port states (R321, R322, R340) -/

/-- LATH.STAT.FSYNC changes. -/
def setFsync (s : State) (b : Bool) : State :=
  if s.bit fLathStatFsync = b then s else
  let s := (s.setB fLathStatFsync b).irq 0x03 4
  let s := if b then { s with dlv := { s.dlv with retry := true } } else s
  if b then s.set fCalStatSrc 2 else s
/-- The root reads FSYNC = 1 while it has an UP port; a device with no UP port reads 0 (R334). -/
def fsyncRoot (s : State) : State :=
  if s.upPorts.isEmpty then s.setFsync false
  else if s.fab.rt.root = s.uid then s.setFsync true else s
/-- A port changes state; a change into or out of UP is a topology change. -/
def setPstate (s : State) (p st : Nat) : State :=
  let old := s.pstate p
  if old = st then s else
  let s := s.set (fFportStatState p) st
  let s := if st = 4 || st = 5 then s.irq (0x79 + p) 2 else s
  let s := if st = 3 then
      (s.bumpWrap (fFportUpcntCount p)).modPort p (fun q => { q with allow := [0, 0, 0, 0], begun := [], delays := [], t1 := none })
    else if old = 3 then
      s.modPort p (fun q => { q with linkQ := [], q := [], unack := [], tWait := [], tReg := [], delays := [], t1 := none })
    else s
  let s := if old = 3 then s.set (fFportDelayNs p) 0 else s
  if st = 3 || old = 3 then ((s.irq (0x79 + p) 0).originateLsa).fsyncRoot else s
def phyUp (s : State) (p : Nat) (amp24 : Bool) (sqi : Nat) : State :=
  if s.pstate p ≠ 0 && s.pstate p ≠ 1 then s else
  let s := s.setB (fFportStatAmp p) (amp24 && s.bit (fFportCfgAmp24 p))
  let s := (s.set (fFportStatSqi p) sqi).modPort p (fun q => { q with hello := s.now, heard := 0, told := [8, 8, 8, 8] })
  s.setPstate p 2
def phyTrain (s : State) (p : Nat) : State := if s.pstate p = 0 then s.setPstate p 1 else s
def portDown (s : State) (p : Nat) : State :=
  if s.pstate p = 6 then s else (s.setPstate p 0).modPort p (fun q => { q with heard := 0 })
/-- EN of an FPORT page or of the FAB page. -/
def portEnable (s : State) (p : Nat) : State :=
  let on := s.en (0x79 + p) && s.en 0x78
  if on then (if s.pstate p = 6 then s.setPstate p 0 else s) else s.setPstate p 6
/-- 310 ms without a HELLO (R321). -/
def helloLost (s : State) (p : Nat) : State :=
  if s.pstate p ≠ 2 && s.pstate p ≠ 3 then s else
  let s := s.at_ ((s.port_ p).hello + 310000)
  (s.portDown p).bump (fFportErrHelloMiss p)

/-! ### Credits (R344, R345) -/

/-- Free buffers of a channel (0 E-req, 1 E-resp, 2 B-req, 3 B-resp) on the receive side of port `p`. -/
def freeBuf (s : State) (p c : Nat) : Nat :=
  let nums := ((List.range 4).flatMap (fun e => ((s.port_ e).q.filter (fun x => x.src = some p && x.vc = c + 1)).map
    (fun x => x.num))).eraseDups
  8 - min 8 nums.length
def freeAll (s : State) (p : Nat) : List Nat := (List.range 4).map (fun c => s.freeBuf p c)
/-- A report of the sender of a LINK frame sets the allowances. -/
def takeReport (s : State) (p : Nat) (f : List Byte) : State :=
  if frKind f = 3 || frKind f = 4 then s else
  let t := frTid f
  let rep := [t / 512 % 8, t / 64 % 8, t / 8 % 8, t % 8]
  s.modPort p (fun q =>
    let recent := q.begun.filter (fun b => s.now < b.2 + 80)
    { q with
      begun := recent
      allow := rep.zipIdx.map (fun r => r.1 - (recent.filter (fun b => b.1 = r.2 + 1)).length) })

/-! ### Received LINK frames -/

/-- Whether a frame is well formed (R318). -/
def frameOk (f : List Byte) : Bool :=
  32 ≤ f.length && frVersion f = 1 && frVc f ≤ 5 && frLen f ≤ 256 && f.length = 32 + frLen f
    && be f 2 2 % 8192 = 0 && byteAt f 11 = 0 && be f 30 2 = 0 && !(frVc f = 5 && frAuth f)
/-- A frame that fails R318 is discarded and counted; a wrong VERSION makes the port INCOMPAT. -/
def discard (s : State) (p : Nat) (f : List Byte) (fcsOk : Bool) : State :=
  let s := s.bump (fFportErrFrame p)
  if fcsOk && 32 ≤ f.length && frVersion f ≠ 1 && (s.pstate p = 2 || s.pstate p = 3) then s.setPstate p 4 else s

def rxHello (s : State) (p : Nat) (f : List Byte) : State :=
  if s.pstate p ≠ 2 && s.pstate p ≠ 3 then s else
  let b := frBody f
  let uid := be b 0 8
  let s := s.bumpWrap (fFportRxCount p)
  if uid = s.uid then s.setPstate p 5 else
  let s := if (s.port_ p).nbr ≠ uid then s.irq (0x79 + p) 1 else s
  let s := s.modPort p (fun q => { q with
    nbr := uid, nport := byteAt b 11, heard := uid
    hello := s.now })
  let s := s.setPair (rFportNbrLo p) (rFportNbrHi p) uid
  let s := (s.set (fFportStatNbrAddr p) (be b 8 2)).set (fFportStatNbrPort p) (byteAt b 11)
  let s := s.setPstate p (if be b 16 8 = s.uid then 3 else 2)
  if s.isUp p then s.takeReport p f else s

/-! ### Addresses (R326–R329) -/

/-- An engine run of the fabric device record. -/
def fabRecord (s : State) : State :=
  let bs := [0x4F#8, 0x56#8, 0x46#8, 0x41#8] ++ leBytes 2 s.myAddr ++ leBytes 1 (s.get fFabCfgPrio) ++ [0#8]
    ++ leBytes 4 s.fab.recSeq ++ leBytes 8 s.fab.recRoot
  let (ok, s) := s.engineRun { src := .fab, addr := 0x1000, bytes := bs ++ List.replicate (256 - bs.length) 0#8 }
  if ok then s else s.irq 0x78 3
def fabAddrFaces (s : State) : State :=
  let s := s.setB fFabAddrValid (s.myAddr ≠ 0)
  let s := s.setB fFabAddrReq s.fab.req
  s.setB fFabAddrConflict s.fab.conflict
/-- The address changes. -/
def setAddr (s : State) (a : Nat) : State :=
  if s.myAddr = a then s.fabAddrFaces else ((s.set fFabAddrAddr a).irq 0x78 3).fabAddrFaces
/-- This device takes up an address granted to it. -/
def takeGrant (s : State) (a gseq root : Nat) : State :=
  let s := s.updFab (fun f => { f with req := false, conflict := false, want := 0, recSeq := gseq, recRoot := root })
  ((s.setAddr a).fabRecord).originateLsa
/-- Reachable LSAs. -/
def reachable (s : State) : List Lsa :=
  let d := distances s.fab.db s.uid
  s.fab.db.filter (fun l => d.any (fun p => p.1 = l.uid))
/-- Record which addresses reachable LSAs claim now. -/
def noteClaims (s : State) : State :=
  s.reachable.foldl (fun s l =>
    if l.addr = 0 then s
    else s.updFab (fun f => { f with claimed := Map.put (fun _ => none) f.claimed l.addr (some s.now) })) s
def addrFree (s : State) (a : Nat) : Bool :=
  1 ≤ a && a ≤ 0xFFF && !s.reachable.any (fun l => l.addr = a)
    && (match Map.look (fun _ => none) s.fab.claimed a with | some t => decide (t + 86400000000 ≤ s.now) | none => true)
def chooseAddr (s : State) (want : Nat) : Option Nat :=
  if s.addrFree want then some want else ((List.range 0xFFF).map (· + 1)).find? (fun a => s.addrFree a)
/-- The root answers one request (R328). -/
def grantTo (s : State) (l : Lsa) : State :=
  match s.chooseAddr l.want with
  | none => if l.uid = s.uid then (s.setB fFabAddrFull true).irq 0x78 5 else s
  | some a =>
    let s := s.updFab (fun f => { f with
      gseq := f.gseq + 1, claimed := Map.put (fun _ => none) f.claimed a (some s.now)
      seen := f.seen ++ [(s.uid, f.gseq + 1)] })
    let g := s.fab.gseq
    if l.uid = s.uid then s.takeGrant a g s.uid
    else s.floodAll none 6 s.uid g (beBytes 8 l.uid ++ beBytes 2 a ++ [0#8, 0#8] ++ beBytes 4 g ++ beBytes 8 s.uid)
/-- Conflicts over this device's address (R329). -/
def addrConflict (s : State) : State :=
  let a := s.myAddr
  if a = 0 || !s.reachable.any (fun l => l.addr = a && l.uid < s.uid) then s else
  let s := s.updFab (fun f => { f with req := true, conflict := true, want := 0 })
  ((s.setAddr 0).irq 0x78 4).originateLsa
/-- The root's answers to the requests of its database. -/
def addrGrants (s : State) : State :=
  if s.fab.rt.root ≠ s.uid then s else
  (s.reachable.filter (fun l => l.flags % 2 = 1 || (l.uid = s.uid && s.myAddr = 0))).foldl (fun s l => s.grantTo l) s
/-- A request for an address (R329). -/
def addrRequest (s : State) (w : Word) : State :=
  let want := bitsOf w 0 16
  if !bitAt w 31 then s
  else if 0xFFF < want then s.blkErr 0x78 0x40 true 0x028
  else
    let s := s.updFab (fun f => { f with req := true, conflict := false, want := want })
    ((s.setAddr 0).originateLsa).addrGrants
/-- The address record at start-up (R327). -/
def fabStart (s : State) : State :=
  let ok := beNat (s.storeBytes 0x1000 4) = 0x4F564641
  let a := leNat (s.storeBytes 0x1004 2)
  let ok := ok && 1 ≤ a && a ≤ 0xFFF
  let s := s.set fFabCfgPrio (if ok then (s.storeByte 0x1006).toNat else 128)
  let s := s.updFab (fun f => { f with req := !ok, rt := { f.rt with root := s.uid } })
  let s := (s.set fFabAddrAddr (if ok then a else 0)).fabAddrFaces
  (s.setPair rFabRootLo rFabRootHi s.uid).originateLsa

/-! ### LSA, acknowledgement and GRANT reception (R324, R328) -/

def ackTo (s : State) (p uid seq : Nat) : State := s.linkSend p 2 (beBytes 8 uid ++ beBytes 4 seq)
def rxLsa (s : State) (p : Nat) (f : List Byte) : State :=
  if !s.isUp p then s else
  match lsaOf (frBody f) with
  | none => s.discard p f true
  | some l =>
    let s := ((s.bumpWrap (fFportRxCount p)).takeReport p f).ackTo p l.uid l.seq
    if l.uid = s.uid then
      if s.fab.seq ≤ l.seq then (s.updFab (fun x => { x with seq := l.seq })).originateLsa else s
    else
      match lsaFind s.fab.db l.uid with
      | some o =>
        if o.seq < l.seq then
          let s := s.dbPut { l with time := s.now }
          let same := decide ({ o with seq := 0, time := 0 } = { l with seq := 0, time := 0 })
          let s := if same then s else s.dbChanged
          (((s.floodAll (some p) 1 l.uid l.seq (frBody f)).noteClaims).addrConflict).addrGrants
        else s
      | none =>
        if 4096 ≤ (s.fab.db.filter (fun x => x.uid ≠ s.uid)).length then (s.setB fFabAddrFull true).irq 0x78 5
        else
          let s := (s.dbPut { l with time := s.now }).dbChanged
          (((s.floodAll (some p) 1 l.uid l.seq (frBody f)).noteClaims).addrConflict).addrGrants
def rxAck (s : State) (p : Nat) (f : List Byte) : State :=
  if !s.isUp p then s else
  let u := be (frBody f) 0 8
  let q := be (frBody f) 8 4
  ((s.bumpWrap (fFportRxCount p)).takeReport p f).modPort p (fun x => { x with
    unack := x.unack.filter (fun k => !(k.uid = u && k.seq = q)) })
/-- Unacknowledged floods of a port are sent again 20 ms after they were sent. -/
def retransmit (s : State) (p : Nat) : State :=
  match ((s.port_ p).unack.map (fun u => u.sent)).min? with
  | none => s
  | some t =>
    let s := s.at_ (t + 20000)
    let (due, rest) := (s.port_ p).unack.partition (fun u => u.sent + 20000 ≤ s.now)
    let s := s.modPort p (fun q => { q with unack := rest ++ due.map (fun u => { u with sent := s.now }) })
    due.foldl (fun s u => s.linkSend p u.kind u.payload) s
/-- Every 30 s the device originates its LSA again (R323). -/
def lsaRefresh (s : State) : State := (s.at_ (s.fab.refresh + 30000000)).originateLsa
/-- An LSA not refreshed for 120 s is removed (R324). -/
def lsaExpire (s : State) (uid : Nat) : State :=
  match lsaFind s.fab.db uid with
  | none => s
  | some l =>
    if uid = s.uid then s else
    let s := s.at_ (l.time + 120000000)
    (s.updFab (fun f => { f with db := f.db.filter (fun x => x.uid ≠ uid) })).dbChanged
def rxGrant (s : State) (p : Nat) (f : List Byte) : State :=
  if !s.isUp p then s else
  let b := frBody f
  let root := be b 16 8
  let g := be b 12 4
  let s := ((s.bumpWrap (fFportRxCount p)).takeReport p f).ackTo p root g
  if s.fab.seen.contains (root, g) then s else
  let s := s.updFab (fun x => { x with seen := x.seen ++ [(root, g)] })
  let s := s.floodAll (some p) 6 root g b
  if be b 0 8 = s.uid then s.takeGrant (be b 8 2) g root else s

/-! ### Reconvergence (R333) -/

/-- 20 ms after the last change the new tables are computed. -/
def reconvWait (s : State) : State :=
  match s.fab.change with
  | none => s
  | some (_, t) =>
    let s := s.at_ (t + 20000)
    s.updFab (fun f => { f with next := some (s.now, computeRoutes f.db s.uid) })
def level5 (n : Nat) : Nat := min 31 n
/-- RT_ENT of an address or a group. -/
def groupHas (g : Nat) (l : List Nat) : Bool := g = 0xFFFF || l.contains g
def groupTree (s : State) (g : Nat) : List (Nat × Nat × Nat) :=
  s.fab.rt.tree.filter (fun t => s.fab.rt.grps.any (fun q => q.1 = t.1 && groupHas g q.2))
def groupPorts (s : State) (g : Nat) : List Nat := ((s.groupTree g).map (fun t => t.2.1)).eraseDups
def groupHops (s : State) (g : Nat) : Nat := ((s.groupTree g).map (fun t => t.2.2)).foldl max 0
def joined (s : State) (g : Nat) : Bool := g = 0xFFFF || s.myGroups.contains g
def routeOf (s : State) (a : Nat) : Option (Nat × Nat) := Map.look (fun _ => none) s.fab.rt.routes a
def routeView (s : State) (a : Nat) : State :=
  let s := s.setWord rFabRtEnt 0
  if 0xF000 ≤ a then
    let ps := s.groupPorts a
    let s := s.setB fFabRtEntValid (!ps.isEmpty || s.joined a)
    let s := s.setB fFabRtEntLocal (s.joined a)
    (s.set fFabRtEntPorts (ps.foldl (fun m p => m + 2 ^ p) 0)).set fFabRtEntHops (level5 (s.groupHops a))
  else if a ≠ 0 && a = s.myAddr then (s.setB fFabRtEntValid true).setB fFabRtEntLocal true
  else match s.routeOf a with
    | some (p, h) => ((s.setB fFabRtEntValid true).set fFabRtEntPorts (2 ^ p)).set fFabRtEntHops (level5 h)
    | none => s
/-- The new table replaces the old one in one step. -/
def replaceTable (s : State) : State :=
  match s.fab.next, s.fab.change with
  | some (_, r), some (first, _) =>
    let old := s.fab.rt
    let s := s.updFab (fun f => { f with rt := r, next := none, change := none })
    let s := s.set fFabReconvLast (min 65535 ((s.now - first) / 1000))
    let s := (s.bumpWrap fFabReconvCount).irq 0x78 2
    let s := if old.root ≠ r.root then s.irq 0x78 1 else s
    let s := s.setB fFabStatRoot (r.root = s.uid)
    let s := (s.set fFabStatLevel (level5 r.level)).set fFabStatDepth (level5 r.depth)
    let s := (s.set fFabStatDevices r.devs).setPair rFabRootLo rFabRootHi r.root
    let s := match r.parent with
      | some (_, p, a) => ((s.setB fFabParentValid true).set fFabParentPort p).set fFabParentAddr a
      | none => s.setWord rFabParent 0
    ((s.fsyncRoot).addrConflict).addrGrants
  | _, _ => s

/-! ### Fabric time (R334–R337) -/

def pdelayReq (s : State) (p : Nat) : State :=
  if !s.isUp p then s else
  let t := ((s.port_ p).pdTid + 1) % 4096
  let s := s.modPort p (fun q => { q with pdTid := t })
  if s.lev.ready then (s.originate { port := p, vc := 5, kind := 3, tid := t, dst := 0, payload := List.replicate 8 0#8 }).2
  else s
def rxPdelayReq (s : State) (p : Nat) (f : List Byte) : State :=
  if !s.isUp p then s else
  let (t2, s) := (s.bumpWrap (fFportRxCount p)).stampNs
  if s.lev.ready then
    (s.originate { port := p, vc := 5, kind := 4, tid := frTid f, dst := 0, payload := beBytes 8 t2 ++ beBytes 8 0 }).2
  else s
/-- Mean of the last 8 with the largest and the smallest left out. -/
def delayMean (l : List Nat) : Nat := ((l.foldl (· + ·) 0) - l.foldl max 0 - (l.min?).getD 0) / 6
def rxPdelayResp (s : State) (p : Nat) (f : List Byte) : State :=
  if !s.isUp p then s else
  match (s.port_ p).t1 with
  | none => s
  | some (t, t1) =>
    if t ≠ frTid f then s else
    let (t4, s) := (s.bumpWrap (fFportRxCount p)).stampNs
    let b := frBody f
    let d := ((t4 - t1) - (be b 8 8 - be b 0 8)) / 2
    let s := s.modPort p (fun q => { q with t1 := none, delays := (q.delays ++ [d]).drop ((q.delays.length + 1) - 8) })
    let l := (s.port_ p).delays
    if l.length = 8 then s.set (fFportDelayNs p) (min (2 ^ 32 - 1) (delayMean l)) else s
/-- The root sends SYNC on its child ports at each 125 ms of fabric time (R336). -/
def syncSend (s : State) : State :=
  if s.fab.rt.root ≠ s.uid then s else
  let s := s.at_ (ceilDiv s.now 125000 * 125000)
  s.fab.rt.kids.foldl (fun s p =>
    if s.isUp p then
      s.linkSend p 5 (beBytes 8 (s.now * 1000) ++ beBytes 8 0 ++ [0#8] ++ beBytes 1 s.calSetFlag ++ List.replicate 6 0#8)
    else s) s
/-- Four offsets that agree within 2 µs. -/
def offsAgree (l : List Int) : Bool :=
  l.length = 4 && l.all (fun a => l.all (fun b => decide (a - b ≤ 2000)))
/-- A SYNC goes on to the children with the delay of its link; the time in the device is added as it leaves (R336). -/
def syncForward (s : State) (b : List Byte) (delay t : Nat) : State :=
  s.fab.rt.kids.foldl (fun s c =>
    if !s.isUp c then s else
    let pl := beBytes 8 (be b 0 8) ++ beBytes 8 (be b 8 8 + delay) ++ beBytes 1 (byteAt b 16 + 1)
      ++ beBytes 1 (byteAt b 17) ++ List.replicate 6 0#8
    let s := s.linkSend c 5 pl
    s.modPort c (fun q => { q with
      linkQ := q.linkQ.map (fun (x : OutFrame) =>
      if frKind x.bytes = 5 && x.stamp = 0 then { x with stamp := t } else x) })) s
/-- Lock to fabric time, and the step of the timebase as it is taken or lost, by the offset of a SYNC (R337). -/
def syncLock (s : State) (p : Nat) (ofs : Int) : State :=
  let known := (s.port_ p).delays.length = 8
  if s.bit fLathStatFsync then
    if ofs < -100000 || 100000 < ofs then (s.setFsync false).updFab (fun x => { x with offs := [] }) else s
  else if known && offsAgree s.fab.offs then
    let s := s.setFsync true
    if ofs < -1000000 || 1000000 < ofs then
      (s.stepTimebase (-(ofs / 1000))).updFab (fun x => { x with offs := [], syncAt := some (s.now - (ofs / 1000)).toNat })
    else s
  else s
/-- The mark of a set calendar follows the SYNC while the device is locked (R254). -/
def syncCal (s : State) (b : List Byte) : State :=
  if s.bit fLathStatFsync then
    let set := bitNat (byteAt b 17) 0
    let was := s.bit fCalStatSet
    let s := s.setB fCalStatSet set
    if set && !was then { (s.irq 0x68 0) with eng := { s.eng with sch := { s.eng.sch with force := true, minute := none } } }
    else s
  else s
/-- A SYNC arrives (R336, R337). -/
def rxSync (s : State) (p : Nat) (f : List Byte) : State :=
  if !s.isUp p then s else
  let s := (s.bumpWrap (fFportRxCount p)).takeReport p f
  match s.fab.rt.parent with
  | none => s
  | some (_, pp, _) =>
    if pp ≠ p then s else
    let (t, s) := s.stampNs
    let b := frBody f
    let delay := s.get (fFportDelayNs p)
    let ftime : Int := (be b 0 8 : Nat) + (be b 8 8 : Nat) + (delay : Nat)
    let ofs : Int := (t : Nat) - ftime
    let s := s.seti fFabTimeOfsOfs (sat32 ofs)
    let s := s.updFab (fun x => { x with offs := (x.offs ++ [ofs]).drop ((x.offs.length + 1) - 4), syncAt := some s.now })
    ((s.syncForward b delay t).syncLock p ofs).syncCal b
/-- 1 s without an accepted SYNC ends lock (R337). -/
def syncLost (s : State) : State :=
  match s.fab.syncAt with
  | none => s
  | some t =>
    if s.fab.rt.root = s.uid then s else
    let s := s.at_ (t + 1000000)
    (s.setFsync false).updFab (fun x => { x with offs := [], syncAt := none })

/-! ### The transmit side (R341–R346) -/

/-- Wire time in 0.1 µs (R342). -/
def wireOf (f : List Byte) : Nat := 8 * (max 64 (f.length + 18) + 20)
/-- A new fabric cycle: the B allowance grows, and a report is queued where a free count has risen (R343, R345). -/
def cycleStart (s : State) : State :=
  let s := s.at_ (ceilDiv s.now 1000 * 1000)
  (List.range 4).foldl (fun s p =>
    let s := s.modPort p (fun q => { q with bAllow := min 5000 (q.bAllow + 500) })
    let q := s.port_ p
    let rose := ((s.freeAll p).zip q.told).any (fun x => decide (x.2 < x.1))
    if s.isUp p && rose && !q.linkQ.any (fun x => frKind x.bytes ≠ 3 && frKind x.bytes ≠ 4) then s.sendHello p else s) s

/-- PDIR.LOAD_p after a frame of `w` is sent (R362). -/
def noteLoad (s : State) (p : Nat) (isB : Bool) (w : Nat) : State :=
  let l := (s.port_ p).load.filter (fun x => s.now < x.1 + 1000000) ++ [(s.now, isB, w)]
  let pct (b : Bool) : Nat := (l.foldl (fun t x => if x.2.1 = b then t + x.2.2 else t) 0) / 100000
  let s := s.modPort p (fun q => { q with load := l })
  let e := min 255 (pct false)
  let was := s.get (fPdirLoadE p)
  let s := (s.set (fPdirLoadE p) e).set (fPdirLoadB p) (min 255 (pct true))
  let s := s.set (fPdirLoadEPeak p) (max e (s.get (fPdirLoadEPeak p)))
  if was ≤ 30 && 30 < e then s.irq 0x7D 15 else s

/-- A frame of a port begins: its report, its stamps, its credit and its load. -/
def beginFrame (s : State) (p : Nat) (x : OutFrame) : State :=
  let w := wireOf x.bytes
  let t0 := max (10 * s.now) (s.port_ p).till
  let k := frKind x.bytes
  let (ns, s) := s.stampNs
  let s := (s.bumpWrap (fFportTxCount p)).modPort p (fun q => { q with till := t0 + w })
  if x.vc = 5 then
    let s := if k = 3 then s.modPort p (fun q => { q with t1 := some (frTid x.bytes, ns) })
      else if k = 4 then s else s.modPort p (fun q => { q with told := s.freeAll p })
    s
  else
    let s := s.modPort p (fun q => { q with
      allow := q.allow.zipIdx.map (fun a => if a.2 + 1 = x.vc then a.1 - 1 else a.1)
      begun := q.begun ++ [(x.vc, s.now)] })
    s.noteLoad p (3 ≤ x.vc) w
/-- The next frame of R343 for a port at an instant, with the queues without it; `viaB` tells that item 2 chose it. -/
def nextFrame (s : State) (p : Nat) (fits : OutFrame → Bool) : Option (OutFrame × Bool × PortSt) :=
  let q := s.port_ p
  let credit (x : OutFrame) : Bool := 0 < q.allow.getD (x.vc - 1) 0
  let head (vc : Nat) : Option OutFrame := q.q.find? (fun x => x.vc = vc)
  let ok (o : Option OutFrame) : Option OutFrame := o.filter (fun x => fits x && credit x)
  let drop (x : OutFrame) : PortSt := { q with q := q.q.erase x }
  match q.linkQ.head?.filter (fun x => fits x) with
  | some x => some (x, false, { q with linkQ := q.linkQ.drop 1 })
  | none =>
    let b := (ok (head 4)).orElse (fun _ => ok (head 3))
    match b.filter (fun x => wireOf x.bytes ≤ q.bAllow) with
    | some x => some (x, true, drop x)
    | none =>
      match [2, 1, 4, 3].findSome? (fun vc => ok (head vc)) with
      | some x => some (x, false, drop x)
      | none => none
/-- The port is free in the E/B part of a cycle and starts its next frame. -/
def frameStart (s : State) (p : Nat) : State :=
  if s.pstate p ≠ 3 && s.pstate p ≠ 2 then s else
  let s := s.at_ (ceilDiv (s.port_ p).till 10)
  let s := if s.now % 1000 < 500 then s.at_ (s.now / 1000 * 1000 + 500) else s
  let endC := (s.now / 1000 + 1) * 10000
  match s.nextFrame p (fun x => 10 * s.now + wireOf x.bytes ≤ endC) with
  | none => s
  | some (x, viaB, q) =>
    let s := s.setPort p (if viaB then { q with bAllow := q.bAllow - wireOf x.bytes } else q)
    s.beginFrame p x

end State
end Sys2Proof.Machine
end

