-- ==== Sys2Proof/Machine/Nstore.lean ====
section
/-! DEFINITION. NSTORE (R301–R314): loading an image slot, its record, trend capture and programming, and queries. The
activation itself stands in Machine/Activate.lean. -/
set_option Elab.async false
namespace Sys2Proof.Machine
namespace State

def slot (s : State) (i : Nat) : Slot := if i = 0 then s.nst.slotA else s.nst.slotB
def setSlot (s : State) (i : Nat) (x : Slot) : State :=
  let act := s.get fNstoreStatActive
  if i = 0 then
    let s := { s with nst := { s.nst with slotA := x } }
    let s := (s.setB fNstoreSlotAValid x.valid).set fNstoreSlotAAseq x.aseq
    (s.setB fNstoreSlotAActive (act = 0)).set fNstoreGenAValue x.gen
  else
    let s := { s with nst := { s.nst with slotB := x } }
    let s := (s.setB fNstoreSlotBValid x.valid).set fNstoreSlotBAseq x.aseq
    (s.setB fNstoreSlotBActive (act = 1)).set fNstoreGenBValue x.gen
/-- The slot a load fills: the one that is not active; A when neither is (R304, log entry 24). -/
def loadSlot (s : State) : Nat := if s.get fNstoreStatActive = 0 then 1 else 0
def setActive (s : State) (i : Nat) : State :=
  let s := s.set fNstoreStatActive i
  (s.setB fNstoreSlotAActive (i = 0)).setB fNstoreSlotBActive (i = 1)

/-! ### Image layout (R302) -/

def imgU16 (b : List Byte) (o : Nat) : Nat := leNat ((b.drop o).take 2)
def imgU32 (b : List Byte) (o : Nat) : Nat := leNat ((b.drop o).take 4)
/-- MAGIC "OVCF" and FORMAT. -/
def imgMagicOk (b : List Byte) : Bool := b.take 4 = [0x4F#8, 0x56#8, 0x43#8, 0x46#8] && imgU16 b 4 = 1
def imgLength (b : List Byte) : Nat := imgU32 b 8
def imgLengthOk (b : List Byte) : Bool := imgLength b % 4 = 0 && 32 ≤ imgLength b && imgLength b ≤ 4194304
/-- The CRC of the whole image with bytes 12–15 taken as 0. -/
def imgCrc (b : List Byte) : Nat := crc32 (b.take 12 ++ [0#8, 0#8, 0#8, 0#8] ++ (b.take (imgLength b)).drop 16)
def imgCrcOk (b : List Byte) : Bool := imgCrc b = imgU32 b 12
def imgGen (b : List Byte) : Nat := imgU32 b 16
/-- The write blocks: address and data words; `none` when they do not end exactly at LENGTH (R306 cause 0x6). -/
def parseBlocks : Nat → List Word → Option (List (Nat × List Word))
  | 0, [] => some []
  | 0, _ :: _ => none
  | n + 1, a :: c :: t =>
    let cnt := c.toNat
    if cnt < 1 || 16384 < cnt || t.length < cnt then none
    else (parseBlocks n (t.drop cnt)).map (fun l => (a.toNat, t.take cnt) :: l)
  | _ + 1, _ => none
def imgBlocks (b : List Byte) : Option (List (Nat × List Word)) :=
  parseBlocks (imgU32 b 20) (bytesWords ((b.take (imgLength b)).drop 32))

/-! ### Loading (R304, R305) -/

def imageOpen (s : State) : State :=
  if s.nst.loading || s.lath.act.isSome then s.blkErr 0x72 0x40 true 0x34 else
  let s := s.setSlot s.loadSlot {}
  let s := { s with nst := { s.nst with loading := true, erasing := true, checking := false, buf := [] } }
  (s.setB fNstoreStatLoading true).set fNstoreImgFillValue 0
def slotErased (s : State) : State :=
  if s.nst.erasing then { s with nst := { s.nst with erasing := false } } else s
/-- Whether a push of `n` words is taken (R304, R65). -/
def imageCanPush (s : State) (n : Nat) : Bool :=
  s.nst.loading && !s.nst.erasing && !s.nst.checking && s.nst.buf.length + 4 * n ≤ 4194304
def imagePush (s : State) (ws : List Word) : State :=
  let b := s.nst.buf ++ wordsBytes ws
  ({ s with nst := { s.nst with buf := b } }).set fNstoreImgFillValue b.length
def imageClose (s : State) : State :=
  if s.nst.loading && !s.nst.erasing then { s with nst := { s.nst with checking := true } } else s
def actRes (s : State) (cause slot item : Nat) : State :=
  ((s.set fNstoreActResCause cause).set fNstoreActResSlot slot).set fNstoreActResItem item
/-- The checks of step 3 and the slot record (R304, R305). -/
def imageChecked (s : State) : State :=
  if !s.nst.checking then s else
  let b := s.nst.buf
  let i := s.loadSlot
  let s := { s with nst := { s.nst with loading := false, checking := false, buf := [] } }
  let s := s.setB fNstoreStatLoading false
  if !imgMagicOk b then s.actRes 4 i 0
  else if !imgLengthOk b || imgLength b ≠ b.length then s.actRes 6 i 0
  else if !imgCrcOk b then s.actRes 7 i 0
  else (s.setSlot i { img := b, valid := true, aseq := 0, gen := imgGen b }).irq 0x72 0
def imageAbort (s : State) : State :=
  if !s.nst.loading then s else
  let s := { s with nst := { s.nst with loading := false, erasing := false, checking := false, buf := [] } }
  s.setB fNstoreStatLoading false

/-! ### Trend (R311–R313) -/

def trendFaces (s : State) : State :=
  let n := (s.nst.segs.map (fun g => g.recs.length)).foldl (· + ·) 0
  let old := ((s.nst.segs.findSome? (fun g => g.recs.head?)).map (fun r => r.time)).getD 0
  (s.setPair rNstoreTrdRecLo rNstoreTrdRecHi n).setPair rNstoreTrdOldLo rNstoreTrdOldHi old

/-- The first applicable reason for recording point `i` now, if any (R311). -/
def trendReason (s : State) (i : Nat) : Option Nat :=
  let v := s.visVal i
  let c := bitsOf (entW s.dir.run i 0) 19 4
  let cal := s.calSec
  match Map.look (fun _ => none) s.nst.last i with
  | none => some 3
  | some (lv, lst, lt) =>
    let cov := s.geti (fNstoreTrdCovValue c)
    let diff := if v.v < lv then lv - v.v else v.v - lv
    let int := s.get (fNstoreTrdClsInterval c) * 60
    if v.st.code ≠ lst then some 2
    else if cov ≠ 0 && cov ≤ diff && lt + s.get (fNstoreTrdClsMinInt c) ≤ cal then some 1
    else if int ≠ 0 && lt / int < cal / int then some 0
    else none

/-- Capture at a lath edge, from the values committed there. -/
def trendCapture (s : State) : State :=
  let trended := (entries s.dir.run).filter (fun i => bitAt (entW s.dir.run i 0) 23)
  let s := { s with nst := { s.nst with last := s.nst.last.filter (fun p => trended.contains p.1) } }
  if !s.bit fCalStatSet || !s.bit fNstoreCfgTrdEn then s else
  trended.foldl (fun s i =>
    match s.trendReason i with
    | none => s
    | some r =>
      if 2048 ≤ s.nst.pendRecs.length then s.bump fNstoreTrdDropValue else
      let v := s.visVal i
      let t : Trend := { time := s.calSec, point := i, st := v.st.code, reason := r, unit := entUnit s.dir.run i, v := v.v }
      { s with
        nst := { s.nst with
        pendRecs := s.nst.pendRecs ++ [t]
        last := Map.put (fun _ => none) s.nst.last i (some (v.v, v.st.code, s.calSec)) } }) s

/-- Start a segment, erasing the oldest when every segment is in use (R312). -/
def trendOpen (s : State) : State :=
  let base := ((s.nst.pendRecs.head?).map (fun r => r.time)).getD s.calSec
  let g : Segment := { base := base, num := s.nst.segNum }
  let wrap := 59000 ≤ s.nst.segs.length
  let gone := if wrap then (s.nst.segs.head?.map (fun g => g.recs.length)).getD 0 else 0
  let kept := if wrap then s.nst.segs.drop 1 else s.nst.segs
  let s := { s with
    nst := { s.nst with
    segs := kept ++ [g], segNum := s.nst.segNum + 1, segNew := false, erasedRecs := s.nst.erasedRecs + gone } }
  if wrap then s.irq 0x72 4 else s

/-- Records that complete within the unit being filled: units are 4 KiB of a segment with a 32-byte header. -/
def unitRoom (have_ : Nat) : Nat := min ((((32 + 12 * have_) / 4096 + 1) * 4096 - 32) / 12 - have_) (10920 - have_)

/-- A unit finishes programming; `all` programs the partly filled unit of PFW (R312). `good` says it reads back. -/
def trendProgram (s : State) (good all : Bool) : State :=
  if s.nst.pendRecs.isEmpty then s else
  let full := match s.nst.segs.getLast? with | some g => 10920 ≤ g.recs.length | none => true
  let s := if full || s.nst.segNew then s.trendOpen else s
  match s.nst.segs.getLast? with
  | none => s
  | some g =>
    let room := unitRoom g.recs.length
    if s.nst.pendRecs.length < room && !all then s else
    let g' := { g with recs := g.recs ++ s.nst.pendRecs.take room, good := g.good && good }
    let s := { s with nst := { s.nst with segs := s.nst.segs.dropLast ++ [g'], pendRecs := s.nst.pendRecs.drop room } }
    let s := if good then s else (s.bump fNstoreEccUncorr).irq 0x72 5
    let s := if good then s else s.raise 0xD002 0 .minor
    s.trendFaces

/-! ### Queries (R314) -/

/-- Bytes of a trend record, times relative to FROM, little-endian (R312, R314). -/
def trendBytes (frm : Nat) (r : Trend) : List Byte :=
  leBytes 4 (r.time - frm) ++ leBytes 2 r.point ++ leBytes 2 (r.st * 4096 + r.reason * 1024 + r.unit)
    ++ leBytes 4 (unsignedOf 32 r.v)
/-- The same, big-endian field by field, for the fabric (R312). -/
def trendBytesBe (frm : Nat) (r : Trend) : List Byte :=
  beBytes 4 (r.time - frm) ++ beBytes 2 r.point ++ beBytes 2 (r.st * 4096 + r.reason * 1024 + r.unit)
    ++ beBytes 4 (unsignedOf 32 r.v)
/-- The 28 bytes of an audit record before its CRC, field by field with `f` giving the byte order. -/
def auditBody (f : Nat → Nat → List Byte) (r : Audit) : List Byte :=
  f 8 r.time ++ f 1 r.kind ++ f 1 r.sess ++ f 2 r.code ++ f 2 r.src ++ f 6 r.ctr ++ f 4 r.detail ++ f 4 r.seq
def auditBytes (r : Audit) : List Byte := auditBody leBytes r ++ leBytes 4 (crc32 (auditBody leBytes r))
def auditBytesBe (r : Audit) : List Byte := auditBody beBytes r ++ beBytes 4 (crc32 (auditBody leBytes r))

/-- The records a query matches, in ascending time, equal times in capture order. -/
def trendMatches (s : State) (q : Query) : List Trend :=
  let l := (s.nst.segs.filter (fun g => g.good)).flatMap (fun g => g.recs)
  let l := l.filter (fun r => q.points.contains r.point && q.frm ≤ r.time && r.time < q.upto)
  l.mergeSort (fun a b => a.time ≤ b.time)
def auditMatches (s : State) (q : Query) : List Audit :=
  s.nst.aud.filter (fun r => q.frm ≤ r.time / 1000000 && r.time / 1000000 < q.upto)

/-- The next chunk of a query as bytes (records), their number, whether it is the last, and the query after it; at most `capT` trend
or `capA` audit records. -/
def queryChunk (s : State) (q : Query) (be : Bool) (capT capA : Nat) : List Byte × Nat × Bool × Query :=
  if q.audit then
    let l := (s.auditMatches q).drop q.sent
    let c := l.take capA
    let d := l.length ≤ capA
    (c.flatMap (if be then auditBytesBe else auditBytes), c.length, d,
      { q with sent := q.sent + c.length, owed := false, done := d, chunk := q.chunk + 1 })
  else
    let l := (s.trendMatches q).drop q.sent
    let c := l.take capT
    let d := l.length ≤ capT
    (c.flatMap (if be then trendBytesBe q.frm else trendBytes q.frm), c.length, d,
      { q with sent := q.sent + c.length, owed := false, done := d, chunk := q.chunk + 1 })

/-- A pushed query (R314): `none` when it is not one. -/
def parseQuery (ws : List Word) : Option Query :=
  match ws with
  | w0 :: f0 :: f1 :: t0 :: t1 :: pts =>
    let n := bitsOf w0 0 5
    let aud := bitAt w0 8
    let l := pts.flatMap (fun w => [bitsOf w 0 16, bitsOf w 16 16])
    if !aud && (n < 1 || 16 < n || l.length < n) then none
    else some { audit := aud, points := if aud then [] else l.take n,
                frm := f0.toNat + 2 ^ 32 * f1.toNat, upto := t0.toNat + 2 ^ 32 * t1.toNat }
  | _ => none

/-- A query of the host's mailbox opens; a malformed one is BAD_QUERY. -/
def queryOpen (s : State) (ws : List Word) : State :=
  match parseQuery ws with
  | none => s.blkErr 0x72 0x41 true 0x6C
  | some q =>
    let s := { s with nst := { s.nst with query := some { q with erased := s.nst.erasedRecs } } }
    let s := (s.set fNstoreQryStatDone 0).set fNstoreQryStatGap 0
    (s.set fNstoreQryStatCount 0).setB fNstoreQryStatBusy true

/-- The words of NSTORE.REPLY: a chunk of a query, then zeros (R318). -/
def replyWords (s : State) (ws : List Word) : State :=
  (List.range 510).foldl (fun s i => s.setWord (rNstoreReply i) (ws.getD i 0)) s

/-- The host's next chunk is posted in REPLY (R314). -/
def hostChunk (s : State) : State :=
  match s.nst.query with
  | none => s
  | some q =>
    if !q.owed then s else
    let (bs, n, d, q') := s.queryChunk q false 170 63
    let gap := s.nst.erasedRecs ≠ q.erased
    let ws := bytesWords bs
    let s := s.replyWords ws
    let s := (s.setB fNstoreQryStatDone d).setB fNstoreQryStatGap (gap || s.bit fNstoreQryStatGap)
    let s := (s.set fNstoreQryStatCount n).setB fNstoreQryStatBusy false
    ({ s with nst := { s.nst with query := if d then none else some q' } }).irq 0x72 3

def queryNext (s : State) : State :=
  match s.nst.query with
  | some q => ({ s with nst := { s.nst with query := some { q with owed := true } } }).setB fNstoreQryStatBusy true
  | none => s
def queryCancel (s : State) : State :=
  ({ s with nst := { s.nst with query := none } }).setB fNstoreQryStatBusy false

end State
end Sys2Proof.Machine
end

