-- ==== Sys2Proof/Machine/Delivery.lean ====
section
/-! DEFINITION. Delivery over the fabric (R341–R365), the fabric's access to points (R373–R381), alarms over it (R419) and
peer queries (R362): transactions, reception and forwarding, streams, publications. COMMAND frames are in LeveeCmd.lean. -/
set_option Elab.async false
namespace Sys2Proof.Machine

/-- What the levee's checks make of a received frame (R391, R393). -/
inductive Checked where
  | go
  | refused (r : LevRefusal)
  /-- It waits until the floor is committed, or is discarded because the store refused the run. -/
  | wait
deriving DecidableEq, Repr

/-- A bit of reservation arithmetic: two hops of one port and slot collide (R356). -/
def collides (a : Resv) (off n : Nat) : Bool := a.off % Nat.gcd a.n n = off % Nat.gcd a.n n
/-- The lowest slot of `slots` on a port that collides with no reservation held there. -/
def lowestSlot (held : List Resv) (port off n slots : Nat) : Option Nat :=
  (List.range slots).find? (fun k => !held.any (fun r => r.port = port && r.slot = k && collides r off n))
/-- The first-hop plan of a stream: its phase among 0, L, … and a slot on each of its ports (R353, R356). A stream with no
route is charged against port 4, which stands for the device's 16 first-hop slots. -/
def planStream (held : List Resv) (ports : List Nat) (stream l r dest : Nat) : Option (Nat × List Resv) :=
  let n := r * l
  let one (e0 p slots : Nat) : Option Resv :=
    (lowestSlot held p (e0 + 1) n slots).map (fun k =>
      { port := p, slot := k, off := (e0 + 1) % n, n := n, src := 0, stream := stream, own := true, dest := dest : Resv })
  let plan (e0 : Nat) : Option (Nat × List Resv) :=
    let l := if ports.isEmpty then [one e0 4 16] else ports.map (fun p => one e0 p 4)
    if l.all (fun x => x.isSome) then some (e0, l.filterMap id) else none
  (List.range r).findSome? (fun k => plan (k * l))

namespace State

def updDlv (s : State) (f : DlvSt → DlvSt) : State := { s with dlv := f s.dlv }

/-! ### Transactions (R346–R351) -/

def quarUs (s : State) : Nat := 1000000 * s.get fPdirDlvCfgIdQuar
def tidFree (s : State) (t : Nat) : Bool :=
  !s.dlv.opens.any (fun x => x.tid = t)
    && (match Map.look (fun _ => none) s.dlv.freed t with | some f => decide (f + s.quarUs ≤ s.now) | none => true)
def openFaces (s : State) : State := s.set fPdirTidOpen s.dlv.opens.length
def isGroup (a : Nat) : Bool := 0xF000 ≤ a
def dstPorts (s : State) (a : Nat) : List Nat :=
  if isGroup a then s.groupPorts a else ((s.routeOf a).map Prod.fst).toList
def dstHops (s : State) (a : Nat) : Nat := if isGroup a then s.groupHops a else ((s.routeOf a).map Prod.snd).getD 0
/-- Originate a frame toward an address or group; one with no route, or before an address is held, is not sent. -/
def sendTo (s : State) (vc kind tid dst sess stream : Nat) (retry : Bool) (payload : List Byte) (old : Bool) : State :=
  match s.dstPorts dst with
  | [] => s
  | p :: ps =>
    if s.myAddr = 0 then s else
    let flags := (if sess ≠ 0 then 0x8000 else 0) + (if isGroup dst then 0x4000 else 0) + (if retry then 0x2000 else 0)
    (s.originate { port := p, more := ps, vc := vc, kind := kind, tid := tid, dst := dst, flags := flags, sess := sess - 1,
                   stream := stream, payload := payload, old := old }).2
def sendAttempt (s : State) (x : Xfer) : State :=
  s.sendTo x.vc x.kind x.tid x.dst x.sess 0 (decide (0 < x.attempt)) x.payload false
/-- Open a transaction under an ID and send its first attempt. -/
def startXfer (s : State) (t : Nat) (r : XReq) : State :=
  let x : Xfer := { tid := t, vc := r.vc, kind := r.kind, dst := r.dst, payload := r.payload, sent := s.now,
                    h := s.dstHops r.dst, sess := r.sess }
  ((s.updDlv (fun d => { d with opens := d.opens ++ [x] })).sendAttempt x).openFaces
def nextTid (s : State) : Option Nat :=
  if 256 ≤ s.dlv.opens.length then none else (List.range 4096).find? (fun t => s.tidFree t)
/-- A request: sent under the lowest free ID, or waiting for one (R349). -/
def request (s : State) (r : XReq) : State :=
  match s.dlv.waits, s.nextTid with
  | [], some t => s.startXfer t r
  | _, _ => (s.updDlv (fun d => { d with waits := d.waits ++ [r] })).bump fPdirTidWaits
/-- Waiting requests take the IDs that are free. -/
def sendWaiting (s : State) : State :=
  s.dlv.waits.foldl (fun s r =>
    match s.nextTid with
    | some t => (s.updDlv (fun d => { d with waits := d.waits.drop 1 })).startXfer t r
    | none => s) s
/-- A transaction ends; its ID goes into quarantine. -/
def endXfer (s : State) (t : Nat) : State :=
  let s := s.updDlv (fun d => { d with
    opens := d.opens.filter (fun x => x.tid ≠ t), freed := Map.put (fun _ => none) d.freed t (some s.now) })
  s.openFaces.sendWaiting
/-- The quarantine of an ID ends. -/
def tidQuarantineEnd (s : State) (t : Nat) : State :=
  match Map.look (fun _ => none) s.dlv.freed t with
  | none => s
  | some f =>
    let s := s.at_ (f + s.quarUs)
    (s.updDlv (fun d => { d with freed := Map.put (fun _ => none) d.freed t none })).sendWaiting

/-! ### Alarms (R419) -/

/-- Waiting alarms are sent while fewer than eight ALARM transactions are open. -/
def pumpAlarms (s : State) : State :=
  if !s.bit fFaultAlmCfgEn || s.myAddr = 0 then s else
  s.flt.alarms.foldl (fun s p =>
    let used := (s.dlv.opens.filter (fun x => x.kind = 9)).length + (s.dlv.waits.filter (fun x => x.kind = 9)).length
    if 8 ≤ used then s else
    let s := { s with flt := { s.flt with alarms := s.flt.alarms.drop 1 } }
    let sess := if s.bit fFaultAlmCfgAuth then s.get fFaultAlmCfgSession + 1 else 0
    s.request { vc := 1, kind := 9, dst := s.get fFaultAlmCfgDest, payload := p, sess := sess }) s

/-! ### Streams of this producer (R353–R361) -/

def strmDflt (_ : Nat) : Word := 0x00010000#32
/-- The running definition of stream `i` + 1. -/
def strmW (s : State) (i : Nat) : Word := Map.look strmDflt s.dlv.run i
def strmR (w : Word) : Nat := bitsOf w 16 6
def strmDest (w : Word) : Nat := bitsOf w 0 16
def strm (s : State) (i : Nat) : Strm := Map.look (fun _ => {}) s.dlv.strm i
def setStrm (s : State) (i : Nat) (x : Strm) : State :=
  s.updDlv (fun d => { d with strm := Map.put (fun _ => {}) d.strm i x })
/-- L in ms. -/
def lathMs (s : State) : Nat := s.lathPeriod / 1000
def strmCounts (s : State) : State :=
  let n (k : Nat) : Nat := (s.dlv.strm.filter (fun p => p.2.state = k)).length
  (s.set fPdirStrmCntAdmitted (n 2)).set fPdirStrmCntNg (n 3)
def transitCount (s : State) : State :=
  s.set fPdirTransitCount (s.dlv.resv.filter (fun r => !r.own)).length
/-- Enter a state; STRM_CHG tells of a change. -/
def strmTo (s : State) (i st cause hops : Nat) : State :=
  let x := s.strm i
  let s := (s.setStrm i { x with state := st, cause := cause, hops := hops }).strmCounts
  if x.state = st then s else s.irq 0x7D 12
/-- The view of STRM_SEL. -/
def strmView (s : State) : State :=
  let i := s.get fPdirStrmSelIndex
  let x := s.strm i
  let s := s.setWord rPdirStrmCfg (Map.look strmDflt s.dlv.pend i)
  let s := (s.set fPdirStrmStatState x.state).set fPdirStrmStatCause x.cause
  let s := (s.set fPdirStrmStatHops (level5 x.hops)).set fPdirStrmStatSlot (x.slot % 4)
  s.set fPdirStrmStatPhase (if s.lathMs = 0 then 0 else x.e0 / s.lathMs)
def enabledStreams (m : Map Word) : List Nat := (m.filter (fun p => p.1 < 1024 && bitAt p.2 31)).map Prod.fst
/-- The points that stream `i` + 1 carries. -/
def strmPoints (d : Map Word) (i : Nat) : List Nat :=
  (entries d).filter (fun e => entLocal d e && entPubEn d e && entClassT d e && entStream d e = i + 1)
/-- The plans of every enabled stream of a configuration in ascending order; the first stream with no free slot (R356). -/
def planAll (s : State) (cfg : Map Word) (l : Nat) : Option Nat × List (Nat × Nat × List Resv) :=
  let held := s.dlv.resv.filter (fun r => !r.own)
  let r := (enabledStreams cfg).foldl (fun (acc : Option Nat × List Resv × List (Nat × Nat × List Resv)) i =>
    let w := Map.look strmDflt cfg i
    match planStream acc.2.1 (s.dstPorts (strmDest w)) (i + 1) l (strmR w) (strmDest w) with
    | some (e0, rs) => (acc.1, acc.2.1 ++ rs, acc.2.2 ++ [(i, e0, rs)])
    | none => (acc.1.orElse (fun _ => some i), acc.2.1, acc.2.2)) (none, held, [])
  (r.1, r.2.2)

/-- The stream's definition as STREAM_REQ carries it. -/
def reqPayload (i n ofs pos dest : Nat) : List Byte :=
  beBytes 2 (i + 1) ++ beBytes 2 n ++ beBytes 2 ofs ++ beBytes 1 pos ++ [0#8] ++ beBytes 2 dest ++ [0#8, 0#8]
/-- Whether an admission of the stream is under way. -/
def admitting (s : State) (i : Nat) : Bool :=
  let mine (k : Nat) (p : List Byte) : Bool := k = 6 && be p 0 2 = i + 1
  s.dlv.opens.any (fun x => mine x.kind x.payload) || s.dlv.waits.any (fun x => mine x.kind x.payload)
/-- The members of a group in the database, by address. -/
def members (s : State) (g : Nat) : List Nat :=
  (s.groupTree g).filterMap (fun t => (lsaFind s.fab.db t.1).map (fun l => l.addr))
/-- A stream is without its guarantee, for a cause; a refused admission is also released along the path (R360). -/
def noGuarantee (s : State) (i cause : Nat) : State := s.strmTo i 3 cause 0
/-- The own reservations of a stream on the ports of its present route, made anew where they are missing. -/
def ownHops (s : State) (i : Nat) (ports : List Nat) : Option (List Resv) :=
  let x := s.strm i
  let rest := s.dlv.resv.filter (fun r => !(r.own && r.stream = i + 1))
  let mine := s.dlv.resv.filter (fun r => r.own && r.stream = i + 1)
  let w := s.strmW i
  let l := ports.map (fun p =>
    match mine.find? (fun r => r.port = p) with
    | some r => some r
    | none => (lowestSlot rest p (x.e0 + 1) x.n 4).map (fun k =>
        { port := p, slot := k, off := (x.e0 + 1) % x.n, n := x.n, src := 0, stream := i + 1, own := true,
          dest := strmDest w : Resv }))
  if l.all (fun r => r.isSome) then some (l.filterMap id) else none
/-- Admit a stream, or refresh its admission (R358, R360, R361, R492). -/
def seekAdmission (s : State) (i : Nat) : State :=
  let w := s.strmW i
  let x := s.strm i
  let dest := strmDest w
  let ports := s.dstPorts dest
  if !bitAt w 31 || s.admitting i then s
  else if s.myAddr = 0 || ports.isEmpty then s.noGuarantee i 1
  else if !s.bit fLathStatFsync then s.noGuarantee i 6
  else if 24 < s.dstHops dest then s.noGuarantee i 5
  else match s.ownHops i ports with
    | none => s.noGuarantee i 8
    | some rs =>
      let s := s.updDlv (fun d => { d with resv := d.resv.filter (fun r => !(r.own && r.stream = i + 1)) ++ rs })
      let s := s.setStrm i { (s.strm i) with slot := ((rs.head?).map (fun r => r.slot)).getD 0, local_ := true }
      let s := if x.state = 0 then s.strmTo i 1 0 0 else s
      s.request { vc := 1, kind := 6, dst := dest, payload := reqPayload i x.n x.e0 1 dest }
/-- An admission ends: granted with hop count `h`, or refused with a cause. -/
def admitted (s : State) (i h : Nat) : State := s.strmTo i 2 0 h
def refusedStream (s : State) (i cause : Nat) : State :=
  let s := s.noGuarantee i cause
  s.request { vc := 1, kind := 7, dst := strmDest (s.strmW i), payload := beBytes 2 (i + 1) ++ [0#8, 0#8] }
def resultCause (r : Nat) : Nat := match r with | 6 => 2 | 7 => 3 | 8 => 1 | _ => 4
/-- The switch to a new configuration gives every enabled stream its phase and first-hop slot, and admits it (R353). -/
def strmSwitch (s : State) (cfg : Map Word) : State :=
  let old := s.dlv.run
  let (_, plans) := s.planAll cfg s.lathMs
  let s := s.updDlv (fun d => { d with
    run := cfg, refresh := s.now
    resv := d.resv.filter (fun r => !r.own) ++ plans.flatMap (fun p => p.2.2.filter (fun r => r.port ≠ 4))
    opens := d.opens.filter (fun x => !(x.kind = 6)), waits := d.waits.filter (fun x => !(x.kind = 6)) })
  let s := s.openFaces
  let gone := (enabledStreams old).filter (fun i => !bitAt (Map.look strmDflt cfg i) 31)
  let s := gone.foldl (fun s i => (s.strmTo i 0 0 0).setStrm i {}) s
  let s := plans.foldl (fun s p =>
    let (i, e0, rs) := p
    let x := s.strm i
    let n := strmR (Map.look strmDflt cfg i) * s.lathMs
    let same := Map.look strmDflt old i = Map.look strmDflt cfg i && x.e0 = e0 && x.n = n && x.state = 2
    let s := s.setStrm i { (if same then x else { x with state := x.state }) with
      e0 := e0, n := n, slot := ((rs.head?).map (fun r => r.slot)).getD 0 }
    let s := if same then s else s.strmTo i (if x.state = 0 then 0 else 1) 0 0
    s.seekAdmission i) s
  s.strmCounts.strmView
/-- Every stream's STREAM_REQ is repeated every 30 s (R360). -/
def streamRefresh (s : State) : State :=
  let s := s.at_ (s.dlv.refresh + 30000000)
  let s := s.updDlv (fun d => { d with refresh := s.now })
  (enabledStreams s.dlv.run).foldl (fun s i => s.seekAdmission i) s

/-! ### Publications (R353–R355, R373–R375) -/

/-- An update of a local point (R355). -/
def updBytes (s : State) (i : Nat) : List Byte :=
  let v := s.visVal i
  beBytes 2 i ++ beBytes 1 (16 * v.st.code) ++ beBytes 1 (entUnit s.dir.run i) ++ beBytes 4 (unsignedOf 32 v.v)
def pubPayload (s : State) (l : List Nat) : List Byte :=
  beBytes 1 l.length ++ [0#8] ++ l.flatMap (fun i => s.updBytes i)
def chunks8 : Nat → List Nat → List (List Nat)
  | 0, _ => []
  | _, [] => []
  | k + 1, l => l.take 8 :: chunks8 k (l.drop 8)
/-- The streams due at a lath commit edge fire: a class-T frame for the next cycle, or class E while not admitted (R353,
R354, R361). -/
def fireStreams (s : State) : State :=
  if !s.en 0x7D then s else
  let e := s.now / 1000
  (enabledStreams s.dlv.run).foldl (fun s i =>
    let x := s.strm i
    let pts := strmPoints s.dir.run i
    if x.n = 0 || e % x.n ≠ x.e0 % x.n || pts.isEmpty then s else
    let pl := s.pubPayload (pts.take 8)
    let dest := strmDest (s.strmW i)
    if x.state = 2 && s.bit fLathStatFsync then
      if !s.ctrFree then s else
      let (c, s) := s.takeCtr
      let f := s.buildFrame { port := 0, vc := 0, kind := 1, tid := 0, dst := dest, stream := i + 1, payload := pl
                              flags := if isGroup dest then 0x4000 else 0 } c
      (s.dlv.resv.filter (fun r => r.own && r.stream = i + 1)).foldl (fun s r =>
        s.modPort r.port (fun q => { q with tReg := q.tReg ++ [(r.slot, e + 1, f)] })) s
    else s.sendTo 1 1 0 dest 0 0 false pl false) s
/-- Class-E points due at a lath commit edge are sent, eight to a PUBLISH for each receiver or group (R375). -/
def publish (s : State) : State :=
  let (sel, s) := s.pubSelect (s.myAddr ≠ 0)
  let dsts (i : Nat) : List Nat :=
    if entGroup s.dir.run i ≠ 0 then [entGroup s.dir.run i] else (s.subList i).map Prod.fst
  let all := ((sel.flatMap dsts).eraseDups).mergeSort (fun a b => a ≤ b)
  all.foldl (fun s a =>
    (chunks8 sel.length (sel.filter (fun i => (dsts i).contains a))).foldl (fun s c =>
      s.sendTo 1 1 0 a 0 0 false (s.pubPayload c) false) s) s

/-! ### Subscriptions of remote entries (R379) -/

def sendSubscribe (s : State) (i : Nat) : State :=
  let id := (entW s.dir.run i 1).toNat
  let s := { s with dir := { s.dir with subSent := Map.put (fun _ => none) s.dir.subSent i (some s.now) } }
  s.request { vc := 1, kind := 4, dst := id / 0x10000, payload := beBytes 2 (id % 0x10000) ++ [0#8, 0#8] }
def subscribing (s : State) : List Nat :=
  (entries s.dir.run).filter (fun i => entRemote s.dir.run i && bitAt (entW s.dir.run i 3) 31)
/-- At a lath commit edge: entries that have not subscribed yet. -/
def subscribeNew (s : State) : State :=
  if !s.en 0x7D || s.myAddr = 0 then s else
  (s.subscribing.filter (fun i => (Map.look (fun _ => none) s.dir.subSent i).isNone)).foldl (fun s i => s.sendSubscribe i) s
def subscribeRefresh (s : State) : State :=
  let due := s.subscribing.filterMap (fun i => Map.look (fun _ => none) s.dir.subSent i)
  match due.min? with
  | none => s
  | some t =>
    let s := s.at_ (t + 60000000)
    if !s.en 0x7D then s else
    (s.subscribing.filter (fun i => match Map.look (fun _ => none) s.dir.subSent i with
      | some u => decide (u + 60000000 ≤ s.now) | none => false)).foldl (fun s i => s.sendSubscribe i) s

/-! ### Reception (R318, R344, R346) -/

/-- A frame arrives whole at a port: whether it is taken up. -/
def takeIn (s : State) (p : Nat) (f : List Byte) : Bool × State :=
  if !s.isUp p then (false, s)
  else if !frameOk f then (false, s.discard p f true)
  else
    let s := s.bumpWrap (fFportRxCount p)
    let vc := frVc f
    if vc = 0 then
      if 4 ≤ (s.port_ p).tWait.length then (false, s.bump fPdirTDropFull) else (true, s)
    else if s.freeBuf p (vc - 1) = 0 then (false, s.bump fPdirTDropFull)
    else (true, s)
/-- A frame for this device: its address, or a group it has joined. -/
def forMe (s : State) (f : List Byte) : Bool :=
  let d := frDst f
  if isGroup d then s.joined d else decide (d ≠ 0) && decide (d = s.myAddr)
def bumpHops (f : List Byte) : List Byte := putBytes f 1 [BitVec.ofNat 8 (frHops f + 1)]
/-- A frame leaves on `ports`, its copies sharing the buffer of port `p` (R332, R344). -/
def sendOn (s : State) (p : Nat) (f : List Byte) (ports : List Nat) : State :=
  if ports.isEmpty then s
  else if 32 ≤ frHops f + 1 then s.bump fFabDropTtl
  else
    let s := s.updFab (fun x => { x with num := x.num + 1 })
    let x : OutFrame := { vc := frVc f, bytes := bumpHops f, src := some p, num := s.fab.num }
    ports.foldl (fun s e => s.enqueue e x) s
/-- The ports a frame goes on by: its route, or the tree links of a group but the one it arrived on (R331, R332). -/
def onward (s : State) (p : Nat) (f : List Byte) : List Nat :=
  let d := frDst f
  if isGroup d then (s.groupPorts d).filter (fun e => e ≠ p) else ((s.routeOf d).map Prod.fst).toList
/-- A frame for other devices is forwarded (R332). -/
def forward (s : State) (p : Nat) (f : List Byte) : State :=
  let ps := s.onward p f
  if ps.isEmpty then (if isGroup (frDst f) then s else s.bump fFabDropNoroute) else s.sendOn p f ps

def lateDrop (s : State) : State := (s.bump fPdirLateDropCount).irq 0x7D 13

/-! ### The levee's checks on received frames (R391–R393) -/

/-- The frame passes the checks when it is tagged; `cls` is the class it needs, 0 for routine. -/
def levCheck (s : State) (src : CmdSrc) (f : List Byte) (cls op : Nat) : Checked × State :=
  if !frAuth f then (.go, s) else
  let i := frSess f
  let host := decide (src = .mailbox)
  let known := s.fab.db.any (fun l => l.addr = frSrc f && l.uid = (s.sess i).uid)
  match s.checkTagged f host known (fun m => cls = 0 || bitNat m cls) with
  | (.inl r, s) => (.refused r, s.levRefused r i cls (frSrc f) (frCtr f) op)
  | (.inr (.accept _), s) => (.go, s)
  | (.inr (.refuse r), s) => (.refused r, s.levRefused r i cls (frSrc f) (frCtr f) op)
  | (.inr (.floor b), s) =>
    (.wait, (s.levRun .levee (0x38000 + 0x20 * i) (sessBytes { (s.sess i) with b := b }) (.floor i b src f)).2)

/-! ### Answers and the caches (R348, R352) -/

/-- Send a response; `body` starts at RESULT. -/
def sendResp (s : State) (f : List Byte) (body : List Byte) (tagged old : Bool) : State :=
  s.sendTo (frVc f + 1) (frKind f) (frTid f) (frSrc f) (if tagged then frSess f + 1 else 0) 0 false
    (beBytes 6 (frCtr f) ++ body) old
/-- Keep an answer for the retries of its request. -/
def keepAnswer (s : State) (f body : List Byte) : State :=
  let k : Kept := { src := frSrc f, tid := frTid f, vc := frVc f, kind := frKind f, payload := body, time := s.now }
  let other (x : Kept) : Bool := !(x.src = k.src && x.tid = k.tid)
  let add (l : List Kept) (n : Nat) : List Kept :=
    let l := l.filter other ++ [k]
    l.drop (l.length - n)
  if k.kind = 8 then s.updDlv (fun d => { d with cmds := add d.cmds 256 })
  else if k.kind = 0xA || k.kind = 0xB then s
  else s.updDlv (fun d => { d with kept := add d.kept 512 })
/-- Answer a request: RESULT and what follows the response header. -/
def answer (s : State) (f : List Byte) (result : Nat) (rest : List Byte) : State :=
  let body := beBytes 1 result ++ [0#8] ++ rest
  (s.keepAnswer f body).sendResp f body (frAuth f) false
/-- The kinds whose order R352 keeps. -/
def ordered (k : Nat) : Bool := 3 ≤ k && k ≤ 8
/-- A request of an ordered kind has been applied. -/
def noteApplied (s : State) (f : List Byte) : State :=
  s.updDlv (fun d => { d with last := Map.put (fun _ => 0) d.last (frSrc f) (frCtr f + 1) })
/-- R352 before a request is handled: `true` when it is to be applied. -/
def gate (s : State) (f : List Byte) : Bool × State :=
  let k := frKind f
  if ordered k && frCtr f + 1 ≤ Map.look (fun _ => 0) s.dlv.last (frSrc f) then (false, s.lateDrop)
  else if !frRetry f then (true, s)
  else
    let pair (x : Kept) : Bool := x.src = frSrc f && x.tid = frTid f
    if k = 8 then
      match s.dlv.cmds.find? (fun x => pair x && s.now < x.time + 40000000) with
      | some x => (false, s.sendResp f x.payload (frAuth f) false)
      | none => (false, s.answer f 9 [])
    else if k = 0xA || k = 0xB then (true, s)
    else
      match s.dlv.kept.find? (fun x => pair x && s.now < x.time + s.quarUs) with
      | some x => (false, s.sendResp f x.payload (frAuth f) false)
      | none => (true, s)

/-! ### Points over the fabric (R376–R380) -/

/-- The updates of a PUBLISH or a READ response are ingested (R380). -/
def ingest (s : State) (f u : List Byte) (n : Nat) (notBefore : Nat) : State :=
  (List.range n).foldl (fun s k =>
    let b := u.drop (8 * k)
    let id := frSrc f * 0x10000 + be b 0 2 % 16384
    s.rxUpdate id (signedOf 32 (be b 4 4)) (Status.ofCode (byteAt b 2 / 16)) (byteAt b 3) notBefore (decide (frVc f = 0))
      (frHops f + 1)) s
/-- A PUBLISH for this device; a class-T one of an admitted stream waits for the edge of R24. -/
def takePublish (s : State) (f : List Byte) : State :=
  let b := frBody f
  let n := byteAt b 0
  if n < 1 || 8 < n || b.length ≠ 2 + 8 * n then s else
  let h := frHops f + 1
  let held := frVc f = 0 && s.lath.adm.any (fun (a : Nat × Nat × Nat × Nat × Nat) => a.1 = frSrc f && a.2.1 = frStream f)
  s.ingest f (b.drop 2) n (if held then (s.now / 1000 - h) * 1000 + (h + 3) * 1000 else 0)
def readReq (s : State) (f : List Byte) : State :=
  let b := frBody f
  let n := byteAt b 0
  if !s.en 0x7D then s.answer f 4 []
  else if n < 1 || 16 < n || b.length ≠ 2 + 2 * n then s.answer f 5 []
  else
    let one (k : Nat) : List Byte :=
      let i := be b (2 + 2 * k) 2
      if entLocal s.dir.run i && i < 16384 then s.updBytes i
      else beBytes 2 (i % 16384) ++ beBytes 1 (16 * Status.fault.code + 1) ++ [0#8] ++ beBytes 4 0
    s.answer f 0 (beBytes 1 n ++ [0#8] ++ (List.range n).flatMap one)
/-- The class of a fabric WRITE (R376, R382). -/
def writeClass (s : State) (f : List Byte) : Nat :=
  let b := frBody f
  let i := be b 0 2
  if byteAt b 2 % 8 = 0 then 2 else if bitsOf (entW s.dir.run i 1) 30 2 = 3 then 2 else 1
/-- A WRITE that R376 accepts is queued for the capture edge (R377). -/
def writePoint (s : State) (i lv : Nat) (rel : Bool) (v : Int) : State :=
  if lv = 0 then { s with dir := { s.dir with hostW := s.dir.hostW ++ [(i, v)] } } else
  let ref := entW s.dir.run i 1
  let n := bitsOf ref 0 8
  match bitsOf ref 30 2 with
  | 3 => { s with hostZm := s.hostZm ++ [{ fen := false, idx := n, lv := lv, v := if rel then none else some (v / 65536).toNat }] }
  | 2 => { s with hostLv := s.hostLv ++ [{ out := 96 + n, lv := lv, v := if rel then none else some v }] }
  | _ => { s with hostLv := s.hostLv ++ [{ out := n, lv := lv, v := if rel then none else some v }] }
def writeReq (s : State) (f : List Byte) : State :=
  let b := frBody f
  let i := be b 0 2
  let lv := byteAt b 2 % 8
  let rel := bitNat (byteAt b 2) 7
  let v := signedOf 32 (be b 4 4)
  let zone := bitsOf (entW s.dir.run i 1) 30 2 = 3
  if !s.en 0x7D then s.answer f 4 []
  else if b.length ≠ 8 || byteAt b 3 ≠ 0 || byteAt b 2 / 8 % 16 ≠ 0 then s.answer f 5 []
  else if lv ≠ 0 && lv ≠ 2 && lv ≠ 4 then s.answer f 1 []
  else if 16384 ≤ i || s.kindOf i ≠ some (if lv = 0 then 1 else 2) then s.answer f 2 []
  else if !frAuth f && !(bitAt (entW s.dir.run i 0) 18 && lv ≠ 2) then s.answer f 3 []
  else if lv ≠ 0 && zone && !rel && (v % 65536 ≠ 0 || v < 0 || 4 < v / 65536) then s.answer f 1 []
  else
    let s := (s.writePoint i lv rel v).noteApplied f
    let s := if frAuth f then s.audit 1 (frSess f) (s.writeClass f) (frSrc f) (frCtr f) (0x100000 + 0x20 * i) else s
    s.answer f 0 []
def subscribeReq (s : State) (f : List Byte) : State :=
  let b := frBody f
  let i := be b 0 2
  let d := s.dir.run
  let src := frSrc f
  if !s.en 0x7D then s.answer f 4 []
  else if b.length ≠ 4 || be b 2 2 ≠ 0 then s.answer f 5 []
  else if 16384 ≤ i || !entLocal d i || !entPubEn d i then s.answer f 2 []
  else if entClassT d i then (s.noteApplied f).answer f 0 ([1#8, 0#8] ++ beBytes 2 (entStream d i))
  else if entGroup d i ≠ 0 then (s.noteApplied f).answer f 0 ([2#8, 0#8] ++ beBytes 2 (entGroup d i))
  else
    let l := s.subList i
    let ok := [0#8, 0#8, 0#8, 0#8]
    if l.any (fun a => a.1 = src) then
      let s := { s with
        dir := { s.dir with
        subs := Map.put (fun _ => []) s.dir.subs i (l.map (fun (a : Nat × Nat) => if a.1 = src then (src, s.now) else a)) } }
      (s.noteApplied f).answer f 0 ok
    else if 8 ≤ l.length || 8192 ≤ s.subUsed then s.answer f 6 []
    else
      let s := s.setSubs i (l ++ [(src, s.now)])
      let s := { s with dir := { s.dir with pub := Map.put (fun _ => none) s.dir.pub i none } }
      (s.noteApplied f).answer f 0 ok
def unsubscribeReq (s : State) (f : List Byte) : State :=
  let b := frBody f
  let i := be b 0 2
  if !s.en 0x7D then s.answer f 4 []
  else if b.length ≠ 4 || be b 2 2 ≠ 0 then s.answer f 5 []
  else
    let l := s.subList i
    let s := if l.any (fun a => a.1 = frSrc f) then s.setSubs i (l.filter (fun a => a.1 ≠ frSrc f)) else s
    (s.noteApplied f).answer f 0 []

/-! ### Streams of other producers (R358–R360, R26) -/

/-- The branches of a held stream's request or release at this device: its route, or the tree's ports but the ingress. -/
def branches (s : State) (p : Nat) (f : List Byte) : List Nat :=
  if !isGroup (frDst f) && frDst f = s.myAddr then [] else s.onward p f
def admPut (s : State) (src stream n h : Nat) : State :=
  { s with
    lath := { s.lath with
    adm := s.lath.adm.filter (fun a => !(a.1 = src && a.2.1 = stream)) ++ [(src, stream, n, h, s.now)] } }
def streamReq (s : State) (p : Nat) (f : List Byte) : State :=
  let b := frBody f
  let st := be b 0 2
  let n := be b 2 2
  let ofs := be b 4 2
  let pos := byteAt b 6
  let src := frSrc f
  let rest (k : Nat) : List Byte := beBytes 2 st ++ beBytes 1 k ++ [0#8]
  if b.length ≠ 12 || st < 1 || 1024 < st || n = 0 || n ≤ ofs || byteAt b 7 ≠ 0 || be b 10 2 ≠ 0 || be b 8 2 ≠ frDst f then
    s.answer f 5 (rest pos)
  else
    let me := s.forMe f
    let out := s.branches p f
    if !me && out.isEmpty then s.answer f 8 (rest pos) else
    let off := (ofs + pos + 1) % n
    let mine (r : Resv) : Bool := !r.own && r.src = src && r.stream = st
    let others := s.dlv.resv.filter (fun r => !mine r)
    let keep (e : Nat) : Option Resv := s.dlv.resv.find? (fun r => mine r && r.port = e && r.off = off && r.n = n)
    let hop (e : Nat) : Option Resv :=
      match keep e with
      | some r => some { r with time := s.now, pos := pos }
      | none => (lowestSlot others e off n 4).map (fun k =>
          { port := e, slot := k, off := off, n := n, src := src, stream := st, pos := pos, dest := frDst f, time := s.now : Resv })
    let new := out.filter (fun e => (keep e).isNone)
    let held := (s.dlv.resv.filter (fun r => !r.own)).length
    if out ≠ [] && 2048 < held + new.length then s.answer f 7 (rest pos)
    else if out.any (fun e => (hop e).isNone) then s.answer f 6 (rest pos)
    else
      let s := s.updDlv (fun d => { d with resv := others ++ out.filterMap hop })
      let s := s.transitCount.noteApplied f
      let s := s.sendOn p (putBytes f 38 [BitVec.ofNat 8 (pos + 1)]) out
      if me then (s.admPut src st n pos).answer f 0 (rest pos) else s
def streamRel (s : State) (p : Nat) (f : List Byte) : State :=
  let b := frBody f
  let st := be b 0 2
  if b.length ≠ 4 || be b 2 2 ≠ 0 then s.answer f 5 [] else
  let me := s.forMe f
  let out := s.branches p f
  let s := s.updDlv (fun d => { d with resv := d.resv.filter (fun r => r.own || !(r.src = frSrc f && r.stream = st)) })
  let s := { s with lath := { s.lath with adm := s.lath.adm.filter (fun a => !(a.1 = frSrc f && a.2.1 = st)) } }
  let s := s.transitCount.noteApplied f
  let s := if !me && out.isEmpty then s.bump fFabDropNoroute else s.sendOn p f out
  if me then s.answer f 0 [] else s
/-- A device of the path has lost the stream (R360). -/
def streamLost (s : State) (f : List Byte) : State :=
  let i := be (frBody f) 0 2 - 1
  if bitAt (s.strmW i) 31 && 1 ≤ be (frBody f) 0 2 then (s.noGuarantee i 7).seekAdmission i else s
/-- After a table replacement: transit reservations whose egress changed are released with STREAM_LOST, and the streams of
this producer whose route changed are admitted afresh (R360). -/
def pathChange (s : State) : State :=
  let moved (r : Resv) : Bool := !(s.dstPorts r.dest).contains r.port
  let lost := s.dlv.resv.filter (fun r => !r.own && moved r)
  let s' := s.updDlv (fun d => { d with resv := d.resv.filter (fun r => r.own || !moved r) })
  let s' := lost.foldl (fun s r => s.sendTo 1 0xC 0 r.src 0 0 false (beBytes 2 r.stream ++ beBytes 1 r.pos) false) s'.transitCount
  (enabledStreams s'.dlv.run).foldl (fun s i =>
    let mine := (s.dlv.resv.filter (fun r => r.own && r.stream = i + 1)).map (fun r => r.port)
    let now := s.dstPorts (strmDest (s.strmW i))
    if (s.strm i).local_ && !(mine.all (fun p => now.contains p) && now.all (fun p => mine.contains p)) then
      (s.noGuarantee i 7).seekAdmission i
    else s) s'
/-- Transit reservations not refreshed for 120 s are released (R360). -/
def transitExpire (s : State) : State :=
  match ((s.dlv.resv.filter (fun r => !r.own)).map (fun r => r.time)).min? with
  | none => s
  | some t =>
    let s := s.at_ (t + 120000000)
    (s.updDlv (fun d => { d with resv := d.resv.filter (fun r => r.own || s.now < r.time + 120000000) })).transitCount
/-- Admission records not refreshed for 120 s end (R26). -/
def admExpire (s : State) : State :=
  match (s.lath.adm.map (fun a => a.2.2.2.2)).min? with
  | none => s
  | some t =>
    let s := s.at_ (t + 120000000)
    { s with lath := { s.lath with adm := s.lath.adm.filter (fun a => s.now < a.2.2.2.2 + 120000000) } }
/-- LATH.XLAT_MAX at a lath commit edge (R24, R26). -/
def xlatMax (s : State) : State :=
  let hs := s.lath.adm.map (fun a => a.2.2.2.1)
  let h := hs.foldl max 0
  if hs.isEmpty then (s.set fLathXlatMaxHops 0).set fLathXlatMaxFrames 0
  else (s.set fLathXlatMaxHops (level5 h)).set fLathXlatMaxFrames (1 + ceilDiv (h + 3) s.lathMs)

/-! ### Class-T frames (R354, R357, R361) -/

def tOwn (s : State) (f : List Byte) (cycle : Nat) : List Resv :=
  s.dlv.resv.filter (fun r => !r.own && r.src = frSrc f && r.stream = frStream f && (cycle % r.n = r.off % r.n))
/-- A class-T frame is received: delivered here, and held for its reserved slot of the cycle after its forward point. -/
def tReceived (s : State) (p : Nat) (f : List Byte) : State :=
  let me := s.forMe f
  let s := if me then s.takePublish f else s
  let away := !me || (isGroup (frDst f) && !(s.onward p f).isEmpty)
  if !away then s else
  let c := if s.now % 1000 ≤ 750 then s.now / 1000 else s.now / 1000 + 1
  if !s.bit fLathStatFsync || !(s.tOwn f (c + 1)).isEmpty then
    s.modPort p (fun q => { q with tWait := q.tWait ++ [(s.now, f)] })
  else s.bump fPdirTDropUnres
/-- A class-T frame as the class-E PUBLISH it becomes where the device is not locked (R361). -/
def asClassE (f : List Byte) : List Byte := putBytes f 0 [0x11#8]
/-- 750 µs of a cycle: frames received before it move into the registers of their slots for the next cycle (R357). -/
def tForward (s : State) : State :=
  let s := s.at_ ((s.now + 249) / 1000 * 1000 + 750)
  let c := s.now / 1000
  (List.range 4).foldl (fun s p =>
    let l := (s.port_ p).tWait
    let s := s.modPort p (fun q => { q with tWait := [] })
    l.foldl (fun s x =>
      let f := x.2
      if !s.bit fLathStatFsync then s.sendOn p (asClassE f) (s.onward p f)
      else if 32 ≤ frHops f + 1 then s.bump fFabDropTtl
      else match s.tOwn f (c + 1) with
        | [] => s.bump fPdirTDropUnres
        | rs => rs.foldl (fun s r => s.modPort r.port (fun q => { q with tReg := q.tReg ++ [(r.slot, c + 1, bumpHops f)] })) s) s) s
/-- The start of a slot: the frame held for it is transmitted (R341). -/
def tSlotStart (s : State) (p slot : Nat) : State :=
  match (s.port_ p).tReg.find? (fun x => x.1 = slot) with
  | none => s
  | some x =>
    let s := s.at_ (1000 * x.2.1 + 125 * slot)
    let s := s.modPort p (fun q => { q with tReg := q.tReg.erase x })
    if !s.isUp p then s
    else if !s.bit fLathStatFsync then s.enqueue p { vc := 1, bytes := asClassE x.2.2 }
    else (s.bumpWrap (fFportTxCount p)).modPort p (fun q => { q with till := max (10 * s.now) q.till + wireOf x.2.2 })

/-! ### Alarms and queries of peers (R419, R362) -/

def alarmReq (s : State) (f : List Byte) : State :=
  let s := (s.bump fFaultAlmRxCount).set fFaultAlmRxSrc (frSrc f)
  (s.irq 0x88 6).answer f 0 []
def be32s : Nat → List Byte → List Word
  | 0, _ => []
  | n + 1, b => BitVec.ofNat 32 (be b 0 4) :: be32s n (b.drop 4)
def peerOf (f : List Byte) : Option (Nat × Nat) := some (frSrc f, frTid f)
/-- The next chunk of a peer's query, and the query after it. -/
def peerChunk (s : State) (q : Query) : List Byte × Query :=
  let (bs, n, d, q') := s.queryChunk q true 20 7
  let gap := s.nst.erasedRecs ≠ q.erased
  let c := beBytes 1 ((if d then 1 else 0) + (if gap then 2 else 0)) ++ [0#8] ++ beBytes 2 n ++ beBytes 2 q.chunk ++ bs
  (c, { q' with lastChunk := c })
def setPeer (s : State) (f : List Byte) (q : Option Query) : State :=
  { s with nst := { s.nst with peers := s.nst.peers.filter (fun x => x.peer ≠ peerOf f) ++ q.toList } }
def queryReq (s : State) (f : List Byte) : State :=
  let b := frBody f
  match parseQuery (be32s (b.length / 4) b) with
  | none => s.answer f 5 []
  | some q =>
    if 4 ≤ (s.nst.peers.filter (fun x => x.peer ≠ peerOf f)).length then s.answer f 4 []
    else
      let (c, q') := s.peerChunk { q with peer := peerOf f, erased := s.nst.erasedRecs }
      (s.setPeer f (if q'.done then none else some q')).answer f 0 c
def queryNextReq (s : State) (f : List Byte) : State :=
  let b := frBody f
  let k := be b 0 2
  match s.nst.peers.find? (fun x => x.peer = peerOf f) with
  | none => s.answer f 5 []
  | some q =>
    if b.length ≠ 4 || be b 2 2 ≠ 0 then s.answer f 5 []
    else if k = q.chunk then
      let (c, q') := s.peerChunk q
      (s.setPeer f (if q'.done then none else some q')).answer f 0 c
    else if k + 1 = q.chunk then s.answer f 0 q.lastChunk
    else s.answer f 5 []

/-! ### Ends of transactions (R350, R351, R359) -/

/-- What the end of a transaction means for what asked for it; `rest` follows the response header. -/
def xferDone (s : State) (x : Xfer) (result : Nat) (rest : List Byte) : State :=
  match x.kind with
  | 6 =>
    let i := be x.payload 0 2 - 1
    if result = 0 then s.admitted i (if isGroup x.dst then s.groupHops x.dst else byteAt rest 2)
    else s.refusedStream i (resultCause result)
  | 9 => s.pumpAlarms
  | _ => s
/-- A response to this device (R351, R391). Its tag, where it has one, has passed. -/
def takeResponse (s : State) (f : List Byte) : State :=
  let b := frBody f
  let result := byteAt b 6
  let rest := b.drop 8
  match s.dlv.opens.find? (fun x => x.tid = frTid f && x.vc + 1 = frVc f && x.kind = frKind f && x.ctrs.contains (be b 0 6)) with
  | none => s.lateDrop
  | some x =>
    if b.length < 8 then s.lateDrop
    else if x.sess ≠ 0 && ((frAuth f && frSess f + 1 ≠ x.sess) || (!frAuth f && result ≠ 3)) then s
    else
      let s := if x.kind = 2 && result = 0 then s.ingest f (rest.drop 2) (min 16 (byteAt rest 0)) 0 else s
      if x.kind = 6 && isGroup x.dst && result = 0 then
        let oks := (x.oks ++ [frSrc f]).eraseDups
        if (s.members x.dst).all (fun a => oks.contains a) then (s.endXfer x.tid).xferDone x 0 rest
        else s.updDlv (fun d => { d with opens := d.opens.map (fun y => if y.tid = x.tid then { y with oks := oks } else y) })
      else
        let s := if x.kind = 9 then s.bump fFaultAlmCntSent else s
        (s.endXfer x.tid).xferDone x result rest
/-- The base interval of R350, µs. -/
def xferT0 (x : Xfer) : Nat := if x.vc = 3 then 2000000 else 1000 * (2 * (x.h + 1) * 20 + 40)
/-- An attempt has had no completing response: the next one, or the transaction gives up. -/
def xferTimeout (s : State) (t : Nat) : State :=
  match s.dlv.opens.find? (fun x => x.tid = t) with
  | none => s
  | some x =>
    let s := s.at_ (x.sent + xferT0 x * 2 ^ x.attempt)
    if x.attempt < 4 then
      let y := { x with attempt := x.attempt + 1, sent := s.now }
      let s := (s.bump fPdirXactRetries).updDlv (fun d => { d with
        opens := d.opens.map (fun z => if z.tid = t then y else z) })
      s.sendAttempt y
    else
      let s := ((s.bump fPdirXactGiveup).irq 0x7D 14).endXfer t
      let s := if x.kind = 9 then (s.bump fFaultAlmCntDropped).irq 0x88 5 else s
      s.xferDone x 4 []

/-! ### What a lath commit edge does for the fabric (R26, R353, R374, R492) -/

/-- The fabric's work of a lath commit edge, after the values have committed. -/
def fabricCommit (s : State) : State :=
  let on := enabledStreams s.dlv.run
  let s := if s.bit fLathStatFsync then s
    else (on.filter (fun i => (s.strm i).state = 1 || (s.strm i).state = 2)).foldl (fun s i => s.noGuarantee i 6) s
  let s := if s.dlv.retry && s.bit fLathStatFsync then
      (on.filter (fun i => (s.strm i).state = 3)).foldl (fun s i => s.seekAdmission i) (s.updDlv (fun d => { d with retry := false }))
    else s
  (((s.fireStreams).publish).subscribeNew).pumpAlarms.xlatMax

/-! ### The request kinds behind the checks -/

/-- A request or a response for this device whose tag, where it has one, has passed; COMMAND is handled elsewhere. -/
def applyFrame (s : State) (p : Nat) (f : List Byte) : State :=
  if frVc f = 2 || frVc f = 4 then s.takeResponse f else
  match frKind f with
  | 1 => if frVc f = 0 then s.tReceived p f else s.takePublish f
  | 0xC => s.streamLost f
  | k =>
    let (go, s) := s.gate f
    if !go then s else
    match k with
    | 2 => s.readReq f
    | 3 => s.writeReq f
    | 4 => s.subscribeReq f
    | 5 => s.unsubscribeReq f
    | 6 => s.streamReq p f
    | 7 => s.streamRel p f
    | 9 => s.alarmReq f
    | 0xA => s.queryReq f
    | 0xB => s.queryNextReq f
    | _ => s
/-- The class a frame other than COMMAND needs. -/
def frameClass (s : State) (f : List Byte) : Nat :=
  if frKind f = 3 && frVc f = 1 then s.writeClass f else 0
/-- A group frame also goes on to the tree's other branches; a stream's request and release go on by their own rules, and a
class-T frame by its reservation. -/
def alsoOn (s : State) (p : Nat) (f : List Byte) : State :=
  if isGroup (frDst f) && frVc f ≠ 0 && !(frVc f = 1 && (frKind f = 6 || frKind f = 7)) then s.sendOn p f (s.onward p f) else s
/-- A frame for this device arrives: taken in, checked and handled. A tagged WRITE that the levee refuses is answered AUTH;
other refused frames are discarded (R391). -/
def rxFrame (s : State) (p : Nat) (f : List Byte) : State :=
  let (ok, s) := s.takeIn p f
  if !ok then s else
  let s := s.alsoOn p f
  match s.levCheck (.fabric p) f (s.frameClass f) 0 with
  | (.go, s) => s.applyFrame p f
  | (.wait, s) => s
  | (.refused r, s) =>
    if frKind f = 3 && frVc f = 1 then s.sendResp f (beBytes 1 3 ++ [0#8]) (r ≠ .tag && s.lev.site.isSome) false else s
/-- A frame of kind `k` on virtual channel `vc` addressed to this device. -/
def rxKind (s : State) (p : Nat) (f : List Byte) (vc k : Nat) : State :=
  if !s.isUp p then s
  else if !frameOk f then s.discard p f true
  else if frVc f = vc && frKind f = k && s.forMe f then s.rxFrame p f else s
/-- A class-T frame is taken up by every device of its path (R357). -/
def rxTFrame (s : State) (p : Nat) (f : List Byte) : State :=
  if !s.isUp p then s
  else if !frameOk f then s.discard p f true
  else if frVc f = 0 && frKind f = 1 && s.myAddr ≠ 0 then s.rxFrame p f else s
/-- STREAM_REQ and STREAM_REL are taken up by every device of the path (R358, R360). -/
def rxPath (s : State) (p : Nat) (f : List Byte) (k : Nat) : State :=
  if !s.isUp p then s
  else if !frameOk f then s.discard p f true
  else if frVc f = 1 && frKind f = k && s.myAddr ≠ 0 then s.rxFrame p f else s
/-- A frame for other devices (R332); one for a group that this device has joined is delivered here as well. -/
def rxForward (s : State) (p : Nat) (f : List Byte) : State :=
  if !s.isUp p then s
  else if !frameOk f then s.discard p f true
  else if frVc f = 0 || frVc f = 5 || frKind f = 0 || 0xD ≤ frKind f || s.myAddr = 0 then s
  else if frVc f = 1 && (frKind f = 6 || frKind f = 7 || frKind f = 8 && s.forMe f) then s
  else if s.forMe f then (if isGroup (frDst f) then s.rxFrame p f else s)
  else
    let (ok, s) := s.takeIn p f
    if ok then s.forward p f else s

end State
end Sys2Proof.Machine
end

