-- ==== Sys2Proof/Machine/Fan.lean ====
section
/-! DEFINITION. Fan governors (R229–R250, R516): demand, drive, supervision, the retry sequence, LEARN and ageing. -/
set_option Elab.async false
namespace Sys2Proof.Machine

/-- The eight duties of a LEARN, 0.01 % (R246). -/
def learnDuty : Nat → Nat
  | 0 => 2000 | 1 => 3143 | 2 => 4286 | 3 => 5429 | 4 => 6571 | 5 => 7714 | 6 => 8857 | _ => 10000
/-- Hundredths of a percent in Q16.16 %. -/
def pctQ (v : Nat) : Int := divHalfUp ((v : Int) * 65536) 100
def pct100 : Int := 6553600
/-- Linear interpolation of a rising table at `q`, end values beyond it. -/
def fanInterp (l : List (Int × Int)) (q : Int) : Int := pwl l q

namespace State

def fanSt (s : State) (g : Nat) : FanSt := Map.look (fun _ => {}) s.eng.fan g
def setFan (s : State) (g : Nat) (x : FanSt) : State :=
  { s with eng := { s.eng with fan := Map.put (fun _ => {}) s.eng.fan g x } }
def fanOn (s : State) (g : Nat) : Bool := s.ebit (fFanCfgEn g)
def fanPage (g : Nat) : Nat := 0x62 + g / 8
def fanRate (s : State) (g : Nat) : Rate := s.outRate (96 + g)
def fanDrive (s : State) (g : Nat) : Option Nat := if s.fanOn g && s.ebit (fFanDrvDrvEn g) then some (s.eget (fFanDrvDrive g)) else none
def fanTach (s : State) (g : Nat) : Option Nat := if s.ebit (fFanDrvTachEn g) then some (s.eget (fFanDrvTach g)) else none

/-! ### The drive (R231–R233) -/

/-- After the drive's channel has committed: the committed duty of R233 and DRV_STAT (R232). -/
def driveFaces (s : State) (g : Nat) : State :=
  let (l, v, e) := s.driveDuty g
  match s.fanDrive g with
  | none => s
  | some d =>
    let c := s.chan d
    let l0 := (s.level d 0).isSome
    let duty := if !l0 then v else match c.mode with
      | 0x8 => clampI 0 pct100 (c.out * 10)
      | 0xB => if c.out = 0 then 0 else pct100
      | _ => clampI 0 pct100 c.out
    let s := s.seti (fFanDrvoutValue g) duty
    let s := s.setB (fFanDrvstatChL0 g) l0
    let s := s.setB (fFanDrvstatEmpty g) e
    s.set (fFanDrvstatWinLvl g) (if l0 then 0 else l)

/-! ### Demand (R234, R245) -/

/-- d_m of a valid member. -/
def fanMem (s : State) (r : Rate) (g m : Nat) : Int × Status :=
  let v := s.readVal r (s.eget (fFanMemPoint g m))
  -- X in 0.1 of the unit against v × 10; Y in 0.01 %
  let pts := (List.range 4).map (fun j =>
    (s.egeti (fFanCrvX g m j) * 65536, ((s.eget (fFanCrvY g m j) : Nat) : Int) * 65536))
  let y := if badSt v.st then (pts.getD 3 (0, 0)).2 else pwl pts (v.v * 10)
  (divHalfUp y 100, v.st)
/-- A partner of the fen is latched BLOCKED at the commit edge that the frame captured (R245). -/
def fenBlocked (s : State) (r : Rate) (g : Nat) : Bool :=
  s.ebit (fFanCfgFenEn g) && (List.range 24).any (fun h => h ≠ g && s.fanOn h && s.ebit (fFanCfgFenEn h)
    && s.eget (fFanCfgFen h) = s.eget (fFanCfgFen g)
    && (Map.look (fun _ => {}) (match r, s.fanRate h with | .skim, .skim => s.engS.fan | _, _ => s.engL.fan) h).blocked)
def fanDemand (s : State) (r : Rate) (g : Nat) : Int × Status × Bool :=
  let l := ((List.range 16).filter (fun m => s.ebit (fFanMemValid g m))).map (fun m => s.fanMem r g m)
  if s.fenBlocked r g then (pct100, .ok, true)
  else (clampI 0 pct100 ((l.map Prod.fst).foldl max 0), worstOf (l.map Prod.snd), false)

/-! ### Supervision (R237–R245) -/

/-- The instant at which the running frame of a governor's rate commits. -/
def fanCommit (s : State) (r : Rate) : Nat := match r with | .lath => s.lath.due | .skim => s.lath.skimCap + s.skimPeriod
def fanSpeed (s : State) (r : Rate) (g : Nat) : Int :=
  match s.fanTach g with
  | none => 0
  | some m =>
    let p := (s.capAt r m).period * (s.eget (fFanCfgPpr g) + 1)
    if p = 0 then 0 else sat32 (divHalfUp (60000000 * 65536) (p : Nat))
/-- CURRENT in mA, Q16.16 (R238). -/
def fanCurrent (s : State) (r : Rate) (g : Nat) : Int :=
  match s.fanDrive g with
  | none => 0
  | some d =>
    let l := match r with | .lath => s.lath.curL | .skim => s.lath.curS
    if !s.ebit (fFanDrvIEn g) then 0 else sat32 ((((l.find? (fun p => p.1 = d)).map Prod.snd).getD 0 : Nat) * 65536)
/-- A current lies in the running band at a duty (R238); an over-range sample does not. -/
def fanInBand (s : State) (g : Nat) (x : FanSt) (c : Option Int) : Bool :=
  let (lo, hi) : Int × Int :=
    if x.base.isEmpty then
      ((s.eget (fFanIlimIMin g) : Int) * 65536, (s.eget (fFanIlimIStall g) : Int) * 65536)
    else
      let b := fanInterp ((List.range 8).map (fun k => (pctQ (learnDuty k), (((x.base.getD k (0, 0)).2 : Nat) : Int) * 65536))) x.duty
      (divHalfUp b 10, divHalfUp (b * (s.eget (fFanIlimStallPct g) : Int)) 100)
  match c with
  | none => false
  | some c => lo ≤ c && c ≤ hi

def fanFault (s : State) (r : Rate) (g cause : Nat) (cls : FClass) (on : Bool) : State :=
  let s := s.later r (.irq (fanPage g) (if cause = 5 || cause = 6 then 8 + g % 8 else g % 8))
  s.later r (if on then .raise (0x9000 + cause) g cls else .clear (0x9000 + cause) g)
def fanRetrying (n : Nat) : Bool := n = 3 || n = 4
/-- A governor changes state, with the faults its old state ends and its new state raises (R239–R244). -/
def fanTo (s : State) (r : Rate) (g : Nat) (x : FanSt) (new : Nat) : FanSt × State :=
  let s := if x.state = 6 && new ≠ 6 then s.fanFault r g 3 .minor false else s
  let s := if x.state = 7 && new ≠ 7 then s.fanFault r g 4 .minor false else s
  let s := if fanRetrying x.state && !fanRetrying new then s.fanFault r g 1 .minor false else s
  let s := if !fanRetrying x.state && fanRetrying new then s.fanFault r g 1 .minor true else s
  let s := if new = 6 && x.state ≠ 6 then s.fanFault r g 3 .minor true else s
  let s := if new = 7 && x.state ≠ 7 then s.fanFault r g 4 .minor true else s
  let s := if new = 5 && !x.blocked then (s.fanFault r g 2 .major true).later r (.bump (fFanStatBlockCnt g)) else s
  let s := if new = 1 && x.state = 0 && s.bit (fFanPeatAEn g) then s.later r (.peat (s.get (fFanPeatAStart g)) 1) else s
  let cap := s.frameTs r
  let c := (match s.fanTach g with | some m => (s.capAt r m).cnt | none => 0)
  let x := { x with
    blocked := x.blocked || new = 5, verify := 0, outN := 0
    held := if new = 6 && x.state ≠ 6 then x.duty else x.held
    attempt := if fanRetrying new then (if fanRetrying x.state then x.attempt else 1) else if new = 5 then x.attempt else 0
    t0 := if fanRetrying new || new = 8 then s.fanCommit r else cap
    mark := if new = 1 then some c else none
    pulseAt := cap, state := new }
  (x, s)
/-- START has lasted TSTART without a pulse (R239, R240). -/
def fanStartEnd (s : State) (r : Rate) (g : Nat) (x : FanSt) : FanSt × State :=
  if s.ebit (fFanDrvIEn g) then ({ x with verify := max 1 x.verify }, s) else s.fanTo r g x 3
/-- RUN has lasted 2 s without a pulse. -/
def fanPulseEnd (s : State) (r : Rate) (g : Nat) (x : FanSt) : FanSt × State :=
  if s.ebit (fFanDrvIEn g) then s.fanTo r g x (if s.fanInBand g x (some x.current) then 6 else 3) else s.fanTo r g x 7
/-- The end of a kick (R241). -/
def fanKickEnd (s : State) (r : Rate) (g : Nat) (x : FanSt) (cnt : Nat) : FanSt × State :=
  if x.mark.isSome && x.mark ≠ some cnt then s.fanTo r g x 2
  else if x.attempt < 3 then
    let (x, s) := s.fanTo r g x 3
    ({ x with attempt := x.attempt + 1 }, s)
  else s.fanTo r g x 5
/-- Issue and take up the verification conversion (R240). -/
def fanVerify (s : State) (r : Rate) (g : Nat) (x : FanSt) : FanSt × State :=
  match s.fanDrive g with
  | none => s.fanTo r g x 3
  | some d =>
    if x.verify = 1 then
      match s.sluicePut (d / 12) (d % 12) 3 with
      | some s' => ({ x with verify := 2 },
          { s' with fanIo := { s'.fanIo with req := s'.fanIo.req ++ [(d / 12, d % 12, g)] } })
      | none => (x, s)
    else
      match Map.look (fun _ => none) s.fanIo.res g with
      | some (t, c) =>
        if s.frameTs r < t then (x, s) else
        let s := { s with fanIo := { s.fanIo with res := Map.put (fun _ => none) s.fanIo.res g none } }
        s.fanTo r g x (if s.fanInBand g x c then 6 else 3)
      | none => (x, s)
/-- The result of an urgent conversion goes to the governor that asked: volts over the on-resistance (R238, R240). -/
def fanSampleDone (s : State) (core slot : Nat) (y : Int) (ovf : Bool) : State :=
  match s.fanIo.req.find? (fun q => q.1 = core && q.2.1 = slot) with
  | none => s
  | some q =>
    let n := 12 * core + slot
    let mv := divAway (y * fullScale (effMode (s.chan n)) * 1000) 8388608
    let c : Option Int := if ovf then none else some (sat32 (divAway (mv * 1000) (max 1 (s.chan n).ron : Nat)))
    { s with
      fanIo := { s.fanIo with
      req := s.fanIo.req.erase q
      res := if (s.fanSt q.2.2).verify = 2 then Map.put (fun _ => none) s.fanIo.res q.2.2 (some (s.now, c)) else s.fanIo.res } }

/-! ### LEARN (R246) -/

def fanRecordAddr (g : Nat) : Nat := 0x2E000 + 0x40 * g
/-- The baseline record in the store, when valid for the configuration. -/
def fanRecord (s : State) (g : Nat) : List (Nat × Nat) :=
  let b := s.storeBytes (fanRecordAddr g) 64
  let u (o : Nat) : Nat := leNat ((b.drop o).take 2)
  let l := (List.range 8).map (fun k => (u (16 + 4 * k), u (18 + 4 * k)))
  let b0 := (b.getD 0 0xFF#8).toNat
  let mode := match s.fanDrive g with | some d => s.get (fUchCfgMode d) | none => 0
  if 128 ≤ b0 && b0 % 16 = mode && (b.getD 1 0xFF#8).toNat = s.get (fFanCfgPpr g) + 1
      && curveRising (l.map (fun p => ((p.1 : Int), (0 : Int)))) then l else []
def fanRecordBytes (s : State) (g : Nat) (l : List (Nat × Nat)) : List Byte :=
  let mode := match s.fanDrive g with | some d => s.get (fUchCfgMode d) | none => 0
  leBytes 1 (128 + mode) ++ leBytes 1 (s.eget (fFanCfgPpr g) + 1) ++ leBytes 2 0 ++ leBytes 8 s.calSec ++ leBytes 4 0
    ++ l.flatMap (fun p => leBytes 2 (min p.1 65535) ++ leBytes 2 (min p.2 65535)) ++ List.replicate 16 0#8
/-- A LEARN ends: level 0 goes, and the governor continues from OFF. -/
def fanLearnEnd (s : State) (r : Rate) (g : Nat) (x : FanSt) (ok : Bool) : FanSt × State :=
  let s := s.later r (.irq (fanPage g) (16 + g % 8))
  let s := if ok then s else s.fanFault r g 7 .minor true
  s.fanTo r g { x with recs := [], k := 0 } 0
/-- The 20 s of a LEARN point are over. -/
def fanPointEnd (s : State) (r : Rate) (g : Nat) (x : FanSt) (cnt : Nat) : FanSt × State :=
  if x.mark.isNone || x.mark = some cnt then s.fanLearnEnd r g x false else
  let n : Int := (max 1 x.num : Nat)
  let p := ((divHalfUp x.sumS (n * 65536)).toNat, (divHalfUp x.sumC (n * 65536)).toNat)
  let recs := x.recs ++ [p]
  if x.k < 7 then
    ({ x with k := x.k + 1, recs := recs, sumS := 0, sumC := 0, num := 0, mark := none, t0 := s.fanCommit r }, s)
  else if !curveRising (recs.map (fun p => ((p.1 : Int), (0 : Int)))) then s.fanLearnEnd r g x false
  else
    let (ok, s) := s.engineRun { src := .fan, addr := fanRecordAddr g, bytes := s.fanRecordBytes g recs, tag := g }
    if !ok then s.fanLearnEnd r g x false
    else
      let s := if s.bit (fFanPeatBEn g) then s.peatGauge (s.get (fFanPeatBAge g)) 0 else s
      s.fanLearnEnd r g { x with base := recs, age := 0 } true
/-- One frame of a LEARN. -/
def fanLearnFrame (s : State) (r : Rate) (g : Nat) (x : FanSt) (cnt : Nat) : FanSt × State :=
  let x := if x.t0 + 15000000 ≤ s.frameTs r then
      { x with mark := some (x.mark.getD cnt), sumS := x.sumS + x.speed, sumC := x.sumC + x.current, num := x.num + 1 } else x
  if x.t0 + 20000000 ≤ s.fanCommit r then s.fanPointEnd r g x cnt else (x, s)
/-- The store gave up a record that it had accepted: the old baseline stays in force (R246). -/
def fanRunEnded (s : State) (g : Nat) (ok : Bool) : State :=
  if ok then s else
  let s := s.setFan g { s.fanSt g with base := s.fanRecord g }
  (s.raise 0x9007 g .minor).irq (fanPage g) (g % 8)

/-! ### Ageing (R247) -/

/-- The ageing sample of a frame. -/
def fanSample (s : State) (r : Rate) (x : FanSt) : Option Int :=
  if x.base.isEmpty || x.state ≠ 2 || s.frameTs r < x.dutyAt + 20000000 then none else
  let l := (List.range 8).map (fun k => ((((x.base.getD k (0, 0)).1 : Nat) : Int) * 65536, pctQ (learnDuty k)))
  if x.speed < (l.getD 0 (0, 0)).1 || (l.getD 7 (0, 0)).1 < x.speed then none
  else
    let b := fanInterp l x.speed
    some (sat32 (divHalfUp (100 * (x.duty - b) * 65536) b))
def ageLevel (lvl : Nat) (age : Int) : Nat :=
  if 25 * 65536 ≤ age || (lvl = 2 && 23 * 65536 ≤ age) then 2
  else if 10 * 65536 ≤ age || (1 ≤ lvl && 8 * 65536 ≤ age) then 1 else 0
/-- AGE is filtered toward x and its level judged. -/
def fanAge (s : State) (r : Rate) (g : Nat) (x : FanSt) (d : Int) : FanSt × State :=
  let age := x.age + divHalfUp (d - x.age) 1440
  let lvl := ageLevel x.ageLvl age
  let s := if lvl = x.ageLvl then s else
    let s := if x.ageLvl = 1 then s.fanFault r g 5 .minor false else if x.ageLvl = 2 then s.fanFault r g 6 .minor false else s
    if lvl = 1 then s.fanFault r g 5 .minor true else if lvl = 2 then s.fanFault r g 6 .minor true else s
  ({ x with age := age, ageLvl := lvl }, s)
/-- A CAL minute boundary has passed. -/
def fanMinute (s : State) (r : Rate) (g : Nat) (x : FanSt) (m : Nat) : FanSt × State :=
  if x.minute = some m then (x, s) else
  let (x, s) := match x.minute, x.x with
    | some _, some d => s.fanAge r g x d
    | _, _ => (x, s)
  ({ x with minute := some m }, s)

/-! ### One frame -/

/-- What a governor drives and shows after its evaluation: level 0 held or let go, level 5, points and faces. -/
def fanFinish (s : State) (r : Rate) (g : Nat) (x : FanSt) (fen : Bool) : State :=
  let s := s.setFan g x
  let o := 96 + g
  let l0 : Option Int := match x.state with
    | 3 => some 0 | 4 => some pct100 | 5 => some 0 | 8 => some (pctQ (learnDuty x.k))
    | 10 => if x.blocked then some 0 else none
    | _ => none
  let s := match l0 with
    | some v => s.stage r { out := o, lv := 0, v := some v }
    | none => if s.holdsL0 o .gov then s.stage r { out := o, lv := 0, v := none } else s
  let cl := s.ebit (fFanCfgCl g)
  let lo := pctQ (s.eget (fFanDutyMinDuty g))
  let hi := pctQ (s.eget (fFanDutyMaxDuty g))
  let l5 : Option Int :=
    if x.state = 7 then some pct100
    else if cl then (if x.state = 6 then some x.held else none)
    else if x.demand = 0 && s.ebit (fFanCfgOffAtZero g) then some 0
    else some (lo + divHalfUp (x.demand * (hi - lo)) pct100)
  let s := match l5, s.fanDrive g with
    | some v, some _ => s.stage r { out := o, lv := 5, v := some v }
    | _, _ => s
  let sp := sat32 (divHalfUp (x.demand * (s.eget (fFanSpeedCfgRpmMax g) : Int)) 100)
  let pts : List (Int × Status) := [(x.demand, x.demSt), (sp, x.demSt), (x.speed, if x.speedFlt then .fault else .ok),
    (x.age, .ok), ((x.state : Int) * 65536, .ok)]
  let s := if s.ebit (fFanPtBasePub g) then
      (List.range 5).foldl (fun s i =>
        let p := pts.getD i (0, .ok)
        s.produce r (s.eget (fFanPtBaseBase g) + i) { v := p.1, st := p.2, ts := s.frameTs r }) s
    else s
  let s := s.laterSet r (fFanStatState g) x.state
  let s := s.laterSet r (fFanStatAttempt g) x.attempt
  let s := s.laterB r (fFanStatFenRaise g) fen
  let s := s.laterB r (fFanStatBaseOk g) (!x.base.isEmpty)
  let s := s.laterSet r (fFanStatLearnK g) x.k
  let s := s.laterSet r (fFanStatAgeLvl g) x.ageLvl
  let s := s.laterSeti r (fFanDemandValue g) x.demand
  let s := s.laterSeti r (fFanSpeedValue g) x.speed
  let s := s.laterSeti r (fFanCurrentValue g) x.current
  s.laterSeti r (fFanAgeValue g) x.age

/-- Host commands taken at the frame's capture edge (R244, R246). -/
def fanCommands (s : State) (r : Rate) (g : Nat) (x : FanSt) : FanSt × State :=
  x.cmds.foldl (fun p c =>
    let (x, s) := p
    match c with
    | .clr =>
      if !x.blocked then (x, s) else
      let s := s.fanFault r g 2 .major false
      ({ x with blocked := false, attempt := 0, state := if x.state = 5 then 0 else x.state }, s)
    | .learn =>
      if x.state = 5 || x.state = 8 || x.state = 10 || (s.fanTach g).isNone then (x, s) else
      let (x, s) := s.fanTo r g x 8
      ({ x with k := 0, recs := [], sumS := 0, sumC := 0, num := 0 }, s.fanFault r g 7 .minor false)
    | .abort => if x.state = 8 then s.fanLearnEnd r g x false else (x, s)) ({ x with cmds := [] }, s)

/-- `us` microseconds have passed at `now` since `t`. -/
def lasted (t us now : Nat) : Bool := decide (t + us ≤ now)
/-- The state machine of a governor for one frame (R237–R244): `cnt` pulses by the capture at `cap`, `pulse` when there was a
new one, `l0` when level 0 of its drive has won. -/
def fanMove (s : State) (r : Rate) (g : Nat) (x : FanSt) (cnt cap : Nat) (duty : Int) (pulse l0 : Bool) : FanSt × State :=
  let commit := s.fanCommit r
  if x.state = 9 then (x, s)
  else if x.state = 8 then s.fanLearnFrame r g x cnt
  else if l0 then (if x.state = 10 then (x, s) else s.fanTo r g x 10)
  else match x.state with
    | 10 => s.fanTo r g x (if x.blocked then 5 else if 0 < duty then 1 else 0)
    | 0 => if 0 < duty then s.fanTo r g x 1 else (x, s)
    | 1 =>
      if x.mark ≠ some cnt then s.fanTo r g x 2
      else if duty = 0 then s.fanTo r g x 0
      else if lasted x.t0 (1000000 * s.eget (fFanCfgTstart g)) cap then
        let (x, s) := s.fanStartEnd r g x
        if x.state = 1 then s.fanVerify r g x else (x, s)
      else (x, s)
    | 2 =>
      if duty = 0 then s.fanTo r g x 0
      else if lasted x.pulseAt 2000000 cap then s.fanPulseEnd r g x
      else (x, s)
    | 3 => if lasted x.t0 5000000 commit then s.fanTo r g x 4 else (x, s)
    | 4 =>
      let x := { x with mark := some (x.mark.getD cnt) }
      if lasted x.t0 2000000 commit then s.fanKickEnd r g x cnt else (x, s)
    | 6 =>
      if pulse then s.fanTo r g x 2
      else
        let n := if s.fanInBand g x (some x.current) then 0 else x.outN + 1
        if s.ebit (fFanDrvIEn g) && 3 ≤ n then s.fanTo r g x 3 else ({ x with outN := n }, s)
    | 7 => if pulse then s.fanTo r g x 2 else (x, s)
    | _ => (x, s)

/-- A governor in a frame of its rate (R234, R239). -/
def fanEval (s : State) (r : Rate) (g : Nat) : State :=
  let x := s.fanSt g
  let cap := s.frameTs r
  let tach := s.fanTach g
  let x := { x with
    begun := true
    state := if tach.isNone then 9 else if !x.begun || x.state = 9 then 0 else x.state }
  let cnt := match tach with | some m => (s.capAt r m).cnt | none => 0
  let pulse := x.seen && cnt ≠ x.cnt
  let duty := (s.capAt r (96 + g)).out
  let l0 := match s.fanDrive g with | some d => decide ((s.capAt r d).win = 0) && (s.level d 0).isSome | none => false
  let (dem, dst, fen) := s.fanDemand r g
  let tachFlt := match tach with | some m => decide ((s.chan m).faults ≠ 0) | none => false
  let x := { x with
    cnt := cnt, seen := true, pulseAt := if pulse then cap else x.pulseAt
    dutyAt := if duty ≠ x.duty then cap else x.dutyAt, duty := duty
    demand := dem, demSt := dst, speed := s.fanSpeed r g, current := s.fanCurrent r g }
  let (x, s) := s.fanCommands r g x
  let (x, s) := s.fanMove r g x cnt cap duty pulse l0
  let x := { x with speedFlt := x.state = 6 || x.state = 7 || tachFlt }
  let (x, s) := s.fanMinute r g x (cap / 60000000)
  let x := { x with x := s.fanSample r x }
  s.fanFinish r g x fen

/-- The governors of a rate (R13, R14); with their page disabled they let their level 0 go (R249). -/
def fanFrame (s : State) (r : Rate) : State :=
  (List.range 24).foldl (fun s g =>
    if !s.fanOn g || s.fanRate g ≠ r then s
    else if !s.enAck (fanPage g) then
      (if s.holdsL0 (96 + g) .gov then s.stage r { out := 96 + g, lv := 0, v := none } else s)
    else s.fanEval r g) s

/-- A capture edge takes the host commands of its rate's governors (R18). -/
def takeFanCmds (s : State) (r : Rate) : State :=
  let (mine, rest) := s.fanIo.cmds.partition (fun p => s.fanRate p.1 = r)
  mine.foldl (fun s p => let x := s.fanSt p.1; s.setFan p.1 { x with cmds := x.cmds ++ [p.2] })
    { s with fanIo := { s.fanIo with cmds := rest } }
/-- A write of CMD (R244, R246): refused, ignored, or kept for the capture edge. -/
def fanCmd (s : State) (g : Nat) (w : Word) : State :=
  let off := 0x100 + 0x180 * (g % 8) + 0x20
  let st := s.get (fFanStatState g)
  let put (s : State) (c : FanCmd) : State := { s with fanIo := { s.fanIo with cmds := s.fanIo.cmds ++ [(g, c)] } }
  let s := if bitAt w 0 then put s .clr else s
  let s := if !bitAt w 1 then s
    else if (s.fanTach g).isNone then s.blkErr (fanPage g) 0x41 true off
    else if st = 5 || st = 8 || st = 10 then s.blkErr (fanPage g) 0x42 true off
    else put s .learn
  if bitAt w 2 then put s .abort else s

/-- A step of a governor that is due between evaluations: `f` answers what the governor becomes. -/
def fanDue (s : State) (g : Nat) (t : Nat) (f : State → FanSt → Nat → FanSt × State) : State :=
  let r := s.fanRate g
  let s := s.at_ t
  let cnt := match s.fanTach g with | some m => (s.capOf m).cnt | none => 0
  let (x, s) := f s (s.fanSt g) cnt
  s.fanFinish r g x (s.bit (fFanStatFenRaise g))

/-! ### Activation (R230, R248, R516) -/

/-- Governors refused by R230 and R291 in the configuration `s`; `m` is the pending network. -/
def fanBadRef (s : State) (m : Map Word) (entry ownPt : Nat → Bool) : Option Nat :=
  let on := (List.range 24).filter (fun g => s.bit (fFanCfgEn g))
  let drive (g : Nat) : Option Nat := if s.bit (fFanDrvDrvEn g) then some (s.get (fFanDrvDrive g)) else none
  let tach (g : Nat) : Option Nat := if s.bit (fFanDrvTachEn g) then some (s.get (fFanDrvTach g)) else none
  let chans (g : Nat) : List Nat := (drive g).toList ++ (tach g).toList
  let loops := s.loopsOn
  let binds (k : Nat) : List Nat := (s.usedBinds k).filterMap bindOut
  let pw (n : Nat) : Bool := (blkAll m).any (fun i => let r := blkRec m i; r.typ = 0x35 && r.arg = 0x4000 + n)
  let bad (g : Nat) : Bool :=
    let skim := s.bit (fFanCfgSkim g)
    let rateOk (n : Nat) : Bool := n < 96 && s.bit (fUchCfgSkim n) = skim
    let mode (n : Nat) : Nat := s.get (fUchCfgMode n)
    (match drive g with
      | some d => !rateOk d || !(mode d = 0x8 || (0xA ≤ mode d && mode d ≤ 0xC)) || pw d
          || loops.any (fun k => (binds k).contains d)
      | none => false)
    || (match tach g with | some t => !rateOk t || mode t ≠ 6 | none => false)
    || (s.bit (fFanDrvIEn g) && !(match drive g with | some d => mode d = 0xB || mode d = 0xC | none => false))
    || (chans g).any (fun c => on.any (fun h => h ≠ g && (chans h).contains c)) || (chans g ≠ [] && drive g = tach g)
    || (if s.bit (fFanCfgCl g) then
        let k := s.get (fFanSpeedCfgLoop g)
        let b := s.get (fFanPtBaseBase g)
        (tach g).isNone || s.get (fFanSpeedCfgRpmMax g) = 0 || !s.bit (fFanPtBasePub g)
          || !(s.get (fLoopCfgType k) = 1 || s.get (fLoopCfgType k) = 2) || s.bit (fLoopCfgSkim k) ≠ skim
          || bindOut ((s.loopBinds k).getD 0 0) ≠ some (96 + g)
          || s.get (fLoopSrcAWSrc k) ≠ b + 1 || s.get (fLoopSrcAYSrc k) ≠ b + 2
      else loops.any (fun k => (binds k).contains (96 + g)))
    || (List.range 16).any (fun i => s.bit (fFanMemValid g i) && (!entry (s.get (fFanMemPoint g i))
        || !curveRising ((List.range 4).map (fun j => (s.geti (fFanCrvX g i j), (0 : Int))))))
    || (s.bit (fFanPtBasePub g) && (List.range 5).any (fun i => !ownPt (s.get (fFanPtBaseBase g) + i)))
  let peat (g : Nat) : Bool :=
    let es := (if s.bit (fFanPeatAEn g) then [s.get (fFanPeatARun g), s.get (fFanPeatAStart g)] else [])
      ++ (if s.bit (fFanPeatBEn g) then [s.get (fFanPeatBAge g)] else [])
    es.any (fun e => 2039 < e || (s.peatMapOf e).isSome)
  (List.range 24).find? (fun g => (on.contains g && bad g) || peat g)

/-- A configuration takes over (R246, R248). -/
def fanSwitch (s : State) : State :=
  (List.range 24).foldl (fun s g =>
    let old := s.fanSt g
    let on := s.bit (fFanCfgEn g)
    let key := [if on then 1 else 0, s.get (fFanDrvDrvEn g), s.get (fFanDrvTachEn g), s.get (fFanDrvDrive g),
                s.get (fFanDrvTach g), s.get (fFanCfgSkim g)]
    if on && old.key = key then s.setFan g { old with base := s.fanRecord g }
    else
      let s := [1, 2, 3, 4, 5, 6, 7].foldl (fun s c => s.clearFault (0x9000 + c) g) s
      let s := s.relL0 (96 + g) .gov
      let s := (s.set (fFanStatState g) 0).set (fFanStatAttempt g) 0
      let s := { s with
        fanIo := { s.fanIo with
        cmds := s.fanIo.cmds.filter (fun p => p.1 ≠ g), res := Map.put (fun _ => none) s.fanIo.res g none } }
      if !on then s.setFan g {} else
      let age := if s.bit (fFanPeatBEn g) then sat32 (s.peatEnt (s.get (fFanPeatBAge g))).v else 0
      let lvl := ageLevel 0 age
      let s := if lvl = 1 then s.raise 0x9005 g .minor else if lvl = 2 then s.raise 0x9006 g .minor else s
      s.setFan g { key := key, base := s.fanRecord g, age := age, ageLvl := lvl }) s

/-- BLK_ERR cause of a refused FAN write (register tables). -/
def fanRefuse (off : Nat) (w : Word) : Option Nat :=
  let bad (b : Bool) : Option Nat := if b then some 0x40 else none
  if off < 0x100 || 0xD00 ≤ off then none else
  let o := (off - 0x100) % 0x180
  if o = 0 then bad (bitsOf w 16 4 = 0)
  else if o = 8 then bad (10000 < bitsOf w 16 16 || bitsOf w 16 16 < bitsOf w 0 16)
  else if o = 0x10 then bad (bitsOf w 8 8 < 110 || 250 < bitsOf w 8 8)
  else if 0x80 ≤ o then bad (10000 < bitsOf w 0 16)
  else none

end State
end Sys2Proof.Machine
end

