-- ==== Sys2Proof/Machine/Refuse.lean ====
section
/-! DEFINITION. What a written word is judged by: its address (R41–R45), the cause with which its register refuses it (the
register tables of the chapters), its class under the levee (R382), and the rate at whose capture edge its field takes
effect (R18). -/
set_option Elab.async false
namespace Sys2Proof.Machine

/-! ### Addresses (R41–R45) -/

/-- The window that holds an address: 1 point directory, 2 store, 3 block network, 4 schedule, 5 thermal models, 6 EPD. -/
def winOf (a : Nat) : Option Nat :=
  if a < 0x100000 then none
  else if a < 0x180000 then some 1 else if a < 0x1C0000 then some 2 else if a < 0x1E0000 then some 3
  else if a < 0x1F0000 then some 4 else if a < 0x200000 then some 5 else if a < 0x280000 then some 6 else none
/-- First address of a window. -/
def winBase (w : Nat) : Nat :=
  match w with | 1 => 0x100000 | 2 => 0x180000 | 3 => 0x1C0000 | 4 => 0x1E0000 | 5 => 0x1F0000 | _ => 0x200000
/-- The page whose BLK_ERR records errors of a window (R517). -/
def winPage (w : Nat) : Nat :=
  match w with | 1 => 0x7D | 2 => 0x70 | 3 => 0x61 | 4 => 0x69 | 5 => 0x60 | _ => 0x91
/-- The address lies in an assigned page or a window (R42). -/
def addrOk (a : Nat) : Bool := if a < 0x100000 then (blkOfPage (a / 0x1000)).isSome else (winOf a).isSome
/-- `n` words from `a` stay in one page or one window (R45). -/
def sizeOk (a n : Nat) : Bool :=
  let e := a + 4 * n - 1
  if a < 0x100000 then decide (e / 0x1000 = a / 0x1000) else decide (winOf e = winOf a) && decide (e < 0x1000000)
/-- Page whose BLK_ERR takes an error at an address. -/
def errPage (a : Nat) : Option Nat :=
  if a < 0x100000 then (if (blkOfPage (a / 0x1000)).isSome then some (a / 0x1000) else none) else (winOf a).map winPage
/-- Mailboxes (R65): STORE.RUN_MBX, NSTORE.IMG_MBX, NSTORE.QRY_MBX, LEVEE.CMD_MBX. -/
def isMailbox (a : Nat) : Bool := a = 0x70048 || a = 0x7203C || a = 0x7206C || a = 0x80060

/-- Instance of a UCH, ZONE, LOOP or FAN page and the offset inside it, when the offset lies in an instance block. -/
def uchAt (p off : Nat) : Option (Nat × Nat) :=
  if 0x100 ≤ off && off < 0xD00 then some (24 * (p - 0x08) + (off - 0x100) / 0x80, (off - 0x100) % 0x80) else none
def fanAt (p off : Nat) : Option (Nat × Nat) :=
  if 0x100 ≤ off && off < 0xD00 then some (8 * (p - 0x62) + (off - 0x100) / 0x180, (off - 0x100) % 0x180) else none
def drvAt (p off : Nat) : Option (Nat × Nat) :=
  if 0xD00 ≤ off then some (8 * (p - 0x62) + (off - 0xD00) / 0x60, (off - 0xD00) % 0x60) else none
def zoneAt (p off : Nat) : Option (Nat × Nat) :=
  if 0x100 ≤ off && off < 0xD00 then some (6 * (p - 0x20) + (off - 0x100) / 0x200, (off - 0x100) % 0x200) else none
def fenAt (p off : Nat) : Option (Nat × Nat) :=
  if 0xD00 ≤ off && off < 0xF00 then some (2 * (p - 0x20) + (off - 0xD00) / 0x100, (off - 0xD00) % 0x100) else none
def loopAt (p off : Nat) : Option (Nat × Nat) :=
  if 0x100 ≤ off && off < 0x900 then some (16 * (p - 0x40) + (off - 0x100) / 0x80, (off - 0x100) % 0x80) else none

namespace State

/-! ### Refusals -/

/-- UCH (R74–R76, R101): BAD_MODE and AOI_LIMIT. A live write to an odd channel is judged by the running pair, an image's by
the pending configuration. -/
def uchRefuse (s : State) (p off : Nat) (w : Word) (live : Bool) : Option Nat :=
  match uchAt p off with
  | some (n, 0) =>
    let m := bitsOf w 0 4
    if 0xE ≤ m || bitsOf w 12 2 = 3 || (m = 0xD && n % 2 = 1)
      || (if live then s.oddMember n else n % 2 = 1 && s.get (fUchCfgMode (n - 1)) = 0xD) then some 0x40
    else if m = 9 && s.get (fUchCfgMode n) ≠ 9 && 8 ≤ s.aoiUsed then some 0x41
    else none
  | _ => none
/-- CONV (R113, R127): BAD_GAIN. -/
def convRefuse (off : Nat) (w : Word) : Option Nat :=
  if 0x100 ≤ off && off < 0x1C0 && off % 0x10 = 0xC && (w.toNat < 0x200000 || 0x800000 < w.toNat) then some 0x41 else none
/-- NSTORE: BAD_QUERY of TRD_CLS. -/
def nstoreRefuse (off : Nat) (w : Word) : Option Nat :=
  if 0x80 ≤ off && off < 0x100 && off % 8 = 0 && (3600 < bitsOf w 16 16 || 1440 < bitsOf w 0 16) then some 0x41 else none
/-- FAB (R331, R339): BAD_ETYPE and BAD_GRP. -/
def fabRefuse (off : Nat) (w : Word) : Option Nat :=
  if off = 0x20 then (if bitsOf w 16 16 < 0x600 then some 0x42 else none)
  else if 0x80 ≤ off && off < 0xC0 then
    (if bitsOf w 0 16 < 0xF000 || 0xFFFE < bitsOf w 0 16 then some 0x41 else none)
  else none
/-- PDIR: BAD_PARAM of PUB_CAP, DLV_CFG and STRM_CFG. -/
def pdirRefuse (off : Nat) (w : Word) : Option Nat :=
  if off = 0x28 then (if bitsOf w 0 13 = 0 || 4096 < bitsOf w 0 13 then some 0x60 else none)
  else if off = 0x40 then (if bitsOf w 0 8 < 2 || 60 < bitsOf w 0 8 then some 0x60 else none)
  else if off = 0x48 then
    let d := bitsOf w 0 16
    (if bitsOf w 16 6 = 0 || (bitAt w 31 && !((1 ≤ d && d ≤ 0x0FFF) || 0xF000 ≤ d)) then some 0x60 else none)
  else none
/-- LEVEE (R403): NOT_PERMITTED and BAD_SESSION. -/
def leveeRefuse (s : State) (off : Nat) (w : Word) : Option Nat :=
  if off = 0x28 then (if 3600 < bitsOf w 0 12 then some 0x40 else none)
  else if off = 0x74 then (if s.get fLeveeSessSelSession = 255 then some 0x41 else none) else none
/-- FAULT (R421): BAD_DEST. -/
def faultRefuse (off : Nat) (w : Word) : Option Nat :=
  let d := bitsOf w 0 16
  if off = 0x2C && (bitsOf w 16 8 = 255 || (bitAt w 31 && !(1 ≤ d && d ≤ 0x0FFF))) then some 0x40 else none

/-- The cause with which a register refuses a word whole, in the configuration `s` shows. `live` judges conditions that join
registers of a running loop (R519); an image's words are judged there by the activation check. -/
def wordRefuse (s : State) (a : Nat) (w : Word) (live : Bool) : Option Nat :=
  let p := a / 0x1000
  let off := a % 0x1000
  if 0x100000 ≤ a || off < 0x20 then none else
  match blkOfPage p with
  | some .uch => s.uchRefuse p off w live
  | some .conv => convRefuse off w
  | some .sense => senseRefuse off w
  | some .rbus => rbRefuse off w
  | some .pres => presRefuse off w
  | some .zone => zoneRefuse off w
  | some .loop => s.loopRefuse p off w live
  | some .tme => s.tmeRefuse off w
  | some .fan => fanRefuse off w
  | some .cal => calRefuse off w
  | some .store => if off = 0x38 && (bitsOf w 0 13 = 0 || 4096 < bitsOf w 0 13) then some 0x46 else none
  | some .peat => s.peatRefuse off w
  | some .nstore => nstoreRefuse off w
  | some .fab => fabRefuse off w
  | some .pdir => pdirRefuse off w
  | some .levee => s.leveeRefuse off w
  | some .fault => faultRefuse off w
  | some .key => s.keyRefuse off w
  | some .epd => s.epdRefuse off w
  | some .pwr => pwrRefuse off w
  | some .clk => clkRefuse off w
  | _ => none

/-! ### Classes (R382) -/

/-- Of two class codes, 0 standing for routine, the one a word that writes both belongs to (R385). -/
def lowClass (a b : Nat) : Nat := if a = 0 then b else if b = 0 then a else min a b

/-- The class of a word of a page: the lowest class among the fields it writes. A write-only bit is written by a 1 (log
entry 41). -/
def pageClass (b : Blk) (p off : Nat) (w : Word) : Nat :=
  let cfg : Nat := if b.desc.any (fun d => d.covers off && d.rwl ≠ 0) then 3 else 0
  match b with
  | .sys => if off = 0x2C && w = 0xC3C3#32 then 7 else 0
  | .pwr => cfg
  | .clk => if off = 0x20 then 3 else cfg
  | .lath => if off = 0x2C && bitAt w 0 then 1 else 0
  | .uch => match uchAt p off with
    | some (_, o) => if o = 0x1C || o = 0x54 then (if w = 0 then 0 else 1)
        else if 0x34 ≤ o && o < 0x50 then 1 else cfg
    | none => 0
  | .sense => if 0x100 ≤ off && off < 0xD00 && (off % 0x20 = 0 || off % 0x20 = 0x14) then 1 else cfg
  | .pres => if 0x100 ≤ off && off < 0xD00 && off % 0x20 = 0 then 2 else cfg
  | .zone => match zoneAt p off, fenAt p off with
    | some (_, o), _ => if 0x24 ≤ o && o < 0x38 then 2 else cfg
    | none, some (_, o) => if o = 4 then 2 else cfg
    | none, none => 0
  | .loop => match loopAt p off with
    | some (_, o) => if o = 0 || o = 0x44 then 1 else if o = 0x40 then 2 else cfg
    | none => 0
  | .tme => if 0x100 ≤ off && off < 0xD00 && off % 0x20 = 0xC then (if bitsOf w 0 2 = 0 then 0 else 3) else cfg
  | .blk => if off = 0x4C then 3 else cfg
  | .fan => match fanAt p off, drvAt p off with
    | some (_, o), _ => if o = 0x20 then (if bitAt w 0 then 1 else if bitsOf w 1 2 ≠ 0 then 9 else 0) else cfg
    | none, some (_, o) => if 4 ≤ o && o < 0x20 then 1 else if o = 0x24 then (if w = 0 then 0 else 1) else cfg
    | none, none => 0
  | .cal => if off = 0x28 || off = 0x2C || off = 0x40 then 3 else cfg
  | .sched => if off = 0x28 then (if bitAt w 0 then 2 else 0) else cfg
  | .store => if off = 0x2C then 5 else if off = 0x3C && bitAt w 0 then 4 else 0
  | .peat => if off = 0x20 then 3 else if off = 0x3C || off = 0x40 then 4 else cfg
  | .nstore => if (off = 0x34 && bitsOf w 0 3 ≠ 0) || (off = 0x40 && bitAt w 0) then 3 else cfg
  | .fab => if off = 0x28 then (if bitAt w 31 then 8 else 0) else cfg
  | .levee => if off = 0x28 || (0x40 ≤ off && off ≤ 0x50) || (0x74 ≤ off && off ≤ 0x7C) then 6 else 0
  | .fault => if off = 0x20 then (if bitAt w 0 then 1 else 3) else cfg
  | .conv => cfg
  | .rbus => cfg
  | .fport => cfg
  | .pdir => cfg
  | .key => cfg
  | .epd => cfg
  | .host => 0

/-- The class of a written word (R382, R385); 0 is routine. -/
def wordClass (s : State) (a : Nat) (w : Word) : Nat :=
  match winOf a with
  | some 1 =>
    let k := (a - 0x100000) / 4 % 8
    if k ≤ 4 then 3 else if k = 5 && s.kindOf ((a - 0x100000) / 32) = some 1 then 2 else 0
  | some 2 => 4
  | some 3 => 3
  | some 4 => 2
  | some 5 => if (a - 0x1F0000) % 0x200 < 0x18 && (a - 0x1F0000) / 0x200 < 96 then 3 else 0
  | some 6 => if 0x40000 ≤ a - 0x200000 && a - 0x200000 < 0x50000 then 3 else 0
  | _ => match blkOfPage (a / 0x1000) with
    | some b => if a % 0x1000 < 0x20 then 0 else pageClass b (a / 0x1000) (a % 0x1000) w
    | none => 0

/-! ### Capture edges (R18) -/

/-- The rate at whose capture edge a register's fields take effect; `none` where a write acts at once. -/
def regRate (s : State) (a : Nat) : Option Rate :=
  let p := a / 0x1000
  let off := a % 0x1000
  if off < 0x20 then none else
  match blkOfPage p with
  | some .uch => match uchAt p off with
    | some (n, o) => if o < 0x18 then some (s.outRate n) else none
    | none => none
  | some .sense => if off < 0xD00 then some (s.outRate ((off - 0x100) / 0x20)) else some .skim
  | some .pres => if off = 0x28 || off = 0x2C || off = 0x30 then none else some .lath
  | some .zone => match zoneAt p off, fenAt p off with
    | some (_, o), _ => if o = 0x34 then none else some .lath
    | none, some (_, o) => if o = 4 then none else some .lath
    | none, none => none
  | some .loop => match loopAt p off with
    | some (k, _) => some (if (s.loopSt k).skim then .skim else .lath)
    | none => none
  | some .tme => if 0x100 ≤ off && off % 0x20 = 0xC then none else some .lath
  | some .fan => match fanAt p off, drvAt p off with
    | some (g, o), _ => if o = 0x20 then none else some (s.outRate (96 + g))
    | none, some (g, o) => if o = 0x28 then some (s.outRate (96 + g)) else none
    | none, none => none
  | _ => none

/-- The registers whose waiting writes take effect at a capture edge: those of its rate; at a lath edge, which is also a skim
edge, all. -/
def takeHeld (s : State) (r : Rate) : State :=
  match r with
  | .lath => { s with held := [] }
  | .skim => { s with held := s.held.filter (fun p => s.regRate p.1 ≠ some .skim) }

end State
end Sys2Proof.Machine
end

