-- ==== Sys2Proof/Machine/Check.lean ====
section
/-! DEFINITION. The activation check (R27–R31): the pending configuration as image words and restore records make it, and the
checks that LATH runs on it. -/
set_option Elab.async false
namespace Sys2Proof.Machine
namespace State

/-! ### Words into the pending configuration (R307, R287) -/

def locked (s : State) (p : Nat) : Bool := s.bit ⟨rLock p, 0, 1⟩
/-- Pages on which BLK_CTRL.EN reads 1 and ignores writes, and SOFT_RST and GATE_REQ have no effect (R39, R52 and the page
rules of the chapters). -/
def fixedEn : Blk → Bool
  | .sys => true | .host => true | .lath => true | .pwr => true | .clk => true | .store => true | .peat => true
  | .nstore => true | .levee => true | .fault => true | .cal => true
  | _ => false
/-- The bits of a word that a write changes in the register face, by R46 and the RWL rule of a LOCKED page. -/
def writeMask (s : State) (d : RegDesc) (p : Nat) : Word := BitVec.ofNat 32 (d.rw ||| (if s.locked p then 0 else d.rwl))
def maskWrite (s : State) (a : Nat) (w : Word) : State :=
  match descAt a with
  | none => s
  | some d => let m := s.writeMask d (a / 0x1000); s.setWord a ((s.word a &&& ~~~m) ||| (w &&& m))
/-- Every register of a page but LOCK at its reset value (SOFT_RST, R49); the register faces only. -/
def pageFaces (s : State) (p : Nat) : State :=
  { s with regs := s.regs.filter (fun x => x.1 / 0x1000 ≠ p || x.1 = rLock p) }

/-- Reserved bits of a word of the schedule window (R268). -/
def schResv (off : Nat) : Word :=
  if off < 0xC000 then (match off / 4 % 3 with | 0 => 0x0007F800#32 | 2 => 0x00003F80#32 | _ => 0#32)
  else if off < 0xD000 then (if off % 8 = 0 then 0x030000FF#32 else 0x0000F0E0#32)
  else match off / 4 % 4 with | 0 => 0x03FFC000#32 | 1 => 0#32 | _ => 0xFFFFFFFF#32
/-- A write to the schedule window (R268, R269). -/
def schWinWrite (s : State) (off : Nat) (w : Word) (image : Bool) : State :=
  if 0xD400 ≤ off then s else
  let r := schResv off
  let s := if w &&& r ≠ 0 && !image then s.blkErr 0x69 0x05 true off else s
  { s with tab := { s.tab with pend := Map.put (fun _ => 0#32) s.tab.pend (off / 4) (w &&& ~~~r) } }
/-- STRM_CFG defines the stream that STRM_SEL names, for the next activation (R353, R365). -/
def strmWrite (s : State) (w : Word) : State :=
  if s.locked 0x7D then s else
  let i := s.get fPdirStrmSelIndex
  let m : Word := 0x803FFFFF#32
  s.updDlv (fun d => { d with pend := Map.put strmDflt d.pend i (w &&& m) })

/-- One word applied to the pending configuration. -/
def pendWord (s : State) (a : Nat) (w : Word) : State :=
  let p := a / 0x1000
  match winOf a with
  | some 1 => if (a - 0x100000) / 4 % 8 ≤ 4 then s.pdirWrite (a - 0x100000) w true else s
  | some 3 => s.blkWrite (a - 0x1C0000) w
  | some 4 => s.schWinWrite (a - 0x1E0000) w true
  | some _ => s
  | none =>
    match blkOfPage p with
    | none => s
    | some b =>
      if a % 0x1000 = 4 then
        if fixedEn b then s else
        let s := if bitAt w 1 && !s.locked p then s.pageFaces p else s
        s.setB (fBlkEn p) (bitAt w 0)
      else if a % 0x1000 < 0x20 then s
      else if a = rPdirStrmCfg then s.strmWrite w
      else s.maskWrite a w

/-- The pending configuration of an activation: no written field waits for a capture edge. -/
def pendView (s : State) : State := { s with held := [] }

/-! ### Budget (R29–R31) -/

def sumL (l : List Nat) : Nat := l.foldl (· + ·) 0
/-- Cycles of a sense context (R29). -/
def senseCost (s : State) (n : Nat) : Nat :=
  (match s.get (fSenseCfgXform n) with | 2 => 90 | 3 => 120 | 4 => 160 | 5 => 160 | 6 => 260 | _ => 60)
    + (if s.get (fSenseFiltTau n) = 0 then 0 else 40)
/-- Channels whose mode acts: no odd member of a configured FLT pair. -/
def cfgMode (s : State) (n : Nat) : Nat := if n % 2 = 1 && s.get (fUchCfgMode (n - 1)) = 0xD then 0 else s.get (fUchCfgMode n)
/-- Capture, commit, SENSE, loop and governor costs of one rate. -/
def rateCost (s : State) (skim : Bool) : Nat :=
  let chs := (List.range 96).filter (fun n => s.bit (fUchCfgSkim n) = skim)
  let gov := (List.range 24).filter (fun g => s.bit (fFanCfgEn g))
  let drv := (gov.filter (fun g => s.bit (fFanDrvDrvEn g))).map (fun g => s.get (fFanDrvDrive g))
  let ch (n : Nat) : Nat :=
    (if isIn (s.cfgMode n) then 40 else if isOut (s.cfgMode n) && !drv.contains n then 60 else 0)
      + (if s.bit (fSenseCfgEn n) then s.senseCost n else 0)
  let lp (k : Nat) : Nat := match s.get (fLoopCfgType k) with
    | 1 => 180 | 2 => 160 | 3 => 60 | 4 => 220
    | _ => 100 + 40 * ((s.loopBinds k).filter (fun w => bitsOf w 30 2 ≠ 0)).length
  let fan (g : Nat) : Nat := 350 + 30 * ((List.range 16).filter (fun m => s.bit (fFanMemValid g m))).length
    + (if s.bit (fFanDrvDrvEn g) then 60 else 0)
  sumL (chs.map ch) + sumL ((s.loopsOf skim).map lp) + sumL ((gov.filter (fun g => s.bit (fFanCfgSkim g) = skim)).map fan)
/-- The most zone steps that the spread of R184 places in one lath frame of `l` µs. -/
def mostSteps (s : State) (l : Nat) : Nat :=
  let f := s.get fTmeCfgStep * 1000000 / l
  if f < 96 then ceilDiv 96 f else 1
def totals (s : State) (dir net tab strm : Map Word) : Nat × Nat :=
  let skim := 4000 + s.rateCost true
  let cnt (f : Nat → Bool) (n : Nat) : Nat := ((List.range n).filter f).length
  let maps := sumL ((List.range 4).map (fun p => cnt (fun e => s.bit (fRbusMap0En p e)) 256))
  let pres := sumL ((List.range 96).map (fun z =>
    let k := cnt (fun i => s.get (fPresSrcKind z i) ≠ 0) 6
    if k = 0 then 0 else 300 + 80 * k))
  let (e, x) := schCounts tab
  let es := entries dir
  let pub := es.filter (fun i => entLocal dir i && entPubEn dir i)
  let pubE := (pub.filter (fun i => !entClassT dir i)).length
  let lath := 20000 + s.rateCost false + 50 * maps + pres + 400 * cnt (fun z => s.bit (fZoneCfgEn z)) 96 + s.blkCost net
    + 600 * s.mostSteps (10000 * s.get fLathPendPeriodPeriod)
    + 20 * max e (s.get fSchedReserveResE) + 10 * max x (s.get fSchedReserveResX)
    + 30 * pub.length + 120 * min (s.get fPdirPubCapCap) pubE + 120 * (enabledStreams strm).length
    + 40 * (es.filter (fun i => entRemote dir i)).length
  (lath + 10 * skim, skim)
/-- R31 at operating point `op` with lath period `l` µs. -/
def opFits (l op lath skim : Nat) : Bool :=
  decide (100 * lath ≤ 70 * (l * (100 * (op + 1)))) && decide (100 * skim ≤ 60 * (l / 10 * (100 * (op + 1))))

/-! ### References (R27, R154, R168, R207, R370) -/

/-- Types that have an output 1 (the catalogue of *The block network*). -/
def hasOut1 (t : Nat) : Bool :=
  [0x01, 0x04, 0x05, 0x06, 0x0C, 0x0D, 0x15, 0x16, 0x17, 0x1B, 0x1C, 0x1D, 0x1E, 0x1F, 0x24, 0x25, 0x26, 0x27, 0x2D, 0x2E,
   0x30, 0x31, 0x32, 0x34, 0x35, 0x36, 0x37, 0x38, 0x39, 0x3A, 0x3B, 0x3F].contains t
/-- A handle names something. -/
def handleOk (s : State) (dir net : Map Word) (h : Nat) : Bool :=
  if h < 0x4000 then entValid dir h
  else if h < 0x6000 then
    let i := (h - 0x4000) / 2
    blkOn net i && (h % 2 = 0 || hasOut1 (blkRec net i).typ)
  else if h < 0x6100 then true
  else if 0x7000 ≤ h && h < 0x7200 then s.get (fLoopCfgType (h - 0x7000)) ≠ 0
  else if 0x7800 ≤ h && h < 0x7B00 then s.bit (fZoneCfgEn ((h - 0x7800) / 8))
  else h = 0xFFFF
/-- Every engine output that the configuration names (R370). -/
def writersOf (s : State) (net tab : Map Word) : List Nat :=
  let run (b n : Nat) : List Nat := (List.range n).map (fun i => b + i)
  ((List.range 96).filter (fun n => s.bit (fSenseCfgEn n))).map (fun n => s.get (fSenseCfgPoint n))
  ++ (List.range 4).flatMap (fun p => ((List.range 256).filter (fun e => s.bit (fRbusMap0En p e) && !s.bit (fRbusMap0Dir p e))).map
      (fun e => s.get (fRbusMap1Point p e)))
  ++ ((List.range 96).filter (fun z => s.bit (fZoneCfgEn z) && s.bit (fZonePtBasePub z))).flatMap
      (fun z => run (s.get (fZonePtBaseBase z)) 10)
  ++ ((List.range 32).filter (fun f => s.bit (fZoneFencfgPub f))).flatMap (fun f => run (s.get (fZoneFencfgPtBase f)) 8)
  ++ (s.loopsOn.filter (fun k => s.bit (fLoopOutPtPub k))).map (fun k => s.get (fLoopOutPtPoint k))
  ++ ((List.range 96).filter (fun z => s.bit (fTmeMcfgEn z) && s.bit (fTmePtsPub z))).flatMap (fun z => run (s.get (fTmePtsBase z)) 7)
  ++ ((List.range 24).filter (fun g => s.bit (fFanCfgEn g) && s.bit (fFanPtBasePub g))).flatMap
      (fun g => run (s.get (fFanPtBaseBase g)) 5)
  ++ ((blkAll net).filter (fun i => (blkRec net i).typ = 3)).map (fun i => (blkRec net i).arg)
  ++ ((schScheds tab).filter (fun k => hdrKind tab k = 5)).map (fun k => hdrTarget tab k)
/-- First directory entry refused (R353, R367, R370, R373, R379, R331). -/
def dirBadRef (s : State) (dir strm : Map Word) (ws : List Nat) : Option Nat :=
  let es := entries dir
  let rems := es.filter (fun i => entKind dir i = 3)
  let groups := (((rems.map (fun i => entGroup dir i)).filter (fun g => g ≠ 0))
    ++ ((List.range 16).filter (fun k => s.bit (fFabGrpEn k))).map (fun k => s.get (fFabGrpGroup k))).filter (fun g => g ≠ 0xFFFF)
  let target (i : Nat) : Bool :=
    let ref := entW dir i 1
    let n := bitsOf ref 0 8
    bitsOf ref 8 22 = 0 && (match bitsOf ref 30 2 with
      | 1 => n < 96 && isOut (s.cfgMode n)
      | 2 => n < 24 && s.bit (fFanCfgEn n) && s.bit (fFanDrvDrvEn n)
      | 3 => n < 96 && s.bit (fZoneCfgEn n)
      | _ => false)
  let bad (i : Nat) : Bool :=
    let k := entKind dir i
    let ref := (entW dir i 1).toNat
    let g := entGroup dir i
    4 ≤ k || 0x10 ≤ entUnit dir i
      || (k = 2 && !target i)
      || (k = 3 && (ref / 0x10000 = 0 || ref / 0x10000 = s.get fFabAddrAddr || 0x3FFF < ref % 0x10000
          || rems.any (fun j => j < i && (entW dir j 1).toNat = ref)))
      || (k ≤ 2 && entPubEn dir i && entClassT dir i && (!bitAt (Map.look strmDflt strm (entStream dir i - 1)) 31
          || 8 < (strmPoints dir (entStream dir i - 1)).length))
      || (!(k ≤ 2 && entClassT dir i) && g ≠ 0 && (g < 0xF000 || g = 0xFFFF))
  let out (i : Nat) : Bool := !(entValid dir i && entKind dir i = 0) || 1 < ws.count i
  let first := ((es.filter bad) ++ (ws.filter out)).min?
  if first.isSome then first
  else if 16 < groups.eraseDups.length then some 0 else none

/-! ### The check (R27) -/

/-- What the check answers: cause, engine, item, totals, operating point and the block order. -/
structure Verdict where
  cause : Nat := 0
  engine : Nat := 0
  item : Nat := 0
  lath : Nat := 0
  skim : Nat := 0
  op : Nat := 0
  order : List Nat := []
deriving DecidableEq, Repr

def refBad (s : State) (dir net tab strm : Map Word) : Option (Nat × Nat) :=
  let isLocal (i : Nat) : Bool := entLocal dir i
  let ws := s.writersOf net tab
  let own (i : Nat) : Bool := isLocal i && ws.count i ≤ 1
  let unit (i : Nat) : Nat := if entValid dir i then entUnit dir i else 0xFFFF
  let entry (i : Nat) : Bool := entValid dir i
  let ok (h : Nat) : Bool := s.handleOk dir net h
  let tag (e : Nat) (o : Option Nat) : Option (Nat × Nat) := o.map (fun i => (e, i))
  [ (fun _ => tag 2 (s.senseBadRef isLocal)),
    (fun _ => tag 3 ((List.range 4).findSome? (fun p => (s.rbBadRef isLocal p).map (fun e => 256 * p + e)))),
    (fun _ => tag 4 (s.presBadRef entry unit)),
    (fun _ => tag 5 (s.tmeBadRef entry isLocal unit)),
    (fun _ => tag 6 (s.blkBadRef net ok own)),
    (fun _ => tag 7 (s.loopBadRef ok own)),
    (fun _ => tag 8 (s.zoneBadRef unit own)),
    (fun _ => tag 9 (s.fanBadRef net (fun h => ok h) own)),
    (fun _ => tag 0xB (s.dirBadRef dir strm ws)),
    (fun (_ : Unit) => tag 0xC (s.schBadRef tab isLocal)) ].findSome? (fun f => f ())
/-- A channel whose output interval does not divide the period of its frame rate (RATE_SLOW). -/
def slowChan (s : State) : Option Nat :=
  let l := 10000 * s.get fLathPendPeriodPeriod
  (List.range 96).find? (fun n => s.cfgMode n ≠ 0 &&
    (let t := rateUs (s.get (fUchCfgRate n))
     let per := if s.bit (fUchCfgSkim n) then l / 10 else l
     decide (per < t) || per % t ≠ 0))
/-- The checks in their running order, on a pending configuration with its directory, network, tables and streams. -/
def lathCheck (s : State) (dir net tab strm : Map Word) : Verdict :=
  let period := s.get fLathPendPeriodPeriod
  if period = 0 || 100 < period then { cause := 6 } else
  match s.refBad dir net tab strm with
  | some (e, i) => { cause := 3, engine := e, item := i }
  | none =>
  let (order, cyc) := blkOrder net
  match cyc, (s.loopOrder false).2, (s.loopOrder true).2 with
  | some i, _, _ => { cause := 2, engine := 6, item := i }
  | none, some k, some j => { cause := 2, engine := 7, item := min k j }
  | none, some k, none => { cause := 2, engine := 7, item := k }
  | none, none, some k => { cause := 2, engine := 7, item := k }
  | none, none, none =>
  match s.slowChan with
  | some n => { cause := 5, engine := 1, item := n }
  | none =>
  let on := enabledStreams strm
  if 1024 < on.length then { cause := 4, engine := 0xB, item := 1024 } else
  match (s.planAll strm (10 * period)).1 with
  | some i => { cause := 4, engine := 0xB, item := i }
  | none =>
  let (lath, skim) := s.totals dir net tab strm
  match (List.range (s.get fPwrStatOpMax + 1)).find? (fun op => opFits (10000 * period) op lath skim) with
  | none => { cause := 1, lath := lath, skim := skim }
  | some op => { lath := lath, skim := skim, op := op, order := order }

end State
end Sys2Proof.Machine
end

