-- ==== Sys2Proof/Machine/Reset.lean ====
section
/-! DEFINITION. Reset and start-up (R477–R493): what a reset restarts and keeps, its release, and the release of the core. -/
set_option Elab.async false
namespace Sys2Proof.Machine

/-- Cold resets (R477). -/
def isCold (c : Nat) : Bool := c = 1 || c = 2
/-- Registers that a reset keeps: PWR.RST_INFO but for power-on reset (R451); in a warm reset FAULT.FS_STAT (R417), the
CORE_SRC sample and its consequences (R482), CLK_AON's source (R477), CAL.STAT.SET; and STORE.LAST_RUN (R282). -/
def keptRegs (cold power : Bool) : List Nat :=
  (if power then [] else [rPwrRstInfo]) ++ [rStoreLastRun, rStoreLastRunAddr]
    ++ (if cold then [] else [rSysStraps, rPwrVcore, rCalStat])

namespace State

/-- The cause recorded when `cause` is asserted (R480). -/
def resetCause (s : State) (cause : Nat) : Nat :=
  let old := s.get fSysRstCauseCause
  if cause = 9 then 9
  else if s.boot.rst.isSome && s.boot.rstAt = s.now && s.boot.rst ≠ some 9 then min cause old
  else if !s.boot.first && s.boot.cold && !isCold cause && s.boot.rst ≠ some 9 then old
  else cause

/-- The stores as a reset leaves them: the page and the cells in progress complete unless power was lost without PFW, and
then whether they do is free (R281, R282, R298, R477). -/
def resetStores (s : State) (cause : Nat) : State :=
  let lost := cause = 1 && !s.bit fPwrStatPfw
  let (ok, s) := if lost then s.freeBool 20 else (true, s)
  let s := s.storeStop (if s.sto.stop = some 2 then 2 else 3)
  let s := if s.sto.cur.isSome then s.pageDone ok else s
  s.peatCut ok

/-- The source whose end releases the device once `cause` is asserted: a cold reset waits for its supply whatever else is
asserted meanwhile (R479, R480). -/
def releaseSource (s : State) (cause : Nat) : Nat :=
  if s.boot.rst.isSome && isCold s.boot.heldBy && !isCold cause then s.boot.heldBy else cause

/-- A reset is asserted (R477, R478, R480). -/
def assertReset (s : State) (cause : Nat) : State :=
  let code := s.resetCause cause
  let cold := isCold cause || (s.boot.cold && !s.boot.first)
  let s := s.resetStores cause
  let kept := keptRegs cold (cause = 1)
  let old := s
  let ents := s.sto.ents.map (fun p => (p.1, ({ a := p.2.a, b := p.2.b, cells := p.2.cells } : PEnt)))
  let s : State := {
    pending := old.pending, uid := old.uid, fresh := old.fresh, now := if cold then 0 else old.now
    regs := old.regs.filter (fun p => kept.contains p.1)
    lev := { devKey := old.lev.devKey }
    key := { fixed := old.key.fixed }
    pwr := { coreSrc := old.pwr.coreSrc }
    clk := { hrcQual := false, counts := !cold, railsUp := if cold then none else old.clk.railsUp }
    sto := { slots := old.sto.slots, journal := old.sto.journal, runId := old.sto.runId, ents := ents,
             wpHigh := old.sto.wpHigh }
    nst := { slotA := old.nst.slotA, slotB := old.nst.slotB, aud := old.nst.aud, audSeq := old.nst.audSeq,
             audErased := old.nst.audErased, segs := old.nst.segs, segNum := old.nst.segNum,
             erasedRecs := old.nst.erasedRecs, spares := old.nst.spares }
    boot := { rst := some code, coreRst := true, rstN := old.boot.rstN, cold := cold, rstAt := if cold then 0 else old.now
              heldBy := s.releaseSource cause
              lowCore := !isCold cause && old.boot.lowCore } }
  let s := s.set fSysRstCauseCause code
  let s := if cold then s else
    let s := s.set fFaultFsStatTrig (old.get fFaultFsStatTrig)
    let s := s.set fFaultFsStatTrips (old.get fFaultFsStatTrips)
    let s := s.set fSysStrapsServiceN 0
    let s := s.set fSysStrapsBootSafeN 0
    let s := s.setB fCalStatSet (old.bit fCalStatSet)
    let s := s.setB fClkStatLxoOk (old.bit fClkStatLxoOk)
    let s := s.setB fClkStatAonSrc (old.bit fClkStatAonSrc)
    let s := s.setB fPwrStatExtCore (old.bit fPwrStatExtCore)
    s.set fPwrStatOpMax (old.get fPwrStatOpMax)
  let s := s.set fNstoreAudSeqValue old.nst.audSeq
  let s := s.set fNstoreTrdOldLoValue (old.get fNstoreTrdOldLoValue)
  let s := s.set fNstoreTrdOldHiValue (old.get fNstoreTrdOldHiValue)
  let s := s.set fNstoreTrdRecLoValue (old.get fNstoreTrdRecLoValue)
  let s := s.set fNstoreTrdRecHiValue (old.get fNstoreTrdRecHiValue)
  let s := s.setB fSysStrapsWpN old.sto.wpHigh
  -- the operating point with an external core rail (R448)
  if cold then s else
  if s.get fPwrStatOpMax = 0 && s.bit fPwrStatExtCore then (s.set fLathStatOp 0).set fClkStatCoreDiv 3 else s

/-- A reset into SAFE_ROSC (R474): CLKFAIL, outputs off; only SYS, CLK and FAULT answer. -/
def safeRosc (s : State) : State :=
  let s := s.assertReset 9
  let s := s.setB fClkStatSafeRosc true
  let s := (s.set fClkStatTbSrc 2).set fClkQualHrcTries 9
  let s := { s with
    boot := { s.boot with rst := none, coreRst := false }
    clk := { s.clk with counts := true, hrcTrip := true } }
  s.clkFail

/-- CORE_SRC is sampled at the release of a cold reset; with it high VCORE_X is measured, a free value (R447, R448, R482;
log entry 10). -/
def sampleCore (s : State) (coreSrc : Bool) : State :=
  let s := { s with pwr := { s.pwr with coreSrc := coreSrc } }
  let s := (s.setB fSysStrapsCoreSrc coreSrc).setB fPwrStatExtCore coreSrc
  if !coreSrc then s.set fPwrStatOpMax 3 else
  let (v, s) := s.freeNat 30
  let mv := v % 65536
  let s := s.set fPwrVcoreXReset mv
  let top := if 1100 ≤ mv then 3 else if 1000 ≤ mv then 2 else if 900 ≤ mv then 1 else 0
  let s := s.set fPwrStatOpMax top
  let op := min 1 top
  let s := (s.set fLathStatOp op).set fClkStatCoreDiv (3 - op)
  { s with boot := { s.boot with lowCore := decide (mv < 850) } }

/-- A cold reset is released (R446, R479): HRC's qualification begins. -/
def coldRelease (s : State) (coreSrc : Bool) : State :=
  let s := s.sampleCore coreSrc
  { s with boot := { s.boot with rst := none }, clk := { s.clk with hrcQual := false, tries := 0 } }

/-- A warm reset is released: TIMEBASE resumes from the always-on counter, to within 31 µs (R487, R479). -/
def warmRelease (s : State) (at_ : Nat) : State :=
  let (d, s) := s.freeNat 31
  let t := max s.now at_
  { s with
    now := (t + d % 63) - 31
    boot := { s.boot with rst := none }
    clk := { s.clk with hrcQual := false, tries := 0, counts := true, railsUp := some t } }

/-- The core leaves reset (R484): straps are sampled, the scan, the fault manager and the key matrix start, the ports train.
Recall has begun; RECALL_DONE ends it. -/
def releaseCore (s : State) (serviceN bootSafeN : Bool) : State :=
  let s := { s with boot := { s.boot with coreRst := false, locked := true } }
  let s := (s.setB fSysStrapsServiceN serviceN).setB fSysStrapsBootSafeN bootSafeN
  let s := s.setWord (rIrqStat 0) (s.word (rIrqStat 0) ||| 1#32)
  let s := (List.range 8).foldl (fun s c => s.startScan c) s
  s.levFaces

/-- SAFE_ROSC, or a core held in reset: nothing but the SYS, CLK and FAULT pages works (R474, R478). -/
def coreOff (s : State) : Bool := s.boot.coreRst || s.bit fClkStatSafeRosc
/-- Frames, engines and the fabric run: the core is out of reset. -/
def alive (s : State) : Bool := !s.coreOff

/-- Reset is asserted by a warm cause at once (R478). -/
def warmReset (s : State) (cause : Nat) : State := s.assertReset cause

end State
end Sys2Proof.Machine
end

