-- ==== Sys2Proof/Machine/Activate.lean ====
section
/-! DEFINITION. Activation up to the switch edge: the image checks of ACTIVATE (R303, R306), the blocks applied (R307), the
restore list (R287), the LATH check (R27, R28, R32), start-up slot attempts (R309, R490) and the slot record (R308). -/
set_option Elab.async false
namespace Sys2Proof.Machine
namespace State

/-- A write block is good (R303). -/
def blockOk (a n : Nat) : Bool :=
  let inRange : Bool := if a < 0x100000 then
      decide (0x1000 ≤ a) && (blkOfPage (a / 0x1000)).isSome && !(a / 0x1000 = 0x04 || a / 0x1000 = 0x70 || a / 0x1000 = 0x80)
    else match winOf a with
      | some 1 => true | some 3 => true | some 4 => true | some 6 => true | _ => false
  let lock := decide (a < 0x100000) && decide (a % 0x1000 ≤ 0x18) && decide (0x18 < a % 0x1000 + 4 * n)
  a % 4 = 0 && decide (a < 0x1000000) && inRange && !lock && sizeOk a n
/-- A record of the restore list is not skipped whole (R287). -/
def recordOk (a n : Nat) : Bool :=
  (match winOf a with
    | none => decide (a < 0x100000)
    | some 1 => true | some 3 => true | some 4 => true | _ => false) && a % 4 = 0 && sizeOk a n
/-- The words of a block with their addresses. -/
def blockWords (a : Nat) (ws : List Word) : List (Nat × Word) := ws.mapIdx (fun i w => (a + 4 * i, w))
/-- Words of the image written to the block-network and schedule windows become pending records at once (R307). -/
def pendTables (s : State) (a : Nat) (w : Word) : State :=
  match winOf a with
  | some 3 => s.blkWrite (a - 0x1C0000) w
  | some 4 => s.schWinWrite (a - 0x1E0000) w true
  | _ => s

/-- The words of an image applied in order to a pending view, each judged by its own register; the first refused word's block
(R306 cause 0x9). -/
def judge (v : State) : List (Nat × Word × Nat) → Option Nat
  | [] => none
  | (a, w, b) :: t => if (v.wordRefuse a w false).isSome then some b else judge (v.pendWord a w) t

/-- The outcome of an activation that is refused. -/
def actRefused (s : State) (cause slot item sess src : Nat) : State :=
  let s := (s.actRes cause slot item).irq 0x72 2
  s.audit 5 sess cause src 0 (slot * 0x8000000 + item)

/-- The checks of R306 from NO_IMAGE on: the first failure, or the words of the blocks. -/
def imageCheck (s : State) (i : Nat) : Except (Nat × Nat) (List (Nat × Word × Nat)) :=
  let x := s.slot i
  let b := x.img
  if !x.valid then .error (3, 0)
  else if !imgMagicOk b then .error (4, 0)
  else if (b.getD 6 0).toNat ≠ 2 then .error (5, 0)
  else if !imgLengthOk b || b.length < imgLength b then .error (6, 0)
  else match imgBlocks b with
    | none => .error (6, 0)
    | some bs =>
      if !imgCrcOk b then .error (7, 0)
      else match bs.findIdx? (fun p => !blockOk p.1 p.2.length) with
        | some k => .error (8, k)
        | none =>
          let ws := (bs.mapIdx (fun k p => (blockWords p.1 p.2).map (fun q => (q.1, q.2, k)))).flatten
          match judge s.pendView ws with
          | some k => .error (9, k)
          | none => .ok ws

/-- Blocks applied: the activation waits for the LATH check. -/
def actBegin (s : State) (i : Nat) (startup : Bool) (sess src : Nat) (ws : List (Nat × Word × Nat)) : State :=
  let s := ws.foldl (fun s p => s.pendTables p.1 p.2.1) s
  { s with
    lath := { s.lath with act := some { slot := i, startup := startup, writes := ws, sess := sess, src := src } } }

/-- ACTIVATE.GO, or the authenticated command with the image CRC and GENERATION it names (R306). -/
def actStart (s : State) (i sess src : Nat) (digest : Option (Nat × Nat)) : State :=
  let x := s.slot i
  let bad := (digest.map (fun d => decide (d ≠ (imgU32 x.img 12, x.gen)))).getD false
  if s.nst.loading || s.lath.act.isSome || s.nst.recDue.isSome || !s.boot.first then s.actRefused 1 i 0 sess src
  else if bad then s.actRefused 2 i 0 sess src
  else match s.imageCheck i with
    | .error (c, k) => s.actRefused c i k sess src
    | .ok ws => (s.actBegin i false sess src ws).setB fNstoreStatActivating true

/-! ### Start-up (R309, R484, R490) -/

/-- Valid slots not yet tried, in the order of R309. -/
def nextSlot (s : State) : Option Nat :=
  let left := [0, 1].filter (fun i => (s.slot i).valid && !bitAt (s.word rNstoreStat) (4 + i))
  match left with
  | [] => none
  | [i] => some i
  | _ => if (s.slot 0).aseq < (s.slot 1).aseq then some 1 else some 0
/-- Every table at its reset value. -/
def clearTables (s : State) : State :=
  { s with
    net := { s.net with pend := [] }, tab := { s.tab with pend := [] }, dir := { s.dir with pend := [], liveW := [] }
    dlv := { s.dlv with pend := [] } }
/-- SAFE configuration is selected; it begins at the next lath edge (R490). -/
def selectSafe (s : State) (why : Nat) : State :=
  let s := s.clearTables
  let s := s.set fNstoreStatSafeWhy why
  let s := if why = 1 then s else s.raise 0xD001 0 .major
  { s with lath := { s.lath with safeSel := true, act := none, readyAt := s.now } }
/-- The next slot attempt begins, or SAFE configuration is selected. -/
def nextAttempt (s : State) : State :=
  match s.nextSlot with
  | none => s.selectSafe (if s.get fNstoreStatTried = 0 then 3 else 2)
  | some i =>
    let s := s.clearTables
    let s := s.set fNstoreStatTried (s.get fNstoreStatTried + 2 ^ i)
    match s.imageCheck i with
    | .error (c, k) =>
      let s := s.actRefused c i k 0xFE 0
      { s with lath := { s.lath with act := some { slot := i, startup := true, stage := .refused } } }
    | .ok ws => s.actBegin i true 0xFE 0 ws
/-- Slot selection at the release of the core reset (R309 steps 1 and 2). -/
def startSelect (s : State) : State :=
  if s.bit fSysStrapsBootSafeN then s.nextAttempt else s.selectSafe 1
/-- A slot attempt has ended: a refused one is followed by the next slot or by SAFE configuration; an accepted one waits for
E. -/
def slotAttemptDone (s : State) : State :=
  match s.lath.act with
  | some a => if a.startup && a.stage = .refused then ({ s with lath := { s.lath with act := none } }).nextAttempt else s
  | none => s

/-! ### The restore list (R287) -/

/-- The restore list joins the writes of the first attempt that reaches the LATH check. A word its register refuses is
skipped alone. -/
def applyRestore (s : State) (a : Activation) : State × Activation :=
  let (recs, trunc) := s.restoreList 0x8000 0x5000
  let good := recs.filter (fun r => recordOk r.1 r.2.length)
  let whole := (recs.filter (fun r => !recordOk r.1 r.2.length)).foldl (fun n r => n + r.2.length) 0
  let v := a.writes.foldl (fun v p => v.pendWord p.1 p.2.1) s.pendView
  let r := (good.flatMap (fun p => blockWords p.1 p.2)).foldl
    (fun (acc : State × List (Nat × Word × Nat) × Nat) p =>
      if !addrOk p.1 || (acc.1.wordRefuse p.1 p.2 false).isSome then (acc.1, acc.2.1, acc.2.2 + 1)
      else (acc.1.pendWord p.1 p.2, acc.2.1 ++ [(p.1, p.2, 0)], acc.2.2)) (v, [], whole)
  let ws := r.2.1
  let s := ws.foldl (fun s p => s.pendTables p.1 p.2.1) s
  let s := s.setB fStoreRestoreDone true
  let s := s.setB fStoreRestoreTrunc trunc
  let s := s.set fStoreRestoreSkip (min r.2.2 0x3FFF)
  let s := s.set fStoreRestoreWords (min ws.length 0xFFFF)
  ({ s with boot := { s.boot with restored := true } }, { a with writes := a.writes ++ ws, restored := true })

/-! ### The LATH check (R27, R28, R31, R32) -/

/-- The pending configuration of an activation: registers, directory, streams. -/
def actView (s : State) (a : Activation) : State := a.writes.foldl (fun v p => v.pendWord p.1 p.2.1) s.pendView
/-- The check of the activation in progress. -/
def activationCheck (s : State) : State :=
  match s.lath.act with
  | none => s
  | some a =>
    if a.stage ≠ .applied || (a.startup && !s.boot.restored && !s.sto.served) then s else
    let (s, a) := if a.startup && !s.boot.restored then s.applyRestore a else (s, a)
    let v := s.actView a
    let r := v.lathCheck v.dir.pend s.net.pend s.tab.pend v.dlv.pend
    let s := (s.set fLathActCauseCause r.cause).set fLathActDetailEngine r.engine
    let s := s.set fLathActDetailItem r.item
    let s := if r.cause ≤ 1 then (s.set fLathChkLathCycles r.lath).set fLathChkSkimCycles r.skim else s
    if r.cause ≠ 0 then
      let s := (s.irq 0x03 1).actRefused 0xA a.slot 0 a.sess a.src
      if a.startup then { s with lath := { s.lath with act := some { a with stage := .refused } } }
      else ({ s with lath := { s.lath with act := none } }).setB fNstoreStatActivating false
    else
      let s := s.actRes 0 a.slot 0
      let a := { a with stage := .accepted, dir := v.dir.pend, net := s.net.pend, sch := s.tab.pend, strm := v.dlv.pend, op := r.op, order := r.order }
      let s := { s with lath := { s.lath with act := some a, readyAt := s.now } }
      if s.get fLathStatOp < r.op then s.setOp r.op else s

/-! ### The slot record (R308) -/

/-- The record of the activated slot is written: its ASEQ, ACTIVE and ACT_DONE. -/
def slotRecord (s : State) : State :=
  match s.nst.recDue with
  | none => s
  | some i =>
    let s := { s with nst := { s.nst with recDue := none } }
    let s := s.setSlot i { s.slot i with aseq := ((s.slot (1 - i)).aseq + 1) % 2 ^ 24 }
    ((s.setActive i).irq 0x72 1).setB fNstoreStatActivating false

end State
end Sys2Proof.Machine
end

