-- ==== Sys2Proof/Machine/SoftRst.lean ====
section
/-! DEFINITION. BLK_CTRL (R49–R53, R469): soft reset of a page with the engine state behind it, engine enables and clock
gating. -/
set_option Elab.async false
namespace Sys2Proof.Machine
namespace State

/-! ### Soft reset (R49, R50; what is engine state of each block: DESIGN CHOICE, log entry 42) -/

/-- Every fault whose source belongs to a page clears. -/
def pageFaultsClear (s : State) (p : Nat) : State :=
  let q := (s.flt.flags ++ s.flt.ordQ ++ s.flt.critQ ++ (s.flt.proc.map Prod.fst).toList ++ (s.flt.susp.map Prod.fst).toList)
  let l := q.map (fun x => (x.code, x.inst)) ++ s.flt.active.map (fun r => (r.code, r.inst))
  (l.eraseDups.filter (fun x => srcPage x.1 x.2 = p)).foldl (fun s x => s.clearFault x.1 x.2) s
/-- The same change to the engine states and to their copies. -/
def modEng (s : State) (f : Eng → Eng) : State := { s with eng := f s.eng, engL := f s.engL, engS := f s.engS }
/-- The entries of a map whose key fails a test. -/
def dropKeys {α : Type} (m : Map α) (mine : Nat → Bool) : Map α := m.filter (fun x => !mine x.1)

/-- The twelve channels, the queue and the scan of a core start afresh (R126). -/
def convReset (s : State) (c : Nat) : State :=
  let seqs := (s.core c).seq
  let lost (g : Nat) : Bool := s.fanIo.req.any (fun r => r.1 = c && r.2.2 = g)
  let again (x : Nat × FanSt) : Nat × FanSt := if x.2.verify = 2 && lost x.1 then (x.1, { x.2 with verify := 1 }) else x
  let s := (s.setCore c { seq := seqs }).startScan c
  let s := (List.range 12).foldl (fun s i => s.modChan (12 * c + i) (fun x => { x with verify := false })) s
  let s : State := { s with
    net := { s.net with snReq := s.net.snReq.filter (fun r => r.1 ≠ c) }
    fanIo := { s.fanIo with req := s.fanIo.req.filter (fun r => r.1 ≠ c) } }
  s.modEng (fun e => { e with fan := e.fan.map again })

/-- The 24 channels of a page return to HIZ with empty arrays. -/
def uchReset (s : State) (p : Nat) : State :=
  (List.range 24).foldl (fun s i =>
    let n := 24 * (p - 8) + i
    let c := s.chan n
    let s := (List.range 7).foldl (fun s k => s.setLevel n (k + 1) none) s
    let s := [L0Owner.rdbk, .lswSc, .lswOt].foldl (fun s w => s.relL0 n w) s
    s.setChan n { started := c.started, staleTill := s.now, ron := c.ron }) s
/-- The engine state of a page of block `b` returns to its reset value. -/
def engReset (s : State) (b : Blk) (p : Nat) : State :=
  let i := p - b.first
  let inSpan (n : Nat) (k : Nat) : Bool := decide (k / n = i)
  match b with
  | .uch => s.uchReset p
  | .conv => s.convReset i
  | .sense => s.modEng (fun e => { e with sen := [] })
  | .rbus => s.setRport i {}
  | .pres => ({ s with pir := [] } : State).modEng (fun e => { e with pres := [] })
  | .zone => s.modEng (fun e => { e with zone := dropKeys e.zone (inSpan 6), zm := dropKeys e.zm (fun k => inSpan 6 (k / 8)) })
  | .loop =>
    let s := s.modEng (fun e => { e with loop := dropKeys e.loop (inSpan 16) })
    { s with
      loopsL := s.loopsL.filter (fun k => !inSpan 16 k), loopsS := s.loopsS.filter (fun k => !inSpan 16 k)
      loopPar := s.loopPar.filter (fun k => !inSpan 16 k) }
  | .tme => ({ s with tmeCmd := [] } : State).modEng (fun e => { e with tme := [], tmeG := {} })
  | .blk =>
    let fresh : Map BlkSt := (blkAll s.net.run).map (fun k => (k, { typ := (blkRec s.net.run k).typ }))
    ({ s with net := { s.net with retune := [], snReq := [], snRes := [], snImg := [] } } : State).modEng (fun e => { e with blk := fresh })
  | .fan =>
    let s := s.modEng (fun e => { e with fan := dropKeys e.fan (inSpan 8) })
    let io : FanIo := {
      req := s.fanIo.req.filter (fun r => !inSpan 8 r.2.2)
      res := dropKeys s.fanIo.res (inSpan 8)
      cmds := s.fanIo.cmds.filter (fun r => !inSpan 8 r.1) }
    let s : State := { s with fanIo := io }
    (List.range 8).foldl (fun s k =>
      let o := 96 + 8 * i + k
      let s := (List.range 7).foldl (fun s j => s.setLevel o (j + 1) none) s
      (s.relL0 o .gov).relL0 o .blocked) s
  | .sched => ({ s with tab := { s.tab with apply := none } } : State).modEng (fun e => { e with sch := {} })
  | .fab =>
    let s := (List.range 4).foldl (fun s q => s.setPstate q 0) s
    ({ s with fab := {} } : State).fabStart
  | .fport => (s.setPstate i 0).setPort i {}
  | .pdir =>
    ({ s with dlv := { pend := s.dlv.pend }, dir := { pend := s.dir.pend, run := s.dir.run } } : State).dirFaces
  | .key => { s with key := { fixed := s.key.fixed } }
  | .epd =>
    let up := s.railsOn
    let s := s.updEpd (fun e => { win := e.win, cur := e.cur, rails := if up then .falling 0 else .down, railT := s.now })
    s.epdFaces
  | _ => s

/-- SOFT_RST takes the block's engine state and every register of the page but LOCK back to reset (R49, R50). -/
def softReset (s : State) (p : Nat) : State :=
  match blkOfPage p with
  | none => s
  | some b =>
    let s := s.pageFaultsClear p
    let s := if b = .fab || b = .fport then s.engReset b p else s
    let s := s.pageFaces p
    let s : State := { s with
      held := s.held.filter (fun x => x.1 / 0x1000 ≠ p)
      frozen := s.frozen.filter (fun x => x.1 / 0x1000 ≠ p)
      softRst := s.softRst.filter (fun x => x.1 ≠ p) ++ [(p, s.now)] }
    let s := if b = .fab then s.fabStart else if b = .fport then s else s.engReset b p
    s.setB (fBlkBusy p) true
/-- A soft reset ends, at most 100 µs after it began (R50). -/
def softResetEnd (s : State) (p : Nat) : State :=
  match s.softRst.lookup p with
  | none => s
  | some t =>
    let s := s.at_ (t + 100)
    ({ s with softRst := s.softRst.filter (fun x => x.1 ≠ p) } : State).setB (fBlkBusy p) false

/-! ### Enables and gating (R51, R469) -/

/-- Blocks whose engine runs in a frame: EN_ACK follows at the next lath edge (R51). -/
def frameBlk : Blk → Bool
  | .uch => true | .sense => true | .pres => true | .zone => true | .loop => true | .tme => true | .blk => true
  | .fan => true | .sched => true | .pdir => true
  | _ => false
/-- A held request gates the page's clocks once EN_ACK reads 0. -/
def tryGate (s : State) (p : Nat) : State :=
  if s.bit (fBlkGateReq p) && !s.enAck p && !s.bit (fBlkGated p) then s.setB (fBlkGated p) true else s
/-- EN of a page whose engine does not run in a frame acts within 10 µs. -/
def enNow (s : State) (b : Blk) (p : Nat) : State :=
  let i := p - b.first
  let on := s.en p
  match b with
  | .conv =>
    let s := s.setB (fBlkEnAck p) on
    if on && !(s.core i).run then s.startScan i else s
  | .rbus => s.rbEnable i
  | .fport => (s.setB (fBlkEnAck p) on).portEnable i
  | .fab => (List.range 4).foldl (fun s q => s.portEnable q) (s.setB (fBlkEnAck p) on)
  | .key => let s := s.setB (fBlkEnAck p) on; if on then s else s.keyStop
  | .epd => let s := s.setB (fBlkEnAck p) on; if on then s.railsAsk else s
  | _ => s
/-- A lath edge takes EN of the frame pages (R51); held gate requests act (R469). -/
def takeEn (s : State) : State :=
  (allBlks.filter frameBlk).foldl (fun s b =>
    (List.range b.count).foldl (fun s i =>
      let p := b.first + i
      (s.setB (fBlkEnAck p) (s.en p)).tryGate p) s) s

end State
end Sys2Proof.Machine
end

