-- ==== Sys2Proof/Machine/Access.lean ====
section
/-! DEFINITION. What a read of a word answers and what a written word does, register by register and window by window (R46–R56,
R63, R70, R517 and the register tables of the chapters). Transactions stand in HostPort. -/
set_option Elab.async false
namespace Sys2Proof.Machine
namespace State

/-! ### Reads -/

/-- The address is the LO register of a 64-bit pair whose HI follows it (R6, R47). -/
def pairLo (a : Nat) : Bool :=
  [rClkTbLo, rLathFrameLo, rSysUidLo, rCalSecLo, rCalLocal 0, rPeatValLo, rNstoreTrdOldLo, rNstoreTrdRecLo, rFabRootLo,
   rLeveeTxLo, rLeveeTopLo, rLeveeCmdEchoLo, rLeveeSessUidLo, rLeveeSessHiLo, rKeyImageLo].contains a
  || (match blkOfPage (a / 0x1000), a % 0x1000 with
      | some .conv, o => a < 0x100000 && (o = 0x28 || (0x100 ≤ o && o < 0x1C0 && o % 16 = 0))
      | some .fport, o => a < 0x100000 && o = 0x28
      | some .loop, o => a < 0x100000 && 0x100 ≤ o && o < 0x900 && o % 0x80 = 0x60
      | some .fault, o => a < 0x100000 && 0x400 ≤ o && o < 0xC00 && o % 16 = 8
      | _, _ => false)
  || (winOf a = some 1 && a % 32 = 24)
  || (winOf a = some 5 && (a % 0x200 = 0xA0 || a % 0x200 = 0xA8))

/-- SYS.IRQ_SUM (R57). -/
def irqSum (s : State) : Word :=
  let on (b : Blk) : Bool := (List.range b.count).any (fun i =>
    s.word (rIrqStat (b.first + i)) &&& s.word (rIrqEn (b.first + i)) ≠ 0)
  BitVec.ofNat 32 ((allBlks.map (fun b => if on b then 2 ^ b.sumBit else 0)).foldl (· + ·) 0
    + (if s.word rSysNmeStat ≠ 0 then 2 ^ 31 else 0))
def wordOfInt (v : Int) : Word := BitVec.ofInt 32 v
/-- A level of a priority array as its register reads. -/
def lvWord (s : State) (out lv : Nat) : Word := wordOfInt ((s.level out lv).getD 0)

/-- UCHn.STAT: EVENTS counts the last 60 s as they stand now, and the array of a channel that is no output is empty. -/
def chanStat (s : State) (n : Nat) : Word :=
  let w := s.word (rUchStat n)
  let w := bitsSet w 4 2 (min 3 ((s.chan n).events.filter (fun e => s.now < e.2 + 60000000)).length)
  if s.isOutput n then w else bitsSet (bitsSet w 28 3 7) 27 1 1
/-- A register as it stands now. A read of a monitor takes a free value; a read of KEY.EVT takes the oldest event. -/
def regRead (s : State) (a : Nat) : Word × State :=
  let p := a / 0x1000
  let off := a % 0x1000
  let lo (v : Nat) : Word := BitVec.ofNat 32 v
  let hi (v : Nat) : Word := BitVec.ofNat 32 (v / 2 ^ 32)
  if off < 0x20 then (s.word a, s) else
  match blkOfPage p with
  | some .sys =>
    (if a = rSysIrqSum then s.irqSum else if a = rSysUidLo then lo s.uid else if a = rSysUidHi then hi s.uid else s.word a, s)
  | some .pwr => (if a = rPwrStepView then s.stepView else s.word a, s)
  | some .clk =>
    if a = rClkTbLo then (lo s.now, s) else if a = rClkTbHi then (hi s.now, s)
    else if a = rClkMonMosc || a = rClkMonLxo || a = rClkMonHrc then
      let (v, s) := s.freeNat 7
      (BitVec.ofNat 32 (v % 65536), s)
    else (s.word a, s)
  | some .uch => match uchAt p off with
    | some (n, o) =>
      let own := s.isOutput n && (s.driveGov n).isNone
      (if 0x30 ≤ o && o < 0x50 then s.lvWord n ((o - 0x30) / 4)
       else if a = rUchStat n then s.chanStat n
       else if o = 0x50 then BitVec.ofNat 32 (if own then s.heldMask n else s.heldMask n % 2) else s.word a, s)
    | none => (s.word a, s)
  | some .fan => match drvAt p off with
    | some (g, o) =>
      (if o < 0x20 then s.lvWord (96 + g) (o / 4) else if o = 0x20 then BitVec.ofNat 32 (s.heldMask (96 + g)) else s.word a, s)
    | none => (s.word a, s)
  | some .cal =>
    (if a = rCalSecLo then lo s.calSec else if a = rCalSecHi then hi s.calSec
     else if a = rCalLocal 0 then s.calLocal 0 else if a = rCalLocal 1 then s.calLocal 1 else s.word a, s)
  | some .blk => (if a = rBlkNetStat then bitsSet (s.word a) 31 1 (if s.blkDirty then 1 else 0) else s.word a, s)
  | some .peat =>
    (if a = rPeatValLo then lo s.peatVal else if a = rPeatValHi then hi s.peatVal
     else if a = rPeatEstat then s.peatEstat else s.word a, s)
  | some .levee => (s.levFaces.sessLive.word a, s)
  | some .key => if a = rKeyEvt then s.keyRead else (s.keyFaces.word a, s)
  | _ => (s.word a, s)

/-- The bits of a register that FREEZE holds: those that only the device writes. -/
def frozenMask (a : Nat) : Word := match descAt a with | some d => BitVec.ofNat 32 (d.ro ||| d.w1c) | none => 0
/-- A register as a read answers it (R49). -/
def readReg (s : State) (a : Nat) : Word × State :=
  match Map.look (fun _ => none) s.frozen a with
  | none => s.regRead a
  | some f =>
    let m := frozenMask a
    if m = 0xFFFFFFFF#32 || a = rKeyEvt then (f, s)
    else
      let (w, s) := s.regRead a
      ((f &&& m) ||| (w &&& ~~~m), s)
/-- A word of a window. -/
def winRead (s : State) (a : Nat) : Word :=
  match winOf a with
  | some 1 => s.pdirRead (a - 0x100000)
  | some 2 => if 0x38000 ≤ a - 0x180000 && a - 0x180000 < 0x3C000 then 0 else s.storeWord (a - 0x180000)
  | some 3 => Map.look (fun _ => 0#32) s.net.pend ((a - 0x1C0000) / 4)
  | some 4 => Map.look (fun _ => 0#32) s.tab.pend ((a - 0x1E0000) / 4)
  | some 5 => s.tmeRead (a - 0x1F0000)
  | some 6 => s.epdRead (a - 0x200000)
  | _ => 0
def readLive (s : State) (a : Nat) : Word × State := if a < 0x100000 then s.readReg a else (s.winRead a, s)

/-- One word of a READ under the snapshot rule (R47). -/
def readWord (s : State) (a : Nat) : Word × State :=
  match s.port.snap with
  | some (h, w, t) =>
    if h = a && s.now ≤ t + 1000 then (w, { s with port := { s.port with snap := none } })
    else if pairLo a then
      let hi := (s.readLive (a + 4)).1
      let (w, s) := s.readLive a
      (w, { s with port := { s.port with snap := some (a + 4, hi, s.now) } })
    else s.readLive a
  | none =>
    if pairLo a then
      let hi := (s.readLive (a + 4)).1
      let (w, s) := s.readLive a
      (w, { s with port := { s.port with snap := some (a + 4, hi, s.now) } })
    else s.readLive a
/-- The words of a READ, sampled as one image (R58). -/
def readWords : Nat → State → Nat → List Word × State
  | 0, s, _ => ([], s)
  | n + 1, s, a =>
    let (w, s) := s.readWord a
    let (ws, s) := readWords n s (a + 4)
    (w :: ws, s)

/-! ### Writes -/

/-- Where a written word comes from: the host port, a REG_WRITE command of the levee (with its session and source, and whether a
peer sent it), or a word of a configuration image at its switch edge. -/
structure Writer where
  peer : Bool := false
  cmd : Bool := false
  sess : Nat := 0xFF
  src : Nat := 0
  image : Bool := false
deriving DecidableEq, Repr

/-- LATH.CTRL.MISS_CLR (R38). -/
def missClr (s : State) : State :=
  if s.get fLathStatMissRun ≠ 0 || !s.bit fLathStatFailsafe then s else
  let s := s.setB fLathStatFailsafe false
  let held := s.flt.tjHeld || s.flt.stopped || s.pwr.pfwAt.isSome || s.flt.active.any (fun r => r.code = 5)
  let s := if held then s else (s.stageRelease .path).setB fFaultFsStatActive false
  s.clearFault 4 0
/-- NME bits that host software clears while their condition persists are set again (R70). -/
def nmeAgain (s : State) : State :=
  let put (s : State) (f : Field) (on : Bool) : State := if on then s.set f 1 else s
  let s := put s fSysNmeStatClkfail s.clkFailed
  let s := put s fSysNmeStatPfw s.pwr.pfwAt.isSome
  let s := put s fSysNmeStatTjCrit s.flt.tjHeld
  let s := put s fSysNmeStatLathMiss (s.bit fLathStatFailsafe)
  put s fSysNmeStatSramUncorr (s.flt.active.any (fun r => r.code = 5))
/-- FLT_CLR (R94, R97). -/
def fltClr (s : State) (n : Nat) (w : Word) : State :=
  let s := if bitAt w 5 then s.clearLatched n 6 else s
  let s := if bitAt w 6 then s.clearLatched n 7 else s
  let s := if bitAt w 7 then s.clearLatched n 8 else s
  if bitAt w 3 && (s.chan n).hizProt && (s.chan n).belowSince.isSome then s.upChan n (fun c => { c with reenter := true }) else s
/-- A host or peer write to levels waits for the capture edge (R18). -/
def putLv (s : State) (out lv : Nat) (v : Option Int) : State :=
  { s with hostLv := s.hostLv ++ [{ out := out, lv := lv, v := v }] }
/-- PRI_REL: bit k relinquishes level k (R87). -/
def relLv (s : State) (out : Nat) (w : Word) : State :=
  (List.range 7).foldl (fun s k => if bitAt w (k + 1) then s.putLv out (k + 1) none else s) s
/-- KEY_CMD (R397): provisioning of the site key. Any write clears KEY_IN. -/
def keyCmd (s : State) (w : Word) : State :=
  let key := beBytes 16 ((s.lev.keyIn.mapIdx (fun i w => w.toNat * 2 ^ (32 * i))).foldl (· + ·) 0)
  let s := s.updLev (fun l => { l with keyIn := [0, 0, 0, 0] })
  if !bitAt w 0 then s
  else if s.lev.site.isSome || s.bit fSysStrapsServiceN || s.bit fStoreStatusIdMismatch then s.blkErr 0x80 0x40 true 0x50
  else
    let (ok, s) := s.levRun .levee 0x3A000 (s.keyRecord (some key)) (.key (some key) false none [])
    if !ok then s else
    let s := if s.controlMode = 0xFF
      then (s.engineRun { src := .control, addr := 0x30000, bytes := controlBytes (s.get fStoreProtectBp) 1 }).2 else s
    (s.keyInForce (some key) false).levFaces
/-- SESS_CFG (R390, R403): binds or unbinds the selected session. -/
def sessCfg (s : State) (w : Word) : State :=
  let i := s.get fLeveeSessSelSession
  let on := bitAt w 31
  let old := s.sess i
  let uid := if on then s.pair rLeveeSessUidLo rLeveeSessUidHi else old.uid
  let mask := if on then 2 * bitsOf w 1 9 else old.mask
  let rec_ : Sess := { bound := on, uid := uid, mask := mask, b := old.b }
  (s.levRun .levee (0x38000 + 0x20 * i) (sessBytes rec_) (.bind i on uid mask none [])).2
/-- A write completes a pair: LO and HI as one number (R48). -/
def pairWrite (s : State) (loAddr : Nat) (lo hi : Word) : State :=
  if loAddr = rCalSetLo then s.calSet lo hi (s.bit fFabStatRoot)
  else if loAddr = rPeatPresetLo then s.peatPreset (lo.toNat + 2 ^ 32 * hi.toNat)
  else (s.setWord rLeveeSessUidLo lo).setWord rLeveeSessUidHi hi
/-- A staged LO that no HI write followed within 1 ms is discarded (R48). -/
def dropStaged (s : State) (a : Nat) : State :=
  let s := { s with port := { s.port with staged := s.port.staged.filter (fun x => x.1 ≠ a) } }
  match errPage a with | some p => s.blkErr p 0x06 true a | none => s
/-- A pair that a write changes; every other pair only reads. -/
def pairTakes (a : Nat) : Bool := a = rCalSetLo || a = rPeatPresetLo || a = rLeveeSessUidLo
/-- A write to the LO register of a pair is staged (R48). -/
def loStage (s : State) (a : Nat) (w : Word) : State :=
  { s with port := { s.port with staged := s.port.staged.filter (fun x => x.1 ≠ a) ++ [(a, w, s.now)] } }
/-- The staged LO of the pair at `a`, taken by a write to its HI within 1 ms (R48). -/
def loTake (s : State) (a : Nat) : Option Word × State :=
  match s.port.staged.lookup a with
  | some (lo, t) =>
    if s.now ≤ t + 1000 then
      (some lo, { s with port := { s.port with staged := s.port.staged.filter (fun x => x.1 ≠ a) } })
    else (none, s.dropStaged a)
  | none => (none, s)
/-- A write to the HI register of the pair at `a`: with the staged LO, or alone with the LO half as it stands. -/
def hiWrite (s : State) (a : Nat) (w : Word) : State :=
  let cur : Word := if a = rCalSetLo then BitVec.ofNat 32 s.calSec
    else if a = rPeatPresetLo then BitVec.ofNat 32 s.peatVal else s.word rLeveeSessUidLo
  let (lo, s) := s.loTake a
  if pairTakes a then s.pairWrite a (lo.getD cur) w else s

/-- What a written word starts on a channel page: its BUDGET faces, FLT_CLR, levels and RELEASE (R86, R94). -/
def actsUch (s : State) (p : Nat) (off : Nat) (w : Word) : State :=
  match uchAt p off with
  | some (n, o) =>
    if o = 0 then s.budgetFaces none none
    else if o = 0x1C then s.fltClr n w
    else if 0x34 ≤ o && o < 0x50 then s.putLv n ((o - 0x30) / 4) (some w.toInt)
    else if o = 0x54 then s.relLv n w
    else s
  | none => s
/-- What a written word starts on a CONV page: SLUICE.REQ and the corrections (R110, R120). -/
def actsConv (s : State) (p : Nat) (off : Nat) (w : Word) : State :=
  let c := p - 0x10
  if off = 0x20 && bitAt w 8 then s.sluiceHost c (bitsOf w 0 4)
  else if 0x100 ≤ off && off < 0x1C0 && off % 16 = 8 && !s.locked p then s.correctionWrite c ((off - 0x100) / 16) false w
  else if 0x100 ≤ off && off < 0x1C0 && off % 16 = 0xC && !s.locked p then s.correctionWrite c ((off - 0x100) / 16) true w
  else s
/-- What a written word starts on a ZONE page: the mode levels of a zone and of a fen (R156). -/
def actsZone (s : State) (p : Nat) (off : Nat) (w : Word) : State :=
  match zoneAt p off, fenAt p off with
  | some (z, o), _ => if o = 0x34 then
      { s with hostZm := s.hostZm ++ [{ fen := false, idx := z, lv := (modeWr w).1, v := (modeWr w).2 }] } else s
  | none, some (f, o) => if o = 4 then
      { s with hostZm := s.hostZm ++ [{ fen := true, idx := f, lv := (modeWr w).1, v := (modeWr w).2 }] } else s
  | none, none => s
/-- What a written word starts on a LOOP page: a parameter changed between frames (R18). -/
def actsLoop (s : State) (a : Nat) (p : Nat) (off : Nat) (changed : Bool) (old : Word) : State :=
  match loopAt p off with
  | some (k, o) =>
    if (0x20 ≤ o && o < 0x40 && changed) || (o = 0 && bitAt old 25 ≠ bitAt (s.word a) 25) then
      { s with loopPar := if s.loopPar.contains k then s.loopPar else s.loopPar ++ [k] } else s
  | none => s
/-- What a written word starts on a TME page: commands wait for the lath edge (R18, R189). -/
def actsTme (s : State) (off : Nat) (w : Word) : State :=
  if 0x100 ≤ off && off < 0xD00 && off % 0x20 = 0xC then
    let z := (off - 0x100) / 0x20
    let q := (if bitAt w 0 then [(z, 6, w)] else []) ++ (if bitAt w 1 then [(z, 7, w)] else [])
    { s with tmeCmd := s.tmeCmd ++ q } else s
/-- What a written word starts on a FAN page: CMD, the levels and RELEASE of a drive (R86, R244). -/
def actsFan (s : State) (p : Nat) (off : Nat) (w : Word) : State :=
  match fanAt p off, drvAt p off with
  | some (g, o), _ => if o = 0x20 then s.fanCmd g w else s
  | none, some (g, o) =>
    if 4 ≤ o && o < 0x20 then s.putLv (96 + g) (o / 4) (some w.toInt)
    else if o = 0x24 then s.relLv (96 + g) w else s
  | none, none => s
/-- What a written word starts on a STORE page: PROTECT, UNLOCK, the run buffer and RUN (R275, R284). -/
def actsStore (s : State) (off : Nat) (w : Word) : State :=
  if off = 0x2C then s.protectWrite w
  else if off = 0x30 then s.storeUnlock w
  else
    let s := s.storeDisarm
    if off = 0x34 || off = 0x38 then s.emptyBuffer
    else if off = 0x3C then
      let s := if bitAt w 1 then s.emptyBuffer else s
      if bitAt w 0 then s.runGo none else s
    else s
/-- What a written word starts on a PEAT page: FLUSH_NOW and a change of the map (R292). -/
def actsPeat (s : State) (off : Nat) (changed : Bool) (w : Word) : State :=
  if off = 0x24 && bitAt w 0 then s.peatFlush
  else if 0x200 ≤ off && off < 0x600 && changed then
    s.updSto (fun x => { x with prev := Map.put (fun _ => none) x.prev ((off - 0x200) / 4) none })
  else s
/-- What a written word starts on a NSTORE page: images, ACTIVATE and queries (R304, R306, R314). -/
def actsNstore (s : State) (wr : Writer) (off : Nat) (w : Word) : State :=
  if off = 0x34 then
    let s := if bitAt w 0 then s.imageOpen else s
    let s := if bitAt w 1 then s.imageClose else s
    if bitAt w 2 then s.imageAbort else s
  else if off = 0x40 && bitAt w 0 then s.actStart (if bitAt w 8 then 1 else 0) wr.sess wr.src none
  else if off = 0x74 then
    let s := if bitAt w 0 then s.queryNext else s
    if bitAt w 1 then s.queryCancel else s
  else s
/-- What a written word starts on a FAB page: what a change starts (R320, R333). -/
def actsFab (s : State) (a : Nat) (off : Nat) (changed : Bool) (old : Word) (w : Word) : State :=
  if off = 0x20 && bitsOf old 0 8 ≠ bitsOf (s.word a) 0 8 then s.fabRecord.originateLsa
  else if off = 0x28 then s.addrRequest w
  else if off = 0x44 then s.routeView (bitsOf w 0 16)
  else if 0x80 ≤ off && off < 0xC0 && changed then s.originateLsa
  else s
/-- What a written word starts on a LEVEE page: the key port, the mailbox and SESS_VIEW (R383, R397). -/
def actsLevee (s : State) (off : Nat) (w : Word) : State :=
  if 0x40 ≤ off && off < 0x50 then s.updLev (fun l => { l with keyIn := l.keyIn.set ((off - 0x40) / 4) w })
  else if off = 0x50 then s.keyCmd w
  else if off = 0x64 && bitAt w 0 then s.updLev (fun l => { l with mbx := [] })
  else if off = 0x70 then s.sessView (bitsOf w 0 8)
  else s
/-- What a written word starts on a FAULT page: the interrupt causes and CLR (R57, R411). -/
def actsFault (s : State) (off : Nat) (w : Word) : State :=
  -- MORE clears with VALID
  if 0x80 ≤ off && off < 0xEC && bitAt w 31 then s.setB (fFaultIrqCauseMore ((off - 0x80) / 4)) false
  else if off = 0x20 && bitAt w 0 then s.faultClr else s

/-- What a write does beyond its register's face. `old` is the face before it. -/
def wordActs (s : State) (wr : Writer) (a : Nat) (old w : Word) : State :=
  let p := a / 0x1000
  let off := a % 0x1000
  let changed : Bool := decide (s.word a ≠ old)
  match blkOfPage p with
  | some .sys =>
    if a = rSysRstCmd && w = 0x0000C3C3#32 then
      { s with boot := { s.boot with cmdRst := some (if wr.peer then 6 else 7) } }
    else if a = rSysNmeStat then s.nmeAgain else s
  | some .clk =>
    if off = 0x20 then
      let s := s.trimSource
      if bitAt w 3 then s.clkReturn else s
    else s
  | some .lath => if off = 0x2C && bitAt w 0 then s.missClr else s
  | some .uch => s.actsUch p off w
  | some .conv => s.actsConv p off w
  | some .rbus => if 0x200 ≤ off && off < 0x300 && off % 8 = 0 then s.rbUnits (p - 0x19) else s
  | some .zone => s.actsZone p off w
  | some .loop => s.actsLoop a p off changed old
  | some .tme => s.actsTme off w
  | some .blk => if off = 0x28 then s.blkView (bitsOf w 0 12) else if off = 0x4C then s.blkRetune w else s
  | some .fan => s.actsFan p off w
  | some .cal =>
    if (off = 0x34 || off = 0x38 || off = 0x3C) && s.dstAt s.calSec ≠ s.bit fCalStatDst then s.dstChange else s
  | some .sched => if off = 0x28 && bitAt w 0 then s.schedApply (fun i => entLocal s.dir.run i) else s
  | some .store => s.actsStore off w
  | some .peat => s.actsPeat off changed w
  | some .nstore => s.actsNstore wr off w
  | some .fab => s.actsFab a off changed old w
  | some .fport => if off = 0x20 && changed then s.portDown (p - 0x79) else s
  | some .pdir => if off = 0x38 then s.subView (bitsOf w 0 14) else if off = 0x44 then s.strmView else s
  | some .levee => s.actsLevee off w
  | some .fault => s.actsFault off w
  | some .key => if off = 0x64 then s.panelWr w else if off = 0x68 && bitAt w 0 then s.panelLock else s
  | some .epd => if off = 0x50 then s.updRequest w else s
  | _ => s

/-- BLK_CTRL (R49–R52, R127, R442, R469). Answers whether the page refused it as LOCKED. -/
def ctrlWrite (s : State) (b : Blk) (p : Nat) (w : Word) : State × Bool :=
  let freezes : Bool := match b with
    | .sys => false | .host => false | .lath => false | .store => false | .peat => false | .nstore => false | .levee => false
    | .fault => false | .pwr => false | .clk => false
    | _ => true
  let off : Bool := !bitAt w 0 || bitAt w 2
  let active := b = .conv && off && (List.range 12).any (fun i => s.get (fUchCfgMode (12 * (p - 0x10) + i)) ≠ 0
    || (s.chan (12 * (p - 0x10) + i)).mode ≠ 0)
  let rails := b = .epd && off && s.railsOn
  let s := if active then s.blkErr p 0x42 true 4 else if rails then s.blkErr p 0x43 true 4 else s
  -- FREEZE: the page's status words are held as they read when it goes to 1
  let s :=
    if !freezes then s
    else if bitAt w 3 && !s.bit (fBlkFreeze p) then
      let as := (List.range 1016).map (fun i => 0x1000 * p + 0x20 + 4 * i)
      let fz : List (Nat × Option Word) := as.filterMap (fun a => if frozenMask a = 0 then none else
        some (a, some (if a = rKeyEvt then s.word a else (s.regRead a).1)))
      ({ s with frozen := fz.foldl (fun (m : Map (Option Word)) (x : Nat × Option Word) => Map.put (fun _ => none) m x.1 x.2) s.frozen }).setB (fBlkFreeze p) true
    else if !bitAt w 3 then
      ({ s with frozen := s.frozen.filter (fun x => x.1 / 0x1000 ≠ p) }).setB (fBlkFreeze p) false
    else s
  -- fields that have no effect on a page still hold what is written
  if fixedEn b then
    let s := s.setB (fBlkGateReq p) (bitAt w 2)
    (if freezes then s else s.setB (fBlkFreeze p) (bitAt w 3), false)
  else
  let s := if active || rails then s else
    let s := (s.setB (fBlkEn p) (bitAt w 0)).setB (fBlkGateReq p) (bitAt w 2)
    let s := if bitAt w 2 then s else s.setB (fBlkGated p) false
    (if frameBlk b then s else s.enNow b p).tryGate p
  if !bitAt w 1 then (s, false)
  else if s.locked p then (s.blkErr p 0x04 true 4, true)
  else (s.softReset p, false)

/-- The LOCK sequence (R55). -/
def lockWrite (s : State) (p : Nat) (w : Word) : State :=
  let open_ : Bool := match s.port.lockSeq.lookup p with | some t => decide (s.now ≤ t + 1000) | none => false
  let rest := s.port.lockSeq.filter (fun x => x.1 ≠ p)
  let put (l : List (Nat × Nat)) : State := { s with port := { s.port with lockSeq := l } }
  if w = 0x0000A5A5#32 && open_ then (put rest).setWord (rLock p) 1
  else if w = 0x00005A5A#32 then put (rest ++ [(p, s.now)])
  else put rest

/-- Known bits of a common register. -/
def commonKnown (b : Blk) (off : Nat) : Nat :=
  match off with
  | 0x000 => 0xFFFFFFFF | 0x004 => 0xF | 0x008 => 0xFF | 0x01C => 0xE0FF0FFC
  | _ => b.irqMask
/-- A write to a common register. -/
def commonWrite (s : State) (b : Blk) (p off : Nat) (w : Word) (image : Bool) : State × Bool :=
  if off = 0x18 then (s.lockWrite p w, false) else
  let known := BitVec.ofNat 32 (commonKnown b off)
  let s := if w &&& ~~~known ≠ 0 && !image then s.blkErr p 0x05 true off else s
  let m := BitVec.ofNat 32 b.irqMask
  match off with
  | 0x004 => s.ctrlWrite b p w
  | 0x00C => (s.setWord (rIrqStat p) (s.word (rIrqStat p) &&& ~~~w), false)
  | 0x010 => (s.setWord (rIrqEn p) (w &&& m), false)
  | 0x014 => (s.setWord (rIrqStat p) (s.word (rIrqStat p) ||| (w &&& m)), false)
  | 0x01C => (if bitAt w 31 then s.setWord (rBlkErr p) 0 else s, false)
  | _ => (s, false)

/-- PRI_1–PRI_7 and DRV_PRI_1–DRV_PRI_7, whose storage is the priority array. -/
def lvReg (a : Nat) : Bool :=
  match blkOfPage (a / 0x1000) with
  | some .uch => (match uchAt (a / 0x1000) (a % 0x1000) with | some (_, o) => 0x34 ≤ o && o < 0x50 | none => false)
  | some .fan => (match drvAt (a / 0x1000) (a % 0x1000) with | some (_, o) => 4 ≤ o && o < 0x20 | none => false)
  | _ => false
/-- A written word leaves its face: RW and RWL fields, but RWL fields only while the page is not LOCKED; a field that a frame
engine reads stays in force until the capture edge of its rate (R18). -/
def faceWrite (s : State) (a : Nat) (w : Word) (image : Bool) : State :=
  if lvReg a then s else
  let s := if !image && (s.regRate a).isSome && s.boot.first && (Map.look (fun _ => none) s.held a).isNone
    then { s with held := Map.put (fun _ => none) s.held a (some (s.word a)) } else s
  s.maskWrite a w

/-- A word written to a block-specific register. Answers whether a LOCKED page kept an RWL field. -/
def regWrite (s : State) (wr : Writer) (b : Blk) (p off : Nat) (w : Word) : State × Bool :=
  let a := 0x1000 * p + off
  match descAt a with
  | none => (s, false)
  | some d =>
    if isMailbox a then (s, false) else
    let bad := if wr.image then none else s.wordRefuse a w true
    match bad with
    | some c => (if b = .store then (s.blkErr p c true off).storeDisarm else s.blkErr p c true off, false)
    | none =>
      let known := BitVec.ofNat 32 (d.rw ||| d.rwl ||| d.w1c ||| d.wo ||| d.ro)
      let s := if w &&& ~~~known ≠ 0 && !wr.image then s.blkErr p 0x05 true off else s
      let locked := d.rwl ≠ 0 && s.locked p
      let s := if locked && !wr.image then s.blkErr p 0x04 true off else s
      if pairLo a || pairTakes a then (s.loStage a w, locked)
      else if pairLo (a - 4) || pairTakes (a - 4) then (s.hiWrite (a - 4) w, locked)
      else if a = rPdirStrmCfg then ((s.strmWrite w).strmView, locked)
      else if a = rStoreProtect then (if wr.cmd then s.protectCmd w else s.protectWrite w, locked)
      else if a = rLeveeSessCfg then (s.sessCfg w, locked)
      else
        let old := s.word a
        let s := s.faceWrite a w wr.image
        let s := s.setWord a (s.word a &&& ~~~(w &&& BitVec.ofNat 32 d.w1c))
        (s.wordActs wr a old w, locked)

/-- A word written to a window but the store's. -/
def winWrite (s : State) (a : Nat) (w : Word) (image : Bool) : State :=
  if pairLo a && !image then s.loStage a w else
  let s := if pairLo (a - 4) && !image then (s.loTake (a - 4)).2 else s
  match winOf a with
  | some 1 => s.pdirWrite (a - 0x100000) w image
  | some 3 => s.blkWrite (a - 0x1C0000) w
  | some 4 => s.schWinWrite (a - 0x1E0000) w image
  | some 5 =>
    let o := (a - 0x1F0000) % 0x200
    let z := (a - 0x1F0000) / 0x200
    if o < 0x18 && z < 96 then { s with tmeCmd := s.tmeCmd ++ [(z, o / 4, w)] } else s
  | some 6 => (s.epdWrite (a - 0x200000) w).2
  | _ => s

/-- One word of a write (R46, R63). Any write to a page but to its LOCK restarts its LOCK sequence (R55). -/
def writeWord (s : State) (wr : Writer) (a : Nat) (w : Word) : State × Bool :=
  if 0x100000 ≤ a then (s.winWrite a w wr.image, false) else
  let p := a / 0x1000
  let off := a % 0x1000
  match blkOfPage p with
  | none => (s, false)
  | some b =>
    let s := if off = 0x18 then s else { s with port := { s.port with lockSeq := s.port.lockSeq.filter (fun x => x.1 ≠ p) } }
    if off < 0x20 then
      let s := if b = .store then s.storeDisarm else s
      s.commonWrite b p off w wr.image
    else s.regWrite wr b p off w
/-- Words applied in ascending address order (R63); whether any met a LOCKED page. -/
def writeWords (s : State) (wr : Writer) (a : Nat) : List Word → State × Bool
  | [] => (s, false)
  | w :: ws =>
    let (s, l) := s.writeWord wr a w
    let (s, l') := writeWords s wr (a + 4) ws
    (s, l || l')

end State
end Sys2Proof.Machine
end

