-- ==== Sys2Proof/Machine/LeveeCmd.lean ====
section
/-! DEFINITION. A write as a transaction (R61–R63) and the command frames of the levee (R383–R385, R389, R397–R401): the body of
each op, its class, what it does and how it is answered. -/
set_option Elab.async false
namespace Sys2Proof.Machine

/-! ### Command bodies (R384) -/

/-- The body of a command frame, well-formed. -/
inductive CmdBody where
  | regWrite (a : Nat) (ws : List Word)
  | storeGo (addr len crc : Nat)
  | activate (slot crc gen : Nat)
  | pageUnlock (page : Nat)
  | keyRoll (wrapped : List Byte) (id : Nat)
  | sessionSet (sess mask uid : Nat)
  | sessionClr (sess : Nat)
  | trustSet (mode : Nat)
  | keyErase
  | graceSet (sec : Nat)
  | ident (challenge : List Byte)
deriving DecidableEq, Repr

/-- The range of a REG_WRITE (R385). -/
def cmdRange (a n : Nat) : Bool :=
  decide (a < 0x200000) && a % 4 = 0 && sizeOk a n && !(a < 0x100000 && (a / 0x1000 = 0x04 || a / 0x1000 = 0x80))
/-- The body as its op lays it out; `none` for an unknown op, a wrong LENGTH, a reserved field that is not 0, or a value out of
its range (R384, R385, R400). -/
def cmdBody (b : List Byte) : Option CmdBody :=
  let z (i n : Nat) : Bool := be b i n = 0
  let len (n : Nat) : Bool := b.length = n
  match byteAt b 0 with
  | 0x01 =>
    let n := byteAt b 2
    if 1 ≤ n && n ≤ 32 && len (8 + 4 * n) && z 3 1 && cmdRange (be b 4 4) n
    then some (.regWrite (be b 4 4) (State.be32s n (b.drop 8))) else none
  | 0x02 => if len 16 && z 2 2 && z 10 2 then some (.storeGo (be b 4 4) (be b 8 2) (be b 12 4)) else none
  | 0x03 => if len 16 && z 2 2 && byteAt b 4 < 2 && z 5 3 then some (.activate (byteAt b 4) (be b 8 4) (be b 12 4)) else none
  | 0x04 => if len 8 && z 2 2 && z 5 3 then some (.pageUnlock (byteAt b 4)) else none
  | 0x10 => if len 32 && z 2 2 then some (.keyRoll ((b.drop 4).take 24) (be b 28 4)) else none
  | 0x11 =>
    if len 16 && z 2 2 && byteAt b 4 < 255 && z 5 1 then some (.sessionSet (byteAt b 4) (be b 6 2 % 1024 / 2 * 2) (be b 8 8))
    else none
  | 0x12 => if len 8 && z 2 2 && byteAt b 4 < 255 && z 5 3 then some (.sessionClr (byteAt b 4)) else none
  | 0x13 => if len 8 && z 2 2 && byteAt b 4 < 2 && z 5 3 then some (.trustSet (byteAt b 4)) else none
  | 0x14 => if len 4 && z 2 2 then some .keyErase else none
  | 0x15 => if len 8 && z 2 2 && be b 4 2 ≤ 3600 && z 6 2 then some (.graceSet (be b 4 2)) else none
  | 0x20 => if len 20 && z 2 2 then some (.ident ((b.drop 4).take 16)) else none
  | _ => none
/-- The op of a command frame, and whether R384 knows it. -/
def cmdOp (f : List Byte) : Nat := byteAt (frBody f) 0
def knownOp (k : Nat) : Bool := (1 ≤ k && k ≤ 4) || (0x10 ≤ k && k ≤ 0x15) || k = 0x20
/-- What the audit record of a command shows: the target address of what has one. -/
def cmdDetail : Option CmdBody → Nat
  | some (.regWrite a _) => a
  | some (.storeGo a _ _) => 0x180000 + a
  | some (.activate i _ _) => 0x8000000 * i
  | some (.pageUnlock p) => 0x1000 * p
  | _ => 0
/-- The header of a frame in the mailbox, beside what R317 leaves free (R383). -/
def hostHeaderOk (f : List Byte) : Bool :=
  byteAt f 0 = 0x11 && frHops f = 0 && be f 2 2 % 0x8000 = 0 && frSrc f = 0 && frDst f = 0 && be f 8 2 = 8 && byteAt f 11 = 0
    && frStream f = 0 && be f 30 2 = 0

namespace State

/-! ### A write as a transaction (R61–R63, R488) -/

/-- Pages and windows that answer between the release of the core and E (R488). -/
def earlyAnswers (a : Nat) : Bool :=
  if a < 0x100000 then [0x00, 0x02, 0x04, 0x70, 0x71, 0x72, 0x80, 0x88].contains (a / 0x1000) else winOf a = some 2
/-- NOT_READY by start-up, SAFE_ROSC or a running soft reset (R50, R474, R488). -/
def notReady (s : State) (a n : Nat) : Bool :=
  if s.bit fClkStatSafeRosc then !(a < 0x100000 && [0x00, 0x02, 0x88].contains (a / 0x1000))
  else (!s.boot.first && !earlyAnswers a)
    || (a < 0x100000 && (s.softRst.lookup (a / 0x1000)).isSome && 0x20 ≤ a % 0x1000 + 4 * n - 4)
/-- The page is gated and the transaction leaves its common registers, or the window's page is gated (R53). -/
def gatedAt (s : State) (a n : Nat) : Bool :=
  if a < 0x100000 then s.bit (fBlkGated (a / 0x1000)) && decide (0x20 ≤ a % 0x1000 + 4 * n - 4)
  else match winOf a with | some w => s.bit (fBlkGated (winPage w)) | none => false
/-- The mailbox at an address holds the words of a MAILBOX transaction (R65). -/
def mailboxRoom (s : State) (a n : Nat) : Bool :=
  if a = 0x70048 then s.runCanPush n
  else if a = 0x7203C then s.imageCanPush n
  else if a = 0x80060 then !s.lev.busy && s.lev.mbx.length + n ≤ 42
  else true
/-- The error is recorded where the address has a page. -/
def noteErr (s : State) (a cause : Nat) (wr : Bool) : State :=
  match errPage a with | some p => s.blkErr p cause wr a | none => s
/-- The first code of R62 from BAD_ADDR on that bars a transaction of `n` words at `a`; `cls` is the class that needs
authentication, 0 when none does. -/
def barred (s : State) (a n : Nat) (wr mail : Bool) (cls : Nat) : Option Nat × State :=
  if a % 4 ≠ 0 || !addrOk a || (mail && !isMailbox a) then (some 5, s.noteErr a 0x01 wr)
  else if cls ≠ 0 then (some 4, s.noteErr a 0x07 wr)
  else if winOf a = some 2 && !s.sto.served then (some 2, s)
  else if winOf a = some 2 && s.sto.cur.isSome then (some 1, s)
  else if s.notReady a n || (mail && !s.mailboxRoom a n) then (some 9, s.noteErr a 0x08 wr)
  else if s.gatedAt a n then (some 6, s.noteErr a 0x02 wr)
  else (none, s)
/-- A word of an EPD window that cannot be written now (R438, R442). -/
def epdBars (s : State) (a : Nat) (ws : List Word) : Option State :=
  if winOf a = some 6 then
    (ws.mapIdx (fun i w => s.epdWrite (a - 0x200000 + 4 * i) w)).findSome? (fun r => if r.1 then none else some r.2)
  else none
/-- The index of the first word that meets a LOCKED page, and the state after all of them. -/
def writeLocked (s : State) (wr : Writer) (a i : Nat) : List Word → State × Option Nat
  | [] => (s, none)
  | w :: ws =>
    let (s, l) := s.writeWord wr a w
    let (s, r) := writeLocked s wr (a + 4) (i + 1) ws
    (s, if l then some i else r)
/-- A WRITE of words whose length and CRC are right: its code (R61), the first word a LOCKED page refused, and the state. -/
def writeTxn (s : State) (wr : Writer) (a : Nat) (ws : List Word) (auth : Bool) : Nat × Nat × State :=
  let cls := if auth then
      (ws.mapIdx (fun i w => s.wordClass (a + 4 * i) w)).foldl lowClass 0 else 0
  match s.barred a ws.length true false cls with
  | (some c, s) => (c, 0, s)
  | (none, s) =>
    match s.epdBars a ws with
    | some s => (9, 0, s)
    | none =>
      if winOf a = some 2 then (0, 0, s.windowRun (a - 0x180000) ws)
      else match s.writeLocked wr a 0 ws with
        | (s, some i) => (3, i, s)
        | (s, none) => (0, 0, s)

/-! ### Answers to commands (R348, R391, R401) -/

/-- What a command ends with: RESULT, CAUSE, and the first refused word. -/
def cmdEnd (s : State) (src : CmdSrc) (f : List Byte) (result cause item : Nat) (tagged old : Bool) : State :=
  match src with
  | .mailbox =>
    let s := s.setWord rLeveeCmdRes 0
    let s := (s.set fLeveeCmdResResult result).set fLeveeCmdResCause cause
    let s := (s.set fLeveeCmdResOp (cmdOp f)).set fLeveeCmdResItem item
    let s := s.setPair rLeveeCmdEchoLo rLeveeCmdEchoHi (frCtr f)
    (s.updLev (fun l => { l with busy := false })).irq 0x80 0
  | .fabric _ =>
    let body := beBytes 1 result ++ [0#8] ++ beBytes 1 cause ++ beBytes 1 (cmdOp f) ++ [0#8, 0#8]
    (s.keepAnswer f body).sendResp f body tagged old
/-- The end of a command that the checks let through. -/
def cmdDone (s : State) (src : CmdSrc) (f : List Byte) (result cause item : Nat) : State :=
  s.cmdEnd src f result cause item (frAuth f) false
/-- The command waits for a store run of the levee, or ends with BUSY when the store refused it (R390). -/
def cmdRun (s : State) (src : CmdSrc) (f : List Byte) (accepted : Bool) : State :=
  if accepted then (match src with | .mailbox => s.updLev (fun l => { l with busy := true }) | .fabric _ => s)
  else s.cmdDone src f 4 0 0

/-! ### What each op does -/

def cmdRegWrite (s : State) (src : CmdSrc) (f : List Byte) (a : Nat) (ws : List Word) : State :=
  let wr : Writer := { peer := decide (src ≠ .mailbox), cmd := true, sess := if frAuth f then frSess f else 0xFF, src := frSrc f }
  let (c, i, s) := s.writeTxn wr a ws false
  s.cmdDone src f (if c = 0 then 0 else 1) c i
def cmdStoreGo (s : State) (src : CmdSrc) (f : List Byte) (addr len crc : Nat) : State :=
  let busy := s.sto.cur.isSome || !s.sto.served
  let id := s.sto.runId
  let s := s.runGo (some (addr, len, crc))
  s.cmdDone src f (if s.sto.runId ≠ id then 0 else if busy then 4 else 1) 0 0
def cmdActivate (s : State) (src : CmdSrc) (f : List Byte) (i crc gen : Nat) : State :=
  let before := s.lath.act.isSome
  let s := s.actStart i (if frAuth f then frSess f else 0xFF) (frSrc f) (some (crc, gen))
  let ok := s.lath.act.isSome && !before
  s.cmdDone src f (if ok then 0 else if s.get fNstoreActResCause = 1 then 4 else 1) 0 0
/-- LOCK.LOCKED of the named page clears; an unassigned page is refused as BAD_ADDR. -/
def cmdPageUnlock (s : State) (src : CmdSrc) (f : List Byte) (p : Nat) : State :=
  if (blkOfPage p).isSome then (s.setWord (rLock p) 0).cmdDone src f 0 0 0 else s.cmdDone src f 1 5 0
/-- The new site key, unwrapped under the current one (R398). -/
def cmdKeyRoll (s : State) (src : CmdSrc) (f wrapped : List Byte) (id : Nat) : State :=
  match s.lev.site.bind (fun k => keyUnwrap k wrapped) with
  | none => s.cmdDone src f 5 0 0
  | some k =>
    if keyId k ≠ id then s.cmdDone src f 5 0 0
    else
      let (ok, s) := s.levRun .levee 0x3A000 (s.keyRecord (some k)) (.key (some k) true (some src) f)
      s.cmdRun src f ok
def cmdBind (s : State) (src : CmdSrc) (f : List Byte) (i : Nat) (on : Bool) (uid mask : Nat) : State :=
  let r : Sess := { bound := on, uid := uid, mask := mask, b := (s.sess i).b }
  let (ok, s) := s.levRun .levee (0x38000 + 0x20 * i) (sessBytes r) (.bind i on uid mask (some src) f)
  s.cmdRun src f ok
def cmdTrustSet (s : State) (src : CmdSrc) (f : List Byte) (mode : Nat) : State :=
  if s.lev.site.isNone then s.cmdDone src f 5 0 0
  else
    let (ok, s) := s.levRun .control 0x30000 (controlBytes (s.get fStoreProtectBp) mode) (.trust mode (some src) f)
    s.cmdRun src f ok
/-- KEY_ERASE (R399): answered under the key that it erases. -/
def cmdKeyErase (s : State) (src : CmdSrc) (f : List Byte) : State :=
  let (ok, s) := s.levRun .levee 0x38000 (List.replicate 0x2000 0#8 ++ s.keyRecord none) (.key none false none [])
  if ok then (s.cmdDone src f 0 0 0).keyInForce none false else s.cmdDone src f 4 0 0
/-- IDENT (R389): the UID and the proof under the device key. -/
def cmdIdent (s : State) (src : CmdSrc) (f ch : List Byte) : State :=
  match src with
  | .mailbox => s.cmdDone src f 0 0 0
  | .fabric _ =>
    let uid := beBytes 8 s.uid
    let body := [0#8, 0#8] ++ beBytes 1 0 ++ beBytes 1 0x20 ++ [0#8, 0#8] ++ uid ++ (cmac s.lev.devKey (uid ++ ch)).take 8
    (s.keepAnswer f body).sendResp f body (frAuth f) false
/-- A command that has passed every check and whose CLASS is right. -/
def cmdApply (s : State) (src : CmdSrc) (f : List Byte) : CmdBody → State
  | .regWrite a ws => s.cmdRegWrite src f a ws
  | .storeGo a n c => s.cmdStoreGo src f a n c
  | .activate i c g => s.cmdActivate src f i c g
  | .pageUnlock p => s.cmdPageUnlock src f p
  | .keyRoll w i => s.cmdKeyRoll src f w i
  | .sessionSet i m u => s.cmdBind src f i true u m
  | .sessionClr i => s.cmdBind src f i false (s.sess i).uid (s.sess i).mask
  | .trustSet m => s.cmdTrustSet src f m
  | .keyErase => s.cmdKeyErase src f
  | .graceSet n => (s.set fLeveeCfgGrace n).cmdDone src f 0 0 0
  | .ident c => s.cmdIdent src f c

/-! ### A command frame (R383–R385, R391, R400, R401) -/

/-- The class that R385 derives, 0 for a routine REG_WRITE, for IDENT and for a body that derives none. -/
def cmdClass (s : State) : Option CmdBody → Nat
  | some (.regWrite a ws) => (ws.mapIdx (fun i w => s.wordClass (a + 4 * i) w)).foldl lowClass 0
  | some (.storeGo _ _ _) => 4
  | some (.activate _ _ _) => 3
  | some (.pageUnlock _) => 3
  | some (.keyRoll _ _) => 6
  | some (.sessionSet _ _ _) => 6
  | some (.sessionClr _) => 6
  | some (.trustSet _) => 6
  | some .keyErase => 6
  | some (.graceSet _) => 6
  | _ => 0
/-- A command that the checks accepted: logged, refused with BAD_REQ where its body is not right, or applied. -/
def cmdAccepted (s : State) (src : CmdSrc) (f : List Byte) : State :=
  let (go, s) := match src with | .mailbox => (true, s) | .fabric _ => s.gate f
  if !go then s else
  let b := cmdBody (frBody f)
  let cls := s.cmdClass b
  let s := if frAuth f then s.audit 1 (frSess f) cls (frSrc f) (frCtr f) (cmdDetail b) else s
  let headOk := match src with | .mailbox => hostHeaderOk f | .fabric _ => true
  match b with
  | none => s.cmdDone src f 5 0 0
  | some x =>
    if !headOk || byteAt (frBody f) 1 ≠ cls then s.cmdDone src f 5 0 0
    else
      let s := match src with | .mailbox => s | .fabric _ => s.noteApplied f
      s.cmdApply src f x
/-- A command frame has arrived whole: the checks of R391 when it is tagged; untagged, it must be routine unless it comes from
the host port under LOCAL_TRUSTED (R400). -/
def command (s : State) (src : CmdSrc) (f : List Byte) : State :=
  let b := cmdBody (frBody f)
  let cls := s.cmdClass b
  if frAuth f then
    let tag := s.lev.tag
    match s.levCheck src f cls (cmdDetail b) with
    | (.go, s) => s.cmdAccepted src f
    | (.refused r, s) => s.cmdEnd src f 3 (levCause r) 0 (r ≠ .tag && r ≠ .noKey) false
    | (.wait, s) =>
      if s.lev.tag = tag then s
      else match src with | .mailbox => s.updLev (fun l => { l with busy := true }) | .fabric _ => s
  else if cls = 0 || (src = .mailbox && !s.authRequired) then s.cmdAccepted src f
  else s.cmdEnd src f 3 0 0 false false
/-- Words pushed into LEVEE.CMD_MBX (R401). -/
def leveePush (s : State) (ws : List Word) : State :=
  let m := s.lev.mbx ++ ws
  let bytes := wordsBytes m
  let n := frLen bytes
  let t := s.updLev (fun l => { l with mbx := [] })
  if bytes.length < 28 then s.updLev (fun l => { l with mbx := m })
  else if 136 < n then t.cmdDone .mailbox bytes 5 0 0
  else if 32 + n ≤ bytes.length then t.command .mailbox (bytes.take (32 + n))
  else s.updLev (fun l => { l with mbx := m })
/-- A COMMAND frame arrives at a port (R347, R391). -/
def rxCommand (s : State) (p : Nat) (f : List Byte) : State :=
  if !s.isUp p then s
  else if !frameOk f then s.discard p f true
  else if !(frVc f = 1 && frKind f = 8 && s.forMe f) then s
  else
    let (ok, s) := s.takeIn p f
    if ok then (s.alsoOn p f).command (.fabric p) f else s
/-- The reset that a command has asked for (R71). -/
def takeCmdReset (s : State) : State :=
  match s.boot.cmdRst with | some c => s.assertReset c | none => s

/-! ### Runs of the levee end (R390, R393, R398, R400) -/

/-- The floor of a waiting frame is committed: its window moves and it is applied, unless a frame that passed since has
taken its counter. -/
def floorDone (s : State) (i b : Nat) (src : CmdSrc) (f : List Byte) : State :=
  let x := { s.sess i with b := max b (s.sess i).b }
  let c := frCtr f
  let go (s : State) : State :=
    if frKind f = 8 && frVc f = 1 || src = .mailbox then s.cmdAccepted src f
    else match src with | .fabric p => s.applyFrame p f | .mailbox => s
  if !x.sync || x.hi < c then go (s.setSess i (windowFloor x c x.b))
  else match window x c with
    | .accept y => go (s.setSess i y)
    | _ =>
      let s := (s.setSess i x).levRefused .replay i (s.cmdClass (cmdBody (frBody f))) (frSrc f) c 0
      if frKind f = 8 && frVc f = 1 || src = .mailbox then s.cmdEnd src f 3 2 0 true false else s
/-- A run that the levee asked for has ended. A frame whose floor was not committed is discarded unanswered; a binding or a
record that was not leaves the old state and ends its command with BUSY. -/
def levRunEnded (s : State) (r : LevRun) (ok : Bool) : State :=
  let fail (s : State) (src : Option CmdSrc) (f : List Byte) : State :=
    let s := s.raise 0xE003 0 .minor
    match src with | some q => s.cmdDone q f 4 0 0 | none => s
  match r with
  | .floor i b src f =>
    let s := match src with | .mailbox => s.updLev (fun l => { l with busy := false }) | .fabric _ => s
    if ok then s.floorDone i b src f else s
  | .bind i on uid mask src f =>
    if !ok then fail s src f else
    let s := (s.bindInForce i on uid mask).sessView (s.get fLeveeSessSelSession)
    match src with | some q => s.cmdDone q f 0 0 0 | none => s
  | .key k true src f =>
    if !ok then fail s src f else
    let s := s.keyInForce k true
    match src with | some q => s.cmdEnd q f 0 0 0 (frAuth f) true | none => s
  | .key _ false _ _ => if ok then s else s.raise 0xE003 0 .minor
  | .trust _ src f =>
    if !ok then fail s src f else
    match src with | some q => (s.levFaces).cmdDone q f 0 0 0 | none => s.levFaces
/-- A run that persists a floor B. -/
def isFloorRun : LevRun → Bool
  | .floor _ _ _ _ => true
  | _ => false
/-- The levee's run that an ended run of the store completes. -/
def levRunOf (s : State) (e : RunSrc × Nat × Bool) : Option LevRun :=
  if e.1 = .levee || e.1 = .control then Map.look (fun _ => none) s.lev.runs e.2.1 else none
/-- An ended run of the levee is taken up. -/
def levRunTake (s : State) (e : RunSrc × Nat × Bool) : State :=
  let s := s.updSto (fun t => { t with ended := t.ended.erase e })
  match s.levRunOf e with
  | none => s
  | some r => (s.updLev (fun l => { l with runs := Map.put (fun _ => none) l.runs e.2.1 none })).levRunEnded r e.2.2
/-- The oldest commitment of a floor B is taken up, and the waiting frame with it (R393). -/
def levFloorTake (s : State) : State :=
  match s.sto.ended.find? (fun e => (s.levRunOf e).any isFloorRun) with
  | none => s
  | some e => s.levRunTake e
/-- Ended runs reach the engines that asked for them (R198, R246, R279, R390); a floor waits for its own step (R393). -/
def runsEnded (s : State) : State :=
  s.sto.ended.foldl (fun s e =>
    match e.1 with
    | .tme =>
      let s := s.updSto (fun t => { t with ended := t.ended.erase e })
      s.irq 0x60 (if e.2.2 then 3 else 4)
    | .fan => (s.updSto (fun t => { t with ended := t.ended.erase e })).fanRunEnded e.2.1 e.2.2
    | _ => if (s.levRunOf e).any isFloorRun then s else s.levRunTake e) s

end State
end Sys2Proof.Machine
end

