-- ==== Sys2Proof/Machine/Frame.lean ====
section
/-! DEFINITION. The frame (R10–R38): commit edges, capture edges, phases, missed edges, and the switch to a new configuration
(R33–R35, R83, R85, R307, R486). -/
set_option Elab.async false
namespace Sys2Proof.Machine
namespace State

/-! ### Capture (R13, R14, R18, R25) -/

/-- Host and fabric level writes whose output is of rate `r` enter the arrays, in order of completion (R18, R88). Writes to the
array of an input, of an odd member or of a governor's channel are ignored (R89, R232). -/
def takeHostLv (s : State) (r : Rate) : State :=
  let (mine, rest) := s.hostLv.partition (fun w => s.outRate w.out = r)
  mine.foldl (fun s w =>
    if w.out < 96 && (!s.isOutput w.out || (s.driveGov w.out).isSome) then s else s.applyLv w)
    ({ s with hostLv := rest } : State)
/-- Written parameters take effect at a capture edge of rate `r` (R18). -/
def takeParams (s : State) (r : Rate) : State :=
  match r with
  | .skim =>
    let s := (s.takeHeld .skim).takeHostW.takeHostLv .skim
    (s.takeLoopPar .skim).takeFanCmds .skim
  | .lath =>
    let s := (s.takeHeld .lath).takeDirLive.takeHostLv .lath
    let s := s.takeHostZm.tmeTakeCmds.takeLoopPar .lath
    (s.takeBlk.takeFanCmds .lath).fenMembers
/-- The work of a skim frame, which runs first in its period (R14, R15). -/
def skimWork (s : State) : State :=
  if s.lath.safe then s else ((s.senseFrame .skim).loopFrame .skim).fanFrame .skim
/-- Capture of skim frame `j` at `t`. -/
def captureSkim (s : State) (j t : Nat) : State :=
  let s : State := { s with lath := { s.lath with skim := j, skimCap := t } }
  let s := (s.set fLathSkimIdxIdx j).takeParams .skim
  ({ s with engS := s.eng } : State).skimWork
/-- Capture of the lath frame that begins at `t`, with its first skim frame (R13, R15). -/
def captureLath (s : State) (t : Nat) : State :=
  let phase := if s.lath.safe then 7 else 2
  let s : State := { s with
    lath := { s.lath with cap := t, due := t + s.lathPeriod, skim := 0, skimCap := t, phase := phase, running := true } }
  let s := s.setPair rLathFrameLo rLathFrameHi (if s.lathPeriod = 0 then 0 else t / s.lathPeriod)
  let s := (s.set fLathSkimIdxIdx 0).takeParams .skim
  let s := s.takeParams .lath
  let s := s.takeRx.remoteAge (fun a => (s.routeOf a).isSome)
  let s := s.captureResults.rbCapture
  ({ s with img := s.vis, engL := s.eng, engS := s.eng } : State).skimWork

/-! ### Phases (R13) -/

/-- Phase `k` begins; 7 is the end of the last one. -/
def toPhase (s : State) (k : Nat) : State := { s with lath := { s.lath with phase := k } }
/-- The running phase finishes its work and the next one begins. -/
def phaseDone (s : State) : State :=
  match s.lath.phase with
  | 2 => (s.senseFrame .lath).rbIngest.toPhase 3
  | 3 => (s.presFrame.schedFrame.tmeFrame.zoneFrame).toPhase 4
  | 4 => s.blkFrame.toPhase 5
  | 5 => (s.loopFrame .lath).toPhase 6
  | 6 => (s.demandFrame.fanFrame .lath).toPhase 7
  | _ => s

/-! ### Commit edges (R13, R16, R17, R87, R409) -/

/-- Values that a frame of rate `r` produced become visible (R16). -/
def release (s : State) (r : Rate) : State :=
  let put (m : Map Val) (l : Map (Option Val)) : Map Val :=
    l.foldl (fun m p => match p.2 with | some v => Map.put valDflt m p.1 v | none => m) m
  match r with
  | .lath => { s with vis := put s.vis s.lwork, lwork := [] }
  | .skim => { s with vis := put s.vis s.swork, swork := [] }
/-- Level writes staged by a frame of rate `r` are latched (R17, R88). -/
def latchLevels (s : State) (r : Rate) : State :=
  match r with
  | .lath => s.stL.foldl applyLv ({ s with stL := [] } : State)
  | .skim => s.stS.foldl applyLv ({ s with stS := [] } : State)
/-- Channels of rate `r` change mode or leave HIZ-PROTECT (R84, R94). -/
def modeEdge (s : State) (r : Rate) : State :=
  (List.range 96).foldl (fun s n =>
    if s.outRate n ≠ r || !(s.chan n).started then s
    else
      let s := if (s.chan n).reenter && (s.chan n).hizProt then s.leaveProtect n else s
      s.changeMode n) s
/-- Outputs of rate `r` are arbitrated and change together, then the drives show their committed duties (R87, R231, R233). -/
def arbitrate (s : State) (r : Rate) : State :=
  let s := s.capAll r
  let s := (List.range 96).foldl (fun s n => if s.outRate n = r then s.commitOutput n else s) s
  (List.range 24).foldl (fun s g => if s.fanRate g = r then s.driveFaces g else s) s
/-- The commit edge of frames of the rates `rs`. -/
def commitRates (s : State) (rs : List Rate) : State :=
  let s := rs.foldl faultEdge s
  let s := rs.foldl modeEdge s
  let s := rs.foldl latchLevels s
  let s := rs.foldl arbitrate s
  let s := rs.foldl release s
  let s := rs.foldl flushEv s
  let s := rs.foldl commitOutputs s
  (rs.foldl peatCount s).fsRead
/-- Peak cycle counts: free values that never exceed the running totals (log entry 14). -/
def peaks (s : State) (lath : Bool) : State :=
  let (v, s) := s.freeNat 14
  let f := if lath then fLathPeakLathCycles else fLathPeakSkimCycles
  let top := if lath then s.get fLathRunLathCycles else s.get fLathRunSkimCycles
  s.set f (max (s.get f) (v % (top + 1)))
/-- What else a lath commit edge does (R26, R32, R288, R311, R353, R374, R436, R40). -/
def lathCommit (s : State) : State :=
  let s := s.commitZm.rbCommit.trendCapture.fabricCommit.bandUpdate
  let s := s.irq 0x03 5
  match s.lath.opAfter with
  | some op => ({ s with lath := { s.lath with opAfter := none } } : State).setOp op
  | none => s

/-! ### Missed edges (R36–R38) -/

/-- Engine code of an unfinished lath phase. -/
def phaseEngine (p : Nat) : Nat := match p with | 2 => 2 | 3 => 4 | 4 => 6 | 5 => 7 | 6 => 8 | _ => 0xA
/-- Contexts of skim-rate channels, loops and governors. -/
def skimKeep (s : State) (lathSrc skimSrc : Eng) : Eng :=
  let isSkimLoop (p : Nat × LoopSt) : Bool := p.2.skim
  let pick {α : Type} [DecidableEq α] (d : α) (skim : Nat → Bool) (a b : Map α) : Map α :=
    (b.filter (fun p => skim p.1)).foldl (fun m p => Map.put (fun _ => d) m p.1 p.2) (a.filter (fun p => !skim p.1))
  { lathSrc with
    sen := pick {} (fun n => s.outRate n = .skim) lathSrc.sen skimSrc.sen
    loop := pick {} (fun k => (s.loopSt k).skim) lathSrc.loop (skimSrc.loop.filter isSkimLoop)
    fan := pick {} (fun g => s.outRate (96 + g) = .skim) lathSrc.fan skimSrc.fan }
/-- The work of the frames that miss the edge is discarded (R36). -/
def dropWork (s : State) (lath : Bool) : State :=
  if lath then
    { s with
      lwork := [], swork := [], stL := [], stS := [], stZ := [], evL := [], evS := []
      eng := s.skimKeep s.engL s.engS }
  else { s with swork := [], stS := [], evS := [], eng := s.skimKeep s.eng s.engS }
/-- An edge is missed: `code` is the engine code with its rate bit (R36–R38). -/
def edgeMissed (s : State) (lath : Bool) (code : Nat) : State :=
  let s := s.dropWork lath
  let s := (s.bump fLathMissCntCount).setWord rLathMissEngine (BitVec.ofNat 32 (code % 32))
  let s := (s.irq 0x03 2).raise 0x2001 0 .minor
  let run := s.get fLathStatMissRun
  let s := s.set fLathStatMissRun (min 3 (run + 1))
  if run ≠ 2 then s else
  let s := ((s.nme fSysNmeStatLathMiss).tripPath 1).setB fLathStatFailsafe true
  let s := s.raise 4 0 .critical
  if s.bit fLathCtrlMissPolicy then { s with lath := { s.lath with resetAtEdge := some 5 } } else s
/-- Every due commit has completed (R37). -/
def edgeMade (s : State) : State :=
  if s.get fLathStatMissRun = 0 then s else (s.set fLathStatMissRun 0).clearFault 0x2001 0

/-! ### Edges -/

/-- What the field die measured over the skim frame that ends: readback and the governor's estimate (R91, R454). -/
def edgeMeasures (s : State) (m : Meas) : State :=
  let s : State := { s with lath := { s.lath with curS := m.cur } }
  let s := m.rdbk.foldl (fun s x => s.readbackOne sluiceVerify s.lath.skimCap x.1 x.2.1 x.2.2) s
  s.governMeasure m s.skimPeriod
/-- Enables of the frame pages and of the channel pages (R51, R100). -/
def edgeEnables (s : State) : State := (List.range 96).foldl takeChanEn s.takeEn
/-- Frames run, and no switch or period gap holds them. -/
def framesRun (s : State) : Bool := s.alive && s.lath.running && !s.lath.atE && s.lath.gapTo.isNone
/-- An accepted activation switches at the next lath edge. -/
def switchDue (s : State) : Bool :=
  match s.lath.act with | some a => decide (a.stage = .accepted) | none => false
/-- A lath edge: both rates commit, or the edge is missed; then the next frame captures, unless the device resets or a new
configuration takes over (R13, R33, R36–R38, R413). -/
def lathEdge (s : State) (unfinished : Nat) (m : Meas) : State :=
  if !s.framesRun then s else
  let t := s.lath.due
  let reset := s.lath.resetAtEdge
  let s := (s.at_ t).edgeMeasures m
  let s : State := { s with lath := { s.lath with curL := m.cur } }
  let pre := s
  let made := s.lath.phase = 7 && unfinished = 0
  let s :=
    if s.lath.phase ≠ 7 then s.edgeMissed true (phaseEngine s.lath.phase)
    else if unfinished ≠ 0 then s.edgeMissed true unfinished
    else ((s.commitRates [.skim, .lath]).edgeMade.lathCommit.peaks false).peaks true
  let s := s.govern pre m pre.skimPeriod (if made then [.skim, .lath] else [])
  let s := s.edgeEnables
  match reset with
  | some c => s.assertReset c
  | none =>
    if s.switchDue then { s with lath := { s.lath with atE := true } } else s.captureLath t
/-- A skim edge inside a lath frame; the last one is the lath edge (R11, R14). -/
def skimEdge (s : State) (unfinished : Nat) (m : Meas) : State :=
  if !s.framesRun then s
  else if 9 ≤ s.lath.skim then s.lathEdge unfinished m
  else
    let j := s.lath.skim + 1
    let t := s.lath.skimCap + s.skimPeriod
    let s := (s.at_ t).edgeMeasures m
    let pre := s
    let s := if unfinished ≠ 0 then s.edgeMissed false (16 + unfinished % 16)
      else (s.commitRates [.skim]).edgeMade.peaks false
    let s := s.govern pre m pre.skimPeriod (if unfinished = 0 then [.skim] else [])
    s.captureSkim j t

/-! ### The switch to a new configuration (R33, R34, R85, R307, R308) -/

/-- Levels 3, 5, 6 and 7 of every array are emptied at E (R85, R248, R307). -/
def switchLevels (s : State) : State :=
  (List.range 120).foldl (fun s o => [3, 5, 6, 7].foldl (fun s k => s.setLevel o k none) s) s
/-- The words of the image act at E, in block order; the block-network and schedule windows received theirs when the blocks
were applied (R307). -/
def switchWords (s : State) (a : Activation) : State :=
  (a.writes.filter (fun p => winOf p.1 ≠ some 3 && winOf p.1 ≠ some 4)).foldl (fun s p => (s.writeWord { image := true, sess := a.sess, src := a.src } p.1 p.2.1).1) s
/-- Running soft resets of pages end before an image's words reach them (R513). -/
def endSoftResets (s : State) : State := s.softRst.foldl (fun s p => s.softResetEnd p.1) s
/-- The engines take the new configuration over. -/
def switchEngines (old s : State) (a : Activation) : State :=
  let s := ((s.dirSwitch a.dir).takeHostW).senseSwitch.rbSwitch
  let s := (State.presSwitch old s).schSwitch a.sch
  let s := (s.tmeSwitch.loopSwitch.blkSwitch a.net a.order).fanSwitch
  ((s.strmSwitch a.strm).fenMembers).fsLoad
/-- The first commit after reset (R83, R441, R481, R486): every channel leaves HIZ. -/
def firstCommit (s : State) : State :=
  let s := (List.range 96).foldl firstEnter s
  let s := (s.takeHostLv .skim).takeHostLv .lath
  let s := (List.range 96).foldl (fun s n => if (s.chan n).mode = 0 then s else s.enterMode n) s
  let s := (List.range 24).foldl driveFaces s
  -- OUTPUT entries carry what this commit drives (R370)
  let s : State := { s with lath := { s.lath with cap := s.now, skimCap := s.now } }
  let s := (s.commitOutputs .skim).commitOutputs .lath
  let s : State := { s with boot := { s.boot with first := true } }
  let s := (s.setB fFaultFsStatArmed true).peatAdd 2046 1
  let s := s.audit 6 0xFE (s.get fSysRstCauseCause) 0 0 0
  let s := s.updSto (fun x => { x with flushRef := some s.now })
  s.budgetFaces none none |>.bootClear
/-- Channels whose mode the new configuration changes enter it, and then take their level writes (R84, R85). -/
def switchModes (s : State) : State :=
  let s := (List.range 96).foldl changeMode s
  (s.takeHostLv .skim).takeHostLv .lath
/-- At an E whose first frame waits for E′, the other channels' level writes are in force; the rest wait (R85). -/
def switchHeldModes (s : State) : State :=
  let waits (w : LvWrite) : Bool := w.out < 96 && (s.chan w.out).mode ≠ s.get (fUchCfgMode w.out)
  let (later, now_) := s.hostLv.partition waits
  let s := (({ s with hostLv := now_ } : State).takeHostLv .skim).takeHostLv .lath
  { s with hostLv := s.hostLv ++ later }
/-- An accepted configuration takes over at E; `first` when E is the first commit after reset, `waits` when its first frame
waits for E′. -/
def takeOver (s : State) (a : Activation) (first waits : Bool) : State :=
  let old := s
  let s := s.endSoftResets
  let s := (s.takeParams .skim).takeParams .lath
  let s := s.switchLevels.switchWords a
  let s := s.set fLathPeriodPeriod (s.get fLathPendPeriodPeriod)
  let s := (s.set fLathRunLathCycles (s.get fLathChkLathCycles)).set fLathRunSkimCycles (s.get fLathChkSkimCycles)
  let s := (s.set fLathPeakLathCycles 0).set fLathPeakSkimCycles 0
  let s := switchEngines old s a
  let s := if first then s.firstCommit else if waits then s.switchHeldModes else s.switchModes
  let s := s.edgeEnables.fsRead
  let s := (s.irq 0x03 0).audit 5 a.sess 0 a.src 0 (a.slot * 0x8000000)
  let s := if s.lath.safe then ((s.setB fLathStatSafe false).setB fNstoreStatSafe false).clearFault 0xD001 0 else s
  let s := (s.set fNstoreStatSafeWhy 0).setB fNstoreStatRestored a.restored
  let s : State := { s with
    nst := { s.nst with recDue := some a.slot }
    lath := { s.lath with
      act := none, atE := false, safe := false, safeSel := false
      opAfter := if a.op < s.get fLathStatOp then some a.op else none } }
  if first then
    match s.lath.opAfter with
    | some op => ({ s with lath := { s.lath with opAfter := none } } : State).setOp op
    | none => s
  else s
/-- SAFE configuration begins at E (R35, R490). -/
def safeBegins (s : State) : State :=
  let s := s.endSoftResets
  let s : State := { s with lath := { s.lath with safe := true, safeSel := false } }
  ((s.setB fLathStatSafe true).setB fNstoreStatSafe true).fsLoad.firstCommit.edgeEnables.fsRead
/-- The switch edge E (R33, R485): at a lath edge of the running configuration, or the first lath edge after start-up has
selected one. After a change of period the first frame waits for E′ (R34). -/
def configSwitch (s : State) : State :=
  if !s.alive || s.lath.gapTo.isSome then s
  else if s.lath.running then
    match s.lath.atE, s.lath.act with
    | true, some a =>
      let e := s.lath.due
      let l := 10000 * ((s.actView a).get fLathPendPeriodPeriod)
      let waits := l ≠ 0 && e % l ≠ 0
      let s := s.takeOver a false waits
      if !waits then s.captureLath e
      else { s with lath := { s.lath with gapTo := some ((e / l + 1) * l) } }
    | _, _ => s
  else if s.lath.safeSel then
    let e := (s.lath.readyAt / s.lathPeriod + 1) * s.lathPeriod
    ((s.at_ e).safeBegins).captureLath e
  else match s.lath.act with
    | some a =>
      if !a.startup || a.stage ≠ .accepted then s else
      let l := 10000 * ((s.actView a).get fLathPendPeriodPeriod)
      let e := (s.lath.readyAt / l + 1) * l
      ((s.at_ e).takeOver a true false).captureLath e
    | none => s
/-- E′: the first frame of the new configuration captures (R34). -/
def periodGapEnd (s : State) : State :=
  match s.lath.gapTo with
  | none => s
  | some e =>
    if !s.alive then s else
    let s := (s.at_ e).switchModes
    ({ s with lath := { s.lath with gapTo := none } } : State).captureLath e
/-- A write that completed at the microsecond of a capture edge takes effect at that edge (R18). -/
def paramEffect (s : State) (r : Rate) : State :=
  if !s.framesRun then s else
  match r with
  | .lath => if s.now = s.lath.cap && s.lath.phase = 2 then (s.takeParams .skim).takeParams .lath else s
  | .skim => if s.now = s.lath.skimCap then s.takeParams .skim else s
/-- A mode written at the microsecond of a commit edge takes effect at that edge (R18, R84). -/
def modeEffect (s : State) (n : Nat) : State :=
  if !s.framesRun || 96 ≤ n || !(s.chan n).started then s else
  let edge := match s.outRate n with | .lath => s.lath.cap | .skim => s.lath.skimCap
  if s.now = edge then s.changeMode n else s

end State
end Sys2Proof.Machine
end

