-- ==== Sys2Proof/Machine/HostPort.lean ====
section
/-! DEFINITION. The host port (R58–R67): a transaction from the fall of HCS_N to its rise. -/
set_option Elab.async false
namespace Sys2Proof.Machine

def xactOp (t : Xact) : Nat := t.cmd.toNat / 16
def xactLen (t : Xact) : Nat := 2 ^ (t.cmd.toNat % 8)
def xactStart (t : Xact) : Nat := t.addr.toNat
/-- The bytes that the CRC sent by the host covers (R58). -/
def xactBytes (t : Xact) : List Byte :=
  leBytes 1 t.cmd.toNat ++ beBytes 3 (xactStart t) ++ (if xactOp t = 1 then [] else wordsBytes t.data)
/-- A one-word WRITE with its right CRC (log entry 2). -/
def writeXact (a : Nat) (w : Word) : Xact :=
  let t : Xact := { cmd := 0x20#8, addr := BitVec.ofNat 24 a, data := [w] }
  { t with crc := BitVec.ofNat 16 (crc16 (xactBytes t)) }
/-- A one-word MAILBOX transaction with its right CRC (log entry 2). -/
def mailXact (a : Nat) (w : Word) : Xact :=
  let t : Xact := { cmd := 0x40#8, addr := BitVec.ofNat 24 a, data := [w] }
  { t with crc := BitVec.ofNat 16 (crc16 (xactBytes t)) }

namespace State

/-- HOST_STATUS (R60). -/
def hostStatus (s : State) : Nat :=
  let b (p : Bool) (i : Nat) : Nat := if p then 2 ^ i else 0
  0x1000 * s.port.resp + b (s.word rSysNmeStat ≠ 0) 11 + b (s.irqSum ≠ 0) 10 + b s.authRequired 9 + b (s.bit fHostCfgCrcEn) 8
    + 0x40 + b (s.bit fLathStatSafe || s.bit fClkStatSafeRosc) 5 + b s.boot.first 4 + s.get fHostXactCntCount % 16
/-- Words pushed into a mailbox (R65). -/
def mailPush (s : State) (a : Nat) (ws : List Word) : State :=
  if a = 0x70048 then s.runPush ws
  else if a = 0x7203C then s.imagePush ws
  else if a = 0x7206C then s.queryOpen ws
  else s.leveePush ws
/-- The code of a transaction (R61, R62), the words a READ returns, and the state with what the transaction did. -/
def xactRun (s : State) (t : Xact) : Nat × List Word × State :=
  let n := xactLen t
  let a := xactStart t
  let zeros := List.replicate n 0#32
  let known := xactOp t = 1 || xactOp t = 2 || xactOp t = 4
  let complete := t.whole && known && (xactOp t = 1 || t.data.length = n)
  if complete && s.bit fHostCfgCrcEn && crc16 (xactBytes t) ≠ t.crc.toNat then (8, zeros, s)
  else if !complete || !sizeOk a n then (10, zeros, s)
  else if xactOp t = 1 then
    match s.barred a n false false 0 with
    | (some c, s) => (c, zeros, s)
    | (none, s) => let (ws, s) := readWords n s a; (0, ws, s)
  else if xactOp t = 2 then
    let (c, _, s) := s.writeTxn {} a t.data s.authRequired
    (c, [], s)
  else match s.barred a n true true 0 with
    | (some c, s) => (c, [], s)
    | (none, s) => (0, [], s.mailPush a t.data)
/-- A transaction at the host port. While the core is held in reset the device drives nothing and nothing is done (R488). -/
def hostXact (s : State) (t : Xact) : State :=
  if s.boot.coreRst then { s with port := { s.port with hostStatus := none } } else
  let status := s.hostStatus
  let crcOn := s.bit fHostCfgCrcEn
  let (c, ws, s) := s.xactRun t
  let s := s.bumpWrap fHostXactCntCount
  let s := if c = 0 then s else (s.set fHostLastErrResp c).set fHostLastErrAddr (xactStart t)
  let s := if c = 8 then (s.bump fHostCrcErrCntCount).irq 0x04 2
    else if c = 4 then s.irq 0x04 1 else if c = 10 then s.irq 0x04 0 else s
  let s : State := { s with
    port := { s.port with
      resp := c, hostStatus := some status
      rdata := if xactOp t = 1 then ws else []
      rcrc := if xactOp t = 1 && crcOn then some (crc16 (wordsBytes ws)) else none } }
  s.takeCmdReset
/-- Host software writes one word (log entry 2). -/
def hostWrite (s : State) (a : Nat) (w : Word) : State := s.hostXact (writeXact a w)
/-- Host software pushes a frame into LEVEE.CMD_MBX, a word at a time (R383; log entry 2). -/
def hostFrame (s : State) (f : List Byte) : State :=
  (bytesWords (f ++ List.replicate ((4 - f.length % 4) % 4) 0#8)).foldl (fun s w => s.hostXact (mailXact 0x80060 w)) s

/-- The clocks of a block are forced off while an access to one of its registers is in flight (R469): the access ends with
GATE_ABORT. `took` tells whether a write of `w` had taken effect. -/
def gateForce (s : State) (p off : Nat) (wr took : Bool) (w : Word) : State :=
  let a := 0x1000 * p + off
  if s.coreOff || !s.bit (fBlkGateReq p) || s.enAck p || s.bit (fBlkGated p) || off < 0x20 || 0x1000 ≤ off then s else
  match s.barred a 1 wr false (if wr && s.authRequired then s.wordClass a w else 0) with
  | (some _, _) => s
  | (none, s) =>
    let (rd, s) := if wr then ([], if took then (s.writeWord {} a w).1 else s) else readWords 1 s a
    let s := s.blkErr p 0x03 wr off
    let s := if wr && took then s.setWord (rBlkErr p) (s.word (rBlkErr p) ||| 0x20000000#32) else s
    let s := s.setB (fBlkGated p) true
    let s := s.bumpWrap fHostXactCntCount
    let s := (s.set fHostLastErrResp 7).set fHostLastErrAddr a
    { s with port := { s.port with resp := 7, rdata := rd, rcrc := none } }
/-- The snapshot of a LO read runs out (R47). -/
def snapExpire (s : State) : State :=
  match s.port.snap with
  | none => s
  | some (_, _, t) => let s := s.at_ (t + 1000); { s with port := { s.port with snap := none } }
/-- The oldest staged LO runs out (R48). -/
def pairExpire (s : State) : State :=
  match (s.port.staged.map (fun x => x.2.2)).min? with
  | none => s
  | some t =>
    let s := s.at_ (t + 1000)
    (s.port.staged.filter (fun x => x.2.2 + 1000 ≤ s.now)).foldl (fun s x => s.dropStaged x.1) s

end State
end Sys2Proof.Machine
end

