-- ==== Sys2Proof/Machine/CmdCal.lean ====
section
/-! DEFINITION. Meanings of the calendar and schedule commands (chapter *Calendar and schedules*). -/
set_option Elab.async false
namespace Sys2Proof.Machine

/-- R253, R48: CAL.SET_LO, then CAL.SET_HI written. -/
def execCalSet (lo hi : Word) (s : State) : Host.Outcome State Fault Refusal :=
  .next ((s.hostWrite rCalSetLo lo).hostWrite rCalSetHi hi)
/-- R252: CAL reaches 2200-01-01. -/
def execCalRangeEnd (s : State) : Host.Outcome State Fault Refusal := .next (if s.coreOff then s else s.calRangeEnd)
/-- R256: daylight saving starts or ends. -/
def execDstChange (s : State) : Host.Outcome State Fault Refusal := .next (if s.coreOff then s else s.dstChange)
/-- R269: SCHED.APPLY.GO written. -/
def execSchedApply (s : State) : Host.Outcome State Fault Refusal := .next (s.hostWrite rSchedApply 1#32)

end Sys2Proof.Machine
end

