-- ==== Sys2Proof/Machine/CmdChan.lean ====
section
/-! DEFINITION. Meanings of the channel commands: mode changes, priority arrays, protection, fault clearing, digital inputs
and failsafe timing (chapter *Universal channels*). A row that names a channel beyond 95 changes nothing. -/
set_option Elab.async false
namespace Sys2Proof.Machine
namespace State

/-- What the field does reaches channel `n` while the device runs. -/
def onChan (s : State) (n : Nat) (f : State → State) : State := if n < 96 && !s.coreOff then f s else s
/-- The pin of a channel in HIZ-PROTECT is seen at `mv`: since when it has been below its re-entry level (R94). -/
def seenPin (s : State) (n : Nat) (mv : Int) : State :=
  s.upChan n (fun c => { c with
    belowSince := if !c.hizProt || reentryMv c.mode ≤ mv then none else some (c.belowSince.getD s.now) })
/-- OV_AUTO: the pin has stayed below its re-entry level for 2 s (R94). -/
def ovvAuto (s : State) (n : Nat) (mv : Int) : State :=
  let c := s.chan n
  if !c.hizProt then s
  else if reentryMv c.mode ≤ mv then s.seenPin n mv
  else match c.belowSince with
    | none => s.seenPin n mv
    | some t =>
      if s.ebit (fUchCfgOvAuto n) then (s.at_ (t + 2000000)).upChan n (fun c => { c with reenter := true }) else s
/-- The AI-I current exceeds 32 mA with the burden closed: it opens, and OVI is set (R95). During a closure the next one
is due 1 s after the start of this one. -/
def ovi (s : State) (n : Nat) (ua : Int) : State :=
  let c := s.chan n
  if effMode c ≠ 2 || ua ≤ 32000 || (c.burdenOpen.isSome && c.closure.isNone) then s else
  let s := s.upChan n (fun c => { c with burdenOpen := some (c.closure.getD s.now), closure := none })
  if (s.chan n).faults &&& 0x10 ≠ 0 then s else (s.markFault n 5 true).raise 0x3005 n .minor
/-- The burden closes for 1 ms (R95). -/
def burdenCloses (s : State) (n : Nat) : State :=
  match (s.chan n).burdenOpen, (s.chan n).closure with
  | some t, none => (s.at_ (t + 1000000)).upChan n (fun c => { c with closure := some (t + 1000000) })
  | _, _ => s
/-- The end of a closure, judged on the mean of its last 0.5 ms (R95). -/
def burdenJudged (s : State) (n : Nat) (ua : Int) : State :=
  match (s.chan n).closure with
  | none => s
  | some t =>
    (s.at_ (t + 1000)).upChan n (fun c => { c with
      closure := none, burdenOpen := if ua ≤ 30000 then none else some t })
/-- The half of an LSW-type stage at channel `n` conducts. -/
def conducts (s : State) (n : Nat) : Bool :=
  if s.oddMember n then (s.chan (n - 1)).fltDir = -1
  else (s.chan n).lswOn || (s.chan n).fltDir = 1
/-- An LSW_OT stage has cooled below 150 °C (R96). -/
def otRecovered (s : State) (n : Nat) : State :=
  let m := if s.oddMember n then n - 1 else n
  if !(s.chan m).otOff then s else
  let s := s.upChan m (fun c => { c with otOff := false })
  if (s.chan m).latched &&& 0x80 ≠ 0 then s else (s.markFault m 8 false).clearFault 0x3008 m
/-- The comparator of a DI sees its pin at `mv`: a new level starts the debounce time; a level that has held for it is
reported (R77). -/
def diLevel (s : State) (n : Nat) (mv : Int) : State :=
  let c := s.chan n
  if effMode c ≠ 5 then s else
  let lv := if mv < 3000 then true else if 4000 < mv then false else c.diRaw
  let deb := 1000 * s.eget (fUchParamDeb n)
  if lv ≠ c.diRaw then
    s.upChan n (fun c => { c with diRaw := lv, diSince := s.now, di := if deb = 0 then lv else c.di })
  else if lv ≠ c.di then (s.at_ (c.diSince + deb)).upChan n (fun c => { c with di := lv })
  else s
/-- A falling edge of a DI-TACH, `dt` after the one before (R77). -/
def tachEdge (s : State) (n dt : Nat) : State :=
  let c := s.chan n
  if effMode c ≠ 6 then s else
  match c.lastEdge with
  | none => s.upChan n (fun c => { c with cnt := (c.cnt + 1) % 2 ^ 32, lastEdge := some s.now })
  | some t =>
    let s := s.at_ (t + dt)
    s.upChan n (fun c => { c with
      cnt := (c.cnt + 1) % 2 ^ 32, lastEdge := some s.now, period := (s.now - t) % 2 ^ 32 })
/-- No falling edge for 2 s (R77). -/
def tachQuiet (s : State) (n : Nat) : State :=
  match (s.chan n).lastEdge with
  | none => s
  | some t => if effMode (s.chan n) ≠ 6 then s else (s.at_ (t + 2000000)).upChan n (fun c => { c with period := 0 })
/-- A low of `us` ends with a rise above 4.0 V on a DI-COUNT (R77). -/
def countLow (s : State) (n us : Nat) : State :=
  if effMode (s.chan n) ≠ 7 || us < 200 then s
  else s.upChan n (fun c => { c with cnt := (c.cnt + 1) % 2 ^ 32 })
/-- FAILSAFE VALUE of an FLT pair has driven for 1.5 × RUN: both halves turn off (R98). -/
def failsafeEnds (s : State) (n : Nat) : State :=
  match (s.chan n).fsEnd with
  | none => s
  | some t => (s.at_ t).upChan n (fun c => fltStep (max s.now t) 0 { c with fsDone := true, fsEnd := none })
/-- The mode gap ends and the channel enters its mode (R84). -/
def gapEnds (s : State) (n : Nat) : State :=
  match (s.chan n).gapEnd with
  | none => s
  | some t => (s.at_ t).enterMode n

end State

/-- R84: a written mode takes effect at the commit edge. -/
def execModeChange (ch : Nat) (s : State) : Host.Outcome State Fault Refusal := .next (s.modeEffect ch)
/-- R84: the end of the mode gap. -/
def execModeGapEnd (ch : Nat) (s : State) : Host.Outcome State Fault Refusal := .next (s.onChan ch (·.gapEnds ch))
/-- R89, R231: host software writes PRI_1–PRI_7 of a channel (`out` below 96) or DRVPRI_1–DRVPRI_7 of a fan drive. -/
def execPriWrite (out lv : Nat) (w : Word) (s : State) : Host.Outcome State Fault Refusal :=
  .next (if lv = 0 || 7 < lv then s
    else if out < 96 then s.hostWrite (rUchPri out (lv - 1)) w
    else if out < 120 then s.hostWrite (rFanDrvpri (out - 96) (lv - 1)) w
    else s)
/-- R87: host software writes PRI_REL, or DRVPRI_REL of a fan drive. -/
def execPriRelinquish (out : Nat) (w : Word) (s : State) : Host.Outcome State Fault Refusal :=
  .next (if out < 96 then s.hostWrite (rUchPriRel out) w
    else if out < 120 then s.hostWrite (rFanDrvpriRel (out - 96)) w
    else s)
/-- R97: FLT_CLR.RDBK written. -/
def execFltClrRdbk (ch : Nat) (s : State) : Host.Outcome State Fault Refusal :=
  .next (if ch < 96 then s.hostWrite (rUchFltClr ch) 0x20#32 else s)
/-- R97: FLT_CLR.LSW_SC written. -/
def execFltClrLswSc (ch : Nat) (s : State) : Host.Outcome State Fault Refusal :=
  .next (if ch < 96 then s.hostWrite (rUchFltClr ch) 0x40#32 else s)
/-- R97: FLT_CLR.LSW_OT written. -/
def execFltClrLswOt (ch : Nat) (s : State) : Host.Outcome State Fault Refusal :=
  .next (if ch < 96 then s.hostWrite (rUchFltClr ch) 0x80#32 else s)
/-- R94: FLT_CLR.OVV written with the pin at `pin` millivolts. -/
def execFltClrOvv (ch : Nat) (pin : Int) (s : State) : Host.Outcome State Fault Refusal :=
  .next (if ch < 96 && !s.coreOff then (s.seenPin ch pin).hostWrite (rUchFltClr ch) 8#32 else s)
/-- R94: the front end sees the pin above the OVV threshold. -/
def execOvvDetect (ch : Nat) (pin : Int) (s : State) : Host.Outcome State Fault Refusal :=
  .next (s.onChan ch (·.ovv ch pin))
/-- R94: the pin of a protected channel is seen, or has stayed below its re-entry level for 2 s. -/
def execOvvAutoReentry (ch : Nat) (pin : Int) (s : State) : Host.Outcome State Fault Refusal :=
  .next (s.onChan ch (·.ovvAuto ch pin))
/-- R95: the AI-I current, in µA, exceeds 32 mA. -/
def execOviDetect (ch : Nat) (ua : Int) (s : State) : Host.Outcome State Fault Refusal := .next (s.onChan ch (·.ovi ch ua))
/-- R95: a closure of the burden. -/
def execBurdenClosure (ch : Nat) (s : State) : Host.Outcome State Fault Refusal := .next (s.onChan ch (·.burdenCloses ch))
/-- R95: the end of a closure, with its mean current in µA. -/
def execBurdenClosureEnd (ch : Nat) (ua : Int) (s : State) : Host.Outcome State Fault Refusal :=
  .next (s.onChan ch (·.burdenJudged ch ua))
/-- R96: a conducting stage reaches its 1.2 A limit. -/
def execLswSc (ch : Nat) (s : State) : Host.Outcome State Fault Refusal :=
  .next (s.onChan ch (fun s => if s.conducts ch then s.lswEvent ch 7 else s))
/-- R96: a stage reaches 170 °C. -/
def execLswOt (ch : Nat) (s : State) : Host.Outcome State Fault Refusal := .next (s.onChan ch (·.lswEvent ch 8))
/-- R96: a stage falls below 150 °C. -/
def execLswOtRecovered (ch : Nat) (s : State) : Host.Outcome State Fault Refusal :=
  .next (s.onChan ch (·.otRecovered ch))
/-- R77: the DI comparator with the pin at `mv` millivolts. -/
def execDiDebounce (ch : Nat) (mv : Int) (s : State) : Host.Outcome State Fault Refusal :=
  .next (s.onChan ch (·.diLevel ch mv))
/-- R77: a DI-TACH falling edge. -/
def execTachEdge (ch dt : Nat) (s : State) : Host.Outcome State Fault Refusal := .next (s.onChan ch (·.tachEdge ch dt))
/-- R77: no DI-TACH edge for 2 s. -/
def execTachTimeout (ch : Nat) (s : State) : Host.Outcome State Fault Refusal := .next (s.onChan ch (·.tachQuiet ch))
/-- R77: a DI-COUNT low of `lowUs` ends. -/
def execCountPulse (ch lowUs : Nat) (s : State) : Host.Outcome State Fault Refusal :=
  .next (s.onChan ch (·.countLow ch lowUs))
/-- R98: the failsafe drive of an FLT pair ends. -/
def execFltFailsafeTimeout (ch : Nat) (s : State) : Host.Outcome State Fault Refusal :=
  .next (s.onChan ch (·.failsafeEnds ch))

end Sys2Proof.Machine
end

