-- ==== Sys2Proof/Machine/CmdClk.lean ====
section
/-! DEFINITION. Meanings of the clock commands and of the reset commands (chapters *Clocks* and *Start-up and reset*). -/
set_option Elab.async false
namespace Sys2Proof.Machine
namespace State

/-- The device is not held in reset, so its clocks start or run (R470). -/
def clocksRun (s : State) (f : State → State) : State := if s.boot.rst.isNone then f s else s
/-- The MOSC monitor trips; while the PLL coasts, every port is DOWN (R472, R473). -/
def moscTrips (s : State) : State :=
  match s.moscTripped with
  | (true, s) => (List.range 4).foldl portDown s
  | (false, s) => s
/-- An HRC qualification attempt ends (R470 steps 2 and 3, R474). -/
def hrcAttempt (s : State) (ok : Bool) : State :=
  if s.clk.hrcQual || s.bit fClkStatSafeRosc then s
  else if ok then s.hrcPass
  else match s.hrcMiss with
    | (true, s) => s.safeRosc
    | (false, s) => s
/-- The field-die rails are up (R470 step 5). -/
def railsRise (s : State) : State :=
  if !s.clk.hrcQual || s.clk.railsUp.isSome || s.bit fClkStatSafeRosc then s
  else s.updClk (fun c => { c with railsUp := some s.now })
/-- MOSC qualifies `us` after the rails came up (R470 step 5). -/
def moscPass (s : State) (us : Nat) : State :=
  match s.clk.railsUp with
  | none => s
  | some t =>
    if s.bit fClkStatMoscOk || s.clk.moscTrip || s.clk.startHrc || !s.clk.hrcQual || s.bit fClkStatSafeRosc then s else
    let s := (s.at_ (t + us)).setB fClkStatMoscOk true
    ((s.set fClkQualMoscUs (min us 65535)).trimSource).tbSource
/-- MOSC has not qualified within 10 ms of the rails (R470 step 6). -/
def moscLate (s : State) : State :=
  match s.clk.railsUp with
  | none => s
  | some t =>
    if s.bit fClkStatMoscOk || s.bit fClkStatLock || s.clk.startHrc || !s.clk.hrcQual || s.bit fClkStatSafeRosc then s
    else ((s.at_ (t + 10000)).updClk (fun c => { c with startHrc := true })).clkFail
/-- The core reset is released: straps, recall, slot selection, port training (R482, R484). -/
def coreStarts (s : State) (serviceN bootSafeN : Bool) : State :=
  let s := s.releaseCore serviceN bootSafeN
  let s := (s.setSlot 0 (s.slot 0)).setSlot 1 (s.slot 1)
  s.startSelect
/-- The PLL locks and the domains restart; the first lock after a reset releases the core (R467, R470 step 7, R484). -/
def pllLocks (s : State) (serviceN bootSafeN : Bool) : State :=
  if s.bit fClkStatSafeRosc || s.bit fClkStatLock then s
  else if !(s.bit fClkStatMoscOk || ((s.clk.startHrc || s.boot.locked) && s.bit fClkStatHrcOk)) then s
  else
    let s := s.pllLock
    if s.boot.coreRst && !s.boot.rstN && !s.boot.lowCore then s.coreStarts serviceN bootSafeN else s
/-- MOSC or LXO has passed its monitor for 100 ms (R472). -/
def requalified (s : State) (src : Nat) : State :=
  if !s.clk.hrcQual || s.bit fClkStatSafeRosc then s
  else if (src = 0 && !s.bit fClkStatMoscOk && s.boot.locked) || (src = 1 && !s.bit fClkStatLxoOk) then s.sourceOk src
  else s

/-- The power-on reset is released as VFIELD rises through 17.0 V; a device that was running has lost its supply and starts
from it (R446, R479). -/
def powerOn (s : State) (coreSrc : Bool) : State :=
  let s := if s.boot.rst.isSome && s.boot.heldBy = 1 then s else s.assertReset 1
  s.coldRelease coreSrc
/-- VFIELD and the core rail are in range after a brown-out reset (R479). -/
def brownOutOver (s : State) (coreSrc : Bool) : State :=
  if s.boot.rst.isSome && s.boot.heldBy = 2 then s.coldRelease coreSrc else s
/-- RST_N has been low for `ns`: no effect below 500 ns, a reset from 2 µs, and between them one or the other (R479; log entry
10). -/
def rstLow (s : State) (ns : Nat) : State :=
  if ns < 500 then s
  else
    let (go, s) : Bool × State := if 2000 ≤ ns then (true, s) else s.freeBool 32
    if !go then s else
    let s := s.assertReset 3
    { s with boot := { s.boot with rstN := true } }
/-- The release of a reset of the kind in force: cold or warm (R477, R479). -/
def releaseKind (s : State) (t : Nat) : State := if s.boot.cold then s.coldRelease s.pwr.coreSrc else s.warmRelease t
/-- RST_N rises: its reset is released, or the core that waits for it starts (R479, R484). -/
def rstRises (s : State) (serviceN bootSafeN : Bool) : State :=
  if !s.boot.rstN then s else
  let s : State := { s with boot := { s.boot with rstN := false } }
  if s.boot.rst.isSome then (if s.boot.heldBy = 3 then s.releaseKind s.now else s)
  else if s.boot.coreRst && s.bit fClkStatLock && !s.boot.lowCore then s.coreStarts serviceN bootSafeN
  else s
/-- An internally caused reset is released 100 µs after its assertion (R479). -/
def innerRelease (s : State) : State :=
  if s.boot.rst.isSome && 4 ≤ s.boot.heldBy && s.boot.heldBy ≤ 8 then s.releaseKind (s.boot.rstAt + 100) else s

end State

/-- R472: the MOSC monitor trips. -/
def execMoscTrip (s : State) : Host.Outcome State Fault Refusal := .next (if s.coreOff then s else s.moscTrips)
/-- R472: the LXO monitor trips. -/
def execLxoTrip (s : State) : Host.Outcome State Fault Refusal := .next (if s.coreOff then s else s.lxoTripped)
/-- R472: the HRC monitor trips. -/
def execHrcTrip (s : State) : Host.Outcome State Fault Refusal := .next (if s.coreOff then s else s.hrcTripped)
/-- R464: the PLL loses lock. -/
def execPllLockLoss (s : State) : Host.Outcome State Fault Refusal := .next (s.clocksRun (·.pllLost))
/-- R467, R484: the PLL locks; the straps' levels are sampled when the core starts. -/
def execPllLocked (serviceN bootSafeN : Bool) (s : State) : Host.Outcome State Fault Refusal :=
  .next (s.clocksRun (·.pllLocks serviceN bootSafeN))
/-- R472: a tripped source is qualified again: 0 MOSC, 1 LXO. -/
def execSourceRequalified (src : Nat) (s : State) : Host.Outcome State Fault Refusal := .next (s.clocksRun (·.requalified src))
/-- R472, R473: CLK.CTRL written with RETURN = 1, the other fields as they read. -/
def execClockReturn (s : State) : Host.Outcome State Fault Refusal :=
  .next (s.hostWrite rClkCtrl (s.word rClkCtrl ||| 8#32))
/-- R470, R472: an HRC qualification attempt. -/
def execHrcQualAttempt (ok : Bool) (s : State) : Host.Outcome State Fault Refusal := .next (s.clocksRun (·.hrcAttempt ok))
/-- R470: MOSC is qualified. -/
def execMoscQualified (us : Nat) (s : State) : Host.Outcome State Fault Refusal := .next (s.clocksRun (·.moscPass us))
/-- R470: MOSC is late. -/
def execMoscQualTimeout (s : State) : Host.Outcome State Fault Refusal := .next (s.clocksRun (·.moscLate))
/-- R470: LXO qualifies. -/
def execLxoQualified (s : State) : Host.Outcome State Fault Refusal :=
  .next (s.clocksRun (fun s => if s.clk.hrcQual && !s.bit fClkStatLxoOk && !s.clk.lxoTrip then s.lxoPass else s))
/-- R475: the 1 ms trim step; `dev` is HRC's deviation in 0.001 %. -/
def execTrimStep (dev : Int) (s : State) : Host.Outcome State Fault Refusal := .next (if s.coreOff then s else s.trimStep dev)
/-- R465: a 100 ms discipline window ends. -/
def execDisciplineWindow (ppb : Int) (s : State) : Host.Outcome State Fault Refusal :=
  .next (if s.coreOff then s else s.discipline ppb)
/-- R472: HRC requalification is tried again. -/
def execNoFallbackRetry (s : State) : Host.Outcome State Fault Refusal := .next (if s.coreOff then s else s.noFallRetry)
/-- R475: EXTREF qualifies as a trim source. -/
def execExtrefQualified (s : State) : Host.Outcome State Fault Refusal := .next (if s.coreOff then s else s.extrefOk true)
/-- R475: EXTREF leaves its window. -/
def execExtrefDisqualified (s : State) : Host.Outcome State Fault Refusal :=
  .next (if s.coreOff then s else s.extrefOk false)
/-- R470: the rails are up after a cold release. -/
def execRailsUp (s : State) : Host.Outcome State Fault Refusal := .next (s.clocksRun (·.railsRise))
/-- R446, R479: VFIELD rises through 17.0 V. -/
def execPowerOnReset (coreSrc : Bool) (s : State) : Host.Outcome State Fault Refusal := .next (s.powerOn coreSrc)
/-- R479: a brown-out reset is released. -/
def execBrownOutRelease (coreSrc : Bool) (s : State) : Host.Outcome State Fault Refusal := .next (s.brownOutOver coreSrc)
/-- R479: RST_N has been held low. -/
def execRstNAssert (lowNs : Nat) (s : State) : Host.Outcome State Fault Refusal := .next (s.rstLow lowNs)
/-- R479: RST_N rises. -/
def execRstNRelease (serviceN bootSafeN : Bool) (s : State) : Host.Outcome State Fault Refusal :=
  .next (s.rstRises serviceN bootSafeN)
/-- R479: an internally caused reset is released. -/
def execResetRelease (s : State) : Host.Outcome State Fault Refusal := .next s.innerRelease

end Sys2Proof.Machine
end

