-- ==== Sys2Proof/Machine/CmdConv.lean ====
section
/-! DEFINITION. Meanings of the converter commands: scan, discharge, intervals, the sluice, self-checks and corrections
(chapter *Conversion cores, the scan and the sluice*). -/
set_option Elab.async false
namespace Sys2Proof.Machine
namespace State

/-- What the field die reports reaches converter core `c` while the device runs. -/
def onCore (s : State) (c : Nat) (f : State → State) : State := if c < 8 && !s.coreOff then f s else s
/-- A conversion completes, and a supply sample of slot 15 is judged (R103, R125, R453). -/
def scanStep (s : State) (c code : Nat) (ovf hi : Bool) : State :=
  let k := s.core c
  let s' := s.conversionDone c code ovf hi
  if k.run && k.ph = .conv && k.slot = 15 then s'.railSample c k.rail else s'
/-- An urgent result goes to its requester (R92, R124, R224, R240). -/
def urgentGive (s : State) (c code : Nat) (ovf hi : Bool) : State :=
  match s.urgentDone c code ovf hi with
  | none => s
  | some (slot, req, y, stale, s) =>
    let w := s.word (rConvSluiceLo c)
    let out := bitAt w 27 || bitAt w 26
    match req with
    | 1 => s.blkSampleDone c slot y out (bitAt w 25) stale
    | 2 => s.verifyResult (12 * c + slot) y
    | 3 => s.fanSampleDone c slot y out
    | _ => s
/-- The 1 ms block of die temperatures ends; TJ_CRIT and the derating follow the highest one (R125, R414, R460). -/
def tempEnds (s : State) (c : Nat) : State := ((s.tempBlock c).tjCheck).derate

end State

/-- R103, R125: a conversion of the scan completes. -/
def execConversionDone (core code : Nat) (ovf hi : Bool) (s : State) : Host.Outcome State Fault Refusal :=
  .next (s.onCore core (·.scanStep core code ovf hi))
/-- R116: a discharge ends. -/
def execDischargeEnd (core : Nat) (s : State) : Host.Outcome State Fault Refusal :=
  .next (s.onCore core (·.dischargeEnd core))
/-- R110: an output interval ends; a PIR detector takes the result (R146). -/
def execIntervalEnd (ch : Nat) (s : State) : Host.Outcome State Fault Refusal :=
  .next (s.onCore (ch / 12) (fun s => (s.intervalEnd ch).pirProcess ch))
/-- R118: SLUICE written with REQ = 1. -/
def execSluiceRequest (core slot : Nat) (s : State) : Host.Outcome State Fault Refusal :=
  .next (if core < 8 then s.hostWrite (rConvSluice core) (BitVec.ofNat 32 (0x100 + slot % 16)) else s)
/-- R120: an urgent conversion starts. -/
def execUrgentStart (core : Nat) (s : State) : Host.Outcome State Fault Refusal := .next (s.onCore core (·.urgentStart core))
/-- R124: an urgent conversion ends. -/
def execUrgentResult (core code : Nat) (ovf hi : Bool) (s : State) : Host.Outcome State Fault Refusal :=
  .next (s.onCore core (·.urgentGive core code ovf hi))
/-- R126: a block of 16 rounds ends. -/
def execSelfCheckBlockEnd (core : Nat) (s : State) : Host.Outcome State Fault Refusal :=
  .next (s.onCore core (·.selfCheckBlock core))
/-- R126: no conversion for 50 µs. -/
def execStall (core : Nat) (s : State) : Host.Outcome State Fault Refusal :=
  .next (s.onCore core (fun s => s.coreStall core (fun s => s.softReset (0x10 + core))))
/-- R125: the temperature block ends. -/
def execTempBlockEnd (core : Nat) (s : State) : Host.Outcome State Fault Refusal := .next (s.onCore core (·.tempEnds core))
/-- R113: COR_OFS_i or COR_GAIN_i written. -/
def execCorrectionWrite (core slot : Nat) (gain : Bool) (w : Word) (s : State) : Host.Outcome State Fault Refusal :=
  .next (if 8 ≤ core || 12 ≤ slot then s
    else s.hostWrite (if gain then rConvCorGain core slot else rConvCorOfs core slot) w)

end Sys2Proof.Machine
end

