-- ==== Sys2Proof/Machine/CmdFab.lean ====
section
/-! DEFINITION. Meanings of the commands of the links, the routes and fabric time (chapter *Parrin links and routing*), and of the
transmit side of a port (R341, R343). -/
set_option Elab.async false
namespace Sys2Proof.Machine
namespace State

/-- What happens at port `p` reaches it while the device runs. -/
def onPort (s : State) (p : Nat) (f : State → State) : State := if p < 4 && !s.coreOff then f s else s
/-- A LINK frame of kind `k` received at a port in INIT or UP; a malformed one is discarded (R318, R319). -/
def onLink (s : State) (p : Nat) (frame : List Byte) (k : Nat) (f : State → State) : State :=
  s.onPort p (fun s =>
    if s.pstate p ≠ 2 && s.pstate p ≠ 3 then s
    else if !frameOk frame then s.discard p frame true
    else if frVc frame = 5 && frKind frame = k then f s else s)
/-- The fabric's own timers run while its page is enabled. -/
def onFab (s : State) (f : State → State) : State := if !s.coreOff && s.en 0x78 then f s else s

end State

/-- R321: training of a port completes. -/
def execPhyLinkUp (port : Nat) (amp24 : Bool) (sqi : Nat) (s : State) : Host.Outcome State Fault Refusal :=
  .next (s.onPort port (·.phyUp port amp24 sqi))
/-- R321: loss of link. -/
def execPhyLinkDown (port : Nat) (s : State) : Host.Outcome State Fault Refusal := .next (s.onPort port (·.portDown port))
/-- R321: a partner is detected. -/
def execPhyTraining (port : Nat) (s : State) : Host.Outcome State Fault Refusal := .next (s.onPort port (·.phyTrain port))
/-- R320: the 100 ms HELLO of a port. -/
def execHelloTimer (port : Nat) (s : State) : Host.Outcome State Fault Refusal :=
  .next (s.onPort port (fun s => if s.pstate port = 2 || s.pstate port = 3 then s.sendHello port else s))
/-- R321: a HELLO arrives. -/
def execHelloReceived (port : Nat) (frame : List Byte) (s : State) : Host.Outcome State Fault Refusal :=
  .next (s.onLink port frame 0 (·.rxHello port frame))
/-- R321: 310 ms without a HELLO. -/
def execHelloTimeout (port : Nat) (s : State) : Host.Outcome State Fault Refusal := .next (s.onPort port (·.helloLost port))
/-- R324: an LSA arrives. -/
def execLsaReceived (port : Nat) (frame : List Byte) (s : State) : Host.Outcome State Fault Refusal :=
  .next (s.onLink port frame 1 (·.rxLsa port frame))
/-- R324: an LSA_ACK arrives. -/
def execLsaAckReceived (port : Nat) (frame : List Byte) (s : State) : Host.Outcome State Fault Refusal :=
  .next (s.onLink port frame 2 (·.rxAck port frame))
/-- R324: 20 ms without an acknowledgement. -/
def execLsaRetransmit (port : Nat) (s : State) : Host.Outcome State Fault Refusal :=
  .next (s.onPort port (fun s => if s.isUp port then s.retransmit port else s))
/-- R323: the 30 s refresh. -/
def execLsaRefresh (s : State) : Host.Outcome State Fault Refusal := .next (s.onFab (·.lsaRefresh))
/-- R324: an LSA has not been refreshed for 120 s. -/
def execLsaExpiry (uid : Nat) (s : State) : Host.Outcome State Fault Refusal := .next (s.onFab (·.lsaExpire uid))
/-- R333: 20 ms after the last change. -/
def execReconvergenceWaitEnd (s : State) : Host.Outcome State Fault Refusal := .next (s.onFab (·.reconvWait))
/-- R333, R360: the new route table replaces the old one, and reservations whose egress changed are released. -/
def execRouteTableReplace (s : State) : Host.Outcome State Fault Refusal :=
  .next (s.onFab (fun s => if s.fab.next.isSome then s.replaceTable.pathChange else s))
/-- R328: a GRANT arrives. -/
def execGrantReceived (port : Nat) (frame : List Byte) (s : State) : Host.Outcome State Fault Refusal :=
  .next (s.onLink port frame 6 (·.rxGrant port frame))
/-- R329: FAB.ADDR_REQ written. -/
def execAddrReq (w : Word) (s : State) : Host.Outcome State Fault Refusal := .next (s.hostWrite rFabAddrReq w)
/-- R335: the 1 s PDELAY_REQ of a port. -/
def execPdelayTimer (port : Nat) (s : State) : Host.Outcome State Fault Refusal := .next (s.onPort port (·.pdelayReq port))
/-- R335: a PDELAY_REQ arrives. -/
def execPdelayReqReceived (port : Nat) (frame : List Byte) (s : State) : Host.Outcome State Fault Refusal :=
  .next (s.onLink port frame 3 (·.rxPdelayReq port frame))
/-- R335: a PDELAY_RESP arrives. -/
def execPdelayRespReceived (port : Nat) (frame : List Byte) (s : State) : Host.Outcome State Fault Refusal :=
  .next (s.onLink port frame 4 (·.rxPdelayResp port frame))
/-- R336: 125 ms of fabric time. -/
def execSyncTimer (s : State) : Host.Outcome State Fault Refusal := .next (s.onFab (·.syncSend))
/-- R336, R337: a SYNC arrives. -/
def execSyncReceived (port : Nat) (frame : List Byte) (s : State) : Host.Outcome State Fault Refusal :=
  .next (s.onLink port frame 5 (·.rxSync port frame))
/-- R337: 1 s without an accepted SYNC. -/
def execSyncTimeout (s : State) : Host.Outcome State Fault Refusal := .next (s.onFab (·.syncLost))
/-- R341, R345: a fabric cycle starts. -/
def execFabricCycleStart (s : State) : Host.Outcome State Fault Refusal := .next (s.onFab (·.cycleStart))
/-- R341: the start of a reserved T slot. -/
def execTSlotStart (port slot : Nat) (s : State) : Host.Outcome State Fault Refusal :=
  .next (s.onPort port (·.tSlotStart port slot))
/-- R343: a port is free and starts its next frame. -/
def execFrameSent (port : Nat) (s : State) : Host.Outcome State Fault Refusal := .next (s.onPort port (·.frameStart port))
/-- R357: the forward point of a cycle. -/
def execTForwardPoint (s : State) : Host.Outcome State Fault Refusal := .next (s.onFab (·.tForward))
/-- R318: a frame that its reception discards. -/
def execDiscardedFrameReceived (port : Nat) (frame : List Byte) (fcsOk : Bool) (s : State) :
    Host.Outcome State Fault Refusal :=
  .next (s.onPort port (fun s =>
    if (s.pstate port = 2 || s.pstate port = 3) && !(fcsOk && State.frameOk frame) then s.discard port frame fcsOk else s))

end Sys2Proof.Machine
end

