-- ==== Sys2Proof/Machine/CmdDlv.lean ====
section
/-! DEFINITION. Meanings of the commands of delivery: frames received for this device or to be forwarded, transactions,
streams and subscriptions (chapters *Parrin delivery* and *The point directory*). -/
set_option Elab.async false
namespace Sys2Proof.Machine

/-- R357: a class-T frame arrives. -/
def execTFrameReceived (port : Nat) (frame : List Byte) (s : State) : Host.Outcome State Fault Refusal :=
  .next (s.onPort port (·.rxTFrame port frame))
/-- R380: a PUBLISH of class E arrives. -/
def execPublishReceived (port : Nat) (frame : List Byte) (s : State) : Host.Outcome State Fault Refusal :=
  .next (s.onPort port (·.rxKind port frame 1 1))
/-- R332: a frame for other devices arrives. -/
def execFrameForward (port : Nat) (frame : List Byte) (s : State) : Host.Outcome State Fault Refusal :=
  .next (s.onPort port (·.rxForward port frame))
/-- R376: a READ arrives. -/
def execReadRequest (port : Nat) (frame : List Byte) (s : State) : Host.Outcome State Fault Refusal :=
  .next (s.onPort port (·.rxKind port frame 1 2))
/-- R376: a WRITE arrives. -/
def execWriteRequest (port : Nat) (frame : List Byte) (s : State) : Host.Outcome State Fault Refusal :=
  .next (s.onPort port (·.rxKind port frame 1 3))
/-- R378: a SUBSCRIBE arrives. -/
def execSubscribeRequest (port : Nat) (frame : List Byte) (s : State) : Host.Outcome State Fault Refusal :=
  .next (s.onPort port (·.rxKind port frame 1 4))
/-- R378: an UNSUBSCRIBE arrives. -/
def execUnsubscribeRequest (port : Nat) (frame : List Byte) (s : State) : Host.Outcome State Fault Refusal :=
  .next (s.onPort port (·.rxKind port frame 1 5))
/-- R358: a STREAM_REQ arrives. -/
def execStreamReqReceived (port : Nat) (frame : List Byte) (s : State) : Host.Outcome State Fault Refusal :=
  .next (s.onPort port (·.rxPath port frame 6))
/-- R360: a STREAM_REL arrives. -/
def execStreamRelReceived (port : Nat) (frame : List Byte) (s : State) : Host.Outcome State Fault Refusal :=
  .next (s.onPort port (·.rxPath port frame 7))
/-- R360: a STREAM_LOST arrives. -/
def execStreamLostReceived (port : Nat) (frame : List Byte) (s : State) : Host.Outcome State Fault Refusal :=
  .next (s.onPort port (·.rxKind port frame 1 0xC))
/-- R419: an ALARM arrives. -/
def execAlarmReceived (port : Nat) (frame : List Byte) (s : State) : Host.Outcome State Fault Refusal :=
  .next (s.onPort port (·.rxKind port frame 1 9))
/-- R362: a QUERY arrives. -/
def execQueryRequest (port : Nat) (frame : List Byte) (s : State) : Host.Outcome State Fault Refusal :=
  .next (s.onPort port (·.rxKind port frame 3 0xA))
/-- R362: a QUERY_NEXT arrives. -/
def execQueryNextRequest (port : Nat) (frame : List Byte) (s : State) : Host.Outcome State Fault Refusal :=
  .next (s.onPort port (·.rxKind port frame 3 0xB))
/-- R351: a response arrives on E-resp or B-resp. -/
def execResponseReceived (port : Nat) (frame : List Byte) (s : State) : Host.Outcome State Fault Refusal :=
  .next (s.onPort port (fun s =>
    if frVc frame = 2 || frVc frame = 4 then s.rxKind port frame (frVc frame) (frKind frame) else s))
/-- R350: an attempt times out. -/
def execTransactionTimeout (tid : Nat) (s : State) : Host.Outcome State Fault Refusal := .next (s.onFab (·.xferTimeout tid))
/-- R360: every STREAM_REQ is repeated. -/
def execStreamRefresh (s : State) : Host.Outcome State Fault Refusal := .next (s.onFab (·.streamRefresh))
/-- R360: transit reservations not refreshed for 120 s. -/
def execTransitReservationExpiry (s : State) : Host.Outcome State Fault Refusal := .next (s.onFab (·.transitExpire))
/-- R26: admission records not refreshed for 120 s. -/
def execAdmissionRecordExpiry (s : State) : Host.Outcome State Fault Refusal := .next (s.onFab (·.admExpire))
/-- R378: subscribers not renewed for 180 s. -/
def execSubscriberExpiry (s : State) : Host.Outcome State Fault Refusal := .next (s.onFab (·.subExpire))
/-- R379: subscribing entries send SUBSCRIBE again. -/
def execSubscribeRefresh (s : State) : Host.Outcome State Fault Refusal := .next (s.onFab (·.subscribeRefresh))
/-- R349: a transaction ID becomes usable again. -/
def execTidQuarantineEnd (tid : Nat) (s : State) : Host.Outcome State Fault Refusal :=
  .next (s.onFab (·.tidQuarantineEnd tid))

end Sys2Proof.Machine
end

