-- ==== Sys2Proof/Machine/CmdFan.lean ====
section
/-! DEFINITION. Meanings of the block-network and fan-governor commands (chapters *The block network* and *Fan governors*). The
timed steps of a governor act when their instant is reached and its state still asks for them; a frame that captures after
the instant makes the same step itself. -/
set_option Elab.async false
namespace Sys2Proof.Machine
namespace State

/-- A governor that runs. -/
def onFan (s : State) (g : Nat) (f : State → State) : State :=
  if g < 24 && !s.coreOff && s.fanOn g && s.enAck (fanPage g) then f s else s
/-- START has lasted TSTART without a pulse (R239). -/
def fanStartDue (s : State) (g : Nat) : State :=
  let x := s.fanSt g
  if x.state ≠ 1 || x.verify ≠ 0 then s else
  s.fanDue g (x.t0 + 1000000 * s.eget (fFanCfgTstart g)) (fun s x cnt =>
    if x.mark ≠ some cnt then s.fanTo (s.fanRate g) g x 2 else
    let (x, s) := s.fanStartEnd (s.fanRate g) g x
    if x.state = 1 then s.fanVerify (s.fanRate g) g x else (x, s))
/-- RUN has lasted 2 s without a pulse at a duty above 0 (R239). -/
def fanPulseDue (s : State) (g : Nat) : State :=
  let x := s.fanSt g
  if x.state ≠ 2 || x.duty ≤ 0 then s else
  s.fanDue g (x.pulseAt + 2000000) (fun s x cnt =>
    if cnt ≠ x.cnt then (x, s) else s.fanPulseEnd (s.fanRate g) g x)
/-- The 5 s off time of a retry ends (R241). -/
def fanOffDue (s : State) (g : Nat) : State :=
  let x := s.fanSt g
  if x.state ≠ 3 then s else
  s.fanDue g (x.t0 + 5000000) (fun s x _ => s.fanTo (s.fanRate g) g x 4)
/-- The 2 s kick ends (R241). -/
def fanKickDue (s : State) (g : Nat) : State :=
  let x := s.fanSt g
  if x.state ≠ 4 then s else
  s.fanDue g (x.t0 + 2000000) (fun s x cnt => s.fanKickEnd (s.fanRate g) g { x with mark := some (x.mark.getD cnt) } cnt)
/-- The 20 s of a LEARN point end (R246). -/
def fanLearnDue (s : State) (g : Nat) : State :=
  let x := s.fanSt g
  if x.state ≠ 8 then s else
  s.fanDue g (x.t0 + 20000000) (fun s x cnt => s.fanPointEnd (s.fanRate g) g x cnt)
/-- A CAL minute boundary (R247). -/
def fanAgeDue (s : State) (g : Nat) : State :=
  let m := match (s.fanSt g).minute with | some m => m + 1 | none => s.now / 60000000
  s.fanDue g (60000000 * m) (fun s x _ => s.fanMinute (s.fanRate g) g x (max m (s.now / 60000000)))

end State

/-- R211: BLK.PARAM_VAL written. -/
def execParamRetune (w : Word) (s : State) : Host.Outcome State Fault Refusal := .next (s.hostWrite rBlkParamVal w)
/-- R209: BLK.VIEW_SEL written. -/
def execViewLoad (w : Word) (s : State) : Host.Outcome State Fault Refusal := .next (s.hostWrite rBlkViewSel w)
/-- R239, R240: no pulse TSTART after a start. -/
def execFanStartTimeout (fan : Nat) (s : State) : Host.Outcome State Fault Refusal := .next (s.onFan fan (·.fanStartDue fan))
/-- R239: no pulse for 2 s in RUN. -/
def execFanPulseTimeout (fan : Nat) (s : State) : Host.Outcome State Fault Refusal := .next (s.onFan fan (·.fanPulseDue fan))
/-- R241: the off time of a retry ends. -/
def execRetryOffEnd (fan : Nat) (s : State) : Host.Outcome State Fault Refusal := .next (s.onFan fan (·.fanOffDue fan))
/-- R241: a kick ends. -/
def execKickEnd (fan : Nat) (s : State) : Host.Outcome State Fault Refusal := .next (s.onFan fan (·.fanKickDue fan))
/-- R244: FANn.CMD.FLT_CLR written. -/
def execFanFltClr (fan : Nat) (s : State) : Host.Outcome State Fault Refusal :=
  .next (if fan < 24 then s.hostWrite (rFanCmd fan) 1#32 else s)
/-- R246: FANn.CMD.LEARN written. -/
def execLearn (fan : Nat) (s : State) : Host.Outcome State Fault Refusal :=
  .next (if fan < 24 then s.hostWrite (rFanCmd fan) 2#32 else s)
/-- R246: FANn.CMD.LEARN_ABORT written. -/
def execLearnAbort (fan : Nat) (s : State) : Host.Outcome State Fault Refusal :=
  .next (if fan < 24 then s.hostWrite (rFanCmd fan) 4#32 else s)
/-- R246: a LEARN duty has been held for 20 s. -/
def execLearnPointEnd (fan : Nat) (s : State) : Host.Outcome State Fault Refusal := .next (s.onFan fan (·.fanLearnDue fan))
/-- R247: AGE is updated. -/
def execAgeUpdate (fan : Nat) (s : State) : Host.Outcome State Fault Refusal := .next (s.onFan fan (·.fanAgeDue fan))

end Sys2Proof.Machine
end

