-- ==== Sys2Proof/Machine/CmdFault.lean ====
section
/-! DEFINITION. Meanings of the fault-manager commands (chapter *Faults, interrupts and failsafe*). -/
set_option Elab.async false
namespace Sys2Proof.Machine
namespace State

/-- The processing of one request has lasted 1 ms: the failsafe path trips and the manager stops (R418). -/
def fmLate (s : State) : State :=
  match s.flt.proc with
  | none => s
  | some (_, t) => if s.flt.stopped then s else (s.at_ (t + 1000)).fmStop 6

end State

/-- R408: the processing of a request completes; an alarm that it queued may be sent (R419). -/
def execFaultProcessingDone (s : State) : Host.Outcome State Fault Refusal :=
  .next (if s.coreOff then s else s.faultProcessed.pumpAlarms)
/-- R412: the ordinary queue has been full for one lath period. -/
def execQueueOverflow (s : State) : Host.Outcome State Fault Refusal := .next (if s.coreOff then s else s.queueOverflow)
/-- R418: processing beyond 1 ms. -/
def execFmWatchdog (s : State) : Host.Outcome State Fault Refusal := .next (if s.coreOff then s else s.fmLate)
/-- R418: an uncorrectable error in the fault manager's memory. -/
def execFmStateError (s : State) : Host.Outcome State Fault Refusal :=
  .next (if s.coreOff || s.flt.stopped then s else s.fmStop 5)
/-- R413: FAULT.CTRL written with CLR = 1, CRIT_POLICY as it reads. -/
def execFaultClr (s : State) : Host.Outcome State Fault Refusal :=
  .next (s.hostWrite rFaultCtrl (s.word rFaultCtrl ||| 1#32))
/-- R416: the scrub, with the errors that it met. -/
def execSramScrub (corr : Nat) (uncorr : Option Nat) (s : State) : Host.Outcome State Fault Refusal :=
  .next (if s.coreOff then s else s.sramErrors corr uncorr)
/-- R414: ten seconds below 125 °C. -/
def execTjCritClear (s : State) : Host.Outcome State Fault Refusal := .next (if s.coreOff then s else s.tjClear)

end Sys2Proof.Machine
end

