-- ==== Sys2Proof/Machine/CmdFrame.lean ====
section
/-! DEFINITION. Meanings of the frame commands: edges, phases, missed edges, the activation check, the switch, the period
gap, and parameters that take effect (R13, R14, R18, R27, R33, R34, R38). -/
set_option Elab.async false
namespace Sys2Proof.Machine

/-- R13, R36, R37: the lath edge. -/
def execLathEdge (unfinished : Nat) (meas : Meas) (s : State) : Host.Outcome State Fault Refusal :=
  .next (s.lathEdge unfinished meas)
/-- R13: a phase has finished for every item it holds. -/
def execLathPhaseDone (s : State) : Host.Outcome State Fault Refusal :=
  .next (if s.framesRun then s.phaseDone else s)
/-- R14, R36: the skim edge. -/
def execSkimEdge (unfinished : Nat) (meas : Meas) (s : State) : Host.Outcome State Fault Refusal :=
  .next (s.skimEdge unfinished meas)
/-- R38: LATH.CTRL written with MISS_CLR = 1, the other fields as they read. -/
def execMissClr (s : State) : Host.Outcome State Fault Refusal :=
  .next (s.hostWrite rLathCtrl (s.word rLathCtrl ||| 1#32))
/-- R27: LATH checks the pending configuration. -/
def execLathActivationCheck (s : State) : Host.Outcome State Fault Refusal :=
  .next (if s.coreOff then s else s.activationCheck)
/-- R33: the switch edge E. -/
def execConfigSwitch (s : State) : Host.Outcome State Fault Refusal := .next s.configSwitch
/-- R34: E′. -/
def execPeriodGapEnd (s : State) : Host.Outcome State Fault Refusal := .next s.periodGapEnd
/-- R18: a written parameter takes effect at the capture edge of its rate. -/
def execParamTakeEffect (skimRate : Bool) (s : State) : Host.Outcome State Fault Refusal :=
  .next (s.paramEffect (if skimRate then .skim else .lath))

end Sys2Proof.Machine
end

