-- ==== Sys2Proof/Machine/CmdLevee.lean ====
section
/-! DEFINITION. Meanings of the levee's commands: the command frames of R384, from the mailbox or from a peer, its store runs and
timers, and the key and session registers (chapter *The levee*). -/
set_option Elab.async false
namespace Sys2Proof.Machine
namespace State

/-- A command frame comes in whole (R383): pushed into the mailbox by the host, or as a COMMAND at a port. -/
def takeCommand (s : State) (src : CmdSrc) (f : List Byte) : State :=
  match src with
  | .mailbox => s.hostFrame f
  | .fabric p => s.onPort p (fun s => (s.rxCommand p f).takeCmdReset)

end State

/-- R385: REG_WRITE, and a frame whose op R384 does not know. -/
def execRegWrite (src : CmdSrc) (frame : List Byte) (s : State) : Host.Outcome State Fault Refusal :=
  .next (if cmdOp frame = 0x01 || !knownOp (cmdOp frame) then s.takeCommand src frame else s)
/-- R283: STORE_GO. -/
def execStoreGo (src : CmdSrc) (frame : List Byte) (s : State) : Host.Outcome State Fault Refusal :=
  .next (if cmdOp frame = 0x02 then s.takeCommand src frame else s)
/-- R306: ACTIVATE. -/
def execActivateOp (src : CmdSrc) (frame : List Byte) (s : State) : Host.Outcome State Fault Refusal :=
  .next (if cmdOp frame = 0x03 then s.takeCommand src frame else s)
/-- R385: PAGE_UNLOCK. -/
def execPageUnlock (src : CmdSrc) (frame : List Byte) (s : State) : Host.Outcome State Fault Refusal :=
  .next (if cmdOp frame = 0x04 then s.takeCommand src frame else s)
/-- R398: KEY_ROLL. -/
def execKeyRoll (src : CmdSrc) (frame : List Byte) (s : State) : Host.Outcome State Fault Refusal :=
  .next (if cmdOp frame = 0x10 then s.takeCommand src frame else s)
/-- R390: SESSION_SET. -/
def execSessionSet (src : CmdSrc) (frame : List Byte) (s : State) : Host.Outcome State Fault Refusal :=
  .next (if cmdOp frame = 0x11 then s.takeCommand src frame else s)
/-- R390: SESSION_CLR. -/
def execSessionClr (src : CmdSrc) (frame : List Byte) (s : State) : Host.Outcome State Fault Refusal :=
  .next (if cmdOp frame = 0x12 then s.takeCommand src frame else s)
/-- R400: TRUST_SET. -/
def execTrustSet (src : CmdSrc) (frame : List Byte) (s : State) : Host.Outcome State Fault Refusal :=
  .next (if cmdOp frame = 0x13 then s.takeCommand src frame else s)
/-- R399: KEY_ERASE. -/
def execKeyErase (src : CmdSrc) (frame : List Byte) (s : State) : Host.Outcome State Fault Refusal :=
  .next (if cmdOp frame = 0x14 then s.takeCommand src frame else s)
/-- R384: GRACE_SET. -/
def execGraceSet (src : CmdSrc) (frame : List Byte) (s : State) : Host.Outcome State Fault Refusal :=
  .next (if cmdOp frame = 0x15 then s.takeCommand src frame else s)
/-- R389: IDENT. -/
def execIdent (src : CmdSrc) (frame : List Byte) (s : State) : Host.Outcome State Fault Refusal :=
  .next (if cmdOp frame = 0x20 then s.takeCommand src frame else s)
/-- R393: a floor is committed and the waiting frame is applied. -/
def execSessionRecordCommitted (s : State) : Host.Outcome State Fault Refusal :=
  .next (if s.coreOff then s else s.levFloorTake.takeCmdReset)
/-- R394: a quarantine ends. -/
def execQuarantineEnd (session : Nat) (s : State) : Host.Outcome State Fault Refusal :=
  .next (if s.coreOff then s else s.quarEnd session)
/-- R398: the grace time ends. -/
def execGraceExpiry (s : State) : Host.Outcome State Fault Refusal := .next (if s.coreOff then s else s.graceEnd)
/-- R397: KEY_CMD.PROVISION written. -/
def execKeyProvision (s : State) : Host.Outcome State Fault Refusal := .next (s.hostWrite rLeveeKeyCmd 1#32)
/-- R390: SESS_CFG written. -/
def execSessionBind (w : Word) (s : State) : Host.Outcome State Fault Refusal := .next (s.hostWrite rLeveeSessCfg w)
/-- R401: CMD_CTRL.DISCARD written. -/
def execLeveeDiscard (s : State) : Host.Outcome State Fault Refusal := .next (s.hostWrite rLeveeCmdCtrl 1#32)

end Sys2Proof.Machine
end

