-- ==== Sys2Proof/Machine/CmdNstore.lean ====
section
/-! DEFINITION. Meanings of the configuration-image, activation, trend and query commands (chapter *The NAND store*). -/
set_option Elab.async false
namespace Sys2Proof.Machine

/-- R304: IMG_CTRL.OPEN written. -/
def execImageOpen (s : State) : Host.Outcome State Fault Refusal := .next (s.hostWrite rNstoreImgCtrl 1#32)
/-- R304: the slot erase completes. -/
def execSlotEraseDone (s : State) : Host.Outcome State Fault Refusal := .next (if s.coreOff then s else s.slotErased)
/-- R304: a MAILBOX push to IMG_MBX. -/
def execImagePush (t : Xact) (s : State) : Host.Outcome State Fault Refusal :=
  .next (if xactOp t = 4 && xactStart t = rNstoreImgMbx then s.hostXact t else s)
/-- R304: IMG_CTRL.CLOSE written. -/
def execImageClose (s : State) : Host.Outcome State Fault Refusal := .next (s.hostWrite rNstoreImgCtrl 2#32)
/-- R304: the checks of a loaded image finish. -/
def execImageCheckDone (s : State) : Host.Outcome State Fault Refusal := .next (if s.coreOff then s else s.imageChecked)
/-- R304: IMG_CTRL.ABORT written. -/
def execImageAbort (s : State) : Host.Outcome State Fault Refusal := .next (s.hostWrite rNstoreImgCtrl 4#32)
/-- R306: ACTIVATE written with GO = 1 and the slot. -/
def execActivate (slot : Nat) (s : State) : Host.Outcome State Fault Refusal :=
  .next (s.hostWrite rNstoreActivate (BitVec.ofNat 32 (1 + 0x100 * (slot % 2))))
/-- R308: the record of the activated slot is written. -/
def execSlotRecordWritten (s : State) : Host.Outcome State Fault Refusal := .next (if s.coreOff then s else s.slotRecord)
/-- R309: a start-up attempt ends. -/
def execSlotAttemptDone (s : State) : Host.Outcome State Fault Refusal :=
  .next (if s.coreOff then s else s.slotAttemptDone)
/-- R314: a MAILBOX push to QRY_MBX. -/
def execQuery (t : Xact) (s : State) : Host.Outcome State Fault Refusal :=
  .next (if xactOp t = 4 && xactStart t = rNstoreQryMbx then s.hostXact t else s)
/-- R314: a chunk is posted in REPLY. -/
def execQueryChunkPosted (s : State) : Host.Outcome State Fault Refusal := .next (if s.coreOff then s else s.hostChunk)
/-- R314: QRY_NEXT.NEXT written. -/
def execQueryNext (s : State) : Host.Outcome State Fault Refusal := .next (s.hostWrite rNstoreQryNext 1#32)
/-- R314: QRY_NEXT.CANCEL written. -/
def execQueryCancel (s : State) : Host.Outcome State Fault Refusal := .next (s.hostWrite rNstoreQryNext 2#32)
/-- R312: a unit of trend records is programmed; at PFW the partly filled one too. -/
def execTrendUnitProgrammed (ok : Bool) (s : State) : Host.Outcome State Fault Refusal :=
  .next (if s.coreOff then s else s.trendProgram ok s.pwr.pfwAt.isSome)

end Sys2Proof.Machine
end

