-- ==== Sys2Proof/Machine/CmdPanel.lean ====
section
/-! DEFINITION. Meanings of the service-panel commands: keys, encoders, combinations, panel writes and the display (chapter *The
service panel*). -/
set_option Elab.async false
namespace Sys2Proof.Machine

/-- A one-word READ with its right CRC (log entry 2). -/
def readXact (a : Nat) : Xact :=
  let t : Xact := { cmd := 0x10#8, addr := BitVec.ofNat 24 a }
  { t with crc := BitVec.ofNat 16 (crc16 (xactBytes t)) }

namespace State

/-- The display's driver works while its page is enabled. -/
def onEpd (s : State) (f : State → State) : State := if !s.coreOff && s.en 0x91 then f s else s
/-- What a fired combination does to the device (R428): SYSTEM_RESET, or FACTORY_RESTORE and then SYSTEM_RESET. -/
def comboActs (s : State) (k : Nat) : State :=
  match s.comboFire k with
  | (some 0, s) => s.assertReset 4
  | (some 3, s) => s.keyErase.2.assertReset 4
  | (_, s) => s
/-- The fixed combination (R429). -/
def fixedFires (s : State) : State :=
  if s.key.fixed then s else (s.updKey (fun k => { k with fixed := true })).assertReset 4

end State

/-- R422: a row reads low while the matrix is idle. -/
def execKeyWake (s : State) : Host.Outcome State Fault Refusal := .next (if s.coreOff then s else s.keyWake)
/-- R423: a 1 ms scan. -/
def execKeyScan (rows : Matrix) (s : State) : Host.Outcome State Fault Refusal :=
  .next (if s.boot.coreRst then s else s.keyScan rows)
/-- R422: the matrix returns to idle. -/
def execKeyIdle (s : State) : Host.Outcome State Fault Refusal := .next (if s.coreOff then s else s.keyIdle)
/-- R425: KEY.EVT read by the host. -/
def execKeyEventRead (s : State) : Host.Outcome State Fault Refusal := .next (s.hostXact (readXact rKeyEvt))
/-- R426: a debounced level pair of an encoder. -/
def execEncoderTransition (enc ab : Nat) (s : State) : Host.Outcome State Fault Refusal :=
  .next (if s.coreOff || !s.en 0x90 then s else s.encoderMove enc ab)
/-- R427, R428: a combination has matched for HOLD. -/
def execComboFire (k : Nat) (s : State) : Host.Outcome State Fault Refusal :=
  .next (if s.coreOff then s else s.comboActs k)
/-- R429: the fixed combination has been held for 10 s. -/
def execFixedCombo (s : State) : Host.Outcome State Fault Refusal := .next s.fixedFires
/-- R428: PANEL_UNLOCK runs out. -/
def execUnlockExpiry (s : State) : Host.Outcome State Fault Refusal := .next (if s.coreOff then s else s.unlockExpiry)
/-- R430: KEY.PANEL_WR written with REL = 0. -/
def execPanelWrite (w : Word) (s : State) : Host.Outcome State Fault Refusal :=
  .next (s.hostWrite rKeyPanelWr (w &&& 0x7FFFFFFF#32))
/-- R430: KEY.PANEL_WR written with REL = 1. -/
def execPanelRelinquish (w : Word) (s : State) : Host.Outcome State Fault Refusal :=
  .next (s.hostWrite rKeyPanelWr (w ||| 0x80000000#32))
/-- R428: KEY.CMD.LOCK written. -/
def execPanelLock (s : State) : Host.Outcome State Fault Refusal := .next (s.hostWrite rKeyCmd 1#32)
/-- R437: EPD.UPD_CMD written. -/
def execUpdateRequest (w : Word) (s : State) : Host.Outcome State Fault Refusal := .next (s.hostWrite rEpdUpdCmd w)
/-- R437: a panel frame boundary. -/
def execEpdFrameBoundary (s : State) : Host.Outcome State Fault Refusal := .next (s.onEpd (·.epdBoundary))
/-- R438: an update's pixels are copied. -/
def execUpdateCopyDone (id : Nat) (s : State) : Host.Outcome State Fault Refusal := .next (s.onEpd (·.updCopied id))
/-- R438: 200 ms without a valid checksum. -/
def execCrcStale (s : State) : Host.Outcome State Fault Refusal := .next (s.onEpd (·.crcStale))
/-- R439, R443: a checksum pass begins, whether the page is enabled or not. -/
def execFbCrcPass (s : State) : Host.Outcome State Fault Refusal := .next (if s.coreOff then s else s.crcPass)
/-- R439: a checksum pass ends. -/
def execFbCrcPassEnd (s : State) : Host.Outcome State Fault Refusal := .next (if s.coreOff then s else s.crcPassEnd)
/-- R433: a power-up step of the panel rails ends. -/
def execRailStep (good : Bool) (s : State) : Host.Outcome State Fault Refusal := .next (s.onEpd (·.railStep good))
/-- R433: no update for RAIL_HOLD. -/
def execRailHoldExpiry (s : State) : Host.Outcome State Fault Refusal := .next (s.onEpd (·.railHold))
/-- R433: a shutdown step of the panel rails ends. -/
def execRailDownStep (s : State) : Host.Outcome State Fault Refusal := .next (s.onEpd (·.railDown))

end Sys2Proof.Machine
end

