-- ==== Sys2Proof/Machine/CmdPort.lean ====
section
/-! DEFINITION. Meanings of the host-port commands and of the common header of every block page: transactions, LOCK, soft
reset, enable, clock gate, interrupt registers, NME_STAT and RST_CMD (chapter *Register space and the host port*). A row
that is a register write is one WRITE transaction of one word (log entry 2). -/
set_option Elab.async false
namespace Sys2Proof.Machine

/-- A page of the register space, as an operand names it. -/
def isPage (p : Nat) : Bool := p < 0x100

/-- R58, R61: a READ transaction, or one whose command byte names no operation. -/
def execHostRead (t : Xact) (s : State) : Host.Outcome State Fault Refusal :=
  .next (if xactOp t = 2 || xactOp t = 4 then s else s.hostXact t)
/-- R63, R65: a WRITE or MAILBOX transaction. -/
def execRegisterWrite (t : Xact) (s : State) : Host.Outcome State Fault Refusal :=
  .next (if xactOp t = 2 || xactOp t = 4 then s.hostXact t else s)
/-- R47: the snapshot is released. -/
def execSnapshotExpiry (s : State) : Host.Outcome State Fault Refusal := .next (if s.coreOff then s else s.snapExpire)
/-- R48: a staged LO write without its HI write is discarded. -/
def execPairTimeout (s : State) : Host.Outcome State Fault Refusal := .next (if s.coreOff then s else s.pairExpire)
/-- R55: a write to LOCK. -/
def execLockWrite (page : Nat) (w : Word) (s : State) : Host.Outcome State Fault Refusal :=
  .next (if isPage page then s.hostWrite (rLock page) w else s)
/-- R50: BLK_CTRL written with SOFT_RST = 1. -/
def execSoftReset (page : Nat) (w : Word) (s : State) : Host.Outcome State Fault Refusal :=
  .next (if isPage page then s.hostWrite (rBlkCtrl page) (w ||| 2#32) else s)
/-- R50: the soft reset of a page ends. -/
def execSoftResetDone (page : Nat) (s : State) : Host.Outcome State Fault Refusal :=
  .next (if s.coreOff then s else s.softResetEnd page)
/-- R51: BLK_CTRL written, SOFT_RST = 0. -/
def execBlockEnable (page : Nat) (w : Word) (s : State) : Host.Outcome State Fault Refusal :=
  .next (if isPage page then s.hostWrite (rBlkCtrl page) (w &&& 0xFFFFFFFD#32) else s)
/-- R469: BLK_CTRL written with GATE_REQ = 1. -/
def execGateRequest (page : Nat) (w : Word) (s : State) : Host.Outcome State Fault Refusal :=
  .next (if isPage page then s.hostWrite (rBlkCtrl page) ((w ||| 4#32) &&& 0xFFFFFFFD#32) else s)
/-- R469: the gate is forced with an access in flight. -/
def execGateForce (page off : Nat) (write took : Bool) (w : Word) (s : State) : Host.Outcome State Fault Refusal :=
  .next (if isPage page then s.gateForce page off write took w else s)
/-- R469: BLK_CTRL written with GATE_REQ = 0. -/
def execUngate (page : Nat) (w : Word) (s : State) : Host.Outcome State Fault Refusal :=
  .next (if isPage page then s.hostWrite (rBlkCtrl page) (w &&& 0xFFFFFFF9#32) else s)
/-- R54: IRQ_TEST written. -/
def execIrqTestWrite (page : Nat) (w : Word) (s : State) : Host.Outcome State Fault Refusal :=
  .next (if isPage page then s.hostWrite (rIrqTest page) w else s)
/-- R4, R54: IRQ_STAT written. -/
def execIrqStatClear (page : Nat) (w : Word) (s : State) : Host.Outcome State Fault Refusal :=
  .next (if isPage page then s.hostWrite (rIrqStat page) w else s)
/-- R70: SYS.NME_STAT written. -/
def execNmeClear (w : Word) (s : State) : Host.Outcome State Fault Refusal := .next (s.hostWrite rSysNmeStat w)
/-- R71: SYS.RST_CMD written. -/
def execRstCmd (w : Word) (s : State) : Host.Outcome State Fault Refusal := .next (s.hostWrite rSysRstCmd w)

end Sys2Proof.Machine
end

