-- ==== Sys2Proof/Machine/CmdPower.lean ====
section
/-! DEFINITION. Meanings of the supply commands: power-fail warning, brown-out, VFIELD limits and shedding (chapter *Supply, power
governor and heat*). -/
set_option Elab.async false
namespace Sys2Proof.Machine
namespace State

/-- The core reset of a brown-out, once the PFW work or the hold-up has ended (R451). -/
def brownOutReset (s : State) : State := if s.pwr.bor && !s.boot.coreRst then s.assertReset 2 else s
/-- VFIELD has stayed above 17.0 V for 100 ms after PFW (R415). -/
def pfwRecovers (s : State) : State :=
  match s.pwr.pfwAt with
  | none => s
  | some t => if s.pwr.bor then s else (s.at_ (t + 100000)).assertReset 2

end State

/-- R450: the power-fail warning. -/
def execPfw (s : State) : Host.Outcome State Fault Refusal := .next (if s.coreOff then s else s.pfwTrip)
/-- R446: a dip shorter than 200 µs. -/
def execVfieldDip (s : State) : Host.Outcome State Fault Refusal := .next (if s.coreOff then s else s.vfieldDip)
/-- R451: VFIELD below 14.0 V. -/
def execBrownOut (s : State) : Host.Outcome State Fault Refusal := .next (if s.coreOff then s else s.brownOut)
/-- R451: the core reset of a brown-out. -/
def execBrownOutCoreReset (s : State) : Host.Outcome State Fault Refusal := .next s.brownOutReset
/-- R415: VFIELD has recovered after PFW. -/
def execPfwRecoveryReset (s : State) : Host.Outcome State Fault Refusal := .next (if s.coreOff then s else s.pfwRecovers)
/-- R449: the core rail is low. -/
def execCoreUndervoltage (s : State) : Host.Outcome State Fault Refusal :=
  .next (if s.boot.coreRst then s else s.coreUv.assertReset 2)
/-- R446: VFIELD below 18.0 V for 1 s. -/
def execVfieldLow (s : State) : Host.Outcome State Fault Refusal := .next (if s.coreOff then s else s.vfieldSet 0 0x1003 true)
/-- R446: VFIELD above 36.5 V for 1 s. -/
def execVfieldHigh (s : State) : Host.Outcome State Fault Refusal := .next (if s.coreOff then s else s.vfieldSet 1 0x1004 true)
/-- R458: the restore conditions have held for RESTORE_T. -/
def execShedRestore (s : State) : Host.Outcome State Fault Refusal := .next (if s.coreOff then s else s.shedRestore)

end Sys2Proof.Machine
end

