-- ==== Sys2Proof/Machine/CmdSense.lean ====
section
/-! DEFINITION. Meanings of the sensing and room-unit commands: live transform writes and the Modbus poll cycle (chapter
*Sensing, room units and presence*). -/
set_option Elab.async false
namespace Sys2Proof.Machine
namespace State
/-- What the wires of RBUS port `p` do reaches it while the device runs. -/
def onBus (s : State) (p : Nat) (f : State → State) : State := if p < 4 && !s.coreOff then f s else s
end State

/-- R518: a register of the SENSE page written. -/
def execXformWrite (addr : Nat) (w : Word) (s : State) : Host.Outcome State Fault Refusal :=
  .next (if addr / 0x1000 = 0x18 then s.hostWrite addr w else s)
/-- R140: a poll cycle starts. -/
def execPollCycleStart (port : Nat) (s : State) : Host.Outcome State Fault Refusal := .next (s.onBus port (·.pollStart port))
/-- R141: the bytes of a reply. -/
def execModbusReply (port : Nat) (bytes : List Byte) (s : State) : Host.Outcome State Fault Refusal :=
  .next (s.onBus port (·.modbusReply port bytes))
/-- R141: no reply within TIMEOUT. -/
def execReplyTimeout (port : Nat) (s : State) : Host.Outcome State Fault Refusal := .next (s.onBus port (·.replyTimeout port))
/-- R141: the silence before a retry ends. -/
def execRetryGapEnd (port : Nat) (s : State) : Host.Outcome State Fault Refusal := .next (s.onBus port (·.retryGapEnd port))

end Sys2Proof.Machine
end

