-- ==== Sys2Proof/Machine/CmdStore.lean ====
section
/-! DEFINITION. Meanings of the parameter-store and peat commands (chapter *The parameter store and peat*). -/
set_option Elab.async false
namespace Sys2Proof.Machine
namespace State

/-- A page of the running run is programmed and verified, or fails its verification; ended runs reach their engines (R274,
R277, R280). -/
def pageProgrammed (s : State) (ok : Bool) : State := (s.pageDone ok).runsEnded
/-- The arming of R285 runs out. -/
def armExpire (s : State) : State :=
  match s.sto.armed with
  | none => s
  | some t => (s.at_ (t + 100000)).storeDisarm
/-- The WP_N ball changes level (R285). -/
def wpChange (s : State) (high : Bool) : State :=
  if s.sto.wpHigh = high then s else
  let s := (s.updSto (fun t => { t with wpHigh := high })).setB fSysStrapsWpN high
  let s := if s.boot.coreRst then s else s.irq 0x00 1
  if high then s else s.storeDisarm
/-- Recall ends: the store serves its image; peat, the zone models, the levee and the fabric take their records (R199, R286,
R293, R327, R388, R395). -/
def recallDone (s : State) : State :=
  if s.coreOff || s.sto.served then s
  else ((((s.storeRecall.peatRecall).tmePowerUp).levRecall).levStart).fabStart
/-- The levee may use the counters of a completed reservation (R395). -/
def reservationDone (s : State) : State :=
  if s.coreOff || !s.sto.served || s.sto.resv || s.lev.dead then s
  else ((s.updLev (fun l => { l with ready := true })).levFaces).originateWaiting

end State

/-- R275: a WRITE whose address lies in the store window. -/
def execStoreWindowWrite (t : Xact) (s : State) : Host.Outcome State Fault Refusal :=
  .next (if xactOp t = 2 && winOf (xactStart t) = some 2 then s.hostXact t else s)
/-- R275: RUN_ADDR, then RUN_LEN written. -/
def execRunSetup (addr len : Word) (s : State) : Host.Outcome State Fault Refusal :=
  .next ((s.hostWrite rStoreRunAddr addr).hostWrite rStoreRunLen len)
/-- R275: a MAILBOX push to RUN_MBX. -/
def execStoreRunPush (t : Xact) (s : State) : Host.Outcome State Fault Refusal :=
  .next (if xactOp t = 4 && xactStart t = rStoreRunMbx then s.hostXact t else s)
/-- R276: RUN_CTRL.GO written. -/
def execRunGo (s : State) : Host.Outcome State Fault Refusal := .next (s.hostWrite rStoreRunCtrl 1#32)
/-- R275: RUN_CTRL.DISCARD written. -/
def execRunDiscard (s : State) : Host.Outcome State Fault Refusal := .next (s.hostWrite rStoreRunCtrl 2#32)
/-- R277, R280: a page is programmed. -/
def execPageProgrammed (ok : Bool) (s : State) : Host.Outcome State Fault Refusal := .next (s.pageProgrammed ok)
/-- R285: UNLOCK written. -/
def execStoreUnlock (w : Word) (s : State) : Host.Outcome State Fault Refusal := .next (s.hostWrite rStoreUnlock w)
/-- R285: arming ends. -/
def execArmTimeout (s : State) : Host.Outcome State Fault Refusal := .next (if s.coreOff then s else s.armExpire)
/-- R285: PROTECT written. -/
def execProtectWrite (w : Word) (s : State) : Host.Outcome State Fault Refusal := .next (s.hostWrite rStoreProtect w)
/-- R285: the WP_N ball changes. -/
def execWpChange (high : Bool) (s : State) : Host.Outcome State Fault Refusal := .next (s.wpChange high)
/-- R286: recall completes. -/
def execRecallDone (s : State) : Host.Outcome State Fault Refusal := .next s.recallDone
/-- R292: an ordinary flush is due. -/
def execPeatFlush (s : State) : Host.Outcome State Fault Refusal := .next (if s.coreOff then s else s.peatFlushDue)
/-- R292: PEAT.CTRL.FLUSH_NOW written. -/
def execFlushNow (s : State) : Host.Outcome State Fault Refusal := .next (s.hostWrite rPeatCtrl 1#32)
/-- R289: a program of a bank completes. -/
def execPeatProgramDone (bank : Nat) (ok : Bool) (s : State) : Host.Outcome State Fault Refusal :=
  .next (if bank < 4 then (s.peatDone bank ok).2 else s)
/-- R297, R48: PRESET_LO, then PRESET_HI written. -/
def execPeatPreset (lo hi : Word) (s : State) : Host.Outcome State Fault Refusal :=
  .next ((s.hostWrite rPeatPresetLo lo).hostWrite rPeatPresetHi hi)
/-- R395: a counter reservation has completed. -/
def execReservationDone (s : State) : Host.Outcome State Fault Refusal := .next s.reservationDone

end Sys2Proof.Machine
end

