-- ==== Sys2Proof/Machine/CmdZone.lean ====
section
/-! DEFINITION. Meanings of the zone, loop and zone-model commands (chapters *Zones and loops* and *Zone thermal models*). -/
set_option Elab.async false
namespace Sys2Proof.Machine

namespace State

/-- The snapshot of every zone's record, at SAVE_HOUR:00 local time (R198). -/
def snapshotRun (s : State) : State :=
  if !s.enAck 0x60 || !s.bit fTmeCfgSaveEn then s else
  let tod : Int := 3600 * s.get fTmeCfgSaveHour
  let day := s.localDay s.calSec
  let today := s.localInstant day tod
  let due := if today + 60 ≤ s.calSec then s.localInstant (day + 1) tod else today
  let s := s.at_ (1000000 * due.toNat)
  let (ok, s) := s.engineRun { src := .tme, addr := 0x2F000, bytes := s.tmeSnapshot }
  if ok then s else s.irq 0x60 4

end State

/-- The word of MODE_WR: level, mode, REL (R154, R165). -/
def modeWord (lv mode : Nat) (rel : Bool) : Word :=
  BitVec.ofNat 32 ((if rel then 0x80000000 else 0) + 0x100 * (lv % 8) + mode % 8)

/-- R154: ZONEn.MODE_WR written. -/
def execZoneModeWrite (zone lv mode : Nat) (s : State) : Host.Outcome State Fault Refusal :=
  .next (if zone < 96 then s.hostWrite (rZoneModeWr zone) (modeWord lv mode false) else s)
/-- R154: ZONEn.MODE_WR written with REL = 1. -/
def execZoneModeRelinquish (zone lv : Nat) (s : State) : Host.Outcome State Fault Refusal :=
  .next (if zone < 96 then s.hostWrite (rZoneModeWr zone) (modeWord lv 0 true) else s)
/-- R165: FENf.MODE_WR written. -/
def execFenModeWrite (fen lv mode : Nat) (s : State) : Host.Outcome State Fault Refusal :=
  .next (if fen < 32 then s.hostWrite (rZoneFenmodeWr fen) (modeWord lv mode false) else s)
/-- R165: FENf.MODE_WR written with REL = 1. -/
def execFenModeRelinquish (fen lv : Nat) (s : State) : Host.Outcome State Fault Refusal :=
  .next (if fen < 32 then s.hostWrite (rZoneFenmodeWr fen) (modeWord lv 0 true) else s)
/-- R160: ZONEn.SP_<mode> written; `mode` 0–3 is PROTECT, ECONOMY, PRECOMFORT, COMFORT. -/
def execSetpointWrite (zone mode : Nat) (w : Word) (s : State) : Host.Outcome State Fault Refusal :=
  .next (if zone < 96 && mode < 4 then s.hostWrite (rZoneSp zone mode) w else s)
/-- R519: a loop's register at `off` written. -/
def execLoopParamWrite (loop off : Nat) (w : Word) (s : State) : Host.Outcome State Fault Refusal :=
  .next (if loop < 512 && off < 0x80 then s.hostWrite (rLoopCfg loop + off) w else s)
/-- R520: a loop's CFG (TYPE, SKIM) or BIND_i written. -/
def execHeldFieldWrite (loop off : Nat) (w : Word) (s : State) : Host.Outcome State Fault Refusal :=
  .next (if loop < 512 && (off = 0 || (0x10 ≤ off && off < 0x20)) then s.hostWrite (rLoopCfg loop + off) w else s)
/-- R189: CMD_z.RESET_P written. -/
def execResetP (zone : Nat) (s : State) : Host.Outcome State Fault Refusal :=
  .next (if zone < 96 then s.hostWrite (rTmeCmd zone) 1#32 else s)
/-- R189: CMD_z.RESET_THETA written. -/
def execResetTheta (zone : Nat) (s : State) : Host.Outcome State Fault Refusal :=
  .next (if zone < 96 then s.hostWrite (rTmeCmd zone) 2#32 else s)
/-- R202: THETA_1–THETA_6 of the model state window written (`i` from 0). -/
def execThetaWrite (zone i : Nat) (w : Word) (s : State) : Host.Outcome State Fault Refusal :=
  .next (if zone < 96 && i < 6 then s.hostWrite (0x1F0000 + 0x200 * zone + 4 * i) w else s)
/-- R198: the daily snapshot is asked of the parameter store. -/
def execModelSnapshot (s : State) : Host.Outcome State Fault Refusal := .next (if s.coreOff then s else s.snapshotRun)

end Sys2Proof.Machine
end

