-- ==== Sys2Proof/Machine/Dispatch.lean ====
section
/-! DEFINITION. One arm per command, each a direct call of its meaning. -/
namespace Sys2Proof.Machine

def exec (i : Instr) (s : State) : Host.Outcome State Fault Refusal :=
  match i with
  | .lathEdge unfinished meas => Sys2Proof.Machine.execLathEdge unfinished meas s
  | .lathPhaseDone => Sys2Proof.Machine.execLathPhaseDone s
  | .skimEdge unfinished meas => Sys2Proof.Machine.execSkimEdge unfinished meas s
  | .missClr => Sys2Proof.Machine.execMissClr s
  | .lathActivationCheck => Sys2Proof.Machine.execLathActivationCheck s
  | .configSwitch => Sys2Proof.Machine.execConfigSwitch s
  | .periodGapEnd => Sys2Proof.Machine.execPeriodGapEnd s
  | .paramTakeEffect skimRate => Sys2Proof.Machine.execParamTakeEffect skimRate s
  | .hostRead t => Sys2Proof.Machine.execHostRead t s
  | .registerWrite t => Sys2Proof.Machine.execRegisterWrite t s
  | .snapshotExpiry => Sys2Proof.Machine.execSnapshotExpiry s
  | .pairTimeout => Sys2Proof.Machine.execPairTimeout s
  | .lockWrite page w => Sys2Proof.Machine.execLockWrite page w s
  | .softReset page w => Sys2Proof.Machine.execSoftReset page w s
  | .softResetDone page => Sys2Proof.Machine.execSoftResetDone page s
  | .blockEnable page w => Sys2Proof.Machine.execBlockEnable page w s
  | .gateRequest page w => Sys2Proof.Machine.execGateRequest page w s
  | .gateForce page off write took w => Sys2Proof.Machine.execGateForce page off write took w s
  | .ungate page w => Sys2Proof.Machine.execUngate page w s
  | .irqTestWrite page w => Sys2Proof.Machine.execIrqTestWrite page w s
  | .irqStatClear page w => Sys2Proof.Machine.execIrqStatClear page w s
  | .nmeClear w => Sys2Proof.Machine.execNmeClear w s
  | .rstCmd w => Sys2Proof.Machine.execRstCmd w s
  | .modeChange ch => Sys2Proof.Machine.execModeChange ch s
  | .modeGapEnd ch => Sys2Proof.Machine.execModeGapEnd ch s
  | .priWrite out lv w => Sys2Proof.Machine.execPriWrite out lv w s
  | .priRelinquish out w => Sys2Proof.Machine.execPriRelinquish out w s
  | .fltClrRdbk ch => Sys2Proof.Machine.execFltClrRdbk ch s
  | .fltClrLswSc ch => Sys2Proof.Machine.execFltClrLswSc ch s
  | .fltClrLswOt ch => Sys2Proof.Machine.execFltClrLswOt ch s
  | .fltClrOvv ch pin => Sys2Proof.Machine.execFltClrOvv ch pin s
  | .ovvDetect ch pin => Sys2Proof.Machine.execOvvDetect ch pin s
  | .ovvAutoReentry ch pin => Sys2Proof.Machine.execOvvAutoReentry ch pin s
  | .oviDetect ch ua => Sys2Proof.Machine.execOviDetect ch ua s
  | .burdenClosure ch => Sys2Proof.Machine.execBurdenClosure ch s
  | .burdenClosureEnd ch ua => Sys2Proof.Machine.execBurdenClosureEnd ch ua s
  | .lswSc ch => Sys2Proof.Machine.execLswSc ch s
  | .lswOt ch => Sys2Proof.Machine.execLswOt ch s
  | .lswOtRecovered ch => Sys2Proof.Machine.execLswOtRecovered ch s
  | .diDebounce ch mv => Sys2Proof.Machine.execDiDebounce ch mv s
  | .tachEdge ch dt => Sys2Proof.Machine.execTachEdge ch dt s
  | .tachTimeout ch => Sys2Proof.Machine.execTachTimeout ch s
  | .countPulse ch lowUs => Sys2Proof.Machine.execCountPulse ch lowUs s
  | .fltFailsafeTimeout ch => Sys2Proof.Machine.execFltFailsafeTimeout ch s
  | .conversionDone core code ovf hi => Sys2Proof.Machine.execConversionDone core code ovf hi s
  | .dischargeEnd core => Sys2Proof.Machine.execDischargeEnd core s
  | .intervalEnd ch => Sys2Proof.Machine.execIntervalEnd ch s
  | .sluiceRequest core slot => Sys2Proof.Machine.execSluiceRequest core slot s
  | .urgentStart core => Sys2Proof.Machine.execUrgentStart core s
  | .urgentResult core code ovf hi => Sys2Proof.Machine.execUrgentResult core code ovf hi s
  | .selfCheckBlockEnd core => Sys2Proof.Machine.execSelfCheckBlockEnd core s
  | .stall core => Sys2Proof.Machine.execStall core s
  | .tempBlockEnd core => Sys2Proof.Machine.execTempBlockEnd core s
  | .correctionWrite core slot gain w => Sys2Proof.Machine.execCorrectionWrite core slot gain w s
  | .xformWrite addr w => Sys2Proof.Machine.execXformWrite addr w s
  | .pollCycleStart port => Sys2Proof.Machine.execPollCycleStart port s
  | .modbusReply port bytes => Sys2Proof.Machine.execModbusReply port bytes s
  | .replyTimeout port => Sys2Proof.Machine.execReplyTimeout port s
  | .retryGapEnd port => Sys2Proof.Machine.execRetryGapEnd port s
  | .zoneModeWrite zone lv mode => Sys2Proof.Machine.execZoneModeWrite zone lv mode s
  | .zoneModeRelinquish zone lv => Sys2Proof.Machine.execZoneModeRelinquish zone lv s
  | .fenModeWrite fen lv mode => Sys2Proof.Machine.execFenModeWrite fen lv mode s
  | .fenModeRelinquish fen lv => Sys2Proof.Machine.execFenModeRelinquish fen lv s
  | .setpointWrite zone mode w => Sys2Proof.Machine.execSetpointWrite zone mode w s
  | .loopParamWrite loop off w => Sys2Proof.Machine.execLoopParamWrite loop off w s
  | .heldFieldWrite loop off w => Sys2Proof.Machine.execHeldFieldWrite loop off w s
  | .resetP zone => Sys2Proof.Machine.execResetP zone s
  | .resetTheta zone => Sys2Proof.Machine.execResetTheta zone s
  | .thetaWrite zone k w => Sys2Proof.Machine.execThetaWrite zone k w s
  | .modelSnapshot => Sys2Proof.Machine.execModelSnapshot s
  | .paramRetune w => Sys2Proof.Machine.execParamRetune w s
  | .viewLoad w => Sys2Proof.Machine.execViewLoad w s
  | .fanStartTimeout fan => Sys2Proof.Machine.execFanStartTimeout fan s
  | .fanPulseTimeout fan => Sys2Proof.Machine.execFanPulseTimeout fan s
  | .retryOffEnd fan => Sys2Proof.Machine.execRetryOffEnd fan s
  | .kickEnd fan => Sys2Proof.Machine.execKickEnd fan s
  | .fanFltClr fan => Sys2Proof.Machine.execFanFltClr fan s
  | .learn fan => Sys2Proof.Machine.execLearn fan s
  | .learnAbort fan => Sys2Proof.Machine.execLearnAbort fan s
  | .learnPointEnd fan => Sys2Proof.Machine.execLearnPointEnd fan s
  | .ageUpdate fan => Sys2Proof.Machine.execAgeUpdate fan s
  | .calSet lo hi => Sys2Proof.Machine.execCalSet lo hi s
  | .calRangeEnd => Sys2Proof.Machine.execCalRangeEnd s
  | .dstChange => Sys2Proof.Machine.execDstChange s
  | .schedApply => Sys2Proof.Machine.execSchedApply s
  | .storeWindowWrite t => Sys2Proof.Machine.execStoreWindowWrite t s
  | .runSetup addr len => Sys2Proof.Machine.execRunSetup addr len s
  | .storeRunPush t => Sys2Proof.Machine.execStoreRunPush t s
  | .runGo => Sys2Proof.Machine.execRunGo s
  | .runDiscard => Sys2Proof.Machine.execRunDiscard s
  | .pageProgrammed ok => Sys2Proof.Machine.execPageProgrammed ok s
  | .storeUnlock w => Sys2Proof.Machine.execStoreUnlock w s
  | .armTimeout => Sys2Proof.Machine.execArmTimeout s
  | .protectWrite w => Sys2Proof.Machine.execProtectWrite w s
  | .wpChange high => Sys2Proof.Machine.execWpChange high s
  | .recallDone => Sys2Proof.Machine.execRecallDone s
  | .peatFlush => Sys2Proof.Machine.execPeatFlush s
  | .flushNow => Sys2Proof.Machine.execFlushNow s
  | .peatProgramDone bank ok => Sys2Proof.Machine.execPeatProgramDone bank ok s
  | .peatPreset lo hi => Sys2Proof.Machine.execPeatPreset lo hi s
  | .reservationDone => Sys2Proof.Machine.execReservationDone s
  | .imageOpen => Sys2Proof.Machine.execImageOpen s
  | .slotEraseDone => Sys2Proof.Machine.execSlotEraseDone s
  | .imagePush t => Sys2Proof.Machine.execImagePush t s
  | .imageClose => Sys2Proof.Machine.execImageClose s
  | .imageCheckDone => Sys2Proof.Machine.execImageCheckDone s
  | .imageAbort => Sys2Proof.Machine.execImageAbort s
  | .activate slot => Sys2Proof.Machine.execActivate slot s
  | .slotRecordWritten => Sys2Proof.Machine.execSlotRecordWritten s
  | .slotAttemptDone => Sys2Proof.Machine.execSlotAttemptDone s
  | .query t => Sys2Proof.Machine.execQuery t s
  | .queryChunkPosted => Sys2Proof.Machine.execQueryChunkPosted s
  | .queryNext => Sys2Proof.Machine.execQueryNext s
  | .queryCancel => Sys2Proof.Machine.execQueryCancel s
  | .phyLinkUp port amp24 sqi => Sys2Proof.Machine.execPhyLinkUp port amp24 sqi s
  | .phyLinkDown port => Sys2Proof.Machine.execPhyLinkDown port s
  | .helloTimer port => Sys2Proof.Machine.execHelloTimer port s
  | .helloReceived port frame => Sys2Proof.Machine.execHelloReceived port frame s
  | .helloTimeout port => Sys2Proof.Machine.execHelloTimeout port s
  | .lsaReceived port frame => Sys2Proof.Machine.execLsaReceived port frame s
  | .lsaAckReceived port frame => Sys2Proof.Machine.execLsaAckReceived port frame s
  | .lsaRetransmit port => Sys2Proof.Machine.execLsaRetransmit port s
  | .lsaRefresh => Sys2Proof.Machine.execLsaRefresh s
  | .lsaExpiry uid => Sys2Proof.Machine.execLsaExpiry uid s
  | .reconvergenceWaitEnd => Sys2Proof.Machine.execReconvergenceWaitEnd s
  | .routeTableReplace => Sys2Proof.Machine.execRouteTableReplace s
  | .grantReceived port frame => Sys2Proof.Machine.execGrantReceived port frame s
  | .addrReq w => Sys2Proof.Machine.execAddrReq w s
  | .pdelayTimer port => Sys2Proof.Machine.execPdelayTimer port s
  | .pdelayReqReceived port frame => Sys2Proof.Machine.execPdelayReqReceived port frame s
  | .pdelayRespReceived port frame => Sys2Proof.Machine.execPdelayRespReceived port frame s
  | .syncTimer => Sys2Proof.Machine.execSyncTimer s
  | .syncReceived port frame => Sys2Proof.Machine.execSyncReceived port frame s
  | .syncTimeout => Sys2Proof.Machine.execSyncTimeout s
  | .fabricCycleStart => Sys2Proof.Machine.execFabricCycleStart s
  | .tSlotStart port slot => Sys2Proof.Machine.execTSlotStart port slot s
  | .frameSent port => Sys2Proof.Machine.execFrameSent port s
  | .tForwardPoint => Sys2Proof.Machine.execTForwardPoint s
  | .tFrameReceived port frame => Sys2Proof.Machine.execTFrameReceived port frame s
  | .publishReceived port frame => Sys2Proof.Machine.execPublishReceived port frame s
  | .frameForward port frame => Sys2Proof.Machine.execFrameForward port frame s
  | .readRequest port frame => Sys2Proof.Machine.execReadRequest port frame s
  | .writeRequest port frame => Sys2Proof.Machine.execWriteRequest port frame s
  | .subscribeRequest port frame => Sys2Proof.Machine.execSubscribeRequest port frame s
  | .unsubscribeRequest port frame => Sys2Proof.Machine.execUnsubscribeRequest port frame s
  | .streamReqReceived port frame => Sys2Proof.Machine.execStreamReqReceived port frame s
  | .streamRelReceived port frame => Sys2Proof.Machine.execStreamRelReceived port frame s
  | .streamLostReceived port frame => Sys2Proof.Machine.execStreamLostReceived port frame s
  | .alarmReceived port frame => Sys2Proof.Machine.execAlarmReceived port frame s
  | .queryRequest port frame => Sys2Proof.Machine.execQueryRequest port frame s
  | .queryNextRequest port frame => Sys2Proof.Machine.execQueryNextRequest port frame s
  | .responseReceived port frame => Sys2Proof.Machine.execResponseReceived port frame s
  | .transactionTimeout tid => Sys2Proof.Machine.execTransactionTimeout tid s
  | .streamRefresh => Sys2Proof.Machine.execStreamRefresh s
  | .transitReservationExpiry => Sys2Proof.Machine.execTransitReservationExpiry s
  | .admissionRecordExpiry => Sys2Proof.Machine.execAdmissionRecordExpiry s
  | .subscriberExpiry => Sys2Proof.Machine.execSubscriberExpiry s
  | .subscribeRefresh => Sys2Proof.Machine.execSubscribeRefresh s
  | .regWrite src frame => Sys2Proof.Machine.execRegWrite src frame s
  | .storeGo src frame => Sys2Proof.Machine.execStoreGo src frame s
  | .activateOp src frame => Sys2Proof.Machine.execActivateOp src frame s
  | .pageUnlock src frame => Sys2Proof.Machine.execPageUnlock src frame s
  | .keyRoll src frame => Sys2Proof.Machine.execKeyRoll src frame s
  | .sessionSet src frame => Sys2Proof.Machine.execSessionSet src frame s
  | .sessionClr src frame => Sys2Proof.Machine.execSessionClr src frame s
  | .trustSet src frame => Sys2Proof.Machine.execTrustSet src frame s
  | .keyErase src frame => Sys2Proof.Machine.execKeyErase src frame s
  | .graceSet src frame => Sys2Proof.Machine.execGraceSet src frame s
  | .ident src frame => Sys2Proof.Machine.execIdent src frame s
  | .sessionRecordCommitted => Sys2Proof.Machine.execSessionRecordCommitted s
  | .quarantineEnd session => Sys2Proof.Machine.execQuarantineEnd session s
  | .graceExpiry => Sys2Proof.Machine.execGraceExpiry s
  | .keyProvision => Sys2Proof.Machine.execKeyProvision s
  | .sessionBind w => Sys2Proof.Machine.execSessionBind w s
  | .leveeDiscard => Sys2Proof.Machine.execLeveeDiscard s
  | .faultProcessingDone => Sys2Proof.Machine.execFaultProcessingDone s
  | .queueOverflow => Sys2Proof.Machine.execQueueOverflow s
  | .fmWatchdog => Sys2Proof.Machine.execFmWatchdog s
  | .fmStateError => Sys2Proof.Machine.execFmStateError s
  | .faultClr => Sys2Proof.Machine.execFaultClr s
  | .sramScrub corr uncorr => Sys2Proof.Machine.execSramScrub corr uncorr s
  | .tjCritClear => Sys2Proof.Machine.execTjCritClear s
  | .pfw => Sys2Proof.Machine.execPfw s
  | .vfieldDip => Sys2Proof.Machine.execVfieldDip s
  | .brownOut => Sys2Proof.Machine.execBrownOut s
  | .brownOutCoreReset => Sys2Proof.Machine.execBrownOutCoreReset s
  | .pfwRecoveryReset => Sys2Proof.Machine.execPfwRecoveryReset s
  | .coreUndervoltage => Sys2Proof.Machine.execCoreUndervoltage s
  | .vfieldLow => Sys2Proof.Machine.execVfieldLow s
  | .vfieldHigh => Sys2Proof.Machine.execVfieldHigh s
  | .shedRestore => Sys2Proof.Machine.execShedRestore s
  | .keyWake => Sys2Proof.Machine.execKeyWake s
  | .keyScan rows => Sys2Proof.Machine.execKeyScan rows s
  | .keyIdle => Sys2Proof.Machine.execKeyIdle s
  | .keyEventRead => Sys2Proof.Machine.execKeyEventRead s
  | .encoderTransition enc ab => Sys2Proof.Machine.execEncoderTransition enc ab s
  | .comboFire k => Sys2Proof.Machine.execComboFire k s
  | .fixedCombo => Sys2Proof.Machine.execFixedCombo s
  | .unlockExpiry => Sys2Proof.Machine.execUnlockExpiry s
  | .panelWrite w => Sys2Proof.Machine.execPanelWrite w s
  | .panelRelinquish w => Sys2Proof.Machine.execPanelRelinquish w s
  | .panelLock => Sys2Proof.Machine.execPanelLock s
  | .updateRequest w => Sys2Proof.Machine.execUpdateRequest w s
  | .epdFrameBoundary => Sys2Proof.Machine.execEpdFrameBoundary s
  | .updateCopyDone id => Sys2Proof.Machine.execUpdateCopyDone id s
  | .crcStale => Sys2Proof.Machine.execCrcStale s
  | .fbCrcPass => Sys2Proof.Machine.execFbCrcPass s
  | .fbCrcPassEnd => Sys2Proof.Machine.execFbCrcPassEnd s
  | .railStep good => Sys2Proof.Machine.execRailStep good s
  | .railHoldExpiry => Sys2Proof.Machine.execRailHoldExpiry s
  | .moscTrip => Sys2Proof.Machine.execMoscTrip s
  | .lxoTrip => Sys2Proof.Machine.execLxoTrip s
  | .hrcTrip => Sys2Proof.Machine.execHrcTrip s
  | .pllLockLoss => Sys2Proof.Machine.execPllLockLoss s
  | .pllLocked serviceN bootSafeN => Sys2Proof.Machine.execPllLocked serviceN bootSafeN s
  | .sourceRequalified src => Sys2Proof.Machine.execSourceRequalified src s
  | .clockReturn => Sys2Proof.Machine.execClockReturn s
  | .hrcQualAttempt ok => Sys2Proof.Machine.execHrcQualAttempt ok s
  | .moscQualified us => Sys2Proof.Machine.execMoscQualified us s
  | .moscQualTimeout => Sys2Proof.Machine.execMoscQualTimeout s
  | .lxoQualified => Sys2Proof.Machine.execLxoQualified s
  | .trimStep dev => Sys2Proof.Machine.execTrimStep dev s
  | .disciplineWindow ppb => Sys2Proof.Machine.execDisciplineWindow ppb s
  | .noFallbackRetry => Sys2Proof.Machine.execNoFallbackRetry s
  | .powerOnReset coreSrc => Sys2Proof.Machine.execPowerOnReset coreSrc s
  | .rstNAssert lowNs => Sys2Proof.Machine.execRstNAssert lowNs s
  | .rstNRelease serviceN bootSafeN => Sys2Proof.Machine.execRstNRelease serviceN bootSafeN s
  | .resetRelease => Sys2Proof.Machine.execResetRelease s
  | .discardedFrameReceived port frame fcsOk => Sys2Proof.Machine.execDiscardedFrameReceived port frame fcsOk s
  | .phyTraining port => Sys2Proof.Machine.execPhyTraining port s
  | .trendUnitProgrammed ok => Sys2Proof.Machine.execTrendUnitProgrammed ok s
  | .railDownStep => Sys2Proof.Machine.execRailDownStep s
  | .tidQuarantineEnd tid => Sys2Proof.Machine.execTidQuarantineEnd tid s
  | .extrefQualified => Sys2Proof.Machine.execExtrefQualified s
  | .extrefDisqualified => Sys2Proof.Machine.execExtrefDisqualified s
  | .brownOutRelease coreSrc => Sys2Proof.Machine.execBrownOutRelease coreSrc s
  | .railsUp => Sys2Proof.Machine.execRailsUp s

end Sys2Proof.Machine
end

