-- ==== Sys2Proof/Machine/Pins.lean ====
section
/-! DEFINITION. What the balls show, as a function of the state: IRQ_N, the three LEDs, the field channels, the key columns,
the field buses, the fabric ports and the panel rails (R57, R73, R80–R84, R422, R432, R489). -/
set_option Elab.async false
namespace Sys2Proof.Machine

/-- A LED: off, blinking (period of one blink in ms), or on. -/
inductive Led where
  | off | blink (ms : Nat) | on
deriving DecidableEq, Repr

/-- A channel ball. An analogue output drives a Q16.16 value in its unit; PWM and LSW-PWM repeat a period of `steps` clocks
of CLK_PER with the pin in its on phase for `duty` of them; a low-side switch conducts or not. -/
inductive Ball where
  | hiz
  | input (mode : Nat)
  | analogue (v : Int)
  | pwm (duty freq : Nat)
  | lsw (on : Bool)
deriving DecidableEq, Repr

namespace State

/-- The device is held in reset, or waits for the release of its core. -/
def inReset (s : State) : Bool := s.boot.rst.isSome || s.boot.coreRst

/-- IRQ_N is driven low: while SYS.IRQ_SUM is not 0 (R57), but not before E except in SAFE_ROSC (R489). -/
def irqLow (s : State) : Bool := (s.boot.first || s.bit fClkStatSafeRosc) && s.irqSum ≠ 0

/-- LED0, run (R489). -/
def led0 (s : State) : Led :=
  if s.inReset || s.bit fClkStatSafeRosc then .off
  else if !s.boot.first then .blink 500
  else if s.lath.safe then .blink 2000
  else .on
/-- LED1, fault (R489). -/
def led1 (s : State) : Led :=
  if !s.inReset && (s.word rSysNmeStat ≠ 0 || s.bit fClkStatSafeRosc
      || s.flt.active.any (fun r => r.cls ≠ .minor)) then .on else .off
/-- LED2, fabric (R489). -/
def led2 (s : State) : Led :=
  if s.inReset then .off
  else if s.bit fLathStatFsync then .on
  else if !s.upPorts.isEmpty then .blink 500
  else .off

/-- The ball of channel `n` (R73, R80–R84): HIZ until the first commit, in gaps, under HIZ-PROTECT and with its page off. The
odd ball of an FLT pair is the pair's close half (R82). -/
def ball (s : State) (n : Nat) : Ball :=
  let odd := s.oddMember n
  let c := s.chan (if odd then n - 1 else n)
  match effMode c with
  | 0 => .hiz
  | 8 | 9 => .analogue c.out
  | 0xA => .pwm c.duty (freqClamp c.mode (s.eget (fUchParamFreq n)))
  | 0xC => if c.lswOn then .pwm c.duty (freqClamp c.mode (s.eget (fUchParamFreq n))) else .lsw false
  | 0xB => .lsw c.lswOn
  | 0xD => .lsw (c.fltDir = if odd then -1 else 1)
  | m => .input m

/-- The key columns are released in reset and driven low while no scan runs, from the release on (R422, R489). -/
def kcolLow (s : State) : Bool := !s.inReset && !s.key.scanning

/-- The field-bus balls are driven, and the fabric ports speak (R489). -/
def rbusLive (s : State) : Bool := s.boot.first
def fpLive (s : State) : Bool := !s.inReset

/-- The panel rails stand at their values (R432, R433). -/
def railsUp (s : State) : Bool := s.epd.rails = .up

end State
end Sys2Proof.Machine
end

