-- ==== Sys2Proof/Safety.lean ====
section
/-! DEFINITION. What a safe state is, in the terms the statements use: maps in their canonical form, queues within the
capacities that the spec gives them, and the frame position within its range. A run of the block is a sequence of steps. -/
set_option Elab.async false
namespace Sys2Proof.Machine

/-- The register file lists no register that reads its reset word, in rising order of address (log entry 43). -/
def regsOk (m : Map Word) : Prop := Map.wf resetWord m = true
/-- The served image of the parameter store lists no erased word (R270, R286). -/
def ramOk (m : Map Word) : Prop := Map.wf (fun _ => 0xFFFFFFFF#32) m = true
/-- The channels' states are in canonical form (R73). -/
def chansOk (m : Map Chan) : Prop := Map.wf (fun _ => {}) m = true
/-- The priority arrays list no empty level (R86). -/
def levelsOk (m : Map (Option Int)) : Prop := Map.wf (fun _ => none) m = true

namespace State

/-- The fault manager's queues hold at most 16 ordinary and 4 CRITICAL requests (R407), the key FIFO at most 16 events (R425). -/
def queuesOk (s : State) : Prop :=
  s.flt.ordQ.length ≤ 16 ∧ s.flt.critQ.length ≤ 4 ∧ s.key.fifo.length ≤ 16
/-- Skim frames are numbered 0–9, and the phase is one of R13's or 7, finished (R11, R13). -/
def positionOk (s : State) : Prop := s.lath.skim ≤ 9 ∧ 2 ≤ s.lath.phase ∧ s.lath.phase ≤ 7
/-- The invariant of the block: reset meets it and every step keeps it. -/
def Inv (s : State) : Prop :=
  regsOk s.regs ∧ ramOk s.sto.ram ∧ chansOk s.uch ∧ levelsOk s.lv ∧ s.queuesOk ∧ s.positionOk

/-- Every register word is the same but those at the addresses that `p` names. -/
def OnlyWords (s t : State) (p : Nat → Bool) : Prop := ∀ a, p a = false → t.word a = s.word a
/-- The registers of channel `n` that show its state: STAT, OUT, RDBK, CNT and PERIOD (R73). -/
def chanFace (n a : Nat) : Bool := a == rUchStat n || a == rUchOut n || a == rUchRdbk n || a == rUchCnt n || a == rUchPeriod n
/-- Every channel but `n` is as it was. -/
def OtherChans (s t : State) (n : Nat) : Prop := ∀ m, m ≠ n → t.chan m = s.chan m
/-- The requests that the fault manager holds: pending flags, queues, the one in processing and the suspended one (R406–R410). -/
def requests (s : State) : List FReq :=
  s.flt.flags ++ s.flt.ordQ ++ s.flt.critQ ++ (s.flt.proc.map Prod.fst).toList ++ (s.flt.susp.map Prod.fst).toList
/-- A raise of the source (code, inst) is with the fault manager: as a request, or active as a record (R406, R411). -/
def Raised (s : State) (code inst : Nat) : Prop :=
  (∃ q ∈ s.requests, q.code = code ∧ q.inst = inst ∧ q.clear = false) ∨ (∃ r ∈ s.flt.active, r.code = code ∧ r.inst = inst)
/-- A host write of the word `w` to the page register at `a` is carried out: the core is out of reset, the page is assigned, ready
and not gated, the word needs no authentication, and the register file is in its canonical form (R42, R50, R53, R61–R63, R385). -/
def HostOpen (s : State) (a : Nat) (w : Word) : Prop :=
  s.boot.coreRst = false ∧ s.boot.cmdRst = none ∧ a < 0x100000 ∧ a % 4 = 0 ∧ addrOk a = true ∧ s.notReady a 1 = false
  ∧ s.gatedAt a 1 = false ∧ (s.authRequired = true → s.wordClass a w = 0) ∧ regsOk s.regs
/-- A transaction that arrived whole, with a known operation, its words and a right CRC (R58, R61). -/
def XactWhole (s : State) (x : Xact) : Prop :=
  x.whole = true ∧ (xactOp x = 1 ∨ xactOp x = 2 ∨ xactOp x = 4) ∧ (xactOp x = 1 ∨ x.data.length = xactLen x)
  ∧ (s.bit fHostCfgCrcEn = true → crc16 (xactBytes x) = x.crc.toNat)
/-- A whole transaction reaches its words: its address is assigned, its words lie in one page or window, which is ready, idle and
not gated (R42, R45, R50, R53, R61, R62). -/
def XactOpen (s : State) (x : Xact) : Prop :=
  s.boot.coreRst = false ∧ s.boot.cmdRst = none ∧ s.XactWhole x ∧ sizeOk (xactStart x) (xactLen x) = true
  ∧ xactStart x % 4 = 0 ∧ addrOk (xactStart x) = true
  ∧ (winOf (xactStart x) = some 2 → s.sto.served = true ∧ s.sto.cur = none)
  ∧ s.notReady (xactStart x) (xactLen x) = false ∧ s.gatedAt (xactStart x) (xactLen x) = false
/-- BLK_CTRL of page `p` takes EN and GATE_REQ of the word `w`: where the word would stop the block, no channel of a converter core
is in use and the rails of the panel are down (R51, R127, R433). -/
def CtrlTaken (s : State) (b : Blk) (p : Nat) (w : Word) : Prop :=
  (bitAt w 0 = true ∧ bitAt w 2 = false)
  ∨ ((b = .conv → ∀ i < 12, s.get (fUchCfgMode (12 * (p - 0x10) + i)) = 0 ∧ (s.chan (12 * (p - 0x10) + i)).mode = 0)
    ∧ (b = .epd → s.railsOn = false))
/-- `t` is `u` after the port has ended a transaction with OK: RESP reads 0 and XACT_CNT has counted it (R60, R61). -/
def Answered (u t : State) : Prop := t.port.resp = 0 ∧ t = { u.bumpWrap fHostXactCntCount with port := t.port }

end State

/-- `t` is reached from `s` by steps that each answer a next state. -/
inductive Runs : State → State → Prop where
  | refl (s : State) : Runs s s
  | step {s t u : State} : Runs s t → step t = .next u → Runs s u

end Sys2Proof.Machine
end

