-- ==== Sys2Proof/WellFormed.lean ====
section
/-! DEFINITION. When a command is well formed: it names an instance the block has (R1, R43, R73, R102, R154, R231, R316) and
operands its event can carry. The meanings are total: a command that names no instance changes nothing. -/
set_option Elab.async false
namespace Sys2Proof

/-! The instances of the block. -/
def isChannel (n : Nat) : Bool := decide (n < 96)
def isCore (n : Nat) : Bool := decide (n < 8)
def isPort (n : Nat) : Bool := decide (n < 4)
def isZone (n : Nat) : Bool := decide (n < 96)
def isFen (n : Nat) : Bool := decide (n < 32)
def isLoop (n : Nat) : Bool := decide (n < 512)
def isFan (n : Nat) : Bool := decide (n < 24)
/-- A page number of the register space (R41). -/
def isPageNo (n : Nat) : Bool := decide (n < 256)
/-- An output that owns a priority array: a channel, or the drive of a fan governor (R86, R231). -/
def isArray (n : Nat) : Bool := decide (n < 120)
/-- Where a command frame of the levee comes from. -/
def isSource : CmdSrc → Bool
  | .mailbox => true
  | .fabric p => isPort p

/-- The command names only instances that the block has. -/
def Instr.here : Instr → Bool
  | .lockWrite p _ => isPageNo p
  | .softReset p _ => isPageNo p
  | .blockEnable p _ => isPageNo p
  | .gateRequest p _ => isPageNo p
  | .gateForce p _ _ _ _ => isPageNo p
  | .ungate p _ => isPageNo p
  | .irqTestWrite p _ => isPageNo p
  | .irqStatClear p _ => isPageNo p
  | .modeChange n => isChannel n
  | .modeGapEnd n => isChannel n
  | .priWrite o k _ => isArray o && decide (1 ≤ k) && decide (k ≤ 7)
  | .priRelinquish o _ => isArray o
  | .fltClrRdbk n => isChannel n
  | .fltClrLswSc n => isChannel n
  | .fltClrLswOt n => isChannel n
  | .fltClrOvv n _ => isChannel n
  | .ovvDetect n _ => isChannel n
  | .ovvAutoReentry n _ => isChannel n
  | .oviDetect n _ => isChannel n
  | .burdenClosure n => isChannel n
  | .burdenClosureEnd n _ => isChannel n
  | .lswSc n => isChannel n
  | .lswOt n => isChannel n
  | .lswOtRecovered n => isChannel n
  | .diDebounce n _ => isChannel n
  | .tachEdge n _ => isChannel n
  | .tachTimeout n => isChannel n
  | .countPulse n _ => isChannel n
  | .fltFailsafeTimeout n => isChannel n
  | .conversionDone c _ _ _ => isCore c
  | .dischargeEnd c => isCore c
  | .intervalEnd n => isChannel n
  | .sluiceRequest c _ => isCore c
  | .urgentStart c => isCore c
  | .urgentResult c _ _ _ => isCore c
  | .selfCheckBlockEnd c => isCore c
  | .stall c => isCore c
  | .tempBlockEnd c => isCore c
  | .correctionWrite c i _ _ => isCore c && decide (i < 12)
  | .pollCycleStart p => isPort p
  | .modbusReply p _ => isPort p
  | .replyTimeout p => isPort p
  | .retryGapEnd p => isPort p
  | .zoneModeWrite z _ _ => isZone z
  | .zoneModeRelinquish z _ => isZone z
  | .fenModeWrite f _ _ => isFen f
  | .fenModeRelinquish f _ => isFen f
  | .setpointWrite z m _ => isZone z && decide (m < 4)
  | .loopParamWrite k off _ => isLoop k && decide (off < 0x80)
  | .heldFieldWrite k off _ => isLoop k && (decide (off = 0) || (decide (0x10 ≤ off) && decide (off < 0x20)))
  | .resetP z => isZone z
  | .resetTheta z => isZone z
  | .thetaWrite z i _ => isZone z && decide (i < 6)
  | .fanStartTimeout g => isFan g
  | .fanPulseTimeout g => isFan g
  | .retryOffEnd g => isFan g
  | .kickEnd g => isFan g
  | .fanFltClr g => isFan g
  | .learn g => isFan g
  | .learnAbort g => isFan g
  | .learnPointEnd g => isFan g
  | .ageUpdate g => isFan g
  | .peatProgramDone b _ => isPort b
  | .phyLinkUp p _ _ => isPort p
  | .phyLinkDown p => isPort p
  | .phyTraining p => isPort p
  | .helloTimer p => isPort p
  | .helloReceived p _ => isPort p
  | .helloTimeout p => isPort p
  | .lsaReceived p _ => isPort p
  | .lsaAckReceived p _ => isPort p
  | .lsaRetransmit p => isPort p
  | .grantReceived p _ => isPort p
  | .pdelayTimer p => isPort p
  | .pdelayReqReceived p _ => isPort p
  | .pdelayRespReceived p _ => isPort p
  | .syncReceived p _ => isPort p
  | .tSlotStart p _ => isPort p
  | .frameSent p => isPort p
  | .discardedFrameReceived p _ _ => isPort p
  | .tFrameReceived p _ => isPort p
  | .publishReceived p _ => isPort p
  | .frameForward p _ => isPort p
  | .readRequest p _ => isPort p
  | .writeRequest p _ => isPort p
  | .subscribeRequest p _ => isPort p
  | .unsubscribeRequest p _ => isPort p
  | .streamReqReceived p _ => isPort p
  | .streamRelReceived p _ => isPort p
  | .streamLostReceived p _ => isPort p
  | .alarmReceived p _ => isPort p
  | .queryRequest p _ => isPort p
  | .queryNextRequest p _ => isPort p
  | .responseReceived p _ => isPort p
  | .encoderTransition e _ => decide (e < 2)
  | .comboFire k => decide (k < 4)
  | .sourceRequalified x => decide (x < 2)
  | .lathEdge .. | .lathPhaseDone | .skimEdge .. | .missClr | .lathActivationCheck | .configSwitch | .periodGapEnd
  | .paramTakeEffect .. | .hostRead .. | .registerWrite .. | .snapshotExpiry | .pairTimeout | .softResetDone ..
  | .nmeClear .. | .rstCmd .. | .xformWrite .. | .modelSnapshot | .paramRetune .. | .viewLoad .. | .calSet ..
  | .calRangeEnd | .dstChange | .schedApply | .storeWindowWrite .. | .runSetup .. | .storeRunPush .. | .runGo | .runDiscard
  | .pageProgrammed .. | .storeUnlock .. | .armTimeout | .protectWrite .. | .wpChange .. | .recallDone | .peatFlush
  | .flushNow | .peatPreset .. | .reservationDone | .imageOpen | .slotEraseDone | .imagePush .. | .imageClose
  | .imageCheckDone | .imageAbort | .activate .. | .slotRecordWritten | .slotAttemptDone | .query .. | .queryChunkPosted
  | .queryNext | .queryCancel | .lsaRefresh | .lsaExpiry .. | .reconvergenceWaitEnd | .routeTableReplace | .addrReq ..
  | .syncTimer | .syncTimeout | .fabricCycleStart | .tForwardPoint | .transactionTimeout .. | .streamRefresh
  | .transitReservationExpiry | .admissionRecordExpiry | .subscriberExpiry | .subscribeRefresh | .regWrite .. | .storeGo ..
  | .activateOp .. | .pageUnlock .. | .keyRoll .. | .sessionSet .. | .sessionClr .. | .trustSet .. | .keyErase ..
  | .graceSet .. | .ident .. | .sessionRecordCommitted | .quarantineEnd .. | .graceExpiry | .keyProvision | .sessionBind ..
  | .leveeDiscard | .faultProcessingDone | .queueOverflow | .fmWatchdog | .fmStateError | .faultClr | .sramScrub ..
  | .tjCritClear | .pfw | .vfieldDip | .brownOut | .brownOutCoreReset | .pfwRecoveryReset | .coreUndervoltage | .vfieldLow
  | .vfieldHigh | .shedRestore | .keyWake | .keyScan .. | .keyIdle | .keyEventRead | .fixedCombo | .unlockExpiry
  | .panelWrite .. | .panelRelinquish .. | .panelLock | .updateRequest .. | .epdFrameBoundary | .updateCopyDone ..
  | .crcStale | .fbCrcPass | .fbCrcPassEnd | .railStep .. | .railHoldExpiry | .moscTrip | .lxoTrip | .hrcTrip
  | .pllLockLoss | .pllLocked .. | .clockReturn | .hrcQualAttempt .. | .moscQualified .. | .moscQualTimeout | .lxoQualified
  | .trimStep .. | .disciplineWindow .. | .noFallbackRetry | .powerOnReset .. | .rstNAssert .. | .rstNRelease ..
  | .resetRelease | .trendUnitProgrammed .. | .railDownStep | .tidQuarantineEnd .. | .extrefQualified | .extrefDisqualified
  | .brownOutRelease .. | .railsUp => true

/-- The values that the operands of an event can take: an engine code, a 16-bit raw code, a loop's or a page's register
offset, a level and a mode of a zone, the fields of a levee frame. -/
def Instr.inRange : Instr → Bool
  | .lathEdge u _ => decide (u < 16)
  | .skimEdge u _ => decide (u < 16)
  | .gateForce _ off _ _ _ => decide (off < 0x1000) && decide (off % 4 = 0)
  | .conversionDone _ c _ _ => decide (c < 0x10000)
  | .urgentResult _ c _ _ => decide (c < 0x10000)
  | .sluiceRequest _ i => decide (i < 16)
  | .zoneModeWrite _ k m => decide (k < 8) && decide (m < 8)
  | .zoneModeRelinquish _ k => decide (k < 8)
  | .fenModeWrite _ k m => decide (k < 8) && decide (m < 8)
  | .fenModeRelinquish _ k => decide (k < 8)
  | .xformWrite a _ => decide (a / 0x1000 = 0x18)
  | .loopParamWrite _ off _ => decide (off % 4 = 0)
  | .heldFieldWrite _ off _ => decide (off % 4 = 0)
  | .activate i => decide (i < 2)
  | .phyLinkUp _ _ q => decide (q < 8)
  | .encoderTransition _ ab => decide (ab < 4)
  | .transactionTimeout t => decide (t < 65536)
  | .tidQuarantineEnd t => decide (t < 65536)
  | .keyScan m => decide (m.keys < 2 ^ 64)
  | .regWrite x _ => isSource x
  | .storeGo x _ => isSource x
  | .activateOp x _ => isSource x
  | .pageUnlock x _ => isSource x
  | .keyRoll x _ => isSource x
  | .sessionSet x _ => isSource x
  | .sessionClr x _ => isSource x
  | .trustSet x _ => isSource x
  | .keyErase x _ => isSource x
  | .graceSet x _ => isSource x
  | .ident x _ => isSource x
  | .lathPhaseDone | .missClr | .lathActivationCheck | .configSwitch | .periodGapEnd | .paramTakeEffect .. | .hostRead ..
  | .registerWrite .. | .snapshotExpiry | .pairTimeout | .lockWrite .. | .softReset .. | .softResetDone ..
  | .blockEnable .. | .gateRequest .. | .ungate .. | .irqTestWrite .. | .irqStatClear .. | .nmeClear .. | .rstCmd ..
  | .modeChange .. | .modeGapEnd .. | .priWrite .. | .priRelinquish .. | .fltClrRdbk .. | .fltClrLswSc .. | .fltClrLswOt ..
  | .fltClrOvv .. | .ovvDetect .. | .ovvAutoReentry .. | .oviDetect .. | .burdenClosure .. | .burdenClosureEnd ..
  | .lswSc .. | .lswOt .. | .lswOtRecovered .. | .diDebounce .. | .tachEdge .. | .tachTimeout .. | .countPulse ..
  | .fltFailsafeTimeout .. | .dischargeEnd .. | .intervalEnd .. | .urgentStart .. | .selfCheckBlockEnd .. | .stall ..
  | .tempBlockEnd .. | .correctionWrite .. | .pollCycleStart .. | .modbusReply .. | .replyTimeout .. | .retryGapEnd ..
  | .setpointWrite .. | .resetP .. | .resetTheta .. | .thetaWrite .. | .modelSnapshot | .paramRetune .. | .viewLoad ..
  | .fanStartTimeout .. | .fanPulseTimeout .. | .retryOffEnd .. | .kickEnd .. | .fanFltClr .. | .learn .. | .learnAbort ..
  | .learnPointEnd .. | .ageUpdate .. | .calSet .. | .calRangeEnd | .dstChange | .schedApply | .storeWindowWrite ..
  | .runSetup .. | .storeRunPush .. | .runGo | .runDiscard | .pageProgrammed .. | .storeUnlock .. | .armTimeout
  | .protectWrite .. | .wpChange .. | .recallDone | .peatFlush | .flushNow | .peatProgramDone .. | .peatPreset ..
  | .reservationDone | .imageOpen | .slotEraseDone | .imagePush .. | .imageClose | .imageCheckDone | .imageAbort
  | .slotRecordWritten | .slotAttemptDone | .query .. | .queryChunkPosted | .queryNext | .queryCancel | .phyLinkDown ..
  | .helloTimer .. | .helloReceived .. | .helloTimeout .. | .lsaReceived .. | .lsaAckReceived .. | .lsaRetransmit ..
  | .lsaRefresh | .lsaExpiry .. | .reconvergenceWaitEnd | .routeTableReplace | .grantReceived .. | .addrReq ..
  | .pdelayTimer .. | .pdelayReqReceived .. | .pdelayRespReceived .. | .syncTimer | .syncReceived .. | .syncTimeout
  | .fabricCycleStart | .tSlotStart .. | .frameSent .. | .tForwardPoint | .tFrameReceived .. | .publishReceived ..
  | .frameForward .. | .readRequest .. | .writeRequest .. | .subscribeRequest .. | .unsubscribeRequest ..
  | .streamReqReceived .. | .streamRelReceived .. | .streamLostReceived .. | .alarmReceived .. | .queryRequest ..
  | .queryNextRequest .. | .responseReceived .. | .streamRefresh | .transitReservationExpiry | .admissionRecordExpiry
  | .subscriberExpiry | .subscribeRefresh | .sessionRecordCommitted | .quarantineEnd .. | .graceExpiry | .keyProvision
  | .sessionBind .. | .leveeDiscard | .faultProcessingDone | .queueOverflow | .fmWatchdog | .fmStateError | .faultClr
  | .sramScrub .. | .tjCritClear | .pfw | .vfieldDip | .brownOut | .brownOutCoreReset | .pfwRecoveryReset
  | .coreUndervoltage | .vfieldLow | .vfieldHigh | .shedRestore | .keyWake | .keyIdle | .keyEventRead | .comboFire ..
  | .fixedCombo | .unlockExpiry | .panelWrite .. | .panelRelinquish .. | .panelLock | .updateRequest .. | .epdFrameBoundary
  | .updateCopyDone .. | .crcStale | .fbCrcPass | .fbCrcPassEnd | .railStep .. | .railHoldExpiry | .moscTrip | .lxoTrip
  | .hrcTrip | .pllLockLoss | .pllLocked .. | .sourceRequalified .. | .clockReturn | .hrcQualAttempt .. | .moscQualified ..
  | .moscQualTimeout | .lxoQualified | .trimStep .. | .disciplineWindow .. | .noFallbackRetry | .powerOnReset ..
  | .rstNAssert .. | .rstNRelease .. | .resetRelease | .discardedFrameReceived .. | .phyTraining ..
  | .trendUnitProgrammed .. | .railDownStep | .extrefQualified | .extrefDisqualified | .brownOutRelease .. | .railsUp => true

/-- A well-formed command. -/
def Instr.wf (c : Instr) : Bool := c.here && c.inRange

end Sys2Proof
end

