-- ==== Sys2Proof/Certificates/Slice0/Obligations.lean ====
section
/-! DEFINITION. The statements for the provers, chapter by chapter of the spec. -/
set_option Elab.async false
open Sys2Proof Sys2Proof.Machine Sys2Proof.Machine.State

/-- R94, R95: the front end of channel `ch` sees an overvoltage in a low-voltage mode: the channel goes to HIZ-PROTECT, the
OVV fault bit is set and the fault manager gets the raise 0x3004. A current above 32 mA in AI-I opens the burden and raises
OVI, 0x3005. Nothing but the channel, its faces, its interrupt bit and the fault manager changes. -/
def Obligations.OvervoltageProtects : Prop :=
  ∀ (s : State) (ch : Nat),
    ch < 96 →
    s.coreOff = false →
    (∀ (pin : Int),
        1 ≤ effMode (s.chan ch) →
        effMode (s.chan ch) ≤ 10 →
        (if (s.chan ch).mode ∈ [5, 6, 7, 10] then (15000 : Int) else 12000) < pin →
        ∃ t, exec (.ovvDetect ch pin) s = .next t
          ∧ (t.chan ch).hizProt = true ∧ effMode (t.chan ch) = 0 ∧ (t.chan ch).faults = (s.chan ch).faults ||| 8
          ∧ t.bit (fUchStatHizProt ch) = true ∧ t.Raised 0x3004 ch
          ∧ t = { s with regs := t.regs, uch := t.uch, flt := t.flt } ∧ s.OtherChans t ch
          ∧ s.OnlyWords t (fun a => State.chanFace ch a || a == rIrqStat (8 + ch / 24) || a / 0x1000 == 0x88))
    ∧ (∀ (ua : Int),
        effMode (s.chan ch) = 2 →
        32000 < ua →
        (s.chan ch).burdenOpen = none →
        (s.chan ch).faults &&& 0x10 = 0 →
        ∃ t, exec (.oviDetect ch ua) s = .next t
          ∧ (t.chan ch).burdenOpen = some ((s.chan ch).closure.getD s.now) ∧ (t.chan ch).closure = none
          ∧ (t.chan ch).faults = (s.chan ch).faults ||| 0x10 ∧ t.Raised 0x3005 ch
          ∧ t = { s with regs := t.regs, uch := t.uch, flt := t.flt } ∧ s.OtherChans t ch
          ∧ s.OnlyWords t (fun a => State.chanFace ch a || a == rIrqStat (8 + ch / 24) || a / 0x1000 == 0x88))

/-- R96: an LSW_SC or LSW_OT event on a stage turns it off (both halves of an FLT pair, whose even member `m` holds the
state), sets its fault bit and posts its raise; the third event within 60 s, of whichever kind, latches the stage. An LSW_OT
stage that has cooled may turn on again, and its fault clears unless it is latched. (That the latch counts both kinds together
is the model's reading, log entry 56.) -/
def Obligations.LswEventsTurnTheStageOff : Prop :=
  ∀ (s : State) (ch m : Nat),
    ch < 96 →
    s.coreOff = false →
    m = (if s.oddMember ch then ch - 1 else ch) →
    (∀ (k : Nat),
        (k = 7 ∧ s.conducts ch = true) ∨ k = 8 →
        0xB ≤ effMode (s.chan m) →
        effMode (s.chan m) ≤ 0xD →
        ∃ t, exec (if k = 7 then .lswSc ch else .lswOt ch) s = .next t
          ∧ (t.chan m).lswOn = false ∧ (t.chan m).fltDir = 0
          ∧ (t.chan m).events = (s.chan m).events.filter (fun e => s.now < e.2 + 60000000) ++ [(k, s.now)]
          ∧ (t.chan m).faults = (s.chan m).faults ||| 2 ^ (k - 1)
          ∧ (t.chan m).latched =
              (if 3 ≤ (t.chan m).events.length then (s.chan m).latched ||| 2 ^ (k - 1) else (s.chan m).latched)
          ∧ (t.chan m).scOff = (if k = 7 then some s.now else (s.chan m).scOff)
          ∧ (t.chan m).otOff = ((s.chan m).otOff || k == 8)
          ∧ t.Raised (0x3000 + k) m
          ∧ t = { s with regs := t.regs, uch := t.uch, flt := t.flt } ∧ s.OtherChans t m
          ∧ s.OnlyWords t (fun a => State.chanFace m a || a == rIrqStat (8 + m / 24) || a / 0x1000 == 0x88))
    ∧ ((s.chan m).otOff = true →
        ∃ t, exec (.lswOtRecovered ch) s = .next t
          ∧ (t.chan m).otOff = false
          ∧ (t.chan m).faults = (if (s.chan m).latched &&& 0x80 = 0 then (s.chan m).faults &&& 0x7F else (s.chan m).faults)
          ∧ (t.chan m).latched = (s.chan m).latched
          ∧ t = { s with regs := t.regs, uch := t.uch, flt := t.flt } ∧ s.OtherChans t m
          ∧ s.OnlyWords t (fun a => State.chanFace m a || a == rIrqStat (8 + m / 24) || a / 0x1000 == 0x88))

/-- R77: the DI comparator, the falling edges of a DI-TACH, its 2 s timeout, and the lows of a DI-COUNT. A new DI level starts
the debounce time of DEB ms, at whose end it is reported; a pin below 3.0 V is closed, above 4.0 V open. Only the channel and
its faces change, and time where the command belongs to an instant. (The instants of the commands are the model's choice, log
entry 2.) -/
def Obligations.DigitalInputsCount : Prop :=
  ∀ (s : State) (ch : Nat),
    ch < 96 →
    s.coreOff = false →
    (∀ (mv : Int) (lv : Bool),
        effMode (s.chan ch) = 5 →
        (mv < 3000 ∧ lv = true) ∨ (4000 < mv ∧ lv = false) →
        ∃ t, exec (.diDebounce ch mv) s = .next t
          ∧ ((s.chan ch).diRaw ≠ lv → t.now = s.now ∧ t.chan ch = { countOn s.now (s.chan ch) with
              diRaw := lv, diSince := s.now, di := if s.eget (fUchParamDeb ch) = 0 then lv else (s.chan ch).di })
          ∧ ((s.chan ch).diRaw = lv → (s.chan ch).di ≠ lv →
              t.now = max s.now ((s.chan ch).diSince + 1000 * s.eget (fUchParamDeb ch))
              ∧ t.chan ch = { countOn t.now (s.chan ch) with di := lv }
              ∧ t.get (fUchStatDiState ch) = (if lv then 1 else 0))
          ∧ t = { s with now := t.now, regs := t.regs, uch := t.uch } ∧ s.OtherChans t ch ∧ s.OnlyWords t (State.chanFace ch))
    ∧ (∀ (dt t0 : Nat),
        effMode (s.chan ch) = 6 →
        (s.chan ch).lastEdge = some t0 →
        ∃ t, exec (.tachEdge ch dt) s = .next t
          ∧ t.now = max s.now (t0 + dt)
          ∧ t.chan ch = { countOn t.now (s.chan ch) with
              cnt := ((s.chan ch).cnt + 1) % 2 ^ 32, lastEdge := some t.now, period := (t.now - t0) % 2 ^ 32 }
          ∧ t.get (fUchCntValue ch) = ((s.chan ch).cnt + 1) % 2 ^ 32 ∧ t.get (fUchPeriodValue ch) = (t.now - t0) % 2 ^ 32
          ∧ t = { s with now := t.now, regs := t.regs, uch := t.uch } ∧ s.OtherChans t ch ∧ s.OnlyWords t (State.chanFace ch))
    ∧ (∀ (t0 : Nat),
        effMode (s.chan ch) = 6 →
        (s.chan ch).lastEdge = some t0 →
        ∃ t, exec (.tachTimeout ch) s = .next t
          ∧ t.now = max s.now (t0 + 2000000) ∧ t.chan ch = { countOn t.now (s.chan ch) with period := 0 }
          ∧ t.get (fUchPeriodValue ch) = 0
          ∧ t = { s with now := t.now, regs := t.regs, uch := t.uch } ∧ s.OtherChans t ch ∧ s.OnlyWords t (State.chanFace ch))
    ∧ (∀ (lowUs : Nat),
        effMode (s.chan ch) = 7 →
        ∃ t, exec (.countPulse ch lowUs) s = .next t
          ∧ (lowUs < 200 → t = s)
          ∧ (200 ≤ lowUs → t.chan ch = { countOn s.now (s.chan ch) with cnt := ((s.chan ch).cnt + 1) % 2 ^ 32 }
            ∧ t.get (fUchCntValue ch) = ((s.chan ch).cnt + 1) % 2 ^ 32)
          ∧ t = { s with regs := t.regs, uch := t.uch } ∧ s.OtherChans t ch ∧ s.OnlyWords t (State.chanFace ch))

/-- R84, R75: a mode written takes effect at the commit edge of the channel's rate: the channel goes to HIZ for the 1.0 ms
gap, its latched faults and streak clear, and every level empties but level 1 between output modes; an FLT pair takes its odd
member with it. At the end of the gap the channel is in its mode, an output driving its arbitrated value. -/
def Obligations.ModeChangesThroughTheGap : Prop :=
  ∀ (s : State) (ch : Nat),
    ch < 96 →
    s.coreOff = false →
    (∀ (new : Nat),
        s.framesRun = true →
        (s.chan ch).started = true →
        s.oddMember ch = false →
        s.now = (if s.outRate ch = .lath then s.lath.cap else s.lath.skimCap) →
        s.get (fUchCfgMode ch) = new →
        (s.chan ch).mode ≠ new →
        ∃ t, exec (.modeChange ch) s = .next t
          ∧ (t.chan ch).mode = new ∧ (t.chan ch).gapEnd = some (s.now + 1000) ∧ effMode (t.chan ch) = 0
          ∧ (t.chan ch).latched = 0 ∧ (t.chan ch).streak = 0 ∧ (t.chan ch).lswOn = false ∧ (t.chan ch).fltDir = 0
          ∧ (∀ k, 2 ≤ k → k ≤ 7 → t.level ch k = none)
          ∧ t.level ch 1 = (if isOut (s.chan ch).mode && isOut new then s.level ch 1 else none)
          ∧ (new = 0xD → (t.chan (ch + 1)).mode = 0xD ∧ (t.chan (ch + 1)).gapEnd = some (s.now + 1000))
          ∧ (∀ n, n ≠ ch → n ≠ ch + 1 → t.chan n = s.chan n)
          ∧ t = { s with regs := t.regs, uch := t.uch, lv := t.lv, l0 := t.l0, flt := t.flt })
    ∧ (∀ (g : Nat),
        (s.chan ch).gapEnd = some g →
        ∃ t, exec (.modeGapEnd ch) s = .next t
          ∧ t.now = max s.now g ∧ (t.chan ch).gapEnd = none ∧ (t.chan ch).staleTill = t.now
          ∧ (t.chan ch).mode = (s.chan ch).mode
          ∧ ((s.chan ch).mode = 6 ∨ (s.chan ch).mode = 7 → (t.chan ch).cnt = 0)
          ∧ ((s.chan ch).mode = 6 → (t.chan ch).period = 0 ∧ (t.chan ch).lastEdge = none)
          ∧ ((s.chan ch).started = true → s.isOutput ch = true →
              (t.chan ch).out = modeClamp (s.chan ch).mode (s.outputValue ch).2.1)
          ∧ s.OtherChans t ch
          ∧ t = { s with
            now := t.now, regs := t.regs, uch := t.uch, flt := t.flt, cores := t.cores, eng := t.eng, engL := t.engL,
            engS := t.engS, pir := t.pir, fresh := t.fresh })

/-- R94, R95, R98: re-entry under OV_AUTO after 2 s below the re-entry level (11.0 V, or 14.0 V in DI, DI-TACH, DI-COUNT and
PWM), the 1 ms closures of an open burden and their judgement, and the end of an FLT pair's failsafe drive. (The instants of
the commands are the model's choice, log entry 2.) -/
def Obligations.ProtectionTimersRunOut : Prop :=
  ∀ (s : State) (ch : Nat),
    ch < 96 →
    s.coreOff = false →
    (∀ (pin : Int),
        (s.chan ch).hizProt = true →
        ∃ t, exec (.ovvAutoReentry ch pin) s = .next t
          ∧ ((if (s.chan ch).mode ∈ [5, 6, 7, 10] then (14000 : Int) else 11000) ≤ pin →
              t.chan ch = { countOn s.now (s.chan ch) with belowSince := none } ∧ t.now = s.now)
          ∧ (pin < (if (s.chan ch).mode ∈ [5, 6, 7, 10] then (14000 : Int) else 11000) → (s.chan ch).belowSince = none →
              t.chan ch = { countOn s.now (s.chan ch) with belowSince := some s.now } ∧ t.now = s.now)
          ∧ (pin < (if (s.chan ch).mode ∈ [5, 6, 7, 10] then (14000 : Int) else 11000) → (s.chan ch).belowSince ≠ none →
              s.ebit (fUchCfgOvAuto ch) = true →
              t.now = max s.now ((s.chan ch).belowSince.getD 0 + 2000000) ∧ t.chan ch = { countOn t.now (s.chan ch) with reenter := true })
          ∧ t = { s with now := t.now, regs := t.regs, uch := t.uch } ∧ s.OtherChans t ch ∧ s.OnlyWords t (State.chanFace ch))
    ∧ (∀ (t0 : Nat),
        (s.chan ch).burdenOpen = some t0 →
        (s.chan ch).closure = none →
        ∃ t, exec (.burdenClosure ch) s = .next t
          ∧ t.now = max s.now (t0 + 1000000) ∧ t.chan ch = { countOn t.now (s.chan ch) with closure := some (t0 + 1000000) }
          ∧ t = { s with now := t.now, regs := t.regs, uch := t.uch } ∧ s.OtherChans t ch ∧ s.OnlyWords t (State.chanFace ch))
    ∧ (∀ (ua : Int) (t0 : Nat),
        (s.chan ch).closure = some t0 →
        ∃ t, exec (.burdenClosureEnd ch ua) s = .next t
          ∧ t.now = max s.now (t0 + 1000)
          ∧ t.chan ch = { countOn t.now (s.chan ch) with closure := none, burdenOpen := if ua ≤ 30000 then none else some t0 }
          ∧ t = { s with now := t.now, regs := t.regs, uch := t.uch } ∧ s.OtherChans t ch ∧ s.OnlyWords t (State.chanFace ch))
    ∧ (∀ (e : Nat),
        (s.chan ch).fsEnd = some e →
        ∃ t, exec (.fltFailsafeTimeout ch) s = .next t
          ∧ t.now = max s.now e ∧ (t.chan ch).fltDir = 0 ∧ (t.chan ch).fsDone = true ∧ (t.chan ch).fsEnd = none
          ∧ (t.chan ch).out = (s.chan ch).out
          ∧ t = { s with now := t.now, regs := t.regs, uch := t.uch } ∧ s.OtherChans t ch ∧ s.OnlyWords t (State.chanFace ch))

/-- R18, R86, R87, R89: a host write of PRI_1–PRI_7 of a channel, or of a level of a fan drive, and a relinquishment, wait for
the capture edge of the output's rate in order of completion; nothing else changes. -/
def Obligations.HostLevelsWaitForTheEdge : Prop :=
  ∀ (s : State) (out a : Nat) (w : Word),
    out < 120 →
    s.HostOpen a w →
    (∀ (lv : Nat),
        1 ≤ lv →
        lv ≤ 7 →
        a = (if out < 96 then rUchPri out (lv - 1) else rFanDrvpri (out - 96) (lv - 1)) →
        ∃ t, exec (.priWrite out lv w) s = .next t
          ∧ State.Answered { s with hostLv := s.hostLv ++ [{ out := out, lv := lv, v := some w.toInt }] } t)
    ∧ (a = (if out < 96 then rUchPriRel out else rFanDrvpriRel (out - 96)) →
        w &&& 0xFFFFFF01#32 = 0 →
        ∃ t, exec (.priRelinquish out w) s = .next t
          ∧ State.Answered { s with hostLv := s.hostLv ++
              ((List.range 7).filter (fun k => bitAt w (k + 1))).map (fun k => { out := out, lv := k + 1, v := none }) } t)

/-- R94, R97: a write of FLT_CLR.RDBK, LSW_SC or LSW_OT clears the latched fault, the streak and the event counts; a write of
FLT_CLR.OVV with the pin below the re-entry level lets the channel leave HIZ-PROTECT at the next edge. -/
def Obligations.FaultClearsReleaseTheLatch : Prop :=
  ∀ (s : State) (ch : Nat),
    ch < 96 →
    (∀ (k : Nat),
        6 ≤ k →
        k ≤ 8 →
        s.HostOpen (rUchFltClr ch) (BitVec.ofNat 32 (2 ^ (k - 1))) →
        (s.chan ch).latched &&& 2 ^ (k - 1) ≠ 0 →
        ∃ t, exec (if k = 6 then .fltClrRdbk ch else if k = 7 then .fltClrLswSc ch else .fltClrLswOt ch) s = .next t
          ∧ t.port.resp = 0
          ∧ (t.chan ch).latched = (s.chan ch).latched &&& (0xFF - 2 ^ (k - 1))
          ∧ (t.chan ch).faults = (s.chan ch).faults &&& (0xFF - 2 ^ (k - 1))
          ∧ (t.chan ch).streak = 0 ∧ (t.chan ch).events = [] ∧ t.get (fUchStatEvents ch) = 0
          ∧ t = { s with regs := t.regs, port := t.port, uch := t.uch, flt := t.flt } ∧ s.OtherChans t ch
          ∧ s.OnlyWords t (fun a => State.chanFace ch a || a == rIrqStat (8 + ch / 24) || a / 0x1000 == 0x88
              || a == rHostXactCnt))
    ∧ (∀ (pin : Int),
        s.HostOpen (rUchFltClr ch) 8 →
        s.coreOff = false →
        (s.chan ch).hizProt = true →
        pin < (if (s.chan ch).mode ∈ [5, 6, 7, 10] then (14000 : Int) else 11000) →
        ∃ t, exec (.fltClrOvv ch pin) s = .next t
          ∧ t.port.resp = 0 ∧ (t.chan ch).reenter = true ∧ (t.chan ch).hizProt = true
          ∧ (t.chan ch).faults = (s.chan ch).faults
          ∧ t = { s with regs := t.regs, port := t.port, uch := t.uch } ∧ s.OtherChans t ch
          ∧ s.OnlyWords t (fun a => State.chanFace ch a || a == rHostXactCnt))

/-- R11, R13, R36: at a lath edge the next frame captures at the edge, with skim frame 0 and phase 2 (in SAFE configuration no
phase runs). At a missed edge short of the third in a row no output changes its committed value. R33: with an accepted
activation the frames stop for the switch. R38: a reset that the third missed edge asked for is asserted at the next lath
edge, with its cause. -/
def Obligations.LathEdgesBeginTheNextFrame : Prop :=
  ∀ (s : State) (u : Nat) (meas : Meas),
    s.framesRun = true →
    (s.lath.resetAtEdge = none →
        s.switchDue = false →
        ∃ t, exec (.lathEdge u meas) s = .next t
          ∧ t.now = max s.now s.lath.due ∧ t.lath.cap = s.lath.due ∧ t.lath.skimCap = s.lath.due ∧ t.lath.skim = 0
          ∧ t.lath.phase = (if s.lath.safe then 7 else 2) ∧ t.lath.running = true ∧ t.lath.curL = meas.cur
          ∧ (s.lath.phase ≠ 7 ∨ u ≠ 0 → s.get fLathStatMissRun ≠ 2 → ∀ n, (t.chan n).out = (s.chan n).out)
          ∧ t.pending = s.pending ∧ t.frozen = s.frozen ∧ t.softRst = s.softRst ∧ t.port = s.port ∧ t.boot = s.boot ∧ t.pir = s.pir ∧
          t.tab = s.tab ∧ t.loopsL = s.loopsL ∧ t.loopsS = s.loopsS ∧ t.key = s.key ∧ t.epd = s.epd ∧ t.clk = s.clk ∧
          t.uid = s.uid)
    ∧ (s.lath.resetAtEdge = none →
        s.switchDue = true →
        ∃ t, exec (.lathEdge u meas) s = .next t
          ∧ t.now = max s.now s.lath.due ∧ t.lath.atE = true ∧ t.lath.cap = s.lath.cap ∧ t.lath.due = s.lath.due
          ∧ t.pending = s.pending ∧ t.held = s.held ∧ t.frozen = s.frozen ∧ t.softRst = s.softRst ∧ t.port = s.port ∧
          t.hostLv = s.hostLv ∧ t.img = s.img ∧ t.boot = s.boot ∧ t.engL = s.engL ∧ t.engS = s.engS ∧ t.cap = s.cap ∧
          t.pir = s.pir ∧ t.tab = s.tab ∧ t.hostZm = s.hostZm ∧ t.loopPar = s.loopPar ∧ t.loopsL = s.loopsL ∧
          t.loopsS = s.loopsS ∧ t.tmeCmd = s.tmeCmd ∧ t.net = s.net ∧ t.fanIo = s.fanIo ∧ t.key = s.key ∧ t.epd = s.epd ∧
          t.clk = s.clk ∧ t.uid = s.uid)
    ∧ (∀ (c : Nat),
        s.lath.resetAtEdge = some c →
        s.boot.rst = none →
        s.boot.first = true →
        c = 5 ∨ c = 6 ∨ c = 7 →
        ∃ t, exec (.lathEdge u meas) s = .next t
          ∧ t.boot.rst = some c ∧ t.boot.coreRst = true ∧ t.boot.first = false ∧ t.get fSysRstCauseCause = c ∧ t.uch = [])

/-- R11, R14, R36: at a skim edge inside a lath frame the next skim frame captures one skim period later, the lath frame goes
on untouched, and a missed edge short of the third in a row changes no output; the edge that ends skim frame 9 is the lath
edge. R13: a phase that has finished hands over to the next; only at a commit edge does an output change. -/
def Obligations.SkimEdgesAdvanceTheFrame : Prop :=
  ∀ (s : State),
    s.framesRun = true →
    (∀ (u : Nat) (meas : Meas),
        s.lath.skim < 9 →
        ∃ t, exec (.skimEdge u meas) s = .next t
          ∧ t.now = max s.now (s.lath.skimCap + s.skimPeriod) ∧ t.lath.skim = s.lath.skim + 1
          ∧ t.lath.skimCap = s.lath.skimCap + s.skimPeriod ∧ t.lath.cap = s.lath.cap ∧ t.lath.due = s.lath.due
          ∧ t.lath.phase = s.lath.phase
          ∧ (u ≠ 0 → s.get fLathStatMissRun ≠ 2 → ∀ n, (t.chan n).out = (s.chan n).out)
          ∧ t.pending = s.pending ∧ t.frozen = s.frozen ∧ t.softRst = s.softRst ∧ t.port = s.port ∧ t.nst = s.nst ∧ t.boot = s.boot ∧
          t.engL = s.engL ∧ t.cap = s.cap ∧ t.rbus = s.rbus ∧ t.pir = s.pir ∧ t.tab = s.tab ∧ t.loopsL = s.loopsL ∧
          t.loopsS = s.loopsS ∧ t.key = s.key ∧ t.epd = s.epd ∧ t.clk = s.clk ∧ t.uid = s.uid ∧ t.lev = s.lev ∧
          t.fab = s.fab ∧ t.dlv = s.dlv)
    ∧ (∀ (u : Nat) (meas : Meas),
        9 ≤ s.lath.skim →
        ∃ t, exec (.skimEdge u meas) s = .next t ∧ exec (.lathEdge u meas) s = .next t)
    ∧ (2 ≤ s.lath.phase →
        s.lath.phase ≤ 6 →
        ∃ t, exec .lathPhaseDone s = .next t
          ∧ t.lath = { s.lath with phase := s.lath.phase + 1 } ∧ t.now = s.now ∧ t.vis = s.vis ∧ t.uch = s.uch ∧ t.lv = s.lv
          ∧ t = { s with
            regs := t.regs, lath := t.lath, stL := t.stL, stS := t.stS, lwork := t.lwork, swork := t.swork,
            cores := t.cores, sto := t.sto, eng := t.eng, evL := t.evL, evS := t.evS, tab := t.tab, stZ := t.stZ,
            net := t.net, fanIo := t.fanIo })

/-- R18: at the capture edge of its rate a waiting write takes effect: waiting words of skim-rate fields at a skim edge, of
all fields at a lath edge, and the waiting level writes of outputs of the rate. R38: MISS_CLR, written while MISS_RUN is 0,
lets go of the failsafe; written while it is not, it is ignored. -/
def Obligations.WrittenParametersTakeEffect : Prop :=
  ∀ (s : State),
    (s.framesRun = true →
        s.now = s.lath.skimCap →
        ∃ t, exec (.paramTakeEffect true) s = .next t
          ∧ t.held = s.held.filter (fun p => s.regRate p.1 ≠ some .skim)
          ∧ t.hostLv = s.hostLv.filter (fun w => (s.takeHeld .skim).outRate w.out ≠ .skim) ∧ t.dir.hostW = []
          ∧ t.now = s.now ∧ t.uch = s.uch ∧ t = { s with
            regs := t.regs, held := t.held, lv := t.lv, l0 := t.l0, hostLv := t.hostLv, vis := t.vis, img := t.img,
            dir := t.dir, eng := t.eng, hostZm := t.hostZm, loopPar := t.loopPar, tmeCmd := t.tmeCmd, net := t.net,
            fanIo := t.fanIo })
    ∧ (s.framesRun = true →
        s.now = s.lath.cap →
        s.lath.phase = 2 →
        ∃ t, exec (.paramTakeEffect false) s = .next t
          ∧ t.held = [] ∧ t.hostZm = [] ∧ t.tmeCmd = [] ∧ t.dir.hostW = [] ∧ t.dir.liveW = []
          ∧ t.now = s.now ∧ t.uch = s.uch ∧ t = { s with
            regs := t.regs, held := t.held, lv := t.lv, l0 := t.l0, hostLv := t.hostLv, vis := t.vis, img := t.img,
            dir := t.dir, eng := t.eng, hostZm := t.hostZm, loopPar := t.loopPar, tmeCmd := t.tmeCmd, net := t.net,
            fanIo := t.fanIo })
    ∧ (s.HostOpen rLathCtrl (s.word rLathCtrl ||| 1#32) →
        s.locked 3 = false →
        s.word rLathCtrl &&& 0xFFFFFEFE#32 = 0 →
        ∃ t, exec .missClr s = .next t
          ∧ (s.get fLathStatMissRun ≠ 0 → State.Answered s t)
          ∧ (s.get fLathStatMissRun = 0 → s.bit fLathStatFailsafe = true →
              t.port.resp = 0 ∧ t.bit fLathStatFailsafe = false
              ∧ (s.flt.tjHeld = false → s.flt.stopped = false → s.pwr.pfwAt = none → s.flt.active = [] →
                  t.bit fFaultFsStatActive = false
                  ∧ ∀ n, n < 96 → s.holdsL0 n .path = true → ({ out := n, owner := .path, set := false, time := s.now } : L0Write) ∈ t.flt.staged)
              ∧ t = { s with regs := t.regs, flt := t.flt, port := t.port }))

/-- R27: LATH checks the pending configuration; a failed check records its cause and ends the activation, a passed one accepts
it with the point directory, network, tables and streams as they stand. R33, R34: at E the accepted configuration takes over
and captures at E, or, when the new period does not divide E, frames wait for the first multiple of the new period. R35, R83,
R486: SAFE configuration begins at the first lath edge after start-up selected it, and that edge is the first commit. -/
def Obligations.ActivationsAreCheckedThenSwitched : Prop :=
  ∀ (s : State),
    (∀ (a : Activation) (v : State) (r : Verdict),
        s.coreOff = false →
        s.lath.act = some a →
        a.stage = .applied →
        a.startup = false →
        v = s.actView a →
        r = v.lathCheck v.dir.pend s.net.pend s.tab.pend v.dlv.pend →
        ∃ t, exec .lathActivationCheck s = .next t
          ∧ t.get fLathActCauseCause = r.cause % 16 ∧ t.get fLathActDetailEngine = r.engine % 16
          ∧ t.get fLathActDetailItem = r.item % 65536
          ∧ (r.cause ≠ 0 → t.lath = { s.lath with act := none } ∧ t.bit fNstoreStatActivating = false)
          ∧ (r.cause = 0 → t.lath = { s.lath with readyAt := s.now, act := some { a with
              stage := .accepted, dir := v.dir.pend, net := s.net.pend, sch := s.tab.pend, strm := v.dlv.pend, op := r.op, order := r.order } })
          ∧ t.now = s.now ∧ t.uch = s.uch ∧ t.vis = s.vis ∧ t = { s with
            regs := t.regs, held := t.held, lath := t.lath, nst := t.nst, dir := t.dir, boot := t.boot, tab := t.tab,
            net := t.net, dlv := t.dlv })
    ∧ (∀ (a : Activation) (l : Nat),
        s.alive = true →
        s.lath.gapTo = none →
        s.lath.running = true →
        s.lath.atE = true →
        s.lath.act = some a →
        l = 10000 * ((s.actView a).get fLathPendPeriodPeriod) →
        ∃ t, exec .configSwitch s = .next t
          ∧ t.lath.act = none ∧ t.lath.atE = false ∧ t.lath.safe = false ∧ t.nst.recDue = some a.slot
          ∧ (l ≠ 0 → s.lath.due % l ≠ 0 → t.lath.gapTo = some ((s.lath.due / l + 1) * l) ∧ t.lath.cap = s.lath.cap)
          ∧ (l = 0 ∨ s.lath.due % l = 0 → t.lath.gapTo = none ∧ t.lath.cap = s.lath.due ∧ t.lath.skim = 0 ∧ t.lath.phase = 2)
          ∧ t.pending = s.pending ∧ t.stZ = s.stZ ∧ t.pwr = s.pwr ∧ t.clk = s.clk ∧ t.uid = s.uid)
    ∧ (∀ (e : Nat),
        s.alive = true →
        s.lath.gapTo = none →
        s.lath.running = false →
        s.lath.safeSel = true →
        s.softRst = [] →
        e = (s.lath.readyAt / s.lathPeriod + 1) * s.lathPeriod →
        ∃ t, exec .configSwitch s = .next t
          ∧ t.now = max s.now e ∧ t.boot.first = true ∧ t.lath.running = true ∧ t.lath.safe = true ∧ t.lath.cap = e
          ∧ t.lath.phase = 7 ∧ t.pending = s.pending ∧ t.stZ = s.stZ ∧ t.pwr = s.pwr ∧ t.clk = s.clk ∧ t.uid = s.uid)
    ∧ (∀ (e : Nat),
        s.alive = true →
        s.lath.gapTo = some e →
        ∃ t, exec .periodGapEnd s = .next t
          ∧ t.now = max s.now e ∧ t.lath.gapTo = none ∧ t.lath.running = true ∧ t.lath.cap = e ∧ t.lath.skim = 0
          ∧ t.lath.phase = (if s.lath.safe then 7 else 2) ∧ t.pending = s.pending ∧ t.frozen = s.frozen ∧ t.softRst = s.softRst ∧ t.port = s.port ∧ t.nst = s.nst ∧ t.boot = s.boot ∧
          t.pir = s.pir ∧ t.tab = s.tab ∧ t.stZ = s.stZ ∧ t.loopsL = s.loopsL ∧ t.loopsS = s.loopsS ∧ t.key = s.key ∧
          t.epd = s.epd ∧ t.pwr = s.pwr ∧ t.clk = s.clk ∧ t.uid = s.uid ∧ t.lev = s.lev ∧ t.fab = s.fab ∧ t.dlv = s.dlv ∧
          t.fresh = s.fresh)

/-- R87: at a commit edge the output takes the value of the lowest-numbered level that holds a value, within the range of its
mode; when no level holds one it takes INIT. WIN_LVL shows the winning level, 7 also when the array is empty, and EMPTY tells
the two apart. Relinquishing a level empties it. (A channel driven by a fan governor takes its drive's duty instead, by R231,
and is not in this statement.) -/
def Obligations.LowestLevelWins : Prop :=
  ∀ (s : State) (n : Nat),
    n < 96 →
    (s.chan n).started = true →
    s.isOutput n = true →
    s.driveGov n = none →
    (∀ (k : Nat) (v : Int),
        s.level n k = some v →
        k ≤ 7 →
        ∀ j < k, s.level n j = none →
        ((s.commitOutput n).chan n).out = modeClamp (s.chan n).mode v
          ∧ (s.commitOutput n).get (fUchStatWinLvl n) = k ∧ (s.commitOutput n).bit (fUchStatEmpty n) = false)
    ∧ (∀ j < 8, s.level n j = none →
        ((s.commitOutput n).chan n).out = modeClamp (s.chan n).mode (s.egeti (fUchInitValue n))
          ∧ (s.commitOutput n).get (fUchStatWinLvl n) = 7 ∧ (s.commitOutput n).bit (fUchStatEmpty n) = true)
    ∧ (∀ (k : Nat),
        1 ≤ k →
        k ≤ 7 →
        (s.setLevel n k none).level n k = none)

/-- R58, R61, R63, R65: a READ returns the words as they stand; a WRITE applies its words in ascending address order, and one
that met a LOCKED page ends with LOCKED, every word applied; a MAILBOX transaction pushes its words. Each answers OK, is
counted and leaves everything else. -/
def Obligations.TransactionsReachTheirWords : Prop :=
  ∀ (s : State) (x : Xact),
    s.XactOpen x →
    (xactOp x = 1 →
        ∃ t, exec (.hostRead x) s = .next t
          ∧ t.port.rdata = (readWords (xactLen x) s (xactStart x)).1 ∧ t.port.hostStatus = some s.hostStatus
          ∧ State.Answered (readWords (xactLen x) s (xactStart x)).2 t)
    ∧ (∀ (r : State × Option Nat),
        xactOp x = 2 →
        winOf (xactStart x) ≠ some 2 →
        s.authRequired = true → ∀ i < x.data.length, s.wordClass (xactStart x + 4 * i) (x.data.getD i 0) = 0 →
        s.epdBars (xactStart x) x.data = none →
        r = s.writeLocked {} (xactStart x) 0 x.data →
        r.1.boot.cmdRst = none →
        ∃ t, exec (.registerWrite x) s = .next t
          ∧ (r.2 = none → State.Answered r.1 t)
          ∧ (r.2 ≠ none → t.port.resp = 3 ∧ t.get fHostLastErrResp = 3 ∧ t = { r.1 with regs := t.regs, port := t.port }))
    ∧ (xactOp x = 4 →
        isMailbox (xactStart x) = true →
        s.mailboxRoom (xactStart x) (xactLen x) = true →
        (s.mailPush (xactStart x) x.data).boot.cmdRst = none →
        ∃ t, exec (.registerWrite x) s = .next t ∧ State.Answered (s.mailPush (xactStart x) x.data) t)

/-- R61, R62: CRC_FAIL, SIZE_ERR, BAD_ADDR, AUTH_REQ, NOT_READY and GATED are answered in this order of precedence; no word is
applied, a READ returns zeros, and HOST.LAST_ERR takes the code. While the core is in reset a transaction does nothing. -/
def Obligations.RefusedTransactionsChangeNothing : Prop :=
  ∀ (s : State) (x : Xact) (c : Instr),
    c = (if xactOp x = 2 ∨ xactOp x = 4 then .registerWrite x else .hostRead x) →
    (∀ (code : Nat),
        s.boot.coreRst = false →
        s.boot.cmdRst = none →
        (code = 8 ∧ x.whole = true ∧ (xactOp x = 1 ∨ ((xactOp x = 2 ∨ xactOp x = 4) ∧ x.data.length = xactLen x)) ∧ s.bit fHostCfgCrcEn = true ∧ crc16 (xactBytes x) ≠ x.crc.toNat) ∨ (code = 10 ∧ (¬ (x.whole = true ∧ (xactOp x = 1 ∨ ((xactOp x = 2 ∨ xactOp x = 4) ∧ x.data.length = xactLen x))) ∨ (s.XactWhole x ∧ sizeOk (xactStart x) (xactLen x) = false))) ∨ (s.XactWhole x ∧ sizeOk (xactStart x) (xactLen x) = true ∧ ((code = 5 ∧ (xactStart x % 4 ≠ 0 ∨ addrOk (xactStart x) = false ∨ (xactOp x = 4 ∧ isMailbox (xactStart x) = false))) ∨ (xactStart x % 4 = 0 ∧ addrOk (xactStart x) = true ∧ ((code = 4 ∧ xactOp x = 2 ∧ xactLen x = 1 ∧ s.authRequired = true ∧ s.wordClass (xactStart x) (x.data.getD 0 0) ≠ 0) ∨ (xactOp x = 1 ∧ winOf (xactStart x) ≠ some 2 ∧ ((code = 9 ∧ s.notReady (xactStart x) (xactLen x) = true) ∨ (code = 6 ∧ s.notReady (xactStart x) (xactLen x) = false ∧ s.gatedAt (xactStart x) (xactLen x) = true))))))) →
        ∃ t, exec c s = .next t
          ∧ t.port.resp = code ∧ t.get fHostLastErrResp = code
          ∧ t.port.rdata = (if xactOp x = 1 then List.replicate (xactLen x) 0#32 else [])
          ∧ t = { s with regs := t.regs, port := t.port }
          ∧ s.OnlyWords t (fun a => a / 0x1000 == 4 || some (a / 0x1000) == errPage (xactStart x)))
    ∧ (s.boot.coreRst = true →
        ∃ t, exec c s = .next t ∧ t = { s with port := { s.port with hostStatus := none } })

/-- R47: a read of LO captures HI into the snapshot; the next read of that HI within 1 ms returns it and releases it, a later
one reads live. R48: a LO write is staged and changes nothing; staged LO writes are discarded after 1 ms with PAIR_TIMEOUT. -/
def Obligations.SixtyFourBitPairs : Prop :=
  ∀ (s : State),
    (∀ (a : Nat),
        pairLo a = true →
        s.port.snap.map (fun x => x.1) ≠ some a →
        (s.readWord a).1 = (s.readLive a).1 ∧ (s.readWord a).2.port.snap = some (a + 4, (s.readLive (a + 4)).1, s.now))
    ∧ (∀ (a t0 : Nat) (w : Word),
        s.port.snap = some (a, w, t0) →
        s.now ≤ t0 + 1000 →
        s.readWord a = (w, { s with port := { s.port with snap := none } }))
    ∧ (∀ (a : Nat),
        pairLo a = false →
        ∀ x ∈ s.port.snap, x.1 = a → x.2.2 + 1000 < s.now →
        (s.readWord a) = s.readLive a)
    ∧ (∀ (x : Nat × Word × Nat),
        s.coreOff = false →
        s.port.snap = some x →
        ∃ t, exec .snapshotExpiry s = .next t
          ∧ t.now = max s.now (x.2.2 + 1000) ∧ t.port = { s.port with snap := none } ∧ t = { s with now := t.now, port := t.port })
    ∧ (∀ (a : Nat) (w : Word),
        a = rCalSetLo ∨ a = rPeatPresetLo ∨ a = rLeveeSessUidLo →
        s.HostOpen a w →
        s.locked (a / 0x1000) = false →
        ∃ t, exec (.registerWrite (writeXact a w)) s = .next t
          ∧ t.port.staged = s.port.staged.filter (fun y => y.1 ≠ a) ++ [(a, w, s.now)] ∧ State.Answered s t)
    ∧ (∀ (a t0 : Nat) (w : Word),
        s.coreOff = false →
        s.port.staged = [(a, w, t0)] →
        ∃ t, exec .pairTimeout s = .next t
          ∧ t.now = max s.now (t0 + 1000) ∧ t.port = { s.port with staged := [] }
          ∧ (∀ p ∈ errPage a, bitsOf (t.word (rBlkErr p)) 16 8 = 6 ∧ bitAt (t.word (rBlkErr p)) 31 = true)
          ∧ t = { s with now := t.now, regs := t.regs, port := t.port } ∧ s.OnlyWords t (fun b => (errPage a).map rBlkErr == some b))

/-- R50, R51, R52, R469: BLK_CTRL.EN is taken, and EN_ACK follows at once where the engine runs in no frame; SOFT_RST makes
the page busy, for at most 100 µs, and is refused with LOCKED on a LOCKED page; GATE_REQ gates the clocks once EN_ACK reads 0,
and its release restarts them; a gate that is forced ends the access in flight with GATE_ABORT. Pages whose EN is fixed ignore
EN. (That EN also reads 1 on pages beyond R52's follows the chapters, log entry 58.) -/
def Obligations.BlockControl : Prop :=
  ∀ (s : State) (p : Nat) (b : Blk),
    blkOfPage p = some b →
    (∀ (w v : Word),
        v = w &&& 0xFFFFFFFD#32 →
        s.HostOpen (rBlkCtrl p) v →
        s.CtrlTaken b p v →
        ∃ t, exec (.blockEnable p w) s = .next t
          ∧ t.port.resp = 0
          ∧ t.bit (fBlkEn p) = (if fixedEn b then s.bit (fBlkEn p) else bitAt w 0)
          ∧ (frameBlk b = true → t.enAck p = s.enAck p)
          ∧ (fixedEn b = false → frameBlk b = false → b ≠ .rbus → t.enAck p = bitAt w 0)
          ∧ t.now = s.now ∧ t.lath = s.lath ∧ t.vis = s.vis ∧ t.nst = s.nst)
    ∧ (∀ (w : Word),
        b = .conv →
        s.HostOpen (rBlkCtrl p) (w &&& 0xFFFFFFFD#32) →
        bitAt w 0 = false →
        (List.range 12).any (fun i => (s.chan (12 * (p - 0x10) + i)).mode ≠ 0) = true →
        ∃ t, exec (.blockEnable p w) s = .next t
          ∧ t.bit (fBlkEn p) = s.bit (fBlkEn p) ∧ bitsOf (t.word (rBlkErr p)) 16 8 = 0x42)
    ∧ (∀ (w v : Word),
        v = (w ||| 4#32) &&& 0xFFFFFFFD#32 →
        s.HostOpen (rBlkCtrl p) v →
        s.CtrlTaken b p v →
        ∃ t, exec (.gateRequest p w) s = .next t
          ∧ t.port.resp = 0 ∧ t.bit (fBlkGateReq p) = true
          ∧ t.bit (fBlkGated p) = (s.bit (fBlkGated p) || (!fixedEn b && !t.enAck p)))
    ∧ (∀ (w v : Word),
        v = w &&& 0xFFFFFFF9#32 →
        s.HostOpen (rBlkCtrl p) v →
        s.CtrlTaken b p v →
        ∃ t, exec (.ungate p w) s = .next t
          ∧ t.port.resp = 0 ∧ t.bit (fBlkGateReq p) = false ∧ (fixedEn b = false → t.bit (fBlkGated p) = false))
    ∧ (∀ (w v : Word),
        v = w ||| 2#32 →
        s.HostOpen (rBlkCtrl p) v →
        fixedEn b = false →
        ∃ t, exec (.softReset p w) s = .next t
          ∧ (s.locked p = true → t.port.resp = 3 ∧ t.softRst = s.softRst)
          ∧ (s.locked p = false → t.port.resp = 0 ∧ t.softRst = s.softRst.filter (fun x => x.1 ≠ p) ++ [(p, s.now)]
              ∧ t.bit (fBlkBusy p) = true)
          ∧ t.now = s.now ∧ t.lath = s.lath ∧ t.vis = s.vis ∧ t.nst = s.nst)
    ∧ (∀ (t0 : Nat),
        s.coreOff = false →
        s.softRst.lookup p = some t0 →
        ∃ t, exec (.softResetDone p) s = .next t
          ∧ t.now = max s.now (t0 + 100) ∧ t.softRst.lookup p = none ∧ t.bit (fBlkBusy p) = false
          ∧ t = { s with now := t.now, regs := t.regs, softRst := t.softRst } ∧ s.OnlyWords t (fun a => a == rBlkStat p))
    ∧ (∀ (off : Nat) (write took : Bool) (w : Word),
        0x20 ≤ off →
        off < 0x1000 →
        off % 4 = 0 →
        s.HostOpen (0x1000 * p + off) w →
        s.coreOff = false →
        s.bit (fBlkGateReq p) = true →
        s.enAck p = false →
        s.bit (fBlkGated p) = false →
        ∃ t, exec (.gateForce p off write took w) s = .next t
          ∧ t.bit (fBlkGated p) = true ∧ t.port.resp = 7
          ∧ (write = false → t.port.rdata = (readWords 1 s (0x1000 * p + off)).1)
          ∧ bitsOf (t.word (rBlkErr p)) 16 8 = 3 ∧ bitAt (t.word (rBlkErr p)) 30 = write
          ∧ bitAt (t.word (rBlkErr p)) 29 = (write && took))

/-- R55: a page becomes LOCKED by 0x5A5A then 0xA5A5 within 1 ms, and any other write to LOCK restarts the sequence. R54, R4:
IRQ_TEST sets the page's IRQ_STAT bits, a 1 written to IRQ_STAT clears its bit. R70: an NME bit whose condition persists is
set again. R71: the key resets the device with cause 7. -/
def Obligations.CommonHeader : Prop :=
  ∀ (s : State),
    (∀ (p : Nat) (w : Word),
        s.HostOpen (rLock p) w →
        ∃ t, exec (.lockWrite p w) s = .next t
          ∧ t.port.resp = 0
          ∧ t.port.lockSeq = s.port.lockSeq.filter (fun x => x.1 ≠ p) ++ (if w = 0x5A5A#32 then [(p, s.now)] else [])
          ∧ (w = 0xA5A5#32 → (∃ t0 ∈ s.port.lockSeq.lookup p, s.now ≤ t0 + 1000) → t.locked p = true)
          ∧ (w ≠ 0xA5A5#32 ∨ (∀ t0 ∈ s.port.lockSeq.lookup p, t0 + 1000 < s.now) → t.locked p = s.locked p)
          ∧ t = { s with regs := t.regs, port := t.port, sto := t.sto }
          ∧ s.OnlyWords t (fun a => a == rLock p || a == rHostXactCnt || a / 0x1000 == 0x70))
    ∧ (∀ (p : Nat) (b : Blk) (w : Word),
        blkOfPage p = some b →
        s.HostOpen (rIrqTest p) w →
        ∃ t, exec (.irqTestWrite p w) s = .next t
          ∧ t.port.resp = 0 ∧ t.word (rIrqStat p) = s.word (rIrqStat p) ||| (w &&& BitVec.ofNat 32 b.irqMask)
          ∧ t = { s with regs := t.regs, port := t.port, sto := t.sto }
          ∧ s.OnlyWords t (fun a => a == rIrqStat p || a == rBlkErr p || a == rHostXactCnt || a / 0x1000 == 0x70))
    ∧ (∀ (p : Nat) (w : Word),
        s.HostOpen (rIrqStat p) w →
        ∃ t, exec (.irqStatClear p w) s = .next t
          ∧ t.port.resp = 0 ∧ t.word (rIrqStat p) = s.word (rIrqStat p) &&& ~~~w
          ∧ t = { s with regs := t.regs, port := t.port, sto := t.sto }
          ∧ s.OnlyWords t (fun a => a == rIrqStat p || a == rBlkErr p || a == rHostXactCnt || a / 0x1000 == 0x70))
    ∧ (∀ (w : Word),
        s.HostOpen rSysNmeStat w →
        s.locked 0 = false →
        ∃ t, exec (.nmeClear w) s = .next t
          ∧ t.port.resp = 0
          ∧ t.bit fSysNmeStatClkfail = ((s.bit fSysNmeStatClkfail && !bitAt w fSysNmeStatClkfail.lsb) || s.clkFailed)
          ∧ t.bit fSysNmeStatPfw = ((s.bit fSysNmeStatPfw && !bitAt w fSysNmeStatPfw.lsb) || s.pwr.pfwAt.isSome)
          ∧ t.bit fSysNmeStatTjCrit = ((s.bit fSysNmeStatTjCrit && !bitAt w fSysNmeStatTjCrit.lsb) || s.flt.tjHeld)
          ∧ t.bit fSysNmeStatLathMiss = ((s.bit fSysNmeStatLathMiss && !bitAt w fSysNmeStatLathMiss.lsb) || s.bit fLathStatFailsafe)
          ∧ t.bit fSysNmeStatSramUncorr =
              ((s.bit fSysNmeStatSramUncorr && !bitAt w fSysNmeStatSramUncorr.lsb) || s.flt.active.any (fun r => r.code = 5))
          ∧ t = { s with regs := t.regs, port := t.port }
          ∧ s.OnlyWords t (fun a => a == rSysNmeStat || a == rBlkErr 0 || a == rHostXactCnt))
    ∧ (∀ (w : Word),
        s.HostOpen rSysRstCmd w →
        s.locked 0 = false →
        s.boot.rst = none →
        s.boot.first = true →
        ∃ t, exec (.rstCmd w) s = .next t
          ∧ (w = 0xC3C3#32 → t.boot.rst = some 7 ∧ t.boot.coreRst = true ∧ t.boot.first = false ∧ t.get fSysRstCauseCause = 7
              ∧ t.uch = [] ∧ t.now = s.now)
          ∧ (w ≠ 0xC3C3#32 → t.port.resp = 0 ∧ t = { s with regs := t.regs, port := t.port }
              ∧ s.OnlyWords t (fun a => a == rBlkErr 0 || a == rHostXactCnt)))

/-- R103, R116: a conversion of the scan takes 50 clocks (twice that while coasting) and hands on to the next slot, through a
discharge when the input lay beyond its span; a discharge lasts 100 clocks or what an urgent conversion left of it. R119,
R121, R124: an urgent conversion starts when a request waits and the core holds a credit, and its result leaves the queue and
is tagged. R126: 50 µs without a conversion is a STALL. -/
def Obligations.ScanConvertsSlotAfterSlot : Prop :=
  ∀ (s : State) (c : Nat),
    c < 8 →
    s.coreOff = false →
    (s.core c).run = true →
    (∀ (code : Nat) (ovf hi : Bool),
        (s.core c).ph = .conv →
        ∃ t, exec (.conversionDone c code ovf hi) s = .next t
          ∧ t.now = max s.now (((s.core c).t0 + 50 * s.slow) / 50)
          ∧ (t.core c).slot = ((s.core c).slot + 1) % 16 ∧ (t.core c).t0 = (s.core c).t0 + 50 * s.slow
          ∧ (t.core c).ph = (if ovf && !s.convertsZero c (s.core c).slot then .disch else .conv)
          ∧ (t.core c).since = min 7 ((s.core c).since + 1)
          ∧ (t.core c).run = s.en (0x10 + c)
          ∧ t = { s with now := t.now, regs := t.regs, flt := t.flt, cores := t.cores, pwr := t.pwr })
    ∧ (∀ (len : Nat),
        (s.core c).ph = .disch →
        len = (if (s.core c).left = 0 then 100 * s.slow else (s.core c).left) →
        ∃ t, exec (.dischargeEnd c) s = .next t
          ∧ t.now = max s.now (((s.core c).t0 + len) / 50)
          ∧ (t.core c).ph = .conv ∧ (t.core c).t0 = (s.core c).t0 + len ∧ (t.core c).left = 0 ∧ (t.core c).slot = (s.core c).slot
          ∧ t = { s with now := t.now, regs := t.regs, flt := t.flt, cores := t.cores })
    ∧ ((s.core c).ph ≠ .urgent →
        7 ≤ (s.core c).since →
        (s.core c).queue ≠ [] →
        ∃ t, exec (.urgentStart c) s = .next t
          ∧ (t.core c).ph = .urgent ∧ (t.core c).since = 0 ∧ (t.core c).queue = (s.core c).queue
          ∧ t.now = max s.now ((t.core c).t0 / 50) ∧ t.bit (fConvSluiceStatCredit c) = false
          ∧ (t.core c).dsc = ((s.core c).ph == .disch && (t.core c).left != 0)
          ∧ t = { s with now := t.now, regs := t.regs, cores := t.cores })
    ∧ (∀ (code slot req : Nat) (ovf hi : Bool) (q : List (Nat × Nat)),
        (s.core c).ph = .urgent →
        (s.core c).queue = (slot, req) :: q →
        slot < 16 →
        req < 4 →
        ∃ t, exec (.urgentResult c code ovf hi) s = .next t
          ∧ t.now = max s.now (((s.core c).t0 + 50 * s.slow) / 50)
          ∧ (t.core c).queue = q ∧ (t.core c).since = 0 ∧ (t.core c).urgN = ((s.core c).urgN + 1) % 16
          ∧ (t.core c).ph = (if (ovf && !s.convertsZero c slot) || (s.core c).left ≠ 0 then .disch else .conv)
          ∧ t.get (fConvSluiceTagSlot c) = slot ∧ t.get (fConvSluiceTagReq c) = req
          ∧ t.get (fConvSluiceTagSeq c) = ((s.core c).urgN + 1) % 16
          ∧ t = { s with
            now := t.now, regs := t.regs, uch := t.uch, flt := t.flt, cores := t.cores, net := t.net, fanIo := t.fanIo })
    ∧ (s.bit (fConvFaultStall c) = false →
        ∃ t, exec (.stall c) s = .next t
          ∧ t.now = max s.now ((s.core c).t0 / 50 + 50)
          ∧ t.bit (fConvFaultStall c) = true ∧ (t.core c).stallRst = true ∧ t.Raised 0x4003 c
          ∧ (∀ i, i < 12 → bitAt (t.word (rConvResLo c i)) 24 = true ∧ bitAt (t.word (rConvResLo c i)) 25 = true)
          ∧ (∀ n, (t.chan n).out = (s.chan n).out ∧ (t.chan n).mode = (s.chan n).mode)
          ∧ t.lath = s.lath ∧ t.vis = s.vis ∧ t.nst = s.nst)

/-- R110, R114: at the end of an output interval the mean of its samples is corrected, posted with its sequence number and
time, and the next interval's samples take over. R118: SLUICE.REQ queues a request, up to four. R126: a block of 16 rounds
posts its means, raises or clears REF and ZERO. R125, R414, R460: the temperature block posts TEMP, and the highest of the
eight drives TJ_CRIT and the derating. R113: a correction written is marked as host software's. -/
def Obligations.ConverterResultsAndChecks : Prop :=
  ∀ (s : State),
    (∀ (ch c i due : Nat) (a : Acc),
        ch < 96 →
        c = ch / 12 →
        i = ch % 12 →
        s.coreOff = false →
        (s.core c).run = true →
        a = Map.look (fun _ => {}) (s.core c).cur i →
        due = max (Map.look (fun _ => 0) (s.core c).lastEnd i / rateUs (s.eget (fUchCfgRate ch)) * rateUs (s.eget (fUchCfgRate ch)) + rateUs (s.eget (fUchCfgRate ch))) ((s.now + rateUs (s.eget (fUchCfgRate ch)) - 1) / rateUs (s.eget (fUchCfgRate ch)) * rateUs (s.eget (fUchCfgRate ch))) →
        ∃ t, exec (.intervalEnd ch) s = .next t
          ∧ t.now = max s.now due
          ∧ bitsOf (t.word (rConvResLo c i)) 28 4 = (Map.look (fun _ => 0) (s.core c).seq i + 1) % 16
          ∧ bitsOf (t.word (rConvResHi c i)) 0 28 = due % 2 ^ 28
          ∧ bitAt (t.word (rConvResLo c i)) 27 = a.oh ∧ bitAt (t.word (rConvResLo c i)) 26 = a.ol
          ∧ (a.oh = false → a.ol = false → a.n ≠ 0 → (s.chan ch).mode ≠ 3 →
              signedOf 24 (bitsOf (t.word (rConvResLo c i)) 0 24)
                = correct (Map.look (fun _ => (0, 0x400000)) (s.core c).cor i) ((((a.acc * 256 + a.n / 2) / a.n : Nat) : Int) - 0x800000))
          ∧ Map.look (fun _ => {}) (t.core c).cur i = Map.look (fun _ => {}) (s.core c).nxt i
          ∧ t = { s with now := t.now, regs := t.regs, uch := t.uch, flt := t.flt, cores := t.cores, pir := t.pir } ∧ s.OtherChans t ch)
    ∧ (∀ (c slot : Nat) (w : Word),
        c < 8 →
        w = BitVec.ofNat 32 (0x100 + slot % 16) →
        s.HostOpen (rConvSluice c) w →
        s.locked (0x10 + c) = false →
        ∃ t, exec (.sluiceRequest c slot) s = .next t
          ∧ t.port.resp = 0
          ∧ ((s.core c).queue.length < 4 → (s.core c).run = true → s.coreFault c = false →
              t.core c = { s.core c with queue := (s.core c).queue ++ [(slot % 16, 0)] })
          ∧ (4 ≤ (s.core c).queue.length ∨ (s.core c).run = false ∨ s.coreFault c = true →
              t.core c = s.core c ∧ bitsOf (t.word (rBlkErr (0x10 + c))) 16 8 = 0x40
              ∧ t.get (fConvUrgCntRefused c) = satAdd (2 ^ (fConvUrgCntRefused c).width - 1) (s.get (fConvUrgCntRefused c)) 1)
          ∧ t = { s with regs := t.regs, port := t.port, cores := t.cores }
          ∧ s.OnlyWords t (fun a => a / 0x1000 == 0x10 + c || a == rHostXactCnt))
    ∧ (∀ (c x y : Nat),
        c < 8 →
        s.coreOff = false →
        (s.core c).blk = some (x, y) →
        ∃ t, exec (.selfCheckBlockEnd c) s = .next t
          ∧ t.get (fConvRefMean c) = (x + 8) / 16 % 2 ^ (fConvRefMean c).width
          ∧ t.get (fConvZeroMean c) = (y + 8) / 16 % 2 ^ (fConvZeroMean c).width
          ∧ (t.core c).blk = none
          ∧ (x + 256 < 0xC0000 ∨ 0xC0000 + 256 < x → t.bit (fConvFaultRef c) = true ∧ (t.core c).refOk = 0
              ∧ (s.bit (fConvFaultRef c) = false → t.Raised 0x4001 c))
          ∧ (0xC0000 ≤ x + 256 → x ≤ 0xC0000 + 256 → s.bit (fConvFaultRef c) = true →
              (t.bit (fConvFaultRef c) = false ↔ 15 ≤ (s.core c).refOk))
          ∧ (y + 256 < 0x80000 ∨ 0x80000 + 256 < y → t.bit (fConvFaultZero c) = true ∧ (t.core c).zeroOk = 0
              ∧ (s.bit (fConvFaultZero c) = false → t.Raised 0x4002 c))
          ∧ t = { s with regs := t.regs, flt := t.flt, cores := t.cores })
    ∧ (∀ (c : Nat),
        c < 8 →
        s.coreOff = false →
        (s.core c).n14 ≠ 0 →
        ∃ t, exec (.tempBlockEnd c) s = .next t
          ∧ t.now = max s.now ((s.now + 999) / 1000 * 1000)
          ∧ t.get (fConvTempValue c) =
              unsignedOf (fConvTempValue c).width (divHalfUp (((s.core c).t14 : Int) * 1000) (s.core c).n14 - 550 * 65536)
          ∧ (t.core c).n14 = 0 ∧ (t.core c).t14 = 0
          ∧ t.get fPwrTjValue = unsignedOf fPwrTjValue.width t.maxTemp
          ∧ (135 * 65536 ≤ t.maxTemp → t.flt.tjHeld = true ∧ t.Raised 3 0 ∨ s.flt.tjHeld = true)
          ∧ t.bit fPwrStatDerating =
              (if s.bit fPwrStatDerating then !decide (t.maxTemp < 113 * 65536) else decide (115 * 65536 ≤ t.maxTemp))
          ∧ t = { s with now := t.now, regs := t.regs, uch := t.uch, l0 := t.l0, flt := t.flt, cores := t.cores })
    ∧ (∀ (c i : Nat) (gain : Bool) (w : Word) (a : Nat),
        c < 8 →
        i < 12 →
        a = (if gain then rConvCorGain c i else rConvCorOfs c i) →
        s.HostOpen a w →
        s.locked (0x10 + c) = false →
        gain = true → 0x200000 ≤ w.toNat ∧ w.toNat ≤ 0x800000 →
        gain = false → w &&& 0xFF000000#32 = 0 →
        ∃ t, exec (.correctionWrite c i gain w) s = .next t
          ∧ t.port.resp = 0
          ∧ (gain = true → t.get (fConvCorGainGain c i) = w.toNat)
          ∧ (gain = false → t.get (fConvCorOfsOffset c i) = w.toNat % 2 ^ 24)
          ∧ t.get (fConvCorOfsSrc c i) = 3 ∧ t.cores = s.cores
          ∧ t = { s with regs := t.regs, port := t.port }
          ∧ s.OnlyWords t (fun b => b == rConvCorGain c i || b == rConvCorOfs c i || b == rHostXactCnt))

/-- R18: a write of a field that a frame engine reads leaves its word in the register, while the value in force stays until
the capture edge; a word that the register refuses (R160, R518, R519 and the checks of the register tables) is not taken, and
BLK_ERR names the cause. It holds of the SENSE page, of setpoints and of loop parameters, TYPE, SKIM and bindings. -/
def Obligations.WrittenFieldsWaitForTheEdge : Prop :=
  ∀ (s : State) (c : Instr) (a p k o : Nat) (w : Word),
    p = a / 0x1000 →
    (c = .xformWrite a w ∧ p = 0x18) ∨ (k < 96 ∧ o < 4 ∧ c = .setpointWrite k o w ∧ a = rZoneSp k o) ∨ (k < 512 ∧ o < 0x80 ∧ a = rLoopCfg k + o ∧ (c = .loopParamWrite k o w ∨ (c = .heldFieldWrite k o w ∧ (o = 0 ∨ (0x10 ≤ o ∧ o < 0x20))))) →
    s.HostOpen a w →
    s.locked p = false →
    s.boot.first = true →
    (∀ (d : RegDesc),
        s.wordRefuse a w true = none →
        descAt a = some d →
        (s.regRate a).isSome →
        ∃ t, exec c s = .next t
          ∧ t.port.resp = 0
          ∧ t.word a = (s.word a &&& ~~~(BitVec.ofNat 32 (d.rw ||| d.rwl))) ||| (w &&& BitVec.ofNat 32 (d.rw ||| d.rwl))
          ∧ t.inForce a = s.inForce a
          ∧ t = { s with regs := t.regs, held := t.held, port := t.port, loopPar := t.loopPar }
          ∧ s.OnlyWords t (fun b => b == a || b == rBlkErr p || b == rHostXactCnt))
    ∧ (∀ (e : Nat),
        s.wordRefuse a w true = some e →
        (descAt a).isSome →
        ∃ t, exec c s = .next t
          ∧ t.port.resp = 0 ∧ t.word a = s.word a ∧ bitsOf (t.word (rBlkErr p)) 16 8 = e % 256
          ∧ t = { s with regs := t.regs, port := t.port }
          ∧ s.OnlyWords t (fun b => b == rBlkErr p || b == rHostXactCnt))

/-- R154, R165: a write of MODE_WR of a zone or of a fen puts a mode on a level, or relinquishes it, at the lath capture edge.
R189, R202: RESET_P, RESET_THETA and a written theta wait for it likewise. R198: the daily snapshot of the models is asked of
the parameter store at SAVE_HOUR:00 local time. -/
def Obligations.ModeLevelsAndModelCommandsWait : Prop :=
  ∀ (s : State),
    (∀ (c : Instr) (fen rel : Bool) (k lv m a : Nat) (w : Word),
        1 ≤ lv →
        lv ≤ 7 →
        m ≤ 4 →
        k < (if fen then 32 else 96) →
        c = (if fen then (if rel then .fenModeRelinquish k lv else .fenModeWrite k lv m) else (if rel then .zoneModeRelinquish k lv else .zoneModeWrite k lv m)) →
        a = (if fen then rZoneFenmodeWr k else rZoneModeWr k) →
        w = modeWord lv (if rel then 0 else m) rel →
        s.HostOpen a w →
        s.boot.first = true →
        ∃ t, exec c s = .next t
          ∧ t.hostZm = s.hostZm ++ [{ fen := fen, idx := k, lv := lv, v := if rel then none else some m }]
          ∧ t.port.resp = 0 ∧ t = { s with regs := t.regs, port := t.port, hostZm := t.hostZm }
          ∧ s.OnlyWords t (fun b => b == rHostXactCnt))
    ∧ (∀ (z : Nat) (th : Bool),
        z < 96 →
        s.HostOpen (rTmeCmd z) (if th then 2#32 else 1#32) →
        ∃ t, exec (if th then .resetTheta z else .resetP z) s = .next t
          ∧ t.tmeCmd = s.tmeCmd ++ [(z, if th then 7 else 6, if th then 2#32 else 1#32)]
          ∧ t.port.resp = 0 ∧ t = { s with regs := t.regs, port := t.port, tmeCmd := t.tmeCmd }
          ∧ s.OnlyWords t (fun b => b == rHostXactCnt))
    ∧ (∀ (z i a : Nat) (w : Word),
        z < 96 →
        i < 6 →
        a = 0x1F0000 + 0x200 * z + 4 * i →
        s.XactOpen (writeXact a w) →
        s.authRequired = true → s.wordClass a w = 0 →
        ∃ t, exec (.thetaWrite z i w) s = .next t
          ∧ t.tmeCmd = s.tmeCmd ++ [(z, i, w)]
          ∧ t.port.resp = 0 ∧ t = { s with regs := t.regs, port := t.port, tmeCmd := t.tmeCmd }
          ∧ s.OnlyWords t (fun b => b == rHostXactCnt))
    ∧ (∀ (tod today due : Int),
        s.coreOff = false →
        s.enAck 0x60 = true →
        s.bit fTmeCfgSaveEn = true →
        tod = 3600 * (s.get fTmeCfgSaveHour : Nat) →
        today = s.localInstant (s.localDay s.calSec) tod →
        due = (if today + 60 ≤ s.calSec then s.localInstant (s.localDay s.calSec + 1) tod else today) →
        ∃ t, exec .modelSnapshot s = .next t
          ∧ t.now = max s.now (1000000 * due.toNat)
          ∧ ((t.sto.cur.toList ++ t.sto.queue).any (fun r => r.src == .tme && r.addr == 0x2F000) || t.bit ⟨rIrqStat 0x60, 4, 1⟩) = true
          ∧ t = { s with now := t.now, regs := t.regs, sto := t.sto })

/-- R140: a cycle starts at the first lath edge at or after the end of the previous one, writes before reads, and ends with
its last transaction. R141: a failed attempt is retried after t3.5, up to three times; an exception reply fails the poll at
once. R142: three failed polls put the unit into FAULT, a good one takes it back to OK with its values. -/
def Obligations.RbusPollsItsUnits : Prop :=
  ∀ (s : State) (p : Nat),
    p < 4 →
    s.coreOff = false →
    s.en (rbPage p) = true →
    (s.lath.running = true →
        s.lath.safe = false →
        (s.rport p).ph = .idle →
        (s.rport p).ended ≤ s.lath.cap →
        s.mapEntries p false ++ s.mapEntries p true ≠ [] →
        ∃ t, exec (.pollCycleStart p) s = .next t
          ∧ t.now = s.now ∧ (t.rport p).t0 = s.now ∧ (t.rport p).cfg = s.word (rRbusCfg p)
          ∧ (((t.rport p).ph = .reply ∧ (t.rport p).todo ≠ [] ∧ (t.rport p).tries = 1 ∧ (t.rport p).sent = s.now)
            ∨ ((t.rport p).ph = .idle ∧ (t.rport p).todo = [] ∧ (t.rport p).ended = s.now))
          ∧ (t.rport p).todo.Pairwise (fun x y => y.func = 6 ∨ y.func = 0x10 → x.func = 6 ∨ x.func = 0x10)
          ∧ (t.rport p).acked = (s.rport p).acked
          ∧ t = { s with regs := t.regs, flt := t.flt, rbus := t.rbus } ∧ (∀ q, q ≠ p → t.rport q = s.rport q))
    ∧ (∀ (x : RbTx) (rest : List RbTx) (bs : List Byte),
        (s.rport p).ph = .reply →
        (s.rport p).todo = x :: rest →
        x.slot < 32 →
        4 ≤ bs.length →
        leNat (bs.drop (bs.length - 2)) = crcModbus bs.dropLast.dropLast →
        (bs.getD 0 0).toNat = s.get (fRbusUnitCfgAddr p x.slot) →
        (bs.getD 1 0).toNat = x.func →
        x.func = 3 ∨ x.func = 4 →
        bs.length = 5 + 2 * x.n →
        (bs.getD 2 0).toNat = 2 * x.n →
        ∃ t, exec (.modbusReply p bs) s = .next t
          ∧ t.unitState p x.slot = 0 ∧ t.get (fRbusUnitStatRun p x.slot) = 0
          ∧ (t.rport p).upd.map (fun u => (u.entry, u.time)) = (s.rport p).upd.map (fun u => (u.entry, u.time)) ++ x.entries.map (fun e => (e, s.now))
          ∧ (rest ≠ [] → (t.rport p).ph = .reply ∧ (t.rport p).todo = rest ∧ (t.rport p).tries = 1)
          ∧ (rest = [] → (t.rport p).ph = .idle ∧ (t.rport p).todo = [] ∧ (t.rport p).ended = s.now)
          ∧ t.now = s.now ∧ t = { s with regs := t.regs, flt := t.flt, rbus := t.rbus } ∧ (∀ q, q ≠ p → t.rport q = s.rport q))
    ∧ (∀ (x : RbTx) (rest : List RbTx) (bs : List Byte),
        (s.rport p).ph = .reply →
        (s.rport p).todo = x :: rest →
        (s.rport p).tries < 4 →
        s.unitState p x.slot ≠ 2 →
        bs.length < 4 ∨ leNat (bs.drop (bs.length - 2)) ≠ crcModbus bs.dropLast.dropLast →
        ∃ t, exec (.modbusReply p bs) s = .next t
          ∧ t.rport p = { s.rport p with ph := .gap }
          ∧ t.get (fRbusErrCntCrc p) = satAdd (2 ^ (fRbusErrCntCrc p).width - 1) (s.get (fRbusErrCntCrc p)) 1
          ∧ t.now = s.now ∧ t = { s with regs := t.regs, flt := t.flt, rbus := t.rbus } ∧ (∀ q, q ≠ p → t.rport q = s.rport q)
          ∧ s.OnlyWords t (fun a => a == rRbusErrCnt p))
    ∧ (∀ (x : RbTx) (rest : List RbTx),
        (s.rport p).ph = .reply →
        (s.rport p).todo = x :: rest →
        x.slot < 32 →
        ∃ t, exec (.replyTimeout p) s = .next t
          ∧ t.now = max s.now ((s.rport p).sent + rbTime (rbBaud (bitsOf (s.rport p).cfg 13 3)) (txBytes x).1
              + 10000 * bitsOf (s.rport p).cfg 0 8)
          ∧ t.get (fRbusErrCntTimeout p) = satAdd (2 ^ (fRbusErrCntTimeout p).width - 1) (s.get (fRbusErrCntTimeout p)) 1
          ∧ ((s.rport p).tries < 4 → s.unitState p x.slot ≠ 2 → t.rport p = { s.rport p with ph := .gap })
          ∧ (4 ≤ (s.rport p).tries → s.unitState p x.slot ≠ 2 → s.get (fRbusUnitStatRun p x.slot) < 2 → t.unitState p x.slot = 1)
          ∧ (4 ≤ (s.rport p).tries → s.unitState p x.slot ≠ 2 → 2 ≤ s.get (fRbusUnitStatRun p x.slot) →
              t.unitState p x.slot = 2 ∧ bitAt (t.word (rRbusUnitFlt p)) x.slot = true ∧ t.Raised 0x5001 (32 * p + x.slot))
          ∧ t = { s with now := t.now, regs := t.regs, flt := t.flt, rbus := t.rbus } ∧ (∀ q, q ≠ p → t.rport q = s.rport q))
    ∧ ((s.rport p).ph = .gap →
        ∃ t, exec (.retryGapEnd p) s = .next t
          ∧ t.now = s.now + rbT35 (rbBaud (bitsOf (s.rport p).cfg 13 3))
          ∧ t.rport p = { s.rport p with ph := .reply, tries := (s.rport p).tries + 1, sent := t.now }
          ∧ t = { s with now := t.now, rbus := t.rbus } ∧ (∀ q, q ≠ p → t.rport q = s.rport q))

/-- R239, R241: TSTART after a start the governor is in RUN when a pulse has come, else it verifies over its current path or
retries; 2 s without a pulse in RUN give TACH_LOST, a retry, or TACH_LOST_OR_STALL; a retry turns off for 5 s, kicks for 2 s,
and the third failed kick latches BLOCKED. -/
def Obligations.GovernorTimersMoveItsState : Prop :=
  ∀ (s : State) (g cnt : Nat),
    g < 24 →
    s.coreOff = false →
    s.fanOn g = true →
    s.enAck (fanPage g) = true →
    cnt = (match s.fanTach g with | some m => (s.capOf m).cnt | none => 0) →
    ((s.fanSt g).state = 1 →
        (s.fanSt g).verify = 0 →
        ∃ t, exec (.fanStartTimeout g) s = .next t
          ∧ t.now = max s.now ((s.fanSt g).t0 + 1000000 * s.eget (fFanCfgTstart g))
          ∧ ((s.fanSt g).mark ≠ some cnt → (t.fanSt g).state = 2)
          ∧ ((s.fanSt g).mark = some cnt → s.ebit (fFanDrvIEn g) = false → (t.fanSt g).state = 3 ∧ (t.fanSt g).attempt = 1)
          ∧ ((s.fanSt g).mark = some cnt → s.ebit (fFanDrvIEn g) = true → (s.fanDrive g).isSome →
              (t.fanSt g).state = 1 ∧ 1 ≤ (t.fanSt g).verify)
          ∧ (∀ h, h ≠ g → t.fanSt h = s.fanSt h) ∧ t = { s with
            now := t.now, regs := t.regs, stL := t.stL, stS := t.stS, lwork := t.lwork, swork := t.swork,
            cores := t.cores, eng := t.eng, evL := t.evL, evS := t.evS, fanIo := t.fanIo })
    ∧ ((s.fanSt g).state = 2 →
        0 < (s.fanSt g).duty →
        ∃ t, exec (.fanPulseTimeout g) s = .next t
          ∧ t.now = max s.now ((s.fanSt g).pulseAt + 2000000)
          ∧ (cnt ≠ (s.fanSt g).cnt → t.fanSt g = s.fanSt g)
          ∧ (cnt = (s.fanSt g).cnt → s.ebit (fFanDrvIEn g) = false → (t.fanSt g).state = 7)
          ∧ (cnt = (s.fanSt g).cnt → s.ebit (fFanDrvIEn g) = true →
              (t.fanSt g).state = 6 ∧ (t.fanSt g).held = (s.fanSt g).duty ∨ (t.fanSt g).state = 3 ∧ (t.fanSt g).attempt = 1)
          ∧ (∀ h, h ≠ g → t.fanSt h = s.fanSt h) ∧ t = { s with
            now := t.now, stL := t.stL, stS := t.stS, lwork := t.lwork, swork := t.swork, eng := t.eng, evL := t.evL,
            evS := t.evS })
    ∧ ((s.fanSt g).state = 3 →
        ∃ t, exec (.retryOffEnd g) s = .next t
          ∧ t.now = max s.now ((s.fanSt g).t0 + 5000000)
          ∧ (t.fanSt g).state = 4 ∧ (t.fanSt g).attempt = (s.fanSt g).attempt
          ∧ (∀ h, h ≠ g → t.fanSt h = s.fanSt h) ∧ t = { s with
            now := t.now, stL := t.stL, stS := t.stS, lwork := t.lwork, swork := t.swork, eng := t.eng, evL := t.evL,
            evS := t.evS })
    ∧ ((s.fanSt g).state = 4 →
        ∃ t, exec (.kickEnd g) s = .next t
          ∧ t.now = max s.now ((s.fanSt g).t0 + 2000000)
          ∧ ((s.fanSt g).mark.getD cnt ≠ cnt → (t.fanSt g).state = 2 ∧ (t.fanSt g).attempt = 0)
          ∧ ((s.fanSt g).mark.getD cnt = cnt → (s.fanSt g).attempt < 3 →
              (t.fanSt g).state = 3 ∧ (t.fanSt g).attempt = (s.fanSt g).attempt + 1)
          ∧ ((s.fanSt g).mark.getD cnt = cnt → 3 ≤ (s.fanSt g).attempt → (t.fanSt g).state = 5 ∧ (t.fanSt g).blocked = true)
          ∧ (∀ h, h ≠ g → t.fanSt h = s.fanSt h) ∧ t = { s with
            now := t.now, stL := t.stL, stS := t.stS, lwork := t.lwork, swork := t.swork, eng := t.eng, evL := t.evL,
            evS := t.evS })

/-- R244, R246: the commands of a governor wait for its capture edge; a LEARN without a tach, or while the governor is
BLOCKED, in LEARN or SUSPENDED, is refused with its cause. A LEARN point without a pulse fails the LEARN, which leaves the old
baseline; another point follows after 20 s. R247: AGE moves by 1/1440 of its distance at a CAL minute boundary. -/
def Obligations.GovernorCommandsAndLearning : Prop :=
  ∀ (s : State) (g : Nat),
    g < 24 →
    (∀ (k : Nat) (w : Word),
        (k = 0 ∧ w = 1#32) ∨ (k = 2 ∧ w = 4#32) ∨ (k = 1 ∧ w = 2#32 ∧ (s.fanTach g).isSome ∧ s.get (fFanStatState g) ∉ [5, 8, 10]) →
        s.HostOpen (rFanCmd g) w →
        ∃ t, exec (if k = 0 then .fanFltClr g else if k = 1 then .learn g else .learnAbort g) s = .next t
          ∧ t.fanIo = { s.fanIo with cmds := s.fanIo.cmds ++ [(g, if k = 0 then .clr else if k = 1 then .learn else .abort)] }
          ∧ t.port.resp = 0 ∧ t = { s with regs := t.regs, port := t.port, fanIo := t.fanIo }
          ∧ s.OnlyWords t (fun b => b == rHostXactCnt))
    ∧ (s.HostOpen (rFanCmd g) 2#32 →
        s.fanTach g = none ∨ s.get (fFanStatState g) ∈ [5, 8, 10] →
        ∃ t, exec (.learn g) s = .next t
          ∧ t.fanIo = s.fanIo ∧ t.port.resp = 0
          ∧ bitsOf (t.word (rBlkErr (fanPage g))) 16 8 = (if s.fanTach g = none then 0x41 else 0x42)
          ∧ t = { s with regs := t.regs, port := t.port }
          ∧ s.OnlyWords t (fun b => b == rHostXactCnt || b == rBlkErr (fanPage g)))
    ∧ (∀ (cnt : Nat),
        s.coreOff = false →
        s.fanOn g = true →
        s.enAck (fanPage g) = true →
        (s.fanSt g).state = 8 →
        cnt = (match s.fanTach g with | some m => (s.capOf m).cnt | none => 0) →
        ∃ t, exec (.learnPointEnd g) s = .next t
          ∧ t.now = max s.now ((s.fanSt g).t0 + 20000000)
          ∧ ((s.fanSt g).mark = none ∨ (s.fanSt g).mark = some cnt →
              (t.fanSt g).state = 0 ∧ (t.fanSt g).base = (s.fanSt g).base ∧ (t.fanSt g).recs = [])
          ∧ ((s.fanSt g).mark.getD cnt ≠ cnt → (s.fanSt g).k < 7 →
              (t.fanSt g).state = 8 ∧ (t.fanSt g).k = (s.fanSt g).k + 1 ∧ (t.fanSt g).recs.length = (s.fanSt g).recs.length + 1)
          ∧ ((s.fanSt g).mark.getD cnt ≠ cnt → 7 ≤ (s.fanSt g).k → (t.fanSt g).state = 0)
          ∧ (∀ h, h ≠ g → t.fanSt h = s.fanSt h) ∧ t = { s with
            now := t.now, regs := t.regs, stL := t.stL, stS := t.stS, lwork := t.lwork, swork := t.swork, sto := t.sto,
            eng := t.eng, evL := t.evL, evS := t.evS })
    ∧ (∀ (m : Nat) (d : Int),
        s.coreOff = false →
        s.fanOn g = true →
        s.enAck (fanPage g) = true →
        (s.fanSt g).minute = some m →
        (s.fanSt g).x = some d →
        s.now < 60000000 * (m + 2) →
        ∃ t, exec (.ageUpdate g) s = .next t
          ∧ t.now = max s.now (60000000 * (m + 1)) ∧ (t.fanSt g).minute = some (m + 1)
          ∧ (t.fanSt g).age = (s.fanSt g).age + divHalfUp (d - (s.fanSt g).age) 1440
          ∧ (t.fanSt g).ageLvl = ageLevel (s.fanSt g).ageLvl (t.fanSt g).age ∧ (t.fanSt g).state = (s.fanSt g).state
          ∧ (∀ h, h ≠ g → t.fanSt h = s.fanSt h) ∧ t = { s with
            now := t.now, stL := t.stL, stS := t.stS, lwork := t.lwork, swork := t.swork, eng := t.eng, evL := t.evL,
            evS := t.evS })

/-- R211: a value written to PARAM_VAL goes into the pending record at once and to the running network at the capture edge; a
value out of range, an instance that does not run, or an ARG that is a reference is refused. R209: VIEW_SEL shows the
instance's outputs and state. R269: APPLY takes the pending tables for the next evaluation, or refuses them; while one is
pending it is refused. -/
def Obligations.BlockNetworkHostCommands : Prop :=
  ∀ (s : State),
    (∀ (i k : Nat) (w : Word) (r' : BRec),
        i = s.get fBlkParamSelInst →
        k = s.get fBlkParamSelWord →
        s.HostOpen rBlkParamVal w →
        blkOn s.net.run i = true →
        k ≠ 0 ∨ (blkRec s.net.run i).typ ∉ [0x03, 0x35, 0x38, 0x37, 0x30, 0x39, 0x3F] →
        r' = (match k with | 0 => { blkRec s.net.run i with arg := bitsOf w 0 16 } | 1 => { blkRec s.net.run i with w5 := w } | 2 => { blkRec s.net.run i with w6 := w } | _ => { blkRec s.net.run i with w7 := w }) →
        ∃ t, exec (.paramRetune w) s = .next t
          ∧ t.port.resp = 0 ∧ t.net.run = s.net.run
          ∧ (bRangeOk r' = true → t.net.retune = s.net.retune ++ [(i, k, w)]
              ∧ Map.look (fun _ => 0#32) t.net.pend (8 * i + (if k = 0 then 0 else 4 + k)) =
                  (if k = 0 then bitsSet (Map.look (fun _ => 0#32) s.net.pend (8 * i)) 0 16 w.toNat else w))
          ∧ (bRangeOk r' = false → t.net = s.net ∧ bitsOf (t.word (rBlkErr 0x61)) 16 8 = 0x40)
          ∧ t = { s with regs := t.regs, port := t.port, net := t.net }
          ∧ s.OnlyWords t (fun b => b == rHostXactCnt || b == rBlkErr 0x61 || b == rIrqStat 0x61))
    ∧ (∀ (w : Word),
        s.HostOpen rBlkParamVal w →
        blkOn s.net.run (s.get fBlkParamSelInst) = false →
        ∃ t, exec (.paramRetune w) s = .next t
          ∧ t.port.resp = 0 ∧ t.net = s.net ∧ bitsOf (t.word (rBlkErr 0x61)) 16 8 = 0x41
          ∧ t = { s with regs := t.regs, port := t.port }
          ∧ s.OnlyWords t (fun b => b == rHostXactCnt || b == rBlkErr 0x61 || b == rIrqStat 0x61))
    ∧ (∀ (w : Word) (i : Nat),
        i = bitsOf w 0 12 →
        w &&& 0xFFFFF000#32 = 0 →
        s.HostOpen rBlkViewSel w →
        ∃ t, exec (.viewLoad w) s = .next t
          ∧ t.port.resp = 0 ∧ t.bit fBlkViewStatEn = blkOn s.net.run i
          ∧ (blkOn s.net.run i = true →
              t.get (fBlkViewOutValue 0) = unsignedOf 32 (Map.look (fun _ => {}) s.engL.blk i).o0.v
              ∧ t.get (fBlkViewOutValue 1) = unsignedOf 32 (Map.look (fun _ => {}) s.engL.blk i).o1.v
              ∧ t.get fBlkViewStatType = (blkRec s.net.run i).typ % 64)
          ∧ t = { s with regs := t.regs, port := t.port, fresh := t.fresh }
          ∧ s.OnlyWords t (fun b => b == rHostXactCnt || b / 0x1000 == 0x61))
    ∧ (s.HostOpen rSchedApply 1#32 →
        ∃ t, exec .schedApply s = .next t
          ∧ t.port.resp = 0
          ∧ (s.tab.apply ≠ none → t.tab = s.tab ∧ bitsOf (t.word (rBlkErr 0x69)) 16 8 = 0x40)
          ∧ (s.tab.apply = none → (s.schBadRef s.tab.pend (fun i => entLocal s.dir.run i)).isSome →
              t.tab = s.tab ∧ t.get fSchedApplyResCause = 1)
          ∧ (s.tab.apply = none → s.schBadRef s.tab.pend (fun i => entLocal s.dir.run i) = none →
              s.tab.chargedE < (schCounts s.tab.pend).1 ∨ s.tab.chargedX < (schCounts s.tab.pend).2 →
              t.tab = s.tab ∧ t.get fSchedApplyResCause = 2)
          ∧ (s.tab.apply = none → s.schBadRef s.tab.pend (fun i => entLocal s.dir.run i) = none →
              (schCounts s.tab.pend).1 ≤ s.tab.chargedE → (schCounts s.tab.pend).2 ≤ s.tab.chargedX →
              t.tab = { s.tab with apply := some s.tab.pend } ∧ t.get fSchedApplyResCause = 0 ∧ t.bit fSchedApplyResPend = true)
          ∧ t = { s with regs := t.regs, port := t.port, tab := t.tab }
          ∧ s.OnlyWords t (fun b => b == rHostXactCnt || b == rBlkErr 0x69 || b == rSchedApplyRes || b == rIrqStat 0x69))

/-- R253, R23: the SET pair steps TIMEBASE by whole seconds and lengthens the frame in progress to an edge of the new time; a
value beyond the calendar's range is refused with BAD_TIME, and one written while the fabric gives the time with FSYNC_LOCKED.
R252: at the end of its range the calendar says so and raises CAL_RANGE. R256: daylight saving follows its rule at the instant
it changes. -/
def Obligations.CalendarIsSetAndChanges : Prop :=
  ∀ (s : State),
    (∀ (lo hi : Word) (v : Nat) (d : Int),
        v = lo.toNat + 2 ^ 32 * hi.toNat →
        s.HostOpen rCalSetLo lo →
        s.HostOpen rCalSetHi hi →
        s.locked 0x68 = false →
        d = (v : Int) - s.calSec →
        v ≤ 0x17830D57F →
        s.bit fLathStatFsync = true → s.bit fFabStatRoot = true →
        ∃ t, exec (.calSet lo hi) s = .next t
          ∧ t.now = ((s.now : Int) + 1000000 * d).toNat ∧ t.calSec = v ∧ t.now % 1000000 = s.now % 1000000
          ∧ t.lath.cap = ((s.lath.cap : Int) + 1000000 * d).toNat
          ∧ t.lath.due = ceilDiv (t.lath.cap + s.lathPeriod) s.lathPeriod * s.lathPeriod
          ∧ t.bit fCalStatSet = true ∧ t.get fCalStatSrc = 1
          ∧ t.get fLathRealignCntCount = satAdd (2 ^ fLathRealignCntCount.width - 1) (s.get fLathRealignCntCount) 1
          ∧ t = { s with now := t.now, lath := t.lath, regs := t.regs, port := t.port, eng := t.eng })
    ∧ (∀ (lo hi : Word) (v : Nat),
        v = lo.toNat + 2 ^ 32 * hi.toNat →
        s.HostOpen rCalSetLo lo →
        s.HostOpen rCalSetHi hi →
        s.locked 0x68 = false →
        0x17830D57F < v ∨ (s.bit fLathStatFsync = true ∧ s.bit fFabStatRoot = false) →
        ∃ t, exec (.calSet lo hi) s = .next t
          ∧ bitsOf (t.word (rBlkErr 0x68)) 16 8 = (if 0x17830D57F < v then 0x40 else 0x41)
          ∧ t = { s with regs := t.regs, port := t.port }
          ∧ s.OnlyWords t (fun b => b == rHostXactCnt || b == rBlkErr 0x68))
    ∧ (s.coreOff = false →
        s.bit fCalStatRange = false →
        ∃ t, exec .calRangeEnd s = .next t
          ∧ t.now = max s.now (0x17830D580 * 1000000) ∧ t.bit fCalStatRange = true ∧ t.Raised 0xA001 0
          ∧ t = { s with now := t.now, regs := t.regs, flt := t.flt }
          ∧ s.OnlyWords t (fun b => b == rCalStat || b == rIrqStat 0x68 || b / 0x1000 == 0x88))
    ∧ (s.coreOff = false →
        s.dstAt s.calSec ≠ s.bit fCalStatDst →
        ∃ t, exec .dstChange s = .next t
          ∧ t.now = s.now ∧ t.bit fCalStatDst = s.dstAt s.calSec ∧ t.bit ⟨rIrqStat 0x68, 1, 1⟩ = true
          ∧ t = { s with now := t.now, regs := t.regs } ∧ s.OnlyWords t (fun b => b == rCalStat || b == rIrqStat 0x68))
    ∧ (s.coreOff = false →
        ∃ t, exec .dstChange s = .next t
          ∧ t.bit fCalStatDst = t.dstAt t.calSec ∧ s.now ≤ t.now
          ∧ t = { s with now := t.now, regs := t.regs } ∧ s.OnlyWords t (fun b => b == rCalStat || b == rIrqStat 0x68))

/-- R275, R276: a WRITE to the store window starts a run, or is refused with PROTECTED and still ends with OK on the port;
RUN_ADDR and RUN_LEN empty the staged buffer, pushes fill it, DISCARD empties it, GO starts the staged run or refuses it with
RANGE, BUSY, SHORT_RUN or PROTECTED, and nothing is programmed. R277, R280: a page that verifies is served and the next one
follows; a page that fails is tried once more, then the run stops with the fault VERIFY and the page stays old. -/
def Obligations.StoreRunsAreWholeOrRefused : Prop :=
  ∀ (s : State),
    (∀ (x : Xact) (r : Run),
        s.XactOpen x →
        xactOp x = 2 →
        winOf (xactStart x) = some 2 →
        s.authRequired = false →
        s.epdBars (xactStart x) x.data = none →
        r = { src := .window, addr := xactStart x - 0x180000, bytes := wordsBytes x.data } →
        ∃ t, exec (.storeWindowWrite x) s = .next t
          ∧ t.port.resp = 0 ∧ t.get fStoreLastRunTotal = runPages r.addr r.bytes.length % 32
          ∧ (s.runBarred r = false →
              t.sto = { s.sto with
                runId := (s.sto.runId + 1) % 2 ^ 32
                journal := some ((s.sto.runId + 1) % 2 ^ 32, r.addr, runPages r.addr r.bytes.length)
                cur := some { r with id := (s.sto.runId + 1) % 2 ^ 32, total := runPages r.addr r.bytes.length } }
              ∧ t.bit fStoreStatusBusy = true)
          ∧ (s.runBarred r = true →
              t.sto = s.sto ∧ t.get fStoreLastRunResult = 6 ∧ bitsOf (t.word (rBlkErr 0x70)) 16 8 = 0x41)
          ∧ t = { s with regs := t.regs, port := t.port, sto := t.sto })
    ∧ (∀ (addr len : Word),
        s.HostOpen rStoreRunAddr addr →
        addr &&& 0xFFFC0000#32 = 0 →
        1 ≤ len.toNat →
        len.toNat ≤ 4096 →
        ∃ t, exec (.runSetup addr len) s = .next t
          ∧ t.get fStoreRunAddrAddr = addr.toNat ∧ t.get fStoreRunLenLen = len.toNat
          ∧ t.get fStoreRunFillValue = 0 ∧ t.sto = { s.sto with buf := [], armed := none, unlock1 := none }
          ∧ t.port.resp = 0 ∧ t = { s with regs := t.regs, port := t.port, sto := t.sto })
    ∧ (∀ (x : Xact),
        s.XactOpen x →
        xactOp x = 4 →
        xactStart x = rStoreRunMbx →
        s.runCanPush (xactLen x) = true →
        ∃ t, exec (.storeRunPush x) s = .next t
          ∧ t.port.resp = 0 ∧ t.sto = { s.sto with buf := s.sto.buf ++ wordsBytes x.data }
          ∧ t.get fStoreRunFillValue = (s.sto.buf ++ wordsBytes x.data).length % 2 ^ 32
          ∧ (s.get fStoreRunLenLen ≤ t.sto.buf.length → t.get fStoreRunCrcValue = crc32 (t.sto.buf.take (s.get fStoreRunLenLen)))
          ∧ t = { s with regs := t.regs, port := t.port, sto := t.sto, fresh := t.fresh })
    ∧ (∀ (addr n : Nat) (r : Run),
        s.HostOpen rStoreRunCtrl 1#32 →
        addr = s.get fStoreRunAddrAddr →
        n = s.get fStoreRunLenLen →
        r = { src := .staged, addr := addr, bytes := s.sto.buf.take n } →
        ∃ t, exec .runGo s = .next t
          ∧ t.port.resp = 0
          ∧ (0x40000 < addr + n → t.get fStoreLastRunResult = 5 ∧ bitsOf (t.word (rBlkErr 0x70)) 16 8 = 0x40)
          ∧ (addr + n ≤ 0x40000 → s.sto.cur.isSome ∨ s.sto.served = false →
              t.get fStoreLastRunResult = 7 ∧ bitsOf (t.word (rBlkErr 0x70)) 16 8 = 0x42)
          ∧ (addr + n ≤ 0x40000 → s.sto.cur = none → s.sto.served = true → s.sto.buf.length < n →
              t.get fStoreLastRunResult = 9 ∧ bitsOf (t.word (rBlkErr 0x70)) 16 8 = 0x45)
          ∧ (addr + n ≤ 0x40000 → s.sto.cur = none → s.sto.served = true → n ≤ s.sto.buf.length → s.runBarred r = true →
              t.get fStoreLastRunResult = 6 ∧ bitsOf (t.word (rBlkErr 0x70)) 16 8 = 0x41)
          ∧ (addr + n ≤ 0x40000 → s.sto.cur = none → s.sto.served = true → n ≤ s.sto.buf.length → s.runBarred r = false →
              t.sto.cur = some { r with id := (s.sto.runId + 1) % 2 ^ 32, total := runPages addr r.bytes.length } ∧ t.bit fStoreStatusBusy = true)
          ∧ (¬ (addr + n ≤ 0x40000 ∧ s.sto.cur = none ∧ s.sto.served = true ∧ n ≤ s.sto.buf.length ∧ s.runBarred r = false) →
              t.sto = { s.sto with armed := none, unlock1 := none })
          ∧ t = { s with regs := t.regs, port := t.port, sto := t.sto })
    ∧ (s.HostOpen rStoreRunCtrl 2#32 →
        ∃ t, exec .runDiscard s = .next t
          ∧ t.port.resp = 0 ∧ t.sto = { s.sto with buf := [], armed := none, unlock1 := none }
          ∧ t.get fStoreRunFillValue = 0 ∧ t.get fStoreRunCrcValue = 0xFFFFFFFF
          ∧ t = { s with regs := t.regs, port := t.port, sto := t.sto })
    ∧ (∀ (r : Run) (p : Nat),
        s.sto.cur = some r →
        p = r.addr / 256 + r.done →
        s.sto.stop = none →
        s.sto.queue = [] →
        s.sto.ended = [] →
        s.sto.served = true →
        r.src = .window ∨ r.src = .staged →
        ∃ t, exec (.pageProgrammed true) s = .next t
          ∧ (∀ i < 64, t.storeWord (256 * p + 4 * i) = (s.mergePage r p).getD i 0xFFFFFFFF#32)
          ∧ (∀ a, a / 256 ≠ p → t.storeWord a = s.storeWord a)
          ∧ (∀ k, s.servedSlot p = some k → t.pslot k = s.pslot k)
          ∧ (r.done + 1 < r.total → t.sto.cur = some { r with done := r.done + 1, tries := 0 })
          ∧ (r.total ≤ r.done + 1 → t.sto.cur = none ∧ t.get fStoreLastRunResult = 1)
          ∧ t.now = s.now ∧ t.pending = s.pending ∧ t.stL = s.stL ∧ t.stS = s.stS ∧ t.vis = s.vis ∧ t.img = s.img ∧ t.lwork = s.lwork ∧
          t.swork = s.swork ∧ t.evL = s.evL ∧ t.evS = s.evS ∧ t.cap = s.cap ∧ t.stZ = s.stZ ∧ t.pwr = s.pwr ∧
          t.clk = s.clk ∧ t.uid = s.uid)
    ∧ (∀ (r : Run),
        s.sto.cur = some r →
        s.sto.stop = none →
        s.sto.queue = [] →
        s.sto.ended = [] →
        r.src = .window ∨ r.src = .staged →
        ∃ t, exec (.pageProgrammed false) s = .next t
          ∧ (r.tries = 0 → t = { s with sto := { s.sto with cur := some { r with tries := 1 } } })
          ∧ (r.tries ≠ 0 → t.sto.cur = none ∧ t.get fStoreLastRunResult = 4 ∧ t.Raised 0xB002 0
              ∧ t.sto.slots = s.sto.slots ∧ t.sto.ram = s.sto.ram)
          ∧ t.now = s.now ∧ t.pending = s.pending ∧ t.stL = s.stL ∧ t.stS = s.stS ∧ t.vis = s.vis ∧ t.img = s.img ∧ t.lwork = s.lwork ∧
          t.swork = s.swork ∧ t.evL = s.evL ∧ t.evS = s.evS ∧ t.cap = s.cap ∧ t.stZ = s.stZ ∧ t.pwr = s.pwr ∧
          t.clk = s.clk ∧ t.uid = s.uid)

/-- R285: 0x0000_3C3C and, within 1 ms, 0x0000_C3C3 arm a PROTECT write for 100 ms; PROTECT is refused with WP_LOW or
NOT_ARMED, else BP changes, and either way the arming ends; WP_N going low ends it too. R286, R293: at the end of recall the
window and peat are served. R395: the levee may use the counters of a completed reservation. -/
def Obligations.BlockProtectArmingAndRecall : Prop :=
  ∀ (s : State),
    (∀ (w : Word),
        s.HostOpen rStoreUnlock w →
        ∃ t, exec (.storeUnlock w) s = .next t
          ∧ t.port.resp = 0
          ∧ t.sto = { s.sto with
              armed := if w = 0x0000C3C3#32 ∧ s.sto.unlock1.any (fun t0 => s.now ≤ t0 + 1000) = true then some s.now else none
              unlock1 := if w = 0x00003C3C#32 then some s.now else none }
          ∧ t.bit fStoreStatusBpArmed = t.sto.armed.isSome
          ∧ t = { s with regs := t.regs, port := t.port, sto := t.sto })
    ∧ (∀ (a : Nat),
        s.coreOff = false →
        s.sto.armed = some a →
        ∃ t, exec .armTimeout s = .next t
          ∧ t.now = max s.now (a + 100000) ∧ t.sto = { s.sto with armed := none, unlock1 := none } ∧ t.bit fStoreStatusBpArmed = false
          ∧ t = { s with now := t.now, regs := t.regs, sto := t.sto })
    ∧ (∀ (w : Word),
        s.HostOpen rStoreProtect w →
        ∃ t, exec (.protectWrite w) s = .next t
          ∧ t.port.resp = 0 ∧ t.sto.armed = none ∧ t.sto.unlock1 = none
          ∧ (s.sto.wpHigh = false → t.get fStoreProtectBp = s.get fStoreProtectBp ∧ bitsOf (t.word (rBlkErr 0x70)) 16 8 = 0x43)
          ∧ (s.sto.wpHigh = true → s.sto.armed = none →
              t.get fStoreProtectBp = s.get fStoreProtectBp ∧ bitsOf (t.word (rBlkErr 0x70)) 16 8 = 0x44)
          ∧ (s.sto.wpHigh = true → s.sto.armed.isSome → t.get fStoreProtectBp = bitsOf w 0 2)
          ∧ (s.sto.wpHigh = true → s.sto.armed.isSome → s.sto.closed = false → s.sto.cur = none → s.sto.served = true →
              t.sto.cur.any (fun r => r.src == .control && r.addr == 0x30000) = true)
          ∧ t = { s with regs := t.regs, port := t.port, sto := t.sto })
    ∧ (∀ (high : Bool),
        s.sto.wpHigh ≠ high →
        ∃ t, exec (.wpChange high) s = .next t
          ∧ t.bit fSysStrapsWpN = high ∧ t.sto.wpHigh = high ∧ (high = false → t.sto.armed = none ∧ t.sto.unlock1 = none)
          ∧ t = { s with regs := t.regs, sto := t.sto })
    ∧ (s.coreOff = false →
        s.sto.served = false →
        s.sto.queue = [] →
        ∃ t, exec .recallDone s = .next t
          ∧ t.sto.served = true ∧ t.bit fStoreStatusReady = true ∧ t.bit fStoreStatusRecall = false ∧ t.bit fPeatStatReady = true
          ∧ t.now = s.now ∧ t.lath = s.lath ∧ t.vis = s.vis ∧ t.uch = s.uch ∧ t.lv = s.lv ∧ t = { s with
            regs := t.regs, flt := t.flt, sto := t.sto, eng := t.eng, lev := t.lev, fab := t.fab, dlv := t.dlv,
            fresh := t.fresh })
    ∧ (s.coreOff = false →
        s.sto.served = true →
        s.sto.resv = false →
        s.lev.dead = false →
        s.fab.wait = [] →
        ∃ t, exec .reservationDone s = .next t
          ∧ t.lev.ready = true ∧ t.lev.sess = s.lev.sess ∧ t.now = s.now ∧ t.lath = s.lath ∧ t = { s with regs := t.regs, flt := t.flt, sto := t.sto, lev := t.lev, fab := t.fab, dlv := t.dlv })

/-- R292: the ordinary flush runs every FLUSH minutes, FLUSH_NOW starts one too; a flush changes no total. R289, R300: a
program that verifies makes its cell or BASE copy valid, one that fails raises the fault PROGRAM and is programmed again, and
no total changes. R297: PRESET of an entry in use sets its total and clears LOST; of a reserved or unused one it is refused
with RESERVED_ENTRY. -/
def Obligations.PeatFlushesAndPresets : Prop :=
  ∀ (s : State),
    (∀ (t0 : Nat),
        s.coreOff = false →
        s.sto.served = true →
        s.sto.pfw = false →
        s.sto.flushRef = some t0 →
        ∃ t, exec .peatFlush s = .next t
          ∧ t.now = max s.now (t0 + 60000000 * s.get fPeatFlushMin)
          ∧ t.sto.flushRef = some (t0 + 60000000 * s.get fPeatFlushMin)
          ∧ ((∀ g < 24, s.bit (fFanPeatBEn g) = false) → ∀ e, (t.peatEnt e) = s.peatEnt e)
          ∧ (∀ e ∈ s.peatDirty, s.peatKind e ≠ 2 → (t.sto.flushT.isSome ∧ (((t.pbank (e % 4)).queue.contains e) = true
              ∨ ((t.pbank (e % 4)).cur.map Prod.fst) = some e ∨ ((s.pbank (e % 4)).cur.map Prod.fst) = some e)))
          ∧ t = { s with now := t.now, regs := t.regs, sto := t.sto })
    ∧ (s.HostOpen rPeatCtrl 1#32 →
        s.sto.served = true →
        s.sto.pfw = false →
        ∀ g < 24, s.bit (fFanPeatBEn g) = false →
        ∃ t, exec .flushNow s = .next t
          ∧ t.port.resp = 0 ∧ (∀ e, (t.peatEnt e) = s.peatEnt e)
          ∧ (s.peatDirty ≠ [] → t.sto.flushT.isSome) ∧ t.sto.flushRef = s.sto.flushRef ∧ t.now = s.now
          ∧ t.lath = s.lath ∧ t.uch = s.uch ∧ t.nst = s.nst)
    ∧ (∀ (b e : Nat) (op : POp) (rest : List POp),
        b < 4 →
        (s.pbank b).cur = some (e, op :: rest) →
        ∃ t, exec (.peatProgramDone b true) s = .next t
          ∧ (∀ i, (t.peatEnt i).v = (s.peatEnt i).v)
          ∧ (∀ i, i ≠ e → t.peatEnt i = s.peatEnt i)
          ∧ (match op with
              | .cell i sub => Map.look (fun _ => {}) (t.peatEnt e).cells i = { valid := true, tag := (s.peatEnt e).epoch % 16, sub := sub }
              | .base second v ep _ =>
                (if second then (t.peatEnt e).b else (t.peatEnt e).a) = { valid := true, erased := false, v := v, epoch := ep }
                ∧ (if second then (t.peatEnt e).a else (t.peatEnt e).b) = (if second then (s.peatEnt e).a else (s.peatEnt e).b))
          ∧ (rest ≠ [] → (t.pbank b).cur = some (e, rest))
          ∧ (∀ c, c ≠ b → t.pbank c = s.pbank c) ∧ t = { s with regs := t.regs, flt := t.flt, sto := t.sto })
    ∧ (∀ (b e : Nat) (op : POp) (rest : List POp),
        b < 4 →
        (s.pbank b).cur = some (e, op :: rest) →
        ∃ t, exec (.peatProgramDone b false) s = .next t
          ∧ t.Raised 0xC002 0 ∧ (∀ i, (t.peatEnt i).v = (s.peatEnt i).v) ∧ ((t.pbank b).cur.map Prod.fst) = some e
          ∧ (∀ i, i ≠ e → t.peatEnt i = s.peatEnt i) ∧ (∀ c, c ≠ b → t.pbank c = s.pbank c) ∧ t = { s with regs := t.regs, flt := t.flt, sto := t.sto })
    ∧ (∀ (lo hi : Word) (e : Nat),
        s.HostOpen rPeatPresetLo lo →
        s.HostOpen rPeatPresetHi hi →
        s.locked 0x71 = false →
        e = s.get fPeatSelEntry →
        ∃ t, exec (.peatPreset lo hi) s = .next t
          ∧ t.port.resp = 0
          ∧ (s.peatKind e = 0 ∨ s.peatKind e = 3 → t.sto = s.sto ∧ bitsOf (t.word (rBlkErr 0x71)) 16 8 = 0x43)
          ∧ (s.peatKind e = 1 → (t.peatEnt e).v = ((lo.toNat + 2 ^ 32 * hi.toNat : Nat) : Int) ∧ (t.peatEnt e).lost = false ∧ (t.peatEnt e).force = true)
          ∧ (s.peatKind e = 2 → (t.peatEnt e).v = signedOf 64 (lo.toNat + 2 ^ 32 * hi.toNat) ∧ (t.peatEnt e).lost = false ∧ (t.peatEnt e).force = true)
          ∧ (∀ i, i ≠ e → t.peatEnt i = s.peatEnt i)
          ∧ t = { s with regs := t.regs, port := t.port, sto := t.sto })

/-- R304: OPEN empties the slot that is not active and begins a load, or, while a load or an activation runs, is refused with
BUSY; after the erase pushes fill the image, byte 0 first; CLOSE asks for the checks, whose first failure is the cause in
ACT_RES and which on success give a valid slot with ASEQ 0 and its GENERATION; ABORT ends a load. The active slot is never
touched. (Which slot a load fills when none is active is the model's choice, log entry 24.) -/
def Obligations.ImagesAreLoadedAndChecked : Prop :=
  ∀ (s : State),
    (∀ (i : Nat),
        s.HostOpen rNstoreImgCtrl 1#32 →
        i = s.loadSlot →
        ∃ t, exec .imageOpen s = .next t
          ∧ t.port.resp = 0
          ∧ (s.nst.loading = true ∨ s.lath.act.isSome → t.nst = s.nst ∧ bitsOf (t.word (rBlkErr 0x72)) 16 8 = 0x40)
          ∧ (s.nst.loading = false → s.lath.act = none →
              t.slot i = {} ∧ t.slot (1 - i) = s.slot (1 - i) ∧ t.nst.loading = true ∧ t.nst.erasing = true ∧ t.nst.buf = []
              ∧ t.bit fNstoreStatLoading = true ∧ t.get fNstoreImgFillValue = 0)
          ∧ t = { s with regs := t.regs, port := t.port, nst := t.nst })
    ∧ (s.coreOff = false →
        ∃ t, exec .slotEraseDone s = .next t ∧ t = { s with nst := { s.nst with erasing := false } })
    ∧ (∀ (x : Xact),
        s.XactOpen x →
        xactOp x = 4 →
        xactStart x = rNstoreImgMbx →
        ∃ t, exec (.imagePush x) s = .next t
          ∧ (s.imageCanPush (xactLen x) = true →
              t.port.resp = 0 ∧ t.nst = { s.nst with buf := s.nst.buf ++ wordsBytes x.data }
              ∧ t.get fNstoreImgFillValue = (s.nst.buf.length + 4 * xactLen x) % 2 ^ 32)
          ∧ (s.imageCanPush (xactLen x) = false → t.port.resp = 9 ∧ t.nst = s.nst)
          ∧ t = { s with regs := t.regs, port := t.port, nst := t.nst })
    ∧ (s.HostOpen rNstoreImgCtrl 2#32 →
        ∃ t, exec .imageClose s = .next t
          ∧ t.port.resp = 0 ∧ t.nst = { s.nst with checking := s.nst.checking || (s.nst.loading && !s.nst.erasing) }
          ∧ t = { s with regs := t.regs, port := t.port, nst := t.nst })
    ∧ (∀ (i : Nat) (b : List Byte),
        s.coreOff = false →
        s.nst.checking = true →
        i = s.loadSlot →
        b = s.nst.buf →
        ∃ t, exec .imageCheckDone s = .next t
          ∧ t.nst.loading = false ∧ t.nst.checking = false ∧ t.nst.buf = [] ∧ t.bit fNstoreStatLoading = false
          ∧ t.slot (1 - i) = s.slot (1 - i)
          ∧ (imgMagicOk b = false → t.get fNstoreActResCause = 4 ∧ t.slot i = s.slot i)
          ∧ (imgMagicOk b = true → imgLengthOk b = false ∨ imgLength b ≠ b.length → t.get fNstoreActResCause = 6 ∧ t.slot i = s.slot i)
          ∧ (imgMagicOk b = true → imgLengthOk b = true → imgLength b = b.length → imgCrcOk b = false →
              t.get fNstoreActResCause = 7 ∧ t.slot i = s.slot i)
          ∧ (imgMagicOk b = true → imgLengthOk b = true → imgLength b = b.length → imgCrcOk b = true →
              t.slot i = { img := b, valid := true, aseq := 0, gen := imgGen b } ∧ bitAt (t.word (rIrqStat 0x72)) 0 = true)
          ∧ t = { s with regs := t.regs, nst := t.nst })
    ∧ (s.HostOpen rNstoreImgCtrl 4#32 →
        ∃ t, exec .imageAbort s = .next t
          ∧ t.port.resp = 0 ∧ t.nst.loading = false ∧ t.slot 0 = s.slot 0 ∧ t.slot 1 = s.slot 1
          ∧ (s.nst.loading = true → t.bit fNstoreStatLoading = false ∧ t.nst.buf = [])
          ∧ t = { s with regs := t.regs, port := t.port, nst := t.nst })

/-- R306: ACTIVATE.GO is refused with its cause while a load, an activation or a start-up runs, and by the first of the checks
that fails; otherwise the activation begins with the words of the blocks, and nothing that runs changes. R308: the slot's
record takes the other slot's ASEQ plus one, and the slot becomes active. R309: a failed attempt of a start-up is followed by
the next one. R310: every refusal is audited. (The codes of the audit detail are log entry 35's.) -/
def Obligations.ActivationsOfSlots : Prop :=
  ∀ (s : State),
    (∀ (slot i : Nat),
        i = slot % 2 →
        s.HostOpen rNstoreActivate (BitVec.ofNat 32 (1 + 0x100 * i)) →
        ∃ t, exec (.activate slot) s = .next t
          ∧ t.port.resp = 0
          ∧ (s.nst.loading = true ∨ s.lath.act.isSome ∨ s.nst.recDue.isSome ∨ s.boot.first = false →
              t.get fNstoreActResCause = 1 ∧ t.lath = s.lath ∧ t.nst.aud.length ≠ 0)
          ∧ (s.nst.loading = false → s.lath.act = none → s.nst.recDue = none → s.boot.first = true → (s.slot i).valid = false →
              t.get fNstoreActResCause = 3 ∧ t.get fNstoreActResSlot = i ∧ t.lath = s.lath)
          ∧ (s.nst.loading = false → s.lath.act = none → s.nst.recDue = none → s.boot.first = true →
              ∀ c k, s.imageCheck i = .error (c, k) → t.get fNstoreActResCause = c % 16 ∧ t.lath = s.lath ∧ t.net = s.net)
          ∧ (s.nst.loading = false → s.lath.act = none → s.nst.recDue = none → s.boot.first = true →
              ∀ ws, s.imageCheck i = .ok ws → t.bit fNstoreStatActivating = true ∧ t.nst = s.nst
                ∧ t.lath = { s.lath with act := some { slot := i, writes := ws, sess := 0xFF } })
          ∧ t.now = s.now ∧ t.uch = s.uch ∧ t.vis = s.vis ∧ t.lv = s.lv ∧ t.eng = s.eng)
    ∧ (∀ (i : Nat),
        s.coreOff = false →
        s.nst.recDue = some i →
        i < 2 →
        ∃ t, exec .slotRecordWritten s = .next t
          ∧ t.slot i = { s.slot i with aseq := ((s.slot (1 - i)).aseq + 1) % 2 ^ 24 } ∧ t.slot (1 - i) = s.slot (1 - i)
          ∧ t.nst.recDue = none ∧ t.get fNstoreStatActive = i ∧ bitAt (t.word (rIrqStat 0x72)) 1 = true
          ∧ t.bit fNstoreStatActivating = false ∧ t = { s with regs := t.regs, nst := t.nst })
    ∧ (∀ (a : Activation),
        s.coreOff = false →
        s.lath.act = some a →
        a.startup = true →
        a.stage = .refused →
        ∃ t, exec .slotAttemptDone s = .next t
          ∧ (s.nextSlot = none → t.lath.safeSel = true ∧ t.get fNstoreStatSafeWhy = (if s.get fNstoreStatTried = 0 then 3 else 2) ∧ t.lath.act = none)
          ∧ (∀ i, s.nextSlot = some i → t.lath.act.any (fun b => b.slot == i && b.startup) = true
              ∧ t.get fNstoreStatTried = (s.get fNstoreStatTried + 2 ^ i) % 4)
          ∧ t.now = s.now ∧ t.uch = s.uch ∧ t.boot = s.boot ∧ t = { s with
            regs := t.regs, lath := t.lath, flt := t.flt, nst := t.nst, dir := t.dir, tab := t.tab, net := t.net,
            dlv := t.dlv })

/-- R312, R313: a unit takes the oldest records that wait, in their order, into the present segment, or a new one; a unit that
does not read back makes its segment skipped and is counted. R314: a query opens, or is refused with BAD_QUERY; each chunk is
posted in REPLY with its count, the last with DONE; NEXT asks for the next one; CANCEL ends the query. No query changes a
record. -/
def Obligations.TrendUnitsAndQueries : Prop :=
  ∀ (s : State),
    (∀ (ok : Bool),
        s.coreOff = false →
        s.nst.pendRecs ≠ [] →
        s.nst.segNew = true →
        s.nst.segs.length < 59000 →
        ∃ t, exec (.trendUnitProgrammed ok) s = .next t
          ∧ t.nst.segNum = s.nst.segNum + 1 ∧ t.nst.segNew = false
          ∧ (let n := if s.nst.pendRecs.length < 338 then (if s.pwr.pfwAt.isSome then s.nst.pendRecs.length else 0) else 338
             t.nst.pendRecs = s.nst.pendRecs.drop n
             ∧ t.nst.segs = s.nst.segs ++ [{ base := (s.nst.pendRecs.head?.map (fun r => r.time)).getD s.calSec, num := s.nst.segNum, recs := s.nst.pendRecs.take n, good := ok || n == 0 }]
             ∧ (n ≠ 0 → ok = false → t.Raised 0xD002 0))
          ∧ t.nst.aud = s.nst.aud ∧ t.now = s.now ∧ t = { s with regs := t.regs, flt := t.flt, nst := t.nst })
    ∧ (∀ (x : Xact),
        s.XactOpen x →
        xactOp x = 4 →
        xactStart x = rNstoreQryMbx →
        s.nst.query = none →
        ∃ t, exec (.query x) s = .next t
          ∧ t.port.resp = 0
          ∧ (parseQuery x.data = none → t.nst = s.nst ∧ bitsOf (t.word (rBlkErr 0x72)) 16 8 = 0x41)
          ∧ (∀ q, parseQuery x.data = some q → t.nst = { s.nst with query := some { q with erased := s.nst.erasedRecs } }
              ∧ t.bit fNstoreQryStatBusy = true ∧ t.bit fNstoreQryStatDone = false ∧ t.get fNstoreQryStatCount = 0)
          ∧ t = { s with regs := t.regs, port := t.port, nst := t.nst })
    ∧ (∀ (q : Query) (c : List Byte × Nat × Bool × Query),
        s.coreOff = false →
        s.nst.query = some q →
        q.owed = true →
        c = s.queryChunk q false 170 63 →
        ∃ t, exec .queryChunkPosted s = .next t
          ∧ (∀ i < 510, t.word (rNstoreReply i) = (bytesWords c.1).getD i 0#32)
          ∧ t.get fNstoreQryStatCount = c.2.1 ∧ t.bit fNstoreQryStatDone = c.2.2.1 ∧ t.bit fNstoreQryStatBusy = false
          ∧ t.nst = { s.nst with query := if c.2.2.1 then none else some c.2.2.2 }
          ∧ bitAt (t.word (rIrqStat 0x72)) 3 = true
          ∧ t = { s with regs := t.regs, nst := t.nst })
    ∧ (∀ (q : Query),
        s.HostOpen rNstoreQryNext 1#32 →
        s.nst.query = some q →
        ∃ t, exec .queryNext s = .next t
          ∧ t.port.resp = 0 ∧ t.nst = { s.nst with query := some { q with owed := true } } ∧ t.bit fNstoreQryStatBusy = true
          ∧ t = { s with regs := t.regs, port := t.port, nst := t.nst })
    ∧ (s.HostOpen rNstoreQryNext 2#32 →
        ∃ t, exec .queryCancel s = .next t
          ∧ t.port.resp = 0 ∧ t.nst = { s.nst with query := none } ∧ t.bit fNstoreQryStatBusy = false
          ∧ t = { s with regs := t.regs, port := t.port, nst := t.nst })

/-- R321: DOWN, TRAINING, INIT, UP, INCOMPAT and LOOPED are entered as the table of the rule gives them; 310 ms without a
HELLO, and the loss of link, take a port to DOWN. R320: a port in INIT or UP sends a HELLO with this device's UID and address.
R318: a discarded frame is counted, and a wrong VERSION makes the port INCOMPAT. -/
def Obligations.PortsFindTheirNeighbours : Prop :=
  ∀ (s : State) (p : Nat),
    p < 4 →
    s.coreOff = false →
    (s.pstate p = 0 →
        ∃ t, exec (.phyTraining p) s = .next t
          ∧ t.pstate p = 1 ∧ (∀ q < 4, q ≠ p → t.pstate q = s.pstate q) ∧ t = { s with regs := t.regs })
    ∧ (∀ (amp24 : Bool) (sqi : Nat),
        s.pstate p = 0 ∨ s.pstate p = 1 →
        sqi < 8 →
        ∃ t, exec (.phyLinkUp p amp24 sqi) s = .next t
          ∧ t.pstate p = 2 ∧ t.get (fFportStatSqi p) = sqi ∧ t.bit (fFportStatAmp p) = (amp24 && s.bit (fFportCfgAmp24 p))
          ∧ (t.port_ p).hello = s.now ∧ (t.port_ p).heard = 0
          ∧ (∀ q < 4, q ≠ p → t.pstate q = s.pstate q ∧ t.port_ q = s.port_ q) ∧ t = { s with regs := t.regs, fab := t.fab })
    ∧ (s.pstate p ≠ 6 →
        ∃ t, exec (.phyLinkDown p) s = .next t
          ∧ t.pstate p = 0 ∧ (t.port_ p).heard = 0 ∧ (∀ q < 4, q ≠ p → t.pstate q = s.pstate q)
          ∧ (s.pstate p = 3 → (t.port_ p).q = [] ∧ (t.port_ p).linkQ = [] ∧ (t.port_ p).unack = []
              ∧ bitAt (t.word (rIrqStat (0x79 + p))) 0 = true)
          ∧ (s.pstate p ≠ 3 → t = { s with regs := t.regs, fab := t.fab })
          ∧ t.now = s.now ∧ t.vis = s.vis ∧ t.uch = s.uch ∧ t = { s with regs := t.regs, flt := t.flt, sto := t.sto, lev := t.lev, fab := t.fab, dlv := t.dlv })
    ∧ (s.pstate p = 2 ∨ s.pstate p = 3 →
        ∃ t, exec (.helloTimer p) s = .next t
          ∧ (s.ctrFree = true → (s.port_ p).linkQ.length < 2 →
              (t.port_ p).linkQ.length = (s.port_ p).linkQ.length + 1
              ∧ ∀ x ∈ (t.port_ p).linkQ.drop (s.port_ p).linkQ.length,
                  x.vc = 5 ∧ frKind x.bytes = 0 ∧ be (frBody x.bytes) 0 8 = s.uid % 2 ^ 64 ∧ be (frBody x.bytes) 8 2 = s.myAddr
                  ∧ be (frBody x.bytes) 16 8 = (s.port_ p).heard % 2 ^ 64)
          ∧ (s.ctrFree = true → 2 ≤ (s.port_ p).linkQ.length → t.port_ p = s.port_ p)
          ∧ (s.ctrFree = false → t = s)
          ∧ (∀ q, q ≠ p → t.port_ q = s.port_ q) ∧ t.now = s.now ∧ t.uch = s.uch ∧ t = { s with regs := t.regs, flt := t.flt, sto := t.sto, lev := t.lev, fab := t.fab, dlv := t.dlv })
    ∧ (∀ (f : List Byte) (uid : Nat),
        s.pstate p = 2 ∨ s.pstate p = 3 →
        frameOk f = true →
        frVc f = 5 →
        frKind f = 0 →
        uid = be (frBody f) 0 8 →
        ∃ t, exec (.helloReceived p f) s = .next t
          ∧ (uid = s.uid → t.pstate p = 5 ∧ bitAt (t.word (rIrqStat (0x79 + p))) 2 = true)
          ∧ (uid ≠ s.uid → t.pstate p = (if be (frBody f) 16 8 = s.uid then 3 else 2)
              ∧ (t.port_ p).nbr = uid ∧ (t.port_ p).heard = uid ∧ (t.port_ p).hello = s.now
              ∧ t.get (fFportStatNbrAddr p) = be (frBody f) 8 2)
          ∧ (∀ q < 4, q ≠ p → t.pstate q = s.pstate q) ∧ t.now = s.now ∧ t.vis = s.vis ∧ t.uch = s.uch ∧ t = { s with regs := t.regs, flt := t.flt, sto := t.sto, lev := t.lev, fab := t.fab, dlv := t.dlv })
    ∧ (s.pstate p = 2 ∨ s.pstate p = 3 →
        ∃ t, exec (.helloTimeout p) s = .next t
          ∧ t.now = max s.now ((s.port_ p).hello + 310000) ∧ t.pstate p = 0
          ∧ t.get (fFportErrHelloMiss p) = min 65535 (s.get (fFportErrHelloMiss p) + 1)
          ∧ (∀ q < 4, q ≠ p → t.pstate q = s.pstate q) ∧ t.vis = s.vis ∧ t.uch = s.uch ∧ t = { s with now := t.now, regs := t.regs, flt := t.flt, sto := t.sto, lev := t.lev, fab := t.fab, dlv := t.dlv })
    ∧ (∀ (f : List Byte) (fcsOk : Bool),
        s.pstate p = 2 ∨ s.pstate p = 3 →
        (fcsOk && frameOk f) = false →
        ∃ t, exec (.discardedFrameReceived p f fcsOk) s = .next t
          ∧ t.get (fFportErrFrame p) = min 65535 (s.get (fFportErrFrame p) + 1)
          ∧ t.pstate p = (if fcsOk && decide (32 ≤ f.length) && frVersion f != 1 then 4 else s.pstate p)
          ∧ (∀ q < 4, q ≠ p → t.pstate q = s.pstate q)
          ∧ ((fcsOk && decide (32 ≤ f.length) && frVersion f != 1) = false → t = { s with regs := t.regs })
          ∧ t.now = s.now ∧ t.vis = s.vis ∧ t.uch = s.uch ∧ t = { s with regs := t.regs, flt := t.flt, sto := t.sto, lev := t.lev, fab := t.fab, dlv := t.dlv })

/-- R324: a newer LSA is stored and an older one changes nothing in the database; an acknowledgement ends the repetition of
its LSA, which otherwise goes out again after 20 ms; 120 s without a refresh removes it. R323: the device originates its own
LSA every 30 s. R333: 20 ms after the last change the new tables are computed, and they replace the old ones in one step.
R328, R329: a GRANT to this device gives it its address; ADDR_REQ drops the address and requests one. -/
def Obligations.LinkStateAndRoutes : Prop :=
  ∀ (s : State),
    (∀ (p : Nat) (f : List Byte) (l : Lsa),
        p < 4 →
        s.coreOff = false →
        s.isUp p = true →
        frameOk f = true →
        frVc f = 5 →
        frKind f = 1 →
        lsaOf (frBody f) = some l →
        l.uid ≠ s.uid →
        s.fab.rt.root ≠ s.uid →
        s.myAddr = 0 →
        ∃ t, exec (.lsaReceived p f) s = .next t
          ∧ ((lsaFind s.fab.db l.uid).any (fun o => l.seq ≤ o.seq) = true → t.fab.db = s.fab.db)
          ∧ ((lsaFind s.fab.db l.uid).any (fun o => o.seq < l.seq) = true → lsaFind t.fab.db l.uid = some { l with time := s.now })
          ∧ (lsaFind s.fab.db l.uid = none → (s.fab.db.filter (fun x => x.uid ≠ s.uid)).length < 4096 →
              lsaFind t.fab.db l.uid = some { l with time := s.now } ∧ t.fab.change.isSome)
          ∧ (lsaFind s.fab.db l.uid = none → 4096 ≤ (s.fab.db.filter (fun x => x.uid ≠ s.uid)).length →
              t.fab.db = s.fab.db ∧ t.bit fFabAddrFull = true)
          ∧ (∀ v, v ≠ l.uid → lsaFind t.fab.db v = lsaFind s.fab.db v)
          ∧ t.now = s.now ∧ t.vis = s.vis ∧ t.uch = s.uch ∧ t = { s with regs := t.regs, flt := t.flt, sto := t.sto, lev := t.lev, fab := t.fab, dlv := t.dlv })
    ∧ (∀ (p : Nat) (f : List Byte),
        p < 4 →
        s.coreOff = false →
        s.isUp p = true →
        frameOk f = true →
        frVc f = 5 →
        frKind f = 2 →
        ∃ t, exec (.lsaAckReceived p f) s = .next t
          ∧ (t.port_ p).unack = (s.port_ p).unack.filter (fun k => !(k.uid == be (frBody f) 0 8 && k.seq == be (frBody f) 8 4))
          ∧ (∀ q, q ≠ p → t.port_ q = s.port_ q) ∧ t.fab.db = s.fab.db ∧ t.now = s.now
          ∧ t = { s with regs := t.regs, fab := t.fab })
    ∧ (∀ (p : Nat) (u : Unack),
        p < 4 →
        s.coreOff = false →
        s.isUp p = true →
        s.ctrFree = true →
        (s.port_ p).unack = [u] →
        (s.port_ p).linkQ = [] →
        ∃ t, exec (.lsaRetransmit p) s = .next t
          ∧ t.now = max s.now (u.sent + 20000) ∧ (t.port_ p).unack = [{ u with sent := t.now }]
          ∧ ((t.port_ p).linkQ.map (fun x => (frKind x.bytes, frBody x.bytes))) = [(u.kind % 16, u.payload)]
          ∧ (∀ q, q ≠ p → t.port_ q = s.port_ q) ∧ t = { s with now := t.now, regs := t.regs, flt := t.flt, sto := t.sto, lev := t.lev, fab := t.fab, dlv := t.dlv })
    ∧ (s.coreOff = false →
        s.en 0x78 = true →
        ∃ t, exec .lsaRefresh s = .next t
          ∧ t.now = max s.now (s.fab.refresh + 30000000) ∧ t.fab.seq = s.fab.seq + 1 ∧ t.fab.refresh = t.now
          ∧ (lsaFind t.fab.db s.uid).any (fun l => l.seq == s.fab.seq + 1 && l.addr == s.myAddr) = true
          ∧ (∀ v, v ≠ s.uid → lsaFind t.fab.db v = lsaFind s.fab.db v)
          ∧ t.vis = s.vis ∧ t.uch = s.uch ∧ t = { s with now := t.now, regs := t.regs, flt := t.flt, sto := t.sto, lev := t.lev, fab := t.fab, dlv := t.dlv })
    ∧ (∀ (uid : Nat) (l : Lsa),
        s.coreOff = false →
        s.en 0x78 = true →
        lsaFind s.fab.db uid = some l →
        uid ≠ s.uid →
        ∃ t, exec (.lsaExpiry uid) s = .next t
          ∧ t.now = max s.now (l.time + 120000000) ∧ lsaFind t.fab.db uid = none ∧ t.fab.change.isSome
          ∧ (∀ v, v ≠ uid → lsaFind t.fab.db v = lsaFind s.fab.db v) ∧ t = { s with now := t.now, regs := t.regs, fab := t.fab })
    ∧ (∀ (c : Nat × Nat),
        s.coreOff = false →
        s.en 0x78 = true →
        s.fab.change = some c →
        ∃ t, exec .reconvergenceWaitEnd s = .next t
          ∧ t.now = max s.now (c.2 + 20000) ∧ t.fab = { s.fab with next := some (t.now, computeRoutes s.fab.db s.uid) }
          ∧ t = { s with now := t.now, fab := t.fab })
    ∧ (∀ (n : Nat × Routes) (c : Nat × Nat),
        s.coreOff = false →
        s.en 0x78 = true →
        s.fab.next = some n →
        s.fab.change = some c →
        ∃ t, exec .routeTableReplace s = .next t
          ∧ t.fab.rt = n.2 ∧ t.get fFabReconvLast = min 65535 ((s.now - c.1) / 1000)
          ∧ bitAt (t.word (rIrqStat 0x78)) 2 = true ∧ t.get fFabStatDevices = n.2.devs % 8192
          ∧ t.now = s.now ∧ t.vis = s.vis ∧ t.uch = s.uch ∧ t = { s with regs := t.regs, flt := t.flt, sto := t.sto, lev := t.lev, fab := t.fab, dlv := t.dlv })
    ∧ (∀ (p : Nat) (f b : List Byte),
        p < 4 →
        s.coreOff = false →
        s.isUp p = true →
        frameOk f = true →
        frVc f = 5 →
        frKind f = 6 →
        b = frBody f →
        s.fab.seen.contains (be b 16 8, be b 12 4) = false →
        ∃ t, exec (.grantReceived p f) s = .next t
          ∧ t.fab.seen = s.fab.seen ++ [(be b 16 8, be b 12 4)]
          ∧ (be b 0 8 = s.uid → t.get fFabAddrAddr = be b 8 2 ∧ t.fab.req = false ∧ t.fab.conflict = false)
          ∧ (be b 0 8 ≠ s.uid → t.myAddr = s.myAddr ∧ t.fab.req = s.fab.req ∧ t.fab.db = s.fab.db)
          ∧ t.now = s.now ∧ t.vis = s.vis ∧ t.uch = s.uch ∧ t = { s with regs := t.regs, flt := t.flt, sto := t.sto, lev := t.lev, fab := t.fab, dlv := t.dlv })
    ∧ (∀ (w : Word),
        s.HostOpen rFabAddrReq w →
        ∃ t, exec (.addrReq w) s = .next t
          ∧ t.port.resp = 0
          ∧ (bitAt w 31 = true → bitsOf w 0 16 ≤ 0xFFF → s.fab.rt.root ≠ s.uid → t.myAddr = 0 ∧ t.fab.req = true ∧ t.fab.want = bitsOf w 0 16)
          ∧ (bitAt w 31 = true → 0xFFF < bitsOf w 0 16 → t.fab = s.fab ∧ t.myAddr = s.myAddr ∧ bitsOf (t.word (rBlkErr 0x78)) 16 8 = 0x40)
          ∧ (bitAt w 31 = false → t.fab = s.fab)
          ∧ t.now = s.now ∧ t.vis = s.vis ∧ t.uch = s.uch ∧ t.lath = s.lath)

/-- R335: an UP port measures its link; R336, R337: the root sends SYNC, a device takes it from its parent's link only, and 1
s without one ends the lock. R341, R343, R345, R357: at each fabric cycle the B allowance grows by 50 µs up to 500 µs; a port
that is free starts its LINK frame first, counted as sent; at the forward point waiting class-T frames leave their buffers,
and a reserved frame leaves its slot's register at its slot. -/
def Obligations.FabricTimeAndTheCycle : Prop :=
  ∀ (s : State),
    (∀ (p : Nat),
        p < 4 →
        s.coreOff = false →
        s.isUp p = true →
        s.ctrFree = true →
        (s.port_ p).linkQ = [] →
        ∃ t, exec (.pdelayTimer p) s = .next t
          ∧ (t.port_ p).pdTid = ((s.port_ p).pdTid + 1) % 4096
          ∧ (t.port_ p).linkQ.map (fun x => (frKind x.bytes, frTid x.bytes)) = [(3, (t.port_ p).pdTid)]
          ∧ (∀ q, q ≠ p → t.port_ q = s.port_ q) ∧ t.now = s.now ∧ t = { s with regs := t.regs, flt := t.flt, sto := t.sto, lev := t.lev, fab := t.fab, dlv := t.dlv })
    ∧ (∀ (p : Nat) (f : List Byte),
        p < 4 →
        s.coreOff = false →
        s.isUp p = true →
        frameOk f = true →
        frVc f = 5 →
        frKind f = 3 →
        s.ctrFree = true →
        (s.port_ p).linkQ = [] →
        ∃ t, exec (.pdelayReqReceived p f) s = .next t
          ∧ (t.port_ p).linkQ.map (fun x => (frKind x.bytes, frTid x.bytes)) = [(4, frTid f)]
          ∧ (∀ q, q ≠ p → t.port_ q = s.port_ q) ∧ t.now = s.now ∧ t = { s with
            regs := t.regs, flt := t.flt, sto := t.sto, lev := t.lev, fab := t.fab, dlv := t.dlv, fresh := t.fresh })
    ∧ (∀ (p t1 : Nat) (f : List Byte),
        p < 4 →
        s.coreOff = false →
        s.isUp p = true →
        frameOk f = true →
        frVc f = 5 →
        frKind f = 4 →
        (s.port_ p).t1 = some (frTid f, t1) →
        ∃ t, exec (.pdelayRespReceived p f) s = .next t
          ∧ (t.port_ p).t1 = none ∧ (t.port_ p).delays.length = min 8 ((s.port_ p).delays.length + 1)
          ∧ (∀ q, q ≠ p → t.port_ q = s.port_ q) ∧ t.now = s.now ∧ t.fab.db = s.fab.db
          ∧ t = { s with regs := t.regs, fab := t.fab, fresh := t.fresh })
    ∧ (s.coreOff = false →
        s.en 0x78 = true →
        ∃ t, exec .syncTimer s = .next t
          ∧ (s.fab.rt.root ≠ s.uid → t = s)
          ∧ (s.fab.rt.root = s.uid → t.now = (s.now + 124999) / 125000 * 125000)
          ∧ (∀ p, p ∉ s.fab.rt.kids → t.port_ p = s.port_ p)
          ∧ t = { s with now := t.now, regs := t.regs, flt := t.flt, sto := t.sto, lev := t.lev, fab := t.fab, dlv := t.dlv })
    ∧ (∀ (p : Nat) (f : List Byte) (q : Nat × Nat × Nat),
        p < 4 →
        s.coreOff = false →
        s.isUp p = true →
        frameOk f = true →
        frVc f = 5 →
        frKind f = 5 →
        s.fab.rt.parent = some q →
        ∃ t, exec (.syncReceived p f) s = .next t
          ∧ (q.2.1 ≠ p → t.fab.syncAt = s.fab.syncAt ∧ t.bit fLathStatFsync = s.bit fLathStatFsync ∧ t.now = s.now
              ∧ (∀ c, c ≠ p → t.port_ c = s.port_ c))
          ∧ (q.2.1 = p → t.fab.syncAt.isSome)
          ∧ (t.bit fLathStatFsync = true → s.bit fLathStatFsync = true ∨ (s.port_ p).delays.length = 8)
          ∧ t.uch = s.uch ∧ t = { s with
            now := t.now, regs := t.regs, lath := t.lath, flt := t.flt, sto := t.sto, eng := t.eng, lev := t.lev,
            fab := t.fab, dlv := t.dlv, fresh := t.fresh })
    ∧ (∀ (t0 : Nat),
        s.coreOff = false →
        s.en 0x78 = true →
        s.fab.syncAt = some t0 →
        s.fab.rt.root ≠ s.uid →
        ∃ t, exec .syncTimeout s = .next t
          ∧ t.now = max s.now (t0 + 1000000) ∧ t.bit fLathStatFsync = false ∧ t.fab.syncAt = none ∧ t.fab.offs = []
          ∧ t = { s with now := t.now, regs := t.regs, fab := t.fab, dlv := t.dlv })
    ∧ (s.coreOff = false →
        s.en 0x78 = true →
        ∃ t, exec .fabricCycleStart s = .next t
          ∧ t.now = (s.now + 999) / 1000 * 1000
          ∧ (∀ p < 4, (t.port_ p).bAllow = min 5000 ((s.port_ p).bAllow + 500) ∧ (t.port_ p).q = (s.port_ p).q
              ∧ (t.port_ p).tReg = (s.port_ p).tReg)
          ∧ t = { s with now := t.now, regs := t.regs, flt := t.flt, sto := t.sto, lev := t.lev, fab := t.fab, dlv := t.dlv })
    ∧ (∀ (p slot : Nat) (x : Nat × Nat × List Byte),
        p < 4 →
        s.coreOff = false →
        s.isUp p = true →
        (s.port_ p).tReg = [x] →
        x.1 = slot →
        ∃ t, exec (.tSlotStart p slot) s = .next t
          ∧ t.now = max s.now (1000 * x.2.1 + 125 * slot) ∧ (t.port_ p).tReg = []
          ∧ (s.bit fLathStatFsync = true → (t.port_ p).till = max (10 * t.now) (s.port_ p).till + wireOf x.2.2
              ∧ t.get (fFportTxCount p) = (s.get (fFportTxCount p) + 1) % 2 ^ 32 ∧ (t.port_ p).q = (s.port_ p).q)
          ∧ (s.bit fLathStatFsync = false → (t.port_ p).q.map (fun y => y.vc) = (s.port_ p).q.map (fun y => y.vc) ++ [1])
          ∧ (∀ q, q ≠ p → t.port_ q = s.port_ q) ∧ t = { s with now := t.now, regs := t.regs, fab := t.fab })
    ∧ (∀ (p : Nat) (x : OutFrame),
        p < 4 →
        s.coreOff = false →
        s.isUp p = true →
        (s.port_ p).linkQ.head? = some x →
        wireOf x.bytes ≤ 3000 →
        (s.port_ p).till = 0 →
        s.now % 1000 < 500 →
        ∃ t, exec (.frameSent p) s = .next t
          ∧ t.now = s.now / 1000 * 1000 + 500 ∧ (t.port_ p).linkQ = (s.port_ p).linkQ.drop 1 ∧ (t.port_ p).q = (s.port_ p).q
          ∧ (t.port_ p).till = 10 * t.now + wireOf x.bytes ∧ t.get (fFportTxCount p) = (s.get (fFportTxCount p) + 1) % 2 ^ 32
          ∧ (∀ q, q ≠ p → t.port_ q = s.port_ q) ∧ t = { s with now := t.now, regs := t.regs, fab := t.fab, fresh := t.fresh })
    ∧ (s.coreOff = false →
        s.en 0x78 = true →
        ∃ t, exec .tForwardPoint s = .next t
          ∧ t.now = (s.now + 249) / 1000 * 1000 + 750 ∧ (∀ p < 4, (t.port_ p).tWait = [] ∧ (t.port_ p).linkQ = (s.port_ p).linkQ)
          ∧ (s.bit fLathStatFsync = true → ∀ p < 4, (t.port_ p).q = (s.port_ p).q)
          ∧ t = { s with now := t.now, regs := t.regs, fab := t.fab })

/-- R376, R377, R378, R419: an untagged request for this device is carried out, or refused with the RESULT of its rule, and
the answer is kept with its RESULT (R352); a READ changes no point, an accepted WRITE queues one level write, a SUBSCRIBE adds
its source to the list of the point, an UNSUBSCRIBE removes it, an ALARM is counted. R314, R362: a QUERY of a peer joins the
queries of the peers. (The order of the refusals of a WRITE is the model's reading, log entry 52.) -/
def Obligations.RequestsOfPeersAreAnswered : Prop :=
  ∀ (s : State) (p : Nat) (f b : List Byte),
    p < 4 →
    s.coreOff = false →
    s.isUp p = true →
    frameOk f = true →
    frAuth f = false →
    frRetry f = false →
    frDst f = s.myAddr →
    s.myAddr ≠ 0 →
    isGroup s.myAddr = false →
    Map.look (fun _ => 0) s.dlv.last (frSrc f) ≤ frCtr f →
    s.freeBuf p (frVc f - 1) ≠ 0 →
    b = frBody f →
    (∀ (n : Nat),
        frVc f = 1 →
        frKind f = 2 →
        n = byteAt b 0 →
        ∃ t, exec (.readRequest p f) s = .next t
          ∧ t.dlv.kept.getLast?.map (fun k => (k.src, k.tid, k.kind, byteAt k.payload 0)) =
              some (frSrc f, frTid f, 2, if s.en 0x7D = false then 4 else if 1 ≤ n ∧ n ≤ 16 ∧ b.length = 2 + 2 * n then 0 else 5)
          ∧ (s.en 0x7D = true → 1 ≤ n → n ≤ 16 → b.length = 2 + 2 * n → t.dlv.kept.getLast?.map (fun k => k.payload.length) = some (4 + 8 * n))
          ∧ t.dir = s.dir ∧ t.hostLv = s.hostLv ∧ t.hostZm = s.hostZm ∧ t.lath = s.lath ∧ t = { s with
            regs := t.regs, lath := t.lath, hostLv := t.hostLv, flt := t.flt, nst := t.nst, dir := t.dir, sto := t.sto,
            hostZm := t.hostZm, lev := t.lev, fab := t.fab, dlv := t.dlv })
    ∧ (∀ (i lv : Nat) (v : Int) (rel : Bool) (r : Nat),
        frVc f = 1 →
        frKind f = 3 →
        i = be b 0 2 →
        lv = byteAt b 2 % 8 →
        rel = bitNat (byteAt b 2) 7 →
        v = signedOf 32 (be b 4 4) →
        r = (if s.en 0x7D = false then 4 else if b.length ≠ 8 ∨ byteAt b 3 ≠ 0 ∨ byteAt b 2 / 8 % 16 ≠ 0 then 5 else if lv ≠ 0 ∧ lv ≠ 2 ∧ lv ≠ 4 then 1 else if 16384 ≤ i ∨ s.kindOf i ≠ some (if lv = 0 then 1 else 2) then 2 else if bitAt (entW s.dir.run i 0) 18 = false ∨ lv = 2 then 3 else if lv ≠ 0 ∧ bitsOf (entW s.dir.run i 1) 30 2 = 3 ∧ rel = false ∧ (v % 65536 ≠ 0 ∨ v < 0 ∨ 4 < v / 65536) then 1 else 0) →
        ∃ t, exec (.writeRequest p f) s = .next t
          ∧ t.dlv.kept.getLast?.map (fun k => (k.src, k.tid, k.kind, byteAt k.payload 0)) = some (frSrc f, frTid f, 3, r)
          ∧ (r ≠ 0 → t.dir = s.dir ∧ t.hostLv = s.hostLv ∧ t.hostZm = s.hostZm)
          ∧ (r = 0 → lv = 0 → t.dir = { s.dir with hostW := s.dir.hostW ++ [(i, v)] } ∧ t.hostLv = s.hostLv ∧ t.hostZm = s.hostZm)
          ∧ (r = 0 → lv = 4 → bitsOf (entW s.dir.run i 1) 30 2 < 2 → t.dir = s.dir ∧ t.hostZm = s.hostZm
              ∧ t.hostLv = s.hostLv ++ [{ out := bitsOf (entW s.dir.run i 1) 0 8, lv := 4, v := if rel then none else some v }])
          ∧ (r = 0 → Map.look (fun _ => 0) t.dlv.last (frSrc f) = frCtr f + 1)
          ∧ t.lath = s.lath ∧ t.now = s.now ∧ t = { s with
            regs := t.regs, lath := t.lath, hostLv := t.hostLv, flt := t.flt, nst := t.nst, dir := t.dir, sto := t.sto,
            hostZm := t.hostZm, lev := t.lev, fab := t.fab, dlv := t.dlv })
    ∧ (∀ (i r : Nat),
        frVc f = 1 →
        frKind f = 4 →
        i = be b 0 2 →
        r = (if s.en 0x7D = false then 4 else if b.length ≠ 4 ∨ be b 2 2 ≠ 0 then 5 else if 16384 ≤ i ∨ entLocal s.dir.run i = false ∨ entPubEn s.dir.run i = false then 2 else if entClassT s.dir.run i = true ∨ entGroup s.dir.run i ≠ 0 ∨ (s.subList i).any (fun a => a.1 == frSrc f) = true then 0 else if 8 ≤ (s.subList i).length ∨ 8192 ≤ s.subUsed then 6 else 0) →
        ∃ t, exec (.subscribeRequest p f) s = .next t
          ∧ t.dlv.kept.getLast?.map (fun k => (k.src, k.tid, k.kind, byteAt k.payload 0)) = some (frSrc f, frTid f, 4, r)
          ∧ (r ≠ 0 → t.dir = s.dir)
          ∧ (r = 0 → entClassT s.dir.run i = false → entGroup s.dir.run i = 0 → (t.subList i).any (fun a => a.1 == frSrc f && a.2 == s.now) = true)
          ∧ (∀ j, j ≠ i → t.subList j = s.subList j) ∧ t.hostLv = s.hostLv ∧ t.now = s.now ∧ t = { s with
            regs := t.regs, lath := t.lath, hostLv := t.hostLv, flt := t.flt, nst := t.nst, dir := t.dir, sto := t.sto,
            hostZm := t.hostZm, lev := t.lev, fab := t.fab, dlv := t.dlv })
    ∧ (∀ (i : Nat),
        frVc f = 1 →
        frKind f = 5 →
        i = be b 0 2 →
        ∃ t, exec (.unsubscribeRequest p f) s = .next t
          ∧ t.dlv.kept.getLast?.map (fun k => (k.src, k.tid, k.kind, byteAt k.payload 0)) =
              some (frSrc f, frTid f, 5, if s.en 0x7D = false then 4 else if b.length = 4 ∧ be b 2 2 = 0 then 0 else 5)
          ∧ (s.en 0x7D = true → b.length = 4 → be b 2 2 = 0 → t.subList i = (s.subList i).filter (fun a => a.1 ≠ frSrc f))
          ∧ (∀ j, j ≠ i → t.subList j = s.subList j) ∧ t.hostLv = s.hostLv ∧ t.now = s.now ∧ t = { s with
            regs := t.regs, lath := t.lath, hostLv := t.hostLv, flt := t.flt, nst := t.nst, dir := t.dir, sto := t.sto,
            hostZm := t.hostZm, lev := t.lev, fab := t.fab, dlv := t.dlv })
    ∧ (frVc f = 1 →
        frKind f = 9 →
        ∃ t, exec (.alarmReceived p f) s = .next t
          ∧ t.dlv.kept.getLast?.map (fun k => (k.src, k.tid, k.kind, byteAt k.payload 0)) = some (frSrc f, frTid f, 9, 0)
          ∧ t.get fFaultAlmRxCount = min 65535 (s.get fFaultAlmRxCount + 1) ∧ t.get fFaultAlmRxSrc = frSrc f
          ∧ bitAt (t.word (rIrqStat 0x88)) 6 = true ∧ t.dir = s.dir ∧ t.hostLv = s.hostLv ∧ t = { s with
            regs := t.regs, lath := t.lath, hostLv := t.hostLv, flt := t.flt, nst := t.nst, dir := t.dir, sto := t.sto,
            hostZm := t.hostZm, lev := t.lev, fab := t.fab, dlv := t.dlv })
    ∧ (∀ (q : Option Query),
        frVc f = 3 →
        frKind f = 0xA →
        q = parseQuery (be32s (b.length / 4) b) →
        (s.nst.peers.filter (fun x => x.peer ≠ peerOf f)).length < 4 →
        ∃ t, exec (.queryRequest p f) s = .next t
          ∧ (q = none → t.nst = s.nst)
          ∧ (q ≠ none → t.nst = { s.nst with peers := t.nst.peers }
              ∧ (∀ x ∈ t.nst.peers, x ∈ s.nst.peers ∨ (x.peer = peerOf f ∧ x.chunk = 1 ∧ x.done = false)))
          ∧ t.dir = s.dir ∧ t.hostLv = s.hostLv ∧ t.dlv.kept = s.dlv.kept ∧ t = { s with
            regs := t.regs, lath := t.lath, hostLv := t.hostLv, flt := t.flt, nst := t.nst, dir := t.dir, sto := t.sto,
            hostZm := t.hostZm, lev := t.lev, fab := t.fab, dlv := t.dlv })
    ∧ (∀ (q : Query),
        frVc f = 3 →
        frKind f = 0xB →
        s.nst.peers = [q] →
        q.peer = peerOf f →
        q.done = false →
        b.length = 4 →
        be b 2 2 = 0 →
        ∃ t, exec (.queryNextRequest p f) s = .next t
          ∧ (be b 0 2 = q.chunk → t.nst.peers = [] ∨ (∃ x ∈ t.nst.peers, x.peer = q.peer ∧ x.chunk = q.chunk + 1))
          ∧ (be b 0 2 ≠ q.chunk → t.nst = s.nst)
          ∧ t.nst = { s.nst with peers := t.nst.peers }
          ∧ t.dir = s.dir ∧ t.dlv.kept = s.dlv.kept ∧ t = { s with
            regs := t.regs, lath := t.lath, hostLv := t.hostLv, flt := t.flt, nst := t.nst, dir := t.dir, sto := t.sto,
            hostZm := t.hostZm, lev := t.lev, fab := t.fab, dlv := t.dlv })

/-- R380: a PUBLISH for this device hands its updates to the remote entries, and a malformed one changes nothing. R332: a
unicast frame for another device leaves on the port of its route with HOPS one higher, or is counted in DROP.NOROUTE or
DROP.TTL. R357: a class-T frame that this device does not consume is held when it is reserved, and counted in T_DROP.UNRES
otherwise. R358, R26: a STREAM_REQ for this device makes an admission record; R360: a STREAM_REL releases the reservations of
its stream, and a STREAM_LOST ends a guarantee. -/
def Obligations.StreamsAndFramesPassThrough : Prop :=
  ∀ (s : State) (p : Nat) (f b : List Byte),
    p < 4 →
    s.coreOff = false →
    s.isUp p = true →
    frameOk f = true →
    frAuth f = false →
    frRetry f = false →
    s.myAddr ≠ 0 →
    isGroup s.myAddr = false →
    isGroup (frDst f) = false →
    b = frBody f →
    (frVc f = 1 →
        frKind f = 1 →
        frDst f = s.myAddr →
        s.freeBuf p 0 ≠ 0 →
        ∃ t, exec (.publishReceived p f) s = .next t
          ∧ t.get (fFportRxCount p) = (s.get (fFportRxCount p) + 1) % 2 ^ 32
          ∧ (byteAt b 0 = 0 ∨ 8 < byteAt b 0 ∨ b.length ≠ 2 + 8 * byteAt b 0 → t.dir = s.dir)
          ∧ (1 ≤ byteAt b 0 → byteAt b 0 ≤ 8 → b.length = 2 + 8 * byteAt b 0 → s.en 0x7D = true →
              t.dir = { s.dir with rx := t.dir.rx } ∧ s.dir.rx.length ≤ t.dir.rx.length ∧ t.dir.rx.length ≤ s.dir.rx.length + byteAt b 0
              ∧ ∀ u ∈ t.dir.rx.drop s.dir.rx.length, u.time = s.now ∧ u.hops = frHops f + 1 ∧ u.viaT = false)
          ∧ t = { s with regs := t.regs, dir := t.dir })
    ∧ (∀ (e h : Nat),
        1 ≤ frVc f →
        frVc f ≤ 4 →
        frKind f ∈ [2, 3, 4, 5, 9] →
        frDst f ≠ s.myAddr →
        frDst f ≠ 0 →
        s.freeBuf p (frVc f - 1) ≠ 0 →
        s.routeOf (frDst f) = some (e, h) →
        e < 4 →
        s.isUp e = true →
        ∃ t, exec (.frameForward p f) s = .next t
          ∧ (frHops f < 31 → (t.port_ e).q.map (fun x => (x.vc, x.src, x.bytes)) =
              (s.port_ e).q.map (fun x => (x.vc, x.src, x.bytes)) ++ [(frVc f, some p, putBytes f 1 [BitVec.ofNat 8 (frHops f + 1)])])
          ∧ (31 ≤ frHops f → t.fab = s.fab ∧ t.get fFabDropTtl = min 65535 (s.get fFabDropTtl + 1))
          ∧ (∀ c, c ≠ e → t.port_ c = s.port_ c) ∧ t = { s with regs := t.regs, fab := t.fab })
    ∧ (1 ≤ frVc f →
        frVc f ≤ 4 →
        frKind f ∈ [2, 3, 4, 5, 9] →
        frDst f ≠ s.myAddr →
        s.freeBuf p (frVc f - 1) ≠ 0 →
        s.routeOf (frDst f) = none →
        ∃ t, exec (.frameForward p f) s = .next t
          ∧ t.get fFabDropNoroute = min 65535 (s.get fFabDropNoroute + 1) ∧ t = { s with regs := t.regs })
    ∧ (∀ (c : Nat),
        frVc f = 0 →
        frKind f = 1 →
        frDst f ≠ s.myAddr →
        (s.port_ p).tWait.length < 4 →
        s.bit fLathStatFsync = true →
        c = (if s.now % 1000 ≤ 750 then s.now / 1000 else s.now / 1000 + 1) →
        ∃ t, exec (.tFrameReceived p f) s = .next t
          ∧ (s.tOwn f (c + 1) ≠ [] → (t.port_ p).tWait = (s.port_ p).tWait ++ [(s.now, f)])
          ∧ (s.tOwn f (c + 1) = [] → t.fab = s.fab ∧ t.get fPdirTDropUnres = min 65535 (s.get fPdirTDropUnres + 1))
          ∧ (∀ q, q ≠ p → t.port_ q = s.port_ q) ∧ t.dir = s.dir ∧ t = { s with regs := t.regs, fab := t.fab })
    ∧ (∀ (st n : Nat),
        frVc f = 1 →
        frKind f = 6 →
        frDst f = s.myAddr →
        s.freeBuf p 0 ≠ 0 →
        Map.look (fun _ => 0) s.dlv.last (frSrc f) ≤ frCtr f →
        st = be b 0 2 →
        n = be b 2 2 →
        b.length = 12 →
        1 ≤ st →
        st ≤ 1024 →
        be b 4 2 < n →
        byteAt b 7 = 0 →
        be b 8 2 = frDst f →
        be b 10 2 = 0 →
        ∃ t, exec (.streamReqReceived p f) s = .next t
          ∧ t.dlv.kept.getLast?.map (fun k => (k.src, k.tid, k.kind, byteAt k.payload 0)) = some (frSrc f, frTid f, 6, 0)
          ∧ t.lath = { s.lath with
              adm := s.lath.adm.filter (fun a => !(a.1 == frSrc f && a.2.1 == st)) ++ [(frSrc f, st, n, byteAt b 6, s.now)] }
          ∧ Map.look (fun _ => 0) t.dlv.last (frSrc f) = frCtr f + 1 ∧ t.dir = s.dir ∧ t = { s with
            regs := t.regs, lath := t.lath, hostLv := t.hostLv, flt := t.flt, nst := t.nst, dir := t.dir, sto := t.sto,
            hostZm := t.hostZm, lev := t.lev, fab := t.fab, dlv := t.dlv })
    ∧ (∀ (st : Nat),
        frVc f = 1 →
        frKind f = 7 →
        s.freeBuf p 0 ≠ 0 →
        Map.look (fun _ => 0) s.dlv.last (frSrc f) ≤ frCtr f →
        st = be b 0 2 →
        b.length = 4 →
        be b 2 2 = 0 →
        ∃ t, exec (.streamRelReceived p f) s = .next t
          ∧ t.dlv.resv = s.dlv.resv.filter (fun r => r.own || !(r.src == frSrc f && r.stream == st))
          ∧ t.lath = { s.lath with adm := s.lath.adm.filter (fun a => !(a.1 == frSrc f && a.2.1 == st)) }
          ∧ t.get fPdirTransitCount = (t.dlv.resv.filter (fun r => !r.own)).length % 2 ^ 12
          ∧ (frDst f = s.myAddr → t.dlv.kept.getLast?.map (fun k => (k.src, k.kind, byteAt k.payload 0)) = some (frSrc f, 7, 0))
          ∧ t.dir = s.dir ∧ t = { s with
            regs := t.regs, lath := t.lath, hostLv := t.hostLv, flt := t.flt, nst := t.nst, dir := t.dir, sto := t.sto,
            hostZm := t.hostZm, lev := t.lev, fab := t.fab, dlv := t.dlv })
    ∧ (∀ (i : Nat),
        frVc f = 1 →
        frKind f = 0xC →
        frDst f = s.myAddr →
        s.freeBuf p 0 ≠ 0 →
        be b 0 2 = i + 1 →
        ∃ t, exec (.streamLostReceived p f) s = .next t
          ∧ (bitAt (s.strmW i) 31 = true → (t.strm i).state = 3)
          ∧ (bitAt (s.strmW i) 31 = false → t.dlv = s.dlv)
          ∧ (∀ j, j ≠ i → t.strm j = s.strm j) ∧ t.dir = s.dir ∧ t = { s with
            regs := t.regs, lath := t.lath, hostLv := t.hostLv, flt := t.flt, nst := t.nst, dir := t.dir, sto := t.sto,
            hostZm := t.hostZm, lev := t.lev, fab := t.fab, dlv := t.dlv })

/-- R351: a response completes the transaction whose ID and ECHO it names, and no other; R350: an attempt that times out is
followed by the next one, and the fifth one gives up; R349: an ended ID waits for its quarantine. R360, R26, R378:
reservations, admission records and subscribers that are not refreshed end. R360, R379: streams and subscriptions are
refreshed. -/
def Obligations.TransactionsAndTheirTimers : Prop :=
  ∀ (s : State),
    (∀ (p : Nat) (f : List Byte) (x : Xfer),
        p < 4 →
        s.coreOff = false →
        s.isUp p = true →
        frameOk f = true →
        frAuth f = false →
        frVc f = 2 ∨ frVc f = 4 →
        s.myAddr ≠ 0 →
        frDst f = s.myAddr →
        isGroup s.myAddr = false →
        s.freeBuf p (frVc f - 1) ≠ 0 →
        s.dlv.waits = [] →
        s.dlv.opens = [x] →
        8 ≤ (frBody f).length →
        x.kind ≠ 6 →
        x.kind ≠ 9 →
        x.sess = 0 →
        ∃ t, exec (.responseReceived p f) s = .next t
          ∧ (x.tid = frTid f → x.vc + 1 = frVc f → x.kind = frKind f → be (frBody f) 0 6 ∈ x.ctrs →
              t.dlv.opens = [] ∧ Map.look (fun _ => none) t.dlv.freed x.tid = some s.now)
          ∧ (x.tid ≠ frTid f ∨ be (frBody f) 0 6 ∉ x.ctrs →
              t.dlv = s.dlv ∧ t.get fPdirLateDropCount = min (2 ^ 32 - 1) (s.get fPdirLateDropCount + 1))
          ∧ t.lath = s.lath ∧ t.hostLv = s.hostLv ∧ t = { s with
            regs := t.regs, lath := t.lath, hostLv := t.hostLv, flt := t.flt, nst := t.nst, dir := t.dir, sto := t.sto,
            hostZm := t.hostZm, lev := t.lev, fab := t.fab, dlv := t.dlv })
    ∧ (∀ (x : Xfer),
        s.coreOff = false →
        s.en 0x78 = true →
        s.dlv.opens = [x] →
        s.dlv.waits = [] →
        x.kind ≠ 6 →
        x.kind ≠ 9 →
        ∃ t, exec (.transactionTimeout x.tid) s = .next t
          ∧ t.now = max s.now (x.sent + xferT0 x * 2 ^ x.attempt)
          ∧ (x.attempt < 4 → t.dlv.opens.map (fun y => (y.tid, y.attempt, y.sent)) = [(x.tid, x.attempt + 1, t.now)]
              ∧ t.get fPdirXactRetries = min 65535 (s.get fPdirXactRetries + 1))
          ∧ (4 ≤ x.attempt → t.dlv.opens = [] ∧ t.get fPdirXactGiveup = min 65535 (s.get fPdirXactGiveup + 1)
              ∧ Map.look (fun _ => none) t.dlv.freed x.tid = some t.now)
          ∧ t.lath = s.lath ∧ t.dir = s.dir ∧ t = { s with now := t.now, regs := t.regs, flt := t.flt, sto := t.sto, lev := t.lev, fab := t.fab, dlv := t.dlv })
    ∧ (∀ (tid t0 : Nat),
        s.coreOff = false →
        s.en 0x78 = true →
        Map.look (fun _ => none) s.dlv.freed tid = some t0 →
        s.dlv.waits = [] →
        ∃ t, exec (.tidQuarantineEnd tid) s = .next t
          ∧ t.now = max s.now (t0 + 1000000 * s.get fPdirDlvCfgIdQuar)
          ∧ t.dlv = { s.dlv with freed := Map.put (fun _ => none) s.dlv.freed tid none } ∧ t = { s with now := t.now, regs := t.regs, flt := t.flt, sto := t.sto, lev := t.lev, fab := t.fab, dlv := t.dlv })
    ∧ (s.coreOff = false →
        s.en 0x78 = true →
        ∃ t, exec .streamRefresh s = .next t
          ∧ t.now = max s.now (s.dlv.refresh + 30000000) ∧ t.dlv.refresh = t.now
          ∧ (∀ i, bitAt (s.strmW i) 31 = false → t.strm i = s.strm i) ∧ t.dlv.run = s.dlv.run ∧ t.lath = s.lath ∧ t.dir = s.dir
          ∧ t = { s with now := t.now, regs := t.regs, flt := t.flt, sto := t.sto, lev := t.lev, fab := t.fab, dlv := t.dlv })
    ∧ (∀ (r : Resv),
        s.coreOff = false →
        s.en 0x78 = true →
        s.dlv.resv.filter (fun x => !x.own) = [r] →
        ∃ t, exec .transitReservationExpiry s = .next t
          ∧ t.now = max s.now (r.time + 120000000) ∧ t.dlv = { s.dlv with resv := s.dlv.resv.filter (fun x => x.own) }
          ∧ t.get fPdirTransitCount = 0 ∧ t = { s with now := t.now, regs := t.regs, dlv := t.dlv })
    ∧ (∀ (a : Nat × Nat × Nat × Nat × Nat),
        s.coreOff = false →
        s.en 0x78 = true →
        s.lath.adm = [a] →
        ∃ t, exec .admissionRecordExpiry s = .next t
          ∧ t.now = max s.now (a.2.2.2.2 + 120000000) ∧ t.lath = { s.lath with adm := [] } ∧ t = { s with now := t.now, lath := t.lath })
    ∧ (∀ (i src t0 : Nat),
        s.coreOff = false →
        s.en 0x78 = true →
        s.dir.subs = [(i, [(src, t0)])] →
        ∃ t, exec .subscriberExpiry s = .next t
          ∧ t.now = max s.now (t0 + 180000000) ∧ (∀ j, t.subList j = []) ∧ t.dir = { s.dir with subs := t.dir.subs }
          ∧ t.get fPdirSubCntUsed = 0 ∧ t = { s with now := t.now, regs := t.regs, dir := t.dir })
    ∧ (∀ (i t0 : Nat),
        s.coreOff = false →
        s.en 0x78 = true →
        s.en 0x7D = true →
        s.subscribing = [i] →
        Map.look (fun _ => none) s.dir.subSent i = some t0 →
        ∃ t, exec .subscribeRefresh s = .next t
          ∧ t.now = max s.now (t0 + 60000000) ∧ Map.look (fun _ => none) t.dir.subSent i = some t.now
          ∧ t.dlv.opens.length + t.dlv.waits.length = s.dlv.opens.length + s.dlv.waits.length + 1
          ∧ t.dir = { s.dir with subSent := t.dir.subSent } ∧ t = { s with
            now := t.now, regs := t.regs, flt := t.flt, dir := t.dir, sto := t.sto, lev := t.lev, fab := t.fab,
            dlv := t.dlv })

/-- R383, R401: a frame pushed word by word into the mailbox is taken up when it is whole, and its outcome is posted in
CMD_RES. R384, R385, R398, R399, R400: under LOCAL_TRUSTED an untagged frame is applied: a REG_WRITE writes its words,
STORE_GO and ACTIVATE carry their digests, PAGE_UNLOCK clears a LOCK, GRACE_SET sets the grace time, KEY_ERASE removes the key
and the bindings, IDENT changes nothing, and KEY_ROLL, SESSION_SET, SESSION_CLR and TRUST_SET wait for the run that stores
them. (`u` is the state before the last word is pushed; that KEY_ERASE is in force at acceptance is the model's choice, log
entry 54.) -/
def Obligations.HostCommandsWithoutATag : Prop :=
  ∀ (s : State) (f b : List Byte) (u : State),
    s.boot.coreRst = false →
    s.boot.cmdRst = none →
    s.notReady 0x80060 1 = false →
    s.gatedAt 0x80060 1 = false →
    s.lev.busy = false →
    s.lev.mbx = [] →
    Map.wf resetWord s.regs = true →
    s.authRequired = false →
    f.length = 32 + frLen f →
    b = frBody f →
    b.length ≤ 136 →
    hostHeaderOk f = true →
    frAuth f = false →
    u = (bytesWords (f ++ List.replicate ((4 - f.length % 4) % 4) 0#8)).dropLast.foldl (fun y x => y.hostXact (mailXact 0x80060 x)) s →
    (∀ (a : Nat) (ws : List Word) (r : Nat × Nat × State),
        cmdBody b = some (.regWrite a ws) →
        byteAt b 1 = u.cmdClass (some (.regWrite a ws)) →
        r = ({ u with lev := { u.lev with mbx := [] } }).writeTxn { cmd := true, sess := 0xFF } a ws false →
        r.2.2.boot.cmdRst = none →
        ∃ t, exec (.regWrite .mailbox f) s = .next t
          ∧ u = { s with regs := u.regs, port := u.port, lev := u.lev } ∧ s.OnlyWords u (fun a => a == rHostXactCnt)
          ∧ t.port.resp = 0 ∧ t.get fLeveeCmdResOp = 1 ∧ t.get fLeveeCmdResResult = (if r.1 = 0 then 0 else 1)
          ∧ t.get fLeveeCmdResCause = r.1 ∧ bitAt (t.word (rIrqStat 0x80)) 0 = true
          ∧ t = { r.2.2 with regs := t.regs, port := t.port, lev := t.lev }
          ∧ r.2.2.OnlyWords t (fun a => a == rHostXactCnt || a / 0x1000 == 0x80))
    ∧ (knownOp (cmdOp f) = false →
        ∃ t, exec (.regWrite .mailbox f) s = .next t
          ∧ t.port.resp = 0 ∧ t.get fLeveeCmdResResult = 5 ∧ t = { s with regs := t.regs, port := t.port, lev := t.lev })
    ∧ (∀ (addr n crc : Nat),
        cmdBody b = some (.storeGo addr n crc) →
        byteAt b 1 = 4 →
        ∃ t, exec (.storeGo .mailbox f) s = .next t
          ∧ t.port.resp = 0 ∧ t.get fLeveeCmdResOp = 2
          ∧ (addr ≠ s.get fStoreRunAddrAddr ∨ n ≠ s.get fStoreRunLenLen ∨ crc ≠ s.get fStoreRunCrcValue →
              t.sto = s.sto ∧ t.get fStoreLastRunResult = 8 ∧ bitsOf (t.word (rBlkErr 0x70)) 16 8 = 0x47 ∧ t.get fLeveeCmdResResult ≠ 0)
          ∧ (addr = s.get fStoreRunAddrAddr → n = s.get fStoreRunLenLen → crc = s.get fStoreRunCrcValue → addr + n ≤ 0x40000 →
              s.sto.cur = none → s.sto.served = true → n ≤ s.sto.buf.length →
              s.runBarred { src := .staged, addr := addr, bytes := s.sto.buf.take n } = false →
              t.get fLeveeCmdResResult = (if (s.sto.runId + 1) % 2 ^ 32 = s.sto.runId then 1 else 0) ∧ t.sto.cur.any (fun r => r.src == .staged && r.addr == addr) = true)
          ∧ t = { s with regs := t.regs, port := t.port, sto := t.sto, lev := t.lev })
    ∧ (∀ (i crc gen : Nat),
        cmdBody b = some (.activate i crc gen) →
        byteAt b 1 = 3 →
        ∃ t, exec (.activateOp .mailbox f) s = .next t
          ∧ t.port.resp = 0 ∧ t.get fLeveeCmdResOp = 3
          ∧ (s.nst.loading = true ∨ s.lath.act.isSome ∨ s.nst.recDue.isSome ∨ s.boot.first = false →
              t.lath = s.lath ∧ t.get fNstoreActResCause = 1 ∧ t.get fLeveeCmdResResult = 4)
          ∧ (s.nst.loading = false → s.lath.act = none → s.nst.recDue = none → s.boot.first = true → (imgU32 (s.slot i).img 12, (s.slot i).gen) ≠ (crc, gen) →
              t.lath = s.lath ∧ t.get fNstoreActResCause = 2 ∧ t.get fLeveeCmdResResult = 1)
          ∧ (s.nst.loading = false → s.lath.act = none → s.nst.recDue = none → s.boot.first = true → (imgU32 (s.slot i).img 12, (s.slot i).gen) = (crc, gen) →
              (∀ c k, s.imageCheck i = .error (c, k) → t.lath = s.lath ∧ t.get fNstoreActResCause = c % 16)
              ∧ (∀ ws, s.imageCheck i = .ok ws → t.get fLeveeCmdResResult = 0
                  ∧ t.lath = { s.lath with act := some { slot := i, writes := ws, sess := 0xFF } }))
          ∧ t.now = s.now ∧ t.uch = s.uch ∧ t.vis = s.vis ∧ t.eng = s.eng)
    ∧ (∀ (p : Nat),
        cmdBody b = some (.pageUnlock p) →
        byteAt b 1 = 3 →
        ∃ t, exec (.pageUnlock .mailbox f) s = .next t
          ∧ t.port.resp = 0 ∧ t.get fLeveeCmdResOp = 4
          ∧ ((blkOfPage p).isSome → t.locked p = false ∧ t.get fLeveeCmdResResult = 0)
          ∧ (blkOfPage p = none → t.get fLeveeCmdResResult = 1 ∧ t.get fLeveeCmdResCause = 5)
          ∧ (∀ q, q ≠ p → t.locked q = s.locked q) ∧ t = { s with regs := t.regs, port := t.port, lev := t.lev })
    ∧ (∀ (w : List Byte) (id : Nat) (k : Option (List Byte)),
        cmdBody b = some (.keyRoll w id) →
        byteAt b 1 = 6 →
        s.sto.closed = false →
        s.sto.cur = none →
        s.sto.served = true →
        k = s.lev.site.bind (fun c => keyUnwrap c w) →
        ∃ t, exec (.keyRoll .mailbox f) s = .next t
          ∧ t.port.resp = 0 ∧ t.lev.site = s.lev.site ∧ t.lev.prev = s.lev.prev ∧ t.lev.sess = s.lev.sess
          ∧ ((k.any (fun c => keyId c == id)) = false → t.sto = s.sto ∧ t.get fLeveeCmdResResult = 5 ∧ t.lev.busy = false)
          ∧ ((k.any (fun c => keyId c == id)) = true → t.lev.busy = true ∧ t.sto.cur.any (fun r => r.src == .levee && r.addr == 0x3A000) = true)
          ∧ t = { s with regs := t.regs, port := t.port, sto := t.sto, lev := t.lev })
    ∧ (∀ (i m v : Nat),
        cmdBody b = some (.sessionSet i m v) →
        byteAt b 1 = 6 →
        s.sto.closed = false →
        s.sto.cur = none →
        s.sto.served = true →
        ∃ t, exec (.sessionSet .mailbox f) s = .next t
          ∧ t.port.resp = 0 ∧ t.lev.busy = true ∧ t.lev.sess = s.lev.sess
          ∧ t.sto.cur.any (fun r => r.src == .levee && r.addr == 0x38000 + 0x20 * i && r.bytes.take 11 == leBytes 8 v ++ leBytes 2 m ++ [1#8]) = true
          ∧ t = { s with regs := t.regs, port := t.port, sto := t.sto, lev := t.lev })
    ∧ (∀ (i : Nat),
        cmdBody b = some (.sessionClr i) →
        byteAt b 1 = 6 →
        s.sto.closed = false →
        s.sto.cur = none →
        s.sto.served = true →
        ∃ t, exec (.sessionClr .mailbox f) s = .next t
          ∧ t.port.resp = 0 ∧ t.lev.busy = true ∧ t.lev.sess = s.lev.sess
          ∧ t.sto.cur.any (fun r => r.src == .levee && r.addr == 0x38000 + 0x20 * i && r.bytes.getD 10 1 == 0#8) = true
          ∧ t = { s with regs := t.regs, port := t.port, sto := t.sto, lev := t.lev })
    ∧ (∀ (m : Nat),
        cmdBody b = some (.trustSet m) →
        byteAt b 1 = 6 →
        s.sto.closed = false →
        s.sto.cur = none →
        s.sto.served = true →
        ∃ t, exec (.trustSet .mailbox f) s = .next t
          ∧ t.port.resp = 0 ∧ t.authRequired = false
          ∧ (s.lev.site = none → t.sto = s.sto ∧ t.get fLeveeCmdResResult = 5)
          ∧ (s.lev.site.isSome → t.lev.busy = true
              ∧ t.sto.cur.any (fun r => r.src == .control && r.addr == 0x30000 && r.bytes == controlBytes (s.get fStoreProtectBp) m) = true)
          ∧ t = { s with regs := t.regs, port := t.port, sto := t.sto, lev := t.lev })
    ∧ (cmdBody b = some .keyErase →
        byteAt b 1 = 6 →
        s.sto.closed = false →
        s.sto.cur = none →
        s.sto.served = true →
        ∃ t, exec (.keyErase .mailbox f) s = .next t
          ∧ t.port.resp = 0 ∧ t.get fLeveeCmdResResult = 0
          ∧ t.lev.site = none ∧ t.lev.prev = none ∧ (∀ i, i ≠ 255 → t.sess i = {}) ∧ t.bit fHostTrustSiteKey = false ∧ t.authRequired = false
          ∧ t.lev.devKey = s.lev.devKey ∧ t = { s with regs := t.regs, port := t.port, sto := t.sto, lev := t.lev })
    ∧ (∀ (n : Nat),
        cmdBody b = some (.graceSet n) →
        byteAt b 1 = 6 →
        ∃ t, exec (.graceSet .mailbox f) s = .next t
          ∧ t.port.resp = 0 ∧ t.get fLeveeCmdResResult = 0 ∧ t.get fLeveeCfgGrace = n
          ∧ t = { s with regs := t.regs, port := t.port, lev := t.lev })
    ∧ (∀ (c : List Byte),
        cmdBody b = some (.ident c) →
        byteAt b 1 = 0 →
        ∃ t, exec (.ident .mailbox f) s = .next t
          ∧ t.port.resp = 0 ∧ t.get fLeveeCmdResResult = 0 ∧ t.get fLeveeCmdResOp = 0x20
          ∧ t = { s with regs := t.regs, port := t.port, lev := { s.lev with busy := false } })

/-- R391: a tagged frame without a site key, of a session that is not bound to its sender, or of a quarantined one is refused
with its cause; a wrong tag is refused with TAG and counted, and the eighth in a row puts the session into quarantine (R394).
R400: an untagged frame of a peer is never applied as critical. A refused command is answered AUTH and changes no register
field, level, image or activation. An untagged routine command is carried out. -/
def Obligations.PeerCommandsPassTheChecks : Prop :=
  ∀ (s v : State) (p : Nat) (f b : List Byte) (c : Instr) (cls : Nat),
    p < 4 →
    s.coreOff = false →
    s.boot.cmdRst = none →
    s.isUp p = true →
    frameOk f = true →
    frVc f = 1 →
    frKind f = 8 →
    frDst f = s.myAddr →
    s.myAddr ≠ 0 →
    isGroup s.myAddr = false →
    s.freeBuf p 0 ≠ 0 →
    b = frBody f →
    v = s.bumpWrap (fFportRxCount p) →
    cls = v.cmdClass (cmdBody b) →
    c = (match cmdOp f with | 0x02 => .storeGo (.fabric p) f | 0x03 => .activateOp (.fabric p) f | 0x04 => .pageUnlock (.fabric p) f | 0x10 => .keyRoll (.fabric p) f | 0x11 => .sessionSet (.fabric p) f | 0x12 => .sessionClr (.fabric p) f | 0x13 => .trustSet (.fabric p) f | 0x14 => .keyErase (.fabric p) f | 0x15 => .graceSet (.fabric p) f | 0x20 => .ident (.fabric p) f | _ => .regWrite (.fabric p) f) →
    (frAuth f = false →
        cls ≠ 0 →
        ∃ t, exec c s = .next t
          ∧ t.dlv.cmds.getLast?.map (fun k => (k.src, k.tid, byteAt k.payload 0)) = some (frSrc f, frTid f, 3)
          ∧ t.lath = s.lath ∧ t.nst = s.nst ∧ t.hostLv = s.hostLv ∧ t.dir = s.dir ∧ t.boot = s.boot ∧ t.held = s.held
          ∧ t.lev.site = s.lev.site ∧ t.lev.sess = s.lev.sess)
    ∧ (∀ (r : Nat),
        frAuth f = true →
        r = (if s.lev.site = none then 5 else if (s.sess (frSess f)).bound = false ∨ frSess f = 255 ∨ s.fab.db.any (fun l => l.addr == frSrc f && l.uid == (s.sess (frSess f)).uid) = false then 7 else if (s.sess (frSess f)).quar.isSome then 4 else 0) →
        r ≠ 0 →
        ∃ t, exec c s = .next t
          ∧ t.dlv.cmds.getLast?.map (fun k => (k.src, k.tid, byteAt k.payload 0, byteAt k.payload 2)) = some (frSrc f, frTid f, 3, r)
          ∧ t.nst = { s.nst with aud := t.nst.aud, audSeq := s.nst.audSeq + 1 }
          ∧ t.nst.aud.getLast?.map (fun a => (a.kind, a.sess, a.code, a.src, a.ctr)) = some (2, frSess f, cls * 256 + r, frSrc f, frCtr f)
          ∧ t.get fLeveeCntTag = min 65535 (s.get fLeveeCntTag + 1)
          ∧ t.lath = s.lath ∧ t.hostLv = s.hostLv ∧ t.dir = s.dir ∧ t.boot = s.boot ∧ t.held = s.held
          ∧ t.lev.site = s.lev.site ∧ t.lev.sess = s.lev.sess)
    ∧ (∀ (k : List Byte) (x : Sess),
        frAuth f = true →
        s.lev.site = some k →
        s.lev.prev = none →
        x = s.sess (frSess f) →
        x.bound = true →
        frSess f ≠ 255 →
        s.fab.db.any (fun l => l.addr == frSrc f && l.uid == x.uid) = true →
        x.quar = none →
        ∃ t, exec c s = .next t
          ∧ (tagOf (s.sessKey k (frSess f)) f ≠ frTag f →
              t.dlv.cmds.getLast?.map (fun k => (k.src, k.tid, byteAt k.payload 0, byteAt k.payload 2)) = some (frSrc f, frTid f, 3, 1)
              ∧ t.lath = s.lath ∧ t.hostLv = s.hostLv ∧ t.dir = s.dir ∧ t.boot = s.boot ∧ t.held = s.held ∧ t.lev.site = s.lev.site
              ∧ (x.fails < 7 → t.sess (frSess f) = { x with fails := x.fails + 1 })
              ∧ (7 ≤ x.fails → t.sess (frSess f) = { x with fails := 8, quar := some (s.now + 60000000) } ∧ t.Raised 0xE001 (frSess f))
              ∧ (∀ i, i ≠ frSess f → t.sess i = s.sess i))
          ∧ (tagOf (s.sessKey k (frSess f)) f = frTag f → cls = 0 ∨ bitNat x.mask cls = true →
              match window { x with fails := 0 } (frCtr f) with
              | .accept y => t = (((v.setSess (frSess f) { x with fails := 0 }).setSess (frSess f) y).cmdAccepted (.fabric p) f).takeCmdReset
              | .refuse r => t.dlv.cmds.getLast?.map (fun k => (k.src, byteAt k.payload 0, byteAt k.payload 2)) = some (frSrc f, 3, levCause r)
                  ∧ t.lath = s.lath ∧ t.hostLv = s.hostLv ∧ t.dir = s.dir ∧ t.boot = s.boot ∧ t.held = s.held
              | .floor _ => t.lath = s.lath ∧ t.hostLv = s.hostLv ∧ t.dir = s.dir ∧ t.boot = s.boot ∧ t.held = s.held))
    ∧ (∀ (d : List Byte),
        frAuth f = false →
        frRetry f = false →
        Map.look (fun _ => 0) s.dlv.last (frSrc f) ≤ frCtr f →
        cmdBody b = some (.ident d) →
        byteAt b 1 = 0 →
        ∃ t, exec c s = .next t
          ∧ c = .ident (.fabric p) f
          ∧ t.dlv.cmds.getLast?.map (fun k => (k.src, k.tid, byteAt k.payload 0, byteAt k.payload 2)) = some (frSrc f, frTid f, 0, 0)
          ∧ Map.look (fun _ => 0) t.dlv.last (frSrc f) = frCtr f + 1
          ∧ t.lath = s.lath ∧ t.nst = s.nst ∧ t.hostLv = s.hostLv ∧ t.dir = s.dir ∧ t.boot = s.boot ∧ t.held = s.held)

/-- R393: when the run of a floor ends the waiting frame is applied over its moved window, or discarded unapplied when the run
was refused. R394, R398: a quarantine and the grace time end at their instants. R397: PROVISION takes the key of KEY_IN when
it is permitted, and clears KEY_IN in every case; otherwise it is refused with NOT_PERMITTED. R390, R403: SESS_CFG starts the
run of its session's record, and is refused for session 255; the binding takes effect when its run completes. R401: DISCARD
empties the mailbox. -/
def Obligations.KeysSessionsAndTheirTimers : Prop :=
  ∀ (s : State),
    (∀ (tag i k : Nat) (ok : Bool) (f : List Byte) (x : Sess) (v : State),
        s.coreOff = false →
        s.sto.ended = [(.levee, tag, ok)] →
        Map.look (fun _ => none) s.lev.runs tag = some (.floor i k .mailbox f) →
        x = { s.sess i with b := max k (s.sess i).b } →
        x.sync = false ∨ x.hi < frCtr f →
        v = ((s.updSto (fun t => { t with ended := [] })).updLev (fun l => { l with busy := false, runs := Map.put (fun _ => none) l.runs tag none })).setSess i (windowFloor x (frCtr f) x.b) →
        ∃ t, exec .sessionRecordCommitted s = .next t
          ∧ (ok = true → t = (v.cmdAccepted .mailbox f).takeCmdReset)
          ∧ (ok = false → s.boot.cmdRst = none → t.lev = { v.lev with sess := s.lev.sess } ∧ t = { s with sto := { s.sto with ended := [] }, lev := t.lev }))
    ∧ (∀ (i t0 : Nat),
        s.coreOff = false →
        (s.sess i).quar = some t0 →
        ∃ t, exec (.quarantineEnd i) s = .next t
          ∧ t.now = max s.now t0 ∧ t.sess i = { s.sess i with quar := none, fails := 0 } ∧ (∀ j, j ≠ i → t.sess j = s.sess j)
          ∧ bitAt (t.word (rIrqStat 0x80)) 2 = true ∧ t.lev.site = s.lev.site ∧ t = { s with now := t.now, regs := t.regs, flt := t.flt, lev := t.lev })
    ∧ (∀ (q : List Byte × Nat),
        s.coreOff = false →
        s.lev.prev = some q →
        ∃ t, exec .graceExpiry s = .next t
          ∧ t.now = max s.now q.2 ∧ t.lev = { s.lev with prev := none } ∧ t.bit fLeveeStatGrace = false ∧ t = { s with now := t.now, regs := t.regs, lev := t.lev })
    ∧ (∀ (key : List Byte),
        s.HostOpen rLeveeKeyCmd 1#32 →
        s.locked 0x80 = false →
        key = beBytes 16 ((s.lev.keyIn.mapIdx (fun i w => w.toNat * 2 ^ (32 * i))).foldl (· + ·) 0) →
        s.sto.closed = false →
        s.sto.cur = none →
        s.sto.served = true →
        ∃ t, exec .keyProvision s = .next t
          ∧ t.port.resp = 0 ∧ t.lev.keyIn = [0, 0, 0, 0]
          ∧ (s.lev.site.isSome ∨ s.bit fSysStrapsServiceN = true ∨ s.bit fStoreStatusIdMismatch = true →
              t.lev.site = s.lev.site ∧ t.sto = s.sto ∧ bitsOf (t.word (rBlkErr 0x80)) 16 8 = 0x40)
          ∧ (s.lev.site = none → s.bit fSysStrapsServiceN = false → s.bit fStoreStatusIdMismatch = false →
              t.lev.site = some key ∧ t.bit fHostTrustSiteKey = true ∧ t.sto.cur.any (fun r => r.src == .levee && r.addr == 0x3A000) = true
              ∧ (s.controlMode = 0xFF → t.sto.queue.any (fun r => r.src == .control && r.bytes.getD 1 0 == 1#8) = true ∨ 4 ≤ s.sto.queue.length))
          ∧ t = { s with regs := t.regs, port := t.port, sto := t.sto, lev := t.lev })
    ∧ (∀ (w : Word) (i : Nat),
        s.HostOpen rLeveeSessCfg w →
        s.locked 0x80 = false →
        i = s.get fLeveeSessSelSession →
        s.sto.closed = false →
        s.sto.cur = none →
        s.sto.served = true →
        ∃ t, exec (.sessionBind w) s = .next t
          ∧ t.port.resp = 0 ∧ t.lev.sess = s.lev.sess
          ∧ (i = 255 → t.sto = s.sto ∧ bitsOf (t.word (rBlkErr 0x80)) 16 8 = 0x41)
          ∧ (i ≠ 255 → t.sto.cur.any (fun r => r.src == .levee && r.addr == 0x38000 + 0x20 * i && r.bytes.getD 10 0 == (if bitAt w 31 then 1#8 else 0#8)) = true
              ∧ (t.lev.runs.any (fun e => match e.2 with | some (.bind j on _ _ none _) => j == i && on == bitAt w 31 | _ => false)) = true)
          ∧ t = { s with regs := t.regs, port := t.port, sto := t.sto, lev := t.lev })
    ∧ (∀ (r : Run) (i uid mask : Nat) (on : Bool),
        s.sto.cur = some r →
        r.src = .levee →
        r.total = r.done + 1 →
        s.sto.stop = none →
        s.sto.queue = [] →
        s.sto.ended = [] →
        Map.look (fun _ => none) s.lev.runs r.tag = some (.bind i on uid mask none []) →
        ∃ t, exec (.pageProgrammed true) s = .next t
          ∧ t.sess i = { bound := on, uid := uid, mask := mask, b := (s.sess i).b } ∧ (∀ j, j ≠ i → t.sess j = s.sess j)
          ∧ t.lev.site = s.lev.site ∧ t.sto.cur = none ∧ t.now = s.now)
    ∧ (s.HostOpen rLeveeCmdCtrl 1#32 →
        ∃ t, exec .leveeDiscard s = .next t
          ∧ t.port.resp = 0 ∧ t.lev = { s.lev with mbx := [] } ∧ t = { s with regs := t.regs, port := t.port, lev := t.lev })

/-- R408: processing a raise takes a record, sets IRQ_CAUSE of the block and FAULT of the page, audits it, and for a CRITICAL
fault stages the device-wide failsafe; processing a clear frees the record and audits it. R412: an ordinary queue that stays
full for a lath period raises FAULT_OVERFLOW. R416, R417, R418: an uncorrectable error, and a request processed for more than
1 ms, trip the failsafe path, which writes level 0 of every output at once. R413, R414: CTRL.CLR and ten seconds below 125 °C
stage the releases. -/
def Obligations.FaultsAreProcessedAndReleased : Prop :=
  ∀ (s : State),
    (∀ (q : FReq) (t0 : Nat) (b : Blk),
        s.coreOff = false →
        s.flt.stopped = false →
        s.flt.proc = some (q, t0) →
        s.flt.susp = none →
        s.flt.flags = [] →
        s.flt.ordQ = [] →
        s.flt.critQ = [] →
        s.flt.active.any (fun r => r.code == 0x10) = false →
        s.flt.active.length < 128 →
        s.bit fFaultAlmCfgEn = false →
        q.clear = false →
        q.code < 0x10000 →
        q.code ≠ 0x10 →
        blkOfPage (srcPage q.code q.inst) = some b →
        ∃ t, exec .faultProcessingDone s = .next t
          ∧ t.requests = [] ∧ t.now = s.now
          ∧ t.flt.active.map (fun r => (r.code, r.inst, r.cls, r.rep, r.time)) =
              s.flt.active.map (fun r => (r.code, r.inst, r.cls, r.rep, r.time)) ++ [(q.code, q.inst, q.cls, q.rep, s.now)]
          ∧ t.nst.aud.getLast?.map (fun a => (a.kind, a.code, a.detail)) = some (3, q.code, q.rep)
          ∧ t.bit (fBlkFault (srcPage q.code q.inst)) = true
          ∧ t.bit (fFaultIrqCauseValid b.sumBit) = true ∧ t.get (fFaultIrqCauseCode b.sumBit) = q.code
          ∧ bitAt (t.word (rIrqStat 0x88)) 0 = true
          ∧ (q.cls = .minor → t.flt.staged = s.flt.staged)
          ∧ (q.cls = .critical → t.bit fFaultStatDevFs = true ∧ bitAt (t.word (rIrqStat 0x88)) 2 = true
              ∧ ∀ n, n < 96 → s.isOutput n = true → ({ out := n, owner := .devFs, set := true, time := s.now } : L0Write) ∈ t.flt.staged)
          ∧ t.l0 = s.l0 ∧ t.uch = s.uch ∧ t.lv = s.lv ∧ t = { s with regs := t.regs, flt := t.flt, nst := t.nst, sto := t.sto, lev := t.lev, fab := t.fab, dlv := t.dlv })
    ∧ (∀ (q : FReq) (t0 : Nat),
        s.coreOff = false →
        s.flt.stopped = false →
        s.flt.proc = some (q, t0) →
        s.flt.susp = none →
        s.flt.flags = [] →
        s.flt.ordQ = [] →
        s.flt.critQ = [] →
        s.flt.active.any (fun r => r.code == 0x10) = false →
        s.bit fFaultAlmCfgEn = false →
        q.clear = true →
        q.code < 0x10000 →
        ∃ t, exec .faultProcessingDone s = .next t
          ∧ t.requests = [] ∧ t.now = s.now
          ∧ t.flt.active = s.flt.active.filter (fun r => !(r.code == q.code && r.inst == q.inst))
          ∧ t.nst.aud.getLast?.map (fun a => (a.kind, a.code)) = some (4, q.code)
          ∧ (s.flt.active.all (fun r => r.code == q.code && r.inst == q.inst) = true → t.bit (fBlkFault (srcPage q.code q.inst)) = false)
          ∧ bitAt (t.word (rIrqStat 0x88)) 1 = true
          ∧ t.l0 = s.l0 ∧ t.uch = s.uch ∧ t.lv = s.lv ∧ t = { s with regs := t.regs, flt := t.flt, nst := t.nst, sto := t.sto, lev := t.lev, fab := t.fab, dlv := t.dlv })
    ∧ (∀ (t0 : Nat),
        s.coreOff = false →
        s.flt.fullSince = some t0 →
        ∃ t, exec .queueOverflow s = .next t
          ∧ t.now = max s.now (t0 + s.lathPeriod) ∧ t.Raised 0x10 0 ∧ bitAt (t.word (rIrqStat 0x88)) 3 = true ∧ t = { s with now := t.now, regs := t.regs, flt := t.flt })
    ∧ (∀ (c : Instr) (trig t0 : Nat) (q : FReq),
        s.coreOff = false →
        s.flt.stopped = false →
        (c = .fmWatchdog ∧ trig = 6 ∧ s.flt.proc = some (q, t0)) ∨ (c = .fmStateError ∧ trig = 5 ∧ t0 = 0) →
        ∃ t, exec c s = .next t
          ∧ t.now = (if trig = 6 then max s.now (t0 + 1000) else s.now)
          ∧ t.flt.stopped = true ∧ t.get (fBlkState 0x88) = 2 ∧ t.get fFaultFsStatTrig = trig ∧ t.bit fFaultFsStatActive = true
          ∧ (∀ n, n < 96 → s.isOutput n = true → t.holdsL0 n .path = true)
          ∧ t.lath = { s.lath with resetAtEdge := if s.bit fFaultCtrlCritPolicy then some 8 else s.lath.resetAtEdge }
          ∧ t = { s with now := t.now, regs := t.regs, lath := t.lath, uch := t.uch, l0 := t.l0, flt := t.flt })
    ∧ (∀ (w : Word),
        w = s.word rFaultCtrl ||| 1#32 →
        s.HostOpen rFaultCtrl w →
        s.locked 0x88 = false →
        ∃ t, exec .faultClr s = .next t
          ∧ t.port.resp = 0
          ∧ (s.flt.active.any (fun r => decide (r.cls = FClass.critical)) = true ∨ s.flt.stopped = true ∨ s.bit fFaultStatDevFs = false →
              t.flt = s.flt ∧ t.bit fFaultStatDevFs = s.bit fFaultStatDevFs)
          ∧ (s.flt.active.any (fun r => decide (r.cls = FClass.critical)) = false → s.flt.stopped = false → s.bit fFaultStatDevFs = true →
              t.bit fFaultStatDevFs = false ∧ t.bit fFaultFsStatActive = false
              ∧ (∀ n, n < 96 → s.holdsL0 n .devFs = true → ({ out := n, owner := .devFs, set := false, time := s.now } : L0Write) ∈ t.flt.staged)
              ∧ (∀ n, n < 96 → s.holdsL0 n .path = true → ({ out := n, owner := .path, set := false, time := s.now } : L0Write) ∈ t.flt.staged))
          ∧ t = { s with regs := t.regs, flt := t.flt, port := t.port })
    ∧ (∀ (corr : Nat) (uncorr : Option Nat),
        s.coreOff = false →
        uncorr.all (fun i => i < 1048576) = true →
        ∃ t, exec (.sramScrub corr uncorr) s = .next t
          ∧ t.get fFaultEccCorr = min 65535 (s.get fFaultEccCorr + corr)
          ∧ (uncorr = none → t = { s with regs := t.regs })
          ∧ (∀ i, uncorr = some i → t.get fFaultEccAddrIndex = i ∧ t.bit fFaultEccAddrValid = true ∧ t.bit fSysNmeStatSramUncorr = true
              ∧ t.get fFaultFsStatTrig = 4 ∧ t.Raised 5 0 ∧ ∀ n, n < 96 → s.isOutput n = true → t.holdsL0 n .path = true)
          ∧ t.now = s.now ∧ t = { s with regs := t.regs, uch := t.uch, l0 := t.l0, flt := t.flt })
    ∧ (∀ (t0 : Nat),
        s.coreOff = false →
        s.flt.tjHeld = true →
        s.flt.tjBelow = some t0 →
        ∃ t, exec .tjCritClear s = .next t
          ∧ t.now = max s.now (t0 + 10000000) ∧ t.flt.tjHeld = false ∧ t.bit fFaultFsStatActive = false
          ∧ (∀ n, n < 96 → s.holdsL0 n .path = true → ({ out := n, owner := .path, set := false, time := t.now } : L0Write) ∈ t.flt.staged)
          ∧ t = { s with now := t.now, regs := t.regs, flt := t.flt })

/-- R414, R450: the power-fail warning trips the failsafe path at once, raises PFW and closes the store to engine runs. R446:
dips are counted, and VFIELD_LOW and VFIELD_HIGH are raised. R451, R449, R415: brown-out and a low core rail reset the device
with cause 0x2, and RST_INFO tells which; a PFW that passes resets it after 100 ms. R458: a restore raises the channel stepped
last. -/
def Obligations.SupplyEventsAct : Prop :=
  ∀ (s : State),
    (s.coreOff = false →
        s.bit fPwrStatPfw = false →
        ∃ t, exec .pfw s = .next t
          ∧ t.bit fPwrStatPfw = true ∧ t.pwr.pfwAt = some s.now ∧ t.bit fSysNmeStatPfw = true ∧ t.get fFaultFsStatTrig = 2
          ∧ t.Raised 2 0 ∧ (∀ n, n < 96 → s.isOutput n = true → t.holdsL0 n .path = true)
          ∧ t.sto.closed = true ∧ t.sto.queue = [] ∧ t.sto.pfw = true ∧ t.now = s.now ∧ t = { s with regs := t.regs, uch := t.uch, l0 := t.l0, flt := t.flt, sto := t.sto, epd := t.epd, pwr := t.pwr })
    ∧ (s.coreOff = false →
        ∃ t, exec .vfieldDip s = .next t
          ∧ t.get fPwrDipCntCount = min 65535 (s.get fPwrDipCntCount + 1) ∧ bitAt (t.word (rIrqStat 1)) 4 = true
          ∧ t = { s with regs := t.regs })
    ∧ (s.coreOff = false →
        ∃ t, exec .brownOut s = .next t
          ∧ t.pwr.bor = true ∧ t.bit fPwrStatPfw = true ∧ t.bit fPwrRstInfoVfieldBor = true ∧ t.bit fPwrRstInfoCoreUv = false
          ∧ (∀ n, n < 96 → (t.chan n).started = false ∧ (t.chan n).lswOn = false ∧ (t.chan n).fltDir = 0)
          ∧ t.now = s.now ∧ t = { s with regs := t.regs, uch := t.uch, l0 := t.l0, flt := t.flt, sto := t.sto, epd := t.epd, pwr := t.pwr })
    ∧ (s.pwr.bor = true →
        s.boot.coreRst = false →
        s.boot.rst = none →
        ∃ t, exec .brownOutCoreReset s = .next t
          ∧ t.boot.rst = some 2 ∧ t.boot.coreRst = true ∧ t.get fSysRstCauseCause = 2 ∧ t.uch = [] ∧ t.flt = {} ∧ t.uid = s.uid
          ∧ t.get fPwrRstInfoVfieldBor = s.get fPwrRstInfoVfieldBor)
    ∧ (∀ (t0 : Nat),
        s.coreOff = false →
        s.pwr.pfwAt = some t0 →
        s.pwr.bor = false →
        s.boot.rst = none →
        ∃ t, exec .pfwRecoveryReset s = .next t
          ∧ t.boot.rst = some 2 ∧ t.boot.coreRst = true ∧ t.get fSysRstCauseCause = 2 ∧ t.uch = [] ∧ t.pwr.pfwAt = none)
    ∧ (s.boot.coreRst = false →
        s.boot.rst = none →
        ∃ t, exec .coreUndervoltage s = .next t
          ∧ t.boot.rst = some 2 ∧ t.get fSysRstCauseCause = 2 ∧ t.bit fPwrRstInfoCoreUv = true ∧ t.bit fPwrRstInfoVfieldBor = false
          ∧ t.uch = [])
    ∧ (∀ (hi : Bool) (b code : Nat),
        b = (if hi then 1 else 0) →
        code = (if hi then 0x1004 else 0x1003) →
        s.coreOff = false →
        ∃ t, exec (if hi then .vfieldHigh else .vfieldLow) s = .next t
          ∧ t.bit (railBit b) = true
          ∧ (s.bit (railBit b) = true → t = s)
          ∧ (s.bit (railBit b) = false → t.Raised code 0 ∧ bitAt (t.word (rIrqStat 1)) 3 = true)
          ∧ t = { s with regs := t.regs, flt := t.flt })
    ∧ (∀ (n old sv t0 : Nat),
        s.coreOff = false →
        s.pwr.stepped.getLast? = some (n, old, sv) →
        s.pwr.okSince = some t0 →
        ∃ t, exec .shedRestore s = .next t
          ∧ t.now = max s.now (t0 + 1000000 * s.get fPwrCfgRestoreT) ∧ (t.chan n).step = old ∧ t.pwr.stepped = s.pwr.stepped.dropLast
          ∧ t.pwr.okSince = some t.now ∧ s.OtherChans t n ∧ t = { s with now := t.now, regs := t.regs, uch := t.uch, flt := t.flt, pwr := t.pwr })

/-- R446, R479: the power-on reset is released as VFIELD rises, and a device that ran has lost its supply; a brown-out reset
is released when its supply is back. R479: RST_N low for 2 µs resets with cause 0x3, for less than 0.5 µs it does nothing, and
between them it does one or the other; its rise releases its reset, and an internal reset is released after 100 µs. R487:
after a warm reset TIMEBASE resumes within 31 µs. R477, R478: at a reset no channel is in use and the device keeps its
identity. -/
def Obligations.ResetsAreAssertedAndReleased : Prop :=
  ∀ (s : State),
    (∀ (v : Bool),
        s.boot.rst = none ∨ s.boot.heldBy = 1 ∧ s.boot.coreRst = true →
        ∃ t, exec (.powerOnReset v) s = .next t
          ∧ t.boot.rst = none ∧ t.boot.coreRst = true ∧ t.clk.hrcQual = false ∧ t.clk.tries = 0 ∧ t.pwr.coreSrc = v
          ∧ t.bit fSysStrapsCoreSrc = v ∧ t.bit fPwrStatExtCore = v ∧ (v = false → t.get fPwrStatOpMax = 3)
          ∧ (s.boot.rst = none → t.get fSysRstCauseCause = 1 ∧ t.uch = [] ∧ t.now = 0 ∧ t.boot.cold = true)
          ∧ t.uid = s.uid ∧ t.lev.devKey = s.lev.devKey ∧ t.pending = s.pending)
    ∧ (∀ (v : Bool),
        s.boot.rst.isSome →
        ∃ t, exec (.brownOutRelease v) s = .next t
          ∧ (s.boot.heldBy = 2 → t.boot.rst = none ∧ t.pwr.coreSrc = v ∧ t.clk.hrcQual = false)
          ∧ (s.boot.heldBy ≠ 2 → t = s)
          ∧ t.boot.coreRst = s.boot.coreRst ∧ t.now = s.now ∧ t = { s with regs := t.regs, boot := t.boot, pwr := t.pwr, clk := t.clk, fresh := t.fresh })
    ∧ (∀ (ns : Nat),
        s.boot.rst = none →
        s.boot.first = true →
        ∃ t, exec (.rstNAssert ns) s = .next t
          ∧ (ns < 500 → t = s)
          ∧ (2000 ≤ ns → t.boot.rst = some 3 ∧ t.boot.rstN = true ∧ t.boot.coreRst = true ∧ t.get fSysRstCauseCause = 3 ∧ t.uch = []
              ∧ t.now = s.now ∧ t.boot.cold = false)
          ∧ (500 ≤ ns → ns < 2000 → (t.boot.rst = some 3 ∧ t.uch = []) ∨ t = { s with fresh := t.fresh }))
    ∧ (∀ (v w : Bool),
        s.boot.rstN = true →
        ∃ t, exec (.rstNRelease v w) s = .next t
          ∧ t.boot.rstN = false
          ∧ (s.boot.rst.isSome → s.boot.heldBy = 3 → t.boot.rst = none ∧ t.clk.hrcQual = false)
          ∧ (s.boot.rst.isSome → s.boot.heldBy ≠ 3 → t = { s with boot := { s.boot with rstN := false } })
          ∧ (s.boot.rst = none → s.boot.coreRst = true → s.bit fClkStatLock = true → s.boot.lowCore = false →
              t.boot.coreRst = false ∧ t.bit fSysStrapsServiceN = v ∧ t.bit fSysStrapsBootSafeN = w)
          ∧ (s.boot.rst = none → s.boot.coreRst = false ∨ s.bit fClkStatLock = false → t = { s with boot := { s.boot with rstN := false } }))
    ∧ (s.boot.rst.isSome →
        4 ≤ s.boot.heldBy →
        s.boot.heldBy ≤ 8 →
        s.boot.cold = false →
        ∃ t, exec .resetRelease s = .next t
          ∧ t.boot.rst = none ∧ t.boot.coreRst = s.boot.coreRst ∧ t.clk.hrcQual = false ∧ t.clk.counts = true
          ∧ max s.now (s.boot.rstAt + 100) ≤ t.now + 31 ∧ t.now ≤ max s.now (s.boot.rstAt + 100) + 31
          ∧ t.regs = s.regs ∧ t = { s with now := t.now, regs := t.regs, boot := t.boot, pwr := t.pwr, clk := t.clk, fresh := t.fresh })

/-- R472, R473: a trip makes its source unqualified; under NATIVE it raises CLKFAIL and the PLL moves to the other reference,
under COAST a PLL on MOSC coasts with every port DOWN. R464, R484: the first lock after a reset releases the core. R470, R474:
HRC, MOSC and LXO qualify; the ninth failure of HRC leads to SAFE_ROSC unless the PLL runs on MOSC. R472, R476: RETURN is
refused without a qualified target. R465, R475: trim steps follow the deviation, within ±300, and INC follows MOSC outside
fabric time. -/
def Obligations.ClocksQualifyTripAndReturn : Prop :=
  ∀ (s : State),
    (s.coreOff = false →
        ∃ t, exec .moscTrip s = .next t
          ∧ (s.bit fClkStatMoscOk = false ∨ s.clk.hrcQual = false → t = s)
          ∧ (s.bit fClkStatMoscOk = true → s.clk.hrcQual = true →
              t.bit fClkStatMoscOk = false ∧ t.clk.moscTrip = true ∧ bitAt (t.word (rIrqStat 2)) 1 = true
              ∧ (s.bit fClkCtrlMonMode = false → t.bit fSysNmeStatClkfail = true ∧ t.Raised 1 0
                  ∧ (s.get fClkStatRef = 0 → t.get fClkStatRef = 1 ∧ t.bit fClkStatLock = true) ∧ t.bit fClkStatCoast = s.bit fClkStatCoast)
              ∧ (s.bit fClkCtrlMonMode = true → s.get fClkStatRef = 0 → s.bit fClkStatCoast = false →
                  t.bit fClkStatCoast = true ∧ t.get fClkStatRef = 2 ∧ t.Raised 0xF001 0 ∧ ∀ p < 4, t.pstate p = 0 ∨ t.pstate p = 6))
          ∧ t.now = s.now ∧ t.lath = { s.lath with adm := t.lath.adm } ∧ t.uch = s.uch ∧ t = { s with regs := t.regs, flt := t.flt, sto := t.sto, clk := t.clk, lev := t.lev, fab := t.fab, dlv := t.dlv })
    ∧ (s.coreOff = false →
        s.bit fClkStatLxoOk = true →
        s.clk.hrcQual = true →
        ∃ t, exec .lxoTrip s = .next t
          ∧ t.bit fClkStatLxoOk = false ∧ t.bit fClkStatAonSrc = true ∧ t.clk = { s.clk with lxoTrip := true }
          ∧ (s.bit fClkCtrlMonMode = false → t.bit fSysNmeStatClkfail = true ∧ t.Raised 1 0)
          ∧ bitAt (t.word (rIrqStat 2)) 2 = true ∧ t = { s with regs := t.regs, flt := t.flt, clk := t.clk })
    ∧ (s.coreOff = false →
        s.bit fClkStatHrcOk = true →
        ∃ t, exec .hrcTrip s = .next t
          ∧ t.bit fClkStatHrcOk = false
          ∧ t.clk = { s.clk with hrcTrip := true, hrcQual := false, tries := 0, requal := true, noFall := none }
          ∧ (s.bit fClkCtrlMonMode = false → t.bit fSysNmeStatClkfail = true ∧ t.Raised 1 0)
          ∧ (s.get fClkStatRef = 1 → t.bit fClkStatLock = s.bit fClkStatMoscOk ∧ (s.bit fClkStatMoscOk = true → t.get fClkStatRef = 0))
          ∧ (s.get fClkStatRef ≠ 1 → t.get fClkStatRef = s.get fClkStatRef ∧ t.bit fClkStatLock = s.bit fClkStatLock)
          ∧ t = { s with regs := t.regs, flt := t.flt, clk := t.clk })
    ∧ (s.boot.rst = none →
        ∃ t, exec .pllLockLoss s = .next t
          ∧ (s.bit fClkStatLock = true → s.bit fClkStatCoast = false → t.bit fClkStatLock = false ∧ bitAt (t.word (rIrqStat 2)) 0 = true)
          ∧ (s.bit fClkStatLock = false ∨ s.bit fClkStatCoast = true → t = s) ∧ t = { s with regs := t.regs })
    ∧ (∀ (v w : Bool),
        s.boot.rst = none →
        s.bit fClkStatSafeRosc = false →
        s.bit fClkStatLock = false →
        s.bit fClkStatMoscOk = true →
        ∃ t, exec (.pllLocked v w) s = .next t
          ∧ t.bit fClkStatLock = true ∧ t.get fClkStatRef = 0
          ∧ t.boot.coreRst = (s.boot.coreRst && (s.boot.rstN || s.boot.lowCore))
          ∧ (s.boot.coreRst = true → s.boot.rstN = false → s.boot.lowCore = false →
              t.boot.locked = true ∧ t.bit fSysStrapsServiceN = v ∧ t.bit fSysStrapsBootSafeN = w)
          ∧ (s.boot.coreRst = false → t = { s with regs := t.regs }))
    ∧ (∀ (src : Nat),
        s.boot.rst = none →
        s.clk.hrcQual = true →
        s.bit fClkStatSafeRosc = false →
        (src = 0 ∧ s.bit fClkStatMoscOk = false ∧ s.boot.locked = true) ∨ (src = 1 ∧ s.bit fClkStatLxoOk = false) →
        ∃ t, exec (.sourceRequalified src) s = .next t
          ∧ (src = 0 → t.bit fClkStatMoscOk = true ∧ t.clk = { s.clk with moscTrip := false, startHrc := false } ∧ t.bit fClkStatCoast = false)
          ∧ (src = 1 → t.bit fClkStatLxoOk = true ∧ t.clk = { s.clk with lxoTrip := false })
          ∧ t = { s with regs := t.regs, flt := t.flt, clk := t.clk })
    ∧ (∀ (w : Word),
        w = s.word rClkCtrl ||| 8#32 →
        s.HostOpen rClkCtrl w →
        s.locked 2 = false →
        ∃ t, exec .clockReturn s = .next t
          ∧ t.port.resp = 0
          ∧ (s.bit fClkStatMoscOk = false → (s.bit fClkStatCoast = true → s.bit fClkStatHrcOk = false) →
              bitsOf (t.word (rBlkErr 2)) 16 8 = 0x40 ∧ t.word rClkStat = s.word rClkStat)
          ∧ (s.bit fClkStatMoscOk = true → t.bit fClkStatCoast = false ∧ t.get fClkStatRef = 0
              ∧ (s.get fClkStatRef ≠ 0 → t.bit fClkStatLock = true))
          ∧ t.clk = s.clk ∧ t = { s with regs := t.regs, flt := t.flt, port := t.port })
    ∧ (s.boot.rst = none →
        s.clk.hrcQual = false →
        s.bit fClkStatSafeRosc = false →
        ∃ t, exec (.hrcQualAttempt true) s = .next t
          ∧ t.bit fClkStatHrcOk = true ∧ t.clk.hrcQual = true ∧ t.clk.hrcTrip = false ∧ t.clk.counts = true ∧ t.clk.tries = 0
          ∧ t.get fClkStatTbSrc = 0 ∧ t = { s with regs := t.regs, flt := t.flt, clk := t.clk })
    ∧ (s.boot.rst = none →
        s.clk.hrcQual = false →
        s.bit fClkStatSafeRosc = false →
        ∃ t, exec (.hrcQualAttempt false) s = .next t
          ∧ (s.clk.tries < 8 → t.clk = { s.clk with tries := s.clk.tries + 1 } ∧ t = { s with regs := t.regs, clk := t.clk })
          ∧ (8 ≤ s.clk.tries → s.clk.requal = true → s.bit fClkStatLock = true → s.get fClkStatRef ≠ 1 →
              t.clk.hrcQual = true ∧ t.clk.noFall = some s.now ∧ t.Raised 0xF002 0)
          ∧ (8 ≤ s.clk.tries → s.clk.requal = false ∨ s.bit fClkStatLock = false ∨ s.get fClkStatRef = 1 →
              t.bit fClkStatSafeRosc = true ∧ t.get fSysRstCauseCause = 9 ∧ t.uch = [] ∧ t.boot.rst = none ∧ t.bit fSysNmeStatClkfail = true))
    ∧ (∀ (us t0 : Nat),
        s.boot.rst = none →
        s.clk.railsUp = some t0 →
        s.bit fClkStatMoscOk = false →
        s.clk.moscTrip = false →
        s.clk.startHrc = false →
        s.clk.hrcQual = true →
        s.bit fClkStatSafeRosc = false →
        ∃ t, exec (.moscQualified us) s = .next t
          ∧ t.now = max s.now (t0 + us) ∧ t.bit fClkStatMoscOk = true ∧ t.get fClkQualMoscUs = min us 65535
          ∧ t = { s with now := t.now, regs := t.regs })
    ∧ (∀ (t0 : Nat),
        s.boot.rst = none →
        s.clk.railsUp = some t0 →
        s.bit fClkStatMoscOk = false →
        s.bit fClkStatLock = false →
        s.clk.startHrc = false →
        s.clk.hrcQual = true →
        s.bit fClkStatSafeRosc = false →
        ∃ t, exec .moscQualTimeout s = .next t
          ∧ t.now = max s.now (t0 + 10000) ∧ t.clk = { s.clk with startHrc := true } ∧ t.bit fSysNmeStatClkfail = true ∧ t.Raised 1 0
          ∧ t = { s with now := t.now, regs := t.regs, flt := t.flt, clk := t.clk })
    ∧ (s.boot.rst = none →
        s.clk.hrcQual = true →
        s.bit fClkStatLxoOk = false →
        s.clk.lxoTrip = false →
        ∃ t, exec .lxoQualified s = .next t
          ∧ t.bit fClkStatLxoOk = true ∧ t.bit fClkStatAonSrc = false ∧ t = { s with regs := t.regs })
    ∧ (∀ (dev k : Int),
        s.coreOff = false →
        s.bit fClkStatMoscOk = true →
        k = s.geti fClkTrimSteps →
        -300 ≤ k →
        k ≤ 300 →
        ∃ t, exec (.trimStep dev) s = .next t
          ∧ t.get fClkStatTrimSrc = 1
          ∧ t.geti fClkTrimSteps = (if 20 < dev then max (-300) (k - 1) else if dev < -20 then min 300 (k + 1) else k)
          ∧ (k = 299 → dev < -20 → t.Raised 0xF004 0)
          ∧ t = { s with regs := t.regs, flt := t.flt })
    ∧ (∀ (ppb : Int),
        s.coreOff = false →
        s.bit fLathStatFsync = false →
        s.bit fClkStatMoscOk = true →
        -2147483648 ≤ ppb →
        ppb ≤ 2147483647 →
        ∃ t, exec (.disciplineWindow ppb) s = .next t ∧ t.geti fClkTbRatePpb = ppb ∧ t = { s with regs := t.regs })
    ∧ (∀ (t0 : Nat),
        s.coreOff = false →
        s.clk.noFall = some t0 →
        ∃ t, exec .noFallbackRetry s = .next t
          ∧ t.now = max s.now (t0 + 10000000) ∧ t.clk = { s.clk with hrcQual := false, tries := 0, requal := true, noFall := none }
          ∧ t = { s with now := t.now, clk := t.clk })
    ∧ (∀ (on : Bool),
        s.coreOff = false →
        s.bit fClkStatExtrefOk ≠ on →
        s.bit fClkCtrlExtrefEn = true →
        ∃ t, exec (if on then .extrefQualified else .extrefDisqualified) s = .next t
          ∧ t.bit fClkStatExtrefOk = on ∧ (on = false → t.Raised 0xF003 0) ∧ bitAt (t.word (rIrqStat 2)) 6 = true
          ∧ t = { s with regs := t.regs, flt := t.flt })
    ∧ (s.boot.rst = none →
        s.clk.hrcQual = true →
        s.clk.railsUp = none →
        s.bit fClkStatSafeRosc = false →
        ∃ t, exec .railsUp s = .next t ∧ t = { s with clk := { s.clk with railsUp := some s.now } })

/-- R422: a row that reads low starts the scanner, and 200 ms after the first quiet scan the matrix is idle again. R423: a key
is a candidate after TPRESS scans present, and no longer one after TREL scans absent. R424, R425: with no rectangle the
reported image is the candidate image, and each change posts one event in ascending code order while the FIFO has room; a
rectangle that was not complete suppresses the keys that became candidates with it and posts GHOST. A read of EVT removes the
oldest event. R426: a transition moves the sub-count by one, and a full detent moves COUNT. -/
def Obligations.KeysAreDebouncedAndReported : Prop :=
  ∀ (s : State),
    (s.coreOff = false →
        s.key.scanning = false →
        s.en 0x90 = true →
        ∃ t, exec .keyWake s = .next t
          ∧ t.key = { s.key with scanning := true, last := s.now, quiet := none } ∧ t.bit fKeyStatScanning = true ∧ t = { s with regs := t.regs, key := t.key })
    ∧ (∀ (t0 : Nat),
        s.coreOff = false →
        s.key.scanning = true →
        s.key.quiet = some t0 →
        ∃ t, exec .keyIdle s = .next t
          ∧ t.now = max s.now (t0 + 200000) ∧ t.key.scanning = false ∧ t.key.cand = 0 ∧ t.key.rep = s.key.rep ∧ t.key.fifo = s.key.fifo
          ∧ t.bit fKeyStatScanning = false ∧ t = { s with now := t.now, regs := t.regs, key := t.key })
    ∧ (∀ (m : Matrix),
        s.boot.coreRst = false →
        s.key.scanning = true →
        s.en 0x90 = true →
        ∃ t, exec (.keyScan m) s = .next t
          ∧ t.now = max s.now (s.key.last + 1000) ∧ t.key.last = t.now
          ∧ (∀ i, i < 66 → bitNat t.key.cand i =
              let down : Bool := if i = 64 then m.sw0 else if i = 65 then m.sw1 else bitNat m.keys i
              if bitNat s.key.cand i then
                !(!down && decide (s.get fKeyCfgTrel ≤ min 255 (Map.look (fun _ => 0) s.key.absn i + 1)) || down && s.get fKeyCfgTrel = 0)
              else down && decide (s.get fKeyCfgTpress ≤ min 255 (Map.look (fun _ => 0) s.key.pres i + 1)) || !down && s.get fKeyCfgTpress = 0)
          ∧ (rects t.key.cand = [] → (∀ i, i < 64 → bitNat s.key.supp i = false) →
              (∀ i, i < 66 → bitNat s.key.rep i = bitNat s.key.cand i) → s.key.fifo.length ≤ 16 →
              (∀ i, i < 66 → bitNat t.key.rep i = bitNat t.key.cand i) ∧ (∀ i, i < 64 → bitNat t.key.supp i = false)
              ∧ t.key.fifo = (s.key.fifo ++ ((List.range 66).filter (fun i => bitNat t.key.cand i != bitNat s.key.cand i)).map
                  (fun i => ({ kind := if bitNat t.key.cand i then 0 else 1, code := i, time := t.now / 1000 % 65536 } : KeyEv))).take 16)
          ∧ (∀ i, i < 64 → rects t.key.cand ≠ [] → rects s.key.cand = [] → bitNat t.key.cand i = true → bitNat s.key.cand i = false →
              bitNat s.key.supp i = false → bitNat s.key.rep i = false →
              bitNat t.key.rep i = false ∧ bitNat t.key.supp i = true ∧ bitAt (t.word (rIrqStat 0x90)) 3 = true)
          ∧ t = { s with now := t.now, regs := t.regs, key := t.key })
    ∧ (∀ (e : KeyEv) (l : List KeyEv),
        s.XactOpen (readXact rKeyEvt) →
        Map.look (fun _ => none) s.frozen rKeyEvt = none →
        s.port.snap.all (fun x => decide (x.1 ≠ rKeyEvt)) = true →
        s.key.fifo = e :: l →
        e.kind ≤ 3 →
        e.code < 66 →
        e.time < 65536 →
        ∃ t, exec .keyEventRead s = .next t
          ∧ t.port.resp = 0
          ∧ (∃ w, t.port.rdata = [w] ∧ bitAt w 31 = true ∧ bitsOf w 29 2 = e.kind ∧ bitAt w 28 = e.refused ∧ bitsOf w 16 7 = e.code ∧ bitsOf w 0 16 = e.time)
          ∧ t.key = { s.key with fifo := l } ∧ t.get fKeyStatFifo = l.length % 32 ∧ t = { s with regs := t.regs, key := t.key, port := t.port })
    ∧ (s.XactOpen (readXact rKeyEvt) →
        Map.look (fun _ => none) s.frozen rKeyEvt = none →
        s.port.snap.all (fun x => decide (x.1 ≠ rKeyEvt)) = true →
        s.key.fifo = [] →
        ∃ t, exec .keyEventRead s = .next t
          ∧ t.port.resp = 0 ∧ t.port.rdata = [0#32] ∧ t.key = s.key ∧ t = { s with regs := t.regs, port := t.port })
    ∧ (∀ (e ab n : Nat) (d c : Int),
        e < 2 →
        s.coreOff = false →
        s.en 0x90 = true →
        n = (match (if e = 0 then s.get fKeyEncCfgSteps0 else s.get fKeyEncCfgSteps1) with | 0 => 4 | 1 => 2 | _ => 1) →
        d = (if s.bit (if e = 0 then fKeyEncCfgDir0 else fKeyEncCfgDir1) then -1 else 1) * encTurn (Map.look (fun _ => 0) s.key.ab e) (ab % 4) →
        c = Map.look (fun _ => 0) s.key.sub e + d →
        ∃ t, exec (.encoderTransition e ab) s = .next t
          ∧ Map.look (fun _ => 0) t.key.ab e = ab % 4
          ∧ (c.natAbs ≠ n → Map.look (fun _ => 0) t.key.sub e = c ∧ t.regs = s.regs)
          ∧ (c.natAbs = n → Map.look (fun _ => 0) t.key.sub e = 0 ∧ bitAt (t.word (rIrqStat 0x90)) 1 = true
              ∧ t.get (fKeyEncCount e) = (s.get (fKeyEncCount e) + (if 0 < c then 1 else 65535)) % 65536)
          ∧ (∀ j, j ≠ e → t.get (fKeyEncCount j) = s.get (fKeyEncCount j)) ∧ t.key = { s.key with ab := t.key.ab, sub := t.key.sub }
          ∧ t = { s with regs := t.regs, key := t.key })

/-- R427, R428: a matched combination fires once, posts its event, and resets the device, unlocks the panel for UNLOCK_T
minutes, or enters commissioning; FACTORY_RESTORE without the service strap is refused. R429: the fixed combination resets
with cause 0x4, whatever the KEY page holds. R428: the time runs out, and LOCK ends both. R430: a panel write of an unlocked
panel writes or relinquishes level 1 of a channel output, a fan drive or a zone mode at the capture edge, and a HOST point in
commissioning; of a locked panel it applies nothing. -/
def Obligations.CombinationsAndPanelWrites : Prop :=
  ∀ (s : State),
    (∀ (k act t0 : Nat),
        k < 4 →
        s.coreOff = false →
        s.en 0x90 = true →
        s.comboMatch k = true →
        Map.look (fun _ => false) s.key.fired k = false →
        Map.look (fun _ => none) s.key.since k = some t0 →
        act = s.get (fKeyComboCtrlAction k) →
        act = 1 ∨ act = 2 ∨ (act = 3 ∧ s.bit fSysStrapsServiceN = true) →
        s.key.fifo.length < 16 →
        ∃ t, exec (.comboFire k) s = .next t
          ∧ t.now = max s.now (t0 + 1000000 * s.get (fKeyComboCtrlHold k))
          ∧ Map.look (fun _ => false) t.key.fired k = true
          ∧ t.key.fifo = s.key.fifo ++ [{ kind := 3, refused := decide (act = 3), code := k, time := t.now / 1000 % 65536 }]
          ∧ bitAt (t.word (rIrqStat 0x90)) 4 = true ∧ t.key.rep = s.key.rep
          ∧ t.bit fKeyStatUnlocked = (decide (act ≠ 3) || s.bit fKeyStatUnlocked)
          ∧ t.bit fKeyStatCommission = (decide (act = 2) || s.bit fKeyStatCommission)
          ∧ t.key.unlock = (if act = 1 then some (t.now + 60000000 * s.get fKeyCfgUnlockT) else if act = 2 then none else s.key.unlock)
          ∧ t = { s with regs := t.regs, key := t.key, now := t.now })
    ∧ (∀ (c : Instr) (k : Nat),
        c = .fixedCombo ∧ s.key.fixed = false ∧ s.boot.rst = none ∨ (c = .comboFire k ∧ k < 4 ∧ s.coreOff = false ∧ s.boot.rst = none ∧ s.en 0x90 = true ∧ s.comboMatch k = true ∧ s.get (fKeyComboCtrlAction k) = 0 ∧ Map.look (fun _ => false) s.key.fired k = false ∧ (Map.look (fun _ => none) s.key.since k).isSome) →
        ∃ t, exec c s = .next t
          ∧ t.boot.rst = some 4 ∧ t.boot.coreRst = true ∧ t.get fSysRstCauseCause = 4 ∧ t.uch = [] ∧ t.key.fifo = []
          ∧ (c = .fixedCombo → t.key.fixed = true) ∧ t.uid = s.uid ∧ t.pending = s.pending)
    ∧ (∀ (t0 : Nat),
        s.coreOff = false →
        s.key.unlock = some t0 →
        ∃ t, exec .unlockExpiry s = .next t
          ∧ t.now = max s.now t0 ∧ t.key = { s.key with unlock := none }
          ∧ t.bit fKeyStatUnlocked = (s.bit fKeyStatCommission && s.bit fKeyStatUnlocked) ∧ t.get fKeyStatUnlockLeft = 0
          ∧ t.bit fKeyStatCommission = s.bit fKeyStatCommission ∧ t = { s with regs := t.regs, key := t.key, now := t.now })
    ∧ (s.HostOpen rKeyCmd 1#32 →
        ∃ t, exec .panelLock s = .next t
          ∧ t.port.resp = 0 ∧ t.bit fKeyStatUnlocked = false ∧ t.bit fKeyStatCommission = false ∧ t.key = { s.key with unlock := none }
          ∧ t = { s with regs := t.regs, key := t.key, port := t.port })
    ∧ (∀ (w v : Word) (rel : Bool) (kind i : Nat),
        v = (if rel then w ||| 0x80000000#32 else w &&& 0x7FFFFFFF#32) →
        kind = bitsOf w 29 2 →
        i = bitsOf w 0 14 →
        s.HostOpen rKeyPanelWr v →
        w &&& 0x1FFFC000#32 = 0 →
        s.bit fKeyStatUnlocked = true →
        (kind = 1 ∧ i < 96 ∧ s.isOutput i = true) ∨ (kind = 2 ∧ i < 24) ∨ (kind = 3 ∧ i < 96 ∧ (rel = false → 0 ≤ divHalfUp (s.geti fKeyPanelValValue) 65536 ∧ divHalfUp (s.geti fKeyPanelValValue) 65536 ≤ 4)) ∨ (kind = 0 ∧ rel = false ∧ s.bit fKeyStatCommission = true ∧ s.kindOf i = some 1) →
        ∃ t, exec (if rel then .panelRelinquish w else .panelWrite w) s = .next t
          ∧ t.port.resp = 0
          ∧ t.hostLv = s.hostLv ++ (if kind = 1 ∨ kind = 2 then
              [{ out := if kind = 2 then 96 + i else i, lv := 1, v := if rel then none else some (s.geti fKeyPanelValValue) }] else [])
          ∧ t.hostZm = s.hostZm ++ (if kind = 3 then
              [{ fen := false, idx := i, lv := 1, v := if rel then none else some (divHalfUp (s.geti fKeyPanelValValue) 65536).toNat }] else [])
          ∧ t.dir = { s.dir with hostW := s.dir.hostW ++ (if kind = 0 then [(i, s.geti fKeyPanelValValue)] else []) }
          ∧ t = { s with regs := t.regs, port := t.port, hostLv := t.hostLv, hostZm := t.hostZm, dir := t.dir }
          ∧ s.OnlyWords t (fun b => b == rHostXactCnt))
    ∧ (∀ (w v : Word) (rel : Bool),
        v = (if rel then w ||| 0x80000000#32 else w &&& 0x7FFFFFFF#32) →
        s.HostOpen rKeyPanelWr v →
        w &&& 0x1FFFC000#32 = 0 →
        s.bit fKeyStatUnlocked = false →
        ∃ t, exec (if rel then .panelRelinquish w else .panelWrite w) s = .next t
          ∧ t.port.resp = 0 ∧ bitsOf (t.word (rBlkErr 0x90)) 16 8 = 0x41 ∧ t = { s with regs := t.regs, port := t.port }
          ∧ s.OnlyWords t (fun b => b == rBlkErr 0x90 || b == rHostXactCnt))

/-- R437: a request is refused with BAD_RECT, NO_LUT or QUEUE_FULL, or queued with its ID. R438: at a frame boundary a running
update takes its next phase, and one at its last phase ends, sets LAST_DONE and leaves its pixels at the greys of its mode; a
request that overlaps nothing starts with the band in force and a copy of its new pixels. With CHK_EN, a mismatch refuses it,
and 200 ms without a valid checksum refuse it. R439: a pass ends with the CRC-32 of the new image. -/
def Obligations.DisplayUpdatesAreQueuedAndRun : Prop :=
  ∀ (s : State),
    (∀ (w : Word) (mode x y dw dh : Nat) (bad lut full : Bool),
        s.HostOpen rEpdUpdCmd w →
        bitAt w 31 = true →
        w &&& 0x7FFFFFFC#32 = 0 →
        mode = bitsOf w 0 2 →
        x = s.get fEpdUpdXyX →
        y = s.get fEpdUpdXyY →
        dw = s.get fEpdUpdWhW →
        dh = s.get fEpdUpdWhH →
        mode ≤ 2 →
        bad = decide (dw = 0 ∨ dh = 0 ∨ s.get fEpdGeomW < x + dw ∨ s.get fEpdGeomH < y + dh) →
        lut = decide (s.phaseCount (s.get fEpdRunBand) mode = 0) →
        full = decide (16 ≤ s.epd.queue.length) →
        ∃ t, exec (.updateRequest w) s = .next t
          ∧ t.port.resp = 0
          ∧ t.get fEpdUpdResResult = (if bad then 4 else if lut then 5 else if full then 3 else 0)
          ∧ (bad ∨ lut ∨ full → t.epd = s.epd ∧ bitAt (t.word (rIrqStat 0x91)) 2 = true)
          ∧ (bad = false → lut = false → full = false →
              t.get fEpdUpdResId = (s.epd.acc + 1) % 256 ∧ t.epd.acc = (s.epd.acc + 1) % 256
              ∧ t.epd.queue = s.epd.queue ++ [{ id := (s.epd.acc + 1) % 256, x := x, y := y, w := dw, h := dh, mode := mode }]
              ∧ t.epd.runs = s.epd.runs
              ∧ t.epd.rails = (if s.epd.rails = .down ∧ s.en 0x91 = true ∧ s.bit fPwrStatPfw = false then .rising 0 else s.epd.rails))
          ∧ t = { s with regs := t.regs, epd := t.epd, port := t.port })
    ∧ (∀ (q : UpdRun),
        s.coreOff = false →
        s.en 0x91 = true →
        s.epd.rails = .up →
        s.epd.runs = [q] →
        s.epd.queue = [] →
        s.epd.boot = .no →
        ∃ t, exec .epdFrameBoundary s = .next t
          ∧ t.now = max s.now (s.epd.frameT + s.frameUs)
          ∧ (q.phase + 1 < q.total → t.epd.runs = [{ q with phase := q.phase + 1 }] ∧ t.epd.cur = s.epd.cur)
          ∧ (q.total ≤ q.phase + 1 → t.epd.runs = [] ∧ t.get fEpdRunLastDone = q.u.id % 256 ∧ bitAt (t.word (rIrqStat 0x91)) 1 = true
              ∧ (q.u.x + q.u.w ≤ 800 → q.u.y + q.u.h ≤ 600 → ∀ x y, x < 1024 → t.curGrey x y =
                  if inside q.u x y then endGrey q.u.mode (q.buf.getD ((y - q.u.y) * q.u.w + (x - q.u.x)) 0) else s.curGrey x y))
          ∧ t.epd.queue = [] ∧ t.epd.win = s.epd.win ∧ t = { s with now := t.now, regs := t.regs, epd := t.epd })
    ∧ (∀ (u : Upd) (g : List Nat),
        s.coreOff = false →
        s.en 0x91 = true →
        g = (List.range (u.w * u.h)).map (fun i => s.newGrey (u.x + i % u.w) (u.y + i / u.w)) →
        s.epd.rails = .up →
        s.epd.runs = [] →
        s.epd.queue = [u] →
        s.epd.boot = .no →
        ∃ t, exec .epdFrameBoundary s = .next t
          ∧ (s.bit fEpdCfgChkEn = false ∨ (s.bit fEpdFbStatCrcValid = true ∧ s.get fEpdFbCrcCrc = s.get fEpdFbCrcExpectCrc) →
              t.epd.queue = [] ∧ bitAt (t.word (rIrqStat 0x91)) 0 = true
              ∧ t.epd.runs = [{ slot := 0, u := u, band := s.get fEpdRunBand, total := s.phaseCount (s.get fEpdRunBand) u.mode, buf := g }])
          ∧ (s.bit fEpdCfgChkEn = true → s.bit fEpdFbStatCrcValid = true → s.get fEpdFbCrcCrc ≠ s.get fEpdFbCrcExpectCrc →
              t.epd.queue = [] ∧ t.epd.runs = [] ∧ t.get fEpdUpdResResult = 1 ∧ t.get fEpdUpdResId = u.id % 256
              ∧ bitAt (t.word (rIrqStat 0x91)) 2 = true)
          ∧ (s.bit fEpdCfgChkEn = true → s.bit fEpdFbStatCrcValid = false →
              t.epd.runs = [] ∧ t.epd.queue = [{ u with wait := some (u.wait.getD t.now) }])
          ∧ t.epd.cur = s.epd.cur ∧ t = { s with now := t.now, regs := t.regs, epd := t.epd })
    ∧ (∀ (id : Nat),
        s.coreOff = false →
        s.en 0x91 = true →
        s.epd.runs.any (fun q => decide (q.u.id = id) && q.copying) = true →
        ∃ t, exec (.updateCopyDone id) s = .next t
          ∧ t.epd = { s.epd with runs := s.epd.runs.map (fun q => if q.u.id = id then { q with copying := false } else q) }
          ∧ (s.epd.runs.all (fun q => decide (q.u.id = id)) = true → t.bit fEpdFbStatLatch = false)
          ∧ t = { s with regs := t.regs, epd := t.epd })
    ∧ (∀ (u : Upd) (t0 : Nat),
        s.coreOff = false →
        s.en 0x91 = true →
        s.bit fEpdFbStatCrcValid = false →
        s.epd.queue.find? (fun v => v.wait.isSome) = some u →
        u.wait = some t0 →
        ∃ t, exec .crcStale s = .next t
          ∧ t.now = max s.now (t0 + 200000) ∧ t.epd = { s.epd with queue := s.epd.queue.filter (fun v => v.id ≠ u.id) }
          ∧ t.get fEpdUpdResResult = 2 ∧ t.get fEpdUpdResId = u.id % 256 ∧ bitAt (t.word (rIrqStat 0x91)) 2 = true ∧ t = { s with now := t.now, regs := t.regs, epd := t.epd })
    ∧ (s.coreOff = false →
        ∃ t, exec .fbCrcPass s = .next t
          ∧ t.now % 50000 = 0 ∧ s.now ≤ t.now ∧ t.now < s.now + 50000 ∧ t.epd = { s.epd with crcT := some t.now } ∧ t = { s with now := t.now, epd := t.epd })
    ∧ (∀ (t0 : Nat),
        s.coreOff = false →
        s.epd.crcT = some t0 →
        ∃ t, exec .fbCrcPassEnd s = .next t
          ∧ t.now = max s.now (t0 + 2000) ∧ t.epd = { s.epd with crcT := none } ∧ t.bit fEpdFbStatCrcValid = true
          ∧ t.get fEpdFbCrcCrc = crc32 ((List.range (s.imageBytes / 4)).flatMap (fun i => leBytes 4 (s.epdWord (4 * i)).toNat))
          ∧ t = { s with now := t.now, regs := t.regs, epd := t.epd })

/-- R433: each power-up step lasts 1.0 ms, the fifth leaves the rails up; a rail short at the end of its step raises RAIL,
ends every running and queued update with NO_RAIL and starts the rails down. After RAIL_HOLD without an update the rails go
down in five steps of 1.0 ms. R442: a boot clear that a RAIL fault ended is pending again. -/
def Obligations.PanelRailsStepUpAndDown : Prop :=
  ∀ (s : State) (k : Nat),
    s.coreOff = false →
    s.en 0x91 = true →
    (s.epd.rails = .rising k →
        k < 5 →
        ∃ t, exec (.railStep true) s = .next t
          ∧ t.now = max s.now (s.epd.railT + 1000)
          ∧ (k < 4 → t.epd = { s.epd with rails := .rising (k + 1), railT := t.now } ∧ t.regs = s.regs ∧ t.flt = s.flt)
          ∧ (k = 4 → t.epd.rails = .up ∧ t.bit fEpdRunRails = true ∧ t.epd.idle = some t.now ∧ t.epd.fault = false
              ∧ t.epd.queue = s.epd.queue ∧ t.epd.runs = s.epd.runs ∧ t.epd.boot = s.epd.boot)
          ∧ t = { s with now := t.now, regs := t.regs, flt := t.flt, epd := t.epd })
    ∧ (s.epd.rails = .rising k →
        k < 5 →
        s.epd.queue ≠ [] ∨ s.epd.runs ≠ [] →
        ∃ t, exec (.railStep false) s = .next t
          ∧ t.now = max s.now (s.epd.railT + 1000) ∧ t.Raised 0xF301 0
          ∧ t.epd.rails = .falling (4 - k) ∧ t.epd.railT = t.now ∧ t.epd.fault = true ∧ t.epd.queue = [] ∧ t.epd.runs = []
          ∧ t.get fEpdUpdResResult = 6 ∧ bitAt (t.word (rIrqStat 0x91)) 2 = true ∧ bitAt (t.word (rIrqStat 0x91)) 4 = true
          ∧ (s.epd.boot ≠ .no → t.epd.boot = .pend) ∧ t.epd.cur = s.epd.cur
          ∧ t = { s with now := t.now, regs := t.regs, flt := t.flt, epd := t.epd })
    ∧ (∀ (t0 : Nat),
        s.epd.rails = .up →
        s.epd.runs = [] →
        s.epd.idle = some t0 →
        ∃ t, exec .railHoldExpiry s = .next t
          ∧ t.now = max s.now (t0 + 10000 * s.get fEpdCfgRailHold) ∧ t.epd = { s.epd with rails := .falling 0, railT := t.now }
          ∧ t = { s with now := t.now, epd := t.epd })
    ∧ (s.epd.rails = .falling k →
        k < 5 →
        s.epd.queue = [] →
        s.epd.boot = .no →
        ∃ t, exec .railDownStep s = .next t
          ∧ t.now = max s.now (s.epd.railT + 1000)
          ∧ (k < 4 → t.epd = { s.epd with rails := .falling (k + 1), railT := t.now } ∧ t.regs = s.regs)
          ∧ (k = 4 → t.epd = { s.epd with rails := .down, railT := t.now, idle := none } ∧ t.bit fEpdRunRails = false)
          ∧ t = { s with now := t.now, regs := t.regs, epd := t.epd })

/-- The block takes its commands first in, first out: a step of a state with `c` at the front of the queue is `exec c` on the
state with the rest of the queue. With an empty queue one microsecond of TIMEBASE passes while it counts, and nothing else
changes; that a step is then one microsecond is the model's choice (log entry 1). -/
def Obligations.StepRunsTheFrontCommand : Prop :=
  ∀ (s : State),
    (∀ (c : Instr) (rest : List Instr),
        s.pending = c :: rest →
        step s = exec c { s with pending := rest })
    ∧ (s.pending = [] →
        step s = .next { s with now := if s.clk.counts then s.now + 1 else s.now })

/-- Every command answers a next state in every state: an event whose condition does not hold, and a refused transaction (R61,
R62), complete as well. The queue of waiting commands and the part's UID are as they were. -/
def Obligations.EveryCommandCompletes : Prop :=
  ∀ (c : Instr) (s : State),
    ∃ t, exec c s = .next t ∧ t.pending = s.pending ∧ t.uid = s.uid

/-- The block has 96 channels, 8 converter cores, 4 ports, 96 zones, 32 fens, 512 loops, 24 fan governors, 120 priority arrays
and 256 page numbers. A command that names another instance changes nothing (that such a command completes so is the model's
choice, log entry 2). -/
def Obligations.AbsentInstancesChangeNothing : Prop :=
  ∀ (c : Instr) (s : State),
    c.here = false →
    exec c s = .next s

/-- The state after power-on reset is in the invariant of the model: maps in canonical form (log entry 43), queues within
their capacities (R407, R425), the frame position in range. Nothing waits, no channel is in use and TIMEBASE reads 0. -/
def Obligations.ResetMeetsTheInvariant : Prop :=
  State.reset.Inv ∧ State.reset.pending = [] ∧ State.reset.uch = [] ∧ State.reset.lv = [] ∧ State.reset.now = 0
    ∧ State.reset.boot.coreRst = true ∧ State.reset.flt.active = [] ∧ State.reset.sto.served = false

/-- From every state of the invariant, and not only from those that a run reaches, a step leads to a state of it: the register
file, the served image, the channels and the priority arrays keep their canonical form, the fault queues hold at most 16 and 4
requests (R407), the key FIFO at most 16 events (R425), and skim frame and phase stay in range (R11, R13). -/
def Obligations.StepKeepsTheInvariant : Prop :=
  ∀ (s t : State),
    s.Inv →
    step s = .next t →
    t.Inv

/-- Along every run, from any state: the UID of the part is as it was (R316), and a run that starts in the invariant stays in
it. A run from reset therefore never leaves it. -/
def Obligations.RunsKeepIdentityAndInvariant : Prop :=
  ∀ (s t : State),
    Runs s t →
    t.uid = s.uid ∧ (s.Inv → t.Inv)

/-- Maps of the model are in canonical form (log entry 43), so that two of them that read the same at every key are the same
data; a write keeps the form, and reads back at its key alone. -/
def Obligations.CanonicalMapsAreTheirReads : Prop :=
  ∀ (d : Nat → Word) (m n : Map Word),
    (Map.wf d m = true →
        Map.wf d n = true →
        (∀ k, Map.look d m k = Map.look d n k) → m = n)
    ∧ (∀ (k : Nat) (v : Word),
        Map.wf d m = true →
        Map.wf d (Map.put d m k v) = true ∧ ∀ j, Map.look d (Map.put d m k v) j = if j = k then v else Map.look d m j)

/-- R64: a READ that ends with a code other than OK (0), LOCKED (3) or GATE_ABORT (7) returns as many words as its LEN names,
each of them zero, and with CRC_EN = 1 the data CRC of those words. -/
def Obligations.FailedReadsReturnZeros : Prop :=
  ∀ (s : State) (x : Xact),
    s.boot.coreRst = false →
    s.boot.cmdRst = none →
    xactOp x = 1 →
    ∃ t, exec (.hostRead x) s = .next t
      ∧ (t.port.resp ≠ 0 → t.port.resp ≠ 3 → t.port.resp ≠ 7 →
          t.port.rdata = List.replicate (xactLen x) 0#32
          ∧ (s.bit fHostCfgCrcEn = true → t.port.rcrc = some (crc16 (wordsBytes (List.replicate (xactLen x) 0#32)))))

/-- R45: a transaction of register space that would leave its 4 KiB page, and one of window space that would leave its window,
ends with SIZE_ERR; no word is read or written, and only the port's own account of it changes. -/
def Obligations.TransactionsStayWithinTheirSpace : Prop :=
  ∀ (s : State) (x : Xact) (c : Instr) (a n : Nat),
    a = xactStart x →
    n = xactLen x →
    c = (if xactOp x = 1 then .hostRead x else .registerWrite x) →
    s.boot.coreRst = false →
    s.boot.cmdRst = none →
    s.XactWhole x →
    (a < 0x100000 ∧ 0x1000 < a % 0x1000 + 4 * n) ∨ (a < 0x180000 ∧ 0x180000 < a + 4 * n) ∨ (a < 0x1C0000 ∧ 0x1C0000 < a + 4 * n) ∨ (a < 0x1E0000 ∧ 0x1E0000 < a + 4 * n) ∨ (a < 0x1F0000 ∧ 0x1F0000 < a + 4 * n) ∨ (a < 0x200000 ∧ 0x200000 < a + 4 * n) ∨ (a < 0x280000 ∧ 0x280000 < a + 4 * n) →
    ∃ t, exec c s = .next t
      ∧ t.port.resp = 10 ∧ t.port.rdata = (if xactOp x = 1 then List.replicate n 0#32 else [])
      ∧ t = { s with regs := t.regs, port := t.port } ∧ s.OnlyWords t (fun b => b / 0x1000 == 4)

/-- R57: bit b of SYS.IRQ_SUM, for b = 0–26, is 1 exactly while a page of block b has a bit of IRQ_STAT set whose IRQ_EN bit
is set, bit 31 while SYS.NME_STAT is not 0, and IRQ_N is low while IRQ_SUM is not 0, from the first commit after a reset on
(R489; in SAFE_ROSC at once). R54: an event sets its IRQ_STAT bit whatever IRQ_EN holds. -/
def Obligations.TheInterruptTree : Prop :=
  ∀ (s : State),
    (∀ (b : Nat),
        b < 27 →
        bitAt s.irqSum b = true ↔ ∃ p k, blkOfPage p = some k ∧ k.sumBit = b ∧ s.word (rIrqStat p) &&& s.word (rIrqEn p) ≠ 0#32)
    ∧ ((bitAt s.irqSum 31 = true ↔ s.word rSysNmeStat ≠ 0#32)
          ∧ (s.boot.first = true → (s.irqLow = true ↔ s.irqSum ≠ 0#32)))
    ∧ (∀ (p k : Nat),
        p < 256 →
        k < 32 →
        bitAt ((s.irq p k).word (rIrqStat p)) k = true ∧ (∀ j, j < 32 → j ≠ k → bitAt ((s.irq p k).word (rIrqStat p)) j = bitAt (s.word (rIrqStat p)) j)
          ∧ s.OnlyWords (s.irq p k) (fun a => a == rIrqStat p))
end

