-- ==== Sys2Proof/Laws/Maps.lean ====
section
/-! SUPPORT. The laws of the sparse maps: reading after writing, and the canonical form that every write keeps. -/
set_option Elab.async false
namespace Sys2Proof.Map

variable {α : Type} (d : Nat → α)

theorem look_filter_ne (m : Map α) (k j : Nat) :
    look d (m.filter (fun p => p.1 ≠ k)) j = if j = k then d j else look d m j := by
  induction m with
  | nil => simp [look]
  | cons x m ih =>
    obtain ⟨k', v⟩ := x
    by_cases hk : k' = k
    · subst hk
      simp only [ne_eq, not_true_eq_false, decide_false, Bool.false_eq_true, not_false_eq_true, List.filter_cons_of_neg] at *
      rw [ih]
      by_cases hj : j = k'
      · simp [hj]
      · simp [hj, look, Ne.symm hj]
    · rw [List.filter_cons_of_pos (by simpa using hk)]
      simp only [look]
      by_cases hj : k' = j
      · subst hj; simp [hk]
      · simp only [hj, if_false]; exact ih

theorem look_ins (m : Map α) (k : Nat) (v : α) (j : Nat) :
    look d (ins m k v) j = if j = k then v else look d m j := by
  induction m with
  | nil => simp only [ins, look]; split <;> split <;> simp_all
  | cons x m ih =>
    obtain ⟨k', v'⟩ := x
    simp only [ins]
    by_cases h1 : k < k'
    · simp only [h1, if_true, look]
      by_cases hj : j = k
      · simp [hj]
      · simp [hj, Ne.symm hj]
    · by_cases h2 : k' = k
      · subst h2; simp only [Nat.lt_irrefl, if_false, if_true, look]
        by_cases hj : j = k'
        · simp [hj]
        · simp [hj, Ne.symm hj]
      · simp only [h1, h2, if_false, look, ih]
        by_cases hj : k' = j
        · subst hj; simp [h2]
        · simp [hj]

variable [DecidableEq α]

/-- Reading after a write: the written key reads what was written, every other key as before. -/
theorem look_put (m : Map α) (k : Nat) (v : α) (j : Nat) :
    look d (put d m k v) j = if j = k then v else look d m j := by
  unfold put
  split
  · rename_i h; rw [look_filter_ne, h]; split <;> simp_all
  · exact look_ins d m k v j

@[simp] theorem look_put_self (m : Map α) (k : Nat) (v : α) : look d (put d m k v) k = v := by simp [look_put]
theorem look_put_ne (m : Map α) {k j : Nat} (v : α) (h : j ≠ k) : look d (put d m k v) j = look d m j := by
  simp [look_put, h]

theorem okFrom_mono {m : Map α} {lo hi : Nat} (h : lo ≤ hi) (hm : okFrom d hi m = true) : okFrom d lo m = true := by
  cases m with
  | nil => rfl
  | cons x m =>
    obtain ⟨k, v⟩ := x
    simp only [okFrom, Bool.and_eq_true, decide_eq_true_eq] at *
    exact ⟨⟨Nat.le_trans h hm.1.1, hm.1.2⟩, hm.2⟩

theorem okFrom_filter (f : Nat × α → Bool) {m : Map α} {lo : Nat} (hm : okFrom d lo m = true) :
    okFrom d lo (m.filter f) = true := by
  induction m generalizing lo with
  | nil => rfl
  | cons x m ih =>
    obtain ⟨k, v⟩ := x
    simp only [okFrom, Bool.and_eq_true, decide_eq_true_eq] at hm
    by_cases hf : f (k, v)
    · rw [List.filter_cons_of_pos hf]
      simp only [okFrom, Bool.and_eq_true, decide_eq_true_eq]
      exact ⟨hm.1, ih hm.2⟩
    · rw [List.filter_cons_of_neg hf]
      exact okFrom_mono d (by omega) (ih hm.2)

theorem okFrom_ins {m : Map α} {lo k : Nat} {v : α} (hk : lo ≤ k) (hv : v ≠ d k) (hm : okFrom d lo m = true) :
    okFrom d lo (ins m k v) = true := by
  induction m generalizing lo with
  | nil => simp [ins, okFrom, hk, hv]
  | cons x m ih =>
    obtain ⟨k', v'⟩ := x
    simp only [okFrom, Bool.and_eq_true, decide_eq_true_eq] at hm
    simp only [ins]
    split
    · simp only [okFrom, Bool.and_eq_true, decide_eq_true_eq]
      exact ⟨⟨hk, hv⟩, ⟨by omega, hm.1.2⟩, hm.2⟩
    · split
      · rename_i h2; subst h2
        simp only [okFrom, Bool.and_eq_true, decide_eq_true_eq]
        exact ⟨⟨hk, hv⟩, hm.2⟩
      · simp only [okFrom, Bool.and_eq_true, decide_eq_true_eq]
        exact ⟨hm.1, ih (by omega) hm.2⟩

/-- Every write keeps the canonical form. -/
theorem put_wf {m : Map α} (k : Nat) (v : α) (hm : wf d m = true) : wf d (put d m k v) = true := by
  unfold wf put at *
  split
  · exact okFrom_filter d _ hm
  · rename_i h; exact okFrom_ins d (Nat.zero_le _) h hm

/-- Dropping entries keeps the canonical form. -/
theorem filter_wf (f : Nat × α → Bool) {m : Map α} (hm : wf d m = true) : wf d (m.filter f) = true :=
  okFrom_filter d f hm

/-- In canonical form a map is determined by what it reads. -/
theorem look_below {m : Map α} {lo j : Nat} (hm : okFrom d lo m = true) (hj : j < lo) : look d m j = d j := by
  induction m generalizing lo with
  | nil => rfl
  | cons x m ih =>
    obtain ⟨k, v⟩ := x
    simp only [okFrom, Bool.and_eq_true, decide_eq_true_eq] at hm
    have : k ≠ j := by omega
    simp only [look, this, if_false]
    exact ih hm.2 (by omega)

end Sys2Proof.Map
end

