-- ==== Sys2Proof/Laws/Fields.lean ====
section
/-! SUPPORT. What a field, a register, a channel or a level reads after a write to one of them. -/
set_option Elab.async false
namespace Sys2Proof

theorem bitsOf_lt (w : Word) (l n : Nat) : bitsOf w l n < 2 ^ n := by
  unfold bitsOf ones
  rw [BitVec.toNat_and, BitVec.toNat_ofNat]
  refine Nat.lt_of_le_of_lt Nat.and_le_right ?_
  refine Nat.lt_of_le_of_lt (Nat.mod_le _ _) ?_
  have := Nat.two_pow_pos n
  omega

/-- A bit of a field after the field is written. -/
theorem bitsSet_getLsbD (w : Word) (l n v i : Nat) (h : l + n ≤ 32) :
    (bitsSet w l n v).getLsbD i = if l ≤ i ∧ i < l + n then v.testBit (i - l) else w.getLsbD i := by
  unfold bitsSet ones
  have ho : ∀ j, (2 ^ n - 1).testBit j = decide (j < n) := fun j => Nat.testBit_two_pow_sub_one n j
  simp only [BitVec.getLsbD_or, BitVec.getLsbD_and, BitVec.getLsbD_not, BitVec.getLsbD_shiftLeft, BitVec.getLsbD_ofNat, ho]
  by_cases hi : i < 32
  · by_cases hl : l ≤ i
    · have h0 : ¬ i < l := by omega
      have h2 : i - l < 32 := by omega
      by_cases hu : i < l + n
      · have h1 : i - l < n := by omega
        simp only [hi, hl, hu, h0, h1, h2, decide_true, decide_false, Bool.and_true, Bool.true_and, Bool.not_true, Bool.not_false,
          Bool.and_false, Bool.false_or, and_self, if_true]
      · have h1 : ¬ i - l < n := by omega
        simp only [hi, hl, hu, h0, h1, h2, decide_true, decide_false, Bool.and_true, Bool.true_and, Bool.not_false,
          Bool.and_false, Bool.or_false, and_false, if_false]
    · have h0 : i < l := by omega
      simp only [hi, hl, h0, decide_true, Bool.not_true, Bool.and_false, Bool.false_and, Bool.not_false, Bool.and_true,
        Bool.true_and, Bool.or_false, false_and, if_false]
  · have h1 : ¬ i < l + n := by omega
    have h2 : w.getLsbD i = false := BitVec.getLsbD_of_ge _ _ (Nat.le_of_not_lt hi)
    simp only [hi, h1, h2, decide_false, Bool.false_and, Bool.or_false, and_false, if_false]

theorem bitsOf_testBit (w : Word) (l n i : Nat) (h : l + n ≤ 32) :
    (bitsOf w l n).testBit i = (decide (i < n) && w.getLsbD (l + i)) := by
  unfold bitsOf ones
  rw [BitVec.toNat_and, BitVec.toNat_ofNat, Nat.testBit_and, BitVec.toNat_ushiftRight, Nat.testBit_shiftRight,
    Nat.testBit_mod_two_pow, Nat.testBit_two_pow_sub_one, ← BitVec.testBit_toNat]
  by_cases hi : i < n
  · have : i < 32 := by omega
    simp [hi, this]
  · simp [hi]

theorem bitsOf_bitsSet (w : Word) (l n v : Nat) (h : l + n ≤ 32) : bitsOf (bitsSet w l n v) l n = v % 2 ^ n := by
  apply Nat.eq_of_testBit_eq
  intro i
  rw [bitsOf_testBit _ _ _ _ h, bitsSet_getLsbD _ _ _ _ _ h, Nat.testBit_mod_two_pow]
  by_cases hi : i < n
  · simp [hi]
  · simp [hi]

theorem bitsOf_bitsSet_ne (w : Word) (l n v l' n' : Nat) (h : l + n ≤ 32) (h' : l' + n' ≤ 32) (hd : l + n ≤ l' ∨ l' + n' ≤ l) :
    bitsOf (bitsSet w l n v) l' n' = bitsOf w l' n' := by
  apply Nat.eq_of_testBit_eq
  intro i
  rw [bitsOf_testBit _ _ _ _ h', bitsOf_testBit _ _ _ _ h', bitsSet_getLsbD _ _ _ _ _ h]
  by_cases hi : i < n'
  · have : ¬ (l ≤ l' + i ∧ l' + i < l + n) := by omega
    simp [this]
  · simp [hi]

namespace Machine
namespace State

theorem word_setWord (s : State) (a b : Nat) (w : Word) : (s.setWord a w).word b = if b = a then w else s.word b :=
  Map.look_put _ _ _ _ _
@[simp] theorem word_setWord_self (s : State) (a : Nat) (w : Word) : (s.setWord a w).word a = w := by simp [word_setWord]
theorem word_setWord_ne (s : State) {a b : Nat} (w : Word) (h : b ≠ a) : (s.setWord a w).word b = s.word b := by
  simp [word_setWord, h]
theorem word_set (s : State) (f : Field) (v b : Nat) :
    (s.set f v).word b = if b = f.addr then bitsSet (s.word f.addr) f.lsb f.width v else s.word b := word_setWord _ _ _ _
theorem word_set_ne (s : State) (f : Field) (v : Nat) {b : Nat} (h : b ≠ f.addr) : (s.set f v).word b = s.word b := by
  simp [word_set, h]
theorem word_setB_ne (s : State) (f : Field) (v : Bool) {b : Nat} (h : b ≠ f.addr) : (s.setB f v).word b = s.word b :=
  word_set_ne _ _ _ h
theorem word_seti_ne (s : State) (f : Field) (v : Int) {b : Nat} (h : b ≠ f.addr) : (s.seti f v).word b = s.word b :=
  word_set_ne _ _ _ h
theorem word_bump_ne (s : State) (f : Field) {b : Nat} (h : b ≠ f.addr) : (s.bump f).word b = s.word b := word_set_ne _ _ _ h
theorem word_bumpBy_ne (s : State) (f : Field) (n : Nat) {b : Nat} (h : b ≠ f.addr) : (s.bumpBy f n).word b = s.word b :=
  word_set_ne _ _ _ h
theorem word_bumpWrap_ne (s : State) (f : Field) {b : Nat} (h : b ≠ f.addr) : (s.bumpWrap f).word b = s.word b :=
  word_set_ne _ _ _ h
theorem word_irq (s : State) (p k b : Nat) :
    (s.irq p k).word b = if b = rIrqStat p then s.word (rIrqStat p) ||| (1#32 <<< k) else s.word b := word_setWord _ _ _ _
theorem word_irq_ne (s : State) (p k : Nat) {b : Nat} (h : b ≠ rIrqStat p) : (s.irq p k).word b = s.word b := by
  simp [word_irq, h]
theorem word_blkErr_ne (s : State) (p c : Nat) (wr : Bool) (o : Nat) {b : Nat} (h : b ≠ rBlkErr p) :
    (s.blkErr p c wr o).word b = s.word b := word_setWord_ne _ _ h
theorem word_setPair_ne (s : State) (lo hi v : Nat) {b : Nat} (h : b ≠ lo) (h' : b ≠ hi) : (s.setPair lo hi v).word b = s.word b := by
  simp [setPair, word_setWord, h, h']

theorem get_set_self (s : State) (f : Field) (v : Nat) (h : f.lsb + f.width ≤ 32) : (s.set f v).get f = v % 2 ^ f.width := by
  unfold get; rw [word_set, if_pos rfl, bitsOf_bitsSet _ _ _ _ h]
/-- Two fields share no bit. -/
def apart (f g : Field) : Bool :=
  f.addr != g.addr || (f.lsb + f.width ≤ 32 && g.lsb + g.width ≤ 32 && (f.lsb + f.width ≤ g.lsb || g.lsb + g.width ≤ f.lsb))
theorem get_set_ne (s : State) {f g : Field} (v : Nat) (h : apart f g = true) : (s.set f v).get g = s.get g := by
  unfold get
  by_cases ha : g.addr = f.addr
  · simp [apart, ha] at h
    rw [ha, word_set, if_pos rfl, bitsOf_bitsSet_ne _ _ _ _ _ _ h.1.1 h.1.2 h.2]
  · rw [word_set_ne _ _ _ ha]
theorem bit_setB_self (s : State) (f : Field) (b : Bool) (h : f.lsb + f.width ≤ 32) (hw : 0 < f.width) : (s.setB f b).bit f = b := by
  unfold bit setB
  rw [get_set_self _ _ _ h]
  have : 2 ≤ 2 ^ f.width := by
    calc 2 = 2 ^ 1 := rfl
      _ ≤ 2 ^ f.width := Nat.pow_le_pow_right (by decide) hw
  cases b
  · simp
  · simp [Nat.mod_eq_of_lt (Nat.lt_of_lt_of_le Nat.one_lt_two this)]
theorem bit_setB_ne (s : State) {f g : Field} (b : Bool) (h : apart f g = true) : (s.setB f b).bit g = s.bit g := by
  unfold bit setB; rw [get_set_ne _ _ h]

@[simp] theorem chan_setChan_self (s : State) (n : Nat) (c : Chan) : (s.setChan n c).chan n = c := Map.look_put_self _ _ _ _
theorem chan_setChan_ne (s : State) {n m : Nat} (c : Chan) (h : m ≠ n) : (s.setChan n c).chan m = s.chan m :=
  Map.look_put_ne _ _ _ h
@[simp] theorem chan_modChan_self (s : State) (n : Nat) (f : Chan → Chan) : (s.modChan n f).chan n = f (s.chan n) :=
  chan_setChan_self _ _ _
theorem chan_modChan_ne (s : State) {n m : Nat} (f : Chan → Chan) (h : m ≠ n) : (s.modChan n f).chan m = s.chan m :=
  chan_setChan_ne _ _ h
@[simp] theorem core_setCore_self (s : State) (n : Nat) (k : Core) : (s.setCore n k).core n = k := Map.look_put_self _ _ _ _
theorem core_setCore_ne (s : State) {n m : Nat} (k : Core) (h : m ≠ n) : (s.setCore n k).core m = s.core m :=
  Map.look_put_ne _ _ _ h
@[simp] theorem visVal_setVis_self (s : State) (n : Nat) (v : Val) : (s.setVis n v).visVal n = v := Map.look_put_self _ _ _ _
theorem visVal_setVis_ne (s : State) {n m : Nat} (v : Val) (h : m ≠ n) : (s.setVis n v).visVal m = s.visVal m :=
  Map.look_put_ne _ _ _ h
theorem level_setLevel (s : State) (o k o' k' : Nat) (v : Option Int) (hk : k' ≠ 0) (h : k < 8) (h' : k' < 8) :
    (s.setLevel o k v).level o' k' = if o' = o ∧ k' = k then v else s.level o' k' := by
  unfold level setLevel
  simp only [hk, if_false]
  rw [Map.look_put]
  have : (8 * o' + k' = 8 * o + k) ↔ (o' = o ∧ k' = k) := by omega
  simp [this]
@[simp] theorem at_now (s : State) (t : Nat) : (s.at_ t).now = max s.now t := rfl

end State
end Machine
end Sys2Proof
end

