-- ==== Sys2Proof/Laws/Keeps.lean ====
section
/-! SUPPORT. Which parts of the state an operation may touch. `Keeps m s t` says that going from `s` to `t` leaves every field
whose bit of the mask `m` is 0 as it was, and keeps the invariant of the block; one lemma per operation says its mask. -/
set_option Elab.async false
set_option linter.all false
namespace Sys2Proof.Machine

/-- Field number `i` of the state, in the order of State's declaration, is the same in both states. -/
def fieldEq (i : Nat) (s t : State) : Prop :=
  match i with
  | 0 => t.pending = s.pending
  | 1 => t.now = s.now
  | 2 => t.regs = s.regs
  | 3 => t.held = s.held
  | 4 => t.frozen = s.frozen
  | 5 => t.softRst = s.softRst
  | 6 => t.port = s.port
  | 7 => t.lath = s.lath
  | 8 => t.uch = s.uch
  | 9 => t.lv = s.lv
  | 10 => t.l0 = s.l0
  | 11 => t.stL = s.stL
  | 12 => t.stS = s.stS
  | 13 => t.hostLv = s.hostLv
  | 14 => t.vis = s.vis
  | 15 => t.img = s.img
  | 16 => t.lwork = s.lwork
  | 17 => t.swork = s.swork
  | 18 => t.flt = s.flt
  | 19 => t.cores = s.cores
  | 20 => t.nst = s.nst
  | 21 => t.dir = s.dir
  | 22 => t.boot = s.boot
  | 23 => t.sto = s.sto
  | 24 => t.eng = s.eng
  | 25 => t.engL = s.engL
  | 26 => t.engS = s.engS
  | 27 => t.evL = s.evL
  | 28 => t.evS = s.evS
  | 29 => t.cap = s.cap
  | 30 => t.rbus = s.rbus
  | 31 => t.pir = s.pir
  | 32 => t.tab = s.tab
  | 33 => t.hostZm = s.hostZm
  | 34 => t.stZ = s.stZ
  | 35 => t.loopPar = s.loopPar
  | 36 => t.loopsL = s.loopsL
  | 37 => t.loopsS = s.loopsS
  | 38 => t.tmeCmd = s.tmeCmd
  | 39 => t.net = s.net
  | 40 => t.fanIo = s.fanIo
  | 41 => t.key = s.key
  | 42 => t.epd = s.epd
  | 43 => t.pwr = s.pwr
  | 44 => t.clk = s.clk
  | 45 => t.uid = s.uid
  | 46 => t.lev = s.lev
  | 47 => t.fab = s.fab
  | 48 => t.dlv = s.dlv
  | 49 => t.fresh = s.fresh
  | _ => True

theorem fieldEq.refl (i : Nat) (s : State) : fieldEq i s s := by
  unfold fieldEq; split <;> trivial

theorem fieldEq.trans {s t u : State} : {i : Nat} → fieldEq i s t → fieldEq i t u → fieldEq i s u
  | 0, h, k => Eq.trans (a := u.pending) k h
  | 1, h, k => Eq.trans (a := u.now) k h
  | 2, h, k => Eq.trans (a := u.regs) k h
  | 3, h, k => Eq.trans (a := u.held) k h
  | 4, h, k => Eq.trans (a := u.frozen) k h
  | 5, h, k => Eq.trans (a := u.softRst) k h
  | 6, h, k => Eq.trans (a := u.port) k h
  | 7, h, k => Eq.trans (a := u.lath) k h
  | 8, h, k => Eq.trans (a := u.uch) k h
  | 9, h, k => Eq.trans (a := u.lv) k h
  | 10, h, k => Eq.trans (a := u.l0) k h
  | 11, h, k => Eq.trans (a := u.stL) k h
  | 12, h, k => Eq.trans (a := u.stS) k h
  | 13, h, k => Eq.trans (a := u.hostLv) k h
  | 14, h, k => Eq.trans (a := u.vis) k h
  | 15, h, k => Eq.trans (a := u.img) k h
  | 16, h, k => Eq.trans (a := u.lwork) k h
  | 17, h, k => Eq.trans (a := u.swork) k h
  | 18, h, k => Eq.trans (a := u.flt) k h
  | 19, h, k => Eq.trans (a := u.cores) k h
  | 20, h, k => Eq.trans (a := u.nst) k h
  | 21, h, k => Eq.trans (a := u.dir) k h
  | 22, h, k => Eq.trans (a := u.boot) k h
  | 23, h, k => Eq.trans (a := u.sto) k h
  | 24, h, k => Eq.trans (a := u.eng) k h
  | 25, h, k => Eq.trans (a := u.engL) k h
  | 26, h, k => Eq.trans (a := u.engS) k h
  | 27, h, k => Eq.trans (a := u.evL) k h
  | 28, h, k => Eq.trans (a := u.evS) k h
  | 29, h, k => Eq.trans (a := u.cap) k h
  | 30, h, k => Eq.trans (a := u.rbus) k h
  | 31, h, k => Eq.trans (a := u.pir) k h
  | 32, h, k => Eq.trans (a := u.tab) k h
  | 33, h, k => Eq.trans (a := u.hostZm) k h
  | 34, h, k => Eq.trans (a := u.stZ) k h
  | 35, h, k => Eq.trans (a := u.loopPar) k h
  | 36, h, k => Eq.trans (a := u.loopsL) k h
  | 37, h, k => Eq.trans (a := u.loopsS) k h
  | 38, h, k => Eq.trans (a := u.tmeCmd) k h
  | 39, h, k => Eq.trans (a := u.net) k h
  | 40, h, k => Eq.trans (a := u.fanIo) k h
  | 41, h, k => Eq.trans (a := u.key) k h
  | 42, h, k => Eq.trans (a := u.epd) k h
  | 43, h, k => Eq.trans (a := u.pwr) k h
  | 44, h, k => Eq.trans (a := u.clk) k h
  | 45, h, k => Eq.trans (a := u.uid) k h
  | 46, h, k => Eq.trans (a := u.lev) k h
  | 47, h, k => Eq.trans (a := u.fab) k h
  | 48, h, k => Eq.trans (a := u.dlv) k h
  | 49, h, k => Eq.trans (a := u.fresh) k h
  | _ + 50, _, _ => trivial

/-- Every field whose bit of `m` is 0 is unchanged, and the invariant is kept. -/
structure Keeps (m : Nat) (s t : State) : Prop where
  same : ∀ i, m.testBit i = false → fieldEq i s t
  inv : s.Inv → t.Inv

/-- The invariant, part by part. -/
theorem State.Inv.of {s t : State} (h1 : regsOk s.regs → regsOk t.regs) (h2 : ramOk s.sto.ram → ramOk t.sto.ram)
    (h3 : chansOk s.uch → chansOk t.uch) (h4 : levelsOk s.lv → levelsOk t.lv) (h5 : s.queuesOk → t.queuesOk)
    (h6 : s.positionOk → t.positionOk) : s.Inv → t.Inv :=
  fun ⟨a, b, c, d, e, f⟩ => ⟨h1 a, h2 b, h3 c, h4 d, h5 e, h6 f⟩

/-- The invariant reads these parts only. -/
theorem State.Inv.of_same {s t : State} (h1 : t.regs = s.regs) (h2 : t.sto.ram = s.sto.ram) (h3 : t.uch = s.uch) (h4 : t.lv = s.lv)
    (h5 : t.flt.ordQ = s.flt.ordQ) (h6 : t.flt.critQ = s.flt.critQ) (h7 : t.key.fifo = s.key.fifo)
    (h8 : t.lath.skim = s.lath.skim) (h9 : t.lath.phase = s.lath.phase) : s.Inv → t.Inv := by
  unfold State.Inv State.queuesOk State.positionOk
  rw [h1, h2, h3, h4, h5, h6, h7, h8, h9]; exact id

namespace Keeps

theorem refl (m : Nat) (s : State) : Keeps m s s := ⟨fun i _ => fieldEq.refl i s, id⟩

/-- The fields of `m` are among those of `n`. -/
def sub (m n : Nat) : Bool := (m &&& n) == m

theorem mono {m n : Nat} {s t : State} (h : Keeps m s t) (hm : sub m n = true) : Keeps n s t := by
  refine ⟨fun i hi => h.same i ?_, h.inv⟩
  have : (m &&& n) = m := by simpa [sub] using hm
  rw [← this, Nat.testBit_and, hi, Bool.and_false]

theorem trans {m : Nat} {s t u : State} (h : Keeps m s t) (k : Keeps m t u) : Keeps m s u :=
  ⟨fun i hi => (h.same i hi).trans (k.same i hi), fun x => k.inv (h.inv x)⟩

/-- One more operation, with the mask of its own lemma. -/
theorem step {m n : Nat} {s t u : State} (h : Keeps n s t) (k : Keeps m t u) (hm : sub m n = true) : Keeps n s u :=
  h.trans (k.mono hm)

/-- A fold of operations. -/
theorem fold {n : Nat} {s : State} {β : Type} (l : List β) (f : State → β → State) {t : State} (h : Keeps n s t)
    (hf : ∀ u b, Keeps n s u → Keeps n s (f u b)) : Keeps n s (l.foldl f t) := by
  induction l generalizing t with
  | nil => exact h
  | cons b l ih => exact ih (hf t b h)

/-- A fold that carries something beside the state. -/
theorem foldPair {n : Nat} {s : State} {β γ : Type} (l : List β) (f : γ × State → β → γ × State) {t : γ × State}
    (h : Keeps n s t.2) (hf : ∀ u b, Keeps n s u.2 → Keeps n s (f u b).2) : Keeps n s (l.foldl f t).2 := by
  induction l generalizing t with
  | nil => exact h
  | cons b l ih => exact ih (hf t b h)

theorem foldPairL {n : Nat} {s : State} {β γ : Type} (l : List β) (f : State × γ → β → State × γ) {t : State × γ}
    (h : Keeps n s t.1) (hf : ∀ u b, Keeps n s u.1 → Keeps n s (f u b).1) : Keeps n s (l.foldl f t).1 := by
  induction l generalizing t with
  | nil => exact h
  | cons b l ih => exact ih (hf t b h)


/-- A fold over something that holds the state. -/
theorem foldVia {n : Nat} {s : State} {β γ : Type} (π : γ → State) (l : List β) (f : γ → β → γ) {t : γ}
    (h : Keeps n s (π t)) (hf : ∀ u b, Keeps n s (π u) → Keeps n s (π (f u b))) : Keeps n s (π (l.foldl f t)) := by
  induction l generalizing t with
  | nil => exact h
  | cons b l ih => exact ih (hf t b h)

theorem ofP1 {n : Nat} {s t : State} {β : Type} {b : β} {p : State × β} (e : p = (t, b)) (h : Keeps n s p.1) : Keeps n s t := by
  rw [e] at h; exact h
theorem ofP2 {n : Nat} {s t : State} {β : Type} {b : β} {p : β × State} (e : p = (b, t)) (h : Keeps n s p.2) : Keeps n s t := by
  rw [e] at h; exact h
theorem ofP3 {n : Nat} {s t : State} {β γ : Type} {b : β} {c : γ} {p : β × γ × State} (e : p = (b, c, t))
    (h : Keeps n s p.2.2) : Keeps n s t := by rw [e] at h; exact h

/-- An intermediate state is reached first. -/
theorem cut {n : Nat} {s v w : State} (h : Keeps n s v) (k : Keeps n s v → Keeps n s w) : Keeps n s w := k h
theorem cutP1 {n : Nat} {s t w : State} {β : Type} {b : β} {p : State × β} (e : p = (t, b)) (h : Keeps n s p.1)
    (k : Keeps n s t → Keeps n s w) : Keeps n s w := k (by rw [e] at h; exact h)
theorem cutP2 {n : Nat} {s t w : State} {β : Type} {b : β} {p : β × State} (e : p = (b, t)) (h : Keeps n s p.2)
    (k : Keeps n s t → Keeps n s w) : Keeps n s w := k (by rw [e] at h; exact h)
theorem cutP3 {n : Nat} {s t w : State} {β γ : Type} {b : β} {c : γ} {p : β × γ × State} (e : p = (b, c, t))
    (h : Keeps n s p.2.2) (k : Keeps n s t → Keeps n s w) : Keeps n s w := k (by rw [e] at h; exact h)

/-- Field by field, for an update written out. -/
theorem of_eqs {m : Nat} {s t : State}
    (h0 : m.testBit 0 = false → t.pending = s.pending)
    (h1 : m.testBit 1 = false → t.now = s.now)
    (h2 : m.testBit 2 = false → t.regs = s.regs)
    (h3 : m.testBit 3 = false → t.held = s.held)
    (h4 : m.testBit 4 = false → t.frozen = s.frozen)
    (h5 : m.testBit 5 = false → t.softRst = s.softRst)
    (h6 : m.testBit 6 = false → t.port = s.port)
    (h7 : m.testBit 7 = false → t.lath = s.lath)
    (h8 : m.testBit 8 = false → t.uch = s.uch)
    (h9 : m.testBit 9 = false → t.lv = s.lv)
    (h10 : m.testBit 10 = false → t.l0 = s.l0)
    (h11 : m.testBit 11 = false → t.stL = s.stL)
    (h12 : m.testBit 12 = false → t.stS = s.stS)
    (h13 : m.testBit 13 = false → t.hostLv = s.hostLv)
    (h14 : m.testBit 14 = false → t.vis = s.vis)
    (h15 : m.testBit 15 = false → t.img = s.img)
    (h16 : m.testBit 16 = false → t.lwork = s.lwork)
    (h17 : m.testBit 17 = false → t.swork = s.swork)
    (h18 : m.testBit 18 = false → t.flt = s.flt)
    (h19 : m.testBit 19 = false → t.cores = s.cores)
    (h20 : m.testBit 20 = false → t.nst = s.nst)
    (h21 : m.testBit 21 = false → t.dir = s.dir)
    (h22 : m.testBit 22 = false → t.boot = s.boot)
    (h23 : m.testBit 23 = false → t.sto = s.sto)
    (h24 : m.testBit 24 = false → t.eng = s.eng)
    (h25 : m.testBit 25 = false → t.engL = s.engL)
    (h26 : m.testBit 26 = false → t.engS = s.engS)
    (h27 : m.testBit 27 = false → t.evL = s.evL)
    (h28 : m.testBit 28 = false → t.evS = s.evS)
    (h29 : m.testBit 29 = false → t.cap = s.cap)
    (h30 : m.testBit 30 = false → t.rbus = s.rbus)
    (h31 : m.testBit 31 = false → t.pir = s.pir)
    (h32 : m.testBit 32 = false → t.tab = s.tab)
    (h33 : m.testBit 33 = false → t.hostZm = s.hostZm)
    (h34 : m.testBit 34 = false → t.stZ = s.stZ)
    (h35 : m.testBit 35 = false → t.loopPar = s.loopPar)
    (h36 : m.testBit 36 = false → t.loopsL = s.loopsL)
    (h37 : m.testBit 37 = false → t.loopsS = s.loopsS)
    (h38 : m.testBit 38 = false → t.tmeCmd = s.tmeCmd)
    (h39 : m.testBit 39 = false → t.net = s.net)
    (h40 : m.testBit 40 = false → t.fanIo = s.fanIo)
    (h41 : m.testBit 41 = false → t.key = s.key)
    (h42 : m.testBit 42 = false → t.epd = s.epd)
    (h43 : m.testBit 43 = false → t.pwr = s.pwr)
    (h44 : m.testBit 44 = false → t.clk = s.clk)
    (h45 : m.testBit 45 = false → t.uid = s.uid)
    (h46 : m.testBit 46 = false → t.lev = s.lev)
    (h47 : m.testBit 47 = false → t.fab = s.fab)
    (h48 : m.testBit 48 = false → t.dlv = s.dlv)
    (h49 : m.testBit 49 = false → t.fresh = s.fresh)
    (hi : s.Inv → t.Inv) : Keeps m s t := by
  refine ⟨fun i hb => ?_, hi⟩
  match i, hb with
  | 0, hb => exact h0 hb
  | 1, hb => exact h1 hb
  | 2, hb => exact h2 hb
  | 3, hb => exact h3 hb
  | 4, hb => exact h4 hb
  | 5, hb => exact h5 hb
  | 6, hb => exact h6 hb
  | 7, hb => exact h7 hb
  | 8, hb => exact h8 hb
  | 9, hb => exact h9 hb
  | 10, hb => exact h10 hb
  | 11, hb => exact h11 hb
  | 12, hb => exact h12 hb
  | 13, hb => exact h13 hb
  | 14, hb => exact h14 hb
  | 15, hb => exact h15 hb
  | 16, hb => exact h16 hb
  | 17, hb => exact h17 hb
  | 18, hb => exact h18 hb
  | 19, hb => exact h19 hb
  | 20, hb => exact h20 hb
  | 21, hb => exact h21 hb
  | 22, hb => exact h22 hb
  | 23, hb => exact h23 hb
  | 24, hb => exact h24 hb
  | 25, hb => exact h25 hb
  | 26, hb => exact h26 hb
  | 27, hb => exact h27 hb
  | 28, hb => exact h28 hb
  | 29, hb => exact h29 hb
  | 30, hb => exact h30 hb
  | 31, hb => exact h31 hb
  | 32, hb => exact h32 hb
  | 33, hb => exact h33 hb
  | 34, hb => exact h34 hb
  | 35, hb => exact h35 hb
  | 36, hb => exact h36 hb
  | 37, hb => exact h37 hb
  | 38, hb => exact h38 hb
  | 39, hb => exact h39 hb
  | 40, hb => exact h40 hb
  | 41, hb => exact h41 hb
  | 42, hb => exact h42 hb
  | 43, hb => exact h43 hb
  | 44, hb => exact h44 hb
  | 45, hb => exact h45 hb
  | 46, hb => exact h46 hb
  | 47, hb => exact h47 hb
  | 48, hb => exact h48 hb
  | 49, hb => exact h49 hb
  | _ + 50, _ => trivial

/-- A field of the mask. -/
theorem chg {n i : Nat} {p : Prop} (h : n.testBit i = true) (hb : n.testBit i = false) : p := absurd (h.symm.trans hb) (by decide)

/-- An update of `t`, seen from where `t` came from; what is not said of a field is that it is unchanged. -/
theorem leaf {n : Nat} {s t : State} {a1 a2 a3 a4 a5 a6 a7 a8 a9 a10 a11 a12 a13 a14 a15 a16 a17 a18 a19 a20 a21 a22 a23 a24 a25 a26 a27 a28 a29 a30 a31 a32 a33 a34 a35 a36 a37 a38 a39 a40 a41 a42 a43 a44 a45 a46 a47 a48 a49} (h : Keeps n s t)
    (h_now : n.testBit 1 = false → a1 = t.now := by exact fun _ => rfl)
    (h_regs : n.testBit 2 = false → a2 = t.regs := by exact fun _ => rfl)
    (h_held : n.testBit 3 = false → a3 = t.held := by exact fun _ => rfl)
    (h_frozen : n.testBit 4 = false → a4 = t.frozen := by exact fun _ => rfl)
    (h_softRst : n.testBit 5 = false → a5 = t.softRst := by exact fun _ => rfl)
    (h_port : n.testBit 6 = false → a6 = t.port := by exact fun _ => rfl)
    (h_lath : n.testBit 7 = false → a7 = t.lath := by exact fun _ => rfl)
    (h_uch : n.testBit 8 = false → a8 = t.uch := by exact fun _ => rfl)
    (h_lv : n.testBit 9 = false → a9 = t.lv := by exact fun _ => rfl)
    (h_l0 : n.testBit 10 = false → a10 = t.l0 := by exact fun _ => rfl)
    (h_stL : n.testBit 11 = false → a11 = t.stL := by exact fun _ => rfl)
    (h_stS : n.testBit 12 = false → a12 = t.stS := by exact fun _ => rfl)
    (h_hostLv : n.testBit 13 = false → a13 = t.hostLv := by exact fun _ => rfl)
    (h_vis : n.testBit 14 = false → a14 = t.vis := by exact fun _ => rfl)
    (h_img : n.testBit 15 = false → a15 = t.img := by exact fun _ => rfl)
    (h_lwork : n.testBit 16 = false → a16 = t.lwork := by exact fun _ => rfl)
    (h_swork : n.testBit 17 = false → a17 = t.swork := by exact fun _ => rfl)
    (h_flt : n.testBit 18 = false → a18 = t.flt := by exact fun _ => rfl)
    (h_cores : n.testBit 19 = false → a19 = t.cores := by exact fun _ => rfl)
    (h_nst : n.testBit 20 = false → a20 = t.nst := by exact fun _ => rfl)
    (h_dir : n.testBit 21 = false → a21 = t.dir := by exact fun _ => rfl)
    (h_boot : n.testBit 22 = false → a22 = t.boot := by exact fun _ => rfl)
    (h_sto : n.testBit 23 = false → a23 = t.sto := by exact fun _ => rfl)
    (h_eng : n.testBit 24 = false → a24 = t.eng := by exact fun _ => rfl)
    (h_engL : n.testBit 25 = false → a25 = t.engL := by exact fun _ => rfl)
    (h_engS : n.testBit 26 = false → a26 = t.engS := by exact fun _ => rfl)
    (h_evL : n.testBit 27 = false → a27 = t.evL := by exact fun _ => rfl)
    (h_evS : n.testBit 28 = false → a28 = t.evS := by exact fun _ => rfl)
    (h_cap : n.testBit 29 = false → a29 = t.cap := by exact fun _ => rfl)
    (h_rbus : n.testBit 30 = false → a30 = t.rbus := by exact fun _ => rfl)
    (h_pir : n.testBit 31 = false → a31 = t.pir := by exact fun _ => rfl)
    (h_tab : n.testBit 32 = false → a32 = t.tab := by exact fun _ => rfl)
    (h_hostZm : n.testBit 33 = false → a33 = t.hostZm := by exact fun _ => rfl)
    (h_stZ : n.testBit 34 = false → a34 = t.stZ := by exact fun _ => rfl)
    (h_loopPar : n.testBit 35 = false → a35 = t.loopPar := by exact fun _ => rfl)
    (h_loopsL : n.testBit 36 = false → a36 = t.loopsL := by exact fun _ => rfl)
    (h_loopsS : n.testBit 37 = false → a37 = t.loopsS := by exact fun _ => rfl)
    (h_tmeCmd : n.testBit 38 = false → a38 = t.tmeCmd := by exact fun _ => rfl)
    (h_net : n.testBit 39 = false → a39 = t.net := by exact fun _ => rfl)
    (h_fanIo : n.testBit 40 = false → a40 = t.fanIo := by exact fun _ => rfl)
    (h_key : n.testBit 41 = false → a41 = t.key := by exact fun _ => rfl)
    (h_epd : n.testBit 42 = false → a42 = t.epd := by exact fun _ => rfl)
    (h_pwr : n.testBit 43 = false → a43 = t.pwr := by exact fun _ => rfl)
    (h_clk : n.testBit 44 = false → a44 = t.clk := by exact fun _ => rfl)
    (h_uid : n.testBit 45 = false → a45 = t.uid := by exact fun _ => rfl)
    (h_lev : n.testBit 46 = false → a46 = t.lev := by exact fun _ => rfl)
    (h_fab : n.testBit 47 = false → a47 = t.fab := by exact fun _ => rfl)
    (h_dlv : n.testBit 48 = false → a48 = t.dlv := by exact fun _ => rfl)
    (h_fresh : n.testBit 49 = false → a49 = t.fresh := by exact fun _ => rfl)
    (i1 : regsOk t.regs → regsOk a2 := by exact fun h => h)
    (i2 : ramOk t.sto.ram → ramOk a23.ram := by exact fun h => h)
    (i3 : chansOk t.uch → chansOk a8 := by exact fun h => h)
    (i4 : levelsOk t.lv → levelsOk a9 := by exact fun h => h)
    (i5 : t.flt.ordQ.length ≤ 16 ∧ t.flt.critQ.length ≤ 4 ∧ t.key.fifo.length ≤ 16 →
      a18.ordQ.length ≤ 16 ∧ a18.critQ.length ≤ 4 ∧ a41.fifo.length ≤ 16 := by exact fun h => h)
    (i6 : t.lath.skim ≤ 9 ∧ 2 ≤ t.lath.phase ∧ t.lath.phase ≤ 7 →
      a7.skim ≤ 9 ∧ 2 ≤ a7.phase ∧ a7.phase ≤ 7 := by exact fun h => h) :
    Keeps n s (State.mk t.pending a1 a2 a3 a4 a5 a6 a7 a8 a9 a10 a11 a12 a13 a14 a15 a16 a17 a18 a19 a20 a21 a22 a23 a24 a25 a26 a27 a28 a29 a30 a31 a32 a33 a34 a35 a36 a37 a38 a39 a40 a41 a42 a43 a44 a45 a46 a47 a48 a49) :=
  h.trans (of_eqs (fun _ => rfl) h_now h_regs h_held h_frozen h_softRst h_port h_lath h_uch h_lv h_l0 h_stL h_stS h_hostLv h_vis h_img h_lwork h_swork h_flt h_cores h_nst h_dir h_boot h_sto h_eng h_engL h_engS h_evL h_evS h_cap h_rbus h_pir h_tab h_hostZm h_stZ h_loopPar h_loopsL h_loopsS h_tmeCmd h_net h_fanIo h_key h_epd h_pwr h_clk h_uid h_lev h_fab h_dlv h_fresh
    (fun x => ⟨i1 x.1, i2 x.2.1, i3 x.2.2.1, i4 x.2.2.2.1, i5 x.2.2.2.2.1, i6 x.2.2.2.2.2⟩))
theorem pending_eq {m : Nat} {s t : State} (h : Keeps m s t) (hm : m.testBit 0 = false) : t.pending = s.pending := h.same 0 hm
theorem now_eq {m : Nat} {s t : State} (h : Keeps m s t) (hm : m.testBit 1 = false) : t.now = s.now := h.same 1 hm
theorem regs_eq {m : Nat} {s t : State} (h : Keeps m s t) (hm : m.testBit 2 = false) : t.regs = s.regs := h.same 2 hm
theorem held_eq {m : Nat} {s t : State} (h : Keeps m s t) (hm : m.testBit 3 = false) : t.held = s.held := h.same 3 hm
theorem frozen_eq {m : Nat} {s t : State} (h : Keeps m s t) (hm : m.testBit 4 = false) : t.frozen = s.frozen := h.same 4 hm
theorem softRst_eq {m : Nat} {s t : State} (h : Keeps m s t) (hm : m.testBit 5 = false) : t.softRst = s.softRst := h.same 5 hm
theorem port_eq {m : Nat} {s t : State} (h : Keeps m s t) (hm : m.testBit 6 = false) : t.port = s.port := h.same 6 hm
theorem lath_eq {m : Nat} {s t : State} (h : Keeps m s t) (hm : m.testBit 7 = false) : t.lath = s.lath := h.same 7 hm
theorem uch_eq {m : Nat} {s t : State} (h : Keeps m s t) (hm : m.testBit 8 = false) : t.uch = s.uch := h.same 8 hm
theorem lv_eq {m : Nat} {s t : State} (h : Keeps m s t) (hm : m.testBit 9 = false) : t.lv = s.lv := h.same 9 hm
theorem l0_eq {m : Nat} {s t : State} (h : Keeps m s t) (hm : m.testBit 10 = false) : t.l0 = s.l0 := h.same 10 hm
theorem stL_eq {m : Nat} {s t : State} (h : Keeps m s t) (hm : m.testBit 11 = false) : t.stL = s.stL := h.same 11 hm
theorem stS_eq {m : Nat} {s t : State} (h : Keeps m s t) (hm : m.testBit 12 = false) : t.stS = s.stS := h.same 12 hm
theorem hostLv_eq {m : Nat} {s t : State} (h : Keeps m s t) (hm : m.testBit 13 = false) : t.hostLv = s.hostLv := h.same 13 hm
theorem vis_eq {m : Nat} {s t : State} (h : Keeps m s t) (hm : m.testBit 14 = false) : t.vis = s.vis := h.same 14 hm
theorem img_eq {m : Nat} {s t : State} (h : Keeps m s t) (hm : m.testBit 15 = false) : t.img = s.img := h.same 15 hm
theorem lwork_eq {m : Nat} {s t : State} (h : Keeps m s t) (hm : m.testBit 16 = false) : t.lwork = s.lwork := h.same 16 hm
theorem swork_eq {m : Nat} {s t : State} (h : Keeps m s t) (hm : m.testBit 17 = false) : t.swork = s.swork := h.same 17 hm
theorem flt_eq {m : Nat} {s t : State} (h : Keeps m s t) (hm : m.testBit 18 = false) : t.flt = s.flt := h.same 18 hm
theorem cores_eq {m : Nat} {s t : State} (h : Keeps m s t) (hm : m.testBit 19 = false) : t.cores = s.cores := h.same 19 hm
theorem nst_eq {m : Nat} {s t : State} (h : Keeps m s t) (hm : m.testBit 20 = false) : t.nst = s.nst := h.same 20 hm
theorem dir_eq {m : Nat} {s t : State} (h : Keeps m s t) (hm : m.testBit 21 = false) : t.dir = s.dir := h.same 21 hm
theorem boot_eq {m : Nat} {s t : State} (h : Keeps m s t) (hm : m.testBit 22 = false) : t.boot = s.boot := h.same 22 hm
theorem sto_eq {m : Nat} {s t : State} (h : Keeps m s t) (hm : m.testBit 23 = false) : t.sto = s.sto := h.same 23 hm
theorem eng_eq {m : Nat} {s t : State} (h : Keeps m s t) (hm : m.testBit 24 = false) : t.eng = s.eng := h.same 24 hm
theorem engL_eq {m : Nat} {s t : State} (h : Keeps m s t) (hm : m.testBit 25 = false) : t.engL = s.engL := h.same 25 hm
theorem engS_eq {m : Nat} {s t : State} (h : Keeps m s t) (hm : m.testBit 26 = false) : t.engS = s.engS := h.same 26 hm
theorem evL_eq {m : Nat} {s t : State} (h : Keeps m s t) (hm : m.testBit 27 = false) : t.evL = s.evL := h.same 27 hm
theorem evS_eq {m : Nat} {s t : State} (h : Keeps m s t) (hm : m.testBit 28 = false) : t.evS = s.evS := h.same 28 hm
theorem cap_eq {m : Nat} {s t : State} (h : Keeps m s t) (hm : m.testBit 29 = false) : t.cap = s.cap := h.same 29 hm
theorem rbus_eq {m : Nat} {s t : State} (h : Keeps m s t) (hm : m.testBit 30 = false) : t.rbus = s.rbus := h.same 30 hm
theorem pir_eq {m : Nat} {s t : State} (h : Keeps m s t) (hm : m.testBit 31 = false) : t.pir = s.pir := h.same 31 hm
theorem tab_eq {m : Nat} {s t : State} (h : Keeps m s t) (hm : m.testBit 32 = false) : t.tab = s.tab := h.same 32 hm
theorem hostZm_eq {m : Nat} {s t : State} (h : Keeps m s t) (hm : m.testBit 33 = false) : t.hostZm = s.hostZm := h.same 33 hm
theorem stZ_eq {m : Nat} {s t : State} (h : Keeps m s t) (hm : m.testBit 34 = false) : t.stZ = s.stZ := h.same 34 hm
theorem loopPar_eq {m : Nat} {s t : State} (h : Keeps m s t) (hm : m.testBit 35 = false) : t.loopPar = s.loopPar := h.same 35 hm
theorem loopsL_eq {m : Nat} {s t : State} (h : Keeps m s t) (hm : m.testBit 36 = false) : t.loopsL = s.loopsL := h.same 36 hm
theorem loopsS_eq {m : Nat} {s t : State} (h : Keeps m s t) (hm : m.testBit 37 = false) : t.loopsS = s.loopsS := h.same 37 hm
theorem tmeCmd_eq {m : Nat} {s t : State} (h : Keeps m s t) (hm : m.testBit 38 = false) : t.tmeCmd = s.tmeCmd := h.same 38 hm
theorem net_eq {m : Nat} {s t : State} (h : Keeps m s t) (hm : m.testBit 39 = false) : t.net = s.net := h.same 39 hm
theorem fanIo_eq {m : Nat} {s t : State} (h : Keeps m s t) (hm : m.testBit 40 = false) : t.fanIo = s.fanIo := h.same 40 hm
theorem key_eq {m : Nat} {s t : State} (h : Keeps m s t) (hm : m.testBit 41 = false) : t.key = s.key := h.same 41 hm
theorem epd_eq {m : Nat} {s t : State} (h : Keeps m s t) (hm : m.testBit 42 = false) : t.epd = s.epd := h.same 42 hm
theorem pwr_eq {m : Nat} {s t : State} (h : Keeps m s t) (hm : m.testBit 43 = false) : t.pwr = s.pwr := h.same 43 hm
theorem clk_eq {m : Nat} {s t : State} (h : Keeps m s t) (hm : m.testBit 44 = false) : t.clk = s.clk := h.same 44 hm
theorem uid_eq {m : Nat} {s t : State} (h : Keeps m s t) (hm : m.testBit 45 = false) : t.uid = s.uid := h.same 45 hm
theorem lev_eq {m : Nat} {s t : State} (h : Keeps m s t) (hm : m.testBit 46 = false) : t.lev = s.lev := h.same 46 hm
theorem fab_eq {m : Nat} {s t : State} (h : Keeps m s t) (hm : m.testBit 47 = false) : t.fab = s.fab := h.same 47 hm
theorem dlv_eq {m : Nat} {s t : State} (h : Keeps m s t) (hm : m.testBit 48 = false) : t.dlv = s.dlv := h.same 48 hm
theorem fresh_eq {m : Nat} {s t : State} (h : Keeps m s t) (hm : m.testBit 49 = false) : t.fresh = s.fresh := h.same 49 hm

theorem mk_congr {x0 x1 x2 x3 x4 x5 x6 x7 x8 x9 x10 x11 x12 x13 x14 x15 x16 x17 x18 x19 x20 x21 x22 x23 x24 x25 x26 x27 x28 x29 x30 x31 x32 x33 x34 x35 x36 x37 x38 x39 x40 x41 x42 x43 x44 x45 x46 x47 x48 x49 y0 y1 y2 y3 y4 y5 y6 y7 y8 y9 y10 y11 y12 y13 y14 y15 y16 y17 y18 y19 y20 y21 y22 y23 y24 y25 y26 y27 y28 y29 y30 y31 y32 y33 y34 y35 y36 y37 y38 y39 y40 y41 y42 y43 y44 y45 y46 y47 y48 y49} (_ : x0 = y0) (_ : x1 = y1) (_ : x2 = y2) (_ : x3 = y3) (_ : x4 = y4) (_ : x5 = y5) (_ : x6 = y6) (_ : x7 = y7) (_ : x8 = y8) (_ : x9 = y9) (_ : x10 = y10) (_ : x11 = y11) (_ : x12 = y12) (_ : x13 = y13) (_ : x14 = y14) (_ : x15 = y15) (_ : x16 = y16) (_ : x17 = y17) (_ : x18 = y18) (_ : x19 = y19) (_ : x20 = y20) (_ : x21 = y21) (_ : x22 = y22) (_ : x23 = y23) (_ : x24 = y24) (_ : x25 = y25) (_ : x26 = y26) (_ : x27 = y27) (_ : x28 = y28) (_ : x29 = y29) (_ : x30 = y30) (_ : x31 = y31) (_ : x32 = y32) (_ : x33 = y33) (_ : x34 = y34) (_ : x35 = y35) (_ : x36 = y36) (_ : x37 = y37) (_ : x38 = y38) (_ : x39 = y39) (_ : x40 = y40) (_ : x41 = y41) (_ : x42 = y42) (_ : x43 = y43) (_ : x44 = y44) (_ : x45 = y45) (_ : x46 = y46) (_ : x47 = y47) (_ : x48 = y48) (_ : x49 = y49) :
    State.mk x0 x1 x2 x3 x4 x5 x6 x7 x8 x9 x10 x11 x12 x13 x14 x15 x16 x17 x18 x19 x20 x21 x22 x23 x24 x25 x26 x27 x28 x29 x30 x31 x32 x33 x34 x35 x36 x37 x38 x39 x40 x41 x42 x43 x44 x45 x46 x47 x48 x49 = State.mk y0 y1 y2 y3 y4 y5 y6 y7 y8 y9 y10 y11 y12 y13 y14 y15 y16 y17 y18 y19 y20 y21 y22 y23 y24 y25 y26 y27 y28 y29 y30 y31 y32 y33 y34 y35 y36 y37 y38 y39 y40 y41 y42 y43 y44 y45 y46 y47 y48 y49 := by
  subst_vars; rfl
/-- The state as the fields of the mask in `t` and every other field in `s`; with a numeral for the mask this is a record update. -/
theorem eta {m : Nat} {s t : State} (h : Keeps m s t) : t = State.mk
    (cond (m.testBit 0) t.pending s.pending)
    (cond (m.testBit 1) t.now s.now)
    (cond (m.testBit 2) t.regs s.regs)
    (cond (m.testBit 3) t.held s.held)
    (cond (m.testBit 4) t.frozen s.frozen)
    (cond (m.testBit 5) t.softRst s.softRst)
    (cond (m.testBit 6) t.port s.port)
    (cond (m.testBit 7) t.lath s.lath)
    (cond (m.testBit 8) t.uch s.uch)
    (cond (m.testBit 9) t.lv s.lv)
    (cond (m.testBit 10) t.l0 s.l0)
    (cond (m.testBit 11) t.stL s.stL)
    (cond (m.testBit 12) t.stS s.stS)
    (cond (m.testBit 13) t.hostLv s.hostLv)
    (cond (m.testBit 14) t.vis s.vis)
    (cond (m.testBit 15) t.img s.img)
    (cond (m.testBit 16) t.lwork s.lwork)
    (cond (m.testBit 17) t.swork s.swork)
    (cond (m.testBit 18) t.flt s.flt)
    (cond (m.testBit 19) t.cores s.cores)
    (cond (m.testBit 20) t.nst s.nst)
    (cond (m.testBit 21) t.dir s.dir)
    (cond (m.testBit 22) t.boot s.boot)
    (cond (m.testBit 23) t.sto s.sto)
    (cond (m.testBit 24) t.eng s.eng)
    (cond (m.testBit 25) t.engL s.engL)
    (cond (m.testBit 26) t.engS s.engS)
    (cond (m.testBit 27) t.evL s.evL)
    (cond (m.testBit 28) t.evS s.evS)
    (cond (m.testBit 29) t.cap s.cap)
    (cond (m.testBit 30) t.rbus s.rbus)
    (cond (m.testBit 31) t.pir s.pir)
    (cond (m.testBit 32) t.tab s.tab)
    (cond (m.testBit 33) t.hostZm s.hostZm)
    (cond (m.testBit 34) t.stZ s.stZ)
    (cond (m.testBit 35) t.loopPar s.loopPar)
    (cond (m.testBit 36) t.loopsL s.loopsL)
    (cond (m.testBit 37) t.loopsS s.loopsS)
    (cond (m.testBit 38) t.tmeCmd s.tmeCmd)
    (cond (m.testBit 39) t.net s.net)
    (cond (m.testBit 40) t.fanIo s.fanIo)
    (cond (m.testBit 41) t.key s.key)
    (cond (m.testBit 42) t.epd s.epd)
    (cond (m.testBit 43) t.pwr s.pwr)
    (cond (m.testBit 44) t.clk s.clk)
    (cond (m.testBit 45) t.uid s.uid)
    (cond (m.testBit 46) t.lev s.lev)
    (cond (m.testBit 47) t.fab s.fab)
    (cond (m.testBit 48) t.dlv s.dlv)
    (cond (m.testBit 49) t.fresh s.fresh) := by
  have k : ∀ (i : Nat) {α : Type} (x y : α), (m.testBit i = false → x = y) → x = cond (m.testBit i) x y := by
    intro i α x y hx
    cases hb : m.testBit i
    · exact hx hb
    · rfl
  exact mk_congr (k 0 _ _ h.pending_eq) (k 1 _ _ h.now_eq) (k 2 _ _ h.regs_eq) (k 3 _ _ h.held_eq) (k 4 _ _ h.frozen_eq) (k 5 _ _ h.softRst_eq) (k 6 _ _ h.port_eq) (k 7 _ _ h.lath_eq) (k 8 _ _ h.uch_eq) (k 9 _ _ h.lv_eq) (k 10 _ _ h.l0_eq) (k 11 _ _ h.stL_eq) (k 12 _ _ h.stS_eq) (k 13 _ _ h.hostLv_eq) (k 14 _ _ h.vis_eq) (k 15 _ _ h.img_eq) (k 16 _ _ h.lwork_eq) (k 17 _ _ h.swork_eq) (k 18 _ _ h.flt_eq) (k 19 _ _ h.cores_eq) (k 20 _ _ h.nst_eq) (k 21 _ _ h.dir_eq) (k 22 _ _ h.boot_eq) (k 23 _ _ h.sto_eq) (k 24 _ _ h.eng_eq) (k 25 _ _ h.engL_eq) (k 26 _ _ h.engS_eq) (k 27 _ _ h.evL_eq) (k 28 _ _ h.evS_eq) (k 29 _ _ h.cap_eq) (k 30 _ _ h.rbus_eq) (k 31 _ _ h.pir_eq) (k 32 _ _ h.tab_eq) (k 33 _ _ h.hostZm_eq) (k 34 _ _ h.stZ_eq) (k 35 _ _ h.loopPar_eq) (k 36 _ _ h.loopsL_eq) (k 37 _ _ h.loopsS_eq) (k 38 _ _ h.tmeCmd_eq) (k 39 _ _ h.net_eq) (k 40 _ _ h.fanIo_eq) (k 41 _ _ h.key_eq) (k 42 _ _ h.epd_eq) (k 43 _ _ h.pwr_eq) (k 44 _ _ h.clk_eq) (k 45 _ _ h.uid_eq) (k 46 _ _ h.lev_eq) (k 47 _ _ h.fab_eq) (k 48 _ _ h.dlv_eq) (k 49 _ _ h.fresh_eq)

end Keeps
end Sys2Proof.Machine
end

