-- ==== Sys2Proof/Laws/KeepsOps.lean ====
section
/-! SUPPORT. What each operation of Machine/Ops.lean may touch (Laws/Keeps.lean): the mask lists the fields it may change,
and the invariant of the block is kept. -/
set_option Elab.async false
set_option linter.all false
namespace Sys2Proof.Machine

/-- One request at a time enters its queue while the queue has room (R407). -/
theorem State.admit_lengths (g : List FReq × List FReq × List FReq → FReq → List FReq × List FReq × List FReq)
    (hg : ∀ a q, a.2.1.length ≤ 16 → a.2.2.length ≤ 4 → (g a q).2.1.length ≤ 16 ∧ (g a q).2.2.length ≤ 4) (l : List FReq)
    (a : List FReq × List FReq × List FReq) (h1 : a.2.1.length ≤ 16) (h2 : a.2.2.length ≤ 4) :
    (l.foldl g a).2.1.length ≤ 16 ∧ (l.foldl g a).2.2.length ≤ 4 := by
  induction l generalizing a with
  | nil => exact ⟨h1, h2⟩
  | cons q l ih => exact ih (g a q) (hg a q h1 h2).1 (hg a q h1 h2).2

theorem State.setWord_keeps {n0 : Nat} {s0 : State} {s : State} {a : Nat} {w : Word} (hK : Keeps n0 s0 s) (hm : Keeps.sub 0x4 n0 = true) :
    Keeps n0 s0 (State.setWord s a w) := by
  refine Keeps.step hK ?_ hm
  clear hK hm
  unfold State.setWord
  repeat' first
    | with_reducible exact Keeps.refl _ _
    | with_reducible assumption
    | (with_reducible refine Keeps.leaf ?_ (h_regs := Keeps.chg (by decide)) (i1 := (fun h => by first | exact h | with_unfolding_all exact Map.put_wf _ _ _ h | with_unfolding_all exact Map.filter_wf _ _ h | with_unfolding_all rfl)))
    | (dsimp only)

theorem State.set_keeps {n0 : Nat} {s0 : State} {s : State} {f : Field} {v : Nat} (hK : Keeps n0 s0 s) (hm : Keeps.sub 0x4 n0 = true) :
    Keeps n0 s0 (State.set s f v) := by
  refine Keeps.step hK ?_ hm
  clear hK hm
  unfold State.set
  repeat' first
    | with_reducible exact Keeps.refl _ _
    | with_reducible assumption
    | ((with_reducible apply State.setWord_keeps); (case hm => exact rfl))
    | (dsimp only)

theorem State.setB_keeps {n0 : Nat} {s0 : State} {s : State} {f : Field} {b : Bool} (hK : Keeps n0 s0 s) (hm : Keeps.sub 0x4 n0 = true) :
    Keeps n0 s0 (State.setB s f b) := by
  refine Keeps.step hK ?_ hm
  clear hK hm
  unfold State.setB
  repeat' first
    | with_reducible exact Keeps.refl _ _
    | with_reducible assumption
    | ((with_reducible apply State.set_keeps); (case hm => exact rfl))
    | split
    | (dsimp only)

theorem State.seti_keeps {n0 : Nat} {s0 : State} {s : State} {f : Field} {v : Int} (hK : Keeps n0 s0 s) (hm : Keeps.sub 0x4 n0 = true) :
    Keeps n0 s0 (State.seti s f v) := by
  refine Keeps.step hK ?_ hm
  clear hK hm
  unfold State.seti
  repeat' first
    | with_reducible exact Keeps.refl _ _
    | with_reducible assumption
    | ((with_reducible apply State.set_keeps); (case hm => exact rfl))
    | (dsimp only)

theorem State.bump_keeps {n0 : Nat} {s0 : State} {s : State} {f : Field} (hK : Keeps n0 s0 s) (hm : Keeps.sub 0x4 n0 = true) :
    Keeps n0 s0 (State.bump s f) := by
  refine Keeps.step hK ?_ hm
  clear hK hm
  unfold State.bump
  repeat' first
    | with_reducible exact Keeps.refl _ _
    | with_reducible assumption
    | ((with_reducible apply State.set_keeps); (case hm => exact rfl))
    | (dsimp only)

theorem State.bumpBy_keeps {n0 : Nat} {s0 : State} {s : State} {f : Field} {n : Nat} (hK : Keeps n0 s0 s) (hm : Keeps.sub 0x4 n0 = true) :
    Keeps n0 s0 (State.bumpBy s f n) := by
  refine Keeps.step hK ?_ hm
  clear hK hm
  unfold State.bumpBy
  repeat' first
    | with_reducible exact Keeps.refl _ _
    | with_reducible assumption
    | ((with_reducible apply State.set_keeps); (case hm => exact rfl))
    | (dsimp only)

theorem State.bumpWrap_keeps {n0 : Nat} {s0 : State} {s : State} {f : Field} (hK : Keeps n0 s0 s) (hm : Keeps.sub 0x4 n0 = true) :
    Keeps n0 s0 (State.bumpWrap s f) := by
  refine Keeps.step hK ?_ hm
  clear hK hm
  unfold State.bumpWrap
  repeat' first
    | with_reducible exact Keeps.refl _ _
    | with_reducible assumption
    | ((with_reducible apply State.set_keeps); (case hm => exact rfl))
    | (dsimp only)

theorem State.setPair_keeps {n0 : Nat} {s0 : State} {s : State} {lo : Nat} {hi : Nat} {v : Nat} (hK : Keeps n0 s0 s) (hm : Keeps.sub 0x4 n0 = true) :
    Keeps n0 s0 (State.setPair s lo hi v) := by
  refine Keeps.step hK ?_ hm
  clear hK hm
  unfold State.setPair
  repeat' first
    | with_reducible exact Keeps.refl _ _
    | with_reducible assumption
    | ((with_reducible apply State.setWord_keeps); (case hm => exact rfl))
    | (dsimp only)

theorem State.irq_keeps {n0 : Nat} {s0 : State} {s : State} {page : Nat} {bit : Nat} (hK : Keeps n0 s0 s) (hm : Keeps.sub 0x4 n0 = true) :
    Keeps n0 s0 (State.irq s page bit) := by
  refine Keeps.step hK ?_ hm
  clear hK hm
  unfold State.irq
  repeat' first
    | with_reducible exact Keeps.refl _ _
    | with_reducible assumption
    | ((with_reducible apply State.setWord_keeps); (case hm => exact rfl))
    | (with_reducible refine Keeps.ofP2 (by assumption) ?_)
    | (with_reducible refine Keeps.ofP1 (by assumption) ?_)
    | (with_reducible refine Keeps.ofP3 (by assumption) ?_)
    | (dsimp only)

theorem State.blkErr_keeps {n0 : Nat} {s0 : State} {s : State} {page : Nat} {cause : Nat} {wr : Bool} {off : Nat} (hK : Keeps n0 s0 s) (hm : Keeps.sub 0x4 n0 = true) :
    Keeps n0 s0 (State.blkErr s page cause wr off) := by
  refine Keeps.step hK ?_ hm
  clear hK hm
  unfold State.blkErr
  repeat' first
    | with_reducible exact Keeps.refl _ _
    | with_reducible assumption
    | ((with_reducible apply State.setWord_keeps); (case hm => exact rfl))
    | split
    | (dsimp only)

theorem State.freeNat_keeps {n0 : Nat} {s0 : State} {s : State} {use : Nat} (hK : Keeps n0 s0 s) (hm : Keeps.sub 0x2000000000000 n0 = true) :
    Keeps n0 s0 (State.freeNat s use).2 := by
  refine Keeps.step hK ?_ hm
  clear hK hm
  unfold State.freeNat
  repeat' first
    | with_reducible exact Keeps.refl _ _
    | with_reducible assumption
    | (with_reducible refine Keeps.leaf ?_ (h_fresh := Keeps.chg (by decide)))
    | (dsimp only)

theorem State.freeBool_keeps {n0 : Nat} {s0 : State} {s : State} {use : Nat} (hK : Keeps n0 s0 s) (hm : Keeps.sub 0x2000000000000 n0 = true) :
    Keeps n0 s0 (State.freeBool s use).2 := by
  refine Keeps.step hK ?_ hm
  clear hK hm
  unfold State.freeBool
  repeat' first
    | with_reducible exact Keeps.refl _ _
    | with_reducible assumption
    | (with_reducible refine Keeps.leaf ?_ (h_fresh := Keeps.chg (by decide)))
    | (dsimp only)

theorem State.at__keeps {n0 : Nat} {s0 : State} {s : State} {t : Nat} (hK : Keeps n0 s0 s) (hm : Keeps.sub 0x2 n0 = true) :
    Keeps n0 s0 (State.at_ s t) := by
  refine Keeps.step hK ?_ hm
  clear hK hm
  unfold State.at_
  repeat' first
    | with_reducible exact Keeps.refl _ _
    | with_reducible assumption
    | (with_reducible refine Keeps.leaf ?_ (h_now := Keeps.chg (by decide)))
    | (dsimp only)

theorem State.tick_keeps {n0 : Nat} {s0 : State} {s : State} (hK : Keeps n0 s0 s) (hm : Keeps.sub 0x2 n0 = true) :
    Keeps n0 s0 (State.tick s) := by
  refine Keeps.step hK ?_ hm
  clear hK hm
  unfold State.tick
  repeat' first
    | with_reducible exact Keeps.refl _ _
    | with_reducible assumption
    | split
    | (with_reducible refine Keeps.leaf ?_ (h_now := Keeps.chg (by decide)))
    | (dsimp only)

theorem State.setChan_keeps {n0 : Nat} {s0 : State} {s : State} {n : Nat} {c : Chan} (hK : Keeps n0 s0 s) (hm : Keeps.sub 0x100 n0 = true) :
    Keeps n0 s0 (State.setChan s n c) := by
  refine Keeps.step hK ?_ hm
  clear hK hm
  unfold State.setChan
  repeat' first
    | with_reducible exact Keeps.refl _ _
    | with_reducible assumption
    | (with_reducible refine Keeps.leaf ?_ (h_uch := Keeps.chg (by decide)) (i3 := (fun h => by first | exact h | with_unfolding_all exact Map.put_wf _ _ _ h | with_unfolding_all exact Map.filter_wf _ _ h | with_unfolding_all rfl)))
    | (dsimp only)

theorem State.modChan_keeps {n0 : Nat} {s0 : State} {s : State} {n : Nat} {f : Chan → Chan} (hK : Keeps n0 s0 s) (hm : Keeps.sub 0x100 n0 = true) :
    Keeps n0 s0 (State.modChan s n f) := by
  refine Keeps.step hK ?_ hm
  clear hK hm
  unfold State.modChan
  repeat' first
    | with_reducible exact Keeps.refl _ _
    | with_reducible assumption
    | ((with_reducible apply State.setChan_keeps); (case hm => exact rfl))
    | (dsimp only)

theorem State.setLevel_keeps {n0 : Nat} {s0 : State} {s : State} {o : Nat} {k : Nat} {v : Option Int} (hK : Keeps n0 s0 s) (hm : Keeps.sub 0x200 n0 = true) :
    Keeps n0 s0 (State.setLevel s o k v) := by
  refine Keeps.step hK ?_ hm
  clear hK hm
  unfold State.setLevel
  repeat' first
    | with_reducible exact Keeps.refl _ _
    | with_reducible assumption
    | (with_reducible refine Keeps.leaf ?_ (h_lv := Keeps.chg (by decide)) (i4 := (fun h => by first | exact h | with_unfolding_all exact Map.put_wf _ _ _ h | with_unfolding_all exact Map.filter_wf _ _ h | with_unfolding_all rfl)))
    | (dsimp only)

theorem State.setL0_keeps {n0 : Nat} {s0 : State} {s : State} {o : Nat} {w : L0Owner} {v : Int} (hK : Keeps n0 s0 s) (hm : Keeps.sub 0x400 n0 = true) :
    Keeps n0 s0 (State.setL0 s o w v) := by
  refine Keeps.step hK ?_ hm
  clear hK hm
  unfold State.setL0
  repeat' first
    | with_reducible exact Keeps.refl _ _
    | with_reducible assumption
    | (with_reducible refine Keeps.leaf ?_ (h_l0 := Keeps.chg (by decide)))
    | (dsimp only)

theorem State.relL0_keeps {n0 : Nat} {s0 : State} {s : State} {o : Nat} {w : L0Owner} (hK : Keeps n0 s0 s) (hm : Keeps.sub 0x400 n0 = true) :
    Keeps n0 s0 (State.relL0 s o w) := by
  refine Keeps.step hK ?_ hm
  clear hK hm
  unfold State.relL0
  repeat' first
    | with_reducible exact Keeps.refl _ _
    | with_reducible assumption
    | (with_reducible refine Keeps.leaf ?_ (h_l0 := Keeps.chg (by decide)))
    | (dsimp only)

theorem State.stage_keeps {n0 : Nat} {s0 : State} {s : State} {r : Rate} {w : LvWrite} (hK : Keeps n0 s0 s) (hm : Keeps.sub 0x1800 n0 = true) :
    Keeps n0 s0 (State.stage s r w) := by
  refine Keeps.step hK ?_ hm
  clear hK hm
  unfold State.stage
  repeat' first
    | with_reducible exact Keeps.refl _ _
    | with_reducible assumption
    | (with_reducible refine Keeps.ofP2 (by assumption) ?_)
    | (with_reducible refine Keeps.ofP1 (by assumption) ?_)
    | (with_reducible refine Keeps.ofP3 (by assumption) ?_)
    | split
    | (with_reducible refine Keeps.leaf ?_ (h_stL := Keeps.chg (by decide)) (h_stS := Keeps.chg (by decide)))
    | (dsimp only)

theorem State.applyLv_keeps {n0 : Nat} {s0 : State} {s : State} {w : LvWrite} (hK : Keeps n0 s0 s) (hm : Keeps.sub 0x600 n0 = true) :
    Keeps n0 s0 (State.applyLv s w) := by
  refine Keeps.step hK ?_ hm
  clear hK hm
  unfold State.applyLv
  repeat' first
    | with_reducible exact Keeps.refl _ _
    | with_reducible assumption
    | ((with_reducible apply State.setL0_keeps); (case hm => exact rfl))
    | ((with_reducible apply State.setLevel_keeps); (case hm => exact rfl))
    | ((with_reducible apply State.relL0_keeps); (case hm => exact rfl))
    | (with_reducible refine Keeps.ofP2 (by assumption) ?_)
    | (with_reducible refine Keeps.ofP1 (by assumption) ?_)
    | (with_reducible refine Keeps.ofP3 (by assumption) ?_)
    | split
    | (dsimp only)

theorem State.produce_keeps {n0 : Nat} {s0 : State} {s : State} {r : Rate} {h : Nat} {v : Val} (hK : Keeps n0 s0 s) (hm : Keeps.sub 0x30000 n0 = true) :
    Keeps n0 s0 (State.produce s r h v) := by
  refine Keeps.step hK ?_ hm
  clear hK hm
  unfold State.produce
  repeat' first
    | with_reducible exact Keeps.refl _ _
    | with_reducible assumption
    | (with_reducible refine Keeps.ofP2 (by assumption) ?_)
    | (with_reducible refine Keeps.ofP1 (by assumption) ?_)
    | (with_reducible refine Keeps.ofP3 (by assumption) ?_)
    | split
    | (with_reducible refine Keeps.leaf ?_ (h_lwork := Keeps.chg (by decide)) (h_swork := Keeps.chg (by decide)))
    | (dsimp only)

theorem State.setVis_keeps {n0 : Nat} {s0 : State} {s : State} {h : Nat} {v : Val} (hK : Keeps n0 s0 s) (hm : Keeps.sub 0x4000 n0 = true) :
    Keeps n0 s0 (State.setVis s h v) := by
  refine Keeps.step hK ?_ hm
  clear hK hm
  unfold State.setVis
  repeat' first
    | with_reducible exact Keeps.refl _ _
    | with_reducible assumption
    | (with_reducible refine Keeps.leaf ?_ (h_vis := Keeps.chg (by decide)))
    | (dsimp only)

theorem State.faultAdmit_keeps {n0 : Nat} {s0 : State} {s : State} (hK : Keeps n0 s0 s) (hm : Keeps.sub 0x40000 n0 = true) :
    Keeps n0 s0 (State.faultAdmit s) := by
  refine Keeps.step hK ?_ hm
  clear hK hm
  unfold State.faultAdmit
  dsimp only
  (with_reducible refine Keeps.leaf ?_ (h_flt := Keeps.chg (by decide)) (i5 := (fun h => by
    obtain ⟨h5, h6, h7⟩ := h
    refine ⟨(State.admit_lengths _ ?_ _ _ h5 h6).1, (State.admit_lengths _ ?_ _ _ h5 h6).2, h7⟩ <;>
    · intro a q ha hc
      split
      · split <;> simp_all <;> omega
      · split
        · simp_all
        · split <;> simp_all <;> omega)))
  exact Keeps.refl _ _

theorem State.faultTake_keeps {n0 : Nat} {s0 : State} {s : State} (hK : Keeps n0 s0 s) (hm : Keeps.sub 0x40000 n0 = true) :
    Keeps n0 s0 (State.faultTake s) := by
  refine Keeps.step hK ?_ hm
  clear hK hm
  unfold State.faultTake
  repeat' first
    | with_reducible exact Keeps.refl _ _
    | with_reducible assumption
    | (with_reducible refine Keeps.ofP2 (by assumption) ?_)
    | (with_reducible refine Keeps.ofP1 (by assumption) ?_)
    | (with_reducible refine Keeps.ofP3 (by assumption) ?_)
    | split
    | (with_reducible refine Keeps.leaf ?_ (h_flt := Keeps.chg (by decide)) (i5 := (fun h => by first | exact h | (obtain ⟨h5, h6, h7⟩ := h; refine ⟨?_, ?_, h7⟩ <;> simp_all <;> omega))))
    | (dsimp only)

theorem State.faultFaces_keeps {n0 : Nat} {s0 : State} {s : State} (hK : Keeps n0 s0 s) (hm : Keeps.sub 0x40004 n0 = true) :
    Keeps n0 s0 (State.faultFaces s) := by
  refine Keeps.step hK ?_ hm
  clear hK hm
  unfold State.faultFaces
  repeat' first
    | with_reducible exact Keeps.refl _ _
    | with_reducible assumption
    | (extract_lets +onlyGivenNames -underBinder x; (with_reducible refine Keeps.cut (v := x) ?_ (fun hx => ?_)); subst x; rotate_left; clear_value x; rotate_right)
    | (extract_lets +onlyGivenNames -underBinder x; subst x)
    | ((with_reducible apply State.setB_keeps); (case hm => exact rfl))
    | ((with_reducible apply State.set_keeps); (case hm => exact rfl))
    | split
    | (with_reducible refine Keeps.leaf ?_ (h_flt := Keeps.chg (by decide)) (i5 := (fun h => by first | exact h | (simp only; first | omega | (simp; omega) | (simp; done)))))
    | (dsimp only)

theorem State.faultSettleQueues_keeps {n0 : Nat} {s0 : State} {s : State} (hK : Keeps n0 s0 s) (hm : Keeps.sub 0x40004 n0 = true) :
    Keeps n0 s0 (State.faultSettleQueues s) := by
  refine Keeps.step hK ?_ hm
  clear hK hm
  unfold State.faultSettleQueues
  repeat' first
    | with_reducible exact Keeps.refl _ _
    | with_reducible assumption
    | ((with_reducible apply State.faultAdmit_keeps); (case hm => exact rfl))
    | ((with_reducible apply State.faultFaces_keeps); (case hm => exact rfl))
    | ((with_reducible apply State.faultTake_keeps); (case hm => exact rfl))
    | (dsimp only)

theorem State.raise_keeps {n0 : Nat} {s0 : State} {s : State} {code : Nat} {inst : Nat} {cls : FClass} (hK : Keeps n0 s0 s) (hm : Keeps.sub 0x40004 n0 = true) :
    Keeps n0 s0 (State.raise s code inst cls) := by
  refine Keeps.step hK ?_ hm
  clear hK hm
  unfold State.raise
  repeat' first
    | with_reducible exact Keeps.refl _ _
    | with_reducible assumption
    | (extract_lets +onlyGivenNames -underBinder x; (with_reducible refine Keeps.cut (v := x) ?_ (fun hx => ?_)); subst x; rotate_left; clear_value x; rotate_right)
    | (extract_lets +onlyGivenNames -underBinder x; (have hfn : (_ → _) := x; clear hfn); subst x; dsimp only)
    | (extract_lets +onlyGivenNames -underBinder x; subst x)
    | ((with_reducible apply State.faultSettleQueues_keeps); (case hm => exact rfl))
    | ((with_reducible apply State.bump_keeps); (case hm => exact rfl))
    | ((with_reducible apply State.setWord_keeps); (case hm => exact rfl))
    | (with_reducible refine Keeps.ofP2 (by assumption) ?_)
    | (with_reducible refine Keeps.ofP1 (by assumption) ?_)
    | (with_reducible refine Keeps.ofP3 (by assumption) ?_)
    | split
    | (with_reducible refine Keeps.leaf ?_ (h_flt := Keeps.chg (by decide)) (i5 := (fun h => by first | exact h | (simp only; first | omega | (simp; omega) | (simp; done)))))
    | (dsimp only)

theorem State.clearFault_keeps {n0 : Nat} {s0 : State} {s : State} {code : Nat} {inst : Nat} (hK : Keeps n0 s0 s) (hm : Keeps.sub 0x40004 n0 = true) :
    Keeps n0 s0 (State.clearFault s code inst) := by
  refine Keeps.step hK ?_ hm
  clear hK hm
  unfold State.clearFault
  repeat' first
    | with_reducible exact Keeps.refl _ _
    | with_reducible assumption
    | (extract_lets +onlyGivenNames -underBinder x; (with_reducible refine Keeps.cut (v := x) ?_ (fun hx => ?_)); subst x; rotate_left; clear_value x; rotate_right)
    | (extract_lets +onlyGivenNames -underBinder x; subst x)
    | ((with_reducible apply State.faultSettleQueues_keeps); (case hm => exact rfl))
    | (with_reducible refine Keeps.ofP2 (by assumption) ?_)
    | (with_reducible refine Keeps.ofP1 (by assumption) ?_)
    | (with_reducible refine Keeps.ofP3 (by assumption) ?_)
    | split
    | (with_reducible refine Keeps.leaf ?_ (h_flt := Keeps.chg (by decide)) (i5 := (fun h => by first | exact h | (simp only; first | omega | (simp; omega) | (simp; done)))))
    | (dsimp only)

theorem State.audit_keeps {n0 : Nat} {s0 : State} {s : State} {kind : Nat} {sess : Nat} {code : Nat} {src : Nat} {ctr : Nat} {detail : Nat} (hK : Keeps n0 s0 s) (hm : Keeps.sub 0x100004 n0 = true) :
    Keeps n0 s0 (State.audit s kind sess code src ctr detail) := by
  refine Keeps.step hK ?_ hm
  clear hK hm
  unfold State.audit
  repeat' first
    | with_reducible exact Keeps.refl _ _
    | with_reducible assumption
    | (extract_lets +onlyGivenNames -underBinder x; (with_reducible refine Keeps.cut (v := x) ?_ (fun hx => ?_)); subst x; rotate_left; clear_value x; rotate_right)
    | (extract_lets +onlyGivenNames -underBinder x; clear_value x)
    | ((with_reducible apply State.set_keeps); (case hm => exact rfl))
    | split
    | (with_reducible refine Keeps.leaf ?_ (h_nst := Keeps.chg (by decide)))
    | (dsimp only)

theorem State.setPeat_keeps {n0 : Nat} {s0 : State} {s : State} {e : Nat} {x : PEnt} (hK : Keeps n0 s0 s) (hm : Keeps.sub 0x800000 n0 = true) :
    Keeps n0 s0 (State.setPeat s e x) := by
  refine Keeps.step hK ?_ hm
  clear hK hm
  unfold State.setPeat
  repeat' first
    | with_reducible exact Keeps.refl _ _
    | with_reducible assumption
    | (with_reducible refine Keeps.leaf ?_ (h_sto := Keeps.chg (by decide)) (i2 := (fun h => by first | exact h | with_unfolding_all exact Map.put_wf _ _ _ h | with_unfolding_all exact Map.filter_wf _ _ h | with_unfolding_all rfl)))
    | (dsimp only)

theorem State.peatAdd_keeps {n0 : Nat} {s0 : State} {s : State} {e : Nat} {n : Nat} (hK : Keeps n0 s0 s) (hm : Keeps.sub 0x800000 n0 = true) :
    Keeps n0 s0 (State.peatAdd s e n) := by
  refine Keeps.step hK ?_ hm
  clear hK hm
  unfold State.peatAdd
  repeat' first
    | with_reducible exact Keeps.refl _ _
    | with_reducible assumption
    | (extract_lets +onlyGivenNames -underBinder x; (with_reducible refine Keeps.cut (v := x) ?_ (fun hx => ?_)); subst x; rotate_left; clear_value x; rotate_right)
    | (extract_lets +onlyGivenNames -underBinder x; clear_value x)
    | ((with_reducible apply State.setPeat_keeps); (case hm => exact rfl))
    | split
    | (dsimp only)

theorem State.peatGauge_keeps {n0 : Nat} {s0 : State} {s : State} {e : Nat} {v : Int} (hK : Keeps n0 s0 s) (hm : Keeps.sub 0x800000 n0 = true) :
    Keeps n0 s0 (State.peatGauge s e v) := by
  refine Keeps.step hK ?_ hm
  clear hK hm
  unfold State.peatGauge
  repeat' first
    | with_reducible exact Keeps.refl _ _
    | with_reducible assumption
    | ((with_reducible apply State.setPeat_keeps); (case hm => exact rfl))
    | (dsimp only)

theorem State.later_keeps {n0 : Nat} {s0 : State} {s : State} {r : Rate} {e : Ev} (hK : Keeps n0 s0 s) (hm : Keeps.sub 0x18000000 n0 = true) :
    Keeps n0 s0 (State.later s r e) := by
  refine Keeps.step hK ?_ hm
  clear hK hm
  unfold State.later
  repeat' first
    | with_reducible exact Keeps.refl _ _
    | with_reducible assumption
    | (with_reducible refine Keeps.ofP2 (by assumption) ?_)
    | (with_reducible refine Keeps.ofP1 (by assumption) ?_)
    | (with_reducible refine Keeps.ofP3 (by assumption) ?_)
    | split
    | (with_reducible refine Keeps.leaf ?_ (h_evL := Keeps.chg (by decide)) (h_evS := Keeps.chg (by decide)))
    | (dsimp only)

theorem State.laterSet_keeps {n0 : Nat} {s0 : State} {s : State} {r : Rate} {f : Field} {v : Nat} (hK : Keeps n0 s0 s) (hm : Keeps.sub 0x18000000 n0 = true) :
    Keeps n0 s0 (State.laterSet s r f v) := by
  refine Keeps.step hK ?_ hm
  clear hK hm
  unfold State.laterSet
  repeat' first
    | with_reducible exact Keeps.refl _ _
    | with_reducible assumption
    | ((with_reducible apply State.later_keeps); (case hm => exact rfl))
    | (dsimp only)

theorem State.laterSeti_keeps {n0 : Nat} {s0 : State} {s : State} {r : Rate} {f : Field} {v : Int} (hK : Keeps n0 s0 s) (hm : Keeps.sub 0x18000000 n0 = true) :
    Keeps n0 s0 (State.laterSeti s r f v) := by
  refine Keeps.step hK ?_ hm
  clear hK hm
  unfold State.laterSeti
  repeat' first
    | with_reducible exact Keeps.refl _ _
    | with_reducible assumption
    | ((with_reducible apply State.later_keeps); (case hm => exact rfl))
    | (dsimp only)

theorem State.laterB_keeps {n0 : Nat} {s0 : State} {s : State} {r : Rate} {f : Field} {b : Bool} (hK : Keeps n0 s0 s) (hm : Keeps.sub 0x18000000 n0 = true) :
    Keeps n0 s0 (State.laterB s r f b) := by
  refine Keeps.step hK ?_ hm
  clear hK hm
  unfold State.laterB
  repeat' first
    | with_reducible exact Keeps.refl _ _
    | with_reducible assumption
    | ((with_reducible apply State.later_keeps); (case hm => exact rfl))
    | split
    | (dsimp only)

theorem State.applyEv_keeps {n0 : Nat} {s0 : State} {s : State} {y1 : Ev} (hK : Keeps n0 s0 s) (hm : Keeps.sub 0x840004 n0 = true) :
    Keeps n0 s0 (State.applyEv s y1) := by
  refine Keeps.step hK ?_ hm
  clear hK hm
  unfold State.applyEv
  repeat' first
    | with_reducible exact Keeps.refl _ _
    | with_reducible assumption
    | (extract_lets +onlyGivenNames -underBinder x; (with_reducible refine Keeps.cut (v := x) ?_ (fun hx => ?_)); subst x; rotate_left; clear_value x; rotate_right)
    | (extract_lets +onlyGivenNames -underBinder x; (have hfn : (_ → _) := x; clear hfn); subst x; dsimp only)
    | (extract_lets +onlyGivenNames -underBinder x; (with_reducible refine Keeps.cut (v := x.2) ?_ (fun hx => ?_)); subst x; rotate_left; clear_value x; rotate_right)
    | (extract_lets +onlyGivenNames -underBinder x; (with_reducible refine Keeps.cut (v := x.1) ?_ (fun hx => ?_)); subst x; rotate_left; clear_value x; rotate_right)
    | (extract_lets +onlyGivenNames -underBinder x; clear_value x)
    | ((with_reducible apply State.bump_keeps); (case hm => exact rfl))
    | ((with_reducible apply State.irq_keeps); (case hm => exact rfl))
    | ((with_reducible apply State.setWord_keeps); (case hm => exact rfl))
    | ((with_reducible apply State.clearFault_keeps); (case hm => exact rfl))
    | ((with_reducible apply State.set_keeps); (case hm => exact rfl))
    | ((with_reducible apply State.raise_keeps); (case hm => exact rfl))
    | ((with_reducible apply State.peatAdd_keeps); (case hm => exact rfl))
    | (with_reducible refine Keeps.fold _ _ ?_ (fun u b hu => ?_))
    | (with_reducible refine Keeps.foldPair _ _ ?_ (fun u b hu => ?_))
    | (with_reducible refine Keeps.foldPairL _ _ ?_ (fun u b hu => ?_))
    | (with_reducible refine Keeps.ofP2 (by assumption) ?_)
    | (with_reducible refine Keeps.ofP1 (by assumption) ?_)
    | (with_reducible refine Keeps.ofP3 (by assumption) ?_)
    | split
    | (dsimp only)

theorem State.flushEv_keeps {n0 : Nat} {s0 : State} {s : State} {r : Rate} (hK : Keeps n0 s0 s) (hm : Keeps.sub 0x18840004 n0 = true) :
    Keeps n0 s0 (State.flushEv s r) := by
  refine Keeps.step hK ?_ hm
  clear hK hm
  unfold State.flushEv
  repeat' first
    | with_reducible exact Keeps.refl _ _
    | with_reducible assumption
    | ((with_reducible apply State.applyEv_keeps); (case hm => exact rfl))
    | (with_reducible refine Keeps.fold _ _ ?_ (fun u b hu => ?_))
    | (with_reducible refine Keeps.ofP2 (by assumption) ?_)
    | (with_reducible refine Keeps.ofP1 (by assumption) ?_)
    | (with_reducible refine Keeps.ofP3 (by assumption) ?_)
    | split
    | (with_reducible refine Keeps.leaf ?_ (h_evL := Keeps.chg (by decide)) (h_evS := Keeps.chg (by decide)))
    | (dsimp only)

end Sys2Proof.Machine
end

