-- ==== Sys2Proof/Laws/KeepsChannels.lean ====
section
/-! SUPPORT. What each operation of Machine/Channels.lean may touch (Laws/Keeps.lean): the mask lists the fields it may change,
and the invariant of the block is kept. -/
set_option Elab.async false
set_option linter.all false
namespace Sys2Proof.Machine

theorem State.chanFaces_keeps {n0 : Nat} {s0 : State} {s : State} {n : Nat} (hK : Keeps n0 s0 s) (hm : Keeps.sub 0x4 n0 = true) :
    Keeps n0 s0 (State.chanFaces s n) := by
  refine Keeps.step hK ?_ hm
  clear hK hm
  unfold State.chanFaces
  repeat' first
    | with_reducible exact Keeps.refl _ _
    | with_reducible assumption
    | (extract_lets +onlyGivenNames -underBinder x; (with_reducible refine Keeps.cut (v := x) ?_ (fun hx => ?_)); subst x; rotate_left; clear_value x; rotate_right)
    | (extract_lets +onlyGivenNames -underBinder x; clear_value x)
    | ((with_reducible apply State.setB_keeps); (case hm => exact rfl))
    | ((with_reducible apply State.seti_keeps); (case hm => exact rfl))
    | ((with_reducible apply State.set_keeps); (case hm => exact rfl))
    | split
    | (dsimp only)

theorem State.upChan_keeps {n0 : Nat} {s0 : State} {s : State} {n : Nat} {f : Chan → Chan} (hK : Keeps n0 s0 s) (hm : Keeps.sub 0x104 n0 = true) :
    Keeps n0 s0 (State.upChan s n f) := by
  refine Keeps.step hK ?_ hm
  clear hK hm
  unfold State.upChan
  repeat' first
    | with_reducible exact Keeps.refl _ _
    | with_reducible assumption
    | ((with_reducible apply State.modChan_keeps); (case hm => exact rfl))
    | ((with_reducible apply State.chanFaces_keeps); (case hm => exact rfl))
    | (dsimp only)

theorem State.markFault_keeps {n0 : Nat} {s0 : State} {s : State} {n : Nat} {cause : Nat} {on : Bool} (hK : Keeps n0 s0 s) (hm : Keeps.sub 0x104 n0 = true) :
    Keeps n0 s0 (State.markFault s n cause on) := by
  refine Keeps.step hK ?_ hm
  clear hK hm
  unfold State.markFault
  repeat' first
    | with_reducible exact Keeps.refl _ _
    | with_reducible assumption
    | (extract_lets +onlyGivenNames -underBinder x; (with_reducible refine Keeps.cut (v := x) ?_ (fun hx => ?_)); subst x; rotate_left; clear_value x; rotate_right)
    | (extract_lets +onlyGivenNames -underBinder x; clear_value x)
    | ((with_reducible apply State.irq_keeps); (case hm => exact rfl))
    | ((with_reducible apply State.upChan_keeps); (case hm => exact rfl))
    | split
    | (dsimp only)

theorem State.budgetFaces_keeps {n0 : Nat} {s0 : State} {s : State} {rail : Option Nat} {hi : Option Nat} (hK : Keeps n0 s0 s) (hm : Keeps.sub 0x4 n0 = true) :
    Keeps n0 s0 (State.budgetFaces s rail hi) := by
  refine Keeps.step hK ?_ hm
  clear hK hm
  unfold State.budgetFaces
  repeat' first
    | with_reducible exact Keeps.refl _ _
    | with_reducible assumption
    | (extract_lets +onlyGivenNames -underBinder x; (with_reducible refine Keeps.cut (v := x) ?_ (fun hx => ?_)); subst x; rotate_left; clear_value x; rotate_right)
    | (extract_lets +onlyGivenNames -underBinder x; clear_value x)
    | ((with_reducible apply State.set_keeps); (case hm => exact rfl))
    | (with_reducible refine Keeps.fold _ _ ?_ (fun u b hu => ?_))
    | (with_reducible refine Keeps.ofP2 (by assumption) ?_)
    | (with_reducible refine Keeps.ofP1 (by assumption) ?_)
    | (with_reducible refine Keeps.ofP3 (by assumption) ?_)
    | split
    | (dsimp only)

theorem State.commitOutput_keeps {n0 : Nat} {s0 : State} {s : State} {n : Nat} (hK : Keeps n0 s0 s) (hm : Keeps.sub 0x40104 n0 = true) :
    Keeps n0 s0 (State.commitOutput s n) := by
  refine Keeps.step hK ?_ hm
  clear hK hm
  unfold State.commitOutput
  repeat' first
    | with_reducible exact Keeps.refl _ _
    | with_reducible assumption
    | (extract_lets +onlyGivenNames -underBinder x; (with_reducible refine Keeps.cut (v := x) ?_ (fun hx => ?_)); subst x; rotate_left; clear_value x; rotate_right)
    | (extract_lets +onlyGivenNames -underBinder x; clear_value x)
    | ((with_reducible apply State.setB_keeps); (case hm => exact rfl))
    | ((with_reducible apply State.clearFault_keeps); (case hm => exact rfl))
    | ((with_reducible apply State.set_keeps); (case hm => exact rfl))
    | ((with_reducible apply State.upChan_keeps); (case hm => exact rfl))
    | ((with_reducible apply State.markFault_keeps); (case hm => exact rfl))
    | (with_reducible refine Keeps.ofP2 (by assumption) ?_)
    | (with_reducible refine Keeps.ofP1 (by assumption) ?_)
    | (with_reducible refine Keeps.ofP3 (by assumption) ?_)
    | split
    | (dsimp only)

theorem State.fsLoad_keeps {n0 : Nat} {s0 : State} {s : State} (hK : Keeps n0 s0 s) (hm : Keeps.sub 0x40000 n0 = true) :
    Keeps n0 s0 (State.fsLoad s) := by
  refine Keeps.step hK ?_ hm
  clear hK hm
  unfold State.fsLoad
  repeat' first
    | with_reducible exact Keeps.refl _ _
    | with_reducible assumption
    | (with_reducible refine Keeps.fold _ _ ?_ (fun u b hu => ?_))
    | (with_reducible refine Keeps.leaf ?_ (h_flt := Keeps.chg (by decide)) (i5 := (fun h => by first | exact h | (simp only; first | omega | (simp; omega) | (simp; done)))))
    | (dsimp only)

theorem State.fsRead_keeps {n0 : Nat} {s0 : State} {s : State} (hK : Keeps n0 s0 s) (hm : Keeps.sub 0x40000 n0 = true) :
    Keeps n0 s0 (State.fsRead s) := by
  refine Keeps.step hK ?_ hm
  clear hK hm
  unfold State.fsRead
  repeat' first
    | with_reducible exact Keeps.refl _ _
    | with_reducible assumption
    | (with_reducible refine Keeps.fold _ _ ?_ (fun u b hu => ?_))
    | split
    | (with_reducible refine Keeps.leaf ?_ (h_flt := Keeps.chg (by decide)) (i5 := (fun h => by first | exact h | (simp only; first | omega | (simp; omega) | (simp; done)))))
    | (dsimp only)

theorem State.nme_keeps {n0 : Nat} {s0 : State} {s : State} {f : Field} (hK : Keeps n0 s0 s) (hm : Keeps.sub 0x4 n0 = true) :
    Keeps n0 s0 (State.nme s f) := by
  refine Keeps.step hK ?_ hm
  clear hK hm
  unfold State.nme
  repeat' first
    | with_reducible exact Keeps.refl _ _
    | with_reducible assumption
    | ((with_reducible apply State.set_keeps); (case hm => exact rfl))
    | (dsimp only)

theorem State.tripPath_keeps {n0 : Nat} {s0 : State} {s : State} {trig : Nat} (hK : Keeps n0 s0 s) (hm : Keeps.sub 0x40504 n0 = true) :
    Keeps n0 s0 (State.tripPath s trig) := by
  refine Keeps.step hK ?_ hm
  clear hK hm
  unfold State.tripPath
  repeat' first
    | with_reducible exact Keeps.refl _ _
    | with_reducible assumption
    | (extract_lets +onlyGivenNames -underBinder x; (with_reducible refine Keeps.cut (v := x) ?_ (fun hx => ?_)); subst x; rotate_left; clear_value x; rotate_right)
    | (extract_lets +onlyGivenNames -underBinder x; clear_value x)
    | ((with_reducible apply State.setB_keeps); (case hm => exact rfl))
    | ((with_reducible apply State.bump_keeps); (case hm => exact rfl))
    | ((with_reducible apply State.irq_keeps); (case hm => exact rfl))
    | ((with_reducible apply State.setL0_keeps); (case hm => exact rfl))
    | ((with_reducible apply State.commitOutput_keeps); (case hm => exact rfl))
    | ((with_reducible apply State.set_keeps); (case hm => exact rfl))
    | (with_reducible refine Keeps.fold _ _ ?_ (fun u b hu => ?_))
    | split
    | (dsimp only)

theorem State.stageRelease_keeps {n0 : Nat} {s0 : State} {s : State} {w : L0Owner} (hK : Keeps n0 s0 s) (hm : Keeps.sub 0x40000 n0 = true) :
    Keeps n0 s0 (State.stageRelease s w) := by
  refine Keeps.step hK ?_ hm
  clear hK hm
  unfold State.stageRelease
  repeat' first
    | with_reducible exact Keeps.refl _ _
    | with_reducible assumption
    | (extract_lets +onlyGivenNames -underBinder x; (with_reducible refine Keeps.cut (v := x) ?_ (fun hx => ?_)); subst x; rotate_left; clear_value x; rotate_right)
    | (extract_lets +onlyGivenNames -underBinder x; subst x)
    | (with_reducible refine Keeps.leaf ?_ (h_flt := Keeps.chg (by decide)) (i5 := (fun h => by first | exact h | (simp only; first | omega | (simp; omega) | (simp; done)))))
    | (dsimp only)

theorem State.settleL0_keeps {n0 : Nat} {s0 : State} {s : State} {r : Rate} (hK : Keeps n0 s0 s) (hm : Keeps.sub 0x40400 n0 = true) :
    Keeps n0 s0 (State.settleL0 s r) := by
  refine Keeps.step hK ?_ hm
  clear hK hm
  unfold State.settleL0
  repeat' first
    | with_reducible exact Keeps.refl _ _
    | with_reducible assumption
    | (extract_lets +onlyGivenNames -underBinder x; (with_reducible refine Keeps.cut (v := x) ?_ (fun hx => ?_)); subst x; rotate_left; clear_value x; rotate_right)
    | (extract_lets +onlyGivenNames -underBinder x; (have hfn : (_ → _) := x; clear hfn); subst x; dsimp only)
    | (extract_lets +onlyGivenNames -underBinder x; subst x)
    | ((with_reducible apply State.setL0_keeps); (case hm => exact rfl))
    | ((with_reducible apply State.relL0_keeps); (case hm => exact rfl))
    | (with_reducible refine Keeps.fold _ _ ?_ (fun u b hu => ?_))
    | (with_reducible refine Keeps.ofP2 (by assumption) ?_)
    | (with_reducible refine Keeps.ofP1 (by assumption) ?_)
    | (with_reducible refine Keeps.ofP3 (by assumption) ?_)
    | split
    | (with_reducible refine Keeps.leaf ?_ (h_flt := Keeps.chg (by decide)) (i5 := (fun h => by first | exact h | (simp only; first | omega | (simp; omega) | (simp; done)))))
    | (dsimp only)

theorem State.clearForMode_keeps {n0 : Nat} {s0 : State} {s : State} {n : Nat} {old : Nat} {new : Nat} (hK : Keeps n0 s0 s) (hm : Keeps.sub 0x40704 n0 = true) :
    Keeps n0 s0 (State.clearForMode s n old new) := by
  refine Keeps.step hK ?_ hm
  clear hK hm
  unfold State.clearForMode
  repeat' first
    | with_reducible exact Keeps.refl _ _
    | with_reducible assumption
    | (extract_lets +onlyGivenNames -underBinder x; (with_reducible refine Keeps.cut (v := x) ?_ (fun hx => ?_)); subst x; rotate_left; clear_value x; rotate_right)
    | (extract_lets +onlyGivenNames -underBinder x; clear_value x)
    | ((with_reducible apply State.clearFault_keeps); (case hm => exact rfl))
    | ((with_reducible apply State.upChan_keeps); (case hm => exact rfl))
    | ((with_reducible apply State.setLevel_keeps); (case hm => exact rfl))
    | ((with_reducible apply State.relL0_keeps); (case hm => exact rfl))
    | (with_reducible refine Keeps.fold _ _ ?_ (fun u b hu => ?_))
    | split
    | (dsimp only)

theorem State.startGap_keeps {n0 : Nat} {s0 : State} {s : State} {n : Nat} {m : Nat} (hK : Keeps n0 s0 s) (hm : Keeps.sub 0x104 n0 = true) :
    Keeps n0 s0 (State.startGap s n m) := by
  refine Keeps.step hK ?_ hm
  clear hK hm
  unfold State.startGap
  repeat' first
    | with_reducible exact Keeps.refl _ _
    | with_reducible assumption
    | ((with_reducible apply State.upChan_keeps); (case hm => exact rfl))
    | split
    | (dsimp only)

theorem State.changeMode_keeps {n0 : Nat} {s0 : State} {s : State} {n : Nat} (hK : Keeps n0 s0 s) (hm : Keeps.sub 0x40704 n0 = true) :
    Keeps n0 s0 (State.changeMode s n) := by
  refine Keeps.step hK ?_ hm
  clear hK hm
  unfold State.changeMode
  repeat' first
    | with_reducible exact Keeps.refl _ _
    | with_reducible assumption
    | (extract_lets +onlyGivenNames -underBinder x; (with_reducible refine Keeps.cut (v := x) ?_ (fun hx => ?_)); subst x; rotate_left; clear_value x; rotate_right)
    | (extract_lets +onlyGivenNames -underBinder x; clear_value x)
    | ((with_reducible apply State.budgetFaces_keeps); (case hm => exact rfl))
    | ((with_reducible apply State.set_keeps); (case hm => exact rfl))
    | ((with_reducible apply State.clearForMode_keeps); (case hm => exact rfl))
    | ((with_reducible apply State.startGap_keeps); (case hm => exact rfl))
    | split
    | (dsimp only)

theorem State.firstEnter_keeps {n0 : Nat} {s0 : State} {s : State} {n : Nat} (hK : Keeps n0 s0 s) (hm : Keeps.sub 0x104 n0 = true) :
    Keeps n0 s0 (State.firstEnter s n) := by
  refine Keeps.step hK ?_ hm
  clear hK hm
  unfold State.firstEnter
  repeat' first
    | with_reducible exact Keeps.refl _ _
    | with_reducible assumption
    | (extract_lets +onlyGivenNames -underBinder x; (with_reducible refine Keeps.cut (v := x) ?_ (fun hx => ?_)); subst x; rotate_left; clear_value x; rotate_right)
    | (extract_lets +onlyGivenNames -underBinder x; clear_value x)
    | ((with_reducible apply State.set_keeps); (case hm => exact rfl))
    | ((with_reducible apply State.upChan_keeps); (case hm => exact rfl))
    | split
    | (dsimp only)

theorem State.takeChanEn_keeps {n0 : Nat} {s0 : State} {s : State} {n : Nat} (hK : Keeps n0 s0 s) (hm : Keeps.sub 0x104 n0 = true) :
    Keeps n0 s0 (State.takeChanEn s n) := by
  refine Keeps.step hK ?_ hm
  clear hK hm
  unfold State.takeChanEn
  repeat' first
    | with_reducible exact Keeps.refl _ _
    | with_reducible assumption
    | (extract_lets +onlyGivenNames -underBinder x; (with_reducible refine Keeps.cut (v := x) ?_ (fun hx => ?_)); subst x; rotate_left; clear_value x; rotate_right)
    | (extract_lets +onlyGivenNames -underBinder x; clear_value x)
    | ((with_reducible apply State.upChan_keeps); (case hm => exact rfl))
    | ((with_reducible apply State.startGap_keeps); (case hm => exact rfl))
    | split
    | (dsimp only)

theorem State.raiseRdbk_keeps {n0 : Nat} {s0 : State} {s : State} {n : Nat} (hK : Keeps n0 s0 s) (hm : Keeps.sub 0x40104 n0 = true) :
    Keeps n0 s0 (State.raiseRdbk s n) := by
  refine Keeps.step hK ?_ hm
  clear hK hm
  unfold State.raiseRdbk
  repeat' first
    | with_reducible exact Keeps.refl _ _
    | with_reducible assumption
    | (extract_lets +onlyGivenNames -underBinder x; (with_reducible refine Keeps.cut (v := x) ?_ (fun hx => ?_)); subst x; rotate_left; clear_value x; rotate_right)
    | (extract_lets +onlyGivenNames -underBinder x; clear_value x)
    | ((with_reducible apply State.upChan_keeps); (case hm => exact rfl))
    | ((with_reducible apply State.raise_keeps); (case hm => exact rfl))
    | ((with_reducible apply State.markFault_keeps); (case hm => exact rfl))
    | (dsimp only)

theorem State.clearLatched_keeps {n0 : Nat} {s0 : State} {s : State} {n : Nat} {cause : Nat} (hK : Keeps n0 s0 s) (hm : Keeps.sub 0x40104 n0 = true) :
    Keeps n0 s0 (State.clearLatched s n cause) := by
  refine Keeps.step hK ?_ hm
  clear hK hm
  unfold State.clearLatched
  repeat' first
    | with_reducible exact Keeps.refl _ _
    | with_reducible assumption
    | (extract_lets +onlyGivenNames -underBinder x; (with_reducible refine Keeps.cut (v := x) ?_ (fun hx => ?_)); subst x; rotate_left; clear_value x; rotate_right)
    | (extract_lets +onlyGivenNames -underBinder x; clear_value x)
    | ((with_reducible apply State.clearFault_keeps); (case hm => exact rfl))
    | ((with_reducible apply State.upChan_keeps); (case hm => exact rfl))
    | ((with_reducible apply State.markFault_keeps); (case hm => exact rfl))
    | split
    | (dsimp only)

theorem State.countInput_keeps {n0 : Nat} {s0 : State} {s : State} {n : Nat} {k : Nat} {cause : Nat} {holds : Bool} (hK : Keeps n0 s0 s) (hm : Keeps.sub 0x40104 n0 = true) :
    Keeps n0 s0 (State.countInput s n k cause holds) := by
  refine Keeps.step hK ?_ hm
  clear hK hm
  unfold State.countInput
  repeat' first
    | with_reducible exact Keeps.refl _ _
    | with_reducible assumption
    | (extract_lets +onlyGivenNames -underBinder x; (with_reducible refine Keeps.cut (v := x) ?_ (fun hx => ?_)); subst x; rotate_left; clear_value x; rotate_right)
    | (extract_lets +onlyGivenNames -underBinder x; clear_value x)
    | ((with_reducible apply State.modChan_keeps); (case hm => exact rfl))
    | ((with_reducible apply State.clearFault_keeps); (case hm => exact rfl))
    | ((with_reducible apply State.raise_keeps); (case hm => exact rfl))
    | ((with_reducible apply State.markFault_keeps); (case hm => exact rfl))
    | split
    | (dsimp only)

theorem State.ovv_keeps {n0 : Nat} {s0 : State} {s : State} {n : Nat} {mv : Int} (hK : Keeps n0 s0 s) (hm : Keeps.sub 0x40104 n0 = true) :
    Keeps n0 s0 (State.ovv s n mv) := by
  refine Keeps.step hK ?_ hm
  clear hK hm
  unfold State.ovv
  repeat' first
    | with_reducible exact Keeps.refl _ _
    | with_reducible assumption
    | (extract_lets +onlyGivenNames -underBinder x; (with_reducible refine Keeps.cut (v := x) ?_ (fun hx => ?_)); subst x; rotate_left; clear_value x; rotate_right)
    | (extract_lets +onlyGivenNames -underBinder x; clear_value x)
    | ((with_reducible apply State.upChan_keeps); (case hm => exact rfl))
    | ((with_reducible apply State.raise_keeps); (case hm => exact rfl))
    | ((with_reducible apply State.markFault_keeps); (case hm => exact rfl))
    | split
    | (dsimp only)

theorem State.leaveProtect_keeps {n0 : Nat} {s0 : State} {s : State} {n : Nat} (hK : Keeps n0 s0 s) (hm : Keeps.sub 0x40104 n0 = true) :
    Keeps n0 s0 (State.leaveProtect s n) := by
  refine Keeps.step hK ?_ hm
  clear hK hm
  unfold State.leaveProtect
  repeat' first
    | with_reducible exact Keeps.refl _ _
    | with_reducible assumption
    | (extract_lets +onlyGivenNames -underBinder x; (with_reducible refine Keeps.cut (v := x) ?_ (fun hx => ?_)); subst x; rotate_left; clear_value x; rotate_right)
    | (extract_lets +onlyGivenNames -underBinder x; clear_value x)
    | ((with_reducible apply State.clearFault_keeps); (case hm => exact rfl))
    | ((with_reducible apply State.markFault_keeps); (case hm => exact rfl))
    | ((with_reducible apply State.startGap_keeps); (case hm => exact rfl))
    | (dsimp only)

theorem State.lswEvent_keeps {n0 : Nat} {s0 : State} {s : State} {n : Nat} {cause : Nat} (hK : Keeps n0 s0 s) (hm : Keeps.sub 0x40104 n0 = true) :
    Keeps n0 s0 (State.lswEvent s n cause) := by
  refine Keeps.step hK ?_ hm
  clear hK hm
  unfold State.lswEvent
  repeat' first
    | with_reducible exact Keeps.refl _ _
    | with_reducible assumption
    | (extract_lets +onlyGivenNames -underBinder x; (with_reducible refine Keeps.cut (v := x) ?_ (fun hx => ?_)); subst x; rotate_left; clear_value x; rotate_right)
    | (extract_lets +onlyGivenNames -underBinder x; clear_value x)
    | ((with_reducible apply State.clearFault_keeps); (case hm => exact rfl))
    | ((with_reducible apply State.upChan_keeps); (case hm => exact rfl))
    | ((with_reducible apply State.raise_keeps); (case hm => exact rfl))
    | ((with_reducible apply State.markFault_keeps); (case hm => exact rfl))
    | split
    | (dsimp only)

theorem State.readbackOne_keeps {n0 : Nat} {s0 : State} {s : State} {sluice : State → Nat → Option State} {frameStart : Nat} {n : Nat} {m : Int} {high : Option Int} (hS : ∀ a b u, sluice a b = some u → Keeps 524292 a u) (hK : Keeps n0 s0 s) (hm : Keeps.sub 0xc0104 n0 = true) :
    Keeps n0 s0 (State.readbackOne s sluice frameStart n m high) := by
  refine Keeps.step hK ?_ hm
  clear hK hm
  unfold State.readbackOne
  repeat' first
    | with_reducible exact Keeps.refl _ _
    | with_reducible assumption
    | (extract_lets +onlyGivenNames -underBinder x; (with_reducible refine Keeps.cut (v := x) ?_ (fun hx => ?_)); subst x; rotate_left; clear_value x; rotate_right)
    | (extract_lets +onlyGivenNames -underBinder x; clear_value x)
    | ((with_reducible apply State.upChan_keeps); (case hm => exact rfl))
    | ((with_reducible apply State.raiseRdbk_keeps); (case hm => exact rfl))
    | (with_reducible refine Keeps.ofP2 (by assumption) ?_)
    | (with_reducible refine Keeps.ofP1 (by assumption) ?_)
    | (with_reducible refine Keeps.ofP3 (by assumption) ?_)
    | (with_reducible refine Keeps.step (m := 524292) ?_ (hS _ _ _ (by assumption)) rfl)
    | split
    | (dsimp only)

end Sys2Proof.Machine
end

