-- ==== Sys2Proof/Laws/State.lean ====
section
/-! SUPPORT. What the updates of the state leave alone: for each, one lemma per field it does not touch and one per reading that
does not depend on what it writes. -/
set_option Elab.async false
namespace Sys2Proof.Machine

/-! `setWord` -/
@[simp] theorem State.setWord_pending (s : State) (a : Nat) (w : Word) : (s.setWord a w).pending = s.pending := rfl
@[simp] theorem State.setWord_now (s : State) (a : Nat) (w : Word) : (s.setWord a w).now = s.now := rfl
@[simp] theorem State.setWord_held (s : State) (a : Nat) (w : Word) : (s.setWord a w).held = s.held := rfl
@[simp] theorem State.setWord_frozen (s : State) (a : Nat) (w : Word) : (s.setWord a w).frozen = s.frozen := rfl
@[simp] theorem State.setWord_softRst (s : State) (a : Nat) (w : Word) : (s.setWord a w).softRst = s.softRst := rfl
@[simp] theorem State.setWord_port (s : State) (a : Nat) (w : Word) : (s.setWord a w).port = s.port := rfl
@[simp] theorem State.setWord_lath (s : State) (a : Nat) (w : Word) : (s.setWord a w).lath = s.lath := rfl
@[simp] theorem State.setWord_uch (s : State) (a : Nat) (w : Word) : (s.setWord a w).uch = s.uch := rfl
@[simp] theorem State.setWord_lv (s : State) (a : Nat) (w : Word) : (s.setWord a w).lv = s.lv := rfl
@[simp] theorem State.setWord_l0 (s : State) (a : Nat) (w : Word) : (s.setWord a w).l0 = s.l0 := rfl
@[simp] theorem State.setWord_stL (s : State) (a : Nat) (w : Word) : (s.setWord a w).stL = s.stL := rfl
@[simp] theorem State.setWord_stS (s : State) (a : Nat) (w : Word) : (s.setWord a w).stS = s.stS := rfl
@[simp] theorem State.setWord_hostLv (s : State) (a : Nat) (w : Word) : (s.setWord a w).hostLv = s.hostLv := rfl
@[simp] theorem State.setWord_vis (s : State) (a : Nat) (w : Word) : (s.setWord a w).vis = s.vis := rfl
@[simp] theorem State.setWord_img (s : State) (a : Nat) (w : Word) : (s.setWord a w).img = s.img := rfl
@[simp] theorem State.setWord_lwork (s : State) (a : Nat) (w : Word) : (s.setWord a w).lwork = s.lwork := rfl
@[simp] theorem State.setWord_swork (s : State) (a : Nat) (w : Word) : (s.setWord a w).swork = s.swork := rfl
@[simp] theorem State.setWord_flt (s : State) (a : Nat) (w : Word) : (s.setWord a w).flt = s.flt := rfl
@[simp] theorem State.setWord_cores (s : State) (a : Nat) (w : Word) : (s.setWord a w).cores = s.cores := rfl
@[simp] theorem State.setWord_nst (s : State) (a : Nat) (w : Word) : (s.setWord a w).nst = s.nst := rfl
@[simp] theorem State.setWord_dir (s : State) (a : Nat) (w : Word) : (s.setWord a w).dir = s.dir := rfl
@[simp] theorem State.setWord_boot (s : State) (a : Nat) (w : Word) : (s.setWord a w).boot = s.boot := rfl
@[simp] theorem State.setWord_sto (s : State) (a : Nat) (w : Word) : (s.setWord a w).sto = s.sto := rfl
@[simp] theorem State.setWord_eng (s : State) (a : Nat) (w : Word) : (s.setWord a w).eng = s.eng := rfl
@[simp] theorem State.setWord_engL (s : State) (a : Nat) (w : Word) : (s.setWord a w).engL = s.engL := rfl
@[simp] theorem State.setWord_engS (s : State) (a : Nat) (w : Word) : (s.setWord a w).engS = s.engS := rfl
@[simp] theorem State.setWord_evL (s : State) (a : Nat) (w : Word) : (s.setWord a w).evL = s.evL := rfl
@[simp] theorem State.setWord_evS (s : State) (a : Nat) (w : Word) : (s.setWord a w).evS = s.evS := rfl
@[simp] theorem State.setWord_cap (s : State) (a : Nat) (w : Word) : (s.setWord a w).cap = s.cap := rfl
@[simp] theorem State.setWord_rbus (s : State) (a : Nat) (w : Word) : (s.setWord a w).rbus = s.rbus := rfl
@[simp] theorem State.setWord_pir (s : State) (a : Nat) (w : Word) : (s.setWord a w).pir = s.pir := rfl
@[simp] theorem State.setWord_tab (s : State) (a : Nat) (w : Word) : (s.setWord a w).tab = s.tab := rfl
@[simp] theorem State.setWord_hostZm (s : State) (a : Nat) (w : Word) : (s.setWord a w).hostZm = s.hostZm := rfl
@[simp] theorem State.setWord_stZ (s : State) (a : Nat) (w : Word) : (s.setWord a w).stZ = s.stZ := rfl
@[simp] theorem State.setWord_loopPar (s : State) (a : Nat) (w : Word) : (s.setWord a w).loopPar = s.loopPar := rfl
@[simp] theorem State.setWord_loopsL (s : State) (a : Nat) (w : Word) : (s.setWord a w).loopsL = s.loopsL := rfl
@[simp] theorem State.setWord_loopsS (s : State) (a : Nat) (w : Word) : (s.setWord a w).loopsS = s.loopsS := rfl
@[simp] theorem State.setWord_tmeCmd (s : State) (a : Nat) (w : Word) : (s.setWord a w).tmeCmd = s.tmeCmd := rfl
@[simp] theorem State.setWord_net (s : State) (a : Nat) (w : Word) : (s.setWord a w).net = s.net := rfl
@[simp] theorem State.setWord_fanIo (s : State) (a : Nat) (w : Word) : (s.setWord a w).fanIo = s.fanIo := rfl
@[simp] theorem State.setWord_key (s : State) (a : Nat) (w : Word) : (s.setWord a w).key = s.key := rfl
@[simp] theorem State.setWord_epd (s : State) (a : Nat) (w : Word) : (s.setWord a w).epd = s.epd := rfl
@[simp] theorem State.setWord_pwr (s : State) (a : Nat) (w : Word) : (s.setWord a w).pwr = s.pwr := rfl
@[simp] theorem State.setWord_clk (s : State) (a : Nat) (w : Word) : (s.setWord a w).clk = s.clk := rfl
@[simp] theorem State.setWord_uid (s : State) (a : Nat) (w : Word) : (s.setWord a w).uid = s.uid := rfl
@[simp] theorem State.setWord_lev (s : State) (a : Nat) (w : Word) : (s.setWord a w).lev = s.lev := rfl
@[simp] theorem State.setWord_fab (s : State) (a : Nat) (w : Word) : (s.setWord a w).fab = s.fab := rfl
@[simp] theorem State.setWord_dlv (s : State) (a : Nat) (w : Word) : (s.setWord a w).dlv = s.dlv := rfl
@[simp] theorem State.setWord_fresh (s : State) (a : Nat) (w : Word) : (s.setWord a w).fresh = s.fresh := rfl
@[simp] theorem State.setWord_chan (s : State) (a : Nat) (w : Word) (i' : Nat) : (s.setWord a w).chan i' = s.chan i' := rfl
@[simp] theorem State.setWord_level (s : State) (a : Nat) (w : Word) (i' : Nat) (j' : Nat) : (s.setWord a w).level i' j' = s.level i' j' := rfl
@[simp] theorem State.setWord_visVal (s : State) (a : Nat) (w : Word) (i' : Nat) : (s.setWord a w).visVal i' = s.visVal i' := rfl
@[simp] theorem State.setWord_core (s : State) (a : Nat) (w : Word) (i' : Nat) : (s.setWord a w).core i' = s.core i' := rfl
@[simp] theorem State.setWord_peatEnt (s : State) (a : Nat) (w : Word) (i' : Nat) : (s.setWord a w).peatEnt i' = s.peatEnt i' := rfl
@[simp] theorem State.setWord_fanSt (s : State) (a : Nat) (w : Word) (i' : Nat) : (s.setWord a w).fanSt i' = s.fanSt i' := rfl
@[simp] theorem State.setWord_tmeSt (s : State) (a : Nat) (w : Word) (i' : Nat) : (s.setWord a w).tmeSt i' = s.tmeSt i' := rfl
@[simp] theorem State.setWord_loopSt (s : State) (a : Nat) (w : Word) (i' : Nat) : (s.setWord a w).loopSt i' = s.loopSt i' := rfl

/-! `set` -/
@[simp] theorem State.set_pending (s : State) (f : Field) (v : Nat) : (s.set f v).pending = s.pending := rfl
@[simp] theorem State.set_now (s : State) (f : Field) (v : Nat) : (s.set f v).now = s.now := rfl
@[simp] theorem State.set_held (s : State) (f : Field) (v : Nat) : (s.set f v).held = s.held := rfl
@[simp] theorem State.set_frozen (s : State) (f : Field) (v : Nat) : (s.set f v).frozen = s.frozen := rfl
@[simp] theorem State.set_softRst (s : State) (f : Field) (v : Nat) : (s.set f v).softRst = s.softRst := rfl
@[simp] theorem State.set_port (s : State) (f : Field) (v : Nat) : (s.set f v).port = s.port := rfl
@[simp] theorem State.set_lath (s : State) (f : Field) (v : Nat) : (s.set f v).lath = s.lath := rfl
@[simp] theorem State.set_uch (s : State) (f : Field) (v : Nat) : (s.set f v).uch = s.uch := rfl
@[simp] theorem State.set_lv (s : State) (f : Field) (v : Nat) : (s.set f v).lv = s.lv := rfl
@[simp] theorem State.set_l0 (s : State) (f : Field) (v : Nat) : (s.set f v).l0 = s.l0 := rfl
@[simp] theorem State.set_stL (s : State) (f : Field) (v : Nat) : (s.set f v).stL = s.stL := rfl
@[simp] theorem State.set_stS (s : State) (f : Field) (v : Nat) : (s.set f v).stS = s.stS := rfl
@[simp] theorem State.set_hostLv (s : State) (f : Field) (v : Nat) : (s.set f v).hostLv = s.hostLv := rfl
@[simp] theorem State.set_vis (s : State) (f : Field) (v : Nat) : (s.set f v).vis = s.vis := rfl
@[simp] theorem State.set_img (s : State) (f : Field) (v : Nat) : (s.set f v).img = s.img := rfl
@[simp] theorem State.set_lwork (s : State) (f : Field) (v : Nat) : (s.set f v).lwork = s.lwork := rfl
@[simp] theorem State.set_swork (s : State) (f : Field) (v : Nat) : (s.set f v).swork = s.swork := rfl
@[simp] theorem State.set_flt (s : State) (f : Field) (v : Nat) : (s.set f v).flt = s.flt := rfl
@[simp] theorem State.set_cores (s : State) (f : Field) (v : Nat) : (s.set f v).cores = s.cores := rfl
@[simp] theorem State.set_nst (s : State) (f : Field) (v : Nat) : (s.set f v).nst = s.nst := rfl
@[simp] theorem State.set_dir (s : State) (f : Field) (v : Nat) : (s.set f v).dir = s.dir := rfl
@[simp] theorem State.set_boot (s : State) (f : Field) (v : Nat) : (s.set f v).boot = s.boot := rfl
@[simp] theorem State.set_sto (s : State) (f : Field) (v : Nat) : (s.set f v).sto = s.sto := rfl
@[simp] theorem State.set_eng (s : State) (f : Field) (v : Nat) : (s.set f v).eng = s.eng := rfl
@[simp] theorem State.set_engL (s : State) (f : Field) (v : Nat) : (s.set f v).engL = s.engL := rfl
@[simp] theorem State.set_engS (s : State) (f : Field) (v : Nat) : (s.set f v).engS = s.engS := rfl
@[simp] theorem State.set_evL (s : State) (f : Field) (v : Nat) : (s.set f v).evL = s.evL := rfl
@[simp] theorem State.set_evS (s : State) (f : Field) (v : Nat) : (s.set f v).evS = s.evS := rfl
@[simp] theorem State.set_cap (s : State) (f : Field) (v : Nat) : (s.set f v).cap = s.cap := rfl
@[simp] theorem State.set_rbus (s : State) (f : Field) (v : Nat) : (s.set f v).rbus = s.rbus := rfl
@[simp] theorem State.set_pir (s : State) (f : Field) (v : Nat) : (s.set f v).pir = s.pir := rfl
@[simp] theorem State.set_tab (s : State) (f : Field) (v : Nat) : (s.set f v).tab = s.tab := rfl
@[simp] theorem State.set_hostZm (s : State) (f : Field) (v : Nat) : (s.set f v).hostZm = s.hostZm := rfl
@[simp] theorem State.set_stZ (s : State) (f : Field) (v : Nat) : (s.set f v).stZ = s.stZ := rfl
@[simp] theorem State.set_loopPar (s : State) (f : Field) (v : Nat) : (s.set f v).loopPar = s.loopPar := rfl
@[simp] theorem State.set_loopsL (s : State) (f : Field) (v : Nat) : (s.set f v).loopsL = s.loopsL := rfl
@[simp] theorem State.set_loopsS (s : State) (f : Field) (v : Nat) : (s.set f v).loopsS = s.loopsS := rfl
@[simp] theorem State.set_tmeCmd (s : State) (f : Field) (v : Nat) : (s.set f v).tmeCmd = s.tmeCmd := rfl
@[simp] theorem State.set_net (s : State) (f : Field) (v : Nat) : (s.set f v).net = s.net := rfl
@[simp] theorem State.set_fanIo (s : State) (f : Field) (v : Nat) : (s.set f v).fanIo = s.fanIo := rfl
@[simp] theorem State.set_key (s : State) (f : Field) (v : Nat) : (s.set f v).key = s.key := rfl
@[simp] theorem State.set_epd (s : State) (f : Field) (v : Nat) : (s.set f v).epd = s.epd := rfl
@[simp] theorem State.set_pwr (s : State) (f : Field) (v : Nat) : (s.set f v).pwr = s.pwr := rfl
@[simp] theorem State.set_clk (s : State) (f : Field) (v : Nat) : (s.set f v).clk = s.clk := rfl
@[simp] theorem State.set_uid (s : State) (f : Field) (v : Nat) : (s.set f v).uid = s.uid := rfl
@[simp] theorem State.set_lev (s : State) (f : Field) (v : Nat) : (s.set f v).lev = s.lev := rfl
@[simp] theorem State.set_fab (s : State) (f : Field) (v : Nat) : (s.set f v).fab = s.fab := rfl
@[simp] theorem State.set_dlv (s : State) (f : Field) (v : Nat) : (s.set f v).dlv = s.dlv := rfl
@[simp] theorem State.set_fresh (s : State) (f : Field) (v : Nat) : (s.set f v).fresh = s.fresh := rfl
@[simp] theorem State.set_chan (s : State) (f : Field) (v : Nat) (i' : Nat) : (s.set f v).chan i' = s.chan i' := rfl
@[simp] theorem State.set_level (s : State) (f : Field) (v : Nat) (i' : Nat) (j' : Nat) : (s.set f v).level i' j' = s.level i' j' := rfl
@[simp] theorem State.set_visVal (s : State) (f : Field) (v : Nat) (i' : Nat) : (s.set f v).visVal i' = s.visVal i' := rfl
@[simp] theorem State.set_core (s : State) (f : Field) (v : Nat) (i' : Nat) : (s.set f v).core i' = s.core i' := rfl
@[simp] theorem State.set_peatEnt (s : State) (f : Field) (v : Nat) (i' : Nat) : (s.set f v).peatEnt i' = s.peatEnt i' := rfl
@[simp] theorem State.set_fanSt (s : State) (f : Field) (v : Nat) (i' : Nat) : (s.set f v).fanSt i' = s.fanSt i' := rfl
@[simp] theorem State.set_tmeSt (s : State) (f : Field) (v : Nat) (i' : Nat) : (s.set f v).tmeSt i' = s.tmeSt i' := rfl
@[simp] theorem State.set_loopSt (s : State) (f : Field) (v : Nat) (i' : Nat) : (s.set f v).loopSt i' = s.loopSt i' := rfl

/-! `setB` -/
@[simp] theorem State.setB_pending (s : State) (f : Field) (b : Bool) : (s.setB f b).pending = s.pending := rfl
@[simp] theorem State.setB_now (s : State) (f : Field) (b : Bool) : (s.setB f b).now = s.now := rfl
@[simp] theorem State.setB_held (s : State) (f : Field) (b : Bool) : (s.setB f b).held = s.held := rfl
@[simp] theorem State.setB_frozen (s : State) (f : Field) (b : Bool) : (s.setB f b).frozen = s.frozen := rfl
@[simp] theorem State.setB_softRst (s : State) (f : Field) (b : Bool) : (s.setB f b).softRst = s.softRst := rfl
@[simp] theorem State.setB_port (s : State) (f : Field) (b : Bool) : (s.setB f b).port = s.port := rfl
@[simp] theorem State.setB_lath (s : State) (f : Field) (b : Bool) : (s.setB f b).lath = s.lath := rfl
@[simp] theorem State.setB_uch (s : State) (f : Field) (b : Bool) : (s.setB f b).uch = s.uch := rfl
@[simp] theorem State.setB_lv (s : State) (f : Field) (b : Bool) : (s.setB f b).lv = s.lv := rfl
@[simp] theorem State.setB_l0 (s : State) (f : Field) (b : Bool) : (s.setB f b).l0 = s.l0 := rfl
@[simp] theorem State.setB_stL (s : State) (f : Field) (b : Bool) : (s.setB f b).stL = s.stL := rfl
@[simp] theorem State.setB_stS (s : State) (f : Field) (b : Bool) : (s.setB f b).stS = s.stS := rfl
@[simp] theorem State.setB_hostLv (s : State) (f : Field) (b : Bool) : (s.setB f b).hostLv = s.hostLv := rfl
@[simp] theorem State.setB_vis (s : State) (f : Field) (b : Bool) : (s.setB f b).vis = s.vis := rfl
@[simp] theorem State.setB_img (s : State) (f : Field) (b : Bool) : (s.setB f b).img = s.img := rfl
@[simp] theorem State.setB_lwork (s : State) (f : Field) (b : Bool) : (s.setB f b).lwork = s.lwork := rfl
@[simp] theorem State.setB_swork (s : State) (f : Field) (b : Bool) : (s.setB f b).swork = s.swork := rfl
@[simp] theorem State.setB_flt (s : State) (f : Field) (b : Bool) : (s.setB f b).flt = s.flt := rfl
@[simp] theorem State.setB_cores (s : State) (f : Field) (b : Bool) : (s.setB f b).cores = s.cores := rfl
@[simp] theorem State.setB_nst (s : State) (f : Field) (b : Bool) : (s.setB f b).nst = s.nst := rfl
@[simp] theorem State.setB_dir (s : State) (f : Field) (b : Bool) : (s.setB f b).dir = s.dir := rfl
@[simp] theorem State.setB_boot (s : State) (f : Field) (b : Bool) : (s.setB f b).boot = s.boot := rfl
@[simp] theorem State.setB_sto (s : State) (f : Field) (b : Bool) : (s.setB f b).sto = s.sto := rfl
@[simp] theorem State.setB_eng (s : State) (f : Field) (b : Bool) : (s.setB f b).eng = s.eng := rfl
@[simp] theorem State.setB_engL (s : State) (f : Field) (b : Bool) : (s.setB f b).engL = s.engL := rfl
@[simp] theorem State.setB_engS (s : State) (f : Field) (b : Bool) : (s.setB f b).engS = s.engS := rfl
@[simp] theorem State.setB_evL (s : State) (f : Field) (b : Bool) : (s.setB f b).evL = s.evL := rfl
@[simp] theorem State.setB_evS (s : State) (f : Field) (b : Bool) : (s.setB f b).evS = s.evS := rfl
@[simp] theorem State.setB_cap (s : State) (f : Field) (b : Bool) : (s.setB f b).cap = s.cap := rfl
@[simp] theorem State.setB_rbus (s : State) (f : Field) (b : Bool) : (s.setB f b).rbus = s.rbus := rfl
@[simp] theorem State.setB_pir (s : State) (f : Field) (b : Bool) : (s.setB f b).pir = s.pir := rfl
@[simp] theorem State.setB_tab (s : State) (f : Field) (b : Bool) : (s.setB f b).tab = s.tab := rfl
@[simp] theorem State.setB_hostZm (s : State) (f : Field) (b : Bool) : (s.setB f b).hostZm = s.hostZm := rfl
@[simp] theorem State.setB_stZ (s : State) (f : Field) (b : Bool) : (s.setB f b).stZ = s.stZ := rfl
@[simp] theorem State.setB_loopPar (s : State) (f : Field) (b : Bool) : (s.setB f b).loopPar = s.loopPar := rfl
@[simp] theorem State.setB_loopsL (s : State) (f : Field) (b : Bool) : (s.setB f b).loopsL = s.loopsL := rfl
@[simp] theorem State.setB_loopsS (s : State) (f : Field) (b : Bool) : (s.setB f b).loopsS = s.loopsS := rfl
@[simp] theorem State.setB_tmeCmd (s : State) (f : Field) (b : Bool) : (s.setB f b).tmeCmd = s.tmeCmd := rfl
@[simp] theorem State.setB_net (s : State) (f : Field) (b : Bool) : (s.setB f b).net = s.net := rfl
@[simp] theorem State.setB_fanIo (s : State) (f : Field) (b : Bool) : (s.setB f b).fanIo = s.fanIo := rfl
@[simp] theorem State.setB_key (s : State) (f : Field) (b : Bool) : (s.setB f b).key = s.key := rfl
@[simp] theorem State.setB_epd (s : State) (f : Field) (b : Bool) : (s.setB f b).epd = s.epd := rfl
@[simp] theorem State.setB_pwr (s : State) (f : Field) (b : Bool) : (s.setB f b).pwr = s.pwr := rfl
@[simp] theorem State.setB_clk (s : State) (f : Field) (b : Bool) : (s.setB f b).clk = s.clk := rfl
@[simp] theorem State.setB_uid (s : State) (f : Field) (b : Bool) : (s.setB f b).uid = s.uid := rfl
@[simp] theorem State.setB_lev (s : State) (f : Field) (b : Bool) : (s.setB f b).lev = s.lev := rfl
@[simp] theorem State.setB_fab (s : State) (f : Field) (b : Bool) : (s.setB f b).fab = s.fab := rfl
@[simp] theorem State.setB_dlv (s : State) (f : Field) (b : Bool) : (s.setB f b).dlv = s.dlv := rfl
@[simp] theorem State.setB_fresh (s : State) (f : Field) (b : Bool) : (s.setB f b).fresh = s.fresh := rfl
@[simp] theorem State.setB_chan (s : State) (f : Field) (b : Bool) (i' : Nat) : (s.setB f b).chan i' = s.chan i' := rfl
@[simp] theorem State.setB_level (s : State) (f : Field) (b : Bool) (i' : Nat) (j' : Nat) : (s.setB f b).level i' j' = s.level i' j' := rfl
@[simp] theorem State.setB_visVal (s : State) (f : Field) (b : Bool) (i' : Nat) : (s.setB f b).visVal i' = s.visVal i' := rfl
@[simp] theorem State.setB_core (s : State) (f : Field) (b : Bool) (i' : Nat) : (s.setB f b).core i' = s.core i' := rfl
@[simp] theorem State.setB_peatEnt (s : State) (f : Field) (b : Bool) (i' : Nat) : (s.setB f b).peatEnt i' = s.peatEnt i' := rfl
@[simp] theorem State.setB_fanSt (s : State) (f : Field) (b : Bool) (i' : Nat) : (s.setB f b).fanSt i' = s.fanSt i' := rfl
@[simp] theorem State.setB_tmeSt (s : State) (f : Field) (b : Bool) (i' : Nat) : (s.setB f b).tmeSt i' = s.tmeSt i' := rfl
@[simp] theorem State.setB_loopSt (s : State) (f : Field) (b : Bool) (i' : Nat) : (s.setB f b).loopSt i' = s.loopSt i' := rfl

/-! `seti` -/
@[simp] theorem State.seti_pending (s : State) (f : Field) (v : Int) : (s.seti f v).pending = s.pending := rfl
@[simp] theorem State.seti_now (s : State) (f : Field) (v : Int) : (s.seti f v).now = s.now := rfl
@[simp] theorem State.seti_held (s : State) (f : Field) (v : Int) : (s.seti f v).held = s.held := rfl
@[simp] theorem State.seti_frozen (s : State) (f : Field) (v : Int) : (s.seti f v).frozen = s.frozen := rfl
@[simp] theorem State.seti_softRst (s : State) (f : Field) (v : Int) : (s.seti f v).softRst = s.softRst := rfl
@[simp] theorem State.seti_port (s : State) (f : Field) (v : Int) : (s.seti f v).port = s.port := rfl
@[simp] theorem State.seti_lath (s : State) (f : Field) (v : Int) : (s.seti f v).lath = s.lath := rfl
@[simp] theorem State.seti_uch (s : State) (f : Field) (v : Int) : (s.seti f v).uch = s.uch := rfl
@[simp] theorem State.seti_lv (s : State) (f : Field) (v : Int) : (s.seti f v).lv = s.lv := rfl
@[simp] theorem State.seti_l0 (s : State) (f : Field) (v : Int) : (s.seti f v).l0 = s.l0 := rfl
@[simp] theorem State.seti_stL (s : State) (f : Field) (v : Int) : (s.seti f v).stL = s.stL := rfl
@[simp] theorem State.seti_stS (s : State) (f : Field) (v : Int) : (s.seti f v).stS = s.stS := rfl
@[simp] theorem State.seti_hostLv (s : State) (f : Field) (v : Int) : (s.seti f v).hostLv = s.hostLv := rfl
@[simp] theorem State.seti_vis (s : State) (f : Field) (v : Int) : (s.seti f v).vis = s.vis := rfl
@[simp] theorem State.seti_img (s : State) (f : Field) (v : Int) : (s.seti f v).img = s.img := rfl
@[simp] theorem State.seti_lwork (s : State) (f : Field) (v : Int) : (s.seti f v).lwork = s.lwork := rfl
@[simp] theorem State.seti_swork (s : State) (f : Field) (v : Int) : (s.seti f v).swork = s.swork := rfl
@[simp] theorem State.seti_flt (s : State) (f : Field) (v : Int) : (s.seti f v).flt = s.flt := rfl
@[simp] theorem State.seti_cores (s : State) (f : Field) (v : Int) : (s.seti f v).cores = s.cores := rfl
@[simp] theorem State.seti_nst (s : State) (f : Field) (v : Int) : (s.seti f v).nst = s.nst := rfl
@[simp] theorem State.seti_dir (s : State) (f : Field) (v : Int) : (s.seti f v).dir = s.dir := rfl
@[simp] theorem State.seti_boot (s : State) (f : Field) (v : Int) : (s.seti f v).boot = s.boot := rfl
@[simp] theorem State.seti_sto (s : State) (f : Field) (v : Int) : (s.seti f v).sto = s.sto := rfl
@[simp] theorem State.seti_eng (s : State) (f : Field) (v : Int) : (s.seti f v).eng = s.eng := rfl
@[simp] theorem State.seti_engL (s : State) (f : Field) (v : Int) : (s.seti f v).engL = s.engL := rfl
@[simp] theorem State.seti_engS (s : State) (f : Field) (v : Int) : (s.seti f v).engS = s.engS := rfl
@[simp] theorem State.seti_evL (s : State) (f : Field) (v : Int) : (s.seti f v).evL = s.evL := rfl
@[simp] theorem State.seti_evS (s : State) (f : Field) (v : Int) : (s.seti f v).evS = s.evS := rfl
@[simp] theorem State.seti_cap (s : State) (f : Field) (v : Int) : (s.seti f v).cap = s.cap := rfl
@[simp] theorem State.seti_rbus (s : State) (f : Field) (v : Int) : (s.seti f v).rbus = s.rbus := rfl
@[simp] theorem State.seti_pir (s : State) (f : Field) (v : Int) : (s.seti f v).pir = s.pir := rfl
@[simp] theorem State.seti_tab (s : State) (f : Field) (v : Int) : (s.seti f v).tab = s.tab := rfl
@[simp] theorem State.seti_hostZm (s : State) (f : Field) (v : Int) : (s.seti f v).hostZm = s.hostZm := rfl
@[simp] theorem State.seti_stZ (s : State) (f : Field) (v : Int) : (s.seti f v).stZ = s.stZ := rfl
@[simp] theorem State.seti_loopPar (s : State) (f : Field) (v : Int) : (s.seti f v).loopPar = s.loopPar := rfl
@[simp] theorem State.seti_loopsL (s : State) (f : Field) (v : Int) : (s.seti f v).loopsL = s.loopsL := rfl
@[simp] theorem State.seti_loopsS (s : State) (f : Field) (v : Int) : (s.seti f v).loopsS = s.loopsS := rfl
@[simp] theorem State.seti_tmeCmd (s : State) (f : Field) (v : Int) : (s.seti f v).tmeCmd = s.tmeCmd := rfl
@[simp] theorem State.seti_net (s : State) (f : Field) (v : Int) : (s.seti f v).net = s.net := rfl
@[simp] theorem State.seti_fanIo (s : State) (f : Field) (v : Int) : (s.seti f v).fanIo = s.fanIo := rfl
@[simp] theorem State.seti_key (s : State) (f : Field) (v : Int) : (s.seti f v).key = s.key := rfl
@[simp] theorem State.seti_epd (s : State) (f : Field) (v : Int) : (s.seti f v).epd = s.epd := rfl
@[simp] theorem State.seti_pwr (s : State) (f : Field) (v : Int) : (s.seti f v).pwr = s.pwr := rfl
@[simp] theorem State.seti_clk (s : State) (f : Field) (v : Int) : (s.seti f v).clk = s.clk := rfl
@[simp] theorem State.seti_uid (s : State) (f : Field) (v : Int) : (s.seti f v).uid = s.uid := rfl
@[simp] theorem State.seti_lev (s : State) (f : Field) (v : Int) : (s.seti f v).lev = s.lev := rfl
@[simp] theorem State.seti_fab (s : State) (f : Field) (v : Int) : (s.seti f v).fab = s.fab := rfl
@[simp] theorem State.seti_dlv (s : State) (f : Field) (v : Int) : (s.seti f v).dlv = s.dlv := rfl
@[simp] theorem State.seti_fresh (s : State) (f : Field) (v : Int) : (s.seti f v).fresh = s.fresh := rfl
@[simp] theorem State.seti_chan (s : State) (f : Field) (v : Int) (i' : Nat) : (s.seti f v).chan i' = s.chan i' := rfl
@[simp] theorem State.seti_level (s : State) (f : Field) (v : Int) (i' : Nat) (j' : Nat) : (s.seti f v).level i' j' = s.level i' j' := rfl
@[simp] theorem State.seti_visVal (s : State) (f : Field) (v : Int) (i' : Nat) : (s.seti f v).visVal i' = s.visVal i' := rfl
@[simp] theorem State.seti_core (s : State) (f : Field) (v : Int) (i' : Nat) : (s.seti f v).core i' = s.core i' := rfl
@[simp] theorem State.seti_peatEnt (s : State) (f : Field) (v : Int) (i' : Nat) : (s.seti f v).peatEnt i' = s.peatEnt i' := rfl
@[simp] theorem State.seti_fanSt (s : State) (f : Field) (v : Int) (i' : Nat) : (s.seti f v).fanSt i' = s.fanSt i' := rfl
@[simp] theorem State.seti_tmeSt (s : State) (f : Field) (v : Int) (i' : Nat) : (s.seti f v).tmeSt i' = s.tmeSt i' := rfl
@[simp] theorem State.seti_loopSt (s : State) (f : Field) (v : Int) (i' : Nat) : (s.seti f v).loopSt i' = s.loopSt i' := rfl

/-! `bump` -/
@[simp] theorem State.bump_pending (s : State) (f : Field) : (s.bump f).pending = s.pending := rfl
@[simp] theorem State.bump_now (s : State) (f : Field) : (s.bump f).now = s.now := rfl
@[simp] theorem State.bump_held (s : State) (f : Field) : (s.bump f).held = s.held := rfl
@[simp] theorem State.bump_frozen (s : State) (f : Field) : (s.bump f).frozen = s.frozen := rfl
@[simp] theorem State.bump_softRst (s : State) (f : Field) : (s.bump f).softRst = s.softRst := rfl
@[simp] theorem State.bump_port (s : State) (f : Field) : (s.bump f).port = s.port := rfl
@[simp] theorem State.bump_lath (s : State) (f : Field) : (s.bump f).lath = s.lath := rfl
@[simp] theorem State.bump_uch (s : State) (f : Field) : (s.bump f).uch = s.uch := rfl
@[simp] theorem State.bump_lv (s : State) (f : Field) : (s.bump f).lv = s.lv := rfl
@[simp] theorem State.bump_l0 (s : State) (f : Field) : (s.bump f).l0 = s.l0 := rfl
@[simp] theorem State.bump_stL (s : State) (f : Field) : (s.bump f).stL = s.stL := rfl
@[simp] theorem State.bump_stS (s : State) (f : Field) : (s.bump f).stS = s.stS := rfl
@[simp] theorem State.bump_hostLv (s : State) (f : Field) : (s.bump f).hostLv = s.hostLv := rfl
@[simp] theorem State.bump_vis (s : State) (f : Field) : (s.bump f).vis = s.vis := rfl
@[simp] theorem State.bump_img (s : State) (f : Field) : (s.bump f).img = s.img := rfl
@[simp] theorem State.bump_lwork (s : State) (f : Field) : (s.bump f).lwork = s.lwork := rfl
@[simp] theorem State.bump_swork (s : State) (f : Field) : (s.bump f).swork = s.swork := rfl
@[simp] theorem State.bump_flt (s : State) (f : Field) : (s.bump f).flt = s.flt := rfl
@[simp] theorem State.bump_cores (s : State) (f : Field) : (s.bump f).cores = s.cores := rfl
@[simp] theorem State.bump_nst (s : State) (f : Field) : (s.bump f).nst = s.nst := rfl
@[simp] theorem State.bump_dir (s : State) (f : Field) : (s.bump f).dir = s.dir := rfl
@[simp] theorem State.bump_boot (s : State) (f : Field) : (s.bump f).boot = s.boot := rfl
@[simp] theorem State.bump_sto (s : State) (f : Field) : (s.bump f).sto = s.sto := rfl
@[simp] theorem State.bump_eng (s : State) (f : Field) : (s.bump f).eng = s.eng := rfl
@[simp] theorem State.bump_engL (s : State) (f : Field) : (s.bump f).engL = s.engL := rfl
@[simp] theorem State.bump_engS (s : State) (f : Field) : (s.bump f).engS = s.engS := rfl
@[simp] theorem State.bump_evL (s : State) (f : Field) : (s.bump f).evL = s.evL := rfl
@[simp] theorem State.bump_evS (s : State) (f : Field) : (s.bump f).evS = s.evS := rfl
@[simp] theorem State.bump_cap (s : State) (f : Field) : (s.bump f).cap = s.cap := rfl
@[simp] theorem State.bump_rbus (s : State) (f : Field) : (s.bump f).rbus = s.rbus := rfl
@[simp] theorem State.bump_pir (s : State) (f : Field) : (s.bump f).pir = s.pir := rfl
@[simp] theorem State.bump_tab (s : State) (f : Field) : (s.bump f).tab = s.tab := rfl
@[simp] theorem State.bump_hostZm (s : State) (f : Field) : (s.bump f).hostZm = s.hostZm := rfl
@[simp] theorem State.bump_stZ (s : State) (f : Field) : (s.bump f).stZ = s.stZ := rfl
@[simp] theorem State.bump_loopPar (s : State) (f : Field) : (s.bump f).loopPar = s.loopPar := rfl
@[simp] theorem State.bump_loopsL (s : State) (f : Field) : (s.bump f).loopsL = s.loopsL := rfl
@[simp] theorem State.bump_loopsS (s : State) (f : Field) : (s.bump f).loopsS = s.loopsS := rfl
@[simp] theorem State.bump_tmeCmd (s : State) (f : Field) : (s.bump f).tmeCmd = s.tmeCmd := rfl
@[simp] theorem State.bump_net (s : State) (f : Field) : (s.bump f).net = s.net := rfl
@[simp] theorem State.bump_fanIo (s : State) (f : Field) : (s.bump f).fanIo = s.fanIo := rfl
@[simp] theorem State.bump_key (s : State) (f : Field) : (s.bump f).key = s.key := rfl
@[simp] theorem State.bump_epd (s : State) (f : Field) : (s.bump f).epd = s.epd := rfl
@[simp] theorem State.bump_pwr (s : State) (f : Field) : (s.bump f).pwr = s.pwr := rfl
@[simp] theorem State.bump_clk (s : State) (f : Field) : (s.bump f).clk = s.clk := rfl
@[simp] theorem State.bump_uid (s : State) (f : Field) : (s.bump f).uid = s.uid := rfl
@[simp] theorem State.bump_lev (s : State) (f : Field) : (s.bump f).lev = s.lev := rfl
@[simp] theorem State.bump_fab (s : State) (f : Field) : (s.bump f).fab = s.fab := rfl
@[simp] theorem State.bump_dlv (s : State) (f : Field) : (s.bump f).dlv = s.dlv := rfl
@[simp] theorem State.bump_fresh (s : State) (f : Field) : (s.bump f).fresh = s.fresh := rfl
@[simp] theorem State.bump_chan (s : State) (f : Field) (i' : Nat) : (s.bump f).chan i' = s.chan i' := rfl
@[simp] theorem State.bump_level (s : State) (f : Field) (i' : Nat) (j' : Nat) : (s.bump f).level i' j' = s.level i' j' := rfl
@[simp] theorem State.bump_visVal (s : State) (f : Field) (i' : Nat) : (s.bump f).visVal i' = s.visVal i' := rfl
@[simp] theorem State.bump_core (s : State) (f : Field) (i' : Nat) : (s.bump f).core i' = s.core i' := rfl
@[simp] theorem State.bump_peatEnt (s : State) (f : Field) (i' : Nat) : (s.bump f).peatEnt i' = s.peatEnt i' := rfl
@[simp] theorem State.bump_fanSt (s : State) (f : Field) (i' : Nat) : (s.bump f).fanSt i' = s.fanSt i' := rfl
@[simp] theorem State.bump_tmeSt (s : State) (f : Field) (i' : Nat) : (s.bump f).tmeSt i' = s.tmeSt i' := rfl
@[simp] theorem State.bump_loopSt (s : State) (f : Field) (i' : Nat) : (s.bump f).loopSt i' = s.loopSt i' := rfl

/-! `bumpBy` -/
@[simp] theorem State.bumpBy_pending (s : State) (f : Field) (n : Nat) : (s.bumpBy f n).pending = s.pending := rfl
@[simp] theorem State.bumpBy_now (s : State) (f : Field) (n : Nat) : (s.bumpBy f n).now = s.now := rfl
@[simp] theorem State.bumpBy_held (s : State) (f : Field) (n : Nat) : (s.bumpBy f n).held = s.held := rfl
@[simp] theorem State.bumpBy_frozen (s : State) (f : Field) (n : Nat) : (s.bumpBy f n).frozen = s.frozen := rfl
@[simp] theorem State.bumpBy_softRst (s : State) (f : Field) (n : Nat) : (s.bumpBy f n).softRst = s.softRst := rfl
@[simp] theorem State.bumpBy_port (s : State) (f : Field) (n : Nat) : (s.bumpBy f n).port = s.port := rfl
@[simp] theorem State.bumpBy_lath (s : State) (f : Field) (n : Nat) : (s.bumpBy f n).lath = s.lath := rfl
@[simp] theorem State.bumpBy_uch (s : State) (f : Field) (n : Nat) : (s.bumpBy f n).uch = s.uch := rfl
@[simp] theorem State.bumpBy_lv (s : State) (f : Field) (n : Nat) : (s.bumpBy f n).lv = s.lv := rfl
@[simp] theorem State.bumpBy_l0 (s : State) (f : Field) (n : Nat) : (s.bumpBy f n).l0 = s.l0 := rfl
@[simp] theorem State.bumpBy_stL (s : State) (f : Field) (n : Nat) : (s.bumpBy f n).stL = s.stL := rfl
@[simp] theorem State.bumpBy_stS (s : State) (f : Field) (n : Nat) : (s.bumpBy f n).stS = s.stS := rfl
@[simp] theorem State.bumpBy_hostLv (s : State) (f : Field) (n : Nat) : (s.bumpBy f n).hostLv = s.hostLv := rfl
@[simp] theorem State.bumpBy_vis (s : State) (f : Field) (n : Nat) : (s.bumpBy f n).vis = s.vis := rfl
@[simp] theorem State.bumpBy_img (s : State) (f : Field) (n : Nat) : (s.bumpBy f n).img = s.img := rfl
@[simp] theorem State.bumpBy_lwork (s : State) (f : Field) (n : Nat) : (s.bumpBy f n).lwork = s.lwork := rfl
@[simp] theorem State.bumpBy_swork (s : State) (f : Field) (n : Nat) : (s.bumpBy f n).swork = s.swork := rfl
@[simp] theorem State.bumpBy_flt (s : State) (f : Field) (n : Nat) : (s.bumpBy f n).flt = s.flt := rfl
@[simp] theorem State.bumpBy_cores (s : State) (f : Field) (n : Nat) : (s.bumpBy f n).cores = s.cores := rfl
@[simp] theorem State.bumpBy_nst (s : State) (f : Field) (n : Nat) : (s.bumpBy f n).nst = s.nst := rfl
@[simp] theorem State.bumpBy_dir (s : State) (f : Field) (n : Nat) : (s.bumpBy f n).dir = s.dir := rfl
@[simp] theorem State.bumpBy_boot (s : State) (f : Field) (n : Nat) : (s.bumpBy f n).boot = s.boot := rfl
@[simp] theorem State.bumpBy_sto (s : State) (f : Field) (n : Nat) : (s.bumpBy f n).sto = s.sto := rfl
@[simp] theorem State.bumpBy_eng (s : State) (f : Field) (n : Nat) : (s.bumpBy f n).eng = s.eng := rfl
@[simp] theorem State.bumpBy_engL (s : State) (f : Field) (n : Nat) : (s.bumpBy f n).engL = s.engL := rfl
@[simp] theorem State.bumpBy_engS (s : State) (f : Field) (n : Nat) : (s.bumpBy f n).engS = s.engS := rfl
@[simp] theorem State.bumpBy_evL (s : State) (f : Field) (n : Nat) : (s.bumpBy f n).evL = s.evL := rfl
@[simp] theorem State.bumpBy_evS (s : State) (f : Field) (n : Nat) : (s.bumpBy f n).evS = s.evS := rfl
@[simp] theorem State.bumpBy_cap (s : State) (f : Field) (n : Nat) : (s.bumpBy f n).cap = s.cap := rfl
@[simp] theorem State.bumpBy_rbus (s : State) (f : Field) (n : Nat) : (s.bumpBy f n).rbus = s.rbus := rfl
@[simp] theorem State.bumpBy_pir (s : State) (f : Field) (n : Nat) : (s.bumpBy f n).pir = s.pir := rfl
@[simp] theorem State.bumpBy_tab (s : State) (f : Field) (n : Nat) : (s.bumpBy f n).tab = s.tab := rfl
@[simp] theorem State.bumpBy_hostZm (s : State) (f : Field) (n : Nat) : (s.bumpBy f n).hostZm = s.hostZm := rfl
@[simp] theorem State.bumpBy_stZ (s : State) (f : Field) (n : Nat) : (s.bumpBy f n).stZ = s.stZ := rfl
@[simp] theorem State.bumpBy_loopPar (s : State) (f : Field) (n : Nat) : (s.bumpBy f n).loopPar = s.loopPar := rfl
@[simp] theorem State.bumpBy_loopsL (s : State) (f : Field) (n : Nat) : (s.bumpBy f n).loopsL = s.loopsL := rfl
@[simp] theorem State.bumpBy_loopsS (s : State) (f : Field) (n : Nat) : (s.bumpBy f n).loopsS = s.loopsS := rfl
@[simp] theorem State.bumpBy_tmeCmd (s : State) (f : Field) (n : Nat) : (s.bumpBy f n).tmeCmd = s.tmeCmd := rfl
@[simp] theorem State.bumpBy_net (s : State) (f : Field) (n : Nat) : (s.bumpBy f n).net = s.net := rfl
@[simp] theorem State.bumpBy_fanIo (s : State) (f : Field) (n : Nat) : (s.bumpBy f n).fanIo = s.fanIo := rfl
@[simp] theorem State.bumpBy_key (s : State) (f : Field) (n : Nat) : (s.bumpBy f n).key = s.key := rfl
@[simp] theorem State.bumpBy_epd (s : State) (f : Field) (n : Nat) : (s.bumpBy f n).epd = s.epd := rfl
@[simp] theorem State.bumpBy_pwr (s : State) (f : Field) (n : Nat) : (s.bumpBy f n).pwr = s.pwr := rfl
@[simp] theorem State.bumpBy_clk (s : State) (f : Field) (n : Nat) : (s.bumpBy f n).clk = s.clk := rfl
@[simp] theorem State.bumpBy_uid (s : State) (f : Field) (n : Nat) : (s.bumpBy f n).uid = s.uid := rfl
@[simp] theorem State.bumpBy_lev (s : State) (f : Field) (n : Nat) : (s.bumpBy f n).lev = s.lev := rfl
@[simp] theorem State.bumpBy_fab (s : State) (f : Field) (n : Nat) : (s.bumpBy f n).fab = s.fab := rfl
@[simp] theorem State.bumpBy_dlv (s : State) (f : Field) (n : Nat) : (s.bumpBy f n).dlv = s.dlv := rfl
@[simp] theorem State.bumpBy_fresh (s : State) (f : Field) (n : Nat) : (s.bumpBy f n).fresh = s.fresh := rfl
@[simp] theorem State.bumpBy_chan (s : State) (f : Field) (n : Nat) (i' : Nat) : (s.bumpBy f n).chan i' = s.chan i' := rfl
@[simp] theorem State.bumpBy_level (s : State) (f : Field) (n : Nat) (i' : Nat) (j' : Nat) : (s.bumpBy f n).level i' j' = s.level i' j' := rfl
@[simp] theorem State.bumpBy_visVal (s : State) (f : Field) (n : Nat) (i' : Nat) : (s.bumpBy f n).visVal i' = s.visVal i' := rfl
@[simp] theorem State.bumpBy_core (s : State) (f : Field) (n : Nat) (i' : Nat) : (s.bumpBy f n).core i' = s.core i' := rfl
@[simp] theorem State.bumpBy_peatEnt (s : State) (f : Field) (n : Nat) (i' : Nat) : (s.bumpBy f n).peatEnt i' = s.peatEnt i' := rfl
@[simp] theorem State.bumpBy_fanSt (s : State) (f : Field) (n : Nat) (i' : Nat) : (s.bumpBy f n).fanSt i' = s.fanSt i' := rfl
@[simp] theorem State.bumpBy_tmeSt (s : State) (f : Field) (n : Nat) (i' : Nat) : (s.bumpBy f n).tmeSt i' = s.tmeSt i' := rfl
@[simp] theorem State.bumpBy_loopSt (s : State) (f : Field) (n : Nat) (i' : Nat) : (s.bumpBy f n).loopSt i' = s.loopSt i' := rfl

/-! `bumpWrap` -/
@[simp] theorem State.bumpWrap_pending (s : State) (f : Field) : (s.bumpWrap f).pending = s.pending := rfl
@[simp] theorem State.bumpWrap_now (s : State) (f : Field) : (s.bumpWrap f).now = s.now := rfl
@[simp] theorem State.bumpWrap_held (s : State) (f : Field) : (s.bumpWrap f).held = s.held := rfl
@[simp] theorem State.bumpWrap_frozen (s : State) (f : Field) : (s.bumpWrap f).frozen = s.frozen := rfl
@[simp] theorem State.bumpWrap_softRst (s : State) (f : Field) : (s.bumpWrap f).softRst = s.softRst := rfl
@[simp] theorem State.bumpWrap_port (s : State) (f : Field) : (s.bumpWrap f).port = s.port := rfl
@[simp] theorem State.bumpWrap_lath (s : State) (f : Field) : (s.bumpWrap f).lath = s.lath := rfl
@[simp] theorem State.bumpWrap_uch (s : State) (f : Field) : (s.bumpWrap f).uch = s.uch := rfl
@[simp] theorem State.bumpWrap_lv (s : State) (f : Field) : (s.bumpWrap f).lv = s.lv := rfl
@[simp] theorem State.bumpWrap_l0 (s : State) (f : Field) : (s.bumpWrap f).l0 = s.l0 := rfl
@[simp] theorem State.bumpWrap_stL (s : State) (f : Field) : (s.bumpWrap f).stL = s.stL := rfl
@[simp] theorem State.bumpWrap_stS (s : State) (f : Field) : (s.bumpWrap f).stS = s.stS := rfl
@[simp] theorem State.bumpWrap_hostLv (s : State) (f : Field) : (s.bumpWrap f).hostLv = s.hostLv := rfl
@[simp] theorem State.bumpWrap_vis (s : State) (f : Field) : (s.bumpWrap f).vis = s.vis := rfl
@[simp] theorem State.bumpWrap_img (s : State) (f : Field) : (s.bumpWrap f).img = s.img := rfl
@[simp] theorem State.bumpWrap_lwork (s : State) (f : Field) : (s.bumpWrap f).lwork = s.lwork := rfl
@[simp] theorem State.bumpWrap_swork (s : State) (f : Field) : (s.bumpWrap f).swork = s.swork := rfl
@[simp] theorem State.bumpWrap_flt (s : State) (f : Field) : (s.bumpWrap f).flt = s.flt := rfl
@[simp] theorem State.bumpWrap_cores (s : State) (f : Field) : (s.bumpWrap f).cores = s.cores := rfl
@[simp] theorem State.bumpWrap_nst (s : State) (f : Field) : (s.bumpWrap f).nst = s.nst := rfl
@[simp] theorem State.bumpWrap_dir (s : State) (f : Field) : (s.bumpWrap f).dir = s.dir := rfl
@[simp] theorem State.bumpWrap_boot (s : State) (f : Field) : (s.bumpWrap f).boot = s.boot := rfl
@[simp] theorem State.bumpWrap_sto (s : State) (f : Field) : (s.bumpWrap f).sto = s.sto := rfl
@[simp] theorem State.bumpWrap_eng (s : State) (f : Field) : (s.bumpWrap f).eng = s.eng := rfl
@[simp] theorem State.bumpWrap_engL (s : State) (f : Field) : (s.bumpWrap f).engL = s.engL := rfl
@[simp] theorem State.bumpWrap_engS (s : State) (f : Field) : (s.bumpWrap f).engS = s.engS := rfl
@[simp] theorem State.bumpWrap_evL (s : State) (f : Field) : (s.bumpWrap f).evL = s.evL := rfl
@[simp] theorem State.bumpWrap_evS (s : State) (f : Field) : (s.bumpWrap f).evS = s.evS := rfl
@[simp] theorem State.bumpWrap_cap (s : State) (f : Field) : (s.bumpWrap f).cap = s.cap := rfl
@[simp] theorem State.bumpWrap_rbus (s : State) (f : Field) : (s.bumpWrap f).rbus = s.rbus := rfl
@[simp] theorem State.bumpWrap_pir (s : State) (f : Field) : (s.bumpWrap f).pir = s.pir := rfl
@[simp] theorem State.bumpWrap_tab (s : State) (f : Field) : (s.bumpWrap f).tab = s.tab := rfl
@[simp] theorem State.bumpWrap_hostZm (s : State) (f : Field) : (s.bumpWrap f).hostZm = s.hostZm := rfl
@[simp] theorem State.bumpWrap_stZ (s : State) (f : Field) : (s.bumpWrap f).stZ = s.stZ := rfl
@[simp] theorem State.bumpWrap_loopPar (s : State) (f : Field) : (s.bumpWrap f).loopPar = s.loopPar := rfl
@[simp] theorem State.bumpWrap_loopsL (s : State) (f : Field) : (s.bumpWrap f).loopsL = s.loopsL := rfl
@[simp] theorem State.bumpWrap_loopsS (s : State) (f : Field) : (s.bumpWrap f).loopsS = s.loopsS := rfl
@[simp] theorem State.bumpWrap_tmeCmd (s : State) (f : Field) : (s.bumpWrap f).tmeCmd = s.tmeCmd := rfl
@[simp] theorem State.bumpWrap_net (s : State) (f : Field) : (s.bumpWrap f).net = s.net := rfl
@[simp] theorem State.bumpWrap_fanIo (s : State) (f : Field) : (s.bumpWrap f).fanIo = s.fanIo := rfl
@[simp] theorem State.bumpWrap_key (s : State) (f : Field) : (s.bumpWrap f).key = s.key := rfl
@[simp] theorem State.bumpWrap_epd (s : State) (f : Field) : (s.bumpWrap f).epd = s.epd := rfl
@[simp] theorem State.bumpWrap_pwr (s : State) (f : Field) : (s.bumpWrap f).pwr = s.pwr := rfl
@[simp] theorem State.bumpWrap_clk (s : State) (f : Field) : (s.bumpWrap f).clk = s.clk := rfl
@[simp] theorem State.bumpWrap_uid (s : State) (f : Field) : (s.bumpWrap f).uid = s.uid := rfl
@[simp] theorem State.bumpWrap_lev (s : State) (f : Field) : (s.bumpWrap f).lev = s.lev := rfl
@[simp] theorem State.bumpWrap_fab (s : State) (f : Field) : (s.bumpWrap f).fab = s.fab := rfl
@[simp] theorem State.bumpWrap_dlv (s : State) (f : Field) : (s.bumpWrap f).dlv = s.dlv := rfl
@[simp] theorem State.bumpWrap_fresh (s : State) (f : Field) : (s.bumpWrap f).fresh = s.fresh := rfl
@[simp] theorem State.bumpWrap_chan (s : State) (f : Field) (i' : Nat) : (s.bumpWrap f).chan i' = s.chan i' := rfl
@[simp] theorem State.bumpWrap_level (s : State) (f : Field) (i' : Nat) (j' : Nat) : (s.bumpWrap f).level i' j' = s.level i' j' := rfl
@[simp] theorem State.bumpWrap_visVal (s : State) (f : Field) (i' : Nat) : (s.bumpWrap f).visVal i' = s.visVal i' := rfl
@[simp] theorem State.bumpWrap_core (s : State) (f : Field) (i' : Nat) : (s.bumpWrap f).core i' = s.core i' := rfl
@[simp] theorem State.bumpWrap_peatEnt (s : State) (f : Field) (i' : Nat) : (s.bumpWrap f).peatEnt i' = s.peatEnt i' := rfl
@[simp] theorem State.bumpWrap_fanSt (s : State) (f : Field) (i' : Nat) : (s.bumpWrap f).fanSt i' = s.fanSt i' := rfl
@[simp] theorem State.bumpWrap_tmeSt (s : State) (f : Field) (i' : Nat) : (s.bumpWrap f).tmeSt i' = s.tmeSt i' := rfl
@[simp] theorem State.bumpWrap_loopSt (s : State) (f : Field) (i' : Nat) : (s.bumpWrap f).loopSt i' = s.loopSt i' := rfl

/-! `setPair` -/
@[simp] theorem State.setPair_pending (s : State) (lo : Nat) (hi : Nat) (v : Nat) : (s.setPair lo hi v).pending = s.pending := rfl
@[simp] theorem State.setPair_now (s : State) (lo : Nat) (hi : Nat) (v : Nat) : (s.setPair lo hi v).now = s.now := rfl
@[simp] theorem State.setPair_held (s : State) (lo : Nat) (hi : Nat) (v : Nat) : (s.setPair lo hi v).held = s.held := rfl
@[simp] theorem State.setPair_frozen (s : State) (lo : Nat) (hi : Nat) (v : Nat) : (s.setPair lo hi v).frozen = s.frozen := rfl
@[simp] theorem State.setPair_softRst (s : State) (lo : Nat) (hi : Nat) (v : Nat) : (s.setPair lo hi v).softRst = s.softRst := rfl
@[simp] theorem State.setPair_port (s : State) (lo : Nat) (hi : Nat) (v : Nat) : (s.setPair lo hi v).port = s.port := rfl
@[simp] theorem State.setPair_lath (s : State) (lo : Nat) (hi : Nat) (v : Nat) : (s.setPair lo hi v).lath = s.lath := rfl
@[simp] theorem State.setPair_uch (s : State) (lo : Nat) (hi : Nat) (v : Nat) : (s.setPair lo hi v).uch = s.uch := rfl
@[simp] theorem State.setPair_lv (s : State) (lo : Nat) (hi : Nat) (v : Nat) : (s.setPair lo hi v).lv = s.lv := rfl
@[simp] theorem State.setPair_l0 (s : State) (lo : Nat) (hi : Nat) (v : Nat) : (s.setPair lo hi v).l0 = s.l0 := rfl
@[simp] theorem State.setPair_stL (s : State) (lo : Nat) (hi : Nat) (v : Nat) : (s.setPair lo hi v).stL = s.stL := rfl
@[simp] theorem State.setPair_stS (s : State) (lo : Nat) (hi : Nat) (v : Nat) : (s.setPair lo hi v).stS = s.stS := rfl
@[simp] theorem State.setPair_hostLv (s : State) (lo : Nat) (hi : Nat) (v : Nat) : (s.setPair lo hi v).hostLv = s.hostLv := rfl
@[simp] theorem State.setPair_vis (s : State) (lo : Nat) (hi : Nat) (v : Nat) : (s.setPair lo hi v).vis = s.vis := rfl
@[simp] theorem State.setPair_img (s : State) (lo : Nat) (hi : Nat) (v : Nat) : (s.setPair lo hi v).img = s.img := rfl
@[simp] theorem State.setPair_lwork (s : State) (lo : Nat) (hi : Nat) (v : Nat) : (s.setPair lo hi v).lwork = s.lwork := rfl
@[simp] theorem State.setPair_swork (s : State) (lo : Nat) (hi : Nat) (v : Nat) : (s.setPair lo hi v).swork = s.swork := rfl
@[simp] theorem State.setPair_flt (s : State) (lo : Nat) (hi : Nat) (v : Nat) : (s.setPair lo hi v).flt = s.flt := rfl
@[simp] theorem State.setPair_cores (s : State) (lo : Nat) (hi : Nat) (v : Nat) : (s.setPair lo hi v).cores = s.cores := rfl
@[simp] theorem State.setPair_nst (s : State) (lo : Nat) (hi : Nat) (v : Nat) : (s.setPair lo hi v).nst = s.nst := rfl
@[simp] theorem State.setPair_dir (s : State) (lo : Nat) (hi : Nat) (v : Nat) : (s.setPair lo hi v).dir = s.dir := rfl
@[simp] theorem State.setPair_boot (s : State) (lo : Nat) (hi : Nat) (v : Nat) : (s.setPair lo hi v).boot = s.boot := rfl
@[simp] theorem State.setPair_sto (s : State) (lo : Nat) (hi : Nat) (v : Nat) : (s.setPair lo hi v).sto = s.sto := rfl
@[simp] theorem State.setPair_eng (s : State) (lo : Nat) (hi : Nat) (v : Nat) : (s.setPair lo hi v).eng = s.eng := rfl
@[simp] theorem State.setPair_engL (s : State) (lo : Nat) (hi : Nat) (v : Nat) : (s.setPair lo hi v).engL = s.engL := rfl
@[simp] theorem State.setPair_engS (s : State) (lo : Nat) (hi : Nat) (v : Nat) : (s.setPair lo hi v).engS = s.engS := rfl
@[simp] theorem State.setPair_evL (s : State) (lo : Nat) (hi : Nat) (v : Nat) : (s.setPair lo hi v).evL = s.evL := rfl
@[simp] theorem State.setPair_evS (s : State) (lo : Nat) (hi : Nat) (v : Nat) : (s.setPair lo hi v).evS = s.evS := rfl
@[simp] theorem State.setPair_cap (s : State) (lo : Nat) (hi : Nat) (v : Nat) : (s.setPair lo hi v).cap = s.cap := rfl
@[simp] theorem State.setPair_rbus (s : State) (lo : Nat) (hi : Nat) (v : Nat) : (s.setPair lo hi v).rbus = s.rbus := rfl
@[simp] theorem State.setPair_pir (s : State) (lo : Nat) (hi : Nat) (v : Nat) : (s.setPair lo hi v).pir = s.pir := rfl
@[simp] theorem State.setPair_tab (s : State) (lo : Nat) (hi : Nat) (v : Nat) : (s.setPair lo hi v).tab = s.tab := rfl
@[simp] theorem State.setPair_hostZm (s : State) (lo : Nat) (hi : Nat) (v : Nat) : (s.setPair lo hi v).hostZm = s.hostZm := rfl
@[simp] theorem State.setPair_stZ (s : State) (lo : Nat) (hi : Nat) (v : Nat) : (s.setPair lo hi v).stZ = s.stZ := rfl
@[simp] theorem State.setPair_loopPar (s : State) (lo : Nat) (hi : Nat) (v : Nat) : (s.setPair lo hi v).loopPar = s.loopPar := rfl
@[simp] theorem State.setPair_loopsL (s : State) (lo : Nat) (hi : Nat) (v : Nat) : (s.setPair lo hi v).loopsL = s.loopsL := rfl
@[simp] theorem State.setPair_loopsS (s : State) (lo : Nat) (hi : Nat) (v : Nat) : (s.setPair lo hi v).loopsS = s.loopsS := rfl
@[simp] theorem State.setPair_tmeCmd (s : State) (lo : Nat) (hi : Nat) (v : Nat) : (s.setPair lo hi v).tmeCmd = s.tmeCmd := rfl
@[simp] theorem State.setPair_net (s : State) (lo : Nat) (hi : Nat) (v : Nat) : (s.setPair lo hi v).net = s.net := rfl
@[simp] theorem State.setPair_fanIo (s : State) (lo : Nat) (hi : Nat) (v : Nat) : (s.setPair lo hi v).fanIo = s.fanIo := rfl
@[simp] theorem State.setPair_key (s : State) (lo : Nat) (hi : Nat) (v : Nat) : (s.setPair lo hi v).key = s.key := rfl
@[simp] theorem State.setPair_epd (s : State) (lo : Nat) (hi : Nat) (v : Nat) : (s.setPair lo hi v).epd = s.epd := rfl
@[simp] theorem State.setPair_pwr (s : State) (lo : Nat) (hi : Nat) (v : Nat) : (s.setPair lo hi v).pwr = s.pwr := rfl
@[simp] theorem State.setPair_clk (s : State) (lo : Nat) (hi : Nat) (v : Nat) : (s.setPair lo hi v).clk = s.clk := rfl
@[simp] theorem State.setPair_uid (s : State) (lo : Nat) (hi : Nat) (v : Nat) : (s.setPair lo hi v).uid = s.uid := rfl
@[simp] theorem State.setPair_lev (s : State) (lo : Nat) (hi : Nat) (v : Nat) : (s.setPair lo hi v).lev = s.lev := rfl
@[simp] theorem State.setPair_fab (s : State) (lo : Nat) (hi : Nat) (v : Nat) : (s.setPair lo hi v).fab = s.fab := rfl
@[simp] theorem State.setPair_dlv (s : State) (lo : Nat) (hi : Nat) (v : Nat) : (s.setPair lo hi v).dlv = s.dlv := rfl
@[simp] theorem State.setPair_fresh (s : State) (lo : Nat) (hi : Nat) (v : Nat) : (s.setPair lo hi v).fresh = s.fresh := rfl
@[simp] theorem State.setPair_chan (s : State) (lo : Nat) (hi : Nat) (v : Nat) (i' : Nat) : (s.setPair lo hi v).chan i' = s.chan i' := rfl
@[simp] theorem State.setPair_level (s : State) (lo : Nat) (hi : Nat) (v : Nat) (i' : Nat) (j' : Nat) : (s.setPair lo hi v).level i' j' = s.level i' j' := rfl
@[simp] theorem State.setPair_visVal (s : State) (lo : Nat) (hi : Nat) (v : Nat) (i' : Nat) : (s.setPair lo hi v).visVal i' = s.visVal i' := rfl
@[simp] theorem State.setPair_core (s : State) (lo : Nat) (hi : Nat) (v : Nat) (i' : Nat) : (s.setPair lo hi v).core i' = s.core i' := rfl
@[simp] theorem State.setPair_peatEnt (s : State) (lo : Nat) (hi : Nat) (v : Nat) (i' : Nat) : (s.setPair lo hi v).peatEnt i' = s.peatEnt i' := rfl
@[simp] theorem State.setPair_fanSt (s : State) (lo : Nat) (hi : Nat) (v : Nat) (i' : Nat) : (s.setPair lo hi v).fanSt i' = s.fanSt i' := rfl
@[simp] theorem State.setPair_tmeSt (s : State) (lo : Nat) (hi : Nat) (v : Nat) (i' : Nat) : (s.setPair lo hi v).tmeSt i' = s.tmeSt i' := rfl
@[simp] theorem State.setPair_loopSt (s : State) (lo : Nat) (hi : Nat) (v : Nat) (i' : Nat) : (s.setPair lo hi v).loopSt i' = s.loopSt i' := rfl

/-! `irq` -/
@[simp] theorem State.irq_pending (s : State) (page : Nat) (bit : Nat) : (s.irq page bit).pending = s.pending := rfl
@[simp] theorem State.irq_now (s : State) (page : Nat) (bit : Nat) : (s.irq page bit).now = s.now := rfl
@[simp] theorem State.irq_held (s : State) (page : Nat) (bit : Nat) : (s.irq page bit).held = s.held := rfl
@[simp] theorem State.irq_frozen (s : State) (page : Nat) (bit : Nat) : (s.irq page bit).frozen = s.frozen := rfl
@[simp] theorem State.irq_softRst (s : State) (page : Nat) (bit : Nat) : (s.irq page bit).softRst = s.softRst := rfl
@[simp] theorem State.irq_port (s : State) (page : Nat) (bit : Nat) : (s.irq page bit).port = s.port := rfl
@[simp] theorem State.irq_lath (s : State) (page : Nat) (bit : Nat) : (s.irq page bit).lath = s.lath := rfl
@[simp] theorem State.irq_uch (s : State) (page : Nat) (bit : Nat) : (s.irq page bit).uch = s.uch := rfl
@[simp] theorem State.irq_lv (s : State) (page : Nat) (bit : Nat) : (s.irq page bit).lv = s.lv := rfl
@[simp] theorem State.irq_l0 (s : State) (page : Nat) (bit : Nat) : (s.irq page bit).l0 = s.l0 := rfl
@[simp] theorem State.irq_stL (s : State) (page : Nat) (bit : Nat) : (s.irq page bit).stL = s.stL := rfl
@[simp] theorem State.irq_stS (s : State) (page : Nat) (bit : Nat) : (s.irq page bit).stS = s.stS := rfl
@[simp] theorem State.irq_hostLv (s : State) (page : Nat) (bit : Nat) : (s.irq page bit).hostLv = s.hostLv := rfl
@[simp] theorem State.irq_vis (s : State) (page : Nat) (bit : Nat) : (s.irq page bit).vis = s.vis := rfl
@[simp] theorem State.irq_img (s : State) (page : Nat) (bit : Nat) : (s.irq page bit).img = s.img := rfl
@[simp] theorem State.irq_lwork (s : State) (page : Nat) (bit : Nat) : (s.irq page bit).lwork = s.lwork := rfl
@[simp] theorem State.irq_swork (s : State) (page : Nat) (bit : Nat) : (s.irq page bit).swork = s.swork := rfl
@[simp] theorem State.irq_flt (s : State) (page : Nat) (bit : Nat) : (s.irq page bit).flt = s.flt := rfl
@[simp] theorem State.irq_cores (s : State) (page : Nat) (bit : Nat) : (s.irq page bit).cores = s.cores := rfl
@[simp] theorem State.irq_nst (s : State) (page : Nat) (bit : Nat) : (s.irq page bit).nst = s.nst := rfl
@[simp] theorem State.irq_dir (s : State) (page : Nat) (bit : Nat) : (s.irq page bit).dir = s.dir := rfl
@[simp] theorem State.irq_boot (s : State) (page : Nat) (bit : Nat) : (s.irq page bit).boot = s.boot := rfl
@[simp] theorem State.irq_sto (s : State) (page : Nat) (bit : Nat) : (s.irq page bit).sto = s.sto := rfl
@[simp] theorem State.irq_eng (s : State) (page : Nat) (bit : Nat) : (s.irq page bit).eng = s.eng := rfl
@[simp] theorem State.irq_engL (s : State) (page : Nat) (bit : Nat) : (s.irq page bit).engL = s.engL := rfl
@[simp] theorem State.irq_engS (s : State) (page : Nat) (bit : Nat) : (s.irq page bit).engS = s.engS := rfl
@[simp] theorem State.irq_evL (s : State) (page : Nat) (bit : Nat) : (s.irq page bit).evL = s.evL := rfl
@[simp] theorem State.irq_evS (s : State) (page : Nat) (bit : Nat) : (s.irq page bit).evS = s.evS := rfl
@[simp] theorem State.irq_cap (s : State) (page : Nat) (bit : Nat) : (s.irq page bit).cap = s.cap := rfl
@[simp] theorem State.irq_rbus (s : State) (page : Nat) (bit : Nat) : (s.irq page bit).rbus = s.rbus := rfl
@[simp] theorem State.irq_pir (s : State) (page : Nat) (bit : Nat) : (s.irq page bit).pir = s.pir := rfl
@[simp] theorem State.irq_tab (s : State) (page : Nat) (bit : Nat) : (s.irq page bit).tab = s.tab := rfl
@[simp] theorem State.irq_hostZm (s : State) (page : Nat) (bit : Nat) : (s.irq page bit).hostZm = s.hostZm := rfl
@[simp] theorem State.irq_stZ (s : State) (page : Nat) (bit : Nat) : (s.irq page bit).stZ = s.stZ := rfl
@[simp] theorem State.irq_loopPar (s : State) (page : Nat) (bit : Nat) : (s.irq page bit).loopPar = s.loopPar := rfl
@[simp] theorem State.irq_loopsL (s : State) (page : Nat) (bit : Nat) : (s.irq page bit).loopsL = s.loopsL := rfl
@[simp] theorem State.irq_loopsS (s : State) (page : Nat) (bit : Nat) : (s.irq page bit).loopsS = s.loopsS := rfl
@[simp] theorem State.irq_tmeCmd (s : State) (page : Nat) (bit : Nat) : (s.irq page bit).tmeCmd = s.tmeCmd := rfl
@[simp] theorem State.irq_net (s : State) (page : Nat) (bit : Nat) : (s.irq page bit).net = s.net := rfl
@[simp] theorem State.irq_fanIo (s : State) (page : Nat) (bit : Nat) : (s.irq page bit).fanIo = s.fanIo := rfl
@[simp] theorem State.irq_key (s : State) (page : Nat) (bit : Nat) : (s.irq page bit).key = s.key := rfl
@[simp] theorem State.irq_epd (s : State) (page : Nat) (bit : Nat) : (s.irq page bit).epd = s.epd := rfl
@[simp] theorem State.irq_pwr (s : State) (page : Nat) (bit : Nat) : (s.irq page bit).pwr = s.pwr := rfl
@[simp] theorem State.irq_clk (s : State) (page : Nat) (bit : Nat) : (s.irq page bit).clk = s.clk := rfl
@[simp] theorem State.irq_uid (s : State) (page : Nat) (bit : Nat) : (s.irq page bit).uid = s.uid := rfl
@[simp] theorem State.irq_lev (s : State) (page : Nat) (bit : Nat) : (s.irq page bit).lev = s.lev := rfl
@[simp] theorem State.irq_fab (s : State) (page : Nat) (bit : Nat) : (s.irq page bit).fab = s.fab := rfl
@[simp] theorem State.irq_dlv (s : State) (page : Nat) (bit : Nat) : (s.irq page bit).dlv = s.dlv := rfl
@[simp] theorem State.irq_fresh (s : State) (page : Nat) (bit : Nat) : (s.irq page bit).fresh = s.fresh := rfl
@[simp] theorem State.irq_chan (s : State) (page : Nat) (bit : Nat) (i' : Nat) : (s.irq page bit).chan i' = s.chan i' := rfl
@[simp] theorem State.irq_level (s : State) (page : Nat) (bit : Nat) (i' : Nat) (j' : Nat) : (s.irq page bit).level i' j' = s.level i' j' := rfl
@[simp] theorem State.irq_visVal (s : State) (page : Nat) (bit : Nat) (i' : Nat) : (s.irq page bit).visVal i' = s.visVal i' := rfl
@[simp] theorem State.irq_core (s : State) (page : Nat) (bit : Nat) (i' : Nat) : (s.irq page bit).core i' = s.core i' := rfl
@[simp] theorem State.irq_peatEnt (s : State) (page : Nat) (bit : Nat) (i' : Nat) : (s.irq page bit).peatEnt i' = s.peatEnt i' := rfl
@[simp] theorem State.irq_fanSt (s : State) (page : Nat) (bit : Nat) (i' : Nat) : (s.irq page bit).fanSt i' = s.fanSt i' := rfl
@[simp] theorem State.irq_tmeSt (s : State) (page : Nat) (bit : Nat) (i' : Nat) : (s.irq page bit).tmeSt i' = s.tmeSt i' := rfl
@[simp] theorem State.irq_loopSt (s : State) (page : Nat) (bit : Nat) (i' : Nat) : (s.irq page bit).loopSt i' = s.loopSt i' := rfl

/-! `blkErr` -/
@[simp] theorem State.blkErr_pending (s : State) (page : Nat) (cause : Nat) (wr : Bool) (off : Nat) : (s.blkErr page cause wr off).pending = s.pending := rfl
@[simp] theorem State.blkErr_now (s : State) (page : Nat) (cause : Nat) (wr : Bool) (off : Nat) : (s.blkErr page cause wr off).now = s.now := rfl
@[simp] theorem State.blkErr_held (s : State) (page : Nat) (cause : Nat) (wr : Bool) (off : Nat) : (s.blkErr page cause wr off).held = s.held := rfl
@[simp] theorem State.blkErr_frozen (s : State) (page : Nat) (cause : Nat) (wr : Bool) (off : Nat) : (s.blkErr page cause wr off).frozen = s.frozen := rfl
@[simp] theorem State.blkErr_softRst (s : State) (page : Nat) (cause : Nat) (wr : Bool) (off : Nat) : (s.blkErr page cause wr off).softRst = s.softRst := rfl
@[simp] theorem State.blkErr_port (s : State) (page : Nat) (cause : Nat) (wr : Bool) (off : Nat) : (s.blkErr page cause wr off).port = s.port := rfl
@[simp] theorem State.blkErr_lath (s : State) (page : Nat) (cause : Nat) (wr : Bool) (off : Nat) : (s.blkErr page cause wr off).lath = s.lath := rfl
@[simp] theorem State.blkErr_uch (s : State) (page : Nat) (cause : Nat) (wr : Bool) (off : Nat) : (s.blkErr page cause wr off).uch = s.uch := rfl
@[simp] theorem State.blkErr_lv (s : State) (page : Nat) (cause : Nat) (wr : Bool) (off : Nat) : (s.blkErr page cause wr off).lv = s.lv := rfl
@[simp] theorem State.blkErr_l0 (s : State) (page : Nat) (cause : Nat) (wr : Bool) (off : Nat) : (s.blkErr page cause wr off).l0 = s.l0 := rfl
@[simp] theorem State.blkErr_stL (s : State) (page : Nat) (cause : Nat) (wr : Bool) (off : Nat) : (s.blkErr page cause wr off).stL = s.stL := rfl
@[simp] theorem State.blkErr_stS (s : State) (page : Nat) (cause : Nat) (wr : Bool) (off : Nat) : (s.blkErr page cause wr off).stS = s.stS := rfl
@[simp] theorem State.blkErr_hostLv (s : State) (page : Nat) (cause : Nat) (wr : Bool) (off : Nat) : (s.blkErr page cause wr off).hostLv = s.hostLv := rfl
@[simp] theorem State.blkErr_vis (s : State) (page : Nat) (cause : Nat) (wr : Bool) (off : Nat) : (s.blkErr page cause wr off).vis = s.vis := rfl
@[simp] theorem State.blkErr_img (s : State) (page : Nat) (cause : Nat) (wr : Bool) (off : Nat) : (s.blkErr page cause wr off).img = s.img := rfl
@[simp] theorem State.blkErr_lwork (s : State) (page : Nat) (cause : Nat) (wr : Bool) (off : Nat) : (s.blkErr page cause wr off).lwork = s.lwork := rfl
@[simp] theorem State.blkErr_swork (s : State) (page : Nat) (cause : Nat) (wr : Bool) (off : Nat) : (s.blkErr page cause wr off).swork = s.swork := rfl
@[simp] theorem State.blkErr_flt (s : State) (page : Nat) (cause : Nat) (wr : Bool) (off : Nat) : (s.blkErr page cause wr off).flt = s.flt := rfl
@[simp] theorem State.blkErr_cores (s : State) (page : Nat) (cause : Nat) (wr : Bool) (off : Nat) : (s.blkErr page cause wr off).cores = s.cores := rfl
@[simp] theorem State.blkErr_nst (s : State) (page : Nat) (cause : Nat) (wr : Bool) (off : Nat) : (s.blkErr page cause wr off).nst = s.nst := rfl
@[simp] theorem State.blkErr_dir (s : State) (page : Nat) (cause : Nat) (wr : Bool) (off : Nat) : (s.blkErr page cause wr off).dir = s.dir := rfl
@[simp] theorem State.blkErr_boot (s : State) (page : Nat) (cause : Nat) (wr : Bool) (off : Nat) : (s.blkErr page cause wr off).boot = s.boot := rfl
@[simp] theorem State.blkErr_sto (s : State) (page : Nat) (cause : Nat) (wr : Bool) (off : Nat) : (s.blkErr page cause wr off).sto = s.sto := rfl
@[simp] theorem State.blkErr_eng (s : State) (page : Nat) (cause : Nat) (wr : Bool) (off : Nat) : (s.blkErr page cause wr off).eng = s.eng := rfl
@[simp] theorem State.blkErr_engL (s : State) (page : Nat) (cause : Nat) (wr : Bool) (off : Nat) : (s.blkErr page cause wr off).engL = s.engL := rfl
@[simp] theorem State.blkErr_engS (s : State) (page : Nat) (cause : Nat) (wr : Bool) (off : Nat) : (s.blkErr page cause wr off).engS = s.engS := rfl
@[simp] theorem State.blkErr_evL (s : State) (page : Nat) (cause : Nat) (wr : Bool) (off : Nat) : (s.blkErr page cause wr off).evL = s.evL := rfl
@[simp] theorem State.blkErr_evS (s : State) (page : Nat) (cause : Nat) (wr : Bool) (off : Nat) : (s.blkErr page cause wr off).evS = s.evS := rfl
@[simp] theorem State.blkErr_cap (s : State) (page : Nat) (cause : Nat) (wr : Bool) (off : Nat) : (s.blkErr page cause wr off).cap = s.cap := rfl
@[simp] theorem State.blkErr_rbus (s : State) (page : Nat) (cause : Nat) (wr : Bool) (off : Nat) : (s.blkErr page cause wr off).rbus = s.rbus := rfl
@[simp] theorem State.blkErr_pir (s : State) (page : Nat) (cause : Nat) (wr : Bool) (off : Nat) : (s.blkErr page cause wr off).pir = s.pir := rfl
@[simp] theorem State.blkErr_tab (s : State) (page : Nat) (cause : Nat) (wr : Bool) (off : Nat) : (s.blkErr page cause wr off).tab = s.tab := rfl
@[simp] theorem State.blkErr_hostZm (s : State) (page : Nat) (cause : Nat) (wr : Bool) (off : Nat) : (s.blkErr page cause wr off).hostZm = s.hostZm := rfl
@[simp] theorem State.blkErr_stZ (s : State) (page : Nat) (cause : Nat) (wr : Bool) (off : Nat) : (s.blkErr page cause wr off).stZ = s.stZ := rfl
@[simp] theorem State.blkErr_loopPar (s : State) (page : Nat) (cause : Nat) (wr : Bool) (off : Nat) : (s.blkErr page cause wr off).loopPar = s.loopPar := rfl
@[simp] theorem State.blkErr_loopsL (s : State) (page : Nat) (cause : Nat) (wr : Bool) (off : Nat) : (s.blkErr page cause wr off).loopsL = s.loopsL := rfl
@[simp] theorem State.blkErr_loopsS (s : State) (page : Nat) (cause : Nat) (wr : Bool) (off : Nat) : (s.blkErr page cause wr off).loopsS = s.loopsS := rfl
@[simp] theorem State.blkErr_tmeCmd (s : State) (page : Nat) (cause : Nat) (wr : Bool) (off : Nat) : (s.blkErr page cause wr off).tmeCmd = s.tmeCmd := rfl
@[simp] theorem State.blkErr_net (s : State) (page : Nat) (cause : Nat) (wr : Bool) (off : Nat) : (s.blkErr page cause wr off).net = s.net := rfl
@[simp] theorem State.blkErr_fanIo (s : State) (page : Nat) (cause : Nat) (wr : Bool) (off : Nat) : (s.blkErr page cause wr off).fanIo = s.fanIo := rfl
@[simp] theorem State.blkErr_key (s : State) (page : Nat) (cause : Nat) (wr : Bool) (off : Nat) : (s.blkErr page cause wr off).key = s.key := rfl
@[simp] theorem State.blkErr_epd (s : State) (page : Nat) (cause : Nat) (wr : Bool) (off : Nat) : (s.blkErr page cause wr off).epd = s.epd := rfl
@[simp] theorem State.blkErr_pwr (s : State) (page : Nat) (cause : Nat) (wr : Bool) (off : Nat) : (s.blkErr page cause wr off).pwr = s.pwr := rfl
@[simp] theorem State.blkErr_clk (s : State) (page : Nat) (cause : Nat) (wr : Bool) (off : Nat) : (s.blkErr page cause wr off).clk = s.clk := rfl
@[simp] theorem State.blkErr_uid (s : State) (page : Nat) (cause : Nat) (wr : Bool) (off : Nat) : (s.blkErr page cause wr off).uid = s.uid := rfl
@[simp] theorem State.blkErr_lev (s : State) (page : Nat) (cause : Nat) (wr : Bool) (off : Nat) : (s.blkErr page cause wr off).lev = s.lev := rfl
@[simp] theorem State.blkErr_fab (s : State) (page : Nat) (cause : Nat) (wr : Bool) (off : Nat) : (s.blkErr page cause wr off).fab = s.fab := rfl
@[simp] theorem State.blkErr_dlv (s : State) (page : Nat) (cause : Nat) (wr : Bool) (off : Nat) : (s.blkErr page cause wr off).dlv = s.dlv := rfl
@[simp] theorem State.blkErr_fresh (s : State) (page : Nat) (cause : Nat) (wr : Bool) (off : Nat) : (s.blkErr page cause wr off).fresh = s.fresh := rfl
@[simp] theorem State.blkErr_chan (s : State) (page : Nat) (cause : Nat) (wr : Bool) (off : Nat) (i' : Nat) : (s.blkErr page cause wr off).chan i' = s.chan i' := rfl
@[simp] theorem State.blkErr_level (s : State) (page : Nat) (cause : Nat) (wr : Bool) (off : Nat) (i' : Nat) (j' : Nat) : (s.blkErr page cause wr off).level i' j' = s.level i' j' := rfl
@[simp] theorem State.blkErr_visVal (s : State) (page : Nat) (cause : Nat) (wr : Bool) (off : Nat) (i' : Nat) : (s.blkErr page cause wr off).visVal i' = s.visVal i' := rfl
@[simp] theorem State.blkErr_core (s : State) (page : Nat) (cause : Nat) (wr : Bool) (off : Nat) (i' : Nat) : (s.blkErr page cause wr off).core i' = s.core i' := rfl
@[simp] theorem State.blkErr_peatEnt (s : State) (page : Nat) (cause : Nat) (wr : Bool) (off : Nat) (i' : Nat) : (s.blkErr page cause wr off).peatEnt i' = s.peatEnt i' := rfl
@[simp] theorem State.blkErr_fanSt (s : State) (page : Nat) (cause : Nat) (wr : Bool) (off : Nat) (i' : Nat) : (s.blkErr page cause wr off).fanSt i' = s.fanSt i' := rfl
@[simp] theorem State.blkErr_tmeSt (s : State) (page : Nat) (cause : Nat) (wr : Bool) (off : Nat) (i' : Nat) : (s.blkErr page cause wr off).tmeSt i' = s.tmeSt i' := rfl
@[simp] theorem State.blkErr_loopSt (s : State) (page : Nat) (cause : Nat) (wr : Bool) (off : Nat) (i' : Nat) : (s.blkErr page cause wr off).loopSt i' = s.loopSt i' := rfl

/-! `at_` -/
@[simp] theorem State.at__pending (s : State) (t : Nat) : (s.at_ t).pending = s.pending := rfl
@[simp] theorem State.at__regs (s : State) (t : Nat) : (s.at_ t).regs = s.regs := rfl
@[simp] theorem State.at__held (s : State) (t : Nat) : (s.at_ t).held = s.held := rfl
@[simp] theorem State.at__frozen (s : State) (t : Nat) : (s.at_ t).frozen = s.frozen := rfl
@[simp] theorem State.at__softRst (s : State) (t : Nat) : (s.at_ t).softRst = s.softRst := rfl
@[simp] theorem State.at__port (s : State) (t : Nat) : (s.at_ t).port = s.port := rfl
@[simp] theorem State.at__lath (s : State) (t : Nat) : (s.at_ t).lath = s.lath := rfl
@[simp] theorem State.at__uch (s : State) (t : Nat) : (s.at_ t).uch = s.uch := rfl
@[simp] theorem State.at__lv (s : State) (t : Nat) : (s.at_ t).lv = s.lv := rfl
@[simp] theorem State.at__l0 (s : State) (t : Nat) : (s.at_ t).l0 = s.l0 := rfl
@[simp] theorem State.at__stL (s : State) (t : Nat) : (s.at_ t).stL = s.stL := rfl
@[simp] theorem State.at__stS (s : State) (t : Nat) : (s.at_ t).stS = s.stS := rfl
@[simp] theorem State.at__hostLv (s : State) (t : Nat) : (s.at_ t).hostLv = s.hostLv := rfl
@[simp] theorem State.at__vis (s : State) (t : Nat) : (s.at_ t).vis = s.vis := rfl
@[simp] theorem State.at__img (s : State) (t : Nat) : (s.at_ t).img = s.img := rfl
@[simp] theorem State.at__lwork (s : State) (t : Nat) : (s.at_ t).lwork = s.lwork := rfl
@[simp] theorem State.at__swork (s : State) (t : Nat) : (s.at_ t).swork = s.swork := rfl
@[simp] theorem State.at__flt (s : State) (t : Nat) : (s.at_ t).flt = s.flt := rfl
@[simp] theorem State.at__cores (s : State) (t : Nat) : (s.at_ t).cores = s.cores := rfl
@[simp] theorem State.at__nst (s : State) (t : Nat) : (s.at_ t).nst = s.nst := rfl
@[simp] theorem State.at__dir (s : State) (t : Nat) : (s.at_ t).dir = s.dir := rfl
@[simp] theorem State.at__boot (s : State) (t : Nat) : (s.at_ t).boot = s.boot := rfl
@[simp] theorem State.at__sto (s : State) (t : Nat) : (s.at_ t).sto = s.sto := rfl
@[simp] theorem State.at__eng (s : State) (t : Nat) : (s.at_ t).eng = s.eng := rfl
@[simp] theorem State.at__engL (s : State) (t : Nat) : (s.at_ t).engL = s.engL := rfl
@[simp] theorem State.at__engS (s : State) (t : Nat) : (s.at_ t).engS = s.engS := rfl
@[simp] theorem State.at__evL (s : State) (t : Nat) : (s.at_ t).evL = s.evL := rfl
@[simp] theorem State.at__evS (s : State) (t : Nat) : (s.at_ t).evS = s.evS := rfl
@[simp] theorem State.at__cap (s : State) (t : Nat) : (s.at_ t).cap = s.cap := rfl
@[simp] theorem State.at__rbus (s : State) (t : Nat) : (s.at_ t).rbus = s.rbus := rfl
@[simp] theorem State.at__pir (s : State) (t : Nat) : (s.at_ t).pir = s.pir := rfl
@[simp] theorem State.at__tab (s : State) (t : Nat) : (s.at_ t).tab = s.tab := rfl
@[simp] theorem State.at__hostZm (s : State) (t : Nat) : (s.at_ t).hostZm = s.hostZm := rfl
@[simp] theorem State.at__stZ (s : State) (t : Nat) : (s.at_ t).stZ = s.stZ := rfl
@[simp] theorem State.at__loopPar (s : State) (t : Nat) : (s.at_ t).loopPar = s.loopPar := rfl
@[simp] theorem State.at__loopsL (s : State) (t : Nat) : (s.at_ t).loopsL = s.loopsL := rfl
@[simp] theorem State.at__loopsS (s : State) (t : Nat) : (s.at_ t).loopsS = s.loopsS := rfl
@[simp] theorem State.at__tmeCmd (s : State) (t : Nat) : (s.at_ t).tmeCmd = s.tmeCmd := rfl
@[simp] theorem State.at__net (s : State) (t : Nat) : (s.at_ t).net = s.net := rfl
@[simp] theorem State.at__fanIo (s : State) (t : Nat) : (s.at_ t).fanIo = s.fanIo := rfl
@[simp] theorem State.at__key (s : State) (t : Nat) : (s.at_ t).key = s.key := rfl
@[simp] theorem State.at__epd (s : State) (t : Nat) : (s.at_ t).epd = s.epd := rfl
@[simp] theorem State.at__pwr (s : State) (t : Nat) : (s.at_ t).pwr = s.pwr := rfl
@[simp] theorem State.at__clk (s : State) (t : Nat) : (s.at_ t).clk = s.clk := rfl
@[simp] theorem State.at__uid (s : State) (t : Nat) : (s.at_ t).uid = s.uid := rfl
@[simp] theorem State.at__lev (s : State) (t : Nat) : (s.at_ t).lev = s.lev := rfl
@[simp] theorem State.at__fab (s : State) (t : Nat) : (s.at_ t).fab = s.fab := rfl
@[simp] theorem State.at__dlv (s : State) (t : Nat) : (s.at_ t).dlv = s.dlv := rfl
@[simp] theorem State.at__fresh (s : State) (t : Nat) : (s.at_ t).fresh = s.fresh := rfl
@[simp] theorem State.at__word (s : State) (t : Nat) (i' : Nat) : (s.at_ t).word i' = s.word i' := rfl
@[simp] theorem State.at__get (s : State) (t : Nat) (i' : Field) : (s.at_ t).get i' = s.get i' := rfl
@[simp] theorem State.at__bit (s : State) (t : Nat) (i' : Field) : (s.at_ t).bit i' = s.bit i' := rfl
@[simp] theorem State.at__geti (s : State) (t : Nat) (i' : Field) : (s.at_ t).geti i' = s.geti i' := rfl
@[simp] theorem State.at__inForce (s : State) (t : Nat) (i' : Nat) : (s.at_ t).inForce i' = s.inForce i' := rfl
@[simp] theorem State.at__eget (s : State) (t : Nat) (i' : Field) : (s.at_ t).eget i' = s.eget i' := rfl
@[simp] theorem State.at__ebit (s : State) (t : Nat) (i' : Field) : (s.at_ t).ebit i' = s.ebit i' := rfl
@[simp] theorem State.at__egeti (s : State) (t : Nat) (i' : Field) : (s.at_ t).egeti i' = s.egeti i' := rfl
@[simp] theorem State.at__chan (s : State) (t : Nat) (i' : Nat) : (s.at_ t).chan i' = s.chan i' := rfl
@[simp] theorem State.at__level (s : State) (t : Nat) (i' : Nat) (j' : Nat) : (s.at_ t).level i' j' = s.level i' j' := rfl
@[simp] theorem State.at__visVal (s : State) (t : Nat) (i' : Nat) : (s.at_ t).visVal i' = s.visVal i' := rfl
@[simp] theorem State.at__core (s : State) (t : Nat) (i' : Nat) : (s.at_ t).core i' = s.core i' := rfl
@[simp] theorem State.at__en (s : State) (t : Nat) (i' : Nat) : (s.at_ t).en i' = s.en i' := rfl
@[simp] theorem State.at__enAck (s : State) (t : Nat) (i' : Nat) : (s.at_ t).enAck i' = s.enAck i' := rfl
@[simp] theorem State.at__coreOff (s : State) (t : Nat) : (s.at_ t).coreOff = s.coreOff := rfl
@[simp] theorem State.at__authRequired (s : State) (t : Nat) : (s.at_ t).authRequired = s.authRequired := rfl
@[simp] theorem State.at__lathPeriod (s : State) (t : Nat) : (s.at_ t).lathPeriod = s.lathPeriod := rfl
@[simp] theorem State.at__peatEnt (s : State) (t : Nat) (i' : Nat) : (s.at_ t).peatEnt i' = s.peatEnt i' := rfl
@[simp] theorem State.at__fanSt (s : State) (t : Nat) (i' : Nat) : (s.at_ t).fanSt i' = s.fanSt i' := rfl
@[simp] theorem State.at__tmeSt (s : State) (t : Nat) (i' : Nat) : (s.at_ t).tmeSt i' = s.tmeSt i' := rfl
@[simp] theorem State.at__loopSt (s : State) (t : Nat) (i' : Nat) : (s.at_ t).loopSt i' = s.loopSt i' := rfl

/-! `setChan` -/
@[simp] theorem State.setChan_pending (s : State) (n : Nat) (c : Chan) : (s.setChan n c).pending = s.pending := rfl
@[simp] theorem State.setChan_now (s : State) (n : Nat) (c : Chan) : (s.setChan n c).now = s.now := rfl
@[simp] theorem State.setChan_regs (s : State) (n : Nat) (c : Chan) : (s.setChan n c).regs = s.regs := rfl
@[simp] theorem State.setChan_held (s : State) (n : Nat) (c : Chan) : (s.setChan n c).held = s.held := rfl
@[simp] theorem State.setChan_frozen (s : State) (n : Nat) (c : Chan) : (s.setChan n c).frozen = s.frozen := rfl
@[simp] theorem State.setChan_softRst (s : State) (n : Nat) (c : Chan) : (s.setChan n c).softRst = s.softRst := rfl
@[simp] theorem State.setChan_port (s : State) (n : Nat) (c : Chan) : (s.setChan n c).port = s.port := rfl
@[simp] theorem State.setChan_lath (s : State) (n : Nat) (c : Chan) : (s.setChan n c).lath = s.lath := rfl
@[simp] theorem State.setChan_lv (s : State) (n : Nat) (c : Chan) : (s.setChan n c).lv = s.lv := rfl
@[simp] theorem State.setChan_l0 (s : State) (n : Nat) (c : Chan) : (s.setChan n c).l0 = s.l0 := rfl
@[simp] theorem State.setChan_stL (s : State) (n : Nat) (c : Chan) : (s.setChan n c).stL = s.stL := rfl
@[simp] theorem State.setChan_stS (s : State) (n : Nat) (c : Chan) : (s.setChan n c).stS = s.stS := rfl
@[simp] theorem State.setChan_hostLv (s : State) (n : Nat) (c : Chan) : (s.setChan n c).hostLv = s.hostLv := rfl
@[simp] theorem State.setChan_vis (s : State) (n : Nat) (c : Chan) : (s.setChan n c).vis = s.vis := rfl
@[simp] theorem State.setChan_img (s : State) (n : Nat) (c : Chan) : (s.setChan n c).img = s.img := rfl
@[simp] theorem State.setChan_lwork (s : State) (n : Nat) (c : Chan) : (s.setChan n c).lwork = s.lwork := rfl
@[simp] theorem State.setChan_swork (s : State) (n : Nat) (c : Chan) : (s.setChan n c).swork = s.swork := rfl
@[simp] theorem State.setChan_flt (s : State) (n : Nat) (c : Chan) : (s.setChan n c).flt = s.flt := rfl
@[simp] theorem State.setChan_cores (s : State) (n : Nat) (c : Chan) : (s.setChan n c).cores = s.cores := rfl
@[simp] theorem State.setChan_nst (s : State) (n : Nat) (c : Chan) : (s.setChan n c).nst = s.nst := rfl
@[simp] theorem State.setChan_dir (s : State) (n : Nat) (c : Chan) : (s.setChan n c).dir = s.dir := rfl
@[simp] theorem State.setChan_boot (s : State) (n : Nat) (c : Chan) : (s.setChan n c).boot = s.boot := rfl
@[simp] theorem State.setChan_sto (s : State) (n : Nat) (c : Chan) : (s.setChan n c).sto = s.sto := rfl
@[simp] theorem State.setChan_eng (s : State) (n : Nat) (c : Chan) : (s.setChan n c).eng = s.eng := rfl
@[simp] theorem State.setChan_engL (s : State) (n : Nat) (c : Chan) : (s.setChan n c).engL = s.engL := rfl
@[simp] theorem State.setChan_engS (s : State) (n : Nat) (c : Chan) : (s.setChan n c).engS = s.engS := rfl
@[simp] theorem State.setChan_evL (s : State) (n : Nat) (c : Chan) : (s.setChan n c).evL = s.evL := rfl
@[simp] theorem State.setChan_evS (s : State) (n : Nat) (c : Chan) : (s.setChan n c).evS = s.evS := rfl
@[simp] theorem State.setChan_cap (s : State) (n : Nat) (c : Chan) : (s.setChan n c).cap = s.cap := rfl
@[simp] theorem State.setChan_rbus (s : State) (n : Nat) (c : Chan) : (s.setChan n c).rbus = s.rbus := rfl
@[simp] theorem State.setChan_pir (s : State) (n : Nat) (c : Chan) : (s.setChan n c).pir = s.pir := rfl
@[simp] theorem State.setChan_tab (s : State) (n : Nat) (c : Chan) : (s.setChan n c).tab = s.tab := rfl
@[simp] theorem State.setChan_hostZm (s : State) (n : Nat) (c : Chan) : (s.setChan n c).hostZm = s.hostZm := rfl
@[simp] theorem State.setChan_stZ (s : State) (n : Nat) (c : Chan) : (s.setChan n c).stZ = s.stZ := rfl
@[simp] theorem State.setChan_loopPar (s : State) (n : Nat) (c : Chan) : (s.setChan n c).loopPar = s.loopPar := rfl
@[simp] theorem State.setChan_loopsL (s : State) (n : Nat) (c : Chan) : (s.setChan n c).loopsL = s.loopsL := rfl
@[simp] theorem State.setChan_loopsS (s : State) (n : Nat) (c : Chan) : (s.setChan n c).loopsS = s.loopsS := rfl
@[simp] theorem State.setChan_tmeCmd (s : State) (n : Nat) (c : Chan) : (s.setChan n c).tmeCmd = s.tmeCmd := rfl
@[simp] theorem State.setChan_net (s : State) (n : Nat) (c : Chan) : (s.setChan n c).net = s.net := rfl
@[simp] theorem State.setChan_fanIo (s : State) (n : Nat) (c : Chan) : (s.setChan n c).fanIo = s.fanIo := rfl
@[simp] theorem State.setChan_key (s : State) (n : Nat) (c : Chan) : (s.setChan n c).key = s.key := rfl
@[simp] theorem State.setChan_epd (s : State) (n : Nat) (c : Chan) : (s.setChan n c).epd = s.epd := rfl
@[simp] theorem State.setChan_pwr (s : State) (n : Nat) (c : Chan) : (s.setChan n c).pwr = s.pwr := rfl
@[simp] theorem State.setChan_clk (s : State) (n : Nat) (c : Chan) : (s.setChan n c).clk = s.clk := rfl
@[simp] theorem State.setChan_uid (s : State) (n : Nat) (c : Chan) : (s.setChan n c).uid = s.uid := rfl
@[simp] theorem State.setChan_lev (s : State) (n : Nat) (c : Chan) : (s.setChan n c).lev = s.lev := rfl
@[simp] theorem State.setChan_fab (s : State) (n : Nat) (c : Chan) : (s.setChan n c).fab = s.fab := rfl
@[simp] theorem State.setChan_dlv (s : State) (n : Nat) (c : Chan) : (s.setChan n c).dlv = s.dlv := rfl
@[simp] theorem State.setChan_fresh (s : State) (n : Nat) (c : Chan) : (s.setChan n c).fresh = s.fresh := rfl
@[simp] theorem State.setChan_word (s : State) (n : Nat) (c : Chan) (i' : Nat) : (s.setChan n c).word i' = s.word i' := rfl
@[simp] theorem State.setChan_get (s : State) (n : Nat) (c : Chan) (i' : Field) : (s.setChan n c).get i' = s.get i' := rfl
@[simp] theorem State.setChan_bit (s : State) (n : Nat) (c : Chan) (i' : Field) : (s.setChan n c).bit i' = s.bit i' := rfl
@[simp] theorem State.setChan_geti (s : State) (n : Nat) (c : Chan) (i' : Field) : (s.setChan n c).geti i' = s.geti i' := rfl
@[simp] theorem State.setChan_inForce (s : State) (n : Nat) (c : Chan) (i' : Nat) : (s.setChan n c).inForce i' = s.inForce i' := rfl
@[simp] theorem State.setChan_eget (s : State) (n : Nat) (c : Chan) (i' : Field) : (s.setChan n c).eget i' = s.eget i' := rfl
@[simp] theorem State.setChan_ebit (s : State) (n : Nat) (c : Chan) (i' : Field) : (s.setChan n c).ebit i' = s.ebit i' := rfl
@[simp] theorem State.setChan_egeti (s : State) (n : Nat) (c : Chan) (i' : Field) : (s.setChan n c).egeti i' = s.egeti i' := rfl
@[simp] theorem State.setChan_level (s : State) (n : Nat) (c : Chan) (i' : Nat) (j' : Nat) : (s.setChan n c).level i' j' = s.level i' j' := rfl
@[simp] theorem State.setChan_visVal (s : State) (n : Nat) (c : Chan) (i' : Nat) : (s.setChan n c).visVal i' = s.visVal i' := rfl
@[simp] theorem State.setChan_core (s : State) (n : Nat) (c : Chan) (i' : Nat) : (s.setChan n c).core i' = s.core i' := rfl
@[simp] theorem State.setChan_en (s : State) (n : Nat) (c : Chan) (i' : Nat) : (s.setChan n c).en i' = s.en i' := rfl
@[simp] theorem State.setChan_enAck (s : State) (n : Nat) (c : Chan) (i' : Nat) : (s.setChan n c).enAck i' = s.enAck i' := rfl
@[simp] theorem State.setChan_coreOff (s : State) (n : Nat) (c : Chan) : (s.setChan n c).coreOff = s.coreOff := rfl
@[simp] theorem State.setChan_authRequired (s : State) (n : Nat) (c : Chan) : (s.setChan n c).authRequired = s.authRequired := rfl
@[simp] theorem State.setChan_lathPeriod (s : State) (n : Nat) (c : Chan) : (s.setChan n c).lathPeriod = s.lathPeriod := rfl
@[simp] theorem State.setChan_peatEnt (s : State) (n : Nat) (c : Chan) (i' : Nat) : (s.setChan n c).peatEnt i' = s.peatEnt i' := rfl
@[simp] theorem State.setChan_fanSt (s : State) (n : Nat) (c : Chan) (i' : Nat) : (s.setChan n c).fanSt i' = s.fanSt i' := rfl
@[simp] theorem State.setChan_tmeSt (s : State) (n : Nat) (c : Chan) (i' : Nat) : (s.setChan n c).tmeSt i' = s.tmeSt i' := rfl
@[simp] theorem State.setChan_loopSt (s : State) (n : Nat) (c : Chan) (i' : Nat) : (s.setChan n c).loopSt i' = s.loopSt i' := rfl

/-! `modChan` -/
@[simp] theorem State.modChan_pending (s : State) (n : Nat) (f : Chan → Chan) : (s.modChan n f).pending = s.pending := rfl
@[simp] theorem State.modChan_now (s : State) (n : Nat) (f : Chan → Chan) : (s.modChan n f).now = s.now := rfl
@[simp] theorem State.modChan_regs (s : State) (n : Nat) (f : Chan → Chan) : (s.modChan n f).regs = s.regs := rfl
@[simp] theorem State.modChan_held (s : State) (n : Nat) (f : Chan → Chan) : (s.modChan n f).held = s.held := rfl
@[simp] theorem State.modChan_frozen (s : State) (n : Nat) (f : Chan → Chan) : (s.modChan n f).frozen = s.frozen := rfl
@[simp] theorem State.modChan_softRst (s : State) (n : Nat) (f : Chan → Chan) : (s.modChan n f).softRst = s.softRst := rfl
@[simp] theorem State.modChan_port (s : State) (n : Nat) (f : Chan → Chan) : (s.modChan n f).port = s.port := rfl
@[simp] theorem State.modChan_lath (s : State) (n : Nat) (f : Chan → Chan) : (s.modChan n f).lath = s.lath := rfl
@[simp] theorem State.modChan_lv (s : State) (n : Nat) (f : Chan → Chan) : (s.modChan n f).lv = s.lv := rfl
@[simp] theorem State.modChan_l0 (s : State) (n : Nat) (f : Chan → Chan) : (s.modChan n f).l0 = s.l0 := rfl
@[simp] theorem State.modChan_stL (s : State) (n : Nat) (f : Chan → Chan) : (s.modChan n f).stL = s.stL := rfl
@[simp] theorem State.modChan_stS (s : State) (n : Nat) (f : Chan → Chan) : (s.modChan n f).stS = s.stS := rfl
@[simp] theorem State.modChan_hostLv (s : State) (n : Nat) (f : Chan → Chan) : (s.modChan n f).hostLv = s.hostLv := rfl
@[simp] theorem State.modChan_vis (s : State) (n : Nat) (f : Chan → Chan) : (s.modChan n f).vis = s.vis := rfl
@[simp] theorem State.modChan_img (s : State) (n : Nat) (f : Chan → Chan) : (s.modChan n f).img = s.img := rfl
@[simp] theorem State.modChan_lwork (s : State) (n : Nat) (f : Chan → Chan) : (s.modChan n f).lwork = s.lwork := rfl
@[simp] theorem State.modChan_swork (s : State) (n : Nat) (f : Chan → Chan) : (s.modChan n f).swork = s.swork := rfl
@[simp] theorem State.modChan_flt (s : State) (n : Nat) (f : Chan → Chan) : (s.modChan n f).flt = s.flt := rfl
@[simp] theorem State.modChan_cores (s : State) (n : Nat) (f : Chan → Chan) : (s.modChan n f).cores = s.cores := rfl
@[simp] theorem State.modChan_nst (s : State) (n : Nat) (f : Chan → Chan) : (s.modChan n f).nst = s.nst := rfl
@[simp] theorem State.modChan_dir (s : State) (n : Nat) (f : Chan → Chan) : (s.modChan n f).dir = s.dir := rfl
@[simp] theorem State.modChan_boot (s : State) (n : Nat) (f : Chan → Chan) : (s.modChan n f).boot = s.boot := rfl
@[simp] theorem State.modChan_sto (s : State) (n : Nat) (f : Chan → Chan) : (s.modChan n f).sto = s.sto := rfl
@[simp] theorem State.modChan_eng (s : State) (n : Nat) (f : Chan → Chan) : (s.modChan n f).eng = s.eng := rfl
@[simp] theorem State.modChan_engL (s : State) (n : Nat) (f : Chan → Chan) : (s.modChan n f).engL = s.engL := rfl
@[simp] theorem State.modChan_engS (s : State) (n : Nat) (f : Chan → Chan) : (s.modChan n f).engS = s.engS := rfl
@[simp] theorem State.modChan_evL (s : State) (n : Nat) (f : Chan → Chan) : (s.modChan n f).evL = s.evL := rfl
@[simp] theorem State.modChan_evS (s : State) (n : Nat) (f : Chan → Chan) : (s.modChan n f).evS = s.evS := rfl
@[simp] theorem State.modChan_cap (s : State) (n : Nat) (f : Chan → Chan) : (s.modChan n f).cap = s.cap := rfl
@[simp] theorem State.modChan_rbus (s : State) (n : Nat) (f : Chan → Chan) : (s.modChan n f).rbus = s.rbus := rfl
@[simp] theorem State.modChan_pir (s : State) (n : Nat) (f : Chan → Chan) : (s.modChan n f).pir = s.pir := rfl
@[simp] theorem State.modChan_tab (s : State) (n : Nat) (f : Chan → Chan) : (s.modChan n f).tab = s.tab := rfl
@[simp] theorem State.modChan_hostZm (s : State) (n : Nat) (f : Chan → Chan) : (s.modChan n f).hostZm = s.hostZm := rfl
@[simp] theorem State.modChan_stZ (s : State) (n : Nat) (f : Chan → Chan) : (s.modChan n f).stZ = s.stZ := rfl
@[simp] theorem State.modChan_loopPar (s : State) (n : Nat) (f : Chan → Chan) : (s.modChan n f).loopPar = s.loopPar := rfl
@[simp] theorem State.modChan_loopsL (s : State) (n : Nat) (f : Chan → Chan) : (s.modChan n f).loopsL = s.loopsL := rfl
@[simp] theorem State.modChan_loopsS (s : State) (n : Nat) (f : Chan → Chan) : (s.modChan n f).loopsS = s.loopsS := rfl
@[simp] theorem State.modChan_tmeCmd (s : State) (n : Nat) (f : Chan → Chan) : (s.modChan n f).tmeCmd = s.tmeCmd := rfl
@[simp] theorem State.modChan_net (s : State) (n : Nat) (f : Chan → Chan) : (s.modChan n f).net = s.net := rfl
@[simp] theorem State.modChan_fanIo (s : State) (n : Nat) (f : Chan → Chan) : (s.modChan n f).fanIo = s.fanIo := rfl
@[simp] theorem State.modChan_key (s : State) (n : Nat) (f : Chan → Chan) : (s.modChan n f).key = s.key := rfl
@[simp] theorem State.modChan_epd (s : State) (n : Nat) (f : Chan → Chan) : (s.modChan n f).epd = s.epd := rfl
@[simp] theorem State.modChan_pwr (s : State) (n : Nat) (f : Chan → Chan) : (s.modChan n f).pwr = s.pwr := rfl
@[simp] theorem State.modChan_clk (s : State) (n : Nat) (f : Chan → Chan) : (s.modChan n f).clk = s.clk := rfl
@[simp] theorem State.modChan_uid (s : State) (n : Nat) (f : Chan → Chan) : (s.modChan n f).uid = s.uid := rfl
@[simp] theorem State.modChan_lev (s : State) (n : Nat) (f : Chan → Chan) : (s.modChan n f).lev = s.lev := rfl
@[simp] theorem State.modChan_fab (s : State) (n : Nat) (f : Chan → Chan) : (s.modChan n f).fab = s.fab := rfl
@[simp] theorem State.modChan_dlv (s : State) (n : Nat) (f : Chan → Chan) : (s.modChan n f).dlv = s.dlv := rfl
@[simp] theorem State.modChan_fresh (s : State) (n : Nat) (f : Chan → Chan) : (s.modChan n f).fresh = s.fresh := rfl
@[simp] theorem State.modChan_word (s : State) (n : Nat) (f : Chan → Chan) (i' : Nat) : (s.modChan n f).word i' = s.word i' := rfl
@[simp] theorem State.modChan_get (s : State) (n : Nat) (f : Chan → Chan) (i' : Field) : (s.modChan n f).get i' = s.get i' := rfl
@[simp] theorem State.modChan_bit (s : State) (n : Nat) (f : Chan → Chan) (i' : Field) : (s.modChan n f).bit i' = s.bit i' := rfl
@[simp] theorem State.modChan_geti (s : State) (n : Nat) (f : Chan → Chan) (i' : Field) : (s.modChan n f).geti i' = s.geti i' := rfl
@[simp] theorem State.modChan_inForce (s : State) (n : Nat) (f : Chan → Chan) (i' : Nat) : (s.modChan n f).inForce i' = s.inForce i' := rfl
@[simp] theorem State.modChan_eget (s : State) (n : Nat) (f : Chan → Chan) (i' : Field) : (s.modChan n f).eget i' = s.eget i' := rfl
@[simp] theorem State.modChan_ebit (s : State) (n : Nat) (f : Chan → Chan) (i' : Field) : (s.modChan n f).ebit i' = s.ebit i' := rfl
@[simp] theorem State.modChan_egeti (s : State) (n : Nat) (f : Chan → Chan) (i' : Field) : (s.modChan n f).egeti i' = s.egeti i' := rfl
@[simp] theorem State.modChan_level (s : State) (n : Nat) (f : Chan → Chan) (i' : Nat) (j' : Nat) : (s.modChan n f).level i' j' = s.level i' j' := rfl
@[simp] theorem State.modChan_visVal (s : State) (n : Nat) (f : Chan → Chan) (i' : Nat) : (s.modChan n f).visVal i' = s.visVal i' := rfl
@[simp] theorem State.modChan_core (s : State) (n : Nat) (f : Chan → Chan) (i' : Nat) : (s.modChan n f).core i' = s.core i' := rfl
@[simp] theorem State.modChan_en (s : State) (n : Nat) (f : Chan → Chan) (i' : Nat) : (s.modChan n f).en i' = s.en i' := rfl
@[simp] theorem State.modChan_enAck (s : State) (n : Nat) (f : Chan → Chan) (i' : Nat) : (s.modChan n f).enAck i' = s.enAck i' := rfl
@[simp] theorem State.modChan_coreOff (s : State) (n : Nat) (f : Chan → Chan) : (s.modChan n f).coreOff = s.coreOff := rfl
@[simp] theorem State.modChan_authRequired (s : State) (n : Nat) (f : Chan → Chan) : (s.modChan n f).authRequired = s.authRequired := rfl
@[simp] theorem State.modChan_lathPeriod (s : State) (n : Nat) (f : Chan → Chan) : (s.modChan n f).lathPeriod = s.lathPeriod := rfl
@[simp] theorem State.modChan_peatEnt (s : State) (n : Nat) (f : Chan → Chan) (i' : Nat) : (s.modChan n f).peatEnt i' = s.peatEnt i' := rfl
@[simp] theorem State.modChan_fanSt (s : State) (n : Nat) (f : Chan → Chan) (i' : Nat) : (s.modChan n f).fanSt i' = s.fanSt i' := rfl
@[simp] theorem State.modChan_tmeSt (s : State) (n : Nat) (f : Chan → Chan) (i' : Nat) : (s.modChan n f).tmeSt i' = s.tmeSt i' := rfl
@[simp] theorem State.modChan_loopSt (s : State) (n : Nat) (f : Chan → Chan) (i' : Nat) : (s.modChan n f).loopSt i' = s.loopSt i' := rfl

/-! `setLevel` -/
@[simp] theorem State.setLevel_pending (s : State) (o : Nat) (k : Nat) (v : Option Int) : (s.setLevel o k v).pending = s.pending := rfl
@[simp] theorem State.setLevel_now (s : State) (o : Nat) (k : Nat) (v : Option Int) : (s.setLevel o k v).now = s.now := rfl
@[simp] theorem State.setLevel_regs (s : State) (o : Nat) (k : Nat) (v : Option Int) : (s.setLevel o k v).regs = s.regs := rfl
@[simp] theorem State.setLevel_held (s : State) (o : Nat) (k : Nat) (v : Option Int) : (s.setLevel o k v).held = s.held := rfl
@[simp] theorem State.setLevel_frozen (s : State) (o : Nat) (k : Nat) (v : Option Int) : (s.setLevel o k v).frozen = s.frozen := rfl
@[simp] theorem State.setLevel_softRst (s : State) (o : Nat) (k : Nat) (v : Option Int) : (s.setLevel o k v).softRst = s.softRst := rfl
@[simp] theorem State.setLevel_port (s : State) (o : Nat) (k : Nat) (v : Option Int) : (s.setLevel o k v).port = s.port := rfl
@[simp] theorem State.setLevel_lath (s : State) (o : Nat) (k : Nat) (v : Option Int) : (s.setLevel o k v).lath = s.lath := rfl
@[simp] theorem State.setLevel_uch (s : State) (o : Nat) (k : Nat) (v : Option Int) : (s.setLevel o k v).uch = s.uch := rfl
@[simp] theorem State.setLevel_l0 (s : State) (o : Nat) (k : Nat) (v : Option Int) : (s.setLevel o k v).l0 = s.l0 := rfl
@[simp] theorem State.setLevel_stL (s : State) (o : Nat) (k : Nat) (v : Option Int) : (s.setLevel o k v).stL = s.stL := rfl
@[simp] theorem State.setLevel_stS (s : State) (o : Nat) (k : Nat) (v : Option Int) : (s.setLevel o k v).stS = s.stS := rfl
@[simp] theorem State.setLevel_hostLv (s : State) (o : Nat) (k : Nat) (v : Option Int) : (s.setLevel o k v).hostLv = s.hostLv := rfl
@[simp] theorem State.setLevel_vis (s : State) (o : Nat) (k : Nat) (v : Option Int) : (s.setLevel o k v).vis = s.vis := rfl
@[simp] theorem State.setLevel_img (s : State) (o : Nat) (k : Nat) (v : Option Int) : (s.setLevel o k v).img = s.img := rfl
@[simp] theorem State.setLevel_lwork (s : State) (o : Nat) (k : Nat) (v : Option Int) : (s.setLevel o k v).lwork = s.lwork := rfl
@[simp] theorem State.setLevel_swork (s : State) (o : Nat) (k : Nat) (v : Option Int) : (s.setLevel o k v).swork = s.swork := rfl
@[simp] theorem State.setLevel_flt (s : State) (o : Nat) (k : Nat) (v : Option Int) : (s.setLevel o k v).flt = s.flt := rfl
@[simp] theorem State.setLevel_cores (s : State) (o : Nat) (k : Nat) (v : Option Int) : (s.setLevel o k v).cores = s.cores := rfl
@[simp] theorem State.setLevel_nst (s : State) (o : Nat) (k : Nat) (v : Option Int) : (s.setLevel o k v).nst = s.nst := rfl
@[simp] theorem State.setLevel_dir (s : State) (o : Nat) (k : Nat) (v : Option Int) : (s.setLevel o k v).dir = s.dir := rfl
@[simp] theorem State.setLevel_boot (s : State) (o : Nat) (k : Nat) (v : Option Int) : (s.setLevel o k v).boot = s.boot := rfl
@[simp] theorem State.setLevel_sto (s : State) (o : Nat) (k : Nat) (v : Option Int) : (s.setLevel o k v).sto = s.sto := rfl
@[simp] theorem State.setLevel_eng (s : State) (o : Nat) (k : Nat) (v : Option Int) : (s.setLevel o k v).eng = s.eng := rfl
@[simp] theorem State.setLevel_engL (s : State) (o : Nat) (k : Nat) (v : Option Int) : (s.setLevel o k v).engL = s.engL := rfl
@[simp] theorem State.setLevel_engS (s : State) (o : Nat) (k : Nat) (v : Option Int) : (s.setLevel o k v).engS = s.engS := rfl
@[simp] theorem State.setLevel_evL (s : State) (o : Nat) (k : Nat) (v : Option Int) : (s.setLevel o k v).evL = s.evL := rfl
@[simp] theorem State.setLevel_evS (s : State) (o : Nat) (k : Nat) (v : Option Int) : (s.setLevel o k v).evS = s.evS := rfl
@[simp] theorem State.setLevel_cap (s : State) (o : Nat) (k : Nat) (v : Option Int) : (s.setLevel o k v).cap = s.cap := rfl
@[simp] theorem State.setLevel_rbus (s : State) (o : Nat) (k : Nat) (v : Option Int) : (s.setLevel o k v).rbus = s.rbus := rfl
@[simp] theorem State.setLevel_pir (s : State) (o : Nat) (k : Nat) (v : Option Int) : (s.setLevel o k v).pir = s.pir := rfl
@[simp] theorem State.setLevel_tab (s : State) (o : Nat) (k : Nat) (v : Option Int) : (s.setLevel o k v).tab = s.tab := rfl
@[simp] theorem State.setLevel_hostZm (s : State) (o : Nat) (k : Nat) (v : Option Int) : (s.setLevel o k v).hostZm = s.hostZm := rfl
@[simp] theorem State.setLevel_stZ (s : State) (o : Nat) (k : Nat) (v : Option Int) : (s.setLevel o k v).stZ = s.stZ := rfl
@[simp] theorem State.setLevel_loopPar (s : State) (o : Nat) (k : Nat) (v : Option Int) : (s.setLevel o k v).loopPar = s.loopPar := rfl
@[simp] theorem State.setLevel_loopsL (s : State) (o : Nat) (k : Nat) (v : Option Int) : (s.setLevel o k v).loopsL = s.loopsL := rfl
@[simp] theorem State.setLevel_loopsS (s : State) (o : Nat) (k : Nat) (v : Option Int) : (s.setLevel o k v).loopsS = s.loopsS := rfl
@[simp] theorem State.setLevel_tmeCmd (s : State) (o : Nat) (k : Nat) (v : Option Int) : (s.setLevel o k v).tmeCmd = s.tmeCmd := rfl
@[simp] theorem State.setLevel_net (s : State) (o : Nat) (k : Nat) (v : Option Int) : (s.setLevel o k v).net = s.net := rfl
@[simp] theorem State.setLevel_fanIo (s : State) (o : Nat) (k : Nat) (v : Option Int) : (s.setLevel o k v).fanIo = s.fanIo := rfl
@[simp] theorem State.setLevel_key (s : State) (o : Nat) (k : Nat) (v : Option Int) : (s.setLevel o k v).key = s.key := rfl
@[simp] theorem State.setLevel_epd (s : State) (o : Nat) (k : Nat) (v : Option Int) : (s.setLevel o k v).epd = s.epd := rfl
@[simp] theorem State.setLevel_pwr (s : State) (o : Nat) (k : Nat) (v : Option Int) : (s.setLevel o k v).pwr = s.pwr := rfl
@[simp] theorem State.setLevel_clk (s : State) (o : Nat) (k : Nat) (v : Option Int) : (s.setLevel o k v).clk = s.clk := rfl
@[simp] theorem State.setLevel_uid (s : State) (o : Nat) (k : Nat) (v : Option Int) : (s.setLevel o k v).uid = s.uid := rfl
@[simp] theorem State.setLevel_lev (s : State) (o : Nat) (k : Nat) (v : Option Int) : (s.setLevel o k v).lev = s.lev := rfl
@[simp] theorem State.setLevel_fab (s : State) (o : Nat) (k : Nat) (v : Option Int) : (s.setLevel o k v).fab = s.fab := rfl
@[simp] theorem State.setLevel_dlv (s : State) (o : Nat) (k : Nat) (v : Option Int) : (s.setLevel o k v).dlv = s.dlv := rfl
@[simp] theorem State.setLevel_fresh (s : State) (o : Nat) (k : Nat) (v : Option Int) : (s.setLevel o k v).fresh = s.fresh := rfl
@[simp] theorem State.setLevel_word (s : State) (o : Nat) (k : Nat) (v : Option Int) (i' : Nat) : (s.setLevel o k v).word i' = s.word i' := rfl
@[simp] theorem State.setLevel_get (s : State) (o : Nat) (k : Nat) (v : Option Int) (i' : Field) : (s.setLevel o k v).get i' = s.get i' := rfl
@[simp] theorem State.setLevel_bit (s : State) (o : Nat) (k : Nat) (v : Option Int) (i' : Field) : (s.setLevel o k v).bit i' = s.bit i' := rfl
@[simp] theorem State.setLevel_geti (s : State) (o : Nat) (k : Nat) (v : Option Int) (i' : Field) : (s.setLevel o k v).geti i' = s.geti i' := rfl
@[simp] theorem State.setLevel_inForce (s : State) (o : Nat) (k : Nat) (v : Option Int) (i' : Nat) : (s.setLevel o k v).inForce i' = s.inForce i' := rfl
@[simp] theorem State.setLevel_eget (s : State) (o : Nat) (k : Nat) (v : Option Int) (i' : Field) : (s.setLevel o k v).eget i' = s.eget i' := rfl
@[simp] theorem State.setLevel_ebit (s : State) (o : Nat) (k : Nat) (v : Option Int) (i' : Field) : (s.setLevel o k v).ebit i' = s.ebit i' := rfl
@[simp] theorem State.setLevel_egeti (s : State) (o : Nat) (k : Nat) (v : Option Int) (i' : Field) : (s.setLevel o k v).egeti i' = s.egeti i' := rfl
@[simp] theorem State.setLevel_chan (s : State) (o : Nat) (k : Nat) (v : Option Int) (i' : Nat) : (s.setLevel o k v).chan i' = s.chan i' := rfl
@[simp] theorem State.setLevel_visVal (s : State) (o : Nat) (k : Nat) (v : Option Int) (i' : Nat) : (s.setLevel o k v).visVal i' = s.visVal i' := rfl
@[simp] theorem State.setLevel_core (s : State) (o : Nat) (k : Nat) (v : Option Int) (i' : Nat) : (s.setLevel o k v).core i' = s.core i' := rfl
@[simp] theorem State.setLevel_en (s : State) (o : Nat) (k : Nat) (v : Option Int) (i' : Nat) : (s.setLevel o k v).en i' = s.en i' := rfl
@[simp] theorem State.setLevel_enAck (s : State) (o : Nat) (k : Nat) (v : Option Int) (i' : Nat) : (s.setLevel o k v).enAck i' = s.enAck i' := rfl
@[simp] theorem State.setLevel_coreOff (s : State) (o : Nat) (k : Nat) (v : Option Int) : (s.setLevel o k v).coreOff = s.coreOff := rfl
@[simp] theorem State.setLevel_authRequired (s : State) (o : Nat) (k : Nat) (v : Option Int) : (s.setLevel o k v).authRequired = s.authRequired := rfl
@[simp] theorem State.setLevel_lathPeriod (s : State) (o : Nat) (k : Nat) (v : Option Int) : (s.setLevel o k v).lathPeriod = s.lathPeriod := rfl
@[simp] theorem State.setLevel_peatEnt (s : State) (o : Nat) (k : Nat) (v : Option Int) (i' : Nat) : (s.setLevel o k v).peatEnt i' = s.peatEnt i' := rfl
@[simp] theorem State.setLevel_fanSt (s : State) (o : Nat) (k : Nat) (v : Option Int) (i' : Nat) : (s.setLevel o k v).fanSt i' = s.fanSt i' := rfl
@[simp] theorem State.setLevel_tmeSt (s : State) (o : Nat) (k : Nat) (v : Option Int) (i' : Nat) : (s.setLevel o k v).tmeSt i' = s.tmeSt i' := rfl
@[simp] theorem State.setLevel_loopSt (s : State) (o : Nat) (k : Nat) (v : Option Int) (i' : Nat) : (s.setLevel o k v).loopSt i' = s.loopSt i' := rfl

/-! `setL0` -/
@[simp] theorem State.setL0_pending (s : State) (o : Nat) (w : L0Owner) (v : Int) : (s.setL0 o w v).pending = s.pending := rfl
@[simp] theorem State.setL0_now (s : State) (o : Nat) (w : L0Owner) (v : Int) : (s.setL0 o w v).now = s.now := rfl
@[simp] theorem State.setL0_regs (s : State) (o : Nat) (w : L0Owner) (v : Int) : (s.setL0 o w v).regs = s.regs := rfl
@[simp] theorem State.setL0_held (s : State) (o : Nat) (w : L0Owner) (v : Int) : (s.setL0 o w v).held = s.held := rfl
@[simp] theorem State.setL0_frozen (s : State) (o : Nat) (w : L0Owner) (v : Int) : (s.setL0 o w v).frozen = s.frozen := rfl
@[simp] theorem State.setL0_softRst (s : State) (o : Nat) (w : L0Owner) (v : Int) : (s.setL0 o w v).softRst = s.softRst := rfl
@[simp] theorem State.setL0_port (s : State) (o : Nat) (w : L0Owner) (v : Int) : (s.setL0 o w v).port = s.port := rfl
@[simp] theorem State.setL0_lath (s : State) (o : Nat) (w : L0Owner) (v : Int) : (s.setL0 o w v).lath = s.lath := rfl
@[simp] theorem State.setL0_uch (s : State) (o : Nat) (w : L0Owner) (v : Int) : (s.setL0 o w v).uch = s.uch := rfl
@[simp] theorem State.setL0_lv (s : State) (o : Nat) (w : L0Owner) (v : Int) : (s.setL0 o w v).lv = s.lv := rfl
@[simp] theorem State.setL0_stL (s : State) (o : Nat) (w : L0Owner) (v : Int) : (s.setL0 o w v).stL = s.stL := rfl
@[simp] theorem State.setL0_stS (s : State) (o : Nat) (w : L0Owner) (v : Int) : (s.setL0 o w v).stS = s.stS := rfl
@[simp] theorem State.setL0_hostLv (s : State) (o : Nat) (w : L0Owner) (v : Int) : (s.setL0 o w v).hostLv = s.hostLv := rfl
@[simp] theorem State.setL0_vis (s : State) (o : Nat) (w : L0Owner) (v : Int) : (s.setL0 o w v).vis = s.vis := rfl
@[simp] theorem State.setL0_img (s : State) (o : Nat) (w : L0Owner) (v : Int) : (s.setL0 o w v).img = s.img := rfl
@[simp] theorem State.setL0_lwork (s : State) (o : Nat) (w : L0Owner) (v : Int) : (s.setL0 o w v).lwork = s.lwork := rfl
@[simp] theorem State.setL0_swork (s : State) (o : Nat) (w : L0Owner) (v : Int) : (s.setL0 o w v).swork = s.swork := rfl
@[simp] theorem State.setL0_flt (s : State) (o : Nat) (w : L0Owner) (v : Int) : (s.setL0 o w v).flt = s.flt := rfl
@[simp] theorem State.setL0_cores (s : State) (o : Nat) (w : L0Owner) (v : Int) : (s.setL0 o w v).cores = s.cores := rfl
@[simp] theorem State.setL0_nst (s : State) (o : Nat) (w : L0Owner) (v : Int) : (s.setL0 o w v).nst = s.nst := rfl
@[simp] theorem State.setL0_dir (s : State) (o : Nat) (w : L0Owner) (v : Int) : (s.setL0 o w v).dir = s.dir := rfl
@[simp] theorem State.setL0_boot (s : State) (o : Nat) (w : L0Owner) (v : Int) : (s.setL0 o w v).boot = s.boot := rfl
@[simp] theorem State.setL0_sto (s : State) (o : Nat) (w : L0Owner) (v : Int) : (s.setL0 o w v).sto = s.sto := rfl
@[simp] theorem State.setL0_eng (s : State) (o : Nat) (w : L0Owner) (v : Int) : (s.setL0 o w v).eng = s.eng := rfl
@[simp] theorem State.setL0_engL (s : State) (o : Nat) (w : L0Owner) (v : Int) : (s.setL0 o w v).engL = s.engL := rfl
@[simp] theorem State.setL0_engS (s : State) (o : Nat) (w : L0Owner) (v : Int) : (s.setL0 o w v).engS = s.engS := rfl
@[simp] theorem State.setL0_evL (s : State) (o : Nat) (w : L0Owner) (v : Int) : (s.setL0 o w v).evL = s.evL := rfl
@[simp] theorem State.setL0_evS (s : State) (o : Nat) (w : L0Owner) (v : Int) : (s.setL0 o w v).evS = s.evS := rfl
@[simp] theorem State.setL0_cap (s : State) (o : Nat) (w : L0Owner) (v : Int) : (s.setL0 o w v).cap = s.cap := rfl
@[simp] theorem State.setL0_rbus (s : State) (o : Nat) (w : L0Owner) (v : Int) : (s.setL0 o w v).rbus = s.rbus := rfl
@[simp] theorem State.setL0_pir (s : State) (o : Nat) (w : L0Owner) (v : Int) : (s.setL0 o w v).pir = s.pir := rfl
@[simp] theorem State.setL0_tab (s : State) (o : Nat) (w : L0Owner) (v : Int) : (s.setL0 o w v).tab = s.tab := rfl
@[simp] theorem State.setL0_hostZm (s : State) (o : Nat) (w : L0Owner) (v : Int) : (s.setL0 o w v).hostZm = s.hostZm := rfl
@[simp] theorem State.setL0_stZ (s : State) (o : Nat) (w : L0Owner) (v : Int) : (s.setL0 o w v).stZ = s.stZ := rfl
@[simp] theorem State.setL0_loopPar (s : State) (o : Nat) (w : L0Owner) (v : Int) : (s.setL0 o w v).loopPar = s.loopPar := rfl
@[simp] theorem State.setL0_loopsL (s : State) (o : Nat) (w : L0Owner) (v : Int) : (s.setL0 o w v).loopsL = s.loopsL := rfl
@[simp] theorem State.setL0_loopsS (s : State) (o : Nat) (w : L0Owner) (v : Int) : (s.setL0 o w v).loopsS = s.loopsS := rfl
@[simp] theorem State.setL0_tmeCmd (s : State) (o : Nat) (w : L0Owner) (v : Int) : (s.setL0 o w v).tmeCmd = s.tmeCmd := rfl
@[simp] theorem State.setL0_net (s : State) (o : Nat) (w : L0Owner) (v : Int) : (s.setL0 o w v).net = s.net := rfl
@[simp] theorem State.setL0_fanIo (s : State) (o : Nat) (w : L0Owner) (v : Int) : (s.setL0 o w v).fanIo = s.fanIo := rfl
@[simp] theorem State.setL0_key (s : State) (o : Nat) (w : L0Owner) (v : Int) : (s.setL0 o w v).key = s.key := rfl
@[simp] theorem State.setL0_epd (s : State) (o : Nat) (w : L0Owner) (v : Int) : (s.setL0 o w v).epd = s.epd := rfl
@[simp] theorem State.setL0_pwr (s : State) (o : Nat) (w : L0Owner) (v : Int) : (s.setL0 o w v).pwr = s.pwr := rfl
@[simp] theorem State.setL0_clk (s : State) (o : Nat) (w : L0Owner) (v : Int) : (s.setL0 o w v).clk = s.clk := rfl
@[simp] theorem State.setL0_uid (s : State) (o : Nat) (w : L0Owner) (v : Int) : (s.setL0 o w v).uid = s.uid := rfl
@[simp] theorem State.setL0_lev (s : State) (o : Nat) (w : L0Owner) (v : Int) : (s.setL0 o w v).lev = s.lev := rfl
@[simp] theorem State.setL0_fab (s : State) (o : Nat) (w : L0Owner) (v : Int) : (s.setL0 o w v).fab = s.fab := rfl
@[simp] theorem State.setL0_dlv (s : State) (o : Nat) (w : L0Owner) (v : Int) : (s.setL0 o w v).dlv = s.dlv := rfl
@[simp] theorem State.setL0_fresh (s : State) (o : Nat) (w : L0Owner) (v : Int) : (s.setL0 o w v).fresh = s.fresh := rfl
@[simp] theorem State.setL0_word (s : State) (o : Nat) (w : L0Owner) (v : Int) (i' : Nat) : (s.setL0 o w v).word i' = s.word i' := rfl
@[simp] theorem State.setL0_get (s : State) (o : Nat) (w : L0Owner) (v : Int) (i' : Field) : (s.setL0 o w v).get i' = s.get i' := rfl
@[simp] theorem State.setL0_bit (s : State) (o : Nat) (w : L0Owner) (v : Int) (i' : Field) : (s.setL0 o w v).bit i' = s.bit i' := rfl
@[simp] theorem State.setL0_geti (s : State) (o : Nat) (w : L0Owner) (v : Int) (i' : Field) : (s.setL0 o w v).geti i' = s.geti i' := rfl
@[simp] theorem State.setL0_inForce (s : State) (o : Nat) (w : L0Owner) (v : Int) (i' : Nat) : (s.setL0 o w v).inForce i' = s.inForce i' := rfl
@[simp] theorem State.setL0_eget (s : State) (o : Nat) (w : L0Owner) (v : Int) (i' : Field) : (s.setL0 o w v).eget i' = s.eget i' := rfl
@[simp] theorem State.setL0_ebit (s : State) (o : Nat) (w : L0Owner) (v : Int) (i' : Field) : (s.setL0 o w v).ebit i' = s.ebit i' := rfl
@[simp] theorem State.setL0_egeti (s : State) (o : Nat) (w : L0Owner) (v : Int) (i' : Field) : (s.setL0 o w v).egeti i' = s.egeti i' := rfl
@[simp] theorem State.setL0_chan (s : State) (o : Nat) (w : L0Owner) (v : Int) (i' : Nat) : (s.setL0 o w v).chan i' = s.chan i' := rfl
@[simp] theorem State.setL0_visVal (s : State) (o : Nat) (w : L0Owner) (v : Int) (i' : Nat) : (s.setL0 o w v).visVal i' = s.visVal i' := rfl
@[simp] theorem State.setL0_core (s : State) (o : Nat) (w : L0Owner) (v : Int) (i' : Nat) : (s.setL0 o w v).core i' = s.core i' := rfl
@[simp] theorem State.setL0_en (s : State) (o : Nat) (w : L0Owner) (v : Int) (i' : Nat) : (s.setL0 o w v).en i' = s.en i' := rfl
@[simp] theorem State.setL0_enAck (s : State) (o : Nat) (w : L0Owner) (v : Int) (i' : Nat) : (s.setL0 o w v).enAck i' = s.enAck i' := rfl
@[simp] theorem State.setL0_coreOff (s : State) (o : Nat) (w : L0Owner) (v : Int) : (s.setL0 o w v).coreOff = s.coreOff := rfl
@[simp] theorem State.setL0_authRequired (s : State) (o : Nat) (w : L0Owner) (v : Int) : (s.setL0 o w v).authRequired = s.authRequired := rfl
@[simp] theorem State.setL0_lathPeriod (s : State) (o : Nat) (w : L0Owner) (v : Int) : (s.setL0 o w v).lathPeriod = s.lathPeriod := rfl
@[simp] theorem State.setL0_peatEnt (s : State) (o : Nat) (w : L0Owner) (v : Int) (i' : Nat) : (s.setL0 o w v).peatEnt i' = s.peatEnt i' := rfl
@[simp] theorem State.setL0_fanSt (s : State) (o : Nat) (w : L0Owner) (v : Int) (i' : Nat) : (s.setL0 o w v).fanSt i' = s.fanSt i' := rfl
@[simp] theorem State.setL0_tmeSt (s : State) (o : Nat) (w : L0Owner) (v : Int) (i' : Nat) : (s.setL0 o w v).tmeSt i' = s.tmeSt i' := rfl
@[simp] theorem State.setL0_loopSt (s : State) (o : Nat) (w : L0Owner) (v : Int) (i' : Nat) : (s.setL0 o w v).loopSt i' = s.loopSt i' := rfl

/-! `relL0` -/
@[simp] theorem State.relL0_pending (s : State) (o : Nat) (w : L0Owner) : (s.relL0 o w).pending = s.pending := rfl
@[simp] theorem State.relL0_now (s : State) (o : Nat) (w : L0Owner) : (s.relL0 o w).now = s.now := rfl
@[simp] theorem State.relL0_regs (s : State) (o : Nat) (w : L0Owner) : (s.relL0 o w).regs = s.regs := rfl
@[simp] theorem State.relL0_held (s : State) (o : Nat) (w : L0Owner) : (s.relL0 o w).held = s.held := rfl
@[simp] theorem State.relL0_frozen (s : State) (o : Nat) (w : L0Owner) : (s.relL0 o w).frozen = s.frozen := rfl
@[simp] theorem State.relL0_softRst (s : State) (o : Nat) (w : L0Owner) : (s.relL0 o w).softRst = s.softRst := rfl
@[simp] theorem State.relL0_port (s : State) (o : Nat) (w : L0Owner) : (s.relL0 o w).port = s.port := rfl
@[simp] theorem State.relL0_lath (s : State) (o : Nat) (w : L0Owner) : (s.relL0 o w).lath = s.lath := rfl
@[simp] theorem State.relL0_uch (s : State) (o : Nat) (w : L0Owner) : (s.relL0 o w).uch = s.uch := rfl
@[simp] theorem State.relL0_lv (s : State) (o : Nat) (w : L0Owner) : (s.relL0 o w).lv = s.lv := rfl
@[simp] theorem State.relL0_stL (s : State) (o : Nat) (w : L0Owner) : (s.relL0 o w).stL = s.stL := rfl
@[simp] theorem State.relL0_stS (s : State) (o : Nat) (w : L0Owner) : (s.relL0 o w).stS = s.stS := rfl
@[simp] theorem State.relL0_hostLv (s : State) (o : Nat) (w : L0Owner) : (s.relL0 o w).hostLv = s.hostLv := rfl
@[simp] theorem State.relL0_vis (s : State) (o : Nat) (w : L0Owner) : (s.relL0 o w).vis = s.vis := rfl
@[simp] theorem State.relL0_img (s : State) (o : Nat) (w : L0Owner) : (s.relL0 o w).img = s.img := rfl
@[simp] theorem State.relL0_lwork (s : State) (o : Nat) (w : L0Owner) : (s.relL0 o w).lwork = s.lwork := rfl
@[simp] theorem State.relL0_swork (s : State) (o : Nat) (w : L0Owner) : (s.relL0 o w).swork = s.swork := rfl
@[simp] theorem State.relL0_flt (s : State) (o : Nat) (w : L0Owner) : (s.relL0 o w).flt = s.flt := rfl
@[simp] theorem State.relL0_cores (s : State) (o : Nat) (w : L0Owner) : (s.relL0 o w).cores = s.cores := rfl
@[simp] theorem State.relL0_nst (s : State) (o : Nat) (w : L0Owner) : (s.relL0 o w).nst = s.nst := rfl
@[simp] theorem State.relL0_dir (s : State) (o : Nat) (w : L0Owner) : (s.relL0 o w).dir = s.dir := rfl
@[simp] theorem State.relL0_boot (s : State) (o : Nat) (w : L0Owner) : (s.relL0 o w).boot = s.boot := rfl
@[simp] theorem State.relL0_sto (s : State) (o : Nat) (w : L0Owner) : (s.relL0 o w).sto = s.sto := rfl
@[simp] theorem State.relL0_eng (s : State) (o : Nat) (w : L0Owner) : (s.relL0 o w).eng = s.eng := rfl
@[simp] theorem State.relL0_engL (s : State) (o : Nat) (w : L0Owner) : (s.relL0 o w).engL = s.engL := rfl
@[simp] theorem State.relL0_engS (s : State) (o : Nat) (w : L0Owner) : (s.relL0 o w).engS = s.engS := rfl
@[simp] theorem State.relL0_evL (s : State) (o : Nat) (w : L0Owner) : (s.relL0 o w).evL = s.evL := rfl
@[simp] theorem State.relL0_evS (s : State) (o : Nat) (w : L0Owner) : (s.relL0 o w).evS = s.evS := rfl
@[simp] theorem State.relL0_cap (s : State) (o : Nat) (w : L0Owner) : (s.relL0 o w).cap = s.cap := rfl
@[simp] theorem State.relL0_rbus (s : State) (o : Nat) (w : L0Owner) : (s.relL0 o w).rbus = s.rbus := rfl
@[simp] theorem State.relL0_pir (s : State) (o : Nat) (w : L0Owner) : (s.relL0 o w).pir = s.pir := rfl
@[simp] theorem State.relL0_tab (s : State) (o : Nat) (w : L0Owner) : (s.relL0 o w).tab = s.tab := rfl
@[simp] theorem State.relL0_hostZm (s : State) (o : Nat) (w : L0Owner) : (s.relL0 o w).hostZm = s.hostZm := rfl
@[simp] theorem State.relL0_stZ (s : State) (o : Nat) (w : L0Owner) : (s.relL0 o w).stZ = s.stZ := rfl
@[simp] theorem State.relL0_loopPar (s : State) (o : Nat) (w : L0Owner) : (s.relL0 o w).loopPar = s.loopPar := rfl
@[simp] theorem State.relL0_loopsL (s : State) (o : Nat) (w : L0Owner) : (s.relL0 o w).loopsL = s.loopsL := rfl
@[simp] theorem State.relL0_loopsS (s : State) (o : Nat) (w : L0Owner) : (s.relL0 o w).loopsS = s.loopsS := rfl
@[simp] theorem State.relL0_tmeCmd (s : State) (o : Nat) (w : L0Owner) : (s.relL0 o w).tmeCmd = s.tmeCmd := rfl
@[simp] theorem State.relL0_net (s : State) (o : Nat) (w : L0Owner) : (s.relL0 o w).net = s.net := rfl
@[simp] theorem State.relL0_fanIo (s : State) (o : Nat) (w : L0Owner) : (s.relL0 o w).fanIo = s.fanIo := rfl
@[simp] theorem State.relL0_key (s : State) (o : Nat) (w : L0Owner) : (s.relL0 o w).key = s.key := rfl
@[simp] theorem State.relL0_epd (s : State) (o : Nat) (w : L0Owner) : (s.relL0 o w).epd = s.epd := rfl
@[simp] theorem State.relL0_pwr (s : State) (o : Nat) (w : L0Owner) : (s.relL0 o w).pwr = s.pwr := rfl
@[simp] theorem State.relL0_clk (s : State) (o : Nat) (w : L0Owner) : (s.relL0 o w).clk = s.clk := rfl
@[simp] theorem State.relL0_uid (s : State) (o : Nat) (w : L0Owner) : (s.relL0 o w).uid = s.uid := rfl
@[simp] theorem State.relL0_lev (s : State) (o : Nat) (w : L0Owner) : (s.relL0 o w).lev = s.lev := rfl
@[simp] theorem State.relL0_fab (s : State) (o : Nat) (w : L0Owner) : (s.relL0 o w).fab = s.fab := rfl
@[simp] theorem State.relL0_dlv (s : State) (o : Nat) (w : L0Owner) : (s.relL0 o w).dlv = s.dlv := rfl
@[simp] theorem State.relL0_fresh (s : State) (o : Nat) (w : L0Owner) : (s.relL0 o w).fresh = s.fresh := rfl
@[simp] theorem State.relL0_word (s : State) (o : Nat) (w : L0Owner) (i' : Nat) : (s.relL0 o w).word i' = s.word i' := rfl
@[simp] theorem State.relL0_get (s : State) (o : Nat) (w : L0Owner) (i' : Field) : (s.relL0 o w).get i' = s.get i' := rfl
@[simp] theorem State.relL0_bit (s : State) (o : Nat) (w : L0Owner) (i' : Field) : (s.relL0 o w).bit i' = s.bit i' := rfl
@[simp] theorem State.relL0_geti (s : State) (o : Nat) (w : L0Owner) (i' : Field) : (s.relL0 o w).geti i' = s.geti i' := rfl
@[simp] theorem State.relL0_inForce (s : State) (o : Nat) (w : L0Owner) (i' : Nat) : (s.relL0 o w).inForce i' = s.inForce i' := rfl
@[simp] theorem State.relL0_eget (s : State) (o : Nat) (w : L0Owner) (i' : Field) : (s.relL0 o w).eget i' = s.eget i' := rfl
@[simp] theorem State.relL0_ebit (s : State) (o : Nat) (w : L0Owner) (i' : Field) : (s.relL0 o w).ebit i' = s.ebit i' := rfl
@[simp] theorem State.relL0_egeti (s : State) (o : Nat) (w : L0Owner) (i' : Field) : (s.relL0 o w).egeti i' = s.egeti i' := rfl
@[simp] theorem State.relL0_chan (s : State) (o : Nat) (w : L0Owner) (i' : Nat) : (s.relL0 o w).chan i' = s.chan i' := rfl
@[simp] theorem State.relL0_visVal (s : State) (o : Nat) (w : L0Owner) (i' : Nat) : (s.relL0 o w).visVal i' = s.visVal i' := rfl
@[simp] theorem State.relL0_core (s : State) (o : Nat) (w : L0Owner) (i' : Nat) : (s.relL0 o w).core i' = s.core i' := rfl
@[simp] theorem State.relL0_en (s : State) (o : Nat) (w : L0Owner) (i' : Nat) : (s.relL0 o w).en i' = s.en i' := rfl
@[simp] theorem State.relL0_enAck (s : State) (o : Nat) (w : L0Owner) (i' : Nat) : (s.relL0 o w).enAck i' = s.enAck i' := rfl
@[simp] theorem State.relL0_coreOff (s : State) (o : Nat) (w : L0Owner) : (s.relL0 o w).coreOff = s.coreOff := rfl
@[simp] theorem State.relL0_authRequired (s : State) (o : Nat) (w : L0Owner) : (s.relL0 o w).authRequired = s.authRequired := rfl
@[simp] theorem State.relL0_lathPeriod (s : State) (o : Nat) (w : L0Owner) : (s.relL0 o w).lathPeriod = s.lathPeriod := rfl
@[simp] theorem State.relL0_peatEnt (s : State) (o : Nat) (w : L0Owner) (i' : Nat) : (s.relL0 o w).peatEnt i' = s.peatEnt i' := rfl
@[simp] theorem State.relL0_fanSt (s : State) (o : Nat) (w : L0Owner) (i' : Nat) : (s.relL0 o w).fanSt i' = s.fanSt i' := rfl
@[simp] theorem State.relL0_tmeSt (s : State) (o : Nat) (w : L0Owner) (i' : Nat) : (s.relL0 o w).tmeSt i' = s.tmeSt i' := rfl
@[simp] theorem State.relL0_loopSt (s : State) (o : Nat) (w : L0Owner) (i' : Nat) : (s.relL0 o w).loopSt i' = s.loopSt i' := rfl

/-! `setVis` -/
@[simp] theorem State.setVis_pending (s : State) (h : Nat) (v : Val) : (s.setVis h v).pending = s.pending := rfl
@[simp] theorem State.setVis_now (s : State) (h : Nat) (v : Val) : (s.setVis h v).now = s.now := rfl
@[simp] theorem State.setVis_regs (s : State) (h : Nat) (v : Val) : (s.setVis h v).regs = s.regs := rfl
@[simp] theorem State.setVis_held (s : State) (h : Nat) (v : Val) : (s.setVis h v).held = s.held := rfl
@[simp] theorem State.setVis_frozen (s : State) (h : Nat) (v : Val) : (s.setVis h v).frozen = s.frozen := rfl
@[simp] theorem State.setVis_softRst (s : State) (h : Nat) (v : Val) : (s.setVis h v).softRst = s.softRst := rfl
@[simp] theorem State.setVis_port (s : State) (h : Nat) (v : Val) : (s.setVis h v).port = s.port := rfl
@[simp] theorem State.setVis_lath (s : State) (h : Nat) (v : Val) : (s.setVis h v).lath = s.lath := rfl
@[simp] theorem State.setVis_uch (s : State) (h : Nat) (v : Val) : (s.setVis h v).uch = s.uch := rfl
@[simp] theorem State.setVis_lv (s : State) (h : Nat) (v : Val) : (s.setVis h v).lv = s.lv := rfl
@[simp] theorem State.setVis_l0 (s : State) (h : Nat) (v : Val) : (s.setVis h v).l0 = s.l0 := rfl
@[simp] theorem State.setVis_stL (s : State) (h : Nat) (v : Val) : (s.setVis h v).stL = s.stL := rfl
@[simp] theorem State.setVis_stS (s : State) (h : Nat) (v : Val) : (s.setVis h v).stS = s.stS := rfl
@[simp] theorem State.setVis_hostLv (s : State) (h : Nat) (v : Val) : (s.setVis h v).hostLv = s.hostLv := rfl
@[simp] theorem State.setVis_img (s : State) (h : Nat) (v : Val) : (s.setVis h v).img = s.img := rfl
@[simp] theorem State.setVis_lwork (s : State) (h : Nat) (v : Val) : (s.setVis h v).lwork = s.lwork := rfl
@[simp] theorem State.setVis_swork (s : State) (h : Nat) (v : Val) : (s.setVis h v).swork = s.swork := rfl
@[simp] theorem State.setVis_flt (s : State) (h : Nat) (v : Val) : (s.setVis h v).flt = s.flt := rfl
@[simp] theorem State.setVis_cores (s : State) (h : Nat) (v : Val) : (s.setVis h v).cores = s.cores := rfl
@[simp] theorem State.setVis_nst (s : State) (h : Nat) (v : Val) : (s.setVis h v).nst = s.nst := rfl
@[simp] theorem State.setVis_dir (s : State) (h : Nat) (v : Val) : (s.setVis h v).dir = s.dir := rfl
@[simp] theorem State.setVis_boot (s : State) (h : Nat) (v : Val) : (s.setVis h v).boot = s.boot := rfl
@[simp] theorem State.setVis_sto (s : State) (h : Nat) (v : Val) : (s.setVis h v).sto = s.sto := rfl
@[simp] theorem State.setVis_eng (s : State) (h : Nat) (v : Val) : (s.setVis h v).eng = s.eng := rfl
@[simp] theorem State.setVis_engL (s : State) (h : Nat) (v : Val) : (s.setVis h v).engL = s.engL := rfl
@[simp] theorem State.setVis_engS (s : State) (h : Nat) (v : Val) : (s.setVis h v).engS = s.engS := rfl
@[simp] theorem State.setVis_evL (s : State) (h : Nat) (v : Val) : (s.setVis h v).evL = s.evL := rfl
@[simp] theorem State.setVis_evS (s : State) (h : Nat) (v : Val) : (s.setVis h v).evS = s.evS := rfl
@[simp] theorem State.setVis_cap (s : State) (h : Nat) (v : Val) : (s.setVis h v).cap = s.cap := rfl
@[simp] theorem State.setVis_rbus (s : State) (h : Nat) (v : Val) : (s.setVis h v).rbus = s.rbus := rfl
@[simp] theorem State.setVis_pir (s : State) (h : Nat) (v : Val) : (s.setVis h v).pir = s.pir := rfl
@[simp] theorem State.setVis_tab (s : State) (h : Nat) (v : Val) : (s.setVis h v).tab = s.tab := rfl
@[simp] theorem State.setVis_hostZm (s : State) (h : Nat) (v : Val) : (s.setVis h v).hostZm = s.hostZm := rfl
@[simp] theorem State.setVis_stZ (s : State) (h : Nat) (v : Val) : (s.setVis h v).stZ = s.stZ := rfl
@[simp] theorem State.setVis_loopPar (s : State) (h : Nat) (v : Val) : (s.setVis h v).loopPar = s.loopPar := rfl
@[simp] theorem State.setVis_loopsL (s : State) (h : Nat) (v : Val) : (s.setVis h v).loopsL = s.loopsL := rfl
@[simp] theorem State.setVis_loopsS (s : State) (h : Nat) (v : Val) : (s.setVis h v).loopsS = s.loopsS := rfl
@[simp] theorem State.setVis_tmeCmd (s : State) (h : Nat) (v : Val) : (s.setVis h v).tmeCmd = s.tmeCmd := rfl
@[simp] theorem State.setVis_net (s : State) (h : Nat) (v : Val) : (s.setVis h v).net = s.net := rfl
@[simp] theorem State.setVis_fanIo (s : State) (h : Nat) (v : Val) : (s.setVis h v).fanIo = s.fanIo := rfl
@[simp] theorem State.setVis_key (s : State) (h : Nat) (v : Val) : (s.setVis h v).key = s.key := rfl
@[simp] theorem State.setVis_epd (s : State) (h : Nat) (v : Val) : (s.setVis h v).epd = s.epd := rfl
@[simp] theorem State.setVis_pwr (s : State) (h : Nat) (v : Val) : (s.setVis h v).pwr = s.pwr := rfl
@[simp] theorem State.setVis_clk (s : State) (h : Nat) (v : Val) : (s.setVis h v).clk = s.clk := rfl
@[simp] theorem State.setVis_uid (s : State) (h : Nat) (v : Val) : (s.setVis h v).uid = s.uid := rfl
@[simp] theorem State.setVis_lev (s : State) (h : Nat) (v : Val) : (s.setVis h v).lev = s.lev := rfl
@[simp] theorem State.setVis_fab (s : State) (h : Nat) (v : Val) : (s.setVis h v).fab = s.fab := rfl
@[simp] theorem State.setVis_dlv (s : State) (h : Nat) (v : Val) : (s.setVis h v).dlv = s.dlv := rfl
@[simp] theorem State.setVis_fresh (s : State) (h : Nat) (v : Val) : (s.setVis h v).fresh = s.fresh := rfl
@[simp] theorem State.setVis_word (s : State) (h : Nat) (v : Val) (i' : Nat) : (s.setVis h v).word i' = s.word i' := rfl
@[simp] theorem State.setVis_get (s : State) (h : Nat) (v : Val) (i' : Field) : (s.setVis h v).get i' = s.get i' := rfl
@[simp] theorem State.setVis_bit (s : State) (h : Nat) (v : Val) (i' : Field) : (s.setVis h v).bit i' = s.bit i' := rfl
@[simp] theorem State.setVis_geti (s : State) (h : Nat) (v : Val) (i' : Field) : (s.setVis h v).geti i' = s.geti i' := rfl
@[simp] theorem State.setVis_inForce (s : State) (h : Nat) (v : Val) (i' : Nat) : (s.setVis h v).inForce i' = s.inForce i' := rfl
@[simp] theorem State.setVis_eget (s : State) (h : Nat) (v : Val) (i' : Field) : (s.setVis h v).eget i' = s.eget i' := rfl
@[simp] theorem State.setVis_ebit (s : State) (h : Nat) (v : Val) (i' : Field) : (s.setVis h v).ebit i' = s.ebit i' := rfl
@[simp] theorem State.setVis_egeti (s : State) (h : Nat) (v : Val) (i' : Field) : (s.setVis h v).egeti i' = s.egeti i' := rfl
@[simp] theorem State.setVis_chan (s : State) (h : Nat) (v : Val) (i' : Nat) : (s.setVis h v).chan i' = s.chan i' := rfl
@[simp] theorem State.setVis_level (s : State) (h : Nat) (v : Val) (i' : Nat) (j' : Nat) : (s.setVis h v).level i' j' = s.level i' j' := rfl
@[simp] theorem State.setVis_core (s : State) (h : Nat) (v : Val) (i' : Nat) : (s.setVis h v).core i' = s.core i' := rfl
@[simp] theorem State.setVis_en (s : State) (h : Nat) (v : Val) (i' : Nat) : (s.setVis h v).en i' = s.en i' := rfl
@[simp] theorem State.setVis_enAck (s : State) (h : Nat) (v : Val) (i' : Nat) : (s.setVis h v).enAck i' = s.enAck i' := rfl
@[simp] theorem State.setVis_coreOff (s : State) (h : Nat) (v : Val) : (s.setVis h v).coreOff = s.coreOff := rfl
@[simp] theorem State.setVis_authRequired (s : State) (h : Nat) (v : Val) : (s.setVis h v).authRequired = s.authRequired := rfl
@[simp] theorem State.setVis_lathPeriod (s : State) (h : Nat) (v : Val) : (s.setVis h v).lathPeriod = s.lathPeriod := rfl
@[simp] theorem State.setVis_peatEnt (s : State) (h : Nat) (v : Val) (i' : Nat) : (s.setVis h v).peatEnt i' = s.peatEnt i' := rfl
@[simp] theorem State.setVis_fanSt (s : State) (h : Nat) (v : Val) (i' : Nat) : (s.setVis h v).fanSt i' = s.fanSt i' := rfl
@[simp] theorem State.setVis_tmeSt (s : State) (h : Nat) (v : Val) (i' : Nat) : (s.setVis h v).tmeSt i' = s.tmeSt i' := rfl
@[simp] theorem State.setVis_loopSt (s : State) (h : Nat) (v : Val) (i' : Nat) : (s.setVis h v).loopSt i' = s.loopSt i' := rfl

/-! `setPeat` -/
@[simp] theorem State.setPeat_pending (s : State) (e : Nat) (x : PEnt) : (s.setPeat e x).pending = s.pending := rfl
@[simp] theorem State.setPeat_now (s : State) (e : Nat) (x : PEnt) : (s.setPeat e x).now = s.now := rfl
@[simp] theorem State.setPeat_regs (s : State) (e : Nat) (x : PEnt) : (s.setPeat e x).regs = s.regs := rfl
@[simp] theorem State.setPeat_held (s : State) (e : Nat) (x : PEnt) : (s.setPeat e x).held = s.held := rfl
@[simp] theorem State.setPeat_frozen (s : State) (e : Nat) (x : PEnt) : (s.setPeat e x).frozen = s.frozen := rfl
@[simp] theorem State.setPeat_softRst (s : State) (e : Nat) (x : PEnt) : (s.setPeat e x).softRst = s.softRst := rfl
@[simp] theorem State.setPeat_port (s : State) (e : Nat) (x : PEnt) : (s.setPeat e x).port = s.port := rfl
@[simp] theorem State.setPeat_lath (s : State) (e : Nat) (x : PEnt) : (s.setPeat e x).lath = s.lath := rfl
@[simp] theorem State.setPeat_uch (s : State) (e : Nat) (x : PEnt) : (s.setPeat e x).uch = s.uch := rfl
@[simp] theorem State.setPeat_lv (s : State) (e : Nat) (x : PEnt) : (s.setPeat e x).lv = s.lv := rfl
@[simp] theorem State.setPeat_l0 (s : State) (e : Nat) (x : PEnt) : (s.setPeat e x).l0 = s.l0 := rfl
@[simp] theorem State.setPeat_stL (s : State) (e : Nat) (x : PEnt) : (s.setPeat e x).stL = s.stL := rfl
@[simp] theorem State.setPeat_stS (s : State) (e : Nat) (x : PEnt) : (s.setPeat e x).stS = s.stS := rfl
@[simp] theorem State.setPeat_hostLv (s : State) (e : Nat) (x : PEnt) : (s.setPeat e x).hostLv = s.hostLv := rfl
@[simp] theorem State.setPeat_vis (s : State) (e : Nat) (x : PEnt) : (s.setPeat e x).vis = s.vis := rfl
@[simp] theorem State.setPeat_img (s : State) (e : Nat) (x : PEnt) : (s.setPeat e x).img = s.img := rfl
@[simp] theorem State.setPeat_lwork (s : State) (e : Nat) (x : PEnt) : (s.setPeat e x).lwork = s.lwork := rfl
@[simp] theorem State.setPeat_swork (s : State) (e : Nat) (x : PEnt) : (s.setPeat e x).swork = s.swork := rfl
@[simp] theorem State.setPeat_flt (s : State) (e : Nat) (x : PEnt) : (s.setPeat e x).flt = s.flt := rfl
@[simp] theorem State.setPeat_cores (s : State) (e : Nat) (x : PEnt) : (s.setPeat e x).cores = s.cores := rfl
@[simp] theorem State.setPeat_nst (s : State) (e : Nat) (x : PEnt) : (s.setPeat e x).nst = s.nst := rfl
@[simp] theorem State.setPeat_dir (s : State) (e : Nat) (x : PEnt) : (s.setPeat e x).dir = s.dir := rfl
@[simp] theorem State.setPeat_boot (s : State) (e : Nat) (x : PEnt) : (s.setPeat e x).boot = s.boot := rfl
@[simp] theorem State.setPeat_eng (s : State) (e : Nat) (x : PEnt) : (s.setPeat e x).eng = s.eng := rfl
@[simp] theorem State.setPeat_engL (s : State) (e : Nat) (x : PEnt) : (s.setPeat e x).engL = s.engL := rfl
@[simp] theorem State.setPeat_engS (s : State) (e : Nat) (x : PEnt) : (s.setPeat e x).engS = s.engS := rfl
@[simp] theorem State.setPeat_evL (s : State) (e : Nat) (x : PEnt) : (s.setPeat e x).evL = s.evL := rfl
@[simp] theorem State.setPeat_evS (s : State) (e : Nat) (x : PEnt) : (s.setPeat e x).evS = s.evS := rfl
@[simp] theorem State.setPeat_cap (s : State) (e : Nat) (x : PEnt) : (s.setPeat e x).cap = s.cap := rfl
@[simp] theorem State.setPeat_rbus (s : State) (e : Nat) (x : PEnt) : (s.setPeat e x).rbus = s.rbus := rfl
@[simp] theorem State.setPeat_pir (s : State) (e : Nat) (x : PEnt) : (s.setPeat e x).pir = s.pir := rfl
@[simp] theorem State.setPeat_tab (s : State) (e : Nat) (x : PEnt) : (s.setPeat e x).tab = s.tab := rfl
@[simp] theorem State.setPeat_hostZm (s : State) (e : Nat) (x : PEnt) : (s.setPeat e x).hostZm = s.hostZm := rfl
@[simp] theorem State.setPeat_stZ (s : State) (e : Nat) (x : PEnt) : (s.setPeat e x).stZ = s.stZ := rfl
@[simp] theorem State.setPeat_loopPar (s : State) (e : Nat) (x : PEnt) : (s.setPeat e x).loopPar = s.loopPar := rfl
@[simp] theorem State.setPeat_loopsL (s : State) (e : Nat) (x : PEnt) : (s.setPeat e x).loopsL = s.loopsL := rfl
@[simp] theorem State.setPeat_loopsS (s : State) (e : Nat) (x : PEnt) : (s.setPeat e x).loopsS = s.loopsS := rfl
@[simp] theorem State.setPeat_tmeCmd (s : State) (e : Nat) (x : PEnt) : (s.setPeat e x).tmeCmd = s.tmeCmd := rfl
@[simp] theorem State.setPeat_net (s : State) (e : Nat) (x : PEnt) : (s.setPeat e x).net = s.net := rfl
@[simp] theorem State.setPeat_fanIo (s : State) (e : Nat) (x : PEnt) : (s.setPeat e x).fanIo = s.fanIo := rfl
@[simp] theorem State.setPeat_key (s : State) (e : Nat) (x : PEnt) : (s.setPeat e x).key = s.key := rfl
@[simp] theorem State.setPeat_epd (s : State) (e : Nat) (x : PEnt) : (s.setPeat e x).epd = s.epd := rfl
@[simp] theorem State.setPeat_pwr (s : State) (e : Nat) (x : PEnt) : (s.setPeat e x).pwr = s.pwr := rfl
@[simp] theorem State.setPeat_clk (s : State) (e : Nat) (x : PEnt) : (s.setPeat e x).clk = s.clk := rfl
@[simp] theorem State.setPeat_uid (s : State) (e : Nat) (x : PEnt) : (s.setPeat e x).uid = s.uid := rfl
@[simp] theorem State.setPeat_lev (s : State) (e : Nat) (x : PEnt) : (s.setPeat e x).lev = s.lev := rfl
@[simp] theorem State.setPeat_fab (s : State) (e : Nat) (x : PEnt) : (s.setPeat e x).fab = s.fab := rfl
@[simp] theorem State.setPeat_dlv (s : State) (e : Nat) (x : PEnt) : (s.setPeat e x).dlv = s.dlv := rfl
@[simp] theorem State.setPeat_fresh (s : State) (e : Nat) (x : PEnt) : (s.setPeat e x).fresh = s.fresh := rfl
@[simp] theorem State.setPeat_word (s : State) (e : Nat) (x : PEnt) (i' : Nat) : (s.setPeat e x).word i' = s.word i' := rfl
@[simp] theorem State.setPeat_get (s : State) (e : Nat) (x : PEnt) (i' : Field) : (s.setPeat e x).get i' = s.get i' := rfl
@[simp] theorem State.setPeat_bit (s : State) (e : Nat) (x : PEnt) (i' : Field) : (s.setPeat e x).bit i' = s.bit i' := rfl
@[simp] theorem State.setPeat_geti (s : State) (e : Nat) (x : PEnt) (i' : Field) : (s.setPeat e x).geti i' = s.geti i' := rfl
@[simp] theorem State.setPeat_inForce (s : State) (e : Nat) (x : PEnt) (i' : Nat) : (s.setPeat e x).inForce i' = s.inForce i' := rfl
@[simp] theorem State.setPeat_eget (s : State) (e : Nat) (x : PEnt) (i' : Field) : (s.setPeat e x).eget i' = s.eget i' := rfl
@[simp] theorem State.setPeat_ebit (s : State) (e : Nat) (x : PEnt) (i' : Field) : (s.setPeat e x).ebit i' = s.ebit i' := rfl
@[simp] theorem State.setPeat_egeti (s : State) (e : Nat) (x : PEnt) (i' : Field) : (s.setPeat e x).egeti i' = s.egeti i' := rfl
@[simp] theorem State.setPeat_chan (s : State) (e : Nat) (x : PEnt) (i' : Nat) : (s.setPeat e x).chan i' = s.chan i' := rfl
@[simp] theorem State.setPeat_level (s : State) (e : Nat) (x : PEnt) (i' : Nat) (j' : Nat) : (s.setPeat e x).level i' j' = s.level i' j' := rfl
@[simp] theorem State.setPeat_visVal (s : State) (e : Nat) (x : PEnt) (i' : Nat) : (s.setPeat e x).visVal i' = s.visVal i' := rfl
@[simp] theorem State.setPeat_core (s : State) (e : Nat) (x : PEnt) (i' : Nat) : (s.setPeat e x).core i' = s.core i' := rfl
@[simp] theorem State.setPeat_en (s : State) (e : Nat) (x : PEnt) (i' : Nat) : (s.setPeat e x).en i' = s.en i' := rfl
@[simp] theorem State.setPeat_enAck (s : State) (e : Nat) (x : PEnt) (i' : Nat) : (s.setPeat e x).enAck i' = s.enAck i' := rfl
@[simp] theorem State.setPeat_coreOff (s : State) (e : Nat) (x : PEnt) : (s.setPeat e x).coreOff = s.coreOff := rfl
@[simp] theorem State.setPeat_lathPeriod (s : State) (e : Nat) (x : PEnt) : (s.setPeat e x).lathPeriod = s.lathPeriod := rfl
@[simp] theorem State.setPeat_fanSt (s : State) (e : Nat) (x : PEnt) (i' : Nat) : (s.setPeat e x).fanSt i' = s.fanSt i' := rfl
@[simp] theorem State.setPeat_tmeSt (s : State) (e : Nat) (x : PEnt) (i' : Nat) : (s.setPeat e x).tmeSt i' = s.tmeSt i' := rfl
@[simp] theorem State.setPeat_loopSt (s : State) (e : Nat) (x : PEnt) (i' : Nat) : (s.setPeat e x).loopSt i' = s.loopSt i' := rfl

/-! `updSto` -/
@[simp] theorem State.updSto_pending (s : State) (f : StoSt → StoSt) : (s.updSto f).pending = s.pending := rfl
@[simp] theorem State.updSto_now (s : State) (f : StoSt → StoSt) : (s.updSto f).now = s.now := rfl
@[simp] theorem State.updSto_regs (s : State) (f : StoSt → StoSt) : (s.updSto f).regs = s.regs := rfl
@[simp] theorem State.updSto_held (s : State) (f : StoSt → StoSt) : (s.updSto f).held = s.held := rfl
@[simp] theorem State.updSto_frozen (s : State) (f : StoSt → StoSt) : (s.updSto f).frozen = s.frozen := rfl
@[simp] theorem State.updSto_softRst (s : State) (f : StoSt → StoSt) : (s.updSto f).softRst = s.softRst := rfl
@[simp] theorem State.updSto_port (s : State) (f : StoSt → StoSt) : (s.updSto f).port = s.port := rfl
@[simp] theorem State.updSto_lath (s : State) (f : StoSt → StoSt) : (s.updSto f).lath = s.lath := rfl
@[simp] theorem State.updSto_uch (s : State) (f : StoSt → StoSt) : (s.updSto f).uch = s.uch := rfl
@[simp] theorem State.updSto_lv (s : State) (f : StoSt → StoSt) : (s.updSto f).lv = s.lv := rfl
@[simp] theorem State.updSto_l0 (s : State) (f : StoSt → StoSt) : (s.updSto f).l0 = s.l0 := rfl
@[simp] theorem State.updSto_stL (s : State) (f : StoSt → StoSt) : (s.updSto f).stL = s.stL := rfl
@[simp] theorem State.updSto_stS (s : State) (f : StoSt → StoSt) : (s.updSto f).stS = s.stS := rfl
@[simp] theorem State.updSto_hostLv (s : State) (f : StoSt → StoSt) : (s.updSto f).hostLv = s.hostLv := rfl
@[simp] theorem State.updSto_vis (s : State) (f : StoSt → StoSt) : (s.updSto f).vis = s.vis := rfl
@[simp] theorem State.updSto_img (s : State) (f : StoSt → StoSt) : (s.updSto f).img = s.img := rfl
@[simp] theorem State.updSto_lwork (s : State) (f : StoSt → StoSt) : (s.updSto f).lwork = s.lwork := rfl
@[simp] theorem State.updSto_swork (s : State) (f : StoSt → StoSt) : (s.updSto f).swork = s.swork := rfl
@[simp] theorem State.updSto_flt (s : State) (f : StoSt → StoSt) : (s.updSto f).flt = s.flt := rfl
@[simp] theorem State.updSto_cores (s : State) (f : StoSt → StoSt) : (s.updSto f).cores = s.cores := rfl
@[simp] theorem State.updSto_nst (s : State) (f : StoSt → StoSt) : (s.updSto f).nst = s.nst := rfl
@[simp] theorem State.updSto_dir (s : State) (f : StoSt → StoSt) : (s.updSto f).dir = s.dir := rfl
@[simp] theorem State.updSto_boot (s : State) (f : StoSt → StoSt) : (s.updSto f).boot = s.boot := rfl
@[simp] theorem State.updSto_eng (s : State) (f : StoSt → StoSt) : (s.updSto f).eng = s.eng := rfl
@[simp] theorem State.updSto_engL (s : State) (f : StoSt → StoSt) : (s.updSto f).engL = s.engL := rfl
@[simp] theorem State.updSto_engS (s : State) (f : StoSt → StoSt) : (s.updSto f).engS = s.engS := rfl
@[simp] theorem State.updSto_evL (s : State) (f : StoSt → StoSt) : (s.updSto f).evL = s.evL := rfl
@[simp] theorem State.updSto_evS (s : State) (f : StoSt → StoSt) : (s.updSto f).evS = s.evS := rfl
@[simp] theorem State.updSto_cap (s : State) (f : StoSt → StoSt) : (s.updSto f).cap = s.cap := rfl
@[simp] theorem State.updSto_rbus (s : State) (f : StoSt → StoSt) : (s.updSto f).rbus = s.rbus := rfl
@[simp] theorem State.updSto_pir (s : State) (f : StoSt → StoSt) : (s.updSto f).pir = s.pir := rfl
@[simp] theorem State.updSto_tab (s : State) (f : StoSt → StoSt) : (s.updSto f).tab = s.tab := rfl
@[simp] theorem State.updSto_hostZm (s : State) (f : StoSt → StoSt) : (s.updSto f).hostZm = s.hostZm := rfl
@[simp] theorem State.updSto_stZ (s : State) (f : StoSt → StoSt) : (s.updSto f).stZ = s.stZ := rfl
@[simp] theorem State.updSto_loopPar (s : State) (f : StoSt → StoSt) : (s.updSto f).loopPar = s.loopPar := rfl
@[simp] theorem State.updSto_loopsL (s : State) (f : StoSt → StoSt) : (s.updSto f).loopsL = s.loopsL := rfl
@[simp] theorem State.updSto_loopsS (s : State) (f : StoSt → StoSt) : (s.updSto f).loopsS = s.loopsS := rfl
@[simp] theorem State.updSto_tmeCmd (s : State) (f : StoSt → StoSt) : (s.updSto f).tmeCmd = s.tmeCmd := rfl
@[simp] theorem State.updSto_net (s : State) (f : StoSt → StoSt) : (s.updSto f).net = s.net := rfl
@[simp] theorem State.updSto_fanIo (s : State) (f : StoSt → StoSt) : (s.updSto f).fanIo = s.fanIo := rfl
@[simp] theorem State.updSto_key (s : State) (f : StoSt → StoSt) : (s.updSto f).key = s.key := rfl
@[simp] theorem State.updSto_epd (s : State) (f : StoSt → StoSt) : (s.updSto f).epd = s.epd := rfl
@[simp] theorem State.updSto_pwr (s : State) (f : StoSt → StoSt) : (s.updSto f).pwr = s.pwr := rfl
@[simp] theorem State.updSto_clk (s : State) (f : StoSt → StoSt) : (s.updSto f).clk = s.clk := rfl
@[simp] theorem State.updSto_uid (s : State) (f : StoSt → StoSt) : (s.updSto f).uid = s.uid := rfl
@[simp] theorem State.updSto_lev (s : State) (f : StoSt → StoSt) : (s.updSto f).lev = s.lev := rfl
@[simp] theorem State.updSto_fab (s : State) (f : StoSt → StoSt) : (s.updSto f).fab = s.fab := rfl
@[simp] theorem State.updSto_dlv (s : State) (f : StoSt → StoSt) : (s.updSto f).dlv = s.dlv := rfl
@[simp] theorem State.updSto_fresh (s : State) (f : StoSt → StoSt) : (s.updSto f).fresh = s.fresh := rfl
@[simp] theorem State.updSto_word (s : State) (f : StoSt → StoSt) (i' : Nat) : (s.updSto f).word i' = s.word i' := rfl
@[simp] theorem State.updSto_get (s : State) (f : StoSt → StoSt) (i' : Field) : (s.updSto f).get i' = s.get i' := rfl
@[simp] theorem State.updSto_bit (s : State) (f : StoSt → StoSt) (i' : Field) : (s.updSto f).bit i' = s.bit i' := rfl
@[simp] theorem State.updSto_geti (s : State) (f : StoSt → StoSt) (i' : Field) : (s.updSto f).geti i' = s.geti i' := rfl
@[simp] theorem State.updSto_inForce (s : State) (f : StoSt → StoSt) (i' : Nat) : (s.updSto f).inForce i' = s.inForce i' := rfl
@[simp] theorem State.updSto_eget (s : State) (f : StoSt → StoSt) (i' : Field) : (s.updSto f).eget i' = s.eget i' := rfl
@[simp] theorem State.updSto_ebit (s : State) (f : StoSt → StoSt) (i' : Field) : (s.updSto f).ebit i' = s.ebit i' := rfl
@[simp] theorem State.updSto_egeti (s : State) (f : StoSt → StoSt) (i' : Field) : (s.updSto f).egeti i' = s.egeti i' := rfl
@[simp] theorem State.updSto_chan (s : State) (f : StoSt → StoSt) (i' : Nat) : (s.updSto f).chan i' = s.chan i' := rfl
@[simp] theorem State.updSto_level (s : State) (f : StoSt → StoSt) (i' : Nat) (j' : Nat) : (s.updSto f).level i' j' = s.level i' j' := rfl
@[simp] theorem State.updSto_visVal (s : State) (f : StoSt → StoSt) (i' : Nat) : (s.updSto f).visVal i' = s.visVal i' := rfl
@[simp] theorem State.updSto_core (s : State) (f : StoSt → StoSt) (i' : Nat) : (s.updSto f).core i' = s.core i' := rfl
@[simp] theorem State.updSto_en (s : State) (f : StoSt → StoSt) (i' : Nat) : (s.updSto f).en i' = s.en i' := rfl
@[simp] theorem State.updSto_enAck (s : State) (f : StoSt → StoSt) (i' : Nat) : (s.updSto f).enAck i' = s.enAck i' := rfl
@[simp] theorem State.updSto_coreOff (s : State) (f : StoSt → StoSt) : (s.updSto f).coreOff = s.coreOff := rfl
@[simp] theorem State.updSto_lathPeriod (s : State) (f : StoSt → StoSt) : (s.updSto f).lathPeriod = s.lathPeriod := rfl
@[simp] theorem State.updSto_fanSt (s : State) (f : StoSt → StoSt) (i' : Nat) : (s.updSto f).fanSt i' = s.fanSt i' := rfl
@[simp] theorem State.updSto_tmeSt (s : State) (f : StoSt → StoSt) (i' : Nat) : (s.updSto f).tmeSt i' = s.tmeSt i' := rfl
@[simp] theorem State.updSto_loopSt (s : State) (f : StoSt → StoSt) (i' : Nat) : (s.updSto f).loopSt i' = s.loopSt i' := rfl

/-! `updKey` -/
@[simp] theorem State.updKey_pending (s : State) (f : KeySt → KeySt) : (s.updKey f).pending = s.pending := rfl
@[simp] theorem State.updKey_now (s : State) (f : KeySt → KeySt) : (s.updKey f).now = s.now := rfl
@[simp] theorem State.updKey_regs (s : State) (f : KeySt → KeySt) : (s.updKey f).regs = s.regs := rfl
@[simp] theorem State.updKey_held (s : State) (f : KeySt → KeySt) : (s.updKey f).held = s.held := rfl
@[simp] theorem State.updKey_frozen (s : State) (f : KeySt → KeySt) : (s.updKey f).frozen = s.frozen := rfl
@[simp] theorem State.updKey_softRst (s : State) (f : KeySt → KeySt) : (s.updKey f).softRst = s.softRst := rfl
@[simp] theorem State.updKey_port (s : State) (f : KeySt → KeySt) : (s.updKey f).port = s.port := rfl
@[simp] theorem State.updKey_lath (s : State) (f : KeySt → KeySt) : (s.updKey f).lath = s.lath := rfl
@[simp] theorem State.updKey_uch (s : State) (f : KeySt → KeySt) : (s.updKey f).uch = s.uch := rfl
@[simp] theorem State.updKey_lv (s : State) (f : KeySt → KeySt) : (s.updKey f).lv = s.lv := rfl
@[simp] theorem State.updKey_l0 (s : State) (f : KeySt → KeySt) : (s.updKey f).l0 = s.l0 := rfl
@[simp] theorem State.updKey_stL (s : State) (f : KeySt → KeySt) : (s.updKey f).stL = s.stL := rfl
@[simp] theorem State.updKey_stS (s : State) (f : KeySt → KeySt) : (s.updKey f).stS = s.stS := rfl
@[simp] theorem State.updKey_hostLv (s : State) (f : KeySt → KeySt) : (s.updKey f).hostLv = s.hostLv := rfl
@[simp] theorem State.updKey_vis (s : State) (f : KeySt → KeySt) : (s.updKey f).vis = s.vis := rfl
@[simp] theorem State.updKey_img (s : State) (f : KeySt → KeySt) : (s.updKey f).img = s.img := rfl
@[simp] theorem State.updKey_lwork (s : State) (f : KeySt → KeySt) : (s.updKey f).lwork = s.lwork := rfl
@[simp] theorem State.updKey_swork (s : State) (f : KeySt → KeySt) : (s.updKey f).swork = s.swork := rfl
@[simp] theorem State.updKey_flt (s : State) (f : KeySt → KeySt) : (s.updKey f).flt = s.flt := rfl
@[simp] theorem State.updKey_cores (s : State) (f : KeySt → KeySt) : (s.updKey f).cores = s.cores := rfl
@[simp] theorem State.updKey_nst (s : State) (f : KeySt → KeySt) : (s.updKey f).nst = s.nst := rfl
@[simp] theorem State.updKey_dir (s : State) (f : KeySt → KeySt) : (s.updKey f).dir = s.dir := rfl
@[simp] theorem State.updKey_boot (s : State) (f : KeySt → KeySt) : (s.updKey f).boot = s.boot := rfl
@[simp] theorem State.updKey_sto (s : State) (f : KeySt → KeySt) : (s.updKey f).sto = s.sto := rfl
@[simp] theorem State.updKey_eng (s : State) (f : KeySt → KeySt) : (s.updKey f).eng = s.eng := rfl
@[simp] theorem State.updKey_engL (s : State) (f : KeySt → KeySt) : (s.updKey f).engL = s.engL := rfl
@[simp] theorem State.updKey_engS (s : State) (f : KeySt → KeySt) : (s.updKey f).engS = s.engS := rfl
@[simp] theorem State.updKey_evL (s : State) (f : KeySt → KeySt) : (s.updKey f).evL = s.evL := rfl
@[simp] theorem State.updKey_evS (s : State) (f : KeySt → KeySt) : (s.updKey f).evS = s.evS := rfl
@[simp] theorem State.updKey_cap (s : State) (f : KeySt → KeySt) : (s.updKey f).cap = s.cap := rfl
@[simp] theorem State.updKey_rbus (s : State) (f : KeySt → KeySt) : (s.updKey f).rbus = s.rbus := rfl
@[simp] theorem State.updKey_pir (s : State) (f : KeySt → KeySt) : (s.updKey f).pir = s.pir := rfl
@[simp] theorem State.updKey_tab (s : State) (f : KeySt → KeySt) : (s.updKey f).tab = s.tab := rfl
@[simp] theorem State.updKey_hostZm (s : State) (f : KeySt → KeySt) : (s.updKey f).hostZm = s.hostZm := rfl
@[simp] theorem State.updKey_stZ (s : State) (f : KeySt → KeySt) : (s.updKey f).stZ = s.stZ := rfl
@[simp] theorem State.updKey_loopPar (s : State) (f : KeySt → KeySt) : (s.updKey f).loopPar = s.loopPar := rfl
@[simp] theorem State.updKey_loopsL (s : State) (f : KeySt → KeySt) : (s.updKey f).loopsL = s.loopsL := rfl
@[simp] theorem State.updKey_loopsS (s : State) (f : KeySt → KeySt) : (s.updKey f).loopsS = s.loopsS := rfl
@[simp] theorem State.updKey_tmeCmd (s : State) (f : KeySt → KeySt) : (s.updKey f).tmeCmd = s.tmeCmd := rfl
@[simp] theorem State.updKey_net (s : State) (f : KeySt → KeySt) : (s.updKey f).net = s.net := rfl
@[simp] theorem State.updKey_fanIo (s : State) (f : KeySt → KeySt) : (s.updKey f).fanIo = s.fanIo := rfl
@[simp] theorem State.updKey_epd (s : State) (f : KeySt → KeySt) : (s.updKey f).epd = s.epd := rfl
@[simp] theorem State.updKey_pwr (s : State) (f : KeySt → KeySt) : (s.updKey f).pwr = s.pwr := rfl
@[simp] theorem State.updKey_clk (s : State) (f : KeySt → KeySt) : (s.updKey f).clk = s.clk := rfl
@[simp] theorem State.updKey_uid (s : State) (f : KeySt → KeySt) : (s.updKey f).uid = s.uid := rfl
@[simp] theorem State.updKey_lev (s : State) (f : KeySt → KeySt) : (s.updKey f).lev = s.lev := rfl
@[simp] theorem State.updKey_fab (s : State) (f : KeySt → KeySt) : (s.updKey f).fab = s.fab := rfl
@[simp] theorem State.updKey_dlv (s : State) (f : KeySt → KeySt) : (s.updKey f).dlv = s.dlv := rfl
@[simp] theorem State.updKey_fresh (s : State) (f : KeySt → KeySt) : (s.updKey f).fresh = s.fresh := rfl
@[simp] theorem State.updKey_word (s : State) (f : KeySt → KeySt) (i' : Nat) : (s.updKey f).word i' = s.word i' := rfl
@[simp] theorem State.updKey_get (s : State) (f : KeySt → KeySt) (i' : Field) : (s.updKey f).get i' = s.get i' := rfl
@[simp] theorem State.updKey_bit (s : State) (f : KeySt → KeySt) (i' : Field) : (s.updKey f).bit i' = s.bit i' := rfl
@[simp] theorem State.updKey_geti (s : State) (f : KeySt → KeySt) (i' : Field) : (s.updKey f).geti i' = s.geti i' := rfl
@[simp] theorem State.updKey_inForce (s : State) (f : KeySt → KeySt) (i' : Nat) : (s.updKey f).inForce i' = s.inForce i' := rfl
@[simp] theorem State.updKey_eget (s : State) (f : KeySt → KeySt) (i' : Field) : (s.updKey f).eget i' = s.eget i' := rfl
@[simp] theorem State.updKey_ebit (s : State) (f : KeySt → KeySt) (i' : Field) : (s.updKey f).ebit i' = s.ebit i' := rfl
@[simp] theorem State.updKey_egeti (s : State) (f : KeySt → KeySt) (i' : Field) : (s.updKey f).egeti i' = s.egeti i' := rfl
@[simp] theorem State.updKey_chan (s : State) (f : KeySt → KeySt) (i' : Nat) : (s.updKey f).chan i' = s.chan i' := rfl
@[simp] theorem State.updKey_level (s : State) (f : KeySt → KeySt) (i' : Nat) (j' : Nat) : (s.updKey f).level i' j' = s.level i' j' := rfl
@[simp] theorem State.updKey_visVal (s : State) (f : KeySt → KeySt) (i' : Nat) : (s.updKey f).visVal i' = s.visVal i' := rfl
@[simp] theorem State.updKey_core (s : State) (f : KeySt → KeySt) (i' : Nat) : (s.updKey f).core i' = s.core i' := rfl
@[simp] theorem State.updKey_en (s : State) (f : KeySt → KeySt) (i' : Nat) : (s.updKey f).en i' = s.en i' := rfl
@[simp] theorem State.updKey_enAck (s : State) (f : KeySt → KeySt) (i' : Nat) : (s.updKey f).enAck i' = s.enAck i' := rfl
@[simp] theorem State.updKey_coreOff (s : State) (f : KeySt → KeySt) : (s.updKey f).coreOff = s.coreOff := rfl
@[simp] theorem State.updKey_authRequired (s : State) (f : KeySt → KeySt) : (s.updKey f).authRequired = s.authRequired := rfl
@[simp] theorem State.updKey_lathPeriod (s : State) (f : KeySt → KeySt) : (s.updKey f).lathPeriod = s.lathPeriod := rfl
@[simp] theorem State.updKey_peatEnt (s : State) (f : KeySt → KeySt) (i' : Nat) : (s.updKey f).peatEnt i' = s.peatEnt i' := rfl
@[simp] theorem State.updKey_fanSt (s : State) (f : KeySt → KeySt) (i' : Nat) : (s.updKey f).fanSt i' = s.fanSt i' := rfl
@[simp] theorem State.updKey_tmeSt (s : State) (f : KeySt → KeySt) (i' : Nat) : (s.updKey f).tmeSt i' = s.tmeSt i' := rfl
@[simp] theorem State.updKey_loopSt (s : State) (f : KeySt → KeySt) (i' : Nat) : (s.updKey f).loopSt i' = s.loopSt i' := rfl

/-! `updLev` -/
@[simp] theorem State.updLev_pending (s : State) (f : LevSt → LevSt) : (s.updLev f).pending = s.pending := rfl
@[simp] theorem State.updLev_now (s : State) (f : LevSt → LevSt) : (s.updLev f).now = s.now := rfl
@[simp] theorem State.updLev_regs (s : State) (f : LevSt → LevSt) : (s.updLev f).regs = s.regs := rfl
@[simp] theorem State.updLev_held (s : State) (f : LevSt → LevSt) : (s.updLev f).held = s.held := rfl
@[simp] theorem State.updLev_frozen (s : State) (f : LevSt → LevSt) : (s.updLev f).frozen = s.frozen := rfl
@[simp] theorem State.updLev_softRst (s : State) (f : LevSt → LevSt) : (s.updLev f).softRst = s.softRst := rfl
@[simp] theorem State.updLev_port (s : State) (f : LevSt → LevSt) : (s.updLev f).port = s.port := rfl
@[simp] theorem State.updLev_lath (s : State) (f : LevSt → LevSt) : (s.updLev f).lath = s.lath := rfl
@[simp] theorem State.updLev_uch (s : State) (f : LevSt → LevSt) : (s.updLev f).uch = s.uch := rfl
@[simp] theorem State.updLev_lv (s : State) (f : LevSt → LevSt) : (s.updLev f).lv = s.lv := rfl
@[simp] theorem State.updLev_l0 (s : State) (f : LevSt → LevSt) : (s.updLev f).l0 = s.l0 := rfl
@[simp] theorem State.updLev_stL (s : State) (f : LevSt → LevSt) : (s.updLev f).stL = s.stL := rfl
@[simp] theorem State.updLev_stS (s : State) (f : LevSt → LevSt) : (s.updLev f).stS = s.stS := rfl
@[simp] theorem State.updLev_hostLv (s : State) (f : LevSt → LevSt) : (s.updLev f).hostLv = s.hostLv := rfl
@[simp] theorem State.updLev_vis (s : State) (f : LevSt → LevSt) : (s.updLev f).vis = s.vis := rfl
@[simp] theorem State.updLev_img (s : State) (f : LevSt → LevSt) : (s.updLev f).img = s.img := rfl
@[simp] theorem State.updLev_lwork (s : State) (f : LevSt → LevSt) : (s.updLev f).lwork = s.lwork := rfl
@[simp] theorem State.updLev_swork (s : State) (f : LevSt → LevSt) : (s.updLev f).swork = s.swork := rfl
@[simp] theorem State.updLev_flt (s : State) (f : LevSt → LevSt) : (s.updLev f).flt = s.flt := rfl
@[simp] theorem State.updLev_cores (s : State) (f : LevSt → LevSt) : (s.updLev f).cores = s.cores := rfl
@[simp] theorem State.updLev_nst (s : State) (f : LevSt → LevSt) : (s.updLev f).nst = s.nst := rfl
@[simp] theorem State.updLev_dir (s : State) (f : LevSt → LevSt) : (s.updLev f).dir = s.dir := rfl
@[simp] theorem State.updLev_boot (s : State) (f : LevSt → LevSt) : (s.updLev f).boot = s.boot := rfl
@[simp] theorem State.updLev_sto (s : State) (f : LevSt → LevSt) : (s.updLev f).sto = s.sto := rfl
@[simp] theorem State.updLev_eng (s : State) (f : LevSt → LevSt) : (s.updLev f).eng = s.eng := rfl
@[simp] theorem State.updLev_engL (s : State) (f : LevSt → LevSt) : (s.updLev f).engL = s.engL := rfl
@[simp] theorem State.updLev_engS (s : State) (f : LevSt → LevSt) : (s.updLev f).engS = s.engS := rfl
@[simp] theorem State.updLev_evL (s : State) (f : LevSt → LevSt) : (s.updLev f).evL = s.evL := rfl
@[simp] theorem State.updLev_evS (s : State) (f : LevSt → LevSt) : (s.updLev f).evS = s.evS := rfl
@[simp] theorem State.updLev_cap (s : State) (f : LevSt → LevSt) : (s.updLev f).cap = s.cap := rfl
@[simp] theorem State.updLev_rbus (s : State) (f : LevSt → LevSt) : (s.updLev f).rbus = s.rbus := rfl
@[simp] theorem State.updLev_pir (s : State) (f : LevSt → LevSt) : (s.updLev f).pir = s.pir := rfl
@[simp] theorem State.updLev_tab (s : State) (f : LevSt → LevSt) : (s.updLev f).tab = s.tab := rfl
@[simp] theorem State.updLev_hostZm (s : State) (f : LevSt → LevSt) : (s.updLev f).hostZm = s.hostZm := rfl
@[simp] theorem State.updLev_stZ (s : State) (f : LevSt → LevSt) : (s.updLev f).stZ = s.stZ := rfl
@[simp] theorem State.updLev_loopPar (s : State) (f : LevSt → LevSt) : (s.updLev f).loopPar = s.loopPar := rfl
@[simp] theorem State.updLev_loopsL (s : State) (f : LevSt → LevSt) : (s.updLev f).loopsL = s.loopsL := rfl
@[simp] theorem State.updLev_loopsS (s : State) (f : LevSt → LevSt) : (s.updLev f).loopsS = s.loopsS := rfl
@[simp] theorem State.updLev_tmeCmd (s : State) (f : LevSt → LevSt) : (s.updLev f).tmeCmd = s.tmeCmd := rfl
@[simp] theorem State.updLev_net (s : State) (f : LevSt → LevSt) : (s.updLev f).net = s.net := rfl
@[simp] theorem State.updLev_fanIo (s : State) (f : LevSt → LevSt) : (s.updLev f).fanIo = s.fanIo := rfl
@[simp] theorem State.updLev_key (s : State) (f : LevSt → LevSt) : (s.updLev f).key = s.key := rfl
@[simp] theorem State.updLev_epd (s : State) (f : LevSt → LevSt) : (s.updLev f).epd = s.epd := rfl
@[simp] theorem State.updLev_pwr (s : State) (f : LevSt → LevSt) : (s.updLev f).pwr = s.pwr := rfl
@[simp] theorem State.updLev_clk (s : State) (f : LevSt → LevSt) : (s.updLev f).clk = s.clk := rfl
@[simp] theorem State.updLev_uid (s : State) (f : LevSt → LevSt) : (s.updLev f).uid = s.uid := rfl
@[simp] theorem State.updLev_fab (s : State) (f : LevSt → LevSt) : (s.updLev f).fab = s.fab := rfl
@[simp] theorem State.updLev_dlv (s : State) (f : LevSt → LevSt) : (s.updLev f).dlv = s.dlv := rfl
@[simp] theorem State.updLev_fresh (s : State) (f : LevSt → LevSt) : (s.updLev f).fresh = s.fresh := rfl
@[simp] theorem State.updLev_word (s : State) (f : LevSt → LevSt) (i' : Nat) : (s.updLev f).word i' = s.word i' := rfl
@[simp] theorem State.updLev_get (s : State) (f : LevSt → LevSt) (i' : Field) : (s.updLev f).get i' = s.get i' := rfl
@[simp] theorem State.updLev_bit (s : State) (f : LevSt → LevSt) (i' : Field) : (s.updLev f).bit i' = s.bit i' := rfl
@[simp] theorem State.updLev_geti (s : State) (f : LevSt → LevSt) (i' : Field) : (s.updLev f).geti i' = s.geti i' := rfl
@[simp] theorem State.updLev_inForce (s : State) (f : LevSt → LevSt) (i' : Nat) : (s.updLev f).inForce i' = s.inForce i' := rfl
@[simp] theorem State.updLev_eget (s : State) (f : LevSt → LevSt) (i' : Field) : (s.updLev f).eget i' = s.eget i' := rfl
@[simp] theorem State.updLev_ebit (s : State) (f : LevSt → LevSt) (i' : Field) : (s.updLev f).ebit i' = s.ebit i' := rfl
@[simp] theorem State.updLev_egeti (s : State) (f : LevSt → LevSt) (i' : Field) : (s.updLev f).egeti i' = s.egeti i' := rfl
@[simp] theorem State.updLev_chan (s : State) (f : LevSt → LevSt) (i' : Nat) : (s.updLev f).chan i' = s.chan i' := rfl
@[simp] theorem State.updLev_level (s : State) (f : LevSt → LevSt) (i' : Nat) (j' : Nat) : (s.updLev f).level i' j' = s.level i' j' := rfl
@[simp] theorem State.updLev_visVal (s : State) (f : LevSt → LevSt) (i' : Nat) : (s.updLev f).visVal i' = s.visVal i' := rfl
@[simp] theorem State.updLev_core (s : State) (f : LevSt → LevSt) (i' : Nat) : (s.updLev f).core i' = s.core i' := rfl
@[simp] theorem State.updLev_en (s : State) (f : LevSt → LevSt) (i' : Nat) : (s.updLev f).en i' = s.en i' := rfl
@[simp] theorem State.updLev_enAck (s : State) (f : LevSt → LevSt) (i' : Nat) : (s.updLev f).enAck i' = s.enAck i' := rfl
@[simp] theorem State.updLev_coreOff (s : State) (f : LevSt → LevSt) : (s.updLev f).coreOff = s.coreOff := rfl
@[simp] theorem State.updLev_lathPeriod (s : State) (f : LevSt → LevSt) : (s.updLev f).lathPeriod = s.lathPeriod := rfl
@[simp] theorem State.updLev_peatEnt (s : State) (f : LevSt → LevSt) (i' : Nat) : (s.updLev f).peatEnt i' = s.peatEnt i' := rfl
@[simp] theorem State.updLev_fanSt (s : State) (f : LevSt → LevSt) (i' : Nat) : (s.updLev f).fanSt i' = s.fanSt i' := rfl
@[simp] theorem State.updLev_tmeSt (s : State) (f : LevSt → LevSt) (i' : Nat) : (s.updLev f).tmeSt i' = s.tmeSt i' := rfl
@[simp] theorem State.updLev_loopSt (s : State) (f : LevSt → LevSt) (i' : Nat) : (s.updLev f).loopSt i' = s.loopSt i' := rfl

/-! `updFab` -/
@[simp] theorem State.updFab_pending (s : State) (f : FabSt → FabSt) : (s.updFab f).pending = s.pending := rfl
@[simp] theorem State.updFab_now (s : State) (f : FabSt → FabSt) : (s.updFab f).now = s.now := rfl
@[simp] theorem State.updFab_regs (s : State) (f : FabSt → FabSt) : (s.updFab f).regs = s.regs := rfl
@[simp] theorem State.updFab_held (s : State) (f : FabSt → FabSt) : (s.updFab f).held = s.held := rfl
@[simp] theorem State.updFab_frozen (s : State) (f : FabSt → FabSt) : (s.updFab f).frozen = s.frozen := rfl
@[simp] theorem State.updFab_softRst (s : State) (f : FabSt → FabSt) : (s.updFab f).softRst = s.softRst := rfl
@[simp] theorem State.updFab_port (s : State) (f : FabSt → FabSt) : (s.updFab f).port = s.port := rfl
@[simp] theorem State.updFab_lath (s : State) (f : FabSt → FabSt) : (s.updFab f).lath = s.lath := rfl
@[simp] theorem State.updFab_uch (s : State) (f : FabSt → FabSt) : (s.updFab f).uch = s.uch := rfl
@[simp] theorem State.updFab_lv (s : State) (f : FabSt → FabSt) : (s.updFab f).lv = s.lv := rfl
@[simp] theorem State.updFab_l0 (s : State) (f : FabSt → FabSt) : (s.updFab f).l0 = s.l0 := rfl
@[simp] theorem State.updFab_stL (s : State) (f : FabSt → FabSt) : (s.updFab f).stL = s.stL := rfl
@[simp] theorem State.updFab_stS (s : State) (f : FabSt → FabSt) : (s.updFab f).stS = s.stS := rfl
@[simp] theorem State.updFab_hostLv (s : State) (f : FabSt → FabSt) : (s.updFab f).hostLv = s.hostLv := rfl
@[simp] theorem State.updFab_vis (s : State) (f : FabSt → FabSt) : (s.updFab f).vis = s.vis := rfl
@[simp] theorem State.updFab_img (s : State) (f : FabSt → FabSt) : (s.updFab f).img = s.img := rfl
@[simp] theorem State.updFab_lwork (s : State) (f : FabSt → FabSt) : (s.updFab f).lwork = s.lwork := rfl
@[simp] theorem State.updFab_swork (s : State) (f : FabSt → FabSt) : (s.updFab f).swork = s.swork := rfl
@[simp] theorem State.updFab_flt (s : State) (f : FabSt → FabSt) : (s.updFab f).flt = s.flt := rfl
@[simp] theorem State.updFab_cores (s : State) (f : FabSt → FabSt) : (s.updFab f).cores = s.cores := rfl
@[simp] theorem State.updFab_nst (s : State) (f : FabSt → FabSt) : (s.updFab f).nst = s.nst := rfl
@[simp] theorem State.updFab_dir (s : State) (f : FabSt → FabSt) : (s.updFab f).dir = s.dir := rfl
@[simp] theorem State.updFab_boot (s : State) (f : FabSt → FabSt) : (s.updFab f).boot = s.boot := rfl
@[simp] theorem State.updFab_sto (s : State) (f : FabSt → FabSt) : (s.updFab f).sto = s.sto := rfl
@[simp] theorem State.updFab_eng (s : State) (f : FabSt → FabSt) : (s.updFab f).eng = s.eng := rfl
@[simp] theorem State.updFab_engL (s : State) (f : FabSt → FabSt) : (s.updFab f).engL = s.engL := rfl
@[simp] theorem State.updFab_engS (s : State) (f : FabSt → FabSt) : (s.updFab f).engS = s.engS := rfl
@[simp] theorem State.updFab_evL (s : State) (f : FabSt → FabSt) : (s.updFab f).evL = s.evL := rfl
@[simp] theorem State.updFab_evS (s : State) (f : FabSt → FabSt) : (s.updFab f).evS = s.evS := rfl
@[simp] theorem State.updFab_cap (s : State) (f : FabSt → FabSt) : (s.updFab f).cap = s.cap := rfl
@[simp] theorem State.updFab_rbus (s : State) (f : FabSt → FabSt) : (s.updFab f).rbus = s.rbus := rfl
@[simp] theorem State.updFab_pir (s : State) (f : FabSt → FabSt) : (s.updFab f).pir = s.pir := rfl
@[simp] theorem State.updFab_tab (s : State) (f : FabSt → FabSt) : (s.updFab f).tab = s.tab := rfl
@[simp] theorem State.updFab_hostZm (s : State) (f : FabSt → FabSt) : (s.updFab f).hostZm = s.hostZm := rfl
@[simp] theorem State.updFab_stZ (s : State) (f : FabSt → FabSt) : (s.updFab f).stZ = s.stZ := rfl
@[simp] theorem State.updFab_loopPar (s : State) (f : FabSt → FabSt) : (s.updFab f).loopPar = s.loopPar := rfl
@[simp] theorem State.updFab_loopsL (s : State) (f : FabSt → FabSt) : (s.updFab f).loopsL = s.loopsL := rfl
@[simp] theorem State.updFab_loopsS (s : State) (f : FabSt → FabSt) : (s.updFab f).loopsS = s.loopsS := rfl
@[simp] theorem State.updFab_tmeCmd (s : State) (f : FabSt → FabSt) : (s.updFab f).tmeCmd = s.tmeCmd := rfl
@[simp] theorem State.updFab_net (s : State) (f : FabSt → FabSt) : (s.updFab f).net = s.net := rfl
@[simp] theorem State.updFab_fanIo (s : State) (f : FabSt → FabSt) : (s.updFab f).fanIo = s.fanIo := rfl
@[simp] theorem State.updFab_key (s : State) (f : FabSt → FabSt) : (s.updFab f).key = s.key := rfl
@[simp] theorem State.updFab_epd (s : State) (f : FabSt → FabSt) : (s.updFab f).epd = s.epd := rfl
@[simp] theorem State.updFab_pwr (s : State) (f : FabSt → FabSt) : (s.updFab f).pwr = s.pwr := rfl
@[simp] theorem State.updFab_clk (s : State) (f : FabSt → FabSt) : (s.updFab f).clk = s.clk := rfl
@[simp] theorem State.updFab_uid (s : State) (f : FabSt → FabSt) : (s.updFab f).uid = s.uid := rfl
@[simp] theorem State.updFab_lev (s : State) (f : FabSt → FabSt) : (s.updFab f).lev = s.lev := rfl
@[simp] theorem State.updFab_dlv (s : State) (f : FabSt → FabSt) : (s.updFab f).dlv = s.dlv := rfl
@[simp] theorem State.updFab_fresh (s : State) (f : FabSt → FabSt) : (s.updFab f).fresh = s.fresh := rfl
@[simp] theorem State.updFab_word (s : State) (f : FabSt → FabSt) (i' : Nat) : (s.updFab f).word i' = s.word i' := rfl
@[simp] theorem State.updFab_get (s : State) (f : FabSt → FabSt) (i' : Field) : (s.updFab f).get i' = s.get i' := rfl
@[simp] theorem State.updFab_bit (s : State) (f : FabSt → FabSt) (i' : Field) : (s.updFab f).bit i' = s.bit i' := rfl
@[simp] theorem State.updFab_geti (s : State) (f : FabSt → FabSt) (i' : Field) : (s.updFab f).geti i' = s.geti i' := rfl
@[simp] theorem State.updFab_inForce (s : State) (f : FabSt → FabSt) (i' : Nat) : (s.updFab f).inForce i' = s.inForce i' := rfl
@[simp] theorem State.updFab_eget (s : State) (f : FabSt → FabSt) (i' : Field) : (s.updFab f).eget i' = s.eget i' := rfl
@[simp] theorem State.updFab_ebit (s : State) (f : FabSt → FabSt) (i' : Field) : (s.updFab f).ebit i' = s.ebit i' := rfl
@[simp] theorem State.updFab_egeti (s : State) (f : FabSt → FabSt) (i' : Field) : (s.updFab f).egeti i' = s.egeti i' := rfl
@[simp] theorem State.updFab_chan (s : State) (f : FabSt → FabSt) (i' : Nat) : (s.updFab f).chan i' = s.chan i' := rfl
@[simp] theorem State.updFab_level (s : State) (f : FabSt → FabSt) (i' : Nat) (j' : Nat) : (s.updFab f).level i' j' = s.level i' j' := rfl
@[simp] theorem State.updFab_visVal (s : State) (f : FabSt → FabSt) (i' : Nat) : (s.updFab f).visVal i' = s.visVal i' := rfl
@[simp] theorem State.updFab_core (s : State) (f : FabSt → FabSt) (i' : Nat) : (s.updFab f).core i' = s.core i' := rfl
@[simp] theorem State.updFab_en (s : State) (f : FabSt → FabSt) (i' : Nat) : (s.updFab f).en i' = s.en i' := rfl
@[simp] theorem State.updFab_enAck (s : State) (f : FabSt → FabSt) (i' : Nat) : (s.updFab f).enAck i' = s.enAck i' := rfl
@[simp] theorem State.updFab_coreOff (s : State) (f : FabSt → FabSt) : (s.updFab f).coreOff = s.coreOff := rfl
@[simp] theorem State.updFab_authRequired (s : State) (f : FabSt → FabSt) : (s.updFab f).authRequired = s.authRequired := rfl
@[simp] theorem State.updFab_lathPeriod (s : State) (f : FabSt → FabSt) : (s.updFab f).lathPeriod = s.lathPeriod := rfl
@[simp] theorem State.updFab_peatEnt (s : State) (f : FabSt → FabSt) (i' : Nat) : (s.updFab f).peatEnt i' = s.peatEnt i' := rfl
@[simp] theorem State.updFab_fanSt (s : State) (f : FabSt → FabSt) (i' : Nat) : (s.updFab f).fanSt i' = s.fanSt i' := rfl
@[simp] theorem State.updFab_tmeSt (s : State) (f : FabSt → FabSt) (i' : Nat) : (s.updFab f).tmeSt i' = s.tmeSt i' := rfl
@[simp] theorem State.updFab_loopSt (s : State) (f : FabSt → FabSt) (i' : Nat) : (s.updFab f).loopSt i' = s.loopSt i' := rfl

/-! `setCore` -/
@[simp] theorem State.setCore_pending (s : State) (c : Nat) (k : Core) : (s.setCore c k).pending = s.pending := rfl
@[simp] theorem State.setCore_now (s : State) (c : Nat) (k : Core) : (s.setCore c k).now = s.now := rfl
@[simp] theorem State.setCore_regs (s : State) (c : Nat) (k : Core) : (s.setCore c k).regs = s.regs := rfl
@[simp] theorem State.setCore_held (s : State) (c : Nat) (k : Core) : (s.setCore c k).held = s.held := rfl
@[simp] theorem State.setCore_frozen (s : State) (c : Nat) (k : Core) : (s.setCore c k).frozen = s.frozen := rfl
@[simp] theorem State.setCore_softRst (s : State) (c : Nat) (k : Core) : (s.setCore c k).softRst = s.softRst := rfl
@[simp] theorem State.setCore_port (s : State) (c : Nat) (k : Core) : (s.setCore c k).port = s.port := rfl
@[simp] theorem State.setCore_lath (s : State) (c : Nat) (k : Core) : (s.setCore c k).lath = s.lath := rfl
@[simp] theorem State.setCore_uch (s : State) (c : Nat) (k : Core) : (s.setCore c k).uch = s.uch := rfl
@[simp] theorem State.setCore_lv (s : State) (c : Nat) (k : Core) : (s.setCore c k).lv = s.lv := rfl
@[simp] theorem State.setCore_l0 (s : State) (c : Nat) (k : Core) : (s.setCore c k).l0 = s.l0 := rfl
@[simp] theorem State.setCore_stL (s : State) (c : Nat) (k : Core) : (s.setCore c k).stL = s.stL := rfl
@[simp] theorem State.setCore_stS (s : State) (c : Nat) (k : Core) : (s.setCore c k).stS = s.stS := rfl
@[simp] theorem State.setCore_hostLv (s : State) (c : Nat) (k : Core) : (s.setCore c k).hostLv = s.hostLv := rfl
@[simp] theorem State.setCore_vis (s : State) (c : Nat) (k : Core) : (s.setCore c k).vis = s.vis := rfl
@[simp] theorem State.setCore_img (s : State) (c : Nat) (k : Core) : (s.setCore c k).img = s.img := rfl
@[simp] theorem State.setCore_lwork (s : State) (c : Nat) (k : Core) : (s.setCore c k).lwork = s.lwork := rfl
@[simp] theorem State.setCore_swork (s : State) (c : Nat) (k : Core) : (s.setCore c k).swork = s.swork := rfl
@[simp] theorem State.setCore_flt (s : State) (c : Nat) (k : Core) : (s.setCore c k).flt = s.flt := rfl
@[simp] theorem State.setCore_nst (s : State) (c : Nat) (k : Core) : (s.setCore c k).nst = s.nst := rfl
@[simp] theorem State.setCore_dir (s : State) (c : Nat) (k : Core) : (s.setCore c k).dir = s.dir := rfl
@[simp] theorem State.setCore_boot (s : State) (c : Nat) (k : Core) : (s.setCore c k).boot = s.boot := rfl
@[simp] theorem State.setCore_sto (s : State) (c : Nat) (k : Core) : (s.setCore c k).sto = s.sto := rfl
@[simp] theorem State.setCore_eng (s : State) (c : Nat) (k : Core) : (s.setCore c k).eng = s.eng := rfl
@[simp] theorem State.setCore_engL (s : State) (c : Nat) (k : Core) : (s.setCore c k).engL = s.engL := rfl
@[simp] theorem State.setCore_engS (s : State) (c : Nat) (k : Core) : (s.setCore c k).engS = s.engS := rfl
@[simp] theorem State.setCore_evL (s : State) (c : Nat) (k : Core) : (s.setCore c k).evL = s.evL := rfl
@[simp] theorem State.setCore_evS (s : State) (c : Nat) (k : Core) : (s.setCore c k).evS = s.evS := rfl
@[simp] theorem State.setCore_cap (s : State) (c : Nat) (k : Core) : (s.setCore c k).cap = s.cap := rfl
@[simp] theorem State.setCore_rbus (s : State) (c : Nat) (k : Core) : (s.setCore c k).rbus = s.rbus := rfl
@[simp] theorem State.setCore_pir (s : State) (c : Nat) (k : Core) : (s.setCore c k).pir = s.pir := rfl
@[simp] theorem State.setCore_tab (s : State) (c : Nat) (k : Core) : (s.setCore c k).tab = s.tab := rfl
@[simp] theorem State.setCore_hostZm (s : State) (c : Nat) (k : Core) : (s.setCore c k).hostZm = s.hostZm := rfl
@[simp] theorem State.setCore_stZ (s : State) (c : Nat) (k : Core) : (s.setCore c k).stZ = s.stZ := rfl
@[simp] theorem State.setCore_loopPar (s : State) (c : Nat) (k : Core) : (s.setCore c k).loopPar = s.loopPar := rfl
@[simp] theorem State.setCore_loopsL (s : State) (c : Nat) (k : Core) : (s.setCore c k).loopsL = s.loopsL := rfl
@[simp] theorem State.setCore_loopsS (s : State) (c : Nat) (k : Core) : (s.setCore c k).loopsS = s.loopsS := rfl
@[simp] theorem State.setCore_tmeCmd (s : State) (c : Nat) (k : Core) : (s.setCore c k).tmeCmd = s.tmeCmd := rfl
@[simp] theorem State.setCore_net (s : State) (c : Nat) (k : Core) : (s.setCore c k).net = s.net := rfl
@[simp] theorem State.setCore_fanIo (s : State) (c : Nat) (k : Core) : (s.setCore c k).fanIo = s.fanIo := rfl
@[simp] theorem State.setCore_key (s : State) (c : Nat) (k : Core) : (s.setCore c k).key = s.key := rfl
@[simp] theorem State.setCore_epd (s : State) (c : Nat) (k : Core) : (s.setCore c k).epd = s.epd := rfl
@[simp] theorem State.setCore_pwr (s : State) (c : Nat) (k : Core) : (s.setCore c k).pwr = s.pwr := rfl
@[simp] theorem State.setCore_clk (s : State) (c : Nat) (k : Core) : (s.setCore c k).clk = s.clk := rfl
@[simp] theorem State.setCore_uid (s : State) (c : Nat) (k : Core) : (s.setCore c k).uid = s.uid := rfl
@[simp] theorem State.setCore_lev (s : State) (c : Nat) (k : Core) : (s.setCore c k).lev = s.lev := rfl
@[simp] theorem State.setCore_fab (s : State) (c : Nat) (k : Core) : (s.setCore c k).fab = s.fab := rfl
@[simp] theorem State.setCore_dlv (s : State) (c : Nat) (k : Core) : (s.setCore c k).dlv = s.dlv := rfl
@[simp] theorem State.setCore_fresh (s : State) (c : Nat) (k : Core) : (s.setCore c k).fresh = s.fresh := rfl
@[simp] theorem State.setCore_word (s : State) (c : Nat) (k : Core) (i' : Nat) : (s.setCore c k).word i' = s.word i' := rfl
@[simp] theorem State.setCore_get (s : State) (c : Nat) (k : Core) (i' : Field) : (s.setCore c k).get i' = s.get i' := rfl
@[simp] theorem State.setCore_bit (s : State) (c : Nat) (k : Core) (i' : Field) : (s.setCore c k).bit i' = s.bit i' := rfl
@[simp] theorem State.setCore_geti (s : State) (c : Nat) (k : Core) (i' : Field) : (s.setCore c k).geti i' = s.geti i' := rfl
@[simp] theorem State.setCore_inForce (s : State) (c : Nat) (k : Core) (i' : Nat) : (s.setCore c k).inForce i' = s.inForce i' := rfl
@[simp] theorem State.setCore_eget (s : State) (c : Nat) (k : Core) (i' : Field) : (s.setCore c k).eget i' = s.eget i' := rfl
@[simp] theorem State.setCore_ebit (s : State) (c : Nat) (k : Core) (i' : Field) : (s.setCore c k).ebit i' = s.ebit i' := rfl
@[simp] theorem State.setCore_egeti (s : State) (c : Nat) (k : Core) (i' : Field) : (s.setCore c k).egeti i' = s.egeti i' := rfl
@[simp] theorem State.setCore_chan (s : State) (c : Nat) (k : Core) (i' : Nat) : (s.setCore c k).chan i' = s.chan i' := rfl
@[simp] theorem State.setCore_level (s : State) (c : Nat) (k : Core) (i' : Nat) (j' : Nat) : (s.setCore c k).level i' j' = s.level i' j' := rfl
@[simp] theorem State.setCore_visVal (s : State) (c : Nat) (k : Core) (i' : Nat) : (s.setCore c k).visVal i' = s.visVal i' := rfl
@[simp] theorem State.setCore_en (s : State) (c : Nat) (k : Core) (i' : Nat) : (s.setCore c k).en i' = s.en i' := rfl
@[simp] theorem State.setCore_enAck (s : State) (c : Nat) (k : Core) (i' : Nat) : (s.setCore c k).enAck i' = s.enAck i' := rfl
@[simp] theorem State.setCore_coreOff (s : State) (c : Nat) (k : Core) : (s.setCore c k).coreOff = s.coreOff := rfl
@[simp] theorem State.setCore_authRequired (s : State) (c : Nat) (k : Core) : (s.setCore c k).authRequired = s.authRequired := rfl
@[simp] theorem State.setCore_lathPeriod (s : State) (c : Nat) (k : Core) : (s.setCore c k).lathPeriod = s.lathPeriod := rfl
@[simp] theorem State.setCore_peatEnt (s : State) (c : Nat) (k : Core) (i' : Nat) : (s.setCore c k).peatEnt i' = s.peatEnt i' := rfl
@[simp] theorem State.setCore_fanSt (s : State) (c : Nat) (k : Core) (i' : Nat) : (s.setCore c k).fanSt i' = s.fanSt i' := rfl
@[simp] theorem State.setCore_tmeSt (s : State) (c : Nat) (k : Core) (i' : Nat) : (s.setCore c k).tmeSt i' = s.tmeSt i' := rfl
@[simp] theorem State.setCore_loopSt (s : State) (c : Nat) (k : Core) (i' : Nat) : (s.setCore c k).loopSt i' = s.loopSt i' := rfl

/-! `updNet` -/
@[simp] theorem State.updNet_pending (s : State) (f : BlkNet → BlkNet) : (s.updNet f).pending = s.pending := rfl
@[simp] theorem State.updNet_now (s : State) (f : BlkNet → BlkNet) : (s.updNet f).now = s.now := rfl
@[simp] theorem State.updNet_regs (s : State) (f : BlkNet → BlkNet) : (s.updNet f).regs = s.regs := rfl
@[simp] theorem State.updNet_held (s : State) (f : BlkNet → BlkNet) : (s.updNet f).held = s.held := rfl
@[simp] theorem State.updNet_frozen (s : State) (f : BlkNet → BlkNet) : (s.updNet f).frozen = s.frozen := rfl
@[simp] theorem State.updNet_softRst (s : State) (f : BlkNet → BlkNet) : (s.updNet f).softRst = s.softRst := rfl
@[simp] theorem State.updNet_port (s : State) (f : BlkNet → BlkNet) : (s.updNet f).port = s.port := rfl
@[simp] theorem State.updNet_lath (s : State) (f : BlkNet → BlkNet) : (s.updNet f).lath = s.lath := rfl
@[simp] theorem State.updNet_uch (s : State) (f : BlkNet → BlkNet) : (s.updNet f).uch = s.uch := rfl
@[simp] theorem State.updNet_lv (s : State) (f : BlkNet → BlkNet) : (s.updNet f).lv = s.lv := rfl
@[simp] theorem State.updNet_l0 (s : State) (f : BlkNet → BlkNet) : (s.updNet f).l0 = s.l0 := rfl
@[simp] theorem State.updNet_stL (s : State) (f : BlkNet → BlkNet) : (s.updNet f).stL = s.stL := rfl
@[simp] theorem State.updNet_stS (s : State) (f : BlkNet → BlkNet) : (s.updNet f).stS = s.stS := rfl
@[simp] theorem State.updNet_hostLv (s : State) (f : BlkNet → BlkNet) : (s.updNet f).hostLv = s.hostLv := rfl
@[simp] theorem State.updNet_vis (s : State) (f : BlkNet → BlkNet) : (s.updNet f).vis = s.vis := rfl
@[simp] theorem State.updNet_img (s : State) (f : BlkNet → BlkNet) : (s.updNet f).img = s.img := rfl
@[simp] theorem State.updNet_lwork (s : State) (f : BlkNet → BlkNet) : (s.updNet f).lwork = s.lwork := rfl
@[simp] theorem State.updNet_swork (s : State) (f : BlkNet → BlkNet) : (s.updNet f).swork = s.swork := rfl
@[simp] theorem State.updNet_flt (s : State) (f : BlkNet → BlkNet) : (s.updNet f).flt = s.flt := rfl
@[simp] theorem State.updNet_cores (s : State) (f : BlkNet → BlkNet) : (s.updNet f).cores = s.cores := rfl
@[simp] theorem State.updNet_nst (s : State) (f : BlkNet → BlkNet) : (s.updNet f).nst = s.nst := rfl
@[simp] theorem State.updNet_dir (s : State) (f : BlkNet → BlkNet) : (s.updNet f).dir = s.dir := rfl
@[simp] theorem State.updNet_boot (s : State) (f : BlkNet → BlkNet) : (s.updNet f).boot = s.boot := rfl
@[simp] theorem State.updNet_sto (s : State) (f : BlkNet → BlkNet) : (s.updNet f).sto = s.sto := rfl
@[simp] theorem State.updNet_eng (s : State) (f : BlkNet → BlkNet) : (s.updNet f).eng = s.eng := rfl
@[simp] theorem State.updNet_engL (s : State) (f : BlkNet → BlkNet) : (s.updNet f).engL = s.engL := rfl
@[simp] theorem State.updNet_engS (s : State) (f : BlkNet → BlkNet) : (s.updNet f).engS = s.engS := rfl
@[simp] theorem State.updNet_evL (s : State) (f : BlkNet → BlkNet) : (s.updNet f).evL = s.evL := rfl
@[simp] theorem State.updNet_evS (s : State) (f : BlkNet → BlkNet) : (s.updNet f).evS = s.evS := rfl
@[simp] theorem State.updNet_cap (s : State) (f : BlkNet → BlkNet) : (s.updNet f).cap = s.cap := rfl
@[simp] theorem State.updNet_rbus (s : State) (f : BlkNet → BlkNet) : (s.updNet f).rbus = s.rbus := rfl
@[simp] theorem State.updNet_pir (s : State) (f : BlkNet → BlkNet) : (s.updNet f).pir = s.pir := rfl
@[simp] theorem State.updNet_tab (s : State) (f : BlkNet → BlkNet) : (s.updNet f).tab = s.tab := rfl
@[simp] theorem State.updNet_hostZm (s : State) (f : BlkNet → BlkNet) : (s.updNet f).hostZm = s.hostZm := rfl
@[simp] theorem State.updNet_stZ (s : State) (f : BlkNet → BlkNet) : (s.updNet f).stZ = s.stZ := rfl
@[simp] theorem State.updNet_loopPar (s : State) (f : BlkNet → BlkNet) : (s.updNet f).loopPar = s.loopPar := rfl
@[simp] theorem State.updNet_loopsL (s : State) (f : BlkNet → BlkNet) : (s.updNet f).loopsL = s.loopsL := rfl
@[simp] theorem State.updNet_loopsS (s : State) (f : BlkNet → BlkNet) : (s.updNet f).loopsS = s.loopsS := rfl
@[simp] theorem State.updNet_tmeCmd (s : State) (f : BlkNet → BlkNet) : (s.updNet f).tmeCmd = s.tmeCmd := rfl
@[simp] theorem State.updNet_fanIo (s : State) (f : BlkNet → BlkNet) : (s.updNet f).fanIo = s.fanIo := rfl
@[simp] theorem State.updNet_key (s : State) (f : BlkNet → BlkNet) : (s.updNet f).key = s.key := rfl
@[simp] theorem State.updNet_epd (s : State) (f : BlkNet → BlkNet) : (s.updNet f).epd = s.epd := rfl
@[simp] theorem State.updNet_pwr (s : State) (f : BlkNet → BlkNet) : (s.updNet f).pwr = s.pwr := rfl
@[simp] theorem State.updNet_clk (s : State) (f : BlkNet → BlkNet) : (s.updNet f).clk = s.clk := rfl
@[simp] theorem State.updNet_uid (s : State) (f : BlkNet → BlkNet) : (s.updNet f).uid = s.uid := rfl
@[simp] theorem State.updNet_lev (s : State) (f : BlkNet → BlkNet) : (s.updNet f).lev = s.lev := rfl
@[simp] theorem State.updNet_fab (s : State) (f : BlkNet → BlkNet) : (s.updNet f).fab = s.fab := rfl
@[simp] theorem State.updNet_dlv (s : State) (f : BlkNet → BlkNet) : (s.updNet f).dlv = s.dlv := rfl
@[simp] theorem State.updNet_fresh (s : State) (f : BlkNet → BlkNet) : (s.updNet f).fresh = s.fresh := rfl
@[simp] theorem State.updNet_word (s : State) (f : BlkNet → BlkNet) (i' : Nat) : (s.updNet f).word i' = s.word i' := rfl
@[simp] theorem State.updNet_get (s : State) (f : BlkNet → BlkNet) (i' : Field) : (s.updNet f).get i' = s.get i' := rfl
@[simp] theorem State.updNet_bit (s : State) (f : BlkNet → BlkNet) (i' : Field) : (s.updNet f).bit i' = s.bit i' := rfl
@[simp] theorem State.updNet_geti (s : State) (f : BlkNet → BlkNet) (i' : Field) : (s.updNet f).geti i' = s.geti i' := rfl
@[simp] theorem State.updNet_inForce (s : State) (f : BlkNet → BlkNet) (i' : Nat) : (s.updNet f).inForce i' = s.inForce i' := rfl
@[simp] theorem State.updNet_eget (s : State) (f : BlkNet → BlkNet) (i' : Field) : (s.updNet f).eget i' = s.eget i' := rfl
@[simp] theorem State.updNet_ebit (s : State) (f : BlkNet → BlkNet) (i' : Field) : (s.updNet f).ebit i' = s.ebit i' := rfl
@[simp] theorem State.updNet_egeti (s : State) (f : BlkNet → BlkNet) (i' : Field) : (s.updNet f).egeti i' = s.egeti i' := rfl
@[simp] theorem State.updNet_chan (s : State) (f : BlkNet → BlkNet) (i' : Nat) : (s.updNet f).chan i' = s.chan i' := rfl
@[simp] theorem State.updNet_level (s : State) (f : BlkNet → BlkNet) (i' : Nat) (j' : Nat) : (s.updNet f).level i' j' = s.level i' j' := rfl
@[simp] theorem State.updNet_visVal (s : State) (f : BlkNet → BlkNet) (i' : Nat) : (s.updNet f).visVal i' = s.visVal i' := rfl
@[simp] theorem State.updNet_core (s : State) (f : BlkNet → BlkNet) (i' : Nat) : (s.updNet f).core i' = s.core i' := rfl
@[simp] theorem State.updNet_en (s : State) (f : BlkNet → BlkNet) (i' : Nat) : (s.updNet f).en i' = s.en i' := rfl
@[simp] theorem State.updNet_enAck (s : State) (f : BlkNet → BlkNet) (i' : Nat) : (s.updNet f).enAck i' = s.enAck i' := rfl
@[simp] theorem State.updNet_coreOff (s : State) (f : BlkNet → BlkNet) : (s.updNet f).coreOff = s.coreOff := rfl
@[simp] theorem State.updNet_authRequired (s : State) (f : BlkNet → BlkNet) : (s.updNet f).authRequired = s.authRequired := rfl
@[simp] theorem State.updNet_lathPeriod (s : State) (f : BlkNet → BlkNet) : (s.updNet f).lathPeriod = s.lathPeriod := rfl
@[simp] theorem State.updNet_peatEnt (s : State) (f : BlkNet → BlkNet) (i' : Nat) : (s.updNet f).peatEnt i' = s.peatEnt i' := rfl
@[simp] theorem State.updNet_fanSt (s : State) (f : BlkNet → BlkNet) (i' : Nat) : (s.updNet f).fanSt i' = s.fanSt i' := rfl
@[simp] theorem State.updNet_tmeSt (s : State) (f : BlkNet → BlkNet) (i' : Nat) : (s.updNet f).tmeSt i' = s.tmeSt i' := rfl
@[simp] theorem State.updNet_loopSt (s : State) (f : BlkNet → BlkNet) (i' : Nat) : (s.updNet f).loopSt i' = s.loopSt i' := rfl

/-! `updEpd` -/
@[simp] theorem State.updEpd_pending (s : State) (f : EpdSt → EpdSt) : (s.updEpd f).pending = s.pending := rfl
@[simp] theorem State.updEpd_now (s : State) (f : EpdSt → EpdSt) : (s.updEpd f).now = s.now := rfl
@[simp] theorem State.updEpd_regs (s : State) (f : EpdSt → EpdSt) : (s.updEpd f).regs = s.regs := rfl
@[simp] theorem State.updEpd_held (s : State) (f : EpdSt → EpdSt) : (s.updEpd f).held = s.held := rfl
@[simp] theorem State.updEpd_frozen (s : State) (f : EpdSt → EpdSt) : (s.updEpd f).frozen = s.frozen := rfl
@[simp] theorem State.updEpd_softRst (s : State) (f : EpdSt → EpdSt) : (s.updEpd f).softRst = s.softRst := rfl
@[simp] theorem State.updEpd_port (s : State) (f : EpdSt → EpdSt) : (s.updEpd f).port = s.port := rfl
@[simp] theorem State.updEpd_lath (s : State) (f : EpdSt → EpdSt) : (s.updEpd f).lath = s.lath := rfl
@[simp] theorem State.updEpd_uch (s : State) (f : EpdSt → EpdSt) : (s.updEpd f).uch = s.uch := rfl
@[simp] theorem State.updEpd_lv (s : State) (f : EpdSt → EpdSt) : (s.updEpd f).lv = s.lv := rfl
@[simp] theorem State.updEpd_l0 (s : State) (f : EpdSt → EpdSt) : (s.updEpd f).l0 = s.l0 := rfl
@[simp] theorem State.updEpd_stL (s : State) (f : EpdSt → EpdSt) : (s.updEpd f).stL = s.stL := rfl
@[simp] theorem State.updEpd_stS (s : State) (f : EpdSt → EpdSt) : (s.updEpd f).stS = s.stS := rfl
@[simp] theorem State.updEpd_hostLv (s : State) (f : EpdSt → EpdSt) : (s.updEpd f).hostLv = s.hostLv := rfl
@[simp] theorem State.updEpd_vis (s : State) (f : EpdSt → EpdSt) : (s.updEpd f).vis = s.vis := rfl
@[simp] theorem State.updEpd_img (s : State) (f : EpdSt → EpdSt) : (s.updEpd f).img = s.img := rfl
@[simp] theorem State.updEpd_lwork (s : State) (f : EpdSt → EpdSt) : (s.updEpd f).lwork = s.lwork := rfl
@[simp] theorem State.updEpd_swork (s : State) (f : EpdSt → EpdSt) : (s.updEpd f).swork = s.swork := rfl
@[simp] theorem State.updEpd_flt (s : State) (f : EpdSt → EpdSt) : (s.updEpd f).flt = s.flt := rfl
@[simp] theorem State.updEpd_cores (s : State) (f : EpdSt → EpdSt) : (s.updEpd f).cores = s.cores := rfl
@[simp] theorem State.updEpd_nst (s : State) (f : EpdSt → EpdSt) : (s.updEpd f).nst = s.nst := rfl
@[simp] theorem State.updEpd_dir (s : State) (f : EpdSt → EpdSt) : (s.updEpd f).dir = s.dir := rfl
@[simp] theorem State.updEpd_boot (s : State) (f : EpdSt → EpdSt) : (s.updEpd f).boot = s.boot := rfl
@[simp] theorem State.updEpd_sto (s : State) (f : EpdSt → EpdSt) : (s.updEpd f).sto = s.sto := rfl
@[simp] theorem State.updEpd_eng (s : State) (f : EpdSt → EpdSt) : (s.updEpd f).eng = s.eng := rfl
@[simp] theorem State.updEpd_engL (s : State) (f : EpdSt → EpdSt) : (s.updEpd f).engL = s.engL := rfl
@[simp] theorem State.updEpd_engS (s : State) (f : EpdSt → EpdSt) : (s.updEpd f).engS = s.engS := rfl
@[simp] theorem State.updEpd_evL (s : State) (f : EpdSt → EpdSt) : (s.updEpd f).evL = s.evL := rfl
@[simp] theorem State.updEpd_evS (s : State) (f : EpdSt → EpdSt) : (s.updEpd f).evS = s.evS := rfl
@[simp] theorem State.updEpd_cap (s : State) (f : EpdSt → EpdSt) : (s.updEpd f).cap = s.cap := rfl
@[simp] theorem State.updEpd_rbus (s : State) (f : EpdSt → EpdSt) : (s.updEpd f).rbus = s.rbus := rfl
@[simp] theorem State.updEpd_pir (s : State) (f : EpdSt → EpdSt) : (s.updEpd f).pir = s.pir := rfl
@[simp] theorem State.updEpd_tab (s : State) (f : EpdSt → EpdSt) : (s.updEpd f).tab = s.tab := rfl
@[simp] theorem State.updEpd_hostZm (s : State) (f : EpdSt → EpdSt) : (s.updEpd f).hostZm = s.hostZm := rfl
@[simp] theorem State.updEpd_stZ (s : State) (f : EpdSt → EpdSt) : (s.updEpd f).stZ = s.stZ := rfl
@[simp] theorem State.updEpd_loopPar (s : State) (f : EpdSt → EpdSt) : (s.updEpd f).loopPar = s.loopPar := rfl
@[simp] theorem State.updEpd_loopsL (s : State) (f : EpdSt → EpdSt) : (s.updEpd f).loopsL = s.loopsL := rfl
@[simp] theorem State.updEpd_loopsS (s : State) (f : EpdSt → EpdSt) : (s.updEpd f).loopsS = s.loopsS := rfl
@[simp] theorem State.updEpd_tmeCmd (s : State) (f : EpdSt → EpdSt) : (s.updEpd f).tmeCmd = s.tmeCmd := rfl
@[simp] theorem State.updEpd_net (s : State) (f : EpdSt → EpdSt) : (s.updEpd f).net = s.net := rfl
@[simp] theorem State.updEpd_fanIo (s : State) (f : EpdSt → EpdSt) : (s.updEpd f).fanIo = s.fanIo := rfl
@[simp] theorem State.updEpd_key (s : State) (f : EpdSt → EpdSt) : (s.updEpd f).key = s.key := rfl
@[simp] theorem State.updEpd_pwr (s : State) (f : EpdSt → EpdSt) : (s.updEpd f).pwr = s.pwr := rfl
@[simp] theorem State.updEpd_clk (s : State) (f : EpdSt → EpdSt) : (s.updEpd f).clk = s.clk := rfl
@[simp] theorem State.updEpd_uid (s : State) (f : EpdSt → EpdSt) : (s.updEpd f).uid = s.uid := rfl
@[simp] theorem State.updEpd_lev (s : State) (f : EpdSt → EpdSt) : (s.updEpd f).lev = s.lev := rfl
@[simp] theorem State.updEpd_fab (s : State) (f : EpdSt → EpdSt) : (s.updEpd f).fab = s.fab := rfl
@[simp] theorem State.updEpd_dlv (s : State) (f : EpdSt → EpdSt) : (s.updEpd f).dlv = s.dlv := rfl
@[simp] theorem State.updEpd_fresh (s : State) (f : EpdSt → EpdSt) : (s.updEpd f).fresh = s.fresh := rfl
@[simp] theorem State.updEpd_word (s : State) (f : EpdSt → EpdSt) (i' : Nat) : (s.updEpd f).word i' = s.word i' := rfl
@[simp] theorem State.updEpd_get (s : State) (f : EpdSt → EpdSt) (i' : Field) : (s.updEpd f).get i' = s.get i' := rfl
@[simp] theorem State.updEpd_bit (s : State) (f : EpdSt → EpdSt) (i' : Field) : (s.updEpd f).bit i' = s.bit i' := rfl
@[simp] theorem State.updEpd_geti (s : State) (f : EpdSt → EpdSt) (i' : Field) : (s.updEpd f).geti i' = s.geti i' := rfl
@[simp] theorem State.updEpd_inForce (s : State) (f : EpdSt → EpdSt) (i' : Nat) : (s.updEpd f).inForce i' = s.inForce i' := rfl
@[simp] theorem State.updEpd_eget (s : State) (f : EpdSt → EpdSt) (i' : Field) : (s.updEpd f).eget i' = s.eget i' := rfl
@[simp] theorem State.updEpd_ebit (s : State) (f : EpdSt → EpdSt) (i' : Field) : (s.updEpd f).ebit i' = s.ebit i' := rfl
@[simp] theorem State.updEpd_egeti (s : State) (f : EpdSt → EpdSt) (i' : Field) : (s.updEpd f).egeti i' = s.egeti i' := rfl
@[simp] theorem State.updEpd_chan (s : State) (f : EpdSt → EpdSt) (i' : Nat) : (s.updEpd f).chan i' = s.chan i' := rfl
@[simp] theorem State.updEpd_level (s : State) (f : EpdSt → EpdSt) (i' : Nat) (j' : Nat) : (s.updEpd f).level i' j' = s.level i' j' := rfl
@[simp] theorem State.updEpd_visVal (s : State) (f : EpdSt → EpdSt) (i' : Nat) : (s.updEpd f).visVal i' = s.visVal i' := rfl
@[simp] theorem State.updEpd_core (s : State) (f : EpdSt → EpdSt) (i' : Nat) : (s.updEpd f).core i' = s.core i' := rfl
@[simp] theorem State.updEpd_en (s : State) (f : EpdSt → EpdSt) (i' : Nat) : (s.updEpd f).en i' = s.en i' := rfl
@[simp] theorem State.updEpd_enAck (s : State) (f : EpdSt → EpdSt) (i' : Nat) : (s.updEpd f).enAck i' = s.enAck i' := rfl
@[simp] theorem State.updEpd_coreOff (s : State) (f : EpdSt → EpdSt) : (s.updEpd f).coreOff = s.coreOff := rfl
@[simp] theorem State.updEpd_authRequired (s : State) (f : EpdSt → EpdSt) : (s.updEpd f).authRequired = s.authRequired := rfl
@[simp] theorem State.updEpd_lathPeriod (s : State) (f : EpdSt → EpdSt) : (s.updEpd f).lathPeriod = s.lathPeriod := rfl
@[simp] theorem State.updEpd_peatEnt (s : State) (f : EpdSt → EpdSt) (i' : Nat) : (s.updEpd f).peatEnt i' = s.peatEnt i' := rfl
@[simp] theorem State.updEpd_fanSt (s : State) (f : EpdSt → EpdSt) (i' : Nat) : (s.updEpd f).fanSt i' = s.fanSt i' := rfl
@[simp] theorem State.updEpd_tmeSt (s : State) (f : EpdSt → EpdSt) (i' : Nat) : (s.updEpd f).tmeSt i' = s.tmeSt i' := rfl
@[simp] theorem State.updEpd_loopSt (s : State) (f : EpdSt → EpdSt) (i' : Nat) : (s.updEpd f).loopSt i' = s.loopSt i' := rfl

/-! `updClk` -/
@[simp] theorem State.updClk_pending (s : State) (f : ClkSt → ClkSt) : (s.updClk f).pending = s.pending := rfl
@[simp] theorem State.updClk_now (s : State) (f : ClkSt → ClkSt) : (s.updClk f).now = s.now := rfl
@[simp] theorem State.updClk_regs (s : State) (f : ClkSt → ClkSt) : (s.updClk f).regs = s.regs := rfl
@[simp] theorem State.updClk_held (s : State) (f : ClkSt → ClkSt) : (s.updClk f).held = s.held := rfl
@[simp] theorem State.updClk_frozen (s : State) (f : ClkSt → ClkSt) : (s.updClk f).frozen = s.frozen := rfl
@[simp] theorem State.updClk_softRst (s : State) (f : ClkSt → ClkSt) : (s.updClk f).softRst = s.softRst := rfl
@[simp] theorem State.updClk_port (s : State) (f : ClkSt → ClkSt) : (s.updClk f).port = s.port := rfl
@[simp] theorem State.updClk_lath (s : State) (f : ClkSt → ClkSt) : (s.updClk f).lath = s.lath := rfl
@[simp] theorem State.updClk_uch (s : State) (f : ClkSt → ClkSt) : (s.updClk f).uch = s.uch := rfl
@[simp] theorem State.updClk_lv (s : State) (f : ClkSt → ClkSt) : (s.updClk f).lv = s.lv := rfl
@[simp] theorem State.updClk_l0 (s : State) (f : ClkSt → ClkSt) : (s.updClk f).l0 = s.l0 := rfl
@[simp] theorem State.updClk_stL (s : State) (f : ClkSt → ClkSt) : (s.updClk f).stL = s.stL := rfl
@[simp] theorem State.updClk_stS (s : State) (f : ClkSt → ClkSt) : (s.updClk f).stS = s.stS := rfl
@[simp] theorem State.updClk_hostLv (s : State) (f : ClkSt → ClkSt) : (s.updClk f).hostLv = s.hostLv := rfl
@[simp] theorem State.updClk_vis (s : State) (f : ClkSt → ClkSt) : (s.updClk f).vis = s.vis := rfl
@[simp] theorem State.updClk_img (s : State) (f : ClkSt → ClkSt) : (s.updClk f).img = s.img := rfl
@[simp] theorem State.updClk_lwork (s : State) (f : ClkSt → ClkSt) : (s.updClk f).lwork = s.lwork := rfl
@[simp] theorem State.updClk_swork (s : State) (f : ClkSt → ClkSt) : (s.updClk f).swork = s.swork := rfl
@[simp] theorem State.updClk_flt (s : State) (f : ClkSt → ClkSt) : (s.updClk f).flt = s.flt := rfl
@[simp] theorem State.updClk_cores (s : State) (f : ClkSt → ClkSt) : (s.updClk f).cores = s.cores := rfl
@[simp] theorem State.updClk_nst (s : State) (f : ClkSt → ClkSt) : (s.updClk f).nst = s.nst := rfl
@[simp] theorem State.updClk_dir (s : State) (f : ClkSt → ClkSt) : (s.updClk f).dir = s.dir := rfl
@[simp] theorem State.updClk_boot (s : State) (f : ClkSt → ClkSt) : (s.updClk f).boot = s.boot := rfl
@[simp] theorem State.updClk_sto (s : State) (f : ClkSt → ClkSt) : (s.updClk f).sto = s.sto := rfl
@[simp] theorem State.updClk_eng (s : State) (f : ClkSt → ClkSt) : (s.updClk f).eng = s.eng := rfl
@[simp] theorem State.updClk_engL (s : State) (f : ClkSt → ClkSt) : (s.updClk f).engL = s.engL := rfl
@[simp] theorem State.updClk_engS (s : State) (f : ClkSt → ClkSt) : (s.updClk f).engS = s.engS := rfl
@[simp] theorem State.updClk_evL (s : State) (f : ClkSt → ClkSt) : (s.updClk f).evL = s.evL := rfl
@[simp] theorem State.updClk_evS (s : State) (f : ClkSt → ClkSt) : (s.updClk f).evS = s.evS := rfl
@[simp] theorem State.updClk_cap (s : State) (f : ClkSt → ClkSt) : (s.updClk f).cap = s.cap := rfl
@[simp] theorem State.updClk_rbus (s : State) (f : ClkSt → ClkSt) : (s.updClk f).rbus = s.rbus := rfl
@[simp] theorem State.updClk_pir (s : State) (f : ClkSt → ClkSt) : (s.updClk f).pir = s.pir := rfl
@[simp] theorem State.updClk_tab (s : State) (f : ClkSt → ClkSt) : (s.updClk f).tab = s.tab := rfl
@[simp] theorem State.updClk_hostZm (s : State) (f : ClkSt → ClkSt) : (s.updClk f).hostZm = s.hostZm := rfl
@[simp] theorem State.updClk_stZ (s : State) (f : ClkSt → ClkSt) : (s.updClk f).stZ = s.stZ := rfl
@[simp] theorem State.updClk_loopPar (s : State) (f : ClkSt → ClkSt) : (s.updClk f).loopPar = s.loopPar := rfl
@[simp] theorem State.updClk_loopsL (s : State) (f : ClkSt → ClkSt) : (s.updClk f).loopsL = s.loopsL := rfl
@[simp] theorem State.updClk_loopsS (s : State) (f : ClkSt → ClkSt) : (s.updClk f).loopsS = s.loopsS := rfl
@[simp] theorem State.updClk_tmeCmd (s : State) (f : ClkSt → ClkSt) : (s.updClk f).tmeCmd = s.tmeCmd := rfl
@[simp] theorem State.updClk_net (s : State) (f : ClkSt → ClkSt) : (s.updClk f).net = s.net := rfl
@[simp] theorem State.updClk_fanIo (s : State) (f : ClkSt → ClkSt) : (s.updClk f).fanIo = s.fanIo := rfl
@[simp] theorem State.updClk_key (s : State) (f : ClkSt → ClkSt) : (s.updClk f).key = s.key := rfl
@[simp] theorem State.updClk_epd (s : State) (f : ClkSt → ClkSt) : (s.updClk f).epd = s.epd := rfl
@[simp] theorem State.updClk_pwr (s : State) (f : ClkSt → ClkSt) : (s.updClk f).pwr = s.pwr := rfl
@[simp] theorem State.updClk_uid (s : State) (f : ClkSt → ClkSt) : (s.updClk f).uid = s.uid := rfl
@[simp] theorem State.updClk_lev (s : State) (f : ClkSt → ClkSt) : (s.updClk f).lev = s.lev := rfl
@[simp] theorem State.updClk_fab (s : State) (f : ClkSt → ClkSt) : (s.updClk f).fab = s.fab := rfl
@[simp] theorem State.updClk_dlv (s : State) (f : ClkSt → ClkSt) : (s.updClk f).dlv = s.dlv := rfl
@[simp] theorem State.updClk_fresh (s : State) (f : ClkSt → ClkSt) : (s.updClk f).fresh = s.fresh := rfl
@[simp] theorem State.updClk_word (s : State) (f : ClkSt → ClkSt) (i' : Nat) : (s.updClk f).word i' = s.word i' := rfl
@[simp] theorem State.updClk_get (s : State) (f : ClkSt → ClkSt) (i' : Field) : (s.updClk f).get i' = s.get i' := rfl
@[simp] theorem State.updClk_bit (s : State) (f : ClkSt → ClkSt) (i' : Field) : (s.updClk f).bit i' = s.bit i' := rfl
@[simp] theorem State.updClk_geti (s : State) (f : ClkSt → ClkSt) (i' : Field) : (s.updClk f).geti i' = s.geti i' := rfl
@[simp] theorem State.updClk_inForce (s : State) (f : ClkSt → ClkSt) (i' : Nat) : (s.updClk f).inForce i' = s.inForce i' := rfl
@[simp] theorem State.updClk_eget (s : State) (f : ClkSt → ClkSt) (i' : Field) : (s.updClk f).eget i' = s.eget i' := rfl
@[simp] theorem State.updClk_ebit (s : State) (f : ClkSt → ClkSt) (i' : Field) : (s.updClk f).ebit i' = s.ebit i' := rfl
@[simp] theorem State.updClk_egeti (s : State) (f : ClkSt → ClkSt) (i' : Field) : (s.updClk f).egeti i' = s.egeti i' := rfl
@[simp] theorem State.updClk_chan (s : State) (f : ClkSt → ClkSt) (i' : Nat) : (s.updClk f).chan i' = s.chan i' := rfl
@[simp] theorem State.updClk_level (s : State) (f : ClkSt → ClkSt) (i' : Nat) (j' : Nat) : (s.updClk f).level i' j' = s.level i' j' := rfl
@[simp] theorem State.updClk_visVal (s : State) (f : ClkSt → ClkSt) (i' : Nat) : (s.updClk f).visVal i' = s.visVal i' := rfl
@[simp] theorem State.updClk_core (s : State) (f : ClkSt → ClkSt) (i' : Nat) : (s.updClk f).core i' = s.core i' := rfl
@[simp] theorem State.updClk_en (s : State) (f : ClkSt → ClkSt) (i' : Nat) : (s.updClk f).en i' = s.en i' := rfl
@[simp] theorem State.updClk_enAck (s : State) (f : ClkSt → ClkSt) (i' : Nat) : (s.updClk f).enAck i' = s.enAck i' := rfl
@[simp] theorem State.updClk_coreOff (s : State) (f : ClkSt → ClkSt) : (s.updClk f).coreOff = s.coreOff := rfl
@[simp] theorem State.updClk_authRequired (s : State) (f : ClkSt → ClkSt) : (s.updClk f).authRequired = s.authRequired := rfl
@[simp] theorem State.updClk_lathPeriod (s : State) (f : ClkSt → ClkSt) : (s.updClk f).lathPeriod = s.lathPeriod := rfl
@[simp] theorem State.updClk_peatEnt (s : State) (f : ClkSt → ClkSt) (i' : Nat) : (s.updClk f).peatEnt i' = s.peatEnt i' := rfl
@[simp] theorem State.updClk_fanSt (s : State) (f : ClkSt → ClkSt) (i' : Nat) : (s.updClk f).fanSt i' = s.fanSt i' := rfl
@[simp] theorem State.updClk_tmeSt (s : State) (f : ClkSt → ClkSt) (i' : Nat) : (s.updClk f).tmeSt i' = s.tmeSt i' := rfl
@[simp] theorem State.updClk_loopSt (s : State) (f : ClkSt → ClkSt) (i' : Nat) : (s.updClk f).loopSt i' = s.loopSt i' := rfl

/-! `updPwr` -/
@[simp] theorem State.updPwr_pending (s : State) (f : PwrSt → PwrSt) : (s.updPwr f).pending = s.pending := rfl
@[simp] theorem State.updPwr_now (s : State) (f : PwrSt → PwrSt) : (s.updPwr f).now = s.now := rfl
@[simp] theorem State.updPwr_regs (s : State) (f : PwrSt → PwrSt) : (s.updPwr f).regs = s.regs := rfl
@[simp] theorem State.updPwr_held (s : State) (f : PwrSt → PwrSt) : (s.updPwr f).held = s.held := rfl
@[simp] theorem State.updPwr_frozen (s : State) (f : PwrSt → PwrSt) : (s.updPwr f).frozen = s.frozen := rfl
@[simp] theorem State.updPwr_softRst (s : State) (f : PwrSt → PwrSt) : (s.updPwr f).softRst = s.softRst := rfl
@[simp] theorem State.updPwr_port (s : State) (f : PwrSt → PwrSt) : (s.updPwr f).port = s.port := rfl
@[simp] theorem State.updPwr_lath (s : State) (f : PwrSt → PwrSt) : (s.updPwr f).lath = s.lath := rfl
@[simp] theorem State.updPwr_uch (s : State) (f : PwrSt → PwrSt) : (s.updPwr f).uch = s.uch := rfl
@[simp] theorem State.updPwr_lv (s : State) (f : PwrSt → PwrSt) : (s.updPwr f).lv = s.lv := rfl
@[simp] theorem State.updPwr_l0 (s : State) (f : PwrSt → PwrSt) : (s.updPwr f).l0 = s.l0 := rfl
@[simp] theorem State.updPwr_stL (s : State) (f : PwrSt → PwrSt) : (s.updPwr f).stL = s.stL := rfl
@[simp] theorem State.updPwr_stS (s : State) (f : PwrSt → PwrSt) : (s.updPwr f).stS = s.stS := rfl
@[simp] theorem State.updPwr_hostLv (s : State) (f : PwrSt → PwrSt) : (s.updPwr f).hostLv = s.hostLv := rfl
@[simp] theorem State.updPwr_vis (s : State) (f : PwrSt → PwrSt) : (s.updPwr f).vis = s.vis := rfl
@[simp] theorem State.updPwr_img (s : State) (f : PwrSt → PwrSt) : (s.updPwr f).img = s.img := rfl
@[simp] theorem State.updPwr_lwork (s : State) (f : PwrSt → PwrSt) : (s.updPwr f).lwork = s.lwork := rfl
@[simp] theorem State.updPwr_swork (s : State) (f : PwrSt → PwrSt) : (s.updPwr f).swork = s.swork := rfl
@[simp] theorem State.updPwr_flt (s : State) (f : PwrSt → PwrSt) : (s.updPwr f).flt = s.flt := rfl
@[simp] theorem State.updPwr_cores (s : State) (f : PwrSt → PwrSt) : (s.updPwr f).cores = s.cores := rfl
@[simp] theorem State.updPwr_nst (s : State) (f : PwrSt → PwrSt) : (s.updPwr f).nst = s.nst := rfl
@[simp] theorem State.updPwr_dir (s : State) (f : PwrSt → PwrSt) : (s.updPwr f).dir = s.dir := rfl
@[simp] theorem State.updPwr_boot (s : State) (f : PwrSt → PwrSt) : (s.updPwr f).boot = s.boot := rfl
@[simp] theorem State.updPwr_sto (s : State) (f : PwrSt → PwrSt) : (s.updPwr f).sto = s.sto := rfl
@[simp] theorem State.updPwr_eng (s : State) (f : PwrSt → PwrSt) : (s.updPwr f).eng = s.eng := rfl
@[simp] theorem State.updPwr_engL (s : State) (f : PwrSt → PwrSt) : (s.updPwr f).engL = s.engL := rfl
@[simp] theorem State.updPwr_engS (s : State) (f : PwrSt → PwrSt) : (s.updPwr f).engS = s.engS := rfl
@[simp] theorem State.updPwr_evL (s : State) (f : PwrSt → PwrSt) : (s.updPwr f).evL = s.evL := rfl
@[simp] theorem State.updPwr_evS (s : State) (f : PwrSt → PwrSt) : (s.updPwr f).evS = s.evS := rfl
@[simp] theorem State.updPwr_cap (s : State) (f : PwrSt → PwrSt) : (s.updPwr f).cap = s.cap := rfl
@[simp] theorem State.updPwr_rbus (s : State) (f : PwrSt → PwrSt) : (s.updPwr f).rbus = s.rbus := rfl
@[simp] theorem State.updPwr_pir (s : State) (f : PwrSt → PwrSt) : (s.updPwr f).pir = s.pir := rfl
@[simp] theorem State.updPwr_tab (s : State) (f : PwrSt → PwrSt) : (s.updPwr f).tab = s.tab := rfl
@[simp] theorem State.updPwr_hostZm (s : State) (f : PwrSt → PwrSt) : (s.updPwr f).hostZm = s.hostZm := rfl
@[simp] theorem State.updPwr_stZ (s : State) (f : PwrSt → PwrSt) : (s.updPwr f).stZ = s.stZ := rfl
@[simp] theorem State.updPwr_loopPar (s : State) (f : PwrSt → PwrSt) : (s.updPwr f).loopPar = s.loopPar := rfl
@[simp] theorem State.updPwr_loopsL (s : State) (f : PwrSt → PwrSt) : (s.updPwr f).loopsL = s.loopsL := rfl
@[simp] theorem State.updPwr_loopsS (s : State) (f : PwrSt → PwrSt) : (s.updPwr f).loopsS = s.loopsS := rfl
@[simp] theorem State.updPwr_tmeCmd (s : State) (f : PwrSt → PwrSt) : (s.updPwr f).tmeCmd = s.tmeCmd := rfl
@[simp] theorem State.updPwr_net (s : State) (f : PwrSt → PwrSt) : (s.updPwr f).net = s.net := rfl
@[simp] theorem State.updPwr_fanIo (s : State) (f : PwrSt → PwrSt) : (s.updPwr f).fanIo = s.fanIo := rfl
@[simp] theorem State.updPwr_key (s : State) (f : PwrSt → PwrSt) : (s.updPwr f).key = s.key := rfl
@[simp] theorem State.updPwr_epd (s : State) (f : PwrSt → PwrSt) : (s.updPwr f).epd = s.epd := rfl
@[simp] theorem State.updPwr_clk (s : State) (f : PwrSt → PwrSt) : (s.updPwr f).clk = s.clk := rfl
@[simp] theorem State.updPwr_uid (s : State) (f : PwrSt → PwrSt) : (s.updPwr f).uid = s.uid := rfl
@[simp] theorem State.updPwr_lev (s : State) (f : PwrSt → PwrSt) : (s.updPwr f).lev = s.lev := rfl
@[simp] theorem State.updPwr_fab (s : State) (f : PwrSt → PwrSt) : (s.updPwr f).fab = s.fab := rfl
@[simp] theorem State.updPwr_dlv (s : State) (f : PwrSt → PwrSt) : (s.updPwr f).dlv = s.dlv := rfl
@[simp] theorem State.updPwr_fresh (s : State) (f : PwrSt → PwrSt) : (s.updPwr f).fresh = s.fresh := rfl
@[simp] theorem State.updPwr_word (s : State) (f : PwrSt → PwrSt) (i' : Nat) : (s.updPwr f).word i' = s.word i' := rfl
@[simp] theorem State.updPwr_get (s : State) (f : PwrSt → PwrSt) (i' : Field) : (s.updPwr f).get i' = s.get i' := rfl
@[simp] theorem State.updPwr_bit (s : State) (f : PwrSt → PwrSt) (i' : Field) : (s.updPwr f).bit i' = s.bit i' := rfl
@[simp] theorem State.updPwr_geti (s : State) (f : PwrSt → PwrSt) (i' : Field) : (s.updPwr f).geti i' = s.geti i' := rfl
@[simp] theorem State.updPwr_inForce (s : State) (f : PwrSt → PwrSt) (i' : Nat) : (s.updPwr f).inForce i' = s.inForce i' := rfl
@[simp] theorem State.updPwr_eget (s : State) (f : PwrSt → PwrSt) (i' : Field) : (s.updPwr f).eget i' = s.eget i' := rfl
@[simp] theorem State.updPwr_ebit (s : State) (f : PwrSt → PwrSt) (i' : Field) : (s.updPwr f).ebit i' = s.ebit i' := rfl
@[simp] theorem State.updPwr_egeti (s : State) (f : PwrSt → PwrSt) (i' : Field) : (s.updPwr f).egeti i' = s.egeti i' := rfl
@[simp] theorem State.updPwr_chan (s : State) (f : PwrSt → PwrSt) (i' : Nat) : (s.updPwr f).chan i' = s.chan i' := rfl
@[simp] theorem State.updPwr_level (s : State) (f : PwrSt → PwrSt) (i' : Nat) (j' : Nat) : (s.updPwr f).level i' j' = s.level i' j' := rfl
@[simp] theorem State.updPwr_visVal (s : State) (f : PwrSt → PwrSt) (i' : Nat) : (s.updPwr f).visVal i' = s.visVal i' := rfl
@[simp] theorem State.updPwr_core (s : State) (f : PwrSt → PwrSt) (i' : Nat) : (s.updPwr f).core i' = s.core i' := rfl
@[simp] theorem State.updPwr_en (s : State) (f : PwrSt → PwrSt) (i' : Nat) : (s.updPwr f).en i' = s.en i' := rfl
@[simp] theorem State.updPwr_enAck (s : State) (f : PwrSt → PwrSt) (i' : Nat) : (s.updPwr f).enAck i' = s.enAck i' := rfl
@[simp] theorem State.updPwr_coreOff (s : State) (f : PwrSt → PwrSt) : (s.updPwr f).coreOff = s.coreOff := rfl
@[simp] theorem State.updPwr_authRequired (s : State) (f : PwrSt → PwrSt) : (s.updPwr f).authRequired = s.authRequired := rfl
@[simp] theorem State.updPwr_lathPeriod (s : State) (f : PwrSt → PwrSt) : (s.updPwr f).lathPeriod = s.lathPeriod := rfl
@[simp] theorem State.updPwr_peatEnt (s : State) (f : PwrSt → PwrSt) (i' : Nat) : (s.updPwr f).peatEnt i' = s.peatEnt i' := rfl
@[simp] theorem State.updPwr_fanSt (s : State) (f : PwrSt → PwrSt) (i' : Nat) : (s.updPwr f).fanSt i' = s.fanSt i' := rfl
@[simp] theorem State.updPwr_tmeSt (s : State) (f : PwrSt → PwrSt) (i' : Nat) : (s.updPwr f).tmeSt i' = s.tmeSt i' := rfl
@[simp] theorem State.updPwr_loopSt (s : State) (f : PwrSt → PwrSt) (i' : Nat) : (s.updPwr f).loopSt i' = s.loopSt i' := rfl

/-! `updDlv` -/
@[simp] theorem State.updDlv_pending (s : State) (f : DlvSt → DlvSt) : (s.updDlv f).pending = s.pending := rfl
@[simp] theorem State.updDlv_now (s : State) (f : DlvSt → DlvSt) : (s.updDlv f).now = s.now := rfl
@[simp] theorem State.updDlv_regs (s : State) (f : DlvSt → DlvSt) : (s.updDlv f).regs = s.regs := rfl
@[simp] theorem State.updDlv_held (s : State) (f : DlvSt → DlvSt) : (s.updDlv f).held = s.held := rfl
@[simp] theorem State.updDlv_frozen (s : State) (f : DlvSt → DlvSt) : (s.updDlv f).frozen = s.frozen := rfl
@[simp] theorem State.updDlv_softRst (s : State) (f : DlvSt → DlvSt) : (s.updDlv f).softRst = s.softRst := rfl
@[simp] theorem State.updDlv_port (s : State) (f : DlvSt → DlvSt) : (s.updDlv f).port = s.port := rfl
@[simp] theorem State.updDlv_lath (s : State) (f : DlvSt → DlvSt) : (s.updDlv f).lath = s.lath := rfl
@[simp] theorem State.updDlv_uch (s : State) (f : DlvSt → DlvSt) : (s.updDlv f).uch = s.uch := rfl
@[simp] theorem State.updDlv_lv (s : State) (f : DlvSt → DlvSt) : (s.updDlv f).lv = s.lv := rfl
@[simp] theorem State.updDlv_l0 (s : State) (f : DlvSt → DlvSt) : (s.updDlv f).l0 = s.l0 := rfl
@[simp] theorem State.updDlv_stL (s : State) (f : DlvSt → DlvSt) : (s.updDlv f).stL = s.stL := rfl
@[simp] theorem State.updDlv_stS (s : State) (f : DlvSt → DlvSt) : (s.updDlv f).stS = s.stS := rfl
@[simp] theorem State.updDlv_hostLv (s : State) (f : DlvSt → DlvSt) : (s.updDlv f).hostLv = s.hostLv := rfl
@[simp] theorem State.updDlv_vis (s : State) (f : DlvSt → DlvSt) : (s.updDlv f).vis = s.vis := rfl
@[simp] theorem State.updDlv_img (s : State) (f : DlvSt → DlvSt) : (s.updDlv f).img = s.img := rfl
@[simp] theorem State.updDlv_lwork (s : State) (f : DlvSt → DlvSt) : (s.updDlv f).lwork = s.lwork := rfl
@[simp] theorem State.updDlv_swork (s : State) (f : DlvSt → DlvSt) : (s.updDlv f).swork = s.swork := rfl
@[simp] theorem State.updDlv_flt (s : State) (f : DlvSt → DlvSt) : (s.updDlv f).flt = s.flt := rfl
@[simp] theorem State.updDlv_cores (s : State) (f : DlvSt → DlvSt) : (s.updDlv f).cores = s.cores := rfl
@[simp] theorem State.updDlv_nst (s : State) (f : DlvSt → DlvSt) : (s.updDlv f).nst = s.nst := rfl
@[simp] theorem State.updDlv_dir (s : State) (f : DlvSt → DlvSt) : (s.updDlv f).dir = s.dir := rfl
@[simp] theorem State.updDlv_boot (s : State) (f : DlvSt → DlvSt) : (s.updDlv f).boot = s.boot := rfl
@[simp] theorem State.updDlv_sto (s : State) (f : DlvSt → DlvSt) : (s.updDlv f).sto = s.sto := rfl
@[simp] theorem State.updDlv_eng (s : State) (f : DlvSt → DlvSt) : (s.updDlv f).eng = s.eng := rfl
@[simp] theorem State.updDlv_engL (s : State) (f : DlvSt → DlvSt) : (s.updDlv f).engL = s.engL := rfl
@[simp] theorem State.updDlv_engS (s : State) (f : DlvSt → DlvSt) : (s.updDlv f).engS = s.engS := rfl
@[simp] theorem State.updDlv_evL (s : State) (f : DlvSt → DlvSt) : (s.updDlv f).evL = s.evL := rfl
@[simp] theorem State.updDlv_evS (s : State) (f : DlvSt → DlvSt) : (s.updDlv f).evS = s.evS := rfl
@[simp] theorem State.updDlv_cap (s : State) (f : DlvSt → DlvSt) : (s.updDlv f).cap = s.cap := rfl
@[simp] theorem State.updDlv_rbus (s : State) (f : DlvSt → DlvSt) : (s.updDlv f).rbus = s.rbus := rfl
@[simp] theorem State.updDlv_pir (s : State) (f : DlvSt → DlvSt) : (s.updDlv f).pir = s.pir := rfl
@[simp] theorem State.updDlv_tab (s : State) (f : DlvSt → DlvSt) : (s.updDlv f).tab = s.tab := rfl
@[simp] theorem State.updDlv_hostZm (s : State) (f : DlvSt → DlvSt) : (s.updDlv f).hostZm = s.hostZm := rfl
@[simp] theorem State.updDlv_stZ (s : State) (f : DlvSt → DlvSt) : (s.updDlv f).stZ = s.stZ := rfl
@[simp] theorem State.updDlv_loopPar (s : State) (f : DlvSt → DlvSt) : (s.updDlv f).loopPar = s.loopPar := rfl
@[simp] theorem State.updDlv_loopsL (s : State) (f : DlvSt → DlvSt) : (s.updDlv f).loopsL = s.loopsL := rfl
@[simp] theorem State.updDlv_loopsS (s : State) (f : DlvSt → DlvSt) : (s.updDlv f).loopsS = s.loopsS := rfl
@[simp] theorem State.updDlv_tmeCmd (s : State) (f : DlvSt → DlvSt) : (s.updDlv f).tmeCmd = s.tmeCmd := rfl
@[simp] theorem State.updDlv_net (s : State) (f : DlvSt → DlvSt) : (s.updDlv f).net = s.net := rfl
@[simp] theorem State.updDlv_fanIo (s : State) (f : DlvSt → DlvSt) : (s.updDlv f).fanIo = s.fanIo := rfl
@[simp] theorem State.updDlv_key (s : State) (f : DlvSt → DlvSt) : (s.updDlv f).key = s.key := rfl
@[simp] theorem State.updDlv_epd (s : State) (f : DlvSt → DlvSt) : (s.updDlv f).epd = s.epd := rfl
@[simp] theorem State.updDlv_pwr (s : State) (f : DlvSt → DlvSt) : (s.updDlv f).pwr = s.pwr := rfl
@[simp] theorem State.updDlv_clk (s : State) (f : DlvSt → DlvSt) : (s.updDlv f).clk = s.clk := rfl
@[simp] theorem State.updDlv_uid (s : State) (f : DlvSt → DlvSt) : (s.updDlv f).uid = s.uid := rfl
@[simp] theorem State.updDlv_lev (s : State) (f : DlvSt → DlvSt) : (s.updDlv f).lev = s.lev := rfl
@[simp] theorem State.updDlv_fab (s : State) (f : DlvSt → DlvSt) : (s.updDlv f).fab = s.fab := rfl
@[simp] theorem State.updDlv_fresh (s : State) (f : DlvSt → DlvSt) : (s.updDlv f).fresh = s.fresh := rfl
@[simp] theorem State.updDlv_word (s : State) (f : DlvSt → DlvSt) (i' : Nat) : (s.updDlv f).word i' = s.word i' := rfl
@[simp] theorem State.updDlv_get (s : State) (f : DlvSt → DlvSt) (i' : Field) : (s.updDlv f).get i' = s.get i' := rfl
@[simp] theorem State.updDlv_bit (s : State) (f : DlvSt → DlvSt) (i' : Field) : (s.updDlv f).bit i' = s.bit i' := rfl
@[simp] theorem State.updDlv_geti (s : State) (f : DlvSt → DlvSt) (i' : Field) : (s.updDlv f).geti i' = s.geti i' := rfl
@[simp] theorem State.updDlv_inForce (s : State) (f : DlvSt → DlvSt) (i' : Nat) : (s.updDlv f).inForce i' = s.inForce i' := rfl
@[simp] theorem State.updDlv_eget (s : State) (f : DlvSt → DlvSt) (i' : Field) : (s.updDlv f).eget i' = s.eget i' := rfl
@[simp] theorem State.updDlv_ebit (s : State) (f : DlvSt → DlvSt) (i' : Field) : (s.updDlv f).ebit i' = s.ebit i' := rfl
@[simp] theorem State.updDlv_egeti (s : State) (f : DlvSt → DlvSt) (i' : Field) : (s.updDlv f).egeti i' = s.egeti i' := rfl
@[simp] theorem State.updDlv_chan (s : State) (f : DlvSt → DlvSt) (i' : Nat) : (s.updDlv f).chan i' = s.chan i' := rfl
@[simp] theorem State.updDlv_level (s : State) (f : DlvSt → DlvSt) (i' : Nat) (j' : Nat) : (s.updDlv f).level i' j' = s.level i' j' := rfl
@[simp] theorem State.updDlv_visVal (s : State) (f : DlvSt → DlvSt) (i' : Nat) : (s.updDlv f).visVal i' = s.visVal i' := rfl
@[simp] theorem State.updDlv_core (s : State) (f : DlvSt → DlvSt) (i' : Nat) : (s.updDlv f).core i' = s.core i' := rfl
@[simp] theorem State.updDlv_en (s : State) (f : DlvSt → DlvSt) (i' : Nat) : (s.updDlv f).en i' = s.en i' := rfl
@[simp] theorem State.updDlv_enAck (s : State) (f : DlvSt → DlvSt) (i' : Nat) : (s.updDlv f).enAck i' = s.enAck i' := rfl
@[simp] theorem State.updDlv_coreOff (s : State) (f : DlvSt → DlvSt) : (s.updDlv f).coreOff = s.coreOff := rfl
@[simp] theorem State.updDlv_authRequired (s : State) (f : DlvSt → DlvSt) : (s.updDlv f).authRequired = s.authRequired := rfl
@[simp] theorem State.updDlv_lathPeriod (s : State) (f : DlvSt → DlvSt) : (s.updDlv f).lathPeriod = s.lathPeriod := rfl
@[simp] theorem State.updDlv_peatEnt (s : State) (f : DlvSt → DlvSt) (i' : Nat) : (s.updDlv f).peatEnt i' = s.peatEnt i' := rfl
@[simp] theorem State.updDlv_fanSt (s : State) (f : DlvSt → DlvSt) (i' : Nat) : (s.updDlv f).fanSt i' = s.fanSt i' := rfl
@[simp] theorem State.updDlv_tmeSt (s : State) (f : DlvSt → DlvSt) (i' : Nat) : (s.updDlv f).tmeSt i' = s.tmeSt i' := rfl
@[simp] theorem State.updDlv_loopSt (s : State) (f : DlvSt → DlvSt) (i' : Nat) : (s.updDlv f).loopSt i' = s.loopSt i' := rfl

/-! `setRport` -/
@[simp] theorem State.setRport_pending (s : State) (p : Nat) (x : RbPort) : (s.setRport p x).pending = s.pending := rfl
@[simp] theorem State.setRport_now (s : State) (p : Nat) (x : RbPort) : (s.setRport p x).now = s.now := rfl
@[simp] theorem State.setRport_regs (s : State) (p : Nat) (x : RbPort) : (s.setRport p x).regs = s.regs := rfl
@[simp] theorem State.setRport_held (s : State) (p : Nat) (x : RbPort) : (s.setRport p x).held = s.held := rfl
@[simp] theorem State.setRport_frozen (s : State) (p : Nat) (x : RbPort) : (s.setRport p x).frozen = s.frozen := rfl
@[simp] theorem State.setRport_softRst (s : State) (p : Nat) (x : RbPort) : (s.setRport p x).softRst = s.softRst := rfl
@[simp] theorem State.setRport_port (s : State) (p : Nat) (x : RbPort) : (s.setRport p x).port = s.port := rfl
@[simp] theorem State.setRport_lath (s : State) (p : Nat) (x : RbPort) : (s.setRport p x).lath = s.lath := rfl
@[simp] theorem State.setRport_uch (s : State) (p : Nat) (x : RbPort) : (s.setRport p x).uch = s.uch := rfl
@[simp] theorem State.setRport_lv (s : State) (p : Nat) (x : RbPort) : (s.setRport p x).lv = s.lv := rfl
@[simp] theorem State.setRport_l0 (s : State) (p : Nat) (x : RbPort) : (s.setRport p x).l0 = s.l0 := rfl
@[simp] theorem State.setRport_stL (s : State) (p : Nat) (x : RbPort) : (s.setRport p x).stL = s.stL := rfl
@[simp] theorem State.setRport_stS (s : State) (p : Nat) (x : RbPort) : (s.setRport p x).stS = s.stS := rfl
@[simp] theorem State.setRport_hostLv (s : State) (p : Nat) (x : RbPort) : (s.setRport p x).hostLv = s.hostLv := rfl
@[simp] theorem State.setRport_vis (s : State) (p : Nat) (x : RbPort) : (s.setRport p x).vis = s.vis := rfl
@[simp] theorem State.setRport_img (s : State) (p : Nat) (x : RbPort) : (s.setRport p x).img = s.img := rfl
@[simp] theorem State.setRport_lwork (s : State) (p : Nat) (x : RbPort) : (s.setRport p x).lwork = s.lwork := rfl
@[simp] theorem State.setRport_swork (s : State) (p : Nat) (x : RbPort) : (s.setRport p x).swork = s.swork := rfl
@[simp] theorem State.setRport_flt (s : State) (p : Nat) (x : RbPort) : (s.setRport p x).flt = s.flt := rfl
@[simp] theorem State.setRport_cores (s : State) (p : Nat) (x : RbPort) : (s.setRport p x).cores = s.cores := rfl
@[simp] theorem State.setRport_nst (s : State) (p : Nat) (x : RbPort) : (s.setRport p x).nst = s.nst := rfl
@[simp] theorem State.setRport_dir (s : State) (p : Nat) (x : RbPort) : (s.setRport p x).dir = s.dir := rfl
@[simp] theorem State.setRport_boot (s : State) (p : Nat) (x : RbPort) : (s.setRport p x).boot = s.boot := rfl
@[simp] theorem State.setRport_sto (s : State) (p : Nat) (x : RbPort) : (s.setRport p x).sto = s.sto := rfl
@[simp] theorem State.setRport_eng (s : State) (p : Nat) (x : RbPort) : (s.setRport p x).eng = s.eng := rfl
@[simp] theorem State.setRport_engL (s : State) (p : Nat) (x : RbPort) : (s.setRport p x).engL = s.engL := rfl
@[simp] theorem State.setRport_engS (s : State) (p : Nat) (x : RbPort) : (s.setRport p x).engS = s.engS := rfl
@[simp] theorem State.setRport_evL (s : State) (p : Nat) (x : RbPort) : (s.setRport p x).evL = s.evL := rfl
@[simp] theorem State.setRport_evS (s : State) (p : Nat) (x : RbPort) : (s.setRport p x).evS = s.evS := rfl
@[simp] theorem State.setRport_cap (s : State) (p : Nat) (x : RbPort) : (s.setRport p x).cap = s.cap := rfl
@[simp] theorem State.setRport_pir (s : State) (p : Nat) (x : RbPort) : (s.setRport p x).pir = s.pir := rfl
@[simp] theorem State.setRport_tab (s : State) (p : Nat) (x : RbPort) : (s.setRport p x).tab = s.tab := rfl
@[simp] theorem State.setRport_hostZm (s : State) (p : Nat) (x : RbPort) : (s.setRport p x).hostZm = s.hostZm := rfl
@[simp] theorem State.setRport_stZ (s : State) (p : Nat) (x : RbPort) : (s.setRport p x).stZ = s.stZ := rfl
@[simp] theorem State.setRport_loopPar (s : State) (p : Nat) (x : RbPort) : (s.setRport p x).loopPar = s.loopPar := rfl
@[simp] theorem State.setRport_loopsL (s : State) (p : Nat) (x : RbPort) : (s.setRport p x).loopsL = s.loopsL := rfl
@[simp] theorem State.setRport_loopsS (s : State) (p : Nat) (x : RbPort) : (s.setRport p x).loopsS = s.loopsS := rfl
@[simp] theorem State.setRport_tmeCmd (s : State) (p : Nat) (x : RbPort) : (s.setRport p x).tmeCmd = s.tmeCmd := rfl
@[simp] theorem State.setRport_net (s : State) (p : Nat) (x : RbPort) : (s.setRport p x).net = s.net := rfl
@[simp] theorem State.setRport_fanIo (s : State) (p : Nat) (x : RbPort) : (s.setRport p x).fanIo = s.fanIo := rfl
@[simp] theorem State.setRport_key (s : State) (p : Nat) (x : RbPort) : (s.setRport p x).key = s.key := rfl
@[simp] theorem State.setRport_epd (s : State) (p : Nat) (x : RbPort) : (s.setRport p x).epd = s.epd := rfl
@[simp] theorem State.setRport_pwr (s : State) (p : Nat) (x : RbPort) : (s.setRport p x).pwr = s.pwr := rfl
@[simp] theorem State.setRport_clk (s : State) (p : Nat) (x : RbPort) : (s.setRport p x).clk = s.clk := rfl
@[simp] theorem State.setRport_uid (s : State) (p : Nat) (x : RbPort) : (s.setRport p x).uid = s.uid := rfl
@[simp] theorem State.setRport_lev (s : State) (p : Nat) (x : RbPort) : (s.setRport p x).lev = s.lev := rfl
@[simp] theorem State.setRport_fab (s : State) (p : Nat) (x : RbPort) : (s.setRport p x).fab = s.fab := rfl
@[simp] theorem State.setRport_dlv (s : State) (p : Nat) (x : RbPort) : (s.setRport p x).dlv = s.dlv := rfl
@[simp] theorem State.setRport_fresh (s : State) (p : Nat) (x : RbPort) : (s.setRport p x).fresh = s.fresh := rfl
@[simp] theorem State.setRport_word (s : State) (p : Nat) (x : RbPort) (i' : Nat) : (s.setRport p x).word i' = s.word i' := rfl
@[simp] theorem State.setRport_get (s : State) (p : Nat) (x : RbPort) (i' : Field) : (s.setRport p x).get i' = s.get i' := rfl
@[simp] theorem State.setRport_bit (s : State) (p : Nat) (x : RbPort) (i' : Field) : (s.setRport p x).bit i' = s.bit i' := rfl
@[simp] theorem State.setRport_geti (s : State) (p : Nat) (x : RbPort) (i' : Field) : (s.setRport p x).geti i' = s.geti i' := rfl
@[simp] theorem State.setRport_inForce (s : State) (p : Nat) (x : RbPort) (i' : Nat) : (s.setRport p x).inForce i' = s.inForce i' := rfl
@[simp] theorem State.setRport_eget (s : State) (p : Nat) (x : RbPort) (i' : Field) : (s.setRport p x).eget i' = s.eget i' := rfl
@[simp] theorem State.setRport_ebit (s : State) (p : Nat) (x : RbPort) (i' : Field) : (s.setRport p x).ebit i' = s.ebit i' := rfl
@[simp] theorem State.setRport_egeti (s : State) (p : Nat) (x : RbPort) (i' : Field) : (s.setRport p x).egeti i' = s.egeti i' := rfl
@[simp] theorem State.setRport_chan (s : State) (p : Nat) (x : RbPort) (i' : Nat) : (s.setRport p x).chan i' = s.chan i' := rfl
@[simp] theorem State.setRport_level (s : State) (p : Nat) (x : RbPort) (i' : Nat) (j' : Nat) : (s.setRport p x).level i' j' = s.level i' j' := rfl
@[simp] theorem State.setRport_visVal (s : State) (p : Nat) (x : RbPort) (i' : Nat) : (s.setRport p x).visVal i' = s.visVal i' := rfl
@[simp] theorem State.setRport_core (s : State) (p : Nat) (x : RbPort) (i' : Nat) : (s.setRport p x).core i' = s.core i' := rfl
@[simp] theorem State.setRport_en (s : State) (p : Nat) (x : RbPort) (i' : Nat) : (s.setRport p x).en i' = s.en i' := rfl
@[simp] theorem State.setRport_enAck (s : State) (p : Nat) (x : RbPort) (i' : Nat) : (s.setRport p x).enAck i' = s.enAck i' := rfl
@[simp] theorem State.setRport_coreOff (s : State) (p : Nat) (x : RbPort) : (s.setRport p x).coreOff = s.coreOff := rfl
@[simp] theorem State.setRport_authRequired (s : State) (p : Nat) (x : RbPort) : (s.setRport p x).authRequired = s.authRequired := rfl
@[simp] theorem State.setRport_lathPeriod (s : State) (p : Nat) (x : RbPort) : (s.setRport p x).lathPeriod = s.lathPeriod := rfl
@[simp] theorem State.setRport_peatEnt (s : State) (p : Nat) (x : RbPort) (i' : Nat) : (s.setRport p x).peatEnt i' = s.peatEnt i' := rfl
@[simp] theorem State.setRport_fanSt (s : State) (p : Nat) (x : RbPort) (i' : Nat) : (s.setRport p x).fanSt i' = s.fanSt i' := rfl
@[simp] theorem State.setRport_tmeSt (s : State) (p : Nat) (x : RbPort) (i' : Nat) : (s.setRport p x).tmeSt i' = s.tmeSt i' := rfl
@[simp] theorem State.setRport_loopSt (s : State) (p : Nat) (x : RbPort) (i' : Nat) : (s.setRport p x).loopSt i' = s.loopSt i' := rfl

/-! `setFan` -/
@[simp] theorem State.setFan_pending (s : State) (g : Nat) (x : FanSt) : (s.setFan g x).pending = s.pending := rfl
@[simp] theorem State.setFan_now (s : State) (g : Nat) (x : FanSt) : (s.setFan g x).now = s.now := rfl
@[simp] theorem State.setFan_regs (s : State) (g : Nat) (x : FanSt) : (s.setFan g x).regs = s.regs := rfl
@[simp] theorem State.setFan_held (s : State) (g : Nat) (x : FanSt) : (s.setFan g x).held = s.held := rfl
@[simp] theorem State.setFan_frozen (s : State) (g : Nat) (x : FanSt) : (s.setFan g x).frozen = s.frozen := rfl
@[simp] theorem State.setFan_softRst (s : State) (g : Nat) (x : FanSt) : (s.setFan g x).softRst = s.softRst := rfl
@[simp] theorem State.setFan_port (s : State) (g : Nat) (x : FanSt) : (s.setFan g x).port = s.port := rfl
@[simp] theorem State.setFan_lath (s : State) (g : Nat) (x : FanSt) : (s.setFan g x).lath = s.lath := rfl
@[simp] theorem State.setFan_uch (s : State) (g : Nat) (x : FanSt) : (s.setFan g x).uch = s.uch := rfl
@[simp] theorem State.setFan_lv (s : State) (g : Nat) (x : FanSt) : (s.setFan g x).lv = s.lv := rfl
@[simp] theorem State.setFan_l0 (s : State) (g : Nat) (x : FanSt) : (s.setFan g x).l0 = s.l0 := rfl
@[simp] theorem State.setFan_stL (s : State) (g : Nat) (x : FanSt) : (s.setFan g x).stL = s.stL := rfl
@[simp] theorem State.setFan_stS (s : State) (g : Nat) (x : FanSt) : (s.setFan g x).stS = s.stS := rfl
@[simp] theorem State.setFan_hostLv (s : State) (g : Nat) (x : FanSt) : (s.setFan g x).hostLv = s.hostLv := rfl
@[simp] theorem State.setFan_vis (s : State) (g : Nat) (x : FanSt) : (s.setFan g x).vis = s.vis := rfl
@[simp] theorem State.setFan_img (s : State) (g : Nat) (x : FanSt) : (s.setFan g x).img = s.img := rfl
@[simp] theorem State.setFan_lwork (s : State) (g : Nat) (x : FanSt) : (s.setFan g x).lwork = s.lwork := rfl
@[simp] theorem State.setFan_swork (s : State) (g : Nat) (x : FanSt) : (s.setFan g x).swork = s.swork := rfl
@[simp] theorem State.setFan_flt (s : State) (g : Nat) (x : FanSt) : (s.setFan g x).flt = s.flt := rfl
@[simp] theorem State.setFan_cores (s : State) (g : Nat) (x : FanSt) : (s.setFan g x).cores = s.cores := rfl
@[simp] theorem State.setFan_nst (s : State) (g : Nat) (x : FanSt) : (s.setFan g x).nst = s.nst := rfl
@[simp] theorem State.setFan_dir (s : State) (g : Nat) (x : FanSt) : (s.setFan g x).dir = s.dir := rfl
@[simp] theorem State.setFan_boot (s : State) (g : Nat) (x : FanSt) : (s.setFan g x).boot = s.boot := rfl
@[simp] theorem State.setFan_sto (s : State) (g : Nat) (x : FanSt) : (s.setFan g x).sto = s.sto := rfl
@[simp] theorem State.setFan_engL (s : State) (g : Nat) (x : FanSt) : (s.setFan g x).engL = s.engL := rfl
@[simp] theorem State.setFan_engS (s : State) (g : Nat) (x : FanSt) : (s.setFan g x).engS = s.engS := rfl
@[simp] theorem State.setFan_evL (s : State) (g : Nat) (x : FanSt) : (s.setFan g x).evL = s.evL := rfl
@[simp] theorem State.setFan_evS (s : State) (g : Nat) (x : FanSt) : (s.setFan g x).evS = s.evS := rfl
@[simp] theorem State.setFan_cap (s : State) (g : Nat) (x : FanSt) : (s.setFan g x).cap = s.cap := rfl
@[simp] theorem State.setFan_rbus (s : State) (g : Nat) (x : FanSt) : (s.setFan g x).rbus = s.rbus := rfl
@[simp] theorem State.setFan_pir (s : State) (g : Nat) (x : FanSt) : (s.setFan g x).pir = s.pir := rfl
@[simp] theorem State.setFan_tab (s : State) (g : Nat) (x : FanSt) : (s.setFan g x).tab = s.tab := rfl
@[simp] theorem State.setFan_hostZm (s : State) (g : Nat) (x : FanSt) : (s.setFan g x).hostZm = s.hostZm := rfl
@[simp] theorem State.setFan_stZ (s : State) (g : Nat) (x : FanSt) : (s.setFan g x).stZ = s.stZ := rfl
@[simp] theorem State.setFan_loopPar (s : State) (g : Nat) (x : FanSt) : (s.setFan g x).loopPar = s.loopPar := rfl
@[simp] theorem State.setFan_loopsL (s : State) (g : Nat) (x : FanSt) : (s.setFan g x).loopsL = s.loopsL := rfl
@[simp] theorem State.setFan_loopsS (s : State) (g : Nat) (x : FanSt) : (s.setFan g x).loopsS = s.loopsS := rfl
@[simp] theorem State.setFan_tmeCmd (s : State) (g : Nat) (x : FanSt) : (s.setFan g x).tmeCmd = s.tmeCmd := rfl
@[simp] theorem State.setFan_net (s : State) (g : Nat) (x : FanSt) : (s.setFan g x).net = s.net := rfl
@[simp] theorem State.setFan_fanIo (s : State) (g : Nat) (x : FanSt) : (s.setFan g x).fanIo = s.fanIo := rfl
@[simp] theorem State.setFan_key (s : State) (g : Nat) (x : FanSt) : (s.setFan g x).key = s.key := rfl
@[simp] theorem State.setFan_epd (s : State) (g : Nat) (x : FanSt) : (s.setFan g x).epd = s.epd := rfl
@[simp] theorem State.setFan_pwr (s : State) (g : Nat) (x : FanSt) : (s.setFan g x).pwr = s.pwr := rfl
@[simp] theorem State.setFan_clk (s : State) (g : Nat) (x : FanSt) : (s.setFan g x).clk = s.clk := rfl
@[simp] theorem State.setFan_uid (s : State) (g : Nat) (x : FanSt) : (s.setFan g x).uid = s.uid := rfl
@[simp] theorem State.setFan_lev (s : State) (g : Nat) (x : FanSt) : (s.setFan g x).lev = s.lev := rfl
@[simp] theorem State.setFan_fab (s : State) (g : Nat) (x : FanSt) : (s.setFan g x).fab = s.fab := rfl
@[simp] theorem State.setFan_dlv (s : State) (g : Nat) (x : FanSt) : (s.setFan g x).dlv = s.dlv := rfl
@[simp] theorem State.setFan_fresh (s : State) (g : Nat) (x : FanSt) : (s.setFan g x).fresh = s.fresh := rfl
@[simp] theorem State.setFan_word (s : State) (g : Nat) (x : FanSt) (i' : Nat) : (s.setFan g x).word i' = s.word i' := rfl
@[simp] theorem State.setFan_get (s : State) (g : Nat) (x : FanSt) (i' : Field) : (s.setFan g x).get i' = s.get i' := rfl
@[simp] theorem State.setFan_bit (s : State) (g : Nat) (x : FanSt) (i' : Field) : (s.setFan g x).bit i' = s.bit i' := rfl
@[simp] theorem State.setFan_geti (s : State) (g : Nat) (x : FanSt) (i' : Field) : (s.setFan g x).geti i' = s.geti i' := rfl
@[simp] theorem State.setFan_inForce (s : State) (g : Nat) (x : FanSt) (i' : Nat) : (s.setFan g x).inForce i' = s.inForce i' := rfl
@[simp] theorem State.setFan_eget (s : State) (g : Nat) (x : FanSt) (i' : Field) : (s.setFan g x).eget i' = s.eget i' := rfl
@[simp] theorem State.setFan_ebit (s : State) (g : Nat) (x : FanSt) (i' : Field) : (s.setFan g x).ebit i' = s.ebit i' := rfl
@[simp] theorem State.setFan_egeti (s : State) (g : Nat) (x : FanSt) (i' : Field) : (s.setFan g x).egeti i' = s.egeti i' := rfl
@[simp] theorem State.setFan_chan (s : State) (g : Nat) (x : FanSt) (i' : Nat) : (s.setFan g x).chan i' = s.chan i' := rfl
@[simp] theorem State.setFan_level (s : State) (g : Nat) (x : FanSt) (i' : Nat) (j' : Nat) : (s.setFan g x).level i' j' = s.level i' j' := rfl
@[simp] theorem State.setFan_visVal (s : State) (g : Nat) (x : FanSt) (i' : Nat) : (s.setFan g x).visVal i' = s.visVal i' := rfl
@[simp] theorem State.setFan_core (s : State) (g : Nat) (x : FanSt) (i' : Nat) : (s.setFan g x).core i' = s.core i' := rfl
@[simp] theorem State.setFan_en (s : State) (g : Nat) (x : FanSt) (i' : Nat) : (s.setFan g x).en i' = s.en i' := rfl
@[simp] theorem State.setFan_enAck (s : State) (g : Nat) (x : FanSt) (i' : Nat) : (s.setFan g x).enAck i' = s.enAck i' := rfl
@[simp] theorem State.setFan_coreOff (s : State) (g : Nat) (x : FanSt) : (s.setFan g x).coreOff = s.coreOff := rfl
@[simp] theorem State.setFan_authRequired (s : State) (g : Nat) (x : FanSt) : (s.setFan g x).authRequired = s.authRequired := rfl
@[simp] theorem State.setFan_lathPeriod (s : State) (g : Nat) (x : FanSt) : (s.setFan g x).lathPeriod = s.lathPeriod := rfl
@[simp] theorem State.setFan_peatEnt (s : State) (g : Nat) (x : FanSt) (i' : Nat) : (s.setFan g x).peatEnt i' = s.peatEnt i' := rfl

/-! `setTme` -/
@[simp] theorem State.setTme_pending (s : State) (z : Nat) (x : TmeSt) : (s.setTme z x).pending = s.pending := rfl
@[simp] theorem State.setTme_now (s : State) (z : Nat) (x : TmeSt) : (s.setTme z x).now = s.now := rfl
@[simp] theorem State.setTme_regs (s : State) (z : Nat) (x : TmeSt) : (s.setTme z x).regs = s.regs := rfl
@[simp] theorem State.setTme_held (s : State) (z : Nat) (x : TmeSt) : (s.setTme z x).held = s.held := rfl
@[simp] theorem State.setTme_frozen (s : State) (z : Nat) (x : TmeSt) : (s.setTme z x).frozen = s.frozen := rfl
@[simp] theorem State.setTme_softRst (s : State) (z : Nat) (x : TmeSt) : (s.setTme z x).softRst = s.softRst := rfl
@[simp] theorem State.setTme_port (s : State) (z : Nat) (x : TmeSt) : (s.setTme z x).port = s.port := rfl
@[simp] theorem State.setTme_lath (s : State) (z : Nat) (x : TmeSt) : (s.setTme z x).lath = s.lath := rfl
@[simp] theorem State.setTme_uch (s : State) (z : Nat) (x : TmeSt) : (s.setTme z x).uch = s.uch := rfl
@[simp] theorem State.setTme_lv (s : State) (z : Nat) (x : TmeSt) : (s.setTme z x).lv = s.lv := rfl
@[simp] theorem State.setTme_l0 (s : State) (z : Nat) (x : TmeSt) : (s.setTme z x).l0 = s.l0 := rfl
@[simp] theorem State.setTme_stL (s : State) (z : Nat) (x : TmeSt) : (s.setTme z x).stL = s.stL := rfl
@[simp] theorem State.setTme_stS (s : State) (z : Nat) (x : TmeSt) : (s.setTme z x).stS = s.stS := rfl
@[simp] theorem State.setTme_hostLv (s : State) (z : Nat) (x : TmeSt) : (s.setTme z x).hostLv = s.hostLv := rfl
@[simp] theorem State.setTme_vis (s : State) (z : Nat) (x : TmeSt) : (s.setTme z x).vis = s.vis := rfl
@[simp] theorem State.setTme_img (s : State) (z : Nat) (x : TmeSt) : (s.setTme z x).img = s.img := rfl
@[simp] theorem State.setTme_lwork (s : State) (z : Nat) (x : TmeSt) : (s.setTme z x).lwork = s.lwork := rfl
@[simp] theorem State.setTme_swork (s : State) (z : Nat) (x : TmeSt) : (s.setTme z x).swork = s.swork := rfl
@[simp] theorem State.setTme_flt (s : State) (z : Nat) (x : TmeSt) : (s.setTme z x).flt = s.flt := rfl
@[simp] theorem State.setTme_cores (s : State) (z : Nat) (x : TmeSt) : (s.setTme z x).cores = s.cores := rfl
@[simp] theorem State.setTme_nst (s : State) (z : Nat) (x : TmeSt) : (s.setTme z x).nst = s.nst := rfl
@[simp] theorem State.setTme_dir (s : State) (z : Nat) (x : TmeSt) : (s.setTme z x).dir = s.dir := rfl
@[simp] theorem State.setTme_boot (s : State) (z : Nat) (x : TmeSt) : (s.setTme z x).boot = s.boot := rfl
@[simp] theorem State.setTme_sto (s : State) (z : Nat) (x : TmeSt) : (s.setTme z x).sto = s.sto := rfl
@[simp] theorem State.setTme_engL (s : State) (z : Nat) (x : TmeSt) : (s.setTme z x).engL = s.engL := rfl
@[simp] theorem State.setTme_engS (s : State) (z : Nat) (x : TmeSt) : (s.setTme z x).engS = s.engS := rfl
@[simp] theorem State.setTme_evL (s : State) (z : Nat) (x : TmeSt) : (s.setTme z x).evL = s.evL := rfl
@[simp] theorem State.setTme_evS (s : State) (z : Nat) (x : TmeSt) : (s.setTme z x).evS = s.evS := rfl
@[simp] theorem State.setTme_cap (s : State) (z : Nat) (x : TmeSt) : (s.setTme z x).cap = s.cap := rfl
@[simp] theorem State.setTme_rbus (s : State) (z : Nat) (x : TmeSt) : (s.setTme z x).rbus = s.rbus := rfl
@[simp] theorem State.setTme_pir (s : State) (z : Nat) (x : TmeSt) : (s.setTme z x).pir = s.pir := rfl
@[simp] theorem State.setTme_tab (s : State) (z : Nat) (x : TmeSt) : (s.setTme z x).tab = s.tab := rfl
@[simp] theorem State.setTme_hostZm (s : State) (z : Nat) (x : TmeSt) : (s.setTme z x).hostZm = s.hostZm := rfl
@[simp] theorem State.setTme_stZ (s : State) (z : Nat) (x : TmeSt) : (s.setTme z x).stZ = s.stZ := rfl
@[simp] theorem State.setTme_loopPar (s : State) (z : Nat) (x : TmeSt) : (s.setTme z x).loopPar = s.loopPar := rfl
@[simp] theorem State.setTme_loopsL (s : State) (z : Nat) (x : TmeSt) : (s.setTme z x).loopsL = s.loopsL := rfl
@[simp] theorem State.setTme_loopsS (s : State) (z : Nat) (x : TmeSt) : (s.setTme z x).loopsS = s.loopsS := rfl
@[simp] theorem State.setTme_tmeCmd (s : State) (z : Nat) (x : TmeSt) : (s.setTme z x).tmeCmd = s.tmeCmd := rfl
@[simp] theorem State.setTme_net (s : State) (z : Nat) (x : TmeSt) : (s.setTme z x).net = s.net := rfl
@[simp] theorem State.setTme_fanIo (s : State) (z : Nat) (x : TmeSt) : (s.setTme z x).fanIo = s.fanIo := rfl
@[simp] theorem State.setTme_key (s : State) (z : Nat) (x : TmeSt) : (s.setTme z x).key = s.key := rfl
@[simp] theorem State.setTme_epd (s : State) (z : Nat) (x : TmeSt) : (s.setTme z x).epd = s.epd := rfl
@[simp] theorem State.setTme_pwr (s : State) (z : Nat) (x : TmeSt) : (s.setTme z x).pwr = s.pwr := rfl
@[simp] theorem State.setTme_clk (s : State) (z : Nat) (x : TmeSt) : (s.setTme z x).clk = s.clk := rfl
@[simp] theorem State.setTme_uid (s : State) (z : Nat) (x : TmeSt) : (s.setTme z x).uid = s.uid := rfl
@[simp] theorem State.setTme_lev (s : State) (z : Nat) (x : TmeSt) : (s.setTme z x).lev = s.lev := rfl
@[simp] theorem State.setTme_fab (s : State) (z : Nat) (x : TmeSt) : (s.setTme z x).fab = s.fab := rfl
@[simp] theorem State.setTme_dlv (s : State) (z : Nat) (x : TmeSt) : (s.setTme z x).dlv = s.dlv := rfl
@[simp] theorem State.setTme_fresh (s : State) (z : Nat) (x : TmeSt) : (s.setTme z x).fresh = s.fresh := rfl
@[simp] theorem State.setTme_word (s : State) (z : Nat) (x : TmeSt) (i' : Nat) : (s.setTme z x).word i' = s.word i' := rfl
@[simp] theorem State.setTme_get (s : State) (z : Nat) (x : TmeSt) (i' : Field) : (s.setTme z x).get i' = s.get i' := rfl
@[simp] theorem State.setTme_bit (s : State) (z : Nat) (x : TmeSt) (i' : Field) : (s.setTme z x).bit i' = s.bit i' := rfl
@[simp] theorem State.setTme_geti (s : State) (z : Nat) (x : TmeSt) (i' : Field) : (s.setTme z x).geti i' = s.geti i' := rfl
@[simp] theorem State.setTme_inForce (s : State) (z : Nat) (x : TmeSt) (i' : Nat) : (s.setTme z x).inForce i' = s.inForce i' := rfl
@[simp] theorem State.setTme_eget (s : State) (z : Nat) (x : TmeSt) (i' : Field) : (s.setTme z x).eget i' = s.eget i' := rfl
@[simp] theorem State.setTme_ebit (s : State) (z : Nat) (x : TmeSt) (i' : Field) : (s.setTme z x).ebit i' = s.ebit i' := rfl
@[simp] theorem State.setTme_egeti (s : State) (z : Nat) (x : TmeSt) (i' : Field) : (s.setTme z x).egeti i' = s.egeti i' := rfl
@[simp] theorem State.setTme_chan (s : State) (z : Nat) (x : TmeSt) (i' : Nat) : (s.setTme z x).chan i' = s.chan i' := rfl
@[simp] theorem State.setTme_level (s : State) (z : Nat) (x : TmeSt) (i' : Nat) (j' : Nat) : (s.setTme z x).level i' j' = s.level i' j' := rfl
@[simp] theorem State.setTme_visVal (s : State) (z : Nat) (x : TmeSt) (i' : Nat) : (s.setTme z x).visVal i' = s.visVal i' := rfl
@[simp] theorem State.setTme_core (s : State) (z : Nat) (x : TmeSt) (i' : Nat) : (s.setTme z x).core i' = s.core i' := rfl
@[simp] theorem State.setTme_en (s : State) (z : Nat) (x : TmeSt) (i' : Nat) : (s.setTme z x).en i' = s.en i' := rfl
@[simp] theorem State.setTme_enAck (s : State) (z : Nat) (x : TmeSt) (i' : Nat) : (s.setTme z x).enAck i' = s.enAck i' := rfl
@[simp] theorem State.setTme_coreOff (s : State) (z : Nat) (x : TmeSt) : (s.setTme z x).coreOff = s.coreOff := rfl
@[simp] theorem State.setTme_authRequired (s : State) (z : Nat) (x : TmeSt) : (s.setTme z x).authRequired = s.authRequired := rfl
@[simp] theorem State.setTme_lathPeriod (s : State) (z : Nat) (x : TmeSt) : (s.setTme z x).lathPeriod = s.lathPeriod := rfl
@[simp] theorem State.setTme_peatEnt (s : State) (z : Nat) (x : TmeSt) (i' : Nat) : (s.setTme z x).peatEnt i' = s.peatEnt i' := rfl

/-! `setLoop` -/
@[simp] theorem State.setLoop_pending (s : State) (k : Nat) (x : LoopSt) : (s.setLoop k x).pending = s.pending := rfl
@[simp] theorem State.setLoop_now (s : State) (k : Nat) (x : LoopSt) : (s.setLoop k x).now = s.now := rfl
@[simp] theorem State.setLoop_regs (s : State) (k : Nat) (x : LoopSt) : (s.setLoop k x).regs = s.regs := rfl
@[simp] theorem State.setLoop_held (s : State) (k : Nat) (x : LoopSt) : (s.setLoop k x).held = s.held := rfl
@[simp] theorem State.setLoop_frozen (s : State) (k : Nat) (x : LoopSt) : (s.setLoop k x).frozen = s.frozen := rfl
@[simp] theorem State.setLoop_softRst (s : State) (k : Nat) (x : LoopSt) : (s.setLoop k x).softRst = s.softRst := rfl
@[simp] theorem State.setLoop_port (s : State) (k : Nat) (x : LoopSt) : (s.setLoop k x).port = s.port := rfl
@[simp] theorem State.setLoop_lath (s : State) (k : Nat) (x : LoopSt) : (s.setLoop k x).lath = s.lath := rfl
@[simp] theorem State.setLoop_uch (s : State) (k : Nat) (x : LoopSt) : (s.setLoop k x).uch = s.uch := rfl
@[simp] theorem State.setLoop_lv (s : State) (k : Nat) (x : LoopSt) : (s.setLoop k x).lv = s.lv := rfl
@[simp] theorem State.setLoop_l0 (s : State) (k : Nat) (x : LoopSt) : (s.setLoop k x).l0 = s.l0 := rfl
@[simp] theorem State.setLoop_stL (s : State) (k : Nat) (x : LoopSt) : (s.setLoop k x).stL = s.stL := rfl
@[simp] theorem State.setLoop_stS (s : State) (k : Nat) (x : LoopSt) : (s.setLoop k x).stS = s.stS := rfl
@[simp] theorem State.setLoop_hostLv (s : State) (k : Nat) (x : LoopSt) : (s.setLoop k x).hostLv = s.hostLv := rfl
@[simp] theorem State.setLoop_vis (s : State) (k : Nat) (x : LoopSt) : (s.setLoop k x).vis = s.vis := rfl
@[simp] theorem State.setLoop_img (s : State) (k : Nat) (x : LoopSt) : (s.setLoop k x).img = s.img := rfl
@[simp] theorem State.setLoop_lwork (s : State) (k : Nat) (x : LoopSt) : (s.setLoop k x).lwork = s.lwork := rfl
@[simp] theorem State.setLoop_swork (s : State) (k : Nat) (x : LoopSt) : (s.setLoop k x).swork = s.swork := rfl
@[simp] theorem State.setLoop_flt (s : State) (k : Nat) (x : LoopSt) : (s.setLoop k x).flt = s.flt := rfl
@[simp] theorem State.setLoop_cores (s : State) (k : Nat) (x : LoopSt) : (s.setLoop k x).cores = s.cores := rfl
@[simp] theorem State.setLoop_nst (s : State) (k : Nat) (x : LoopSt) : (s.setLoop k x).nst = s.nst := rfl
@[simp] theorem State.setLoop_dir (s : State) (k : Nat) (x : LoopSt) : (s.setLoop k x).dir = s.dir := rfl
@[simp] theorem State.setLoop_boot (s : State) (k : Nat) (x : LoopSt) : (s.setLoop k x).boot = s.boot := rfl
@[simp] theorem State.setLoop_sto (s : State) (k : Nat) (x : LoopSt) : (s.setLoop k x).sto = s.sto := rfl
@[simp] theorem State.setLoop_engL (s : State) (k : Nat) (x : LoopSt) : (s.setLoop k x).engL = s.engL := rfl
@[simp] theorem State.setLoop_engS (s : State) (k : Nat) (x : LoopSt) : (s.setLoop k x).engS = s.engS := rfl
@[simp] theorem State.setLoop_evL (s : State) (k : Nat) (x : LoopSt) : (s.setLoop k x).evL = s.evL := rfl
@[simp] theorem State.setLoop_evS (s : State) (k : Nat) (x : LoopSt) : (s.setLoop k x).evS = s.evS := rfl
@[simp] theorem State.setLoop_cap (s : State) (k : Nat) (x : LoopSt) : (s.setLoop k x).cap = s.cap := rfl
@[simp] theorem State.setLoop_rbus (s : State) (k : Nat) (x : LoopSt) : (s.setLoop k x).rbus = s.rbus := rfl
@[simp] theorem State.setLoop_pir (s : State) (k : Nat) (x : LoopSt) : (s.setLoop k x).pir = s.pir := rfl
@[simp] theorem State.setLoop_tab (s : State) (k : Nat) (x : LoopSt) : (s.setLoop k x).tab = s.tab := rfl
@[simp] theorem State.setLoop_hostZm (s : State) (k : Nat) (x : LoopSt) : (s.setLoop k x).hostZm = s.hostZm := rfl
@[simp] theorem State.setLoop_stZ (s : State) (k : Nat) (x : LoopSt) : (s.setLoop k x).stZ = s.stZ := rfl
@[simp] theorem State.setLoop_loopPar (s : State) (k : Nat) (x : LoopSt) : (s.setLoop k x).loopPar = s.loopPar := rfl
@[simp] theorem State.setLoop_loopsL (s : State) (k : Nat) (x : LoopSt) : (s.setLoop k x).loopsL = s.loopsL := rfl
@[simp] theorem State.setLoop_loopsS (s : State) (k : Nat) (x : LoopSt) : (s.setLoop k x).loopsS = s.loopsS := rfl
@[simp] theorem State.setLoop_tmeCmd (s : State) (k : Nat) (x : LoopSt) : (s.setLoop k x).tmeCmd = s.tmeCmd := rfl
@[simp] theorem State.setLoop_net (s : State) (k : Nat) (x : LoopSt) : (s.setLoop k x).net = s.net := rfl
@[simp] theorem State.setLoop_fanIo (s : State) (k : Nat) (x : LoopSt) : (s.setLoop k x).fanIo = s.fanIo := rfl
@[simp] theorem State.setLoop_key (s : State) (k : Nat) (x : LoopSt) : (s.setLoop k x).key = s.key := rfl
@[simp] theorem State.setLoop_epd (s : State) (k : Nat) (x : LoopSt) : (s.setLoop k x).epd = s.epd := rfl
@[simp] theorem State.setLoop_pwr (s : State) (k : Nat) (x : LoopSt) : (s.setLoop k x).pwr = s.pwr := rfl
@[simp] theorem State.setLoop_clk (s : State) (k : Nat) (x : LoopSt) : (s.setLoop k x).clk = s.clk := rfl
@[simp] theorem State.setLoop_uid (s : State) (k : Nat) (x : LoopSt) : (s.setLoop k x).uid = s.uid := rfl
@[simp] theorem State.setLoop_lev (s : State) (k : Nat) (x : LoopSt) : (s.setLoop k x).lev = s.lev := rfl
@[simp] theorem State.setLoop_fab (s : State) (k : Nat) (x : LoopSt) : (s.setLoop k x).fab = s.fab := rfl
@[simp] theorem State.setLoop_dlv (s : State) (k : Nat) (x : LoopSt) : (s.setLoop k x).dlv = s.dlv := rfl
@[simp] theorem State.setLoop_fresh (s : State) (k : Nat) (x : LoopSt) : (s.setLoop k x).fresh = s.fresh := rfl
@[simp] theorem State.setLoop_word (s : State) (k : Nat) (x : LoopSt) (i' : Nat) : (s.setLoop k x).word i' = s.word i' := rfl
@[simp] theorem State.setLoop_get (s : State) (k : Nat) (x : LoopSt) (i' : Field) : (s.setLoop k x).get i' = s.get i' := rfl
@[simp] theorem State.setLoop_bit (s : State) (k : Nat) (x : LoopSt) (i' : Field) : (s.setLoop k x).bit i' = s.bit i' := rfl
@[simp] theorem State.setLoop_geti (s : State) (k : Nat) (x : LoopSt) (i' : Field) : (s.setLoop k x).geti i' = s.geti i' := rfl
@[simp] theorem State.setLoop_inForce (s : State) (k : Nat) (x : LoopSt) (i' : Nat) : (s.setLoop k x).inForce i' = s.inForce i' := rfl
@[simp] theorem State.setLoop_eget (s : State) (k : Nat) (x : LoopSt) (i' : Field) : (s.setLoop k x).eget i' = s.eget i' := rfl
@[simp] theorem State.setLoop_ebit (s : State) (k : Nat) (x : LoopSt) (i' : Field) : (s.setLoop k x).ebit i' = s.ebit i' := rfl
@[simp] theorem State.setLoop_egeti (s : State) (k : Nat) (x : LoopSt) (i' : Field) : (s.setLoop k x).egeti i' = s.egeti i' := rfl
@[simp] theorem State.setLoop_chan (s : State) (k : Nat) (x : LoopSt) (i' : Nat) : (s.setLoop k x).chan i' = s.chan i' := rfl
@[simp] theorem State.setLoop_level (s : State) (k : Nat) (x : LoopSt) (i' : Nat) (j' : Nat) : (s.setLoop k x).level i' j' = s.level i' j' := rfl
@[simp] theorem State.setLoop_visVal (s : State) (k : Nat) (x : LoopSt) (i' : Nat) : (s.setLoop k x).visVal i' = s.visVal i' := rfl
@[simp] theorem State.setLoop_core (s : State) (k : Nat) (x : LoopSt) (i' : Nat) : (s.setLoop k x).core i' = s.core i' := rfl
@[simp] theorem State.setLoop_en (s : State) (k : Nat) (x : LoopSt) (i' : Nat) : (s.setLoop k x).en i' = s.en i' := rfl
@[simp] theorem State.setLoop_enAck (s : State) (k : Nat) (x : LoopSt) (i' : Nat) : (s.setLoop k x).enAck i' = s.enAck i' := rfl
@[simp] theorem State.setLoop_coreOff (s : State) (k : Nat) (x : LoopSt) : (s.setLoop k x).coreOff = s.coreOff := rfl
@[simp] theorem State.setLoop_authRequired (s : State) (k : Nat) (x : LoopSt) : (s.setLoop k x).authRequired = s.authRequired := rfl
@[simp] theorem State.setLoop_lathPeriod (s : State) (k : Nat) (x : LoopSt) : (s.setLoop k x).lathPeriod = s.lathPeriod := rfl
@[simp] theorem State.setLoop_peatEnt (s : State) (k : Nat) (x : LoopSt) (i' : Nat) : (s.setLoop k x).peatEnt i' = s.peatEnt i' := rfl

/-! `setBlk` -/
@[simp] theorem State.setBlk_pending (s : State) (i : Nat) (b : BlkSt) : (s.setBlk i b).pending = s.pending := rfl
@[simp] theorem State.setBlk_now (s : State) (i : Nat) (b : BlkSt) : (s.setBlk i b).now = s.now := rfl
@[simp] theorem State.setBlk_regs (s : State) (i : Nat) (b : BlkSt) : (s.setBlk i b).regs = s.regs := rfl
@[simp] theorem State.setBlk_held (s : State) (i : Nat) (b : BlkSt) : (s.setBlk i b).held = s.held := rfl
@[simp] theorem State.setBlk_frozen (s : State) (i : Nat) (b : BlkSt) : (s.setBlk i b).frozen = s.frozen := rfl
@[simp] theorem State.setBlk_softRst (s : State) (i : Nat) (b : BlkSt) : (s.setBlk i b).softRst = s.softRst := rfl
@[simp] theorem State.setBlk_port (s : State) (i : Nat) (b : BlkSt) : (s.setBlk i b).port = s.port := rfl
@[simp] theorem State.setBlk_lath (s : State) (i : Nat) (b : BlkSt) : (s.setBlk i b).lath = s.lath := rfl
@[simp] theorem State.setBlk_uch (s : State) (i : Nat) (b : BlkSt) : (s.setBlk i b).uch = s.uch := rfl
@[simp] theorem State.setBlk_lv (s : State) (i : Nat) (b : BlkSt) : (s.setBlk i b).lv = s.lv := rfl
@[simp] theorem State.setBlk_l0 (s : State) (i : Nat) (b : BlkSt) : (s.setBlk i b).l0 = s.l0 := rfl
@[simp] theorem State.setBlk_stL (s : State) (i : Nat) (b : BlkSt) : (s.setBlk i b).stL = s.stL := rfl
@[simp] theorem State.setBlk_stS (s : State) (i : Nat) (b : BlkSt) : (s.setBlk i b).stS = s.stS := rfl
@[simp] theorem State.setBlk_hostLv (s : State) (i : Nat) (b : BlkSt) : (s.setBlk i b).hostLv = s.hostLv := rfl
@[simp] theorem State.setBlk_vis (s : State) (i : Nat) (b : BlkSt) : (s.setBlk i b).vis = s.vis := rfl
@[simp] theorem State.setBlk_img (s : State) (i : Nat) (b : BlkSt) : (s.setBlk i b).img = s.img := rfl
@[simp] theorem State.setBlk_lwork (s : State) (i : Nat) (b : BlkSt) : (s.setBlk i b).lwork = s.lwork := rfl
@[simp] theorem State.setBlk_swork (s : State) (i : Nat) (b : BlkSt) : (s.setBlk i b).swork = s.swork := rfl
@[simp] theorem State.setBlk_flt (s : State) (i : Nat) (b : BlkSt) : (s.setBlk i b).flt = s.flt := rfl
@[simp] theorem State.setBlk_cores (s : State) (i : Nat) (b : BlkSt) : (s.setBlk i b).cores = s.cores := rfl
@[simp] theorem State.setBlk_nst (s : State) (i : Nat) (b : BlkSt) : (s.setBlk i b).nst = s.nst := rfl
@[simp] theorem State.setBlk_dir (s : State) (i : Nat) (b : BlkSt) : (s.setBlk i b).dir = s.dir := rfl
@[simp] theorem State.setBlk_boot (s : State) (i : Nat) (b : BlkSt) : (s.setBlk i b).boot = s.boot := rfl
@[simp] theorem State.setBlk_sto (s : State) (i : Nat) (b : BlkSt) : (s.setBlk i b).sto = s.sto := rfl
@[simp] theorem State.setBlk_engL (s : State) (i : Nat) (b : BlkSt) : (s.setBlk i b).engL = s.engL := rfl
@[simp] theorem State.setBlk_engS (s : State) (i : Nat) (b : BlkSt) : (s.setBlk i b).engS = s.engS := rfl
@[simp] theorem State.setBlk_evL (s : State) (i : Nat) (b : BlkSt) : (s.setBlk i b).evL = s.evL := rfl
@[simp] theorem State.setBlk_evS (s : State) (i : Nat) (b : BlkSt) : (s.setBlk i b).evS = s.evS := rfl
@[simp] theorem State.setBlk_cap (s : State) (i : Nat) (b : BlkSt) : (s.setBlk i b).cap = s.cap := rfl
@[simp] theorem State.setBlk_rbus (s : State) (i : Nat) (b : BlkSt) : (s.setBlk i b).rbus = s.rbus := rfl
@[simp] theorem State.setBlk_pir (s : State) (i : Nat) (b : BlkSt) : (s.setBlk i b).pir = s.pir := rfl
@[simp] theorem State.setBlk_tab (s : State) (i : Nat) (b : BlkSt) : (s.setBlk i b).tab = s.tab := rfl
@[simp] theorem State.setBlk_hostZm (s : State) (i : Nat) (b : BlkSt) : (s.setBlk i b).hostZm = s.hostZm := rfl
@[simp] theorem State.setBlk_stZ (s : State) (i : Nat) (b : BlkSt) : (s.setBlk i b).stZ = s.stZ := rfl
@[simp] theorem State.setBlk_loopPar (s : State) (i : Nat) (b : BlkSt) : (s.setBlk i b).loopPar = s.loopPar := rfl
@[simp] theorem State.setBlk_loopsL (s : State) (i : Nat) (b : BlkSt) : (s.setBlk i b).loopsL = s.loopsL := rfl
@[simp] theorem State.setBlk_loopsS (s : State) (i : Nat) (b : BlkSt) : (s.setBlk i b).loopsS = s.loopsS := rfl
@[simp] theorem State.setBlk_tmeCmd (s : State) (i : Nat) (b : BlkSt) : (s.setBlk i b).tmeCmd = s.tmeCmd := rfl
@[simp] theorem State.setBlk_net (s : State) (i : Nat) (b : BlkSt) : (s.setBlk i b).net = s.net := rfl
@[simp] theorem State.setBlk_fanIo (s : State) (i : Nat) (b : BlkSt) : (s.setBlk i b).fanIo = s.fanIo := rfl
@[simp] theorem State.setBlk_key (s : State) (i : Nat) (b : BlkSt) : (s.setBlk i b).key = s.key := rfl
@[simp] theorem State.setBlk_epd (s : State) (i : Nat) (b : BlkSt) : (s.setBlk i b).epd = s.epd := rfl
@[simp] theorem State.setBlk_pwr (s : State) (i : Nat) (b : BlkSt) : (s.setBlk i b).pwr = s.pwr := rfl
@[simp] theorem State.setBlk_clk (s : State) (i : Nat) (b : BlkSt) : (s.setBlk i b).clk = s.clk := rfl
@[simp] theorem State.setBlk_uid (s : State) (i : Nat) (b : BlkSt) : (s.setBlk i b).uid = s.uid := rfl
@[simp] theorem State.setBlk_lev (s : State) (i : Nat) (b : BlkSt) : (s.setBlk i b).lev = s.lev := rfl
@[simp] theorem State.setBlk_fab (s : State) (i : Nat) (b : BlkSt) : (s.setBlk i b).fab = s.fab := rfl
@[simp] theorem State.setBlk_dlv (s : State) (i : Nat) (b : BlkSt) : (s.setBlk i b).dlv = s.dlv := rfl
@[simp] theorem State.setBlk_fresh (s : State) (i : Nat) (b : BlkSt) : (s.setBlk i b).fresh = s.fresh := rfl
@[simp] theorem State.setBlk_word (s : State) (i : Nat) (b : BlkSt) (i' : Nat) : (s.setBlk i b).word i' = s.word i' := rfl
@[simp] theorem State.setBlk_get (s : State) (i : Nat) (b : BlkSt) (i' : Field) : (s.setBlk i b).get i' = s.get i' := rfl
@[simp] theorem State.setBlk_bit (s : State) (i : Nat) (b : BlkSt) (i' : Field) : (s.setBlk i b).bit i' = s.bit i' := rfl
@[simp] theorem State.setBlk_geti (s : State) (i : Nat) (b : BlkSt) (i' : Field) : (s.setBlk i b).geti i' = s.geti i' := rfl
@[simp] theorem State.setBlk_inForce (s : State) (i : Nat) (b : BlkSt) (i' : Nat) : (s.setBlk i b).inForce i' = s.inForce i' := rfl
@[simp] theorem State.setBlk_eget (s : State) (i : Nat) (b : BlkSt) (i' : Field) : (s.setBlk i b).eget i' = s.eget i' := rfl
@[simp] theorem State.setBlk_ebit (s : State) (i : Nat) (b : BlkSt) (i' : Field) : (s.setBlk i b).ebit i' = s.ebit i' := rfl
@[simp] theorem State.setBlk_egeti (s : State) (i : Nat) (b : BlkSt) (i' : Field) : (s.setBlk i b).egeti i' = s.egeti i' := rfl
@[simp] theorem State.setBlk_chan (s : State) (i : Nat) (b : BlkSt) (i' : Nat) : (s.setBlk i b).chan i' = s.chan i' := rfl
@[simp] theorem State.setBlk_level (s : State) (i : Nat) (b : BlkSt) (i' : Nat) (j' : Nat) : (s.setBlk i b).level i' j' = s.level i' j' := rfl
@[simp] theorem State.setBlk_visVal (s : State) (i : Nat) (b : BlkSt) (i' : Nat) : (s.setBlk i b).visVal i' = s.visVal i' := rfl
@[simp] theorem State.setBlk_core (s : State) (i : Nat) (b : BlkSt) (i' : Nat) : (s.setBlk i b).core i' = s.core i' := rfl
@[simp] theorem State.setBlk_en (s : State) (i : Nat) (b : BlkSt) (i' : Nat) : (s.setBlk i b).en i' = s.en i' := rfl
@[simp] theorem State.setBlk_enAck (s : State) (i : Nat) (b : BlkSt) (i' : Nat) : (s.setBlk i b).enAck i' = s.enAck i' := rfl
@[simp] theorem State.setBlk_coreOff (s : State) (i : Nat) (b : BlkSt) : (s.setBlk i b).coreOff = s.coreOff := rfl
@[simp] theorem State.setBlk_authRequired (s : State) (i : Nat) (b : BlkSt) : (s.setBlk i b).authRequired = s.authRequired := rfl
@[simp] theorem State.setBlk_lathPeriod (s : State) (i : Nat) (b : BlkSt) : (s.setBlk i b).lathPeriod = s.lathPeriod := rfl
@[simp] theorem State.setBlk_peatEnt (s : State) (i : Nat) (b : BlkSt) (i' : Nat) : (s.setBlk i b).peatEnt i' = s.peatEnt i' := rfl

/-! `setPresSt` -/
@[simp] theorem State.setPresSt_pending (s : State) (z : Nat) (x : PresSt) : (s.setPresSt z x).pending = s.pending := rfl
@[simp] theorem State.setPresSt_now (s : State) (z : Nat) (x : PresSt) : (s.setPresSt z x).now = s.now := rfl
@[simp] theorem State.setPresSt_regs (s : State) (z : Nat) (x : PresSt) : (s.setPresSt z x).regs = s.regs := rfl
@[simp] theorem State.setPresSt_held (s : State) (z : Nat) (x : PresSt) : (s.setPresSt z x).held = s.held := rfl
@[simp] theorem State.setPresSt_frozen (s : State) (z : Nat) (x : PresSt) : (s.setPresSt z x).frozen = s.frozen := rfl
@[simp] theorem State.setPresSt_softRst (s : State) (z : Nat) (x : PresSt) : (s.setPresSt z x).softRst = s.softRst := rfl
@[simp] theorem State.setPresSt_port (s : State) (z : Nat) (x : PresSt) : (s.setPresSt z x).port = s.port := rfl
@[simp] theorem State.setPresSt_lath (s : State) (z : Nat) (x : PresSt) : (s.setPresSt z x).lath = s.lath := rfl
@[simp] theorem State.setPresSt_uch (s : State) (z : Nat) (x : PresSt) : (s.setPresSt z x).uch = s.uch := rfl
@[simp] theorem State.setPresSt_lv (s : State) (z : Nat) (x : PresSt) : (s.setPresSt z x).lv = s.lv := rfl
@[simp] theorem State.setPresSt_l0 (s : State) (z : Nat) (x : PresSt) : (s.setPresSt z x).l0 = s.l0 := rfl
@[simp] theorem State.setPresSt_stL (s : State) (z : Nat) (x : PresSt) : (s.setPresSt z x).stL = s.stL := rfl
@[simp] theorem State.setPresSt_stS (s : State) (z : Nat) (x : PresSt) : (s.setPresSt z x).stS = s.stS := rfl
@[simp] theorem State.setPresSt_hostLv (s : State) (z : Nat) (x : PresSt) : (s.setPresSt z x).hostLv = s.hostLv := rfl
@[simp] theorem State.setPresSt_vis (s : State) (z : Nat) (x : PresSt) : (s.setPresSt z x).vis = s.vis := rfl
@[simp] theorem State.setPresSt_img (s : State) (z : Nat) (x : PresSt) : (s.setPresSt z x).img = s.img := rfl
@[simp] theorem State.setPresSt_lwork (s : State) (z : Nat) (x : PresSt) : (s.setPresSt z x).lwork = s.lwork := rfl
@[simp] theorem State.setPresSt_swork (s : State) (z : Nat) (x : PresSt) : (s.setPresSt z x).swork = s.swork := rfl
@[simp] theorem State.setPresSt_flt (s : State) (z : Nat) (x : PresSt) : (s.setPresSt z x).flt = s.flt := rfl
@[simp] theorem State.setPresSt_cores (s : State) (z : Nat) (x : PresSt) : (s.setPresSt z x).cores = s.cores := rfl
@[simp] theorem State.setPresSt_nst (s : State) (z : Nat) (x : PresSt) : (s.setPresSt z x).nst = s.nst := rfl
@[simp] theorem State.setPresSt_dir (s : State) (z : Nat) (x : PresSt) : (s.setPresSt z x).dir = s.dir := rfl
@[simp] theorem State.setPresSt_boot (s : State) (z : Nat) (x : PresSt) : (s.setPresSt z x).boot = s.boot := rfl
@[simp] theorem State.setPresSt_sto (s : State) (z : Nat) (x : PresSt) : (s.setPresSt z x).sto = s.sto := rfl
@[simp] theorem State.setPresSt_engL (s : State) (z : Nat) (x : PresSt) : (s.setPresSt z x).engL = s.engL := rfl
@[simp] theorem State.setPresSt_engS (s : State) (z : Nat) (x : PresSt) : (s.setPresSt z x).engS = s.engS := rfl
@[simp] theorem State.setPresSt_evL (s : State) (z : Nat) (x : PresSt) : (s.setPresSt z x).evL = s.evL := rfl
@[simp] theorem State.setPresSt_evS (s : State) (z : Nat) (x : PresSt) : (s.setPresSt z x).evS = s.evS := rfl
@[simp] theorem State.setPresSt_cap (s : State) (z : Nat) (x : PresSt) : (s.setPresSt z x).cap = s.cap := rfl
@[simp] theorem State.setPresSt_rbus (s : State) (z : Nat) (x : PresSt) : (s.setPresSt z x).rbus = s.rbus := rfl
@[simp] theorem State.setPresSt_pir (s : State) (z : Nat) (x : PresSt) : (s.setPresSt z x).pir = s.pir := rfl
@[simp] theorem State.setPresSt_tab (s : State) (z : Nat) (x : PresSt) : (s.setPresSt z x).tab = s.tab := rfl
@[simp] theorem State.setPresSt_hostZm (s : State) (z : Nat) (x : PresSt) : (s.setPresSt z x).hostZm = s.hostZm := rfl
@[simp] theorem State.setPresSt_stZ (s : State) (z : Nat) (x : PresSt) : (s.setPresSt z x).stZ = s.stZ := rfl
@[simp] theorem State.setPresSt_loopPar (s : State) (z : Nat) (x : PresSt) : (s.setPresSt z x).loopPar = s.loopPar := rfl
@[simp] theorem State.setPresSt_loopsL (s : State) (z : Nat) (x : PresSt) : (s.setPresSt z x).loopsL = s.loopsL := rfl
@[simp] theorem State.setPresSt_loopsS (s : State) (z : Nat) (x : PresSt) : (s.setPresSt z x).loopsS = s.loopsS := rfl
@[simp] theorem State.setPresSt_tmeCmd (s : State) (z : Nat) (x : PresSt) : (s.setPresSt z x).tmeCmd = s.tmeCmd := rfl
@[simp] theorem State.setPresSt_net (s : State) (z : Nat) (x : PresSt) : (s.setPresSt z x).net = s.net := rfl
@[simp] theorem State.setPresSt_fanIo (s : State) (z : Nat) (x : PresSt) : (s.setPresSt z x).fanIo = s.fanIo := rfl
@[simp] theorem State.setPresSt_key (s : State) (z : Nat) (x : PresSt) : (s.setPresSt z x).key = s.key := rfl
@[simp] theorem State.setPresSt_epd (s : State) (z : Nat) (x : PresSt) : (s.setPresSt z x).epd = s.epd := rfl
@[simp] theorem State.setPresSt_pwr (s : State) (z : Nat) (x : PresSt) : (s.setPresSt z x).pwr = s.pwr := rfl
@[simp] theorem State.setPresSt_clk (s : State) (z : Nat) (x : PresSt) : (s.setPresSt z x).clk = s.clk := rfl
@[simp] theorem State.setPresSt_uid (s : State) (z : Nat) (x : PresSt) : (s.setPresSt z x).uid = s.uid := rfl
@[simp] theorem State.setPresSt_lev (s : State) (z : Nat) (x : PresSt) : (s.setPresSt z x).lev = s.lev := rfl
@[simp] theorem State.setPresSt_fab (s : State) (z : Nat) (x : PresSt) : (s.setPresSt z x).fab = s.fab := rfl
@[simp] theorem State.setPresSt_dlv (s : State) (z : Nat) (x : PresSt) : (s.setPresSt z x).dlv = s.dlv := rfl
@[simp] theorem State.setPresSt_fresh (s : State) (z : Nat) (x : PresSt) : (s.setPresSt z x).fresh = s.fresh := rfl
@[simp] theorem State.setPresSt_word (s : State) (z : Nat) (x : PresSt) (i' : Nat) : (s.setPresSt z x).word i' = s.word i' := rfl
@[simp] theorem State.setPresSt_get (s : State) (z : Nat) (x : PresSt) (i' : Field) : (s.setPresSt z x).get i' = s.get i' := rfl
@[simp] theorem State.setPresSt_bit (s : State) (z : Nat) (x : PresSt) (i' : Field) : (s.setPresSt z x).bit i' = s.bit i' := rfl
@[simp] theorem State.setPresSt_geti (s : State) (z : Nat) (x : PresSt) (i' : Field) : (s.setPresSt z x).geti i' = s.geti i' := rfl
@[simp] theorem State.setPresSt_inForce (s : State) (z : Nat) (x : PresSt) (i' : Nat) : (s.setPresSt z x).inForce i' = s.inForce i' := rfl
@[simp] theorem State.setPresSt_eget (s : State) (z : Nat) (x : PresSt) (i' : Field) : (s.setPresSt z x).eget i' = s.eget i' := rfl
@[simp] theorem State.setPresSt_ebit (s : State) (z : Nat) (x : PresSt) (i' : Field) : (s.setPresSt z x).ebit i' = s.ebit i' := rfl
@[simp] theorem State.setPresSt_egeti (s : State) (z : Nat) (x : PresSt) (i' : Field) : (s.setPresSt z x).egeti i' = s.egeti i' := rfl
@[simp] theorem State.setPresSt_chan (s : State) (z : Nat) (x : PresSt) (i' : Nat) : (s.setPresSt z x).chan i' = s.chan i' := rfl
@[simp] theorem State.setPresSt_level (s : State) (z : Nat) (x : PresSt) (i' : Nat) (j' : Nat) : (s.setPresSt z x).level i' j' = s.level i' j' := rfl
@[simp] theorem State.setPresSt_visVal (s : State) (z : Nat) (x : PresSt) (i' : Nat) : (s.setPresSt z x).visVal i' = s.visVal i' := rfl
@[simp] theorem State.setPresSt_core (s : State) (z : Nat) (x : PresSt) (i' : Nat) : (s.setPresSt z x).core i' = s.core i' := rfl
@[simp] theorem State.setPresSt_en (s : State) (z : Nat) (x : PresSt) (i' : Nat) : (s.setPresSt z x).en i' = s.en i' := rfl
@[simp] theorem State.setPresSt_enAck (s : State) (z : Nat) (x : PresSt) (i' : Nat) : (s.setPresSt z x).enAck i' = s.enAck i' := rfl
@[simp] theorem State.setPresSt_coreOff (s : State) (z : Nat) (x : PresSt) : (s.setPresSt z x).coreOff = s.coreOff := rfl
@[simp] theorem State.setPresSt_authRequired (s : State) (z : Nat) (x : PresSt) : (s.setPresSt z x).authRequired = s.authRequired := rfl
@[simp] theorem State.setPresSt_lathPeriod (s : State) (z : Nat) (x : PresSt) : (s.setPresSt z x).lathPeriod = s.lathPeriod := rfl
@[simp] theorem State.setPresSt_peatEnt (s : State) (z : Nat) (x : PresSt) (i' : Nat) : (s.setPresSt z x).peatEnt i' = s.peatEnt i' := rfl

/-! `setSenseSt` -/
@[simp] theorem State.setSenseSt_pending (s : State) (n : Nat) (x : SenseSt) : (s.setSenseSt n x).pending = s.pending := rfl
@[simp] theorem State.setSenseSt_now (s : State) (n : Nat) (x : SenseSt) : (s.setSenseSt n x).now = s.now := rfl
@[simp] theorem State.setSenseSt_regs (s : State) (n : Nat) (x : SenseSt) : (s.setSenseSt n x).regs = s.regs := rfl
@[simp] theorem State.setSenseSt_held (s : State) (n : Nat) (x : SenseSt) : (s.setSenseSt n x).held = s.held := rfl
@[simp] theorem State.setSenseSt_frozen (s : State) (n : Nat) (x : SenseSt) : (s.setSenseSt n x).frozen = s.frozen := rfl
@[simp] theorem State.setSenseSt_softRst (s : State) (n : Nat) (x : SenseSt) : (s.setSenseSt n x).softRst = s.softRst := rfl
@[simp] theorem State.setSenseSt_port (s : State) (n : Nat) (x : SenseSt) : (s.setSenseSt n x).port = s.port := rfl
@[simp] theorem State.setSenseSt_lath (s : State) (n : Nat) (x : SenseSt) : (s.setSenseSt n x).lath = s.lath := rfl
@[simp] theorem State.setSenseSt_uch (s : State) (n : Nat) (x : SenseSt) : (s.setSenseSt n x).uch = s.uch := rfl
@[simp] theorem State.setSenseSt_lv (s : State) (n : Nat) (x : SenseSt) : (s.setSenseSt n x).lv = s.lv := rfl
@[simp] theorem State.setSenseSt_l0 (s : State) (n : Nat) (x : SenseSt) : (s.setSenseSt n x).l0 = s.l0 := rfl
@[simp] theorem State.setSenseSt_stL (s : State) (n : Nat) (x : SenseSt) : (s.setSenseSt n x).stL = s.stL := rfl
@[simp] theorem State.setSenseSt_stS (s : State) (n : Nat) (x : SenseSt) : (s.setSenseSt n x).stS = s.stS := rfl
@[simp] theorem State.setSenseSt_hostLv (s : State) (n : Nat) (x : SenseSt) : (s.setSenseSt n x).hostLv = s.hostLv := rfl
@[simp] theorem State.setSenseSt_vis (s : State) (n : Nat) (x : SenseSt) : (s.setSenseSt n x).vis = s.vis := rfl
@[simp] theorem State.setSenseSt_img (s : State) (n : Nat) (x : SenseSt) : (s.setSenseSt n x).img = s.img := rfl
@[simp] theorem State.setSenseSt_lwork (s : State) (n : Nat) (x : SenseSt) : (s.setSenseSt n x).lwork = s.lwork := rfl
@[simp] theorem State.setSenseSt_swork (s : State) (n : Nat) (x : SenseSt) : (s.setSenseSt n x).swork = s.swork := rfl
@[simp] theorem State.setSenseSt_flt (s : State) (n : Nat) (x : SenseSt) : (s.setSenseSt n x).flt = s.flt := rfl
@[simp] theorem State.setSenseSt_cores (s : State) (n : Nat) (x : SenseSt) : (s.setSenseSt n x).cores = s.cores := rfl
@[simp] theorem State.setSenseSt_nst (s : State) (n : Nat) (x : SenseSt) : (s.setSenseSt n x).nst = s.nst := rfl
@[simp] theorem State.setSenseSt_dir (s : State) (n : Nat) (x : SenseSt) : (s.setSenseSt n x).dir = s.dir := rfl
@[simp] theorem State.setSenseSt_boot (s : State) (n : Nat) (x : SenseSt) : (s.setSenseSt n x).boot = s.boot := rfl
@[simp] theorem State.setSenseSt_sto (s : State) (n : Nat) (x : SenseSt) : (s.setSenseSt n x).sto = s.sto := rfl
@[simp] theorem State.setSenseSt_engL (s : State) (n : Nat) (x : SenseSt) : (s.setSenseSt n x).engL = s.engL := rfl
@[simp] theorem State.setSenseSt_engS (s : State) (n : Nat) (x : SenseSt) : (s.setSenseSt n x).engS = s.engS := rfl
@[simp] theorem State.setSenseSt_evL (s : State) (n : Nat) (x : SenseSt) : (s.setSenseSt n x).evL = s.evL := rfl
@[simp] theorem State.setSenseSt_evS (s : State) (n : Nat) (x : SenseSt) : (s.setSenseSt n x).evS = s.evS := rfl
@[simp] theorem State.setSenseSt_cap (s : State) (n : Nat) (x : SenseSt) : (s.setSenseSt n x).cap = s.cap := rfl
@[simp] theorem State.setSenseSt_rbus (s : State) (n : Nat) (x : SenseSt) : (s.setSenseSt n x).rbus = s.rbus := rfl
@[simp] theorem State.setSenseSt_pir (s : State) (n : Nat) (x : SenseSt) : (s.setSenseSt n x).pir = s.pir := rfl
@[simp] theorem State.setSenseSt_tab (s : State) (n : Nat) (x : SenseSt) : (s.setSenseSt n x).tab = s.tab := rfl
@[simp] theorem State.setSenseSt_hostZm (s : State) (n : Nat) (x : SenseSt) : (s.setSenseSt n x).hostZm = s.hostZm := rfl
@[simp] theorem State.setSenseSt_stZ (s : State) (n : Nat) (x : SenseSt) : (s.setSenseSt n x).stZ = s.stZ := rfl
@[simp] theorem State.setSenseSt_loopPar (s : State) (n : Nat) (x : SenseSt) : (s.setSenseSt n x).loopPar = s.loopPar := rfl
@[simp] theorem State.setSenseSt_loopsL (s : State) (n : Nat) (x : SenseSt) : (s.setSenseSt n x).loopsL = s.loopsL := rfl
@[simp] theorem State.setSenseSt_loopsS (s : State) (n : Nat) (x : SenseSt) : (s.setSenseSt n x).loopsS = s.loopsS := rfl
@[simp] theorem State.setSenseSt_tmeCmd (s : State) (n : Nat) (x : SenseSt) : (s.setSenseSt n x).tmeCmd = s.tmeCmd := rfl
@[simp] theorem State.setSenseSt_net (s : State) (n : Nat) (x : SenseSt) : (s.setSenseSt n x).net = s.net := rfl
@[simp] theorem State.setSenseSt_fanIo (s : State) (n : Nat) (x : SenseSt) : (s.setSenseSt n x).fanIo = s.fanIo := rfl
@[simp] theorem State.setSenseSt_key (s : State) (n : Nat) (x : SenseSt) : (s.setSenseSt n x).key = s.key := rfl
@[simp] theorem State.setSenseSt_epd (s : State) (n : Nat) (x : SenseSt) : (s.setSenseSt n x).epd = s.epd := rfl
@[simp] theorem State.setSenseSt_pwr (s : State) (n : Nat) (x : SenseSt) : (s.setSenseSt n x).pwr = s.pwr := rfl
@[simp] theorem State.setSenseSt_clk (s : State) (n : Nat) (x : SenseSt) : (s.setSenseSt n x).clk = s.clk := rfl
@[simp] theorem State.setSenseSt_uid (s : State) (n : Nat) (x : SenseSt) : (s.setSenseSt n x).uid = s.uid := rfl
@[simp] theorem State.setSenseSt_lev (s : State) (n : Nat) (x : SenseSt) : (s.setSenseSt n x).lev = s.lev := rfl
@[simp] theorem State.setSenseSt_fab (s : State) (n : Nat) (x : SenseSt) : (s.setSenseSt n x).fab = s.fab := rfl
@[simp] theorem State.setSenseSt_dlv (s : State) (n : Nat) (x : SenseSt) : (s.setSenseSt n x).dlv = s.dlv := rfl
@[simp] theorem State.setSenseSt_fresh (s : State) (n : Nat) (x : SenseSt) : (s.setSenseSt n x).fresh = s.fresh := rfl
@[simp] theorem State.setSenseSt_word (s : State) (n : Nat) (x : SenseSt) (i' : Nat) : (s.setSenseSt n x).word i' = s.word i' := rfl
@[simp] theorem State.setSenseSt_get (s : State) (n : Nat) (x : SenseSt) (i' : Field) : (s.setSenseSt n x).get i' = s.get i' := rfl
@[simp] theorem State.setSenseSt_bit (s : State) (n : Nat) (x : SenseSt) (i' : Field) : (s.setSenseSt n x).bit i' = s.bit i' := rfl
@[simp] theorem State.setSenseSt_geti (s : State) (n : Nat) (x : SenseSt) (i' : Field) : (s.setSenseSt n x).geti i' = s.geti i' := rfl
@[simp] theorem State.setSenseSt_inForce (s : State) (n : Nat) (x : SenseSt) (i' : Nat) : (s.setSenseSt n x).inForce i' = s.inForce i' := rfl
@[simp] theorem State.setSenseSt_eget (s : State) (n : Nat) (x : SenseSt) (i' : Field) : (s.setSenseSt n x).eget i' = s.eget i' := rfl
@[simp] theorem State.setSenseSt_ebit (s : State) (n : Nat) (x : SenseSt) (i' : Field) : (s.setSenseSt n x).ebit i' = s.ebit i' := rfl
@[simp] theorem State.setSenseSt_egeti (s : State) (n : Nat) (x : SenseSt) (i' : Field) : (s.setSenseSt n x).egeti i' = s.egeti i' := rfl
@[simp] theorem State.setSenseSt_chan (s : State) (n : Nat) (x : SenseSt) (i' : Nat) : (s.setSenseSt n x).chan i' = s.chan i' := rfl
@[simp] theorem State.setSenseSt_level (s : State) (n : Nat) (x : SenseSt) (i' : Nat) (j' : Nat) : (s.setSenseSt n x).level i' j' = s.level i' j' := rfl
@[simp] theorem State.setSenseSt_visVal (s : State) (n : Nat) (x : SenseSt) (i' : Nat) : (s.setSenseSt n x).visVal i' = s.visVal i' := rfl
@[simp] theorem State.setSenseSt_core (s : State) (n : Nat) (x : SenseSt) (i' : Nat) : (s.setSenseSt n x).core i' = s.core i' := rfl
@[simp] theorem State.setSenseSt_en (s : State) (n : Nat) (x : SenseSt) (i' : Nat) : (s.setSenseSt n x).en i' = s.en i' := rfl
@[simp] theorem State.setSenseSt_enAck (s : State) (n : Nat) (x : SenseSt) (i' : Nat) : (s.setSenseSt n x).enAck i' = s.enAck i' := rfl
@[simp] theorem State.setSenseSt_coreOff (s : State) (n : Nat) (x : SenseSt) : (s.setSenseSt n x).coreOff = s.coreOff := rfl
@[simp] theorem State.setSenseSt_authRequired (s : State) (n : Nat) (x : SenseSt) : (s.setSenseSt n x).authRequired = s.authRequired := rfl
@[simp] theorem State.setSenseSt_lathPeriod (s : State) (n : Nat) (x : SenseSt) : (s.setSenseSt n x).lathPeriod = s.lathPeriod := rfl
@[simp] theorem State.setSenseSt_peatEnt (s : State) (n : Nat) (x : SenseSt) (i' : Nat) : (s.setSenseSt n x).peatEnt i' = s.peatEnt i' := rfl

/-! `setSch` -/
@[simp] theorem State.setSch_pending (s : State) (f : SchSt → SchSt) : (s.setSch f).pending = s.pending := rfl
@[simp] theorem State.setSch_now (s : State) (f : SchSt → SchSt) : (s.setSch f).now = s.now := rfl
@[simp] theorem State.setSch_regs (s : State) (f : SchSt → SchSt) : (s.setSch f).regs = s.regs := rfl
@[simp] theorem State.setSch_held (s : State) (f : SchSt → SchSt) : (s.setSch f).held = s.held := rfl
@[simp] theorem State.setSch_frozen (s : State) (f : SchSt → SchSt) : (s.setSch f).frozen = s.frozen := rfl
@[simp] theorem State.setSch_softRst (s : State) (f : SchSt → SchSt) : (s.setSch f).softRst = s.softRst := rfl
@[simp] theorem State.setSch_port (s : State) (f : SchSt → SchSt) : (s.setSch f).port = s.port := rfl
@[simp] theorem State.setSch_lath (s : State) (f : SchSt → SchSt) : (s.setSch f).lath = s.lath := rfl
@[simp] theorem State.setSch_uch (s : State) (f : SchSt → SchSt) : (s.setSch f).uch = s.uch := rfl
@[simp] theorem State.setSch_lv (s : State) (f : SchSt → SchSt) : (s.setSch f).lv = s.lv := rfl
@[simp] theorem State.setSch_l0 (s : State) (f : SchSt → SchSt) : (s.setSch f).l0 = s.l0 := rfl
@[simp] theorem State.setSch_stL (s : State) (f : SchSt → SchSt) : (s.setSch f).stL = s.stL := rfl
@[simp] theorem State.setSch_stS (s : State) (f : SchSt → SchSt) : (s.setSch f).stS = s.stS := rfl
@[simp] theorem State.setSch_hostLv (s : State) (f : SchSt → SchSt) : (s.setSch f).hostLv = s.hostLv := rfl
@[simp] theorem State.setSch_vis (s : State) (f : SchSt → SchSt) : (s.setSch f).vis = s.vis := rfl
@[simp] theorem State.setSch_img (s : State) (f : SchSt → SchSt) : (s.setSch f).img = s.img := rfl
@[simp] theorem State.setSch_lwork (s : State) (f : SchSt → SchSt) : (s.setSch f).lwork = s.lwork := rfl
@[simp] theorem State.setSch_swork (s : State) (f : SchSt → SchSt) : (s.setSch f).swork = s.swork := rfl
@[simp] theorem State.setSch_flt (s : State) (f : SchSt → SchSt) : (s.setSch f).flt = s.flt := rfl
@[simp] theorem State.setSch_cores (s : State) (f : SchSt → SchSt) : (s.setSch f).cores = s.cores := rfl
@[simp] theorem State.setSch_nst (s : State) (f : SchSt → SchSt) : (s.setSch f).nst = s.nst := rfl
@[simp] theorem State.setSch_dir (s : State) (f : SchSt → SchSt) : (s.setSch f).dir = s.dir := rfl
@[simp] theorem State.setSch_boot (s : State) (f : SchSt → SchSt) : (s.setSch f).boot = s.boot := rfl
@[simp] theorem State.setSch_sto (s : State) (f : SchSt → SchSt) : (s.setSch f).sto = s.sto := rfl
@[simp] theorem State.setSch_engL (s : State) (f : SchSt → SchSt) : (s.setSch f).engL = s.engL := rfl
@[simp] theorem State.setSch_engS (s : State) (f : SchSt → SchSt) : (s.setSch f).engS = s.engS := rfl
@[simp] theorem State.setSch_evL (s : State) (f : SchSt → SchSt) : (s.setSch f).evL = s.evL := rfl
@[simp] theorem State.setSch_evS (s : State) (f : SchSt → SchSt) : (s.setSch f).evS = s.evS := rfl
@[simp] theorem State.setSch_cap (s : State) (f : SchSt → SchSt) : (s.setSch f).cap = s.cap := rfl
@[simp] theorem State.setSch_rbus (s : State) (f : SchSt → SchSt) : (s.setSch f).rbus = s.rbus := rfl
@[simp] theorem State.setSch_pir (s : State) (f : SchSt → SchSt) : (s.setSch f).pir = s.pir := rfl
@[simp] theorem State.setSch_tab (s : State) (f : SchSt → SchSt) : (s.setSch f).tab = s.tab := rfl
@[simp] theorem State.setSch_hostZm (s : State) (f : SchSt → SchSt) : (s.setSch f).hostZm = s.hostZm := rfl
@[simp] theorem State.setSch_stZ (s : State) (f : SchSt → SchSt) : (s.setSch f).stZ = s.stZ := rfl
@[simp] theorem State.setSch_loopPar (s : State) (f : SchSt → SchSt) : (s.setSch f).loopPar = s.loopPar := rfl
@[simp] theorem State.setSch_loopsL (s : State) (f : SchSt → SchSt) : (s.setSch f).loopsL = s.loopsL := rfl
@[simp] theorem State.setSch_loopsS (s : State) (f : SchSt → SchSt) : (s.setSch f).loopsS = s.loopsS := rfl
@[simp] theorem State.setSch_tmeCmd (s : State) (f : SchSt → SchSt) : (s.setSch f).tmeCmd = s.tmeCmd := rfl
@[simp] theorem State.setSch_net (s : State) (f : SchSt → SchSt) : (s.setSch f).net = s.net := rfl
@[simp] theorem State.setSch_fanIo (s : State) (f : SchSt → SchSt) : (s.setSch f).fanIo = s.fanIo := rfl
@[simp] theorem State.setSch_key (s : State) (f : SchSt → SchSt) : (s.setSch f).key = s.key := rfl
@[simp] theorem State.setSch_epd (s : State) (f : SchSt → SchSt) : (s.setSch f).epd = s.epd := rfl
@[simp] theorem State.setSch_pwr (s : State) (f : SchSt → SchSt) : (s.setSch f).pwr = s.pwr := rfl
@[simp] theorem State.setSch_clk (s : State) (f : SchSt → SchSt) : (s.setSch f).clk = s.clk := rfl
@[simp] theorem State.setSch_uid (s : State) (f : SchSt → SchSt) : (s.setSch f).uid = s.uid := rfl
@[simp] theorem State.setSch_lev (s : State) (f : SchSt → SchSt) : (s.setSch f).lev = s.lev := rfl
@[simp] theorem State.setSch_fab (s : State) (f : SchSt → SchSt) : (s.setSch f).fab = s.fab := rfl
@[simp] theorem State.setSch_dlv (s : State) (f : SchSt → SchSt) : (s.setSch f).dlv = s.dlv := rfl
@[simp] theorem State.setSch_fresh (s : State) (f : SchSt → SchSt) : (s.setSch f).fresh = s.fresh := rfl
@[simp] theorem State.setSch_word (s : State) (f : SchSt → SchSt) (i' : Nat) : (s.setSch f).word i' = s.word i' := rfl
@[simp] theorem State.setSch_get (s : State) (f : SchSt → SchSt) (i' : Field) : (s.setSch f).get i' = s.get i' := rfl
@[simp] theorem State.setSch_bit (s : State) (f : SchSt → SchSt) (i' : Field) : (s.setSch f).bit i' = s.bit i' := rfl
@[simp] theorem State.setSch_geti (s : State) (f : SchSt → SchSt) (i' : Field) : (s.setSch f).geti i' = s.geti i' := rfl
@[simp] theorem State.setSch_inForce (s : State) (f : SchSt → SchSt) (i' : Nat) : (s.setSch f).inForce i' = s.inForce i' := rfl
@[simp] theorem State.setSch_eget (s : State) (f : SchSt → SchSt) (i' : Field) : (s.setSch f).eget i' = s.eget i' := rfl
@[simp] theorem State.setSch_ebit (s : State) (f : SchSt → SchSt) (i' : Field) : (s.setSch f).ebit i' = s.ebit i' := rfl
@[simp] theorem State.setSch_egeti (s : State) (f : SchSt → SchSt) (i' : Field) : (s.setSch f).egeti i' = s.egeti i' := rfl
@[simp] theorem State.setSch_chan (s : State) (f : SchSt → SchSt) (i' : Nat) : (s.setSch f).chan i' = s.chan i' := rfl
@[simp] theorem State.setSch_level (s : State) (f : SchSt → SchSt) (i' : Nat) (j' : Nat) : (s.setSch f).level i' j' = s.level i' j' := rfl
@[simp] theorem State.setSch_visVal (s : State) (f : SchSt → SchSt) (i' : Nat) : (s.setSch f).visVal i' = s.visVal i' := rfl
@[simp] theorem State.setSch_core (s : State) (f : SchSt → SchSt) (i' : Nat) : (s.setSch f).core i' = s.core i' := rfl
@[simp] theorem State.setSch_en (s : State) (f : SchSt → SchSt) (i' : Nat) : (s.setSch f).en i' = s.en i' := rfl
@[simp] theorem State.setSch_enAck (s : State) (f : SchSt → SchSt) (i' : Nat) : (s.setSch f).enAck i' = s.enAck i' := rfl
@[simp] theorem State.setSch_coreOff (s : State) (f : SchSt → SchSt) : (s.setSch f).coreOff = s.coreOff := rfl
@[simp] theorem State.setSch_authRequired (s : State) (f : SchSt → SchSt) : (s.setSch f).authRequired = s.authRequired := rfl
@[simp] theorem State.setSch_lathPeriod (s : State) (f : SchSt → SchSt) : (s.setSch f).lathPeriod = s.lathPeriod := rfl
@[simp] theorem State.setSch_peatEnt (s : State) (f : SchSt → SchSt) (i' : Nat) : (s.setSch f).peatEnt i' = s.peatEnt i' := rfl

/-! `stage` -/
@[simp] theorem State.stage_pending (s : State) (r : Rate) (w : LvWrite) : (s.stage r w).pending = s.pending := by cases r <;> rfl
@[simp] theorem State.stage_now (s : State) (r : Rate) (w : LvWrite) : (s.stage r w).now = s.now := by cases r <;> rfl
@[simp] theorem State.stage_regs (s : State) (r : Rate) (w : LvWrite) : (s.stage r w).regs = s.regs := by cases r <;> rfl
@[simp] theorem State.stage_held (s : State) (r : Rate) (w : LvWrite) : (s.stage r w).held = s.held := by cases r <;> rfl
@[simp] theorem State.stage_frozen (s : State) (r : Rate) (w : LvWrite) : (s.stage r w).frozen = s.frozen := by cases r <;> rfl
@[simp] theorem State.stage_softRst (s : State) (r : Rate) (w : LvWrite) : (s.stage r w).softRst = s.softRst := by cases r <;> rfl
@[simp] theorem State.stage_port (s : State) (r : Rate) (w : LvWrite) : (s.stage r w).port = s.port := by cases r <;> rfl
@[simp] theorem State.stage_lath (s : State) (r : Rate) (w : LvWrite) : (s.stage r w).lath = s.lath := by cases r <;> rfl
@[simp] theorem State.stage_uch (s : State) (r : Rate) (w : LvWrite) : (s.stage r w).uch = s.uch := by cases r <;> rfl
@[simp] theorem State.stage_lv (s : State) (r : Rate) (w : LvWrite) : (s.stage r w).lv = s.lv := by cases r <;> rfl
@[simp] theorem State.stage_l0 (s : State) (r : Rate) (w : LvWrite) : (s.stage r w).l0 = s.l0 := by cases r <;> rfl
@[simp] theorem State.stage_hostLv (s : State) (r : Rate) (w : LvWrite) : (s.stage r w).hostLv = s.hostLv := by cases r <;> rfl
@[simp] theorem State.stage_vis (s : State) (r : Rate) (w : LvWrite) : (s.stage r w).vis = s.vis := by cases r <;> rfl
@[simp] theorem State.stage_img (s : State) (r : Rate) (w : LvWrite) : (s.stage r w).img = s.img := by cases r <;> rfl
@[simp] theorem State.stage_lwork (s : State) (r : Rate) (w : LvWrite) : (s.stage r w).lwork = s.lwork := by cases r <;> rfl
@[simp] theorem State.stage_swork (s : State) (r : Rate) (w : LvWrite) : (s.stage r w).swork = s.swork := by cases r <;> rfl
@[simp] theorem State.stage_flt (s : State) (r : Rate) (w : LvWrite) : (s.stage r w).flt = s.flt := by cases r <;> rfl
@[simp] theorem State.stage_cores (s : State) (r : Rate) (w : LvWrite) : (s.stage r w).cores = s.cores := by cases r <;> rfl
@[simp] theorem State.stage_nst (s : State) (r : Rate) (w : LvWrite) : (s.stage r w).nst = s.nst := by cases r <;> rfl
@[simp] theorem State.stage_dir (s : State) (r : Rate) (w : LvWrite) : (s.stage r w).dir = s.dir := by cases r <;> rfl
@[simp] theorem State.stage_boot (s : State) (r : Rate) (w : LvWrite) : (s.stage r w).boot = s.boot := by cases r <;> rfl
@[simp] theorem State.stage_sto (s : State) (r : Rate) (w : LvWrite) : (s.stage r w).sto = s.sto := by cases r <;> rfl
@[simp] theorem State.stage_eng (s : State) (r : Rate) (w : LvWrite) : (s.stage r w).eng = s.eng := by cases r <;> rfl
@[simp] theorem State.stage_engL (s : State) (r : Rate) (w : LvWrite) : (s.stage r w).engL = s.engL := by cases r <;> rfl
@[simp] theorem State.stage_engS (s : State) (r : Rate) (w : LvWrite) : (s.stage r w).engS = s.engS := by cases r <;> rfl
@[simp] theorem State.stage_evL (s : State) (r : Rate) (w : LvWrite) : (s.stage r w).evL = s.evL := by cases r <;> rfl
@[simp] theorem State.stage_evS (s : State) (r : Rate) (w : LvWrite) : (s.stage r w).evS = s.evS := by cases r <;> rfl
@[simp] theorem State.stage_cap (s : State) (r : Rate) (w : LvWrite) : (s.stage r w).cap = s.cap := by cases r <;> rfl
@[simp] theorem State.stage_rbus (s : State) (r : Rate) (w : LvWrite) : (s.stage r w).rbus = s.rbus := by cases r <;> rfl
@[simp] theorem State.stage_pir (s : State) (r : Rate) (w : LvWrite) : (s.stage r w).pir = s.pir := by cases r <;> rfl
@[simp] theorem State.stage_tab (s : State) (r : Rate) (w : LvWrite) : (s.stage r w).tab = s.tab := by cases r <;> rfl
@[simp] theorem State.stage_hostZm (s : State) (r : Rate) (w : LvWrite) : (s.stage r w).hostZm = s.hostZm := by cases r <;> rfl
@[simp] theorem State.stage_stZ (s : State) (r : Rate) (w : LvWrite) : (s.stage r w).stZ = s.stZ := by cases r <;> rfl
@[simp] theorem State.stage_loopPar (s : State) (r : Rate) (w : LvWrite) : (s.stage r w).loopPar = s.loopPar := by cases r <;> rfl
@[simp] theorem State.stage_loopsL (s : State) (r : Rate) (w : LvWrite) : (s.stage r w).loopsL = s.loopsL := by cases r <;> rfl
@[simp] theorem State.stage_loopsS (s : State) (r : Rate) (w : LvWrite) : (s.stage r w).loopsS = s.loopsS := by cases r <;> rfl
@[simp] theorem State.stage_tmeCmd (s : State) (r : Rate) (w : LvWrite) : (s.stage r w).tmeCmd = s.tmeCmd := by cases r <;> rfl
@[simp] theorem State.stage_net (s : State) (r : Rate) (w : LvWrite) : (s.stage r w).net = s.net := by cases r <;> rfl
@[simp] theorem State.stage_fanIo (s : State) (r : Rate) (w : LvWrite) : (s.stage r w).fanIo = s.fanIo := by cases r <;> rfl
@[simp] theorem State.stage_key (s : State) (r : Rate) (w : LvWrite) : (s.stage r w).key = s.key := by cases r <;> rfl
@[simp] theorem State.stage_epd (s : State) (r : Rate) (w : LvWrite) : (s.stage r w).epd = s.epd := by cases r <;> rfl
@[simp] theorem State.stage_pwr (s : State) (r : Rate) (w : LvWrite) : (s.stage r w).pwr = s.pwr := by cases r <;> rfl
@[simp] theorem State.stage_clk (s : State) (r : Rate) (w : LvWrite) : (s.stage r w).clk = s.clk := by cases r <;> rfl
@[simp] theorem State.stage_uid (s : State) (r : Rate) (w : LvWrite) : (s.stage r w).uid = s.uid := by cases r <;> rfl
@[simp] theorem State.stage_lev (s : State) (r : Rate) (w : LvWrite) : (s.stage r w).lev = s.lev := by cases r <;> rfl
@[simp] theorem State.stage_fab (s : State) (r : Rate) (w : LvWrite) : (s.stage r w).fab = s.fab := by cases r <;> rfl
@[simp] theorem State.stage_dlv (s : State) (r : Rate) (w : LvWrite) : (s.stage r w).dlv = s.dlv := by cases r <;> rfl
@[simp] theorem State.stage_fresh (s : State) (r : Rate) (w : LvWrite) : (s.stage r w).fresh = s.fresh := by cases r <;> rfl
@[simp] theorem State.stage_word (s : State) (r : Rate) (w : LvWrite) (i' : Nat) : (s.stage r w).word i' = s.word i' := by cases r <;> rfl
@[simp] theorem State.stage_get (s : State) (r : Rate) (w : LvWrite) (i' : Field) : (s.stage r w).get i' = s.get i' := by cases r <;> rfl
@[simp] theorem State.stage_bit (s : State) (r : Rate) (w : LvWrite) (i' : Field) : (s.stage r w).bit i' = s.bit i' := by cases r <;> rfl
@[simp] theorem State.stage_geti (s : State) (r : Rate) (w : LvWrite) (i' : Field) : (s.stage r w).geti i' = s.geti i' := by cases r <;> rfl
@[simp] theorem State.stage_inForce (s : State) (r : Rate) (w : LvWrite) (i' : Nat) : (s.stage r w).inForce i' = s.inForce i' := by cases r <;> rfl
@[simp] theorem State.stage_eget (s : State) (r : Rate) (w : LvWrite) (i' : Field) : (s.stage r w).eget i' = s.eget i' := by cases r <;> rfl
@[simp] theorem State.stage_ebit (s : State) (r : Rate) (w : LvWrite) (i' : Field) : (s.stage r w).ebit i' = s.ebit i' := by cases r <;> rfl
@[simp] theorem State.stage_egeti (s : State) (r : Rate) (w : LvWrite) (i' : Field) : (s.stage r w).egeti i' = s.egeti i' := by cases r <;> rfl
@[simp] theorem State.stage_chan (s : State) (r : Rate) (w : LvWrite) (i' : Nat) : (s.stage r w).chan i' = s.chan i' := by cases r <;> rfl
@[simp] theorem State.stage_level (s : State) (r : Rate) (w : LvWrite) (i' : Nat) (j' : Nat) : (s.stage r w).level i' j' = s.level i' j' := by cases r <;> rfl
@[simp] theorem State.stage_visVal (s : State) (r : Rate) (w : LvWrite) (i' : Nat) : (s.stage r w).visVal i' = s.visVal i' := by cases r <;> rfl
@[simp] theorem State.stage_core (s : State) (r : Rate) (w : LvWrite) (i' : Nat) : (s.stage r w).core i' = s.core i' := by cases r <;> rfl
@[simp] theorem State.stage_en (s : State) (r : Rate) (w : LvWrite) (i' : Nat) : (s.stage r w).en i' = s.en i' := by cases r <;> rfl
@[simp] theorem State.stage_enAck (s : State) (r : Rate) (w : LvWrite) (i' : Nat) : (s.stage r w).enAck i' = s.enAck i' := by cases r <;> rfl
@[simp] theorem State.stage_coreOff (s : State) (r : Rate) (w : LvWrite) : (s.stage r w).coreOff = s.coreOff := by cases r <;> rfl
@[simp] theorem State.stage_authRequired (s : State) (r : Rate) (w : LvWrite) : (s.stage r w).authRequired = s.authRequired := by cases r <;> rfl
@[simp] theorem State.stage_lathPeriod (s : State) (r : Rate) (w : LvWrite) : (s.stage r w).lathPeriod = s.lathPeriod := by cases r <;> rfl
@[simp] theorem State.stage_peatEnt (s : State) (r : Rate) (w : LvWrite) (i' : Nat) : (s.stage r w).peatEnt i' = s.peatEnt i' := by cases r <;> rfl
@[simp] theorem State.stage_fanSt (s : State) (r : Rate) (w : LvWrite) (i' : Nat) : (s.stage r w).fanSt i' = s.fanSt i' := by cases r <;> rfl
@[simp] theorem State.stage_tmeSt (s : State) (r : Rate) (w : LvWrite) (i' : Nat) : (s.stage r w).tmeSt i' = s.tmeSt i' := by cases r <;> rfl
@[simp] theorem State.stage_loopSt (s : State) (r : Rate) (w : LvWrite) (i' : Nat) : (s.stage r w).loopSt i' = s.loopSt i' := by cases r <;> rfl

/-! `produce` -/
@[simp] theorem State.produce_pending (s : State) (r : Rate) (h : Nat) (v : Val) : (s.produce r h v).pending = s.pending := by cases r <;> rfl
@[simp] theorem State.produce_now (s : State) (r : Rate) (h : Nat) (v : Val) : (s.produce r h v).now = s.now := by cases r <;> rfl
@[simp] theorem State.produce_regs (s : State) (r : Rate) (h : Nat) (v : Val) : (s.produce r h v).regs = s.regs := by cases r <;> rfl
@[simp] theorem State.produce_held (s : State) (r : Rate) (h : Nat) (v : Val) : (s.produce r h v).held = s.held := by cases r <;> rfl
@[simp] theorem State.produce_frozen (s : State) (r : Rate) (h : Nat) (v : Val) : (s.produce r h v).frozen = s.frozen := by cases r <;> rfl
@[simp] theorem State.produce_softRst (s : State) (r : Rate) (h : Nat) (v : Val) : (s.produce r h v).softRst = s.softRst := by cases r <;> rfl
@[simp] theorem State.produce_port (s : State) (r : Rate) (h : Nat) (v : Val) : (s.produce r h v).port = s.port := by cases r <;> rfl
@[simp] theorem State.produce_lath (s : State) (r : Rate) (h : Nat) (v : Val) : (s.produce r h v).lath = s.lath := by cases r <;> rfl
@[simp] theorem State.produce_uch (s : State) (r : Rate) (h : Nat) (v : Val) : (s.produce r h v).uch = s.uch := by cases r <;> rfl
@[simp] theorem State.produce_lv (s : State) (r : Rate) (h : Nat) (v : Val) : (s.produce r h v).lv = s.lv := by cases r <;> rfl
@[simp] theorem State.produce_l0 (s : State) (r : Rate) (h : Nat) (v : Val) : (s.produce r h v).l0 = s.l0 := by cases r <;> rfl
@[simp] theorem State.produce_stL (s : State) (r : Rate) (h : Nat) (v : Val) : (s.produce r h v).stL = s.stL := by cases r <;> rfl
@[simp] theorem State.produce_stS (s : State) (r : Rate) (h : Nat) (v : Val) : (s.produce r h v).stS = s.stS := by cases r <;> rfl
@[simp] theorem State.produce_hostLv (s : State) (r : Rate) (h : Nat) (v : Val) : (s.produce r h v).hostLv = s.hostLv := by cases r <;> rfl
@[simp] theorem State.produce_vis (s : State) (r : Rate) (h : Nat) (v : Val) : (s.produce r h v).vis = s.vis := by cases r <;> rfl
@[simp] theorem State.produce_img (s : State) (r : Rate) (h : Nat) (v : Val) : (s.produce r h v).img = s.img := by cases r <;> rfl
@[simp] theorem State.produce_flt (s : State) (r : Rate) (h : Nat) (v : Val) : (s.produce r h v).flt = s.flt := by cases r <;> rfl
@[simp] theorem State.produce_cores (s : State) (r : Rate) (h : Nat) (v : Val) : (s.produce r h v).cores = s.cores := by cases r <;> rfl
@[simp] theorem State.produce_nst (s : State) (r : Rate) (h : Nat) (v : Val) : (s.produce r h v).nst = s.nst := by cases r <;> rfl
@[simp] theorem State.produce_dir (s : State) (r : Rate) (h : Nat) (v : Val) : (s.produce r h v).dir = s.dir := by cases r <;> rfl
@[simp] theorem State.produce_boot (s : State) (r : Rate) (h : Nat) (v : Val) : (s.produce r h v).boot = s.boot := by cases r <;> rfl
@[simp] theorem State.produce_sto (s : State) (r : Rate) (h : Nat) (v : Val) : (s.produce r h v).sto = s.sto := by cases r <;> rfl
@[simp] theorem State.produce_eng (s : State) (r : Rate) (h : Nat) (v : Val) : (s.produce r h v).eng = s.eng := by cases r <;> rfl
@[simp] theorem State.produce_engL (s : State) (r : Rate) (h : Nat) (v : Val) : (s.produce r h v).engL = s.engL := by cases r <;> rfl
@[simp] theorem State.produce_engS (s : State) (r : Rate) (h : Nat) (v : Val) : (s.produce r h v).engS = s.engS := by cases r <;> rfl
@[simp] theorem State.produce_evL (s : State) (r : Rate) (h : Nat) (v : Val) : (s.produce r h v).evL = s.evL := by cases r <;> rfl
@[simp] theorem State.produce_evS (s : State) (r : Rate) (h : Nat) (v : Val) : (s.produce r h v).evS = s.evS := by cases r <;> rfl
@[simp] theorem State.produce_cap (s : State) (r : Rate) (h : Nat) (v : Val) : (s.produce r h v).cap = s.cap := by cases r <;> rfl
@[simp] theorem State.produce_rbus (s : State) (r : Rate) (h : Nat) (v : Val) : (s.produce r h v).rbus = s.rbus := by cases r <;> rfl
@[simp] theorem State.produce_pir (s : State) (r : Rate) (h : Nat) (v : Val) : (s.produce r h v).pir = s.pir := by cases r <;> rfl
@[simp] theorem State.produce_tab (s : State) (r : Rate) (h : Nat) (v : Val) : (s.produce r h v).tab = s.tab := by cases r <;> rfl
@[simp] theorem State.produce_hostZm (s : State) (r : Rate) (h : Nat) (v : Val) : (s.produce r h v).hostZm = s.hostZm := by cases r <;> rfl
@[simp] theorem State.produce_stZ (s : State) (r : Rate) (h : Nat) (v : Val) : (s.produce r h v).stZ = s.stZ := by cases r <;> rfl
@[simp] theorem State.produce_loopPar (s : State) (r : Rate) (h : Nat) (v : Val) : (s.produce r h v).loopPar = s.loopPar := by cases r <;> rfl
@[simp] theorem State.produce_loopsL (s : State) (r : Rate) (h : Nat) (v : Val) : (s.produce r h v).loopsL = s.loopsL := by cases r <;> rfl
@[simp] theorem State.produce_loopsS (s : State) (r : Rate) (h : Nat) (v : Val) : (s.produce r h v).loopsS = s.loopsS := by cases r <;> rfl
@[simp] theorem State.produce_tmeCmd (s : State) (r : Rate) (h : Nat) (v : Val) : (s.produce r h v).tmeCmd = s.tmeCmd := by cases r <;> rfl
@[simp] theorem State.produce_net (s : State) (r : Rate) (h : Nat) (v : Val) : (s.produce r h v).net = s.net := by cases r <;> rfl
@[simp] theorem State.produce_fanIo (s : State) (r : Rate) (h : Nat) (v : Val) : (s.produce r h v).fanIo = s.fanIo := by cases r <;> rfl
@[simp] theorem State.produce_key (s : State) (r : Rate) (h : Nat) (v : Val) : (s.produce r h v).key = s.key := by cases r <;> rfl
@[simp] theorem State.produce_epd (s : State) (r : Rate) (h : Nat) (v : Val) : (s.produce r h v).epd = s.epd := by cases r <;> rfl
@[simp] theorem State.produce_pwr (s : State) (r : Rate) (h : Nat) (v : Val) : (s.produce r h v).pwr = s.pwr := by cases r <;> rfl
@[simp] theorem State.produce_clk (s : State) (r : Rate) (h : Nat) (v : Val) : (s.produce r h v).clk = s.clk := by cases r <;> rfl
@[simp] theorem State.produce_uid (s : State) (r : Rate) (h : Nat) (v : Val) : (s.produce r h v).uid = s.uid := by cases r <;> rfl
@[simp] theorem State.produce_lev (s : State) (r : Rate) (h : Nat) (v : Val) : (s.produce r h v).lev = s.lev := by cases r <;> rfl
@[simp] theorem State.produce_fab (s : State) (r : Rate) (h : Nat) (v : Val) : (s.produce r h v).fab = s.fab := by cases r <;> rfl
@[simp] theorem State.produce_dlv (s : State) (r : Rate) (h : Nat) (v : Val) : (s.produce r h v).dlv = s.dlv := by cases r <;> rfl
@[simp] theorem State.produce_fresh (s : State) (r : Rate) (h : Nat) (v : Val) : (s.produce r h v).fresh = s.fresh := by cases r <;> rfl
@[simp] theorem State.produce_word (s : State) (r : Rate) (h : Nat) (v : Val) (i' : Nat) : (s.produce r h v).word i' = s.word i' := by cases r <;> rfl
@[simp] theorem State.produce_get (s : State) (r : Rate) (h : Nat) (v : Val) (i' : Field) : (s.produce r h v).get i' = s.get i' := by cases r <;> rfl
@[simp] theorem State.produce_bit (s : State) (r : Rate) (h : Nat) (v : Val) (i' : Field) : (s.produce r h v).bit i' = s.bit i' := by cases r <;> rfl
@[simp] theorem State.produce_geti (s : State) (r : Rate) (h : Nat) (v : Val) (i' : Field) : (s.produce r h v).geti i' = s.geti i' := by cases r <;> rfl
@[simp] theorem State.produce_inForce (s : State) (r : Rate) (h : Nat) (v : Val) (i' : Nat) : (s.produce r h v).inForce i' = s.inForce i' := by cases r <;> rfl
@[simp] theorem State.produce_eget (s : State) (r : Rate) (h : Nat) (v : Val) (i' : Field) : (s.produce r h v).eget i' = s.eget i' := by cases r <;> rfl
@[simp] theorem State.produce_ebit (s : State) (r : Rate) (h : Nat) (v : Val) (i' : Field) : (s.produce r h v).ebit i' = s.ebit i' := by cases r <;> rfl
@[simp] theorem State.produce_egeti (s : State) (r : Rate) (h : Nat) (v : Val) (i' : Field) : (s.produce r h v).egeti i' = s.egeti i' := by cases r <;> rfl
@[simp] theorem State.produce_chan (s : State) (r : Rate) (h : Nat) (v : Val) (i' : Nat) : (s.produce r h v).chan i' = s.chan i' := by cases r <;> rfl
@[simp] theorem State.produce_level (s : State) (r : Rate) (h : Nat) (v : Val) (i' : Nat) (j' : Nat) : (s.produce r h v).level i' j' = s.level i' j' := by cases r <;> rfl
@[simp] theorem State.produce_visVal (s : State) (r : Rate) (h : Nat) (v : Val) (i' : Nat) : (s.produce r h v).visVal i' = s.visVal i' := by cases r <;> rfl
@[simp] theorem State.produce_core (s : State) (r : Rate) (h : Nat) (v : Val) (i' : Nat) : (s.produce r h v).core i' = s.core i' := by cases r <;> rfl
@[simp] theorem State.produce_en (s : State) (r : Rate) (h : Nat) (v : Val) (i' : Nat) : (s.produce r h v).en i' = s.en i' := by cases r <;> rfl
@[simp] theorem State.produce_enAck (s : State) (r : Rate) (h : Nat) (v : Val) (i' : Nat) : (s.produce r h v).enAck i' = s.enAck i' := by cases r <;> rfl
@[simp] theorem State.produce_coreOff (s : State) (r : Rate) (h : Nat) (v : Val) : (s.produce r h v).coreOff = s.coreOff := by cases r <;> rfl
@[simp] theorem State.produce_authRequired (s : State) (r : Rate) (h : Nat) (v : Val) : (s.produce r h v).authRequired = s.authRequired := by cases r <;> rfl
@[simp] theorem State.produce_lathPeriod (s : State) (r : Rate) (h : Nat) (v : Val) : (s.produce r h v).lathPeriod = s.lathPeriod := by cases r <;> rfl
@[simp] theorem State.produce_peatEnt (s : State) (r : Rate) (h : Nat) (v : Val) (i' : Nat) : (s.produce r h v).peatEnt i' = s.peatEnt i' := by cases r <;> rfl
@[simp] theorem State.produce_fanSt (s : State) (r : Rate) (h : Nat) (v : Val) (i' : Nat) : (s.produce r h v).fanSt i' = s.fanSt i' := by cases r <;> rfl
@[simp] theorem State.produce_tmeSt (s : State) (r : Rate) (h : Nat) (v : Val) (i' : Nat) : (s.produce r h v).tmeSt i' = s.tmeSt i' := by cases r <;> rfl
@[simp] theorem State.produce_loopSt (s : State) (r : Rate) (h : Nat) (v : Val) (i' : Nat) : (s.produce r h v).loopSt i' = s.loopSt i' := by cases r <;> rfl

/-! `later` -/
@[simp] theorem State.later_pending (s : State) (r : Rate) (e : Ev) : (s.later r e).pending = s.pending := by cases r <;> rfl
@[simp] theorem State.later_now (s : State) (r : Rate) (e : Ev) : (s.later r e).now = s.now := by cases r <;> rfl
@[simp] theorem State.later_regs (s : State) (r : Rate) (e : Ev) : (s.later r e).regs = s.regs := by cases r <;> rfl
@[simp] theorem State.later_held (s : State) (r : Rate) (e : Ev) : (s.later r e).held = s.held := by cases r <;> rfl
@[simp] theorem State.later_frozen (s : State) (r : Rate) (e : Ev) : (s.later r e).frozen = s.frozen := by cases r <;> rfl
@[simp] theorem State.later_softRst (s : State) (r : Rate) (e : Ev) : (s.later r e).softRst = s.softRst := by cases r <;> rfl
@[simp] theorem State.later_port (s : State) (r : Rate) (e : Ev) : (s.later r e).port = s.port := by cases r <;> rfl
@[simp] theorem State.later_lath (s : State) (r : Rate) (e : Ev) : (s.later r e).lath = s.lath := by cases r <;> rfl
@[simp] theorem State.later_uch (s : State) (r : Rate) (e : Ev) : (s.later r e).uch = s.uch := by cases r <;> rfl
@[simp] theorem State.later_lv (s : State) (r : Rate) (e : Ev) : (s.later r e).lv = s.lv := by cases r <;> rfl
@[simp] theorem State.later_l0 (s : State) (r : Rate) (e : Ev) : (s.later r e).l0 = s.l0 := by cases r <;> rfl
@[simp] theorem State.later_stL (s : State) (r : Rate) (e : Ev) : (s.later r e).stL = s.stL := by cases r <;> rfl
@[simp] theorem State.later_stS (s : State) (r : Rate) (e : Ev) : (s.later r e).stS = s.stS := by cases r <;> rfl
@[simp] theorem State.later_hostLv (s : State) (r : Rate) (e : Ev) : (s.later r e).hostLv = s.hostLv := by cases r <;> rfl
@[simp] theorem State.later_vis (s : State) (r : Rate) (e : Ev) : (s.later r e).vis = s.vis := by cases r <;> rfl
@[simp] theorem State.later_img (s : State) (r : Rate) (e : Ev) : (s.later r e).img = s.img := by cases r <;> rfl
@[simp] theorem State.later_lwork (s : State) (r : Rate) (e : Ev) : (s.later r e).lwork = s.lwork := by cases r <;> rfl
@[simp] theorem State.later_swork (s : State) (r : Rate) (e : Ev) : (s.later r e).swork = s.swork := by cases r <;> rfl
@[simp] theorem State.later_flt (s : State) (r : Rate) (e : Ev) : (s.later r e).flt = s.flt := by cases r <;> rfl
@[simp] theorem State.later_cores (s : State) (r : Rate) (e : Ev) : (s.later r e).cores = s.cores := by cases r <;> rfl
@[simp] theorem State.later_nst (s : State) (r : Rate) (e : Ev) : (s.later r e).nst = s.nst := by cases r <;> rfl
@[simp] theorem State.later_dir (s : State) (r : Rate) (e : Ev) : (s.later r e).dir = s.dir := by cases r <;> rfl
@[simp] theorem State.later_boot (s : State) (r : Rate) (e : Ev) : (s.later r e).boot = s.boot := by cases r <;> rfl
@[simp] theorem State.later_sto (s : State) (r : Rate) (e : Ev) : (s.later r e).sto = s.sto := by cases r <;> rfl
@[simp] theorem State.later_eng (s : State) (r : Rate) (e : Ev) : (s.later r e).eng = s.eng := by cases r <;> rfl
@[simp] theorem State.later_engL (s : State) (r : Rate) (e : Ev) : (s.later r e).engL = s.engL := by cases r <;> rfl
@[simp] theorem State.later_engS (s : State) (r : Rate) (e : Ev) : (s.later r e).engS = s.engS := by cases r <;> rfl
@[simp] theorem State.later_cap (s : State) (r : Rate) (e : Ev) : (s.later r e).cap = s.cap := by cases r <;> rfl
@[simp] theorem State.later_rbus (s : State) (r : Rate) (e : Ev) : (s.later r e).rbus = s.rbus := by cases r <;> rfl
@[simp] theorem State.later_pir (s : State) (r : Rate) (e : Ev) : (s.later r e).pir = s.pir := by cases r <;> rfl
@[simp] theorem State.later_tab (s : State) (r : Rate) (e : Ev) : (s.later r e).tab = s.tab := by cases r <;> rfl
@[simp] theorem State.later_hostZm (s : State) (r : Rate) (e : Ev) : (s.later r e).hostZm = s.hostZm := by cases r <;> rfl
@[simp] theorem State.later_stZ (s : State) (r : Rate) (e : Ev) : (s.later r e).stZ = s.stZ := by cases r <;> rfl
@[simp] theorem State.later_loopPar (s : State) (r : Rate) (e : Ev) : (s.later r e).loopPar = s.loopPar := by cases r <;> rfl
@[simp] theorem State.later_loopsL (s : State) (r : Rate) (e : Ev) : (s.later r e).loopsL = s.loopsL := by cases r <;> rfl
@[simp] theorem State.later_loopsS (s : State) (r : Rate) (e : Ev) : (s.later r e).loopsS = s.loopsS := by cases r <;> rfl
@[simp] theorem State.later_tmeCmd (s : State) (r : Rate) (e : Ev) : (s.later r e).tmeCmd = s.tmeCmd := by cases r <;> rfl
@[simp] theorem State.later_net (s : State) (r : Rate) (e : Ev) : (s.later r e).net = s.net := by cases r <;> rfl
@[simp] theorem State.later_fanIo (s : State) (r : Rate) (e : Ev) : (s.later r e).fanIo = s.fanIo := by cases r <;> rfl
@[simp] theorem State.later_key (s : State) (r : Rate) (e : Ev) : (s.later r e).key = s.key := by cases r <;> rfl
@[simp] theorem State.later_epd (s : State) (r : Rate) (e : Ev) : (s.later r e).epd = s.epd := by cases r <;> rfl
@[simp] theorem State.later_pwr (s : State) (r : Rate) (e : Ev) : (s.later r e).pwr = s.pwr := by cases r <;> rfl
@[simp] theorem State.later_clk (s : State) (r : Rate) (e : Ev) : (s.later r e).clk = s.clk := by cases r <;> rfl
@[simp] theorem State.later_uid (s : State) (r : Rate) (e : Ev) : (s.later r e).uid = s.uid := by cases r <;> rfl
@[simp] theorem State.later_lev (s : State) (r : Rate) (e : Ev) : (s.later r e).lev = s.lev := by cases r <;> rfl
@[simp] theorem State.later_fab (s : State) (r : Rate) (e : Ev) : (s.later r e).fab = s.fab := by cases r <;> rfl
@[simp] theorem State.later_dlv (s : State) (r : Rate) (e : Ev) : (s.later r e).dlv = s.dlv := by cases r <;> rfl
@[simp] theorem State.later_fresh (s : State) (r : Rate) (e : Ev) : (s.later r e).fresh = s.fresh := by cases r <;> rfl
@[simp] theorem State.later_word (s : State) (r : Rate) (e : Ev) (i' : Nat) : (s.later r e).word i' = s.word i' := by cases r <;> rfl
@[simp] theorem State.later_get (s : State) (r : Rate) (e : Ev) (i' : Field) : (s.later r e).get i' = s.get i' := by cases r <;> rfl
@[simp] theorem State.later_bit (s : State) (r : Rate) (e : Ev) (i' : Field) : (s.later r e).bit i' = s.bit i' := by cases r <;> rfl
@[simp] theorem State.later_geti (s : State) (r : Rate) (e : Ev) (i' : Field) : (s.later r e).geti i' = s.geti i' := by cases r <;> rfl
@[simp] theorem State.later_inForce (s : State) (r : Rate) (e : Ev) (i' : Nat) : (s.later r e).inForce i' = s.inForce i' := by cases r <;> rfl
@[simp] theorem State.later_eget (s : State) (r : Rate) (e : Ev) (i' : Field) : (s.later r e).eget i' = s.eget i' := by cases r <;> rfl
@[simp] theorem State.later_ebit (s : State) (r : Rate) (e : Ev) (i' : Field) : (s.later r e).ebit i' = s.ebit i' := by cases r <;> rfl
@[simp] theorem State.later_egeti (s : State) (r : Rate) (e : Ev) (i' : Field) : (s.later r e).egeti i' = s.egeti i' := by cases r <;> rfl
@[simp] theorem State.later_chan (s : State) (r : Rate) (e : Ev) (i' : Nat) : (s.later r e).chan i' = s.chan i' := by cases r <;> rfl
@[simp] theorem State.later_level (s : State) (r : Rate) (e : Ev) (i' : Nat) (j' : Nat) : (s.later r e).level i' j' = s.level i' j' := by cases r <;> rfl
@[simp] theorem State.later_visVal (s : State) (r : Rate) (e : Ev) (i' : Nat) : (s.later r e).visVal i' = s.visVal i' := by cases r <;> rfl
@[simp] theorem State.later_core (s : State) (r : Rate) (e : Ev) (i' : Nat) : (s.later r e).core i' = s.core i' := by cases r <;> rfl
@[simp] theorem State.later_en (s : State) (r : Rate) (e : Ev) (i' : Nat) : (s.later r e).en i' = s.en i' := by cases r <;> rfl
@[simp] theorem State.later_enAck (s : State) (r : Rate) (e : Ev) (i' : Nat) : (s.later r e).enAck i' = s.enAck i' := by cases r <;> rfl
@[simp] theorem State.later_coreOff (s : State) (r : Rate) (e : Ev) : (s.later r e).coreOff = s.coreOff := by cases r <;> rfl
@[simp] theorem State.later_authRequired (s : State) (r : Rate) (e : Ev) : (s.later r e).authRequired = s.authRequired := by cases r <;> rfl
@[simp] theorem State.later_lathPeriod (s : State) (r : Rate) (e : Ev) : (s.later r e).lathPeriod = s.lathPeriod := by cases r <;> rfl
@[simp] theorem State.later_peatEnt (s : State) (r : Rate) (e : Ev) (i' : Nat) : (s.later r e).peatEnt i' = s.peatEnt i' := by cases r <;> rfl
@[simp] theorem State.later_fanSt (s : State) (r : Rate) (e : Ev) (i' : Nat) : (s.later r e).fanSt i' = s.fanSt i' := by cases r <;> rfl
@[simp] theorem State.later_tmeSt (s : State) (r : Rate) (e : Ev) (i' : Nat) : (s.later r e).tmeSt i' = s.tmeSt i' := by cases r <;> rfl
@[simp] theorem State.later_loopSt (s : State) (r : Rate) (e : Ev) (i' : Nat) : (s.later r e).loopSt i' = s.loopSt i' := by cases r <;> rfl

end Sys2Proof.Machine
end

