-- ==== Sys2Proof/Laws/Faults.lean ====
section
/-! SUPPORT. What posting a raise or a clear changes: the fault manager and its faces on page 0x88 and nothing else; and that the
raise is then with the manager. -/
set_option Elab.async false
namespace Sys2Proof.Machine
namespace State

theorem set_page (s : State) (f : Field) (v p a : Nat) (hf : f.addr / 0x1000 = p) (ha : a / 0x1000 ≠ p) :
    (s.set f v).word a = s.word a := word_set_ne _ _ _ (by rintro rfl; exact ha hf)

theorem faultFaces_word (s : State) {a : Nat} (h : a / 0x1000 ≠ 0x88) : s.faultFaces.word a = s.word a := by
  unfold faultFaces setB
  rw [set_page _ _ _ 0x88 a rfl h, set_page _ _ _ 0x88 a rfl h, set_page _ _ _ 0x88 a rfl h, set_page _ _ _ 0x88 a rfl h,
    set_page _ _ _ 0x88 a rfl h, set_page _ _ _ 0x88 a rfl h, set_page _ _ _ 0x88 a rfl h]
  rfl

theorem faultAdmit_word (s : State) (a : Nat) : s.faultAdmit.word a = s.word a :=
  congrArg (Map.look resetWord · a) ((faultAdmit_keeps (Keeps.refl 0x40000 s) rfl).regs_eq rfl)
theorem faultTake_word (s : State) (a : Nat) : s.faultTake.word a = s.word a :=
  congrArg (Map.look resetWord · a) ((faultTake_keeps (Keeps.refl 0x40000 s) rfl).regs_eq rfl)

theorem faultSettleQueues_word (s : State) {a : Nat} (h : a / 0x1000 ≠ 0x88) : s.faultSettleQueues.word a = s.word a := by
  unfold faultSettleQueues
  rw [faultFaces_word _ h, faultTake_word, faultAdmit_word]

theorem raise_word (s : State) (c i : Nat) (k : FClass) {a : Nat} (h : a / 0x1000 ≠ 0x88) : (s.raise c i k).word a = s.word a := by
  unfold raise
  dsimp only
  split
  · rfl
  split
  · unfold bump
    rw [set_page _ _ _ 0x88 a rfl h]; rfl
  split
  · have hl : ∀ i : Fin 128, a ≠ rFaultList i 1 := by
      rintro i rfl
      apply h; unfold rFaultList; omega
    have hb : ∀ u : State, (u.bump fFaultCountsCoalesced).word a = u.word a := fun u => by
      unfold bump; exact set_page _ _ _ 0x88 a rfl h
    split
    · rw [hb]
      split
      · split
        · rw [word_setWord_ne _ _ (hl _)]; rfl
        · rfl
      · rfl
    · split
      · split
        · rw [word_setWord_ne _ _ (hl _)]; rfl
        · rfl
      · rfl
  · rw [faultSettleQueues_word _ h]; rfl

theorem clearFault_word (s : State) (c i : Nat) {a : Nat} (h : a / 0x1000 ≠ 0x88) : (s.clearFault c i).word a = s.word a := by
  unfold clearFault
  dsimp only
  split
  · rfl
  split
  · rfl
  · rw [faultSettleQueues_word _ h]; rfl

/-! ### Posting a raise (R406) -/

/-- Requests stay with the manager while they are admitted and taken up. -/
theorem admit_mem (g : List FReq × List FReq × List FReq → FReq → List FReq × List FReq × List FReq)
    (hg : ∀ a q p, (p ∈ (g a q).1 ++ (g a q).2.1 ++ (g a q).2.2) ↔ (p = q ∨ p ∈ a.1 ++ a.2.1 ++ a.2.2)) (l : List FReq)
    (a : List FReq × List FReq × List FReq) (p : FReq) :
    p ∈ (l.foldl g a).1 ++ (l.foldl g a).2.1 ++ (l.foldl g a).2.2 ↔ p ∈ l ∨ p ∈ a.1 ++ a.2.1 ++ a.2.2 := by
  induction l generalizing a with
  | nil => simp
  | cons q l ih =>
    rw [List.foldl_cons, ih, hg]
    simp only [List.mem_cons]
    grind

theorem faultAdmit_requests (s : State) (p : FReq) :
    p ∈ s.faultAdmit.requests ↔ p ∈ s.requests := by
  have := admit_mem (fun (acc : List FReq × List FReq × List FReq) (q : FReq) =>
    match acc with
    | (wait, oq, cq) =>
      if q.cls = .critical then (if cq.length < 4 then (wait, oq, cq ++ [q]) else (wait ++ [q], oq, cq))
      else if wait.any (fun w => w.code = q.code && w.inst = q.inst) then (wait ++ [q], oq, cq)
      else (if oq.length < 16 then (wait, oq ++ [q], cq) else (wait ++ [q], oq, cq)))
    (by
      intro a q p
      dsimp only
      repeat' split
      all_goals (simp only [List.mem_append, List.mem_singleton]; grind)) s.flt.flags ([], s.flt.ordQ, s.flt.critQ) p
  unfold requests faultAdmit
  dsimp only
  simp only [List.mem_append, List.nil_append] at this ⊢
  grind

theorem faultTake_requests (s : State) (p : FReq) : p ∈ s.faultTake.requests ↔ p ∈ s.requests := by
  unfold faultTake
  repeat' split
  all_goals
    unfold requests
    simp only [*, List.mem_append, List.mem_cons, Option.map_some, Option.map_none, Option.toList_some, Option.toList_none,
      List.not_mem_nil]
    try grind
  rename_i h
  have : s.flt.susp = none := by simp at h; exact h.2
  simp only [this, Option.map_none, Option.toList_none, List.not_mem_nil]
  grind

theorem faultFaces_requests (s : State) : s.faultFaces.requests = s.requests := rfl

theorem faultSettleQueues_requests (s : State) (p : FReq) : p ∈ s.faultSettleQueues.requests ↔ p ∈ s.requests := by
  unfold faultSettleQueues
  rw [faultFaces_requests, faultTake_requests, faultAdmit_requests]

/-- Once a source has posted its raise, the raise is with the manager (R406, R411). -/
theorem raise_raised (s : State) (c i : Nat) (k : FClass) : (s.raise c i k).Raised c i := by
  have hm : ∀ (l : List FReq) (g : FReq → FReq),
      (∀ q, (g q).code = q.code ∧ (g q).inst = q.inst ∧ (g q).clear = q.clear) →
      (l.any fun q => sameSrc c i q && !q.clear) = true →
      ∃ q ∈ l.map g, q.code = c ∧ q.inst = i ∧ q.clear = false := by
    intro l g hg hl
    obtain ⟨q, hq, h⟩ := List.any_eq_true.mp hl
    simp only [sameSrc, Bool.and_eq_true, decide_eq_true_eq, Bool.not_eq_true'] at h
    exact ⟨g q, List.mem_map_of_mem hq, by rw [(hg q).1]; exact h.1.1, by rw [(hg q).2.1]; exact h.1.2, by rw [(hg q).2.2]; exact h.2⟩
  have hg : ∀ q : FReq, ((if (sameSrc c i q && !q.clear) = true then { q with rep := satAdd 0xFFFF q.rep 1 } else q).code = q.code
      ∧ (if (sameSrc c i q && !q.clear) = true then { q with rep := satAdd 0xFFFF q.rep 1 } else q).inst = q.inst
      ∧ (if (sameSrc c i q && !q.clear) = true then { q with rep := satAdd 0xFFFF q.rep 1 } else q).clear = q.clear) := by
    intro q; split <;> exact ⟨rfl, rfl, rfl⟩
  unfold raise
  dsimp only
  split
  · rename_i h
    obtain ⟨q, hq, h'⟩ := hm _ _ hg h
    exact .inl ⟨q, by simp only [requests, List.mem_append]; exact .inl (.inl (.inl (.inl hq))), h'⟩
  split
  · rename_i h
    left
    simp only [Bool.or_eq_true] at h
    rcases h with ((h | h) | h) | h
    · obtain ⟨q, hq, h'⟩ := hm _ _ hg h
      exact ⟨q, by simp only [requests, bump, set, setWord, List.mem_append]; exact .inl (.inl (.inl (.inr hq))), h'⟩
    · obtain ⟨q, hq, h'⟩ := hm _ _ hg h
      exact ⟨q, by simp only [requests, bump, set, setWord, List.mem_append]; exact .inl (.inl (.inr hq)), h'⟩
    · cases hp : s.flt.proc with
      | none => simp [hp] at h
      | some x =>
        have := hm [x.1] _ hg (by simpa [hp] using h)
        obtain ⟨q, hq, h'⟩ := this
        exact ⟨q, by simp only [requests, bump, set, setWord, List.mem_append, Option.map_some, Option.toList_some]; exact .inl (.inr hq), h'⟩
    · cases hp : s.flt.susp with
      | none => simp [hp] at h
      | some x =>
        have := hm [x.1] _ hg (by simpa [hp] using h)
        obtain ⟨q, hq, h'⟩ := this
        exact ⟨q, by simp only [requests, bump, set, setWord, List.mem_append, Option.map_some, Option.toList_some]; exact .inr hq, h'⟩
  split
  · rename_i h
    right
    simp only [Bool.and_eq_true] at h
    obtain ⟨r, hr, h'⟩ := List.any_eq_true.mp h.1.1
    simp only [Bool.and_eq_true, decide_eq_true_eq] at h'
    have hs : ∀ u : State, u.flt.active = s.flt.active.map (fun r => if (decide (r.code = c) && decide (r.inst = i)) = true
        then { r with rep := satAdd 0xFFFF r.rep 1 } else r) → ∃ r ∈ u.flt.active, r.code = c ∧ r.inst = i := by
      intro u hu
      rw [hu]
      exact ⟨_, List.mem_map_of_mem hr, by split <;> exact h'.1, by split <;> exact h'.2⟩
    apply hs
    repeat' split
    all_goals rfl
  · left
    have := (faultSettleQueues_requests { s with flt := { s.flt with flags := s.flt.flags ++ [{ code := c, inst := i, cls := k }] } }
      { code := c, inst := i, cls := k }).mpr (by simp [requests])
    exact ⟨_, this, rfl, rfl, rfl⟩

/-! ### Every other part of the state -/

@[simp] theorem raise_pending (s : State) (c i : Nat) (k : FClass) : (s.raise c i k).pending = s.pending :=
  (raise_keeps (Keeps.refl 0x40004 s) rfl).pending_eq rfl
@[simp] theorem clearFault_pending (s : State) (c i : Nat) : (s.clearFault c i).pending = s.pending :=
  (clearFault_keeps (Keeps.refl 0x40004 s) rfl).pending_eq rfl
@[simp] theorem raise_now (s : State) (c i : Nat) (k : FClass) : (s.raise c i k).now = s.now :=
  (raise_keeps (Keeps.refl 0x40004 s) rfl).now_eq rfl
@[simp] theorem clearFault_now (s : State) (c i : Nat) : (s.clearFault c i).now = s.now :=
  (clearFault_keeps (Keeps.refl 0x40004 s) rfl).now_eq rfl
@[simp] theorem raise_held (s : State) (c i : Nat) (k : FClass) : (s.raise c i k).held = s.held :=
  (raise_keeps (Keeps.refl 0x40004 s) rfl).held_eq rfl
@[simp] theorem clearFault_held (s : State) (c i : Nat) : (s.clearFault c i).held = s.held :=
  (clearFault_keeps (Keeps.refl 0x40004 s) rfl).held_eq rfl
@[simp] theorem raise_frozen (s : State) (c i : Nat) (k : FClass) : (s.raise c i k).frozen = s.frozen :=
  (raise_keeps (Keeps.refl 0x40004 s) rfl).frozen_eq rfl
@[simp] theorem clearFault_frozen (s : State) (c i : Nat) : (s.clearFault c i).frozen = s.frozen :=
  (clearFault_keeps (Keeps.refl 0x40004 s) rfl).frozen_eq rfl
@[simp] theorem raise_softRst (s : State) (c i : Nat) (k : FClass) : (s.raise c i k).softRst = s.softRst :=
  (raise_keeps (Keeps.refl 0x40004 s) rfl).softRst_eq rfl
@[simp] theorem clearFault_softRst (s : State) (c i : Nat) : (s.clearFault c i).softRst = s.softRst :=
  (clearFault_keeps (Keeps.refl 0x40004 s) rfl).softRst_eq rfl
@[simp] theorem raise_port (s : State) (c i : Nat) (k : FClass) : (s.raise c i k).port = s.port :=
  (raise_keeps (Keeps.refl 0x40004 s) rfl).port_eq rfl
@[simp] theorem clearFault_port (s : State) (c i : Nat) : (s.clearFault c i).port = s.port :=
  (clearFault_keeps (Keeps.refl 0x40004 s) rfl).port_eq rfl
@[simp] theorem raise_lath (s : State) (c i : Nat) (k : FClass) : (s.raise c i k).lath = s.lath :=
  (raise_keeps (Keeps.refl 0x40004 s) rfl).lath_eq rfl
@[simp] theorem clearFault_lath (s : State) (c i : Nat) : (s.clearFault c i).lath = s.lath :=
  (clearFault_keeps (Keeps.refl 0x40004 s) rfl).lath_eq rfl
@[simp] theorem raise_uch (s : State) (c i : Nat) (k : FClass) : (s.raise c i k).uch = s.uch :=
  (raise_keeps (Keeps.refl 0x40004 s) rfl).uch_eq rfl
@[simp] theorem clearFault_uch (s : State) (c i : Nat) : (s.clearFault c i).uch = s.uch :=
  (clearFault_keeps (Keeps.refl 0x40004 s) rfl).uch_eq rfl
@[simp] theorem raise_lv (s : State) (c i : Nat) (k : FClass) : (s.raise c i k).lv = s.lv :=
  (raise_keeps (Keeps.refl 0x40004 s) rfl).lv_eq rfl
@[simp] theorem clearFault_lv (s : State) (c i : Nat) : (s.clearFault c i).lv = s.lv :=
  (clearFault_keeps (Keeps.refl 0x40004 s) rfl).lv_eq rfl
@[simp] theorem raise_l0 (s : State) (c i : Nat) (k : FClass) : (s.raise c i k).l0 = s.l0 :=
  (raise_keeps (Keeps.refl 0x40004 s) rfl).l0_eq rfl
@[simp] theorem clearFault_l0 (s : State) (c i : Nat) : (s.clearFault c i).l0 = s.l0 :=
  (clearFault_keeps (Keeps.refl 0x40004 s) rfl).l0_eq rfl
@[simp] theorem raise_stL (s : State) (c i : Nat) (k : FClass) : (s.raise c i k).stL = s.stL :=
  (raise_keeps (Keeps.refl 0x40004 s) rfl).stL_eq rfl
@[simp] theorem clearFault_stL (s : State) (c i : Nat) : (s.clearFault c i).stL = s.stL :=
  (clearFault_keeps (Keeps.refl 0x40004 s) rfl).stL_eq rfl
@[simp] theorem raise_stS (s : State) (c i : Nat) (k : FClass) : (s.raise c i k).stS = s.stS :=
  (raise_keeps (Keeps.refl 0x40004 s) rfl).stS_eq rfl
@[simp] theorem clearFault_stS (s : State) (c i : Nat) : (s.clearFault c i).stS = s.stS :=
  (clearFault_keeps (Keeps.refl 0x40004 s) rfl).stS_eq rfl
@[simp] theorem raise_hostLv (s : State) (c i : Nat) (k : FClass) : (s.raise c i k).hostLv = s.hostLv :=
  (raise_keeps (Keeps.refl 0x40004 s) rfl).hostLv_eq rfl
@[simp] theorem clearFault_hostLv (s : State) (c i : Nat) : (s.clearFault c i).hostLv = s.hostLv :=
  (clearFault_keeps (Keeps.refl 0x40004 s) rfl).hostLv_eq rfl
@[simp] theorem raise_vis (s : State) (c i : Nat) (k : FClass) : (s.raise c i k).vis = s.vis :=
  (raise_keeps (Keeps.refl 0x40004 s) rfl).vis_eq rfl
@[simp] theorem clearFault_vis (s : State) (c i : Nat) : (s.clearFault c i).vis = s.vis :=
  (clearFault_keeps (Keeps.refl 0x40004 s) rfl).vis_eq rfl
@[simp] theorem raise_img (s : State) (c i : Nat) (k : FClass) : (s.raise c i k).img = s.img :=
  (raise_keeps (Keeps.refl 0x40004 s) rfl).img_eq rfl
@[simp] theorem clearFault_img (s : State) (c i : Nat) : (s.clearFault c i).img = s.img :=
  (clearFault_keeps (Keeps.refl 0x40004 s) rfl).img_eq rfl
@[simp] theorem raise_lwork (s : State) (c i : Nat) (k : FClass) : (s.raise c i k).lwork = s.lwork :=
  (raise_keeps (Keeps.refl 0x40004 s) rfl).lwork_eq rfl
@[simp] theorem clearFault_lwork (s : State) (c i : Nat) : (s.clearFault c i).lwork = s.lwork :=
  (clearFault_keeps (Keeps.refl 0x40004 s) rfl).lwork_eq rfl
@[simp] theorem raise_swork (s : State) (c i : Nat) (k : FClass) : (s.raise c i k).swork = s.swork :=
  (raise_keeps (Keeps.refl 0x40004 s) rfl).swork_eq rfl
@[simp] theorem clearFault_swork (s : State) (c i : Nat) : (s.clearFault c i).swork = s.swork :=
  (clearFault_keeps (Keeps.refl 0x40004 s) rfl).swork_eq rfl
@[simp] theorem raise_cores (s : State) (c i : Nat) (k : FClass) : (s.raise c i k).cores = s.cores :=
  (raise_keeps (Keeps.refl 0x40004 s) rfl).cores_eq rfl
@[simp] theorem clearFault_cores (s : State) (c i : Nat) : (s.clearFault c i).cores = s.cores :=
  (clearFault_keeps (Keeps.refl 0x40004 s) rfl).cores_eq rfl
@[simp] theorem raise_nst (s : State) (c i : Nat) (k : FClass) : (s.raise c i k).nst = s.nst :=
  (raise_keeps (Keeps.refl 0x40004 s) rfl).nst_eq rfl
@[simp] theorem clearFault_nst (s : State) (c i : Nat) : (s.clearFault c i).nst = s.nst :=
  (clearFault_keeps (Keeps.refl 0x40004 s) rfl).nst_eq rfl
@[simp] theorem raise_dir (s : State) (c i : Nat) (k : FClass) : (s.raise c i k).dir = s.dir :=
  (raise_keeps (Keeps.refl 0x40004 s) rfl).dir_eq rfl
@[simp] theorem clearFault_dir (s : State) (c i : Nat) : (s.clearFault c i).dir = s.dir :=
  (clearFault_keeps (Keeps.refl 0x40004 s) rfl).dir_eq rfl
@[simp] theorem raise_boot (s : State) (c i : Nat) (k : FClass) : (s.raise c i k).boot = s.boot :=
  (raise_keeps (Keeps.refl 0x40004 s) rfl).boot_eq rfl
@[simp] theorem clearFault_boot (s : State) (c i : Nat) : (s.clearFault c i).boot = s.boot :=
  (clearFault_keeps (Keeps.refl 0x40004 s) rfl).boot_eq rfl
@[simp] theorem raise_sto (s : State) (c i : Nat) (k : FClass) : (s.raise c i k).sto = s.sto :=
  (raise_keeps (Keeps.refl 0x40004 s) rfl).sto_eq rfl
@[simp] theorem clearFault_sto (s : State) (c i : Nat) : (s.clearFault c i).sto = s.sto :=
  (clearFault_keeps (Keeps.refl 0x40004 s) rfl).sto_eq rfl
@[simp] theorem raise_eng (s : State) (c i : Nat) (k : FClass) : (s.raise c i k).eng = s.eng :=
  (raise_keeps (Keeps.refl 0x40004 s) rfl).eng_eq rfl
@[simp] theorem clearFault_eng (s : State) (c i : Nat) : (s.clearFault c i).eng = s.eng :=
  (clearFault_keeps (Keeps.refl 0x40004 s) rfl).eng_eq rfl
@[simp] theorem raise_engL (s : State) (c i : Nat) (k : FClass) : (s.raise c i k).engL = s.engL :=
  (raise_keeps (Keeps.refl 0x40004 s) rfl).engL_eq rfl
@[simp] theorem clearFault_engL (s : State) (c i : Nat) : (s.clearFault c i).engL = s.engL :=
  (clearFault_keeps (Keeps.refl 0x40004 s) rfl).engL_eq rfl
@[simp] theorem raise_engS (s : State) (c i : Nat) (k : FClass) : (s.raise c i k).engS = s.engS :=
  (raise_keeps (Keeps.refl 0x40004 s) rfl).engS_eq rfl
@[simp] theorem clearFault_engS (s : State) (c i : Nat) : (s.clearFault c i).engS = s.engS :=
  (clearFault_keeps (Keeps.refl 0x40004 s) rfl).engS_eq rfl
@[simp] theorem raise_evL (s : State) (c i : Nat) (k : FClass) : (s.raise c i k).evL = s.evL :=
  (raise_keeps (Keeps.refl 0x40004 s) rfl).evL_eq rfl
@[simp] theorem clearFault_evL (s : State) (c i : Nat) : (s.clearFault c i).evL = s.evL :=
  (clearFault_keeps (Keeps.refl 0x40004 s) rfl).evL_eq rfl
@[simp] theorem raise_evS (s : State) (c i : Nat) (k : FClass) : (s.raise c i k).evS = s.evS :=
  (raise_keeps (Keeps.refl 0x40004 s) rfl).evS_eq rfl
@[simp] theorem clearFault_evS (s : State) (c i : Nat) : (s.clearFault c i).evS = s.evS :=
  (clearFault_keeps (Keeps.refl 0x40004 s) rfl).evS_eq rfl
@[simp] theorem raise_cap (s : State) (c i : Nat) (k : FClass) : (s.raise c i k).cap = s.cap :=
  (raise_keeps (Keeps.refl 0x40004 s) rfl).cap_eq rfl
@[simp] theorem clearFault_cap (s : State) (c i : Nat) : (s.clearFault c i).cap = s.cap :=
  (clearFault_keeps (Keeps.refl 0x40004 s) rfl).cap_eq rfl
@[simp] theorem raise_rbus (s : State) (c i : Nat) (k : FClass) : (s.raise c i k).rbus = s.rbus :=
  (raise_keeps (Keeps.refl 0x40004 s) rfl).rbus_eq rfl
@[simp] theorem clearFault_rbus (s : State) (c i : Nat) : (s.clearFault c i).rbus = s.rbus :=
  (clearFault_keeps (Keeps.refl 0x40004 s) rfl).rbus_eq rfl
@[simp] theorem raise_pir (s : State) (c i : Nat) (k : FClass) : (s.raise c i k).pir = s.pir :=
  (raise_keeps (Keeps.refl 0x40004 s) rfl).pir_eq rfl
@[simp] theorem clearFault_pir (s : State) (c i : Nat) : (s.clearFault c i).pir = s.pir :=
  (clearFault_keeps (Keeps.refl 0x40004 s) rfl).pir_eq rfl
@[simp] theorem raise_tab (s : State) (c i : Nat) (k : FClass) : (s.raise c i k).tab = s.tab :=
  (raise_keeps (Keeps.refl 0x40004 s) rfl).tab_eq rfl
@[simp] theorem clearFault_tab (s : State) (c i : Nat) : (s.clearFault c i).tab = s.tab :=
  (clearFault_keeps (Keeps.refl 0x40004 s) rfl).tab_eq rfl
@[simp] theorem raise_hostZm (s : State) (c i : Nat) (k : FClass) : (s.raise c i k).hostZm = s.hostZm :=
  (raise_keeps (Keeps.refl 0x40004 s) rfl).hostZm_eq rfl
@[simp] theorem clearFault_hostZm (s : State) (c i : Nat) : (s.clearFault c i).hostZm = s.hostZm :=
  (clearFault_keeps (Keeps.refl 0x40004 s) rfl).hostZm_eq rfl
@[simp] theorem raise_stZ (s : State) (c i : Nat) (k : FClass) : (s.raise c i k).stZ = s.stZ :=
  (raise_keeps (Keeps.refl 0x40004 s) rfl).stZ_eq rfl
@[simp] theorem clearFault_stZ (s : State) (c i : Nat) : (s.clearFault c i).stZ = s.stZ :=
  (clearFault_keeps (Keeps.refl 0x40004 s) rfl).stZ_eq rfl
@[simp] theorem raise_loopPar (s : State) (c i : Nat) (k : FClass) : (s.raise c i k).loopPar = s.loopPar :=
  (raise_keeps (Keeps.refl 0x40004 s) rfl).loopPar_eq rfl
@[simp] theorem clearFault_loopPar (s : State) (c i : Nat) : (s.clearFault c i).loopPar = s.loopPar :=
  (clearFault_keeps (Keeps.refl 0x40004 s) rfl).loopPar_eq rfl
@[simp] theorem raise_loopsL (s : State) (c i : Nat) (k : FClass) : (s.raise c i k).loopsL = s.loopsL :=
  (raise_keeps (Keeps.refl 0x40004 s) rfl).loopsL_eq rfl
@[simp] theorem clearFault_loopsL (s : State) (c i : Nat) : (s.clearFault c i).loopsL = s.loopsL :=
  (clearFault_keeps (Keeps.refl 0x40004 s) rfl).loopsL_eq rfl
@[simp] theorem raise_loopsS (s : State) (c i : Nat) (k : FClass) : (s.raise c i k).loopsS = s.loopsS :=
  (raise_keeps (Keeps.refl 0x40004 s) rfl).loopsS_eq rfl
@[simp] theorem clearFault_loopsS (s : State) (c i : Nat) : (s.clearFault c i).loopsS = s.loopsS :=
  (clearFault_keeps (Keeps.refl 0x40004 s) rfl).loopsS_eq rfl
@[simp] theorem raise_tmeCmd (s : State) (c i : Nat) (k : FClass) : (s.raise c i k).tmeCmd = s.tmeCmd :=
  (raise_keeps (Keeps.refl 0x40004 s) rfl).tmeCmd_eq rfl
@[simp] theorem clearFault_tmeCmd (s : State) (c i : Nat) : (s.clearFault c i).tmeCmd = s.tmeCmd :=
  (clearFault_keeps (Keeps.refl 0x40004 s) rfl).tmeCmd_eq rfl
@[simp] theorem raise_net (s : State) (c i : Nat) (k : FClass) : (s.raise c i k).net = s.net :=
  (raise_keeps (Keeps.refl 0x40004 s) rfl).net_eq rfl
@[simp] theorem clearFault_net (s : State) (c i : Nat) : (s.clearFault c i).net = s.net :=
  (clearFault_keeps (Keeps.refl 0x40004 s) rfl).net_eq rfl
@[simp] theorem raise_fanIo (s : State) (c i : Nat) (k : FClass) : (s.raise c i k).fanIo = s.fanIo :=
  (raise_keeps (Keeps.refl 0x40004 s) rfl).fanIo_eq rfl
@[simp] theorem clearFault_fanIo (s : State) (c i : Nat) : (s.clearFault c i).fanIo = s.fanIo :=
  (clearFault_keeps (Keeps.refl 0x40004 s) rfl).fanIo_eq rfl
@[simp] theorem raise_key (s : State) (c i : Nat) (k : FClass) : (s.raise c i k).key = s.key :=
  (raise_keeps (Keeps.refl 0x40004 s) rfl).key_eq rfl
@[simp] theorem clearFault_key (s : State) (c i : Nat) : (s.clearFault c i).key = s.key :=
  (clearFault_keeps (Keeps.refl 0x40004 s) rfl).key_eq rfl
@[simp] theorem raise_epd (s : State) (c i : Nat) (k : FClass) : (s.raise c i k).epd = s.epd :=
  (raise_keeps (Keeps.refl 0x40004 s) rfl).epd_eq rfl
@[simp] theorem clearFault_epd (s : State) (c i : Nat) : (s.clearFault c i).epd = s.epd :=
  (clearFault_keeps (Keeps.refl 0x40004 s) rfl).epd_eq rfl
@[simp] theorem raise_pwr (s : State) (c i : Nat) (k : FClass) : (s.raise c i k).pwr = s.pwr :=
  (raise_keeps (Keeps.refl 0x40004 s) rfl).pwr_eq rfl
@[simp] theorem clearFault_pwr (s : State) (c i : Nat) : (s.clearFault c i).pwr = s.pwr :=
  (clearFault_keeps (Keeps.refl 0x40004 s) rfl).pwr_eq rfl
@[simp] theorem raise_clk (s : State) (c i : Nat) (k : FClass) : (s.raise c i k).clk = s.clk :=
  (raise_keeps (Keeps.refl 0x40004 s) rfl).clk_eq rfl
@[simp] theorem clearFault_clk (s : State) (c i : Nat) : (s.clearFault c i).clk = s.clk :=
  (clearFault_keeps (Keeps.refl 0x40004 s) rfl).clk_eq rfl
@[simp] theorem raise_uid (s : State) (c i : Nat) (k : FClass) : (s.raise c i k).uid = s.uid :=
  (raise_keeps (Keeps.refl 0x40004 s) rfl).uid_eq rfl
@[simp] theorem clearFault_uid (s : State) (c i : Nat) : (s.clearFault c i).uid = s.uid :=
  (clearFault_keeps (Keeps.refl 0x40004 s) rfl).uid_eq rfl
@[simp] theorem raise_lev (s : State) (c i : Nat) (k : FClass) : (s.raise c i k).lev = s.lev :=
  (raise_keeps (Keeps.refl 0x40004 s) rfl).lev_eq rfl
@[simp] theorem clearFault_lev (s : State) (c i : Nat) : (s.clearFault c i).lev = s.lev :=
  (clearFault_keeps (Keeps.refl 0x40004 s) rfl).lev_eq rfl
@[simp] theorem raise_fab (s : State) (c i : Nat) (k : FClass) : (s.raise c i k).fab = s.fab :=
  (raise_keeps (Keeps.refl 0x40004 s) rfl).fab_eq rfl
@[simp] theorem clearFault_fab (s : State) (c i : Nat) : (s.clearFault c i).fab = s.fab :=
  (clearFault_keeps (Keeps.refl 0x40004 s) rfl).fab_eq rfl
@[simp] theorem raise_dlv (s : State) (c i : Nat) (k : FClass) : (s.raise c i k).dlv = s.dlv :=
  (raise_keeps (Keeps.refl 0x40004 s) rfl).dlv_eq rfl
@[simp] theorem clearFault_dlv (s : State) (c i : Nat) : (s.clearFault c i).dlv = s.dlv :=
  (clearFault_keeps (Keeps.refl 0x40004 s) rfl).dlv_eq rfl
@[simp] theorem raise_fresh (s : State) (c i : Nat) (k : FClass) : (s.raise c i k).fresh = s.fresh :=
  (raise_keeps (Keeps.refl 0x40004 s) rfl).fresh_eq rfl
@[simp] theorem clearFault_fresh (s : State) (c i : Nat) : (s.clearFault c i).fresh = s.fresh :=
  (clearFault_keeps (Keeps.refl 0x40004 s) rfl).fresh_eq rfl
@[simp] theorem raise_chan (s : State) (c i : Nat) (k : FClass) (n : Nat) : (s.raise c i k).chan n = s.chan n := by
  unfold chan; rw [raise_uch]
@[simp] theorem clearFault_chan (s : State) (c i : Nat) (n : Nat) : (s.clearFault c i).chan n = s.chan n := by
  unfold chan; rw [clearFault_uch]

end State
end Sys2Proof.Machine
end

