-- ==== Sys2Proof/Laws/Channels.lean ====
section
/-! SUPPORT. What an update of a channel does: its record, its faces in the channel's own registers, and nothing else (R73). -/
set_option Elab.async false
namespace Sys2Proof.Machine

namespace State

theorem chanFaces_word (s : State) (n : Nat) {a : Nat} (h : chanFace n a = false) : (s.chanFaces n).word a = s.word a := by
  simp only [chanFace, Bool.or_eq_false_iff, beq_eq_false_iff_ne] at h
  obtain ⟨⟨⟨⟨h1, h2⟩, h3⟩, h4⟩, h5⟩ := h
  unfold chanFaces setB seti
  rw [word_set_ne _ _ _ h5, word_set_ne _ _ _ h4, word_set_ne _ _ _ h3, word_set_ne _ _ _ h2, word_set_ne _ _ _ h1,
    word_set_ne _ _ _ h1, word_set_ne _ _ _ h1, word_set_ne _ _ _ h1, word_set_ne _ _ _ h1, word_set_ne _ _ _ h1,
    word_set_ne _ _ _ h1, word_set_ne _ _ _ h1]
theorem upChan_word (s : State) (n : Nat) (f : Chan → Chan) {a : Nat} (h : chanFace n a = false) : (s.upChan n f).word a = s.word a :=
  chanFaces_word _ _ h
theorem markFault_word (s : State) (n k : Nat) (on : Bool) {a : Nat} (h : chanFace n a = false) (h' : a ≠ rIrqStat (8 + n / 24)) :
    (s.markFault n k on).word a = s.word a := by
  unfold markFault
  rw [word_irq_ne _ _ _ h', upChan_word _ _ _ h]
@[simp] theorem chanFaces_pending (s : State) (n : Nat) : (s.chanFaces n).pending = s.pending := (chanFaces_keeps (Keeps.refl 0x4 s) rfl).pending_eq rfl
@[simp] theorem chanFaces_now (s : State) (n : Nat) : (s.chanFaces n).now = s.now := (chanFaces_keeps (Keeps.refl 0x4 s) rfl).now_eq rfl
@[simp] theorem chanFaces_held (s : State) (n : Nat) : (s.chanFaces n).held = s.held := (chanFaces_keeps (Keeps.refl 0x4 s) rfl).held_eq rfl
@[simp] theorem chanFaces_frozen (s : State) (n : Nat) : (s.chanFaces n).frozen = s.frozen := (chanFaces_keeps (Keeps.refl 0x4 s) rfl).frozen_eq rfl
@[simp] theorem chanFaces_softRst (s : State) (n : Nat) : (s.chanFaces n).softRst = s.softRst := (chanFaces_keeps (Keeps.refl 0x4 s) rfl).softRst_eq rfl
@[simp] theorem chanFaces_port (s : State) (n : Nat) : (s.chanFaces n).port = s.port := (chanFaces_keeps (Keeps.refl 0x4 s) rfl).port_eq rfl
@[simp] theorem chanFaces_lath (s : State) (n : Nat) : (s.chanFaces n).lath = s.lath := (chanFaces_keeps (Keeps.refl 0x4 s) rfl).lath_eq rfl
@[simp] theorem chanFaces_uch (s : State) (n : Nat) : (s.chanFaces n).uch = s.uch := (chanFaces_keeps (Keeps.refl 0x4 s) rfl).uch_eq rfl
@[simp] theorem chanFaces_lv (s : State) (n : Nat) : (s.chanFaces n).lv = s.lv := (chanFaces_keeps (Keeps.refl 0x4 s) rfl).lv_eq rfl
@[simp] theorem chanFaces_l0 (s : State) (n : Nat) : (s.chanFaces n).l0 = s.l0 := (chanFaces_keeps (Keeps.refl 0x4 s) rfl).l0_eq rfl
@[simp] theorem chanFaces_stL (s : State) (n : Nat) : (s.chanFaces n).stL = s.stL := (chanFaces_keeps (Keeps.refl 0x4 s) rfl).stL_eq rfl
@[simp] theorem chanFaces_stS (s : State) (n : Nat) : (s.chanFaces n).stS = s.stS := (chanFaces_keeps (Keeps.refl 0x4 s) rfl).stS_eq rfl
@[simp] theorem chanFaces_hostLv (s : State) (n : Nat) : (s.chanFaces n).hostLv = s.hostLv := (chanFaces_keeps (Keeps.refl 0x4 s) rfl).hostLv_eq rfl
@[simp] theorem chanFaces_vis (s : State) (n : Nat) : (s.chanFaces n).vis = s.vis := (chanFaces_keeps (Keeps.refl 0x4 s) rfl).vis_eq rfl
@[simp] theorem chanFaces_img (s : State) (n : Nat) : (s.chanFaces n).img = s.img := (chanFaces_keeps (Keeps.refl 0x4 s) rfl).img_eq rfl
@[simp] theorem chanFaces_lwork (s : State) (n : Nat) : (s.chanFaces n).lwork = s.lwork := (chanFaces_keeps (Keeps.refl 0x4 s) rfl).lwork_eq rfl
@[simp] theorem chanFaces_swork (s : State) (n : Nat) : (s.chanFaces n).swork = s.swork := (chanFaces_keeps (Keeps.refl 0x4 s) rfl).swork_eq rfl
@[simp] theorem chanFaces_flt (s : State) (n : Nat) : (s.chanFaces n).flt = s.flt := (chanFaces_keeps (Keeps.refl 0x4 s) rfl).flt_eq rfl
@[simp] theorem chanFaces_cores (s : State) (n : Nat) : (s.chanFaces n).cores = s.cores := (chanFaces_keeps (Keeps.refl 0x4 s) rfl).cores_eq rfl
@[simp] theorem chanFaces_nst (s : State) (n : Nat) : (s.chanFaces n).nst = s.nst := (chanFaces_keeps (Keeps.refl 0x4 s) rfl).nst_eq rfl
@[simp] theorem chanFaces_dir (s : State) (n : Nat) : (s.chanFaces n).dir = s.dir := (chanFaces_keeps (Keeps.refl 0x4 s) rfl).dir_eq rfl
@[simp] theorem chanFaces_boot (s : State) (n : Nat) : (s.chanFaces n).boot = s.boot := (chanFaces_keeps (Keeps.refl 0x4 s) rfl).boot_eq rfl
@[simp] theorem chanFaces_sto (s : State) (n : Nat) : (s.chanFaces n).sto = s.sto := (chanFaces_keeps (Keeps.refl 0x4 s) rfl).sto_eq rfl
@[simp] theorem chanFaces_eng (s : State) (n : Nat) : (s.chanFaces n).eng = s.eng := (chanFaces_keeps (Keeps.refl 0x4 s) rfl).eng_eq rfl
@[simp] theorem chanFaces_engL (s : State) (n : Nat) : (s.chanFaces n).engL = s.engL := (chanFaces_keeps (Keeps.refl 0x4 s) rfl).engL_eq rfl
@[simp] theorem chanFaces_engS (s : State) (n : Nat) : (s.chanFaces n).engS = s.engS := (chanFaces_keeps (Keeps.refl 0x4 s) rfl).engS_eq rfl
@[simp] theorem chanFaces_evL (s : State) (n : Nat) : (s.chanFaces n).evL = s.evL := (chanFaces_keeps (Keeps.refl 0x4 s) rfl).evL_eq rfl
@[simp] theorem chanFaces_evS (s : State) (n : Nat) : (s.chanFaces n).evS = s.evS := (chanFaces_keeps (Keeps.refl 0x4 s) rfl).evS_eq rfl
@[simp] theorem chanFaces_cap (s : State) (n : Nat) : (s.chanFaces n).cap = s.cap := (chanFaces_keeps (Keeps.refl 0x4 s) rfl).cap_eq rfl
@[simp] theorem chanFaces_rbus (s : State) (n : Nat) : (s.chanFaces n).rbus = s.rbus := (chanFaces_keeps (Keeps.refl 0x4 s) rfl).rbus_eq rfl
@[simp] theorem chanFaces_pir (s : State) (n : Nat) : (s.chanFaces n).pir = s.pir := (chanFaces_keeps (Keeps.refl 0x4 s) rfl).pir_eq rfl
@[simp] theorem chanFaces_tab (s : State) (n : Nat) : (s.chanFaces n).tab = s.tab := (chanFaces_keeps (Keeps.refl 0x4 s) rfl).tab_eq rfl
@[simp] theorem chanFaces_hostZm (s : State) (n : Nat) : (s.chanFaces n).hostZm = s.hostZm := (chanFaces_keeps (Keeps.refl 0x4 s) rfl).hostZm_eq rfl
@[simp] theorem chanFaces_stZ (s : State) (n : Nat) : (s.chanFaces n).stZ = s.stZ := (chanFaces_keeps (Keeps.refl 0x4 s) rfl).stZ_eq rfl
@[simp] theorem chanFaces_loopPar (s : State) (n : Nat) : (s.chanFaces n).loopPar = s.loopPar := (chanFaces_keeps (Keeps.refl 0x4 s) rfl).loopPar_eq rfl
@[simp] theorem chanFaces_loopsL (s : State) (n : Nat) : (s.chanFaces n).loopsL = s.loopsL := (chanFaces_keeps (Keeps.refl 0x4 s) rfl).loopsL_eq rfl
@[simp] theorem chanFaces_loopsS (s : State) (n : Nat) : (s.chanFaces n).loopsS = s.loopsS := (chanFaces_keeps (Keeps.refl 0x4 s) rfl).loopsS_eq rfl
@[simp] theorem chanFaces_tmeCmd (s : State) (n : Nat) : (s.chanFaces n).tmeCmd = s.tmeCmd := (chanFaces_keeps (Keeps.refl 0x4 s) rfl).tmeCmd_eq rfl
@[simp] theorem chanFaces_net (s : State) (n : Nat) : (s.chanFaces n).net = s.net := (chanFaces_keeps (Keeps.refl 0x4 s) rfl).net_eq rfl
@[simp] theorem chanFaces_fanIo (s : State) (n : Nat) : (s.chanFaces n).fanIo = s.fanIo := (chanFaces_keeps (Keeps.refl 0x4 s) rfl).fanIo_eq rfl
@[simp] theorem chanFaces_key (s : State) (n : Nat) : (s.chanFaces n).key = s.key := (chanFaces_keeps (Keeps.refl 0x4 s) rfl).key_eq rfl
@[simp] theorem chanFaces_epd (s : State) (n : Nat) : (s.chanFaces n).epd = s.epd := (chanFaces_keeps (Keeps.refl 0x4 s) rfl).epd_eq rfl
@[simp] theorem chanFaces_pwr (s : State) (n : Nat) : (s.chanFaces n).pwr = s.pwr := (chanFaces_keeps (Keeps.refl 0x4 s) rfl).pwr_eq rfl
@[simp] theorem chanFaces_clk (s : State) (n : Nat) : (s.chanFaces n).clk = s.clk := (chanFaces_keeps (Keeps.refl 0x4 s) rfl).clk_eq rfl
@[simp] theorem chanFaces_uid (s : State) (n : Nat) : (s.chanFaces n).uid = s.uid := (chanFaces_keeps (Keeps.refl 0x4 s) rfl).uid_eq rfl
@[simp] theorem chanFaces_lev (s : State) (n : Nat) : (s.chanFaces n).lev = s.lev := (chanFaces_keeps (Keeps.refl 0x4 s) rfl).lev_eq rfl
@[simp] theorem chanFaces_fab (s : State) (n : Nat) : (s.chanFaces n).fab = s.fab := (chanFaces_keeps (Keeps.refl 0x4 s) rfl).fab_eq rfl
@[simp] theorem chanFaces_dlv (s : State) (n : Nat) : (s.chanFaces n).dlv = s.dlv := (chanFaces_keeps (Keeps.refl 0x4 s) rfl).dlv_eq rfl
@[simp] theorem chanFaces_fresh (s : State) (n : Nat) : (s.chanFaces n).fresh = s.fresh := (chanFaces_keeps (Keeps.refl 0x4 s) rfl).fresh_eq rfl
@[simp] theorem upChan_pending (s : State) (n : Nat) (f : Chan → Chan) : (s.upChan n f).pending = s.pending := (upChan_keeps (Keeps.refl 0x104 s) rfl).pending_eq rfl
@[simp] theorem markFault_pending (s : State) (n k : Nat) (on : Bool) : (s.markFault n k on).pending = s.pending := (markFault_keeps (Keeps.refl 0x104 s) rfl).pending_eq rfl
@[simp] theorem upChan_now (s : State) (n : Nat) (f : Chan → Chan) : (s.upChan n f).now = s.now := (upChan_keeps (Keeps.refl 0x104 s) rfl).now_eq rfl
@[simp] theorem markFault_now (s : State) (n k : Nat) (on : Bool) : (s.markFault n k on).now = s.now := (markFault_keeps (Keeps.refl 0x104 s) rfl).now_eq rfl
@[simp] theorem upChan_held (s : State) (n : Nat) (f : Chan → Chan) : (s.upChan n f).held = s.held := (upChan_keeps (Keeps.refl 0x104 s) rfl).held_eq rfl
@[simp] theorem markFault_held (s : State) (n k : Nat) (on : Bool) : (s.markFault n k on).held = s.held := (markFault_keeps (Keeps.refl 0x104 s) rfl).held_eq rfl
@[simp] theorem upChan_frozen (s : State) (n : Nat) (f : Chan → Chan) : (s.upChan n f).frozen = s.frozen := (upChan_keeps (Keeps.refl 0x104 s) rfl).frozen_eq rfl
@[simp] theorem markFault_frozen (s : State) (n k : Nat) (on : Bool) : (s.markFault n k on).frozen = s.frozen := (markFault_keeps (Keeps.refl 0x104 s) rfl).frozen_eq rfl
@[simp] theorem upChan_softRst (s : State) (n : Nat) (f : Chan → Chan) : (s.upChan n f).softRst = s.softRst := (upChan_keeps (Keeps.refl 0x104 s) rfl).softRst_eq rfl
@[simp] theorem markFault_softRst (s : State) (n k : Nat) (on : Bool) : (s.markFault n k on).softRst = s.softRst := (markFault_keeps (Keeps.refl 0x104 s) rfl).softRst_eq rfl
@[simp] theorem upChan_port (s : State) (n : Nat) (f : Chan → Chan) : (s.upChan n f).port = s.port := (upChan_keeps (Keeps.refl 0x104 s) rfl).port_eq rfl
@[simp] theorem markFault_port (s : State) (n k : Nat) (on : Bool) : (s.markFault n k on).port = s.port := (markFault_keeps (Keeps.refl 0x104 s) rfl).port_eq rfl
@[simp] theorem upChan_lath (s : State) (n : Nat) (f : Chan → Chan) : (s.upChan n f).lath = s.lath := (upChan_keeps (Keeps.refl 0x104 s) rfl).lath_eq rfl
@[simp] theorem markFault_lath (s : State) (n k : Nat) (on : Bool) : (s.markFault n k on).lath = s.lath := (markFault_keeps (Keeps.refl 0x104 s) rfl).lath_eq rfl
@[simp] theorem upChan_lv (s : State) (n : Nat) (f : Chan → Chan) : (s.upChan n f).lv = s.lv := (upChan_keeps (Keeps.refl 0x104 s) rfl).lv_eq rfl
@[simp] theorem markFault_lv (s : State) (n k : Nat) (on : Bool) : (s.markFault n k on).lv = s.lv := (markFault_keeps (Keeps.refl 0x104 s) rfl).lv_eq rfl
@[simp] theorem upChan_l0 (s : State) (n : Nat) (f : Chan → Chan) : (s.upChan n f).l0 = s.l0 := (upChan_keeps (Keeps.refl 0x104 s) rfl).l0_eq rfl
@[simp] theorem markFault_l0 (s : State) (n k : Nat) (on : Bool) : (s.markFault n k on).l0 = s.l0 := (markFault_keeps (Keeps.refl 0x104 s) rfl).l0_eq rfl
@[simp] theorem upChan_stL (s : State) (n : Nat) (f : Chan → Chan) : (s.upChan n f).stL = s.stL := (upChan_keeps (Keeps.refl 0x104 s) rfl).stL_eq rfl
@[simp] theorem markFault_stL (s : State) (n k : Nat) (on : Bool) : (s.markFault n k on).stL = s.stL := (markFault_keeps (Keeps.refl 0x104 s) rfl).stL_eq rfl
@[simp] theorem upChan_stS (s : State) (n : Nat) (f : Chan → Chan) : (s.upChan n f).stS = s.stS := (upChan_keeps (Keeps.refl 0x104 s) rfl).stS_eq rfl
@[simp] theorem markFault_stS (s : State) (n k : Nat) (on : Bool) : (s.markFault n k on).stS = s.stS := (markFault_keeps (Keeps.refl 0x104 s) rfl).stS_eq rfl
@[simp] theorem upChan_hostLv (s : State) (n : Nat) (f : Chan → Chan) : (s.upChan n f).hostLv = s.hostLv := (upChan_keeps (Keeps.refl 0x104 s) rfl).hostLv_eq rfl
@[simp] theorem markFault_hostLv (s : State) (n k : Nat) (on : Bool) : (s.markFault n k on).hostLv = s.hostLv := (markFault_keeps (Keeps.refl 0x104 s) rfl).hostLv_eq rfl
@[simp] theorem upChan_vis (s : State) (n : Nat) (f : Chan → Chan) : (s.upChan n f).vis = s.vis := (upChan_keeps (Keeps.refl 0x104 s) rfl).vis_eq rfl
@[simp] theorem markFault_vis (s : State) (n k : Nat) (on : Bool) : (s.markFault n k on).vis = s.vis := (markFault_keeps (Keeps.refl 0x104 s) rfl).vis_eq rfl
@[simp] theorem upChan_img (s : State) (n : Nat) (f : Chan → Chan) : (s.upChan n f).img = s.img := (upChan_keeps (Keeps.refl 0x104 s) rfl).img_eq rfl
@[simp] theorem markFault_img (s : State) (n k : Nat) (on : Bool) : (s.markFault n k on).img = s.img := (markFault_keeps (Keeps.refl 0x104 s) rfl).img_eq rfl
@[simp] theorem upChan_lwork (s : State) (n : Nat) (f : Chan → Chan) : (s.upChan n f).lwork = s.lwork := (upChan_keeps (Keeps.refl 0x104 s) rfl).lwork_eq rfl
@[simp] theorem markFault_lwork (s : State) (n k : Nat) (on : Bool) : (s.markFault n k on).lwork = s.lwork := (markFault_keeps (Keeps.refl 0x104 s) rfl).lwork_eq rfl
@[simp] theorem upChan_swork (s : State) (n : Nat) (f : Chan → Chan) : (s.upChan n f).swork = s.swork := (upChan_keeps (Keeps.refl 0x104 s) rfl).swork_eq rfl
@[simp] theorem markFault_swork (s : State) (n k : Nat) (on : Bool) : (s.markFault n k on).swork = s.swork := (markFault_keeps (Keeps.refl 0x104 s) rfl).swork_eq rfl
@[simp] theorem upChan_flt (s : State) (n : Nat) (f : Chan → Chan) : (s.upChan n f).flt = s.flt := (upChan_keeps (Keeps.refl 0x104 s) rfl).flt_eq rfl
@[simp] theorem markFault_flt (s : State) (n k : Nat) (on : Bool) : (s.markFault n k on).flt = s.flt := (markFault_keeps (Keeps.refl 0x104 s) rfl).flt_eq rfl
@[simp] theorem upChan_cores (s : State) (n : Nat) (f : Chan → Chan) : (s.upChan n f).cores = s.cores := (upChan_keeps (Keeps.refl 0x104 s) rfl).cores_eq rfl
@[simp] theorem markFault_cores (s : State) (n k : Nat) (on : Bool) : (s.markFault n k on).cores = s.cores := (markFault_keeps (Keeps.refl 0x104 s) rfl).cores_eq rfl
@[simp] theorem upChan_nst (s : State) (n : Nat) (f : Chan → Chan) : (s.upChan n f).nst = s.nst := (upChan_keeps (Keeps.refl 0x104 s) rfl).nst_eq rfl
@[simp] theorem markFault_nst (s : State) (n k : Nat) (on : Bool) : (s.markFault n k on).nst = s.nst := (markFault_keeps (Keeps.refl 0x104 s) rfl).nst_eq rfl
@[simp] theorem upChan_dir (s : State) (n : Nat) (f : Chan → Chan) : (s.upChan n f).dir = s.dir := (upChan_keeps (Keeps.refl 0x104 s) rfl).dir_eq rfl
@[simp] theorem markFault_dir (s : State) (n k : Nat) (on : Bool) : (s.markFault n k on).dir = s.dir := (markFault_keeps (Keeps.refl 0x104 s) rfl).dir_eq rfl
@[simp] theorem upChan_boot (s : State) (n : Nat) (f : Chan → Chan) : (s.upChan n f).boot = s.boot := (upChan_keeps (Keeps.refl 0x104 s) rfl).boot_eq rfl
@[simp] theorem markFault_boot (s : State) (n k : Nat) (on : Bool) : (s.markFault n k on).boot = s.boot := (markFault_keeps (Keeps.refl 0x104 s) rfl).boot_eq rfl
@[simp] theorem upChan_sto (s : State) (n : Nat) (f : Chan → Chan) : (s.upChan n f).sto = s.sto := (upChan_keeps (Keeps.refl 0x104 s) rfl).sto_eq rfl
@[simp] theorem markFault_sto (s : State) (n k : Nat) (on : Bool) : (s.markFault n k on).sto = s.sto := (markFault_keeps (Keeps.refl 0x104 s) rfl).sto_eq rfl
@[simp] theorem upChan_eng (s : State) (n : Nat) (f : Chan → Chan) : (s.upChan n f).eng = s.eng := (upChan_keeps (Keeps.refl 0x104 s) rfl).eng_eq rfl
@[simp] theorem markFault_eng (s : State) (n k : Nat) (on : Bool) : (s.markFault n k on).eng = s.eng := (markFault_keeps (Keeps.refl 0x104 s) rfl).eng_eq rfl
@[simp] theorem upChan_engL (s : State) (n : Nat) (f : Chan → Chan) : (s.upChan n f).engL = s.engL := (upChan_keeps (Keeps.refl 0x104 s) rfl).engL_eq rfl
@[simp] theorem markFault_engL (s : State) (n k : Nat) (on : Bool) : (s.markFault n k on).engL = s.engL := (markFault_keeps (Keeps.refl 0x104 s) rfl).engL_eq rfl
@[simp] theorem upChan_engS (s : State) (n : Nat) (f : Chan → Chan) : (s.upChan n f).engS = s.engS := (upChan_keeps (Keeps.refl 0x104 s) rfl).engS_eq rfl
@[simp] theorem markFault_engS (s : State) (n k : Nat) (on : Bool) : (s.markFault n k on).engS = s.engS := (markFault_keeps (Keeps.refl 0x104 s) rfl).engS_eq rfl
@[simp] theorem upChan_evL (s : State) (n : Nat) (f : Chan → Chan) : (s.upChan n f).evL = s.evL := (upChan_keeps (Keeps.refl 0x104 s) rfl).evL_eq rfl
@[simp] theorem markFault_evL (s : State) (n k : Nat) (on : Bool) : (s.markFault n k on).evL = s.evL := (markFault_keeps (Keeps.refl 0x104 s) rfl).evL_eq rfl
@[simp] theorem upChan_evS (s : State) (n : Nat) (f : Chan → Chan) : (s.upChan n f).evS = s.evS := (upChan_keeps (Keeps.refl 0x104 s) rfl).evS_eq rfl
@[simp] theorem markFault_evS (s : State) (n k : Nat) (on : Bool) : (s.markFault n k on).evS = s.evS := (markFault_keeps (Keeps.refl 0x104 s) rfl).evS_eq rfl
@[simp] theorem upChan_cap (s : State) (n : Nat) (f : Chan → Chan) : (s.upChan n f).cap = s.cap := (upChan_keeps (Keeps.refl 0x104 s) rfl).cap_eq rfl
@[simp] theorem markFault_cap (s : State) (n k : Nat) (on : Bool) : (s.markFault n k on).cap = s.cap := (markFault_keeps (Keeps.refl 0x104 s) rfl).cap_eq rfl
@[simp] theorem upChan_rbus (s : State) (n : Nat) (f : Chan → Chan) : (s.upChan n f).rbus = s.rbus := (upChan_keeps (Keeps.refl 0x104 s) rfl).rbus_eq rfl
@[simp] theorem markFault_rbus (s : State) (n k : Nat) (on : Bool) : (s.markFault n k on).rbus = s.rbus := (markFault_keeps (Keeps.refl 0x104 s) rfl).rbus_eq rfl
@[simp] theorem upChan_pir (s : State) (n : Nat) (f : Chan → Chan) : (s.upChan n f).pir = s.pir := (upChan_keeps (Keeps.refl 0x104 s) rfl).pir_eq rfl
@[simp] theorem markFault_pir (s : State) (n k : Nat) (on : Bool) : (s.markFault n k on).pir = s.pir := (markFault_keeps (Keeps.refl 0x104 s) rfl).pir_eq rfl
@[simp] theorem upChan_tab (s : State) (n : Nat) (f : Chan → Chan) : (s.upChan n f).tab = s.tab := (upChan_keeps (Keeps.refl 0x104 s) rfl).tab_eq rfl
@[simp] theorem markFault_tab (s : State) (n k : Nat) (on : Bool) : (s.markFault n k on).tab = s.tab := (markFault_keeps (Keeps.refl 0x104 s) rfl).tab_eq rfl
@[simp] theorem upChan_hostZm (s : State) (n : Nat) (f : Chan → Chan) : (s.upChan n f).hostZm = s.hostZm := (upChan_keeps (Keeps.refl 0x104 s) rfl).hostZm_eq rfl
@[simp] theorem markFault_hostZm (s : State) (n k : Nat) (on : Bool) : (s.markFault n k on).hostZm = s.hostZm := (markFault_keeps (Keeps.refl 0x104 s) rfl).hostZm_eq rfl
@[simp] theorem upChan_stZ (s : State) (n : Nat) (f : Chan → Chan) : (s.upChan n f).stZ = s.stZ := (upChan_keeps (Keeps.refl 0x104 s) rfl).stZ_eq rfl
@[simp] theorem markFault_stZ (s : State) (n k : Nat) (on : Bool) : (s.markFault n k on).stZ = s.stZ := (markFault_keeps (Keeps.refl 0x104 s) rfl).stZ_eq rfl
@[simp] theorem upChan_loopPar (s : State) (n : Nat) (f : Chan → Chan) : (s.upChan n f).loopPar = s.loopPar := (upChan_keeps (Keeps.refl 0x104 s) rfl).loopPar_eq rfl
@[simp] theorem markFault_loopPar (s : State) (n k : Nat) (on : Bool) : (s.markFault n k on).loopPar = s.loopPar := (markFault_keeps (Keeps.refl 0x104 s) rfl).loopPar_eq rfl
@[simp] theorem upChan_loopsL (s : State) (n : Nat) (f : Chan → Chan) : (s.upChan n f).loopsL = s.loopsL := (upChan_keeps (Keeps.refl 0x104 s) rfl).loopsL_eq rfl
@[simp] theorem markFault_loopsL (s : State) (n k : Nat) (on : Bool) : (s.markFault n k on).loopsL = s.loopsL := (markFault_keeps (Keeps.refl 0x104 s) rfl).loopsL_eq rfl
@[simp] theorem upChan_loopsS (s : State) (n : Nat) (f : Chan → Chan) : (s.upChan n f).loopsS = s.loopsS := (upChan_keeps (Keeps.refl 0x104 s) rfl).loopsS_eq rfl
@[simp] theorem markFault_loopsS (s : State) (n k : Nat) (on : Bool) : (s.markFault n k on).loopsS = s.loopsS := (markFault_keeps (Keeps.refl 0x104 s) rfl).loopsS_eq rfl
@[simp] theorem upChan_tmeCmd (s : State) (n : Nat) (f : Chan → Chan) : (s.upChan n f).tmeCmd = s.tmeCmd := (upChan_keeps (Keeps.refl 0x104 s) rfl).tmeCmd_eq rfl
@[simp] theorem markFault_tmeCmd (s : State) (n k : Nat) (on : Bool) : (s.markFault n k on).tmeCmd = s.tmeCmd := (markFault_keeps (Keeps.refl 0x104 s) rfl).tmeCmd_eq rfl
@[simp] theorem upChan_net (s : State) (n : Nat) (f : Chan → Chan) : (s.upChan n f).net = s.net := (upChan_keeps (Keeps.refl 0x104 s) rfl).net_eq rfl
@[simp] theorem markFault_net (s : State) (n k : Nat) (on : Bool) : (s.markFault n k on).net = s.net := (markFault_keeps (Keeps.refl 0x104 s) rfl).net_eq rfl
@[simp] theorem upChan_fanIo (s : State) (n : Nat) (f : Chan → Chan) : (s.upChan n f).fanIo = s.fanIo := (upChan_keeps (Keeps.refl 0x104 s) rfl).fanIo_eq rfl
@[simp] theorem markFault_fanIo (s : State) (n k : Nat) (on : Bool) : (s.markFault n k on).fanIo = s.fanIo := (markFault_keeps (Keeps.refl 0x104 s) rfl).fanIo_eq rfl
@[simp] theorem upChan_key (s : State) (n : Nat) (f : Chan → Chan) : (s.upChan n f).key = s.key := (upChan_keeps (Keeps.refl 0x104 s) rfl).key_eq rfl
@[simp] theorem markFault_key (s : State) (n k : Nat) (on : Bool) : (s.markFault n k on).key = s.key := (markFault_keeps (Keeps.refl 0x104 s) rfl).key_eq rfl
@[simp] theorem upChan_epd (s : State) (n : Nat) (f : Chan → Chan) : (s.upChan n f).epd = s.epd := (upChan_keeps (Keeps.refl 0x104 s) rfl).epd_eq rfl
@[simp] theorem markFault_epd (s : State) (n k : Nat) (on : Bool) : (s.markFault n k on).epd = s.epd := (markFault_keeps (Keeps.refl 0x104 s) rfl).epd_eq rfl
@[simp] theorem upChan_pwr (s : State) (n : Nat) (f : Chan → Chan) : (s.upChan n f).pwr = s.pwr := (upChan_keeps (Keeps.refl 0x104 s) rfl).pwr_eq rfl
@[simp] theorem markFault_pwr (s : State) (n k : Nat) (on : Bool) : (s.markFault n k on).pwr = s.pwr := (markFault_keeps (Keeps.refl 0x104 s) rfl).pwr_eq rfl
@[simp] theorem upChan_clk (s : State) (n : Nat) (f : Chan → Chan) : (s.upChan n f).clk = s.clk := (upChan_keeps (Keeps.refl 0x104 s) rfl).clk_eq rfl
@[simp] theorem markFault_clk (s : State) (n k : Nat) (on : Bool) : (s.markFault n k on).clk = s.clk := (markFault_keeps (Keeps.refl 0x104 s) rfl).clk_eq rfl
@[simp] theorem upChan_uid (s : State) (n : Nat) (f : Chan → Chan) : (s.upChan n f).uid = s.uid := (upChan_keeps (Keeps.refl 0x104 s) rfl).uid_eq rfl
@[simp] theorem markFault_uid (s : State) (n k : Nat) (on : Bool) : (s.markFault n k on).uid = s.uid := (markFault_keeps (Keeps.refl 0x104 s) rfl).uid_eq rfl
@[simp] theorem upChan_lev (s : State) (n : Nat) (f : Chan → Chan) : (s.upChan n f).lev = s.lev := (upChan_keeps (Keeps.refl 0x104 s) rfl).lev_eq rfl
@[simp] theorem markFault_lev (s : State) (n k : Nat) (on : Bool) : (s.markFault n k on).lev = s.lev := (markFault_keeps (Keeps.refl 0x104 s) rfl).lev_eq rfl
@[simp] theorem upChan_fab (s : State) (n : Nat) (f : Chan → Chan) : (s.upChan n f).fab = s.fab := (upChan_keeps (Keeps.refl 0x104 s) rfl).fab_eq rfl
@[simp] theorem markFault_fab (s : State) (n k : Nat) (on : Bool) : (s.markFault n k on).fab = s.fab := (markFault_keeps (Keeps.refl 0x104 s) rfl).fab_eq rfl
@[simp] theorem upChan_dlv (s : State) (n : Nat) (f : Chan → Chan) : (s.upChan n f).dlv = s.dlv := (upChan_keeps (Keeps.refl 0x104 s) rfl).dlv_eq rfl
@[simp] theorem markFault_dlv (s : State) (n k : Nat) (on : Bool) : (s.markFault n k on).dlv = s.dlv := (markFault_keeps (Keeps.refl 0x104 s) rfl).dlv_eq rfl
@[simp] theorem upChan_fresh (s : State) (n : Nat) (f : Chan → Chan) : (s.upChan n f).fresh = s.fresh := (upChan_keeps (Keeps.refl 0x104 s) rfl).fresh_eq rfl
@[simp] theorem markFault_fresh (s : State) (n k : Nat) (on : Bool) : (s.markFault n k on).fresh = s.fresh := (markFault_keeps (Keeps.refl 0x104 s) rfl).fresh_eq rfl

theorem chan_of_uch {s t : State} (h : t.uch = s.uch) (n : Nat) : t.chan n = s.chan n := by unfold chan; rw [h]
@[simp] theorem chanFaces_chan (s : State) (n m : Nat) : (s.chanFaces n).chan m = s.chan m := chan_of_uch (chanFaces_uch s n) m
@[simp] theorem upChan_chan (s : State) (n : Nat) (f : Chan → Chan) : (s.upChan n f).chan n = f (countOn s.now (s.chan n)) := by
  unfold upChan; rw [chanFaces_chan, chan_modChan_self]
theorem upChan_chan_ne (s : State) {n m : Nat} (f : Chan → Chan) (h : m ≠ n) : (s.upChan n f).chan m = s.chan m := by
  unfold upChan; rw [chanFaces_chan, chan_modChan_ne _ _ h]
@[simp] theorem markFault_chan (s : State) (n k : Nat) (on : Bool) : (s.markFault n k on).chan n =
    { countOn s.now (s.chan n) with
      faults := if on then (s.chan n).faults ||| 2 ^ (k - 1) else (s.chan n).faults &&& (0xFF - 2 ^ (k - 1)) } := by
  unfold markFault
  rw [irq_chan, upChan_chan]
  rfl
theorem markFault_chan_ne (s : State) {n m : Nat} (k : Nat) (on : Bool) (h : m ≠ n) : (s.markFault n k on).chan m = s.chan m := by
  unfold markFault; rw [irq_chan, upChan_chan_ne _ _ h]

/-- What the faces of a channel read after an update of its record. -/
theorem chanFaces_get (s : State) (n : Nat) :
    (s.chanFaces n).bit (fUchStatHizProt n) = (s.chan n).hizProt ∧ (s.chanFaces n).bit (fUchStatGap n) = (s.chan n).gapEnd.isSome
    ∧ (s.chanFaces n).bit (fUchStatDiState n) = (s.chan n).di ∧ (s.chanFaces n).get (fUchStatFaults n) = (s.chan n).faults % 256
    ∧ (s.chanFaces n).get (fUchStatEffMode n) = effMode (s.chan n) % 16
    ∧ (s.chanFaces n).get (fUchCntValue n) = (s.chan n).cnt % 2 ^ 32 ∧ (s.chanFaces n).get (fUchPeriodValue n) = (s.chan n).period % 2 ^ 32 := by
  have h2 : ∀ m, rUchOut m = rUchStat m + 8 := fun _ => rfl
  have h3 : ∀ m, rUchRdbk m = rUchStat m + 12 := fun _ => rfl
  have h4 : ∀ m, rUchCnt m = rUchStat m + 16 := fun _ => rfl
  have h5 : ∀ m, rUchPeriod m = rUchStat m + 20 := fun _ => rfl
  unfold chanFaces setB seti bit
  refine ⟨?_, ?_, ?_, ?_, ?_, ?_, ?_⟩ <;>
  simp (disch := (simp [apart, fUchStatHizProt, fUchStatClamp, fUchStatGap, fUchStatDiState, fUchStatFaults, fUchStatStreak,
    fUchStatEvents, fUchStatEffMode, fUchOutValue, fUchRdbkValue, fUchCntValue, fUchPeriodValue, h2, h3, h4, h5]))
    only [get_set_ne] <;>
  (rw [get_set_self _ _ _ (by simp [fUchStatHizProt, fUchStatGap, fUchStatDiState, fUchStatFaults, fUchStatEffMode, fUchCntValue,
    fUchPeriodValue])]) <;>
  first | rfl | (split <;> simp_all [fUchStatHizProt, fUchStatGap, fUchStatDiState])
end State
end Sys2Proof.Machine
end

