-- ==== Sys2Proof/Laws/Host.lean ====
section
/-! SUPPORT. A host write of one word to an open register: what is left of the transaction is the written word itself. -/
set_option Elab.async false
namespace Sys2Proof.Machine

theorem crc16_lt (bs : List Byte) : crc16 bs < 65536 := BitVec.isLt _

namespace State

theorem HostOpen.barred {s : State} {a : Nat} {w : Word} (h : s.HostOpen a w) (wr : Bool) :
    s.barred a 1 wr false (if s.authRequired then s.wordClass a w else 0) = (none, s) := by
  obtain ⟨-, -, h5, h6, h7, h8, h9, h10, -⟩ := h
  have hw : winOf a ≠ some 2 := by
    unfold winOf
    repeat' (split <;> first | omega | skip)
    all_goals simp
  have hc : (if s.authRequired then s.wordClass a w else 0) = 0 := by
    split
    · exact h10 ‹_›
    · rfl
  simp [State.barred, h6, h7, hc, hw, h8, h9]

theorem xactRun_write {s : State} {a : Nat} {w : Word} (h : s.HostOpen a w) (hl : (s.writeWord {} a w).2 = false) :
    s.xactRun (writeXact a w) = (0, [], (s.writeWord {} a w).1) := by
  have h5 := h.2.2.1
  have h6 := h.2.2.2.1
  have hb := h.barred true
  have ha : xactStart (writeXact a w) = a := by
    simp only [xactStart, writeXact, BitVec.toNat_ofNat]
    omega
  have ho : xactOp (writeXact a w) = 2 := by simp [xactOp, writeXact]
  have hn : xactLen (writeXact a w) = 1 := by simp [xactLen, writeXact]
  have hd : (writeXact a w).data = [w] := rfl
  have hwh : (writeXact a w).whole = true := rfl
  have hc : (writeXact a w).crc.toNat = crc16 (xactBytes (writeXact a w)) := by
    have := crc16_lt (xactBytes (writeXact a w))
    show crc16 _ % 65536 = _
    rw [Nat.mod_eq_of_lt]
    · rfl
    · exact crc16_lt _
  have hs : sizeOk a 1 = true := by
    simp only [sizeOk, h5, if_true, decide_eq_true_eq]
    omega
  have hw : winOf a ≠ some 2 := by
    unfold winOf
    repeat' (split <;> first | omega | skip)
    all_goals simp
  have hw6 : winOf a ≠ some 6 := by
    unfold winOf
    repeat' (split <;> first | omega | skip)
    all_goals simp
  unfold xactRun
  simp only [ha, ho, hn, hd, hwh, hc, hs]
  simp only [writeTxn, lowClass, List.mapIdx_cons, List.mapIdx_nil, List.foldl_cons, List.foldl_nil, List.length_cons, List.length_nil,
    Nat.mul_zero, Nat.add_zero, if_true]
  simp [hb, epdBars, hw, hw6, writeLocked, hl]

/-- The one law of host writes: on an open register the transaction does what the word does, answers OK and counts. -/
theorem hostWrite_open {s : State} {a : Nat} {w : Word} (h : s.HostOpen a w) (hl : (s.writeWord {} a w).2 = false)
    (hr : (s.writeWord {} a w).1.boot.cmdRst = none) : Answered (s.writeWord {} a w).1 (s.hostWrite a w) := by
  have hx := xactRun_write h hl
  have e : s.hostWrite a w = { (s.writeWord {} a w).1.bumpWrap fHostXactCntCount with
      port := (s.hostWrite a w).port } ∧ (s.hostWrite a w).port.resp = 0 := by
    unfold hostWrite hostXact
    rw [hx, h.1]
    simp [takeCmdReset, hr]
  exact ⟨e.2, e.1⟩

end State
end Sys2Proof.Machine
end

