-- ==== Sys2Proof/Laws/KeepsConv.lean ====
section
/-! SUPPORT. What each operation of Machine/Conv.lean may touch (Laws/Keeps.lean): the mask lists the fields it may change,
and the invariant of the block is kept. -/
set_option Elab.async false
set_option linter.all false
namespace Sys2Proof.Machine

theorem State.setCore_keeps {n0 : Nat} {s0 : State} {s : State} {c : Nat} {k : Core} (hK : Keeps n0 s0 s) (hm : Keeps.sub 0x80000 n0 = true) :
    Keeps n0 s0 (State.setCore s c k) := by
  refine Keeps.step hK ?_ hm
  clear hK hm
  unfold State.setCore
  repeat' first
    | with_reducible exact Keeps.refl _ _
    | with_reducible assumption
    | (with_reducible refine Keeps.leaf ?_ (h_cores := Keeps.chg (by decide)))
    | (dsimp only)

theorem State.modCore_keeps {n0 : Nat} {s0 : State} {s : State} {c : Nat} {f : Core → Core} (hK : Keeps n0 s0 s) (hm : Keeps.sub 0x80000 n0 = true) :
    Keeps n0 s0 (State.modCore s c f) := by
  refine Keeps.step hK ?_ hm
  clear hK hm
  unfold State.modCore
  repeat' first
    | with_reducible exact Keeps.refl _ _
    | with_reducible assumption
    | ((with_reducible apply State.setCore_keeps); (case hm => exact rfl))
    | (dsimp only)

theorem State.coreFaces_keeps {n0 : Nat} {s0 : State} {s : State} {c : Nat} (hK : Keeps n0 s0 s) (hm : Keeps.sub 0x4 n0 = true) :
    Keeps n0 s0 (State.coreFaces s c) := by
  refine Keeps.step hK ?_ hm
  clear hK hm
  unfold State.coreFaces
  repeat' first
    | with_reducible exact Keeps.refl _ _
    | with_reducible assumption
    | (extract_lets +onlyGivenNames -underBinder x; (with_reducible refine Keeps.cut (v := x) ?_ (fun hx => ?_)); subst x; rotate_left; clear_value x; rotate_right)
    | (extract_lets +onlyGivenNames -underBinder x; clear_value x)
    | ((with_reducible apply State.setB_keeps); (case hm => exact rfl))
    | ((with_reducible apply State.set_keeps); (case hm => exact rfl))
    | split
    | (dsimp only)

theorem State.startScan_keeps {n0 : Nat} {s0 : State} {s : State} {c : Nat} (hK : Keeps n0 s0 s) (hm : Keeps.sub 0x80004 n0 = true) :
    Keeps n0 s0 (State.startScan s c) := by
  refine Keeps.step hK ?_ hm
  clear hK hm
  unfold State.startScan
  repeat' first
    | with_reducible exact Keeps.refl _ _
    | with_reducible assumption
    | ((with_reducible apply State.coreFaces_keeps); (case hm => exact rfl))
    | ((with_reducible apply State.modCore_keeps); (case hm => exact rfl))
    | (dsimp only)

theorem State.loadCorrection_keeps {n0 : Nat} {s0 : State} {s : State} {n : Nat} (hK : Keeps n0 s0 s) (hm : Keeps.sub 0x80004 n0 = true) :
    Keeps n0 s0 (State.loadCorrection s n) := by
  refine Keeps.step hK ?_ hm
  clear hK hm
  unfold State.loadCorrection
  repeat' first
    | with_reducible exact Keeps.refl _ _
    | with_reducible assumption
    | (extract_lets +onlyGivenNames -underBinder x; (with_reducible refine Keeps.cut (v := x) ?_ (fun hx => ?_)); subst x; rotate_left; clear_value x; rotate_right)
    | (extract_lets +onlyGivenNames -underBinder x; clear_value x)
    | ((with_reducible apply State.seti_keeps); (case hm => exact rfl))
    | ((with_reducible apply State.modCore_keeps); (case hm => exact rfl))
    | ((with_reducible apply State.set_keeps); (case hm => exact rfl))
    | (with_reducible refine Keeps.ofP2 (by assumption) ?_)
    | (with_reducible refine Keeps.ofP1 (by assumption) ?_)
    | (with_reducible refine Keeps.ofP3 (by assumption) ?_)
    | split
    | (dsimp only)

theorem State.addSample_keeps {n0 : Nat} {s0 : State} {s : State} {c : Nat} {i : Nat} {code : Nat} {ovf : Bool} {hi : Bool} {tick : Nat} (hK : Keeps n0 s0 s) (hm : Keeps.sub 0x80000 n0 = true) :
    Keeps n0 s0 (State.addSample s c i code ovf hi tick) := by
  refine Keeps.step hK ?_ hm
  clear hK hm
  unfold State.addSample
  repeat' first
    | with_reducible exact Keeps.refl _ _
    | with_reducible assumption
    | (extract_lets +onlyGivenNames -underBinder x; (with_reducible refine Keeps.cut (v := x) ?_ (fun hx => ?_)); subst x; rotate_left; clear_value x; rotate_right)
    | (extract_lets +onlyGivenNames -underBinder x; (have hfn : (_ → _) := x; clear hfn); subst x; dsimp only)
    | (extract_lets +onlyGivenNames -underBinder x; clear_value x)
    | ((with_reducible apply State.setCore_keeps); (case hm => exact rfl))
    | (with_reducible refine Keeps.ofP2 (by assumption) ?_)
    | (with_reducible refine Keeps.ofP1 (by assumption) ?_)
    | (with_reducible refine Keeps.ofP3 (by assumption) ?_)
    | split
    | (dsimp only)

theorem State.endRound_keeps {n0 : Nat} {s0 : State} {s : State} {c : Nat} {endTick : Nat} (hK : Keeps n0 s0 s) (hm : Keeps.sub 0xc0004 n0 = true) :
    Keeps n0 s0 (State.endRound s c endTick) := by
  refine Keeps.step hK ?_ hm
  clear hK hm
  unfold State.endRound
  repeat' first
    | with_reducible exact Keeps.refl _ _
    | with_reducible assumption
    | (extract_lets +onlyGivenNames -underBinder x; (with_reducible refine Keeps.cut (v := x) ?_ (fun hx => ?_)); subst x; rotate_left; clear_value x; rotate_right)
    | (extract_lets +onlyGivenNames -underBinder x; clear_value x)
    | ((with_reducible apply State.setB_keeps); (case hm => exact rfl))
    | ((with_reducible apply State.irq_keeps); (case hm => exact rfl))
    | ((with_reducible apply State.coreFaces_keeps); (case hm => exact rfl))
    | ((with_reducible apply State.modCore_keeps); (case hm => exact rfl))
    | ((with_reducible apply State.clearFault_keeps); (case hm => exact rfl))
    | ((with_reducible apply State.set_keeps); (case hm => exact rfl))
    | ((with_reducible apply State.setCore_keeps); (case hm => exact rfl))
    | split
    | (dsimp only)

theorem State.conversionDone_keeps {n0 : Nat} {s0 : State} {s : State} {c : Nat} {code : Nat} {ovf : Bool} {hi : Bool} (hK : Keeps n0 s0 s) (hm : Keeps.sub 0xc0006 n0 = true) :
    Keeps n0 s0 (State.conversionDone s c code ovf hi) := by
  refine Keeps.step hK ?_ hm
  clear hK hm
  unfold State.conversionDone
  repeat' first
    | with_reducible exact Keeps.refl _ _
    | with_reducible assumption
    | (extract_lets +onlyGivenNames -underBinder x; (with_reducible refine Keeps.cut (v := x) ?_ (fun hx => ?_)); subst x; rotate_left; clear_value x; rotate_right)
    | (extract_lets +onlyGivenNames -underBinder x; clear_value x)
    | ((with_reducible apply State.seti_keeps); (case hm => exact rfl))
    | ((with_reducible apply State.at__keeps); (case hm => exact rfl))
    | ((with_reducible apply State.coreFaces_keeps); (case hm => exact rfl))
    | ((with_reducible apply State.modCore_keeps); (case hm => exact rfl))
    | ((with_reducible apply State.addSample_keeps); (case hm => exact rfl))
    | ((with_reducible apply State.setCore_keeps); (case hm => exact rfl))
    | ((with_reducible apply State.endRound_keeps); (case hm => exact rfl))
    | split
    | (dsimp only)

theorem State.dischargeEnd_keeps {n0 : Nat} {s0 : State} {s : State} {c : Nat} (hK : Keeps n0 s0 s) (hm : Keeps.sub 0xc0006 n0 = true) :
    Keeps n0 s0 (State.dischargeEnd s c) := by
  refine Keeps.step hK ?_ hm
  clear hK hm
  unfold State.dischargeEnd
  repeat' first
    | with_reducible exact Keeps.refl _ _
    | with_reducible assumption
    | (extract_lets +onlyGivenNames -underBinder x; (with_reducible refine Keeps.cut (v := x) ?_ (fun hx => ?_)); subst x; rotate_left; clear_value x; rotate_right)
    | (extract_lets +onlyGivenNames -underBinder x; clear_value x)
    | ((with_reducible apply State.at__keeps); (case hm => exact rfl))
    | ((with_reducible apply State.coreFaces_keeps); (case hm => exact rfl))
    | ((with_reducible apply State.setCore_keeps); (case hm => exact rfl))
    | ((with_reducible apply State.endRound_keeps); (case hm => exact rfl))
    | split
    | (dsimp only)

theorem State.inputFaults_keeps {n0 : Nat} {s0 : State} {s : State} {n : Nat} {y : Int} {ovhi : Bool} (hK : Keeps n0 s0 s) (hm : Keeps.sub 0x40104 n0 = true) :
    Keeps n0 s0 (State.inputFaults s n y ovhi) := by
  refine Keeps.step hK ?_ hm
  clear hK hm
  unfold State.inputFaults
  repeat' first
    | with_reducible exact Keeps.refl _ _
    | with_reducible assumption
    | (extract_lets +onlyGivenNames -underBinder x; (with_reducible refine Keeps.cut (v := x) ?_ (fun hx => ?_)); subst x; rotate_left; clear_value x; rotate_right)
    | (extract_lets +onlyGivenNames -underBinder x; clear_value x)
    | ((with_reducible apply State.countInput_keeps); (case hm => exact rfl))
    | (with_reducible refine Keeps.ofP2 (by assumption) ?_)
    | (with_reducible refine Keeps.ofP1 (by assumption) ?_)
    | (with_reducible refine Keeps.ofP3 (by assumption) ?_)
    | split
    | (dsimp only)

theorem State.intervalEnd_keeps {n0 : Nat} {s0 : State} {s : State} {n : Nat} (hK : Keeps n0 s0 s) (hm : Keeps.sub 0xc0106 n0 = true) :
    Keeps n0 s0 (State.intervalEnd s n) := by
  refine Keeps.step hK ?_ hm
  clear hK hm
  unfold State.intervalEnd
  repeat' first
    | with_reducible exact Keeps.refl _ _
    | with_reducible assumption
    | (extract_lets +onlyGivenNames -underBinder x; (with_reducible refine Keeps.cut (v := x) ?_ (fun hx => ?_)); subst x; rotate_left; clear_value x; rotate_right)
    | (extract_lets +onlyGivenNames -underBinder x; (have hfn : (_ → _) := x; clear hfn); subst x; dsimp only)
    | (extract_lets +onlyGivenNames -underBinder x; clear_value x)
    | ((with_reducible apply State.at__keeps); (case hm => exact rfl))
    | ((with_reducible apply State.setWord_keeps); (case hm => exact rfl))
    | ((with_reducible apply State.setCore_keeps); (case hm => exact rfl))
    | ((with_reducible apply State.inputFaults_keeps); (case hm => exact rfl))
    | split
    | (dsimp only)

theorem State.sluicePut_keeps {n0 : Nat} {s0 : State} {s : State} {c : Nat} {slot : Nat} {req : Nat} {u : State} (hq : State.sluicePut s c slot req = some u) (hK : Keeps n0 s0 s) (hm : Keeps.sub 0x80004 n0 = true) :
    Keeps n0 s0 u := by
  refine Keeps.step hK ?_ hm
  revert hq
  unfold State.sluicePut
  repeat' first
    | with_reducible exact Keeps.refl _ _
    | with_reducible assumption
    | (extract_lets +onlyGivenNames -underBinder x; (with_reducible refine Keeps.cut (v := x) ?_ (fun hx => ?_)); subst x; rotate_left; clear_value x; rotate_right)
    | (extract_lets +onlyGivenNames -underBinder x; clear_value x)
    | ((with_reducible apply State.coreFaces_keeps); (case hm => exact rfl))
    | ((with_reducible apply State.setCore_keeps); (case hm => exact rfl))
    | split
    | (intro hq; first | (cases hq; done) | (injection hq; subst_vars) | skip)
    | (dsimp only)

theorem State.sluiceVerify_keeps {n0 : Nat} {s0 : State} {s : State} {n : Nat} {u : State} (hq : State.sluiceVerify s n = some u) (hK : Keeps n0 s0 s) (hm : Keeps.sub 0x80004 n0 = true) :
    Keeps n0 s0 u := by
  refine Keeps.step hK ?_ hm
  revert hq
  unfold State.sluiceVerify
  repeat' first
    | with_reducible exact Keeps.refl _ _
    | with_reducible assumption
    | ((with_reducible apply State.sluicePut_keeps); (case hq => assumption); (case hm => exact rfl))
    | (intro hq; first | (cases hq; done) | (injection hq; subst_vars) | skip)
    | (dsimp only)

theorem State.sluiceHost_keeps {n0 : Nat} {s0 : State} {s : State} {c : Nat} {slot : Nat} (hK : Keeps n0 s0 s) (hm : Keeps.sub 0x80004 n0 = true) :
    Keeps n0 s0 (State.sluiceHost s c slot) := by
  refine Keeps.step hK ?_ hm
  clear hK hm
  unfold State.sluiceHost
  repeat' first
    | with_reducible exact Keeps.refl _ _
    | with_reducible assumption
    | ((with_reducible apply State.bump_keeps); (case hm => exact rfl))
    | ((with_reducible apply State.irq_keeps); (case hm => exact rfl))
    | ((with_reducible apply State.blkErr_keeps); (case hm => exact rfl))
    | ((with_reducible apply State.sluicePut_keeps); (case hq => assumption); (case hm => exact rfl))
    | (with_reducible refine Keeps.ofP2 (by assumption) ?_)
    | (with_reducible refine Keeps.ofP1 (by assumption) ?_)
    | (with_reducible refine Keeps.ofP3 (by assumption) ?_)
    | split
    | (dsimp only)

theorem State.urgentStart_keeps {n0 : Nat} {s0 : State} {s : State} {c : Nat} (hK : Keeps n0 s0 s) (hm : Keeps.sub 0x80006 n0 = true) :
    Keeps n0 s0 (State.urgentStart s c) := by
  refine Keeps.step hK ?_ hm
  clear hK hm
  unfold State.urgentStart
  repeat' first
    | with_reducible exact Keeps.refl _ _
    | with_reducible assumption
    | (extract_lets +onlyGivenNames -underBinder x; (with_reducible refine Keeps.cut (v := x) ?_ (fun hx => ?_)); subst x; rotate_left; clear_value x; rotate_right)
    | (extract_lets +onlyGivenNames -underBinder x; clear_value x)
    | ((with_reducible apply State.at__keeps); (case hm => exact rfl))
    | ((with_reducible apply State.coreFaces_keeps); (case hm => exact rfl))
    | ((with_reducible apply State.setCore_keeps); (case hm => exact rfl))
    | (with_reducible refine Keeps.ofP2 (by assumption) ?_)
    | (with_reducible refine Keeps.ofP1 (by assumption) ?_)
    | (with_reducible refine Keeps.ofP3 (by assumption) ?_)
    | split
    | (dsimp only)

theorem State.urgentFinish_keeps {n0 : Nat} {s0 : State} {s : State} {c : Nat} {slot : Nat} {req : Nat} {q : List (Nat × Nat)} {ovf : Bool} {hi : Bool} {zero : Bool} {y : Int} (hK : Keeps n0 s0 s) (hm : Keeps.sub 0x80006 n0 = true) :
    Keeps n0 s0 (State.urgentFinish s c slot req q ovf hi zero y) := by
  refine Keeps.step hK ?_ hm
  clear hK hm
  unfold State.urgentFinish
  repeat' first
    | with_reducible exact Keeps.refl _ _
    | with_reducible assumption
    | (extract_lets +onlyGivenNames -underBinder x; (with_reducible refine Keeps.cut (v := x) ?_ (fun hx => ?_)); subst x; rotate_left; clear_value x; rotate_right)
    | (extract_lets +onlyGivenNames -underBinder x; (have hfn : (_ → _) := x; clear hfn); subst x; dsimp only)
    | (extract_lets +onlyGivenNames -underBinder x; clear_value x)
    | ((with_reducible apply State.setB_keeps); (case hm => exact rfl))
    | ((with_reducible apply State.bump_keeps); (case hm => exact rfl))
    | ((with_reducible apply State.irq_keeps); (case hm => exact rfl))
    | ((with_reducible apply State.at__keeps); (case hm => exact rfl))
    | ((with_reducible apply State.setWord_keeps); (case hm => exact rfl))
    | ((with_reducible apply State.coreFaces_keeps); (case hm => exact rfl))
    | ((with_reducible apply State.set_keeps); (case hm => exact rfl))
    | ((with_reducible apply State.setCore_keeps); (case hm => exact rfl))
    | (with_reducible refine Keeps.ofP2 (by assumption) ?_)
    | (with_reducible refine Keeps.ofP1 (by assumption) ?_)
    | (with_reducible refine Keeps.ofP3 (by assumption) ?_)
    | split
    | (dsimp only)

theorem State.urgentDone_keeps {n0 : Nat} {s0 : State} {s : State} {c : Nat} {code : Nat} {ovf : Bool} {hi : Bool} {x1 x2 x3 x4 u} (hq : State.urgentDone s c code ovf hi = some (x1, x2, x3, x4, u)) (hK : Keeps n0 s0 s) (hm : Keeps.sub 0x80006 n0 = true) :
    Keeps n0 s0 u := by
  refine Keeps.step hK ?_ hm
  revert hq
  unfold State.urgentDone
  dsimp only
  split
  · intro hq
    simp only [Option.some.injEq, Prod.mk.injEq] at hq
    obtain ⟨-, -, -, -, rfl⟩ := hq
    exact State.urgentFinish_keeps (Keeps.refl _ _) rfl
  · intro hq; cases hq

theorem State.verifyResult_keeps {n0 : Nat} {s0 : State} {s : State} {n : Nat} {y : Int} (hK : Keeps n0 s0 s) (hm : Keeps.sub 0x40104 n0 = true) :
    Keeps n0 s0 (State.verifyResult s n y) := by
  refine Keeps.step hK ?_ hm
  clear hK hm
  unfold State.verifyResult
  repeat' first
    | with_reducible exact Keeps.refl _ _
    | with_reducible assumption
    | (extract_lets +onlyGivenNames -underBinder x; (with_reducible refine Keeps.cut (v := x) ?_ (fun hx => ?_)); subst x; rotate_left; clear_value x; rotate_right)
    | (extract_lets +onlyGivenNames -underBinder x; clear_value x)
    | ((with_reducible apply State.upChan_keeps); (case hm => exact rfl))
    | ((with_reducible apply State.raiseRdbk_keeps); (case hm => exact rfl))
    | split
    | (dsimp only)

theorem State.selfCheck_keeps {n0 : Nat} {s0 : State} {s : State} {c : Nat} {f : Field} {cause : Nat} {sum : Nat} {centre : Nat} {ok : Nat} (hK : Keeps n0 s0 s) (hm : Keeps.sub 0x40004 n0 = true) :
    Keeps n0 s0 (State.selfCheck s c f cause sum centre ok).2 := by
  refine Keeps.step hK ?_ hm
  clear hK hm
  unfold State.selfCheck
  repeat' first
    | with_reducible exact Keeps.refl _ _
    | with_reducible assumption
    | (extract_lets +onlyGivenNames -underBinder x; (with_reducible refine Keeps.cut (v := x) ?_ (fun hx => ?_)); subst x; rotate_left; clear_value x; rotate_right)
    | (extract_lets +onlyGivenNames -underBinder x; clear_value x)
    | ((with_reducible apply State.setB_keeps); (case hm => exact rfl))
    | ((with_reducible apply State.irq_keeps); (case hm => exact rfl))
    | ((with_reducible apply State.clearFault_keeps); (case hm => exact rfl))
    | ((with_reducible apply State.raise_keeps); (case hm => exact rfl))
    | split
    | (dsimp only)

theorem State.selfCheckBlock_keeps {n0 : Nat} {s0 : State} {s : State} {c : Nat} (hK : Keeps n0 s0 s) (hm : Keeps.sub 0xc0004 n0 = true) :
    Keeps n0 s0 (State.selfCheckBlock s c) := by
  refine Keeps.step hK ?_ hm
  clear hK hm
  unfold State.selfCheckBlock
  repeat' first
    | with_reducible exact Keeps.refl _ _
    | with_reducible assumption
    | (extract_lets +onlyGivenNames -underBinder x; (with_reducible refine Keeps.cut (v := x) ?_ (fun hx => ?_)); subst x; rotate_left; clear_value x; rotate_right)
    | (extract_lets +onlyGivenNames -underBinder x; clear_value x)
    | ((with_reducible apply State.coreFaces_keeps); (case hm => exact rfl))
    | ((with_reducible apply State.modCore_keeps); (case hm => exact rfl))
    | ((with_reducible apply State.set_keeps); (case hm => exact rfl))
    | ((with_reducible apply State.selfCheck_keeps); (case hm => exact rfl))
    | (with_reducible refine Keeps.ofP2 (by assumption) ?_)
    | (with_reducible refine Keeps.ofP1 (by assumption) ?_)
    | (with_reducible refine Keeps.ofP3 (by assumption) ?_)
    | split
    | (dsimp only)

theorem State.tempBlock_keeps {n0 : Nat} {s0 : State} {s : State} {c : Nat} (hK : Keeps n0 s0 s) (hm : Keeps.sub 0x80006 n0 = true) :
    Keeps n0 s0 (State.tempBlock s c) := by
  refine Keeps.step hK ?_ hm
  clear hK hm
  unfold State.tempBlock
  repeat' first
    | with_reducible exact Keeps.refl _ _
    | with_reducible assumption
    | (extract_lets +onlyGivenNames -underBinder x; (with_reducible refine Keeps.cut (v := x) ?_ (fun hx => ?_)); subst x; rotate_left; clear_value x; rotate_right)
    | (extract_lets +onlyGivenNames -underBinder x; clear_value x)
    | ((with_reducible apply State.seti_keeps); (case hm => exact rfl))
    | ((with_reducible apply State.at__keeps); (case hm => exact rfl))
    | ((with_reducible apply State.modCore_keeps); (case hm => exact rfl))
    | split
    | (dsimp only)

theorem State.correctionWrite_keeps {n0 : Nat} {s0 : State} {s : State} {c : Nat} {i : Nat} {gain : Bool} {w : Word} (hK : Keeps n0 s0 s) (hm : Keeps.sub 0x4 n0 = true) :
    Keeps n0 s0 (State.correctionWrite s c i gain w) := by
  refine Keeps.step hK ?_ hm
  clear hK hm
  unfold State.correctionWrite
  repeat' first
    | with_reducible exact Keeps.refl _ _
    | with_reducible assumption
    | ((with_reducible apply State.blkErr_keeps); (case hm => exact rfl))
    | ((with_reducible apply State.set_keeps); (case hm => exact rfl))
    | split
    | (dsimp only)

theorem State.enterMode_keeps {n0 : Nat} {s0 : State} {s : State} {n : Nat} (hK : Keeps n0 s0 s) (hm : Keeps.sub 0x20000870c0104 n0 = true) :
    Keeps n0 s0 (State.enterMode s n) := by
  refine Keeps.step hK ?_ hm
  clear hK hm
  unfold State.enterMode
  repeat' first
    | with_reducible exact Keeps.refl _ _
    | with_reducible assumption
    | (extract_lets +onlyGivenNames -underBinder x; (with_reducible refine Keeps.cut (v := x) ?_ (fun hx => ?_)); subst x; rotate_left; clear_value x; rotate_right)
    | (extract_lets +onlyGivenNames -underBinder x; (have hfn : (_ → _) := x; clear hfn); subst x; dsimp only)
    | (extract_lets +onlyGivenNames -underBinder x; clear_value x)
    | ((with_reducible apply State.modChan_keeps); (case hm => exact rfl))
    | ((with_reducible apply State.commitOutput_keeps); (case hm => exact rfl))
    | ((with_reducible apply State.freeNat_keeps); (case hm => exact rfl))
    | ((with_reducible apply State.upChan_keeps); (case hm => exact rfl))
    | ((with_reducible apply State.loadCorrection_keeps); (case hm => exact rfl))
    | (with_reducible refine Keeps.ofP2 (by assumption) ?_)
    | (with_reducible refine Keeps.ofP1 (by assumption) ?_)
    | (with_reducible refine Keeps.ofP3 (by assumption) ?_)
    | split
    | (with_reducible refine Keeps.leaf ?_ (h_eng := Keeps.chg (by decide)) (h_engL := Keeps.chg (by decide)) (h_engS := Keeps.chg (by decide)) (h_pir := Keeps.chg (by decide)))
    | (dsimp only)

end Sys2Proof.Machine
end

