-- ==== Sys2Proof/Laws/KeepsFaults.lean ====
section
/-! SUPPORT. What each operation of Machine/Faults.lean may touch (Laws/Keeps.lean): the mask lists the fields it may change,
and the invariant of the block is kept. -/
set_option Elab.async false
set_option linter.all false
namespace Sys2Proof.Machine

theorem State.setCause_keeps {n0 : Nat} {s0 : State} {s : State} {q : FReq} (hK : Keeps n0 s0 s) (hm : Keeps.sub 0x4 n0 = true) :
    Keeps n0 s0 (State.setCause s q) := by
  refine Keeps.step hK ?_ hm
  clear hK hm
  unfold State.setCause
  repeat' first
    | with_reducible exact Keeps.refl _ _
    | with_reducible assumption
    | (extract_lets +onlyGivenNames -underBinder x; (with_reducible refine Keeps.cut (v := x) ?_ (fun hx => ?_)); subst x; rotate_left; clear_value x; rotate_right)
    | (extract_lets +onlyGivenNames -underBinder x; clear_value x)
    | ((with_reducible apply State.setB_keeps); (case hm => exact rfl))
    | ((with_reducible apply State.set_keeps); (case hm => exact rfl))
    | (with_reducible refine Keeps.ofP2 (by assumption) ?_)
    | (with_reducible refine Keeps.ofP1 (by assumption) ?_)
    | (with_reducible refine Keeps.ofP3 (by assumption) ?_)
    | split
    | (dsimp only)

theorem State.listFace_keeps {n0 : Nat} {s0 : State} {s : State} {r : FRec} (hK : Keeps n0 s0 s) (hm : Keeps.sub 0x4 n0 = true) :
    Keeps n0 s0 (State.listFace s r) := by
  refine Keeps.step hK ?_ hm
  clear hK hm
  unfold State.listFace
  repeat' first
    | with_reducible exact Keeps.refl _ _
    | with_reducible assumption
    | (extract_lets +onlyGivenNames -underBinder x; (with_reducible refine Keeps.cut (v := x) ?_ (fun hx => ?_)); subst x; rotate_left; clear_value x; rotate_right)
    | (extract_lets +onlyGivenNames -underBinder x; clear_value x)
    | ((with_reducible apply State.setWord_keeps); (case hm => exact rfl))
    | ((with_reducible apply State.setPair_keeps); (case hm => exact rfl))
    | (with_reducible refine Keeps.ofP2 (by assumption) ?_)
    | (with_reducible refine Keeps.ofP1 (by assumption) ?_)
    | (with_reducible refine Keeps.ofP3 (by assumption) ?_)
    | split
    | (dsimp only)

theorem State.listFree_keeps {n0 : Nat} {s0 : State} {s : State} {i : Fin 128} (hK : Keeps n0 s0 s) (hm : Keeps.sub 0x4 n0 = true) :
    Keeps n0 s0 (State.listFree s i) := by
  refine Keeps.step hK ?_ hm
  clear hK hm
  unfold State.listFree
  repeat' first
    | with_reducible exact Keeps.refl _ _
    | with_reducible assumption
    | ((with_reducible apply State.setWord_keeps); (case hm => exact rfl))
    | (with_reducible refine Keeps.fold _ _ ?_ (fun u b hu => ?_))
    | (dsimp only)

theorem State.pageFault_keeps {n0 : Nat} {s0 : State} {s : State} {page : Nat} (hK : Keeps n0 s0 s) (hm : Keeps.sub 0x4 n0 = true) :
    Keeps n0 s0 (State.pageFault s page) := by
  refine Keeps.step hK ?_ hm
  clear hK hm
  unfold State.pageFault
  repeat' first
    | with_reducible exact Keeps.refl _ _
    | with_reducible assumption
    | ((with_reducible apply State.setB_keeps); (case hm => exact rfl))
    | (dsimp only)

theorem State.queueAlarm_keeps {n0 : Nat} {s0 : State} {s : State} {q : FReq} {rep : Nat} (hK : Keeps n0 s0 s) (hm : Keeps.sub 0x40004 n0 = true) :
    Keeps n0 s0 (State.queueAlarm s q rep) := by
  refine Keeps.step hK ?_ hm
  clear hK hm
  unfold State.queueAlarm
  repeat' first
    | with_reducible exact Keeps.refl _ _
    | with_reducible assumption
    | (extract_lets +onlyGivenNames -underBinder x; (with_reducible refine Keeps.cut (v := x) ?_ (fun hx => ?_)); subst x; rotate_left; clear_value x; rotate_right)
    | (extract_lets +onlyGivenNames -underBinder x; subst x)
    | ((with_reducible apply State.bump_keeps); (case hm => exact rfl))
    | ((with_reducible apply State.irq_keeps); (case hm => exact rfl))
    | split
    | (with_reducible refine Keeps.leaf ?_ (h_flt := Keeps.chg (by decide)) (i5 := (fun h => by first | exact h | (simp only; first | omega | (simp; omega) | (simp; done)))))
    | (dsimp only)

theorem State.stageL0_keeps {n0 : Nat} {s0 : State} {s : State} {set : Bool} {l : List (Nat × L0Owner)} (hK : Keeps n0 s0 s) (hm : Keeps.sub 0x40000 n0 = true) :
    Keeps n0 s0 (State.stageL0 s set l) := by
  refine Keeps.step hK ?_ hm
  clear hK hm
  unfold State.stageL0
  repeat' first
    | with_reducible exact Keeps.refl _ _
    | with_reducible assumption
    | (with_reducible refine Keeps.leaf ?_ (h_flt := Keeps.chg (by decide)) (i5 := (fun h => by first | exact h | (simp only; first | omega | (simp; omega) | (simp; done)))))
    | (dsimp only)

theorem State.takeSlot_keeps {n0 : Nat} {s0 : State} {s : State} {cls : FClass} (hK : Keeps n0 s0 s) (hm : Keeps.sub 0x40000 n0 = true) :
    Keeps n0 s0 (State.takeSlot s cls).2 := by
  refine Keeps.step hK ?_ hm
  clear hK hm
  unfold State.takeSlot
  repeat' first
    | with_reducible exact Keeps.refl _ _
    | with_reducible assumption
    | (extract_lets +onlyGivenNames -underBinder x; (with_reducible refine Keeps.cut (v := x) ?_ (fun hx => ?_)); subst x; rotate_left; clear_value x; rotate_right)
    | (extract_lets +onlyGivenNames -underBinder x; subst x)
    | (with_reducible refine Keeps.ofP2 (by assumption) ?_)
    | (with_reducible refine Keeps.ofP1 (by assumption) ?_)
    | (with_reducible refine Keeps.ofP3 (by assumption) ?_)
    | split
    | (with_reducible refine Keeps.leaf ?_ (h_flt := Keeps.chg (by decide)) (i5 := (fun h => by first | exact h | (simp only; first | omega | (simp; omega) | (simp; done)))))
    | (dsimp only)

theorem State.processRaise_keeps {n0 : Nat} {s0 : State} {s : State} {q : FReq} (hK : Keeps n0 s0 s) (hm : Keeps.sub 0x140004 n0 = true) :
    Keeps n0 s0 (State.processRaise s q) := by
  refine Keeps.step hK ?_ hm
  clear hK hm
  unfold State.processRaise
  repeat' first
    | with_reducible exact Keeps.refl _ _
    | with_reducible assumption
    | (extract_lets +onlyGivenNames -underBinder x; (with_reducible refine Keeps.cut (v := x) ?_ (fun hx => ?_)); subst x; rotate_left; clear_value x; rotate_right)
    | (extract_lets +onlyGivenNames -underBinder x; subst x)
    | ((with_reducible apply State.setB_keeps); (case hm => exact rfl))
    | ((with_reducible apply State.bump_keeps); (case hm => exact rfl))
    | ((with_reducible apply State.irq_keeps); (case hm => exact rfl))
    | ((with_reducible apply State.listFace_keeps); (case hm => exact rfl))
    | ((with_reducible apply State.setCause_keeps); (case hm => exact rfl))
    | ((with_reducible apply State.takeSlot_keeps); (case hm => exact rfl))
    | ((with_reducible apply State.audit_keeps); (case hm => exact rfl))
    | ((with_reducible apply State.queueAlarm_keeps); (case hm => exact rfl))
    | ((with_reducible apply State.pageFault_keeps); (case hm => exact rfl))
    | ((with_reducible apply State.stageL0_keeps); (case hm => exact rfl))
    | (with_reducible refine Keeps.ofP2 (by assumption) ?_)
    | (with_reducible refine Keeps.ofP1 (by assumption) ?_)
    | (with_reducible refine Keeps.ofP3 (by assumption) ?_)
    | split
    | (with_reducible refine Keeps.leaf ?_ (h_flt := Keeps.chg (by decide)) (i5 := (fun h => by first | exact h | (simp only; first | omega | (simp; omega) | (simp; done)))))
    | (dsimp only)

theorem State.processClear_keeps {n0 : Nat} {s0 : State} {s : State} {q : FReq} (hK : Keeps n0 s0 s) (hm : Keeps.sub 0x140004 n0 = true) :
    Keeps n0 s0 (State.processClear s q) := by
  refine Keeps.step hK ?_ hm
  clear hK hm
  unfold State.processClear
  repeat' first
    | with_reducible exact Keeps.refl _ _
    | with_reducible assumption
    | (extract_lets +onlyGivenNames -underBinder x; (with_reducible refine Keeps.cut (v := x) ?_ (fun hx => ?_)); subst x; rotate_left; clear_value x; rotate_right)
    | (extract_lets +onlyGivenNames -underBinder x; subst x)
    | ((with_reducible apply State.setB_keeps); (case hm => exact rfl))
    | ((with_reducible apply State.irq_keeps); (case hm => exact rfl))
    | ((with_reducible apply State.stageRelease_keeps); (case hm => exact rfl))
    | ((with_reducible apply State.audit_keeps); (case hm => exact rfl))
    | ((with_reducible apply State.queueAlarm_keeps); (case hm => exact rfl))
    | ((with_reducible apply State.listFree_keeps); (case hm => exact rfl))
    | ((with_reducible apply State.pageFault_keeps); (case hm => exact rfl))
    | ((with_reducible apply State.stageL0_keeps); (case hm => exact rfl))
    | (with_reducible refine Keeps.ofP2 (by assumption) ?_)
    | (with_reducible refine Keeps.ofP1 (by assumption) ?_)
    | (with_reducible refine Keeps.ofP3 (by assumption) ?_)
    | split
    | (with_reducible refine Keeps.leaf ?_ (h_flt := Keeps.chg (by decide)) (i5 := (fun h => by first | exact h | (simp only; first | omega | (simp; omega) | (simp; done)))))
    | (dsimp only)

theorem State.faultProcessed_keeps {n0 : Nat} {s0 : State} {s : State} (hK : Keeps n0 s0 s) (hm : Keeps.sub 0x140004 n0 = true) :
    Keeps n0 s0 (State.faultProcessed s) := by
  refine Keeps.step hK ?_ hm
  clear hK hm
  unfold State.faultProcessed
  repeat' first
    | with_reducible exact Keeps.refl _ _
    | with_reducible assumption
    | (extract_lets +onlyGivenNames -underBinder x; (with_reducible refine Keeps.cut (v := x) ?_ (fun hx => ?_)); subst x; rotate_left; clear_value x; rotate_right)
    | (extract_lets +onlyGivenNames -underBinder x; subst x)
    | ((with_reducible apply State.faultSettleQueues_keeps); (case hm => exact rfl))
    | ((with_reducible apply State.processClear_keeps); (case hm => exact rfl))
    | ((with_reducible apply State.clearFault_keeps); (case hm => exact rfl))
    | ((with_reducible apply State.processRaise_keeps); (case hm => exact rfl))
    | (with_reducible refine Keeps.ofP2 (by assumption) ?_)
    | (with_reducible refine Keeps.ofP1 (by assumption) ?_)
    | (with_reducible refine Keeps.ofP3 (by assumption) ?_)
    | split
    | (with_reducible refine Keeps.leaf ?_ (h_flt := Keeps.chg (by decide)) (i5 := (fun h => by first | exact h | (simp only; first | omega | (simp; omega) | (simp; done)))))
    | (dsimp only)

theorem State.faultEdge_keeps {n0 : Nat} {s0 : State} {s : State} {r : Rate} (hK : Keeps n0 s0 s) (hm : Keeps.sub 0x40480 n0 = true) :
    Keeps n0 s0 (State.faultEdge s r) := by
  refine Keeps.step hK ?_ hm
  clear hK hm
  unfold State.faultEdge
  repeat' first
    | with_reducible exact Keeps.refl _ _
    | with_reducible assumption
    | (extract_lets +onlyGivenNames -underBinder x; (with_reducible refine Keeps.cut (v := x) ?_ (fun hx => ?_)); subst x; rotate_left; clear_value x; rotate_right)
    | (extract_lets +onlyGivenNames -underBinder x; subst x)
    | ((with_reducible apply State.settleL0_keeps); (case hm => exact rfl))
    | split
    | (with_reducible refine Keeps.leaf ?_ (h_lath := Keeps.chg (by decide)) (h_flt := Keeps.chg (by decide)) (i5 := (fun h => by first | exact h | (simp only; first | omega | (simp; omega) | (simp; done)))) (i6 := (fun h => by first | exact h | (simp only; first | omega | (simp; omega) | (simp; done)))))
    | (dsimp only)

theorem State.queueOverflow_keeps {n0 : Nat} {s0 : State} {s : State} (hK : Keeps n0 s0 s) (hm : Keeps.sub 0x40006 n0 = true) :
    Keeps n0 s0 (State.queueOverflow s) := by
  refine Keeps.step hK ?_ hm
  clear hK hm
  unfold State.queueOverflow
  repeat' first
    | with_reducible exact Keeps.refl _ _
    | with_reducible assumption
    | (extract_lets +onlyGivenNames -underBinder x; (with_reducible refine Keeps.cut (v := x) ?_ (fun hx => ?_)); subst x; rotate_left; clear_value x; rotate_right)
    | (extract_lets +onlyGivenNames -underBinder x; subst x)
    | ((with_reducible apply State.irq_keeps); (case hm => exact rfl))
    | ((with_reducible apply State.at__keeps); (case hm => exact rfl))
    | ((with_reducible apply State.raise_keeps); (case hm => exact rfl))
    | (with_reducible refine Keeps.ofP2 (by assumption) ?_)
    | (with_reducible refine Keeps.ofP1 (by assumption) ?_)
    | (with_reducible refine Keeps.ofP3 (by assumption) ?_)
    | split
    | (with_reducible refine Keeps.leaf ?_ (h_flt := Keeps.chg (by decide)) (i5 := (fun h => by first | exact h | (simp only; first | omega | (simp; omega) | (simp; done)))))
    | (dsimp only)

theorem State.fmStop_keeps {n0 : Nat} {s0 : State} {s : State} {trig : Nat} (hK : Keeps n0 s0 s) (hm : Keeps.sub 0x40584 n0 = true) :
    Keeps n0 s0 (State.fmStop s trig) := by
  refine Keeps.step hK ?_ hm
  clear hK hm
  unfold State.fmStop
  repeat' first
    | with_reducible exact Keeps.refl _ _
    | with_reducible assumption
    | (extract_lets +onlyGivenNames -underBinder x; (with_reducible refine Keeps.cut (v := x) ?_ (fun hx => ?_)); subst x; rotate_left; clear_value x; rotate_right)
    | (extract_lets +onlyGivenNames -underBinder x; subst x)
    | ((with_reducible apply State.tripPath_keeps); (case hm => exact rfl))
    | ((with_reducible apply State.faultFaces_keeps); (case hm => exact rfl))
    | split
    | (with_reducible refine Keeps.leaf ?_ (h_lath := Keeps.chg (by decide)) (h_flt := Keeps.chg (by decide)) (i5 := (fun h => by first | exact h | (simp only; first | omega | (simp; omega) | (simp; done)))) (i6 := (fun h => by first | exact h | (simp only; first | omega | (simp; omega) | (simp; done)))))
    | (dsimp only)

theorem State.faultClr_keeps {n0 : Nat} {s0 : State} {s : State} (hK : Keeps n0 s0 s) (hm : Keeps.sub 0x40004 n0 = true) :
    Keeps n0 s0 (State.faultClr s) := by
  refine Keeps.step hK ?_ hm
  clear hK hm
  unfold State.faultClr
  repeat' first
    | with_reducible exact Keeps.refl _ _
    | with_reducible assumption
    | (extract_lets +onlyGivenNames -underBinder x; (with_reducible refine Keeps.cut (v := x) ?_ (fun hx => ?_)); subst x; rotate_left; clear_value x; rotate_right)
    | (extract_lets +onlyGivenNames -underBinder x; clear_value x)
    | ((with_reducible apply State.setB_keeps); (case hm => exact rfl))
    | ((with_reducible apply State.stageRelease_keeps); (case hm => exact rfl))
    | split
    | (dsimp only)

theorem State.sramErrors_keeps {n0 : Nat} {s0 : State} {s : State} {corr : Nat} {uncorr : Option Nat} (hK : Keeps n0 s0 s) (hm : Keeps.sub 0x40504 n0 = true) :
    Keeps n0 s0 (State.sramErrors s corr uncorr) := by
  refine Keeps.step hK ?_ hm
  clear hK hm
  unfold State.sramErrors
  repeat' first
    | with_reducible exact Keeps.refl _ _
    | with_reducible assumption
    | (extract_lets +onlyGivenNames -underBinder x; (with_reducible refine Keeps.cut (v := x) ?_ (fun hx => ?_)); subst x; rotate_left; clear_value x; rotate_right)
    | (extract_lets +onlyGivenNames -underBinder x; clear_value x)
    | ((with_reducible apply State.setB_keeps); (case hm => exact rfl))
    | ((with_reducible apply State.tripPath_keeps); (case hm => exact rfl))
    | ((with_reducible apply State.bumpBy_keeps); (case hm => exact rfl))
    | ((with_reducible apply State.set_keeps); (case hm => exact rfl))
    | ((with_reducible apply State.raise_keeps); (case hm => exact rfl))
    | ((with_reducible apply State.nme_keeps); (case hm => exact rfl))
    | (with_reducible refine Keeps.ofP2 (by assumption) ?_)
    | (with_reducible refine Keeps.ofP1 (by assumption) ?_)
    | (with_reducible refine Keeps.ofP3 (by assumption) ?_)
    | split
    | (dsimp only)

theorem State.tjCheck_keeps {n0 : Nat} {s0 : State} {s : State} (hK : Keeps n0 s0 s) (hm : Keeps.sub 0x40504 n0 = true) :
    Keeps n0 s0 (State.tjCheck s) := by
  refine Keeps.step hK ?_ hm
  clear hK hm
  unfold State.tjCheck
  repeat' first
    | with_reducible exact Keeps.refl _ _
    | with_reducible assumption
    | (extract_lets +onlyGivenNames -underBinder x; (with_reducible refine Keeps.cut (v := x) ?_ (fun hx => ?_)); subst x; rotate_left; clear_value x; rotate_right)
    | (extract_lets +onlyGivenNames -underBinder x; subst x)
    | ((with_reducible apply State.tripPath_keeps); (case hm => exact rfl))
    | ((with_reducible apply State.raise_keeps); (case hm => exact rfl))
    | ((with_reducible apply State.nme_keeps); (case hm => exact rfl))
    | split
    | (with_reducible refine Keeps.leaf ?_ (h_flt := Keeps.chg (by decide)) (i5 := (fun h => by first | exact h | (simp only; first | omega | (simp; omega) | (simp; done)))))
    | (dsimp only)

theorem State.tjClear_keeps {n0 : Nat} {s0 : State} {s : State} (hK : Keeps n0 s0 s) (hm : Keeps.sub 0x40006 n0 = true) :
    Keeps n0 s0 (State.tjClear s) := by
  refine Keeps.step hK ?_ hm
  clear hK hm
  unfold State.tjClear
  repeat' first
    | with_reducible exact Keeps.refl _ _
    | with_reducible assumption
    | (extract_lets +onlyGivenNames -underBinder x; (with_reducible refine Keeps.cut (v := x) ?_ (fun hx => ?_)); subst x; rotate_left; clear_value x; rotate_right)
    | (extract_lets +onlyGivenNames -underBinder x; subst x)
    | ((with_reducible apply State.setB_keeps); (case hm => exact rfl))
    | ((with_reducible apply State.at__keeps); (case hm => exact rfl))
    | ((with_reducible apply State.clearFault_keeps); (case hm => exact rfl))
    | ((with_reducible apply State.stageRelease_keeps); (case hm => exact rfl))
    | (with_reducible refine Keeps.ofP2 (by assumption) ?_)
    | (with_reducible refine Keeps.ofP1 (by assumption) ?_)
    | (with_reducible refine Keeps.ofP3 (by assumption) ?_)
    | split
    | (with_reducible refine Keeps.leaf ?_ (h_flt := Keeps.chg (by decide)) (i5 := (fun h => by first | exact h | (simp only; first | omega | (simp; omega) | (simp; done)))))
    | (dsimp only)

end Sys2Proof.Machine
end

