-- ==== Sys2Proof/Laws/KeepsStore.lean ====
section
/-! SUPPORT. What each operation of Machine/Store.lean may touch (Laws/Keeps.lean): the mask lists the fields it may change,
and the invariant of the block is kept. -/
set_option Elab.async false
set_option linter.all false
namespace Sys2Proof.Machine

/-- A page's words enter the served image in its canonical form. -/
theorem ramOk_foldl (l : List Nat) (k : Nat → Nat) (v : Nat → Word) {m : Map Word} (h : ramOk m) :
    ramOk (l.foldl (fun m i => Map.put (fun _ => 0xFFFFFFFF#32) m (k i) (v i)) m) := by
  induction l generalizing m with
  | nil => exact h
  | cons i l ih => exact ih (Map.put_wf _ _ _ h)

theorem State.updSto_keeps {n0 : Nat} {s0 : State} {s : State} {f : StoSt → StoSt} (hf : ramOk s.sto.ram → ramOk (f s.sto).ram) (hK : Keeps n0 s0 s) (hm : Keeps.sub 0x800000 n0 = true) :
    Keeps n0 s0 (State.updSto s f) := by
  refine Keeps.step hK ?_ hm
  clear hK hm
  unfold State.updSto
  repeat' first
    | with_reducible exact Keeps.refl _ _
    | with_reducible assumption
    | (with_reducible refine Keeps.leaf ?_ (h_sto := Keeps.chg (by decide)) (i2 := hf))
    | (dsimp only)

theorem State.setPslot_keeps {n0 : Nat} {s0 : State} {s : State} {k : Nat} {x : PSlot} (hK : Keeps n0 s0 s) (hm : Keeps.sub 0x800000 n0 = true) :
    Keeps n0 s0 (State.setPslot s k x) := by
  refine Keeps.step hK ?_ hm
  clear hK hm
  unfold State.setPslot
  repeat' first
    | with_reducible exact Keeps.refl _ _
    | with_reducible assumption
    | ((with_reducible apply State.updSto_keeps); (case hm => exact rfl); (case hf => first | exact id | exact (fun _ => rfl)))
    | (dsimp only)

theorem State.serve_keeps {n0 : Nat} {s0 : State} {s : State} {p : Nat} {ws : List Word} (hK : Keeps n0 s0 s) (hm : Keeps.sub 0x800000 n0 = true) :
    Keeps n0 s0 (State.serve s p ws) := by
  refine Keeps.step hK ?_ hm
  clear hK hm
  unfold State.serve
  refine State.updSto_keeps ?_ (Keeps.refl _ _) rfl
  exact fun h => ramOk_foldl _ _ _ h

theorem State.runRefuse_keeps {n0 : Nat} {s0 : State} {s : State} {src : RunSrc} {addr : Nat} {len : Nat} {result : Nat} {cause : Nat} {off : Nat} (hK : Keeps n0 s0 s) (hm : Keeps.sub 0x4 n0 = true) :
    Keeps n0 s0 (State.runRefuse s src addr len result cause off) := by
  refine Keeps.step hK ?_ hm
  clear hK hm
  unfold State.runRefuse
  repeat' first
    | with_reducible exact Keeps.refl _ _
    | with_reducible assumption
    | (extract_lets +onlyGivenNames -underBinder x; (with_reducible refine Keeps.cut (v := x) ?_ (fun hx => ?_)); subst x; rotate_left; clear_value x; rotate_right)
    | (extract_lets +onlyGivenNames -underBinder x; clear_value x)
    | ((with_reducible apply State.irq_keeps); (case hm => exact rfl))
    | ((with_reducible apply State.blkErr_keeps); (case hm => exact rfl))
    | ((with_reducible apply State.set_keeps); (case hm => exact rfl))
    | (dsimp only)

theorem State.storeFaces_keeps {n0 : Nat} {s0 : State} {s : State} (hK : Keeps n0 s0 s) (hm : Keeps.sub 0x4 n0 = true) :
    Keeps n0 s0 (State.storeFaces s) := by
  refine Keeps.step hK ?_ hm
  clear hK hm
  unfold State.storeFaces
  repeat' first
    | with_reducible exact Keeps.refl _ _
    | with_reducible assumption
    | (extract_lets +onlyGivenNames -underBinder x; (with_reducible refine Keeps.cut (v := x) ?_ (fun hx => ?_)); subst x; rotate_left; clear_value x; rotate_right)
    | (extract_lets +onlyGivenNames -underBinder x; clear_value x)
    | ((with_reducible apply State.setB_keeps); (case hm => exact rfl))
    | ((with_reducible apply State.set_keeps); (case hm => exact rfl))
    | (with_reducible refine Keeps.ofP2 (by assumption) ?_)
    | (with_reducible refine Keeps.ofP1 (by assumption) ?_)
    | (with_reducible refine Keeps.ofP3 (by assumption) ?_)
    | split
    | (dsimp only)

theorem State.runStart_keeps {n0 : Nat} {s0 : State} {s : State} {r : Run} (hK : Keeps n0 s0 s) (hm : Keeps.sub 0x800004 n0 = true) :
    Keeps n0 s0 (State.runStart s r) := by
  refine Keeps.step hK ?_ hm
  clear hK hm
  unfold State.runStart
  repeat' first
    | with_reducible exact Keeps.refl _ _
    | with_reducible assumption
    | (extract_lets +onlyGivenNames -underBinder x; (with_reducible refine Keeps.cut (v := x) ?_ (fun hx => ?_)); subst x; rotate_left; clear_value x; rotate_right)
    | (extract_lets +onlyGivenNames -underBinder x; clear_value x)
    | ((with_reducible apply State.storeFaces_keeps); (case hm => exact rfl))
    | ((with_reducible apply State.updSto_keeps); (case hm => exact rfl); (case hf => first | exact id | exact (fun _ => rfl)))
    | ((with_reducible apply State.set_keeps); (case hm => exact rfl))
    | (dsimp only)

theorem State.engineRun_keeps {n0 : Nat} {s0 : State} {s : State} {r : Run} (hK : Keeps n0 s0 s) (hm : Keeps.sub 0x800004 n0 = true) :
    Keeps n0 s0 (State.engineRun s r).2 := by
  refine Keeps.step hK ?_ hm
  clear hK hm
  unfold State.engineRun
  repeat' first
    | with_reducible exact Keeps.refl _ _
    | with_reducible assumption
    | ((with_reducible apply State.storeFaces_keeps); (case hm => exact rfl))
    | ((with_reducible apply State.updSto_keeps); (case hm => exact rfl); (case hf => first | exact id | exact (fun _ => rfl)))
    | ((with_reducible apply State.runStart_keeps); (case hm => exact rfl))
    | ((with_reducible apply State.runRefuse_keeps); (case hm => exact rfl))
    | split
    | (dsimp only)

theorem State.runNext_keeps {n0 : Nat} {s0 : State} {y0 : Nat} {y1 : State} (hK : Keeps n0 s0 y1) (hm : Keeps.sub 0x800004 n0 = true) :
    Keeps n0 s0 (State.runNext y0 y1) := by
  refine Keeps.step hK ?_ hm
  clear hK hm
  induction y0 generalizing y1 with
  | zero => exact Keeps.refl _ _
  | succ k ih =>
    unfold State.runNext
    split
    · extract_lets s1
      refine Keeps.trans (t := s1) (State.updSto_keeps ?_ (Keeps.refl _ _) rfl) ?_
      · exact id
      split
      · refine Keeps.trans ?_ ih
        refine State.updSto_keeps ?_ (State.runRefuse_keeps (Keeps.refl _ _) rfl) rfl
        exact id
      · exact State.runStart_keeps (Keeps.refl _ _) rfl
    · exact Keeps.refl _ _

theorem State.runEnd_keeps {n0 : Nat} {s0 : State} {s : State} {r : Run} {result : Nat} (hK : Keeps n0 s0 s) (hm : Keeps.sub 0x800004 n0 = true) :
    Keeps n0 s0 (State.runEnd s r result) := by
  refine Keeps.step hK ?_ hm
  clear hK hm
  unfold State.runEnd
  repeat' first
    | with_reducible exact Keeps.refl _ _
    | with_reducible assumption
    | (extract_lets +onlyGivenNames -underBinder x; (with_reducible refine Keeps.cut (v := x) ?_ (fun hx => ?_)); subst x; rotate_left; clear_value x; rotate_right)
    | (extract_lets +onlyGivenNames -underBinder x; clear_value x)
    | ((with_reducible apply State.storeFaces_keeps); (case hm => exact rfl))
    | ((with_reducible apply State.irq_keeps); (case hm => exact rfl))
    | ((with_reducible apply State.runNext_keeps); (case hm => exact rfl))
    | ((with_reducible apply State.updSto_keeps); (case hm => exact rfl); (case hf => first | exact id | exact (fun _ => rfl)))
    | ((with_reducible apply State.set_keeps); (case hm => exact rfl))
    | split
    | (dsimp only)

theorem State.wearSee_keeps {n0 : Nat} {s0 : State} {s : State} {p : Nat} {seq : Nat} (hK : Keeps n0 s0 s) (hm : Keeps.sub 0x40004 n0 = true) :
    Keeps n0 s0 (State.wearSee s p seq) := by
  refine Keeps.step hK ?_ hm
  clear hK hm
  unfold State.wearSee
  repeat' first
    | with_reducible exact Keeps.refl _ _
    | with_reducible assumption
    | (extract_lets +onlyGivenNames -underBinder x; (with_reducible refine Keeps.cut (v := x) ?_ (fun hx => ?_)); subst x; rotate_left; clear_value x; rotate_right)
    | (extract_lets +onlyGivenNames -underBinder x; clear_value x)
    | ((with_reducible apply State.irq_keeps); (case hm => exact rfl))
    | ((with_reducible apply State.set_keeps); (case hm => exact rfl))
    | ((with_reducible apply State.raise_keeps); (case hm => exact rfl))
    | split
    | (dsimp only)

theorem State.pageCommit_keeps {n0 : Nat} {s0 : State} {s : State} {r : Run} {p : Nat} (hK : Keeps n0 s0 s) (hm : Keeps.sub 0x840004 n0 = true) :
    Keeps n0 s0 (State.pageCommit s r p) := by
  refine Keeps.step hK ?_ hm
  clear hK hm
  unfold State.pageCommit
  repeat' first
    | with_reducible exact Keeps.refl _ _
    | with_reducible assumption
    | (extract_lets +onlyGivenNames -underBinder x; (with_reducible refine Keeps.cut (v := x) ?_ (fun hx => ?_)); subst x; rotate_left; clear_value x; rotate_right)
    | (extract_lets +onlyGivenNames -underBinder x; clear_value x)
    | ((with_reducible apply State.setB_keeps); (case hm => exact rfl))
    | ((with_reducible apply State.serve_keeps); (case hm => exact rfl))
    | ((with_reducible apply State.wearSee_keeps); (case hm => exact rfl))
    | ((with_reducible apply State.set_keeps); (case hm => exact rfl))
    | ((with_reducible apply State.setPslot_keeps); (case hm => exact rfl))
    | (with_reducible refine Keeps.ofP2 (by assumption) ?_)
    | (with_reducible refine Keeps.ofP1 (by assumption) ?_)
    | (with_reducible refine Keeps.ofP3 (by assumption) ?_)
    | split
    | (dsimp only)

theorem State.pageDone_keeps {n0 : Nat} {s0 : State} {s : State} {ok : Bool} (hK : Keeps n0 s0 s) (hm : Keeps.sub 0x840004 n0 = true) :
    Keeps n0 s0 (State.pageDone s ok) := by
  refine Keeps.step hK ?_ hm
  clear hK hm
  unfold State.pageDone
  repeat' first
    | with_reducible exact Keeps.refl _ _
    | with_reducible assumption
    | (extract_lets +onlyGivenNames -underBinder x; (with_reducible refine Keeps.cut (v := x) ?_ (fun hx => ?_)); subst x; rotate_left; clear_value x; rotate_right)
    | (extract_lets +onlyGivenNames -underBinder x; clear_value x)
    | ((with_reducible apply State.storeFaces_keeps); (case hm => exact rfl))
    | ((with_reducible apply State.runEnd_keeps); (case hm => exact rfl))
    | ((with_reducible apply State.updSto_keeps); (case hm => exact rfl); (case hf => first | exact id | exact (fun _ => rfl)))
    | ((with_reducible apply State.set_keeps); (case hm => exact rfl))
    | ((with_reducible apply State.raise_keeps); (case hm => exact rfl))
    | ((with_reducible apply State.pageCommit_keeps); (case hm => exact rfl))
    | (with_reducible refine Keeps.ofP2 (by assumption) ?_)
    | (with_reducible refine Keeps.ofP1 (by assumption) ?_)
    | (with_reducible refine Keeps.ofP3 (by assumption) ?_)
    | split
    | (dsimp only)

theorem State.storeStop_keeps {n0 : Nat} {s0 : State} {s : State} {code : Nat} (hK : Keeps n0 s0 s) (hm : Keeps.sub 0x800004 n0 = true) :
    Keeps n0 s0 (State.storeStop s code) := by
  refine Keeps.step hK ?_ hm
  clear hK hm
  unfold State.storeStop
  repeat' first
    | with_reducible exact Keeps.refl _ _
    | with_reducible assumption
    | (extract_lets +onlyGivenNames -underBinder x; (with_reducible refine Keeps.cut (v := x) ?_ (fun hx => ?_)); subst x; rotate_left; clear_value x; rotate_right)
    | (extract_lets +onlyGivenNames -underBinder x; clear_value x)
    | ((with_reducible apply State.storeFaces_keeps); (case hm => exact rfl))
    | ((with_reducible apply State.updSto_keeps); (case hm => exact rfl); (case hf => first | exact id | exact (fun _ => rfl)))
    | split
    | (dsimp only)

theorem State.emptyBuffer_keeps {n0 : Nat} {s0 : State} {s : State} (hK : Keeps n0 s0 s) (hm : Keeps.sub 0x800004 n0 = true) :
    Keeps n0 s0 (State.emptyBuffer s) := by
  refine Keeps.step hK ?_ hm
  clear hK hm
  unfold State.emptyBuffer
  repeat' first
    | with_reducible exact Keeps.refl _ _
    | with_reducible assumption
    | ((with_reducible apply State.updSto_keeps); (case hm => exact rfl); (case hf => first | exact id | exact (fun _ => rfl)))
    | ((with_reducible apply State.set_keeps); (case hm => exact rfl))
    | (dsimp only)

theorem State.bufferFaces_keeps {n0 : Nat} {s0 : State} {s : State} (hK : Keeps n0 s0 s) (hm : Keeps.sub 0x2000000000004 n0 = true) :
    Keeps n0 s0 (State.bufferFaces s) := by
  refine Keeps.step hK ?_ hm
  clear hK hm
  unfold State.bufferFaces
  repeat' first
    | with_reducible exact Keeps.refl _ _
    | with_reducible assumption
    | (extract_lets +onlyGivenNames -underBinder x; (with_reducible refine Keeps.cut (v := x) ?_ (fun hx => ?_)); subst x; rotate_left; clear_value x; rotate_right)
    | (extract_lets +onlyGivenNames -underBinder x; clear_value x)
    | ((with_reducible apply State.freeNat_keeps); (case hm => exact rfl))
    | ((with_reducible apply State.set_keeps); (case hm => exact rfl))
    | (with_reducible refine Keeps.ofP2 (by assumption) ?_)
    | (with_reducible refine Keeps.ofP1 (by assumption) ?_)
    | (with_reducible refine Keeps.ofP3 (by assumption) ?_)
    | split
    | (dsimp only)

theorem State.runPush_keeps {n0 : Nat} {s0 : State} {s : State} {ws : List Word} (hK : Keeps n0 s0 s) (hm : Keeps.sub 0x2000000800004 n0 = true) :
    Keeps n0 s0 (State.runPush s ws) := by
  refine Keeps.step hK ?_ hm
  clear hK hm
  unfold State.runPush
  repeat' first
    | with_reducible exact Keeps.refl _ _
    | with_reducible assumption
    | ((with_reducible apply State.updSto_keeps); (case hm => exact rfl); (case hf => first | exact id | exact (fun _ => rfl)))
    | ((with_reducible apply State.bufferFaces_keeps); (case hm => exact rfl))
    | (dsimp only)

theorem State.windowRun_keeps {n0 : Nat} {s0 : State} {s : State} {addr : Nat} {ws : List Word} (hK : Keeps n0 s0 s) (hm : Keeps.sub 0x800004 n0 = true) :
    Keeps n0 s0 (State.windowRun s addr ws) := by
  refine Keeps.step hK ?_ hm
  clear hK hm
  unfold State.windowRun
  repeat' first
    | with_reducible exact Keeps.refl _ _
    | with_reducible assumption
    | (extract_lets +onlyGivenNames -underBinder x; (with_reducible refine Keeps.cut (v := x) ?_ (fun hx => ?_)); subst x; rotate_left; clear_value x; rotate_right)
    | (extract_lets +onlyGivenNames -underBinder x; clear_value x)
    | ((with_reducible apply State.runStart_keeps); (case hm => exact rfl))
    | ((with_reducible apply State.runRefuse_keeps); (case hm => exact rfl))
    | split
    | (dsimp only)

theorem State.runGo_keeps {n0 : Nat} {s0 : State} {s : State} {digest : Option (Nat × Nat × Nat)} (hK : Keeps n0 s0 s) (hm : Keeps.sub 0x800004 n0 = true) :
    Keeps n0 s0 (State.runGo s digest) := by
  refine Keeps.step hK ?_ hm
  clear hK hm
  unfold State.runGo
  repeat' first
    | with_reducible exact Keeps.refl _ _
    | with_reducible assumption
    | (extract_lets +onlyGivenNames -underBinder x; (with_reducible refine Keeps.cut (v := x) ?_ (fun hx => ?_)); subst x; rotate_left; clear_value x; rotate_right)
    | (extract_lets +onlyGivenNames -underBinder x; (have hfn : (_ → _) := x; clear hfn); subst x; dsimp only)
    | (extract_lets +onlyGivenNames -underBinder x; clear_value x)
    | ((with_reducible apply State.runStart_keeps); (case hm => exact rfl))
    | ((with_reducible apply State.runRefuse_keeps); (case hm => exact rfl))
    | (with_reducible refine Keeps.ofP2 (by assumption) ?_)
    | (with_reducible refine Keeps.ofP1 (by assumption) ?_)
    | (with_reducible refine Keeps.ofP3 (by assumption) ?_)
    | split
    | (dsimp only)

theorem State.setBp_keeps {n0 : Nat} {s0 : State} {s : State} {bp : Nat} (hK : Keeps n0 s0 s) (hm : Keeps.sub 0x800004 n0 = true) :
    Keeps n0 s0 (State.setBp s bp) := by
  refine Keeps.step hK ?_ hm
  clear hK hm
  unfold State.setBp
  repeat' first
    | with_reducible exact Keeps.refl _ _
    | with_reducible assumption
    | (extract_lets +onlyGivenNames -underBinder x; (with_reducible refine Keeps.cut (v := x) ?_ (fun hx => ?_)); subst x; rotate_left; clear_value x; rotate_right)
    | (extract_lets +onlyGivenNames -underBinder x; clear_value x)
    | ((with_reducible apply State.storeFaces_keeps); (case hm => exact rfl))
    | ((with_reducible apply State.updSto_keeps); (case hm => exact rfl); (case hf => first | exact id | exact (fun _ => rfl)))
    | ((with_reducible apply State.set_keeps); (case hm => exact rfl))
    | ((with_reducible apply State.engineRun_keeps); (case hm => exact rfl))
    | (dsimp only)

theorem State.protectWrite_keeps {n0 : Nat} {s0 : State} {s : State} {w : Word} (hK : Keeps n0 s0 s) (hm : Keeps.sub 0x800004 n0 = true) :
    Keeps n0 s0 (State.protectWrite s w) := by
  refine Keeps.step hK ?_ hm
  clear hK hm
  unfold State.protectWrite
  repeat' first
    | with_reducible exact Keeps.refl _ _
    | with_reducible assumption
    | (extract_lets +onlyGivenNames -underBinder x; (with_reducible refine Keeps.cut (v := x) ?_ (fun hx => ?_)); subst x; rotate_left; clear_value x; rotate_right)
    | (extract_lets +onlyGivenNames -underBinder x; clear_value x)
    | ((with_reducible apply State.storeFaces_keeps); (case hm => exact rfl))
    | ((with_reducible apply State.blkErr_keeps); (case hm => exact rfl))
    | ((with_reducible apply State.updSto_keeps); (case hm => exact rfl); (case hf => first | exact id | exact (fun _ => rfl)))
    | ((with_reducible apply State.setBp_keeps); (case hm => exact rfl))
    | split
    | (dsimp only)

theorem State.protectCmd_keeps {n0 : Nat} {s0 : State} {s : State} {w : Word} (hK : Keeps n0 s0 s) (hm : Keeps.sub 0x800004 n0 = true) :
    Keeps n0 s0 (State.protectCmd s w) := by
  refine Keeps.step hK ?_ hm
  clear hK hm
  unfold State.protectCmd
  repeat' first
    | with_reducible exact Keeps.refl _ _
    | with_reducible assumption
    | (extract_lets +onlyGivenNames -underBinder x; (with_reducible refine Keeps.cut (v := x) ?_ (fun hx => ?_)); subst x; rotate_left; clear_value x; rotate_right)
    | (extract_lets +onlyGivenNames -underBinder x; clear_value x)
    | ((with_reducible apply State.storeFaces_keeps); (case hm => exact rfl))
    | ((with_reducible apply State.blkErr_keeps); (case hm => exact rfl))
    | ((with_reducible apply State.updSto_keeps); (case hm => exact rfl); (case hf => first | exact id | exact (fun _ => rfl)))
    | ((with_reducible apply State.setBp_keeps); (case hm => exact rfl))
    | split
    | (dsimp only)

theorem State.storeUnlock_keeps {n0 : Nat} {s0 : State} {s : State} {w : Word} (hK : Keeps n0 s0 s) (hm : Keeps.sub 0x800004 n0 = true) :
    Keeps n0 s0 (State.storeUnlock s w) := by
  refine Keeps.step hK ?_ hm
  clear hK hm
  unfold State.storeUnlock
  repeat' first
    | with_reducible exact Keeps.refl _ _
    | with_reducible assumption
    | (extract_lets +onlyGivenNames -underBinder x; (with_reducible refine Keeps.cut (v := x) ?_ (fun hx => ?_)); subst x; rotate_left; clear_value x; rotate_right)
    | (extract_lets +onlyGivenNames -underBinder x; clear_value x)
    | ((with_reducible apply State.storeFaces_keeps); (case hm => exact rfl))
    | ((with_reducible apply State.updSto_keeps); (case hm => exact rfl); (case hf => first | exact id | exact (fun _ => rfl)))
    | (with_reducible refine Keeps.ofP2 (by assumption) ?_)
    | (with_reducible refine Keeps.ofP1 (by assumption) ?_)
    | (with_reducible refine Keeps.ofP3 (by assumption) ?_)
    | split
    | (dsimp only)

theorem State.storeDisarm_keeps {n0 : Nat} {s0 : State} {s : State} (hK : Keeps n0 s0 s) (hm : Keeps.sub 0x800004 n0 = true) :
    Keeps n0 s0 (State.storeDisarm s) := by
  refine Keeps.step hK ?_ hm
  clear hK hm
  unfold State.storeDisarm
  repeat' first
    | with_reducible exact Keeps.refl _ _
    | with_reducible assumption
    | ((with_reducible apply State.storeFaces_keeps); (case hm => exact rfl))
    | ((with_reducible apply State.updSto_keeps); (case hm => exact rfl); (case hf => first | exact id | exact (fun _ => rfl)))
    | (dsimp only)

theorem State.storeRecall_keeps {n0 : Nat} {s0 : State} {s : State} (hK : Keeps n0 s0 s) (hm : Keeps.sub 0x2000000840004 n0 = true) :
    Keeps n0 s0 (State.storeRecall s) := by
  refine Keeps.step hK ?_ hm
  clear hK hm
  unfold State.storeRecall
  repeat' first
    | with_reducible exact Keeps.refl _ _
    | with_reducible assumption
    | (extract_lets +onlyGivenNames -underBinder x; (with_reducible refine Keeps.cut (v := x) ?_ (fun hx => ?_)); subst x; rotate_left; clear_value x; rotate_right)
    | (extract_lets +onlyGivenNames -underBinder x; clear_value x)
    | ((with_reducible apply State.setB_keeps); (case hm => exact rfl))
    | ((with_reducible apply State.storeFaces_keeps); (case hm => exact rfl))
    | ((with_reducible apply State.serve_keeps); (case hm => exact rfl))
    | ((with_reducible apply State.irq_keeps); (case hm => exact rfl))
    | ((with_reducible apply State.runNext_keeps); (case hm => exact rfl))
    | ((with_reducible apply State.updSto_keeps); (case hm => exact rfl); (case hf => first | exact id | exact (fun _ => rfl)))
    | ((with_reducible apply State.freeNat_keeps); (case hm => exact rfl))
    | ((with_reducible apply State.set_keeps); (case hm => exact rfl))
    | ((with_reducible apply State.raise_keeps); (case hm => exact rfl))
    | (with_reducible refine Keeps.fold _ _ ?_ (fun u b hu => ?_))
    | (with_reducible refine Keeps.ofP2 (by assumption) ?_)
    | (with_reducible refine Keeps.ofP1 (by assumption) ?_)
    | (with_reducible refine Keeps.ofP3 (by assumption) ?_)
    | split
    | (dsimp only)

end Sys2Proof.Machine
end

