-- ==== Sys2Proof/Laws/KeepsPoints.lean ====
section
/-! SUPPORT. What each operation of Machine/Points.lean may touch (Laws/Keeps.lean): the mask lists the fields it may change,
and the invariant of the block is kept. -/
set_option Elab.async false
set_option linter.all false
namespace Sys2Proof.Machine

theorem State.dirFaces_keeps {n0 : Nat} {s0 : State} {s : State} (hK : Keeps n0 s0 s) (hm : Keeps.sub 0x4 n0 = true) :
    Keeps n0 s0 (State.dirFaces s) := by
  refine Keeps.step hK ?_ hm
  clear hK hm
  unfold State.dirFaces
  repeat' first
    | with_reducible exact Keeps.refl _ _
    | with_reducible assumption
    | (extract_lets +onlyGivenNames -underBinder x; (with_reducible refine Keeps.cut (v := x) ?_ (fun hx => ?_)); subst x; rotate_left; clear_value x; rotate_right)
    | (extract_lets +onlyGivenNames -underBinder x; clear_value x)
    | ((with_reducible apply State.setB_keeps); (case hm => exact rfl))
    | ((with_reducible apply State.set_keeps); (case hm => exact rfl))
    | (dsimp only)

theorem State.pdirWrite_keeps {n0 : Nat} {s0 : State} {s : State} {off : Nat} {w : Word} {image : Bool} (hK : Keeps n0 s0 s) (hm : Keeps.sub 0x200004 n0 = true) :
    Keeps n0 s0 (State.pdirWrite s off w image) := by
  refine Keeps.step hK ?_ hm
  clear hK hm
  unfold State.pdirWrite
  repeat' first
    | with_reducible exact Keeps.refl _ _
    | with_reducible assumption
    | (extract_lets +onlyGivenNames -underBinder x; (with_reducible refine Keeps.cut (v := x) ?_ (fun hx => ?_)); subst x; rotate_left; clear_value x; rotate_right)
    | (extract_lets +onlyGivenNames -underBinder x; clear_value x)
    | ((with_reducible apply State.setB_keeps); (case hm => exact rfl))
    | ((with_reducible apply State.blkErr_keeps); (case hm => exact rfl))
    | (with_reducible refine Keeps.ofP2 (by assumption) ?_)
    | (with_reducible refine Keeps.ofP1 (by assumption) ?_)
    | (with_reducible refine Keeps.ofP3 (by assumption) ?_)
    | split
    | (with_reducible refine Keeps.leaf ?_ (h_dir := Keeps.chg (by decide)))
    | (dsimp only)

theorem State.takeHostW_keeps {n0 : Nat} {s0 : State} {s : State} (hK : Keeps n0 s0 s) (hm : Keeps.sub 0x20c000 n0 = true) :
    Keeps n0 s0 (State.takeHostW s) := by
  refine Keeps.step hK ?_ hm
  clear hK hm
  unfold State.takeHostW
  repeat' first
    | with_reducible exact Keeps.refl _ _
    | with_reducible assumption
    | (extract_lets +onlyGivenNames -underBinder x; (with_reducible refine Keeps.cut (v := x) ?_ (fun hx => ?_)); subst x; rotate_left; clear_value x; rotate_right)
    | (extract_lets +onlyGivenNames -underBinder x; clear_value x)
    | ((with_reducible apply State.setVis_keeps); (case hm => exact rfl))
    | (with_reducible refine Keeps.fold _ _ ?_ (fun u b hu => ?_))
    | split
    | (with_reducible refine Keeps.leaf ?_ (h_img := Keeps.chg (by decide)) (h_dir := Keeps.chg (by decide)))
    | (dsimp only)

theorem State.takeDirLive_keeps {n0 : Nat} {s0 : State} {s : State} (hK : Keeps n0 s0 s) (hm : Keeps.sub 0x200004 n0 = true) :
    Keeps n0 s0 (State.takeDirLive s) := by
  refine Keeps.step hK ?_ hm
  clear hK hm
  unfold State.takeDirLive
  repeat' first
    | with_reducible exact Keeps.refl _ _
    | with_reducible assumption
    | (extract_lets +onlyGivenNames -underBinder x; (with_reducible refine Keeps.cut (v := x) ?_ (fun hx => ?_)); subst x; rotate_left; clear_value x; rotate_right)
    | (extract_lets +onlyGivenNames -underBinder x; clear_value x)
    | ((with_reducible apply State.setB_keeps); (case hm => exact rfl))
    | (with_reducible refine Keeps.fold _ _ ?_ (fun u b hu => ?_))
    | (with_reducible refine Keeps.ofP2 (by assumption) ?_)
    | (with_reducible refine Keeps.ofP1 (by assumption) ?_)
    | (with_reducible refine Keeps.ofP3 (by assumption) ?_)
    | (with_reducible refine Keeps.leaf ?_ (h_dir := Keeps.chg (by decide)))
    | (dsimp only)

theorem State.commitOutputs_keeps {n0 : Nat} {s0 : State} {s : State} {r : Rate} (hK : Keeps n0 s0 s) (hm : Keeps.sub 0x4000 n0 = true) :
    Keeps n0 s0 (State.commitOutputs s r) := by
  refine Keeps.step hK ?_ hm
  clear hK hm
  unfold State.commitOutputs
  repeat' first
    | with_reducible exact Keeps.refl _ _
    | with_reducible assumption
    | ((with_reducible apply State.setVis_keeps); (case hm => exact rfl))
    | (with_reducible refine Keeps.fold _ _ ?_ (fun u b hu => ?_))
    | (with_reducible refine Keeps.ofP2 (by assumption) ?_)
    | (with_reducible refine Keeps.ofP1 (by assumption) ?_)
    | (with_reducible refine Keeps.ofP3 (by assumption) ?_)
    | split
    | (dsimp only)

theorem State.rxUpdate_keeps {n0 : Nat} {s0 : State} {s : State} {id : Nat} {v : Int} {st : Status} {unit : Nat} {notBefore : Nat} {viaT : Bool} {hops : Nat} (hK : Keeps n0 s0 s) (hm : Keeps.sub 0x200004 n0 = true) :
    Keeps n0 s0 (State.rxUpdate s id v st unit notBefore viaT hops) := by
  refine Keeps.step hK ?_ hm
  clear hK hm
  unfold State.rxUpdate
  repeat' first
    | with_reducible exact Keeps.refl _ _
    | with_reducible assumption
    | (extract_lets +onlyGivenNames -underBinder x; (with_reducible refine Keeps.cut (v := x) ?_ (fun hx => ?_)); subst x; rotate_left; clear_value x; rotate_right)
    | (extract_lets +onlyGivenNames -underBinder x; clear_value x)
    | ((with_reducible apply State.bump_keeps); (case hm => exact rfl))
    | ((with_reducible apply State.irq_keeps); (case hm => exact rfl))
    | (with_reducible refine Keeps.ofP2 (by assumption) ?_)
    | (with_reducible refine Keeps.ofP1 (by assumption) ?_)
    | (with_reducible refine Keeps.ofP3 (by assumption) ?_)
    | split
    | (with_reducible refine Keeps.leaf ?_ (h_dir := Keeps.chg (by decide)))
    | (dsimp only)

theorem State.takeRx_keeps {n0 : Nat} {s0 : State} {s : State} (hK : Keeps n0 s0 s) (hm : Keeps.sub 0x204000 n0 = true) :
    Keeps n0 s0 (State.takeRx s) := by
  refine Keeps.step hK ?_ hm
  clear hK hm
  unfold State.takeRx
  repeat' first
    | with_reducible exact Keeps.refl _ _
    | with_reducible assumption
    | (extract_lets +onlyGivenNames -underBinder x; (with_reducible refine Keeps.cut (v := x) ?_ (fun hx => ?_)); subst x; rotate_left; clear_value x; rotate_right)
    | (extract_lets +onlyGivenNames -underBinder x; clear_value x)
    | ((with_reducible apply State.setVis_keeps); (case hm => exact rfl))
    | (with_reducible refine Keeps.fold _ _ ?_ (fun u b hu => ?_))
    | (with_reducible refine Keeps.ofP2 (by assumption) ?_)
    | (with_reducible refine Keeps.ofP1 (by assumption) ?_)
    | (with_reducible refine Keeps.ofP3 (by assumption) ?_)
    | split
    | (with_reducible refine Keeps.leaf ?_ (h_dir := Keeps.chg (by decide)))
    | (dsimp only)

theorem State.remoteAge_keeps {n0 : Nat} {s0 : State} {s : State} {route : Nat → Bool} (hK : Keeps n0 s0 s) (hm : Keeps.sub 0x4004 n0 = true) :
    Keeps n0 s0 (State.remoteAge s route) := by
  refine Keeps.step hK ?_ hm
  clear hK hm
  unfold State.remoteAge
  repeat' first
    | with_reducible exact Keeps.refl _ _
    | with_reducible assumption
    | (extract_lets +onlyGivenNames -underBinder x; (with_reducible refine Keeps.cut (v := x) ?_ (fun hx => ?_)); subst x; rotate_left; clear_value x; rotate_right)
    | (extract_lets +onlyGivenNames -underBinder x; (have hfn : (_ → _) := x; clear hfn); subst x; dsimp only)
    | (extract_lets +onlyGivenNames -underBinder x; clear_value x)
    | ((with_reducible apply State.dirFaces_keeps); (case hm => exact rfl))
    | ((with_reducible apply State.setVis_keeps); (case hm => exact rfl))
    | ((with_reducible apply State.irq_keeps); (case hm => exact rfl))
    | (with_reducible refine Keeps.fold _ _ ?_ (fun u b hu => ?_))
    | (with_reducible refine Keeps.ofP2 (by assumption) ?_)
    | (with_reducible refine Keeps.ofP1 (by assumption) ?_)
    | (with_reducible refine Keeps.ofP3 (by assumption) ?_)
    | split
    | (dsimp only)

theorem State.pubSelect_keeps {n0 : Nat} {s0 : State} {s : State} {hasAddr : Bool} (hK : Keeps n0 s0 s) (hm : Keeps.sub 0x200004 n0 = true) :
    Keeps n0 s0 (State.pubSelect s hasAddr).2 := by
  refine Keeps.step hK ?_ hm
  clear hK hm
  unfold State.pubSelect
  repeat' first
    | with_reducible exact Keeps.refl _ _
    | with_reducible assumption
    | (extract_lets +onlyGivenNames -underBinder x; (with_reducible refine Keeps.cut (v := x) ?_ (fun hx => ?_)); subst x; rotate_left; clear_value x; rotate_right)
    | (extract_lets +onlyGivenNames -underBinder x; clear_value x)
    | ((with_reducible apply State.irq_keeps); (case hm => exact rfl))
    | ((with_reducible apply State.bumpBy_keeps); (case hm => exact rfl))
    | ((with_reducible apply State.set_keeps); (case hm => exact rfl))
    | (with_reducible refine Keeps.fold _ _ ?_ (fun u b hu => ?_))
    | (with_reducible refine Keeps.ofP2 (by assumption) ?_)
    | (with_reducible refine Keeps.ofP1 (by assumption) ?_)
    | (with_reducible refine Keeps.ofP3 (by assumption) ?_)
    | split
    | (with_reducible refine Keeps.leaf ?_ (h_dir := Keeps.chg (by decide)))
    | (dsimp only)

theorem State.setSubs_keeps {n0 : Nat} {s0 : State} {s : State} {i : Nat} {l : List (Nat × Nat)} (hK : Keeps n0 s0 s) (hm : Keeps.sub 0x200004 n0 = true) :
    Keeps n0 s0 (State.setSubs s i l) := by
  refine Keeps.step hK ?_ hm
  clear hK hm
  unfold State.setSubs
  repeat' first
    | with_reducible exact Keeps.refl _ _
    | with_reducible assumption
    | (extract_lets +onlyGivenNames -underBinder x; (with_reducible refine Keeps.cut (v := x) ?_ (fun hx => ?_)); subst x; rotate_left; clear_value x; rotate_right)
    | (extract_lets +onlyGivenNames -underBinder x; clear_value x)
    | ((with_reducible apply State.irq_keeps); (case hm => exact rfl))
    | ((with_reducible apply State.set_keeps); (case hm => exact rfl))
    | (with_reducible refine Keeps.leaf ?_ (h_dir := Keeps.chg (by decide)))
    | (dsimp only)

theorem State.subView_keeps {n0 : Nat} {s0 : State} {s : State} {i : Nat} (hK : Keeps n0 s0 s) (hm : Keeps.sub 0x4 n0 = true) :
    Keeps n0 s0 (State.subView s i) := by
  refine Keeps.step hK ?_ hm
  clear hK hm
  unfold State.subView
  repeat' first
    | with_reducible exact Keeps.refl _ _
    | with_reducible assumption
    | (extract_lets +onlyGivenNames -underBinder x; (with_reducible refine Keeps.cut (v := x) ?_ (fun hx => ?_)); subst x; rotate_left; clear_value x; rotate_right)
    | (extract_lets +onlyGivenNames -underBinder x; clear_value x)
    | ((with_reducible apply State.set_keeps); (case hm => exact rfl))
    | (with_reducible refine Keeps.fold _ _ ?_ (fun u b hu => ?_))
    | (dsimp only)

theorem State.subExpire_keeps {n0 : Nat} {s0 : State} {s : State} (hK : Keeps n0 s0 s) (hm : Keeps.sub 0x200006 n0 = true) :
    Keeps n0 s0 (State.subExpire s) := by
  refine Keeps.step hK ?_ hm
  clear hK hm
  unfold State.subExpire
  repeat' first
    | with_reducible exact Keeps.refl _ _
    | with_reducible assumption
    | (extract_lets +onlyGivenNames -underBinder x; (with_reducible refine Keeps.cut (v := x) ?_ (fun hx => ?_)); subst x; rotate_left; clear_value x; rotate_right)
    | (extract_lets +onlyGivenNames -underBinder x; clear_value x)
    | ((with_reducible apply State.at__keeps); (case hm => exact rfl))
    | ((with_reducible apply State.setSubs_keeps); (case hm => exact rfl))
    | (with_reducible refine Keeps.fold _ _ ?_ (fun u b hu => ?_))
    | (with_reducible refine Keeps.ofP2 (by assumption) ?_)
    | (with_reducible refine Keeps.ofP1 (by assumption) ?_)
    | (with_reducible refine Keeps.ofP3 (by assumption) ?_)
    | split
    | (dsimp only)

theorem State.dirSwitch_keeps {n0 : Nat} {s0 : State} {s : State} {new : Map Word} (hK : Keeps n0 s0 s) (hm : Keeps.sub 0x20c004 n0 = true) :
    Keeps n0 s0 (State.dirSwitch s new) := by
  refine Keeps.step hK ?_ hm
  clear hK hm
  unfold State.dirSwitch
  repeat' first
    | with_reducible exact Keeps.refl _ _
    | with_reducible assumption
    | (extract_lets +onlyGivenNames -underBinder x; (with_reducible refine Keeps.cut (v := x) ?_ (fun hx => ?_)); subst x; rotate_left; clear_value x; rotate_right)
    | (extract_lets +onlyGivenNames -underBinder x; (have hfn : (_ → _) := x; clear hfn); subst x; dsimp only)
    | (extract_lets +onlyGivenNames -underBinder x; clear_value x)
    | ((with_reducible apply State.dirFaces_keeps); (case hm => exact rfl))
    | ((with_reducible apply State.setVis_keeps); (case hm => exact rfl))
    | ((with_reducible apply State.set_keeps); (case hm => exact rfl))
    | (with_reducible refine Keeps.fold _ _ ?_ (fun u b hu => ?_))
    | (with_reducible refine Keeps.leaf ?_ (h_img := Keeps.chg (by decide)) (h_dir := Keeps.chg (by decide)))
    | (dsimp only)

end Sys2Proof.Machine
end

