-- ==== Sys2Proof/Laws/KeepsSense.lean ====
section
/-! SUPPORT. What each operation of Machine/Sense.lean may touch (Laws/Keeps.lean): the mask lists the fields it may change,
and the invariant of the block is kept. -/
set_option Elab.async false
set_option linter.all false
namespace Sys2Proof.Machine

theorem State.setSenseSt_keeps {n0 : Nat} {s0 : State} {s : State} {n : Nat} {x : SenseSt} (hK : Keeps n0 s0 s) (hm : Keeps.sub 0x1000000 n0 = true) :
    Keeps n0 s0 (State.setSenseSt s n x) := by
  refine Keeps.step hK ?_ hm
  clear hK hm
  unfold State.setSenseSt
  repeat' first
    | with_reducible exact Keeps.refl _ _
    | with_reducible assumption
    | (with_reducible refine Keeps.leaf ?_ (h_eng := Keeps.chg (by decide)))
    | (dsimp only)

theorem State.captureResults_keeps {n0 : Nat} {s0 : State} {s : State} (hK : Keeps n0 s0 s) (hm : Keeps.sub 0x20000000 n0 = true) :
    Keeps n0 s0 (State.captureResults s) := by
  refine Keeps.step hK ?_ hm
  clear hK hm
  unfold State.captureResults
  repeat' first
    | with_reducible exact Keeps.refl _ _
    | with_reducible assumption
    | (with_reducible refine Keeps.fold _ _ ?_ (fun u b hu => ?_))
    | (with_reducible refine Keeps.leaf ?_ (h_cap := Keeps.chg (by decide)))
    | (dsimp only)

theorem State.senseFrame_keeps {n0 : Nat} {s0 : State} {s : State} {r : Rate} (hK : Keeps n0 s0 s) (hm : Keeps.sub 0x19030000 n0 = true) :
    Keeps n0 s0 (State.senseFrame s r) := by
  refine Keeps.step hK ?_ hm
  clear hK hm
  unfold State.senseFrame
  repeat' first
    | with_reducible exact Keeps.refl _ _
    | with_reducible assumption
    | (extract_lets +onlyGivenNames -underBinder x; (with_reducible refine Keeps.cut (v := x) ?_ (fun hx => ?_)); subst x; rotate_left; clear_value x; rotate_right)
    | (extract_lets +onlyGivenNames -underBinder x; clear_value x)
    | ((with_reducible apply State.setSenseSt_keeps); (case hm => exact rfl))
    | ((with_reducible apply State.laterB_keeps); (case hm => exact rfl))
    | ((with_reducible apply State.later_keeps); (case hm => exact rfl))
    | ((with_reducible apply State.laterSeti_keeps); (case hm => exact rfl))
    | ((with_reducible apply State.produce_keeps); (case hm => exact rfl))
    | ((with_reducible apply State.laterSet_keeps); (case hm => exact rfl))
    | (with_reducible refine Keeps.fold _ _ ?_ (fun u b hu => ?_))
    | (with_reducible refine Keeps.ofP2 (by assumption) ?_)
    | (with_reducible refine Keeps.ofP1 (by assumption) ?_)
    | (with_reducible refine Keeps.ofP3 (by assumption) ?_)
    | split
    | (dsimp only)

theorem State.senseSwitch_keeps {n0 : Nat} {s0 : State} {s : State} (hK : Keeps n0 s0 s) (hm : Keeps.sub 0x1000004 n0 = true) :
    Keeps n0 s0 (State.senseSwitch s) := by
  refine Keeps.step hK ?_ hm
  clear hK hm
  unfold State.senseSwitch
  repeat' first
    | with_reducible exact Keeps.refl _ _
    | with_reducible assumption
    | (extract_lets +onlyGivenNames -underBinder x; (with_reducible refine Keeps.cut (v := x) ?_ (fun hx => ?_)); subst x; rotate_left; clear_value x; rotate_right)
    | (extract_lets +onlyGivenNames -underBinder x; (have hfn : (_ → _) := x; clear hfn); subst x; dsimp only)
    | (extract_lets +onlyGivenNames -underBinder x; clear_value x)
    | ((with_reducible apply State.setSenseSt_keeps); (case hm => exact rfl))
    | ((with_reducible apply State.set_keeps); (case hm => exact rfl))
    | (with_reducible refine Keeps.fold _ _ ?_ (fun u b hu => ?_))
    | split
    | (with_reducible refine Keeps.leaf ?_ (h_eng := Keeps.chg (by decide)))
    | (dsimp only)

end Sys2Proof.Machine
end

