-- ==== Sys2Proof/Laws/KeepsPeat.lean ====
section
/-! SUPPORT. What each operation of Machine/Peat.lean may touch (Laws/Keeps.lean): the mask lists the fields it may change,
and the invariant of the block is kept. -/
set_option Elab.async false
set_option linter.all false
namespace Sys2Proof.Machine

theorem State.setPbank_keeps {n0 : Nat} {s0 : State} {s : State} {b : Nat} {x : PBank} (hK : Keeps n0 s0 s) (hm : Keeps.sub 0x800000 n0 = true) :
    Keeps n0 s0 (State.setPbank s b x) := by
  refine Keeps.step hK ?_ hm
  clear hK hm
  unfold State.setPbank
  repeat' first
    | with_reducible exact Keeps.refl _ _
    | with_reducible assumption
    | ((with_reducible apply State.updSto_keeps); (case hm => exact rfl); (case hf => first | exact id | exact (fun _ => rfl)))
    | (dsimp only)

theorem State.peatFaces_keeps {n0 : Nat} {s0 : State} {s : State} (hK : Keeps n0 s0 s) (hm : Keeps.sub 0x4 n0 = true) :
    Keeps n0 s0 (State.peatFaces s) := by
  refine Keeps.step hK ?_ hm
  clear hK hm
  unfold State.peatFaces
  repeat' first
    | with_reducible exact Keeps.refl _ _
    | with_reducible assumption
    | (extract_lets +onlyGivenNames -underBinder x; (with_reducible refine Keeps.cut (v := x) ?_ (fun hx => ?_)); subst x; rotate_left; clear_value x; rotate_right)
    | (extract_lets +onlyGivenNames -underBinder x; clear_value x)
    | ((with_reducible apply State.setB_keeps); (case hm => exact rfl))
    | ((with_reducible apply State.set_keeps); (case hm => exact rfl))
    | (dsimp only)

theorem State.peatPart_keeps {n0 : Nat} {s0 : State} {s : State} {e : Nat} {n : Int} {d : Int} (hK : Keeps n0 s0 s) (hm : Keeps.sub 0x800000 n0 = true) :
    Keeps n0 s0 (State.peatPart s e n d) := by
  refine Keeps.step hK ?_ hm
  clear hK hm
  unfold State.peatPart
  repeat' first
    | with_reducible exact Keeps.refl _ _
    | with_reducible assumption
    | (extract_lets +onlyGivenNames -underBinder x; (with_reducible refine Keeps.cut (v := x) ?_ (fun hx => ?_)); subst x; rotate_left; clear_value x; rotate_right)
    | (extract_lets +onlyGivenNames -underBinder x; clear_value x)
    | ((with_reducible apply State.setPeat_keeps); (case hm => exact rfl))
    | ((with_reducible apply State.peatAdd_keeps); (case hm => exact rfl))
    | (dsimp only)

theorem State.peatMap_keeps {n0 : Nat} {s0 : State} {s : State} {t : Nat} {j : Nat} (hK : Keeps n0 s0 s) (hm : Keeps.sub 0x800000 n0 = true) :
    Keeps n0 s0 (State.peatMap s t j) := by
  refine Keeps.step hK ?_ hm
  clear hK hm
  unfold State.peatMap
  repeat' first
    | with_reducible exact Keeps.refl _ _
    | with_reducible assumption
    | (extract_lets +onlyGivenNames -underBinder x; (with_reducible refine Keeps.cut (v := x) ?_ (fun hx => ?_)); subst x; rotate_left; clear_value x; rotate_right)
    | (extract_lets +onlyGivenNames -underBinder x; (have hfn : (_ → _) := x; clear hfn); subst x; dsimp only)
    | (extract_lets +onlyGivenNames -underBinder x; clear_value x)
    | ((with_reducible apply State.peatGauge_keeps); (case hm => exact rfl))
    | ((with_reducible apply State.updSto_keeps); (case hm => exact rfl); (case hf => first | exact id | exact (fun _ => rfl)))
    | ((with_reducible apply State.peatAdd_keeps); (case hm => exact rfl))
    | ((with_reducible apply State.peatPart_keeps); (case hm => exact rfl))
    | (with_reducible refine Keeps.ofP2 (by assumption) ?_)
    | (with_reducible refine Keeps.ofP1 (by assumption) ?_)
    | (with_reducible refine Keeps.ofP3 (by assumption) ?_)
    | split
    | (dsimp only)

theorem State.peatCount_keeps {n0 : Nat} {s0 : State} {s : State} {r : Rate} (hK : Keeps n0 s0 s) (hm : Keeps.sub 0x800004 n0 = true) :
    Keeps n0 s0 (State.peatCount s r) := by
  refine Keeps.step hK ?_ hm
  clear hK hm
  unfold State.peatCount
  repeat' first
    | with_reducible exact Keeps.refl _ _
    | with_reducible assumption
    | (extract_lets +onlyGivenNames -underBinder x; (with_reducible refine Keeps.cut (v := x) ?_ (fun hx => ?_)); subst x; rotate_left; clear_value x; rotate_right)
    | (extract_lets +onlyGivenNames -underBinder x; (have hfn : (_ → _) := x; clear hfn); subst x; dsimp only)
    | (extract_lets +onlyGivenNames -underBinder x; clear_value x)
    | ((with_reducible apply State.peatFaces_keeps); (case hm => exact rfl))
    | ((with_reducible apply State.peatMap_keeps); (case hm => exact rfl))
    | ((with_reducible apply State.peatPart_keeps); (case hm => exact rfl))
    | (with_reducible refine Keeps.fold _ _ ?_ (fun u b hu => ?_))
    | (with_reducible refine Keeps.ofP2 (by assumption) ?_)
    | (with_reducible refine Keeps.ofP1 (by assumption) ?_)
    | (with_reducible refine Keeps.ofP3 (by assumption) ?_)
    | split
    | (dsimp only)

theorem State.bankStart_keeps {n0 : Nat} {s0 : State} {s : State} {b : Nat} (hK : Keeps n0 s0 s) (hm : Keeps.sub 0x800000 n0 = true) :
    Keeps n0 s0 (State.bankStart s b) := by
  refine Keeps.step hK ?_ hm
  clear hK hm
  unfold State.bankStart
  repeat' first
    | with_reducible exact Keeps.refl _ _
    | with_reducible assumption
    | (extract_lets +onlyGivenNames -underBinder x; (with_reducible refine Keeps.cut (v := x) ?_ (fun hx => ?_)); subst x; rotate_left; clear_value x; rotate_right)
    | (extract_lets +onlyGivenNames -underBinder x; clear_value x)
    | ((with_reducible apply State.setPbank_keeps); (case hm => exact rfl))
    | (with_reducible refine Keeps.ofP2 (by assumption) ?_)
    | (with_reducible refine Keeps.ofP1 (by assumption) ?_)
    | (with_reducible refine Keeps.ofP3 (by assumption) ?_)
    | split
    | (dsimp only)

theorem State.flushEnd_keeps {n0 : Nat} {s0 : State} {s : State} (hK : Keeps n0 s0 s) (hm : Keeps.sub 0x800004 n0 = true) :
    Keeps n0 s0 (State.flushEnd s) := by
  refine Keeps.step hK ?_ hm
  clear hK hm
  unfold State.flushEnd
  repeat' first
    | with_reducible exact Keeps.refl _ _
    | with_reducible assumption
    | (extract_lets +onlyGivenNames -underBinder x; (with_reducible refine Keeps.cut (v := x) ?_ (fun hx => ?_)); subst x; rotate_left; clear_value x; rotate_right)
    | (extract_lets +onlyGivenNames -underBinder x; clear_value x)
    | ((with_reducible apply State.irq_keeps); (case hm => exact rfl))
    | ((with_reducible apply State.updSto_keeps); (case hm => exact rfl); (case hf => first | exact id | exact (fun _ => rfl)))
    | ((with_reducible apply State.set_keeps); (case hm => exact rfl))
    | (with_reducible refine Keeps.ofP2 (by assumption) ?_)
    | (with_reducible refine Keeps.ofP1 (by assumption) ?_)
    | (with_reducible refine Keeps.ofP3 (by assumption) ?_)
    | split
    | (dsimp only)

theorem State.flushQueue_keeps {n0 : Nat} {s0 : State} {s : State} {order : List Nat} (hK : Keeps n0 s0 s) (hm : Keeps.sub 0x800000 n0 = true) :
    Keeps n0 s0 (State.flushQueue s order) := by
  refine Keeps.step hK ?_ hm
  clear hK hm
  unfold State.flushQueue
  repeat' first
    | with_reducible exact Keeps.refl _ _
    | with_reducible assumption
    | (extract_lets +onlyGivenNames -underBinder x; (with_reducible refine Keeps.cut (v := x) ?_ (fun hx => ?_)); subst x; rotate_left; clear_value x; rotate_right)
    | (extract_lets +onlyGivenNames -underBinder x; clear_value x)
    | ((with_reducible apply State.setPbank_keeps); (case hm => exact rfl))
    | ((with_reducible apply State.bankStart_keeps); (case hm => exact rfl))
    | (with_reducible refine Keeps.fold _ _ ?_ (fun u b hu => ?_))
    | (dsimp only)

theorem State.peatFlush_keeps {n0 : Nat} {s0 : State} {s : State} (hK : Keeps n0 s0 s) (hm : Keeps.sub 0x800004 n0 = true) :
    Keeps n0 s0 (State.peatFlush s) := by
  refine Keeps.step hK ?_ hm
  clear hK hm
  unfold State.peatFlush
  repeat' first
    | with_reducible exact Keeps.refl _ _
    | with_reducible assumption
    | (extract_lets +onlyGivenNames -underBinder x; (with_reducible refine Keeps.cut (v := x) ?_ (fun hx => ?_)); subst x; rotate_left; clear_value x; rotate_right)
    | (extract_lets +onlyGivenNames -underBinder x; clear_value x)
    | ((with_reducible apply State.peatGauge_keeps); (case hm => exact rfl))
    | ((with_reducible apply State.flushQueue_keeps); (case hm => exact rfl))
    | ((with_reducible apply State.peatFaces_keeps); (case hm => exact rfl))
    | ((with_reducible apply State.updSto_keeps); (case hm => exact rfl); (case hf => first | exact id | exact (fun _ => rfl)))
    | ((with_reducible apply State.flushEnd_keeps); (case hm => exact rfl))
    | (with_reducible refine Keeps.fold _ _ ?_ (fun u b hu => ?_))
    | split
    | (dsimp only)

theorem State.peatFlushDue_keeps {n0 : Nat} {s0 : State} {s : State} (hK : Keeps n0 s0 s) (hm : Keeps.sub 0x800006 n0 = true) :
    Keeps n0 s0 (State.peatFlushDue s) := by
  refine Keeps.step hK ?_ hm
  clear hK hm
  unfold State.peatFlushDue
  repeat' first
    | with_reducible exact Keeps.refl _ _
    | with_reducible assumption
    | (extract_lets +onlyGivenNames -underBinder x; (with_reducible refine Keeps.cut (v := x) ?_ (fun hx => ?_)); subst x; rotate_left; clear_value x; rotate_right)
    | (extract_lets +onlyGivenNames -underBinder x; clear_value x)
    | ((with_reducible apply State.at__keeps); (case hm => exact rfl))
    | ((with_reducible apply State.updSto_keeps); (case hm => exact rfl); (case hf => first | exact id | exact (fun _ => rfl)))
    | ((with_reducible apply State.peatFlush_keeps); (case hm => exact rfl))
    | (with_reducible refine Keeps.ofP2 (by assumption) ?_)
    | (with_reducible refine Keeps.ofP1 (by assumption) ?_)
    | (with_reducible refine Keeps.ofP3 (by assumption) ?_)
    | split
    | (dsimp only)

theorem State.peatReserve_keeps {n0 : Nat} {s0 : State} {s : State} (hK : Keeps n0 s0 s) (hm : Keeps.sub 0x800004 n0 = true) :
    Keeps n0 s0 (State.peatReserve s) := by
  refine Keeps.step hK ?_ hm
  clear hK hm
  unfold State.peatReserve
  repeat' first
    | with_reducible exact Keeps.refl _ _
    | with_reducible assumption
    | (extract_lets +onlyGivenNames -underBinder x; (with_reducible refine Keeps.cut (v := x) ?_ (fun hx => ?_)); subst x; rotate_left; clear_value x; rotate_right)
    | (extract_lets +onlyGivenNames -underBinder x; clear_value x)
    | ((with_reducible apply State.setPbank_keeps); (case hm => exact rfl))
    | ((with_reducible apply State.peatFaces_keeps); (case hm => exact rfl))
    | ((with_reducible apply State.updSto_keeps); (case hm => exact rfl); (case hf => first | exact id | exact (fun _ => rfl)))
    | ((with_reducible apply State.bankStart_keeps); (case hm => exact rfl))
    | ((with_reducible apply State.setPeat_keeps); (case hm => exact rfl))
    | (dsimp only)

theorem State.peatPreset_keeps {n0 : Nat} {s0 : State} {s : State} {v : Nat} (hK : Keeps n0 s0 s) (hm : Keeps.sub 0x800004 n0 = true) :
    Keeps n0 s0 (State.peatPreset s v) := by
  refine Keeps.step hK ?_ hm
  clear hK hm
  unfold State.peatPreset
  repeat' first
    | with_reducible exact Keeps.refl _ _
    | with_reducible assumption
    | (extract_lets +onlyGivenNames -underBinder x; (with_reducible refine Keeps.cut (v := x) ?_ (fun hx => ?_)); subst x; rotate_left; clear_value x; rotate_right)
    | (extract_lets +onlyGivenNames -underBinder x; clear_value x)
    | ((with_reducible apply State.setPbank_keeps); (case hm => exact rfl))
    | ((with_reducible apply State.peatFaces_keeps); (case hm => exact rfl))
    | ((with_reducible apply State.blkErr_keeps); (case hm => exact rfl))
    | ((with_reducible apply State.bankStart_keeps); (case hm => exact rfl))
    | ((with_reducible apply State.setPeat_keeps); (case hm => exact rfl))
    | split
    | (dsimp only)

theorem State.peatProgram_keeps {n0 : Nat} {s0 : State} {s : State} {e : Nat} {op : POp} {last : Bool} (hK : Keeps n0 s0 s) (hm : Keeps.sub 0x800000 n0 = true) :
    Keeps n0 s0 (State.peatProgram s e op last) := by
  refine Keeps.step hK ?_ hm
  clear hK hm
  unfold State.peatProgram
  repeat' first
    | with_reducible exact Keeps.refl _ _
    | with_reducible assumption
    | (extract_lets +onlyGivenNames -underBinder x; (with_reducible refine Keeps.cut (v := x) ?_ (fun hx => ?_)); subst x; rotate_left; clear_value x; rotate_right)
    | (extract_lets +onlyGivenNames -underBinder x; clear_value x)
    | ((with_reducible apply State.setPeat_keeps); (case hm => exact rfl))
    | (with_reducible refine Keeps.ofP2 (by assumption) ?_)
    | (with_reducible refine Keeps.ofP1 (by assumption) ?_)
    | (with_reducible refine Keeps.ofP3 (by assumption) ?_)
    | split
    | (dsimp only)

theorem State.peatDone_keeps {n0 : Nat} {s0 : State} {s : State} {b : Nat} {ok : Bool} (hK : Keeps n0 s0 s) (hm : Keeps.sub 0x840004 n0 = true) :
    Keeps n0 s0 (State.peatDone s b ok).2 := by
  refine Keeps.step hK ?_ hm
  clear hK hm
  unfold State.peatDone
  repeat' first
    | with_reducible exact Keeps.refl _ _
    | with_reducible assumption
    | (extract_lets +onlyGivenNames -underBinder x; (with_reducible refine Keeps.cut (v := x) ?_ (fun hx => ?_)); subst x; rotate_left; clear_value x; rotate_right)
    | (extract_lets +onlyGivenNames -underBinder x; clear_value x)
    | ((with_reducible apply State.irq_keeps); (case hm => exact rfl))
    | ((with_reducible apply State.setPbank_keeps); (case hm => exact rfl))
    | ((with_reducible apply State.peatFaces_keeps); (case hm => exact rfl))
    | ((with_reducible apply State.updSto_keeps); (case hm => exact rfl); (case hf => first | exact id | exact (fun _ => rfl)))
    | ((with_reducible apply State.peatProgram_keeps); (case hm => exact rfl))
    | ((with_reducible apply State.bankStart_keeps); (case hm => exact rfl))
    | ((with_reducible apply State.setPeat_keeps); (case hm => exact rfl))
    | ((with_reducible apply State.raise_keeps); (case hm => exact rfl))
    | ((with_reducible apply State.flushEnd_keeps); (case hm => exact rfl))
    | (with_reducible refine Keeps.ofP2 (by assumption) ?_)
    | (with_reducible refine Keeps.ofP1 (by assumption) ?_)
    | (with_reducible refine Keeps.ofP3 (by assumption) ?_)
    | split
    | (dsimp only)

theorem State.peatPfw_keeps {n0 : Nat} {s0 : State} {s : State} (hK : Keeps n0 s0 s) (hm : Keeps.sub 0x800004 n0 = true) :
    Keeps n0 s0 (State.peatPfw s) := by
  refine Keeps.step hK ?_ hm
  clear hK hm
  unfold State.peatPfw
  repeat' first
    | with_reducible exact Keeps.refl _ _
    | with_reducible assumption
    | (extract_lets +onlyGivenNames -underBinder x; (with_reducible refine Keeps.cut (v := x) ?_ (fun hx => ?_)); subst x; rotate_left; clear_value x; rotate_right)
    | (extract_lets +onlyGivenNames -underBinder x; (have hfn : (_ → _) := x; clear hfn); subst x; dsimp only)
    | (extract_lets +onlyGivenNames -underBinder x; clear_value x)
    | ((with_reducible apply State.flushQueue_keeps); (case hm => exact rfl))
    | ((with_reducible apply State.setPbank_keeps); (case hm => exact rfl))
    | ((with_reducible apply State.peatFaces_keeps); (case hm => exact rfl))
    | ((with_reducible apply State.updSto_keeps); (case hm => exact rfl); (case hf => first | exact id | exact (fun _ => rfl)))
    | ((with_reducible apply State.peatAdd_keeps); (case hm => exact rfl))
    | (with_reducible refine Keeps.fold _ _ ?_ (fun u b hu => ?_))
    | split
    | (dsimp only)

theorem State.peatRecall_keeps {n0 : Nat} {s0 : State} {s : State} (hK : Keeps n0 s0 s) (hm : Keeps.sub 0x840004 n0 = true) :
    Keeps n0 s0 (State.peatRecall s) := by
  refine Keeps.step hK ?_ hm
  clear hK hm
  unfold State.peatRecall
  repeat' first
    | with_reducible exact Keeps.refl _ _
    | with_reducible assumption
    | (extract_lets +onlyGivenNames -underBinder x; (with_reducible refine Keeps.cut (v := x) ?_ (fun hx => ?_)); subst x; rotate_left; clear_value x; rotate_right)
    | (extract_lets +onlyGivenNames -underBinder x; clear_value x)
    | ((with_reducible apply State.setB_keeps); (case hm => exact rfl))
    | ((with_reducible apply State.irq_keeps); (case hm => exact rfl))
    | ((with_reducible apply State.peatFaces_keeps); (case hm => exact rfl))
    | ((with_reducible apply State.updSto_keeps); (case hm => exact rfl); (case hf => first | exact id | exact (fun _ => rfl)))
    | ((with_reducible apply State.raise_keeps); (case hm => exact rfl))
    | (with_reducible refine Keeps.fold _ _ ?_ (fun u b hu => ?_))
    | split
    | (dsimp only)

theorem State.peatCut_keeps {n0 : Nat} {s0 : State} {s : State} {whole : Bool} (hK : Keeps n0 s0 s) (hm : Keeps.sub 0x800000 n0 = true) :
    Keeps n0 s0 (State.peatCut s whole) := by
  refine Keeps.step hK ?_ hm
  clear hK hm
  unfold State.peatCut
  repeat' first
    | with_reducible exact Keeps.refl _ _
    | with_reducible assumption
    | (extract_lets +onlyGivenNames -underBinder x; (with_reducible refine Keeps.cut (v := x) ?_ (fun hx => ?_)); subst x; rotate_left; clear_value x; rotate_right)
    | (extract_lets +onlyGivenNames -underBinder x; clear_value x)
    | ((with_reducible apply State.updSto_keeps); (case hm => exact rfl); (case hf => first | exact id | exact (fun _ => rfl)))
    | ((with_reducible apply State.peatProgram_keeps); (case hm => exact rfl))
    | ((with_reducible apply State.setPeat_keeps); (case hm => exact rfl))
    | (with_reducible refine Keeps.fold _ _ ?_ (fun u b hu => ?_))
    | (with_reducible refine Keeps.ofP2 (by assumption) ?_)
    | (with_reducible refine Keeps.ofP1 (by assumption) ?_)
    | (with_reducible refine Keeps.ofP3 (by assumption) ?_)
    | split
    | (dsimp only)

end Sys2Proof.Machine
end

