-- ==== Sys2Proof/Laws/KeepsLevee.lean ====
section
/-! SUPPORT. What each operation of Machine/Levee.lean may touch (Laws/Keeps.lean): the mask lists the fields it may change,
and the invariant of the block is kept. -/
set_option Elab.async false
set_option linter.all false
namespace Sys2Proof.Machine

theorem State.updLev_keeps {n0 : Nat} {s0 : State} {s : State} {f : LevSt → LevSt} (hK : Keeps n0 s0 s) (hm : Keeps.sub 0x400000000000 n0 = true) :
    Keeps n0 s0 (State.updLev s f) := by
  refine Keeps.step hK ?_ hm
  clear hK hm
  unfold State.updLev
  repeat' first
    | with_reducible exact Keeps.refl _ _
    | with_reducible assumption
    | (with_reducible refine Keeps.leaf ?_ (h_lev := Keeps.chg (by decide)))
    | (dsimp only)

theorem State.setSess_keeps {n0 : Nat} {s0 : State} {s : State} {i : Nat} {x : Sess} (hK : Keeps n0 s0 s) (hm : Keeps.sub 0x400000000000 n0 = true) :
    Keeps n0 s0 (State.setSess s i x) := by
  refine Keeps.step hK ?_ hm
  clear hK hm
  unfold State.setSess
  repeat' first
    | with_reducible exact Keeps.refl _ _
    | with_reducible assumption
    | ((with_reducible apply State.updLev_keeps); (case hm => exact rfl))
    | (dsimp only)

theorem State.levFaces_keeps {n0 : Nat} {s0 : State} {s : State} (hK : Keeps n0 s0 s) (hm : Keeps.sub 0x4 n0 = true) :
    Keeps n0 s0 (State.levFaces s) := by
  refine Keeps.step hK ?_ hm
  clear hK hm
  unfold State.levFaces
  repeat' first
    | with_reducible exact Keeps.refl _ _
    | with_reducible assumption
    | (extract_lets +onlyGivenNames -underBinder x; (with_reducible refine Keeps.cut (v := x) ?_ (fun hx => ?_)); subst x; rotate_left; clear_value x; rotate_right)
    | (extract_lets +onlyGivenNames -underBinder x; clear_value x)
    | ((with_reducible apply State.setB_keeps); (case hm => exact rfl))
    | ((with_reducible apply State.set_keeps); (case hm => exact rfl))
    | ((with_reducible apply State.setPair_keeps); (case hm => exact rfl))
    | (with_reducible refine Keeps.ofP2 (by assumption) ?_)
    | (with_reducible refine Keeps.ofP1 (by assumption) ?_)
    | (with_reducible refine Keeps.ofP3 (by assumption) ?_)
    | split
    | (dsimp only)

theorem State.sessView_keeps {n0 : Nat} {s0 : State} {s : State} {i : Nat} (hK : Keeps n0 s0 s) (hm : Keeps.sub 0x4 n0 = true) :
    Keeps n0 s0 (State.sessView s i) := by
  refine Keeps.step hK ?_ hm
  clear hK hm
  unfold State.sessView
  repeat' first
    | with_reducible exact Keeps.refl _ _
    | with_reducible assumption
    | (extract_lets +onlyGivenNames -underBinder x; (with_reducible refine Keeps.cut (v := x) ?_ (fun hx => ?_)); subst x; rotate_left; clear_value x; rotate_right)
    | (extract_lets +onlyGivenNames -underBinder x; clear_value x)
    | ((with_reducible apply State.setB_keeps); (case hm => exact rfl))
    | ((with_reducible apply State.set_keeps); (case hm => exact rfl))
    | ((with_reducible apply State.setPair_keeps); (case hm => exact rfl))
    | (dsimp only)

theorem State.sessLive_keeps {n0 : Nat} {s0 : State} {s : State} (hK : Keeps n0 s0 s) (hm : Keeps.sub 0x4 n0 = true) :
    Keeps n0 s0 (State.sessLive s) := by
  refine Keeps.step hK ?_ hm
  clear hK hm
  unfold State.sessLive
  repeat' first
    | with_reducible exact Keeps.refl _ _
    | with_reducible assumption
    | (extract_lets +onlyGivenNames -underBinder x; (with_reducible refine Keeps.cut (v := x) ?_ (fun hx => ?_)); subst x; rotate_left; clear_value x; rotate_right)
    | (extract_lets +onlyGivenNames -underBinder x; clear_value x)
    | ((with_reducible apply State.setB_keeps); (case hm => exact rfl))
    | ((with_reducible apply State.set_keeps); (case hm => exact rfl))
    | ((with_reducible apply State.setPair_keeps); (case hm => exact rfl))
    | (with_reducible refine Keeps.ofP2 (by assumption) ?_)
    | (with_reducible refine Keeps.ofP1 (by assumption) ?_)
    | (with_reducible refine Keeps.ofP3 (by assumption) ?_)
    | split
    | (dsimp only)

theorem State.levRun_keeps {n0 : Nat} {s0 : State} {s : State} {src : RunSrc} {addr : Nat} {bytes : List Byte} {what : LevRun} (hK : Keeps n0 s0 s) (hm : Keeps.sub 0x400000840004 n0 = true) :
    Keeps n0 s0 (State.levRun s src addr bytes what).2 := by
  refine Keeps.step hK ?_ hm
  clear hK hm
  unfold State.levRun
  repeat' first
    | with_reducible exact Keeps.refl _ _
    | with_reducible assumption
    | (extract_lets +onlyGivenNames -underBinder x; (with_reducible refine Keeps.cut (v := x) ?_ (fun hx => ?_)); subst x; rotate_left; clear_value x; rotate_right)
    | (extract_lets +onlyGivenNames -underBinder x; clear_value x)
    | ((with_reducible apply State.raise_keeps); (case hm => exact rfl))
    | ((with_reducible apply State.updLev_keeps); (case hm => exact rfl))
    | ((with_reducible apply State.engineRun_keeps); (case hm => exact rfl))
    | (with_reducible refine Keeps.ofP2 (by assumption) ?_)
    | (with_reducible refine Keeps.ofP1 (by assumption) ?_)
    | (with_reducible refine Keeps.ofP3 (by assumption) ?_)
    | split
    | (dsimp only)

theorem State.levRecall_keeps {n0 : Nat} {s0 : State} {s : State} (hK : Keeps n0 s0 s) (hm : Keeps.sub 0x400000000004 n0 = true) :
    Keeps n0 s0 (State.levRecall s) := by
  refine Keeps.step hK ?_ hm
  clear hK hm
  unfold State.levRecall
  repeat' first
    | with_reducible exact Keeps.refl _ _
    | with_reducible assumption
    | (extract_lets +onlyGivenNames -underBinder x; (with_reducible refine Keeps.cut (v := x) ?_ (fun hx => ?_)); subst x; rotate_left; clear_value x; rotate_right)
    | (extract_lets +onlyGivenNames -underBinder x; clear_value x)
    | ((with_reducible apply State.levFaces_keeps); (case hm => exact rfl))
    | ((with_reducible apply State.updLev_keeps); (case hm => exact rfl))
    | ((with_reducible apply State.setSess_keeps); (case hm => exact rfl))
    | (with_reducible refine Keeps.fold _ _ ?_ (fun u b hu => ?_))
    | (with_reducible refine Keeps.ofP2 (by assumption) ?_)
    | (with_reducible refine Keeps.ofP1 (by assumption) ?_)
    | (with_reducible refine Keeps.ofP3 (by assumption) ?_)
    | split
    | (dsimp only)

theorem State.levReserve_keeps {n0 : Nat} {s0 : State} {s : State} (hK : Keeps n0 s0 s) (hm : Keeps.sub 0x400000840004 n0 = true) :
    Keeps n0 s0 (State.levReserve s) := by
  refine Keeps.step hK ?_ hm
  clear hK hm
  unfold State.levReserve
  repeat' first
    | with_reducible exact Keeps.refl _ _
    | with_reducible assumption
    | ((with_reducible apply State.levFaces_keeps); (case hm => exact rfl))
    | ((with_reducible apply State.peatReserve_keeps); (case hm => exact rfl))
    | ((with_reducible apply State.raise_keeps); (case hm => exact rfl))
    | ((with_reducible apply State.updLev_keeps); (case hm => exact rfl))
    | split
    | (dsimp only)

theorem State.levStart_keeps {n0 : Nat} {s0 : State} {s : State} (hK : Keeps n0 s0 s) (hm : Keeps.sub 0x400000840004 n0 = true) :
    Keeps n0 s0 (State.levStart s) := by
  refine Keeps.step hK ?_ hm
  clear hK hm
  unfold State.levStart
  repeat' first
    | with_reducible exact Keeps.refl _ _
    | with_reducible assumption
    | (extract_lets +onlyGivenNames -underBinder x; (with_reducible refine Keeps.cut (v := x) ?_ (fun hx => ?_)); subst x; rotate_left; clear_value x; rotate_right)
    | (extract_lets +onlyGivenNames -underBinder x; clear_value x)
    | ((with_reducible apply State.updLev_keeps); (case hm => exact rfl))
    | ((with_reducible apply State.levReserve_keeps); (case hm => exact rfl))
    | (dsimp only)

theorem State.takeCtr_keeps {n0 : Nat} {s0 : State} {s : State} (hK : Keeps n0 s0 s) (hm : Keeps.sub 0x400000840004 n0 = true) :
    Keeps n0 s0 (State.takeCtr s).2 := by
  refine Keeps.step hK ?_ hm
  clear hK hm
  unfold State.takeCtr
  repeat' first
    | with_reducible exact Keeps.refl _ _
    | with_reducible assumption
    | (extract_lets +onlyGivenNames -underBinder x; (with_reducible refine Keeps.cut (v := x) ?_ (fun hx => ?_)); subst x; rotate_left; clear_value x; rotate_right)
    | (extract_lets +onlyGivenNames -underBinder x; clear_value x)
    | ((with_reducible apply State.levFaces_keeps); (case hm => exact rfl))
    | ((with_reducible apply State.updLev_keeps); (case hm => exact rfl))
    | ((with_reducible apply State.levReserve_keeps); (case hm => exact rfl))
    | split
    | (dsimp only)

theorem State.tagFail_keeps {n0 : Nat} {s0 : State} {s : State} {i : Nat} (hK : Keeps n0 s0 s) (hm : Keeps.sub 0x400000040004 n0 = true) :
    Keeps n0 s0 (State.tagFail s i) := by
  refine Keeps.step hK ?_ hm
  clear hK hm
  unfold State.tagFail
  repeat' first
    | with_reducible exact Keeps.refl _ _
    | with_reducible assumption
    | (extract_lets +onlyGivenNames -underBinder x; (with_reducible refine Keeps.cut (v := x) ?_ (fun hx => ?_)); subst x; rotate_left; clear_value x; rotate_right)
    | (extract_lets +onlyGivenNames -underBinder x; clear_value x)
    | ((with_reducible apply State.irq_keeps); (case hm => exact rfl))
    | ((with_reducible apply State.raise_keeps); (case hm => exact rfl))
    | ((with_reducible apply State.setSess_keeps); (case hm => exact rfl))
    | split
    | (dsimp only)

theorem State.quarEnd_keeps {n0 : Nat} {s0 : State} {s : State} {i : Nat} (hK : Keeps n0 s0 s) (hm : Keeps.sub 0x400000040006 n0 = true) :
    Keeps n0 s0 (State.quarEnd s i) := by
  refine Keeps.step hK ?_ hm
  clear hK hm
  unfold State.quarEnd
  repeat' first
    | with_reducible exact Keeps.refl _ _
    | with_reducible assumption
    | (extract_lets +onlyGivenNames -underBinder x; (with_reducible refine Keeps.cut (v := x) ?_ (fun hx => ?_)); subst x; rotate_left; clear_value x; rotate_right)
    | (extract_lets +onlyGivenNames -underBinder x; clear_value x)
    | ((with_reducible apply State.irq_keeps); (case hm => exact rfl))
    | ((with_reducible apply State.at__keeps); (case hm => exact rfl))
    | ((with_reducible apply State.clearFault_keeps); (case hm => exact rfl))
    | ((with_reducible apply State.setSess_keeps); (case hm => exact rfl))
    | (with_reducible refine Keeps.ofP2 (by assumption) ?_)
    | (with_reducible refine Keeps.ofP1 (by assumption) ?_)
    | (with_reducible refine Keeps.ofP3 (by assumption) ?_)
    | split
    | (dsimp only)

theorem State.levRefused_keeps {n0 : Nat} {s0 : State} {s : State} {r : LevRefusal} {sess : Nat} {cls : Nat} {src : Nat} {ctr : Nat} {op : Nat} (hK : Keeps n0 s0 s) (hm : Keeps.sub 0x100004 n0 = true) :
    Keeps n0 s0 (State.levRefused s r sess cls src ctr op) := by
  refine Keeps.step hK ?_ hm
  clear hK hm
  unfold State.levRefused
  repeat' first
    | with_reducible exact Keeps.refl _ _
    | with_reducible assumption
    | (extract_lets +onlyGivenNames -underBinder x; (with_reducible refine Keeps.cut (v := x) ?_ (fun hx => ?_)); subst x; rotate_left; clear_value x; rotate_right)
    | (extract_lets +onlyGivenNames -underBinder x; clear_value x)
    | ((with_reducible apply State.bump_keeps); (case hm => exact rfl))
    | ((with_reducible apply State.irq_keeps); (case hm => exact rfl))
    | ((with_reducible apply State.audit_keeps); (case hm => exact rfl))
    | split
    | (dsimp only)

theorem State.checkTagged_keeps {n0 : Nat} {s0 : State} {s : State} {f : List Byte} {host : Bool} {known : Bool} {permit : Nat → Bool} (hK : Keeps n0 s0 s) (hm : Keeps.sub 0x400000040004 n0 = true) :
    Keeps n0 s0 (State.checkTagged s f host known permit).2 := by
  refine Keeps.step hK ?_ hm
  clear hK hm
  unfold State.checkTagged
  repeat' first
    | with_reducible exact Keeps.refl _ _
    | with_reducible assumption
    | (extract_lets +onlyGivenNames -underBinder x; (with_reducible refine Keeps.cut (v := x) ?_ (fun hx => ?_)); subst x; rotate_left; clear_value x; rotate_right)
    | (extract_lets +onlyGivenNames -underBinder x; (have hfn : (_ → _) := x; clear hfn); subst x; dsimp only)
    | (extract_lets +onlyGivenNames -underBinder x; clear_value x)
    | ((with_reducible apply State.tagFail_keeps); (case hm => exact rfl))
    | ((with_reducible apply State.setSess_keeps); (case hm => exact rfl))
    | (with_reducible refine Keeps.ofP2 (by assumption) ?_)
    | (with_reducible refine Keeps.ofP1 (by assumption) ?_)
    | (with_reducible refine Keeps.ofP3 (by assumption) ?_)
    | split
    | (dsimp only)

theorem State.graceEnd_keeps {n0 : Nat} {s0 : State} {s : State} (hK : Keeps n0 s0 s) (hm : Keeps.sub 0x400000000006 n0 = true) :
    Keeps n0 s0 (State.graceEnd s) := by
  refine Keeps.step hK ?_ hm
  clear hK hm
  unfold State.graceEnd
  repeat' first
    | with_reducible exact Keeps.refl _ _
    | with_reducible assumption
    | ((with_reducible apply State.at__keeps); (case hm => exact rfl))
    | ((with_reducible apply State.levFaces_keeps); (case hm => exact rfl))
    | ((with_reducible apply State.updLev_keeps); (case hm => exact rfl))
    | (with_reducible refine Keeps.ofP2 (by assumption) ?_)
    | (with_reducible refine Keeps.ofP1 (by assumption) ?_)
    | (with_reducible refine Keeps.ofP3 (by assumption) ?_)
    | split
    | (dsimp only)

theorem State.keyInForce_keeps {n0 : Nat} {s0 : State} {s : State} {k : Option (List Byte)} {roll : Bool} (hK : Keeps n0 s0 s) (hm : Keeps.sub 0x400000000004 n0 = true) :
    Keeps n0 s0 (State.keyInForce s k roll) := by
  refine Keeps.step hK ?_ hm
  clear hK hm
  unfold State.keyInForce
  repeat' first
    | with_reducible exact Keeps.refl _ _
    | with_reducible assumption
    | (extract_lets +onlyGivenNames -underBinder x; (with_reducible refine Keeps.cut (v := x) ?_ (fun hx => ?_)); subst x; rotate_left; clear_value x; rotate_right)
    | (extract_lets +onlyGivenNames -underBinder x; clear_value x)
    | ((with_reducible apply State.irq_keeps); (case hm => exact rfl))
    | ((with_reducible apply State.levFaces_keeps); (case hm => exact rfl))
    | ((with_reducible apply State.updLev_keeps); (case hm => exact rfl))
    | split
    | (dsimp only)

theorem State.bindInForce_keeps {n0 : Nat} {s0 : State} {s : State} {i : Nat} {on : Bool} {uid : Nat} {mask : Nat} (hK : Keeps n0 s0 s) (hm : Keeps.sub 0x400000040004 n0 = true) :
    Keeps n0 s0 (State.bindInForce s i on uid mask) := by
  refine Keeps.step hK ?_ hm
  clear hK hm
  unfold State.bindInForce
  repeat' first
    | with_reducible exact Keeps.refl _ _
    | with_reducible assumption
    | (extract_lets +onlyGivenNames -underBinder x; (with_reducible refine Keeps.cut (v := x) ?_ (fun hx => ?_)); subst x; rotate_left; clear_value x; rotate_right)
    | (extract_lets +onlyGivenNames -underBinder x; clear_value x)
    | ((with_reducible apply State.irq_keeps); (case hm => exact rfl))
    | ((with_reducible apply State.clearFault_keeps); (case hm => exact rfl))
    | ((with_reducible apply State.setSess_keeps); (case hm => exact rfl))
    | split
    | (dsimp only)

theorem State.keyErase_keeps {n0 : Nat} {s0 : State} {s : State} (hK : Keeps n0 s0 s) (hm : Keeps.sub 0x400000840004 n0 = true) :
    Keeps n0 s0 (State.keyErase s).2 := by
  refine Keeps.step hK ?_ hm
  clear hK hm
  unfold State.keyErase
  repeat' first
    | with_reducible exact Keeps.refl _ _
    | with_reducible assumption
    | (extract_lets +onlyGivenNames -underBinder x; (with_reducible refine Keeps.cut (v := x) ?_ (fun hx => ?_)); subst x; rotate_left; clear_value x; rotate_right)
    | (extract_lets +onlyGivenNames -underBinder x; clear_value x)
    | ((with_reducible apply State.levRun_keeps); (case hm => exact rfl))
    | ((with_reducible apply State.keyInForce_keeps); (case hm => exact rfl))
    | (with_reducible refine Keeps.ofP2 (by assumption) ?_)
    | (with_reducible refine Keeps.ofP1 (by assumption) ?_)
    | (with_reducible refine Keeps.ofP3 (by assumption) ?_)
    | split
    | (dsimp only)

end Sys2Proof.Machine
end

