-- ==== Sys2Proof/Laws/KeepsRbus.lean ====
section
/-! SUPPORT. What each operation of Machine/Rbus.lean may touch (Laws/Keeps.lean): the mask lists the fields it may change,
and the invariant of the block is kept. -/
set_option Elab.async false
set_option linter.all false
namespace Sys2Proof.Machine

theorem State.setRport_keeps {n0 : Nat} {s0 : State} {s : State} {p : Nat} {x : RbPort} (hK : Keeps n0 s0 s) (hm : Keeps.sub 0x40000000 n0 = true) :
    Keeps n0 s0 (State.setRport s p x) := by
  refine Keeps.step hK ?_ hm
  clear hK hm
  unfold State.setRport
  repeat' first
    | with_reducible exact Keeps.refl _ _
    | with_reducible assumption
    | (with_reducible refine Keeps.leaf ?_ (h_rbus := Keeps.chg (by decide)))
    | (dsimp only)

theorem State.rbPlan_keeps {n0 : Nat} {s0 : State} {s : State} {p : Nat} (hK : Keeps n0 s0 s) (hm : Keeps.sub 0x40000004 n0 = true) :
    Keeps n0 s0 (State.rbPlan s p) := by
  refine Keeps.step hK ?_ hm
  clear hK hm
  unfold State.rbPlan
  repeat' first
    | with_reducible exact Keeps.refl _ _
    | with_reducible assumption
    | (extract_lets +onlyGivenNames -underBinder x; (with_reducible refine Keeps.cut (v := x) ?_ (fun hx => ?_)); subst x; rotate_left; clear_value x; rotate_right)
    | (extract_lets +onlyGivenNames -underBinder x; clear_value x)
    | ((with_reducible apply State.setB_keeps); (case hm => exact rfl))
    | ((with_reducible apply State.set_keeps); (case hm => exact rfl))
    | ((with_reducible apply State.setRport_keeps); (case hm => exact rfl))
    | (with_reducible refine Keeps.fold _ _ ?_ (fun u b hu => ?_))
    | split
    | (dsimp only)

theorem State.rbFaces_keeps {n0 : Nat} {s0 : State} {s : State} {p : Nat} (hK : Keeps n0 s0 s) (hm : Keeps.sub 0x4 n0 = true) :
    Keeps n0 s0 (State.rbFaces s p) := by
  refine Keeps.step hK ?_ hm
  clear hK hm
  unfold State.rbFaces
  repeat' first
    | with_reducible exact Keeps.refl _ _
    | with_reducible assumption
    | (extract_lets +onlyGivenNames -underBinder x; (with_reducible refine Keeps.cut (v := x) ?_ (fun hx => ?_)); subst x; rotate_left; clear_value x; rotate_right)
    | (extract_lets +onlyGivenNames -underBinder x; clear_value x)
    | ((with_reducible apply State.set_keeps); (case hm => exact rfl))
    | split
    | (dsimp only)

theorem State.rbUnits_keeps {n0 : Nat} {s0 : State} {s : State} {p : Nat} (hK : Keeps n0 s0 s) (hm : Keeps.sub 0x40004 n0 = true) :
    Keeps n0 s0 (State.rbUnits s p) := by
  refine Keeps.step hK ?_ hm
  clear hK hm
  unfold State.rbUnits
  repeat' first
    | with_reducible exact Keeps.refl _ _
    | with_reducible assumption
    | (extract_lets +onlyGivenNames -underBinder x; (with_reducible refine Keeps.cut (v := x) ?_ (fun hx => ?_)); subst x; rotate_left; clear_value x; rotate_right)
    | (extract_lets +onlyGivenNames -underBinder x; clear_value x)
    | ((with_reducible apply State.irq_keeps); (case hm => exact rfl))
    | ((with_reducible apply State.setWord_keeps); (case hm => exact rfl))
    | ((with_reducible apply State.clearFault_keeps); (case hm => exact rfl))
    | ((with_reducible apply State.set_keeps); (case hm => exact rfl))
    | (with_reducible refine Keeps.fold _ _ ?_ (fun u b hu => ?_))
    | split
    | (dsimp only)

theorem State.cycleDone_keeps {n0 : Nat} {s0 : State} {s : State} {p : Nat} (hK : Keeps n0 s0 s) (hm : Keeps.sub 0x40000004 n0 = true) :
    Keeps n0 s0 (State.cycleDone s p) := by
  refine Keeps.step hK ?_ hm
  clear hK hm
  unfold State.cycleDone
  repeat' first
    | with_reducible exact Keeps.refl _ _
    | with_reducible assumption
    | (extract_lets +onlyGivenNames -underBinder x; (with_reducible refine Keeps.cut (v := x) ?_ (fun hx => ?_)); subst x; rotate_left; clear_value x; rotate_right)
    | (extract_lets +onlyGivenNames -underBinder x; clear_value x)
    | ((with_reducible apply State.irq_keeps); (case hm => exact rfl))
    | ((with_reducible apply State.set_keeps); (case hm => exact rfl))
    | ((with_reducible apply State.setRport_keeps); (case hm => exact rfl))
    | ((with_reducible apply State.bumpWrap_keeps); (case hm => exact rfl))
    | (dsimp only)

theorem State.rbStop_keeps {n0 : Nat} {s0 : State} {s : State} {p : Nat} (hK : Keeps n0 s0 s) (hm : Keeps.sub 0x40000004 n0 = true) :
    Keeps n0 s0 (State.rbStop s p) := by
  refine Keeps.step hK ?_ hm
  clear hK hm
  unfold State.rbStop
  repeat' first
    | with_reducible exact Keeps.refl _ _
    | with_reducible assumption
    | (extract_lets +onlyGivenNames -underBinder x; (with_reducible refine Keeps.cut (v := x) ?_ (fun hx => ?_)); subst x; rotate_left; clear_value x; rotate_right)
    | (extract_lets +onlyGivenNames -underBinder x; clear_value x)
    | ((with_reducible apply State.setB_keeps); (case hm => exact rfl))
    | ((with_reducible apply State.setRport_keeps); (case hm => exact rfl))
    | ((with_reducible apply State.rbFaces_keeps); (case hm => exact rfl))
    | (dsimp only)

theorem State.nextTx_keeps {n0 : Nat} {s0 : State} {s : State} {p : Nat} (hK : Keeps n0 s0 s) (hm : Keeps.sub 0x40000004 n0 = true) :
    Keeps n0 s0 (State.nextTx s p) := by
  refine Keeps.step hK ?_ hm
  clear hK hm
  unfold State.nextTx
  repeat' first
    | with_reducible exact Keeps.refl _ _
    | with_reducible assumption
    | (extract_lets +onlyGivenNames -underBinder x; (with_reducible refine Keeps.cut (v := x) ?_ (fun hx => ?_)); subst x; rotate_left; clear_value x; rotate_right)
    | (extract_lets +onlyGivenNames -underBinder x; clear_value x)
    | ((with_reducible apply State.rbStop_keeps); (case hm => exact rfl))
    | ((with_reducible apply State.setRport_keeps); (case hm => exact rfl))
    | ((with_reducible apply State.cycleDone_keeps); (case hm => exact rfl))
    | split
    | (dsimp only)

theorem State.pollStart_keeps {n0 : Nat} {s0 : State} {s : State} {p : Nat} (hK : Keeps n0 s0 s) (hm : Keeps.sub 0x40040004 n0 = true) :
    Keeps n0 s0 (State.pollStart s p) := by
  refine Keeps.step hK ?_ hm
  clear hK hm
  unfold State.pollStart
  repeat' first
    | with_reducible exact Keeps.refl _ _
    | with_reducible assumption
    | (extract_lets +onlyGivenNames -underBinder x; (with_reducible refine Keeps.cut (v := x) ?_ (fun hx => ?_)); subst x; rotate_left; clear_value x; rotate_right)
    | (extract_lets +onlyGivenNames -underBinder x; clear_value x)
    | ((with_reducible apply State.rbUnits_keeps); (case hm => exact rfl))
    | ((with_reducible apply State.setRport_keeps); (case hm => exact rfl))
    | ((with_reducible apply State.cycleDone_keeps); (case hm => exact rfl))
    | ((with_reducible apply State.rbFaces_keeps); (case hm => exact rfl))
    | (with_reducible refine Keeps.ofP2 (by assumption) ?_)
    | (with_reducible refine Keeps.ofP1 (by assumption) ?_)
    | (with_reducible refine Keeps.ofP3 (by assumption) ?_)
    | split
    | (dsimp only)

theorem State.pollFailed_keeps {n0 : Nat} {s0 : State} {s : State} {p : Nat} {t : RbTx} (hK : Keeps n0 s0 s) (hm : Keeps.sub 0x40040004 n0 = true) :
    Keeps n0 s0 (State.pollFailed s p t) := by
  refine Keeps.step hK ?_ hm
  clear hK hm
  unfold State.pollFailed
  repeat' first
    | with_reducible exact Keeps.refl _ _
    | with_reducible assumption
    | (extract_lets +onlyGivenNames -underBinder x; (with_reducible refine Keeps.cut (v := x) ?_ (fun hx => ?_)); subst x; rotate_left; clear_value x; rotate_right)
    | (extract_lets +onlyGivenNames -underBinder x; (have hfn : (_ → _) := x; clear hfn); subst x; dsimp only)
    | (extract_lets +onlyGivenNames -underBinder x; clear_value x)
    | ((with_reducible apply State.bump_keeps); (case hm => exact rfl))
    | ((with_reducible apply State.irq_keeps); (case hm => exact rfl))
    | ((with_reducible apply State.setWord_keeps); (case hm => exact rfl))
    | ((with_reducible apply State.set_keeps); (case hm => exact rfl))
    | ((with_reducible apply State.setRport_keeps); (case hm => exact rfl))
    | ((with_reducible apply State.raise_keeps); (case hm => exact rfl))
    | (with_reducible refine Keeps.ofP2 (by assumption) ?_)
    | (with_reducible refine Keeps.ofP1 (by assumption) ?_)
    | (with_reducible refine Keeps.ofP3 (by assumption) ?_)
    | split
    | (dsimp only)

theorem State.pollOk_keeps {n0 : Nat} {s0 : State} {s : State} {p : Nat} {t : RbTx} {regs : List Nat} (hK : Keeps n0 s0 s) (hm : Keeps.sub 0x40040004 n0 = true) :
    Keeps n0 s0 (State.pollOk s p t regs) := by
  refine Keeps.step hK ?_ hm
  clear hK hm
  unfold State.pollOk
  repeat' first
    | with_reducible exact Keeps.refl _ _
    | with_reducible assumption
    | (extract_lets +onlyGivenNames -underBinder x; (with_reducible refine Keeps.cut (v := x) ?_ (fun hx => ?_)); subst x; rotate_left; clear_value x; rotate_right)
    | (extract_lets +onlyGivenNames -underBinder x; clear_value x)
    | ((with_reducible apply State.irq_keeps); (case hm => exact rfl))
    | ((with_reducible apply State.setWord_keeps); (case hm => exact rfl))
    | ((with_reducible apply State.clearFault_keeps); (case hm => exact rfl))
    | ((with_reducible apply State.set_keeps); (case hm => exact rfl))
    | ((with_reducible apply State.setRport_keeps); (case hm => exact rfl))
    | (with_reducible refine Keeps.fold _ _ ?_ (fun u b hu => ?_))
    | (with_reducible refine Keeps.ofP2 (by assumption) ?_)
    | (with_reducible refine Keeps.ofP1 (by assumption) ?_)
    | (with_reducible refine Keeps.ofP3 (by assumption) ?_)
    | split
    | (dsimp only)

theorem State.attemptFailed_keeps {n0 : Nat} {s0 : State} {s : State} {p : Nat} (hK : Keeps n0 s0 s) (hm : Keeps.sub 0x40040004 n0 = true) :
    Keeps n0 s0 (State.attemptFailed s p) := by
  refine Keeps.step hK ?_ hm
  clear hK hm
  unfold State.attemptFailed
  repeat' first
    | with_reducible exact Keeps.refl _ _
    | with_reducible assumption
    | (extract_lets +onlyGivenNames -underBinder x; (with_reducible refine Keeps.cut (v := x) ?_ (fun hx => ?_)); subst x; rotate_left; clear_value x; rotate_right)
    | (extract_lets +onlyGivenNames -underBinder x; clear_value x)
    | ((with_reducible apply State.setRport_keeps); (case hm => exact rfl))
    | ((with_reducible apply State.nextTx_keeps); (case hm => exact rfl))
    | ((with_reducible apply State.pollFailed_keeps); (case hm => exact rfl))
    | (with_reducible refine Keeps.ofP2 (by assumption) ?_)
    | (with_reducible refine Keeps.ofP1 (by assumption) ?_)
    | (with_reducible refine Keeps.ofP3 (by assumption) ?_)
    | split
    | (dsimp only)

theorem State.modbusReply_keeps {n0 : Nat} {s0 : State} {s : State} {p : Nat} {bs : List Byte} (hK : Keeps n0 s0 s) (hm : Keeps.sub 0x40040004 n0 = true) :
    Keeps n0 s0 (State.modbusReply s p bs) := by
  refine Keeps.step hK ?_ hm
  clear hK hm
  unfold State.modbusReply
  repeat' first
    | with_reducible exact Keeps.refl _ _
    | with_reducible assumption
    | (extract_lets +onlyGivenNames -underBinder x; (with_reducible refine Keeps.cut (v := x) ?_ (fun hx => ?_)); subst x; rotate_left; clear_value x; rotate_right)
    | (extract_lets +onlyGivenNames -underBinder x; clear_value x)
    | ((with_reducible apply State.pollOk_keeps); (case hm => exact rfl))
    | ((with_reducible apply State.bump_keeps); (case hm => exact rfl))
    | ((with_reducible apply State.irq_keeps); (case hm => exact rfl))
    | ((with_reducible apply State.set_keeps); (case hm => exact rfl))
    | ((with_reducible apply State.nextTx_keeps); (case hm => exact rfl))
    | ((with_reducible apply State.attemptFailed_keeps); (case hm => exact rfl))
    | ((with_reducible apply State.pollFailed_keeps); (case hm => exact rfl))
    | (with_reducible refine Keeps.ofP2 (by assumption) ?_)
    | (with_reducible refine Keeps.ofP1 (by assumption) ?_)
    | (with_reducible refine Keeps.ofP3 (by assumption) ?_)
    | split
    | (dsimp only)

theorem State.replyTimeout_keeps {n0 : Nat} {s0 : State} {s : State} {p : Nat} (hK : Keeps n0 s0 s) (hm : Keeps.sub 0x40040006 n0 = true) :
    Keeps n0 s0 (State.replyTimeout s p) := by
  refine Keeps.step hK ?_ hm
  clear hK hm
  unfold State.replyTimeout
  repeat' first
    | with_reducible exact Keeps.refl _ _
    | with_reducible assumption
    | (extract_lets +onlyGivenNames -underBinder x; (with_reducible refine Keeps.cut (v := x) ?_ (fun hx => ?_)); subst x; rotate_left; clear_value x; rotate_right)
    | (extract_lets +onlyGivenNames -underBinder x; clear_value x)
    | ((with_reducible apply State.bump_keeps); (case hm => exact rfl))
    | ((with_reducible apply State.at__keeps); (case hm => exact rfl))
    | ((with_reducible apply State.attemptFailed_keeps); (case hm => exact rfl))
    | (with_reducible refine Keeps.ofP2 (by assumption) ?_)
    | (with_reducible refine Keeps.ofP1 (by assumption) ?_)
    | (with_reducible refine Keeps.ofP3 (by assumption) ?_)
    | split
    | (dsimp only)

theorem State.retryGapEnd_keeps {n0 : Nat} {s0 : State} {s : State} {p : Nat} (hK : Keeps n0 s0 s) (hm : Keeps.sub 0x40000002 n0 = true) :
    Keeps n0 s0 (State.retryGapEnd s p) := by
  refine Keeps.step hK ?_ hm
  clear hK hm
  unfold State.retryGapEnd
  repeat' first
    | with_reducible exact Keeps.refl _ _
    | with_reducible assumption
    | (extract_lets +onlyGivenNames -underBinder x; (with_reducible refine Keeps.cut (v := x) ?_ (fun hx => ?_)); subst x; rotate_left; clear_value x; rotate_right)
    | (extract_lets +onlyGivenNames -underBinder x; clear_value x)
    | ((with_reducible apply State.at__keeps); (case hm => exact rfl))
    | ((with_reducible apply State.setRport_keeps); (case hm => exact rfl))
    | split
    | (dsimp only)

theorem State.rbEnable_keeps {n0 : Nat} {s0 : State} {s : State} {p : Nat} (hK : Keeps n0 s0 s) (hm : Keeps.sub 0x40000004 n0 = true) :
    Keeps n0 s0 (State.rbEnable s p) := by
  refine Keeps.step hK ?_ hm
  clear hK hm
  unfold State.rbEnable
  repeat' first
    | with_reducible exact Keeps.refl _ _
    | with_reducible assumption
    | ((with_reducible apply State.setB_keeps); (case hm => exact rfl))
    | ((with_reducible apply State.rbStop_keeps); (case hm => exact rfl))
    | ((with_reducible apply State.rbFaces_keeps); (case hm => exact rfl))
    | split
    | (dsimp only)

theorem State.rbCapture_keeps {n0 : Nat} {s0 : State} {s : State} (hK : Keeps n0 s0 s) (hm : Keeps.sub 0x40000000 n0 = true) :
    Keeps n0 s0 (State.rbCapture s) := by
  refine Keeps.step hK ?_ hm
  clear hK hm
  unfold State.rbCapture
  repeat' first
    | with_reducible exact Keeps.refl _ _
    | with_reducible assumption
    | (extract_lets +onlyGivenNames -underBinder x; (with_reducible refine Keeps.cut (v := x) ?_ (fun hx => ?_)); subst x; rotate_left; clear_value x; rotate_right)
    | (extract_lets +onlyGivenNames -underBinder x; clear_value x)
    | ((with_reducible apply State.setRport_keeps); (case hm => exact rfl))
    | (with_reducible refine Keeps.fold _ _ ?_ (fun u b hu => ?_))
    | (with_reducible refine Keeps.ofP2 (by assumption) ?_)
    | (with_reducible refine Keeps.ofP1 (by assumption) ?_)
    | (with_reducible refine Keeps.ofP3 (by assumption) ?_)
    | split
    | (dsimp only)

theorem State.rbIngest_keeps {n0 : Nat} {s0 : State} {s : State} (hK : Keeps n0 s0 s) (hm : Keeps.sub 0x30000 n0 = true) :
    Keeps n0 s0 (State.rbIngest s) := by
  refine Keeps.step hK ?_ hm
  clear hK hm
  unfold State.rbIngest
  repeat' first
    | with_reducible exact Keeps.refl _ _
    | with_reducible assumption
    | (extract_lets +onlyGivenNames -underBinder x; (with_reducible refine Keeps.cut (v := x) ?_ (fun hx => ?_)); subst x; rotate_left; clear_value x; rotate_right)
    | (extract_lets +onlyGivenNames -underBinder x; clear_value x)
    | ((with_reducible apply State.produce_keeps); (case hm => exact rfl))
    | (with_reducible refine Keeps.fold _ _ ?_ (fun u b hu => ?_))
    | (with_reducible refine Keeps.ofP2 (by assumption) ?_)
    | (with_reducible refine Keeps.ofP1 (by assumption) ?_)
    | (with_reducible refine Keeps.ofP3 (by assumption) ?_)
    | split
    | (dsimp only)

theorem State.rbCommit_keeps {n0 : Nat} {s0 : State} {s : State} (hK : Keeps n0 s0 s) (hm : Keeps.sub 0x40000000 n0 = true) :
    Keeps n0 s0 (State.rbCommit s) := by
  refine Keeps.step hK ?_ hm
  clear hK hm
  unfold State.rbCommit
  repeat' first
    | with_reducible exact Keeps.refl _ _
    | with_reducible assumption
    | ((with_reducible apply State.setRport_keeps); (case hm => exact rfl))
    | (with_reducible refine Keeps.fold _ _ ?_ (fun u b hu => ?_))
    | (dsimp only)

theorem State.rbSwitch_keeps {n0 : Nat} {s0 : State} {s : State} (hK : Keeps n0 s0 s) (hm : Keeps.sub 0x40044004 n0 = true) :
    Keeps n0 s0 (State.rbSwitch s) := by
  refine Keeps.step hK ?_ hm
  clear hK hm
  unfold State.rbSwitch
  repeat' first
    | with_reducible exact Keeps.refl _ _
    | with_reducible assumption
    | (extract_lets +onlyGivenNames -underBinder x; (with_reducible refine Keeps.cut (v := x) ?_ (fun hx => ?_)); subst x; rotate_left; clear_value x; rotate_right)
    | (extract_lets +onlyGivenNames -underBinder x; clear_value x)
    | ((with_reducible apply State.setVis_keeps); (case hm => exact rfl))
    | ((with_reducible apply State.rbPlan_keeps); (case hm => exact rfl))
    | ((with_reducible apply State.rbUnits_keeps); (case hm => exact rfl))
    | ((with_reducible apply State.setRport_keeps); (case hm => exact rfl))
    | ((with_reducible apply State.rbFaces_keeps); (case hm => exact rfl))
    | (with_reducible refine Keeps.fold _ _ ?_ (fun u b hu => ?_))
    | split
    | (dsimp only)

end Sys2Proof.Machine
end

