-- ==== Sys2Proof/Laws/KeepsPres.lean ====
section
/-! SUPPORT. What each operation of Machine/Pres.lean may touch (Laws/Keeps.lean): the mask lists the fields it may change,
and the invariant of the block is kept. -/
set_option Elab.async false
set_option linter.all false
namespace Sys2Proof.Machine

theorem State.setPresSt_keeps {n0 : Nat} {s0 : State} {s : State} {z : Nat} {x : PresSt} (hK : Keeps n0 s0 s) (hm : Keeps.sub 0x1000000 n0 = true) :
    Keeps n0 s0 (State.setPresSt s z x) := by
  refine Keeps.step hK ?_ hm
  clear hK hm
  unfold State.setPresSt
  repeat' first
    | with_reducible exact Keeps.refl _ _
    | with_reducible assumption
    | split
    | (with_reducible refine Keeps.leaf ?_ (h_eng := Keeps.chg (by decide)))
    | (dsimp only)

theorem State.pirProcess_keeps {n0 : Nat} {s0 : State} {s : State} {n : Nat} (hK : Keeps n0 s0 s) (hm : Keeps.sub 0x80000000 n0 = true) :
    Keeps n0 s0 (State.pirProcess s n) := by
  refine Keeps.step hK ?_ hm
  clear hK hm
  unfold State.pirProcess
  repeat' first
    | with_reducible exact Keeps.refl _ _
    | with_reducible assumption
    | (extract_lets +onlyGivenNames -underBinder x; (with_reducible refine Keeps.cut (v := x) ?_ (fun hx => ?_)); subst x; rotate_left; clear_value x; rotate_right)
    | (extract_lets +onlyGivenNames -underBinder x; clear_value x)
    | (with_reducible refine Keeps.ofP2 (by assumption) ?_)
    | (with_reducible refine Keeps.ofP1 (by assumption) ?_)
    | (with_reducible refine Keeps.ofP3 (by assumption) ?_)
    | split
    | (with_reducible refine Keeps.leaf ?_ (h_pir := Keeps.chg (by decide)))
    | (dsimp only)

theorem State.presZone_keeps {n0 : Nat} {s0 : State} {s : State} {z : Nat} (hK : Keeps n0 s0 s) (hm : Keeps.sub 0x19000000 n0 = true) :
    Keeps n0 s0 (State.presZone s z) := by
  refine Keeps.step hK ?_ hm
  clear hK hm
  unfold State.presZone
  repeat' first
    | with_reducible exact Keeps.refl _ _
    | with_reducible assumption
    | (extract_lets +onlyGivenNames -underBinder x; (with_reducible refine Keeps.cut (v := x) ?_ (fun hx => ?_)); subst x; rotate_left; clear_value x; rotate_right)
    | (extract_lets +onlyGivenNames -underBinder x; (have hfn : (_ → _) := x; clear hfn); subst x; dsimp only)
    | (extract_lets +onlyGivenNames -underBinder x; clear_value x)
    | ((with_reducible apply State.laterB_keeps); (case hm => exact rfl))
    | ((with_reducible apply State.later_keeps); (case hm => exact rfl))
    | ((with_reducible apply State.setPresSt_keeps); (case hm => exact rfl))
    | ((with_reducible apply State.laterSet_keeps); (case hm => exact rfl))
    | (with_reducible refine Keeps.fold _ _ ?_ (fun u b hu => ?_))
    | (with_reducible refine Keeps.ofP2 (by assumption) ?_)
    | (with_reducible refine Keeps.ofP1 (by assumption) ?_)
    | (with_reducible refine Keeps.ofP3 (by assumption) ?_)
    | split
    | (dsimp only)

theorem State.presFrame_keeps {n0 : Nat} {s0 : State} {s : State} (hK : Keeps n0 s0 s) (hm : Keeps.sub 0x19000000 n0 = true) :
    Keeps n0 s0 (State.presFrame s) := by
  refine Keeps.step hK ?_ hm
  clear hK hm
  unfold State.presFrame
  repeat' first
    | with_reducible exact Keeps.refl _ _
    | with_reducible assumption
    | ((with_reducible apply State.presZone_keeps); (case hm => exact rfl))
    | (with_reducible refine Keeps.fold _ _ ?_ (fun u b hu => ?_))
    | (dsimp only)

theorem State.presSwitch_keeps {n0 : Nat} {s0 : State} {old : State} {s : State} (hK : Keeps n0 s0 s) (hm : Keeps.sub 0x1000000 n0 = true) :
    Keeps n0 s0 (State.presSwitch old s) := by
  refine Keeps.step hK ?_ hm
  clear hK hm
  unfold State.presSwitch
  repeat' first
    | with_reducible exact Keeps.refl _ _
    | with_reducible assumption
    | ((with_reducible apply State.setPresSt_keeps); (case hm => exact rfl))
    | (with_reducible refine Keeps.fold _ _ ?_ (fun u b hu => ?_))
    | split
    | (dsimp only)

end Sys2Proof.Machine
end

