-- ==== Sys2Proof/Laws/KeepsCal.lean ====
section
/-! SUPPORT. What each operation of Machine/Cal.lean may touch (Laws/Keeps.lean): the mask lists the fields it may change,
and the invariant of the block is kept. -/
set_option Elab.async false
set_option linter.all false
namespace Sys2Proof.Machine

theorem State.calRangeEnd_keeps {n0 : Nat} {s0 : State} {s : State} (hK : Keeps n0 s0 s) (hm : Keeps.sub 0x40006 n0 = true) :
    Keeps n0 s0 (State.calRangeEnd s) := by
  refine Keeps.step hK ?_ hm
  clear hK hm
  unfold State.calRangeEnd
  repeat' first
    | with_reducible exact Keeps.refl _ _
    | with_reducible assumption
    | (extract_lets +onlyGivenNames -underBinder x; (with_reducible refine Keeps.cut (v := x) ?_ (fun hx => ?_)); subst x; rotate_left; clear_value x; rotate_right)
    | (extract_lets +onlyGivenNames -underBinder x; clear_value x)
    | ((with_reducible apply State.setB_keeps); (case hm => exact rfl))
    | ((with_reducible apply State.irq_keeps); (case hm => exact rfl))
    | ((with_reducible apply State.at__keeps); (case hm => exact rfl))
    | ((with_reducible apply State.raise_keeps); (case hm => exact rfl))
    | split
    | (dsimp only)

theorem State.dstChange_keeps {n0 : Nat} {s0 : State} {s : State} (hK : Keeps n0 s0 s) (hm : Keeps.sub 0x6 n0 = true) :
    Keeps n0 s0 (State.dstChange s) := by
  refine Keeps.step hK ?_ hm
  clear hK hm
  unfold State.dstChange
  repeat' first
    | with_reducible exact Keeps.refl _ _
    | with_reducible assumption
    | (extract_lets +onlyGivenNames -underBinder x; (with_reducible refine Keeps.cut (v := x) ?_ (fun hx => ?_)); subst x; rotate_left; clear_value x; rotate_right)
    | (extract_lets +onlyGivenNames -underBinder x; (have hfn : (_ → _) := x; clear hfn); subst x; dsimp only)
    | (extract_lets +onlyGivenNames -underBinder x; clear_value x)
    | ((with_reducible apply State.setB_keeps); (case hm => exact rfl))
    | ((with_reducible apply State.irq_keeps); (case hm => exact rfl))
    | ((with_reducible apply State.at__keeps); (case hm => exact rfl))
    | (with_reducible refine Keeps.ofP2 (by assumption) ?_)
    | (with_reducible refine Keeps.ofP1 (by assumption) ?_)
    | (with_reducible refine Keeps.ofP3 (by assumption) ?_)
    | split
    | (dsimp only)

theorem State.stepTimebase_keeps {n0 : Nat} {s0 : State} {s : State} {d : Int} (hK : Keeps n0 s0 s) (hm : Keeps.sub 0x86 n0 = true) :
    Keeps n0 s0 (State.stepTimebase s d) := by
  refine Keeps.step hK ?_ hm
  clear hK hm
  unfold State.stepTimebase
  repeat' first
    | with_reducible exact Keeps.refl _ _
    | with_reducible assumption
    | (extract_lets +onlyGivenNames -underBinder x; (with_reducible refine Keeps.cut (v := x) ?_ (fun hx => ?_)); subst x; rotate_left; clear_value x; rotate_right)
    | (extract_lets +onlyGivenNames -underBinder x; (have hfn : (_ → _) := x; clear hfn); subst x; dsimp only)
    | (extract_lets +onlyGivenNames -underBinder x; subst x)
    | ((with_reducible apply State.bump_keeps); (case hm => exact rfl))
    | ((with_reducible apply State.irq_keeps); (case hm => exact rfl))
    | (with_reducible refine Keeps.leaf ?_ (h_now := Keeps.chg (by decide)) (h_lath := Keeps.chg (by decide)) (i6 := (fun h => by first | exact h | (simp only; first | omega | (simp; omega) | (simp; done)))))
    | (dsimp only)

theorem State.calSet_keeps {n0 : Nat} {s0 : State} {s : State} {lo : Word} {hi : Word} {source : Bool} (hK : Keeps n0 s0 s) (hm : Keeps.sub 0x1000086 n0 = true) :
    Keeps n0 s0 (State.calSet s lo hi source) := by
  refine Keeps.step hK ?_ hm
  clear hK hm
  unfold State.calSet
  repeat' first
    | with_reducible exact Keeps.refl _ _
    | with_reducible assumption
    | (extract_lets +onlyGivenNames -underBinder x; (with_reducible refine Keeps.cut (v := x) ?_ (fun hx => ?_)); subst x; rotate_left; clear_value x; rotate_right)
    | (extract_lets +onlyGivenNames -underBinder x; clear_value x)
    | ((with_reducible apply State.setB_keeps); (case hm => exact rfl))
    | ((with_reducible apply State.irq_keeps); (case hm => exact rfl))
    | ((with_reducible apply State.seti_keeps); (case hm => exact rfl))
    | ((with_reducible apply State.blkErr_keeps); (case hm => exact rfl))
    | ((with_reducible apply State.set_keeps); (case hm => exact rfl))
    | ((with_reducible apply State.stepTimebase_keeps); (case hm => exact rfl))
    | split
    | (with_reducible refine Keeps.leaf ?_ (h_eng := Keeps.chg (by decide)))
    | (dsimp only)

end Sys2Proof.Machine
end

