-- ==== Sys2Proof/Laws/KeepsFab.lean ====
section
/-! SUPPORT. What each operation of Machine/Fab.lean may touch (Laws/Keeps.lean): the mask lists the fields it may change,
and the invariant of the block is kept. -/
set_option Elab.async false
set_option linter.all false
namespace Sys2Proof.Machine

theorem State.updFab_keeps {n0 : Nat} {s0 : State} {s : State} {f : FabSt → FabSt} (hK : Keeps n0 s0 s) (hm : Keeps.sub 0x800000000000 n0 = true) :
    Keeps n0 s0 (State.updFab s f) := by
  refine Keeps.step hK ?_ hm
  clear hK hm
  unfold State.updFab
  repeat' first
    | with_reducible exact Keeps.refl _ _
    | with_reducible assumption
    | (with_reducible refine Keeps.leaf ?_ (h_fab := Keeps.chg (by decide)))
    | (dsimp only)

theorem State.setPort_keeps {n0 : Nat} {s0 : State} {s : State} {p : Nat} {x : PortSt} (hK : Keeps n0 s0 s) (hm : Keeps.sub 0x800000000000 n0 = true) :
    Keeps n0 s0 (State.setPort s p x) := by
  refine Keeps.step hK ?_ hm
  clear hK hm
  unfold State.setPort
  repeat' first
    | with_reducible exact Keeps.refl _ _
    | with_reducible assumption
    | ((with_reducible apply State.updFab_keeps); (case hm => exact rfl))
    | (dsimp only)

theorem State.modPort_keeps {n0 : Nat} {s0 : State} {s : State} {p : Nat} {g : PortSt → PortSt} (hK : Keeps n0 s0 s) (hm : Keeps.sub 0x800000000000 n0 = true) :
    Keeps n0 s0 (State.modPort s p g) := by
  refine Keeps.step hK ?_ hm
  clear hK hm
  unfold State.modPort
  repeat' first
    | with_reducible exact Keeps.refl _ _
    | with_reducible assumption
    | ((with_reducible apply State.setPort_keeps); (case hm => exact rfl))
    | (dsimp only)

theorem State.stampNs_keeps {n0 : Nat} {s0 : State} {s : State} (hK : Keeps n0 s0 s) (hm : Keeps.sub 0x2000000000000 n0 = true) :
    Keeps n0 s0 (State.stampNs s).2 := by
  refine Keeps.step hK ?_ hm
  clear hK hm
  unfold State.stampNs
  repeat' first
    | with_reducible exact Keeps.refl _ _
    | with_reducible assumption
    | (extract_lets +onlyGivenNames -underBinder x; (with_reducible refine Keeps.cut (v := x) ?_ (fun hx => ?_)); subst x; rotate_left; clear_value x; rotate_right)
    | (extract_lets +onlyGivenNames -underBinder x; clear_value x)
    | ((with_reducible apply State.freeNat_keeps); (case hm => exact rfl))
    | (with_reducible refine Keeps.ofP2 (by assumption) ?_)
    | (with_reducible refine Keeps.ofP1 (by assumption) ?_)
    | (with_reducible refine Keeps.ofP3 (by assumption) ?_)
    | split
    | (dsimp only)

theorem State.enqueue_keeps {n0 : Nat} {s0 : State} {s : State} {p : Nat} {x : OutFrame} (hK : Keeps n0 s0 s) (hm : Keeps.sub 0x800000000000 n0 = true) :
    Keeps n0 s0 (State.enqueue s p x) := by
  refine Keeps.step hK ?_ hm
  clear hK hm
  unfold State.enqueue
  repeat' first
    | with_reducible exact Keeps.refl _ _
    | with_reducible assumption
    | ((with_reducible apply State.modPort_keeps); (case hm => exact rfl))
    | split
    | (dsimp only)

theorem State.noteCtr_keeps {n0 : Nat} {s0 : State} {s : State} {o : Origin} {c : Nat} (hK : Keeps n0 s0 s) (hm : Keeps.sub 0x1000000000000 n0 = true) :
    Keeps n0 s0 (State.noteCtr s o c) := by
  refine Keeps.step hK ?_ hm
  clear hK hm
  unfold State.noteCtr
  repeat' first
    | with_reducible exact Keeps.refl _ _
    | with_reducible assumption
    | split
    | (with_reducible refine Keeps.leaf ?_ (h_dlv := Keeps.chg (by decide)))
    | (dsimp only)

theorem State.originate_keeps {n0 : Nat} {s0 : State} {s : State} {o : Origin} (hK : Keeps n0 s0 s) (hm : Keeps.sub 0x1c00000840004 n0 = true) :
    Keeps n0 s0 (State.originate s o).2 := by
  refine Keeps.step hK ?_ hm
  clear hK hm
  unfold State.originate
  repeat' first
    | with_reducible exact Keeps.refl _ _
    | with_reducible assumption
    | (extract_lets +onlyGivenNames -underBinder x; (with_reducible refine Keeps.cut (v := x) ?_ (fun hx => ?_)); subst x; rotate_left; clear_value x; rotate_right)
    | (extract_lets +onlyGivenNames -underBinder x; clear_value x)
    | ((with_reducible apply State.takeCtr_keeps); (case hm => exact rfl))
    | ((with_reducible apply State.enqueue_keeps); (case hm => exact rfl))
    | ((with_reducible apply State.updFab_keeps); (case hm => exact rfl))
    | ((with_reducible apply State.noteCtr_keeps); (case hm => exact rfl))
    | (with_reducible refine Keeps.fold _ _ ?_ (fun u b hu => ?_))
    | (with_reducible refine Keeps.ofP2 (by assumption) ?_)
    | (with_reducible refine Keeps.ofP1 (by assumption) ?_)
    | (with_reducible refine Keeps.ofP3 (by assumption) ?_)
    | split
    | (dsimp only)

theorem State.linkSend_keeps {n0 : Nat} {s0 : State} {s : State} {p : Nat} {kind : Nat} {payload : List Byte} (hK : Keeps n0 s0 s) (hm : Keeps.sub 0x1c00000840004 n0 = true) :
    Keeps n0 s0 (State.linkSend s p kind payload) := by
  refine Keeps.step hK ?_ hm
  clear hK hm
  unfold State.linkSend
  repeat' first
    | with_reducible exact Keeps.refl _ _
    | with_reducible assumption
    | ((with_reducible apply State.originate_keeps); (case hm => exact rfl))
    | split
    | (dsimp only)

theorem State.originateWaiting_keeps {n0 : Nat} {s0 : State} {s : State} (hK : Keeps n0 s0 s) (hm : Keeps.sub 0x1c00000840004 n0 = true) :
    Keeps n0 s0 (State.originateWaiting s) := by
  refine Keeps.step hK ?_ hm
  clear hK hm
  unfold State.originateWaiting
  repeat' first
    | with_reducible exact Keeps.refl _ _
    | with_reducible assumption
    | (extract_lets +onlyGivenNames -underBinder x; (with_reducible refine Keeps.cut (v := x) ?_ (fun hx => ?_)); subst x; rotate_left; clear_value x; rotate_right)
    | (extract_lets +onlyGivenNames -underBinder x; clear_value x)
    | ((with_reducible apply State.updFab_keeps); (case hm => exact rfl))
    | ((with_reducible apply State.originate_keeps); (case hm => exact rfl))
    | (with_reducible refine Keeps.fold _ _ ?_ (fun u b hu => ?_))
    | (dsimp only)

theorem State.sendHello_keeps {n0 : Nat} {s0 : State} {s : State} {p : Nat} (hK : Keeps n0 s0 s) (hm : Keeps.sub 0x1c00000840004 n0 = true) :
    Keeps n0 s0 (State.sendHello s p) := by
  refine Keeps.step hK ?_ hm
  clear hK hm
  unfold State.sendHello
  repeat' first
    | with_reducible exact Keeps.refl _ _
    | with_reducible assumption
    | (extract_lets +onlyGivenNames -underBinder x; (with_reducible refine Keeps.cut (v := x) ?_ (fun hx => ?_)); subst x; rotate_left; clear_value x; rotate_right)
    | (extract_lets +onlyGivenNames -underBinder x; clear_value x)
    | ((with_reducible apply State.linkSend_keeps); (case hm => exact rfl))
    | split
    | (dsimp only)

theorem State.floodOn_keeps {n0 : Nat} {s0 : State} {s : State} {p : Nat} {kind : Nat} {uid : Nat} {seq : Nat} {payload : List Byte} (hK : Keeps n0 s0 s) (hm : Keeps.sub 0x1c00000840004 n0 = true) :
    Keeps n0 s0 (State.floodOn s p kind uid seq payload) := by
  refine Keeps.step hK ?_ hm
  clear hK hm
  unfold State.floodOn
  repeat' first
    | with_reducible exact Keeps.refl _ _
    | with_reducible assumption
    | (extract_lets +onlyGivenNames -underBinder x; (with_reducible refine Keeps.cut (v := x) ?_ (fun hx => ?_)); subst x; rotate_left; clear_value x; rotate_right)
    | (extract_lets +onlyGivenNames -underBinder x; clear_value x)
    | ((with_reducible apply State.modPort_keeps); (case hm => exact rfl))
    | ((with_reducible apply State.linkSend_keeps); (case hm => exact rfl))
    | (dsimp only)

theorem State.floodAll_keeps {n0 : Nat} {s0 : State} {s : State} {except_ : Option Nat} {kind : Nat} {uid : Nat} {seq : Nat} {payload : List Byte} (hK : Keeps n0 s0 s) (hm : Keeps.sub 0x1c00000840004 n0 = true) :
    Keeps n0 s0 (State.floodAll s except_ kind uid seq payload) := by
  refine Keeps.step hK ?_ hm
  clear hK hm
  unfold State.floodAll
  repeat' first
    | with_reducible exact Keeps.refl _ _
    | with_reducible assumption
    | ((with_reducible apply State.floodOn_keeps); (case hm => exact rfl))
    | (with_reducible refine Keeps.fold _ _ ?_ (fun u b hu => ?_))
    | (dsimp only)

theorem State.dbChanged_keeps {n0 : Nat} {s0 : State} {s : State} (hK : Keeps n0 s0 s) (hm : Keeps.sub 0x800000000004 n0 = true) :
    Keeps n0 s0 (State.dbChanged s) := by
  refine Keeps.step hK ?_ hm
  clear hK hm
  unfold State.dbChanged
  repeat' first
    | with_reducible exact Keeps.refl _ _
    | with_reducible assumption
    | (extract_lets +onlyGivenNames -underBinder x; (with_reducible refine Keeps.cut (v := x) ?_ (fun hx => ?_)); subst x; rotate_left; clear_value x; rotate_right)
    | (extract_lets +onlyGivenNames -underBinder x; clear_value x)
    | ((with_reducible apply State.irq_keeps); (case hm => exact rfl))
    | ((with_reducible apply State.updFab_keeps); (case hm => exact rfl))
    | ((with_reducible apply State.set_keeps); (case hm => exact rfl))
    | (dsimp only)

theorem State.dbPut_keeps {n0 : Nat} {s0 : State} {s : State} {l : Lsa} (hK : Keeps n0 s0 s) (hm : Keeps.sub 0x800000000000 n0 = true) :
    Keeps n0 s0 (State.dbPut s l) := by
  refine Keeps.step hK ?_ hm
  clear hK hm
  unfold State.dbPut
  repeat' first
    | with_reducible exact Keeps.refl _ _
    | with_reducible assumption
    | ((with_reducible apply State.updFab_keeps); (case hm => exact rfl))
    | (dsimp only)

theorem State.originateLsa_keeps {n0 : Nat} {s0 : State} {s : State} (hK : Keeps n0 s0 s) (hm : Keeps.sub 0x1c00000840004 n0 = true) :
    Keeps n0 s0 (State.originateLsa s) := by
  refine Keeps.step hK ?_ hm
  clear hK hm
  unfold State.originateLsa
  repeat' first
    | with_reducible exact Keeps.refl _ _
    | with_reducible assumption
    | (extract_lets +onlyGivenNames -underBinder x; (with_reducible refine Keeps.cut (v := x) ?_ (fun hx => ?_)); subst x; rotate_left; clear_value x; rotate_right)
    | (extract_lets +onlyGivenNames -underBinder x; clear_value x)
    | ((with_reducible apply State.dbPut_keeps); (case hm => exact rfl))
    | ((with_reducible apply State.updFab_keeps); (case hm => exact rfl))
    | ((with_reducible apply State.dbChanged_keeps); (case hm => exact rfl))
    | ((with_reducible apply State.floodAll_keeps); (case hm => exact rfl))
    | split
    | (dsimp only)

theorem State.setFsync_keeps {n0 : Nat} {s0 : State} {s : State} {b : Bool} (hK : Keeps n0 s0 s) (hm : Keeps.sub 0x1000000000004 n0 = true) :
    Keeps n0 s0 (State.setFsync s b) := by
  refine Keeps.step hK ?_ hm
  clear hK hm
  unfold State.setFsync
  repeat' first
    | with_reducible exact Keeps.refl _ _
    | with_reducible assumption
    | (extract_lets +onlyGivenNames -underBinder x; (with_reducible refine Keeps.cut (v := x) ?_ (fun hx => ?_)); subst x; rotate_left; clear_value x; rotate_right)
    | (extract_lets +onlyGivenNames -underBinder x; clear_value x)
    | ((with_reducible apply State.setB_keeps); (case hm => exact rfl))
    | ((with_reducible apply State.irq_keeps); (case hm => exact rfl))
    | ((with_reducible apply State.set_keeps); (case hm => exact rfl))
    | split
    | (with_reducible refine Keeps.leaf ?_ (h_dlv := Keeps.chg (by decide)))
    | (dsimp only)

theorem State.fsyncRoot_keeps {n0 : Nat} {s0 : State} {s : State} (hK : Keeps n0 s0 s) (hm : Keeps.sub 0x1000000000004 n0 = true) :
    Keeps n0 s0 (State.fsyncRoot s) := by
  refine Keeps.step hK ?_ hm
  clear hK hm
  unfold State.fsyncRoot
  repeat' first
    | with_reducible exact Keeps.refl _ _
    | with_reducible assumption
    | ((with_reducible apply State.setFsync_keeps); (case hm => exact rfl))
    | split
    | (dsimp only)

theorem State.setPstate_keeps {n0 : Nat} {s0 : State} {s : State} {p : Nat} {st : Nat} (hK : Keeps n0 s0 s) (hm : Keeps.sub 0x1c00000840004 n0 = true) :
    Keeps n0 s0 (State.setPstate s p st) := by
  refine Keeps.step hK ?_ hm
  clear hK hm
  unfold State.setPstate
  repeat' first
    | with_reducible exact Keeps.refl _ _
    | with_reducible assumption
    | (extract_lets +onlyGivenNames -underBinder x; (with_reducible refine Keeps.cut (v := x) ?_ (fun hx => ?_)); subst x; rotate_left; clear_value x; rotate_right)
    | (extract_lets +onlyGivenNames -underBinder x; clear_value x)
    | ((with_reducible apply State.modPort_keeps); (case hm => exact rfl))
    | ((with_reducible apply State.irq_keeps); (case hm => exact rfl))
    | ((with_reducible apply State.fsyncRoot_keeps); (case hm => exact rfl))
    | ((with_reducible apply State.set_keeps); (case hm => exact rfl))
    | ((with_reducible apply State.originateLsa_keeps); (case hm => exact rfl))
    | ((with_reducible apply State.bumpWrap_keeps); (case hm => exact rfl))
    | split
    | (dsimp only)

theorem State.phyUp_keeps {n0 : Nat} {s0 : State} {s : State} {p : Nat} {amp24 : Bool} {sqi : Nat} (hK : Keeps n0 s0 s) (hm : Keeps.sub 0x1c00000840004 n0 = true) :
    Keeps n0 s0 (State.phyUp s p amp24 sqi) := by
  refine Keeps.step hK ?_ hm
  clear hK hm
  unfold State.phyUp
  repeat' first
    | with_reducible exact Keeps.refl _ _
    | with_reducible assumption
    | (extract_lets +onlyGivenNames -underBinder x; (with_reducible refine Keeps.cut (v := x) ?_ (fun hx => ?_)); subst x; rotate_left; clear_value x; rotate_right)
    | (extract_lets +onlyGivenNames -underBinder x; clear_value x)
    | ((with_reducible apply State.modPort_keeps); (case hm => exact rfl))
    | ((with_reducible apply State.setB_keeps); (case hm => exact rfl))
    | ((with_reducible apply State.setPstate_keeps); (case hm => exact rfl))
    | ((with_reducible apply State.set_keeps); (case hm => exact rfl))
    | split
    | (dsimp only)

theorem State.phyTrain_keeps {n0 : Nat} {s0 : State} {s : State} {p : Nat} (hK : Keeps n0 s0 s) (hm : Keeps.sub 0x1c00000840004 n0 = true) :
    Keeps n0 s0 (State.phyTrain s p) := by
  refine Keeps.step hK ?_ hm
  clear hK hm
  unfold State.phyTrain
  repeat' first
    | with_reducible exact Keeps.refl _ _
    | with_reducible assumption
    | ((with_reducible apply State.setPstate_keeps); (case hm => exact rfl))
    | split
    | (dsimp only)

theorem State.portDown_keeps {n0 : Nat} {s0 : State} {s : State} {p : Nat} (hK : Keeps n0 s0 s) (hm : Keeps.sub 0x1c00000840004 n0 = true) :
    Keeps n0 s0 (State.portDown s p) := by
  refine Keeps.step hK ?_ hm
  clear hK hm
  unfold State.portDown
  repeat' first
    | with_reducible exact Keeps.refl _ _
    | with_reducible assumption
    | ((with_reducible apply State.modPort_keeps); (case hm => exact rfl))
    | ((with_reducible apply State.setPstate_keeps); (case hm => exact rfl))
    | split
    | (dsimp only)

theorem State.portEnable_keeps {n0 : Nat} {s0 : State} {s : State} {p : Nat} (hK : Keeps n0 s0 s) (hm : Keeps.sub 0x1c00000840004 n0 = true) :
    Keeps n0 s0 (State.portEnable s p) := by
  refine Keeps.step hK ?_ hm
  clear hK hm
  unfold State.portEnable
  repeat' first
    | with_reducible exact Keeps.refl _ _
    | with_reducible assumption
    | (extract_lets +onlyGivenNames -underBinder x; (with_reducible refine Keeps.cut (v := x) ?_ (fun hx => ?_)); subst x; rotate_left; clear_value x; rotate_right)
    | (extract_lets +onlyGivenNames -underBinder x; clear_value x)
    | ((with_reducible apply State.setPstate_keeps); (case hm => exact rfl))
    | split
    | (dsimp only)

theorem State.helloLost_keeps {n0 : Nat} {s0 : State} {s : State} {p : Nat} (hK : Keeps n0 s0 s) (hm : Keeps.sub 0x1c00000840006 n0 = true) :
    Keeps n0 s0 (State.helloLost s p) := by
  refine Keeps.step hK ?_ hm
  clear hK hm
  unfold State.helloLost
  repeat' first
    | with_reducible exact Keeps.refl _ _
    | with_reducible assumption
    | (extract_lets +onlyGivenNames -underBinder x; (with_reducible refine Keeps.cut (v := x) ?_ (fun hx => ?_)); subst x; rotate_left; clear_value x; rotate_right)
    | (extract_lets +onlyGivenNames -underBinder x; clear_value x)
    | ((with_reducible apply State.bump_keeps); (case hm => exact rfl))
    | ((with_reducible apply State.at__keeps); (case hm => exact rfl))
    | ((with_reducible apply State.portDown_keeps); (case hm => exact rfl))
    | split
    | (dsimp only)

theorem State.takeReport_keeps {n0 : Nat} {s0 : State} {s : State} {p : Nat} {f : List Byte} (hK : Keeps n0 s0 s) (hm : Keeps.sub 0x800000000000 n0 = true) :
    Keeps n0 s0 (State.takeReport s p f) := by
  refine Keeps.step hK ?_ hm
  clear hK hm
  unfold State.takeReport
  repeat' first
    | with_reducible exact Keeps.refl _ _
    | with_reducible assumption
    | (extract_lets +onlyGivenNames -underBinder x; (with_reducible refine Keeps.cut (v := x) ?_ (fun hx => ?_)); subst x; rotate_left; clear_value x; rotate_right)
    | (extract_lets +onlyGivenNames -underBinder x; clear_value x)
    | ((with_reducible apply State.modPort_keeps); (case hm => exact rfl))
    | split
    | (dsimp only)

theorem State.discard_keeps {n0 : Nat} {s0 : State} {s : State} {p : Nat} {f : List Byte} {fcsOk : Bool} (hK : Keeps n0 s0 s) (hm : Keeps.sub 0x1c00000840004 n0 = true) :
    Keeps n0 s0 (State.discard s p f fcsOk) := by
  refine Keeps.step hK ?_ hm
  clear hK hm
  unfold State.discard
  repeat' first
    | with_reducible exact Keeps.refl _ _
    | with_reducible assumption
    | (extract_lets +onlyGivenNames -underBinder x; (with_reducible refine Keeps.cut (v := x) ?_ (fun hx => ?_)); subst x; rotate_left; clear_value x; rotate_right)
    | (extract_lets +onlyGivenNames -underBinder x; clear_value x)
    | ((with_reducible apply State.bump_keeps); (case hm => exact rfl))
    | ((with_reducible apply State.setPstate_keeps); (case hm => exact rfl))
    | split
    | (dsimp only)

theorem State.rxHello_keeps {n0 : Nat} {s0 : State} {s : State} {p : Nat} {f : List Byte} (hK : Keeps n0 s0 s) (hm : Keeps.sub 0x1c00000840004 n0 = true) :
    Keeps n0 s0 (State.rxHello s p f) := by
  refine Keeps.step hK ?_ hm
  clear hK hm
  unfold State.rxHello
  repeat' first
    | with_reducible exact Keeps.refl _ _
    | with_reducible assumption
    | (extract_lets +onlyGivenNames -underBinder x; (with_reducible refine Keeps.cut (v := x) ?_ (fun hx => ?_)); subst x; rotate_left; clear_value x; rotate_right)
    | (extract_lets +onlyGivenNames -underBinder x; clear_value x)
    | ((with_reducible apply State.modPort_keeps); (case hm => exact rfl))
    | ((with_reducible apply State.irq_keeps); (case hm => exact rfl))
    | ((with_reducible apply State.setPstate_keeps); (case hm => exact rfl))
    | ((with_reducible apply State.set_keeps); (case hm => exact rfl))
    | ((with_reducible apply State.takeReport_keeps); (case hm => exact rfl))
    | ((with_reducible apply State.setPair_keeps); (case hm => exact rfl))
    | ((with_reducible apply State.bumpWrap_keeps); (case hm => exact rfl))
    | split
    | (dsimp only)

theorem State.fabRecord_keeps {n0 : Nat} {s0 : State} {s : State} (hK : Keeps n0 s0 s) (hm : Keeps.sub 0x800004 n0 = true) :
    Keeps n0 s0 (State.fabRecord s) := by
  refine Keeps.step hK ?_ hm
  clear hK hm
  unfold State.fabRecord
  repeat' first
    | with_reducible exact Keeps.refl _ _
    | with_reducible assumption
    | (extract_lets +onlyGivenNames -underBinder x; (with_reducible refine Keeps.cut (v := x) ?_ (fun hx => ?_)); subst x; rotate_left; clear_value x; rotate_right)
    | (extract_lets +onlyGivenNames -underBinder x; clear_value x)
    | ((with_reducible apply State.irq_keeps); (case hm => exact rfl))
    | ((with_reducible apply State.engineRun_keeps); (case hm => exact rfl))
    | (with_reducible refine Keeps.ofP2 (by assumption) ?_)
    | (with_reducible refine Keeps.ofP1 (by assumption) ?_)
    | (with_reducible refine Keeps.ofP3 (by assumption) ?_)
    | split
    | (dsimp only)

theorem State.fabAddrFaces_keeps {n0 : Nat} {s0 : State} {s : State} (hK : Keeps n0 s0 s) (hm : Keeps.sub 0x4 n0 = true) :
    Keeps n0 s0 (State.fabAddrFaces s) := by
  refine Keeps.step hK ?_ hm
  clear hK hm
  unfold State.fabAddrFaces
  repeat' first
    | with_reducible exact Keeps.refl _ _
    | with_reducible assumption
    | (extract_lets +onlyGivenNames -underBinder x; (with_reducible refine Keeps.cut (v := x) ?_ (fun hx => ?_)); subst x; rotate_left; clear_value x; rotate_right)
    | (extract_lets +onlyGivenNames -underBinder x; clear_value x)
    | ((with_reducible apply State.setB_keeps); (case hm => exact rfl))
    | (dsimp only)

theorem State.setAddr_keeps {n0 : Nat} {s0 : State} {s : State} {a : Nat} (hK : Keeps n0 s0 s) (hm : Keeps.sub 0x4 n0 = true) :
    Keeps n0 s0 (State.setAddr s a) := by
  refine Keeps.step hK ?_ hm
  clear hK hm
  unfold State.setAddr
  repeat' first
    | with_reducible exact Keeps.refl _ _
    | with_reducible assumption
    | ((with_reducible apply State.irq_keeps); (case hm => exact rfl))
    | ((with_reducible apply State.set_keeps); (case hm => exact rfl))
    | ((with_reducible apply State.fabAddrFaces_keeps); (case hm => exact rfl))
    | split
    | (dsimp only)

theorem State.takeGrant_keeps {n0 : Nat} {s0 : State} {s : State} {a : Nat} {gseq : Nat} {root : Nat} (hK : Keeps n0 s0 s) (hm : Keeps.sub 0x1c00000840004 n0 = true) :
    Keeps n0 s0 (State.takeGrant s a gseq root) := by
  refine Keeps.step hK ?_ hm
  clear hK hm
  unfold State.takeGrant
  repeat' first
    | with_reducible exact Keeps.refl _ _
    | with_reducible assumption
    | (extract_lets +onlyGivenNames -underBinder x; (with_reducible refine Keeps.cut (v := x) ?_ (fun hx => ?_)); subst x; rotate_left; clear_value x; rotate_right)
    | (extract_lets +onlyGivenNames -underBinder x; clear_value x)
    | ((with_reducible apply State.updFab_keeps); (case hm => exact rfl))
    | ((with_reducible apply State.setAddr_keeps); (case hm => exact rfl))
    | ((with_reducible apply State.originateLsa_keeps); (case hm => exact rfl))
    | ((with_reducible apply State.fabRecord_keeps); (case hm => exact rfl))
    | (dsimp only)

theorem State.noteClaims_keeps {n0 : Nat} {s0 : State} {s : State} (hK : Keeps n0 s0 s) (hm : Keeps.sub 0x800000000000 n0 = true) :
    Keeps n0 s0 (State.noteClaims s) := by
  refine Keeps.step hK ?_ hm
  clear hK hm
  unfold State.noteClaims
  repeat' first
    | with_reducible exact Keeps.refl _ _
    | with_reducible assumption
    | ((with_reducible apply State.updFab_keeps); (case hm => exact rfl))
    | (with_reducible refine Keeps.fold _ _ ?_ (fun u b hu => ?_))
    | split
    | (dsimp only)

theorem State.grantTo_keeps {n0 : Nat} {s0 : State} {s : State} {l : Lsa} (hK : Keeps n0 s0 s) (hm : Keeps.sub 0x1c00000840004 n0 = true) :
    Keeps n0 s0 (State.grantTo s l) := by
  refine Keeps.step hK ?_ hm
  clear hK hm
  unfold State.grantTo
  repeat' first
    | with_reducible exact Keeps.refl _ _
    | with_reducible assumption
    | (extract_lets +onlyGivenNames -underBinder x; (with_reducible refine Keeps.cut (v := x) ?_ (fun hx => ?_)); subst x; rotate_left; clear_value x; rotate_right)
    | (extract_lets +onlyGivenNames -underBinder x; clear_value x)
    | ((with_reducible apply State.setB_keeps); (case hm => exact rfl))
    | ((with_reducible apply State.irq_keeps); (case hm => exact rfl))
    | ((with_reducible apply State.updFab_keeps); (case hm => exact rfl))
    | ((with_reducible apply State.floodAll_keeps); (case hm => exact rfl))
    | ((with_reducible apply State.takeGrant_keeps); (case hm => exact rfl))
    | (with_reducible refine Keeps.ofP2 (by assumption) ?_)
    | (with_reducible refine Keeps.ofP1 (by assumption) ?_)
    | (with_reducible refine Keeps.ofP3 (by assumption) ?_)
    | split
    | (dsimp only)

theorem State.addrConflict_keeps {n0 : Nat} {s0 : State} {s : State} (hK : Keeps n0 s0 s) (hm : Keeps.sub 0x1c00000840004 n0 = true) :
    Keeps n0 s0 (State.addrConflict s) := by
  refine Keeps.step hK ?_ hm
  clear hK hm
  unfold State.addrConflict
  repeat' first
    | with_reducible exact Keeps.refl _ _
    | with_reducible assumption
    | (extract_lets +onlyGivenNames -underBinder x; (with_reducible refine Keeps.cut (v := x) ?_ (fun hx => ?_)); subst x; rotate_left; clear_value x; rotate_right)
    | (extract_lets +onlyGivenNames -underBinder x; clear_value x)
    | ((with_reducible apply State.irq_keeps); (case hm => exact rfl))
    | ((with_reducible apply State.updFab_keeps); (case hm => exact rfl))
    | ((with_reducible apply State.setAddr_keeps); (case hm => exact rfl))
    | ((with_reducible apply State.originateLsa_keeps); (case hm => exact rfl))
    | split
    | (dsimp only)

theorem State.addrGrants_keeps {n0 : Nat} {s0 : State} {s : State} (hK : Keeps n0 s0 s) (hm : Keeps.sub 0x1c00000840004 n0 = true) :
    Keeps n0 s0 (State.addrGrants s) := by
  refine Keeps.step hK ?_ hm
  clear hK hm
  unfold State.addrGrants
  repeat' first
    | with_reducible exact Keeps.refl _ _
    | with_reducible assumption
    | ((with_reducible apply State.grantTo_keeps); (case hm => exact rfl))
    | (with_reducible refine Keeps.fold _ _ ?_ (fun u b hu => ?_))
    | (with_reducible refine Keeps.ofP2 (by assumption) ?_)
    | (with_reducible refine Keeps.ofP1 (by assumption) ?_)
    | (with_reducible refine Keeps.ofP3 (by assumption) ?_)
    | split
    | (dsimp only)

theorem State.addrRequest_keeps {n0 : Nat} {s0 : State} {s : State} {w : Word} (hK : Keeps n0 s0 s) (hm : Keeps.sub 0x1c00000840004 n0 = true) :
    Keeps n0 s0 (State.addrRequest s w) := by
  refine Keeps.step hK ?_ hm
  clear hK hm
  unfold State.addrRequest
  repeat' first
    | with_reducible exact Keeps.refl _ _
    | with_reducible assumption
    | (extract_lets +onlyGivenNames -underBinder x; (with_reducible refine Keeps.cut (v := x) ?_ (fun hx => ?_)); subst x; rotate_left; clear_value x; rotate_right)
    | (extract_lets +onlyGivenNames -underBinder x; clear_value x)
    | ((with_reducible apply State.blkErr_keeps); (case hm => exact rfl))
    | ((with_reducible apply State.updFab_keeps); (case hm => exact rfl))
    | ((with_reducible apply State.setAddr_keeps); (case hm => exact rfl))
    | ((with_reducible apply State.originateLsa_keeps); (case hm => exact rfl))
    | ((with_reducible apply State.addrGrants_keeps); (case hm => exact rfl))
    | split
    | (dsimp only)

theorem State.fabStart_keeps {n0 : Nat} {s0 : State} {s : State} (hK : Keeps n0 s0 s) (hm : Keeps.sub 0x1c00000840004 n0 = true) :
    Keeps n0 s0 (State.fabStart s) := by
  refine Keeps.step hK ?_ hm
  clear hK hm
  unfold State.fabStart
  repeat' first
    | with_reducible exact Keeps.refl _ _
    | with_reducible assumption
    | (extract_lets +onlyGivenNames -underBinder x; (with_reducible refine Keeps.cut (v := x) ?_ (fun hx => ?_)); subst x; rotate_left; clear_value x; rotate_right)
    | (extract_lets +onlyGivenNames -underBinder x; clear_value x)
    | ((with_reducible apply State.updFab_keeps); (case hm => exact rfl))
    | ((with_reducible apply State.set_keeps); (case hm => exact rfl))
    | ((with_reducible apply State.fabAddrFaces_keeps); (case hm => exact rfl))
    | ((with_reducible apply State.originateLsa_keeps); (case hm => exact rfl))
    | ((with_reducible apply State.setPair_keeps); (case hm => exact rfl))
    | split
    | (dsimp only)

theorem State.ackTo_keeps {n0 : Nat} {s0 : State} {s : State} {p : Nat} {uid : Nat} {seq : Nat} (hK : Keeps n0 s0 s) (hm : Keeps.sub 0x1c00000840004 n0 = true) :
    Keeps n0 s0 (State.ackTo s p uid seq) := by
  refine Keeps.step hK ?_ hm
  clear hK hm
  unfold State.ackTo
  repeat' first
    | with_reducible exact Keeps.refl _ _
    | with_reducible assumption
    | ((with_reducible apply State.linkSend_keeps); (case hm => exact rfl))
    | (dsimp only)

theorem State.rxLsa_keeps {n0 : Nat} {s0 : State} {s : State} {p : Nat} {f : List Byte} (hK : Keeps n0 s0 s) (hm : Keeps.sub 0x1c00000840004 n0 = true) :
    Keeps n0 s0 (State.rxLsa s p f) := by
  refine Keeps.step hK ?_ hm
  clear hK hm
  unfold State.rxLsa
  repeat' first
    | with_reducible exact Keeps.refl _ _
    | with_reducible assumption
    | (extract_lets +onlyGivenNames -underBinder x; (with_reducible refine Keeps.cut (v := x) ?_ (fun hx => ?_)); subst x; rotate_left; clear_value x; rotate_right)
    | (extract_lets +onlyGivenNames -underBinder x; clear_value x)
    | ((with_reducible apply State.setB_keeps); (case hm => exact rfl))
    | ((with_reducible apply State.ackTo_keeps); (case hm => exact rfl))
    | ((with_reducible apply State.irq_keeps); (case hm => exact rfl))
    | ((with_reducible apply State.noteClaims_keeps); (case hm => exact rfl))
    | ((with_reducible apply State.dbPut_keeps); (case hm => exact rfl))
    | ((with_reducible apply State.addrConflict_keeps); (case hm => exact rfl))
    | ((with_reducible apply State.updFab_keeps); (case hm => exact rfl))
    | ((with_reducible apply State.dbChanged_keeps); (case hm => exact rfl))
    | ((with_reducible apply State.discard_keeps); (case hm => exact rfl))
    | ((with_reducible apply State.originateLsa_keeps); (case hm => exact rfl))
    | ((with_reducible apply State.addrGrants_keeps); (case hm => exact rfl))
    | ((with_reducible apply State.floodAll_keeps); (case hm => exact rfl))
    | ((with_reducible apply State.takeReport_keeps); (case hm => exact rfl))
    | ((with_reducible apply State.bumpWrap_keeps); (case hm => exact rfl))
    | (with_reducible refine Keeps.ofP2 (by assumption) ?_)
    | (with_reducible refine Keeps.ofP1 (by assumption) ?_)
    | (with_reducible refine Keeps.ofP3 (by assumption) ?_)
    | split
    | (dsimp only)

theorem State.rxAck_keeps {n0 : Nat} {s0 : State} {s : State} {p : Nat} {f : List Byte} (hK : Keeps n0 s0 s) (hm : Keeps.sub 0x800000000004 n0 = true) :
    Keeps n0 s0 (State.rxAck s p f) := by
  refine Keeps.step hK ?_ hm
  clear hK hm
  unfold State.rxAck
  repeat' first
    | with_reducible exact Keeps.refl _ _
    | with_reducible assumption
    | (extract_lets +onlyGivenNames -underBinder x; (with_reducible refine Keeps.cut (v := x) ?_ (fun hx => ?_)); subst x; rotate_left; clear_value x; rotate_right)
    | (extract_lets +onlyGivenNames -underBinder x; clear_value x)
    | ((with_reducible apply State.modPort_keeps); (case hm => exact rfl))
    | ((with_reducible apply State.takeReport_keeps); (case hm => exact rfl))
    | ((with_reducible apply State.bumpWrap_keeps); (case hm => exact rfl))
    | split
    | (dsimp only)

theorem State.retransmit_keeps {n0 : Nat} {s0 : State} {s : State} {p : Nat} (hK : Keeps n0 s0 s) (hm : Keeps.sub 0x1c00000840006 n0 = true) :
    Keeps n0 s0 (State.retransmit s p) := by
  refine Keeps.step hK ?_ hm
  clear hK hm
  unfold State.retransmit
  repeat' first
    | with_reducible exact Keeps.refl _ _
    | with_reducible assumption
    | (extract_lets +onlyGivenNames -underBinder x; (with_reducible refine Keeps.cut (v := x) ?_ (fun hx => ?_)); subst x; rotate_left; clear_value x; rotate_right)
    | (extract_lets +onlyGivenNames -underBinder x; clear_value x)
    | ((with_reducible apply State.modPort_keeps); (case hm => exact rfl))
    | ((with_reducible apply State.at__keeps); (case hm => exact rfl))
    | ((with_reducible apply State.linkSend_keeps); (case hm => exact rfl))
    | (with_reducible refine Keeps.fold _ _ ?_ (fun u b hu => ?_))
    | (with_reducible refine Keeps.ofP2 (by assumption) ?_)
    | (with_reducible refine Keeps.ofP1 (by assumption) ?_)
    | (with_reducible refine Keeps.ofP3 (by assumption) ?_)
    | split
    | (dsimp only)

theorem State.lsaRefresh_keeps {n0 : Nat} {s0 : State} {s : State} (hK : Keeps n0 s0 s) (hm : Keeps.sub 0x1c00000840006 n0 = true) :
    Keeps n0 s0 (State.lsaRefresh s) := by
  refine Keeps.step hK ?_ hm
  clear hK hm
  unfold State.lsaRefresh
  repeat' first
    | with_reducible exact Keeps.refl _ _
    | with_reducible assumption
    | ((with_reducible apply State.at__keeps); (case hm => exact rfl))
    | ((with_reducible apply State.originateLsa_keeps); (case hm => exact rfl))
    | (dsimp only)

theorem State.lsaExpire_keeps {n0 : Nat} {s0 : State} {s : State} {uid : Nat} (hK : Keeps n0 s0 s) (hm : Keeps.sub 0x800000000006 n0 = true) :
    Keeps n0 s0 (State.lsaExpire s uid) := by
  refine Keeps.step hK ?_ hm
  clear hK hm
  unfold State.lsaExpire
  repeat' first
    | with_reducible exact Keeps.refl _ _
    | with_reducible assumption
    | (extract_lets +onlyGivenNames -underBinder x; (with_reducible refine Keeps.cut (v := x) ?_ (fun hx => ?_)); subst x; rotate_left; clear_value x; rotate_right)
    | (extract_lets +onlyGivenNames -underBinder x; clear_value x)
    | ((with_reducible apply State.at__keeps); (case hm => exact rfl))
    | ((with_reducible apply State.updFab_keeps); (case hm => exact rfl))
    | ((with_reducible apply State.dbChanged_keeps); (case hm => exact rfl))
    | (with_reducible refine Keeps.ofP2 (by assumption) ?_)
    | (with_reducible refine Keeps.ofP1 (by assumption) ?_)
    | (with_reducible refine Keeps.ofP3 (by assumption) ?_)
    | split
    | (dsimp only)

theorem State.rxGrant_keeps {n0 : Nat} {s0 : State} {s : State} {p : Nat} {f : List Byte} (hK : Keeps n0 s0 s) (hm : Keeps.sub 0x1c00000840004 n0 = true) :
    Keeps n0 s0 (State.rxGrant s p f) := by
  refine Keeps.step hK ?_ hm
  clear hK hm
  unfold State.rxGrant
  repeat' first
    | with_reducible exact Keeps.refl _ _
    | with_reducible assumption
    | (extract_lets +onlyGivenNames -underBinder x; (with_reducible refine Keeps.cut (v := x) ?_ (fun hx => ?_)); subst x; rotate_left; clear_value x; rotate_right)
    | (extract_lets +onlyGivenNames -underBinder x; clear_value x)
    | ((with_reducible apply State.ackTo_keeps); (case hm => exact rfl))
    | ((with_reducible apply State.updFab_keeps); (case hm => exact rfl))
    | ((with_reducible apply State.floodAll_keeps); (case hm => exact rfl))
    | ((with_reducible apply State.takeReport_keeps); (case hm => exact rfl))
    | ((with_reducible apply State.takeGrant_keeps); (case hm => exact rfl))
    | ((with_reducible apply State.bumpWrap_keeps); (case hm => exact rfl))
    | split
    | (dsimp only)

theorem State.reconvWait_keeps {n0 : Nat} {s0 : State} {s : State} (hK : Keeps n0 s0 s) (hm : Keeps.sub 0x800000000002 n0 = true) :
    Keeps n0 s0 (State.reconvWait s) := by
  refine Keeps.step hK ?_ hm
  clear hK hm
  unfold State.reconvWait
  repeat' first
    | with_reducible exact Keeps.refl _ _
    | with_reducible assumption
    | (extract_lets +onlyGivenNames -underBinder x; (with_reducible refine Keeps.cut (v := x) ?_ (fun hx => ?_)); subst x; rotate_left; clear_value x; rotate_right)
    | (extract_lets +onlyGivenNames -underBinder x; clear_value x)
    | ((with_reducible apply State.at__keeps); (case hm => exact rfl))
    | ((with_reducible apply State.updFab_keeps); (case hm => exact rfl))
    | (with_reducible refine Keeps.ofP2 (by assumption) ?_)
    | (with_reducible refine Keeps.ofP1 (by assumption) ?_)
    | (with_reducible refine Keeps.ofP3 (by assumption) ?_)
    | split
    | (dsimp only)

theorem State.routeView_keeps {n0 : Nat} {s0 : State} {s : State} {a : Nat} (hK : Keeps n0 s0 s) (hm : Keeps.sub 0x4 n0 = true) :
    Keeps n0 s0 (State.routeView s a) := by
  refine Keeps.step hK ?_ hm
  clear hK hm
  unfold State.routeView
  repeat' first
    | with_reducible exact Keeps.refl _ _
    | with_reducible assumption
    | (extract_lets +onlyGivenNames -underBinder x; (with_reducible refine Keeps.cut (v := x) ?_ (fun hx => ?_)); subst x; rotate_left; clear_value x; rotate_right)
    | (extract_lets +onlyGivenNames -underBinder x; clear_value x)
    | ((with_reducible apply State.setB_keeps); (case hm => exact rfl))
    | ((with_reducible apply State.setWord_keeps); (case hm => exact rfl))
    | ((with_reducible apply State.set_keeps); (case hm => exact rfl))
    | (with_reducible refine Keeps.fold _ _ ?_ (fun u b hu => ?_))
    | (with_reducible refine Keeps.ofP2 (by assumption) ?_)
    | (with_reducible refine Keeps.ofP1 (by assumption) ?_)
    | (with_reducible refine Keeps.ofP3 (by assumption) ?_)
    | split
    | (dsimp only)

theorem State.replaceTable_keeps {n0 : Nat} {s0 : State} {s : State} (hK : Keeps n0 s0 s) (hm : Keeps.sub 0x1c00000840004 n0 = true) :
    Keeps n0 s0 (State.replaceTable s) := by
  refine Keeps.step hK ?_ hm
  clear hK hm
  unfold State.replaceTable
  repeat' first
    | with_reducible exact Keeps.refl _ _
    | with_reducible assumption
    | (extract_lets +onlyGivenNames -underBinder x; (with_reducible refine Keeps.cut (v := x) ?_ (fun hx => ?_)); subst x; rotate_left; clear_value x; rotate_right)
    | (extract_lets +onlyGivenNames -underBinder x; clear_value x)
    | ((with_reducible apply State.setB_keeps); (case hm => exact rfl))
    | ((with_reducible apply State.irq_keeps); (case hm => exact rfl))
    | ((with_reducible apply State.fsyncRoot_keeps); (case hm => exact rfl))
    | ((with_reducible apply State.addrConflict_keeps); (case hm => exact rfl))
    | ((with_reducible apply State.setWord_keeps); (case hm => exact rfl))
    | ((with_reducible apply State.updFab_keeps); (case hm => exact rfl))
    | ((with_reducible apply State.set_keeps); (case hm => exact rfl))
    | ((with_reducible apply State.addrGrants_keeps); (case hm => exact rfl))
    | ((with_reducible apply State.setPair_keeps); (case hm => exact rfl))
    | ((with_reducible apply State.bumpWrap_keeps); (case hm => exact rfl))
    | (with_reducible refine Keeps.ofP2 (by assumption) ?_)
    | (with_reducible refine Keeps.ofP1 (by assumption) ?_)
    | (with_reducible refine Keeps.ofP3 (by assumption) ?_)
    | split
    | (dsimp only)

theorem State.pdelayReq_keeps {n0 : Nat} {s0 : State} {s : State} {p : Nat} (hK : Keeps n0 s0 s) (hm : Keeps.sub 0x1c00000840004 n0 = true) :
    Keeps n0 s0 (State.pdelayReq s p) := by
  refine Keeps.step hK ?_ hm
  clear hK hm
  unfold State.pdelayReq
  repeat' first
    | with_reducible exact Keeps.refl _ _
    | with_reducible assumption
    | (extract_lets +onlyGivenNames -underBinder x; (with_reducible refine Keeps.cut (v := x) ?_ (fun hx => ?_)); subst x; rotate_left; clear_value x; rotate_right)
    | (extract_lets +onlyGivenNames -underBinder x; clear_value x)
    | ((with_reducible apply State.modPort_keeps); (case hm => exact rfl))
    | ((with_reducible apply State.originate_keeps); (case hm => exact rfl))
    | split
    | (dsimp only)

theorem State.rxPdelayReq_keeps {n0 : Nat} {s0 : State} {s : State} {p : Nat} {f : List Byte} (hK : Keeps n0 s0 s) (hm : Keeps.sub 0x3c00000840004 n0 = true) :
    Keeps n0 s0 (State.rxPdelayReq s p f) := by
  refine Keeps.step hK ?_ hm
  clear hK hm
  unfold State.rxPdelayReq
  repeat' first
    | with_reducible exact Keeps.refl _ _
    | with_reducible assumption
    | (extract_lets +onlyGivenNames -underBinder x; (with_reducible refine Keeps.cut (v := x) ?_ (fun hx => ?_)); subst x; rotate_left; clear_value x; rotate_right)
    | (extract_lets +onlyGivenNames -underBinder x; clear_value x)
    | ((with_reducible apply State.stampNs_keeps); (case hm => exact rfl))
    | ((with_reducible apply State.originate_keeps); (case hm => exact rfl))
    | ((with_reducible apply State.bumpWrap_keeps); (case hm => exact rfl))
    | (with_reducible refine Keeps.ofP2 (by assumption) ?_)
    | (with_reducible refine Keeps.ofP1 (by assumption) ?_)
    | (with_reducible refine Keeps.ofP3 (by assumption) ?_)
    | split
    | (dsimp only)

theorem State.rxPdelayResp_keeps {n0 : Nat} {s0 : State} {s : State} {p : Nat} {f : List Byte} (hK : Keeps n0 s0 s) (hm : Keeps.sub 0x2800000000004 n0 = true) :
    Keeps n0 s0 (State.rxPdelayResp s p f) := by
  refine Keeps.step hK ?_ hm
  clear hK hm
  unfold State.rxPdelayResp
  repeat' first
    | with_reducible exact Keeps.refl _ _
    | with_reducible assumption
    | (extract_lets +onlyGivenNames -underBinder x; (with_reducible refine Keeps.cut (v := x) ?_ (fun hx => ?_)); subst x; rotate_left; clear_value x; rotate_right)
    | (extract_lets +onlyGivenNames -underBinder x; clear_value x)
    | ((with_reducible apply State.modPort_keeps); (case hm => exact rfl))
    | ((with_reducible apply State.stampNs_keeps); (case hm => exact rfl))
    | ((with_reducible apply State.set_keeps); (case hm => exact rfl))
    | ((with_reducible apply State.bumpWrap_keeps); (case hm => exact rfl))
    | (with_reducible refine Keeps.ofP2 (by assumption) ?_)
    | (with_reducible refine Keeps.ofP1 (by assumption) ?_)
    | (with_reducible refine Keeps.ofP3 (by assumption) ?_)
    | split
    | (dsimp only)

theorem State.syncSend_keeps {n0 : Nat} {s0 : State} {s : State} (hK : Keeps n0 s0 s) (hm : Keeps.sub 0x1c00000840006 n0 = true) :
    Keeps n0 s0 (State.syncSend s) := by
  refine Keeps.step hK ?_ hm
  clear hK hm
  unfold State.syncSend
  repeat' first
    | with_reducible exact Keeps.refl _ _
    | with_reducible assumption
    | (extract_lets +onlyGivenNames -underBinder x; (with_reducible refine Keeps.cut (v := x) ?_ (fun hx => ?_)); subst x; rotate_left; clear_value x; rotate_right)
    | (extract_lets +onlyGivenNames -underBinder x; clear_value x)
    | ((with_reducible apply State.at__keeps); (case hm => exact rfl))
    | ((with_reducible apply State.linkSend_keeps); (case hm => exact rfl))
    | (with_reducible refine Keeps.fold _ _ ?_ (fun u b hu => ?_))
    | split
    | (dsimp only)

theorem State.syncForward_keeps {n0 : Nat} {s0 : State} {s : State} {b : List Byte} {delay : Nat} {t : Nat} (hK : Keeps n0 s0 s) (hm : Keeps.sub 0x1c00000840004 n0 = true) :
    Keeps n0 s0 (State.syncForward s b delay t) := by
  refine Keeps.step hK ?_ hm
  clear hK hm
  unfold State.syncForward
  repeat' first
    | with_reducible exact Keeps.refl _ _
    | with_reducible assumption
    | (extract_lets +onlyGivenNames -underBinder x; (with_reducible refine Keeps.cut (v := x) ?_ (fun hx => ?_)); subst x; rotate_left; clear_value x; rotate_right)
    | (extract_lets +onlyGivenNames -underBinder x; clear_value x)
    | ((with_reducible apply State.modPort_keeps); (case hm => exact rfl))
    | ((with_reducible apply State.linkSend_keeps); (case hm => exact rfl))
    | (with_reducible refine Keeps.fold _ _ ?_ (fun u b hu => ?_))
    | (with_reducible refine Keeps.ofP2 (by assumption) ?_)
    | (with_reducible refine Keeps.ofP1 (by assumption) ?_)
    | (with_reducible refine Keeps.ofP3 (by assumption) ?_)
    | split
    | (dsimp only)

theorem State.syncLock_keeps {n0 : Nat} {s0 : State} {s : State} {p : Nat} {ofs : Int} (hK : Keeps n0 s0 s) (hm : Keeps.sub 0x1800000000086 n0 = true) :
    Keeps n0 s0 (State.syncLock s p ofs) := by
  refine Keeps.step hK ?_ hm
  clear hK hm
  unfold State.syncLock
  repeat' first
    | with_reducible exact Keeps.refl _ _
    | with_reducible assumption
    | (extract_lets +onlyGivenNames -underBinder x; (with_reducible refine Keeps.cut (v := x) ?_ (fun hx => ?_)); subst x; rotate_left; clear_value x; rotate_right)
    | (extract_lets +onlyGivenNames -underBinder x; clear_value x)
    | ((with_reducible apply State.updFab_keeps); (case hm => exact rfl))
    | ((with_reducible apply State.setFsync_keeps); (case hm => exact rfl))
    | ((with_reducible apply State.stepTimebase_keeps); (case hm => exact rfl))
    | split
    | (dsimp only)

theorem State.syncCal_keeps {n0 : Nat} {s0 : State} {s : State} {b : List Byte} (hK : Keeps n0 s0 s) (hm : Keeps.sub 0x1000004 n0 = true) :
    Keeps n0 s0 (State.syncCal s b) := by
  refine Keeps.step hK ?_ hm
  clear hK hm
  unfold State.syncCal
  repeat' first
    | with_reducible exact Keeps.refl _ _
    | with_reducible assumption
    | (extract_lets +onlyGivenNames -underBinder x; (with_reducible refine Keeps.cut (v := x) ?_ (fun hx => ?_)); subst x; rotate_left; clear_value x; rotate_right)
    | (extract_lets +onlyGivenNames -underBinder x; clear_value x)
    | ((with_reducible apply State.setB_keeps); (case hm => exact rfl))
    | ((with_reducible apply State.irq_keeps); (case hm => exact rfl))
    | split
    | (with_reducible refine Keeps.leaf ?_ (h_eng := Keeps.chg (by decide)))
    | (dsimp only)

theorem State.rxSync_keeps {n0 : Nat} {s0 : State} {s : State} {p : Nat} {f : List Byte} (hK : Keeps n0 s0 s) (hm : Keeps.sub 0x3c00001840086 n0 = true) :
    Keeps n0 s0 (State.rxSync s p f) := by
  refine Keeps.step hK ?_ hm
  clear hK hm
  unfold State.rxSync
  repeat' first
    | with_reducible exact Keeps.refl _ _
    | with_reducible assumption
    | (extract_lets +onlyGivenNames -underBinder x; (with_reducible refine Keeps.cut (v := x) ?_ (fun hx => ?_)); subst x; rotate_left; clear_value x; rotate_right)
    | (extract_lets +onlyGivenNames -underBinder x; clear_value x)
    | ((with_reducible apply State.stampNs_keeps); (case hm => exact rfl))
    | ((with_reducible apply State.seti_keeps); (case hm => exact rfl))
    | ((with_reducible apply State.updFab_keeps); (case hm => exact rfl))
    | ((with_reducible apply State.syncLock_keeps); (case hm => exact rfl))
    | ((with_reducible apply State.syncForward_keeps); (case hm => exact rfl))
    | ((with_reducible apply State.takeReport_keeps); (case hm => exact rfl))
    | ((with_reducible apply State.syncCal_keeps); (case hm => exact rfl))
    | ((with_reducible apply State.bumpWrap_keeps); (case hm => exact rfl))
    | (with_reducible refine Keeps.ofP2 (by assumption) ?_)
    | (with_reducible refine Keeps.ofP1 (by assumption) ?_)
    | (with_reducible refine Keeps.ofP3 (by assumption) ?_)
    | split
    | (dsimp only)

theorem State.syncLost_keeps {n0 : Nat} {s0 : State} {s : State} (hK : Keeps n0 s0 s) (hm : Keeps.sub 0x1800000000006 n0 = true) :
    Keeps n0 s0 (State.syncLost s) := by
  refine Keeps.step hK ?_ hm
  clear hK hm
  unfold State.syncLost
  repeat' first
    | with_reducible exact Keeps.refl _ _
    | with_reducible assumption
    | (extract_lets +onlyGivenNames -underBinder x; (with_reducible refine Keeps.cut (v := x) ?_ (fun hx => ?_)); subst x; rotate_left; clear_value x; rotate_right)
    | (extract_lets +onlyGivenNames -underBinder x; clear_value x)
    | ((with_reducible apply State.at__keeps); (case hm => exact rfl))
    | ((with_reducible apply State.updFab_keeps); (case hm => exact rfl))
    | ((with_reducible apply State.setFsync_keeps); (case hm => exact rfl))
    | (with_reducible refine Keeps.ofP2 (by assumption) ?_)
    | (with_reducible refine Keeps.ofP1 (by assumption) ?_)
    | (with_reducible refine Keeps.ofP3 (by assumption) ?_)
    | split
    | (dsimp only)

theorem State.cycleStart_keeps {n0 : Nat} {s0 : State} {s : State} (hK : Keeps n0 s0 s) (hm : Keeps.sub 0x1c00000840006 n0 = true) :
    Keeps n0 s0 (State.cycleStart s) := by
  refine Keeps.step hK ?_ hm
  clear hK hm
  unfold State.cycleStart
  repeat' first
    | with_reducible exact Keeps.refl _ _
    | with_reducible assumption
    | (extract_lets +onlyGivenNames -underBinder x; (with_reducible refine Keeps.cut (v := x) ?_ (fun hx => ?_)); subst x; rotate_left; clear_value x; rotate_right)
    | (extract_lets +onlyGivenNames -underBinder x; clear_value x)
    | ((with_reducible apply State.modPort_keeps); (case hm => exact rfl))
    | ((with_reducible apply State.sendHello_keeps); (case hm => exact rfl))
    | ((with_reducible apply State.at__keeps); (case hm => exact rfl))
    | (with_reducible refine Keeps.fold _ _ ?_ (fun u b hu => ?_))
    | split
    | (dsimp only)

theorem State.noteLoad_keeps {n0 : Nat} {s0 : State} {s : State} {p : Nat} {isB : Bool} {w : Nat} (hK : Keeps n0 s0 s) (hm : Keeps.sub 0x800000000004 n0 = true) :
    Keeps n0 s0 (State.noteLoad s p isB w) := by
  refine Keeps.step hK ?_ hm
  clear hK hm
  unfold State.noteLoad
  repeat' first
    | with_reducible exact Keeps.refl _ _
    | with_reducible assumption
    | (extract_lets +onlyGivenNames -underBinder x; (with_reducible refine Keeps.cut (v := x) ?_ (fun hx => ?_)); subst x; rotate_left; clear_value x; rotate_right)
    | (extract_lets +onlyGivenNames -underBinder x; (have hfn : (_ → _) := x; clear hfn); subst x; dsimp only)
    | (extract_lets +onlyGivenNames -underBinder x; clear_value x)
    | ((with_reducible apply State.modPort_keeps); (case hm => exact rfl))
    | ((with_reducible apply State.irq_keeps); (case hm => exact rfl))
    | ((with_reducible apply State.set_keeps); (case hm => exact rfl))
    | (with_reducible refine Keeps.fold _ _ ?_ (fun u b hu => ?_))
    | split
    | (dsimp only)

theorem State.beginFrame_keeps {n0 : Nat} {s0 : State} {s : State} {p : Nat} {x : OutFrame} (hK : Keeps n0 s0 s) (hm : Keeps.sub 0x2800000000004 n0 = true) :
    Keeps n0 s0 (State.beginFrame s p x) := by
  refine Keeps.step hK ?_ hm
  clear hK hm
  unfold State.beginFrame
  repeat' first
    | with_reducible exact Keeps.refl _ _
    | with_reducible assumption
    | (extract_lets +onlyGivenNames -underBinder x; (with_reducible refine Keeps.cut (v := x) ?_ (fun hx => ?_)); subst x; rotate_left; clear_value x; rotate_right)
    | (extract_lets +onlyGivenNames -underBinder x; clear_value x)
    | ((with_reducible apply State.modPort_keeps); (case hm => exact rfl))
    | ((with_reducible apply State.stampNs_keeps); (case hm => exact rfl))
    | ((with_reducible apply State.noteLoad_keeps); (case hm => exact rfl))
    | ((with_reducible apply State.bumpWrap_keeps); (case hm => exact rfl))
    | (with_reducible refine Keeps.ofP2 (by assumption) ?_)
    | (with_reducible refine Keeps.ofP1 (by assumption) ?_)
    | (with_reducible refine Keeps.ofP3 (by assumption) ?_)
    | split
    | (dsimp only)

theorem State.frameStart_keeps {n0 : Nat} {s0 : State} {s : State} {p : Nat} (hK : Keeps n0 s0 s) (hm : Keeps.sub 0x2800000000006 n0 = true) :
    Keeps n0 s0 (State.frameStart s p) := by
  refine Keeps.step hK ?_ hm
  clear hK hm
  unfold State.frameStart
  repeat' first
    | with_reducible exact Keeps.refl _ _
    | with_reducible assumption
    | (extract_lets +onlyGivenNames -underBinder x; (with_reducible refine Keeps.cut (v := x) ?_ (fun hx => ?_)); subst x; rotate_left; clear_value x; rotate_right)
    | (extract_lets +onlyGivenNames -underBinder x; clear_value x)
    | ((with_reducible apply State.setPort_keeps); (case hm => exact rfl))
    | ((with_reducible apply State.at__keeps); (case hm => exact rfl))
    | ((with_reducible apply State.beginFrame_keeps); (case hm => exact rfl))
    | (with_reducible refine Keeps.ofP2 (by assumption) ?_)
    | (with_reducible refine Keeps.ofP1 (by assumption) ?_)
    | (with_reducible refine Keeps.ofP3 (by assumption) ?_)
    | split
    | (dsimp only)

end Sys2Proof.Machine
end

