-- ==== Sys2Proof/Laws/KeepsNstore.lean ====
section
/-! SUPPORT. What each operation of Machine/Nstore.lean may touch (Laws/Keeps.lean): the mask lists the fields it may change,
and the invariant of the block is kept. -/
set_option Elab.async false
set_option linter.all false
namespace Sys2Proof.Machine

theorem State.setSlot_keeps {n0 : Nat} {s0 : State} {s : State} {i : Nat} {x : Slot} (hK : Keeps n0 s0 s) (hm : Keeps.sub 0x100004 n0 = true) :
    Keeps n0 s0 (State.setSlot s i x) := by
  refine Keeps.step hK ?_ hm
  clear hK hm
  unfold State.setSlot
  repeat' first
    | with_reducible exact Keeps.refl _ _
    | with_reducible assumption
    | (extract_lets +onlyGivenNames -underBinder x; (with_reducible refine Keeps.cut (v := x) ?_ (fun hx => ?_)); subst x; rotate_left; clear_value x; rotate_right)
    | (extract_lets +onlyGivenNames -underBinder x; clear_value x)
    | ((with_reducible apply State.setB_keeps); (case hm => exact rfl))
    | ((with_reducible apply State.set_keeps); (case hm => exact rfl))
    | split
    | (with_reducible refine Keeps.leaf ?_ (h_nst := Keeps.chg (by decide)))
    | (dsimp only)

theorem State.setActive_keeps {n0 : Nat} {s0 : State} {s : State} {i : Nat} (hK : Keeps n0 s0 s) (hm : Keeps.sub 0x4 n0 = true) :
    Keeps n0 s0 (State.setActive s i) := by
  refine Keeps.step hK ?_ hm
  clear hK hm
  unfold State.setActive
  repeat' first
    | with_reducible exact Keeps.refl _ _
    | with_reducible assumption
    | (extract_lets +onlyGivenNames -underBinder x; (with_reducible refine Keeps.cut (v := x) ?_ (fun hx => ?_)); subst x; rotate_left; clear_value x; rotate_right)
    | (extract_lets +onlyGivenNames -underBinder x; clear_value x)
    | ((with_reducible apply State.setB_keeps); (case hm => exact rfl))
    | ((with_reducible apply State.set_keeps); (case hm => exact rfl))
    | (dsimp only)

theorem State.imageOpen_keeps {n0 : Nat} {s0 : State} {s : State} (hK : Keeps n0 s0 s) (hm : Keeps.sub 0x100004 n0 = true) :
    Keeps n0 s0 (State.imageOpen s) := by
  refine Keeps.step hK ?_ hm
  clear hK hm
  unfold State.imageOpen
  repeat' first
    | with_reducible exact Keeps.refl _ _
    | with_reducible assumption
    | (extract_lets +onlyGivenNames -underBinder x; (with_reducible refine Keeps.cut (v := x) ?_ (fun hx => ?_)); subst x; rotate_left; clear_value x; rotate_right)
    | (extract_lets +onlyGivenNames -underBinder x; clear_value x)
    | ((with_reducible apply State.setB_keeps); (case hm => exact rfl))
    | ((with_reducible apply State.blkErr_keeps); (case hm => exact rfl))
    | ((with_reducible apply State.set_keeps); (case hm => exact rfl))
    | ((with_reducible apply State.setSlot_keeps); (case hm => exact rfl))
    | split
    | (with_reducible refine Keeps.leaf ?_ (h_nst := Keeps.chg (by decide)))
    | (dsimp only)

theorem State.slotErased_keeps {n0 : Nat} {s0 : State} {s : State} (hK : Keeps n0 s0 s) (hm : Keeps.sub 0x100000 n0 = true) :
    Keeps n0 s0 (State.slotErased s) := by
  refine Keeps.step hK ?_ hm
  clear hK hm
  unfold State.slotErased
  repeat' first
    | with_reducible exact Keeps.refl _ _
    | with_reducible assumption
    | split
    | (with_reducible refine Keeps.leaf ?_ (h_nst := Keeps.chg (by decide)))
    | (dsimp only)

theorem State.imagePush_keeps {n0 : Nat} {s0 : State} {s : State} {ws : List Word} (hK : Keeps n0 s0 s) (hm : Keeps.sub 0x100004 n0 = true) :
    Keeps n0 s0 (State.imagePush s ws) := by
  refine Keeps.step hK ?_ hm
  clear hK hm
  unfold State.imagePush
  repeat' first
    | with_reducible exact Keeps.refl _ _
    | with_reducible assumption
    | (extract_lets +onlyGivenNames -underBinder x; (with_reducible refine Keeps.cut (v := x) ?_ (fun hx => ?_)); subst x; rotate_left; clear_value x; rotate_right)
    | (extract_lets +onlyGivenNames -underBinder x; clear_value x)
    | ((with_reducible apply State.set_keeps); (case hm => exact rfl))
    | (with_reducible refine Keeps.leaf ?_ (h_nst := Keeps.chg (by decide)))
    | (dsimp only)

theorem State.imageClose_keeps {n0 : Nat} {s0 : State} {s : State} (hK : Keeps n0 s0 s) (hm : Keeps.sub 0x100000 n0 = true) :
    Keeps n0 s0 (State.imageClose s) := by
  refine Keeps.step hK ?_ hm
  clear hK hm
  unfold State.imageClose
  repeat' first
    | with_reducible exact Keeps.refl _ _
    | with_reducible assumption
    | split
    | (with_reducible refine Keeps.leaf ?_ (h_nst := Keeps.chg (by decide)))
    | (dsimp only)

theorem State.actRes_keeps {n0 : Nat} {s0 : State} {s : State} {cause : Nat} {slot : Nat} {item : Nat} (hK : Keeps n0 s0 s) (hm : Keeps.sub 0x4 n0 = true) :
    Keeps n0 s0 (State.actRes s cause slot item) := by
  refine Keeps.step hK ?_ hm
  clear hK hm
  unfold State.actRes
  repeat' first
    | with_reducible exact Keeps.refl _ _
    | with_reducible assumption
    | ((with_reducible apply State.set_keeps); (case hm => exact rfl))
    | (dsimp only)

theorem State.imageChecked_keeps {n0 : Nat} {s0 : State} {s : State} (hK : Keeps n0 s0 s) (hm : Keeps.sub 0x100004 n0 = true) :
    Keeps n0 s0 (State.imageChecked s) := by
  refine Keeps.step hK ?_ hm
  clear hK hm
  unfold State.imageChecked
  repeat' first
    | with_reducible exact Keeps.refl _ _
    | with_reducible assumption
    | (extract_lets +onlyGivenNames -underBinder x; (with_reducible refine Keeps.cut (v := x) ?_ (fun hx => ?_)); subst x; rotate_left; clear_value x; rotate_right)
    | (extract_lets +onlyGivenNames -underBinder x; clear_value x)
    | ((with_reducible apply State.setB_keeps); (case hm => exact rfl))
    | ((with_reducible apply State.irq_keeps); (case hm => exact rfl))
    | ((with_reducible apply State.setSlot_keeps); (case hm => exact rfl))
    | ((with_reducible apply State.actRes_keeps); (case hm => exact rfl))
    | split
    | (with_reducible refine Keeps.leaf ?_ (h_nst := Keeps.chg (by decide)))
    | (dsimp only)

theorem State.imageAbort_keeps {n0 : Nat} {s0 : State} {s : State} (hK : Keeps n0 s0 s) (hm : Keeps.sub 0x100004 n0 = true) :
    Keeps n0 s0 (State.imageAbort s) := by
  refine Keeps.step hK ?_ hm
  clear hK hm
  unfold State.imageAbort
  repeat' first
    | with_reducible exact Keeps.refl _ _
    | with_reducible assumption
    | (extract_lets +onlyGivenNames -underBinder x; (with_reducible refine Keeps.cut (v := x) ?_ (fun hx => ?_)); subst x; rotate_left; clear_value x; rotate_right)
    | (extract_lets +onlyGivenNames -underBinder x; clear_value x)
    | ((with_reducible apply State.setB_keeps); (case hm => exact rfl))
    | split
    | (with_reducible refine Keeps.leaf ?_ (h_nst := Keeps.chg (by decide)))
    | (dsimp only)

theorem State.trendFaces_keeps {n0 : Nat} {s0 : State} {s : State} (hK : Keeps n0 s0 s) (hm : Keeps.sub 0x4 n0 = true) :
    Keeps n0 s0 (State.trendFaces s) := by
  refine Keeps.step hK ?_ hm
  clear hK hm
  unfold State.trendFaces
  repeat' first
    | with_reducible exact Keeps.refl _ _
    | with_reducible assumption
    | (extract_lets +onlyGivenNames -underBinder x; (with_reducible refine Keeps.cut (v := x) ?_ (fun hx => ?_)); subst x; rotate_left; clear_value x; rotate_right)
    | (extract_lets +onlyGivenNames -underBinder x; clear_value x)
    | ((with_reducible apply State.setPair_keeps); (case hm => exact rfl))
    | (with_reducible refine Keeps.fold _ _ ?_ (fun u b hu => ?_))
    | split
    | (dsimp only)

theorem State.trendCapture_keeps {n0 : Nat} {s0 : State} {s : State} (hK : Keeps n0 s0 s) (hm : Keeps.sub 0x100004 n0 = true) :
    Keeps n0 s0 (State.trendCapture s) := by
  refine Keeps.step hK ?_ hm
  clear hK hm
  unfold State.trendCapture
  repeat' first
    | with_reducible exact Keeps.refl _ _
    | with_reducible assumption
    | (extract_lets +onlyGivenNames -underBinder x; (with_reducible refine Keeps.cut (v := x) ?_ (fun hx => ?_)); subst x; rotate_left; clear_value x; rotate_right)
    | (extract_lets +onlyGivenNames -underBinder x; clear_value x)
    | ((with_reducible apply State.bump_keeps); (case hm => exact rfl))
    | (with_reducible refine Keeps.fold _ _ ?_ (fun u b hu => ?_))
    | (with_reducible refine Keeps.ofP2 (by assumption) ?_)
    | (with_reducible refine Keeps.ofP1 (by assumption) ?_)
    | (with_reducible refine Keeps.ofP3 (by assumption) ?_)
    | split
    | (with_reducible refine Keeps.leaf ?_ (h_nst := Keeps.chg (by decide)))
    | (dsimp only)

theorem State.trendOpen_keeps {n0 : Nat} {s0 : State} {s : State} (hK : Keeps n0 s0 s) (hm : Keeps.sub 0x100004 n0 = true) :
    Keeps n0 s0 (State.trendOpen s) := by
  refine Keeps.step hK ?_ hm
  clear hK hm
  unfold State.trendOpen
  repeat' first
    | with_reducible exact Keeps.refl _ _
    | with_reducible assumption
    | (extract_lets +onlyGivenNames -underBinder x; (with_reducible refine Keeps.cut (v := x) ?_ (fun hx => ?_)); subst x; rotate_left; clear_value x; rotate_right)
    | (extract_lets +onlyGivenNames -underBinder x; clear_value x)
    | ((with_reducible apply State.irq_keeps); (case hm => exact rfl))
    | split
    | (with_reducible refine Keeps.leaf ?_ (h_nst := Keeps.chg (by decide)))
    | (dsimp only)

theorem State.trendProgram_keeps {n0 : Nat} {s0 : State} {s : State} {good : Bool} {all : Bool} (hK : Keeps n0 s0 s) (hm : Keeps.sub 0x140004 n0 = true) :
    Keeps n0 s0 (State.trendProgram s good all) := by
  refine Keeps.step hK ?_ hm
  clear hK hm
  unfold State.trendProgram
  repeat' first
    | with_reducible exact Keeps.refl _ _
    | with_reducible assumption
    | (extract_lets +onlyGivenNames -underBinder x; (with_reducible refine Keeps.cut (v := x) ?_ (fun hx => ?_)); subst x; rotate_left; clear_value x; rotate_right)
    | (extract_lets +onlyGivenNames -underBinder x; clear_value x)
    | ((with_reducible apply State.bump_keeps); (case hm => exact rfl))
    | ((with_reducible apply State.irq_keeps); (case hm => exact rfl))
    | ((with_reducible apply State.raise_keeps); (case hm => exact rfl))
    | ((with_reducible apply State.trendOpen_keeps); (case hm => exact rfl))
    | ((with_reducible apply State.trendFaces_keeps); (case hm => exact rfl))
    | (with_reducible refine Keeps.ofP2 (by assumption) ?_)
    | (with_reducible refine Keeps.ofP1 (by assumption) ?_)
    | (with_reducible refine Keeps.ofP3 (by assumption) ?_)
    | split
    | (with_reducible refine Keeps.leaf ?_ (h_nst := Keeps.chg (by decide)))
    | (dsimp only)

theorem State.queryOpen_keeps {n0 : Nat} {s0 : State} {s : State} {ws : List Word} (hK : Keeps n0 s0 s) (hm : Keeps.sub 0x100004 n0 = true) :
    Keeps n0 s0 (State.queryOpen s ws) := by
  refine Keeps.step hK ?_ hm
  clear hK hm
  unfold State.queryOpen
  repeat' first
    | with_reducible exact Keeps.refl _ _
    | with_reducible assumption
    | (extract_lets +onlyGivenNames -underBinder x; (with_reducible refine Keeps.cut (v := x) ?_ (fun hx => ?_)); subst x; rotate_left; clear_value x; rotate_right)
    | (extract_lets +onlyGivenNames -underBinder x; clear_value x)
    | ((with_reducible apply State.setB_keeps); (case hm => exact rfl))
    | ((with_reducible apply State.blkErr_keeps); (case hm => exact rfl))
    | ((with_reducible apply State.set_keeps); (case hm => exact rfl))
    | (with_reducible refine Keeps.ofP2 (by assumption) ?_)
    | (with_reducible refine Keeps.ofP1 (by assumption) ?_)
    | (with_reducible refine Keeps.ofP3 (by assumption) ?_)
    | split
    | (with_reducible refine Keeps.leaf ?_ (h_nst := Keeps.chg (by decide)))
    | (dsimp only)

theorem State.replyWords_keeps {n0 : Nat} {s0 : State} {s : State} {ws : List Word} (hK : Keeps n0 s0 s) (hm : Keeps.sub 0x4 n0 = true) :
    Keeps n0 s0 (State.replyWords s ws) := by
  refine Keeps.step hK ?_ hm
  clear hK hm
  unfold State.replyWords
  repeat' first
    | with_reducible exact Keeps.refl _ _
    | with_reducible assumption
    | ((with_reducible apply State.setWord_keeps); (case hm => exact rfl))
    | (with_reducible refine Keeps.fold _ _ ?_ (fun u b hu => ?_))
    | (dsimp only)

theorem State.hostChunk_keeps {n0 : Nat} {s0 : State} {s : State} (hK : Keeps n0 s0 s) (hm : Keeps.sub 0x100004 n0 = true) :
    Keeps n0 s0 (State.hostChunk s) := by
  refine Keeps.step hK ?_ hm
  clear hK hm
  unfold State.hostChunk
  repeat' first
    | with_reducible exact Keeps.refl _ _
    | with_reducible assumption
    | (extract_lets +onlyGivenNames -underBinder x; (with_reducible refine Keeps.cut (v := x) ?_ (fun hx => ?_)); subst x; rotate_left; clear_value x; rotate_right)
    | (extract_lets +onlyGivenNames -underBinder x; clear_value x)
    | ((with_reducible apply State.setB_keeps); (case hm => exact rfl))
    | ((with_reducible apply State.irq_keeps); (case hm => exact rfl))
    | ((with_reducible apply State.set_keeps); (case hm => exact rfl))
    | ((with_reducible apply State.replyWords_keeps); (case hm => exact rfl))
    | (with_reducible refine Keeps.ofP2 (by assumption) ?_)
    | (with_reducible refine Keeps.ofP1 (by assumption) ?_)
    | (with_reducible refine Keeps.ofP3 (by assumption) ?_)
    | split
    | (with_reducible refine Keeps.leaf ?_ (h_nst := Keeps.chg (by decide)))
    | (dsimp only)

theorem State.queryNext_keeps {n0 : Nat} {s0 : State} {s : State} (hK : Keeps n0 s0 s) (hm : Keeps.sub 0x100004 n0 = true) :
    Keeps n0 s0 (State.queryNext s) := by
  refine Keeps.step hK ?_ hm
  clear hK hm
  unfold State.queryNext
  repeat' first
    | with_reducible exact Keeps.refl _ _
    | with_reducible assumption
    | ((with_reducible apply State.setB_keeps); (case hm => exact rfl))
    | (with_reducible refine Keeps.ofP2 (by assumption) ?_)
    | (with_reducible refine Keeps.ofP1 (by assumption) ?_)
    | (with_reducible refine Keeps.ofP3 (by assumption) ?_)
    | split
    | (with_reducible refine Keeps.leaf ?_ (h_nst := Keeps.chg (by decide)))
    | (dsimp only)

theorem State.queryCancel_keeps {n0 : Nat} {s0 : State} {s : State} (hK : Keeps n0 s0 s) (hm : Keeps.sub 0x100004 n0 = true) :
    Keeps n0 s0 (State.queryCancel s) := by
  refine Keeps.step hK ?_ hm
  clear hK hm
  unfold State.queryCancel
  repeat' first
    | with_reducible exact Keeps.refl _ _
    | with_reducible assumption
    | ((with_reducible apply State.setB_keeps); (case hm => exact rfl))
    | (with_reducible refine Keeps.leaf ?_ (h_nst := Keeps.chg (by decide)))
    | (dsimp only)

end Sys2Proof.Machine
end

