-- ==== Sys2Proof/Laws/KeepsDelivery.lean ====
section
/-! SUPPORT. What each operation of Machine/Delivery.lean may touch (Laws/Keeps.lean): the mask lists the fields it may change,
and the invariant of the block is kept. -/
set_option Elab.async false
set_option linter.all false
namespace Sys2Proof.Machine

theorem State.updDlv_keeps {n0 : Nat} {s0 : State} {s : State} {f : DlvSt → DlvSt} (hK : Keeps n0 s0 s) (hm : Keeps.sub 0x1000000000000 n0 = true) :
    Keeps n0 s0 (State.updDlv s f) := by
  refine Keeps.step hK ?_ hm
  clear hK hm
  unfold State.updDlv
  repeat' first
    | with_reducible exact Keeps.refl _ _
    | with_reducible assumption
    | (with_reducible refine Keeps.leaf ?_ (h_dlv := Keeps.chg (by decide)))
    | (dsimp only)

theorem State.openFaces_keeps {n0 : Nat} {s0 : State} {s : State} (hK : Keeps n0 s0 s) (hm : Keeps.sub 0x4 n0 = true) :
    Keeps n0 s0 (State.openFaces s) := by
  refine Keeps.step hK ?_ hm
  clear hK hm
  unfold State.openFaces
  repeat' first
    | with_reducible exact Keeps.refl _ _
    | with_reducible assumption
    | ((with_reducible apply State.set_keeps); (case hm => exact rfl))
    | (dsimp only)

theorem State.sendTo_keeps {n0 : Nat} {s0 : State} {s : State} {vc : Nat} {kind : Nat} {tid : Nat} {dst : Nat} {sess : Nat} {stream : Nat} {retry : Bool} {payload : List Byte} {old : Bool} (hK : Keeps n0 s0 s) (hm : Keeps.sub 0x1c00000840004 n0 = true) :
    Keeps n0 s0 (State.sendTo s vc kind tid dst sess stream retry payload old) := by
  refine Keeps.step hK ?_ hm
  clear hK hm
  unfold State.sendTo
  repeat' first
    | with_reducible exact Keeps.refl _ _
    | with_reducible assumption
    | (extract_lets +onlyGivenNames -underBinder x; (with_reducible refine Keeps.cut (v := x) ?_ (fun hx => ?_)); subst x; rotate_left; clear_value x; rotate_right)
    | (extract_lets +onlyGivenNames -underBinder x; clear_value x)
    | ((with_reducible apply State.originate_keeps); (case hm => exact rfl))
    | (with_reducible refine Keeps.ofP2 (by assumption) ?_)
    | (with_reducible refine Keeps.ofP1 (by assumption) ?_)
    | (with_reducible refine Keeps.ofP3 (by assumption) ?_)
    | split
    | (dsimp only)

theorem State.sendAttempt_keeps {n0 : Nat} {s0 : State} {s : State} {x : Xfer} (hK : Keeps n0 s0 s) (hm : Keeps.sub 0x1c00000840004 n0 = true) :
    Keeps n0 s0 (State.sendAttempt s x) := by
  refine Keeps.step hK ?_ hm
  clear hK hm
  unfold State.sendAttempt
  repeat' first
    | with_reducible exact Keeps.refl _ _
    | with_reducible assumption
    | ((with_reducible apply State.sendTo_keeps); (case hm => exact rfl))
    | (dsimp only)

theorem State.startXfer_keeps {n0 : Nat} {s0 : State} {s : State} {t : Nat} {r : XReq} (hK : Keeps n0 s0 s) (hm : Keeps.sub 0x1c00000840004 n0 = true) :
    Keeps n0 s0 (State.startXfer s t r) := by
  refine Keeps.step hK ?_ hm
  clear hK hm
  unfold State.startXfer
  repeat' first
    | with_reducible exact Keeps.refl _ _
    | with_reducible assumption
    | (extract_lets +onlyGivenNames -underBinder x; (with_reducible refine Keeps.cut (v := x) ?_ (fun hx => ?_)); subst x; rotate_left; clear_value x; rotate_right)
    | (extract_lets +onlyGivenNames -underBinder x; clear_value x)
    | ((with_reducible apply State.updDlv_keeps); (case hm => exact rfl))
    | ((with_reducible apply State.sendAttempt_keeps); (case hm => exact rfl))
    | ((with_reducible apply State.openFaces_keeps); (case hm => exact rfl))
    | (dsimp only)

theorem State.request_keeps {n0 : Nat} {s0 : State} {s : State} {r : XReq} (hK : Keeps n0 s0 s) (hm : Keeps.sub 0x1c00000840004 n0 = true) :
    Keeps n0 s0 (State.request s r) := by
  refine Keeps.step hK ?_ hm
  clear hK hm
  unfold State.request
  repeat' first
    | with_reducible exact Keeps.refl _ _
    | with_reducible assumption
    | ((with_reducible apply State.updDlv_keeps); (case hm => exact rfl))
    | ((with_reducible apply State.startXfer_keeps); (case hm => exact rfl))
    | ((with_reducible apply State.bump_keeps); (case hm => exact rfl))
    | (with_reducible refine Keeps.ofP2 (by assumption) ?_)
    | (with_reducible refine Keeps.ofP1 (by assumption) ?_)
    | (with_reducible refine Keeps.ofP3 (by assumption) ?_)
    | split
    | (dsimp only)

theorem State.sendWaiting_keeps {n0 : Nat} {s0 : State} {s : State} (hK : Keeps n0 s0 s) (hm : Keeps.sub 0x1c00000840004 n0 = true) :
    Keeps n0 s0 (State.sendWaiting s) := by
  refine Keeps.step hK ?_ hm
  clear hK hm
  unfold State.sendWaiting
  repeat' first
    | with_reducible exact Keeps.refl _ _
    | with_reducible assumption
    | ((with_reducible apply State.updDlv_keeps); (case hm => exact rfl))
    | ((with_reducible apply State.startXfer_keeps); (case hm => exact rfl))
    | (with_reducible refine Keeps.fold _ _ ?_ (fun u b hu => ?_))
    | (with_reducible refine Keeps.ofP2 (by assumption) ?_)
    | (with_reducible refine Keeps.ofP1 (by assumption) ?_)
    | (with_reducible refine Keeps.ofP3 (by assumption) ?_)
    | split
    | (dsimp only)

theorem State.endXfer_keeps {n0 : Nat} {s0 : State} {s : State} {t : Nat} (hK : Keeps n0 s0 s) (hm : Keeps.sub 0x1c00000840004 n0 = true) :
    Keeps n0 s0 (State.endXfer s t) := by
  refine Keeps.step hK ?_ hm
  clear hK hm
  unfold State.endXfer
  repeat' first
    | with_reducible exact Keeps.refl _ _
    | with_reducible assumption
    | (extract_lets +onlyGivenNames -underBinder x; (with_reducible refine Keeps.cut (v := x) ?_ (fun hx => ?_)); subst x; rotate_left; clear_value x; rotate_right)
    | (extract_lets +onlyGivenNames -underBinder x; clear_value x)
    | ((with_reducible apply State.updDlv_keeps); (case hm => exact rfl))
    | ((with_reducible apply State.openFaces_keeps); (case hm => exact rfl))
    | ((with_reducible apply State.sendWaiting_keeps); (case hm => exact rfl))
    | (dsimp only)

theorem State.tidQuarantineEnd_keeps {n0 : Nat} {s0 : State} {s : State} {t : Nat} (hK : Keeps n0 s0 s) (hm : Keeps.sub 0x1c00000840006 n0 = true) :
    Keeps n0 s0 (State.tidQuarantineEnd s t) := by
  refine Keeps.step hK ?_ hm
  clear hK hm
  unfold State.tidQuarantineEnd
  repeat' first
    | with_reducible exact Keeps.refl _ _
    | with_reducible assumption
    | (extract_lets +onlyGivenNames -underBinder x; (with_reducible refine Keeps.cut (v := x) ?_ (fun hx => ?_)); subst x; rotate_left; clear_value x; rotate_right)
    | (extract_lets +onlyGivenNames -underBinder x; clear_value x)
    | ((with_reducible apply State.updDlv_keeps); (case hm => exact rfl))
    | ((with_reducible apply State.at__keeps); (case hm => exact rfl))
    | ((with_reducible apply State.sendWaiting_keeps); (case hm => exact rfl))
    | (with_reducible refine Keeps.ofP2 (by assumption) ?_)
    | (with_reducible refine Keeps.ofP1 (by assumption) ?_)
    | (with_reducible refine Keeps.ofP3 (by assumption) ?_)
    | split
    | (dsimp only)

theorem State.pumpAlarms_keeps {n0 : Nat} {s0 : State} {s : State} (hK : Keeps n0 s0 s) (hm : Keeps.sub 0x1c00000840004 n0 = true) :
    Keeps n0 s0 (State.pumpAlarms s) := by
  refine Keeps.step hK ?_ hm
  clear hK hm
  unfold State.pumpAlarms
  repeat' first
    | with_reducible exact Keeps.refl _ _
    | with_reducible assumption
    | (extract_lets +onlyGivenNames -underBinder x; (with_reducible refine Keeps.cut (v := x) ?_ (fun hx => ?_)); subst x; rotate_left; clear_value x; rotate_right)
    | (extract_lets +onlyGivenNames -underBinder x; subst x)
    | ((with_reducible apply State.request_keeps); (case hm => exact rfl))
    | (with_reducible refine Keeps.fold _ _ ?_ (fun u b hu => ?_))
    | split
    | (with_reducible refine Keeps.leaf ?_ (h_flt := Keeps.chg (by decide)) (i5 := (fun h => by first | exact h | (simp only; first | omega | (simp; omega) | (simp; done)))))
    | (dsimp only)

theorem State.setStrm_keeps {n0 : Nat} {s0 : State} {s : State} {i : Nat} {x : Strm} (hK : Keeps n0 s0 s) (hm : Keeps.sub 0x1000000000000 n0 = true) :
    Keeps n0 s0 (State.setStrm s i x) := by
  refine Keeps.step hK ?_ hm
  clear hK hm
  unfold State.setStrm
  repeat' first
    | with_reducible exact Keeps.refl _ _
    | with_reducible assumption
    | ((with_reducible apply State.updDlv_keeps); (case hm => exact rfl))
    | (dsimp only)

theorem State.strmCounts_keeps {n0 : Nat} {s0 : State} {s : State} (hK : Keeps n0 s0 s) (hm : Keeps.sub 0x4 n0 = true) :
    Keeps n0 s0 (State.strmCounts s) := by
  refine Keeps.step hK ?_ hm
  clear hK hm
  unfold State.strmCounts
  repeat' first
    | with_reducible exact Keeps.refl _ _
    | with_reducible assumption
    | (extract_lets +onlyGivenNames -underBinder x; (with_reducible refine Keeps.cut (v := x) ?_ (fun hx => ?_)); subst x; rotate_left; clear_value x; rotate_right)
    | (extract_lets +onlyGivenNames -underBinder x; (have hfn : (_ → _) := x; clear hfn); subst x; dsimp only)
    | (extract_lets +onlyGivenNames -underBinder x; clear_value x)
    | ((with_reducible apply State.set_keeps); (case hm => exact rfl))
    | (dsimp only)

theorem State.transitCount_keeps {n0 : Nat} {s0 : State} {s : State} (hK : Keeps n0 s0 s) (hm : Keeps.sub 0x4 n0 = true) :
    Keeps n0 s0 (State.transitCount s) := by
  refine Keeps.step hK ?_ hm
  clear hK hm
  unfold State.transitCount
  repeat' first
    | with_reducible exact Keeps.refl _ _
    | with_reducible assumption
    | ((with_reducible apply State.set_keeps); (case hm => exact rfl))
    | (dsimp only)

theorem State.strmTo_keeps {n0 : Nat} {s0 : State} {s : State} {i : Nat} {st : Nat} {cause : Nat} {hops : Nat} (hK : Keeps n0 s0 s) (hm : Keeps.sub 0x1000000000004 n0 = true) :
    Keeps n0 s0 (State.strmTo s i st cause hops) := by
  refine Keeps.step hK ?_ hm
  clear hK hm
  unfold State.strmTo
  repeat' first
    | with_reducible exact Keeps.refl _ _
    | with_reducible assumption
    | (extract_lets +onlyGivenNames -underBinder x; (with_reducible refine Keeps.cut (v := x) ?_ (fun hx => ?_)); subst x; rotate_left; clear_value x; rotate_right)
    | (extract_lets +onlyGivenNames -underBinder x; clear_value x)
    | ((with_reducible apply State.irq_keeps); (case hm => exact rfl))
    | ((with_reducible apply State.setStrm_keeps); (case hm => exact rfl))
    | ((with_reducible apply State.strmCounts_keeps); (case hm => exact rfl))
    | split
    | (dsimp only)

theorem State.strmView_keeps {n0 : Nat} {s0 : State} {s : State} (hK : Keeps n0 s0 s) (hm : Keeps.sub 0x4 n0 = true) :
    Keeps n0 s0 (State.strmView s) := by
  refine Keeps.step hK ?_ hm
  clear hK hm
  unfold State.strmView
  repeat' first
    | with_reducible exact Keeps.refl _ _
    | with_reducible assumption
    | (extract_lets +onlyGivenNames -underBinder x; (with_reducible refine Keeps.cut (v := x) ?_ (fun hx => ?_)); subst x; rotate_left; clear_value x; rotate_right)
    | (extract_lets +onlyGivenNames -underBinder x; clear_value x)
    | ((with_reducible apply State.setWord_keeps); (case hm => exact rfl))
    | ((with_reducible apply State.set_keeps); (case hm => exact rfl))
    | split
    | (dsimp only)

theorem State.noGuarantee_keeps {n0 : Nat} {s0 : State} {s : State} {i : Nat} {cause : Nat} (hK : Keeps n0 s0 s) (hm : Keeps.sub 0x1000000000004 n0 = true) :
    Keeps n0 s0 (State.noGuarantee s i cause) := by
  refine Keeps.step hK ?_ hm
  clear hK hm
  unfold State.noGuarantee
  repeat' first
    | with_reducible exact Keeps.refl _ _
    | with_reducible assumption
    | ((with_reducible apply State.strmTo_keeps); (case hm => exact rfl))
    | (dsimp only)

theorem State.seekAdmission_keeps {n0 : Nat} {s0 : State} {s : State} {i : Nat} (hK : Keeps n0 s0 s) (hm : Keeps.sub 0x1c00000840004 n0 = true) :
    Keeps n0 s0 (State.seekAdmission s i) := by
  refine Keeps.step hK ?_ hm
  clear hK hm
  unfold State.seekAdmission
  repeat' first
    | with_reducible exact Keeps.refl _ _
    | with_reducible assumption
    | (extract_lets +onlyGivenNames -underBinder x; (with_reducible refine Keeps.cut (v := x) ?_ (fun hx => ?_)); subst x; rotate_left; clear_value x; rotate_right)
    | (extract_lets +onlyGivenNames -underBinder x; clear_value x)
    | ((with_reducible apply State.updDlv_keeps); (case hm => exact rfl))
    | ((with_reducible apply State.noGuarantee_keeps); (case hm => exact rfl))
    | ((with_reducible apply State.setStrm_keeps); (case hm => exact rfl))
    | ((with_reducible apply State.request_keeps); (case hm => exact rfl))
    | ((with_reducible apply State.strmTo_keeps); (case hm => exact rfl))
    | (with_reducible refine Keeps.ofP2 (by assumption) ?_)
    | (with_reducible refine Keeps.ofP1 (by assumption) ?_)
    | (with_reducible refine Keeps.ofP3 (by assumption) ?_)
    | split
    | (dsimp only)

theorem State.admitted_keeps {n0 : Nat} {s0 : State} {s : State} {i : Nat} {h : Nat} (hK : Keeps n0 s0 s) (hm : Keeps.sub 0x1000000000004 n0 = true) :
    Keeps n0 s0 (State.admitted s i h) := by
  refine Keeps.step hK ?_ hm
  clear hK hm
  unfold State.admitted
  repeat' first
    | with_reducible exact Keeps.refl _ _
    | with_reducible assumption
    | ((with_reducible apply State.strmTo_keeps); (case hm => exact rfl))
    | (dsimp only)

theorem State.refusedStream_keeps {n0 : Nat} {s0 : State} {s : State} {i : Nat} {cause : Nat} (hK : Keeps n0 s0 s) (hm : Keeps.sub 0x1c00000840004 n0 = true) :
    Keeps n0 s0 (State.refusedStream s i cause) := by
  refine Keeps.step hK ?_ hm
  clear hK hm
  unfold State.refusedStream
  repeat' first
    | with_reducible exact Keeps.refl _ _
    | with_reducible assumption
    | (extract_lets +onlyGivenNames -underBinder x; (with_reducible refine Keeps.cut (v := x) ?_ (fun hx => ?_)); subst x; rotate_left; clear_value x; rotate_right)
    | (extract_lets +onlyGivenNames -underBinder x; clear_value x)
    | ((with_reducible apply State.noGuarantee_keeps); (case hm => exact rfl))
    | ((with_reducible apply State.request_keeps); (case hm => exact rfl))
    | (dsimp only)

theorem State.strmSwitch_keeps {n0 : Nat} {s0 : State} {s : State} {cfg : Map Word} (hK : Keeps n0 s0 s) (hm : Keeps.sub 0x1c00000840004 n0 = true) :
    Keeps n0 s0 (State.strmSwitch s cfg) := by
  refine Keeps.step hK ?_ hm
  clear hK hm
  unfold State.strmSwitch
  repeat' first
    | with_reducible exact Keeps.refl _ _
    | with_reducible assumption
    | (extract_lets +onlyGivenNames -underBinder x; (with_reducible refine Keeps.cut (v := x) ?_ (fun hx => ?_)); subst x; rotate_left; clear_value x; rotate_right)
    | (extract_lets +onlyGivenNames -underBinder x; clear_value x)
    | ((with_reducible apply State.updDlv_keeps); (case hm => exact rfl))
    | ((with_reducible apply State.openFaces_keeps); (case hm => exact rfl))
    | ((with_reducible apply State.seekAdmission_keeps); (case hm => exact rfl))
    | ((with_reducible apply State.setStrm_keeps); (case hm => exact rfl))
    | ((with_reducible apply State.strmCounts_keeps); (case hm => exact rfl))
    | ((with_reducible apply State.strmView_keeps); (case hm => exact rfl))
    | ((with_reducible apply State.strmTo_keeps); (case hm => exact rfl))
    | (with_reducible refine Keeps.fold _ _ ?_ (fun u b hu => ?_))
    | (with_reducible refine Keeps.ofP2 (by assumption) ?_)
    | (with_reducible refine Keeps.ofP1 (by assumption) ?_)
    | (with_reducible refine Keeps.ofP3 (by assumption) ?_)
    | split
    | (dsimp only)

theorem State.streamRefresh_keeps {n0 : Nat} {s0 : State} {s : State} (hK : Keeps n0 s0 s) (hm : Keeps.sub 0x1c00000840006 n0 = true) :
    Keeps n0 s0 (State.streamRefresh s) := by
  refine Keeps.step hK ?_ hm
  clear hK hm
  unfold State.streamRefresh
  repeat' first
    | with_reducible exact Keeps.refl _ _
    | with_reducible assumption
    | (extract_lets +onlyGivenNames -underBinder x; (with_reducible refine Keeps.cut (v := x) ?_ (fun hx => ?_)); subst x; rotate_left; clear_value x; rotate_right)
    | (extract_lets +onlyGivenNames -underBinder x; clear_value x)
    | ((with_reducible apply State.updDlv_keeps); (case hm => exact rfl))
    | ((with_reducible apply State.at__keeps); (case hm => exact rfl))
    | ((with_reducible apply State.seekAdmission_keeps); (case hm => exact rfl))
    | (with_reducible refine Keeps.fold _ _ ?_ (fun u b hu => ?_))
    | (dsimp only)

theorem State.fireStreams_keeps {n0 : Nat} {s0 : State} {s : State} (hK : Keeps n0 s0 s) (hm : Keeps.sub 0x1c00000840004 n0 = true) :
    Keeps n0 s0 (State.fireStreams s) := by
  refine Keeps.step hK ?_ hm
  clear hK hm
  unfold State.fireStreams
  repeat' first
    | with_reducible exact Keeps.refl _ _
    | with_reducible assumption
    | (extract_lets +onlyGivenNames -underBinder x; (with_reducible refine Keeps.cut (v := x) ?_ (fun hx => ?_)); subst x; rotate_left; clear_value x; rotate_right)
    | (extract_lets +onlyGivenNames -underBinder x; clear_value x)
    | ((with_reducible apply State.modPort_keeps); (case hm => exact rfl))
    | ((with_reducible apply State.takeCtr_keeps); (case hm => exact rfl))
    | ((with_reducible apply State.sendTo_keeps); (case hm => exact rfl))
    | (with_reducible refine Keeps.fold _ _ ?_ (fun u b hu => ?_))
    | (with_reducible refine Keeps.ofP2 (by assumption) ?_)
    | (with_reducible refine Keeps.ofP1 (by assumption) ?_)
    | (with_reducible refine Keeps.ofP3 (by assumption) ?_)
    | split
    | (dsimp only)

theorem State.publish_keeps {n0 : Nat} {s0 : State} {s : State} (hK : Keeps n0 s0 s) (hm : Keeps.sub 0x1c00000a40004 n0 = true) :
    Keeps n0 s0 (State.publish s) := by
  refine Keeps.step hK ?_ hm
  clear hK hm
  unfold State.publish
  repeat' first
    | with_reducible exact Keeps.refl _ _
    | with_reducible assumption
    | (extract_lets +onlyGivenNames -underBinder x; (with_reducible refine Keeps.cut (v := x) ?_ (fun hx => ?_)); subst x; rotate_left; clear_value x; rotate_right)
    | (extract_lets +onlyGivenNames -underBinder x; (have hfn : (_ → _) := x; clear hfn); subst x; dsimp only)
    | (extract_lets +onlyGivenNames -underBinder x; clear_value x)
    | ((with_reducible apply State.sendTo_keeps); (case hm => exact rfl))
    | ((with_reducible apply State.pubSelect_keeps); (case hm => exact rfl))
    | (with_reducible refine Keeps.fold _ _ ?_ (fun u b hu => ?_))
    | (with_reducible refine Keeps.ofP2 (by assumption) ?_)
    | (with_reducible refine Keeps.ofP1 (by assumption) ?_)
    | (with_reducible refine Keeps.ofP3 (by assumption) ?_)
    | split
    | (dsimp only)

theorem State.sendSubscribe_keeps {n0 : Nat} {s0 : State} {s : State} {i : Nat} (hK : Keeps n0 s0 s) (hm : Keeps.sub 0x1c00000a40004 n0 = true) :
    Keeps n0 s0 (State.sendSubscribe s i) := by
  refine Keeps.step hK ?_ hm
  clear hK hm
  unfold State.sendSubscribe
  repeat' first
    | with_reducible exact Keeps.refl _ _
    | with_reducible assumption
    | (extract_lets +onlyGivenNames -underBinder x; (with_reducible refine Keeps.cut (v := x) ?_ (fun hx => ?_)); subst x; rotate_left; clear_value x; rotate_right)
    | (extract_lets +onlyGivenNames -underBinder x; clear_value x)
    | ((with_reducible apply State.request_keeps); (case hm => exact rfl))
    | (with_reducible refine Keeps.leaf ?_ (h_dir := Keeps.chg (by decide)))
    | (dsimp only)

theorem State.subscribeNew_keeps {n0 : Nat} {s0 : State} {s : State} (hK : Keeps n0 s0 s) (hm : Keeps.sub 0x1c00000a40004 n0 = true) :
    Keeps n0 s0 (State.subscribeNew s) := by
  refine Keeps.step hK ?_ hm
  clear hK hm
  unfold State.subscribeNew
  repeat' first
    | with_reducible exact Keeps.refl _ _
    | with_reducible assumption
    | ((with_reducible apply State.sendSubscribe_keeps); (case hm => exact rfl))
    | (with_reducible refine Keeps.fold _ _ ?_ (fun u b hu => ?_))
    | split
    | (dsimp only)

theorem State.subscribeRefresh_keeps {n0 : Nat} {s0 : State} {s : State} (hK : Keeps n0 s0 s) (hm : Keeps.sub 0x1c00000a40006 n0 = true) :
    Keeps n0 s0 (State.subscribeRefresh s) := by
  refine Keeps.step hK ?_ hm
  clear hK hm
  unfold State.subscribeRefresh
  repeat' first
    | with_reducible exact Keeps.refl _ _
    | with_reducible assumption
    | (extract_lets +onlyGivenNames -underBinder x; (with_reducible refine Keeps.cut (v := x) ?_ (fun hx => ?_)); subst x; rotate_left; clear_value x; rotate_right)
    | (extract_lets +onlyGivenNames -underBinder x; clear_value x)
    | ((with_reducible apply State.at__keeps); (case hm => exact rfl))
    | ((with_reducible apply State.sendSubscribe_keeps); (case hm => exact rfl))
    | (with_reducible refine Keeps.fold _ _ ?_ (fun u b hu => ?_))
    | (with_reducible refine Keeps.ofP2 (by assumption) ?_)
    | (with_reducible refine Keeps.ofP1 (by assumption) ?_)
    | (with_reducible refine Keeps.ofP3 (by assumption) ?_)
    | split
    | (dsimp only)

theorem State.takeIn_keeps {n0 : Nat} {s0 : State} {s : State} {p : Nat} {f : List Byte} (hK : Keeps n0 s0 s) (hm : Keeps.sub 0x1c00000840004 n0 = true) :
    Keeps n0 s0 (State.takeIn s p f).2 := by
  refine Keeps.step hK ?_ hm
  clear hK hm
  unfold State.takeIn
  repeat' first
    | with_reducible exact Keeps.refl _ _
    | with_reducible assumption
    | (extract_lets +onlyGivenNames -underBinder x; (with_reducible refine Keeps.cut (v := x) ?_ (fun hx => ?_)); subst x; rotate_left; clear_value x; rotate_right)
    | (extract_lets +onlyGivenNames -underBinder x; clear_value x)
    | ((with_reducible apply State.bump_keeps); (case hm => exact rfl))
    | ((with_reducible apply State.discard_keeps); (case hm => exact rfl))
    | ((with_reducible apply State.bumpWrap_keeps); (case hm => exact rfl))
    | split
    | (dsimp only)

theorem State.sendOn_keeps {n0 : Nat} {s0 : State} {s : State} {p : Nat} {f : List Byte} {ports : List Nat} (hK : Keeps n0 s0 s) (hm : Keeps.sub 0x800000000004 n0 = true) :
    Keeps n0 s0 (State.sendOn s p f ports) := by
  refine Keeps.step hK ?_ hm
  clear hK hm
  unfold State.sendOn
  repeat' first
    | with_reducible exact Keeps.refl _ _
    | with_reducible assumption
    | (extract_lets +onlyGivenNames -underBinder x; (with_reducible refine Keeps.cut (v := x) ?_ (fun hx => ?_)); subst x; rotate_left; clear_value x; rotate_right)
    | (extract_lets +onlyGivenNames -underBinder x; clear_value x)
    | ((with_reducible apply State.bump_keeps); (case hm => exact rfl))
    | ((with_reducible apply State.enqueue_keeps); (case hm => exact rfl))
    | ((with_reducible apply State.updFab_keeps); (case hm => exact rfl))
    | (with_reducible refine Keeps.fold _ _ ?_ (fun u b hu => ?_))
    | split
    | (dsimp only)

theorem State.forward_keeps {n0 : Nat} {s0 : State} {s : State} {p : Nat} {f : List Byte} (hK : Keeps n0 s0 s) (hm : Keeps.sub 0x800000000004 n0 = true) :
    Keeps n0 s0 (State.forward s p f) := by
  refine Keeps.step hK ?_ hm
  clear hK hm
  unfold State.forward
  repeat' first
    | with_reducible exact Keeps.refl _ _
    | with_reducible assumption
    | (extract_lets +onlyGivenNames -underBinder x; (with_reducible refine Keeps.cut (v := x) ?_ (fun hx => ?_)); subst x; rotate_left; clear_value x; rotate_right)
    | (extract_lets +onlyGivenNames -underBinder x; clear_value x)
    | ((with_reducible apply State.bump_keeps); (case hm => exact rfl))
    | ((with_reducible apply State.sendOn_keeps); (case hm => exact rfl))
    | split
    | (dsimp only)

theorem State.lateDrop_keeps {n0 : Nat} {s0 : State} {s : State} (hK : Keeps n0 s0 s) (hm : Keeps.sub 0x4 n0 = true) :
    Keeps n0 s0 (State.lateDrop s) := by
  refine Keeps.step hK ?_ hm
  clear hK hm
  unfold State.lateDrop
  repeat' first
    | with_reducible exact Keeps.refl _ _
    | with_reducible assumption
    | ((with_reducible apply State.bump_keeps); (case hm => exact rfl))
    | ((with_reducible apply State.irq_keeps); (case hm => exact rfl))
    | (dsimp only)

theorem State.levCheck_keeps {n0 : Nat} {s0 : State} {s : State} {src : CmdSrc} {f : List Byte} {cls : Nat} {op : Nat} (hK : Keeps n0 s0 s) (hm : Keeps.sub 0x400000940004 n0 = true) :
    Keeps n0 s0 (State.levCheck s src f cls op).2 := by
  refine Keeps.step hK ?_ hm
  clear hK hm
  unfold State.levCheck
  repeat' first
    | with_reducible exact Keeps.refl _ _
    | with_reducible assumption
    | (extract_lets +onlyGivenNames -underBinder x; (with_reducible refine Keeps.cut (v := x) ?_ (fun hx => ?_)); subst x; rotate_left; clear_value x; rotate_right)
    | (extract_lets +onlyGivenNames -underBinder x; clear_value x)
    | ((with_reducible apply State.checkTagged_keeps); (case hm => exact rfl))
    | ((with_reducible apply State.levRun_keeps); (case hm => exact rfl))
    | ((with_reducible apply State.levRefused_keeps); (case hm => exact rfl))
    | (with_reducible refine Keeps.ofP2 (by assumption) ?_)
    | (with_reducible refine Keeps.ofP1 (by assumption) ?_)
    | (with_reducible refine Keeps.ofP3 (by assumption) ?_)
    | split
    | (dsimp only)

theorem State.sendResp_keeps {n0 : Nat} {s0 : State} {s : State} {f : List Byte} {body : List Byte} {tagged : Bool} {old : Bool} (hK : Keeps n0 s0 s) (hm : Keeps.sub 0x1c00000840004 n0 = true) :
    Keeps n0 s0 (State.sendResp s f body tagged old) := by
  refine Keeps.step hK ?_ hm
  clear hK hm
  unfold State.sendResp
  repeat' first
    | with_reducible exact Keeps.refl _ _
    | with_reducible assumption
    | ((with_reducible apply State.sendTo_keeps); (case hm => exact rfl))
    | split
    | (dsimp only)

theorem State.keepAnswer_keeps {n0 : Nat} {s0 : State} {s : State} {f : List Byte} {body : List Byte} (hK : Keeps n0 s0 s) (hm : Keeps.sub 0x1000000000000 n0 = true) :
    Keeps n0 s0 (State.keepAnswer s f body) := by
  refine Keeps.step hK ?_ hm
  clear hK hm
  unfold State.keepAnswer
  repeat' first
    | with_reducible exact Keeps.refl _ _
    | with_reducible assumption
    | (extract_lets +onlyGivenNames -underBinder x; (with_reducible refine Keeps.cut (v := x) ?_ (fun hx => ?_)); subst x; rotate_left; clear_value x; rotate_right)
    | (extract_lets +onlyGivenNames -underBinder x; (have hfn : (_ → _) := x; clear hfn); subst x; dsimp only)
    | (extract_lets +onlyGivenNames -underBinder x; clear_value x)
    | ((with_reducible apply State.updDlv_keeps); (case hm => exact rfl))
    | split
    | (dsimp only)

theorem State.answer_keeps {n0 : Nat} {s0 : State} {s : State} {f : List Byte} {result : Nat} {rest : List Byte} (hK : Keeps n0 s0 s) (hm : Keeps.sub 0x1c00000840004 n0 = true) :
    Keeps n0 s0 (State.answer s f result rest) := by
  refine Keeps.step hK ?_ hm
  clear hK hm
  unfold State.answer
  repeat' first
    | with_reducible exact Keeps.refl _ _
    | with_reducible assumption
    | (extract_lets +onlyGivenNames -underBinder x; (with_reducible refine Keeps.cut (v := x) ?_ (fun hx => ?_)); subst x; rotate_left; clear_value x; rotate_right)
    | (extract_lets +onlyGivenNames -underBinder x; clear_value x)
    | ((with_reducible apply State.keepAnswer_keeps); (case hm => exact rfl))
    | ((with_reducible apply State.sendResp_keeps); (case hm => exact rfl))
    | (dsimp only)

theorem State.noteApplied_keeps {n0 : Nat} {s0 : State} {s : State} {f : List Byte} (hK : Keeps n0 s0 s) (hm : Keeps.sub 0x1000000000000 n0 = true) :
    Keeps n0 s0 (State.noteApplied s f) := by
  refine Keeps.step hK ?_ hm
  clear hK hm
  unfold State.noteApplied
  repeat' first
    | with_reducible exact Keeps.refl _ _
    | with_reducible assumption
    | ((with_reducible apply State.updDlv_keeps); (case hm => exact rfl))
    | (dsimp only)

theorem State.gate_keeps {n0 : Nat} {s0 : State} {s : State} {f : List Byte} (hK : Keeps n0 s0 s) (hm : Keeps.sub 0x1c00000840004 n0 = true) :
    Keeps n0 s0 (State.gate s f).2 := by
  refine Keeps.step hK ?_ hm
  clear hK hm
  unfold State.gate
  repeat' first
    | with_reducible exact Keeps.refl _ _
    | with_reducible assumption
    | (extract_lets +onlyGivenNames -underBinder x; (with_reducible refine Keeps.cut (v := x) ?_ (fun hx => ?_)); subst x; rotate_left; clear_value x; rotate_right)
    | (extract_lets +onlyGivenNames -underBinder x; (have hfn : (_ → _) := x; clear hfn); subst x; dsimp only)
    | (extract_lets +onlyGivenNames -underBinder x; clear_value x)
    | ((with_reducible apply State.answer_keeps); (case hm => exact rfl))
    | ((with_reducible apply State.lateDrop_keeps); (case hm => exact rfl))
    | ((with_reducible apply State.sendResp_keeps); (case hm => exact rfl))
    | (with_reducible refine Keeps.ofP2 (by assumption) ?_)
    | (with_reducible refine Keeps.ofP1 (by assumption) ?_)
    | (with_reducible refine Keeps.ofP3 (by assumption) ?_)
    | split
    | (dsimp only)

theorem State.ingest_keeps {n0 : Nat} {s0 : State} {s : State} {f : List Byte} {u : List Byte} {n : Nat} {notBefore : Nat} (hK : Keeps n0 s0 s) (hm : Keeps.sub 0x200004 n0 = true) :
    Keeps n0 s0 (State.ingest s f u n notBefore) := by
  refine Keeps.step hK ?_ hm
  clear hK hm
  unfold State.ingest
  repeat' first
    | with_reducible exact Keeps.refl _ _
    | with_reducible assumption
    | (extract_lets +onlyGivenNames -underBinder x; (with_reducible refine Keeps.cut (v := x) ?_ (fun hx => ?_)); subst x; rotate_left; clear_value x; rotate_right)
    | (extract_lets +onlyGivenNames -underBinder x; clear_value x)
    | ((with_reducible apply State.rxUpdate_keeps); (case hm => exact rfl))
    | (with_reducible refine Keeps.fold _ _ ?_ (fun u b hu => ?_))
    | (dsimp only)

theorem State.takePublish_keeps {n0 : Nat} {s0 : State} {s : State} {f : List Byte} (hK : Keeps n0 s0 s) (hm : Keeps.sub 0x200004 n0 = true) :
    Keeps n0 s0 (State.takePublish s f) := by
  refine Keeps.step hK ?_ hm
  clear hK hm
  unfold State.takePublish
  repeat' first
    | with_reducible exact Keeps.refl _ _
    | with_reducible assumption
    | (extract_lets +onlyGivenNames -underBinder x; (with_reducible refine Keeps.cut (v := x) ?_ (fun hx => ?_)); subst x; rotate_left; clear_value x; rotate_right)
    | (extract_lets +onlyGivenNames -underBinder x; clear_value x)
    | ((with_reducible apply State.ingest_keeps); (case hm => exact rfl))
    | (with_reducible refine Keeps.ofP2 (by assumption) ?_)
    | (with_reducible refine Keeps.ofP1 (by assumption) ?_)
    | (with_reducible refine Keeps.ofP3 (by assumption) ?_)
    | split
    | (dsimp only)

theorem State.readReq_keeps {n0 : Nat} {s0 : State} {s : State} {f : List Byte} (hK : Keeps n0 s0 s) (hm : Keeps.sub 0x1c00000840004 n0 = true) :
    Keeps n0 s0 (State.readReq s f) := by
  refine Keeps.step hK ?_ hm
  clear hK hm
  unfold State.readReq
  repeat' first
    | with_reducible exact Keeps.refl _ _
    | with_reducible assumption
    | (extract_lets +onlyGivenNames -underBinder x; (with_reducible refine Keeps.cut (v := x) ?_ (fun hx => ?_)); subst x; rotate_left; clear_value x; rotate_right)
    | (extract_lets +onlyGivenNames -underBinder x; (have hfn : (_ → _) := x; clear hfn); subst x; dsimp only)
    | (extract_lets +onlyGivenNames -underBinder x; clear_value x)
    | ((with_reducible apply State.answer_keeps); (case hm => exact rfl))
    | split
    | (dsimp only)

theorem State.writePoint_keeps {n0 : Nat} {s0 : State} {s : State} {i : Nat} {lv : Nat} {rel : Bool} {v : Int} (hK : Keeps n0 s0 s) (hm : Keeps.sub 0x200202000 n0 = true) :
    Keeps n0 s0 (State.writePoint s i lv rel v) := by
  refine Keeps.step hK ?_ hm
  clear hK hm
  unfold State.writePoint
  repeat' first
    | with_reducible exact Keeps.refl _ _
    | with_reducible assumption
    | (extract_lets +onlyGivenNames -underBinder x; (with_reducible refine Keeps.cut (v := x) ?_ (fun hx => ?_)); subst x; rotate_left; clear_value x; rotate_right)
    | (extract_lets +onlyGivenNames -underBinder x; clear_value x)
    | (with_reducible refine Keeps.ofP2 (by assumption) ?_)
    | (with_reducible refine Keeps.ofP1 (by assumption) ?_)
    | (with_reducible refine Keeps.ofP3 (by assumption) ?_)
    | split
    | (with_reducible refine Keeps.leaf ?_ (h_hostLv := Keeps.chg (by decide)) (h_dir := Keeps.chg (by decide)) (h_hostZm := Keeps.chg (by decide)))
    | (dsimp only)

theorem State.writeReq_keeps {n0 : Nat} {s0 : State} {s : State} {f : List Byte} (hK : Keeps n0 s0 s) (hm : Keeps.sub 0x1c00200b42004 n0 = true) :
    Keeps n0 s0 (State.writeReq s f) := by
  refine Keeps.step hK ?_ hm
  clear hK hm
  unfold State.writeReq
  repeat' first
    | with_reducible exact Keeps.refl _ _
    | with_reducible assumption
    | (extract_lets +onlyGivenNames -underBinder x; (with_reducible refine Keeps.cut (v := x) ?_ (fun hx => ?_)); subst x; rotate_left; clear_value x; rotate_right)
    | (extract_lets +onlyGivenNames -underBinder x; clear_value x)
    | ((with_reducible apply State.answer_keeps); (case hm => exact rfl))
    | ((with_reducible apply State.writePoint_keeps); (case hm => exact rfl))
    | ((with_reducible apply State.audit_keeps); (case hm => exact rfl))
    | ((with_reducible apply State.noteApplied_keeps); (case hm => exact rfl))
    | split
    | (dsimp only)

theorem State.subscribeReq_keeps {n0 : Nat} {s0 : State} {s : State} {f : List Byte} (hK : Keeps n0 s0 s) (hm : Keeps.sub 0x1c00000a40004 n0 = true) :
    Keeps n0 s0 (State.subscribeReq s f) := by
  refine Keeps.step hK ?_ hm
  clear hK hm
  unfold State.subscribeReq
  repeat' first
    | with_reducible exact Keeps.refl _ _
    | with_reducible assumption
    | (extract_lets +onlyGivenNames -underBinder x; (with_reducible refine Keeps.cut (v := x) ?_ (fun hx => ?_)); subst x; rotate_left; clear_value x; rotate_right)
    | (extract_lets +onlyGivenNames -underBinder x; clear_value x)
    | ((with_reducible apply State.answer_keeps); (case hm => exact rfl))
    | ((with_reducible apply State.setSubs_keeps); (case hm => exact rfl))
    | ((with_reducible apply State.noteApplied_keeps); (case hm => exact rfl))
    | (with_reducible refine Keeps.ofP2 (by assumption) ?_)
    | (with_reducible refine Keeps.ofP1 (by assumption) ?_)
    | (with_reducible refine Keeps.ofP3 (by assumption) ?_)
    | split
    | (with_reducible refine Keeps.leaf ?_ (h_dir := Keeps.chg (by decide)))
    | (dsimp only)

theorem State.unsubscribeReq_keeps {n0 : Nat} {s0 : State} {s : State} {f : List Byte} (hK : Keeps n0 s0 s) (hm : Keeps.sub 0x1c00000a40004 n0 = true) :
    Keeps n0 s0 (State.unsubscribeReq s f) := by
  refine Keeps.step hK ?_ hm
  clear hK hm
  unfold State.unsubscribeReq
  repeat' first
    | with_reducible exact Keeps.refl _ _
    | with_reducible assumption
    | (extract_lets +onlyGivenNames -underBinder x; (with_reducible refine Keeps.cut (v := x) ?_ (fun hx => ?_)); subst x; rotate_left; clear_value x; rotate_right)
    | (extract_lets +onlyGivenNames -underBinder x; clear_value x)
    | ((with_reducible apply State.answer_keeps); (case hm => exact rfl))
    | ((with_reducible apply State.setSubs_keeps); (case hm => exact rfl))
    | ((with_reducible apply State.noteApplied_keeps); (case hm => exact rfl))
    | split
    | (dsimp only)

theorem State.admPut_keeps {n0 : Nat} {s0 : State} {s : State} {src : Nat} {stream : Nat} {n : Nat} {h : Nat} (hK : Keeps n0 s0 s) (hm : Keeps.sub 0x80 n0 = true) :
    Keeps n0 s0 (State.admPut s src stream n h) := by
  refine Keeps.step hK ?_ hm
  clear hK hm
  unfold State.admPut
  repeat' first
    | with_reducible exact Keeps.refl _ _
    | with_reducible assumption
    | (with_reducible refine Keeps.leaf ?_ (h_lath := Keeps.chg (by decide)) (i6 := (fun h => by first | exact h | (simp only; first | omega | (simp; omega) | (simp; done)))))
    | (dsimp only)

theorem State.streamReq_keeps {n0 : Nat} {s0 : State} {s : State} {p : Nat} {f : List Byte} (hK : Keeps n0 s0 s) (hm : Keeps.sub 0x1c00000840084 n0 = true) :
    Keeps n0 s0 (State.streamReq s p f) := by
  refine Keeps.step hK ?_ hm
  clear hK hm
  unfold State.streamReq
  repeat' first
    | with_reducible exact Keeps.refl _ _
    | with_reducible assumption
    | (extract_lets +onlyGivenNames -underBinder x; (with_reducible refine Keeps.cut (v := x) ?_ (fun hx => ?_)); subst x; rotate_left; clear_value x; rotate_right)
    | (extract_lets +onlyGivenNames -underBinder x; (have hfn : (_ → _) := x; clear hfn); subst x; dsimp only)
    | (extract_lets +onlyGivenNames -underBinder x; clear_value x)
    | ((with_reducible apply State.updDlv_keeps); (case hm => exact rfl))
    | ((with_reducible apply State.answer_keeps); (case hm => exact rfl))
    | ((with_reducible apply State.transitCount_keeps); (case hm => exact rfl))
    | ((with_reducible apply State.admPut_keeps); (case hm => exact rfl))
    | ((with_reducible apply State.sendOn_keeps); (case hm => exact rfl))
    | ((with_reducible apply State.noteApplied_keeps); (case hm => exact rfl))
    | (with_reducible refine Keeps.ofP2 (by assumption) ?_)
    | (with_reducible refine Keeps.ofP1 (by assumption) ?_)
    | (with_reducible refine Keeps.ofP3 (by assumption) ?_)
    | split
    | (dsimp only)

theorem State.streamRel_keeps {n0 : Nat} {s0 : State} {s : State} {p : Nat} {f : List Byte} (hK : Keeps n0 s0 s) (hm : Keeps.sub 0x1c00000840084 n0 = true) :
    Keeps n0 s0 (State.streamRel s p f) := by
  refine Keeps.step hK ?_ hm
  clear hK hm
  unfold State.streamRel
  repeat' first
    | with_reducible exact Keeps.refl _ _
    | with_reducible assumption
    | (extract_lets +onlyGivenNames -underBinder x; (with_reducible refine Keeps.cut (v := x) ?_ (fun hx => ?_)); subst x; rotate_left; clear_value x; rotate_right)
    | (extract_lets +onlyGivenNames -underBinder x; subst x)
    | ((with_reducible apply State.updDlv_keeps); (case hm => exact rfl))
    | ((with_reducible apply State.bump_keeps); (case hm => exact rfl))
    | ((with_reducible apply State.answer_keeps); (case hm => exact rfl))
    | ((with_reducible apply State.transitCount_keeps); (case hm => exact rfl))
    | ((with_reducible apply State.sendOn_keeps); (case hm => exact rfl))
    | ((with_reducible apply State.noteApplied_keeps); (case hm => exact rfl))
    | split
    | (with_reducible refine Keeps.leaf ?_ (h_lath := Keeps.chg (by decide)) (i6 := (fun h => by first | exact h | (simp only; first | omega | (simp; omega) | (simp; done)))))
    | (dsimp only)

theorem State.streamLost_keeps {n0 : Nat} {s0 : State} {s : State} {f : List Byte} (hK : Keeps n0 s0 s) (hm : Keeps.sub 0x1c00000840004 n0 = true) :
    Keeps n0 s0 (State.streamLost s f) := by
  refine Keeps.step hK ?_ hm
  clear hK hm
  unfold State.streamLost
  repeat' first
    | with_reducible exact Keeps.refl _ _
    | with_reducible assumption
    | (extract_lets +onlyGivenNames -underBinder x; (with_reducible refine Keeps.cut (v := x) ?_ (fun hx => ?_)); subst x; rotate_left; clear_value x; rotate_right)
    | (extract_lets +onlyGivenNames -underBinder x; clear_value x)
    | ((with_reducible apply State.seekAdmission_keeps); (case hm => exact rfl))
    | ((with_reducible apply State.noGuarantee_keeps); (case hm => exact rfl))
    | split
    | (dsimp only)

theorem State.pathChange_keeps {n0 : Nat} {s0 : State} {s : State} (hK : Keeps n0 s0 s) (hm : Keeps.sub 0x1c00000840004 n0 = true) :
    Keeps n0 s0 (State.pathChange s) := by
  refine Keeps.step hK ?_ hm
  clear hK hm
  unfold State.pathChange
  repeat' first
    | with_reducible exact Keeps.refl _ _
    | with_reducible assumption
    | (extract_lets +onlyGivenNames -underBinder x; (with_reducible refine Keeps.cut (v := x) ?_ (fun hx => ?_)); subst x; rotate_left; clear_value x; rotate_right)
    | (extract_lets +onlyGivenNames -underBinder x; (have hfn : (_ → _) := x; clear hfn); subst x; dsimp only)
    | (extract_lets +onlyGivenNames -underBinder x; clear_value x)
    | ((with_reducible apply State.updDlv_keeps); (case hm => exact rfl))
    | ((with_reducible apply State.sendTo_keeps); (case hm => exact rfl))
    | ((with_reducible apply State.seekAdmission_keeps); (case hm => exact rfl))
    | ((with_reducible apply State.noGuarantee_keeps); (case hm => exact rfl))
    | ((with_reducible apply State.transitCount_keeps); (case hm => exact rfl))
    | (with_reducible refine Keeps.fold _ _ ?_ (fun u b hu => ?_))
    | split
    | (dsimp only)

theorem State.transitExpire_keeps {n0 : Nat} {s0 : State} {s : State} (hK : Keeps n0 s0 s) (hm : Keeps.sub 0x1000000000006 n0 = true) :
    Keeps n0 s0 (State.transitExpire s) := by
  refine Keeps.step hK ?_ hm
  clear hK hm
  unfold State.transitExpire
  repeat' first
    | with_reducible exact Keeps.refl _ _
    | with_reducible assumption
    | (extract_lets +onlyGivenNames -underBinder x; (with_reducible refine Keeps.cut (v := x) ?_ (fun hx => ?_)); subst x; rotate_left; clear_value x; rotate_right)
    | (extract_lets +onlyGivenNames -underBinder x; clear_value x)
    | ((with_reducible apply State.updDlv_keeps); (case hm => exact rfl))
    | ((with_reducible apply State.at__keeps); (case hm => exact rfl))
    | ((with_reducible apply State.transitCount_keeps); (case hm => exact rfl))
    | (with_reducible refine Keeps.ofP2 (by assumption) ?_)
    | (with_reducible refine Keeps.ofP1 (by assumption) ?_)
    | (with_reducible refine Keeps.ofP3 (by assumption) ?_)
    | split
    | (dsimp only)

theorem State.admExpire_keeps {n0 : Nat} {s0 : State} {s : State} (hK : Keeps n0 s0 s) (hm : Keeps.sub 0x82 n0 = true) :
    Keeps n0 s0 (State.admExpire s) := by
  refine Keeps.step hK ?_ hm
  clear hK hm
  unfold State.admExpire
  repeat' first
    | with_reducible exact Keeps.refl _ _
    | with_reducible assumption
    | (extract_lets +onlyGivenNames -underBinder x; (with_reducible refine Keeps.cut (v := x) ?_ (fun hx => ?_)); subst x; rotate_left; clear_value x; rotate_right)
    | (extract_lets +onlyGivenNames -underBinder x; subst x)
    | ((with_reducible apply State.at__keeps); (case hm => exact rfl))
    | (with_reducible refine Keeps.ofP2 (by assumption) ?_)
    | (with_reducible refine Keeps.ofP1 (by assumption) ?_)
    | (with_reducible refine Keeps.ofP3 (by assumption) ?_)
    | split
    | (with_reducible refine Keeps.leaf ?_ (h_lath := Keeps.chg (by decide)) (i6 := (fun h => by first | exact h | (simp only; first | omega | (simp; omega) | (simp; done)))))
    | (dsimp only)

theorem State.xlatMax_keeps {n0 : Nat} {s0 : State} {s : State} (hK : Keeps n0 s0 s) (hm : Keeps.sub 0x4 n0 = true) :
    Keeps n0 s0 (State.xlatMax s) := by
  refine Keeps.step hK ?_ hm
  clear hK hm
  unfold State.xlatMax
  repeat' first
    | with_reducible exact Keeps.refl _ _
    | with_reducible assumption
    | (extract_lets +onlyGivenNames -underBinder x; (with_reducible refine Keeps.cut (v := x) ?_ (fun hx => ?_)); subst x; rotate_left; clear_value x; rotate_right)
    | (extract_lets +onlyGivenNames -underBinder x; clear_value x)
    | ((with_reducible apply State.set_keeps); (case hm => exact rfl))
    | (with_reducible refine Keeps.fold _ _ ?_ (fun u b hu => ?_))
    | split
    | (dsimp only)

theorem State.tReceived_keeps {n0 : Nat} {s0 : State} {s : State} {p : Nat} {f : List Byte} (hK : Keeps n0 s0 s) (hm : Keeps.sub 0x800000200004 n0 = true) :
    Keeps n0 s0 (State.tReceived s p f) := by
  refine Keeps.step hK ?_ hm
  clear hK hm
  unfold State.tReceived
  repeat' first
    | with_reducible exact Keeps.refl _ _
    | with_reducible assumption
    | (extract_lets +onlyGivenNames -underBinder x; (with_reducible refine Keeps.cut (v := x) ?_ (fun hx => ?_)); subst x; rotate_left; clear_value x; rotate_right)
    | (extract_lets +onlyGivenNames -underBinder x; clear_value x)
    | ((with_reducible apply State.modPort_keeps); (case hm => exact rfl))
    | ((with_reducible apply State.bump_keeps); (case hm => exact rfl))
    | ((with_reducible apply State.takePublish_keeps); (case hm => exact rfl))
    | (with_reducible refine Keeps.ofP2 (by assumption) ?_)
    | (with_reducible refine Keeps.ofP1 (by assumption) ?_)
    | (with_reducible refine Keeps.ofP3 (by assumption) ?_)
    | split
    | (dsimp only)

theorem State.tForward_keeps {n0 : Nat} {s0 : State} {s : State} (hK : Keeps n0 s0 s) (hm : Keeps.sub 0x800000000006 n0 = true) :
    Keeps n0 s0 (State.tForward s) := by
  refine Keeps.step hK ?_ hm
  clear hK hm
  unfold State.tForward
  repeat' first
    | with_reducible exact Keeps.refl _ _
    | with_reducible assumption
    | (extract_lets +onlyGivenNames -underBinder x; (with_reducible refine Keeps.cut (v := x) ?_ (fun hx => ?_)); subst x; rotate_left; clear_value x; rotate_right)
    | (extract_lets +onlyGivenNames -underBinder x; clear_value x)
    | ((with_reducible apply State.modPort_keeps); (case hm => exact rfl))
    | ((with_reducible apply State.bump_keeps); (case hm => exact rfl))
    | ((with_reducible apply State.at__keeps); (case hm => exact rfl))
    | ((with_reducible apply State.sendOn_keeps); (case hm => exact rfl))
    | (with_reducible refine Keeps.fold _ _ ?_ (fun u b hu => ?_))
    | (with_reducible refine Keeps.ofP2 (by assumption) ?_)
    | (with_reducible refine Keeps.ofP1 (by assumption) ?_)
    | (with_reducible refine Keeps.ofP3 (by assumption) ?_)
    | split
    | (dsimp only)

theorem State.tSlotStart_keeps {n0 : Nat} {s0 : State} {s : State} {p : Nat} {slot : Nat} (hK : Keeps n0 s0 s) (hm : Keeps.sub 0x800000000006 n0 = true) :
    Keeps n0 s0 (State.tSlotStart s p slot) := by
  refine Keeps.step hK ?_ hm
  clear hK hm
  unfold State.tSlotStart
  repeat' first
    | with_reducible exact Keeps.refl _ _
    | with_reducible assumption
    | (extract_lets +onlyGivenNames -underBinder x; (with_reducible refine Keeps.cut (v := x) ?_ (fun hx => ?_)); subst x; rotate_left; clear_value x; rotate_right)
    | (extract_lets +onlyGivenNames -underBinder x; clear_value x)
    | ((with_reducible apply State.modPort_keeps); (case hm => exact rfl))
    | ((with_reducible apply State.enqueue_keeps); (case hm => exact rfl))
    | ((with_reducible apply State.at__keeps); (case hm => exact rfl))
    | ((with_reducible apply State.bumpWrap_keeps); (case hm => exact rfl))
    | (with_reducible refine Keeps.ofP2 (by assumption) ?_)
    | (with_reducible refine Keeps.ofP1 (by assumption) ?_)
    | (with_reducible refine Keeps.ofP3 (by assumption) ?_)
    | split
    | (dsimp only)

theorem State.alarmReq_keeps {n0 : Nat} {s0 : State} {s : State} {f : List Byte} (hK : Keeps n0 s0 s) (hm : Keeps.sub 0x1c00000840004 n0 = true) :
    Keeps n0 s0 (State.alarmReq s f) := by
  refine Keeps.step hK ?_ hm
  clear hK hm
  unfold State.alarmReq
  repeat' first
    | with_reducible exact Keeps.refl _ _
    | with_reducible assumption
    | (extract_lets +onlyGivenNames -underBinder x; (with_reducible refine Keeps.cut (v := x) ?_ (fun hx => ?_)); subst x; rotate_left; clear_value x; rotate_right)
    | (extract_lets +onlyGivenNames -underBinder x; clear_value x)
    | ((with_reducible apply State.bump_keeps); (case hm => exact rfl))
    | ((with_reducible apply State.answer_keeps); (case hm => exact rfl))
    | ((with_reducible apply State.irq_keeps); (case hm => exact rfl))
    | ((with_reducible apply State.set_keeps); (case hm => exact rfl))
    | (dsimp only)

theorem State.setPeer_keeps {n0 : Nat} {s0 : State} {s : State} {f : List Byte} {q : Option Query} (hK : Keeps n0 s0 s) (hm : Keeps.sub 0x100000 n0 = true) :
    Keeps n0 s0 (State.setPeer s f q) := by
  refine Keeps.step hK ?_ hm
  clear hK hm
  unfold State.setPeer
  repeat' first
    | with_reducible exact Keeps.refl _ _
    | with_reducible assumption
    | (with_reducible refine Keeps.leaf ?_ (h_nst := Keeps.chg (by decide)))
    | (dsimp only)

theorem State.queryReq_keeps {n0 : Nat} {s0 : State} {s : State} {f : List Byte} (hK : Keeps n0 s0 s) (hm : Keeps.sub 0x1c00000940004 n0 = true) :
    Keeps n0 s0 (State.queryReq s f) := by
  refine Keeps.step hK ?_ hm
  clear hK hm
  unfold State.queryReq
  repeat' first
    | with_reducible exact Keeps.refl _ _
    | with_reducible assumption
    | (extract_lets +onlyGivenNames -underBinder x; (with_reducible refine Keeps.cut (v := x) ?_ (fun hx => ?_)); subst x; rotate_left; clear_value x; rotate_right)
    | (extract_lets +onlyGivenNames -underBinder x; clear_value x)
    | ((with_reducible apply State.answer_keeps); (case hm => exact rfl))
    | ((with_reducible apply State.setPeer_keeps); (case hm => exact rfl))
    | (with_reducible refine Keeps.ofP2 (by assumption) ?_)
    | (with_reducible refine Keeps.ofP1 (by assumption) ?_)
    | (with_reducible refine Keeps.ofP3 (by assumption) ?_)
    | split
    | (dsimp only)

theorem State.queryNextReq_keeps {n0 : Nat} {s0 : State} {s : State} {f : List Byte} (hK : Keeps n0 s0 s) (hm : Keeps.sub 0x1c00000940004 n0 = true) :
    Keeps n0 s0 (State.queryNextReq s f) := by
  refine Keeps.step hK ?_ hm
  clear hK hm
  unfold State.queryNextReq
  repeat' first
    | with_reducible exact Keeps.refl _ _
    | with_reducible assumption
    | (extract_lets +onlyGivenNames -underBinder x; (with_reducible refine Keeps.cut (v := x) ?_ (fun hx => ?_)); subst x; rotate_left; clear_value x; rotate_right)
    | (extract_lets +onlyGivenNames -underBinder x; clear_value x)
    | ((with_reducible apply State.answer_keeps); (case hm => exact rfl))
    | ((with_reducible apply State.setPeer_keeps); (case hm => exact rfl))
    | (with_reducible refine Keeps.ofP2 (by assumption) ?_)
    | (with_reducible refine Keeps.ofP1 (by assumption) ?_)
    | (with_reducible refine Keeps.ofP3 (by assumption) ?_)
    | split
    | (dsimp only)

theorem State.xferDone_keeps {n0 : Nat} {s0 : State} {s : State} {x : Xfer} {result : Nat} {rest : List Byte} (hK : Keeps n0 s0 s) (hm : Keeps.sub 0x1c00000840004 n0 = true) :
    Keeps n0 s0 (State.xferDone s x result rest) := by
  refine Keeps.step hK ?_ hm
  clear hK hm
  unfold State.xferDone
  repeat' first
    | with_reducible exact Keeps.refl _ _
    | with_reducible assumption
    | (extract_lets +onlyGivenNames -underBinder x; (with_reducible refine Keeps.cut (v := x) ?_ (fun hx => ?_)); subst x; rotate_left; clear_value x; rotate_right)
    | (extract_lets +onlyGivenNames -underBinder x; clear_value x)
    | ((with_reducible apply State.refusedStream_keeps); (case hm => exact rfl))
    | ((with_reducible apply State.pumpAlarms_keeps); (case hm => exact rfl))
    | ((with_reducible apply State.admitted_keeps); (case hm => exact rfl))
    | (with_reducible refine Keeps.ofP2 (by assumption) ?_)
    | (with_reducible refine Keeps.ofP1 (by assumption) ?_)
    | (with_reducible refine Keeps.ofP3 (by assumption) ?_)
    | split
    | (dsimp only)

theorem State.takeResponse_keeps {n0 : Nat} {s0 : State} {s : State} {f : List Byte} (hK : Keeps n0 s0 s) (hm : Keeps.sub 0x1c00000a40004 n0 = true) :
    Keeps n0 s0 (State.takeResponse s f) := by
  refine Keeps.step hK ?_ hm
  clear hK hm
  unfold State.takeResponse
  repeat' first
    | with_reducible exact Keeps.refl _ _
    | with_reducible assumption
    | (extract_lets +onlyGivenNames -underBinder x; (with_reducible refine Keeps.cut (v := x) ?_ (fun hx => ?_)); subst x; rotate_left; clear_value x; rotate_right)
    | (extract_lets +onlyGivenNames -underBinder x; clear_value x)
    | ((with_reducible apply State.updDlv_keeps); (case hm => exact rfl))
    | ((with_reducible apply State.bump_keeps); (case hm => exact rfl))
    | ((with_reducible apply State.endXfer_keeps); (case hm => exact rfl))
    | ((with_reducible apply State.xferDone_keeps); (case hm => exact rfl))
    | ((with_reducible apply State.lateDrop_keeps); (case hm => exact rfl))
    | ((with_reducible apply State.ingest_keeps); (case hm => exact rfl))
    | (with_reducible refine Keeps.ofP2 (by assumption) ?_)
    | (with_reducible refine Keeps.ofP1 (by assumption) ?_)
    | (with_reducible refine Keeps.ofP3 (by assumption) ?_)
    | split
    | (dsimp only)

theorem State.xferTimeout_keeps {n0 : Nat} {s0 : State} {s : State} {t : Nat} (hK : Keeps n0 s0 s) (hm : Keeps.sub 0x1c00000840006 n0 = true) :
    Keeps n0 s0 (State.xferTimeout s t) := by
  refine Keeps.step hK ?_ hm
  clear hK hm
  unfold State.xferTimeout
  repeat' first
    | with_reducible exact Keeps.refl _ _
    | with_reducible assumption
    | (extract_lets +onlyGivenNames -underBinder x; (with_reducible refine Keeps.cut (v := x) ?_ (fun hx => ?_)); subst x; rotate_left; clear_value x; rotate_right)
    | (extract_lets +onlyGivenNames -underBinder x; clear_value x)
    | ((with_reducible apply State.updDlv_keeps); (case hm => exact rfl))
    | ((with_reducible apply State.bump_keeps); (case hm => exact rfl))
    | ((with_reducible apply State.sendAttempt_keeps); (case hm => exact rfl))
    | ((with_reducible apply State.irq_keeps); (case hm => exact rfl))
    | ((with_reducible apply State.at__keeps); (case hm => exact rfl))
    | ((with_reducible apply State.endXfer_keeps); (case hm => exact rfl))
    | ((with_reducible apply State.xferDone_keeps); (case hm => exact rfl))
    | (with_reducible refine Keeps.ofP2 (by assumption) ?_)
    | (with_reducible refine Keeps.ofP1 (by assumption) ?_)
    | (with_reducible refine Keeps.ofP3 (by assumption) ?_)
    | split
    | (dsimp only)

theorem State.fabricCommit_keeps {n0 : Nat} {s0 : State} {s : State} (hK : Keeps n0 s0 s) (hm : Keeps.sub 0x1c00000a40004 n0 = true) :
    Keeps n0 s0 (State.fabricCommit s) := by
  refine Keeps.step hK ?_ hm
  clear hK hm
  unfold State.fabricCommit
  repeat' first
    | with_reducible exact Keeps.refl _ _
    | with_reducible assumption
    | (extract_lets +onlyGivenNames -underBinder x; (with_reducible refine Keeps.cut (v := x) ?_ (fun hx => ?_)); subst x; rotate_left; clear_value x; rotate_right)
    | (extract_lets +onlyGivenNames -underBinder x; clear_value x)
    | ((with_reducible apply State.updDlv_keeps); (case hm => exact rfl))
    | ((with_reducible apply State.seekAdmission_keeps); (case hm => exact rfl))
    | ((with_reducible apply State.noGuarantee_keeps); (case hm => exact rfl))
    | ((with_reducible apply State.xlatMax_keeps); (case hm => exact rfl))
    | ((with_reducible apply State.publish_keeps); (case hm => exact rfl))
    | ((with_reducible apply State.pumpAlarms_keeps); (case hm => exact rfl))
    | ((with_reducible apply State.fireStreams_keeps); (case hm => exact rfl))
    | ((with_reducible apply State.subscribeNew_keeps); (case hm => exact rfl))
    | (with_reducible refine Keeps.fold _ _ ?_ (fun u b hu => ?_))
    | (with_reducible refine Keeps.ofP2 (by assumption) ?_)
    | (with_reducible refine Keeps.ofP1 (by assumption) ?_)
    | (with_reducible refine Keeps.ofP3 (by assumption) ?_)
    | split
    | (dsimp only)

theorem State.applyFrame_keeps {n0 : Nat} {s0 : State} {s : State} {p : Nat} {f : List Byte} (hK : Keeps n0 s0 s) (hm : Keeps.sub 0x1c00200b42084 n0 = true) :
    Keeps n0 s0 (State.applyFrame s p f) := by
  refine Keeps.step hK ?_ hm
  clear hK hm
  unfold State.applyFrame
  repeat' first
    | with_reducible exact Keeps.refl _ _
    | with_reducible assumption
    | (extract_lets +onlyGivenNames -underBinder x; (with_reducible refine Keeps.cut (v := x) ?_ (fun hx => ?_)); subst x; rotate_left; clear_value x; rotate_right)
    | (extract_lets +onlyGivenNames -underBinder x; clear_value x)
    | ((with_reducible apply State.takePublish_keeps); (case hm => exact rfl))
    | ((with_reducible apply State.tReceived_keeps); (case hm => exact rfl))
    | ((with_reducible apply State.queryReq_keeps); (case hm => exact rfl))
    | ((with_reducible apply State.takeResponse_keeps); (case hm => exact rfl))
    | ((with_reducible apply State.streamReq_keeps); (case hm => exact rfl))
    | ((with_reducible apply State.streamLost_keeps); (case hm => exact rfl))
    | ((with_reducible apply State.streamRel_keeps); (case hm => exact rfl))
    | ((with_reducible apply State.queryNextReq_keeps); (case hm => exact rfl))
    | ((with_reducible apply State.subscribeReq_keeps); (case hm => exact rfl))
    | ((with_reducible apply State.gate_keeps); (case hm => exact rfl))
    | ((with_reducible apply State.writeReq_keeps); (case hm => exact rfl))
    | ((with_reducible apply State.alarmReq_keeps); (case hm => exact rfl))
    | ((with_reducible apply State.unsubscribeReq_keeps); (case hm => exact rfl))
    | ((with_reducible apply State.readReq_keeps); (case hm => exact rfl))
    | (with_reducible refine Keeps.ofP2 (by assumption) ?_)
    | (with_reducible refine Keeps.ofP1 (by assumption) ?_)
    | (with_reducible refine Keeps.ofP3 (by assumption) ?_)
    | split
    | (dsimp only)

theorem State.alsoOn_keeps {n0 : Nat} {s0 : State} {s : State} {p : Nat} {f : List Byte} (hK : Keeps n0 s0 s) (hm : Keeps.sub 0x800000000004 n0 = true) :
    Keeps n0 s0 (State.alsoOn s p f) := by
  refine Keeps.step hK ?_ hm
  clear hK hm
  unfold State.alsoOn
  repeat' first
    | with_reducible exact Keeps.refl _ _
    | with_reducible assumption
    | ((with_reducible apply State.sendOn_keeps); (case hm => exact rfl))
    | split
    | (dsimp only)

theorem State.rxFrame_keeps {n0 : Nat} {s0 : State} {s : State} {p : Nat} {f : List Byte} (hK : Keeps n0 s0 s) (hm : Keeps.sub 0x1c00200b42084 n0 = true) :
    Keeps n0 s0 (State.rxFrame s p f) := by
  refine Keeps.step hK ?_ hm
  clear hK hm
  unfold State.rxFrame
  repeat' first
    | with_reducible exact Keeps.refl _ _
    | with_reducible assumption
    | (extract_lets +onlyGivenNames -underBinder x; (with_reducible refine Keeps.cut (v := x) ?_ (fun hx => ?_)); subst x; rotate_left; clear_value x; rotate_right)
    | (extract_lets +onlyGivenNames -underBinder x; clear_value x)
    | ((with_reducible apply State.takeIn_keeps); (case hm => exact rfl))
    | ((with_reducible apply State.levCheck_keeps); (case hm => exact rfl))
    | ((with_reducible apply State.sendResp_keeps); (case hm => exact rfl))
    | ((with_reducible apply State.alsoOn_keeps); (case hm => exact rfl))
    | ((with_reducible apply State.applyFrame_keeps); (case hm => exact rfl))
    | (with_reducible refine Keeps.ofP2 (by assumption) ?_)
    | (with_reducible refine Keeps.ofP1 (by assumption) ?_)
    | (with_reducible refine Keeps.ofP3 (by assumption) ?_)
    | split
    | (dsimp only)

theorem State.rxKind_keeps {n0 : Nat} {s0 : State} {s : State} {p : Nat} {f : List Byte} {vc : Nat} {k : Nat} (hK : Keeps n0 s0 s) (hm : Keeps.sub 0x1c00200b42084 n0 = true) :
    Keeps n0 s0 (State.rxKind s p f vc k) := by
  refine Keeps.step hK ?_ hm
  clear hK hm
  unfold State.rxKind
  repeat' first
    | with_reducible exact Keeps.refl _ _
    | with_reducible assumption
    | ((with_reducible apply State.rxFrame_keeps); (case hm => exact rfl))
    | ((with_reducible apply State.discard_keeps); (case hm => exact rfl))
    | split
    | (dsimp only)

theorem State.rxTFrame_keeps {n0 : Nat} {s0 : State} {s : State} {p : Nat} {f : List Byte} (hK : Keeps n0 s0 s) (hm : Keeps.sub 0x1c00200b42084 n0 = true) :
    Keeps n0 s0 (State.rxTFrame s p f) := by
  refine Keeps.step hK ?_ hm
  clear hK hm
  unfold State.rxTFrame
  repeat' first
    | with_reducible exact Keeps.refl _ _
    | with_reducible assumption
    | ((with_reducible apply State.rxFrame_keeps); (case hm => exact rfl))
    | ((with_reducible apply State.discard_keeps); (case hm => exact rfl))
    | split
    | (dsimp only)

theorem State.rxPath_keeps {n0 : Nat} {s0 : State} {s : State} {p : Nat} {f : List Byte} {k : Nat} (hK : Keeps n0 s0 s) (hm : Keeps.sub 0x1c00200b42084 n0 = true) :
    Keeps n0 s0 (State.rxPath s p f k) := by
  refine Keeps.step hK ?_ hm
  clear hK hm
  unfold State.rxPath
  repeat' first
    | with_reducible exact Keeps.refl _ _
    | with_reducible assumption
    | ((with_reducible apply State.rxFrame_keeps); (case hm => exact rfl))
    | ((with_reducible apply State.discard_keeps); (case hm => exact rfl))
    | split
    | (dsimp only)

theorem State.rxForward_keeps {n0 : Nat} {s0 : State} {s : State} {p : Nat} {f : List Byte} (hK : Keeps n0 s0 s) (hm : Keeps.sub 0x1c00200b42084 n0 = true) :
    Keeps n0 s0 (State.rxForward s p f) := by
  refine Keeps.step hK ?_ hm
  clear hK hm
  unfold State.rxForward
  repeat' first
    | with_reducible exact Keeps.refl _ _
    | with_reducible assumption
    | (extract_lets +onlyGivenNames -underBinder x; (with_reducible refine Keeps.cut (v := x) ?_ (fun hx => ?_)); subst x; rotate_left; clear_value x; rotate_right)
    | (extract_lets +onlyGivenNames -underBinder x; clear_value x)
    | ((with_reducible apply State.takeIn_keeps); (case hm => exact rfl))
    | ((with_reducible apply State.rxFrame_keeps); (case hm => exact rfl))
    | ((with_reducible apply State.discard_keeps); (case hm => exact rfl))
    | ((with_reducible apply State.forward_keeps); (case hm => exact rfl))
    | (with_reducible refine Keeps.ofP2 (by assumption) ?_)
    | (with_reducible refine Keeps.ofP1 (by assumption) ?_)
    | (with_reducible refine Keeps.ofP3 (by assumption) ?_)
    | split
    | (dsimp only)

end Sys2Proof.Machine
end

