-- ==== Sys2Proof/Laws/KeepsSched.lean ====
section
/-! SUPPORT. What each operation of Machine/Sched.lean may touch (Laws/Keeps.lean): the mask lists the fields it may change,
and the invariant of the block is kept. -/
set_option Elab.async false
set_option linter.all false
namespace Sys2Proof.Machine

theorem State.setZm_keeps {n0 : Nat} {s0 : State} {s : State} {z : Nat} {lv : Nat} {v : Option Nat} (hK : Keeps n0 s0 s) (hm : Keeps.sub 0x1000000 n0 = true) :
    Keeps n0 s0 (State.setZm s z lv v) := by
  refine Keeps.step hK ?_ hm
  clear hK hm
  unfold State.setZm
  repeat' first
    | with_reducible exact Keeps.refl _ _
    | with_reducible assumption
    | (with_reducible refine Keeps.leaf ?_ (h_eng := Keeps.chg (by decide)))
    | (dsimp only)

theorem State.schWrite_keeps {n0 : Nat} {s0 : State} {s : State} {tab : Map Word} {k : Nat} {w : Written} {skip : List Nat} (hK : Keeps n0 s0 s) (hm : Keeps.sub 0x1031800 n0 = true) :
    Keeps n0 s0 (State.schWrite s tab k w skip) := by
  refine Keeps.step hK ?_ hm
  clear hK hm
  unfold State.schWrite
  repeat' first
    | with_reducible exact Keeps.refl _ _
    | with_reducible assumption
    | (extract_lets +onlyGivenNames -underBinder x; (with_reducible refine Keeps.cut (v := x) ?_ (fun hx => ?_)); subst x; rotate_left; clear_value x; rotate_right)
    | (extract_lets +onlyGivenNames -underBinder x; clear_value x)
    | ((with_reducible apply State.stage_keeps); (case hm => exact rfl))
    | ((with_reducible apply State.setZm_keeps); (case hm => exact rfl))
    | ((with_reducible apply State.produce_keeps); (case hm => exact rfl))
    | (with_reducible refine Keeps.fold _ _ ?_ (fun u b hu => ?_))
    | (with_reducible refine Keeps.ofP2 (by assumption) ?_)
    | (with_reducible refine Keeps.ofP1 (by assumption) ?_)
    | (with_reducible refine Keeps.ofP3 (by assumption) ?_)
    | split
    | (dsimp only)

theorem State.schMark_keeps {n0 : Nat} {s0 : State} {s : State} {k : Nat} (hK : Keeps n0 s0 s) (hm : Keeps.sub 0x18000000 n0 = true) :
    Keeps n0 s0 (State.schMark s k) := by
  refine Keeps.step hK ?_ hm
  clear hK hm
  unfold State.schMark
  repeat' first
    | with_reducible exact Keeps.refl _ _
    | with_reducible assumption
    | ((with_reducible apply State.later_keeps); (case hm => exact rfl))
    | (dsimp only)

theorem State.setSch_keeps {n0 : Nat} {s0 : State} {s : State} {f : SchSt → SchSt} (hK : Keeps n0 s0 s) (hm : Keeps.sub 0x1000000 n0 = true) :
    Keeps n0 s0 (State.setSch s f) := by
  refine Keeps.step hK ?_ hm
  clear hK hm
  unfold State.setSch
  repeat' first
    | with_reducible exact Keeps.refl _ _
    | with_reducible assumption
    | (with_reducible refine Keeps.leaf ?_ (h_eng := Keeps.chg (by decide)))
    | (dsimp only)

theorem State.schOne_keeps {n0 : Nat} {s0 : State} {s : State} {tab : Map Word} {force : Bool} {t : Int} {k : Nat} (hK : Keeps n0 s0 s) (hm : Keeps.sub 0x19031800 n0 = true) :
    Keeps n0 s0 (State.schOne s tab force t k) := by
  refine Keeps.step hK ?_ hm
  clear hK hm
  unfold State.schOne
  repeat' first
    | with_reducible exact Keeps.refl _ _
    | with_reducible assumption
    | (extract_lets +onlyGivenNames -underBinder x; (with_reducible refine Keeps.cut (v := x) ?_ (fun hx => ?_)); subst x; rotate_left; clear_value x; rotate_right)
    | (extract_lets +onlyGivenNames -underBinder x; (have hfn : (_ → _) := x; clear hfn); subst x; dsimp only)
    | (extract_lets +onlyGivenNames -underBinder x; clear_value x)
    | ((with_reducible apply State.laterB_keeps); (case hm => exact rfl))
    | ((with_reducible apply State.setZm_keeps); (case hm => exact rfl))
    | ((with_reducible apply State.schWrite_keeps); (case hm => exact rfl))
    | ((with_reducible apply State.setSch_keeps); (case hm => exact rfl))
    | ((with_reducible apply State.schMark_keeps); (case hm => exact rfl))
    | ((with_reducible apply State.laterSeti_keeps); (case hm => exact rfl))
    | ((with_reducible apply State.laterSet_keeps); (case hm => exact rfl))
    | (with_reducible refine Keeps.fold _ _ ?_ (fun u b hu => ?_))
    | (with_reducible refine Keeps.ofP2 (by assumption) ?_)
    | (with_reducible refine Keeps.ofP1 (by assumption) ?_)
    | (with_reducible refine Keeps.ofP3 (by assumption) ?_)
    | split
    | (dsimp only)

theorem State.schFaces_keeps {n0 : Nat} {s0 : State} {s : State} (hK : Keeps n0 s0 s) (hm : Keeps.sub 0x4 n0 = true) :
    Keeps n0 s0 (State.schFaces s) := by
  refine Keeps.step hK ?_ hm
  clear hK hm
  unfold State.schFaces
  repeat' first
    | with_reducible exact Keeps.refl _ _
    | with_reducible assumption
    | (extract_lets +onlyGivenNames -underBinder x; (with_reducible refine Keeps.cut (v := x) ?_ (fun hx => ?_)); subst x; rotate_left; clear_value x; rotate_right)
    | (extract_lets +onlyGivenNames -underBinder x; clear_value x)
    | ((with_reducible apply State.set_keeps); (case hm => exact rfl))
    | (dsimp only)

theorem State.schedFrame_keeps {n0 : Nat} {s0 : State} {s : State} (hK : Keeps n0 s0 s) (hm : Keeps.sub 0x119031804 n0 = true) :
    Keeps n0 s0 (State.schedFrame s) := by
  refine Keeps.step hK ?_ hm
  clear hK hm
  unfold State.schedFrame
  repeat' first
    | with_reducible exact Keeps.refl _ _
    | with_reducible assumption
    | (extract_lets +onlyGivenNames -underBinder x; (with_reducible refine Keeps.cut (v := x) ?_ (fun hx => ?_)); subst x; rotate_left; clear_value x; rotate_right)
    | (extract_lets +onlyGivenNames -underBinder x; clear_value x)
    | ((with_reducible apply State.laterB_keeps); (case hm => exact rfl))
    | ((with_reducible apply State.schFaces_keeps); (case hm => exact rfl))
    | ((with_reducible apply State.schOne_keeps); (case hm => exact rfl))
    | ((with_reducible apply State.setSch_keeps); (case hm => exact rfl))
    | ((with_reducible apply State.later_keeps); (case hm => exact rfl))
    | (with_reducible refine Keeps.fold _ _ ?_ (fun u b hu => ?_))
    | (with_reducible refine Keeps.ofP2 (by assumption) ?_)
    | (with_reducible refine Keeps.ofP1 (by assumption) ?_)
    | (with_reducible refine Keeps.ofP3 (by assumption) ?_)
    | split
    | (with_reducible refine Keeps.leaf ?_ (h_tab := Keeps.chg (by decide)))
    | (dsimp only)

theorem State.schedApply_keeps {n0 : Nat} {s0 : State} {s : State} {isLocal : Nat → Bool} (hK : Keeps n0 s0 s) (hm : Keeps.sub 0x100000004 n0 = true) :
    Keeps n0 s0 (State.schedApply s isLocal) := by
  refine Keeps.step hK ?_ hm
  clear hK hm
  unfold State.schedApply
  repeat' first
    | with_reducible exact Keeps.refl _ _
    | with_reducible assumption
    | (extract_lets +onlyGivenNames -underBinder x; (with_reducible refine Keeps.cut (v := x) ?_ (fun hx => ?_)); subst x; rotate_left; clear_value x; rotate_right)
    | (extract_lets +onlyGivenNames -underBinder x; (have hfn : (_ → _) := x; clear hfn); subst x; dsimp only)
    | (extract_lets +onlyGivenNames -underBinder x; clear_value x)
    | ((with_reducible apply State.setB_keeps); (case hm => exact rfl))
    | ((with_reducible apply State.irq_keeps); (case hm => exact rfl))
    | ((with_reducible apply State.blkErr_keeps); (case hm => exact rfl))
    | ((with_reducible apply State.set_keeps); (case hm => exact rfl))
    | (with_reducible refine Keeps.ofP2 (by assumption) ?_)
    | (with_reducible refine Keeps.ofP1 (by assumption) ?_)
    | (with_reducible refine Keeps.ofP3 (by assumption) ?_)
    | split
    | (with_reducible refine Keeps.leaf ?_ (h_tab := Keeps.chg (by decide)))
    | (dsimp only)

theorem State.schSwitch_keeps {n0 : Nat} {s0 : State} {s : State} {tab : Map Word} (hK : Keeps n0 s0 s) (hm : Keeps.sub 0x101000004 n0 = true) :
    Keeps n0 s0 (State.schSwitch s tab) := by
  refine Keeps.step hK ?_ hm
  clear hK hm
  unfold State.schSwitch
  repeat' first
    | with_reducible exact Keeps.refl _ _
    | with_reducible assumption
    | (extract_lets +onlyGivenNames -underBinder x; (with_reducible refine Keeps.cut (v := x) ?_ (fun hx => ?_)); subst x; rotate_left; clear_value x; rotate_right)
    | (extract_lets +onlyGivenNames -underBinder x; clear_value x)
    | ((with_reducible apply State.setB_keeps); (case hm => exact rfl))
    | ((with_reducible apply State.schFaces_keeps); (case hm => exact rfl))
    | ((with_reducible apply State.set_keeps); (case hm => exact rfl))
    | ((with_reducible apply State.setSch_keeps); (case hm => exact rfl))
    | (with_reducible refine Keeps.ofP2 (by assumption) ?_)
    | (with_reducible refine Keeps.ofP1 (by assumption) ?_)
    | (with_reducible refine Keeps.ofP3 (by assumption) ?_)
    | split
    | (with_reducible refine Keeps.leaf ?_ (h_tab := Keeps.chg (by decide)))
    | (dsimp only)

end Sys2Proof.Machine
end

