-- ==== Sys2Proof/Laws/KeepsTme.lean ====
section
/-! SUPPORT. What each operation of Machine/Tme.lean may touch (Laws/Keeps.lean): the mask lists the fields it may change,
and the invariant of the block is kept. -/
set_option Elab.async false
set_option linter.all false
namespace Sys2Proof.Machine

theorem State.setTme_keeps {n0 : Nat} {s0 : State} {s : State} {z : Nat} {x : TmeSt} (hK : Keeps n0 s0 s) (hm : Keeps.sub 0x1000000 n0 = true) :
    Keeps n0 s0 (State.setTme s z x) := by
  refine Keeps.step hK ?_ hm
  clear hK hm
  unfold State.setTme
  repeat' first
    | with_reducible exact Keeps.refl _ _
    | with_reducible assumption
    | (with_reducible refine Keeps.leaf ?_ (h_eng := Keeps.chg (by decide)))
    | (dsimp only)

theorem State.tmeCount_keeps {n0 : Nat} {s0 : State} {s : State} (hK : Keeps n0 s0 s) (hm : Keeps.sub 0x18000000 n0 = true) :
    Keeps n0 s0 (State.tmeCount s) := by
  refine Keeps.step hK ?_ hm
  clear hK hm
  unfold State.tmeCount
  repeat' first
    | with_reducible exact Keeps.refl _ _
    | with_reducible assumption
    | ((with_reducible apply State.later_keeps); (case hm => exact rfl))
    | (dsimp only)

theorem State.anomClear_keeps {n0 : Nat} {s0 : State} {s : State} {x : TmeSt} (hK : Keeps n0 s0 s) (hm : Keeps.sub 0x18000000 n0 = true) :
    Keeps n0 s0 (State.anomClear s x).2 := by
  refine Keeps.step hK ?_ hm
  clear hK hm
  unfold State.anomClear
  repeat' first
    | with_reducible exact Keeps.refl _ _
    | with_reducible assumption
    | ((with_reducible apply State.tmeCount_keeps); (case hm => exact rfl))
    | ((with_reducible apply State.later_keeps); (case hm => exact rfl))
    | (dsimp only)

theorem State.tmeUpdate_keeps {n0 : Nat} {s0 : State} {s : State} {z : Nat} {x : TmeSt} {phi : List Nat} {e : Nat} (hK : Keeps n0 s0 s) (hm : Keeps.sub 0x18000000 n0 = true) :
    Keeps n0 s0 (State.tmeUpdate s z x phi e).2 := by
  refine Keeps.step hK ?_ hm
  clear hK hm
  unfold State.tmeUpdate
  repeat' first
    | with_reducible exact Keeps.refl _ _
    | with_reducible assumption
    | (extract_lets +onlyGivenNames -underBinder x; (with_reducible refine Keeps.cut (v := x) ?_ (fun hx => ?_)); subst x; rotate_left; clear_value x; rotate_right)
    | (extract_lets +onlyGivenNames -underBinder x; clear_value x)
    | ((with_reducible apply State.tmeCount_keeps); (case hm => exact rfl))
    | split
    | (dsimp only)

theorem State.tmeIdentify_keeps {n0 : Nat} {s0 : State} {s : State} {z : Nat} {x : TmeSt} {phi : List Nat} {e : Nat} (hK : Keeps n0 s0 s) (hm : Keeps.sub 0x18000000 n0 = true) :
    Keeps n0 s0 (State.tmeIdentify s z x phi e).2 := by
  refine Keeps.step hK ?_ hm
  clear hK hm
  unfold State.tmeIdentify
  repeat' first
    | with_reducible exact Keeps.refl _ _
    | with_reducible assumption
    | (extract_lets +onlyGivenNames -underBinder x; (with_reducible refine Keeps.cut (v := x) ?_ (fun hx => ?_)); subst x; rotate_left; clear_value x; rotate_right)
    | (extract_lets +onlyGivenNames -underBinder x; clear_value x)
    | ((with_reducible apply State.tmeUpdate_keeps); (case hm => exact rfl))
    | ((with_reducible apply State.anomClear_keeps); (case hm => exact rfl))
    | ((with_reducible apply State.later_keeps); (case hm => exact rfl))
    | (with_reducible refine Keeps.ofP2 (by assumption) ?_)
    | (with_reducible refine Keeps.ofP1 (by assumption) ?_)
    | (with_reducible refine Keeps.ofP3 (by assumption) ?_)
    | split
    | (dsimp only)

theorem State.tmePublish_keeps {n0 : Nat} {s0 : State} {s : State} {z : Nat} {x : TmeSt} (hK : Keeps n0 s0 s) (hm : Keeps.sub 0x30000 n0 = true) :
    Keeps n0 s0 (State.tmePublish s z x) := by
  refine Keeps.step hK ?_ hm
  clear hK hm
  unfold State.tmePublish
  repeat' first
    | with_reducible exact Keeps.refl _ _
    | with_reducible assumption
    | (extract_lets +onlyGivenNames -underBinder x; (with_reducible refine Keeps.cut (v := x) ?_ (fun hx => ?_)); subst x; rotate_left; clear_value x; rotate_right)
    | (extract_lets +onlyGivenNames -underBinder x; clear_value x)
    | ((with_reducible apply State.produce_keeps); (case hm => exact rfl))
    | (with_reducible refine Keeps.fold _ _ ?_ (fun u b hu => ?_))
    | split
    | (dsimp only)

theorem State.tmeStep_keeps {n0 : Nat} {s0 : State} {s : State} {z : Nat} (hK : Keeps n0 s0 s) (hm : Keeps.sub 0x19030000 n0 = true) :
    Keeps n0 s0 (State.tmeStep s z) := by
  refine Keeps.step hK ?_ hm
  clear hK hm
  unfold State.tmeStep
  repeat' first
    | with_reducible exact Keeps.refl _ _
    | with_reducible assumption
    | (extract_lets +onlyGivenNames -underBinder x; (with_reducible refine Keeps.cut (v := x) ?_ (fun hx => ?_)); subst x; rotate_left; clear_value x; rotate_right)
    | (extract_lets +onlyGivenNames -underBinder x; (have hfn : (_ → _) := x; clear hfn); subst x; dsimp only)
    | (extract_lets +onlyGivenNames -underBinder x; clear_value x)
    | ((with_reducible apply State.tmePublish_keeps); (case hm => exact rfl))
    | ((with_reducible apply State.tmeIdentify_keeps); (case hm => exact rfl))
    | ((with_reducible apply State.setTme_keeps); (case hm => exact rfl))
    | ((with_reducible apply State.later_keeps); (case hm => exact rfl))
    | (with_reducible refine Keeps.ofP2 (by assumption) ?_)
    | (with_reducible refine Keeps.ofP1 (by assumption) ?_)
    | (with_reducible refine Keeps.ofP3 (by assumption) ?_)
    | split
    | (dsimp only)

theorem State.tmeFaces_keeps {n0 : Nat} {s0 : State} {s : State} {z : Nat} (hK : Keeps n0 s0 s) (hm : Keeps.sub 0x18000000 n0 = true) :
    Keeps n0 s0 (State.tmeFaces s z) := by
  refine Keeps.step hK ?_ hm
  clear hK hm
  unfold State.tmeFaces
  repeat' first
    | with_reducible exact Keeps.refl _ _
    | with_reducible assumption
    | (extract_lets +onlyGivenNames -underBinder x; (with_reducible refine Keeps.cut (v := x) ?_ (fun hx => ?_)); subst x; rotate_left; clear_value x; rotate_right)
    | (extract_lets +onlyGivenNames -underBinder x; clear_value x)
    | ((with_reducible apply State.laterB_keeps); (case hm => exact rfl))
    | ((with_reducible apply State.laterSet_keeps); (case hm => exact rfl))
    | (dsimp only)

theorem State.tmeOutdoor_keeps {n0 : Nat} {s0 : State} {s : State} (hK : Keeps n0 s0 s) (hm : Keeps.sub 0x19000000 n0 = true) :
    Keeps n0 s0 (State.tmeOutdoor s) := by
  refine Keeps.step hK ?_ hm
  clear hK hm
  unfold State.tmeOutdoor
  repeat' first
    | with_reducible exact Keeps.refl _ _
    | with_reducible assumption
    | (extract_lets +onlyGivenNames -underBinder x; (with_reducible refine Keeps.cut (v := x) ?_ (fun hx => ?_)); subst x; rotate_left; clear_value x; rotate_right)
    | (extract_lets +onlyGivenNames -underBinder x; clear_value x)
    | ((with_reducible apply State.laterB_keeps); (case hm => exact rfl))
    | split
    | (with_reducible refine Keeps.leaf ?_ (h_eng := Keeps.chg (by decide)))
    | (dsimp only)

theorem State.tmeNewStep_keeps {n0 : Nat} {s0 : State} {s : State} (hK : Keeps n0 s0 s) (hm : Keeps.sub 0x19000000 n0 = true) :
    Keeps n0 s0 (State.tmeNewStep s) := by
  refine Keeps.step hK ?_ hm
  clear hK hm
  unfold State.tmeNewStep
  repeat' first
    | with_reducible exact Keeps.refl _ _
    | with_reducible assumption
    | (extract_lets +onlyGivenNames -underBinder x; (with_reducible refine Keeps.cut (v := x) ?_ (fun hx => ?_)); subst x; rotate_left; clear_value x; rotate_right)
    | (extract_lets +onlyGivenNames -underBinder x; clear_value x)
    | ((with_reducible apply State.tmeCount_keeps); (case hm => exact rfl))
    | ((with_reducible apply State.setTme_keeps); (case hm => exact rfl))
    | (with_reducible refine Keeps.fold _ _ ?_ (fun u b hu => ?_))
    | split
    | (with_reducible refine Keeps.leaf ?_ (h_eng := Keeps.chg (by decide)))
    | (dsimp only)

theorem State.tmeZone_keeps {n0 : Nat} {s0 : State} {s : State} {now : Nat} {f : Nat} {k : Nat} {newMin : Bool} {z : Nat} (hK : Keeps n0 s0 s) (hm : Keeps.sub 0x19030000 n0 = true) :
    Keeps n0 s0 (State.tmeZone s now f k newMin z) := by
  refine Keeps.step hK ?_ hm
  clear hK hm
  unfold State.tmeZone
  repeat' first
    | with_reducible exact Keeps.refl _ _
    | with_reducible assumption
    | (extract_lets +onlyGivenNames -underBinder x; (with_reducible refine Keeps.cut (v := x) ?_ (fun hx => ?_)); subst x; rotate_left; clear_value x; rotate_right)
    | (extract_lets +onlyGivenNames -underBinder x; clear_value x)
    | ((with_reducible apply State.tmeStep_keeps); (case hm => exact rfl))
    | ((with_reducible apply State.tmeFaces_keeps); (case hm => exact rfl))
    | ((with_reducible apply State.anomClear_keeps); (case hm => exact rfl))
    | ((with_reducible apply State.setTme_keeps); (case hm => exact rfl))
    | ((with_reducible apply State.later_keeps); (case hm => exact rfl))
    | (with_reducible refine Keeps.ofP2 (by assumption) ?_)
    | (with_reducible refine Keeps.ofP1 (by assumption) ?_)
    | (with_reducible refine Keeps.ofP3 (by assumption) ?_)
    | split
    | (dsimp only)

theorem State.tmeFrame_keeps {n0 : Nat} {s0 : State} {s : State} (hK : Keeps n0 s0 s) (hm : Keeps.sub 0x19030000 n0 = true) :
    Keeps n0 s0 (State.tmeFrame s) := by
  refine Keeps.step hK ?_ hm
  clear hK hm
  unfold State.tmeFrame
  repeat' first
    | with_reducible exact Keeps.refl _ _
    | with_reducible assumption
    | (extract_lets +onlyGivenNames -underBinder x; (with_reducible refine Keeps.cut (v := x) ?_ (fun hx => ?_)); subst x; rotate_left; clear_value x; rotate_right)
    | (extract_lets +onlyGivenNames -underBinder x; clear_value x)
    | ((with_reducible apply State.tmeNewStep_keeps); (case hm => exact rfl))
    | ((with_reducible apply State.tmeZone_keeps); (case hm => exact rfl))
    | ((with_reducible apply State.tmeOutdoor_keeps); (case hm => exact rfl))
    | (with_reducible refine Keeps.fold _ _ ?_ (fun u b hu => ?_))
    | (with_reducible refine Keeps.leaf ?_ (h_eng := Keeps.chg (by decide)))
    | (dsimp only)

theorem State.tmeAccumulate_keeps {n0 : Nat} {s0 : State} {s : State} {z : Nat} {heat : Int} {cool : Int} {occupied : Bool} (hK : Keeps n0 s0 s) (hm : Keeps.sub 0x1000000 n0 = true) :
    Keeps n0 s0 (State.tmeAccumulate s z heat cool occupied) := by
  refine Keeps.step hK ?_ hm
  clear hK hm
  unfold State.tmeAccumulate
  repeat' first
    | with_reducible exact Keeps.refl _ _
    | with_reducible assumption
    | (extract_lets +onlyGivenNames -underBinder x; (with_reducible refine Keeps.cut (v := x) ?_ (fun hx => ?_)); subst x; rotate_left; clear_value x; rotate_right)
    | (extract_lets +onlyGivenNames -underBinder x; clear_value x)
    | ((with_reducible apply State.setTme_keeps); (case hm => exact rfl))
    | split
    | (dsimp only)

theorem State.tmeTakeCmds_keeps {n0 : Nat} {s0 : State} {s : State} (hK : Keeps n0 s0 s) (hm : Keeps.sub 0x4001000004 n0 = true) :
    Keeps n0 s0 (State.tmeTakeCmds s) := by
  refine Keeps.step hK ?_ hm
  clear hK hm
  unfold State.tmeTakeCmds
  repeat' first
    | with_reducible exact Keeps.refl _ _
    | with_reducible assumption
    | (extract_lets +onlyGivenNames -underBinder x; (with_reducible refine Keeps.cut (v := x) ?_ (fun hx => ?_)); subst x; rotate_left; clear_value x; rotate_right)
    | (extract_lets +onlyGivenNames -underBinder x; clear_value x)
    | ((with_reducible apply State.bump_keeps); (case hm => exact rfl))
    | ((with_reducible apply State.irq_keeps); (case hm => exact rfl))
    | ((with_reducible apply State.setTme_keeps); (case hm => exact rfl))
    | (with_reducible refine Keeps.fold _ _ ?_ (fun u b hu => ?_))
    | split
    | (with_reducible refine Keeps.leaf ?_ (h_tmeCmd := Keeps.chg (by decide)))
    | (dsimp only)

theorem State.tmeLoad_keeps {n0 : Nat} {s0 : State} {s : State} {z : Nat} (hK : Keeps n0 s0 s) (hm : Keeps.sub 0x1000000 n0 = true) :
    Keeps n0 s0 (State.tmeLoad s z) := by
  refine Keeps.step hK ?_ hm
  clear hK hm
  unfold State.tmeLoad
  repeat' first
    | with_reducible exact Keeps.refl _ _
    | with_reducible assumption
    | (extract_lets +onlyGivenNames -underBinder x; (with_reducible refine Keeps.cut (v := x) ?_ (fun hx => ?_)); subst x; rotate_left; clear_value x; rotate_right)
    | (extract_lets +onlyGivenNames -underBinder x; clear_value x)
    | ((with_reducible apply State.setTme_keeps); (case hm => exact rfl))
    | (with_reducible refine Keeps.ofP2 (by assumption) ?_)
    | (with_reducible refine Keeps.ofP1 (by assumption) ?_)
    | (with_reducible refine Keeps.ofP3 (by assumption) ?_)
    | split
    | (dsimp only)

theorem State.tmePowerUp_keeps {n0 : Nat} {s0 : State} {s : State} (hK : Keeps n0 s0 s) (hm : Keeps.sub 0x1000004 n0 = true) :
    Keeps n0 s0 (State.tmePowerUp s) := by
  refine Keeps.step hK ?_ hm
  clear hK hm
  unfold State.tmePowerUp
  repeat' first
    | with_reducible exact Keeps.refl _ _
    | with_reducible assumption
    | (extract_lets +onlyGivenNames -underBinder x; (with_reducible refine Keeps.cut (v := x) ?_ (fun hx => ?_)); subst x; rotate_left; clear_value x; rotate_right)
    | (extract_lets +onlyGivenNames -underBinder x; clear_value x)
    | ((with_reducible apply State.tmeLoad_keeps); (case hm => exact rfl))
    | ((with_reducible apply State.bump_keeps); (case hm => exact rfl))
    | ((with_reducible apply State.irq_keeps); (case hm => exact rfl))
    | (with_reducible refine Keeps.fold _ _ ?_ (fun u b hu => ?_))
    | (with_reducible refine Keeps.leaf ?_ (h_eng := Keeps.chg (by decide)))
    | (dsimp only)

theorem State.tmeSwitch_keeps {n0 : Nat} {s0 : State} {s : State} (hK : Keeps n0 s0 s) (hm : Keeps.sub 0x1000004 n0 = true) :
    Keeps n0 s0 (State.tmeSwitch s) := by
  refine Keeps.step hK ?_ hm
  clear hK hm
  unfold State.tmeSwitch
  repeat' first
    | with_reducible exact Keeps.refl _ _
    | with_reducible assumption
    | (extract_lets +onlyGivenNames -underBinder x; (with_reducible refine Keeps.cut (v := x) ?_ (fun hx => ?_)); subst x; rotate_left; clear_value x; rotate_right)
    | (extract_lets +onlyGivenNames -underBinder x; clear_value x)
    | ((with_reducible apply State.tmeLoad_keeps); (case hm => exact rfl))
    | ((with_reducible apply State.bump_keeps); (case hm => exact rfl))
    | ((with_reducible apply State.irq_keeps); (case hm => exact rfl))
    | ((with_reducible apply State.setTme_keeps); (case hm => exact rfl))
    | (with_reducible refine Keeps.fold _ _ ?_ (fun u b hu => ?_))
    | split
    | (with_reducible refine Keeps.leaf ?_ (h_eng := Keeps.chg (by decide)))
    | (dsimp only)

end Sys2Proof.Machine
end

