-- ==== Sys2Proof/Laws/KeepsZone.lean ====
section
/-! SUPPORT. What each operation of Machine/Zone.lean may touch (Laws/Keeps.lean): the mask lists the fields it may change,
and the invariant of the block is kept. -/
set_option Elab.async false
set_option linter.all false
namespace Sys2Proof.Machine

theorem State.setZone_keeps {n0 : Nat} {s0 : State} {s : State} {z : Nat} {x : ZoneSt} (hK : Keeps n0 s0 s) (hm : Keeps.sub 0x1000000 n0 = true) :
    Keeps n0 s0 (State.setZone s z x) := by
  refine Keeps.step hK ?_ hm
  clear hK hm
  unfold State.setZone
  repeat' first
    | with_reducible exact Keeps.refl _ _
    | with_reducible assumption
    | (with_reducible refine Keeps.leaf ?_ (h_eng := Keeps.chg (by decide)))
    | (dsimp only)

theorem State.zmFace_keeps {n0 : Nat} {s0 : State} {s : State} {z : Nat} (hK : Keeps n0 s0 s) (hm : Keeps.sub 0x4 n0 = true) :
    Keeps n0 s0 (State.zmFace s z) := by
  refine Keeps.step hK ?_ hm
  clear hK hm
  unfold State.zmFace
  repeat' first
    | with_reducible exact Keeps.refl _ _
    | with_reducible assumption
    | ((with_reducible apply State.set_keeps); (case hm => exact rfl))
    | (with_reducible refine Keeps.fold _ _ ?_ (fun u b hu => ?_))
    | (dsimp only)

theorem State.zmFaces_keeps {n0 : Nat} {s0 : State} {s : State} (hK : Keeps n0 s0 s) (hm : Keeps.sub 0x4 n0 = true) :
    Keeps n0 s0 (State.zmFaces s) := by
  refine Keeps.step hK ?_ hm
  clear hK hm
  unfold State.zmFaces
  repeat' first
    | with_reducible exact Keeps.refl _ _
    | with_reducible assumption
    | ((with_reducible apply State.zmFace_keeps); (case hm => exact rfl))
    | (with_reducible refine Keeps.fold _ _ ?_ (fun u b hu => ?_))
    | (dsimp only)

theorem State.applyZm_keeps {n0 : Nat} {s0 : State} {s : State} {w : ZmWrite} (hK : Keeps n0 s0 s) (hm : Keeps.sub 0x1000000 n0 = true) :
    Keeps n0 s0 (State.applyZm s w) := by
  refine Keeps.step hK ?_ hm
  clear hK hm
  unfold State.applyZm
  repeat' first
    | with_reducible exact Keeps.refl _ _
    | with_reducible assumption
    | ((with_reducible apply State.setZm_keeps); (case hm => exact rfl))
    | (with_reducible refine Keeps.fold _ _ ?_ (fun u b hu => ?_))
    | split
    | (dsimp only)

theorem State.takeHostZm_keeps {n0 : Nat} {s0 : State} {s : State} (hK : Keeps n0 s0 s) (hm : Keeps.sub 0x201000004 n0 = true) :
    Keeps n0 s0 (State.takeHostZm s) := by
  refine Keeps.step hK ?_ hm
  clear hK hm
  unfold State.takeHostZm
  repeat' first
    | with_reducible exact Keeps.refl _ _
    | with_reducible assumption
    | ((with_reducible apply State.zmFaces_keeps); (case hm => exact rfl))
    | ((with_reducible apply State.applyZm_keeps); (case hm => exact rfl))
    | (with_reducible refine Keeps.fold _ _ ?_ (fun u b hu => ?_))
    | (with_reducible refine Keeps.leaf ?_ (h_hostZm := Keeps.chg (by decide)))
    | (dsimp only)

theorem State.commitZm_keeps {n0 : Nat} {s0 : State} {s : State} (hK : Keeps n0 s0 s) (hm : Keeps.sub 0x401000004 n0 = true) :
    Keeps n0 s0 (State.commitZm s) := by
  refine Keeps.step hK ?_ hm
  clear hK hm
  unfold State.commitZm
  repeat' first
    | with_reducible exact Keeps.refl _ _
    | with_reducible assumption
    | ((with_reducible apply State.zmFaces_keeps); (case hm => exact rfl))
    | ((with_reducible apply State.applyZm_keeps); (case hm => exact rfl))
    | (with_reducible refine Keeps.fold _ _ ?_ (fun u b hu => ?_))
    | (with_reducible refine Keeps.leaf ?_ (h_stZ := Keeps.chg (by decide)))
    | (dsimp only)

theorem State.fenMembers_keeps {n0 : Nat} {s0 : State} {s : State} (hK : Keeps n0 s0 s) (hm : Keeps.sub 0x4 n0 = true) :
    Keeps n0 s0 (State.fenMembers s) := by
  refine Keeps.step hK ?_ hm
  clear hK hm
  unfold State.fenMembers
  repeat' first
    | with_reducible exact Keeps.refl _ _
    | with_reducible assumption
    | ((with_reducible apply State.set_keeps); (case hm => exact rfl))
    | (with_reducible refine Keeps.fold _ _ ?_ (fun u b hu => ?_))
    | split
    | (dsimp only)

theorem State.zonePub_keeps {n0 : Nat} {s0 : State} {s : State} {z : Nat} {x : ZoneSt} {qs : List Nat} {stale : Bool} (hK : Keeps n0 s0 s) (hm : Keeps.sub 0x30000 n0 = true) :
    Keeps n0 s0 (State.zonePub s z x qs stale) := by
  refine Keeps.step hK ?_ hm
  clear hK hm
  unfold State.zonePub
  repeat' first
    | with_reducible exact Keeps.refl _ _
    | with_reducible assumption
    | (extract_lets +onlyGivenNames -underBinder x; (with_reducible refine Keeps.cut (v := x) ?_ (fun hx => ?_)); subst x; rotate_left; clear_value x; rotate_right)
    | (extract_lets +onlyGivenNames -underBinder x; clear_value x)
    | ((with_reducible apply State.produce_keeps); (case hm => exact rfl))
    | (with_reducible refine Keeps.fold _ _ ?_ (fun u b hu => ?_))
    | (with_reducible refine Keeps.ofP2 (by assumption) ?_)
    | (with_reducible refine Keeps.ofP1 (by assumption) ?_)
    | (with_reducible refine Keeps.ofP3 (by assumption) ?_)
    | split
    | (dsimp only)

theorem State.zoneHandles_keeps {n0 : Nat} {s0 : State} {s : State} {z : Nat} {x : ZoneSt} {qs : List Nat} (hK : Keeps n0 s0 s) (hm : Keeps.sub 0x30000 n0 = true) :
    Keeps n0 s0 (State.zoneHandles s z x qs) := by
  refine Keeps.step hK ?_ hm
  clear hK hm
  unfold State.zoneHandles
  repeat' first
    | with_reducible exact Keeps.refl _ _
    | with_reducible assumption
    | (extract_lets +onlyGivenNames -underBinder x; (with_reducible refine Keeps.cut (v := x) ?_ (fun hx => ?_)); subst x; rotate_left; clear_value x; rotate_right)
    | (extract_lets +onlyGivenNames -underBinder x; clear_value x)
    | ((with_reducible apply State.produce_keeps); (case hm => exact rfl))
    | (with_reducible refine Keeps.fold _ _ ?_ (fun u b hu => ?_))
    | (with_reducible refine Keeps.ofP2 (by assumption) ?_)
    | (with_reducible refine Keeps.ofP1 (by assumption) ?_)
    | (with_reducible refine Keeps.ofP3 (by assumption) ?_)
    | split
    | (dsimp only)

theorem State.zoneEval_keeps {n0 : Nat} {s0 : State} {s : State} {z : Nat} (hK : Keeps n0 s0 s) (hm : Keeps.sub 0x19030000 n0 = true) :
    Keeps n0 s0 (State.zoneEval s z) := by
  refine Keeps.step hK ?_ hm
  clear hK hm
  unfold State.zoneEval
  repeat' first
    | with_reducible exact Keeps.refl _ _
    | with_reducible assumption
    | (extract_lets +onlyGivenNames -underBinder x; (with_reducible refine Keeps.cut (v := x) ?_ (fun hx => ?_)); subst x; rotate_left; clear_value x; rotate_right)
    | (extract_lets +onlyGivenNames -underBinder x; (have hfn : (_ → _) := x; clear hfn); subst x; dsimp only)
    | (extract_lets +onlyGivenNames -underBinder x; clear_value x)
    | ((with_reducible apply State.setZone_keeps); (case hm => exact rfl))
    | ((with_reducible apply State.zoneHandles_keeps); (case hm => exact rfl))
    | ((with_reducible apply State.laterB_keeps); (case hm => exact rfl))
    | ((with_reducible apply State.zonePub_keeps); (case hm => exact rfl))
    | ((with_reducible apply State.later_keeps); (case hm => exact rfl))
    | ((with_reducible apply State.laterSeti_keeps); (case hm => exact rfl))
    | ((with_reducible apply State.laterSet_keeps); (case hm => exact rfl))
    | (with_reducible refine Keeps.ofP2 (by assumption) ?_)
    | (with_reducible refine Keeps.ofP1 (by assumption) ?_)
    | (with_reducible refine Keeps.ofP3 (by assumption) ?_)
    | split
    | (dsimp only)

theorem State.zoneSums_keeps {n0 : Nat} {s0 : State} {s : State} (hK : Keeps n0 s0 s) (hm : Keeps.sub 0x18000000 n0 = true) :
    Keeps n0 s0 (State.zoneSums s) := by
  refine Keeps.step hK ?_ hm
  clear hK hm
  unfold State.zoneSums
  repeat' first
    | with_reducible exact Keeps.refl _ _
    | with_reducible assumption
    | (extract_lets +onlyGivenNames -underBinder x; (with_reducible refine Keeps.cut (v := x) ?_ (fun hx => ?_)); subst x; rotate_left; clear_value x; rotate_right)
    | (extract_lets +onlyGivenNames -underBinder x; (have hfn : (_ → _) := x; clear hfn); subst x; dsimp only)
    | (extract_lets +onlyGivenNames -underBinder x; clear_value x)
    | ((with_reducible apply State.laterSet_keeps); (case hm => exact rfl))
    | (with_reducible refine Keeps.fold _ _ ?_ (fun u b hu => ?_))
    | split
    | (dsimp only)

theorem State.zoneFrame_keeps {n0 : Nat} {s0 : State} {s : State} (hK : Keeps n0 s0 s) (hm : Keeps.sub 0x19030000 n0 = true) :
    Keeps n0 s0 (State.zoneFrame s) := by
  refine Keeps.step hK ?_ hm
  clear hK hm
  unfold State.zoneFrame
  repeat' first
    | with_reducible exact Keeps.refl _ _
    | with_reducible assumption
    | ((with_reducible apply State.zoneEval_keeps); (case hm => exact rfl))
    | ((with_reducible apply State.zoneSums_keeps); (case hm => exact rfl))
    | (with_reducible refine Keeps.fold _ _ ?_ (fun u b hu => ?_))
    | split
    | (dsimp only)

theorem State.zoneDemand_keeps {n0 : Nat} {s0 : State} {s : State} {z : Nat} (hK : Keeps n0 s0 s) (hm : Keeps.sub 0x19030000 n0 = true) :
    Keeps n0 s0 (State.zoneDemand s z) := by
  refine Keeps.step hK ?_ hm
  clear hK hm
  unfold State.zoneDemand
  repeat' first
    | with_reducible exact Keeps.refl _ _
    | with_reducible assumption
    | (extract_lets +onlyGivenNames -underBinder x; (with_reducible refine Keeps.cut (v := x) ?_ (fun hx => ?_)); subst x; rotate_left; clear_value x; rotate_right)
    | (extract_lets +onlyGivenNames -underBinder x; clear_value x)
    | ((with_reducible apply State.setZone_keeps); (case hm => exact rfl))
    | ((with_reducible apply State.zoneHandles_keeps); (case hm => exact rfl))
    | ((with_reducible apply State.zonePub_keeps); (case hm => exact rfl))
    | ((with_reducible apply State.tmeAccumulate_keeps); (case hm => exact rfl))
    | ((with_reducible apply State.laterSeti_keeps); (case hm => exact rfl))
    | split
    | (dsimp only)

theorem State.fenEval_keeps {n0 : Nat} {s0 : State} {s : State} {f : Nat} (hK : Keeps n0 s0 s) (hm : Keeps.sub 0x18030000 n0 = true) :
    Keeps n0 s0 (State.fenEval s f) := by
  refine Keeps.step hK ?_ hm
  clear hK hm
  unfold State.fenEval
  repeat' first
    | with_reducible exact Keeps.refl _ _
    | with_reducible assumption
    | (extract_lets +onlyGivenNames -underBinder x; (with_reducible refine Keeps.cut (v := x) ?_ (fun hx => ?_)); subst x; rotate_left; clear_value x; rotate_right)
    | (extract_lets +onlyGivenNames -underBinder x; (have hfn : (_ → _) := x; clear hfn); subst x; dsimp only)
    | (extract_lets +onlyGivenNames -underBinder x; clear_value x)
    | ((with_reducible apply State.laterSeti_keeps); (case hm => exact rfl))
    | ((with_reducible apply State.produce_keeps); (case hm => exact rfl))
    | ((with_reducible apply State.laterSet_keeps); (case hm => exact rfl))
    | (with_reducible refine Keeps.fold _ _ ?_ (fun u b hu => ?_))
    | split
    | (dsimp only)

theorem State.demandFrame_keeps {n0 : Nat} {s0 : State} {s : State} (hK : Keeps n0 s0 s) (hm : Keeps.sub 0x19030000 n0 = true) :
    Keeps n0 s0 (State.demandFrame s) := by
  refine Keeps.step hK ?_ hm
  clear hK hm
  unfold State.demandFrame
  repeat' first
    | with_reducible exact Keeps.refl _ _
    | with_reducible assumption
    | (extract_lets +onlyGivenNames -underBinder x; (with_reducible refine Keeps.cut (v := x) ?_ (fun hx => ?_)); subst x; rotate_left; clear_value x; rotate_right)
    | (extract_lets +onlyGivenNames -underBinder x; clear_value x)
    | ((with_reducible apply State.zoneDemand_keeps); (case hm => exact rfl))
    | ((with_reducible apply State.fenEval_keeps); (case hm => exact rfl))
    | (with_reducible refine Keeps.fold _ _ ?_ (fun u b hu => ?_))
    | split
    | (dsimp only)

end Sys2Proof.Machine
end

