-- ==== Sys2Proof/Laws/KeepsLoop.lean ====
section
/-! SUPPORT. What each operation of Machine/Loop.lean may touch (Laws/Keeps.lean): the mask lists the fields it may change,
and the invariant of the block is kept. -/
set_option Elab.async false
set_option linter.all false
namespace Sys2Proof.Machine

theorem State.setLoop_keeps {n0 : Nat} {s0 : State} {s : State} {k : Nat} {x : LoopSt} (hK : Keeps n0 s0 s) (hm : Keeps.sub 0x1000000 n0 = true) :
    Keeps n0 s0 (State.setLoop s k x) := by
  refine Keeps.step hK ?_ hm
  clear hK hm
  unfold State.setLoop
  repeat' first
    | with_reducible exact Keeps.refl _ _
    | with_reducible assumption
    | (with_reducible refine Keeps.leaf ?_ (h_eng := Keeps.chg (by decide)))
    | (dsimp only)

theorem State.seqEval_keeps {n0 : Nat} {s0 : State} {s : State} {r : Rate} {k : Nat} {x : LoopSt} {state : Nat} {st : Status} (hK : Keeps n0 s0 s) (hm : Keeps.sub 0x1800 n0 = true) :
    Keeps n0 s0 (State.seqEval s r k x state st).2 := by
  refine Keeps.step hK ?_ hm
  clear hK hm
  unfold State.seqEval
  repeat' first
    | with_reducible exact Keeps.refl _ _
    | with_reducible assumption
    | (extract_lets +onlyGivenNames -underBinder x; (with_reducible refine Keeps.cut (v := x) ?_ (fun hx => ?_)); subst x; rotate_left; clear_value x; rotate_right)
    | (extract_lets +onlyGivenNames -underBinder x; clear_value x)
    | ((with_reducible apply State.stage_keeps); (case hm => exact rfl))
    | (with_reducible refine Keeps.fold _ _ ?_ (fun u b hu => ?_))
    | (with_reducible refine Keeps.ofP2 (by assumption) ?_)
    | (with_reducible refine Keeps.ofP1 (by assumption) ?_)
    | (with_reducible refine Keeps.ofP3 (by assumption) ?_)
    | split
    | (dsimp only)

theorem State.loopFinish_keeps {n0 : Nat} {s0 : State} {s : State} {r : Rate} {k : Nat} {old : LoopSt} {x : LoopSt} (hK : Keeps n0 s0 s) (hm : Keeps.sub 0x19030000 n0 = true) :
    Keeps n0 s0 (State.loopFinish s r k old x) := by
  refine Keeps.step hK ?_ hm
  clear hK hm
  unfold State.loopFinish
  repeat' first
    | with_reducible exact Keeps.refl _ _
    | with_reducible assumption
    | (extract_lets +onlyGivenNames -underBinder x; (with_reducible refine Keeps.cut (v := x) ?_ (fun hx => ?_)); subst x; rotate_left; clear_value x; rotate_right)
    | (extract_lets +onlyGivenNames -underBinder x; clear_value x)
    | ((with_reducible apply State.laterB_keeps); (case hm => exact rfl))
    | ((with_reducible apply State.setLoop_keeps); (case hm => exact rfl))
    | ((with_reducible apply State.later_keeps); (case hm => exact rfl))
    | ((with_reducible apply State.laterSeti_keeps); (case hm => exact rfl))
    | ((with_reducible apply State.produce_keeps); (case hm => exact rfl))
    | ((with_reducible apply State.laterSet_keeps); (case hm => exact rfl))
    | split
    | (dsimp only)

theorem State.loopEval_keeps {n0 : Nat} {s0 : State} {s : State} {r : Rate} {k : Nat} (hK : Keeps n0 s0 s) (hm : Keeps.sub 0x19031800 n0 = true) :
    Keeps n0 s0 (State.loopEval s r k) := by
  refine Keeps.step hK ?_ hm
  clear hK hm
  unfold State.loopEval
  repeat' first
    | with_reducible exact Keeps.refl _ _
    | with_reducible assumption
    | (extract_lets +onlyGivenNames -underBinder x; (with_reducible refine Keeps.cut (v := x) ?_ (fun hx => ?_)); subst x; rotate_left; clear_value x; rotate_right)
    | (extract_lets +onlyGivenNames -underBinder x; clear_value x)
    | ((with_reducible apply State.stage_keeps); (case hm => exact rfl))
    | ((with_reducible apply State.seqEval_keeps); (case hm => exact rfl))
    | ((with_reducible apply State.loopFinish_keeps); (case hm => exact rfl))
    | (with_reducible refine Keeps.fold _ _ ?_ (fun u b hu => ?_))
    | (with_reducible refine Keeps.ofP2 (by assumption) ?_)
    | (with_reducible refine Keeps.ofP1 (by assumption) ?_)
    | (with_reducible refine Keeps.ofP3 (by assumption) ?_)
    | split
    | (dsimp only)

theorem State.loopFrame_keeps {n0 : Nat} {s0 : State} {s : State} {r : Rate} (hK : Keeps n0 s0 s) (hm : Keeps.sub 0x19031800 n0 = true) :
    Keeps n0 s0 (State.loopFrame s r) := by
  refine Keeps.step hK ?_ hm
  clear hK hm
  unfold State.loopFrame
  repeat' first
    | with_reducible exact Keeps.refl _ _
    | with_reducible assumption
    | ((with_reducible apply State.loopEval_keeps); (case hm => exact rfl))
    | (with_reducible refine Keeps.fold _ _ ?_ (fun u b hu => ?_))
    | (with_reducible refine Keeps.ofP2 (by assumption) ?_)
    | (with_reducible refine Keeps.ofP1 (by assumption) ?_)
    | (with_reducible refine Keeps.ofP3 (by assumption) ?_)
    | split
    | (dsimp only)

theorem State.takeLoopPar_keeps {n0 : Nat} {s0 : State} {s : State} {r : Rate} (hK : Keeps n0 s0 s) (hm : Keeps.sub 0x801000000 n0 = true) :
    Keeps n0 s0 (State.takeLoopPar s r) := by
  refine Keeps.step hK ?_ hm
  clear hK hm
  unfold State.takeLoopPar
  repeat' first
    | with_reducible exact Keeps.refl _ _
    | with_reducible assumption
    | (extract_lets +onlyGivenNames -underBinder x; (with_reducible refine Keeps.cut (v := x) ?_ (fun hx => ?_)); subst x; rotate_left; clear_value x; rotate_right)
    | (extract_lets +onlyGivenNames -underBinder x; (have hfn : (_ → _) := x; clear hfn); subst x; dsimp only)
    | (extract_lets +onlyGivenNames -underBinder x; clear_value x)
    | ((with_reducible apply State.setLoop_keeps); (case hm => exact rfl))
    | (with_reducible refine Keeps.fold _ _ ?_ (fun u b hu => ?_))
    | (with_reducible refine Keeps.ofP2 (by assumption) ?_)
    | (with_reducible refine Keeps.ofP1 (by assumption) ?_)
    | (with_reducible refine Keeps.ofP3 (by assumption) ?_)
    | split
    | (with_reducible refine Keeps.leaf ?_ (h_loopPar := Keeps.chg (by decide)))
    | (dsimp only)

theorem State.loopSwitch_keeps {n0 : Nat} {s0 : State} {s : State} (hK : Keeps n0 s0 s) (hm : Keeps.sub 0x3801040004 n0 = true) :
    Keeps n0 s0 (State.loopSwitch s) := by
  refine Keeps.step hK ?_ hm
  clear hK hm
  unfold State.loopSwitch
  repeat' first
    | with_reducible exact Keeps.refl _ _
    | with_reducible assumption
    | (extract_lets +onlyGivenNames -underBinder x; (with_reducible refine Keeps.cut (v := x) ?_ (fun hx => ?_)); subst x; rotate_left; clear_value x; rotate_right)
    | (extract_lets +onlyGivenNames -underBinder x; clear_value x)
    | ((with_reducible apply State.irq_keeps); (case hm => exact rfl))
    | ((with_reducible apply State.clearFault_keeps); (case hm => exact rfl))
    | ((with_reducible apply State.setLoop_keeps); (case hm => exact rfl))
    | ((with_reducible apply State.set_keeps); (case hm => exact rfl))
    | (with_reducible refine Keeps.fold _ _ ?_ (fun u b hu => ?_))
    | split
    | (with_reducible refine Keeps.leaf ?_ (h_eng := Keeps.chg (by decide)) (h_loopPar := Keeps.chg (by decide)) (h_loopsL := Keeps.chg (by decide)) (h_loopsS := Keeps.chg (by decide)))
    | (dsimp only)

end Sys2Proof.Machine
end

