-- ==== Sys2Proof/Laws/KeepsBlk.lean ====
section
/-! SUPPORT. What each operation of Machine/Blk.lean may touch (Laws/Keeps.lean): the mask lists the fields it may change,
and the invariant of the block is kept. -/
set_option Elab.async false
set_option linter.all false
namespace Sys2Proof.Machine

theorem State.setBlk_keeps {n0 : Nat} {s0 : State} {s : State} {i : Nat} {b : BlkSt} (hK : Keeps n0 s0 s) (hm : Keeps.sub 0x1000000 n0 = true) :
    Keeps n0 s0 (State.setBlk s i b) := by
  refine Keeps.step hK ?_ hm
  clear hK hm
  unfold State.setBlk
  repeat' first
    | with_reducible exact Keeps.refl _ _
    | with_reducible assumption
    | (with_reducible refine Keeps.leaf ?_ (h_eng := Keeps.chg (by decide)))
    | (dsimp only)

theorem State.updNet_keeps {n0 : Nat} {s0 : State} {s : State} {f : BlkNet → BlkNet} (hK : Keeps n0 s0 s) (hm : Keeps.sub 0x8000000000 n0 = true) :
    Keeps n0 s0 (State.updNet s f) := by
  refine Keeps.step hK ?_ hm
  clear hK hm
  unfold State.updNet
  repeat' first
    | with_reducible exact Keeps.refl _ _
    | with_reducible assumption
    | (with_reducible refine Keeps.leaf ?_ (h_net := Keeps.chg (by decide)))
    | (dsimp only)

theorem State.pwWrite_keeps {n0 : Nat} {s0 : State} {s : State} {arg : Nat} {v : Option Int} (hK : Keeps n0 s0 s) (hm : Keeps.sub 0x400001800 n0 = true) :
    Keeps n0 s0 (State.pwWrite s arg v).1 := by
  refine Keeps.step hK ?_ hm
  clear hK hm
  unfold State.pwWrite
  repeat' first
    | with_reducible exact Keeps.refl _ _
    | with_reducible assumption
    | (extract_lets +onlyGivenNames -underBinder x; (with_reducible refine Keeps.cut (v := x) ?_ (fun hx => ?_)); subst x; rotate_left; clear_value x; rotate_right)
    | (extract_lets +onlyGivenNames -underBinder x; clear_value x)
    | ((with_reducible apply State.stage_keeps); (case hm => exact rfl))
    | (with_reducible refine Keeps.ofP2 (by assumption) ?_)
    | (with_reducible refine Keeps.ofP1 (by assumption) ?_)
    | (with_reducible refine Keeps.ofP3 (by assumption) ?_)
    | split
    | (with_reducible refine Keeps.leaf ?_ (h_stZ := Keeps.chg (by decide)))
    | (dsimp only)

theorem State.blkPriority_keeps {n0 : Nat} {s0 : State} {s : State} {r : BRec} {x : List Val} {b : BlkSt} (hK : Keeps n0 s0 s) (hm : Keeps.sub 0x400001800 n0 = true) :
    Keeps n0 s0 (State.blkPriority s r x b).2 := by
  refine Keeps.step hK ?_ hm
  clear hK hm
  unfold State.blkPriority
  repeat' first
    | with_reducible exact Keeps.refl _ _
    | with_reducible assumption
    | (extract_lets +onlyGivenNames -underBinder x; (with_reducible refine Keeps.cut (v := x) ?_ (fun hx => ?_)); subst x; rotate_left; clear_value x; rotate_right)
    | (extract_lets +onlyGivenNames -underBinder x; clear_value x)
    | ((with_reducible apply State.pwWrite_keeps); (case hm => exact rfl))
    | (with_reducible refine Keeps.ofP2 (by assumption) ?_)
    | (with_reducible refine Keeps.ofP1 (by assumption) ?_)
    | (with_reducible refine Keeps.ofP3 (by assumption) ?_)
    | split
    | (dsimp only)

theorem State.blkAlarmChange_keeps {n0 : Nat} {s0 : State} {s : State} {i : Nat} {old : Nat} {new : Nat} (hK : Keeps n0 s0 s) (hm : Keeps.sub 0x18000000 n0 = true) :
    Keeps n0 s0 (State.blkAlarmChange s i old new) := by
  refine Keeps.step hK ?_ hm
  clear hK hm
  unfold State.blkAlarmChange
  repeat' first
    | with_reducible exact Keeps.refl _ _
    | with_reducible assumption
    | (extract_lets +onlyGivenNames -underBinder x; (with_reducible refine Keeps.cut (v := x) ?_ (fun hx => ?_)); subst x; rotate_left; clear_value x; rotate_right)
    | (extract_lets +onlyGivenNames -underBinder x; clear_value x)
    | ((with_reducible apply State.later_keeps); (case hm => exact rfl))
    | ((with_reducible apply State.laterSet_keeps); (case hm => exact rfl))
    | split
    | (dsimp only)

theorem State.blkAlarm_keeps {n0 : Nat} {s0 : State} {s : State} {i : Nat} {r : BRec} {x : List Val} {b : BlkSt} (hK : Keeps n0 s0 s) (hm : Keeps.sub 0x18000000 n0 = true) :
    Keeps n0 s0 (State.blkAlarm s i r x b).2 := by
  refine Keeps.step hK ?_ hm
  clear hK hm
  unfold State.blkAlarm
  repeat' first
    | with_reducible exact Keeps.refl _ _
    | with_reducible assumption
    | (extract_lets +onlyGivenNames -underBinder x; (with_reducible refine Keeps.cut (v := x) ?_ (fun hx => ?_)); subst x; rotate_left; clear_value x; rotate_right)
    | (extract_lets +onlyGivenNames -underBinder x; (have hfn : (_ → _) := x; clear hfn); subst x; dsimp only)
    | (extract_lets +onlyGivenNames -underBinder x; clear_value x)
    | ((with_reducible apply State.blkAlarmChange_keeps); (case hm => exact rfl))
    | (with_reducible refine Keeps.ofP2 (by assumption) ?_)
    | (with_reducible refine Keeps.ofP1 (by assumption) ?_)
    | (with_reducible refine Keeps.ofP3 (by assumption) ?_)
    | split
    | (dsimp only)

theorem State.snTake_keeps {n0 : Nat} {s0 : State} {s : State} {i : Nat} {core : Nat} {slot : Nat} {o0 : Val} (hK : Keeps n0 s0 s) (hm : Keeps.sub 0x8018000000 n0 = true) :
    Keeps n0 s0 (State.snTake s i core slot o0).2.2 := by
  refine Keeps.step hK ?_ hm
  clear hK hm
  unfold State.snTake
  repeat' first
    | with_reducible exact Keeps.refl _ _
    | with_reducible assumption
    | (extract_lets +onlyGivenNames -underBinder x; (with_reducible refine Keeps.cut (v := x) ?_ (fun hx => ?_)); subst x; rotate_left; clear_value x; rotate_right)
    | (extract_lets +onlyGivenNames -underBinder x; clear_value x)
    | ((with_reducible apply State.updNet_keeps); (case hm => exact rfl))
    | ((with_reducible apply State.later_keeps); (case hm => exact rfl))
    | (with_reducible refine Keeps.ofP2 (by assumption) ?_)
    | (with_reducible refine Keeps.ofP1 (by assumption) ?_)
    | (with_reducible refine Keeps.ofP3 (by assumption) ?_)
    | split
    | (dsimp only)

theorem State.snAsk_keeps {n0 : Nat} {s0 : State} {s : State} {i : Nat} {core : Nat} {slot : Nat} {got : Bool} (hK : Keeps n0 s0 s) (hm : Keeps.sub 0x8018080004 n0 = true) :
    Keeps n0 s0 (State.snAsk s i core slot got).2 := by
  refine Keeps.step hK ?_ hm
  clear hK hm
  unfold State.snAsk
  repeat' first
    | with_reducible exact Keeps.refl _ _
    | with_reducible assumption
    | ((with_reducible apply State.updNet_keeps); (case hm => exact rfl))
    | ((with_reducible apply State.later_keeps); (case hm => exact rfl))
    | ((with_reducible apply State.sluicePut_keeps); (case hq => assumption); (case hm => exact rfl))
    | (with_reducible refine Keeps.ofP2 (by assumption) ?_)
    | (with_reducible refine Keeps.ofP1 (by assumption) ?_)
    | (with_reducible refine Keeps.ofP3 (by assumption) ?_)
    | split
    | (dsimp only)

theorem State.blkSample_keeps {n0 : Nat} {s0 : State} {s : State} {i : Nat} {r : BRec} {x : List Val} {b : BlkSt} (hK : Keeps n0 s0 s) (hm : Keeps.sub 0x8018080004 n0 = true) :
    Keeps n0 s0 (State.blkSample s i r x b).2 := by
  refine Keeps.step hK ?_ hm
  clear hK hm
  unfold State.blkSample
  repeat' first
    | with_reducible exact Keeps.refl _ _
    | with_reducible assumption
    | (extract_lets +onlyGivenNames -underBinder x; (with_reducible refine Keeps.cut (v := x) ?_ (fun hx => ?_)); subst x; rotate_left; clear_value x; rotate_right)
    | (extract_lets +onlyGivenNames -underBinder x; clear_value x)
    | ((with_reducible apply State.snTake_keeps); (case hm => exact rfl))
    | ((with_reducible apply State.snAsk_keeps); (case hm => exact rfl))
    | (with_reducible refine Keeps.ofP2 (by assumption) ?_)
    | (with_reducible refine Keeps.ofP1 (by assumption) ?_)
    | (with_reducible refine Keeps.ofP3 (by assumption) ?_)
    | split
    | (dsimp only)

theorem State.blkSampleDone_keeps {n0 : Nat} {s0 : State} {s : State} {core : Nat} {slot : Nat} {y : Int} {ovf : Bool} {flt : Bool} {stale : Bool} (hK : Keeps n0 s0 s) (hm : Keeps.sub 0x8000000000 n0 = true) :
    Keeps n0 s0 (State.blkSampleDone s core slot y ovf flt stale) := by
  refine Keeps.step hK ?_ hm
  clear hK hm
  unfold State.blkSampleDone
  repeat' first
    | with_reducible exact Keeps.refl _ _
    | with_reducible assumption
    | (extract_lets +onlyGivenNames -underBinder x; (with_reducible refine Keeps.cut (v := x) ?_ (fun hx => ?_)); subst x; rotate_left; clear_value x; rotate_right)
    | (extract_lets +onlyGivenNames -underBinder x; clear_value x)
    | ((with_reducible apply State.updNet_keeps); (case hm => exact rfl))
    | (with_reducible refine Keeps.ofP2 (by assumption) ?_)
    | (with_reducible refine Keeps.ofP1 (by assumption) ?_)
    | (with_reducible refine Keeps.ofP3 (by assumption) ?_)
    | split
    | (dsimp only)

theorem State.blkOne_keeps {n0 : Nat} {s0 : State} {s : State} {pts : List Nat} {i : Nat} (hK : Keeps n0 s0 s) (hm : Keeps.sub 0x84190b1804 n0 = true) :
    Keeps n0 s0 (State.blkOne s pts i) := by
  refine Keeps.step hK ?_ hm
  clear hK hm
  unfold State.blkOne
  repeat' first
    | with_reducible exact Keeps.refl _ _
    | with_reducible assumption
    | (extract_lets +onlyGivenNames -underBinder x; (with_reducible refine Keeps.cut (v := x) ?_ (fun hx => ?_)); subst x; rotate_left; clear_value x; rotate_right)
    | (extract_lets +onlyGivenNames -underBinder x; clear_value x)
    | ((with_reducible apply State.blkAlarm_keeps); (case hm => exact rfl))
    | ((with_reducible apply State.blkPriority_keeps); (case hm => exact rfl))
    | ((with_reducible apply State.blkSample_keeps); (case hm => exact rfl))
    | ((with_reducible apply State.setBlk_keeps); (case hm => exact rfl))
    | ((with_reducible apply State.produce_keeps); (case hm => exact rfl))
    | (with_reducible refine Keeps.ofP2 (by assumption) ?_)
    | (with_reducible refine Keeps.ofP1 (by assumption) ?_)
    | (with_reducible refine Keeps.ofP3 (by assumption) ?_)
    | split
    | (dsimp only)

theorem State.blkDrop_keeps {n0 : Nat} {s0 : State} {s : State} {i : Nat} (hK : Keeps n0 s0 s) (hm : Keeps.sub 0x419001800 n0 = true) :
    Keeps n0 s0 (State.blkDrop s i) := by
  refine Keeps.step hK ?_ hm
  clear hK hm
  unfold State.blkDrop
  repeat' first
    | with_reducible exact Keeps.refl _ _
    | with_reducible assumption
    | (extract_lets +onlyGivenNames -underBinder x; (with_reducible refine Keeps.cut (v := x) ?_ (fun hx => ?_)); subst x; rotate_left; clear_value x; rotate_right)
    | (extract_lets +onlyGivenNames -underBinder x; clear_value x)
    | ((with_reducible apply State.pwWrite_keeps); (case hm => exact rfl))
    | ((with_reducible apply State.blkAlarmChange_keeps); (case hm => exact rfl))
    | ((with_reducible apply State.setBlk_keeps); (case hm => exact rfl))
    | split
    | (dsimp only)

theorem State.blkFrame_keeps {n0 : Nat} {s0 : State} {s : State} (hK : Keeps n0 s0 s) (hm : Keeps.sub 0x84190b1804 n0 = true) :
    Keeps n0 s0 (State.blkFrame s) := by
  refine Keeps.step hK ?_ hm
  clear hK hm
  unfold State.blkFrame
  repeat' first
    | with_reducible exact Keeps.refl _ _
    | with_reducible assumption
    | (extract_lets +onlyGivenNames -underBinder x; (with_reducible refine Keeps.cut (v := x) ?_ (fun hx => ?_)); subst x; rotate_left; clear_value x; rotate_right)
    | (extract_lets +onlyGivenNames -underBinder x; clear_value x)
    | ((with_reducible apply State.blkDrop_keeps); (case hm => exact rfl))
    | ((with_reducible apply State.blkOne_keeps); (case hm => exact rfl))
    | ((with_reducible apply State.set_keeps); (case hm => exact rfl))
    | ((with_reducible apply State.setBlk_keeps); (case hm => exact rfl))
    | ((with_reducible apply State.produce_keeps); (case hm => exact rfl))
    | ((with_reducible apply State.laterSet_keeps); (case hm => exact rfl))
    | (with_reducible refine Keeps.fold _ _ ?_ (fun u b hu => ?_))
    | split
    | (dsimp only)

theorem State.takeBlk_keeps {n0 : Nat} {s0 : State} {s : State} (hK : Keeps n0 s0 s) (hm : Keeps.sub 0x8000000000 n0 = true) :
    Keeps n0 s0 (State.takeBlk s) := by
  refine Keeps.step hK ?_ hm
  clear hK hm
  unfold State.takeBlk
  repeat' first
    | with_reducible exact Keeps.refl _ _
    | with_reducible assumption
    | (extract_lets +onlyGivenNames -underBinder x; (with_reducible refine Keeps.cut (v := x) ?_ (fun hx => ?_)); subst x; rotate_left; clear_value x; rotate_right)
    | (extract_lets +onlyGivenNames -underBinder x; clear_value x)
    | ((with_reducible apply State.updNet_keeps); (case hm => exact rfl))
    | (with_reducible refine Keeps.fold _ _ ?_ (fun u b hu => ?_))
    | split
    | (dsimp only)

theorem State.blkRetune_keeps {n0 : Nat} {s0 : State} {s : State} {w : Word} (hK : Keeps n0 s0 s) (hm : Keeps.sub 0x8000000004 n0 = true) :
    Keeps n0 s0 (State.blkRetune s w) := by
  refine Keeps.step hK ?_ hm
  clear hK hm
  unfold State.blkRetune
  repeat' first
    | with_reducible exact Keeps.refl _ _
    | with_reducible assumption
    | (extract_lets +onlyGivenNames -underBinder x; (with_reducible refine Keeps.cut (v := x) ?_ (fun hx => ?_)); subst x; rotate_left; clear_value x; rotate_right)
    | (extract_lets +onlyGivenNames -underBinder x; (have hfn : (_ → _) := x; clear hfn); subst x; dsimp only)
    | (extract_lets +onlyGivenNames -underBinder x; clear_value x)
    | ((with_reducible apply State.irq_keeps); (case hm => exact rfl))
    | ((with_reducible apply State.updNet_keeps); (case hm => exact rfl))
    | ((with_reducible apply State.blkErr_keeps); (case hm => exact rfl))
    | (with_reducible refine Keeps.ofP2 (by assumption) ?_)
    | (with_reducible refine Keeps.ofP1 (by assumption) ?_)
    | (with_reducible refine Keeps.ofP3 (by assumption) ?_)
    | split
    | (dsimp only)

theorem State.blkWrite_keeps {n0 : Nat} {s0 : State} {s : State} {off : Nat} {w : Word} (hK : Keeps n0 s0 s) (hm : Keeps.sub 0x8000000004 n0 = true) :
    Keeps n0 s0 (State.blkWrite s off w) := by
  refine Keeps.step hK ?_ hm
  clear hK hm
  unfold State.blkWrite
  repeat' first
    | with_reducible exact Keeps.refl _ _
    | with_reducible assumption
    | (extract_lets +onlyGivenNames -underBinder x; (with_reducible refine Keeps.cut (v := x) ?_ (fun hx => ?_)); subst x; rotate_left; clear_value x; rotate_right)
    | (extract_lets +onlyGivenNames -underBinder x; clear_value x)
    | ((with_reducible apply State.updNet_keeps); (case hm => exact rfl))
    | ((with_reducible apply State.blkErr_keeps); (case hm => exact rfl))
    | split
    | (dsimp only)

theorem State.blkView_keeps {n0 : Nat} {s0 : State} {s : State} {i : Nat} (hK : Keeps n0 s0 s) (hm : Keeps.sub 0x2000000000004 n0 = true) :
    Keeps n0 s0 (State.blkView s i) := by
  refine Keeps.step hK ?_ hm
  clear hK hm
  unfold State.blkView
  repeat' first
    | with_reducible exact Keeps.refl _ _
    | with_reducible assumption
    | (extract_lets +onlyGivenNames -underBinder x; (with_reducible refine Keeps.cut (v := x) ?_ (fun hx => ?_)); subst x; rotate_left; clear_value x; rotate_right)
    | (extract_lets +onlyGivenNames -underBinder x; clear_value x)
    | ((with_reducible apply State.setB_keeps); (case hm => exact rfl))
    | ((with_reducible apply State.seti_keeps); (case hm => exact rfl))
    | ((with_reducible apply State.freeNat_keeps); (case hm => exact rfl))
    | ((with_reducible apply State.set_keeps); (case hm => exact rfl))
    | (with_reducible refine Keeps.ofP2 (by assumption) ?_)
    | (with_reducible refine Keeps.ofP1 (by assumption) ?_)
    | (with_reducible refine Keeps.ofP3 (by assumption) ?_)
    | split
    | (dsimp only)

theorem State.blkSwitch_keeps {n0 : Nat} {s0 : State} {s : State} {m : Map Word} {order : List Nat} (hK : Keeps n0 s0 s) (hm : Keeps.sub 0x8001044004 n0 = true) :
    Keeps n0 s0 (State.blkSwitch s m order) := by
  refine Keeps.step hK ?_ hm
  clear hK hm
  unfold State.blkSwitch
  repeat' first
    | with_reducible exact Keeps.refl _ _
    | with_reducible assumption
    | (extract_lets +onlyGivenNames -underBinder x; (with_reducible refine Keeps.cut (v := x) ?_ (fun hx => ?_)); subst x; rotate_left; clear_value x; rotate_right)
    | (extract_lets +onlyGivenNames -underBinder x; (have hfn : (_ → _) := x; clear hfn); subst x; dsimp only)
    | (extract_lets +onlyGivenNames -underBinder x; clear_value x)
    | ((with_reducible apply State.setVis_keeps); (case hm => exact rfl))
    | ((with_reducible apply State.irq_keeps); (case hm => exact rfl))
    | ((with_reducible apply State.updNet_keeps); (case hm => exact rfl))
    | ((with_reducible apply State.clearFault_keeps); (case hm => exact rfl))
    | ((with_reducible apply State.set_keeps); (case hm => exact rfl))
    | (with_reducible refine Keeps.fold _ _ ?_ (fun u b hu => ?_))
    | split
    | (with_reducible refine Keeps.leaf ?_ (h_eng := Keeps.chg (by decide)))
    | (dsimp only)

end Sys2Proof.Machine
end

