-- ==== Sys2Proof/Laws/KeepsFan.lean ====
section
/-! SUPPORT. What each operation of Machine/Fan.lean may touch (Laws/Keeps.lean): the mask lists the fields it may change,
and the invariant of the block is kept. -/
set_option Elab.async false
set_option linter.all false
namespace Sys2Proof.Machine

theorem State.setFan_keeps {n0 : Nat} {s0 : State} {s : State} {g : Nat} {x : FanSt} (hK : Keeps n0 s0 s) (hm : Keeps.sub 0x1000000 n0 = true) :
    Keeps n0 s0 (State.setFan s g x) := by
  refine Keeps.step hK ?_ hm
  clear hK hm
  unfold State.setFan
  repeat' first
    | with_reducible exact Keeps.refl _ _
    | with_reducible assumption
    | (with_reducible refine Keeps.leaf ?_ (h_eng := Keeps.chg (by decide)))
    | (dsimp only)

theorem State.driveFaces_keeps {n0 : Nat} {s0 : State} {s : State} {g : Nat} (hK : Keeps n0 s0 s) (hm : Keeps.sub 0x4 n0 = true) :
    Keeps n0 s0 (State.driveFaces s g) := by
  refine Keeps.step hK ?_ hm
  clear hK hm
  unfold State.driveFaces
  repeat' first
    | with_reducible exact Keeps.refl _ _
    | with_reducible assumption
    | (extract_lets +onlyGivenNames -underBinder x; (with_reducible refine Keeps.cut (v := x) ?_ (fun hx => ?_)); subst x; rotate_left; clear_value x; rotate_right)
    | (extract_lets +onlyGivenNames -underBinder x; clear_value x)
    | ((with_reducible apply State.setB_keeps); (case hm => exact rfl))
    | ((with_reducible apply State.seti_keeps); (case hm => exact rfl))
    | ((with_reducible apply State.set_keeps); (case hm => exact rfl))
    | (with_reducible refine Keeps.ofP2 (by assumption) ?_)
    | (with_reducible refine Keeps.ofP1 (by assumption) ?_)
    | (with_reducible refine Keeps.ofP3 (by assumption) ?_)
    | split
    | (dsimp only)

theorem State.fanFault_keeps {n0 : Nat} {s0 : State} {s : State} {r : Rate} {g : Nat} {cause : Nat} {cls : FClass} {on : Bool} (hK : Keeps n0 s0 s) (hm : Keeps.sub 0x18000000 n0 = true) :
    Keeps n0 s0 (State.fanFault s r g cause cls on) := by
  refine Keeps.step hK ?_ hm
  clear hK hm
  unfold State.fanFault
  repeat' first
    | with_reducible exact Keeps.refl _ _
    | with_reducible assumption
    | (extract_lets +onlyGivenNames -underBinder x; (with_reducible refine Keeps.cut (v := x) ?_ (fun hx => ?_)); subst x; rotate_left; clear_value x; rotate_right)
    | (extract_lets +onlyGivenNames -underBinder x; clear_value x)
    | ((with_reducible apply State.later_keeps); (case hm => exact rfl))
    | split
    | (dsimp only)

theorem State.fanTo_keeps {n0 : Nat} {s0 : State} {s : State} {r : Rate} {g : Nat} {x : FanSt} {new : Nat} (hK : Keeps n0 s0 s) (hm : Keeps.sub 0x18000000 n0 = true) :
    Keeps n0 s0 (State.fanTo s r g x new).2 := by
  refine Keeps.step hK ?_ hm
  clear hK hm
  unfold State.fanTo
  repeat' first
    | with_reducible exact Keeps.refl _ _
    | with_reducible assumption
    | (extract_lets +onlyGivenNames -underBinder x; (with_reducible refine Keeps.cut (v := x) ?_ (fun hx => ?_)); subst x; rotate_left; clear_value x; rotate_right)
    | (extract_lets +onlyGivenNames -underBinder x; clear_value x)
    | ((with_reducible apply State.fanFault_keeps); (case hm => exact rfl))
    | ((with_reducible apply State.later_keeps); (case hm => exact rfl))
    | (with_reducible refine Keeps.ofP2 (by assumption) ?_)
    | (with_reducible refine Keeps.ofP1 (by assumption) ?_)
    | (with_reducible refine Keeps.ofP3 (by assumption) ?_)
    | split
    | (dsimp only)

theorem State.fanStartEnd_keeps {n0 : Nat} {s0 : State} {s : State} {r : Rate} {g : Nat} {x : FanSt} (hK : Keeps n0 s0 s) (hm : Keeps.sub 0x18000000 n0 = true) :
    Keeps n0 s0 (State.fanStartEnd s r g x).2 := by
  refine Keeps.step hK ?_ hm
  clear hK hm
  unfold State.fanStartEnd
  repeat' first
    | with_reducible exact Keeps.refl _ _
    | with_reducible assumption
    | ((with_reducible apply State.fanTo_keeps); (case hm => exact rfl))
    | split
    | (dsimp only)

theorem State.fanPulseEnd_keeps {n0 : Nat} {s0 : State} {s : State} {r : Rate} {g : Nat} {x : FanSt} (hK : Keeps n0 s0 s) (hm : Keeps.sub 0x18000000 n0 = true) :
    Keeps n0 s0 (State.fanPulseEnd s r g x).2 := by
  refine Keeps.step hK ?_ hm
  clear hK hm
  unfold State.fanPulseEnd
  repeat' first
    | with_reducible exact Keeps.refl _ _
    | with_reducible assumption
    | ((with_reducible apply State.fanTo_keeps); (case hm => exact rfl))
    | split
    | (dsimp only)

theorem State.fanKickEnd_keeps {n0 : Nat} {s0 : State} {s : State} {r : Rate} {g : Nat} {x : FanSt} {cnt : Nat} (hK : Keeps n0 s0 s) (hm : Keeps.sub 0x18000000 n0 = true) :
    Keeps n0 s0 (State.fanKickEnd s r g x cnt).2 := by
  refine Keeps.step hK ?_ hm
  clear hK hm
  unfold State.fanKickEnd
  repeat' first
    | with_reducible exact Keeps.refl _ _
    | with_reducible assumption
    | (extract_lets +onlyGivenNames -underBinder x; (with_reducible refine Keeps.cut (v := x) ?_ (fun hx => ?_)); subst x; rotate_left; clear_value x; rotate_right)
    | (extract_lets +onlyGivenNames -underBinder x; clear_value x)
    | ((with_reducible apply State.fanTo_keeps); (case hm => exact rfl))
    | (with_reducible refine Keeps.ofP2 (by assumption) ?_)
    | (with_reducible refine Keeps.ofP1 (by assumption) ?_)
    | (with_reducible refine Keeps.ofP3 (by assumption) ?_)
    | split
    | (dsimp only)

theorem State.fanVerify_keeps {n0 : Nat} {s0 : State} {s : State} {r : Rate} {g : Nat} {x : FanSt} (hK : Keeps n0 s0 s) (hm : Keeps.sub 0x10018080004 n0 = true) :
    Keeps n0 s0 (State.fanVerify s r g x).2 := by
  refine Keeps.step hK ?_ hm
  clear hK hm
  unfold State.fanVerify
  repeat' first
    | with_reducible exact Keeps.refl _ _
    | with_reducible assumption
    | (extract_lets +onlyGivenNames -underBinder x; (have hfn : Option _ := x; clear hfn); subst x; dsimp only)
    | (extract_lets +onlyGivenNames -underBinder x; (with_reducible refine Keeps.cut (v := x) ?_ (fun hx => ?_)); subst x; rotate_left; clear_value x; rotate_right)
    | (extract_lets +onlyGivenNames -underBinder x; clear_value x)
    | ((with_reducible apply State.fanTo_keeps); (case hm => exact rfl))
    | ((with_reducible apply State.sluicePut_keeps); (case hq => assumption); (case hm => exact rfl))
    | (with_reducible refine Keeps.ofP2 (by assumption) ?_)
    | (with_reducible refine Keeps.ofP1 (by assumption) ?_)
    | (with_reducible refine Keeps.ofP3 (by assumption) ?_)
    | split
    | (with_reducible refine Keeps.leaf ?_ (h_fanIo := Keeps.chg (by decide)))
    | (dsimp only)

theorem State.fanSampleDone_keeps {n0 : Nat} {s0 : State} {s : State} {core : Nat} {slot : Nat} {y : Int} {ovf : Bool} (hK : Keeps n0 s0 s) (hm : Keeps.sub 0x10000000000 n0 = true) :
    Keeps n0 s0 (State.fanSampleDone s core slot y ovf) := by
  refine Keeps.step hK ?_ hm
  clear hK hm
  unfold State.fanSampleDone
  repeat' first
    | with_reducible exact Keeps.refl _ _
    | with_reducible assumption
    | (extract_lets +onlyGivenNames -underBinder x; (with_reducible refine Keeps.cut (v := x) ?_ (fun hx => ?_)); subst x; rotate_left; clear_value x; rotate_right)
    | (extract_lets +onlyGivenNames -underBinder x; clear_value x)
    | (with_reducible refine Keeps.ofP2 (by assumption) ?_)
    | (with_reducible refine Keeps.ofP1 (by assumption) ?_)
    | (with_reducible refine Keeps.ofP3 (by assumption) ?_)
    | split
    | (with_reducible refine Keeps.leaf ?_ (h_fanIo := Keeps.chg (by decide)))
    | (dsimp only)

theorem State.fanLearnEnd_keeps {n0 : Nat} {s0 : State} {s : State} {r : Rate} {g : Nat} {x : FanSt} {ok : Bool} (hK : Keeps n0 s0 s) (hm : Keeps.sub 0x18000000 n0 = true) :
    Keeps n0 s0 (State.fanLearnEnd s r g x ok).2 := by
  refine Keeps.step hK ?_ hm
  clear hK hm
  unfold State.fanLearnEnd
  repeat' first
    | with_reducible exact Keeps.refl _ _
    | with_reducible assumption
    | (extract_lets +onlyGivenNames -underBinder x; (with_reducible refine Keeps.cut (v := x) ?_ (fun hx => ?_)); subst x; rotate_left; clear_value x; rotate_right)
    | (extract_lets +onlyGivenNames -underBinder x; clear_value x)
    | ((with_reducible apply State.fanFault_keeps); (case hm => exact rfl))
    | ((with_reducible apply State.fanTo_keeps); (case hm => exact rfl))
    | ((with_reducible apply State.later_keeps); (case hm => exact rfl))
    | split
    | (dsimp only)

theorem State.fanPointEnd_keeps {n0 : Nat} {s0 : State} {s : State} {r : Rate} {g : Nat} {x : FanSt} {cnt : Nat} (hK : Keeps n0 s0 s) (hm : Keeps.sub 0x18800004 n0 = true) :
    Keeps n0 s0 (State.fanPointEnd s r g x cnt).2 := by
  refine Keeps.step hK ?_ hm
  clear hK hm
  unfold State.fanPointEnd
  repeat' first
    | with_reducible exact Keeps.refl _ _
    | with_reducible assumption
    | (extract_lets +onlyGivenNames -underBinder x; (with_reducible refine Keeps.cut (v := x) ?_ (fun hx => ?_)); subst x; rotate_left; clear_value x; rotate_right)
    | (extract_lets +onlyGivenNames -underBinder x; clear_value x)
    | ((with_reducible apply State.peatGauge_keeps); (case hm => exact rfl))
    | ((with_reducible apply State.engineRun_keeps); (case hm => exact rfl))
    | ((with_reducible apply State.fanLearnEnd_keeps); (case hm => exact rfl))
    | (with_reducible refine Keeps.ofP2 (by assumption) ?_)
    | (with_reducible refine Keeps.ofP1 (by assumption) ?_)
    | (with_reducible refine Keeps.ofP3 (by assumption) ?_)
    | split
    | (dsimp only)

theorem State.fanLearnFrame_keeps {n0 : Nat} {s0 : State} {s : State} {r : Rate} {g : Nat} {x : FanSt} {cnt : Nat} (hK : Keeps n0 s0 s) (hm : Keeps.sub 0x18800004 n0 = true) :
    Keeps n0 s0 (State.fanLearnFrame s r g x cnt).2 := by
  refine Keeps.step hK ?_ hm
  clear hK hm
  unfold State.fanLearnFrame
  repeat' first
    | with_reducible exact Keeps.refl _ _
    | with_reducible assumption
    | (extract_lets +onlyGivenNames -underBinder x; (with_reducible refine Keeps.cut (v := x) ?_ (fun hx => ?_)); subst x; rotate_left; clear_value x; rotate_right)
    | (extract_lets +onlyGivenNames -underBinder x; clear_value x)
    | ((with_reducible apply State.fanPointEnd_keeps); (case hm => exact rfl))
    | split
    | (dsimp only)

theorem State.fanRunEnded_keeps {n0 : Nat} {s0 : State} {s : State} {g : Nat} {ok : Bool} (hK : Keeps n0 s0 s) (hm : Keeps.sub 0x1040004 n0 = true) :
    Keeps n0 s0 (State.fanRunEnded s g ok) := by
  refine Keeps.step hK ?_ hm
  clear hK hm
  unfold State.fanRunEnded
  repeat' first
    | with_reducible exact Keeps.refl _ _
    | with_reducible assumption
    | (extract_lets +onlyGivenNames -underBinder x; (with_reducible refine Keeps.cut (v := x) ?_ (fun hx => ?_)); subst x; rotate_left; clear_value x; rotate_right)
    | (extract_lets +onlyGivenNames -underBinder x; clear_value x)
    | ((with_reducible apply State.setFan_keeps); (case hm => exact rfl))
    | ((with_reducible apply State.irq_keeps); (case hm => exact rfl))
    | ((with_reducible apply State.raise_keeps); (case hm => exact rfl))
    | split
    | (dsimp only)

theorem State.fanAge_keeps {n0 : Nat} {s0 : State} {s : State} {r : Rate} {g : Nat} {x : FanSt} {d : Int} (hK : Keeps n0 s0 s) (hm : Keeps.sub 0x18000000 n0 = true) :
    Keeps n0 s0 (State.fanAge s r g x d).2 := by
  refine Keeps.step hK ?_ hm
  clear hK hm
  unfold State.fanAge
  repeat' first
    | with_reducible exact Keeps.refl _ _
    | with_reducible assumption
    | (extract_lets +onlyGivenNames -underBinder x; (with_reducible refine Keeps.cut (v := x) ?_ (fun hx => ?_)); subst x; rotate_left; clear_value x; rotate_right)
    | (extract_lets +onlyGivenNames -underBinder x; clear_value x)
    | ((with_reducible apply State.fanFault_keeps); (case hm => exact rfl))
    | split
    | (dsimp only)

theorem State.fanMinute_keeps {n0 : Nat} {s0 : State} {s : State} {r : Rate} {g : Nat} {x : FanSt} {m : Nat} (hK : Keeps n0 s0 s) (hm : Keeps.sub 0x18000000 n0 = true) :
    Keeps n0 s0 (State.fanMinute s r g x m).2 := by
  refine Keeps.step hK ?_ hm
  clear hK hm
  unfold State.fanMinute
  repeat' first
    | with_reducible exact Keeps.refl _ _
    | with_reducible assumption
    | (extract_lets +onlyGivenNames -underBinder x; (with_reducible refine Keeps.cut (v := x) ?_ (fun hx => ?_)); subst x; rotate_left; clear_value x; rotate_right)
    | (extract_lets +onlyGivenNames -underBinder x; clear_value x)
    | ((with_reducible apply State.fanAge_keeps); (case hm => exact rfl))
    | (with_reducible refine Keeps.ofP2 (by assumption) ?_)
    | (with_reducible refine Keeps.ofP1 (by assumption) ?_)
    | (with_reducible refine Keeps.ofP3 (by assumption) ?_)
    | split
    | (dsimp only)

theorem State.fanFinish_keeps {n0 : Nat} {s0 : State} {s : State} {r : Rate} {g : Nat} {x : FanSt} {fen : Bool} (hK : Keeps n0 s0 s) (hm : Keeps.sub 0x19031800 n0 = true) :
    Keeps n0 s0 (State.fanFinish s r g x fen) := by
  refine Keeps.step hK ?_ hm
  clear hK hm
  unfold State.fanFinish
  repeat' first
    | with_reducible exact Keeps.refl _ _
    | with_reducible assumption
    | (extract_lets +onlyGivenNames -underBinder x; (with_reducible refine Keeps.cut (v := x) ?_ (fun hx => ?_)); subst x; rotate_left; clear_value x; rotate_right)
    | (extract_lets +onlyGivenNames -underBinder x; clear_value x)
    | ((with_reducible apply State.setFan_keeps); (case hm => exact rfl))
    | ((with_reducible apply State.laterB_keeps); (case hm => exact rfl))
    | ((with_reducible apply State.stage_keeps); (case hm => exact rfl))
    | ((with_reducible apply State.laterSeti_keeps); (case hm => exact rfl))
    | ((with_reducible apply State.produce_keeps); (case hm => exact rfl))
    | ((with_reducible apply State.laterSet_keeps); (case hm => exact rfl))
    | (with_reducible refine Keeps.fold _ _ ?_ (fun u b hu => ?_))
    | (with_reducible refine Keeps.ofP2 (by assumption) ?_)
    | (with_reducible refine Keeps.ofP1 (by assumption) ?_)
    | (with_reducible refine Keeps.ofP3 (by assumption) ?_)
    | split
    | (dsimp only)

theorem State.fanCommands_keeps {n0 : Nat} {s0 : State} {s : State} {r : Rate} {g : Nat} {x : FanSt} (hK : Keeps n0 s0 s) (hm : Keeps.sub 0x18000000 n0 = true) :
    Keeps n0 s0 (State.fanCommands s r g x).2 := by
  refine Keeps.step hK ?_ hm
  clear hK hm
  unfold State.fanCommands
  repeat' first
    | with_reducible exact Keeps.refl _ _
    | with_reducible assumption
    | (extract_lets +onlyGivenNames -underBinder x; (with_reducible refine Keeps.cut (v := x) ?_ (fun hx => ?_)); subst x; rotate_left; clear_value x; rotate_right)
    | (extract_lets +onlyGivenNames -underBinder x; clear_value x)
    | ((with_reducible apply State.fanFault_keeps); (case hm => exact rfl))
    | ((with_reducible apply State.fanTo_keeps); (case hm => exact rfl))
    | ((with_reducible apply State.fanLearnEnd_keeps); (case hm => exact rfl))
    | (with_reducible refine Keeps.fold _ _ ?_ (fun u b hu => ?_))
    | (with_reducible refine Keeps.foldPair _ _ ?_ (fun u b hu => ?_))
    | (with_reducible refine Keeps.foldPairL _ _ ?_ (fun u b hu => ?_))
    | (with_reducible refine Keeps.ofP2 (by assumption) ?_)
    | (with_reducible refine Keeps.ofP1 (by assumption) ?_)
    | (with_reducible refine Keeps.ofP3 (by assumption) ?_)
    | split
    | (dsimp only)

theorem State.fanMove_keeps {n0 : Nat} {s0 : State} {s : State} {r : Rate} {g : Nat} {x : FanSt} {cnt : Nat} {cap : Nat} {duty : Int} {pulse : Bool} {l0 : Bool} (hK : Keeps n0 s0 s) (hm : Keeps.sub 0x10018880004 n0 = true) :
    Keeps n0 s0 (State.fanMove s r g x cnt cap duty pulse l0).2 := by
  refine Keeps.step hK ?_ hm
  clear hK hm
  unfold State.fanMove
  extract_lets c
  repeat' first
    | with_reducible exact Keeps.refl _ _
    | with_reducible assumption
    | (extract_lets +onlyGivenNames -underBinder x; (with_reducible refine Keeps.cut (v := x) ?_ (fun hx => ?_)); subst x; rotate_left; clear_value x; rotate_right)
    | (extract_lets +onlyGivenNames -underBinder x; clear_value x)
    | ((with_reducible apply State.fanStartEnd_keeps); (case hm => exact rfl))
    | ((with_reducible apply State.fanPulseEnd_keeps); (case hm => exact rfl))
    | ((with_reducible apply State.fanKickEnd_keeps); (case hm => exact rfl))
    | ((with_reducible apply State.fanVerify_keeps); (case hm => exact rfl))
    | ((with_reducible apply State.fanTo_keeps); (case hm => exact rfl))
    | ((with_reducible apply State.fanLearnFrame_keeps); (case hm => exact rfl))
    | (with_reducible refine Keeps.ofP2 (by assumption) ?_)
    | (with_reducible refine Keeps.ofP1 (by assumption) ?_)
    | (with_reducible refine Keeps.ofP3 (by assumption) ?_)
    | split
    | (dsimp only)

theorem State.fanEval_keeps {n0 : Nat} {s0 : State} {s : State} {r : Rate} {g : Nat} (hK : Keeps n0 s0 s) (hm : Keeps.sub 0x100198b1804 n0 = true) :
    Keeps n0 s0 (State.fanEval s r g) := by
  refine Keeps.step hK ?_ hm
  clear hK hm
  unfold State.fanEval
  repeat' first
    | with_reducible exact Keeps.refl _ _
    | with_reducible assumption
    | (extract_lets +onlyGivenNames -underBinder x; (with_reducible refine Keeps.cut (v := x) ?_ (fun hx => ?_)); subst x; rotate_left; clear_value x; rotate_right)
    | (extract_lets +onlyGivenNames -underBinder x; clear_value x)
    | ((with_reducible apply State.fanMove_keeps); (case hm => exact rfl))
    | ((with_reducible apply State.fanCommands_keeps); (case hm => exact rfl))
    | ((with_reducible apply State.fanFinish_keeps); (case hm => exact rfl))
    | ((with_reducible apply State.fanMinute_keeps); (case hm => exact rfl))
    | (with_reducible refine Keeps.ofP2 (by assumption) ?_)
    | (with_reducible refine Keeps.ofP1 (by assumption) ?_)
    | (with_reducible refine Keeps.ofP3 (by assumption) ?_)
    | split
    | (dsimp only)

theorem State.fanFrame_keeps {n0 : Nat} {s0 : State} {s : State} {r : Rate} (hK : Keeps n0 s0 s) (hm : Keeps.sub 0x100198b1804 n0 = true) :
    Keeps n0 s0 (State.fanFrame s r) := by
  refine Keeps.step hK ?_ hm
  clear hK hm
  unfold State.fanFrame
  repeat' first
    | with_reducible exact Keeps.refl _ _
    | with_reducible assumption
    | ((with_reducible apply State.stage_keeps); (case hm => exact rfl))
    | ((with_reducible apply State.fanEval_keeps); (case hm => exact rfl))
    | (with_reducible refine Keeps.fold _ _ ?_ (fun u b hu => ?_))
    | split
    | (dsimp only)

theorem State.takeFanCmds_keeps {n0 : Nat} {s0 : State} {s : State} {r : Rate} (hK : Keeps n0 s0 s) (hm : Keeps.sub 0x10001000000 n0 = true) :
    Keeps n0 s0 (State.takeFanCmds s r) := by
  refine Keeps.step hK ?_ hm
  clear hK hm
  unfold State.takeFanCmds
  repeat' first
    | with_reducible exact Keeps.refl _ _
    | with_reducible assumption
    | (extract_lets +onlyGivenNames -underBinder x; (with_reducible refine Keeps.cut (v := x) ?_ (fun hx => ?_)); subst x; rotate_left; clear_value x; rotate_right)
    | (extract_lets +onlyGivenNames -underBinder x; clear_value x)
    | ((with_reducible apply State.setFan_keeps); (case hm => exact rfl))
    | (with_reducible refine Keeps.fold _ _ ?_ (fun u b hu => ?_))
    | (with_reducible refine Keeps.ofP2 (by assumption) ?_)
    | (with_reducible refine Keeps.ofP1 (by assumption) ?_)
    | (with_reducible refine Keeps.ofP3 (by assumption) ?_)
    | split
    | (with_reducible refine Keeps.leaf ?_ (h_fanIo := Keeps.chg (by decide)))
    | (dsimp only)

theorem State.fanCmd_keeps {n0 : Nat} {s0 : State} {s : State} {g : Nat} {w : Word} (hK : Keeps n0 s0 s) (hm : Keeps.sub 0x10000000004 n0 = true) :
    Keeps n0 s0 (State.fanCmd s g w) := by
  refine Keeps.step hK ?_ hm
  clear hK hm
  unfold State.fanCmd
  repeat' first
    | with_reducible exact Keeps.refl _ _
    | with_reducible assumption
    | (extract_lets +onlyGivenNames -underBinder x; (with_reducible refine Keeps.cut (v := x) ?_ (fun hx => ?_)); subst x; rotate_left; clear_value x; rotate_right)
    | (extract_lets +onlyGivenNames -underBinder x; (have hfn : (_ → _) := x; clear hfn); subst x; dsimp only)
    | (extract_lets +onlyGivenNames -underBinder x; clear_value x)
    | ((with_reducible apply State.blkErr_keeps); (case hm => exact rfl))
    | split
    | (with_reducible refine Keeps.leaf ?_ (h_fanIo := Keeps.chg (by decide)))
    | (dsimp only)

theorem State.fanSwitch_keeps {n0 : Nat} {s0 : State} {s : State} (hK : Keeps n0 s0 s) (hm : Keeps.sub 0x10001040404 n0 = true) :
    Keeps n0 s0 (State.fanSwitch s) := by
  refine Keeps.step hK ?_ hm
  clear hK hm
  unfold State.fanSwitch
  repeat' first
    | with_reducible exact Keeps.refl _ _
    | with_reducible assumption
    | (extract_lets +onlyGivenNames -underBinder x; (with_reducible refine Keeps.cut (v := x) ?_ (fun hx => ?_)); subst x; rotate_left; clear_value x; rotate_right)
    | (extract_lets +onlyGivenNames -underBinder x; clear_value x)
    | ((with_reducible apply State.setFan_keeps); (case hm => exact rfl))
    | ((with_reducible apply State.clearFault_keeps); (case hm => exact rfl))
    | ((with_reducible apply State.set_keeps); (case hm => exact rfl))
    | ((with_reducible apply State.raise_keeps); (case hm => exact rfl))
    | ((with_reducible apply State.relL0_keeps); (case hm => exact rfl))
    | (with_reducible refine Keeps.fold _ _ ?_ (fun u b hu => ?_))
    | split
    | (with_reducible refine Keeps.leaf ?_ (h_fanIo := Keeps.chg (by decide)))
    | (dsimp only)

end Sys2Proof.Machine
end

