-- ==== Sys2Proof/Laws/KeepsKey.lean ====
section
/-! SUPPORT. What each operation of Machine/Key.lean may touch (Laws/Keeps.lean): the mask lists the fields it may change,
and the invariant of the block is kept. -/
set_option Elab.async false
set_option linter.all false
namespace Sys2Proof.Machine

theorem State.updKey_keeps {n0 : Nat} {s0 : State} {s : State} {f : KeySt → KeySt} (hf : s.key.fifo.length ≤ 16 → (f s.key).fifo.length ≤ 16) (hK : Keeps n0 s0 s) (hm : Keeps.sub 0x20000000000 n0 = true) :
    Keeps n0 s0 (State.updKey s f) := by
  refine Keeps.step hK ?_ hm
  clear hK hm
  unfold State.updKey
  repeat' first
    | with_reducible exact Keeps.refl _ _
    | with_reducible assumption
    | (with_reducible refine Keeps.leaf ?_ (h_key := Keeps.chg (by decide)) (i5 := (fun h => ⟨h.1, h.2.1, hf h.2.2⟩)))
    | (dsimp only)

theorem State.keyFaces_keeps {n0 : Nat} {s0 : State} {s : State} (hK : Keeps n0 s0 s) (hm : Keeps.sub 0x4 n0 = true) :
    Keeps n0 s0 (State.keyFaces s) := by
  refine Keeps.step hK ?_ hm
  clear hK hm
  unfold State.keyFaces
  repeat' first
    | with_reducible exact Keeps.refl _ _
    | with_reducible assumption
    | (extract_lets +onlyGivenNames -underBinder x; (with_reducible refine Keeps.cut (v := x) ?_ (fun hx => ?_)); subst x; rotate_left; clear_value x; rotate_right)
    | (extract_lets +onlyGivenNames -underBinder x; clear_value x)
    | ((with_reducible apply State.setB_keeps); (case hm => exact rfl))
    | ((with_reducible apply State.set_keeps); (case hm => exact rfl))
    | (dsimp only)

theorem State.keyPost_keeps {n0 : Nat} {s0 : State} {s : State} {e : KeyEv} (hK : Keeps n0 s0 s) (hm : Keeps.sub 0x20000000004 n0 = true) :
    Keeps n0 s0 (State.keyPost s e) := by
  refine Keeps.step hK ?_ hm
  clear hK hm
  unfold State.keyPost
  repeat' first
    | with_reducible exact Keeps.refl _ _
    | with_reducible assumption
    | ((with_reducible apply State.irq_keeps); (case hm => exact rfl))
    | ((with_reducible apply State.updKey_keeps); (case hm => exact rfl); (case hf => first | exact id | (intro h; simp_all; try omega)))
    | split
    | (dsimp only)

theorem State.keyRead_keeps {n0 : Nat} {s0 : State} {s : State} (hK : Keeps n0 s0 s) (hm : Keeps.sub 0x20000000004 n0 = true) :
    Keeps n0 s0 (State.keyRead s).2 := by
  refine Keeps.step hK ?_ hm
  clear hK hm
  unfold State.keyRead
  repeat' first
    | with_reducible exact Keeps.refl _ _
    | with_reducible assumption
    | (extract_lets +onlyGivenNames -underBinder x; (with_reducible refine Keeps.cut (v := x) ?_ (fun hx => ?_)); subst x; rotate_left; clear_value x; rotate_right)
    | (extract_lets +onlyGivenNames -underBinder x; clear_value x)
    | ((with_reducible apply State.keyFaces_keeps); (case hm => exact rfl))
    | ((with_reducible apply State.updKey_keeps); (case hm => exact rfl); (case hf => first | exact id | (intro h; simp_all; try omega)))
    | (with_reducible refine Keeps.ofP2 (by assumption) ?_)
    | (with_reducible refine Keeps.ofP1 (by assumption) ?_)
    | (with_reducible refine Keeps.ofP3 (by assumption) ?_)
    | split
    | (dsimp only)

theorem State.keyCount_keeps {n0 : Nat} {s0 : State} {s : State} {i : Nat} {down : Bool} (hK : Keeps n0 s0 s) (hm : Keeps.sub 0x20000000000 n0 = true) :
    Keeps n0 s0 (State.keyCount s i down) := by
  refine Keeps.step hK ?_ hm
  clear hK hm
  unfold State.keyCount
  repeat' first
    | with_reducible exact Keeps.refl _ _
    | with_reducible assumption
    | (extract_lets +onlyGivenNames -underBinder x; (with_reducible refine Keeps.cut (v := x) ?_ (fun hx => ?_)); subst x; rotate_left; clear_value x; rotate_right)
    | (extract_lets +onlyGivenNames -underBinder x; clear_value x)
    | ((with_reducible apply State.updKey_keeps); (case hm => exact rfl); (case hf => first | exact id | (intro h; simp_all; try omega)))
    | (with_reducible refine Keeps.ofP2 (by assumption) ?_)
    | (with_reducible refine Keeps.ofP1 (by assumption) ?_)
    | (with_reducible refine Keeps.ofP3 (by assumption) ?_)
    | split
    | (dsimp only)

theorem State.keyScan_keeps {n0 : Nat} {s0 : State} {s : State} {m : Matrix} (hK : Keeps n0 s0 s) (hm : Keeps.sub 0x20000000006 n0 = true) :
    Keeps n0 s0 (State.keyScan s m) := by
  refine Keeps.step hK ?_ hm
  clear hK hm
  unfold State.keyScan
  repeat' first
    | with_reducible exact Keeps.refl _ _
    | with_reducible assumption
    | (extract_lets +onlyGivenNames -underBinder x; (with_reducible refine Keeps.cut (v := x) ?_ (fun hx => ?_)); subst x; rotate_left; clear_value x; rotate_right)
    | (extract_lets +onlyGivenNames -underBinder x; clear_value x)
    | ((with_reducible apply State.keyFaces_keeps); (case hm => exact rfl))
    | ((with_reducible apply State.irq_keeps); (case hm => exact rfl))
    | ((with_reducible apply State.at__keeps); (case hm => exact rfl))
    | ((with_reducible apply State.keyCount_keeps); (case hm => exact rfl))
    | ((with_reducible apply State.updKey_keeps); (case hm => exact rfl); (case hf => first | exact id | (intro h; simp_all; try omega)))
    | ((with_reducible apply State.keyPost_keeps); (case hm => exact rfl))
    | (with_reducible refine Keeps.fold _ _ ?_ (fun u b hu => ?_))
    | split
    | (dsimp only)

theorem State.keyWake_keeps {n0 : Nat} {s0 : State} {s : State} (hK : Keeps n0 s0 s) (hm : Keeps.sub 0x20000000004 n0 = true) :
    Keeps n0 s0 (State.keyWake s) := by
  refine Keeps.step hK ?_ hm
  clear hK hm
  unfold State.keyWake
  repeat' first
    | with_reducible exact Keeps.refl _ _
    | with_reducible assumption
    | ((with_reducible apply State.keyFaces_keeps); (case hm => exact rfl))
    | ((with_reducible apply State.updKey_keeps); (case hm => exact rfl); (case hf => first | exact id | (intro h; simp_all; try omega)))
    | split
    | (dsimp only)

theorem State.keyIdle_keeps {n0 : Nat} {s0 : State} {s : State} (hK : Keeps n0 s0 s) (hm : Keeps.sub 0x20000000006 n0 = true) :
    Keeps n0 s0 (State.keyIdle s) := by
  refine Keeps.step hK ?_ hm
  clear hK hm
  unfold State.keyIdle
  repeat' first
    | with_reducible exact Keeps.refl _ _
    | with_reducible assumption
    | (extract_lets +onlyGivenNames -underBinder x; (with_reducible refine Keeps.cut (v := x) ?_ (fun hx => ?_)); subst x; rotate_left; clear_value x; rotate_right)
    | (extract_lets +onlyGivenNames -underBinder x; clear_value x)
    | ((with_reducible apply State.keyFaces_keeps); (case hm => exact rfl))
    | ((with_reducible apply State.at__keeps); (case hm => exact rfl))
    | ((with_reducible apply State.updKey_keeps); (case hm => exact rfl); (case hf => first | exact id | (intro h; simp_all; try omega)))
    | (with_reducible refine Keeps.ofP2 (by assumption) ?_)
    | (with_reducible refine Keeps.ofP1 (by assumption) ?_)
    | (with_reducible refine Keeps.ofP3 (by assumption) ?_)
    | split
    | (dsimp only)

theorem State.keyStop_keeps {n0 : Nat} {s0 : State} {s : State} (hK : Keeps n0 s0 s) (hm : Keeps.sub 0x20000000004 n0 = true) :
    Keeps n0 s0 (State.keyStop s) := by
  refine Keeps.step hK ?_ hm
  clear hK hm
  unfold State.keyStop
  repeat' first
    | with_reducible exact Keeps.refl _ _
    | with_reducible assumption
    | ((with_reducible apply State.keyFaces_keeps); (case hm => exact rfl))
    | ((with_reducible apply State.updKey_keeps); (case hm => exact rfl); (case hf => first | exact id | (intro h; simp_all; try omega)))
    | (dsimp only)

theorem State.encoderMove_keeps {n0 : Nat} {s0 : State} {s : State} {e : Nat} {ab : Nat} (hK : Keeps n0 s0 s) (hm : Keeps.sub 0x20000000004 n0 = true) :
    Keeps n0 s0 (State.encoderMove s e ab) := by
  refine Keeps.step hK ?_ hm
  clear hK hm
  unfold State.encoderMove
  repeat' first
    | with_reducible exact Keeps.refl _ _
    | with_reducible assumption
    | (extract_lets +onlyGivenNames -underBinder x; (with_reducible refine Keeps.cut (v := x) ?_ (fun hx => ?_)); subst x; rotate_left; clear_value x; rotate_right)
    | (extract_lets +onlyGivenNames -underBinder x; clear_value x)
    | ((with_reducible apply State.irq_keeps); (case hm => exact rfl))
    | ((with_reducible apply State.seti_keeps); (case hm => exact rfl))
    | ((with_reducible apply State.updKey_keeps); (case hm => exact rfl); (case hf => first | exact id | (intro h; simp_all; try omega)))
    | (with_reducible refine Keeps.ofP2 (by assumption) ?_)
    | (with_reducible refine Keeps.ofP1 (by assumption) ?_)
    | (with_reducible refine Keeps.ofP3 (by assumption) ?_)
    | split
    | (dsimp only)

theorem State.comboFire_keeps {n0 : Nat} {s0 : State} {s : State} {k : Nat} (hK : Keeps n0 s0 s) (hm : Keeps.sub 0x20000000006 n0 = true) :
    Keeps n0 s0 (State.comboFire s k).2 := by
  refine Keeps.step hK ?_ hm
  clear hK hm
  unfold State.comboFire
  repeat' first
    | with_reducible exact Keeps.refl _ _
    | with_reducible assumption
    | (extract_lets +onlyGivenNames -underBinder x; (with_reducible refine Keeps.cut (v := x) ?_ (fun hx => ?_)); subst x; rotate_left; clear_value x; rotate_right)
    | (extract_lets +onlyGivenNames -underBinder x; clear_value x)
    | ((with_reducible apply State.setB_keeps); (case hm => exact rfl))
    | ((with_reducible apply State.keyFaces_keeps); (case hm => exact rfl))
    | ((with_reducible apply State.irq_keeps); (case hm => exact rfl))
    | ((with_reducible apply State.at__keeps); (case hm => exact rfl))
    | ((with_reducible apply State.updKey_keeps); (case hm => exact rfl); (case hf => first | exact id | (intro h; simp_all; try omega)))
    | ((with_reducible apply State.keyPost_keeps); (case hm => exact rfl))
    | (with_reducible refine Keeps.ofP2 (by assumption) ?_)
    | (with_reducible refine Keeps.ofP1 (by assumption) ?_)
    | (with_reducible refine Keeps.ofP3 (by assumption) ?_)
    | split
    | (dsimp only)

theorem State.unlockExpiry_keeps {n0 : Nat} {s0 : State} {s : State} (hK : Keeps n0 s0 s) (hm : Keeps.sub 0x20000000006 n0 = true) :
    Keeps n0 s0 (State.unlockExpiry s) := by
  refine Keeps.step hK ?_ hm
  clear hK hm
  unfold State.unlockExpiry
  repeat' first
    | with_reducible exact Keeps.refl _ _
    | with_reducible assumption
    | (extract_lets +onlyGivenNames -underBinder x; (with_reducible refine Keeps.cut (v := x) ?_ (fun hx => ?_)); subst x; rotate_left; clear_value x; rotate_right)
    | (extract_lets +onlyGivenNames -underBinder x; clear_value x)
    | ((with_reducible apply State.setB_keeps); (case hm => exact rfl))
    | ((with_reducible apply State.keyFaces_keeps); (case hm => exact rfl))
    | ((with_reducible apply State.at__keeps); (case hm => exact rfl))
    | ((with_reducible apply State.updKey_keeps); (case hm => exact rfl); (case hf => first | exact id | (intro h; simp_all; try omega)))
    | (with_reducible refine Keeps.ofP2 (by assumption) ?_)
    | (with_reducible refine Keeps.ofP1 (by assumption) ?_)
    | (with_reducible refine Keeps.ofP3 (by assumption) ?_)
    | split
    | (dsimp only)

theorem State.panelLock_keeps {n0 : Nat} {s0 : State} {s : State} (hK : Keeps n0 s0 s) (hm : Keeps.sub 0x20000000004 n0 = true) :
    Keeps n0 s0 (State.panelLock s) := by
  refine Keeps.step hK ?_ hm
  clear hK hm
  unfold State.panelLock
  repeat' first
    | with_reducible exact Keeps.refl _ _
    | with_reducible assumption
    | ((with_reducible apply State.setB_keeps); (case hm => exact rfl))
    | ((with_reducible apply State.keyFaces_keeps); (case hm => exact rfl))
    | ((with_reducible apply State.updKey_keeps); (case hm => exact rfl); (case hf => first | exact id | (intro h; simp_all; try omega)))
    | (dsimp only)

theorem State.panelWr_keeps {n0 : Nat} {s0 : State} {s : State} {w : Word} (hK : Keeps n0 s0 s) (hm : Keeps.sub 0x200202004 n0 = true) :
    Keeps n0 s0 (State.panelWr s w) := by
  refine Keeps.step hK ?_ hm
  clear hK hm
  unfold State.panelWr
  repeat' first
    | with_reducible exact Keeps.refl _ _
    | with_reducible assumption
    | (extract_lets +onlyGivenNames -underBinder x; (with_reducible refine Keeps.cut (v := x) ?_ (fun hx => ?_)); subst x; rotate_left; clear_value x; rotate_right)
    | (extract_lets +onlyGivenNames -underBinder x; clear_value x)
    | ((with_reducible apply State.blkErr_keeps); (case hm => exact rfl))
    | (with_reducible refine Keeps.ofP2 (by assumption) ?_)
    | (with_reducible refine Keeps.ofP1 (by assumption) ?_)
    | (with_reducible refine Keeps.ofP3 (by assumption) ?_)
    | split
    | (with_reducible refine Keeps.leaf ?_ (h_hostLv := Keeps.chg (by decide)) (h_dir := Keeps.chg (by decide)) (h_hostZm := Keeps.chg (by decide)))
    | (dsimp only)

end Sys2Proof.Machine
end

