-- ==== Sys2Proof/Laws/KeepsEpd.lean ====
section
/-! SUPPORT. What each operation of Machine/Epd.lean may touch (Laws/Keeps.lean): the mask lists the fields it may change,
and the invariant of the block is kept. -/
set_option Elab.async false
set_option linter.all false
namespace Sys2Proof.Machine

theorem State.updEpd_keeps {n0 : Nat} {s0 : State} {s : State} {f : EpdSt → EpdSt} (hK : Keeps n0 s0 s) (hm : Keeps.sub 0x40000000000 n0 = true) :
    Keeps n0 s0 (State.updEpd s f) := by
  refine Keeps.step hK ?_ hm
  clear hK hm
  unfold State.updEpd
  repeat' first
    | with_reducible exact Keeps.refl _ _
    | with_reducible assumption
    | (with_reducible refine Keeps.leaf ?_ (h_epd := Keeps.chg (by decide)))
    | (dsimp only)

theorem State.epdFaces_keeps {n0 : Nat} {s0 : State} {s : State} (hK : Keeps n0 s0 s) (hm : Keeps.sub 0x4 n0 = true) :
    Keeps n0 s0 (State.epdFaces s) := by
  refine Keeps.step hK ?_ hm
  clear hK hm
  unfold State.epdFaces
  repeat' first
    | with_reducible exact Keeps.refl _ _
    | with_reducible assumption
    | (extract_lets +onlyGivenNames -underBinder x; (with_reducible refine Keeps.cut (v := x) ?_ (fun hx => ?_)); subst x; rotate_left; clear_value x; rotate_right)
    | (extract_lets +onlyGivenNames -underBinder x; clear_value x)
    | ((with_reducible apply State.setB_keeps); (case hm => exact rfl))
    | ((with_reducible apply State.set_keeps); (case hm => exact rfl))
    | (with_reducible refine Keeps.fold _ _ ?_ (fun u b hu => ?_))
    | (dsimp only)

theorem State.railsAsk_keeps {n0 : Nat} {s0 : State} {s : State} (hK : Keeps n0 s0 s) (hm : Keeps.sub 0x40000000000 n0 = true) :
    Keeps n0 s0 (State.railsAsk s) := by
  refine Keeps.step hK ?_ hm
  clear hK hm
  unfold State.railsAsk
  repeat' first
    | with_reducible exact Keeps.refl _ _
    | with_reducible assumption
    | (extract_lets +onlyGivenNames -underBinder x; (with_reducible refine Keeps.cut (v := x) ?_ (fun hx => ?_)); subst x; rotate_left; clear_value x; rotate_right)
    | (extract_lets +onlyGivenNames -underBinder x; clear_value x)
    | ((with_reducible apply State.updEpd_keeps); (case hm => exact rfl))
    | (with_reducible refine Keeps.ofP2 (by assumption) ?_)
    | (with_reducible refine Keeps.ofP1 (by assumption) ?_)
    | (with_reducible refine Keeps.ofP3 (by assumption) ?_)
    | split
    | (dsimp only)

theorem State.updRes_keeps {n0 : Nat} {s0 : State} {s : State} {res : Nat} {id : Nat} (hK : Keeps n0 s0 s) (hm : Keeps.sub 0x4 n0 = true) :
    Keeps n0 s0 (State.updRes s res id) := by
  refine Keeps.step hK ?_ hm
  clear hK hm
  unfold State.updRes
  repeat' first
    | with_reducible exact Keeps.refl _ _
    | with_reducible assumption
    | ((with_reducible apply State.set_keeps); (case hm => exact rfl))
    | (dsimp only)

theorem State.updRefuse_keeps {n0 : Nat} {s0 : State} {s : State} {res : Nat} {id : Nat} (hK : Keeps n0 s0 s) (hm : Keeps.sub 0x4 n0 = true) :
    Keeps n0 s0 (State.updRefuse s res id) := by
  refine Keeps.step hK ?_ hm
  clear hK hm
  unfold State.updRefuse
  repeat' first
    | with_reducible exact Keeps.refl _ _
    | with_reducible assumption
    | ((with_reducible apply State.irq_keeps); (case hm => exact rfl))
    | ((with_reducible apply State.updRes_keeps); (case hm => exact rfl))
    | (dsimp only)

theorem State.updRequest_keeps {n0 : Nat} {s0 : State} {s : State} {w : Word} (hK : Keeps n0 s0 s) (hm : Keeps.sub 0x40000000004 n0 = true) :
    Keeps n0 s0 (State.updRequest s w) := by
  refine Keeps.step hK ?_ hm
  clear hK hm
  unfold State.updRequest
  repeat' first
    | with_reducible exact Keeps.refl _ _
    | with_reducible assumption
    | (extract_lets +onlyGivenNames -underBinder x; (with_reducible refine Keeps.cut (v := x) ?_ (fun hx => ?_)); subst x; rotate_left; clear_value x; rotate_right)
    | (extract_lets +onlyGivenNames -underBinder x; clear_value x)
    | ((with_reducible apply State.updRes_keeps); (case hm => exact rfl))
    | ((with_reducible apply State.updRefuse_keeps); (case hm => exact rfl))
    | ((with_reducible apply State.railsAsk_keeps); (case hm => exact rfl))
    | ((with_reducible apply State.epdFaces_keeps); (case hm => exact rfl))
    | ((with_reducible apply State.updEpd_keeps); (case hm => exact rfl))
    | split
    | (dsimp only)

theorem State.updEnd_keeps {n0 : Nat} {s0 : State} {s : State} {q : UpdRun} (hK : Keeps n0 s0 s) (hm : Keeps.sub 0x40000000004 n0 = true) :
    Keeps n0 s0 (State.updEnd s q) := by
  refine Keeps.step hK ?_ hm
  clear hK hm
  unfold State.updEnd
  repeat' first
    | with_reducible exact Keeps.refl _ _
    | with_reducible assumption
    | (extract_lets +onlyGivenNames -underBinder x; (with_reducible refine Keeps.cut (v := x) ?_ (fun hx => ?_)); subst x; rotate_left; clear_value x; rotate_right)
    | (extract_lets +onlyGivenNames -underBinder x; clear_value x)
    | ((with_reducible apply State.irq_keeps); (case hm => exact rfl))
    | ((with_reducible apply State.set_keeps); (case hm => exact rfl))
    | ((with_reducible apply State.updEpd_keeps); (case hm => exact rfl))
    | (with_reducible refine Keeps.fold _ _ ?_ (fun u b hu => ?_))
    | (dsimp only)

theorem State.updStart_keeps {n0 : Nat} {s0 : State} {s : State} {u : Upd} (hK : Keeps n0 s0 s) (hm : Keeps.sub 0x40000000004 n0 = true) :
    Keeps n0 s0 (State.updStart s u) := by
  refine Keeps.step hK ?_ hm
  clear hK hm
  unfold State.updStart
  repeat' first
    | with_reducible exact Keeps.refl _ _
    | with_reducible assumption
    | (extract_lets +onlyGivenNames -underBinder x; (with_reducible refine Keeps.cut (v := x) ?_ (fun hx => ?_)); subst x; rotate_left; clear_value x; rotate_right)
    | (extract_lets +onlyGivenNames -underBinder x; clear_value x)
    | ((with_reducible apply State.irq_keeps); (case hm => exact rfl))
    | ((with_reducible apply State.updEpd_keeps); (case hm => exact rfl))
    | (dsimp only)

theorem State.updScan_keeps {n0 : Nat} {s0 : State} {s : State} {y1 : List Upd} {y2 : List Upd} (hK : Keeps n0 s0 s) (hm : Keeps.sub 0x40000000004 n0 = true) :
    Keeps n0 s0 (State.updScan s y1 y2) := by
  refine Keeps.step hK ?_ hm
  clear hK hm
  induction y1 generalizing s y2 with
  | nil => exact Keeps.refl _ _
  | cons v l ih =>
    unfold State.updScan
    split
    · exact ih
    split
    · exact (State.updStart_keeps (Keeps.refl _ _) rfl).trans ih
    split
    · exact (State.updEpd_keeps (Keeps.refl _ _) rfl).trans ih
    split
    · exact ((State.updRefuse_keeps (State.updEpd_keeps (Keeps.refl _ _) rfl) rfl).trans ih)
    · exact (State.updStart_keeps (Keeps.refl _ _) rfl).trans ih

theorem State.bootStep_keeps {n0 : Nat} {s0 : State} {s : State} (hK : Keeps n0 s0 s) (hm : Keeps.sub 0x40000000004 n0 = true) :
    Keeps n0 s0 (State.bootStep s) := by
  refine Keeps.step hK ?_ hm
  clear hK hm
  unfold State.bootStep
  repeat' first
    | with_reducible exact Keeps.refl _ _
    | with_reducible assumption
    | (extract_lets +onlyGivenNames -underBinder x; (with_reducible refine Keeps.cut (v := x) ?_ (fun hx => ?_)); subst x; rotate_left; clear_value x; rotate_right)
    | (extract_lets +onlyGivenNames -underBinder x; clear_value x)
    | ((with_reducible apply State.irq_keeps); (case hm => exact rfl))
    | ((with_reducible apply State.updEpd_keeps); (case hm => exact rfl))
    | (with_reducible refine Keeps.ofP2 (by assumption) ?_)
    | (with_reducible refine Keeps.ofP1 (by assumption) ?_)
    | (with_reducible refine Keeps.ofP3 (by assumption) ?_)
    | split
    | (dsimp only)

theorem State.epdBoundary_keeps {n0 : Nat} {s0 : State} {s : State} (hK : Keeps n0 s0 s) (hm : Keeps.sub 0x40000000006 n0 = true) :
    Keeps n0 s0 (State.epdBoundary s) := by
  refine Keeps.step hK ?_ hm
  clear hK hm
  unfold State.epdBoundary
  repeat' first
    | with_reducible exact Keeps.refl _ _
    | with_reducible assumption
    | (extract_lets +onlyGivenNames -underBinder x; (with_reducible refine Keeps.cut (v := x) ?_ (fun hx => ?_)); subst x; rotate_left; clear_value x; rotate_right)
    | (extract_lets +onlyGivenNames -underBinder x; clear_value x)
    | ((with_reducible apply State.at__keeps); (case hm => exact rfl))
    | ((with_reducible apply State.bootStep_keeps); (case hm => exact rfl))
    | ((with_reducible apply State.updEnd_keeps); (case hm => exact rfl))
    | ((with_reducible apply State.epdFaces_keeps); (case hm => exact rfl))
    | ((with_reducible apply State.updScan_keeps); (case hm => exact rfl))
    | ((with_reducible apply State.updEpd_keeps); (case hm => exact rfl))
    | (with_reducible refine Keeps.fold _ _ ?_ (fun u b hu => ?_))
    | (with_reducible refine Keeps.ofP2 (by assumption) ?_)
    | (with_reducible refine Keeps.ofP1 (by assumption) ?_)
    | (with_reducible refine Keeps.ofP3 (by assumption) ?_)
    | split
    | (dsimp only)

theorem State.updCopied_keeps {n0 : Nat} {s0 : State} {s : State} {id : Nat} (hK : Keeps n0 s0 s) (hm : Keeps.sub 0x40000000004 n0 = true) :
    Keeps n0 s0 (State.updCopied s id) := by
  refine Keeps.step hK ?_ hm
  clear hK hm
  unfold State.updCopied
  repeat' first
    | with_reducible exact Keeps.refl _ _
    | with_reducible assumption
    | ((with_reducible apply State.epdFaces_keeps); (case hm => exact rfl))
    | ((with_reducible apply State.updEpd_keeps); (case hm => exact rfl))
    | split
    | (dsimp only)

theorem State.crcStale_keeps {n0 : Nat} {s0 : State} {s : State} (hK : Keeps n0 s0 s) (hm : Keeps.sub 0x40000000006 n0 = true) :
    Keeps n0 s0 (State.crcStale s) := by
  refine Keeps.step hK ?_ hm
  clear hK hm
  unfold State.crcStale
  repeat' first
    | with_reducible exact Keeps.refl _ _
    | with_reducible assumption
    | (extract_lets +onlyGivenNames -underBinder x; (with_reducible refine Keeps.cut (v := x) ?_ (fun hx => ?_)); subst x; rotate_left; clear_value x; rotate_right)
    | (extract_lets +onlyGivenNames -underBinder x; clear_value x)
    | ((with_reducible apply State.at__keeps); (case hm => exact rfl))
    | ((with_reducible apply State.updRefuse_keeps); (case hm => exact rfl))
    | ((with_reducible apply State.epdFaces_keeps); (case hm => exact rfl))
    | ((with_reducible apply State.updEpd_keeps); (case hm => exact rfl))
    | (with_reducible refine Keeps.ofP2 (by assumption) ?_)
    | (with_reducible refine Keeps.ofP1 (by assumption) ?_)
    | (with_reducible refine Keeps.ofP3 (by assumption) ?_)
    | split
    | (dsimp only)

theorem State.crcPass_keeps {n0 : Nat} {s0 : State} {s : State} (hK : Keeps n0 s0 s) (hm : Keeps.sub 0x40000000002 n0 = true) :
    Keeps n0 s0 (State.crcPass s) := by
  refine Keeps.step hK ?_ hm
  clear hK hm
  unfold State.crcPass
  repeat' first
    | with_reducible exact Keeps.refl _ _
    | with_reducible assumption
    | (extract_lets +onlyGivenNames -underBinder x; (with_reducible refine Keeps.cut (v := x) ?_ (fun hx => ?_)); subst x; rotate_left; clear_value x; rotate_right)
    | (extract_lets +onlyGivenNames -underBinder x; clear_value x)
    | ((with_reducible apply State.at__keeps); (case hm => exact rfl))
    | ((with_reducible apply State.updEpd_keeps); (case hm => exact rfl))
    | (dsimp only)

theorem State.crcPassEnd_keeps {n0 : Nat} {s0 : State} {s : State} (hK : Keeps n0 s0 s) (hm : Keeps.sub 0x40000000006 n0 = true) :
    Keeps n0 s0 (State.crcPassEnd s) := by
  refine Keeps.step hK ?_ hm
  clear hK hm
  unfold State.crcPassEnd
  repeat' first
    | with_reducible exact Keeps.refl _ _
    | with_reducible assumption
    | (extract_lets +onlyGivenNames -underBinder x; (with_reducible refine Keeps.cut (v := x) ?_ (fun hx => ?_)); subst x; rotate_left; clear_value x; rotate_right)
    | (extract_lets +onlyGivenNames -underBinder x; clear_value x)
    | ((with_reducible apply State.setB_keeps); (case hm => exact rfl))
    | ((with_reducible apply State.at__keeps); (case hm => exact rfl))
    | ((with_reducible apply State.set_keeps); (case hm => exact rfl))
    | ((with_reducible apply State.updEpd_keeps); (case hm => exact rfl))
    | (with_reducible refine Keeps.ofP2 (by assumption) ?_)
    | (with_reducible refine Keeps.ofP1 (by assumption) ?_)
    | (with_reducible refine Keeps.ofP3 (by assumption) ?_)
    | split
    | (dsimp only)

theorem State.updAbort_keeps {n0 : Nat} {s0 : State} {s : State} {res : Option Nat} (hK : Keeps n0 s0 s) (hm : Keeps.sub 0x40000000004 n0 = true) :
    Keeps n0 s0 (State.updAbort s res) := by
  refine Keeps.step hK ?_ hm
  clear hK hm
  unfold State.updAbort
  repeat' first
    | with_reducible exact Keeps.refl _ _
    | with_reducible assumption
    | (extract_lets +onlyGivenNames -underBinder x; (with_reducible refine Keeps.cut (v := x) ?_ (fun hx => ?_)); subst x; rotate_left; clear_value x; rotate_right)
    | (extract_lets +onlyGivenNames -underBinder x; clear_value x)
    | ((with_reducible apply State.updRefuse_keeps); (case hm => exact rfl))
    | ((with_reducible apply State.epdFaces_keeps); (case hm => exact rfl))
    | ((with_reducible apply State.updEpd_keeps); (case hm => exact rfl))
    | (with_reducible refine Keeps.fold _ _ ?_ (fun u b hu => ?_))
    | (with_reducible refine Keeps.foldPair _ _ ?_ (fun u b hu => ?_))
    | (with_reducible refine Keeps.foldPairL _ _ ?_ (fun u b hu => ?_))
    | (with_reducible refine Keeps.ofP2 (by assumption) ?_)
    | (with_reducible refine Keeps.ofP1 (by assumption) ?_)
    | (with_reducible refine Keeps.ofP3 (by assumption) ?_)
    | split
    | (dsimp only)

theorem State.railFail_keeps {n0 : Nat} {s0 : State} {s : State} {steps : Nat} (hK : Keeps n0 s0 s) (hm : Keeps.sub 0x40000040004 n0 = true) :
    Keeps n0 s0 (State.railFail s steps) := by
  refine Keeps.step hK ?_ hm
  clear hK hm
  unfold State.railFail
  repeat' first
    | with_reducible exact Keeps.refl _ _
    | with_reducible assumption
    | (extract_lets +onlyGivenNames -underBinder x; (with_reducible refine Keeps.cut (v := x) ?_ (fun hx => ?_)); subst x; rotate_left; clear_value x; rotate_right)
    | (extract_lets +onlyGivenNames -underBinder x; clear_value x)
    | ((with_reducible apply State.updAbort_keeps); (case hm => exact rfl))
    | ((with_reducible apply State.irq_keeps); (case hm => exact rfl))
    | ((with_reducible apply State.raise_keeps); (case hm => exact rfl))
    | ((with_reducible apply State.updEpd_keeps); (case hm => exact rfl))
    | (dsimp only)

theorem State.railStep_keeps {n0 : Nat} {s0 : State} {s : State} {good : Bool} (hK : Keeps n0 s0 s) (hm : Keeps.sub 0x40000040006 n0 = true) :
    Keeps n0 s0 (State.railStep s good) := by
  refine Keeps.step hK ?_ hm
  clear hK hm
  unfold State.railStep
  repeat' first
    | with_reducible exact Keeps.refl _ _
    | with_reducible assumption
    | (extract_lets +onlyGivenNames -underBinder x; (with_reducible refine Keeps.cut (v := x) ?_ (fun hx => ?_)); subst x; rotate_left; clear_value x; rotate_right)
    | (extract_lets +onlyGivenNames -underBinder x; clear_value x)
    | ((with_reducible apply State.setB_keeps); (case hm => exact rfl))
    | ((with_reducible apply State.at__keeps); (case hm => exact rfl))
    | ((with_reducible apply State.clearFault_keeps); (case hm => exact rfl))
    | ((with_reducible apply State.railFail_keeps); (case hm => exact rfl))
    | ((with_reducible apply State.updEpd_keeps); (case hm => exact rfl))
    | (with_reducible refine Keeps.ofP2 (by assumption) ?_)
    | (with_reducible refine Keeps.ofP1 (by assumption) ?_)
    | (with_reducible refine Keeps.ofP3 (by assumption) ?_)
    | split
    | (dsimp only)

theorem State.railHold_keeps {n0 : Nat} {s0 : State} {s : State} (hK : Keeps n0 s0 s) (hm : Keeps.sub 0x40000000002 n0 = true) :
    Keeps n0 s0 (State.railHold s) := by
  refine Keeps.step hK ?_ hm
  clear hK hm
  unfold State.railHold
  repeat' first
    | with_reducible exact Keeps.refl _ _
    | with_reducible assumption
    | (extract_lets +onlyGivenNames -underBinder x; (with_reducible refine Keeps.cut (v := x) ?_ (fun hx => ?_)); subst x; rotate_left; clear_value x; rotate_right)
    | (extract_lets +onlyGivenNames -underBinder x; clear_value x)
    | ((with_reducible apply State.at__keeps); (case hm => exact rfl))
    | ((with_reducible apply State.updEpd_keeps); (case hm => exact rfl))
    | (with_reducible refine Keeps.ofP2 (by assumption) ?_)
    | (with_reducible refine Keeps.ofP1 (by assumption) ?_)
    | (with_reducible refine Keeps.ofP3 (by assumption) ?_)
    | split
    | (dsimp only)

theorem State.railDown_keeps {n0 : Nat} {s0 : State} {s : State} (hK : Keeps n0 s0 s) (hm : Keeps.sub 0x40000000006 n0 = true) :
    Keeps n0 s0 (State.railDown s) := by
  refine Keeps.step hK ?_ hm
  clear hK hm
  unfold State.railDown
  repeat' first
    | with_reducible exact Keeps.refl _ _
    | with_reducible assumption
    | (extract_lets +onlyGivenNames -underBinder x; (with_reducible refine Keeps.cut (v := x) ?_ (fun hx => ?_)); subst x; rotate_left; clear_value x; rotate_right)
    | (extract_lets +onlyGivenNames -underBinder x; clear_value x)
    | ((with_reducible apply State.setB_keeps); (case hm => exact rfl))
    | ((with_reducible apply State.at__keeps); (case hm => exact rfl))
    | ((with_reducible apply State.railsAsk_keeps); (case hm => exact rfl))
    | ((with_reducible apply State.updEpd_keeps); (case hm => exact rfl))
    | (with_reducible refine Keeps.ofP2 (by assumption) ?_)
    | (with_reducible refine Keeps.ofP1 (by assumption) ?_)
    | (with_reducible refine Keeps.ofP3 (by assumption) ?_)
    | split
    | (dsimp only)

theorem State.epdPfw_keeps {n0 : Nat} {s0 : State} {s : State} (hK : Keeps n0 s0 s) (hm : Keeps.sub 0x40000000004 n0 = true) :
    Keeps n0 s0 (State.epdPfw s) := by
  refine Keeps.step hK ?_ hm
  clear hK hm
  unfold State.epdPfw
  repeat' first
    | with_reducible exact Keeps.refl _ _
    | with_reducible assumption
    | ((with_reducible apply State.setB_keeps); (case hm => exact rfl))
    | ((with_reducible apply State.updAbort_keeps); (case hm => exact rfl))
    | ((with_reducible apply State.updEpd_keeps); (case hm => exact rfl))
    | (dsimp only)

theorem State.bandUpdate_keeps {n0 : Nat} {s0 : State} {s : State} (hK : Keeps n0 s0 s) (hm : Keeps.sub 0x4 n0 = true) :
    Keeps n0 s0 (State.bandUpdate s) := by
  refine Keeps.step hK ?_ hm
  clear hK hm
  unfold State.bandUpdate
  repeat' first
    | with_reducible exact Keeps.refl _ _
    | with_reducible assumption
    | (extract_lets +onlyGivenNames -underBinder x; (with_reducible refine Keeps.cut (v := x) ?_ (fun hx => ?_)); subst x; rotate_left; clear_value x; rotate_right)
    | (extract_lets +onlyGivenNames -underBinder x; clear_value x)
    | ((with_reducible apply State.irq_keeps); (case hm => exact rfl))
    | ((with_reducible apply State.set_keeps); (case hm => exact rfl))
    | split
    | (dsimp only)

theorem State.bootClear_keeps {n0 : Nat} {s0 : State} {s : State} (hK : Keeps n0 s0 s) (hm : Keeps.sub 0x40000000004 n0 = true) :
    Keeps n0 s0 (State.bootClear s) := by
  refine Keeps.step hK ?_ hm
  clear hK hm
  unfold State.bootClear
  repeat' first
    | with_reducible exact Keeps.refl _ _
    | with_reducible assumption
    | ((with_reducible apply State.railsAsk_keeps); (case hm => exact rfl))
    | ((with_reducible apply State.epdFaces_keeps); (case hm => exact rfl))
    | ((with_reducible apply State.updEpd_keeps); (case hm => exact rfl))
    | split
    | (dsimp only)

theorem State.epdWrite_keeps {n0 : Nat} {s0 : State} {s : State} {o : Nat} {w : Word} (hK : Keeps n0 s0 s) (hm : Keeps.sub 0x40000000004 n0 = true) :
    Keeps n0 s0 (State.epdWrite s o w).2 := by
  refine Keeps.step hK ?_ hm
  clear hK hm
  unfold State.epdWrite
  repeat' first
    | with_reducible exact Keeps.refl _ _
    | with_reducible assumption
    | (extract_lets +onlyGivenNames -underBinder x; (with_reducible refine Keeps.cut (v := x) ?_ (fun hx => ?_)); subst x; rotate_left; clear_value x; rotate_right)
    | (extract_lets +onlyGivenNames -underBinder x; clear_value x)
    | ((with_reducible apply State.setB_keeps); (case hm => exact rfl))
    | ((with_reducible apply State.blkErr_keeps); (case hm => exact rfl))
    | ((with_reducible apply State.railsAsk_keeps); (case hm => exact rfl))
    | ((with_reducible apply State.updEpd_keeps); (case hm => exact rfl))
    | split
    | (dsimp only)

end Sys2Proof.Machine
end

