-- ==== Sys2Proof/Laws/KeepsPower.lean ====
section
/-! SUPPORT. What each operation of Machine/Power.lean may touch (Laws/Keeps.lean): the mask lists the fields it may change,
and the invariant of the block is kept. -/
set_option Elab.async false
set_option linter.all false
namespace Sys2Proof.Machine

theorem State.updPwr_keeps {n0 : Nat} {s0 : State} {s : State} {f : PwrSt → PwrSt} (hK : Keeps n0 s0 s) (hm : Keeps.sub 0x80000000000 n0 = true) :
    Keeps n0 s0 (State.updPwr s f) := by
  refine Keeps.step hK ?_ hm
  clear hK hm
  unfold State.updPwr
  repeat' first
    | with_reducible exact Keeps.refl _ _
    | with_reducible assumption
    | (with_reducible refine Keeps.leaf ?_ (h_pwr := Keeps.chg (by decide)))
    | (dsimp only)

theorem State.pwrFaces_keeps {n0 : Nat} {s0 : State} {s : State} (hK : Keeps n0 s0 s) (hm : Keeps.sub 0x4 n0 = true) :
    Keeps n0 s0 (State.pwrFaces s) := by
  refine Keeps.step hK ?_ hm
  clear hK hm
  unfold State.pwrFaces
  repeat' first
    | with_reducible exact Keeps.refl _ _
    | with_reducible assumption
    | (extract_lets +onlyGivenNames -underBinder x; (with_reducible refine Keeps.cut (v := x) ?_ (fun hx => ?_)); subst x; rotate_left; clear_value x; rotate_right)
    | (extract_lets +onlyGivenNames -underBinder x; clear_value x)
    | ((with_reducible apply State.setB_keeps); (case hm => exact rfl))
    | ((with_reducible apply State.set_keeps); (case hm => exact rfl))
    | (with_reducible refine Keeps.fold _ _ ?_ (fun u b hu => ?_))
    | split
    | (dsimp only)

theorem State.setStep_keeps {n0 : Nat} {s0 : State} {s : State} {n : Nat} {k : Nat} {saved : Nat} (hK : Keeps n0 s0 s) (hm : Keeps.sub 0x40104 n0 = true) :
    Keeps n0 s0 (State.setStep s n k saved) := by
  refine Keeps.step hK ?_ hm
  clear hK hm
  unfold State.setStep
  repeat' first
    | with_reducible exact Keeps.refl _ _
    | with_reducible assumption
    | (extract_lets +onlyGivenNames -underBinder x; (with_reducible refine Keeps.cut (v := x) ?_ (fun hx => ?_)); subst x; rotate_left; clear_value x; rotate_right)
    | (extract_lets +onlyGivenNames -underBinder x; clear_value x)
    | ((with_reducible apply State.irq_keeps); (case hm => exact rfl))
    | ((with_reducible apply State.modChan_keeps); (case hm => exact rfl))
    | ((with_reducible apply State.clearFault_keeps); (case hm => exact rfl))
    | ((with_reducible apply State.raise_keeps); (case hm => exact rfl))
    | ((with_reducible apply State.pwrFaces_keeps); (case hm => exact rfl))
    | split
    | (dsimp only)

theorem State.stepReset_keeps {n0 : Nat} {s0 : State} {s : State} {n : Nat} (hK : Keeps n0 s0 s) (hm : Keeps.sub 0x80000040504 n0 = true) :
    Keeps n0 s0 (State.stepReset s n) := by
  refine Keeps.step hK ?_ hm
  clear hK hm
  unfold State.stepReset
  repeat' first
    | with_reducible exact Keeps.refl _ _
    | with_reducible assumption
    | ((with_reducible apply State.setStep_keeps); (case hm => exact rfl))
    | ((with_reducible apply State.updPwr_keeps); (case hm => exact rfl))
    | ((with_reducible apply State.relL0_keeps); (case hm => exact rfl))
    | split
    | (dsimp only)

theorem State.capOne_keeps {n0 : Nat} {s0 : State} {s : State} {n : Nat} (hK : Keeps n0 s0 s) (hm : Keeps.sub 0x400 n0 = true) :
    Keeps n0 s0 (State.capOne s n) := by
  refine Keeps.step hK ?_ hm
  clear hK hm
  unfold State.capOne
  repeat' first
    | with_reducible exact Keeps.refl _ _
    | with_reducible assumption
    | (extract_lets +onlyGivenNames -underBinder x; (with_reducible refine Keeps.cut (v := x) ?_ (fun hx => ?_)); subst x; rotate_left; clear_value x; rotate_right)
    | (extract_lets +onlyGivenNames -underBinder x; clear_value x)
    | ((with_reducible apply State.setL0_keeps); (case hm => exact rfl))
    | ((with_reducible apply State.relL0_keeps); (case hm => exact rfl))
    | split
    | (dsimp only)

theorem State.capAll_keeps {n0 : Nat} {s0 : State} {s : State} {r : Rate} (hK : Keeps n0 s0 s) (hm : Keeps.sub 0x400 n0 = true) :
    Keeps n0 s0 (State.capAll s r) := by
  refine Keeps.step hK ?_ hm
  clear hK hm
  unfold State.capAll
  repeat' first
    | with_reducible exact Keeps.refl _ _
    | with_reducible assumption
    | ((with_reducible apply State.capOne_keeps); (case hm => exact rfl))
    | (with_reducible refine Keeps.fold _ _ ?_ (fun u b hu => ?_))
    | split
    | (dsimp only)

theorem State.estimate_keeps {n0 : Nat} {s0 : State} {s : State} {m : Meas} {us : Nat} (hK : Keeps n0 s0 s) (hm : Keeps.sub 0x4 n0 = true) :
    Keeps n0 s0 (State.estimate s m us) := by
  refine Keeps.step hK ?_ hm
  clear hK hm
  unfold State.estimate
  repeat' first
    | with_reducible exact Keeps.refl _ _
    | with_reducible assumption
    | (extract_lets +onlyGivenNames -underBinder x; (with_reducible refine Keeps.cut (v := x) ?_ (fun hx => ?_)); subst x; rotate_left; clear_value x; rotate_right)
    | (extract_lets +onlyGivenNames -underBinder x; clear_value x)
    | ((with_reducible apply State.set_keeps); (case hm => exact rfl))
    | (with_reducible refine Keeps.fold _ _ ?_ (fun u b hu => ?_))
    | split
    | (dsimp only)

theorem State.govStep_keeps {n0 : Nat} {s0 : State} {c : Nat → Nat} {g : State.Gov} {n : Nat} {k : Nat} {cut : optParam Nat 0} (hK : Keeps n0 s0 g.st) (hm : Keeps.sub 0x80000040104 n0 = true) :
    Keeps n0 s0 (State.govStep c g n k cut).st := by
  refine Keeps.step hK ?_ hm
  clear hK hm
  unfold State.govStep
  repeat' first
    | with_reducible exact Keeps.refl _ _
    | with_reducible assumption
    | (extract_lets +onlyGivenNames -underBinder x; (with_reducible refine Keeps.cut (v := x) ?_ (fun hx => ?_)); subst x; rotate_left; clear_value x; rotate_right)
    | (extract_lets +onlyGivenNames -underBinder x; clear_value x)
    | ((with_reducible apply State.setStep_keeps); (case hm => exact rfl))
    | ((with_reducible apply State.updPwr_keeps); (case hm => exact rfl))
    | split
    | (dsimp only)

theorem State.govRail_keeps {n0 : Nat} {s0 : State} {c : Nat → Nat} {isrc : Nat → Nat} {n : Nat} {y3 : Nat} {y4 : State.Gov} (hK : Keeps n0 s0 y4.st) (hm : Keeps.sub 0x80000040104 n0 = true) :
    Keeps n0 s0 (State.govRail c isrc n y3 y4).st := by
  refine Keeps.step hK ?_ hm
  clear hK hm
  induction y3 generalizing y4 with
  | zero => exact Keeps.refl _ _
  | succ k ih =>
    unfold State.govRail
    dsimp only
    split
    · refine Keeps.trans ?_ ih
      exact State.govStep_keeps (Keeps.refl _ _) rfl
    · exact Keeps.refl _ _

theorem State.govPower_keeps {n0 : Nat} {s0 : State} {c : Nat → Nat} {lim : Int} {n : Nat} {y3 : Nat} {y4 : State.Gov} (hK : Keeps n0 s0 y4.st) (hm : Keeps.sub 0x80000040104 n0 = true) :
    Keeps n0 s0 (State.govPower c lim n y3 y4).st := by
  refine Keeps.step hK ?_ hm
  clear hK hm
  induction y3 generalizing y4 with
  | zero => exact Keeps.refl _ _
  | succ k ih =>
    unfold State.govPower
    split
    · exact (State.govStep_keeps (Keeps.refl _ _) rfl).trans ih
    · exact Keeps.refl _ _

theorem State.governMeasure_keeps {n0 : Nat} {s0 : State} {s : State} {m : Meas} {us : Nat} (hK : Keeps n0 s0 s) (hm : Keeps.sub 0x4 n0 = true) :
    Keeps n0 s0 (State.governMeasure s m us) := by
  refine Keeps.step hK ?_ hm
  clear hK hm
  unfold State.governMeasure
  repeat' first
    | with_reducible exact Keeps.refl _ _
    | with_reducible assumption
    | (extract_lets +onlyGivenNames -underBinder x; (with_reducible refine Keeps.cut (v := x) ?_ (fun hx => ?_)); subst x; rotate_left; clear_value x; rotate_right)
    | (extract_lets +onlyGivenNames -underBinder x; clear_value x)
    | ((with_reducible apply State.estimate_keeps); (case hm => exact rfl))
    | ((with_reducible apply State.budgetFaces_keeps); (case hm => exact rfl))
    | ((with_reducible apply State.set_keeps); (case hm => exact rfl))
    | (dsimp only)

theorem State.govern_keeps {n0 : Nat} {s0 : State} {s : State} {pre : State} {m : Meas} {us : Nat} {done : List Rate} (hK : Keeps n0 s0 s) (hm : Keeps.sub 0x80000040504 n0 = true) :
    Keeps n0 s0 (State.govern s pre m us done) := by
  refine Keeps.step hK ?_ hm
  clear hK hm
  unfold State.govern
  repeat' first
    | with_reducible exact Keeps.refl _ _
    | with_reducible assumption
    | (extract_lets +onlyGivenNames -underBinder x; (with_reducible refine Keeps.cut (v := x) ?_ (fun hx => ?_)); subst x; rotate_left; clear_value x; rotate_right)
    | (extract_lets +onlyGivenNames -underBinder x; (have hfn : (_ → _) := x; clear hfn); subst x; dsimp only)
    | (extract_lets +onlyGivenNames -underBinder x; clear_value x)
    | ((with_reducible apply State.setB_keeps); (case hm => exact rfl))
    | ((with_reducible apply State.govStep_keeps); (case hm => exact rfl))
    | ((with_reducible apply State.irq_keeps); (case hm => exact rfl))
    | ((with_reducible apply State.clearFault_keeps); (case hm => exact rfl))
    | ((with_reducible apply State.raise_keeps); (case hm => exact rfl))
    | ((with_reducible apply State.govRail_keeps); (case hm => exact rfl))
    | ((with_reducible apply State.updPwr_keeps); (case hm => exact rfl))
    | ((with_reducible apply State.stepReset_keeps); (case hm => exact rfl))
    | ((with_reducible apply State.govPower_keeps); (case hm => exact rfl))
    | (with_reducible refine Keeps.fold _ _ ?_ (fun u b hu => ?_))
    | (with_reducible refine Keeps.foldVia (fun g : State.Gov => g.st) _ _ ?_ (fun u b hu => ?_))
    | (with_reducible refine Keeps.ofP2 (by assumption) ?_)
    | (with_reducible refine Keeps.ofP1 (by assumption) ?_)
    | (with_reducible refine Keeps.ofP3 (by assumption) ?_)
    | split
    | (dsimp only)

theorem State.shedRestore_keeps {n0 : Nat} {s0 : State} {s : State} (hK : Keeps n0 s0 s) (hm : Keeps.sub 0x80000040106 n0 = true) :
    Keeps n0 s0 (State.shedRestore s) := by
  refine Keeps.step hK ?_ hm
  clear hK hm
  unfold State.shedRestore
  repeat' first
    | with_reducible exact Keeps.refl _ _
    | with_reducible assumption
    | (extract_lets +onlyGivenNames -underBinder x; (with_reducible refine Keeps.cut (v := x) ?_ (fun hx => ?_)); subst x; rotate_left; clear_value x; rotate_right)
    | (extract_lets +onlyGivenNames -underBinder x; clear_value x)
    | ((with_reducible apply State.at__keeps); (case hm => exact rfl))
    | ((with_reducible apply State.setStep_keeps); (case hm => exact rfl))
    | ((with_reducible apply State.updPwr_keeps); (case hm => exact rfl))
    | (with_reducible refine Keeps.ofP2 (by assumption) ?_)
    | (with_reducible refine Keeps.ofP1 (by assumption) ?_)
    | (with_reducible refine Keeps.ofP3 (by assumption) ?_)
    | split
    | (dsimp only)

theorem State.derate_keeps {n0 : Nat} {s0 : State} {s : State} (hK : Keeps n0 s0 s) (hm : Keeps.sub 0x40004 n0 = true) :
    Keeps n0 s0 (State.derate s) := by
  refine Keeps.step hK ?_ hm
  clear hK hm
  unfold State.derate
  repeat' first
    | with_reducible exact Keeps.refl _ _
    | with_reducible assumption
    | (extract_lets +onlyGivenNames -underBinder x; (with_reducible refine Keeps.cut (v := x) ?_ (fun hx => ?_)); subst x; rotate_left; clear_value x; rotate_right)
    | (extract_lets +onlyGivenNames -underBinder x; clear_value x)
    | ((with_reducible apply State.setB_keeps); (case hm => exact rfl))
    | ((with_reducible apply State.irq_keeps); (case hm => exact rfl))
    | ((with_reducible apply State.seti_keeps); (case hm => exact rfl))
    | ((with_reducible apply State.clearFault_keeps); (case hm => exact rfl))
    | ((with_reducible apply State.raise_keeps); (case hm => exact rfl))
    | split
    | (dsimp only)

theorem State.railSet_keeps {n0 : Nat} {s0 : State} {s : State} {b : Nat} {code : Nat} {cls : FClass} {on : Bool} (hK : Keeps n0 s0 s) (hm : Keeps.sub 0x40004 n0 = true) :
    Keeps n0 s0 (State.railSet s b code cls on) := by
  refine Keeps.step hK ?_ hm
  clear hK hm
  unfold State.railSet
  repeat' first
    | with_reducible exact Keeps.refl _ _
    | with_reducible assumption
    | (extract_lets +onlyGivenNames -underBinder x; (with_reducible refine Keeps.cut (v := x) ?_ (fun hx => ?_)); subst x; rotate_left; clear_value x; rotate_right)
    | (extract_lets +onlyGivenNames -underBinder x; clear_value x)
    | ((with_reducible apply State.setB_keeps); (case hm => exact rfl))
    | ((with_reducible apply State.irq_keeps); (case hm => exact rfl))
    | ((with_reducible apply State.clearFault_keeps); (case hm => exact rfl))
    | ((with_reducible apply State.raise_keeps); (case hm => exact rfl))
    | split
    | (dsimp only)

theorem State.vfieldSet_keeps {n0 : Nat} {s0 : State} {s : State} {b : Nat} {code : Nat} {on : Bool} (hK : Keeps n0 s0 s) (hm : Keeps.sub 0x40004 n0 = true) :
    Keeps n0 s0 (State.vfieldSet s b code on) := by
  refine Keeps.step hK ?_ hm
  clear hK hm
  unfold State.vfieldSet
  repeat' first
    | with_reducible exact Keeps.refl _ _
    | with_reducible assumption
    | (extract_lets +onlyGivenNames -underBinder x; (with_reducible refine Keeps.cut (v := x) ?_ (fun hx => ?_)); subst x; rotate_left; clear_value x; rotate_right)
    | (extract_lets +onlyGivenNames -underBinder x; clear_value x)
    | ((with_reducible apply State.setB_keeps); (case hm => exact rfl))
    | ((with_reducible apply State.irq_keeps); (case hm => exact rfl))
    | ((with_reducible apply State.clearFault_keeps); (case hm => exact rfl))
    | ((with_reducible apply State.raise_keeps); (case hm => exact rfl))
    | split
    | (dsimp only)

theorem State.railSample_keeps {n0 : Nat} {s0 : State} {s : State} {c : Nat} {k : Nat} (hK : Keeps n0 s0 s) (hm : Keeps.sub 0x800000c0004 n0 = true) :
    Keeps n0 s0 (State.railSample s c k) := by
  refine Keeps.step hK ?_ hm
  clear hK hm
  unfold State.railSample
  repeat' first
    | with_reducible exact Keeps.refl _ _
    | with_reducible assumption
    | (extract_lets +onlyGivenNames -underBinder x; (with_reducible refine Keeps.cut (v := x) ?_ (fun hx => ?_)); subst x; rotate_left; clear_value x; rotate_right)
    | (extract_lets +onlyGivenNames -underBinder x; (have hfn : (_ → _) := x; clear hfn); subst x; dsimp only)
    | (extract_lets +onlyGivenNames -underBinder x; clear_value x)
    | ((with_reducible apply State.modCore_keeps); (case hm => exact rfl))
    | ((with_reducible apply State.set_keeps); (case hm => exact rfl))
    | ((with_reducible apply State.vfieldSet_keeps); (case hm => exact rfl))
    | ((with_reducible apply State.updPwr_keeps); (case hm => exact rfl))
    | ((with_reducible apply State.railSet_keeps); (case hm => exact rfl))
    | (with_reducible refine Keeps.ofP2 (by assumption) ?_)
    | (with_reducible refine Keeps.ofP1 (by assumption) ?_)
    | (with_reducible refine Keeps.ofP3 (by assumption) ?_)
    | split
    | (dsimp only)

theorem State.pfwTrip_keeps {n0 : Nat} {s0 : State} {s : State} (hK : Keeps n0 s0 s) (hm : Keeps.sub 0xc0000840504 n0 = true) :
    Keeps n0 s0 (State.pfwTrip s) := by
  refine Keeps.step hK ?_ hm
  clear hK hm
  unfold State.pfwTrip
  repeat' first
    | with_reducible exact Keeps.refl _ _
    | with_reducible assumption
    | (extract_lets +onlyGivenNames -underBinder x; (with_reducible refine Keeps.cut (v := x) ?_ (fun hx => ?_)); subst x; rotate_left; clear_value x; rotate_right)
    | (extract_lets +onlyGivenNames -underBinder x; clear_value x)
    | ((with_reducible apply State.setB_keeps); (case hm => exact rfl))
    | ((with_reducible apply State.tripPath_keeps); (case hm => exact rfl))
    | ((with_reducible apply State.peatPfw_keeps); (case hm => exact rfl))
    | ((with_reducible apply State.epdPfw_keeps); (case hm => exact rfl))
    | ((with_reducible apply State.raise_keeps); (case hm => exact rfl))
    | ((with_reducible apply State.updPwr_keeps); (case hm => exact rfl))
    | ((with_reducible apply State.pwrFaces_keeps); (case hm => exact rfl))
    | ((with_reducible apply State.nme_keeps); (case hm => exact rfl))
    | ((with_reducible apply State.storeStop_keeps); (case hm => exact rfl))
    | split
    | (dsimp only)

theorem State.vfieldDip_keeps {n0 : Nat} {s0 : State} {s : State} (hK : Keeps n0 s0 s) (hm : Keeps.sub 0x4 n0 = true) :
    Keeps n0 s0 (State.vfieldDip s) := by
  refine Keeps.step hK ?_ hm
  clear hK hm
  unfold State.vfieldDip
  repeat' first
    | with_reducible exact Keeps.refl _ _
    | with_reducible assumption
    | ((with_reducible apply State.bump_keeps); (case hm => exact rfl))
    | ((with_reducible apply State.irq_keeps); (case hm => exact rfl))
    | (dsimp only)

theorem State.stagesOff_keeps {n0 : Nat} {s0 : State} {s : State} (hK : Keeps n0 s0 s) (hm : Keeps.sub 0x104 n0 = true) :
    Keeps n0 s0 (State.stagesOff s) := by
  refine Keeps.step hK ?_ hm
  clear hK hm
  unfold State.stagesOff
  repeat' first
    | with_reducible exact Keeps.refl _ _
    | with_reducible assumption
    | ((with_reducible apply State.upChan_keeps); (case hm => exact rfl))
    | (with_reducible refine Keeps.fold _ _ ?_ (fun u b hu => ?_))
    | (dsimp only)

theorem State.brownOut_keeps {n0 : Nat} {s0 : State} {s : State} (hK : Keeps n0 s0 s) (hm : Keeps.sub 0xc0000840504 n0 = true) :
    Keeps n0 s0 (State.brownOut s) := by
  refine Keeps.step hK ?_ hm
  clear hK hm
  unfold State.brownOut
  repeat' first
    | with_reducible exact Keeps.refl _ _
    | with_reducible assumption
    | (extract_lets +onlyGivenNames -underBinder x; (with_reducible refine Keeps.cut (v := x) ?_ (fun hx => ?_)); subst x; rotate_left; clear_value x; rotate_right)
    | (extract_lets +onlyGivenNames -underBinder x; clear_value x)
    | ((with_reducible apply State.setB_keeps); (case hm => exact rfl))
    | ((with_reducible apply State.pfwTrip_keeps); (case hm => exact rfl))
    | ((with_reducible apply State.stagesOff_keeps); (case hm => exact rfl))
    | ((with_reducible apply State.updPwr_keeps); (case hm => exact rfl))
    | (dsimp only)

theorem State.coreUv_keeps {n0 : Nat} {s0 : State} {s : State} (hK : Keeps n0 s0 s) (hm : Keeps.sub 0x4 n0 = true) :
    Keeps n0 s0 (State.coreUv s) := by
  refine Keeps.step hK ?_ hm
  clear hK hm
  unfold State.coreUv
  repeat' first
    | with_reducible exact Keeps.refl _ _
    | with_reducible assumption
    | ((with_reducible apply State.setB_keeps); (case hm => exact rfl))
    | (dsimp only)

end Sys2Proof.Machine
end

