-- ==== Sys2Proof/Laws/KeepsClk.lean ====
section
/-! SUPPORT. What each operation of Machine/Clk.lean may touch (Laws/Keeps.lean): the mask lists the fields it may change,
and the invariant of the block is kept. -/
set_option Elab.async false
set_option linter.all false
namespace Sys2Proof.Machine

theorem State.updClk_keeps {n0 : Nat} {s0 : State} {s : State} {f : ClkSt → ClkSt} (hK : Keeps n0 s0 s) (hm : Keeps.sub 0x100000000000 n0 = true) :
    Keeps n0 s0 (State.updClk s f) := by
  refine Keeps.step hK ?_ hm
  clear hK hm
  unfold State.updClk
  repeat' first
    | with_reducible exact Keeps.refl _ _
    | with_reducible assumption
    | (with_reducible refine Keeps.leaf ?_ (h_clk := Keeps.chg (by decide)))
    | (dsimp only)

theorem State.clkFail_keeps {n0 : Nat} {s0 : State} {s : State} (hK : Keeps n0 s0 s) (hm : Keeps.sub 0x40004 n0 = true) :
    Keeps n0 s0 (State.clkFail s) := by
  refine Keeps.step hK ?_ hm
  clear hK hm
  unfold State.clkFail
  repeat' first
    | with_reducible exact Keeps.refl _ _
    | with_reducible assumption
    | ((with_reducible apply State.raise_keeps); (case hm => exact rfl))
    | ((with_reducible apply State.nme_keeps); (case hm => exact rfl))
    | (dsimp only)

theorem State.clkOk_keeps {n0 : Nat} {s0 : State} {s : State} (hK : Keeps n0 s0 s) (hm : Keeps.sub 0x40004 n0 = true) :
    Keeps n0 s0 (State.clkOk s) := by
  refine Keeps.step hK ?_ hm
  clear hK hm
  unfold State.clkOk
  repeat' first
    | with_reducible exact Keeps.refl _ _
    | with_reducible assumption
    | ((with_reducible apply State.clearFault_keeps); (case hm => exact rfl))
    | split
    | (dsimp only)

theorem State.lockOn_keeps {n0 : Nat} {s0 : State} {s : State} {r : Nat} (hK : Keeps n0 s0 s) (hm : Keeps.sub 0x4 n0 = true) :
    Keeps n0 s0 (State.lockOn s r) := by
  refine Keeps.step hK ?_ hm
  clear hK hm
  unfold State.lockOn
  repeat' first
    | with_reducible exact Keeps.refl _ _
    | with_reducible assumption
    | (extract_lets +onlyGivenNames -underBinder x; (with_reducible refine Keeps.cut (v := x) ?_ (fun hx => ?_)); subst x; rotate_left; clear_value x; rotate_right)
    | (extract_lets +onlyGivenNames -underBinder x; clear_value x)
    | ((with_reducible apply State.setB_keeps); (case hm => exact rfl))
    | ((with_reducible apply State.bump_keeps); (case hm => exact rfl))
    | ((with_reducible apply State.irq_keeps); (case hm => exact rfl))
    | ((with_reducible apply State.set_keeps); (case hm => exact rfl))
    | split
    | (dsimp only)

theorem State.trimSource_keeps {n0 : Nat} {s0 : State} {s : State} (hK : Keeps n0 s0 s) (hm : Keeps.sub 0x4 n0 = true) :
    Keeps n0 s0 (State.trimSource s) := by
  refine Keeps.step hK ?_ hm
  clear hK hm
  unfold State.trimSource
  repeat' first
    | with_reducible exact Keeps.refl _ _
    | with_reducible assumption
    | ((with_reducible apply State.set_keeps); (case hm => exact rfl))
    | split
    | (dsimp only)

theorem State.tbSource_keeps {n0 : Nat} {s0 : State} {s : State} (hK : Keeps n0 s0 s) (hm : Keeps.sub 0x4 n0 = true) :
    Keeps n0 s0 (State.tbSource s) := by
  refine Keeps.step hK ?_ hm
  clear hK hm
  unfold State.tbSource
  repeat' first
    | with_reducible exact Keeps.refl _ _
    | with_reducible assumption
    | ((with_reducible apply State.set_keeps); (case hm => exact rfl))
    | split
    | (dsimp only)

theorem State.aonSource_keeps {n0 : Nat} {s0 : State} {s : State} {hrc : Bool} (hK : Keeps n0 s0 s) (hm : Keeps.sub 0x4 n0 = true) :
    Keeps n0 s0 (State.aonSource s hrc) := by
  refine Keeps.step hK ?_ hm
  clear hK hm
  unfold State.aonSource
  repeat' first
    | with_reducible exact Keeps.refl _ _
    | with_reducible assumption
    | ((with_reducible apply State.setB_keeps); (case hm => exact rfl))
    | ((with_reducible apply State.irq_keeps); (case hm => exact rfl))
    | split
    | (dsimp only)

theorem State.coastBegin_keeps {n0 : Nat} {s0 : State} {s : State} (hK : Keeps n0 s0 s) (hm : Keeps.sub 0x40004 n0 = true) :
    Keeps n0 s0 (State.coastBegin s) := by
  refine Keeps.step hK ?_ hm
  clear hK hm
  unfold State.coastBegin
  repeat' first
    | with_reducible exact Keeps.refl _ _
    | with_reducible assumption
    | ((with_reducible apply State.setB_keeps); (case hm => exact rfl))
    | ((with_reducible apply State.irq_keeps); (case hm => exact rfl))
    | ((with_reducible apply State.raise_keeps); (case hm => exact rfl))
    | split
    | (dsimp only)

theorem State.coastEnd_keeps {n0 : Nat} {s0 : State} {s : State} (hK : Keeps n0 s0 s) (hm : Keeps.sub 0x40004 n0 = true) :
    Keeps n0 s0 (State.coastEnd s) := by
  refine Keeps.step hK ?_ hm
  clear hK hm
  unfold State.coastEnd
  repeat' first
    | with_reducible exact Keeps.refl _ _
    | with_reducible assumption
    | ((with_reducible apply State.setB_keeps); (case hm => exact rfl))
    | ((with_reducible apply State.irq_keeps); (case hm => exact rfl))
    | ((with_reducible apply State.clearFault_keeps); (case hm => exact rfl))
    | split
    | (dsimp only)

theorem State.moscTripped_keeps {n0 : Nat} {s0 : State} {s : State} (hK : Keeps n0 s0 s) (hm : Keeps.sub 0x100000040004 n0 = true) :
    Keeps n0 s0 (State.moscTripped s).2 := by
  refine Keeps.step hK ?_ hm
  clear hK hm
  unfold State.moscTripped
  repeat' first
    | with_reducible exact Keeps.refl _ _
    | with_reducible assumption
    | (extract_lets +onlyGivenNames -underBinder x; (with_reducible refine Keeps.cut (v := x) ?_ (fun hx => ?_)); subst x; rotate_left; clear_value x; rotate_right)
    | (extract_lets +onlyGivenNames -underBinder x; clear_value x)
    | ((with_reducible apply State.setB_keeps); (case hm => exact rfl))
    | ((with_reducible apply State.coastBegin_keeps); (case hm => exact rfl))
    | ((with_reducible apply State.bump_keeps); (case hm => exact rfl))
    | ((with_reducible apply State.irq_keeps); (case hm => exact rfl))
    | ((with_reducible apply State.clkFail_keeps); (case hm => exact rfl))
    | ((with_reducible apply State.tbSource_keeps); (case hm => exact rfl))
    | ((with_reducible apply State.lockOn_keeps); (case hm => exact rfl))
    | ((with_reducible apply State.set_keeps); (case hm => exact rfl))
    | ((with_reducible apply State.trimSource_keeps); (case hm => exact rfl))
    | ((with_reducible apply State.updClk_keeps); (case hm => exact rfl))
    | split
    | (dsimp only)

theorem State.lxoTripped_keeps {n0 : Nat} {s0 : State} {s : State} (hK : Keeps n0 s0 s) (hm : Keeps.sub 0x100000040004 n0 = true) :
    Keeps n0 s0 (State.lxoTripped s) := by
  refine Keeps.step hK ?_ hm
  clear hK hm
  unfold State.lxoTripped
  repeat' first
    | with_reducible exact Keeps.refl _ _
    | with_reducible assumption
    | (extract_lets +onlyGivenNames -underBinder x; (with_reducible refine Keeps.cut (v := x) ?_ (fun hx => ?_)); subst x; rotate_left; clear_value x; rotate_right)
    | (extract_lets +onlyGivenNames -underBinder x; clear_value x)
    | ((with_reducible apply State.setB_keeps); (case hm => exact rfl))
    | ((with_reducible apply State.bump_keeps); (case hm => exact rfl))
    | ((with_reducible apply State.irq_keeps); (case hm => exact rfl))
    | ((with_reducible apply State.clkFail_keeps); (case hm => exact rfl))
    | ((with_reducible apply State.aonSource_keeps); (case hm => exact rfl))
    | ((with_reducible apply State.updClk_keeps); (case hm => exact rfl))
    | split
    | (dsimp only)

theorem State.hrcRequal_keeps {n0 : Nat} {s0 : State} {s : State} (hK : Keeps n0 s0 s) (hm : Keeps.sub 0x100000000000 n0 = true) :
    Keeps n0 s0 (State.hrcRequal s) := by
  refine Keeps.step hK ?_ hm
  clear hK hm
  unfold State.hrcRequal
  repeat' first
    | with_reducible exact Keeps.refl _ _
    | with_reducible assumption
    | ((with_reducible apply State.updClk_keeps); (case hm => exact rfl))
    | (dsimp only)

theorem State.hrcTripped_keeps {n0 : Nat} {s0 : State} {s : State} (hK : Keeps n0 s0 s) (hm : Keeps.sub 0x100000040004 n0 = true) :
    Keeps n0 s0 (State.hrcTripped s) := by
  refine Keeps.step hK ?_ hm
  clear hK hm
  unfold State.hrcTripped
  repeat' first
    | with_reducible exact Keeps.refl _ _
    | with_reducible assumption
    | (extract_lets +onlyGivenNames -underBinder x; (with_reducible refine Keeps.cut (v := x) ?_ (fun hx => ?_)); subst x; rotate_left; clear_value x; rotate_right)
    | (extract_lets +onlyGivenNames -underBinder x; clear_value x)
    | ((with_reducible apply State.setB_keeps); (case hm => exact rfl))
    | ((with_reducible apply State.hrcRequal_keeps); (case hm => exact rfl))
    | ((with_reducible apply State.bump_keeps); (case hm => exact rfl))
    | ((with_reducible apply State.irq_keeps); (case hm => exact rfl))
    | ((with_reducible apply State.clkFail_keeps); (case hm => exact rfl))
    | ((with_reducible apply State.tbSource_keeps); (case hm => exact rfl))
    | ((with_reducible apply State.lockOn_keeps); (case hm => exact rfl))
    | ((with_reducible apply State.updClk_keeps); (case hm => exact rfl))
    | split
    | (dsimp only)

theorem State.pllLost_keeps {n0 : Nat} {s0 : State} {s : State} (hK : Keeps n0 s0 s) (hm : Keeps.sub 0x4 n0 = true) :
    Keeps n0 s0 (State.pllLost s) := by
  refine Keeps.step hK ?_ hm
  clear hK hm
  unfold State.pllLost
  repeat' first
    | with_reducible exact Keeps.refl _ _
    | with_reducible assumption
    | ((with_reducible apply State.setB_keeps); (case hm => exact rfl))
    | ((with_reducible apply State.irq_keeps); (case hm => exact rfl))
    | split
    | (dsimp only)

theorem State.pllLock_keeps {n0 : Nat} {s0 : State} {s : State} (hK : Keeps n0 s0 s) (hm : Keeps.sub 0x4 n0 = true) :
    Keeps n0 s0 (State.pllLock s) := by
  refine Keeps.step hK ?_ hm
  clear hK hm
  unfold State.pllLock
  repeat' first
    | with_reducible exact Keeps.refl _ _
    | with_reducible assumption
    | ((with_reducible apply State.lockOn_keeps); (case hm => exact rfl))
    | split
    | (dsimp only)

theorem State.clkReturnTo_keeps {n0 : Nat} {s0 : State} {s : State} (hK : Keeps n0 s0 s) (hm : Keeps.sub 0x40004 n0 = true) :
    Keeps n0 s0 (State.clkReturnTo s) := by
  refine Keeps.step hK ?_ hm
  clear hK hm
  unfold State.clkReturnTo
  repeat' first
    | with_reducible exact Keeps.refl _ _
    | with_reducible assumption
    | (extract_lets +onlyGivenNames -underBinder x; (with_reducible refine Keeps.cut (v := x) ?_ (fun hx => ?_)); subst x; rotate_left; clear_value x; rotate_right)
    | (extract_lets +onlyGivenNames -underBinder x; clear_value x)
    | ((with_reducible apply State.coastEnd_keeps); (case hm => exact rfl))
    | ((with_reducible apply State.lockOn_keeps); (case hm => exact rfl))
    | ((with_reducible apply State.aonSource_keeps); (case hm => exact rfl))
    | split
    | (dsimp only)

theorem State.sourceOk_keeps {n0 : Nat} {s0 : State} {s : State} {src : Nat} (hK : Keeps n0 s0 s) (hm : Keeps.sub 0x100000040004 n0 = true) :
    Keeps n0 s0 (State.sourceOk s src) := by
  refine Keeps.step hK ?_ hm
  clear hK hm
  unfold State.sourceOk
  repeat' first
    | with_reducible exact Keeps.refl _ _
    | with_reducible assumption
    | (extract_lets +onlyGivenNames -underBinder x; (with_reducible refine Keeps.cut (v := x) ?_ (fun hx => ?_)); subst x; rotate_left; clear_value x; rotate_right)
    | (extract_lets +onlyGivenNames -underBinder x; clear_value x)
    | ((with_reducible apply State.setB_keeps); (case hm => exact rfl))
    | ((with_reducible apply State.coastEnd_keeps); (case hm => exact rfl))
    | ((with_reducible apply State.tbSource_keeps); (case hm => exact rfl))
    | ((with_reducible apply State.lockOn_keeps); (case hm => exact rfl))
    | ((with_reducible apply State.clkReturnTo_keeps); (case hm => exact rfl))
    | ((with_reducible apply State.aonSource_keeps); (case hm => exact rfl))
    | ((with_reducible apply State.trimSource_keeps); (case hm => exact rfl))
    | ((with_reducible apply State.clkOk_keeps); (case hm => exact rfl))
    | ((with_reducible apply State.updClk_keeps); (case hm => exact rfl))
    | (with_reducible refine Keeps.ofP2 (by assumption) ?_)
    | (with_reducible refine Keeps.ofP1 (by assumption) ?_)
    | (with_reducible refine Keeps.ofP3 (by assumption) ?_)
    | split
    | (dsimp only)

theorem State.clkReturn_keeps {n0 : Nat} {s0 : State} {s : State} (hK : Keeps n0 s0 s) (hm : Keeps.sub 0x40004 n0 = true) :
    Keeps n0 s0 (State.clkReturn s) := by
  refine Keeps.step hK ?_ hm
  clear hK hm
  unfold State.clkReturn
  repeat' first
    | with_reducible exact Keeps.refl _ _
    | with_reducible assumption
    | ((with_reducible apply State.coastEnd_keeps); (case hm => exact rfl))
    | ((with_reducible apply State.blkErr_keeps); (case hm => exact rfl))
    | ((with_reducible apply State.lockOn_keeps); (case hm => exact rfl))
    | ((with_reducible apply State.clkReturnTo_keeps); (case hm => exact rfl))
    | split
    | (dsimp only)

theorem State.hrcPass_keeps {n0 : Nat} {s0 : State} {s : State} (hK : Keeps n0 s0 s) (hm : Keeps.sub 0x100000040004 n0 = true) :
    Keeps n0 s0 (State.hrcPass s) := by
  refine Keeps.step hK ?_ hm
  clear hK hm
  unfold State.hrcPass
  repeat' first
    | with_reducible exact Keeps.refl _ _
    | with_reducible assumption
    | (extract_lets +onlyGivenNames -underBinder x; (with_reducible refine Keeps.cut (v := x) ?_ (fun hx => ?_)); subst x; rotate_left; clear_value x; rotate_right)
    | (extract_lets +onlyGivenNames -underBinder x; clear_value x)
    | ((with_reducible apply State.setB_keeps); (case hm => exact rfl))
    | ((with_reducible apply State.tbSource_keeps); (case hm => exact rfl))
    | ((with_reducible apply State.lockOn_keeps); (case hm => exact rfl))
    | ((with_reducible apply State.clearFault_keeps); (case hm => exact rfl))
    | ((with_reducible apply State.set_keeps); (case hm => exact rfl))
    | ((with_reducible apply State.clkOk_keeps); (case hm => exact rfl))
    | ((with_reducible apply State.updClk_keeps); (case hm => exact rfl))
    | split
    | (dsimp only)

theorem State.hrcMiss_keeps {n0 : Nat} {s0 : State} {s : State} (hK : Keeps n0 s0 s) (hm : Keeps.sub 0x100000040004 n0 = true) :
    Keeps n0 s0 (State.hrcMiss s).2 := by
  refine Keeps.step hK ?_ hm
  clear hK hm
  unfold State.hrcMiss
  repeat' first
    | with_reducible exact Keeps.refl _ _
    | with_reducible assumption
    | (extract_lets +onlyGivenNames -underBinder x; (with_reducible refine Keeps.cut (v := x) ?_ (fun hx => ?_)); subst x; rotate_left; clear_value x; rotate_right)
    | (extract_lets +onlyGivenNames -underBinder x; clear_value x)
    | ((with_reducible apply State.set_keeps); (case hm => exact rfl))
    | ((with_reducible apply State.raise_keeps); (case hm => exact rfl))
    | ((with_reducible apply State.updClk_keeps); (case hm => exact rfl))
    | split
    | (dsimp only)

theorem State.noFallRetry_keeps {n0 : Nat} {s0 : State} {s : State} (hK : Keeps n0 s0 s) (hm : Keeps.sub 0x100000000002 n0 = true) :
    Keeps n0 s0 (State.noFallRetry s) := by
  refine Keeps.step hK ?_ hm
  clear hK hm
  unfold State.noFallRetry
  repeat' first
    | with_reducible exact Keeps.refl _ _
    | with_reducible assumption
    | (extract_lets +onlyGivenNames -underBinder x; (with_reducible refine Keeps.cut (v := x) ?_ (fun hx => ?_)); subst x; rotate_left; clear_value x; rotate_right)
    | (extract_lets +onlyGivenNames -underBinder x; clear_value x)
    | ((with_reducible apply State.hrcRequal_keeps); (case hm => exact rfl))
    | ((with_reducible apply State.at__keeps); (case hm => exact rfl))
    | (with_reducible refine Keeps.ofP2 (by assumption) ?_)
    | (with_reducible refine Keeps.ofP1 (by assumption) ?_)
    | (with_reducible refine Keeps.ofP3 (by assumption) ?_)
    | split
    | (dsimp only)

theorem State.lxoPass_keeps {n0 : Nat} {s0 : State} {s : State} (hK : Keeps n0 s0 s) (hm : Keeps.sub 0x100000000004 n0 = true) :
    Keeps n0 s0 (State.lxoPass s) := by
  refine Keeps.step hK ?_ hm
  clear hK hm
  unfold State.lxoPass
  repeat' first
    | with_reducible exact Keeps.refl _ _
    | with_reducible assumption
    | ((with_reducible apply State.setB_keeps); (case hm => exact rfl))
    | ((with_reducible apply State.aonSource_keeps); (case hm => exact rfl))
    | ((with_reducible apply State.updClk_keeps); (case hm => exact rfl))
    | (dsimp only)

theorem State.trimStep_keeps {n0 : Nat} {s0 : State} {s : State} {dev : Int} (hK : Keeps n0 s0 s) (hm : Keeps.sub 0x40004 n0 = true) :
    Keeps n0 s0 (State.trimStep s dev) := by
  refine Keeps.step hK ?_ hm
  clear hK hm
  unfold State.trimStep
  repeat' first
    | with_reducible exact Keeps.refl _ _
    | with_reducible assumption
    | (extract_lets +onlyGivenNames -underBinder x; (with_reducible refine Keeps.cut (v := x) ?_ (fun hx => ?_)); subst x; rotate_left; clear_value x; rotate_right)
    | (extract_lets +onlyGivenNames -underBinder x; (have hfn : (_ → _) := x; clear hfn); subst x; dsimp only)
    | (extract_lets +onlyGivenNames -underBinder x; clear_value x)
    | ((with_reducible apply State.irq_keeps); (case hm => exact rfl))
    | ((with_reducible apply State.seti_keeps); (case hm => exact rfl))
    | ((with_reducible apply State.clearFault_keeps); (case hm => exact rfl))
    | ((with_reducible apply State.raise_keeps); (case hm => exact rfl))
    | ((with_reducible apply State.trimSource_keeps); (case hm => exact rfl))
    | split
    | (dsimp only)

theorem State.discipline_keeps {n0 : Nat} {s0 : State} {s : State} {ppb : Int} (hK : Keeps n0 s0 s) (hm : Keeps.sub 0x4 n0 = true) :
    Keeps n0 s0 (State.discipline s ppb) := by
  refine Keeps.step hK ?_ hm
  clear hK hm
  unfold State.discipline
  repeat' first
    | with_reducible exact Keeps.refl _ _
    | with_reducible assumption
    | ((with_reducible apply State.seti_keeps); (case hm => exact rfl))
    | split
    | (dsimp only)

theorem State.extrefOk_keeps {n0 : Nat} {s0 : State} {s : State} {on : Bool} (hK : Keeps n0 s0 s) (hm : Keeps.sub 0x40004 n0 = true) :
    Keeps n0 s0 (State.extrefOk s on) := by
  refine Keeps.step hK ?_ hm
  clear hK hm
  unfold State.extrefOk
  repeat' first
    | with_reducible exact Keeps.refl _ _
    | with_reducible assumption
    | (extract_lets +onlyGivenNames -underBinder x; (with_reducible refine Keeps.cut (v := x) ?_ (fun hx => ?_)); subst x; rotate_left; clear_value x; rotate_right)
    | (extract_lets +onlyGivenNames -underBinder x; clear_value x)
    | ((with_reducible apply State.setB_keeps); (case hm => exact rfl))
    | ((with_reducible apply State.irq_keeps); (case hm => exact rfl))
    | ((with_reducible apply State.clearFault_keeps); (case hm => exact rfl))
    | ((with_reducible apply State.raise_keeps); (case hm => exact rfl))
    | ((with_reducible apply State.trimSource_keeps); (case hm => exact rfl))
    | (with_reducible refine Keeps.ofP2 (by assumption) ?_)
    | (with_reducible refine Keeps.ofP1 (by assumption) ?_)
    | (with_reducible refine Keeps.ofP3 (by assumption) ?_)
    | split
    | (dsimp only)

theorem State.setOp_keeps {n0 : Nat} {s0 : State} {s : State} {op : Nat} (hK : Keeps n0 s0 s) (hm : Keeps.sub 0x4 n0 = true) :
    Keeps n0 s0 (State.setOp s op) := by
  refine Keeps.step hK ?_ hm
  clear hK hm
  unfold State.setOp
  repeat' first
    | with_reducible exact Keeps.refl _ _
    | with_reducible assumption
    | ((with_reducible apply State.irq_keeps); (case hm => exact rfl))
    | ((with_reducible apply State.set_keeps); (case hm => exact rfl))
    | split
    | (dsimp only)

end Sys2Proof.Machine
end

