-- ==== Sys2Proof/Laws/KeepsRefuse.lean ====
section
/-! SUPPORT. What each operation of Machine/Refuse.lean may touch (Laws/Keeps.lean): the mask lists the fields it may change,
and the invariant of the block is kept. -/
set_option Elab.async false
set_option linter.all false
namespace Sys2Proof.Machine

theorem State.takeHeld_keeps {n0 : Nat} {s0 : State} {s : State} {r : Rate} (hK : Keeps n0 s0 s) (hm : Keeps.sub 0x8 n0 = true) :
    Keeps n0 s0 (State.takeHeld s r) := by
  refine Keeps.step hK ?_ hm
  clear hK hm
  unfold State.takeHeld
  repeat' first
    | with_reducible exact Keeps.refl _ _
    | with_reducible assumption
    | (with_reducible refine Keeps.ofP2 (by assumption) ?_)
    | (with_reducible refine Keeps.ofP1 (by assumption) ?_)
    | (with_reducible refine Keeps.ofP3 (by assumption) ?_)
    | split
    | (with_reducible refine Keeps.leaf ?_ (h_held := Keeps.chg (by decide)))
    | (dsimp only)

end Sys2Proof.Machine
end

