-- ==== Sys2Proof/Laws/KeepsCheck.lean ====
section
/-! SUPPORT. What each operation of Machine/Check.lean may touch (Laws/Keeps.lean): the mask lists the fields it may change,
and the invariant of the block is kept. -/
set_option Elab.async false
set_option linter.all false
namespace Sys2Proof.Machine

theorem State.maskWrite_keeps {n0 : Nat} {s0 : State} {s : State} {a : Nat} {w : Word} (hK : Keeps n0 s0 s) (hm : Keeps.sub 0x4 n0 = true) :
    Keeps n0 s0 (State.maskWrite s a w) := by
  refine Keeps.step hK ?_ hm
  clear hK hm
  unfold State.maskWrite
  repeat' first
    | with_reducible exact Keeps.refl _ _
    | with_reducible assumption
    | (extract_lets +onlyGivenNames -underBinder x; (with_reducible refine Keeps.cut (v := x) ?_ (fun hx => ?_)); subst x; rotate_left; clear_value x; rotate_right)
    | (extract_lets +onlyGivenNames -underBinder x; clear_value x)
    | ((with_reducible apply State.setWord_keeps); (case hm => exact rfl))
    | (with_reducible refine Keeps.ofP2 (by assumption) ?_)
    | (with_reducible refine Keeps.ofP1 (by assumption) ?_)
    | (with_reducible refine Keeps.ofP3 (by assumption) ?_)
    | split
    | (dsimp only)

theorem State.pageFaces_keeps {n0 : Nat} {s0 : State} {s : State} {p : Nat} (hK : Keeps n0 s0 s) (hm : Keeps.sub 0x4 n0 = true) :
    Keeps n0 s0 (State.pageFaces s p) := by
  refine Keeps.step hK ?_ hm
  clear hK hm
  unfold State.pageFaces
  repeat' first
    | with_reducible exact Keeps.refl _ _
    | with_reducible assumption
    | (with_reducible refine Keeps.leaf ?_ (h_regs := Keeps.chg (by decide)) (i1 := (fun h => by first | exact h | with_unfolding_all exact Map.put_wf _ _ _ h | with_unfolding_all exact Map.filter_wf _ _ h | with_unfolding_all rfl)))
    | (dsimp only)

theorem State.schWinWrite_keeps {n0 : Nat} {s0 : State} {s : State} {off : Nat} {w : Word} {image : Bool} (hK : Keeps n0 s0 s) (hm : Keeps.sub 0x100000004 n0 = true) :
    Keeps n0 s0 (State.schWinWrite s off w image) := by
  refine Keeps.step hK ?_ hm
  clear hK hm
  unfold State.schWinWrite
  repeat' first
    | with_reducible exact Keeps.refl _ _
    | with_reducible assumption
    | (extract_lets +onlyGivenNames -underBinder x; (with_reducible refine Keeps.cut (v := x) ?_ (fun hx => ?_)); subst x; rotate_left; clear_value x; rotate_right)
    | (extract_lets +onlyGivenNames -underBinder x; clear_value x)
    | ((with_reducible apply State.blkErr_keeps); (case hm => exact rfl))
    | split
    | (with_reducible refine Keeps.leaf ?_ (h_tab := Keeps.chg (by decide)))
    | (dsimp only)

theorem State.strmWrite_keeps {n0 : Nat} {s0 : State} {s : State} {w : Word} (hK : Keeps n0 s0 s) (hm : Keeps.sub 0x1000000000000 n0 = true) :
    Keeps n0 s0 (State.strmWrite s w) := by
  refine Keeps.step hK ?_ hm
  clear hK hm
  unfold State.strmWrite
  repeat' first
    | with_reducible exact Keeps.refl _ _
    | with_reducible assumption
    | (extract_lets +onlyGivenNames -underBinder x; (with_reducible refine Keeps.cut (v := x) ?_ (fun hx => ?_)); subst x; rotate_left; clear_value x; rotate_right)
    | (extract_lets +onlyGivenNames -underBinder x; clear_value x)
    | ((with_reducible apply State.updDlv_keeps); (case hm => exact rfl))
    | split
    | (dsimp only)

theorem State.pendWord_keeps {n0 : Nat} {s0 : State} {s : State} {a : Nat} {w : Word} (hK : Keeps n0 s0 s) (hm : Keeps.sub 0x1008100200004 n0 = true) :
    Keeps n0 s0 (State.pendWord s a w) := by
  refine Keeps.step hK ?_ hm
  clear hK hm
  unfold State.pendWord
  repeat' first
    | with_reducible exact Keeps.refl _ _
    | with_reducible assumption
    | (extract_lets +onlyGivenNames -underBinder x; (with_reducible refine Keeps.cut (v := x) ?_ (fun hx => ?_)); subst x; rotate_left; clear_value x; rotate_right)
    | (extract_lets +onlyGivenNames -underBinder x; clear_value x)
    | ((with_reducible apply State.strmWrite_keeps); (case hm => exact rfl))
    | ((with_reducible apply State.setB_keeps); (case hm => exact rfl))
    | ((with_reducible apply State.pageFaces_keeps); (case hm => exact rfl))
    | ((with_reducible apply State.blkWrite_keeps); (case hm => exact rfl))
    | ((with_reducible apply State.schWinWrite_keeps); (case hm => exact rfl))
    | ((with_reducible apply State.pdirWrite_keeps); (case hm => exact rfl))
    | ((with_reducible apply State.maskWrite_keeps); (case hm => exact rfl))
    | (with_reducible refine Keeps.ofP2 (by assumption) ?_)
    | (with_reducible refine Keeps.ofP1 (by assumption) ?_)
    | (with_reducible refine Keeps.ofP3 (by assumption) ?_)
    | split
    | (dsimp only)

theorem State.pendView_keeps {n0 : Nat} {s0 : State} {s : State} (hK : Keeps n0 s0 s) (hm : Keeps.sub 0x8 n0 = true) :
    Keeps n0 s0 (State.pendView s) := by
  refine Keeps.step hK ?_ hm
  clear hK hm
  unfold State.pendView
  repeat' first
    | with_reducible exact Keeps.refl _ _
    | with_reducible assumption
    | (with_reducible refine Keeps.leaf ?_ (h_held := Keeps.chg (by decide)))
    | (dsimp only)

end Sys2Proof.Machine
end

