-- ==== Sys2Proof/Laws/KeepsReset.lean ====
section
/-! SUPPORT. What each operation of Machine/Reset.lean may touch (Laws/Keeps.lean): the mask lists the fields it may change,
and the invariant of the block is kept. -/
set_option Elab.async false
set_option linter.all false
namespace Sys2Proof.Machine

theorem State.resetStores_keeps {n0 : Nat} {s0 : State} {s : State} {cause : Nat} (hK : Keeps n0 s0 s) (hm : Keeps.sub 0x2000000840004 n0 = true) :
    Keeps n0 s0 (State.resetStores s cause) := by
  refine Keeps.step hK ?_ hm
  clear hK hm
  unfold State.resetStores
  repeat' first
    | with_reducible exact Keeps.refl _ _
    | with_reducible assumption
    | (extract_lets +onlyGivenNames -underBinder x; (with_reducible refine Keeps.cut (v := x) ?_ (fun hx => ?_)); subst x; rotate_left; clear_value x; rotate_right)
    | (extract_lets +onlyGivenNames -underBinder x; clear_value x)
    | ((with_reducible apply State.pageDone_keeps); (case hm => exact rfl))
    | ((with_reducible apply State.peatCut_keeps); (case hm => exact rfl))
    | ((with_reducible apply State.freeBool_keeps); (case hm => exact rfl))
    | ((with_reducible apply State.storeStop_keeps); (case hm => exact rfl))
    | (with_reducible refine Keeps.ofP2 (by assumption) ?_)
    | (with_reducible refine Keeps.ofP1 (by assumption) ?_)
    | (with_reducible refine Keeps.ofP3 (by assumption) ?_)
    | split
    | (dsimp only)

theorem State.assertReset_keeps {n0 : Nat} {s0 : State} {s : State} {cause : Nat} (hK : Keeps n0 s0 s) (hm : Keeps.sub 0x3dffffffffffe n0 = true) :
    Keeps n0 s0 (State.assertReset s cause) := by
  refine Keeps.step hK ?_ hm
  clear hK hm
  unfold State.assertReset
  repeat' first
    | with_reducible exact Keeps.refl _ _
    | with_reducible assumption
    | (extract_lets +onlyGivenNames -underBinder x; (with_reducible refine Keeps.cut (v := x) ?_ (fun hx => ?_)); subst x; rotate_left; clear_value x; rotate_right)
    | (extract_lets +onlyGivenNames -underBinder x; subst x)
    | ((with_reducible apply State.resetStores_keeps); (case hm => exact rfl))
    | ((with_reducible apply State.setB_keeps); (case hm => exact rfl))
    | ((with_reducible apply State.set_keeps); (case hm => exact rfl))
    | (with_reducible refine Keeps.ofP2 (by assumption) ?_)
    | (with_reducible refine Keeps.ofP1 (by assumption) ?_)
    | (with_reducible refine Keeps.ofP3 (by assumption) ?_)
    | split
    | (with_reducible refine Keeps.leaf ?_ (h_now := Keeps.chg (by decide)) (h_regs := Keeps.chg (by decide)) (h_held := Keeps.chg (by decide)) (h_frozen := Keeps.chg (by decide)) (h_softRst := Keeps.chg (by decide)) (h_port := Keeps.chg (by decide)) (h_lath := Keeps.chg (by decide)) (h_uch := Keeps.chg (by decide)) (h_lv := Keeps.chg (by decide)) (h_l0 := Keeps.chg (by decide)) (h_stL := Keeps.chg (by decide)) (h_stS := Keeps.chg (by decide)) (h_hostLv := Keeps.chg (by decide)) (h_vis := Keeps.chg (by decide)) (h_img := Keeps.chg (by decide)) (h_lwork := Keeps.chg (by decide)) (h_swork := Keeps.chg (by decide)) (h_flt := Keeps.chg (by decide)) (h_cores := Keeps.chg (by decide)) (h_nst := Keeps.chg (by decide)) (h_dir := Keeps.chg (by decide)) (h_boot := Keeps.chg (by decide)) (h_sto := Keeps.chg (by decide)) (h_eng := Keeps.chg (by decide)) (h_engL := Keeps.chg (by decide)) (h_engS := Keeps.chg (by decide)) (h_evL := Keeps.chg (by decide)) (h_evS := Keeps.chg (by decide)) (h_cap := Keeps.chg (by decide)) (h_rbus := Keeps.chg (by decide)) (h_pir := Keeps.chg (by decide)) (h_tab := Keeps.chg (by decide)) (h_hostZm := Keeps.chg (by decide)) (h_stZ := Keeps.chg (by decide)) (h_loopPar := Keeps.chg (by decide)) (h_loopsL := Keeps.chg (by decide)) (h_loopsS := Keeps.chg (by decide)) (h_tmeCmd := Keeps.chg (by decide)) (h_net := Keeps.chg (by decide)) (h_fanIo := Keeps.chg (by decide)) (h_key := Keeps.chg (by decide)) (h_epd := Keeps.chg (by decide)) (h_pwr := Keeps.chg (by decide)) (h_clk := Keeps.chg (by decide)) (h_lev := Keeps.chg (by decide)) (h_fab := Keeps.chg (by decide)) (h_dlv := Keeps.chg (by decide)) (i1 := (fun h => by first | exact h | with_unfolding_all exact Map.put_wf _ _ _ h | with_unfolding_all exact Map.filter_wf _ _ h | with_unfolding_all rfl)) (i2 := (fun h => by first | exact h | with_unfolding_all exact Map.put_wf _ _ _ h | with_unfolding_all exact Map.filter_wf _ _ h | with_unfolding_all rfl)) (i3 := (fun h => by first | exact h | with_unfolding_all exact Map.put_wf _ _ _ h | with_unfolding_all exact Map.filter_wf _ _ h | with_unfolding_all rfl)) (i4 := (fun h => by first | exact h | with_unfolding_all exact Map.put_wf _ _ _ h | with_unfolding_all exact Map.filter_wf _ _ h | with_unfolding_all rfl)) (i5 := (fun h => by first | exact h | (simp only; first | omega | (simp; omega) | (simp; done)))) (i6 := (fun h => by first | exact h | (simp only; first | omega | (simp; omega) | (simp; done)))))
    | (dsimp only)

theorem State.safeRosc_keeps {n0 : Nat} {s0 : State} {s : State} (hK : Keeps n0 s0 s) (hm : Keeps.sub 0x3dffffffffffe n0 = true) :
    Keeps n0 s0 (State.safeRosc s) := by
  refine Keeps.step hK ?_ hm
  clear hK hm
  unfold State.safeRosc
  repeat' first
    | with_reducible exact Keeps.refl _ _
    | with_reducible assumption
    | (extract_lets +onlyGivenNames -underBinder x; (with_reducible refine Keeps.cut (v := x) ?_ (fun hx => ?_)); subst x; rotate_left; clear_value x; rotate_right)
    | (extract_lets +onlyGivenNames -underBinder x; clear_value x)
    | ((with_reducible apply State.setB_keeps); (case hm => exact rfl))
    | ((with_reducible apply State.clkFail_keeps); (case hm => exact rfl))
    | ((with_reducible apply State.set_keeps); (case hm => exact rfl))
    | ((with_reducible apply State.assertReset_keeps); (case hm => exact rfl))
    | (with_reducible refine Keeps.leaf ?_ (h_boot := Keeps.chg (by decide)) (h_clk := Keeps.chg (by decide)))
    | (dsimp only)

theorem State.sampleCore_keeps {n0 : Nat} {s0 : State} {s : State} {coreSrc : Bool} (hK : Keeps n0 s0 s) (hm : Keeps.sub 0x2080000400004 n0 = true) :
    Keeps n0 s0 (State.sampleCore s coreSrc) := by
  refine Keeps.step hK ?_ hm
  clear hK hm
  unfold State.sampleCore
  repeat' first
    | with_reducible exact Keeps.refl _ _
    | with_reducible assumption
    | (extract_lets +onlyGivenNames -underBinder x; (with_reducible refine Keeps.cut (v := x) ?_ (fun hx => ?_)); subst x; rotate_left; clear_value x; rotate_right)
    | (extract_lets +onlyGivenNames -underBinder x; clear_value x)
    | ((with_reducible apply State.setB_keeps); (case hm => exact rfl))
    | ((with_reducible apply State.freeNat_keeps); (case hm => exact rfl))
    | ((with_reducible apply State.set_keeps); (case hm => exact rfl))
    | (with_reducible refine Keeps.ofP2 (by assumption) ?_)
    | (with_reducible refine Keeps.ofP1 (by assumption) ?_)
    | (with_reducible refine Keeps.ofP3 (by assumption) ?_)
    | split
    | (with_reducible refine Keeps.leaf ?_ (h_boot := Keeps.chg (by decide)) (h_pwr := Keeps.chg (by decide)))
    | (dsimp only)

theorem State.coldRelease_keeps {n0 : Nat} {s0 : State} {s : State} {coreSrc : Bool} (hK : Keeps n0 s0 s) (hm : Keeps.sub 0x2180000400004 n0 = true) :
    Keeps n0 s0 (State.coldRelease s coreSrc) := by
  refine Keeps.step hK ?_ hm
  clear hK hm
  unfold State.coldRelease
  repeat' first
    | with_reducible exact Keeps.refl _ _
    | with_reducible assumption
    | (extract_lets +onlyGivenNames -underBinder x; (with_reducible refine Keeps.cut (v := x) ?_ (fun hx => ?_)); subst x; rotate_left; clear_value x; rotate_right)
    | (extract_lets +onlyGivenNames -underBinder x; clear_value x)
    | ((with_reducible apply State.sampleCore_keeps); (case hm => exact rfl))
    | (with_reducible refine Keeps.leaf ?_ (h_boot := Keeps.chg (by decide)) (h_clk := Keeps.chg (by decide)))
    | (dsimp only)

theorem State.warmRelease_keeps {n0 : Nat} {s0 : State} {s : State} {at_ : Nat} (hK : Keeps n0 s0 s) (hm : Keeps.sub 0x2100000400002 n0 = true) :
    Keeps n0 s0 (State.warmRelease s at_) := by
  refine Keeps.step hK ?_ hm
  clear hK hm
  unfold State.warmRelease
  repeat' first
    | with_reducible exact Keeps.refl _ _
    | with_reducible assumption
    | (extract_lets +onlyGivenNames -underBinder x; (with_reducible refine Keeps.cut (v := x) ?_ (fun hx => ?_)); subst x; rotate_left; clear_value x; rotate_right)
    | (extract_lets +onlyGivenNames -underBinder x; clear_value x)
    | ((with_reducible apply State.freeNat_keeps); (case hm => exact rfl))
    | (with_reducible refine Keeps.ofP2 (by assumption) ?_)
    | (with_reducible refine Keeps.ofP1 (by assumption) ?_)
    | (with_reducible refine Keeps.ofP3 (by assumption) ?_)
    | split
    | (with_reducible refine Keeps.leaf ?_ (h_now := Keeps.chg (by decide)) (h_boot := Keeps.chg (by decide)) (h_clk := Keeps.chg (by decide)))
    | (dsimp only)

theorem State.releaseCore_keeps {n0 : Nat} {s0 : State} {s : State} {serviceN : Bool} {bootSafeN : Bool} (hK : Keeps n0 s0 s) (hm : Keeps.sub 0x480004 n0 = true) :
    Keeps n0 s0 (State.releaseCore s serviceN bootSafeN) := by
  refine Keeps.step hK ?_ hm
  clear hK hm
  unfold State.releaseCore
  repeat' first
    | with_reducible exact Keeps.refl _ _
    | with_reducible assumption
    | (extract_lets +onlyGivenNames -underBinder x; (with_reducible refine Keeps.cut (v := x) ?_ (fun hx => ?_)); subst x; rotate_left; clear_value x; rotate_right)
    | (extract_lets +onlyGivenNames -underBinder x; clear_value x)
    | ((with_reducible apply State.setB_keeps); (case hm => exact rfl))
    | ((with_reducible apply State.setWord_keeps); (case hm => exact rfl))
    | ((with_reducible apply State.levFaces_keeps); (case hm => exact rfl))
    | ((with_reducible apply State.startScan_keeps); (case hm => exact rfl))
    | (with_reducible refine Keeps.fold _ _ ?_ (fun u b hu => ?_))
    | (with_reducible refine Keeps.leaf ?_ (h_boot := Keeps.chg (by decide)))
    | (dsimp only)

theorem State.warmReset_keeps {n0 : Nat} {s0 : State} {s : State} {cause : Nat} (hK : Keeps n0 s0 s) (hm : Keeps.sub 0x3dffffffffffe n0 = true) :
    Keeps n0 s0 (State.warmReset s cause) := by
  refine Keeps.step hK ?_ hm
  clear hK hm
  unfold State.warmReset
  repeat' first
    | with_reducible exact Keeps.refl _ _
    | with_reducible assumption
    | ((with_reducible apply State.assertReset_keeps); (case hm => exact rfl))
    | (dsimp only)

end Sys2Proof.Machine
end

