-- ==== Sys2Proof/Laws/KeepsActivate.lean ====
section
/-! SUPPORT. What each operation of Machine/Activate.lean may touch (Laws/Keeps.lean): the mask lists the fields it may change,
and the invariant of the block is kept. -/
set_option Elab.async false
set_option linter.all false
namespace Sys2Proof.Machine

theorem State.pendTables_keeps {n0 : Nat} {s0 : State} {s : State} {a : Nat} {w : Word} (hK : Keeps n0 s0 s) (hm : Keeps.sub 0x8100000004 n0 = true) :
    Keeps n0 s0 (State.pendTables s a w) := by
  refine Keeps.step hK ?_ hm
  clear hK hm
  unfold State.pendTables
  repeat' first
    | with_reducible exact Keeps.refl _ _
    | with_reducible assumption
    | ((with_reducible apply State.blkWrite_keeps); (case hm => exact rfl))
    | ((with_reducible apply State.schWinWrite_keeps); (case hm => exact rfl))
    | (with_reducible refine Keeps.ofP2 (by assumption) ?_)
    | (with_reducible refine Keeps.ofP1 (by assumption) ?_)
    | (with_reducible refine Keeps.ofP3 (by assumption) ?_)
    | split
    | (dsimp only)

theorem State.actRefused_keeps {n0 : Nat} {s0 : State} {s : State} {cause : Nat} {slot : Nat} {item : Nat} {sess : Nat} {src : Nat} (hK : Keeps n0 s0 s) (hm : Keeps.sub 0x100004 n0 = true) :
    Keeps n0 s0 (State.actRefused s cause slot item sess src) := by
  refine Keeps.step hK ?_ hm
  clear hK hm
  unfold State.actRefused
  repeat' first
    | with_reducible exact Keeps.refl _ _
    | with_reducible assumption
    | (extract_lets +onlyGivenNames -underBinder x; (with_reducible refine Keeps.cut (v := x) ?_ (fun hx => ?_)); subst x; rotate_left; clear_value x; rotate_right)
    | (extract_lets +onlyGivenNames -underBinder x; clear_value x)
    | ((with_reducible apply State.irq_keeps); (case hm => exact rfl))
    | ((with_reducible apply State.audit_keeps); (case hm => exact rfl))
    | ((with_reducible apply State.actRes_keeps); (case hm => exact rfl))
    | (dsimp only)

theorem State.actBegin_keeps {n0 : Nat} {s0 : State} {s : State} {i : Nat} {startup : Bool} {sess : Nat} {src : Nat} {ws : List (Nat × Word × Nat)} (hK : Keeps n0 s0 s) (hm : Keeps.sub 0x8100000084 n0 = true) :
    Keeps n0 s0 (State.actBegin s i startup sess src ws) := by
  refine Keeps.step hK ?_ hm
  clear hK hm
  unfold State.actBegin
  repeat' first
    | with_reducible exact Keeps.refl _ _
    | with_reducible assumption
    | (extract_lets +onlyGivenNames -underBinder x; (with_reducible refine Keeps.cut (v := x) ?_ (fun hx => ?_)); subst x; rotate_left; clear_value x; rotate_right)
    | (extract_lets +onlyGivenNames -underBinder x; subst x)
    | ((with_reducible apply State.pendTables_keeps); (case hm => exact rfl))
    | (with_reducible refine Keeps.fold _ _ ?_ (fun u b hu => ?_))
    | (with_reducible refine Keeps.leaf ?_ (h_lath := Keeps.chg (by decide)) (i6 := (fun h => by first | exact h | (simp only; first | omega | (simp; omega) | (simp; done)))))
    | (dsimp only)

theorem State.actStart_keeps {n0 : Nat} {s0 : State} {s : State} {i : Nat} {sess : Nat} {src : Nat} {digest : Option (Nat × Nat)} (hK : Keeps n0 s0 s) (hm : Keeps.sub 0x8100100084 n0 = true) :
    Keeps n0 s0 (State.actStart s i sess src digest) := by
  refine Keeps.step hK ?_ hm
  clear hK hm
  unfold State.actStart
  repeat' first
    | with_reducible exact Keeps.refl _ _
    | with_reducible assumption
    | (extract_lets +onlyGivenNames -underBinder x; (with_reducible refine Keeps.cut (v := x) ?_ (fun hx => ?_)); subst x; rotate_left; clear_value x; rotate_right)
    | (extract_lets +onlyGivenNames -underBinder x; clear_value x)
    | ((with_reducible apply State.setB_keeps); (case hm => exact rfl))
    | ((with_reducible apply State.actBegin_keeps); (case hm => exact rfl))
    | ((with_reducible apply State.actRefused_keeps); (case hm => exact rfl))
    | (with_reducible refine Keeps.ofP2 (by assumption) ?_)
    | (with_reducible refine Keeps.ofP1 (by assumption) ?_)
    | (with_reducible refine Keeps.ofP3 (by assumption) ?_)
    | split
    | (dsimp only)

theorem State.clearTables_keeps {n0 : Nat} {s0 : State} {s : State} (hK : Keeps n0 s0 s) (hm : Keeps.sub 0x1008100200000 n0 = true) :
    Keeps n0 s0 (State.clearTables s) := by
  refine Keeps.step hK ?_ hm
  clear hK hm
  unfold State.clearTables
  repeat' first
    | with_reducible exact Keeps.refl _ _
    | with_reducible assumption
    | (with_reducible refine Keeps.leaf ?_ (h_dir := Keeps.chg (by decide)) (h_tab := Keeps.chg (by decide)) (h_net := Keeps.chg (by decide)) (h_dlv := Keeps.chg (by decide)))
    | (dsimp only)

theorem State.selectSafe_keeps {n0 : Nat} {s0 : State} {s : State} {why : Nat} (hK : Keeps n0 s0 s) (hm : Keeps.sub 0x1008100240084 n0 = true) :
    Keeps n0 s0 (State.selectSafe s why) := by
  refine Keeps.step hK ?_ hm
  clear hK hm
  unfold State.selectSafe
  repeat' first
    | with_reducible exact Keeps.refl _ _
    | with_reducible assumption
    | (extract_lets +onlyGivenNames -underBinder x; (with_reducible refine Keeps.cut (v := x) ?_ (fun hx => ?_)); subst x; rotate_left; clear_value x; rotate_right)
    | (extract_lets +onlyGivenNames -underBinder x; subst x)
    | ((with_reducible apply State.set_keeps); (case hm => exact rfl))
    | ((with_reducible apply State.raise_keeps); (case hm => exact rfl))
    | ((with_reducible apply State.clearTables_keeps); (case hm => exact rfl))
    | split
    | (with_reducible refine Keeps.leaf ?_ (h_lath := Keeps.chg (by decide)) (i6 := (fun h => by first | exact h | (simp only; first | omega | (simp; omega) | (simp; done)))))
    | (dsimp only)

theorem State.nextAttempt_keeps {n0 : Nat} {s0 : State} {s : State} (hK : Keeps n0 s0 s) (hm : Keeps.sub 0x1008100340084 n0 = true) :
    Keeps n0 s0 (State.nextAttempt s) := by
  refine Keeps.step hK ?_ hm
  clear hK hm
  unfold State.nextAttempt
  repeat' first
    | with_reducible exact Keeps.refl _ _
    | with_reducible assumption
    | (extract_lets +onlyGivenNames -underBinder x; (with_reducible refine Keeps.cut (v := x) ?_ (fun hx => ?_)); subst x; rotate_left; clear_value x; rotate_right)
    | (extract_lets +onlyGivenNames -underBinder x; subst x)
    | ((with_reducible apply State.actBegin_keeps); (case hm => exact rfl))
    | ((with_reducible apply State.actRefused_keeps); (case hm => exact rfl))
    | ((with_reducible apply State.set_keeps); (case hm => exact rfl))
    | ((with_reducible apply State.clearTables_keeps); (case hm => exact rfl))
    | ((with_reducible apply State.selectSafe_keeps); (case hm => exact rfl))
    | (with_reducible refine Keeps.ofP2 (by assumption) ?_)
    | (with_reducible refine Keeps.ofP1 (by assumption) ?_)
    | (with_reducible refine Keeps.ofP3 (by assumption) ?_)
    | split
    | (with_reducible refine Keeps.leaf ?_ (h_lath := Keeps.chg (by decide)) (i6 := (fun h => by first | exact h | (simp only; first | omega | (simp; omega) | (simp; done)))))
    | (dsimp only)

theorem State.startSelect_keeps {n0 : Nat} {s0 : State} {s : State} (hK : Keeps n0 s0 s) (hm : Keeps.sub 0x1008100340084 n0 = true) :
    Keeps n0 s0 (State.startSelect s) := by
  refine Keeps.step hK ?_ hm
  clear hK hm
  unfold State.startSelect
  repeat' first
    | with_reducible exact Keeps.refl _ _
    | with_reducible assumption
    | ((with_reducible apply State.nextAttempt_keeps); (case hm => exact rfl))
    | ((with_reducible apply State.selectSafe_keeps); (case hm => exact rfl))
    | split
    | (dsimp only)

theorem State.slotAttemptDone_keeps {n0 : Nat} {s0 : State} {s : State} (hK : Keeps n0 s0 s) (hm : Keeps.sub 0x1008100340084 n0 = true) :
    Keeps n0 s0 (State.slotAttemptDone s) := by
  refine Keeps.step hK ?_ hm
  clear hK hm
  unfold State.slotAttemptDone
  repeat' first
    | with_reducible exact Keeps.refl _ _
    | with_reducible assumption
    | ((with_reducible apply State.nextAttempt_keeps); (case hm => exact rfl))
    | (with_reducible refine Keeps.ofP2 (by assumption) ?_)
    | (with_reducible refine Keeps.ofP1 (by assumption) ?_)
    | (with_reducible refine Keeps.ofP3 (by assumption) ?_)
    | split
    | (with_reducible refine Keeps.leaf ?_ (h_lath := Keeps.chg (by decide)) (i6 := (fun h => by first | exact h | (simp only; first | omega | (simp; omega) | (simp; done)))))
    | (dsimp only)

theorem State.applyRestore_keeps {n0 : Nat} {s0 : State} {s : State} {a : Activation} (hK : Keeps n0 s0 s) (hm : Keeps.sub 0x100810060000c n0 = true) :
    Keeps n0 s0 (State.applyRestore s a).1 := by
  refine Keeps.step hK ?_ hm
  clear hK hm
  unfold State.applyRestore
  repeat' first
    | with_reducible exact Keeps.refl _ _
    | with_reducible assumption
    | (extract_lets +onlyGivenNames -underBinder x; (with_reducible refine Keeps.cut (v := x) ?_ (fun hx => ?_)); subst x; rotate_left; clear_value x; rotate_right)
    | (extract_lets +onlyGivenNames -underBinder x; clear_value x)
    | ((with_reducible apply State.setB_keeps); (case hm => exact rfl))
    | ((with_reducible apply State.pendTables_keeps); (case hm => exact rfl))
    | ((with_reducible apply State.pendView_keeps); (case hm => exact rfl))
    | ((with_reducible apply State.set_keeps); (case hm => exact rfl))
    | ((with_reducible apply State.pendWord_keeps); (case hm => exact rfl))
    | (with_reducible refine Keeps.fold _ _ ?_ (fun u b hu => ?_))
    | (with_reducible refine Keeps.ofP2 (by assumption) ?_)
    | (with_reducible refine Keeps.ofP1 (by assumption) ?_)
    | (with_reducible refine Keeps.ofP3 (by assumption) ?_)
    | split
    | (with_reducible refine Keeps.leaf ?_ (h_boot := Keeps.chg (by decide)))
    | (dsimp only)

theorem State.actView_keeps {n0 : Nat} {s0 : State} {s : State} {a : Activation} (hK : Keeps n0 s0 s) (hm : Keeps.sub 0x100810020000c n0 = true) :
    Keeps n0 s0 (State.actView s a) := by
  refine Keeps.step hK ?_ hm
  clear hK hm
  unfold State.actView
  repeat' first
    | with_reducible exact Keeps.refl _ _
    | with_reducible assumption
    | ((with_reducible apply State.pendView_keeps); (case hm => exact rfl))
    | ((with_reducible apply State.pendWord_keeps); (case hm => exact rfl))
    | (with_reducible refine Keeps.fold _ _ ?_ (fun u b hu => ?_))
    | (dsimp only)

theorem State.activationCheck_keeps {n0 : Nat} {s0 : State} {s : State} (hK : Keeps n0 s0 s) (hm : Keeps.sub 0x100810070008c n0 = true) :
    Keeps n0 s0 (State.activationCheck s) := by
  refine Keeps.step hK ?_ hm
  clear hK hm
  unfold State.activationCheck
  repeat' first
    | with_reducible exact Keeps.refl _ _
    | with_reducible assumption
    | (extract_lets +onlyGivenNames -underBinder x; (with_reducible refine Keeps.cut (v := x) ?_ (fun hx => ?_)); subst x; rotate_left; clear_value x; rotate_right)
    | (extract_lets +onlyGivenNames -underBinder x; subst x)
    | ((with_reducible apply State.setB_keeps); (case hm => exact rfl))
    | ((with_reducible apply State.irq_keeps); (case hm => exact rfl))
    | ((with_reducible apply State.actView_keeps); (case hm => exact rfl))
    | ((with_reducible apply State.applyRestore_keeps); (case hm => exact rfl))
    | ((with_reducible apply State.actRefused_keeps); (case hm => exact rfl))
    | ((with_reducible apply State.set_keeps); (case hm => exact rfl))
    | ((with_reducible apply State.setOp_keeps); (case hm => exact rfl))
    | ((with_reducible apply State.actRes_keeps); (case hm => exact rfl))
    | (with_reducible refine Keeps.ofP2 (by assumption) ?_)
    | (with_reducible refine Keeps.ofP1 (by assumption) ?_)
    | (with_reducible refine Keeps.ofP3 (by assumption) ?_)
    | split
    | (with_reducible refine Keeps.leaf ?_ (h_lath := Keeps.chg (by decide)) (i6 := (fun h => by first | exact h | (simp only; first | omega | (simp; omega) | (simp; done)))))
    | (dsimp only)

theorem State.slotRecord_keeps {n0 : Nat} {s0 : State} {s : State} (hK : Keeps n0 s0 s) (hm : Keeps.sub 0x100004 n0 = true) :
    Keeps n0 s0 (State.slotRecord s) := by
  refine Keeps.step hK ?_ hm
  clear hK hm
  unfold State.slotRecord
  repeat' first
    | with_reducible exact Keeps.refl _ _
    | with_reducible assumption
    | (extract_lets +onlyGivenNames -underBinder x; (with_reducible refine Keeps.cut (v := x) ?_ (fun hx => ?_)); subst x; rotate_left; clear_value x; rotate_right)
    | (extract_lets +onlyGivenNames -underBinder x; clear_value x)
    | ((with_reducible apply State.setB_keeps); (case hm => exact rfl))
    | ((with_reducible apply State.irq_keeps); (case hm => exact rfl))
    | ((with_reducible apply State.setSlot_keeps); (case hm => exact rfl))
    | ((with_reducible apply State.setActive_keeps); (case hm => exact rfl))
    | (with_reducible refine Keeps.ofP2 (by assumption) ?_)
    | (with_reducible refine Keeps.ofP1 (by assumption) ?_)
    | (with_reducible refine Keeps.ofP3 (by assumption) ?_)
    | split
    | (with_reducible refine Keeps.leaf ?_ (h_nst := Keeps.chg (by decide)))
    | (dsimp only)

end Sys2Proof.Machine
end

