-- ==== Sys2Proof/Laws/KeepsSoftRst.lean ====
section
/-! SUPPORT. What each operation of Machine/SoftRst.lean may touch (Laws/Keeps.lean): the mask lists the fields it may change,
and the invariant of the block is kept. -/
set_option Elab.async false
set_option linter.all false
namespace Sys2Proof.Machine

theorem State.pageFaultsClear_keeps {n0 : Nat} {s0 : State} {s : State} {p : Nat} (hK : Keeps n0 s0 s) (hm : Keeps.sub 0x40004 n0 = true) :
    Keeps n0 s0 (State.pageFaultsClear s p) := by
  refine Keeps.step hK ?_ hm
  clear hK hm
  unfold State.pageFaultsClear
  repeat' first
    | with_reducible exact Keeps.refl _ _
    | with_reducible assumption
    | (extract_lets +onlyGivenNames -underBinder x; (with_reducible refine Keeps.cut (v := x) ?_ (fun hx => ?_)); subst x; rotate_left; clear_value x; rotate_right)
    | (extract_lets +onlyGivenNames -underBinder x; clear_value x)
    | ((with_reducible apply State.clearFault_keeps); (case hm => exact rfl))
    | (with_reducible refine Keeps.fold _ _ ?_ (fun u b hu => ?_))
    | (dsimp only)

theorem State.modEng_keeps {n0 : Nat} {s0 : State} {s : State} {f : Eng → Eng} (hK : Keeps n0 s0 s) (hm : Keeps.sub 0x7000000 n0 = true) :
    Keeps n0 s0 (State.modEng s f) := by
  refine Keeps.step hK ?_ hm
  clear hK hm
  unfold State.modEng
  repeat' first
    | with_reducible exact Keeps.refl _ _
    | with_reducible assumption
    | (with_reducible refine Keeps.leaf ?_ (h_eng := Keeps.chg (by decide)) (h_engL := Keeps.chg (by decide)) (h_engS := Keeps.chg (by decide)))
    | (dsimp only)

theorem State.convReset_keeps {n0 : Nat} {s0 : State} {s : State} {c : Nat} (hK : Keeps n0 s0 s) (hm : Keeps.sub 0x18007080104 n0 = true) :
    Keeps n0 s0 (State.convReset s c) := by
  refine Keeps.step hK ?_ hm
  clear hK hm
  unfold State.convReset
  repeat' first
    | with_reducible exact Keeps.refl _ _
    | with_reducible assumption
    | (extract_lets +onlyGivenNames -underBinder x; (with_reducible refine Keeps.cut (v := x) ?_ (fun hx => ?_)); subst x; rotate_left; clear_value x; rotate_right)
    | (extract_lets +onlyGivenNames -underBinder x; (have hfn : (_ → _) := x; clear hfn); subst x; dsimp only)
    | (extract_lets +onlyGivenNames -underBinder x; clear_value x)
    | ((with_reducible apply State.modEng_keeps); (case hm => exact rfl))
    | ((with_reducible apply State.modChan_keeps); (case hm => exact rfl))
    | ((with_reducible apply State.setCore_keeps); (case hm => exact rfl))
    | ((with_reducible apply State.startScan_keeps); (case hm => exact rfl))
    | (with_reducible refine Keeps.fold _ _ ?_ (fun u b hu => ?_))
    | split
    | (with_reducible refine Keeps.leaf ?_ (h_net := Keeps.chg (by decide)) (h_fanIo := Keeps.chg (by decide)))
    | (dsimp only)

theorem State.uchReset_keeps {n0 : Nat} {s0 : State} {s : State} {p : Nat} (hK : Keeps n0 s0 s) (hm : Keeps.sub 0x700 n0 = true) :
    Keeps n0 s0 (State.uchReset s p) := by
  refine Keeps.step hK ?_ hm
  clear hK hm
  unfold State.uchReset
  repeat' first
    | with_reducible exact Keeps.refl _ _
    | with_reducible assumption
    | (extract_lets +onlyGivenNames -underBinder x; (with_reducible refine Keeps.cut (v := x) ?_ (fun hx => ?_)); subst x; rotate_left; clear_value x; rotate_right)
    | (extract_lets +onlyGivenNames -underBinder x; clear_value x)
    | ((with_reducible apply State.setChan_keeps); (case hm => exact rfl))
    | ((with_reducible apply State.setLevel_keeps); (case hm => exact rfl))
    | ((with_reducible apply State.relL0_keeps); (case hm => exact rfl))
    | (with_reducible refine Keeps.fold _ _ ?_ (fun u b hu => ?_))
    | (dsimp only)

theorem State.engReset_keeps {n0 : Nat} {s0 : State} {s : State} {b : Blk} {p : Nat} (hK : Keeps n0 s0 s) (hm : Keeps.sub 0x1c7f9c7ac0704 n0 = true) :
    Keeps n0 s0 (State.engReset s b p) := by
  refine Keeps.step hK ?_ hm
  clear hK hm
  unfold State.engReset
  repeat' first
    | with_reducible exact Keeps.refl _ _
    | with_reducible assumption
    | (extract_lets +onlyGivenNames -underBinder x; (with_reducible refine Keeps.cut (v := x) ?_ (fun hx => ?_)); subst x; rotate_left; clear_value x; rotate_right)
    | (extract_lets +onlyGivenNames -underBinder x; (have hfn : (_ → _) := x; clear hfn); subst x; dsimp only)
    | (extract_lets +onlyGivenNames -underBinder x; subst x)
    | ((with_reducible apply State.dirFaces_keeps); (case hm => exact rfl))
    | ((with_reducible apply State.setPort_keeps); (case hm => exact rfl))
    | ((with_reducible apply State.modEng_keeps); (case hm => exact rfl))
    | ((with_reducible apply State.uchReset_keeps); (case hm => exact rfl))
    | ((with_reducible apply State.fabStart_keeps); (case hm => exact rfl))
    | ((with_reducible apply State.convReset_keeps); (case hm => exact rfl))
    | ((with_reducible apply State.setPstate_keeps); (case hm => exact rfl))
    | ((with_reducible apply State.setRport_keeps); (case hm => exact rfl))
    | ((with_reducible apply State.epdFaces_keeps); (case hm => exact rfl))
    | ((with_reducible apply State.setLevel_keeps); (case hm => exact rfl))
    | ((with_reducible apply State.updEpd_keeps); (case hm => exact rfl))
    | ((with_reducible apply State.relL0_keeps); (case hm => exact rfl))
    | (with_reducible refine Keeps.fold _ _ ?_ (fun u b hu => ?_))
    | (with_reducible refine Keeps.ofP2 (by assumption) ?_)
    | (with_reducible refine Keeps.ofP1 (by assumption) ?_)
    | (with_reducible refine Keeps.ofP3 (by assumption) ?_)
    | split
    | (with_reducible refine Keeps.leaf ?_ (h_dir := Keeps.chg (by decide)) (h_pir := Keeps.chg (by decide)) (h_tab := Keeps.chg (by decide)) (h_loopPar := Keeps.chg (by decide)) (h_loopsL := Keeps.chg (by decide)) (h_loopsS := Keeps.chg (by decide)) (h_tmeCmd := Keeps.chg (by decide)) (h_net := Keeps.chg (by decide)) (h_fanIo := Keeps.chg (by decide)) (h_key := Keeps.chg (by decide)) (h_fab := Keeps.chg (by decide)) (h_dlv := Keeps.chg (by decide)) (i5 := (fun h => by first | exact h | (simp only; first | omega | (simp; omega) | (simp; done)))))
    | (dsimp only)

theorem State.softReset_keeps {n0 : Nat} {s0 : State} {s : State} {p : Nat} (hK : Keeps n0 s0 s) (hm : Keeps.sub 0x1c7f9c7ac073c n0 = true) :
    Keeps n0 s0 (State.softReset s p) := by
  refine Keeps.step hK ?_ hm
  clear hK hm
  unfold State.softReset
  repeat' first
    | with_reducible exact Keeps.refl _ _
    | with_reducible assumption
    | (extract_lets +onlyGivenNames -underBinder x; (with_reducible refine Keeps.cut (v := x) ?_ (fun hx => ?_)); subst x; rotate_left; clear_value x; rotate_right)
    | (extract_lets +onlyGivenNames -underBinder x; clear_value x)
    | ((with_reducible apply State.setB_keeps); (case hm => exact rfl))
    | ((with_reducible apply State.pageFaces_keeps); (case hm => exact rfl))
    | ((with_reducible apply State.fabStart_keeps); (case hm => exact rfl))
    | ((with_reducible apply State.pageFaultsClear_keeps); (case hm => exact rfl))
    | ((with_reducible apply State.engReset_keeps); (case hm => exact rfl))
    | (with_reducible refine Keeps.ofP2 (by assumption) ?_)
    | (with_reducible refine Keeps.ofP1 (by assumption) ?_)
    | (with_reducible refine Keeps.ofP3 (by assumption) ?_)
    | split
    | (with_reducible refine Keeps.leaf ?_ (h_held := Keeps.chg (by decide)) (h_frozen := Keeps.chg (by decide)) (h_softRst := Keeps.chg (by decide)))
    | (dsimp only)

theorem State.softResetEnd_keeps {n0 : Nat} {s0 : State} {s : State} {p : Nat} (hK : Keeps n0 s0 s) (hm : Keeps.sub 0x26 n0 = true) :
    Keeps n0 s0 (State.softResetEnd s p) := by
  refine Keeps.step hK ?_ hm
  clear hK hm
  unfold State.softResetEnd
  repeat' first
    | with_reducible exact Keeps.refl _ _
    | with_reducible assumption
    | (extract_lets +onlyGivenNames -underBinder x; (with_reducible refine Keeps.cut (v := x) ?_ (fun hx => ?_)); subst x; rotate_left; clear_value x; rotate_right)
    | (extract_lets +onlyGivenNames -underBinder x; clear_value x)
    | ((with_reducible apply State.setB_keeps); (case hm => exact rfl))
    | ((with_reducible apply State.at__keeps); (case hm => exact rfl))
    | (with_reducible refine Keeps.ofP2 (by assumption) ?_)
    | (with_reducible refine Keeps.ofP1 (by assumption) ?_)
    | (with_reducible refine Keeps.ofP3 (by assumption) ?_)
    | split
    | (with_reducible refine Keeps.leaf ?_ (h_softRst := Keeps.chg (by decide)))
    | (dsimp only)

theorem State.tryGate_keeps {n0 : Nat} {s0 : State} {s : State} {p : Nat} (hK : Keeps n0 s0 s) (hm : Keeps.sub 0x4 n0 = true) :
    Keeps n0 s0 (State.tryGate s p) := by
  refine Keeps.step hK ?_ hm
  clear hK hm
  unfold State.tryGate
  repeat' first
    | with_reducible exact Keeps.refl _ _
    | with_reducible assumption
    | ((with_reducible apply State.setB_keeps); (case hm => exact rfl))
    | split
    | (dsimp only)

theorem State.enNow_keeps {n0 : Nat} {s0 : State} {s : State} {b : Blk} {p : Nat} (hK : Keeps n0 s0 s) (hm : Keeps.sub 0x1c600408c0004 n0 = true) :
    Keeps n0 s0 (State.enNow s b p) := by
  refine Keeps.step hK ?_ hm
  clear hK hm
  unfold State.enNow
  repeat' first
    | with_reducible exact Keeps.refl _ _
    | with_reducible assumption
    | (extract_lets +onlyGivenNames -underBinder x; (with_reducible refine Keeps.cut (v := x) ?_ (fun hx => ?_)); subst x; rotate_left; clear_value x; rotate_right)
    | (extract_lets +onlyGivenNames -underBinder x; clear_value x)
    | ((with_reducible apply State.setB_keeps); (case hm => exact rfl))
    | ((with_reducible apply State.rbEnable_keeps); (case hm => exact rfl))
    | ((with_reducible apply State.keyStop_keeps); (case hm => exact rfl))
    | ((with_reducible apply State.railsAsk_keeps); (case hm => exact rfl))
    | ((with_reducible apply State.startScan_keeps); (case hm => exact rfl))
    | ((with_reducible apply State.portEnable_keeps); (case hm => exact rfl))
    | (with_reducible refine Keeps.fold _ _ ?_ (fun u b hu => ?_))
    | (with_reducible refine Keeps.ofP2 (by assumption) ?_)
    | (with_reducible refine Keeps.ofP1 (by assumption) ?_)
    | (with_reducible refine Keeps.ofP3 (by assumption) ?_)
    | split
    | (dsimp only)

theorem State.takeEn_keeps {n0 : Nat} {s0 : State} {s : State} (hK : Keeps n0 s0 s) (hm : Keeps.sub 0x4 n0 = true) :
    Keeps n0 s0 (State.takeEn s) := by
  refine Keeps.step hK ?_ hm
  clear hK hm
  unfold State.takeEn
  repeat' first
    | with_reducible exact Keeps.refl _ _
    | with_reducible assumption
    | (extract_lets +onlyGivenNames -underBinder x; (with_reducible refine Keeps.cut (v := x) ?_ (fun hx => ?_)); subst x; rotate_left; clear_value x; rotate_right)
    | (extract_lets +onlyGivenNames -underBinder x; clear_value x)
    | ((with_reducible apply State.setB_keeps); (case hm => exact rfl))
    | ((with_reducible apply State.tryGate_keeps); (case hm => exact rfl))
    | (with_reducible refine Keeps.fold _ _ ?_ (fun u b hu => ?_))
    | (dsimp only)

end Sys2Proof.Machine
end

