-- ==== Sys2Proof/Laws/KeepsAccess.lean ====
section
/-! SUPPORT. What each operation of Machine/Access.lean may touch (Laws/Keeps.lean): the mask lists the fields it may change,
and the invariant of the block is kept. -/
set_option Elab.async false
set_option linter.all false
namespace Sys2Proof.Machine

theorem State.regRead_keeps {n0 : Nat} {s0 : State} {s : State} {a : Nat} (hK : Keeps n0 s0 s) (hm : Keeps.sub 0x2020000000004 n0 = true) :
    Keeps n0 s0 (State.regRead s a).2 := by
  refine Keeps.step hK ?_ hm
  clear hK hm
  unfold State.regRead
  repeat' first
    | with_reducible exact Keeps.refl _ _
    | with_reducible assumption
    | (extract_lets +onlyGivenNames -underBinder x; (with_reducible refine Keeps.cut (v := x) ?_ (fun hx => ?_)); subst x; rotate_left; clear_value x; rotate_right)
    | (extract_lets +onlyGivenNames -underBinder x; (have hfn : (_ → _) := x; clear hfn); subst x; dsimp only)
    | (extract_lets +onlyGivenNames -underBinder x; clear_value x)
    | ((with_reducible apply State.keyFaces_keeps); (case hm => exact rfl))
    | ((with_reducible apply State.levFaces_keeps); (case hm => exact rfl))
    | ((with_reducible apply State.freeNat_keeps); (case hm => exact rfl))
    | ((with_reducible apply State.sessLive_keeps); (case hm => exact rfl))
    | ((with_reducible apply State.keyRead_keeps); (case hm => exact rfl))
    | (with_reducible refine Keeps.ofP2 (by assumption) ?_)
    | (with_reducible refine Keeps.ofP1 (by assumption) ?_)
    | (with_reducible refine Keeps.ofP3 (by assumption) ?_)
    | split
    | (dsimp only)

theorem State.readReg_keeps {n0 : Nat} {s0 : State} {s : State} {a : Nat} (hK : Keeps n0 s0 s) (hm : Keeps.sub 0x2020000000004 n0 = true) :
    Keeps n0 s0 (State.readReg s a).2 := by
  refine Keeps.step hK ?_ hm
  clear hK hm
  unfold State.readReg
  repeat' first
    | with_reducible exact Keeps.refl _ _
    | with_reducible assumption
    | (extract_lets +onlyGivenNames -underBinder x; (with_reducible refine Keeps.cut (v := x) ?_ (fun hx => ?_)); subst x; rotate_left; clear_value x; rotate_right)
    | (extract_lets +onlyGivenNames -underBinder x; clear_value x)
    | ((with_reducible apply State.regRead_keeps); (case hm => exact rfl))
    | (with_reducible refine Keeps.ofP2 (by assumption) ?_)
    | (with_reducible refine Keeps.ofP1 (by assumption) ?_)
    | (with_reducible refine Keeps.ofP3 (by assumption) ?_)
    | split
    | (dsimp only)

theorem State.readLive_keeps {n0 : Nat} {s0 : State} {s : State} {a : Nat} (hK : Keeps n0 s0 s) (hm : Keeps.sub 0x2020000000004 n0 = true) :
    Keeps n0 s0 (State.readLive s a).2 := by
  refine Keeps.step hK ?_ hm
  clear hK hm
  unfold State.readLive
  repeat' first
    | with_reducible exact Keeps.refl _ _
    | with_reducible assumption
    | ((with_reducible apply State.readReg_keeps); (case hm => exact rfl))
    | split
    | (dsimp only)

theorem State.readWord_keeps {n0 : Nat} {s0 : State} {s : State} {a : Nat} (hK : Keeps n0 s0 s) (hm : Keeps.sub 0x2020000000044 n0 = true) :
    Keeps n0 s0 (State.readWord s a).2 := by
  refine Keeps.step hK ?_ hm
  clear hK hm
  unfold State.readWord
  repeat' first
    | with_reducible exact Keeps.refl _ _
    | with_reducible assumption
    | (extract_lets +onlyGivenNames -underBinder x; (with_reducible refine Keeps.cut (v := x) ?_ (fun hx => ?_)); subst x; rotate_left; clear_value x; rotate_right)
    | (extract_lets +onlyGivenNames -underBinder x; clear_value x)
    | ((with_reducible apply State.readLive_keeps); (case hm => exact rfl))
    | (with_reducible refine Keeps.ofP2 (by assumption) ?_)
    | (with_reducible refine Keeps.ofP1 (by assumption) ?_)
    | (with_reducible refine Keeps.ofP3 (by assumption) ?_)
    | split
    | (with_reducible refine Keeps.leaf ?_ (h_port := Keeps.chg (by decide)))
    | (dsimp only)

theorem State.readWords_keeps {n0 : Nat} {s0 : State} {y0 : Nat} {y1 : State} {y2 : Nat} (hK : Keeps n0 s0 y1) (hm : Keeps.sub 0x2020000000044 n0 = true) :
    Keeps n0 s0 (State.readWords y0 y1 y2).2 := by
  refine Keeps.step hK ?_ hm
  clear hK hm
  induction y0 generalizing y1 y2 with
  | zero => exact Keeps.refl _ _
  | succ n ih => exact (State.readWord_keeps (Keeps.refl _ _) rfl).trans ih

theorem State.missClr_keeps {n0 : Nat} {s0 : State} {s : State} (hK : Keeps n0 s0 s) (hm : Keeps.sub 0x40004 n0 = true) :
    Keeps n0 s0 (State.missClr s) := by
  refine Keeps.step hK ?_ hm
  clear hK hm
  unfold State.missClr
  repeat' first
    | with_reducible exact Keeps.refl _ _
    | with_reducible assumption
    | (extract_lets +onlyGivenNames -underBinder x; (with_reducible refine Keeps.cut (v := x) ?_ (fun hx => ?_)); subst x; rotate_left; clear_value x; rotate_right)
    | (extract_lets +onlyGivenNames -underBinder x; clear_value x)
    | ((with_reducible apply State.setB_keeps); (case hm => exact rfl))
    | ((with_reducible apply State.clearFault_keeps); (case hm => exact rfl))
    | ((with_reducible apply State.stageRelease_keeps); (case hm => exact rfl))
    | split
    | (dsimp only)

theorem State.nmeAgain_keeps {n0 : Nat} {s0 : State} {s : State} (hK : Keeps n0 s0 s) (hm : Keeps.sub 0x4 n0 = true) :
    Keeps n0 s0 (State.nmeAgain s) := by
  refine Keeps.step hK ?_ hm
  clear hK hm
  unfold State.nmeAgain
  repeat' first
    | with_reducible exact Keeps.refl _ _
    | with_reducible assumption
    | (extract_lets +onlyGivenNames -underBinder x; (with_reducible refine Keeps.cut (v := x) ?_ (fun hx => ?_)); subst x; rotate_left; clear_value x; rotate_right)
    | (extract_lets +onlyGivenNames -underBinder x; (have hfn : (_ → _) := x; clear hfn); subst x; dsimp only)
    | (extract_lets +onlyGivenNames -underBinder x; clear_value x)
    | ((with_reducible apply State.set_keeps); (case hm => exact rfl))
    | split
    | (dsimp only)

theorem State.fltClr_keeps {n0 : Nat} {s0 : State} {s : State} {n : Nat} {w : Word} (hK : Keeps n0 s0 s) (hm : Keeps.sub 0x40104 n0 = true) :
    Keeps n0 s0 (State.fltClr s n w) := by
  refine Keeps.step hK ?_ hm
  clear hK hm
  unfold State.fltClr
  repeat' first
    | with_reducible exact Keeps.refl _ _
    | with_reducible assumption
    | (extract_lets +onlyGivenNames -underBinder x; (with_reducible refine Keeps.cut (v := x) ?_ (fun hx => ?_)); subst x; rotate_left; clear_value x; rotate_right)
    | (extract_lets +onlyGivenNames -underBinder x; clear_value x)
    | ((with_reducible apply State.upChan_keeps); (case hm => exact rfl))
    | ((with_reducible apply State.clearLatched_keeps); (case hm => exact rfl))
    | split
    | (dsimp only)

theorem State.putLv_keeps {n0 : Nat} {s0 : State} {s : State} {out : Nat} {lv : Nat} {v : Option Int} (hK : Keeps n0 s0 s) (hm : Keeps.sub 0x2000 n0 = true) :
    Keeps n0 s0 (State.putLv s out lv v) := by
  refine Keeps.step hK ?_ hm
  clear hK hm
  unfold State.putLv
  repeat' first
    | with_reducible exact Keeps.refl _ _
    | with_reducible assumption
    | (with_reducible refine Keeps.leaf ?_ (h_hostLv := Keeps.chg (by decide)))
    | (dsimp only)

theorem State.relLv_keeps {n0 : Nat} {s0 : State} {s : State} {out : Nat} {w : Word} (hK : Keeps n0 s0 s) (hm : Keeps.sub 0x2000 n0 = true) :
    Keeps n0 s0 (State.relLv s out w) := by
  refine Keeps.step hK ?_ hm
  clear hK hm
  unfold State.relLv
  repeat' first
    | with_reducible exact Keeps.refl _ _
    | with_reducible assumption
    | ((with_reducible apply State.putLv_keeps); (case hm => exact rfl))
    | (with_reducible refine Keeps.fold _ _ ?_ (fun u b hu => ?_))
    | split
    | (dsimp only)

theorem State.keyCmd_keeps {n0 : Nat} {s0 : State} {s : State} {w : Word} (hK : Keeps n0 s0 s) (hm : Keeps.sub 0x400000840004 n0 = true) :
    Keeps n0 s0 (State.keyCmd s w) := by
  refine Keeps.step hK ?_ hm
  clear hK hm
  unfold State.keyCmd
  repeat' first
    | with_reducible exact Keeps.refl _ _
    | with_reducible assumption
    | (extract_lets +onlyGivenNames -underBinder x; (with_reducible refine Keeps.cut (v := x) ?_ (fun hx => ?_)); subst x; rotate_left; clear_value x; rotate_right)
    | (extract_lets +onlyGivenNames -underBinder x; clear_value x)
    | ((with_reducible apply State.blkErr_keeps); (case hm => exact rfl))
    | ((with_reducible apply State.levFaces_keeps); (case hm => exact rfl))
    | ((with_reducible apply State.levRun_keeps); (case hm => exact rfl))
    | ((with_reducible apply State.updLev_keeps); (case hm => exact rfl))
    | ((with_reducible apply State.engineRun_keeps); (case hm => exact rfl))
    | ((with_reducible apply State.keyInForce_keeps); (case hm => exact rfl))
    | (with_reducible refine Keeps.fold _ _ ?_ (fun u b hu => ?_))
    | (with_reducible refine Keeps.ofP2 (by assumption) ?_)
    | (with_reducible refine Keeps.ofP1 (by assumption) ?_)
    | (with_reducible refine Keeps.ofP3 (by assumption) ?_)
    | split
    | (dsimp only)

theorem State.sessCfg_keeps {n0 : Nat} {s0 : State} {s : State} {w : Word} (hK : Keeps n0 s0 s) (hm : Keeps.sub 0x400000840004 n0 = true) :
    Keeps n0 s0 (State.sessCfg s w) := by
  refine Keeps.step hK ?_ hm
  clear hK hm
  unfold State.sessCfg
  repeat' first
    | with_reducible exact Keeps.refl _ _
    | with_reducible assumption
    | (extract_lets +onlyGivenNames -underBinder x; (with_reducible refine Keeps.cut (v := x) ?_ (fun hx => ?_)); subst x; rotate_left; clear_value x; rotate_right)
    | (extract_lets +onlyGivenNames -underBinder x; clear_value x)
    | ((with_reducible apply State.levRun_keeps); (case hm => exact rfl))
    | split
    | (dsimp only)

theorem State.pairWrite_keeps {n0 : Nat} {s0 : State} {s : State} {loAddr : Nat} {lo : Word} {hi : Word} (hK : Keeps n0 s0 s) (hm : Keeps.sub 0x1800086 n0 = true) :
    Keeps n0 s0 (State.pairWrite s loAddr lo hi) := by
  refine Keeps.step hK ?_ hm
  clear hK hm
  unfold State.pairWrite
  repeat' first
    | with_reducible exact Keeps.refl _ _
    | with_reducible assumption
    | ((with_reducible apply State.setWord_keeps); (case hm => exact rfl))
    | ((with_reducible apply State.calSet_keeps); (case hm => exact rfl))
    | ((with_reducible apply State.peatPreset_keeps); (case hm => exact rfl))
    | split
    | (dsimp only)

theorem State.dropStaged_keeps {n0 : Nat} {s0 : State} {s : State} {a : Nat} (hK : Keeps n0 s0 s) (hm : Keeps.sub 0x44 n0 = true) :
    Keeps n0 s0 (State.dropStaged s a) := by
  refine Keeps.step hK ?_ hm
  clear hK hm
  unfold State.dropStaged
  repeat' first
    | with_reducible exact Keeps.refl _ _
    | with_reducible assumption
    | (extract_lets +onlyGivenNames -underBinder x; (with_reducible refine Keeps.cut (v := x) ?_ (fun hx => ?_)); subst x; rotate_left; clear_value x; rotate_right)
    | (extract_lets +onlyGivenNames -underBinder x; clear_value x)
    | ((with_reducible apply State.blkErr_keeps); (case hm => exact rfl))
    | (with_reducible refine Keeps.ofP2 (by assumption) ?_)
    | (with_reducible refine Keeps.ofP1 (by assumption) ?_)
    | (with_reducible refine Keeps.ofP3 (by assumption) ?_)
    | split
    | (with_reducible refine Keeps.leaf ?_ (h_port := Keeps.chg (by decide)))
    | (dsimp only)

theorem State.loStage_keeps {n0 : Nat} {s0 : State} {s : State} {a : Nat} {w : Word} (hK : Keeps n0 s0 s) (hm : Keeps.sub 0x40 n0 = true) :
    Keeps n0 s0 (State.loStage s a w) := by
  refine Keeps.step hK ?_ hm
  clear hK hm
  unfold State.loStage
  repeat' first
    | with_reducible exact Keeps.refl _ _
    | with_reducible assumption
    | (with_reducible refine Keeps.leaf ?_ (h_port := Keeps.chg (by decide)))
    | (dsimp only)

theorem State.loTake_keeps {n0 : Nat} {s0 : State} {s : State} {a : Nat} (hK : Keeps n0 s0 s) (hm : Keeps.sub 0x44 n0 = true) :
    Keeps n0 s0 (State.loTake s a).2 := by
  refine Keeps.step hK ?_ hm
  clear hK hm
  unfold State.loTake
  repeat' first
    | with_reducible exact Keeps.refl _ _
    | with_reducible assumption
    | ((with_reducible apply State.dropStaged_keeps); (case hm => exact rfl))
    | (with_reducible refine Keeps.ofP2 (by assumption) ?_)
    | (with_reducible refine Keeps.ofP1 (by assumption) ?_)
    | (with_reducible refine Keeps.ofP3 (by assumption) ?_)
    | split
    | (with_reducible refine Keeps.leaf ?_ (h_port := Keeps.chg (by decide)))
    | (dsimp only)

theorem State.hiWrite_keeps {n0 : Nat} {s0 : State} {s : State} {a : Nat} {w : Word} (hK : Keeps n0 s0 s) (hm : Keeps.sub 0x18000c6 n0 = true) :
    Keeps n0 s0 (State.hiWrite s a w) := by
  refine Keeps.step hK ?_ hm
  clear hK hm
  unfold State.hiWrite
  repeat' first
    | with_reducible exact Keeps.refl _ _
    | with_reducible assumption
    | (extract_lets +onlyGivenNames -underBinder x; (with_reducible refine Keeps.cut (v := x) ?_ (fun hx => ?_)); subst x; rotate_left; clear_value x; rotate_right)
    | (extract_lets +onlyGivenNames -underBinder x; clear_value x)
    | ((with_reducible apply State.pairWrite_keeps); (case hm => exact rfl))
    | ((with_reducible apply State.loTake_keeps); (case hm => exact rfl))
    | (with_reducible refine Keeps.ofP2 (by assumption) ?_)
    | (with_reducible refine Keeps.ofP1 (by assumption) ?_)
    | (with_reducible refine Keeps.ofP3 (by assumption) ?_)
    | split
    | (dsimp only)

theorem State.actsUch_keeps {n0 : Nat} {s0 : State} {s : State} {p : Nat} {off : Nat} {w : Word} (hK : Keeps n0 s0 s) (hm : Keeps.sub 0x42104 n0 = true) :
    Keeps n0 s0 (State.actsUch s p off w) := by
  refine Keeps.step hK ?_ hm
  clear hK hm
  unfold State.actsUch
  repeat' first
    | with_reducible exact Keeps.refl _ _
    | with_reducible assumption
    | ((with_reducible apply State.budgetFaces_keeps); (case hm => exact rfl))
    | ((with_reducible apply State.relLv_keeps); (case hm => exact rfl))
    | ((with_reducible apply State.putLv_keeps); (case hm => exact rfl))
    | ((with_reducible apply State.fltClr_keeps); (case hm => exact rfl))
    | (with_reducible refine Keeps.ofP2 (by assumption) ?_)
    | (with_reducible refine Keeps.ofP1 (by assumption) ?_)
    | (with_reducible refine Keeps.ofP3 (by assumption) ?_)
    | split
    | (dsimp only)

theorem State.actsConv_keeps {n0 : Nat} {s0 : State} {s : State} {p : Nat} {off : Nat} {w : Word} (hK : Keeps n0 s0 s) (hm : Keeps.sub 0x80004 n0 = true) :
    Keeps n0 s0 (State.actsConv s p off w) := by
  refine Keeps.step hK ?_ hm
  clear hK hm
  unfold State.actsConv
  repeat' first
    | with_reducible exact Keeps.refl _ _
    | with_reducible assumption
    | (extract_lets +onlyGivenNames -underBinder x; (with_reducible refine Keeps.cut (v := x) ?_ (fun hx => ?_)); subst x; rotate_left; clear_value x; rotate_right)
    | (extract_lets +onlyGivenNames -underBinder x; clear_value x)
    | ((with_reducible apply State.sluiceHost_keeps); (case hm => exact rfl))
    | ((with_reducible apply State.correctionWrite_keeps); (case hm => exact rfl))
    | split
    | (dsimp only)

theorem State.actsZone_keeps {n0 : Nat} {s0 : State} {s : State} {p : Nat} {off : Nat} {w : Word} (hK : Keeps n0 s0 s) (hm : Keeps.sub 0x200000000 n0 = true) :
    Keeps n0 s0 (State.actsZone s p off w) := by
  refine Keeps.step hK ?_ hm
  clear hK hm
  unfold State.actsZone
  repeat' first
    | with_reducible exact Keeps.refl _ _
    | with_reducible assumption
    | (with_reducible refine Keeps.ofP2 (by assumption) ?_)
    | (with_reducible refine Keeps.ofP1 (by assumption) ?_)
    | (with_reducible refine Keeps.ofP3 (by assumption) ?_)
    | split
    | (with_reducible refine Keeps.leaf ?_ (h_hostZm := Keeps.chg (by decide)))
    | (dsimp only)

theorem State.actsLoop_keeps {n0 : Nat} {s0 : State} {s : State} {a : Nat} {p : Nat} {off : Nat} {changed : Bool} {old : Word} (hK : Keeps n0 s0 s) (hm : Keeps.sub 0x800000000 n0 = true) :
    Keeps n0 s0 (State.actsLoop s a p off changed old) := by
  refine Keeps.step hK ?_ hm
  clear hK hm
  unfold State.actsLoop
  repeat' first
    | with_reducible exact Keeps.refl _ _
    | with_reducible assumption
    | (with_reducible refine Keeps.ofP2 (by assumption) ?_)
    | (with_reducible refine Keeps.ofP1 (by assumption) ?_)
    | (with_reducible refine Keeps.ofP3 (by assumption) ?_)
    | split
    | (with_reducible refine Keeps.leaf ?_ (h_loopPar := Keeps.chg (by decide)))
    | (dsimp only)

theorem State.actsTme_keeps {n0 : Nat} {s0 : State} {s : State} {off : Nat} {w : Word} (hK : Keeps n0 s0 s) (hm : Keeps.sub 0x4000000000 n0 = true) :
    Keeps n0 s0 (State.actsTme s off w) := by
  refine Keeps.step hK ?_ hm
  clear hK hm
  unfold State.actsTme
  repeat' first
    | with_reducible exact Keeps.refl _ _
    | with_reducible assumption
    | (extract_lets +onlyGivenNames -underBinder x; (with_reducible refine Keeps.cut (v := x) ?_ (fun hx => ?_)); subst x; rotate_left; clear_value x; rotate_right)
    | (extract_lets +onlyGivenNames -underBinder x; clear_value x)
    | split
    | (with_reducible refine Keeps.leaf ?_ (h_tmeCmd := Keeps.chg (by decide)))
    | (dsimp only)

theorem State.actsFan_keeps {n0 : Nat} {s0 : State} {s : State} {p : Nat} {off : Nat} {w : Word} (hK : Keeps n0 s0 s) (hm : Keeps.sub 0x10000002004 n0 = true) :
    Keeps n0 s0 (State.actsFan s p off w) := by
  refine Keeps.step hK ?_ hm
  clear hK hm
  unfold State.actsFan
  repeat' first
    | with_reducible exact Keeps.refl _ _
    | with_reducible assumption
    | ((with_reducible apply State.relLv_keeps); (case hm => exact rfl))
    | ((with_reducible apply State.fanCmd_keeps); (case hm => exact rfl))
    | ((with_reducible apply State.putLv_keeps); (case hm => exact rfl))
    | (with_reducible refine Keeps.ofP2 (by assumption) ?_)
    | (with_reducible refine Keeps.ofP1 (by assumption) ?_)
    | (with_reducible refine Keeps.ofP3 (by assumption) ?_)
    | split
    | (dsimp only)

theorem State.actsStore_keeps {n0 : Nat} {s0 : State} {s : State} {off : Nat} {w : Word} (hK : Keeps n0 s0 s) (hm : Keeps.sub 0x800004 n0 = true) :
    Keeps n0 s0 (State.actsStore s off w) := by
  refine Keeps.step hK ?_ hm
  clear hK hm
  unfold State.actsStore
  repeat' first
    | with_reducible exact Keeps.refl _ _
    | with_reducible assumption
    | (extract_lets +onlyGivenNames -underBinder x; (with_reducible refine Keeps.cut (v := x) ?_ (fun hx => ?_)); subst x; rotate_left; clear_value x; rotate_right)
    | (extract_lets +onlyGivenNames -underBinder x; clear_value x)
    | ((with_reducible apply State.runGo_keeps); (case hm => exact rfl))
    | ((with_reducible apply State.storeDisarm_keeps); (case hm => exact rfl))
    | ((with_reducible apply State.emptyBuffer_keeps); (case hm => exact rfl))
    | ((with_reducible apply State.protectWrite_keeps); (case hm => exact rfl))
    | ((with_reducible apply State.storeUnlock_keeps); (case hm => exact rfl))
    | split
    | (dsimp only)

theorem State.actsPeat_keeps {n0 : Nat} {s0 : State} {s : State} {off : Nat} {changed : Bool} {w : Word} (hK : Keeps n0 s0 s) (hm : Keeps.sub 0x800004 n0 = true) :
    Keeps n0 s0 (State.actsPeat s off changed w) := by
  refine Keeps.step hK ?_ hm
  clear hK hm
  unfold State.actsPeat
  repeat' first
    | with_reducible exact Keeps.refl _ _
    | with_reducible assumption
    | ((with_reducible apply State.updSto_keeps); (case hm => exact rfl); (case hf => first | exact id | exact (fun _ => rfl)))
    | ((with_reducible apply State.peatFlush_keeps); (case hm => exact rfl))
    | split
    | (dsimp only)

theorem State.actsNstore_keeps {n0 : Nat} {s0 : State} {s : State} {wr : State.Writer} {off : Nat} {w : Word} (hK : Keeps n0 s0 s) (hm : Keeps.sub 0x8100100084 n0 = true) :
    Keeps n0 s0 (State.actsNstore s wr off w) := by
  refine Keeps.step hK ?_ hm
  clear hK hm
  unfold State.actsNstore
  repeat' first
    | with_reducible exact Keeps.refl _ _
    | with_reducible assumption
    | (extract_lets +onlyGivenNames -underBinder x; (with_reducible refine Keeps.cut (v := x) ?_ (fun hx => ?_)); subst x; rotate_left; clear_value x; rotate_right)
    | (extract_lets +onlyGivenNames -underBinder x; clear_value x)
    | ((with_reducible apply State.actStart_keeps); (case hm => exact rfl))
    | ((with_reducible apply State.queryNext_keeps); (case hm => exact rfl))
    | ((with_reducible apply State.queryCancel_keeps); (case hm => exact rfl))
    | ((with_reducible apply State.imageOpen_keeps); (case hm => exact rfl))
    | ((with_reducible apply State.imageClose_keeps); (case hm => exact rfl))
    | ((with_reducible apply State.imageAbort_keeps); (case hm => exact rfl))
    | split
    | (dsimp only)

theorem State.actsFab_keeps {n0 : Nat} {s0 : State} {s : State} {a : Nat} {off : Nat} {changed : Bool} {old : Word} {w : Word} (hK : Keeps n0 s0 s) (hm : Keeps.sub 0x1c00000840004 n0 = true) :
    Keeps n0 s0 (State.actsFab s a off changed old w) := by
  refine Keeps.step hK ?_ hm
  clear hK hm
  unfold State.actsFab
  repeat' first
    | with_reducible exact Keeps.refl _ _
    | with_reducible assumption
    | ((with_reducible apply State.routeView_keeps); (case hm => exact rfl))
    | ((with_reducible apply State.originateLsa_keeps); (case hm => exact rfl))
    | ((with_reducible apply State.addrRequest_keeps); (case hm => exact rfl))
    | ((with_reducible apply State.fabRecord_keeps); (case hm => exact rfl))
    | split
    | (dsimp only)

theorem State.actsLevee_keeps {n0 : Nat} {s0 : State} {s : State} {off : Nat} {w : Word} (hK : Keeps n0 s0 s) (hm : Keeps.sub 0x400000840004 n0 = true) :
    Keeps n0 s0 (State.actsLevee s off w) := by
  refine Keeps.step hK ?_ hm
  clear hK hm
  unfold State.actsLevee
  repeat' first
    | with_reducible exact Keeps.refl _ _
    | with_reducible assumption
    | ((with_reducible apply State.updLev_keeps); (case hm => exact rfl))
    | ((with_reducible apply State.sessView_keeps); (case hm => exact rfl))
    | ((with_reducible apply State.keyCmd_keeps); (case hm => exact rfl))
    | split
    | (dsimp only)

theorem State.actsFault_keeps {n0 : Nat} {s0 : State} {s : State} {off : Nat} {w : Word} (hK : Keeps n0 s0 s) (hm : Keeps.sub 0x40004 n0 = true) :
    Keeps n0 s0 (State.actsFault s off w) := by
  refine Keeps.step hK ?_ hm
  clear hK hm
  unfold State.actsFault
  repeat' first
    | with_reducible exact Keeps.refl _ _
    | with_reducible assumption
    | ((with_reducible apply State.setB_keeps); (case hm => exact rfl))
    | ((with_reducible apply State.faultClr_keeps); (case hm => exact rfl))
    | split
    | (dsimp only)

theorem State.wordActs_keeps {n0 : Nat} {s0 : State} {s : State} {wr : State.Writer} {a : Nat} {old : Word} {w : Word} (hK : Keeps n0 s0 s) (hm : Keeps.sub 0x3c7cb00fc2186 n0 = true) :
    Keeps n0 s0 (State.wordActs s wr a old w) := by
  refine Keeps.step hK ?_ hm
  clear hK hm
  unfold State.wordActs
  repeat' first
    | with_reducible exact Keeps.refl _ _
    | with_reducible assumption
    | (extract_lets +onlyGivenNames -underBinder x; (with_reducible refine Keeps.cut (v := x) ?_ (fun hx => ?_)); subst x; rotate_left; clear_value x; rotate_right)
    | (extract_lets +onlyGivenNames -underBinder x; clear_value x)
    | ((with_reducible apply State.actsLoop_keeps); (case hm => exact rfl))
    | ((with_reducible apply State.actsFan_keeps); (case hm => exact rfl))
    | ((with_reducible apply State.dstChange_keeps); (case hm => exact rfl))
    | ((with_reducible apply State.clkReturn_keeps); (case hm => exact rfl))
    | ((with_reducible apply State.actsPeat_keeps); (case hm => exact rfl))
    | ((with_reducible apply State.rbUnits_keeps); (case hm => exact rfl))
    | ((with_reducible apply State.updRequest_keeps); (case hm => exact rfl))
    | ((with_reducible apply State.schedApply_keeps); (case hm => exact rfl))
    | ((with_reducible apply State.portDown_keeps); (case hm => exact rfl))
    | ((with_reducible apply State.actsTme_keeps); (case hm => exact rfl))
    | ((with_reducible apply State.actsUch_keeps); (case hm => exact rfl))
    | ((with_reducible apply State.panelLock_keeps); (case hm => exact rfl))
    | ((with_reducible apply State.actsZone_keeps); (case hm => exact rfl))
    | ((with_reducible apply State.actsStore_keeps); (case hm => exact rfl))
    | ((with_reducible apply State.strmView_keeps); (case hm => exact rfl))
    | ((with_reducible apply State.actsNstore_keeps); (case hm => exact rfl))
    | ((with_reducible apply State.panelWr_keeps); (case hm => exact rfl))
    | ((with_reducible apply State.actsFab_keeps); (case hm => exact rfl))
    | ((with_reducible apply State.actsConv_keeps); (case hm => exact rfl))
    | ((with_reducible apply State.missClr_keeps); (case hm => exact rfl))
    | ((with_reducible apply State.trimSource_keeps); (case hm => exact rfl))
    | ((with_reducible apply State.actsFault_keeps); (case hm => exact rfl))
    | ((with_reducible apply State.nmeAgain_keeps); (case hm => exact rfl))
    | ((with_reducible apply State.subView_keeps); (case hm => exact rfl))
    | ((with_reducible apply State.blkRetune_keeps); (case hm => exact rfl))
    | ((with_reducible apply State.actsLevee_keeps); (case hm => exact rfl))
    | ((with_reducible apply State.blkView_keeps); (case hm => exact rfl))
    | (with_reducible refine Keeps.ofP2 (by assumption) ?_)
    | (with_reducible refine Keeps.ofP1 (by assumption) ?_)
    | (with_reducible refine Keeps.ofP3 (by assumption) ?_)
    | split
    | (with_reducible refine Keeps.leaf ?_ (h_boot := Keeps.chg (by decide)))
    | (dsimp only)

theorem State.ctrlWrite_keeps {n0 : Nat} {s0 : State} {s : State} {b : Blk} {p : Nat} {w : Word} (hK : Keeps n0 s0 s) (hm : Keeps.sub 0x3c7f9c7ac073c n0 = true) :
    Keeps n0 s0 (State.ctrlWrite s b p w).1 := by
  refine Keeps.step hK ?_ hm
  clear hK hm
  unfold State.ctrlWrite
  repeat' first
    | with_reducible exact Keeps.refl _ _
    | with_reducible assumption
    | (extract_lets +onlyGivenNames -underBinder x; (with_reducible refine Keeps.cut (v := x) ?_ (fun hx => ?_)); subst x; rotate_left; clear_value x; rotate_right)
    | (extract_lets +onlyGivenNames -underBinder x; clear_value x)
    | ((with_reducible apply State.setB_keeps); (case hm => exact rfl))
    | ((with_reducible apply State.blkErr_keeps); (case hm => exact rfl))
    | ((with_reducible apply State.enNow_keeps); (case hm => exact rfl))
    | ((with_reducible apply State.regRead_keeps); (case hm => exact rfl))
    | ((with_reducible apply State.tryGate_keeps); (case hm => exact rfl))
    | ((with_reducible apply State.softReset_keeps); (case hm => exact rfl))
    | (with_reducible refine Keeps.fold _ _ ?_ (fun u b hu => ?_))
    | (with_reducible refine Keeps.foldPair _ _ ?_ (fun u b hu => ?_))
    | (with_reducible refine Keeps.foldPairL _ _ ?_ (fun u b hu => ?_))
    | (with_reducible refine Keeps.ofP2 (by assumption) ?_)
    | (with_reducible refine Keeps.ofP1 (by assumption) ?_)
    | (with_reducible refine Keeps.ofP3 (by assumption) ?_)
    | split
    | (with_reducible refine Keeps.leaf ?_ (h_frozen := Keeps.chg (by decide)))
    | (dsimp only)

theorem State.lockWrite_keeps {n0 : Nat} {s0 : State} {s : State} {p : Nat} {w : Word} (hK : Keeps n0 s0 s) (hm : Keeps.sub 0x44 n0 = true) :
    Keeps n0 s0 (State.lockWrite s p w) := by
  refine Keeps.step hK ?_ hm
  clear hK hm
  unfold State.lockWrite
  repeat' first
    | with_reducible exact Keeps.refl _ _
    | with_reducible assumption
    | (extract_lets +onlyGivenNames -underBinder x; (with_reducible refine Keeps.cut (v := x) ?_ (fun hx => ?_)); subst x; rotate_left; clear_value x; rotate_right)
    | (extract_lets +onlyGivenNames -underBinder x; (have hfn : (_ → _) := x; clear hfn); subst x; dsimp only)
    | (extract_lets +onlyGivenNames -underBinder x; clear_value x)
    | ((with_reducible apply State.setWord_keeps); (case hm => exact rfl))
    | (with_reducible refine Keeps.ofP2 (by assumption) ?_)
    | (with_reducible refine Keeps.ofP1 (by assumption) ?_)
    | (with_reducible refine Keeps.ofP3 (by assumption) ?_)
    | split
    | (with_reducible refine Keeps.leaf ?_ (h_port := Keeps.chg (by decide)))
    | (dsimp only)

theorem State.commonWrite_keeps {n0 : Nat} {s0 : State} {s : State} {b : Blk} {p : Nat} {off : Nat} {w : Word} {image : Bool} (hK : Keeps n0 s0 s) (hm : Keeps.sub 0x3c7f9c7ac077c n0 = true) :
    Keeps n0 s0 (State.commonWrite s b p off w image).1 := by
  refine Keeps.step hK ?_ hm
  clear hK hm
  unfold State.commonWrite
  repeat' first
    | with_reducible exact Keeps.refl _ _
    | with_reducible assumption
    | (extract_lets +onlyGivenNames -underBinder x; (with_reducible refine Keeps.cut (v := x) ?_ (fun hx => ?_)); subst x; rotate_left; clear_value x; rotate_right)
    | (extract_lets +onlyGivenNames -underBinder x; clear_value x)
    | ((with_reducible apply State.setWord_keeps); (case hm => exact rfl))
    | ((with_reducible apply State.blkErr_keeps); (case hm => exact rfl))
    | ((with_reducible apply State.ctrlWrite_keeps); (case hm => exact rfl))
    | ((with_reducible apply State.lockWrite_keeps); (case hm => exact rfl))
    | (with_reducible refine Keeps.ofP2 (by assumption) ?_)
    | (with_reducible refine Keeps.ofP1 (by assumption) ?_)
    | (with_reducible refine Keeps.ofP3 (by assumption) ?_)
    | split
    | (dsimp only)

theorem State.faceWrite_keeps {n0 : Nat} {s0 : State} {s : State} {a : Nat} {w : Word} {image : Bool} (hK : Keeps n0 s0 s) (hm : Keeps.sub 0xc n0 = true) :
    Keeps n0 s0 (State.faceWrite s a w image) := by
  refine Keeps.step hK ?_ hm
  clear hK hm
  unfold State.faceWrite
  repeat' first
    | with_reducible exact Keeps.refl _ _
    | with_reducible assumption
    | (extract_lets +onlyGivenNames -underBinder x; (with_reducible refine Keeps.cut (v := x) ?_ (fun hx => ?_)); subst x; rotate_left; clear_value x; rotate_right)
    | (extract_lets +onlyGivenNames -underBinder x; clear_value x)
    | ((with_reducible apply State.maskWrite_keeps); (case hm => exact rfl))
    | split
    | (with_reducible refine Keeps.leaf ?_ (h_held := Keeps.chg (by decide)))
    | (dsimp only)

theorem State.regWrite_keeps {n0 : Nat} {s0 : State} {s : State} {wr : State.Writer} {b : Blk} {p : Nat} {off : Nat} {w : Word} (hK : Keeps n0 s0 s) (hm : Keeps.sub 0x3c7cb01fc21ce n0 = true) :
    Keeps n0 s0 (State.regWrite s wr b p off w).1 := by
  refine Keeps.step hK ?_ hm
  clear hK hm
  unfold State.regWrite
  repeat' first
    | with_reducible exact Keeps.refl _ _
    | with_reducible assumption
    | (extract_lets +onlyGivenNames -underBinder x; (with_reducible refine Keeps.cut (v := x) ?_ (fun hx => ?_)); subst x; rotate_left; clear_value x; rotate_right)
    | (extract_lets +onlyGivenNames -underBinder x; clear_value x)
    | ((with_reducible apply State.strmWrite_keeps); (case hm => exact rfl))
    | ((with_reducible apply State.hiWrite_keeps); (case hm => exact rfl))
    | ((with_reducible apply State.setWord_keeps); (case hm => exact rfl))
    | ((with_reducible apply State.sessCfg_keeps); (case hm => exact rfl))
    | ((with_reducible apply State.blkErr_keeps); (case hm => exact rfl))
    | ((with_reducible apply State.storeDisarm_keeps); (case hm => exact rfl))
    | ((with_reducible apply State.protectCmd_keeps); (case hm => exact rfl))
    | ((with_reducible apply State.protectWrite_keeps); (case hm => exact rfl))
    | ((with_reducible apply State.strmView_keeps); (case hm => exact rfl))
    | ((with_reducible apply State.wordActs_keeps); (case hm => exact rfl))
    | ((with_reducible apply State.faceWrite_keeps); (case hm => exact rfl))
    | ((with_reducible apply State.loStage_keeps); (case hm => exact rfl))
    | (with_reducible refine Keeps.ofP2 (by assumption) ?_)
    | (with_reducible refine Keeps.ofP1 (by assumption) ?_)
    | (with_reducible refine Keeps.ofP3 (by assumption) ?_)
    | split
    | (dsimp only)

theorem State.winWrite_keeps {n0 : Nat} {s0 : State} {s : State} {a : Nat} {w : Word} {image : Bool} (hK : Keeps n0 s0 s) (hm : Keeps.sub 0x4c100200044 n0 = true) :
    Keeps n0 s0 (State.winWrite s a w image) := by
  refine Keeps.step hK ?_ hm
  clear hK hm
  unfold State.winWrite
  repeat' first
    | with_reducible exact Keeps.refl _ _
    | with_reducible assumption
    | (extract_lets +onlyGivenNames -underBinder x; (with_reducible refine Keeps.cut (v := x) ?_ (fun hx => ?_)); subst x; rotate_left; clear_value x; rotate_right)
    | (extract_lets +onlyGivenNames -underBinder x; clear_value x)
    | ((with_reducible apply State.blkWrite_keeps); (case hm => exact rfl))
    | ((with_reducible apply State.loStage_keeps); (case hm => exact rfl))
    | ((with_reducible apply State.loTake_keeps); (case hm => exact rfl))
    | ((with_reducible apply State.schWinWrite_keeps); (case hm => exact rfl))
    | ((with_reducible apply State.epdWrite_keeps); (case hm => exact rfl))
    | ((with_reducible apply State.pdirWrite_keeps); (case hm => exact rfl))
    | (with_reducible refine Keeps.ofP2 (by assumption) ?_)
    | (with_reducible refine Keeps.ofP1 (by assumption) ?_)
    | (with_reducible refine Keeps.ofP3 (by assumption) ?_)
    | split
    | (with_reducible refine Keeps.leaf ?_ (h_tmeCmd := Keeps.chg (by decide)))
    | (dsimp only)

theorem State.writeWord_keeps {n0 : Nat} {s0 : State} {s : State} {wr : State.Writer} {a : Nat} {w : Word} (hK : Keeps n0 s0 s) (hm : Keeps.sub 0x3c7fbc7fc27fe n0 = true) :
    Keeps n0 s0 (State.writeWord s wr a w).1 := by
  refine Keeps.step hK ?_ hm
  clear hK hm
  unfold State.writeWord
  repeat' first
    | with_reducible exact Keeps.refl _ _
    | with_reducible assumption
    | (extract_lets +onlyGivenNames -underBinder x; (with_reducible refine Keeps.cut (v := x) ?_ (fun hx => ?_)); subst x; rotate_left; clear_value x; rotate_right)
    | (extract_lets +onlyGivenNames -underBinder x; clear_value x)
    | ((with_reducible apply State.storeDisarm_keeps); (case hm => exact rfl))
    | ((with_reducible apply State.regWrite_keeps); (case hm => exact rfl))
    | ((with_reducible apply State.commonWrite_keeps); (case hm => exact rfl))
    | ((with_reducible apply State.winWrite_keeps); (case hm => exact rfl))
    | (with_reducible refine Keeps.ofP2 (by assumption) ?_)
    | (with_reducible refine Keeps.ofP1 (by assumption) ?_)
    | (with_reducible refine Keeps.ofP3 (by assumption) ?_)
    | split
    | (with_reducible refine Keeps.leaf ?_ (h_port := Keeps.chg (by decide)))
    | (dsimp only)

theorem State.writeWords_keeps {n0 : Nat} {s0 : State} {s : State} {wr : State.Writer} {a : Nat} {y3 : List Word} (hK : Keeps n0 s0 s) (hm : Keeps.sub 0x3c7fbc7fc27fe n0 = true) :
    Keeps n0 s0 (State.writeWords s wr a y3).1 := by
  refine Keeps.step hK ?_ hm
  clear hK hm
  induction y3 generalizing s a with
  | nil => exact Keeps.refl _ _
  | cons w ws ih => exact (State.writeWord_keeps (Keeps.refl _ _) rfl).trans ih

end Sys2Proof.Machine
end

