-- ==== Sys2Proof/Laws/KeepsLeveeCmd.lean ====
section
/-! SUPPORT. What each operation of Machine/LeveeCmd.lean may touch (Laws/Keeps.lean): the mask lists the fields it may change,
and the invariant of the block is kept. -/
set_option Elab.async false
set_option linter.all false
namespace Sys2Proof.Machine

theorem State.noteErr_keeps {n0 : Nat} {s0 : State} {s : State} {a : Nat} {cause : Nat} {wr : Bool} (hK : Keeps n0 s0 s) (hm : Keeps.sub 0x4 n0 = true) :
    Keeps n0 s0 (State.noteErr s a cause wr) := by
  refine Keeps.step hK ?_ hm
  clear hK hm
  unfold State.noteErr
  repeat' first
    | with_reducible exact Keeps.refl _ _
    | with_reducible assumption
    | ((with_reducible apply State.blkErr_keeps); (case hm => exact rfl))
    | (with_reducible refine Keeps.ofP2 (by assumption) ?_)
    | (with_reducible refine Keeps.ofP1 (by assumption) ?_)
    | (with_reducible refine Keeps.ofP3 (by assumption) ?_)
    | split
    | (dsimp only)

theorem State.barred_keeps {n0 : Nat} {s0 : State} {s : State} {a : Nat} {n : Nat} {wr : Bool} {mail : Bool} {cls : Nat} (hK : Keeps n0 s0 s) (hm : Keeps.sub 0x4 n0 = true) :
    Keeps n0 s0 (State.barred s a n wr mail cls).2 := by
  refine Keeps.step hK ?_ hm
  clear hK hm
  unfold State.barred
  repeat' first
    | with_reducible exact Keeps.refl _ _
    | with_reducible assumption
    | ((with_reducible apply State.noteErr_keeps); (case hm => exact rfl))
    | (with_reducible refine Keeps.ofP2 (by assumption) ?_)
    | (with_reducible refine Keeps.ofP1 (by assumption) ?_)
    | (with_reducible refine Keeps.ofP3 (by assumption) ?_)
    | split
    | (dsimp only)

theorem State.epdBars_keeps {n0 : Nat} {s0 : State} {s : State} {a : Nat} {ws : List Word} {u : State} (hq : State.epdBars s a ws = some u) (hK : Keeps n0 s0 s) (hm : Keeps.sub 0x40000000004 n0 = true) :
    Keeps n0 s0 u := by
  refine Keeps.step hK ?_ hm
  revert hq
  unfold State.epdBars
  split
  · intro hq
    obtain ⟨r, hr, hs⟩ := List.exists_of_findSome?_eq_some hq
    obtain ⟨i, hi, rfl⟩ := List.mem_mapIdx.mp hr
    split at hs
    · cases hs
    · cases hs
      exact State.epdWrite_keeps (Keeps.refl _ _) rfl
  · intro hq; cases hq

theorem State.writeLocked_keeps {n0 : Nat} {s0 : State} {s : State} {wr : State.Writer} {a : Nat} {i : Nat} {y4 : List Word} (hK : Keeps n0 s0 s) (hm : Keeps.sub 0x3c7fbc7fc27fe n0 = true) :
    Keeps n0 s0 (State.writeLocked s wr a i y4).1 := by
  refine Keeps.step hK ?_ hm
  clear hK hm
  induction y4 generalizing s a i with
  | nil => exact Keeps.refl _ _
  | cons w ws ih => exact (State.writeWord_keeps (Keeps.refl _ _) rfl).trans ih

theorem State.writeTxn_keeps {n0 : Nat} {s0 : State} {s : State} {wr : State.Writer} {a : Nat} {ws : List Word} {auth : Bool} (hK : Keeps n0 s0 s) (hm : Keeps.sub 0x3c7fbc7fc27fe n0 = true) :
    Keeps n0 s0 (State.writeTxn s wr a ws auth).2.2 := by
  refine Keeps.step hK ?_ hm
  clear hK hm
  unfold State.writeTxn
  repeat' first
    | with_reducible exact Keeps.refl _ _
    | with_reducible assumption
    | (extract_lets +onlyGivenNames -underBinder x; (have hfn : Option _ := x; clear hfn); subst x; dsimp only)
    | (extract_lets +onlyGivenNames -underBinder x; (with_reducible refine Keeps.cut (v := x) ?_ (fun hx => ?_)); subst x; rotate_left; clear_value x; rotate_right)
    | (extract_lets +onlyGivenNames -underBinder x; clear_value x)
    | ((with_reducible apply State.writeLocked_keeps); (case hm => exact rfl))
    | ((with_reducible apply State.barred_keeps); (case hm => exact rfl))
    | ((with_reducible apply State.windowRun_keeps); (case hm => exact rfl))
    | ((with_reducible apply State.epdBars_keeps); (case hq => assumption); (case hm => exact rfl))
    | (with_reducible refine Keeps.fold _ _ ?_ (fun u b hu => ?_))
    | (with_reducible refine Keeps.ofP2 (by assumption) ?_)
    | (with_reducible refine Keeps.ofP1 (by assumption) ?_)
    | (with_reducible refine Keeps.ofP3 (by assumption) ?_)
    | split
    | (dsimp only)

theorem State.cmdEnd_keeps {n0 : Nat} {s0 : State} {s : State} {src : CmdSrc} {f : List Byte} {result : Nat} {cause : Nat} {item : Nat} {tagged : Bool} {old : Bool} (hK : Keeps n0 s0 s) (hm : Keeps.sub 0x1c00000840004 n0 = true) :
    Keeps n0 s0 (State.cmdEnd s src f result cause item tagged old) := by
  refine Keeps.step hK ?_ hm
  clear hK hm
  unfold State.cmdEnd
  repeat' first
    | with_reducible exact Keeps.refl _ _
    | with_reducible assumption
    | (extract_lets +onlyGivenNames -underBinder x; (with_reducible refine Keeps.cut (v := x) ?_ (fun hx => ?_)); subst x; rotate_left; clear_value x; rotate_right)
    | (extract_lets +onlyGivenNames -underBinder x; clear_value x)
    | ((with_reducible apply State.irq_keeps); (case hm => exact rfl))
    | ((with_reducible apply State.setWord_keeps); (case hm => exact rfl))
    | ((with_reducible apply State.set_keeps); (case hm => exact rfl))
    | ((with_reducible apply State.updLev_keeps); (case hm => exact rfl))
    | ((with_reducible apply State.keepAnswer_keeps); (case hm => exact rfl))
    | ((with_reducible apply State.sendResp_keeps); (case hm => exact rfl))
    | ((with_reducible apply State.setPair_keeps); (case hm => exact rfl))
    | (with_reducible refine Keeps.ofP2 (by assumption) ?_)
    | (with_reducible refine Keeps.ofP1 (by assumption) ?_)
    | (with_reducible refine Keeps.ofP3 (by assumption) ?_)
    | split
    | (dsimp only)

theorem State.cmdDone_keeps {n0 : Nat} {s0 : State} {s : State} {src : CmdSrc} {f : List Byte} {result : Nat} {cause : Nat} {item : Nat} (hK : Keeps n0 s0 s) (hm : Keeps.sub 0x1c00000840004 n0 = true) :
    Keeps n0 s0 (State.cmdDone s src f result cause item) := by
  refine Keeps.step hK ?_ hm
  clear hK hm
  unfold State.cmdDone
  repeat' first
    | with_reducible exact Keeps.refl _ _
    | with_reducible assumption
    | ((with_reducible apply State.cmdEnd_keeps); (case hm => exact rfl))
    | (dsimp only)

theorem State.cmdRun_keeps {n0 : Nat} {s0 : State} {s : State} {src : CmdSrc} {f : List Byte} {accepted : Bool} (hK : Keeps n0 s0 s) (hm : Keeps.sub 0x1c00000840004 n0 = true) :
    Keeps n0 s0 (State.cmdRun s src f accepted) := by
  refine Keeps.step hK ?_ hm
  clear hK hm
  unfold State.cmdRun
  repeat' first
    | with_reducible exact Keeps.refl _ _
    | with_reducible assumption
    | ((with_reducible apply State.cmdDone_keeps); (case hm => exact rfl))
    | ((with_reducible apply State.updLev_keeps); (case hm => exact rfl))
    | (with_reducible refine Keeps.ofP2 (by assumption) ?_)
    | (with_reducible refine Keeps.ofP1 (by assumption) ?_)
    | (with_reducible refine Keeps.ofP3 (by assumption) ?_)
    | split
    | (dsimp only)

theorem State.cmdRegWrite_keeps {n0 : Nat} {s0 : State} {s : State} {src : CmdSrc} {f : List Byte} {a : Nat} {ws : List Word} (hK : Keeps n0 s0 s) (hm : Keeps.sub 0x3c7fbc7fc27fe n0 = true) :
    Keeps n0 s0 (State.cmdRegWrite s src f a ws) := by
  refine Keeps.step hK ?_ hm
  clear hK hm
  unfold State.cmdRegWrite
  repeat' first
    | with_reducible exact Keeps.refl _ _
    | with_reducible assumption
    | (extract_lets +onlyGivenNames -underBinder x; (with_reducible refine Keeps.cut (v := x) ?_ (fun hx => ?_)); subst x; rotate_left; clear_value x; rotate_right)
    | (extract_lets +onlyGivenNames -underBinder x; clear_value x)
    | ((with_reducible apply State.cmdDone_keeps); (case hm => exact rfl))
    | ((with_reducible apply State.writeTxn_keeps); (case hm => exact rfl))
    | (with_reducible refine Keeps.ofP2 (by assumption) ?_)
    | (with_reducible refine Keeps.ofP1 (by assumption) ?_)
    | (with_reducible refine Keeps.ofP3 (by assumption) ?_)
    | split
    | (dsimp only)

theorem State.cmdStoreGo_keeps {n0 : Nat} {s0 : State} {s : State} {src : CmdSrc} {f : List Byte} {addr : Nat} {len : Nat} {crc : Nat} (hK : Keeps n0 s0 s) (hm : Keeps.sub 0x1c00000840004 n0 = true) :
    Keeps n0 s0 (State.cmdStoreGo s src f addr len crc) := by
  refine Keeps.step hK ?_ hm
  clear hK hm
  unfold State.cmdStoreGo
  repeat' first
    | with_reducible exact Keeps.refl _ _
    | with_reducible assumption
    | (extract_lets +onlyGivenNames -underBinder x; (with_reducible refine Keeps.cut (v := x) ?_ (fun hx => ?_)); subst x; rotate_left; clear_value x; rotate_right)
    | (extract_lets +onlyGivenNames -underBinder x; clear_value x)
    | ((with_reducible apply State.runGo_keeps); (case hm => exact rfl))
    | ((with_reducible apply State.cmdDone_keeps); (case hm => exact rfl))
    | split
    | (dsimp only)

theorem State.cmdActivate_keeps {n0 : Nat} {s0 : State} {s : State} {src : CmdSrc} {f : List Byte} {i : Nat} {crc : Nat} {gen : Nat} (hK : Keeps n0 s0 s) (hm : Keeps.sub 0x1c08100940084 n0 = true) :
    Keeps n0 s0 (State.cmdActivate s src f i crc gen) := by
  refine Keeps.step hK ?_ hm
  clear hK hm
  unfold State.cmdActivate
  repeat' first
    | with_reducible exact Keeps.refl _ _
    | with_reducible assumption
    | (extract_lets +onlyGivenNames -underBinder x; (with_reducible refine Keeps.cut (v := x) ?_ (fun hx => ?_)); subst x; rotate_left; clear_value x; rotate_right)
    | (extract_lets +onlyGivenNames -underBinder x; clear_value x)
    | ((with_reducible apply State.actStart_keeps); (case hm => exact rfl))
    | ((with_reducible apply State.cmdDone_keeps); (case hm => exact rfl))
    | split
    | (dsimp only)

theorem State.cmdPageUnlock_keeps {n0 : Nat} {s0 : State} {s : State} {src : CmdSrc} {f : List Byte} {p : Nat} (hK : Keeps n0 s0 s) (hm : Keeps.sub 0x1c00000840004 n0 = true) :
    Keeps n0 s0 (State.cmdPageUnlock s src f p) := by
  refine Keeps.step hK ?_ hm
  clear hK hm
  unfold State.cmdPageUnlock
  repeat' first
    | with_reducible exact Keeps.refl _ _
    | with_reducible assumption
    | ((with_reducible apply State.setWord_keeps); (case hm => exact rfl))
    | ((with_reducible apply State.cmdDone_keeps); (case hm => exact rfl))
    | split
    | (dsimp only)

theorem State.cmdKeyRoll_keeps {n0 : Nat} {s0 : State} {s : State} {src : CmdSrc} {f : List Byte} {wrapped : List Byte} {id : Nat} (hK : Keeps n0 s0 s) (hm : Keeps.sub 0x1c00000840004 n0 = true) :
    Keeps n0 s0 (State.cmdKeyRoll s src f wrapped id) := by
  refine Keeps.step hK ?_ hm
  clear hK hm
  unfold State.cmdKeyRoll
  repeat' first
    | with_reducible exact Keeps.refl _ _
    | with_reducible assumption
    | (extract_lets +onlyGivenNames -underBinder x; (with_reducible refine Keeps.cut (v := x) ?_ (fun hx => ?_)); subst x; rotate_left; clear_value x; rotate_right)
    | (extract_lets +onlyGivenNames -underBinder x; clear_value x)
    | ((with_reducible apply State.cmdRun_keeps); (case hm => exact rfl))
    | ((with_reducible apply State.cmdDone_keeps); (case hm => exact rfl))
    | ((with_reducible apply State.levRun_keeps); (case hm => exact rfl))
    | (with_reducible refine Keeps.ofP2 (by assumption) ?_)
    | (with_reducible refine Keeps.ofP1 (by assumption) ?_)
    | (with_reducible refine Keeps.ofP3 (by assumption) ?_)
    | split
    | (dsimp only)

theorem State.cmdBind_keeps {n0 : Nat} {s0 : State} {s : State} {src : CmdSrc} {f : List Byte} {i : Nat} {on : Bool} {uid : Nat} {mask : Nat} (hK : Keeps n0 s0 s) (hm : Keeps.sub 0x1c00000840004 n0 = true) :
    Keeps n0 s0 (State.cmdBind s src f i on uid mask) := by
  refine Keeps.step hK ?_ hm
  clear hK hm
  unfold State.cmdBind
  repeat' first
    | with_reducible exact Keeps.refl _ _
    | with_reducible assumption
    | (extract_lets +onlyGivenNames -underBinder x; (with_reducible refine Keeps.cut (v := x) ?_ (fun hx => ?_)); subst x; rotate_left; clear_value x; rotate_right)
    | (extract_lets +onlyGivenNames -underBinder x; clear_value x)
    | ((with_reducible apply State.cmdRun_keeps); (case hm => exact rfl))
    | ((with_reducible apply State.levRun_keeps); (case hm => exact rfl))
    | (with_reducible refine Keeps.ofP2 (by assumption) ?_)
    | (with_reducible refine Keeps.ofP1 (by assumption) ?_)
    | (with_reducible refine Keeps.ofP3 (by assumption) ?_)
    | split
    | (dsimp only)

theorem State.cmdTrustSet_keeps {n0 : Nat} {s0 : State} {s : State} {src : CmdSrc} {f : List Byte} {mode : Nat} (hK : Keeps n0 s0 s) (hm : Keeps.sub 0x1c00000840004 n0 = true) :
    Keeps n0 s0 (State.cmdTrustSet s src f mode) := by
  refine Keeps.step hK ?_ hm
  clear hK hm
  unfold State.cmdTrustSet
  repeat' first
    | with_reducible exact Keeps.refl _ _
    | with_reducible assumption
    | (extract_lets +onlyGivenNames -underBinder x; (with_reducible refine Keeps.cut (v := x) ?_ (fun hx => ?_)); subst x; rotate_left; clear_value x; rotate_right)
    | (extract_lets +onlyGivenNames -underBinder x; clear_value x)
    | ((with_reducible apply State.cmdRun_keeps); (case hm => exact rfl))
    | ((with_reducible apply State.cmdDone_keeps); (case hm => exact rfl))
    | ((with_reducible apply State.levRun_keeps); (case hm => exact rfl))
    | (with_reducible refine Keeps.ofP2 (by assumption) ?_)
    | (with_reducible refine Keeps.ofP1 (by assumption) ?_)
    | (with_reducible refine Keeps.ofP3 (by assumption) ?_)
    | split
    | (dsimp only)

theorem State.cmdKeyErase_keeps {n0 : Nat} {s0 : State} {s : State} {src : CmdSrc} {f : List Byte} (hK : Keeps n0 s0 s) (hm : Keeps.sub 0x1c00000840004 n0 = true) :
    Keeps n0 s0 (State.cmdKeyErase s src f) := by
  refine Keeps.step hK ?_ hm
  clear hK hm
  unfold State.cmdKeyErase
  repeat' first
    | with_reducible exact Keeps.refl _ _
    | with_reducible assumption
    | (extract_lets +onlyGivenNames -underBinder x; (with_reducible refine Keeps.cut (v := x) ?_ (fun hx => ?_)); subst x; rotate_left; clear_value x; rotate_right)
    | (extract_lets +onlyGivenNames -underBinder x; clear_value x)
    | ((with_reducible apply State.cmdDone_keeps); (case hm => exact rfl))
    | ((with_reducible apply State.levRun_keeps); (case hm => exact rfl))
    | ((with_reducible apply State.keyInForce_keeps); (case hm => exact rfl))
    | (with_reducible refine Keeps.ofP2 (by assumption) ?_)
    | (with_reducible refine Keeps.ofP1 (by assumption) ?_)
    | (with_reducible refine Keeps.ofP3 (by assumption) ?_)
    | split
    | (dsimp only)

theorem State.cmdIdent_keeps {n0 : Nat} {s0 : State} {s : State} {src : CmdSrc} {f : List Byte} {ch : List Byte} (hK : Keeps n0 s0 s) (hm : Keeps.sub 0x1c00000840004 n0 = true) :
    Keeps n0 s0 (State.cmdIdent s src f ch) := by
  refine Keeps.step hK ?_ hm
  clear hK hm
  unfold State.cmdIdent
  repeat' first
    | with_reducible exact Keeps.refl _ _
    | with_reducible assumption
    | (extract_lets +onlyGivenNames -underBinder x; (with_reducible refine Keeps.cut (v := x) ?_ (fun hx => ?_)); subst x; rotate_left; clear_value x; rotate_right)
    | (extract_lets +onlyGivenNames -underBinder x; clear_value x)
    | ((with_reducible apply State.cmdDone_keeps); (case hm => exact rfl))
    | ((with_reducible apply State.keepAnswer_keeps); (case hm => exact rfl))
    | ((with_reducible apply State.sendResp_keeps); (case hm => exact rfl))
    | (with_reducible refine Keeps.ofP2 (by assumption) ?_)
    | (with_reducible refine Keeps.ofP1 (by assumption) ?_)
    | (with_reducible refine Keeps.ofP3 (by assumption) ?_)
    | split
    | (dsimp only)

theorem State.cmdApply_keeps {n0 : Nat} {s0 : State} {s : State} {src : CmdSrc} {f : List Byte} {y3 : CmdBody} (hK : Keeps n0 s0 s) (hm : Keeps.sub 0x3c7fbc7fc27fe n0 = true) :
    Keeps n0 s0 (State.cmdApply s src f y3) := by
  refine Keeps.step hK ?_ hm
  clear hK hm
  unfold State.cmdApply
  repeat' first
    | with_reducible exact Keeps.refl _ _
    | with_reducible assumption
    | (extract_lets +onlyGivenNames -underBinder x; (with_reducible refine Keeps.cut (v := x) ?_ (fun hx => ?_)); subst x; rotate_left; clear_value x; rotate_right)
    | (extract_lets +onlyGivenNames -underBinder x; (have hfn : (_ → _) := x; clear hfn); subst x; dsimp only)
    | (extract_lets +onlyGivenNames -underBinder x; (with_reducible refine Keeps.cut (v := x.2) ?_ (fun hx => ?_)); subst x; rotate_left; clear_value x; rotate_right)
    | (extract_lets +onlyGivenNames -underBinder x; (with_reducible refine Keeps.cut (v := x.1) ?_ (fun hx => ?_)); subst x; rotate_left; clear_value x; rotate_right)
    | (extract_lets +onlyGivenNames -underBinder x; clear_value x)
    | ((with_reducible apply State.cmdKeyRoll_keeps); (case hm => exact rfl))
    | ((with_reducible apply State.cmdDone_keeps); (case hm => exact rfl))
    | ((with_reducible apply State.cmdPageUnlock_keeps); (case hm => exact rfl))
    | ((with_reducible apply State.set_keeps); (case hm => exact rfl))
    | ((with_reducible apply State.cmdKeyErase_keeps); (case hm => exact rfl))
    | ((with_reducible apply State.cmdIdent_keeps); (case hm => exact rfl))
    | ((with_reducible apply State.cmdBind_keeps); (case hm => exact rfl))
    | ((with_reducible apply State.cmdActivate_keeps); (case hm => exact rfl))
    | ((with_reducible apply State.cmdTrustSet_keeps); (case hm => exact rfl))
    | ((with_reducible apply State.cmdStoreGo_keeps); (case hm => exact rfl))
    | ((with_reducible apply State.cmdRegWrite_keeps); (case hm => exact rfl))
    | (with_reducible refine Keeps.fold _ _ ?_ (fun u b hu => ?_))
    | (with_reducible refine Keeps.foldPair _ _ ?_ (fun u b hu => ?_))
    | (with_reducible refine Keeps.foldPairL _ _ ?_ (fun u b hu => ?_))
    | (with_reducible refine Keeps.ofP2 (by assumption) ?_)
    | (with_reducible refine Keeps.ofP1 (by assumption) ?_)
    | (with_reducible refine Keeps.ofP3 (by assumption) ?_)
    | split
    | (dsimp only)

theorem State.cmdAccepted_keeps {n0 : Nat} {s0 : State} {s : State} {src : CmdSrc} {f : List Byte} (hK : Keeps n0 s0 s) (hm : Keeps.sub 0x3c7fbc7fc27fe n0 = true) :
    Keeps n0 s0 (State.cmdAccepted s src f) := by
  refine Keeps.step hK ?_ hm
  clear hK hm
  unfold State.cmdAccepted
  repeat' first
    | with_reducible exact Keeps.refl _ _
    | with_reducible assumption
    | (extract_lets +onlyGivenNames -underBinder x; (with_reducible refine Keeps.cut (v := x) ?_ (fun hx => ?_)); subst x; rotate_left; clear_value x; rotate_right)
    | (extract_lets +onlyGivenNames -underBinder x; clear_value x)
    | ((with_reducible apply State.cmdDone_keeps); (case hm => exact rfl))
    | ((with_reducible apply State.gate_keeps); (case hm => exact rfl))
    | ((with_reducible apply State.audit_keeps); (case hm => exact rfl))
    | ((with_reducible apply State.cmdApply_keeps); (case hm => exact rfl))
    | ((with_reducible apply State.noteApplied_keeps); (case hm => exact rfl))
    | (with_reducible refine Keeps.ofP2 (by assumption) ?_)
    | (with_reducible refine Keeps.ofP1 (by assumption) ?_)
    | (with_reducible refine Keeps.ofP3 (by assumption) ?_)
    | split
    | (dsimp only)

theorem State.command_keeps {n0 : Nat} {s0 : State} {s : State} {src : CmdSrc} {f : List Byte} (hK : Keeps n0 s0 s) (hm : Keeps.sub 0x3c7fbc7fc27fe n0 = true) :
    Keeps n0 s0 (State.command s src f) := by
  refine Keeps.step hK ?_ hm
  clear hK hm
  unfold State.command
  repeat' first
    | with_reducible exact Keeps.refl _ _
    | with_reducible assumption
    | (extract_lets +onlyGivenNames -underBinder x; (with_reducible refine Keeps.cut (v := x) ?_ (fun hx => ?_)); subst x; rotate_left; clear_value x; rotate_right)
    | (extract_lets +onlyGivenNames -underBinder x; clear_value x)
    | ((with_reducible apply State.cmdEnd_keeps); (case hm => exact rfl))
    | ((with_reducible apply State.levCheck_keeps); (case hm => exact rfl))
    | ((with_reducible apply State.updLev_keeps); (case hm => exact rfl))
    | ((with_reducible apply State.cmdAccepted_keeps); (case hm => exact rfl))
    | (with_reducible refine Keeps.ofP2 (by assumption) ?_)
    | (with_reducible refine Keeps.ofP1 (by assumption) ?_)
    | (with_reducible refine Keeps.ofP3 (by assumption) ?_)
    | split
    | (dsimp only)

theorem State.leveePush_keeps {n0 : Nat} {s0 : State} {s : State} {ws : List Word} (hK : Keeps n0 s0 s) (hm : Keeps.sub 0x3c7fbc7fc27fe n0 = true) :
    Keeps n0 s0 (State.leveePush s ws) := by
  refine Keeps.step hK ?_ hm
  clear hK hm
  unfold State.leveePush
  repeat' first
    | with_reducible exact Keeps.refl _ _
    | with_reducible assumption
    | (extract_lets +onlyGivenNames -underBinder x; (with_reducible refine Keeps.cut (v := x) ?_ (fun hx => ?_)); subst x; rotate_left; clear_value x; rotate_right)
    | (extract_lets +onlyGivenNames -underBinder x; clear_value x)
    | ((with_reducible apply State.command_keeps); (case hm => exact rfl))
    | ((with_reducible apply State.cmdDone_keeps); (case hm => exact rfl))
    | ((with_reducible apply State.updLev_keeps); (case hm => exact rfl))
    | split
    | (dsimp only)

theorem State.rxCommand_keeps {n0 : Nat} {s0 : State} {s : State} {p : Nat} {f : List Byte} (hK : Keeps n0 s0 s) (hm : Keeps.sub 0x3c7fbc7fc27fe n0 = true) :
    Keeps n0 s0 (State.rxCommand s p f) := by
  refine Keeps.step hK ?_ hm
  clear hK hm
  unfold State.rxCommand
  repeat' first
    | with_reducible exact Keeps.refl _ _
    | with_reducible assumption
    | (extract_lets +onlyGivenNames -underBinder x; (with_reducible refine Keeps.cut (v := x) ?_ (fun hx => ?_)); subst x; rotate_left; clear_value x; rotate_right)
    | (extract_lets +onlyGivenNames -underBinder x; clear_value x)
    | ((with_reducible apply State.command_keeps); (case hm => exact rfl))
    | ((with_reducible apply State.takeIn_keeps); (case hm => exact rfl))
    | ((with_reducible apply State.discard_keeps); (case hm => exact rfl))
    | ((with_reducible apply State.alsoOn_keeps); (case hm => exact rfl))
    | (with_reducible refine Keeps.ofP2 (by assumption) ?_)
    | (with_reducible refine Keeps.ofP1 (by assumption) ?_)
    | (with_reducible refine Keeps.ofP3 (by assumption) ?_)
    | split
    | (dsimp only)

theorem State.takeCmdReset_keeps {n0 : Nat} {s0 : State} {s : State} (hK : Keeps n0 s0 s) (hm : Keeps.sub 0x3dffffffffffe n0 = true) :
    Keeps n0 s0 (State.takeCmdReset s) := by
  refine Keeps.step hK ?_ hm
  clear hK hm
  unfold State.takeCmdReset
  repeat' first
    | with_reducible exact Keeps.refl _ _
    | with_reducible assumption
    | ((with_reducible apply State.assertReset_keeps); (case hm => exact rfl))
    | (with_reducible refine Keeps.ofP2 (by assumption) ?_)
    | (with_reducible refine Keeps.ofP1 (by assumption) ?_)
    | (with_reducible refine Keeps.ofP3 (by assumption) ?_)
    | split
    | (dsimp only)

theorem State.floorDone_keeps {n0 : Nat} {s0 : State} {s : State} {i : Nat} {b : Nat} {src : CmdSrc} {f : List Byte} (hK : Keeps n0 s0 s) (hm : Keeps.sub 0x3c7fbc7fc27fe n0 = true) :
    Keeps n0 s0 (State.floorDone s i b src f) := by
  refine Keeps.step hK ?_ hm
  clear hK hm
  unfold State.floorDone
  repeat' first
    | with_reducible exact Keeps.refl _ _
    | with_reducible assumption
    | (extract_lets +onlyGivenNames -underBinder x; (with_reducible refine Keeps.cut (v := x) ?_ (fun hx => ?_)); subst x; rotate_left; clear_value x; rotate_right)
    | (extract_lets +onlyGivenNames -underBinder x; (have hfn : (_ → _) := x; clear hfn); subst x; dsimp only)
    | (extract_lets +onlyGivenNames -underBinder x; clear_value x)
    | ((with_reducible apply State.cmdEnd_keeps); (case hm => exact rfl))
    | ((with_reducible apply State.levRefused_keeps); (case hm => exact rfl))
    | ((with_reducible apply State.setSess_keeps); (case hm => exact rfl))
    | ((with_reducible apply State.applyFrame_keeps); (case hm => exact rfl))
    | ((with_reducible apply State.cmdAccepted_keeps); (case hm => exact rfl))
    | (with_reducible refine Keeps.ofP2 (by assumption) ?_)
    | (with_reducible refine Keeps.ofP1 (by assumption) ?_)
    | (with_reducible refine Keeps.ofP3 (by assumption) ?_)
    | split
    | (dsimp only)

theorem State.levRunEnded_keeps {n0 : Nat} {s0 : State} {s : State} {r : LevRun} {ok : Bool} (hK : Keeps n0 s0 s) (hm : Keeps.sub 0x3c7fbc7fc27fe n0 = true) :
    Keeps n0 s0 (State.levRunEnded s r ok) := by
  refine Keeps.step hK ?_ hm
  clear hK hm
  unfold State.levRunEnded
  repeat' first
    | with_reducible exact Keeps.refl _ _
    | with_reducible assumption
    | (extract_lets +onlyGivenNames -underBinder x; (with_reducible refine Keeps.cut (v := x) ?_ (fun hx => ?_)); subst x; rotate_left; clear_value x; rotate_right)
    | (extract_lets +onlyGivenNames -underBinder x; (have hfn : (_ → _) := x; clear hfn); subst x; dsimp only)
    | (extract_lets +onlyGivenNames -underBinder x; clear_value x)
    | ((with_reducible apply State.cmdDone_keeps); (case hm => exact rfl))
    | ((with_reducible apply State.floorDone_keeps); (case hm => exact rfl))
    | ((with_reducible apply State.levFaces_keeps); (case hm => exact rfl))
    | ((with_reducible apply State.cmdEnd_keeps); (case hm => exact rfl))
    | ((with_reducible apply State.raise_keeps); (case hm => exact rfl))
    | ((with_reducible apply State.updLev_keeps); (case hm => exact rfl))
    | ((with_reducible apply State.sessView_keeps); (case hm => exact rfl))
    | ((with_reducible apply State.bindInForce_keeps); (case hm => exact rfl))
    | ((with_reducible apply State.keyInForce_keeps); (case hm => exact rfl))
    | (with_reducible refine Keeps.ofP2 (by assumption) ?_)
    | (with_reducible refine Keeps.ofP1 (by assumption) ?_)
    | (with_reducible refine Keeps.ofP3 (by assumption) ?_)
    | split
    | (dsimp only)

theorem State.levRunTake_keeps {n0 : Nat} {s0 : State} {s : State} {e : RunSrc × Nat × Bool} (hK : Keeps n0 s0 s) (hm : Keeps.sub 0x3c7fbc7fc27fe n0 = true) :
    Keeps n0 s0 (State.levRunTake s e) := by
  refine Keeps.step hK ?_ hm
  clear hK hm
  unfold State.levRunTake
  repeat' first
    | with_reducible exact Keeps.refl _ _
    | with_reducible assumption
    | (extract_lets +onlyGivenNames -underBinder x; (with_reducible refine Keeps.cut (v := x) ?_ (fun hx => ?_)); subst x; rotate_left; clear_value x; rotate_right)
    | (extract_lets +onlyGivenNames -underBinder x; clear_value x)
    | ((with_reducible apply State.updSto_keeps); (case hm => exact rfl); (case hf => first | exact id | exact (fun _ => rfl)))
    | ((with_reducible apply State.levRunEnded_keeps); (case hm => exact rfl))
    | ((with_reducible apply State.updLev_keeps); (case hm => exact rfl))
    | (with_reducible refine Keeps.ofP2 (by assumption) ?_)
    | (with_reducible refine Keeps.ofP1 (by assumption) ?_)
    | (with_reducible refine Keeps.ofP3 (by assumption) ?_)
    | split
    | (dsimp only)

theorem State.levFloorTake_keeps {n0 : Nat} {s0 : State} {s : State} (hK : Keeps n0 s0 s) (hm : Keeps.sub 0x3c7fbc7fc27fe n0 = true) :
    Keeps n0 s0 (State.levFloorTake s) := by
  refine Keeps.step hK ?_ hm
  clear hK hm
  unfold State.levFloorTake
  repeat' first
    | with_reducible exact Keeps.refl _ _
    | with_reducible assumption
    | ((with_reducible apply State.levRunTake_keeps); (case hm => exact rfl))
    | (with_reducible refine Keeps.ofP2 (by assumption) ?_)
    | (with_reducible refine Keeps.ofP1 (by assumption) ?_)
    | (with_reducible refine Keeps.ofP3 (by assumption) ?_)
    | split
    | (dsimp only)

theorem State.runsEnded_keeps {n0 : Nat} {s0 : State} {s : State} (hK : Keeps n0 s0 s) (hm : Keeps.sub 0x3c7fbc7fc27fe n0 = true) :
    Keeps n0 s0 (State.runsEnded s) := by
  refine Keeps.step hK ?_ hm
  clear hK hm
  unfold State.runsEnded
  repeat' first
    | with_reducible exact Keeps.refl _ _
    | with_reducible assumption
    | (extract_lets +onlyGivenNames -underBinder x; (with_reducible refine Keeps.cut (v := x) ?_ (fun hx => ?_)); subst x; rotate_left; clear_value x; rotate_right)
    | (extract_lets +onlyGivenNames -underBinder x; clear_value x)
    | ((with_reducible apply State.levRunTake_keeps); (case hm => exact rfl))
    | ((with_reducible apply State.irq_keeps); (case hm => exact rfl))
    | ((with_reducible apply State.updSto_keeps); (case hm => exact rfl); (case hf => first | exact id | exact (fun _ => rfl)))
    | ((with_reducible apply State.fanRunEnded_keeps); (case hm => exact rfl))
    | (with_reducible refine Keeps.fold _ _ ?_ (fun u b hu => ?_))
    | (with_reducible refine Keeps.ofP2 (by assumption) ?_)
    | (with_reducible refine Keeps.ofP1 (by assumption) ?_)
    | (with_reducible refine Keeps.ofP3 (by assumption) ?_)
    | split
    | (dsimp only)

end Sys2Proof.Machine
end

