-- ==== Sys2Proof/Laws/KeepsHostPort.lean ====
section
/-! SUPPORT. What each operation of Machine/HostPort.lean may touch (Laws/Keeps.lean): the mask lists the fields it may change,
and the invariant of the block is kept. -/
set_option Elab.async false
set_option linter.all false
namespace Sys2Proof.Machine

theorem State.mailPush_keeps {n0 : Nat} {s0 : State} {s : State} {a : Nat} {ws : List Word} (hK : Keeps n0 s0 s) (hm : Keeps.sub 0x3c7fbc7fc27fe n0 = true) :
    Keeps n0 s0 (State.mailPush s a ws) := by
  refine Keeps.step hK ?_ hm
  clear hK hm
  unfold State.mailPush
  repeat' first
    | with_reducible exact Keeps.refl _ _
    | with_reducible assumption
    | ((with_reducible apply State.leveePush_keeps); (case hm => exact rfl))
    | ((with_reducible apply State.queryOpen_keeps); (case hm => exact rfl))
    | ((with_reducible apply State.imagePush_keeps); (case hm => exact rfl))
    | ((with_reducible apply State.runPush_keeps); (case hm => exact rfl))
    | split
    | (dsimp only)

theorem State.xactRun_keeps {n0 : Nat} {s0 : State} {s : State} {t : Xact} (hK : Keeps n0 s0 s) (hm : Keeps.sub 0x3c7fbc7fc27fe n0 = true) :
    Keeps n0 s0 (State.xactRun s t).2.2 := by
  refine Keeps.step hK ?_ hm
  clear hK hm
  unfold State.xactRun
  repeat' first
    | with_reducible exact Keeps.refl _ _
    | with_reducible assumption
    | (extract_lets +onlyGivenNames -underBinder x; (with_reducible refine Keeps.cut (v := x) ?_ (fun hx => ?_)); subst x; rotate_left; clear_value x; rotate_right)
    | (extract_lets +onlyGivenNames -underBinder x; clear_value x)
    | ((with_reducible apply State.readWords_keeps); (case hm => exact rfl))
    | ((with_reducible apply State.barred_keeps); (case hm => exact rfl))
    | ((with_reducible apply State.mailPush_keeps); (case hm => exact rfl))
    | ((with_reducible apply State.writeTxn_keeps); (case hm => exact rfl))
    | (with_reducible refine Keeps.ofP2 (by assumption) ?_)
    | (with_reducible refine Keeps.ofP1 (by assumption) ?_)
    | (with_reducible refine Keeps.ofP3 (by assumption) ?_)
    | split
    | (dsimp only)

theorem State.hostXact_keeps {n0 : Nat} {s0 : State} {s : State} {t : Xact} (hK : Keeps n0 s0 s) (hm : Keeps.sub 0x3dffffffffffe n0 = true) :
    Keeps n0 s0 (State.hostXact s t) := by
  refine Keeps.step hK ?_ hm
  clear hK hm
  unfold State.hostXact
  repeat' first
    | with_reducible exact Keeps.refl _ _
    | with_reducible assumption
    | (extract_lets +onlyGivenNames -underBinder x; (with_reducible refine Keeps.cut (v := x) ?_ (fun hx => ?_)); subst x; rotate_left; clear_value x; rotate_right)
    | (extract_lets +onlyGivenNames -underBinder x; clear_value x)
    | ((with_reducible apply State.bump_keeps); (case hm => exact rfl))
    | ((with_reducible apply State.irq_keeps); (case hm => exact rfl))
    | ((with_reducible apply State.takeCmdReset_keeps); (case hm => exact rfl))
    | ((with_reducible apply State.set_keeps); (case hm => exact rfl))
    | ((with_reducible apply State.xactRun_keeps); (case hm => exact rfl))
    | ((with_reducible apply State.bumpWrap_keeps); (case hm => exact rfl))
    | (with_reducible refine Keeps.ofP2 (by assumption) ?_)
    | (with_reducible refine Keeps.ofP1 (by assumption) ?_)
    | (with_reducible refine Keeps.ofP3 (by assumption) ?_)
    | split
    | (with_reducible refine Keeps.leaf ?_ (h_port := Keeps.chg (by decide)))
    | (dsimp only)

theorem State.hostWrite_keeps {n0 : Nat} {s0 : State} {s : State} {a : Nat} {w : Word} (hK : Keeps n0 s0 s) (hm : Keeps.sub 0x3dffffffffffe n0 = true) :
    Keeps n0 s0 (State.hostWrite s a w) := by
  refine Keeps.step hK ?_ hm
  clear hK hm
  unfold State.hostWrite
  repeat' first
    | with_reducible exact Keeps.refl _ _
    | with_reducible assumption
    | ((with_reducible apply State.hostXact_keeps); (case hm => exact rfl))
    | (dsimp only)

theorem State.hostFrame_keeps {n0 : Nat} {s0 : State} {s : State} {f : List Byte} (hK : Keeps n0 s0 s) (hm : Keeps.sub 0x3dffffffffffe n0 = true) :
    Keeps n0 s0 (State.hostFrame s f) := by
  refine Keeps.step hK ?_ hm
  clear hK hm
  unfold State.hostFrame
  repeat' first
    | with_reducible exact Keeps.refl _ _
    | with_reducible assumption
    | ((with_reducible apply State.hostXact_keeps); (case hm => exact rfl))
    | (with_reducible refine Keeps.fold _ _ ?_ (fun u b hu => ?_))
    | (dsimp only)

theorem State.gateForce_keeps {n0 : Nat} {s0 : State} {s : State} {p : Nat} {off : Nat} {wr : Bool} {took : Bool} {w : Word} (hK : Keeps n0 s0 s) (hm : Keeps.sub 0x3c7fbc7fc27fe n0 = true) :
    Keeps n0 s0 (State.gateForce s p off wr took w) := by
  refine Keeps.step hK ?_ hm
  clear hK hm
  unfold State.gateForce
  repeat' first
    | with_reducible exact Keeps.refl _ _
    | with_reducible assumption
    | (extract_lets +onlyGivenNames -underBinder x; (with_reducible refine Keeps.cut (v := x) ?_ (fun hx => ?_)); subst x; rotate_left; clear_value x; rotate_right)
    | (extract_lets +onlyGivenNames -underBinder x; clear_value x)
    | ((with_reducible apply State.setB_keeps); (case hm => exact rfl))
    | ((with_reducible apply State.writeWord_keeps); (case hm => exact rfl))
    | ((with_reducible apply State.readWords_keeps); (case hm => exact rfl))
    | ((with_reducible apply State.barred_keeps); (case hm => exact rfl))
    | ((with_reducible apply State.setWord_keeps); (case hm => exact rfl))
    | ((with_reducible apply State.blkErr_keeps); (case hm => exact rfl))
    | ((with_reducible apply State.set_keeps); (case hm => exact rfl))
    | ((with_reducible apply State.bumpWrap_keeps); (case hm => exact rfl))
    | (with_reducible refine Keeps.ofP2 (by assumption) ?_)
    | (with_reducible refine Keeps.ofP1 (by assumption) ?_)
    | (with_reducible refine Keeps.ofP3 (by assumption) ?_)
    | split
    | (with_reducible refine Keeps.leaf ?_ (h_port := Keeps.chg (by decide)))
    | (dsimp only)

theorem State.snapExpire_keeps {n0 : Nat} {s0 : State} {s : State} (hK : Keeps n0 s0 s) (hm : Keeps.sub 0x42 n0 = true) :
    Keeps n0 s0 (State.snapExpire s) := by
  refine Keeps.step hK ?_ hm
  clear hK hm
  unfold State.snapExpire
  repeat' first
    | with_reducible exact Keeps.refl _ _
    | with_reducible assumption
    | (extract_lets +onlyGivenNames -underBinder x; (with_reducible refine Keeps.cut (v := x) ?_ (fun hx => ?_)); subst x; rotate_left; clear_value x; rotate_right)
    | (extract_lets +onlyGivenNames -underBinder x; clear_value x)
    | ((with_reducible apply State.at__keeps); (case hm => exact rfl))
    | (with_reducible refine Keeps.ofP2 (by assumption) ?_)
    | (with_reducible refine Keeps.ofP1 (by assumption) ?_)
    | (with_reducible refine Keeps.ofP3 (by assumption) ?_)
    | split
    | (with_reducible refine Keeps.leaf ?_ (h_port := Keeps.chg (by decide)))
    | (dsimp only)

theorem State.pairExpire_keeps {n0 : Nat} {s0 : State} {s : State} (hK : Keeps n0 s0 s) (hm : Keeps.sub 0x46 n0 = true) :
    Keeps n0 s0 (State.pairExpire s) := by
  refine Keeps.step hK ?_ hm
  clear hK hm
  unfold State.pairExpire
  repeat' first
    | with_reducible exact Keeps.refl _ _
    | with_reducible assumption
    | (extract_lets +onlyGivenNames -underBinder x; (with_reducible refine Keeps.cut (v := x) ?_ (fun hx => ?_)); subst x; rotate_left; clear_value x; rotate_right)
    | (extract_lets +onlyGivenNames -underBinder x; clear_value x)
    | ((with_reducible apply State.at__keeps); (case hm => exact rfl))
    | ((with_reducible apply State.dropStaged_keeps); (case hm => exact rfl))
    | (with_reducible refine Keeps.fold _ _ ?_ (fun u b hu => ?_))
    | (with_reducible refine Keeps.ofP2 (by assumption) ?_)
    | (with_reducible refine Keeps.ofP1 (by assumption) ?_)
    | (with_reducible refine Keeps.ofP3 (by assumption) ?_)
    | split
    | (dsimp only)

end Sys2Proof.Machine
end

