-- ==== Sys2Proof/Laws/KeepsFrame.lean ====
section
/-! SUPPORT. What each operation of Machine/Frame.lean may touch (Laws/Keeps.lean): the mask lists the fields it may change,
and the invariant of the block is kept. -/
set_option Elab.async false
set_option linter.all false
namespace Sys2Proof.Machine

theorem State.takeHostLv_keeps {n0 : Nat} {s0 : State} {s : State} {r : Rate} (hK : Keeps n0 s0 s) (hm : Keeps.sub 0x2600 n0 = true) :
    Keeps n0 s0 (State.takeHostLv s r) := by
  refine Keeps.step hK ?_ hm
  clear hK hm
  unfold State.takeHostLv
  repeat' first
    | with_reducible exact Keeps.refl _ _
    | with_reducible assumption
    | (extract_lets +onlyGivenNames -underBinder x; (with_reducible refine Keeps.cut (v := x) ?_ (fun hx => ?_)); subst x; rotate_left; clear_value x; rotate_right)
    | (extract_lets +onlyGivenNames -underBinder x; clear_value x)
    | ((with_reducible apply State.applyLv_keeps); (case hm => exact rfl))
    | (with_reducible refine Keeps.fold _ _ ?_ (fun u b hu => ?_))
    | (with_reducible refine Keeps.ofP2 (by assumption) ?_)
    | (with_reducible refine Keeps.ofP1 (by assumption) ?_)
    | (with_reducible refine Keeps.ofP3 (by assumption) ?_)
    | split
    | (with_reducible refine Keeps.leaf ?_ (h_hostLv := Keeps.chg (by decide)))
    | (dsimp only)

theorem State.takeParams_keeps {n0 : Nat} {s0 : State} {s : State} {r : Rate} (hK : Keeps n0 s0 s) (hm : Keeps.sub 0x1ca0120e60c n0 = true) :
    Keeps n0 s0 (State.takeParams s r) := by
  refine Keeps.step hK ?_ hm
  clear hK hm
  unfold State.takeParams
  repeat' first
    | with_reducible exact Keeps.refl _ _
    | with_reducible assumption
    | (extract_lets +onlyGivenNames -underBinder x; (with_reducible refine Keeps.cut (v := x) ?_ (fun hx => ?_)); subst x; rotate_left; clear_value x; rotate_right)
    | (extract_lets +onlyGivenNames -underBinder x; clear_value x)
    | ((with_reducible apply State.takeBlk_keeps); (case hm => exact rfl))
    | ((with_reducible apply State.takeDirLive_keeps); (case hm => exact rfl))
    | ((with_reducible apply State.takeHeld_keeps); (case hm => exact rfl))
    | ((with_reducible apply State.takeLoopPar_keeps); (case hm => exact rfl))
    | ((with_reducible apply State.fenMembers_keeps); (case hm => exact rfl))
    | ((with_reducible apply State.tmeTakeCmds_keeps); (case hm => exact rfl))
    | ((with_reducible apply State.takeFanCmds_keeps); (case hm => exact rfl))
    | ((with_reducible apply State.takeHostZm_keeps); (case hm => exact rfl))
    | ((with_reducible apply State.takeHostLv_keeps); (case hm => exact rfl))
    | ((with_reducible apply State.takeHostW_keeps); (case hm => exact rfl))
    | (with_reducible refine Keeps.ofP2 (by assumption) ?_)
    | (with_reducible refine Keeps.ofP1 (by assumption) ?_)
    | (with_reducible refine Keeps.ofP3 (by assumption) ?_)
    | split
    | (dsimp only)

theorem State.skimWork_keeps {n0 : Nat} {s0 : State} {s : State} (hK : Keeps n0 s0 s) (hm : Keeps.sub 0x100198b1804 n0 = true) :
    Keeps n0 s0 (State.skimWork s) := by
  refine Keeps.step hK ?_ hm
  clear hK hm
  unfold State.skimWork
  repeat' first
    | with_reducible exact Keeps.refl _ _
    | with_reducible assumption
    | ((with_reducible apply State.senseFrame_keeps); (case hm => exact rfl))
    | ((with_reducible apply State.loopFrame_keeps); (case hm => exact rfl))
    | ((with_reducible apply State.fanFrame_keeps); (case hm => exact rfl))
    | split
    | (dsimp only)

theorem State.captureSkim_keeps {n0 : Nat} {s0 : State} {s : State} {j : Nat} {t : Nat} (hj : j ≤ 9) (hK : Keeps n0 s0 s) (hm : Keeps.sub 0x1ca1dabfe8c n0 = true) :
    Keeps n0 s0 (State.captureSkim s j t) := by
  refine Keeps.step hK ?_ hm
  clear hK hm
  unfold State.captureSkim
  repeat' first
    | with_reducible exact Keeps.refl _ _
    | with_reducible assumption
    | (extract_lets +onlyGivenNames -underBinder x; (with_reducible refine Keeps.cut (v := x) ?_ (fun hx => ?_)); subst x; rotate_left; clear_value x; rotate_right)
    | (extract_lets +onlyGivenNames -underBinder x; subst x)
    | ((with_reducible apply State.takeParams_keeps); (case hm => exact rfl))
    | ((with_reducible apply State.set_keeps); (case hm => exact rfl))
    | ((with_reducible apply State.skimWork_keeps); (case hm => exact rfl))
    | (with_reducible refine Keeps.leaf ?_ (h_lath := Keeps.chg (by decide)) (h_engS := Keeps.chg (by decide)) (i6 := (fun h => by first | exact h | exact ⟨hj, h.2⟩)))
    | (dsimp only)

theorem State.captureLath_keeps {n0 : Nat} {s0 : State} {s : State} {t : Nat} (hK : Keeps n0 s0 s) (hm : Keeps.sub 0x1ca7fabfe8c n0 = true) :
    Keeps n0 s0 (State.captureLath s t) := by
  refine Keeps.step hK ?_ hm
  clear hK hm
  unfold State.captureLath
  repeat' first
    | with_reducible exact Keeps.refl _ _
    | with_reducible assumption
    | (extract_lets +onlyGivenNames -underBinder x; (with_reducible refine Keeps.cut (v := x) ?_ (fun hx => ?_)); subst x; rotate_left; clear_value x; rotate_right)
    | (extract_lets +onlyGivenNames -underBinder x; subst x)
    | ((with_reducible apply State.captureResults_keeps); (case hm => exact rfl))
    | ((with_reducible apply State.rbCapture_keeps); (case hm => exact rfl))
    | ((with_reducible apply State.takeParams_keeps); (case hm => exact rfl))
    | ((with_reducible apply State.set_keeps); (case hm => exact rfl))
    | ((with_reducible apply State.skimWork_keeps); (case hm => exact rfl))
    | ((with_reducible apply State.takeRx_keeps); (case hm => exact rfl))
    | ((with_reducible apply State.setPair_keeps); (case hm => exact rfl))
    | ((with_reducible apply State.remoteAge_keeps); (case hm => exact rfl))
    | split
    | (with_reducible refine Keeps.leaf ?_ (h_lath := Keeps.chg (by decide)) (h_img := Keeps.chg (by decide)) (h_engL := Keeps.chg (by decide)) (h_engS := Keeps.chg (by decide)) (i6 := (fun h => by first | exact h | (simp only; first | omega | (simp; omega) | (simp; done)))))
    | (dsimp only)

theorem State.toPhase_keeps {n0 : Nat} {s0 : State} {s : State} {k : Nat} (hk : 2 ≤ k ∧ k ≤ 7) (hK : Keeps n0 s0 s) (hm : Keeps.sub 0x80 n0 = true) :
    Keeps n0 s0 (State.toPhase s k) := by
  refine Keeps.step hK ?_ hm
  clear hK hm
  unfold State.toPhase
  repeat' first
    | with_reducible exact Keeps.refl _ _
    | with_reducible assumption
    | (with_reducible refine Keeps.leaf ?_ (h_lath := Keeps.chg (by decide)) (i6 := (fun h => ⟨h.1, hk.1, hk.2⟩)))
    | (dsimp only)

theorem State.phaseDone_keeps {n0 : Nat} {s0 : State} {s : State} (hK : Keeps n0 s0 s) (hm : Keeps.sub 0x185198b1884 n0 = true) :
    Keeps n0 s0 (State.phaseDone s) := by
  refine Keeps.step hK ?_ hm
  clear hK hm
  unfold State.phaseDone
  repeat' first
    | with_reducible exact Keeps.refl _ _
    | with_reducible assumption
    | ((with_reducible apply State.tmeFrame_keeps); (case hm => exact rfl))
    | ((with_reducible apply State.blkFrame_keeps); (case hm => exact rfl))
    | ((with_reducible apply State.toPhase_keeps); (case hm => exact rfl); (case hk => decide))
    | ((with_reducible apply State.senseFrame_keeps); (case hm => exact rfl))
    | ((with_reducible apply State.zoneFrame_keeps); (case hm => exact rfl))
    | ((with_reducible apply State.loopFrame_keeps); (case hm => exact rfl))
    | ((with_reducible apply State.rbIngest_keeps); (case hm => exact rfl))
    | ((with_reducible apply State.presFrame_keeps); (case hm => exact rfl))
    | ((with_reducible apply State.schedFrame_keeps); (case hm => exact rfl))
    | ((with_reducible apply State.fanFrame_keeps); (case hm => exact rfl))
    | ((with_reducible apply State.demandFrame_keeps); (case hm => exact rfl))
    | (with_reducible refine Keeps.ofP2 (by assumption) ?_)
    | (with_reducible refine Keeps.ofP1 (by assumption) ?_)
    | (with_reducible refine Keeps.ofP3 (by assumption) ?_)
    | split
    | (dsimp only)

theorem State.release_keeps {n0 : Nat} {s0 : State} {s : State} {r : Rate} (hK : Keeps n0 s0 s) (hm : Keeps.sub 0x34000 n0 = true) :
    Keeps n0 s0 (State.release s r) := by
  refine Keeps.step hK ?_ hm
  clear hK hm
  unfold State.release
  repeat' first
    | with_reducible exact Keeps.refl _ _
    | with_reducible assumption
    | (extract_lets +onlyGivenNames -underBinder x; (with_reducible refine Keeps.cut (v := x) ?_ (fun hx => ?_)); subst x; rotate_left; clear_value x; rotate_right)
    | (extract_lets +onlyGivenNames -underBinder x; (have hfn : (_ → _) := x; clear hfn); subst x; dsimp only)
    | (extract_lets +onlyGivenNames -underBinder x; clear_value x)
    | (with_reducible refine Keeps.fold _ _ ?_ (fun u b hu => ?_))
    | (with_reducible refine Keeps.ofP2 (by assumption) ?_)
    | (with_reducible refine Keeps.ofP1 (by assumption) ?_)
    | (with_reducible refine Keeps.ofP3 (by assumption) ?_)
    | split
    | (with_reducible refine Keeps.leaf ?_ (h_vis := Keeps.chg (by decide)) (h_lwork := Keeps.chg (by decide)) (h_swork := Keeps.chg (by decide)))
    | (dsimp only)

theorem State.latchLevels_keeps {n0 : Nat} {s0 : State} {s : State} {r : Rate} (hK : Keeps n0 s0 s) (hm : Keeps.sub 0x1e00 n0 = true) :
    Keeps n0 s0 (State.latchLevels s r) := by
  refine Keeps.step hK ?_ hm
  clear hK hm
  unfold State.latchLevels
  repeat' first
    | with_reducible exact Keeps.refl _ _
    | with_reducible assumption
    | ((with_reducible apply State.applyLv_keeps); (case hm => exact rfl))
    | (with_reducible refine Keeps.fold _ _ ?_ (fun u b hu => ?_))
    | (with_reducible refine Keeps.ofP2 (by assumption) ?_)
    | (with_reducible refine Keeps.ofP1 (by assumption) ?_)
    | (with_reducible refine Keeps.ofP3 (by assumption) ?_)
    | split
    | (with_reducible refine Keeps.leaf ?_ (h_stL := Keeps.chg (by decide)) (h_stS := Keeps.chg (by decide)))
    | (dsimp only)

theorem State.modeEdge_keeps {n0 : Nat} {s0 : State} {s : State} {r : Rate} (hK : Keeps n0 s0 s) (hm : Keeps.sub 0x40704 n0 = true) :
    Keeps n0 s0 (State.modeEdge s r) := by
  refine Keeps.step hK ?_ hm
  clear hK hm
  unfold State.modeEdge
  repeat' first
    | with_reducible exact Keeps.refl _ _
    | with_reducible assumption
    | (extract_lets +onlyGivenNames -underBinder x; (with_reducible refine Keeps.cut (v := x) ?_ (fun hx => ?_)); subst x; rotate_left; clear_value x; rotate_right)
    | (extract_lets +onlyGivenNames -underBinder x; clear_value x)
    | ((with_reducible apply State.changeMode_keeps); (case hm => exact rfl))
    | ((with_reducible apply State.leaveProtect_keeps); (case hm => exact rfl))
    | (with_reducible refine Keeps.fold _ _ ?_ (fun u b hu => ?_))
    | split
    | (dsimp only)

theorem State.arbitrate_keeps {n0 : Nat} {s0 : State} {s : State} {r : Rate} (hK : Keeps n0 s0 s) (hm : Keeps.sub 0x40504 n0 = true) :
    Keeps n0 s0 (State.arbitrate s r) := by
  refine Keeps.step hK ?_ hm
  clear hK hm
  unfold State.arbitrate
  repeat' first
    | with_reducible exact Keeps.refl _ _
    | with_reducible assumption
    | (extract_lets +onlyGivenNames -underBinder x; (with_reducible refine Keeps.cut (v := x) ?_ (fun hx => ?_)); subst x; rotate_left; clear_value x; rotate_right)
    | (extract_lets +onlyGivenNames -underBinder x; clear_value x)
    | ((with_reducible apply State.driveFaces_keeps); (case hm => exact rfl))
    | ((with_reducible apply State.commitOutput_keeps); (case hm => exact rfl))
    | ((with_reducible apply State.capAll_keeps); (case hm => exact rfl))
    | (with_reducible refine Keeps.fold _ _ ?_ (fun u b hu => ?_))
    | split
    | (dsimp only)

theorem State.commitRates_keeps {n0 : Nat} {s0 : State} {s : State} {rs : List Rate} (hK : Keeps n0 s0 s) (hm : Keeps.sub 0x18875f84 n0 = true) :
    Keeps n0 s0 (State.commitRates s rs) := by
  refine Keeps.step hK ?_ hm
  clear hK hm
  unfold State.commitRates
  repeat' first
    | with_reducible exact Keeps.refl _ _
    | with_reducible assumption
    | (extract_lets +onlyGivenNames -underBinder x; (with_reducible refine Keeps.cut (v := x) ?_ (fun hx => ?_)); subst x; rotate_left; clear_value x; rotate_right)
    | (extract_lets +onlyGivenNames -underBinder x; clear_value x)
    | ((with_reducible apply State.peatCount_keeps); (case hm => exact rfl))
    | ((with_reducible apply State.modeEdge_keeps); (case hm => exact rfl))
    | ((with_reducible apply State.commitOutputs_keeps); (case hm => exact rfl))
    | ((with_reducible apply State.flushEv_keeps); (case hm => exact rfl))
    | ((with_reducible apply State.faultEdge_keeps); (case hm => exact rfl))
    | ((with_reducible apply State.fsRead_keeps); (case hm => exact rfl))
    | ((with_reducible apply State.latchLevels_keeps); (case hm => exact rfl))
    | ((with_reducible apply State.arbitrate_keeps); (case hm => exact rfl))
    | ((with_reducible apply State.release_keeps); (case hm => exact rfl))
    | (with_reducible refine Keeps.fold _ _ ?_ (fun u b hu => ?_))
    | (dsimp only)

theorem State.peaks_keeps {n0 : Nat} {s0 : State} {s : State} {lath : Bool} (hK : Keeps n0 s0 s) (hm : Keeps.sub 0x2000000000004 n0 = true) :
    Keeps n0 s0 (State.peaks s lath) := by
  refine Keeps.step hK ?_ hm
  clear hK hm
  unfold State.peaks
  repeat' first
    | with_reducible exact Keeps.refl _ _
    | with_reducible assumption
    | (extract_lets +onlyGivenNames -underBinder x; (with_reducible refine Keeps.cut (v := x) ?_ (fun hx => ?_)); subst x; rotate_left; clear_value x; rotate_right)
    | (extract_lets +onlyGivenNames -underBinder x; clear_value x)
    | ((with_reducible apply State.freeNat_keeps); (case hm => exact rfl))
    | ((with_reducible apply State.set_keeps); (case hm => exact rfl))
    | (with_reducible refine Keeps.ofP2 (by assumption) ?_)
    | (with_reducible refine Keeps.ofP1 (by assumption) ?_)
    | (with_reducible refine Keeps.ofP3 (by assumption) ?_)
    | split
    | (dsimp only)

theorem State.lathCommit_keeps {n0 : Nat} {s0 : State} {s : State} (hK : Keeps n0 s0 s) (hm : Keeps.sub 0x1c00441b40084 n0 = true) :
    Keeps n0 s0 (State.lathCommit s) := by
  refine Keeps.step hK ?_ hm
  clear hK hm
  unfold State.lathCommit
  repeat' first
    | with_reducible exact Keeps.refl _ _
    | with_reducible assumption
    | (extract_lets +onlyGivenNames -underBinder x; (with_reducible refine Keeps.cut (v := x) ?_ (fun hx => ?_)); subst x; rotate_left; clear_value x; rotate_right)
    | (extract_lets +onlyGivenNames -underBinder x; subst x)
    | ((with_reducible apply State.irq_keeps); (case hm => exact rfl))
    | ((with_reducible apply State.setOp_keeps); (case hm => exact rfl))
    | ((with_reducible apply State.fabricCommit_keeps); (case hm => exact rfl))
    | ((with_reducible apply State.bandUpdate_keeps); (case hm => exact rfl))
    | ((with_reducible apply State.trendCapture_keeps); (case hm => exact rfl))
    | ((with_reducible apply State.commitZm_keeps); (case hm => exact rfl))
    | ((with_reducible apply State.rbCommit_keeps); (case hm => exact rfl))
    | (with_reducible refine Keeps.ofP2 (by assumption) ?_)
    | (with_reducible refine Keeps.ofP1 (by assumption) ?_)
    | (with_reducible refine Keeps.ofP3 (by assumption) ?_)
    | split
    | (with_reducible refine Keeps.leaf ?_ (h_lath := Keeps.chg (by decide)) (i6 := (fun h => by first | exact h | (simp only; first | omega | (simp; omega) | (simp; done)))))
    | (dsimp only)

theorem State.dropWork_keeps {n0 : Nat} {s0 : State} {s : State} {lath : Bool} (hK : Keeps n0 s0 s) (hm : Keeps.sub 0x419031800 n0 = true) :
    Keeps n0 s0 (State.dropWork s lath) := by
  refine Keeps.step hK ?_ hm
  clear hK hm
  unfold State.dropWork
  repeat' first
    | with_reducible exact Keeps.refl _ _
    | with_reducible assumption
    | split
    | (with_reducible refine Keeps.leaf ?_ (h_stL := Keeps.chg (by decide)) (h_stS := Keeps.chg (by decide)) (h_lwork := Keeps.chg (by decide)) (h_swork := Keeps.chg (by decide)) (h_eng := Keeps.chg (by decide)) (h_evL := Keeps.chg (by decide)) (h_evS := Keeps.chg (by decide)) (h_stZ := Keeps.chg (by decide)))
    | (dsimp only)

theorem State.edgeMissed_keeps {n0 : Nat} {s0 : State} {s : State} {lath : Bool} {code : Nat} (hK : Keeps n0 s0 s) (hm : Keeps.sub 0x419071d84 n0 = true) :
    Keeps n0 s0 (State.edgeMissed s lath code) := by
  refine Keeps.step hK ?_ hm
  clear hK hm
  unfold State.edgeMissed
  repeat' first
    | with_reducible exact Keeps.refl _ _
    | with_reducible assumption
    | (extract_lets +onlyGivenNames -underBinder x; (with_reducible refine Keeps.cut (v := x) ?_ (fun hx => ?_)); subst x; rotate_left; clear_value x; rotate_right)
    | (extract_lets +onlyGivenNames -underBinder x; subst x)
    | ((with_reducible apply State.setB_keeps); (case hm => exact rfl))
    | ((with_reducible apply State.bump_keeps); (case hm => exact rfl))
    | ((with_reducible apply State.tripPath_keeps); (case hm => exact rfl))
    | ((with_reducible apply State.dropWork_keeps); (case hm => exact rfl))
    | ((with_reducible apply State.irq_keeps); (case hm => exact rfl))
    | ((with_reducible apply State.setWord_keeps); (case hm => exact rfl))
    | ((with_reducible apply State.set_keeps); (case hm => exact rfl))
    | ((with_reducible apply State.raise_keeps); (case hm => exact rfl))
    | ((with_reducible apply State.nme_keeps); (case hm => exact rfl))
    | split
    | (with_reducible refine Keeps.leaf ?_ (h_lath := Keeps.chg (by decide)) (i6 := (fun h => by first | exact h | (simp only; first | omega | (simp; omega) | (simp; done)))))
    | (dsimp only)

theorem State.edgeMade_keeps {n0 : Nat} {s0 : State} {s : State} (hK : Keeps n0 s0 s) (hm : Keeps.sub 0x40004 n0 = true) :
    Keeps n0 s0 (State.edgeMade s) := by
  refine Keeps.step hK ?_ hm
  clear hK hm
  unfold State.edgeMade
  repeat' first
    | with_reducible exact Keeps.refl _ _
    | with_reducible assumption
    | ((with_reducible apply State.clearFault_keeps); (case hm => exact rfl))
    | ((with_reducible apply State.set_keeps); (case hm => exact rfl))
    | split
    | (dsimp only)

theorem State.edgeMeasures_keeps {n0 : Nat} {s0 : State} {s : State} {m : Meas} (hK : Keeps n0 s0 s) (hm : Keeps.sub 0xc0184 n0 = true) :
    Keeps n0 s0 (State.edgeMeasures s m) := by
  refine Keeps.step hK ?_ hm
  clear hK hm
  unfold State.edgeMeasures
  repeat' first
    | with_reducible exact Keeps.refl _ _
    | with_reducible assumption
    | (extract_lets +onlyGivenNames -underBinder x; (have hfn : Option _ := x; clear hfn); subst x; dsimp only)
    | (extract_lets +onlyGivenNames -underBinder x; (with_reducible refine Keeps.cut (v := x) ?_ (fun hx => ?_)); subst x; rotate_left; clear_value x; rotate_right)
    | (extract_lets +onlyGivenNames -underBinder x; subst x)
    | ((with_reducible apply State.sluiceVerify_keeps); (case hq => assumption); (case hm => exact rfl))
    | ((with_reducible apply State.readbackOne_keeps); (case hm => exact rfl); (case hS => exact fun a b u hq => State.sluiceVerify_keeps hq (Keeps.refl _ _) rfl))
    | ((with_reducible apply State.governMeasure_keeps); (case hm => exact rfl))
    | (with_reducible refine Keeps.fold _ _ ?_ (fun u b hu => ?_))
    | (with_reducible refine Keeps.leaf ?_ (h_lath := Keeps.chg (by decide)) (i6 := (fun h => by first | exact h | (simp only; first | omega | (simp; omega) | (simp; done)))))
    | (dsimp only)

theorem State.edgeEnables_keeps {n0 : Nat} {s0 : State} {s : State} (hK : Keeps n0 s0 s) (hm : Keeps.sub 0x104 n0 = true) :
    Keeps n0 s0 (State.edgeEnables s) := by
  refine Keeps.step hK ?_ hm
  clear hK hm
  unfold State.edgeEnables
  repeat' first
    | with_reducible exact Keeps.refl _ _
    | with_reducible assumption
    | ((with_reducible apply State.takeChanEn_keeps); (case hm => exact rfl))
    | ((with_reducible apply State.takeEn_keeps); (case hm => exact rfl))
    | (with_reducible refine Keeps.fold _ _ ?_ (fun u b hu => ?_))
    | (dsimp only)

theorem State.lathEdge_keeps {n0 : Nat} {s0 : State} {s : State} {unfinished : Nat} {m : Meas} (hK : Keeps n0 s0 s) (hm : Keeps.sub 0x3dffffffffffe n0 = true) :
    Keeps n0 s0 (State.lathEdge s unfinished m) := by
  refine Keeps.step hK ?_ hm
  clear hK hm
  unfold State.lathEdge
  repeat' first
    | with_reducible exact Keeps.refl _ _
    | with_reducible assumption
    | (extract_lets +onlyGivenNames -underBinder x; (with_reducible refine Keeps.cut (v := x) ?_ (fun hx => ?_)); subst x; rotate_left; clear_value x; rotate_right)
    | (extract_lets +onlyGivenNames -underBinder x; subst x)
    | ((with_reducible apply State.at__keeps); (case hm => exact rfl))
    | ((with_reducible apply State.govern_keeps); (case hm => exact rfl))
    | ((with_reducible apply State.captureLath_keeps); (case hm => exact rfl))
    | ((with_reducible apply State.assertReset_keeps); (case hm => exact rfl))
    | ((with_reducible apply State.edgeEnables_keeps); (case hm => exact rfl))
    | ((with_reducible apply State.peaks_keeps); (case hm => exact rfl))
    | ((with_reducible apply State.edgeMissed_keeps); (case hm => exact rfl))
    | ((with_reducible apply State.edgeMeasures_keeps); (case hm => exact rfl))
    | ((with_reducible apply State.commitRates_keeps); (case hm => exact rfl))
    | ((with_reducible apply State.edgeMade_keeps); (case hm => exact rfl))
    | ((with_reducible apply State.lathCommit_keeps); (case hm => exact rfl))
    | (with_reducible refine Keeps.ofP2 (by assumption) ?_)
    | (with_reducible refine Keeps.ofP1 (by assumption) ?_)
    | (with_reducible refine Keeps.ofP3 (by assumption) ?_)
    | split
    | (with_reducible refine Keeps.leaf ?_ (h_lath := Keeps.chg (by decide)) (i6 := (fun h => by first | exact h | (simp only; first | omega | (simp; omega) | (simp; done)))))
    | (dsimp only)

theorem State.skimEdge_keeps {n0 : Nat} {s0 : State} {s : State} {unfinished : Nat} {m : Meas} (hK : Keeps n0 s0 s) (hm : Keeps.sub 0x3dffffffffffe n0 = true) :
    Keeps n0 s0 (State.skimEdge s unfinished m) := by
  refine Keeps.step hK ?_ hm
  clear hK hm
  unfold State.skimEdge
  split
  · exact Keeps.refl _ _
  split
  · exact State.lathEdge_keeps (Keeps.refl _ _) rfl
  extract_lets +onlyGivenNames j
  have hj : j ≤ 9 := by show s.lath.skim + 1 ≤ 9; omega
  clear_value j
  repeat' first
    | with_reducible exact Keeps.refl _ _
    | with_reducible assumption
    | (extract_lets +onlyGivenNames -underBinder x; (with_reducible refine Keeps.cut (v := x) ?_ (fun hx => ?_)); subst x; rotate_left; clear_value x; rotate_right)
    | (extract_lets +onlyGivenNames -underBinder x; clear_value x)
    | ((with_reducible apply State.captureSkim_keeps); (case hm => exact rfl); (case hj => first | omega | assumption))
    | ((with_reducible apply State.at__keeps); (case hm => exact rfl))
    | ((with_reducible apply State.govern_keeps); (case hm => exact rfl))
    | ((with_reducible apply State.lathEdge_keeps); (case hm => exact rfl))
    | ((with_reducible apply State.peaks_keeps); (case hm => exact rfl))
    | ((with_reducible apply State.edgeMissed_keeps); (case hm => exact rfl))
    | ((with_reducible apply State.edgeMeasures_keeps); (case hm => exact rfl))
    | ((with_reducible apply State.commitRates_keeps); (case hm => exact rfl))
    | ((with_reducible apply State.edgeMade_keeps); (case hm => exact rfl))
    | split
    | (dsimp only)

theorem State.switchLevels_keeps {n0 : Nat} {s0 : State} {s : State} (hK : Keeps n0 s0 s) (hm : Keeps.sub 0x200 n0 = true) :
    Keeps n0 s0 (State.switchLevels s) := by
  refine Keeps.step hK ?_ hm
  clear hK hm
  unfold State.switchLevels
  repeat' first
    | with_reducible exact Keeps.refl _ _
    | with_reducible assumption
    | ((with_reducible apply State.setLevel_keeps); (case hm => exact rfl))
    | (with_reducible refine Keeps.fold _ _ ?_ (fun u b hu => ?_))
    | (dsimp only)

theorem State.switchWords_keeps {n0 : Nat} {s0 : State} {s : State} {a : Activation} (hK : Keeps n0 s0 s) (hm : Keeps.sub 0x3c7fbc7fc27fe n0 = true) :
    Keeps n0 s0 (State.switchWords s a) := by
  refine Keeps.step hK ?_ hm
  clear hK hm
  unfold State.switchWords
  repeat' first
    | with_reducible exact Keeps.refl _ _
    | with_reducible assumption
    | ((with_reducible apply State.writeWord_keeps); (case hm => exact rfl))
    | (with_reducible refine Keeps.fold _ _ ?_ (fun u b hu => ?_))
    | (dsimp only)

theorem State.endSoftResets_keeps {n0 : Nat} {s0 : State} {s : State} (hK : Keeps n0 s0 s) (hm : Keeps.sub 0x26 n0 = true) :
    Keeps n0 s0 (State.endSoftResets s) := by
  refine Keeps.step hK ?_ hm
  clear hK hm
  unfold State.endSoftResets
  repeat' first
    | with_reducible exact Keeps.refl _ _
    | with_reducible assumption
    | ((with_reducible apply State.softResetEnd_keeps); (case hm => exact rfl))
    | (with_reducible refine Keeps.fold _ _ ?_ (fun u b hu => ?_))
    | (dsimp only)

theorem State.switchEngines_keeps {n0 : Nat} {s0 : State} {old : State} {s : State} {a : Activation} (hK : Keeps n0 s0 s) (hm : Keeps.sub 0x1c1b941a4c404 n0 = true) :
    Keeps n0 s0 (State.switchEngines old s a) := by
  refine Keeps.step hK ?_ hm
  clear hK hm
  unfold State.switchEngines
  repeat' first
    | with_reducible exact Keeps.refl _ _
    | with_reducible assumption
    | (extract_lets +onlyGivenNames -underBinder x; (with_reducible refine Keeps.cut (v := x) ?_ (fun hx => ?_)); subst x; rotate_left; clear_value x; rotate_right)
    | (extract_lets +onlyGivenNames -underBinder x; clear_value x)
    | ((with_reducible apply State.blkSwitch_keeps); (case hm => exact rfl))
    | ((with_reducible apply State.dirSwitch_keeps); (case hm => exact rfl))
    | ((with_reducible apply State.schSwitch_keeps); (case hm => exact rfl))
    | ((with_reducible apply State.fsLoad_keeps); (case hm => exact rfl))
    | ((with_reducible apply State.loopSwitch_keeps); (case hm => exact rfl))
    | ((with_reducible apply State.fenMembers_keeps); (case hm => exact rfl))
    | ((with_reducible apply State.senseSwitch_keeps); (case hm => exact rfl))
    | ((with_reducible apply State.fanSwitch_keeps); (case hm => exact rfl))
    | ((with_reducible apply State.presSwitch_keeps); (case hm => exact rfl))
    | ((with_reducible apply State.rbSwitch_keeps); (case hm => exact rfl))
    | ((with_reducible apply State.tmeSwitch_keeps); (case hm => exact rfl))
    | ((with_reducible apply State.takeHostW_keeps); (case hm => exact rfl))
    | ((with_reducible apply State.strmSwitch_keeps); (case hm => exact rfl))
    | (dsimp only)

theorem State.firstCommit_keeps {n0 : Nat} {s0 : State} {s : State} (hK : Keeps n0 s0 s) (hm : Keeps.sub 0x2040087dc6784 n0 = true) :
    Keeps n0 s0 (State.firstCommit s) := by
  refine Keeps.step hK ?_ hm
  clear hK hm
  unfold State.firstCommit
  repeat' first
    | with_reducible exact Keeps.refl _ _
    | with_reducible assumption
    | (extract_lets +onlyGivenNames -underBinder x; (with_reducible refine Keeps.cut (v := x) ?_ (fun hx => ?_)); subst x; rotate_left; clear_value x; rotate_right)
    | (extract_lets +onlyGivenNames -underBinder x; subst x)
    | ((with_reducible apply State.setB_keeps); (case hm => exact rfl))
    | ((with_reducible apply State.firstEnter_keeps); (case hm => exact rfl))
    | ((with_reducible apply State.budgetFaces_keeps); (case hm => exact rfl))
    | ((with_reducible apply State.commitOutputs_keeps); (case hm => exact rfl))
    | ((with_reducible apply State.driveFaces_keeps); (case hm => exact rfl))
    | ((with_reducible apply State.updSto_keeps); (case hm => exact rfl); (case hf => first | exact id | exact (fun _ => rfl)))
    | ((with_reducible apply State.bootClear_keeps); (case hm => exact rfl))
    | ((with_reducible apply State.audit_keeps); (case hm => exact rfl))
    | ((with_reducible apply State.peatAdd_keeps); (case hm => exact rfl))
    | ((with_reducible apply State.takeHostLv_keeps); (case hm => exact rfl))
    | ((with_reducible apply State.enterMode_keeps); (case hm => exact rfl))
    | (with_reducible refine Keeps.fold _ _ ?_ (fun u b hu => ?_))
    | split
    | (with_reducible refine Keeps.leaf ?_ (h_lath := Keeps.chg (by decide)) (h_boot := Keeps.chg (by decide)) (i6 := (fun h => by first | exact h | (simp only; first | omega | (simp; omega) | (simp; done)))))
    | (dsimp only)

theorem State.switchModes_keeps {n0 : Nat} {s0 : State} {s : State} (hK : Keeps n0 s0 s) (hm : Keeps.sub 0x42704 n0 = true) :
    Keeps n0 s0 (State.switchModes s) := by
  refine Keeps.step hK ?_ hm
  clear hK hm
  unfold State.switchModes
  repeat' first
    | with_reducible exact Keeps.refl _ _
    | with_reducible assumption
    | (extract_lets +onlyGivenNames -underBinder x; (with_reducible refine Keeps.cut (v := x) ?_ (fun hx => ?_)); subst x; rotate_left; clear_value x; rotate_right)
    | (extract_lets +onlyGivenNames -underBinder x; clear_value x)
    | ((with_reducible apply State.changeMode_keeps); (case hm => exact rfl))
    | ((with_reducible apply State.takeHostLv_keeps); (case hm => exact rfl))
    | (with_reducible refine Keeps.fold _ _ ?_ (fun u b hu => ?_))
    | (dsimp only)

theorem State.switchHeldModes_keeps {n0 : Nat} {s0 : State} {s : State} (hK : Keeps n0 s0 s) (hm : Keeps.sub 0x2600 n0 = true) :
    Keeps n0 s0 (State.switchHeldModes s) := by
  refine Keeps.step hK ?_ hm
  clear hK hm
  unfold State.switchHeldModes
  repeat' first
    | with_reducible exact Keeps.refl _ _
    | with_reducible assumption
    | (extract_lets +onlyGivenNames -underBinder x; (with_reducible refine Keeps.cut (v := x) ?_ (fun hx => ?_)); subst x; rotate_left; clear_value x; rotate_right)
    | (extract_lets +onlyGivenNames -underBinder x; (have hfn : (_ → _) := x; clear hfn); subst x; dsimp only)
    | (extract_lets +onlyGivenNames -underBinder x; clear_value x)
    | ((with_reducible apply State.takeHostLv_keeps); (case hm => exact rfl))
    | (with_reducible refine Keeps.ofP2 (by assumption) ?_)
    | (with_reducible refine Keeps.ofP1 (by assumption) ?_)
    | (with_reducible refine Keeps.ofP3 (by assumption) ?_)
    | split
    | (with_reducible refine Keeps.leaf ?_ (h_hostLv := Keeps.chg (by decide)))
    | (dsimp only)

theorem State.takeOver_keeps {n0 : Nat} {s0 : State} {s : State} {a : Activation} {first : Bool} {waits : Bool} (hK : Keeps n0 s0 s) (hm : Keeps.sub 0x3c7fbc7fce7fe n0 = true) :
    Keeps n0 s0 (State.takeOver s a first waits) := by
  refine Keeps.step hK ?_ hm
  clear hK hm
  unfold State.takeOver
  repeat' first
    | with_reducible exact Keeps.refl _ _
    | with_reducible assumption
    | (extract_lets +onlyGivenNames -underBinder x; (with_reducible refine Keeps.cut (v := x) ?_ (fun hx => ?_)); subst x; rotate_left; clear_value x; rotate_right)
    | (extract_lets +onlyGivenNames -underBinder x; subst x)
    | ((with_reducible apply State.setB_keeps); (case hm => exact rfl))
    | ((with_reducible apply State.irq_keeps); (case hm => exact rfl))
    | ((with_reducible apply State.switchWords_keeps); (case hm => exact rfl))
    | ((with_reducible apply State.takeParams_keeps); (case hm => exact rfl))
    | ((with_reducible apply State.clearFault_keeps); (case hm => exact rfl))
    | ((with_reducible apply State.firstCommit_keeps); (case hm => exact rfl))
    | ((with_reducible apply State.switchEngines_keeps); (case hm => exact rfl))
    | ((with_reducible apply State.switchHeldModes_keeps); (case hm => exact rfl))
    | ((with_reducible apply State.set_keeps); (case hm => exact rfl))
    | ((with_reducible apply State.fsRead_keeps); (case hm => exact rfl))
    | ((with_reducible apply State.setOp_keeps); (case hm => exact rfl))
    | ((with_reducible apply State.edgeEnables_keeps); (case hm => exact rfl))
    | ((with_reducible apply State.audit_keeps); (case hm => exact rfl))
    | ((with_reducible apply State.switchLevels_keeps); (case hm => exact rfl))
    | ((with_reducible apply State.endSoftResets_keeps); (case hm => exact rfl))
    | ((with_reducible apply State.switchModes_keeps); (case hm => exact rfl))
    | (with_reducible refine Keeps.ofP2 (by assumption) ?_)
    | (with_reducible refine Keeps.ofP1 (by assumption) ?_)
    | (with_reducible refine Keeps.ofP3 (by assumption) ?_)
    | split
    | (with_reducible refine Keeps.leaf ?_ (h_lath := Keeps.chg (by decide)) (h_nst := Keeps.chg (by decide)) (i6 := (fun h => by first | exact h | (simp only; first | omega | (simp; omega) | (simp; done)))))
    | (dsimp only)

theorem State.safeBegins_keeps {n0 : Nat} {s0 : State} {s : State} (hK : Keeps n0 s0 s) (hm : Keeps.sub 0x2040087dc67a6 n0 = true) :
    Keeps n0 s0 (State.safeBegins s) := by
  refine Keeps.step hK ?_ hm
  clear hK hm
  unfold State.safeBegins
  repeat' first
    | with_reducible exact Keeps.refl _ _
    | with_reducible assumption
    | (extract_lets +onlyGivenNames -underBinder x; (with_reducible refine Keeps.cut (v := x) ?_ (fun hx => ?_)); subst x; rotate_left; clear_value x; rotate_right)
    | (extract_lets +onlyGivenNames -underBinder x; subst x)
    | ((with_reducible apply State.setB_keeps); (case hm => exact rfl))
    | ((with_reducible apply State.firstCommit_keeps); (case hm => exact rfl))
    | ((with_reducible apply State.fsRead_keeps); (case hm => exact rfl))
    | ((with_reducible apply State.fsLoad_keeps); (case hm => exact rfl))
    | ((with_reducible apply State.edgeEnables_keeps); (case hm => exact rfl))
    | ((with_reducible apply State.endSoftResets_keeps); (case hm => exact rfl))
    | (with_reducible refine Keeps.leaf ?_ (h_lath := Keeps.chg (by decide)) (i6 := (fun h => by first | exact h | (simp only; first | omega | (simp; omega) | (simp; done)))))
    | (dsimp only)

theorem State.configSwitch_keeps {n0 : Nat} {s0 : State} {s : State} (hK : Keeps n0 s0 s) (hm : Keeps.sub 0x3c7fbfffffffe n0 = true) :
    Keeps n0 s0 (State.configSwitch s) := by
  refine Keeps.step hK ?_ hm
  clear hK hm
  unfold State.configSwitch
  repeat' first
    | with_reducible exact Keeps.refl _ _
    | with_reducible assumption
    | (extract_lets +onlyGivenNames -underBinder x; (with_reducible refine Keeps.cut (v := x) ?_ (fun hx => ?_)); subst x; rotate_left; clear_value x; rotate_right)
    | (extract_lets +onlyGivenNames -underBinder x; subst x)
    | ((with_reducible apply State.takeOver_keeps); (case hm => exact rfl))
    | ((with_reducible apply State.at__keeps); (case hm => exact rfl))
    | ((with_reducible apply State.actView_keeps); (case hm => exact rfl))
    | ((with_reducible apply State.safeBegins_keeps); (case hm => exact rfl))
    | ((with_reducible apply State.captureLath_keeps); (case hm => exact rfl))
    | (with_reducible refine Keeps.ofP2 (by assumption) ?_)
    | (with_reducible refine Keeps.ofP1 (by assumption) ?_)
    | (with_reducible refine Keeps.ofP3 (by assumption) ?_)
    | split
    | (with_reducible refine Keeps.leaf ?_ (h_lath := Keeps.chg (by decide)) (i6 := (fun h => by first | exact h | (simp only; first | omega | (simp; omega) | (simp; done)))))
    | (dsimp only)

theorem State.periodGapEnd_keeps {n0 : Nat} {s0 : State} {s : State} (hK : Keeps n0 s0 s) (hm : Keeps.sub 0x1ca7fafff8e n0 = true) :
    Keeps n0 s0 (State.periodGapEnd s) := by
  refine Keeps.step hK ?_ hm
  clear hK hm
  unfold State.periodGapEnd
  repeat' first
    | with_reducible exact Keeps.refl _ _
    | with_reducible assumption
    | (extract_lets +onlyGivenNames -underBinder x; (with_reducible refine Keeps.cut (v := x) ?_ (fun hx => ?_)); subst x; rotate_left; clear_value x; rotate_right)
    | (extract_lets +onlyGivenNames -underBinder x; subst x)
    | ((with_reducible apply State.at__keeps); (case hm => exact rfl))
    | ((with_reducible apply State.captureLath_keeps); (case hm => exact rfl))
    | ((with_reducible apply State.switchModes_keeps); (case hm => exact rfl))
    | (with_reducible refine Keeps.ofP2 (by assumption) ?_)
    | (with_reducible refine Keeps.ofP1 (by assumption) ?_)
    | (with_reducible refine Keeps.ofP3 (by assumption) ?_)
    | split
    | (with_reducible refine Keeps.leaf ?_ (h_lath := Keeps.chg (by decide)) (i6 := (fun h => by first | exact h | (simp only; first | omega | (simp; omega) | (simp; done)))))
    | (dsimp only)

theorem State.paramEffect_keeps {n0 : Nat} {s0 : State} {s : State} {r : Rate} (hK : Keeps n0 s0 s) (hm : Keeps.sub 0x1ca0120e60c n0 = true) :
    Keeps n0 s0 (State.paramEffect s r) := by
  refine Keeps.step hK ?_ hm
  clear hK hm
  unfold State.paramEffect
  repeat' first
    | with_reducible exact Keeps.refl _ _
    | with_reducible assumption
    | ((with_reducible apply State.takeParams_keeps); (case hm => exact rfl))
    | (with_reducible refine Keeps.ofP2 (by assumption) ?_)
    | (with_reducible refine Keeps.ofP1 (by assumption) ?_)
    | (with_reducible refine Keeps.ofP3 (by assumption) ?_)
    | split
    | (dsimp only)

theorem State.modeEffect_keeps {n0 : Nat} {s0 : State} {s : State} {n : Nat} (hK : Keeps n0 s0 s) (hm : Keeps.sub 0x40704 n0 = true) :
    Keeps n0 s0 (State.modeEffect s n) := by
  refine Keeps.step hK ?_ hm
  clear hK hm
  unfold State.modeEffect
  repeat' first
    | with_reducible exact Keeps.refl _ _
    | with_reducible assumption
    | (extract_lets +onlyGivenNames -underBinder x; (with_reducible refine Keeps.cut (v := x) ?_ (fun hx => ?_)); subst x; rotate_left; clear_value x; rotate_right)
    | (extract_lets +onlyGivenNames -underBinder x; clear_value x)
    | ((with_reducible apply State.changeMode_keeps); (case hm => exact rfl))
    | (with_reducible refine Keeps.ofP2 (by assumption) ?_)
    | (with_reducible refine Keeps.ofP1 (by assumption) ?_)
    | (with_reducible refine Keeps.ofP3 (by assumption) ?_)
    | split
    | (dsimp only)

end Sys2Proof.Machine
end

