-- ==== Sys2Proof/Laws/KeepsCmdFrame.lean ====
section
/-! SUPPORT. What each operation of Machine/CmdFrame.lean may touch (Laws/Keeps.lean): the mask lists the fields it may change,
and the invariant of the block is kept. -/
set_option Elab.async false
set_option linter.all false
namespace Sys2Proof.Machine

theorem execLathEdge_keeps {unfinished : Nat} {meas : Meas} {s : State} {next : State} (h : execLathEdge unfinished meas s = .next next) : Keeps 0x3dffffffffffe s next := by
  unfold execLathEdge at h
  cases h
  skip
  repeat' first
    | with_reducible exact Keeps.refl _ _
    | with_reducible assumption
    | ((with_reducible apply State.lathEdge_keeps); (case hm => exact rfl))
    | (dsimp only)

theorem execLathPhaseDone_keeps {s : State} {next : State} (h : execLathPhaseDone s = .next next) : Keeps 0x185198b1884 s next := by
  unfold execLathPhaseDone at h
  cases h
  skip
  repeat' first
    | with_reducible exact Keeps.refl _ _
    | with_reducible assumption
    | ((with_reducible apply State.phaseDone_keeps); (case hm => exact rfl))
    | split
    | (dsimp only)

theorem execSkimEdge_keeps {unfinished : Nat} {meas : Meas} {s : State} {next : State} (h : execSkimEdge unfinished meas s = .next next) : Keeps 0x3dffffffffffe s next := by
  unfold execSkimEdge at h
  cases h
  skip
  repeat' first
    | with_reducible exact Keeps.refl _ _
    | with_reducible assumption
    | ((with_reducible apply State.skimEdge_keeps); (case hm => exact rfl))
    | (dsimp only)

theorem execMissClr_keeps {s : State} {next : State} (h : execMissClr s = .next next) : Keeps 0x3dffffffffffe s next := by
  unfold execMissClr at h
  cases h
  skip
  repeat' first
    | with_reducible exact Keeps.refl _ _
    | with_reducible assumption
    | ((with_reducible apply State.hostWrite_keeps); (case hm => exact rfl))
    | (dsimp only)

theorem execLathActivationCheck_keeps {s : State} {next : State} (h : execLathActivationCheck s = .next next) : Keeps 0x100810070008c s next := by
  unfold execLathActivationCheck at h
  cases h
  skip
  repeat' first
    | with_reducible exact Keeps.refl _ _
    | with_reducible assumption
    | ((with_reducible apply State.activationCheck_keeps); (case hm => exact rfl))
    | split
    | (dsimp only)

theorem execConfigSwitch_keeps {s : State} {next : State} (h : execConfigSwitch s = .next next) : Keeps 0x3c7fbfffffffe s next := by
  unfold execConfigSwitch at h
  cases h
  skip
  repeat' first
    | with_reducible exact Keeps.refl _ _
    | with_reducible assumption
    | ((with_reducible apply State.configSwitch_keeps); (case hm => exact rfl))
    | (dsimp only)

theorem execPeriodGapEnd_keeps {s : State} {next : State} (h : execPeriodGapEnd s = .next next) : Keeps 0x1ca7fafff8e s next := by
  unfold execPeriodGapEnd at h
  cases h
  skip
  repeat' first
    | with_reducible exact Keeps.refl _ _
    | with_reducible assumption
    | ((with_reducible apply State.periodGapEnd_keeps); (case hm => exact rfl))
    | (dsimp only)

theorem execParamTakeEffect_keeps {skimRate : Bool} {s : State} {next : State} (h : execParamTakeEffect skimRate s = .next next) : Keeps 0x1ca0120e60c s next := by
  unfold execParamTakeEffect at h
  cases h
  skip
  repeat' first
    | with_reducible exact Keeps.refl _ _
    | with_reducible assumption
    | ((with_reducible apply State.paramEffect_keeps); (case hm => exact rfl))
    | split
    | (dsimp only)

end Sys2Proof.Machine
end

