-- ==== Sys2Proof/Laws/KeepsCmdPort.lean ====
section
/-! SUPPORT. What each operation of Machine/CmdPort.lean may touch (Laws/Keeps.lean): the mask lists the fields it may change,
and the invariant of the block is kept. -/
set_option Elab.async false
set_option linter.all false
namespace Sys2Proof.Machine

theorem execHostRead_keeps {t : Xact} {s : State} {next : State} (h : execHostRead t s = .next next) : Keeps 0x3dffffffffffe s next := by
  unfold execHostRead at h
  cases h
  skip
  repeat' first
    | with_reducible exact Keeps.refl _ _
    | with_reducible assumption
    | ((with_reducible apply State.hostXact_keeps); (case hm => exact rfl))
    | split
    | (dsimp only)

theorem execRegisterWrite_keeps {t : Xact} {s : State} {next : State} (h : execRegisterWrite t s = .next next) : Keeps 0x3dffffffffffe s next := by
  unfold execRegisterWrite at h
  cases h
  skip
  repeat' first
    | with_reducible exact Keeps.refl _ _
    | with_reducible assumption
    | ((with_reducible apply State.hostXact_keeps); (case hm => exact rfl))
    | split
    | (dsimp only)

theorem execSnapshotExpiry_keeps {s : State} {next : State} (h : execSnapshotExpiry s = .next next) : Keeps 0x42 s next := by
  unfold execSnapshotExpiry at h
  cases h
  skip
  repeat' first
    | with_reducible exact Keeps.refl _ _
    | with_reducible assumption
    | ((with_reducible apply State.snapExpire_keeps); (case hm => exact rfl))
    | split
    | (dsimp only)

theorem execPairTimeout_keeps {s : State} {next : State} (h : execPairTimeout s = .next next) : Keeps 0x46 s next := by
  unfold execPairTimeout at h
  cases h
  skip
  repeat' first
    | with_reducible exact Keeps.refl _ _
    | with_reducible assumption
    | ((with_reducible apply State.pairExpire_keeps); (case hm => exact rfl))
    | split
    | (dsimp only)

theorem execLockWrite_keeps {page : Nat} {w : Word} {s : State} {next : State} (h : execLockWrite page w s = .next next) : Keeps 0x3dffffffffffe s next := by
  unfold execLockWrite at h
  cases h
  skip
  repeat' first
    | with_reducible exact Keeps.refl _ _
    | with_reducible assumption
    | ((with_reducible apply State.hostWrite_keeps); (case hm => exact rfl))
    | split
    | (dsimp only)

theorem execSoftReset_keeps {page : Nat} {w : Word} {s : State} {next : State} (h : execSoftReset page w s = .next next) : Keeps 0x3dffffffffffe s next := by
  unfold execSoftReset at h
  cases h
  skip
  repeat' first
    | with_reducible exact Keeps.refl _ _
    | with_reducible assumption
    | ((with_reducible apply State.hostWrite_keeps); (case hm => exact rfl))
    | split
    | (dsimp only)

theorem execSoftResetDone_keeps {page : Nat} {s : State} {next : State} (h : execSoftResetDone page s = .next next) : Keeps 0x26 s next := by
  unfold execSoftResetDone at h
  cases h
  skip
  repeat' first
    | with_reducible exact Keeps.refl _ _
    | with_reducible assumption
    | ((with_reducible apply State.softResetEnd_keeps); (case hm => exact rfl))
    | split
    | (dsimp only)

theorem execBlockEnable_keeps {page : Nat} {w : Word} {s : State} {next : State} (h : execBlockEnable page w s = .next next) : Keeps 0x3dffffffffffe s next := by
  unfold execBlockEnable at h
  cases h
  skip
  repeat' first
    | with_reducible exact Keeps.refl _ _
    | with_reducible assumption
    | ((with_reducible apply State.hostWrite_keeps); (case hm => exact rfl))
    | split
    | (dsimp only)

theorem execGateRequest_keeps {page : Nat} {w : Word} {s : State} {next : State} (h : execGateRequest page w s = .next next) : Keeps 0x3dffffffffffe s next := by
  unfold execGateRequest at h
  cases h
  skip
  repeat' first
    | with_reducible exact Keeps.refl _ _
    | with_reducible assumption
    | ((with_reducible apply State.hostWrite_keeps); (case hm => exact rfl))
    | split
    | (dsimp only)

theorem execGateForce_keeps {page : Nat} {off : Nat} {write : Bool} {took : Bool} {w : Word} {s : State} {next : State} (h : execGateForce page off write took w s = .next next) : Keeps 0x3c7fbc7fc27fe s next := by
  unfold execGateForce at h
  cases h
  skip
  repeat' first
    | with_reducible exact Keeps.refl _ _
    | with_reducible assumption
    | ((with_reducible apply State.gateForce_keeps); (case hm => exact rfl))
    | split
    | (dsimp only)

theorem execUngate_keeps {page : Nat} {w : Word} {s : State} {next : State} (h : execUngate page w s = .next next) : Keeps 0x3dffffffffffe s next := by
  unfold execUngate at h
  cases h
  skip
  repeat' first
    | with_reducible exact Keeps.refl _ _
    | with_reducible assumption
    | ((with_reducible apply State.hostWrite_keeps); (case hm => exact rfl))
    | split
    | (dsimp only)

theorem execIrqTestWrite_keeps {page : Nat} {w : Word} {s : State} {next : State} (h : execIrqTestWrite page w s = .next next) : Keeps 0x3dffffffffffe s next := by
  unfold execIrqTestWrite at h
  cases h
  skip
  repeat' first
    | with_reducible exact Keeps.refl _ _
    | with_reducible assumption
    | ((with_reducible apply State.hostWrite_keeps); (case hm => exact rfl))
    | split
    | (dsimp only)

theorem execIrqStatClear_keeps {page : Nat} {w : Word} {s : State} {next : State} (h : execIrqStatClear page w s = .next next) : Keeps 0x3dffffffffffe s next := by
  unfold execIrqStatClear at h
  cases h
  skip
  repeat' first
    | with_reducible exact Keeps.refl _ _
    | with_reducible assumption
    | ((with_reducible apply State.hostWrite_keeps); (case hm => exact rfl))
    | split
    | (dsimp only)

theorem execNmeClear_keeps {w : Word} {s : State} {next : State} (h : execNmeClear w s = .next next) : Keeps 0x3dffffffffffe s next := by
  unfold execNmeClear at h
  cases h
  skip
  repeat' first
    | with_reducible exact Keeps.refl _ _
    | with_reducible assumption
    | ((with_reducible apply State.hostWrite_keeps); (case hm => exact rfl))
    | (dsimp only)

theorem execRstCmd_keeps {w : Word} {s : State} {next : State} (h : execRstCmd w s = .next next) : Keeps 0x3dffffffffffe s next := by
  unfold execRstCmd at h
  cases h
  skip
  repeat' first
    | with_reducible exact Keeps.refl _ _
    | with_reducible assumption
    | ((with_reducible apply State.hostWrite_keeps); (case hm => exact rfl))
    | (dsimp only)

end Sys2Proof.Machine
end

