-- ==== Sys2Proof/Laws/KeepsCmdChan.lean ====
section
/-! SUPPORT. What each operation of Machine/CmdChan.lean may touch (Laws/Keeps.lean): the mask lists the fields it may change,
and the invariant of the block is kept. -/
set_option Elab.async false
set_option linter.all false
namespace Sys2Proof.Machine

theorem State.seenPin_keeps {n0 : Nat} {s0 : State} {s : State} {n : Nat} {mv : Int} (hK : Keeps n0 s0 s) (hm : Keeps.sub 0x104 n0 = true) :
    Keeps n0 s0 (State.seenPin s n mv) := by
  refine Keeps.step hK ?_ hm
  clear hK hm
  unfold State.seenPin
  repeat' first
    | with_reducible exact Keeps.refl _ _
    | with_reducible assumption
    | ((with_reducible apply State.upChan_keeps); (case hm => exact rfl))
    | split
    | (dsimp only)

theorem State.ovvAuto_keeps {n0 : Nat} {s0 : State} {s : State} {n : Nat} {mv : Int} (hK : Keeps n0 s0 s) (hm : Keeps.sub 0x106 n0 = true) :
    Keeps n0 s0 (State.ovvAuto s n mv) := by
  refine Keeps.step hK ?_ hm
  clear hK hm
  unfold State.ovvAuto
  repeat' first
    | with_reducible exact Keeps.refl _ _
    | with_reducible assumption
    | (extract_lets +onlyGivenNames -underBinder x; (with_reducible refine Keeps.cut (v := x) ?_ (fun hx => ?_)); subst x; rotate_left; clear_value x; rotate_right)
    | (extract_lets +onlyGivenNames -underBinder x; clear_value x)
    | ((with_reducible apply State.seenPin_keeps); (case hm => exact rfl))
    | ((with_reducible apply State.at__keeps); (case hm => exact rfl))
    | ((with_reducible apply State.upChan_keeps); (case hm => exact rfl))
    | (with_reducible refine Keeps.ofP2 (by assumption) ?_)
    | (with_reducible refine Keeps.ofP1 (by assumption) ?_)
    | (with_reducible refine Keeps.ofP3 (by assumption) ?_)
    | split
    | (dsimp only)

theorem State.ovi_keeps {n0 : Nat} {s0 : State} {s : State} {n : Nat} {ua : Int} (hK : Keeps n0 s0 s) (hm : Keeps.sub 0x40104 n0 = true) :
    Keeps n0 s0 (State.ovi s n ua) := by
  refine Keeps.step hK ?_ hm
  clear hK hm
  unfold State.ovi
  repeat' first
    | with_reducible exact Keeps.refl _ _
    | with_reducible assumption
    | (extract_lets +onlyGivenNames -underBinder x; (with_reducible refine Keeps.cut (v := x) ?_ (fun hx => ?_)); subst x; rotate_left; clear_value x; rotate_right)
    | (extract_lets +onlyGivenNames -underBinder x; clear_value x)
    | ((with_reducible apply State.upChan_keeps); (case hm => exact rfl))
    | ((with_reducible apply State.raise_keeps); (case hm => exact rfl))
    | ((with_reducible apply State.markFault_keeps); (case hm => exact rfl))
    | (with_reducible refine Keeps.ofP2 (by assumption) ?_)
    | (with_reducible refine Keeps.ofP1 (by assumption) ?_)
    | (with_reducible refine Keeps.ofP3 (by assumption) ?_)
    | split
    | (dsimp only)

theorem State.burdenCloses_keeps {n0 : Nat} {s0 : State} {s : State} {n : Nat} (hK : Keeps n0 s0 s) (hm : Keeps.sub 0x106 n0 = true) :
    Keeps n0 s0 (State.burdenCloses s n) := by
  refine Keeps.step hK ?_ hm
  clear hK hm
  unfold State.burdenCloses
  repeat' first
    | with_reducible exact Keeps.refl _ _
    | with_reducible assumption
    | ((with_reducible apply State.at__keeps); (case hm => exact rfl))
    | ((with_reducible apply State.upChan_keeps); (case hm => exact rfl))
    | (with_reducible refine Keeps.ofP2 (by assumption) ?_)
    | (with_reducible refine Keeps.ofP1 (by assumption) ?_)
    | (with_reducible refine Keeps.ofP3 (by assumption) ?_)
    | split
    | (dsimp only)

theorem State.burdenJudged_keeps {n0 : Nat} {s0 : State} {s : State} {n : Nat} {ua : Int} (hK : Keeps n0 s0 s) (hm : Keeps.sub 0x106 n0 = true) :
    Keeps n0 s0 (State.burdenJudged s n ua) := by
  refine Keeps.step hK ?_ hm
  clear hK hm
  unfold State.burdenJudged
  repeat' first
    | with_reducible exact Keeps.refl _ _
    | with_reducible assumption
    | ((with_reducible apply State.at__keeps); (case hm => exact rfl))
    | ((with_reducible apply State.upChan_keeps); (case hm => exact rfl))
    | (with_reducible refine Keeps.ofP2 (by assumption) ?_)
    | (with_reducible refine Keeps.ofP1 (by assumption) ?_)
    | (with_reducible refine Keeps.ofP3 (by assumption) ?_)
    | split
    | (dsimp only)

theorem State.otRecovered_keeps {n0 : Nat} {s0 : State} {s : State} {n : Nat} (hK : Keeps n0 s0 s) (hm : Keeps.sub 0x40104 n0 = true) :
    Keeps n0 s0 (State.otRecovered s n) := by
  refine Keeps.step hK ?_ hm
  clear hK hm
  unfold State.otRecovered
  repeat' first
    | with_reducible exact Keeps.refl _ _
    | with_reducible assumption
    | (extract_lets +onlyGivenNames -underBinder x; (with_reducible refine Keeps.cut (v := x) ?_ (fun hx => ?_)); subst x; rotate_left; clear_value x; rotate_right)
    | (extract_lets +onlyGivenNames -underBinder x; clear_value x)
    | ((with_reducible apply State.clearFault_keeps); (case hm => exact rfl))
    | ((with_reducible apply State.upChan_keeps); (case hm => exact rfl))
    | ((with_reducible apply State.markFault_keeps); (case hm => exact rfl))
    | split
    | (dsimp only)

theorem State.diLevel_keeps {n0 : Nat} {s0 : State} {s : State} {n : Nat} {mv : Int} (hK : Keeps n0 s0 s) (hm : Keeps.sub 0x106 n0 = true) :
    Keeps n0 s0 (State.diLevel s n mv) := by
  refine Keeps.step hK ?_ hm
  clear hK hm
  unfold State.diLevel
  repeat' first
    | with_reducible exact Keeps.refl _ _
    | with_reducible assumption
    | (extract_lets +onlyGivenNames -underBinder x; (with_reducible refine Keeps.cut (v := x) ?_ (fun hx => ?_)); subst x; rotate_left; clear_value x; rotate_right)
    | (extract_lets +onlyGivenNames -underBinder x; clear_value x)
    | ((with_reducible apply State.at__keeps); (case hm => exact rfl))
    | ((with_reducible apply State.upChan_keeps); (case hm => exact rfl))
    | split
    | (dsimp only)

theorem State.tachEdge_keeps {n0 : Nat} {s0 : State} {s : State} {n : Nat} {dt : Nat} (hK : Keeps n0 s0 s) (hm : Keeps.sub 0x106 n0 = true) :
    Keeps n0 s0 (State.tachEdge s n dt) := by
  refine Keeps.step hK ?_ hm
  clear hK hm
  unfold State.tachEdge
  repeat' first
    | with_reducible exact Keeps.refl _ _
    | with_reducible assumption
    | (extract_lets +onlyGivenNames -underBinder x; (with_reducible refine Keeps.cut (v := x) ?_ (fun hx => ?_)); subst x; rotate_left; clear_value x; rotate_right)
    | (extract_lets +onlyGivenNames -underBinder x; clear_value x)
    | ((with_reducible apply State.at__keeps); (case hm => exact rfl))
    | ((with_reducible apply State.upChan_keeps); (case hm => exact rfl))
    | (with_reducible refine Keeps.ofP2 (by assumption) ?_)
    | (with_reducible refine Keeps.ofP1 (by assumption) ?_)
    | (with_reducible refine Keeps.ofP3 (by assumption) ?_)
    | split
    | (dsimp only)

theorem State.tachQuiet_keeps {n0 : Nat} {s0 : State} {s : State} {n : Nat} (hK : Keeps n0 s0 s) (hm : Keeps.sub 0x106 n0 = true) :
    Keeps n0 s0 (State.tachQuiet s n) := by
  refine Keeps.step hK ?_ hm
  clear hK hm
  unfold State.tachQuiet
  repeat' first
    | with_reducible exact Keeps.refl _ _
    | with_reducible assumption
    | ((with_reducible apply State.at__keeps); (case hm => exact rfl))
    | ((with_reducible apply State.upChan_keeps); (case hm => exact rfl))
    | (with_reducible refine Keeps.ofP2 (by assumption) ?_)
    | (with_reducible refine Keeps.ofP1 (by assumption) ?_)
    | (with_reducible refine Keeps.ofP3 (by assumption) ?_)
    | split
    | (dsimp only)

theorem State.countLow_keeps {n0 : Nat} {s0 : State} {s : State} {n : Nat} {us : Nat} (hK : Keeps n0 s0 s) (hm : Keeps.sub 0x104 n0 = true) :
    Keeps n0 s0 (State.countLow s n us) := by
  refine Keeps.step hK ?_ hm
  clear hK hm
  unfold State.countLow
  repeat' first
    | with_reducible exact Keeps.refl _ _
    | with_reducible assumption
    | ((with_reducible apply State.upChan_keeps); (case hm => exact rfl))
    | split
    | (dsimp only)

theorem State.failsafeEnds_keeps {n0 : Nat} {s0 : State} {s : State} {n : Nat} (hK : Keeps n0 s0 s) (hm : Keeps.sub 0x106 n0 = true) :
    Keeps n0 s0 (State.failsafeEnds s n) := by
  refine Keeps.step hK ?_ hm
  clear hK hm
  unfold State.failsafeEnds
  repeat' first
    | with_reducible exact Keeps.refl _ _
    | with_reducible assumption
    | ((with_reducible apply State.at__keeps); (case hm => exact rfl))
    | ((with_reducible apply State.upChan_keeps); (case hm => exact rfl))
    | (with_reducible refine Keeps.ofP2 (by assumption) ?_)
    | (with_reducible refine Keeps.ofP1 (by assumption) ?_)
    | (with_reducible refine Keeps.ofP3 (by assumption) ?_)
    | split
    | (dsimp only)

theorem State.gapEnds_keeps {n0 : Nat} {s0 : State} {s : State} {n : Nat} (hK : Keeps n0 s0 s) (hm : Keeps.sub 0x20000870c0106 n0 = true) :
    Keeps n0 s0 (State.gapEnds s n) := by
  refine Keeps.step hK ?_ hm
  clear hK hm
  unfold State.gapEnds
  repeat' first
    | with_reducible exact Keeps.refl _ _
    | with_reducible assumption
    | ((with_reducible apply State.at__keeps); (case hm => exact rfl))
    | ((with_reducible apply State.enterMode_keeps); (case hm => exact rfl))
    | (with_reducible refine Keeps.ofP2 (by assumption) ?_)
    | (with_reducible refine Keeps.ofP1 (by assumption) ?_)
    | (with_reducible refine Keeps.ofP3 (by assumption) ?_)
    | split
    | (dsimp only)

theorem execModeChange_keeps {ch : Nat} {s : State} {next : State} (h : execModeChange ch s = .next next) : Keeps 0x40704 s next := by
  unfold execModeChange at h
  cases h
  skip
  repeat' first
    | with_reducible exact Keeps.refl _ _
    | with_reducible assumption
    | ((with_reducible apply State.modeEffect_keeps); (case hm => exact rfl))
    | (dsimp only)

theorem execModeGapEnd_keeps {ch : Nat} {s : State} {next : State} (h : execModeGapEnd ch s = .next next) : Keeps 0x20000870c0106 s next := by
  unfold execModeGapEnd at h
  cases h
  unfold State.onChan
  repeat' first
    | with_reducible exact Keeps.refl _ _
    | with_reducible assumption
    | ((with_reducible apply State.gapEnds_keeps); (case hm => exact rfl))
    | split
    | (dsimp only)

theorem execPriWrite_keeps {out : Nat} {lv : Nat} {w : Word} {s : State} {next : State} (h : execPriWrite out lv w s = .next next) : Keeps 0x3dffffffffffe s next := by
  unfold execPriWrite at h
  cases h
  skip
  repeat' first
    | with_reducible exact Keeps.refl _ _
    | with_reducible assumption
    | ((with_reducible apply State.hostWrite_keeps); (case hm => exact rfl))
    | split
    | (dsimp only)

theorem execPriRelinquish_keeps {out : Nat} {w : Word} {s : State} {next : State} (h : execPriRelinquish out w s = .next next) : Keeps 0x3dffffffffffe s next := by
  unfold execPriRelinquish at h
  cases h
  skip
  repeat' first
    | with_reducible exact Keeps.refl _ _
    | with_reducible assumption
    | ((with_reducible apply State.hostWrite_keeps); (case hm => exact rfl))
    | split
    | (dsimp only)

theorem execFltClrRdbk_keeps {ch : Nat} {s : State} {next : State} (h : execFltClrRdbk ch s = .next next) : Keeps 0x3dffffffffffe s next := by
  unfold execFltClrRdbk at h
  cases h
  skip
  repeat' first
    | with_reducible exact Keeps.refl _ _
    | with_reducible assumption
    | ((with_reducible apply State.hostWrite_keeps); (case hm => exact rfl))
    | split
    | (dsimp only)

theorem execFltClrLswSc_keeps {ch : Nat} {s : State} {next : State} (h : execFltClrLswSc ch s = .next next) : Keeps 0x3dffffffffffe s next := by
  unfold execFltClrLswSc at h
  cases h
  skip
  repeat' first
    | with_reducible exact Keeps.refl _ _
    | with_reducible assumption
    | ((with_reducible apply State.hostWrite_keeps); (case hm => exact rfl))
    | split
    | (dsimp only)

theorem execFltClrLswOt_keeps {ch : Nat} {s : State} {next : State} (h : execFltClrLswOt ch s = .next next) : Keeps 0x3dffffffffffe s next := by
  unfold execFltClrLswOt at h
  cases h
  skip
  repeat' first
    | with_reducible exact Keeps.refl _ _
    | with_reducible assumption
    | ((with_reducible apply State.hostWrite_keeps); (case hm => exact rfl))
    | split
    | (dsimp only)

theorem execFltClrOvv_keeps {ch : Nat} {pin : Int} {s : State} {next : State} (h : execFltClrOvv ch pin s = .next next) : Keeps 0x3dffffffffffe s next := by
  unfold execFltClrOvv at h
  cases h
  skip
  repeat' first
    | with_reducible exact Keeps.refl _ _
    | with_reducible assumption
    | ((with_reducible apply State.seenPin_keeps); (case hm => exact rfl))
    | ((with_reducible apply State.hostWrite_keeps); (case hm => exact rfl))
    | split
    | (dsimp only)

theorem execOvvDetect_keeps {ch : Nat} {pin : Int} {s : State} {next : State} (h : execOvvDetect ch pin s = .next next) : Keeps 0x40104 s next := by
  unfold execOvvDetect at h
  cases h
  unfold State.onChan
  repeat' first
    | with_reducible exact Keeps.refl _ _
    | with_reducible assumption
    | ((with_reducible apply State.ovv_keeps); (case hm => exact rfl))
    | split
    | (dsimp only)

theorem execOvvAutoReentry_keeps {ch : Nat} {pin : Int} {s : State} {next : State} (h : execOvvAutoReentry ch pin s = .next next) : Keeps 0x106 s next := by
  unfold execOvvAutoReentry at h
  cases h
  unfold State.onChan
  repeat' first
    | with_reducible exact Keeps.refl _ _
    | with_reducible assumption
    | ((with_reducible apply State.ovvAuto_keeps); (case hm => exact rfl))
    | split
    | (dsimp only)

theorem execOviDetect_keeps {ch : Nat} {ua : Int} {s : State} {next : State} (h : execOviDetect ch ua s = .next next) : Keeps 0x40104 s next := by
  unfold execOviDetect at h
  cases h
  unfold State.onChan
  repeat' first
    | with_reducible exact Keeps.refl _ _
    | with_reducible assumption
    | ((with_reducible apply State.ovi_keeps); (case hm => exact rfl))
    | split
    | (dsimp only)

theorem execBurdenClosure_keeps {ch : Nat} {s : State} {next : State} (h : execBurdenClosure ch s = .next next) : Keeps 0x106 s next := by
  unfold execBurdenClosure at h
  cases h
  unfold State.onChan
  repeat' first
    | with_reducible exact Keeps.refl _ _
    | with_reducible assumption
    | ((with_reducible apply State.burdenCloses_keeps); (case hm => exact rfl))
    | split
    | (dsimp only)

theorem execBurdenClosureEnd_keeps {ch : Nat} {ua : Int} {s : State} {next : State} (h : execBurdenClosureEnd ch ua s = .next next) : Keeps 0x106 s next := by
  unfold execBurdenClosureEnd at h
  cases h
  unfold State.onChan
  repeat' first
    | with_reducible exact Keeps.refl _ _
    | with_reducible assumption
    | ((with_reducible apply State.burdenJudged_keeps); (case hm => exact rfl))
    | split
    | (dsimp only)

theorem execLswSc_keeps {ch : Nat} {s : State} {next : State} (h : execLswSc ch s = .next next) : Keeps 0x40104 s next := by
  unfold execLswSc at h
  cases h
  unfold State.onChan
  repeat' first
    | with_reducible exact Keeps.refl _ _
    | with_reducible assumption
    | ((with_reducible apply State.lswEvent_keeps); (case hm => exact rfl))
    | split
    | (dsimp only)

theorem execLswOt_keeps {ch : Nat} {s : State} {next : State} (h : execLswOt ch s = .next next) : Keeps 0x40104 s next := by
  unfold execLswOt at h
  cases h
  unfold State.onChan
  repeat' first
    | with_reducible exact Keeps.refl _ _
    | with_reducible assumption
    | ((with_reducible apply State.lswEvent_keeps); (case hm => exact rfl))
    | split
    | (dsimp only)

theorem execLswOtRecovered_keeps {ch : Nat} {s : State} {next : State} (h : execLswOtRecovered ch s = .next next) : Keeps 0x40104 s next := by
  unfold execLswOtRecovered at h
  cases h
  unfold State.onChan
  repeat' first
    | with_reducible exact Keeps.refl _ _
    | with_reducible assumption
    | ((with_reducible apply State.otRecovered_keeps); (case hm => exact rfl))
    | split
    | (dsimp only)

theorem execDiDebounce_keeps {ch : Nat} {mv : Int} {s : State} {next : State} (h : execDiDebounce ch mv s = .next next) : Keeps 0x106 s next := by
  unfold execDiDebounce at h
  cases h
  unfold State.onChan
  repeat' first
    | with_reducible exact Keeps.refl _ _
    | with_reducible assumption
    | ((with_reducible apply State.diLevel_keeps); (case hm => exact rfl))
    | split
    | (dsimp only)

theorem execTachEdge_keeps {ch : Nat} {dt : Nat} {s : State} {next : State} (h : execTachEdge ch dt s = .next next) : Keeps 0x106 s next := by
  unfold execTachEdge at h
  cases h
  unfold State.onChan
  repeat' first
    | with_reducible exact Keeps.refl _ _
    | with_reducible assumption
    | ((with_reducible apply State.tachEdge_keeps); (case hm => exact rfl))
    | split
    | (dsimp only)

theorem execTachTimeout_keeps {ch : Nat} {s : State} {next : State} (h : execTachTimeout ch s = .next next) : Keeps 0x106 s next := by
  unfold execTachTimeout at h
  cases h
  unfold State.onChan
  repeat' first
    | with_reducible exact Keeps.refl _ _
    | with_reducible assumption
    | ((with_reducible apply State.tachQuiet_keeps); (case hm => exact rfl))
    | split
    | (dsimp only)

theorem execCountPulse_keeps {ch : Nat} {lowUs : Nat} {s : State} {next : State} (h : execCountPulse ch lowUs s = .next next) : Keeps 0x104 s next := by
  unfold execCountPulse at h
  cases h
  unfold State.onChan
  repeat' first
    | with_reducible exact Keeps.refl _ _
    | with_reducible assumption
    | ((with_reducible apply State.countLow_keeps); (case hm => exact rfl))
    | split
    | (dsimp only)

theorem execFltFailsafeTimeout_keeps {ch : Nat} {s : State} {next : State} (h : execFltFailsafeTimeout ch s = .next next) : Keeps 0x106 s next := by
  unfold execFltFailsafeTimeout at h
  cases h
  unfold State.onChan
  repeat' first
    | with_reducible exact Keeps.refl _ _
    | with_reducible assumption
    | ((with_reducible apply State.failsafeEnds_keeps); (case hm => exact rfl))
    | split
    | (dsimp only)

end Sys2Proof.Machine
end

