-- ==== Sys2Proof/Laws/KeepsCmdConv.lean ====
section
/-! SUPPORT. What each operation of Machine/CmdConv.lean may touch (Laws/Keeps.lean): the mask lists the fields it may change,
and the invariant of the block is kept. -/
set_option Elab.async false
set_option linter.all false
namespace Sys2Proof.Machine

theorem State.scanStep_keeps {n0 : Nat} {s0 : State} {s : State} {c : Nat} {code : Nat} {ovf : Bool} {hi : Bool} (hK : Keeps n0 s0 s) (hm : Keeps.sub 0x800000c0006 n0 = true) :
    Keeps n0 s0 (State.scanStep s c code ovf hi) := by
  refine Keeps.step hK ?_ hm
  clear hK hm
  unfold State.scanStep
  repeat' first
    | with_reducible exact Keeps.refl _ _
    | with_reducible assumption
    | (extract_lets +onlyGivenNames -underBinder x; (with_reducible refine Keeps.cut (v := x) ?_ (fun hx => ?_)); subst x; rotate_left; clear_value x; rotate_right)
    | (extract_lets +onlyGivenNames -underBinder x; clear_value x)
    | ((with_reducible apply State.railSample_keeps); (case hm => exact rfl))
    | ((with_reducible apply State.conversionDone_keeps); (case hm => exact rfl))
    | split
    | (dsimp only)

theorem State.urgentGive_keeps {n0 : Nat} {s0 : State} {s : State} {c : Nat} {code : Nat} {ovf : Bool} {hi : Bool} (hK : Keeps n0 s0 s) (hm : Keeps.sub 0x180000c0106 n0 = true) :
    Keeps n0 s0 (State.urgentGive s c code ovf hi) := by
  refine Keeps.step hK ?_ hm
  clear hK hm
  unfold State.urgentGive
  repeat' first
    | with_reducible exact Keeps.refl _ _
    | with_reducible assumption
    | (extract_lets +onlyGivenNames -underBinder x; (have hfn : Option _ := x; clear hfn); subst x; dsimp only)
    | (extract_lets +onlyGivenNames -underBinder x; (with_reducible refine Keeps.cut (v := x) ?_ (fun hx => ?_)); subst x; rotate_left; clear_value x; rotate_right)
    | (extract_lets +onlyGivenNames -underBinder x; clear_value x)
    | ((with_reducible apply State.blkSampleDone_keeps); (case hm => exact rfl))
    | ((with_reducible apply State.verifyResult_keeps); (case hm => exact rfl))
    | ((with_reducible apply State.fanSampleDone_keeps); (case hm => exact rfl))
    | ((with_reducible apply State.urgentDone_keeps); (case hq => assumption); (case hm => exact rfl))
    | (with_reducible refine Keeps.ofP2 (by assumption) ?_)
    | (with_reducible refine Keeps.ofP1 (by assumption) ?_)
    | (with_reducible refine Keeps.ofP3 (by assumption) ?_)
    | split
    | (dsimp only)

theorem State.tempEnds_keeps {n0 : Nat} {s0 : State} {s : State} {c : Nat} (hK : Keeps n0 s0 s) (hm : Keeps.sub 0xc0506 n0 = true) :
    Keeps n0 s0 (State.tempEnds s c) := by
  refine Keeps.step hK ?_ hm
  clear hK hm
  unfold State.tempEnds
  repeat' first
    | with_reducible exact Keeps.refl _ _
    | with_reducible assumption
    | ((with_reducible apply State.tjCheck_keeps); (case hm => exact rfl))
    | ((with_reducible apply State.derate_keeps); (case hm => exact rfl))
    | ((with_reducible apply State.tempBlock_keeps); (case hm => exact rfl))
    | (dsimp only)

theorem execConversionDone_keeps {core : Nat} {code : Nat} {ovf : Bool} {hi : Bool} {s : State} {next : State} (h : execConversionDone core code ovf hi s = .next next) : Keeps 0x800000c0006 s next := by
  unfold execConversionDone at h
  cases h
  unfold State.onCore
  repeat' first
    | with_reducible exact Keeps.refl _ _
    | with_reducible assumption
    | ((with_reducible apply State.scanStep_keeps); (case hm => exact rfl))
    | split
    | (dsimp only)

theorem execDischargeEnd_keeps {core : Nat} {s : State} {next : State} (h : execDischargeEnd core s = .next next) : Keeps 0xc0006 s next := by
  unfold execDischargeEnd at h
  cases h
  unfold State.onCore
  repeat' first
    | with_reducible exact Keeps.refl _ _
    | with_reducible assumption
    | ((with_reducible apply State.dischargeEnd_keeps); (case hm => exact rfl))
    | split
    | (dsimp only)

theorem execIntervalEnd_keeps {ch : Nat} {s : State} {next : State} (h : execIntervalEnd ch s = .next next) : Keeps 0x800c0106 s next := by
  unfold execIntervalEnd at h
  cases h
  unfold State.onCore
  repeat' first
    | with_reducible exact Keeps.refl _ _
    | with_reducible assumption
    | ((with_reducible apply State.intervalEnd_keeps); (case hm => exact rfl))
    | ((with_reducible apply State.pirProcess_keeps); (case hm => exact rfl))
    | split
    | (dsimp only)

theorem execSluiceRequest_keeps {core : Nat} {slot : Nat} {s : State} {next : State} (h : execSluiceRequest core slot s = .next next) : Keeps 0x3dffffffffffe s next := by
  unfold execSluiceRequest at h
  cases h
  skip
  repeat' first
    | with_reducible exact Keeps.refl _ _
    | with_reducible assumption
    | ((with_reducible apply State.hostWrite_keeps); (case hm => exact rfl))
    | split
    | (dsimp only)

theorem execUrgentStart_keeps {core : Nat} {s : State} {next : State} (h : execUrgentStart core s = .next next) : Keeps 0x80006 s next := by
  unfold execUrgentStart at h
  cases h
  unfold State.onCore
  repeat' first
    | with_reducible exact Keeps.refl _ _
    | with_reducible assumption
    | ((with_reducible apply State.urgentStart_keeps); (case hm => exact rfl))
    | split
    | (dsimp only)

theorem execUrgentResult_keeps {core : Nat} {code : Nat} {ovf : Bool} {hi : Bool} {s : State} {next : State} (h : execUrgentResult core code ovf hi s = .next next) : Keeps 0x180000c0106 s next := by
  unfold execUrgentResult at h
  cases h
  unfold State.onCore
  repeat' first
    | with_reducible exact Keeps.refl _ _
    | with_reducible assumption
    | ((with_reducible apply State.urgentGive_keeps); (case hm => exact rfl))
    | split
    | (dsimp only)

theorem execSelfCheckBlockEnd_keeps {core : Nat} {s : State} {next : State} (h : execSelfCheckBlockEnd core s = .next next) : Keeps 0xc0004 s next := by
  unfold execSelfCheckBlockEnd at h
  cases h
  unfold State.onCore
  repeat' first
    | with_reducible exact Keeps.refl _ _
    | with_reducible assumption
    | ((with_reducible apply State.selfCheckBlock_keeps); (case hm => exact rfl))
    | split
    | (dsimp only)

theorem execStall_keeps {core : Nat} {s : State} {next : State} (h : execStall core s = .next next) : Keeps 0x1c7f9c7ac073e s next := by
  unfold execStall at h
  cases h
  unfold State.coreStall State.onCore
  repeat' first
    | with_reducible exact Keeps.refl _ _
    | with_reducible assumption
    | (extract_lets +onlyGivenNames -underBinder x; (with_reducible refine Keeps.cut (v := x) ?_ (fun hx => ?_)); subst x; rotate_left; clear_value x; rotate_right)
    | (extract_lets +onlyGivenNames -underBinder x; clear_value x)
    | ((with_reducible apply State.softReset_keeps); (case hm => exact rfl))
    | ((with_reducible apply State.setB_keeps); (case hm => exact rfl))
    | ((with_reducible apply State.irq_keeps); (case hm => exact rfl))
    | ((with_reducible apply State.at__keeps); (case hm => exact rfl))
    | ((with_reducible apply State.setWord_keeps); (case hm => exact rfl))
    | ((with_reducible apply State.coreFaces_keeps); (case hm => exact rfl))
    | ((with_reducible apply State.modCore_keeps); (case hm => exact rfl))
    | ((with_reducible apply State.raise_keeps); (case hm => exact rfl))
    | (with_reducible refine Keeps.fold _ _ ?_ (fun u b hu => ?_))
    | split
    | (dsimp only)

theorem execTempBlockEnd_keeps {core : Nat} {s : State} {next : State} (h : execTempBlockEnd core s = .next next) : Keeps 0xc0506 s next := by
  unfold execTempBlockEnd at h
  cases h
  unfold State.onCore
  repeat' first
    | with_reducible exact Keeps.refl _ _
    | with_reducible assumption
    | ((with_reducible apply State.tempEnds_keeps); (case hm => exact rfl))
    | split
    | (dsimp only)

theorem execCorrectionWrite_keeps {core : Nat} {slot : Nat} {gain : Bool} {w : Word} {s : State} {next : State} (h : execCorrectionWrite core slot gain w s = .next next) : Keeps 0x3dffffffffffe s next := by
  unfold execCorrectionWrite at h
  cases h
  skip
  repeat' first
    | with_reducible exact Keeps.refl _ _
    | with_reducible assumption
    | ((with_reducible apply State.hostWrite_keeps); (case hm => exact rfl))
    | split
    | (dsimp only)

end Sys2Proof.Machine
end

