-- ==== Sys2Proof/Laws/KeepsCmdSense.lean ====
section
/-! SUPPORT. What each operation of Machine/CmdSense.lean may touch (Laws/Keeps.lean): the mask lists the fields it may change,
and the invariant of the block is kept. -/
set_option Elab.async false
set_option linter.all false
namespace Sys2Proof.Machine

theorem execXformWrite_keeps {addr : Nat} {w : Word} {s : State} {next : State} (h : execXformWrite addr w s = .next next) : Keeps 0x3dffffffffffe s next := by
  unfold execXformWrite at h
  cases h
  skip
  repeat' first
    | with_reducible exact Keeps.refl _ _
    | with_reducible assumption
    | ((with_reducible apply State.hostWrite_keeps); (case hm => exact rfl))
    | split
    | (dsimp only)

theorem execPollCycleStart_keeps {port : Nat} {s : State} {next : State} (h : execPollCycleStart port s = .next next) : Keeps 0x40040004 s next := by
  unfold execPollCycleStart at h
  cases h
  unfold State.onBus
  repeat' first
    | with_reducible exact Keeps.refl _ _
    | with_reducible assumption
    | ((with_reducible apply State.pollStart_keeps); (case hm => exact rfl))
    | split
    | (dsimp only)

theorem execModbusReply_keeps {port : Nat} {bytes : List Byte} {s : State} {next : State} (h : execModbusReply port bytes s = .next next) : Keeps 0x40040004 s next := by
  unfold execModbusReply at h
  cases h
  unfold State.onBus
  repeat' first
    | with_reducible exact Keeps.refl _ _
    | with_reducible assumption
    | ((with_reducible apply State.modbusReply_keeps); (case hm => exact rfl))
    | split
    | (dsimp only)

theorem execReplyTimeout_keeps {port : Nat} {s : State} {next : State} (h : execReplyTimeout port s = .next next) : Keeps 0x40040006 s next := by
  unfold execReplyTimeout at h
  cases h
  unfold State.onBus
  repeat' first
    | with_reducible exact Keeps.refl _ _
    | with_reducible assumption
    | ((with_reducible apply State.replyTimeout_keeps); (case hm => exact rfl))
    | split
    | (dsimp only)

theorem execRetryGapEnd_keeps {port : Nat} {s : State} {next : State} (h : execRetryGapEnd port s = .next next) : Keeps 0x40000002 s next := by
  unfold execRetryGapEnd at h
  cases h
  unfold State.onBus
  repeat' first
    | with_reducible exact Keeps.refl _ _
    | with_reducible assumption
    | ((with_reducible apply State.retryGapEnd_keeps); (case hm => exact rfl))
    | split
    | (dsimp only)

end Sys2Proof.Machine
end

