-- ==== Sys2Proof/Laws/KeepsCmdZone.lean ====
section
/-! SUPPORT. What each operation of Machine/CmdZone.lean may touch (Laws/Keeps.lean): the mask lists the fields it may change,
and the invariant of the block is kept. -/
set_option Elab.async false
set_option linter.all false
namespace Sys2Proof.Machine

theorem State.snapshotRun_keeps {n0 : Nat} {s0 : State} {s : State} (hK : Keeps n0 s0 s) (hm : Keeps.sub 0x800006 n0 = true) :
    Keeps n0 s0 (State.snapshotRun s) := by
  refine Keeps.step hK ?_ hm
  clear hK hm
  unfold State.snapshotRun
  repeat' first
    | with_reducible exact Keeps.refl _ _
    | with_reducible assumption
    | (extract_lets +onlyGivenNames -underBinder x; (with_reducible refine Keeps.cut (v := x) ?_ (fun hx => ?_)); subst x; rotate_left; clear_value x; rotate_right)
    | (extract_lets +onlyGivenNames -underBinder x; clear_value x)
    | ((with_reducible apply State.irq_keeps); (case hm => exact rfl))
    | ((with_reducible apply State.at__keeps); (case hm => exact rfl))
    | ((with_reducible apply State.engineRun_keeps); (case hm => exact rfl))
    | (with_reducible refine Keeps.ofP2 (by assumption) ?_)
    | (with_reducible refine Keeps.ofP1 (by assumption) ?_)
    | (with_reducible refine Keeps.ofP3 (by assumption) ?_)
    | split
    | (dsimp only)

theorem execZoneModeWrite_keeps {zone : Nat} {lv : Nat} {mode : Nat} {s : State} {next : State} (h : execZoneModeWrite zone lv mode s = .next next) : Keeps 0x3dffffffffffe s next := by
  unfold execZoneModeWrite at h
  cases h
  skip
  repeat' first
    | with_reducible exact Keeps.refl _ _
    | with_reducible assumption
    | ((with_reducible apply State.hostWrite_keeps); (case hm => exact rfl))
    | split
    | (dsimp only)

theorem execZoneModeRelinquish_keeps {zone : Nat} {lv : Nat} {s : State} {next : State} (h : execZoneModeRelinquish zone lv s = .next next) : Keeps 0x3dffffffffffe s next := by
  unfold execZoneModeRelinquish at h
  cases h
  skip
  repeat' first
    | with_reducible exact Keeps.refl _ _
    | with_reducible assumption
    | ((with_reducible apply State.hostWrite_keeps); (case hm => exact rfl))
    | split
    | (dsimp only)

theorem execFenModeWrite_keeps {fen : Nat} {lv : Nat} {mode : Nat} {s : State} {next : State} (h : execFenModeWrite fen lv mode s = .next next) : Keeps 0x3dffffffffffe s next := by
  unfold execFenModeWrite at h
  cases h
  skip
  repeat' first
    | with_reducible exact Keeps.refl _ _
    | with_reducible assumption
    | ((with_reducible apply State.hostWrite_keeps); (case hm => exact rfl))
    | split
    | (dsimp only)

theorem execFenModeRelinquish_keeps {fen : Nat} {lv : Nat} {s : State} {next : State} (h : execFenModeRelinquish fen lv s = .next next) : Keeps 0x3dffffffffffe s next := by
  unfold execFenModeRelinquish at h
  cases h
  skip
  repeat' first
    | with_reducible exact Keeps.refl _ _
    | with_reducible assumption
    | ((with_reducible apply State.hostWrite_keeps); (case hm => exact rfl))
    | split
    | (dsimp only)

theorem execSetpointWrite_keeps {zone : Nat} {mode : Nat} {w : Word} {s : State} {next : State} (h : execSetpointWrite zone mode w s = .next next) : Keeps 0x3dffffffffffe s next := by
  unfold execSetpointWrite at h
  cases h
  skip
  repeat' first
    | with_reducible exact Keeps.refl _ _
    | with_reducible assumption
    | ((with_reducible apply State.hostWrite_keeps); (case hm => exact rfl))
    | split
    | (dsimp only)

theorem execLoopParamWrite_keeps {loop : Nat} {off : Nat} {w : Word} {s : State} {next : State} (h : execLoopParamWrite loop off w s = .next next) : Keeps 0x3dffffffffffe s next := by
  unfold execLoopParamWrite at h
  cases h
  skip
  repeat' first
    | with_reducible exact Keeps.refl _ _
    | with_reducible assumption
    | ((with_reducible apply State.hostWrite_keeps); (case hm => exact rfl))
    | split
    | (dsimp only)

theorem execHeldFieldWrite_keeps {loop : Nat} {off : Nat} {w : Word} {s : State} {next : State} (h : execHeldFieldWrite loop off w s = .next next) : Keeps 0x3dffffffffffe s next := by
  unfold execHeldFieldWrite at h
  cases h
  skip
  repeat' first
    | with_reducible exact Keeps.refl _ _
    | with_reducible assumption
    | ((with_reducible apply State.hostWrite_keeps); (case hm => exact rfl))
    | (with_reducible refine Keeps.ofP2 (by assumption) ?_)
    | (with_reducible refine Keeps.ofP1 (by assumption) ?_)
    | (with_reducible refine Keeps.ofP3 (by assumption) ?_)
    | split
    | (dsimp only)

theorem execResetP_keeps {zone : Nat} {s : State} {next : State} (h : execResetP zone s = .next next) : Keeps 0x3dffffffffffe s next := by
  unfold execResetP at h
  cases h
  skip
  repeat' first
    | with_reducible exact Keeps.refl _ _
    | with_reducible assumption
    | ((with_reducible apply State.hostWrite_keeps); (case hm => exact rfl))
    | split
    | (dsimp only)

theorem execResetTheta_keeps {zone : Nat} {s : State} {next : State} (h : execResetTheta zone s = .next next) : Keeps 0x3dffffffffffe s next := by
  unfold execResetTheta at h
  cases h
  skip
  repeat' first
    | with_reducible exact Keeps.refl _ _
    | with_reducible assumption
    | ((with_reducible apply State.hostWrite_keeps); (case hm => exact rfl))
    | split
    | (dsimp only)

theorem execThetaWrite_keeps {zone : Nat} {i : Nat} {w : Word} {s : State} {next : State} (h : execThetaWrite zone i w s = .next next) : Keeps 0x3dffffffffffe s next := by
  unfold execThetaWrite at h
  cases h
  skip
  repeat' first
    | with_reducible exact Keeps.refl _ _
    | with_reducible assumption
    | ((with_reducible apply State.hostWrite_keeps); (case hm => exact rfl))
    | split
    | (dsimp only)

theorem execModelSnapshot_keeps {s : State} {next : State} (h : execModelSnapshot s = .next next) : Keeps 0x800006 s next := by
  unfold execModelSnapshot at h
  cases h
  skip
  repeat' first
    | with_reducible exact Keeps.refl _ _
    | with_reducible assumption
    | ((with_reducible apply State.snapshotRun_keeps); (case hm => exact rfl))
    | split
    | (dsimp only)

end Sys2Proof.Machine
end

