-- ==== Sys2Proof/Laws/KeepsCmdFan.lean ====
section
/-! SUPPORT. What each operation of Machine/CmdFan.lean may touch (Laws/Keeps.lean): the mask lists the fields it may change,
and the invariant of the block is kept. -/
set_option Elab.async false
set_option linter.all false
namespace Sys2Proof.Machine

theorem State.fanStartDue_keeps {n0 : Nat} {s0 : State} {s : State} {g : Nat} (hK : Keeps n0 s0 s) (hm : Keeps.sub 0x100190b1806 n0 = true) :
    Keeps n0 s0 (State.fanStartDue s g) := by
  refine Keeps.step hK ?_ hm
  clear hK hm
  unfold State.fanStartDue State.fanDue
  repeat' first
    | with_reducible exact Keeps.refl _ _
    | with_reducible assumption
    | (extract_lets +onlyGivenNames -underBinder x; (with_reducible refine Keeps.cut (v := x) ?_ (fun hx => ?_)); subst x; rotate_left; clear_value x; rotate_right)
    | (extract_lets +onlyGivenNames -underBinder x; clear_value x)
    | ((with_reducible apply State.fanStartEnd_keeps); (case hm => exact rfl))
    | ((with_reducible apply State.fanVerify_keeps); (case hm => exact rfl))
    | ((with_reducible apply State.fanTo_keeps); (case hm => exact rfl))
    | ((with_reducible apply State.at__keeps); (case hm => exact rfl))
    | ((with_reducible apply State.fanFinish_keeps); (case hm => exact rfl))
    | (with_reducible refine Keeps.ofP2 (by assumption) ?_)
    | (with_reducible refine Keeps.ofP1 (by assumption) ?_)
    | (with_reducible refine Keeps.ofP3 (by assumption) ?_)
    | split
    | (dsimp only)

theorem State.fanPulseDue_keeps {n0 : Nat} {s0 : State} {s : State} {g : Nat} (hK : Keeps n0 s0 s) (hm : Keeps.sub 0x19031802 n0 = true) :
    Keeps n0 s0 (State.fanPulseDue s g) := by
  refine Keeps.step hK ?_ hm
  clear hK hm
  unfold State.fanPulseDue State.fanDue
  repeat' first
    | with_reducible exact Keeps.refl _ _
    | with_reducible assumption
    | (extract_lets +onlyGivenNames -underBinder x; (with_reducible refine Keeps.cut (v := x) ?_ (fun hx => ?_)); subst x; rotate_left; clear_value x; rotate_right)
    | (extract_lets +onlyGivenNames -underBinder x; clear_value x)
    | ((with_reducible apply State.fanPulseEnd_keeps); (case hm => exact rfl))
    | ((with_reducible apply State.at__keeps); (case hm => exact rfl))
    | ((with_reducible apply State.fanFinish_keeps); (case hm => exact rfl))
    | (with_reducible refine Keeps.ofP2 (by assumption) ?_)
    | (with_reducible refine Keeps.ofP1 (by assumption) ?_)
    | (with_reducible refine Keeps.ofP3 (by assumption) ?_)
    | split
    | (dsimp only)

theorem State.fanOffDue_keeps {n0 : Nat} {s0 : State} {s : State} {g : Nat} (hK : Keeps n0 s0 s) (hm : Keeps.sub 0x19031802 n0 = true) :
    Keeps n0 s0 (State.fanOffDue s g) := by
  refine Keeps.step hK ?_ hm
  clear hK hm
  unfold State.fanOffDue State.fanDue
  repeat' first
    | with_reducible exact Keeps.refl _ _
    | with_reducible assumption
    | (extract_lets +onlyGivenNames -underBinder x; (with_reducible refine Keeps.cut (v := x) ?_ (fun hx => ?_)); subst x; rotate_left; clear_value x; rotate_right)
    | (extract_lets +onlyGivenNames -underBinder x; clear_value x)
    | ((with_reducible apply State.fanTo_keeps); (case hm => exact rfl))
    | ((with_reducible apply State.at__keeps); (case hm => exact rfl))
    | ((with_reducible apply State.fanFinish_keeps); (case hm => exact rfl))
    | (with_reducible refine Keeps.ofP2 (by assumption) ?_)
    | (with_reducible refine Keeps.ofP1 (by assumption) ?_)
    | (with_reducible refine Keeps.ofP3 (by assumption) ?_)
    | split
    | (dsimp only)

theorem State.fanKickDue_keeps {n0 : Nat} {s0 : State} {s : State} {g : Nat} (hK : Keeps n0 s0 s) (hm : Keeps.sub 0x19031802 n0 = true) :
    Keeps n0 s0 (State.fanKickDue s g) := by
  refine Keeps.step hK ?_ hm
  clear hK hm
  unfold State.fanKickDue State.fanDue
  repeat' first
    | with_reducible exact Keeps.refl _ _
    | with_reducible assumption
    | (extract_lets +onlyGivenNames -underBinder x; (with_reducible refine Keeps.cut (v := x) ?_ (fun hx => ?_)); subst x; rotate_left; clear_value x; rotate_right)
    | (extract_lets +onlyGivenNames -underBinder x; clear_value x)
    | ((with_reducible apply State.fanKickEnd_keeps); (case hm => exact rfl))
    | ((with_reducible apply State.at__keeps); (case hm => exact rfl))
    | ((with_reducible apply State.fanFinish_keeps); (case hm => exact rfl))
    | (with_reducible refine Keeps.ofP2 (by assumption) ?_)
    | (with_reducible refine Keeps.ofP1 (by assumption) ?_)
    | (with_reducible refine Keeps.ofP3 (by assumption) ?_)
    | split
    | (dsimp only)

theorem State.fanLearnDue_keeps {n0 : Nat} {s0 : State} {s : State} {g : Nat} (hK : Keeps n0 s0 s) (hm : Keeps.sub 0x19831806 n0 = true) :
    Keeps n0 s0 (State.fanLearnDue s g) := by
  refine Keeps.step hK ?_ hm
  clear hK hm
  unfold State.fanLearnDue State.fanDue
  repeat' first
    | with_reducible exact Keeps.refl _ _
    | with_reducible assumption
    | (extract_lets +onlyGivenNames -underBinder x; (with_reducible refine Keeps.cut (v := x) ?_ (fun hx => ?_)); subst x; rotate_left; clear_value x; rotate_right)
    | (extract_lets +onlyGivenNames -underBinder x; clear_value x)
    | ((with_reducible apply State.fanPointEnd_keeps); (case hm => exact rfl))
    | ((with_reducible apply State.at__keeps); (case hm => exact rfl))
    | ((with_reducible apply State.fanFinish_keeps); (case hm => exact rfl))
    | (with_reducible refine Keeps.ofP2 (by assumption) ?_)
    | (with_reducible refine Keeps.ofP1 (by assumption) ?_)
    | (with_reducible refine Keeps.ofP3 (by assumption) ?_)
    | split
    | (dsimp only)

theorem State.fanAgeDue_keeps {n0 : Nat} {s0 : State} {s : State} {g : Nat} (hK : Keeps n0 s0 s) (hm : Keeps.sub 0x19031802 n0 = true) :
    Keeps n0 s0 (State.fanAgeDue s g) := by
  refine Keeps.step hK ?_ hm
  clear hK hm
  unfold State.fanAgeDue State.fanDue
  repeat' first
    | with_reducible exact Keeps.refl _ _
    | with_reducible assumption
    | (extract_lets +onlyGivenNames -underBinder x; (with_reducible refine Keeps.cut (v := x) ?_ (fun hx => ?_)); subst x; rotate_left; clear_value x; rotate_right)
    | (extract_lets +onlyGivenNames -underBinder x; clear_value x)
    | ((with_reducible apply State.fanMinute_keeps); (case hm => exact rfl))
    | ((with_reducible apply State.at__keeps); (case hm => exact rfl))
    | ((with_reducible apply State.fanFinish_keeps); (case hm => exact rfl))
    | (with_reducible refine Keeps.ofP2 (by assumption) ?_)
    | (with_reducible refine Keeps.ofP1 (by assumption) ?_)
    | (with_reducible refine Keeps.ofP3 (by assumption) ?_)
    | split
    | (dsimp only)

theorem execParamRetune_keeps {w : Word} {s : State} {next : State} (h : execParamRetune w s = .next next) : Keeps 0x3dffffffffffe s next := by
  unfold execParamRetune at h
  cases h
  skip
  repeat' first
    | with_reducible exact Keeps.refl _ _
    | with_reducible assumption
    | ((with_reducible apply State.hostWrite_keeps); (case hm => exact rfl))
    | (dsimp only)

theorem execViewLoad_keeps {w : Word} {s : State} {next : State} (h : execViewLoad w s = .next next) : Keeps 0x3dffffffffffe s next := by
  unfold execViewLoad at h
  cases h
  skip
  repeat' first
    | with_reducible exact Keeps.refl _ _
    | with_reducible assumption
    | ((with_reducible apply State.hostWrite_keeps); (case hm => exact rfl))
    | (dsimp only)

theorem execFanStartTimeout_keeps {fan : Nat} {s : State} {next : State} (h : execFanStartTimeout fan s = .next next) : Keeps 0x100190b1806 s next := by
  unfold execFanStartTimeout at h
  cases h
  unfold State.onFan
  repeat' first
    | with_reducible exact Keeps.refl _ _
    | with_reducible assumption
    | ((with_reducible apply State.fanStartDue_keeps); (case hm => exact rfl))
    | split
    | (dsimp only)

theorem execFanPulseTimeout_keeps {fan : Nat} {s : State} {next : State} (h : execFanPulseTimeout fan s = .next next) : Keeps 0x19031802 s next := by
  unfold execFanPulseTimeout at h
  cases h
  unfold State.onFan
  repeat' first
    | with_reducible exact Keeps.refl _ _
    | with_reducible assumption
    | ((with_reducible apply State.fanPulseDue_keeps); (case hm => exact rfl))
    | split
    | (dsimp only)

theorem execRetryOffEnd_keeps {fan : Nat} {s : State} {next : State} (h : execRetryOffEnd fan s = .next next) : Keeps 0x19031802 s next := by
  unfold execRetryOffEnd at h
  cases h
  unfold State.onFan
  repeat' first
    | with_reducible exact Keeps.refl _ _
    | with_reducible assumption
    | ((with_reducible apply State.fanOffDue_keeps); (case hm => exact rfl))
    | split
    | (dsimp only)

theorem execKickEnd_keeps {fan : Nat} {s : State} {next : State} (h : execKickEnd fan s = .next next) : Keeps 0x19031802 s next := by
  unfold execKickEnd at h
  cases h
  unfold State.onFan
  repeat' first
    | with_reducible exact Keeps.refl _ _
    | with_reducible assumption
    | ((with_reducible apply State.fanKickDue_keeps); (case hm => exact rfl))
    | split
    | (dsimp only)

theorem execFanFltClr_keeps {fan : Nat} {s : State} {next : State} (h : execFanFltClr fan s = .next next) : Keeps 0x3dffffffffffe s next := by
  unfold execFanFltClr at h
  cases h
  skip
  repeat' first
    | with_reducible exact Keeps.refl _ _
    | with_reducible assumption
    | ((with_reducible apply State.hostWrite_keeps); (case hm => exact rfl))
    | split
    | (dsimp only)

theorem execLearn_keeps {fan : Nat} {s : State} {next : State} (h : execLearn fan s = .next next) : Keeps 0x3dffffffffffe s next := by
  unfold execLearn at h
  cases h
  skip
  repeat' first
    | with_reducible exact Keeps.refl _ _
    | with_reducible assumption
    | ((with_reducible apply State.hostWrite_keeps); (case hm => exact rfl))
    | split
    | (dsimp only)

theorem execLearnAbort_keeps {fan : Nat} {s : State} {next : State} (h : execLearnAbort fan s = .next next) : Keeps 0x3dffffffffffe s next := by
  unfold execLearnAbort at h
  cases h
  skip
  repeat' first
    | with_reducible exact Keeps.refl _ _
    | with_reducible assumption
    | ((with_reducible apply State.hostWrite_keeps); (case hm => exact rfl))
    | split
    | (dsimp only)

theorem execLearnPointEnd_keeps {fan : Nat} {s : State} {next : State} (h : execLearnPointEnd fan s = .next next) : Keeps 0x19831806 s next := by
  unfold execLearnPointEnd at h
  cases h
  unfold State.onFan
  repeat' first
    | with_reducible exact Keeps.refl _ _
    | with_reducible assumption
    | ((with_reducible apply State.fanLearnDue_keeps); (case hm => exact rfl))
    | split
    | (dsimp only)

theorem execAgeUpdate_keeps {fan : Nat} {s : State} {next : State} (h : execAgeUpdate fan s = .next next) : Keeps 0x19031802 s next := by
  unfold execAgeUpdate at h
  cases h
  unfold State.onFan
  repeat' first
    | with_reducible exact Keeps.refl _ _
    | with_reducible assumption
    | ((with_reducible apply State.fanAgeDue_keeps); (case hm => exact rfl))
    | split
    | (dsimp only)

end Sys2Proof.Machine
end

