-- ==== Sys2Proof/Laws/KeepsCmdCal.lean ====
section
/-! SUPPORT. What each operation of Machine/CmdCal.lean may touch (Laws/Keeps.lean): the mask lists the fields it may change,
and the invariant of the block is kept. -/
set_option Elab.async false
set_option linter.all false
namespace Sys2Proof.Machine

theorem execCalSet_keeps {lo : Word} {hi : Word} {s : State} {next : State} (h : execCalSet lo hi s = .next next) : Keeps 0x3dffffffffffe s next := by
  unfold execCalSet at h
  cases h
  skip
  repeat' first
    | with_reducible exact Keeps.refl _ _
    | with_reducible assumption
    | ((with_reducible apply State.hostWrite_keeps); (case hm => exact rfl))
    | (dsimp only)

theorem execCalRangeEnd_keeps {s : State} {next : State} (h : execCalRangeEnd s = .next next) : Keeps 0x40006 s next := by
  unfold execCalRangeEnd at h
  cases h
  skip
  repeat' first
    | with_reducible exact Keeps.refl _ _
    | with_reducible assumption
    | ((with_reducible apply State.calRangeEnd_keeps); (case hm => exact rfl))
    | split
    | (dsimp only)

theorem execDstChange_keeps {s : State} {next : State} (h : execDstChange s = .next next) : Keeps 0x6 s next := by
  unfold execDstChange at h
  cases h
  skip
  repeat' first
    | with_reducible exact Keeps.refl _ _
    | with_reducible assumption
    | ((with_reducible apply State.dstChange_keeps); (case hm => exact rfl))
    | split
    | (dsimp only)

theorem execSchedApply_keeps {s : State} {next : State} (h : execSchedApply s = .next next) : Keeps 0x3dffffffffffe s next := by
  unfold execSchedApply at h
  cases h
  skip
  repeat' first
    | with_reducible exact Keeps.refl _ _
    | with_reducible assumption
    | ((with_reducible apply State.hostWrite_keeps); (case hm => exact rfl))
    | (dsimp only)

end Sys2Proof.Machine
end

