-- ==== Sys2Proof/Laws/KeepsCmdStore.lean ====
section
/-! SUPPORT. What each operation of Machine/CmdStore.lean may touch (Laws/Keeps.lean): the mask lists the fields it may change,
and the invariant of the block is kept. -/
set_option Elab.async false
set_option linter.all false
namespace Sys2Proof.Machine

theorem State.pageProgrammed_keeps {n0 : Nat} {s0 : State} {s : State} {ok : Bool} (hK : Keeps n0 s0 s) (hm : Keeps.sub 0x3c7fbc7fc27fe n0 = true) :
    Keeps n0 s0 (State.pageProgrammed s ok) := by
  refine Keeps.step hK ?_ hm
  clear hK hm
  unfold State.pageProgrammed
  repeat' first
    | with_reducible exact Keeps.refl _ _
    | with_reducible assumption
    | ((with_reducible apply State.pageDone_keeps); (case hm => exact rfl))
    | ((with_reducible apply State.runsEnded_keeps); (case hm => exact rfl))
    | (dsimp only)

theorem State.armExpire_keeps {n0 : Nat} {s0 : State} {s : State} (hK : Keeps n0 s0 s) (hm : Keeps.sub 0x800006 n0 = true) :
    Keeps n0 s0 (State.armExpire s) := by
  refine Keeps.step hK ?_ hm
  clear hK hm
  unfold State.armExpire
  repeat' first
    | with_reducible exact Keeps.refl _ _
    | with_reducible assumption
    | ((with_reducible apply State.at__keeps); (case hm => exact rfl))
    | ((with_reducible apply State.storeDisarm_keeps); (case hm => exact rfl))
    | (with_reducible refine Keeps.ofP2 (by assumption) ?_)
    | (with_reducible refine Keeps.ofP1 (by assumption) ?_)
    | (with_reducible refine Keeps.ofP3 (by assumption) ?_)
    | split
    | (dsimp only)

theorem State.wpChange_keeps {n0 : Nat} {s0 : State} {s : State} {high : Bool} (hK : Keeps n0 s0 s) (hm : Keeps.sub 0x800004 n0 = true) :
    Keeps n0 s0 (State.wpChange s high) := by
  refine Keeps.step hK ?_ hm
  clear hK hm
  unfold State.wpChange
  repeat' first
    | with_reducible exact Keeps.refl _ _
    | with_reducible assumption
    | (extract_lets +onlyGivenNames -underBinder x; (with_reducible refine Keeps.cut (v := x) ?_ (fun hx => ?_)); subst x; rotate_left; clear_value x; rotate_right)
    | (extract_lets +onlyGivenNames -underBinder x; clear_value x)
    | ((with_reducible apply State.setB_keeps); (case hm => exact rfl))
    | ((with_reducible apply State.irq_keeps); (case hm => exact rfl))
    | ((with_reducible apply State.updSto_keeps); (case hm => exact rfl); (case hf => first | exact id | exact (fun _ => rfl)))
    | ((with_reducible apply State.storeDisarm_keeps); (case hm => exact rfl))
    | split
    | (dsimp only)

theorem State.recallDone_keeps {n0 : Nat} {s0 : State} {s : State} (hK : Keeps n0 s0 s) (hm : Keeps.sub 0x3c00001840004 n0 = true) :
    Keeps n0 s0 (State.recallDone s) := by
  refine Keeps.step hK ?_ hm
  clear hK hm
  unfold State.recallDone
  repeat' first
    | with_reducible exact Keeps.refl _ _
    | with_reducible assumption
    | ((with_reducible apply State.levRecall_keeps); (case hm => exact rfl))
    | ((with_reducible apply State.fabStart_keeps); (case hm => exact rfl))
    | ((with_reducible apply State.storeRecall_keeps); (case hm => exact rfl))
    | ((with_reducible apply State.peatRecall_keeps); (case hm => exact rfl))
    | ((with_reducible apply State.levStart_keeps); (case hm => exact rfl))
    | ((with_reducible apply State.tmePowerUp_keeps); (case hm => exact rfl))
    | split
    | (dsimp only)

theorem State.reservationDone_keeps {n0 : Nat} {s0 : State} {s : State} (hK : Keeps n0 s0 s) (hm : Keeps.sub 0x1c00000840004 n0 = true) :
    Keeps n0 s0 (State.reservationDone s) := by
  refine Keeps.step hK ?_ hm
  clear hK hm
  unfold State.reservationDone
  repeat' first
    | with_reducible exact Keeps.refl _ _
    | with_reducible assumption
    | ((with_reducible apply State.levFaces_keeps); (case hm => exact rfl))
    | ((with_reducible apply State.originateWaiting_keeps); (case hm => exact rfl))
    | ((with_reducible apply State.updLev_keeps); (case hm => exact rfl))
    | split
    | (dsimp only)

theorem execStoreWindowWrite_keeps {t : Xact} {s : State} {next : State} (h : execStoreWindowWrite t s = .next next) : Keeps 0x3dffffffffffe s next := by
  unfold execStoreWindowWrite at h
  cases h
  skip
  repeat' first
    | with_reducible exact Keeps.refl _ _
    | with_reducible assumption
    | ((with_reducible apply State.hostXact_keeps); (case hm => exact rfl))
    | split
    | (dsimp only)

theorem execRunSetup_keeps {addr : Word} {len : Word} {s : State} {next : State} (h : execRunSetup addr len s = .next next) : Keeps 0x3dffffffffffe s next := by
  unfold execRunSetup at h
  cases h
  skip
  repeat' first
    | with_reducible exact Keeps.refl _ _
    | with_reducible assumption
    | ((with_reducible apply State.hostWrite_keeps); (case hm => exact rfl))
    | (dsimp only)

theorem execStoreRunPush_keeps {t : Xact} {s : State} {next : State} (h : execStoreRunPush t s = .next next) : Keeps 0x3dffffffffffe s next := by
  unfold execStoreRunPush at h
  cases h
  skip
  repeat' first
    | with_reducible exact Keeps.refl _ _
    | with_reducible assumption
    | ((with_reducible apply State.hostXact_keeps); (case hm => exact rfl))
    | split
    | (dsimp only)

theorem execRunGo_keeps {s : State} {next : State} (h : execRunGo s = .next next) : Keeps 0x3dffffffffffe s next := by
  unfold execRunGo at h
  cases h
  skip
  repeat' first
    | with_reducible exact Keeps.refl _ _
    | with_reducible assumption
    | ((with_reducible apply State.hostWrite_keeps); (case hm => exact rfl))
    | (dsimp only)

theorem execRunDiscard_keeps {s : State} {next : State} (h : execRunDiscard s = .next next) : Keeps 0x3dffffffffffe s next := by
  unfold execRunDiscard at h
  cases h
  skip
  repeat' first
    | with_reducible exact Keeps.refl _ _
    | with_reducible assumption
    | ((with_reducible apply State.hostWrite_keeps); (case hm => exact rfl))
    | (dsimp only)

theorem execPageProgrammed_keeps {ok : Bool} {s : State} {next : State} (h : execPageProgrammed ok s = .next next) : Keeps 0x3c7fbc7fc27fe s next := by
  unfold execPageProgrammed at h
  cases h
  skip
  repeat' first
    | with_reducible exact Keeps.refl _ _
    | with_reducible assumption
    | ((with_reducible apply State.pageProgrammed_keeps); (case hm => exact rfl))
    | (dsimp only)

theorem execStoreUnlock_keeps {w : Word} {s : State} {next : State} (h : execStoreUnlock w s = .next next) : Keeps 0x3dffffffffffe s next := by
  unfold execStoreUnlock at h
  cases h
  skip
  repeat' first
    | with_reducible exact Keeps.refl _ _
    | with_reducible assumption
    | ((with_reducible apply State.hostWrite_keeps); (case hm => exact rfl))
    | (dsimp only)

theorem execArmTimeout_keeps {s : State} {next : State} (h : execArmTimeout s = .next next) : Keeps 0x800006 s next := by
  unfold execArmTimeout at h
  cases h
  skip
  repeat' first
    | with_reducible exact Keeps.refl _ _
    | with_reducible assumption
    | ((with_reducible apply State.armExpire_keeps); (case hm => exact rfl))
    | split
    | (dsimp only)

theorem execProtectWrite_keeps {w : Word} {s : State} {next : State} (h : execProtectWrite w s = .next next) : Keeps 0x3dffffffffffe s next := by
  unfold execProtectWrite at h
  cases h
  skip
  repeat' first
    | with_reducible exact Keeps.refl _ _
    | with_reducible assumption
    | ((with_reducible apply State.hostWrite_keeps); (case hm => exact rfl))
    | (dsimp only)

theorem execWpChange_keeps {high : Bool} {s : State} {next : State} (h : execWpChange high s = .next next) : Keeps 0x800004 s next := by
  unfold execWpChange at h
  cases h
  skip
  repeat' first
    | with_reducible exact Keeps.refl _ _
    | with_reducible assumption
    | ((with_reducible apply State.wpChange_keeps); (case hm => exact rfl))
    | (dsimp only)

theorem execRecallDone_keeps {s : State} {next : State} (h : execRecallDone s = .next next) : Keeps 0x3c00001840004 s next := by
  unfold execRecallDone at h
  cases h
  skip
  repeat' first
    | with_reducible exact Keeps.refl _ _
    | with_reducible assumption
    | ((with_reducible apply State.recallDone_keeps); (case hm => exact rfl))
    | (dsimp only)

theorem execPeatFlush_keeps {s : State} {next : State} (h : execPeatFlush s = .next next) : Keeps 0x800006 s next := by
  unfold execPeatFlush at h
  cases h
  skip
  repeat' first
    | with_reducible exact Keeps.refl _ _
    | with_reducible assumption
    | ((with_reducible apply State.peatFlushDue_keeps); (case hm => exact rfl))
    | split
    | (dsimp only)

theorem execFlushNow_keeps {s : State} {next : State} (h : execFlushNow s = .next next) : Keeps 0x3dffffffffffe s next := by
  unfold execFlushNow at h
  cases h
  skip
  repeat' first
    | with_reducible exact Keeps.refl _ _
    | with_reducible assumption
    | ((with_reducible apply State.hostWrite_keeps); (case hm => exact rfl))
    | (dsimp only)

theorem execPeatProgramDone_keeps {bank : Nat} {ok : Bool} {s : State} {next : State} (h : execPeatProgramDone bank ok s = .next next) : Keeps 0x840004 s next := by
  unfold execPeatProgramDone at h
  cases h
  skip
  repeat' first
    | with_reducible exact Keeps.refl _ _
    | with_reducible assumption
    | ((with_reducible apply State.peatDone_keeps); (case hm => exact rfl))
    | split
    | (dsimp only)

theorem execPeatPreset_keeps {lo : Word} {hi : Word} {s : State} {next : State} (h : execPeatPreset lo hi s = .next next) : Keeps 0x3dffffffffffe s next := by
  unfold execPeatPreset at h
  cases h
  skip
  repeat' first
    | with_reducible exact Keeps.refl _ _
    | with_reducible assumption
    | ((with_reducible apply State.hostWrite_keeps); (case hm => exact rfl))
    | (dsimp only)

theorem execReservationDone_keeps {s : State} {next : State} (h : execReservationDone s = .next next) : Keeps 0x1c00000840004 s next := by
  unfold execReservationDone at h
  cases h
  skip
  repeat' first
    | with_reducible exact Keeps.refl _ _
    | with_reducible assumption
    | ((with_reducible apply State.reservationDone_keeps); (case hm => exact rfl))
    | (dsimp only)

end Sys2Proof.Machine
end

