-- ==== Sys2Proof/Laws/KeepsCmdNstore.lean ====
section
/-! SUPPORT. What each operation of Machine/CmdNstore.lean may touch (Laws/Keeps.lean): the mask lists the fields it may change,
and the invariant of the block is kept. -/
set_option Elab.async false
set_option linter.all false
namespace Sys2Proof.Machine

theorem execImageOpen_keeps {s : State} {next : State} (h : execImageOpen s = .next next) : Keeps 0x3dffffffffffe s next := by
  unfold execImageOpen at h
  cases h
  skip
  repeat' first
    | with_reducible exact Keeps.refl _ _
    | with_reducible assumption
    | ((with_reducible apply State.hostWrite_keeps); (case hm => exact rfl))
    | (dsimp only)

theorem execSlotEraseDone_keeps {s : State} {next : State} (h : execSlotEraseDone s = .next next) : Keeps 0x100000 s next := by
  unfold execSlotEraseDone at h
  cases h
  skip
  repeat' first
    | with_reducible exact Keeps.refl _ _
    | with_reducible assumption
    | ((with_reducible apply State.slotErased_keeps); (case hm => exact rfl))
    | split
    | (dsimp only)

theorem execImagePush_keeps {t : Xact} {s : State} {next : State} (h : execImagePush t s = .next next) : Keeps 0x3dffffffffffe s next := by
  unfold execImagePush at h
  cases h
  skip
  repeat' first
    | with_reducible exact Keeps.refl _ _
    | with_reducible assumption
    | ((with_reducible apply State.hostXact_keeps); (case hm => exact rfl))
    | split
    | (dsimp only)

theorem execImageClose_keeps {s : State} {next : State} (h : execImageClose s = .next next) : Keeps 0x3dffffffffffe s next := by
  unfold execImageClose at h
  cases h
  skip
  repeat' first
    | with_reducible exact Keeps.refl _ _
    | with_reducible assumption
    | ((with_reducible apply State.hostWrite_keeps); (case hm => exact rfl))
    | (dsimp only)

theorem execImageCheckDone_keeps {s : State} {next : State} (h : execImageCheckDone s = .next next) : Keeps 0x100004 s next := by
  unfold execImageCheckDone at h
  cases h
  skip
  repeat' first
    | with_reducible exact Keeps.refl _ _
    | with_reducible assumption
    | ((with_reducible apply State.imageChecked_keeps); (case hm => exact rfl))
    | split
    | (dsimp only)

theorem execImageAbort_keeps {s : State} {next : State} (h : execImageAbort s = .next next) : Keeps 0x3dffffffffffe s next := by
  unfold execImageAbort at h
  cases h
  skip
  repeat' first
    | with_reducible exact Keeps.refl _ _
    | with_reducible assumption
    | ((with_reducible apply State.hostWrite_keeps); (case hm => exact rfl))
    | (dsimp only)

theorem execActivate_keeps {slot : Nat} {s : State} {next : State} (h : execActivate slot s = .next next) : Keeps 0x3dffffffffffe s next := by
  unfold execActivate at h
  cases h
  skip
  repeat' first
    | with_reducible exact Keeps.refl _ _
    | with_reducible assumption
    | ((with_reducible apply State.hostWrite_keeps); (case hm => exact rfl))
    | (dsimp only)

theorem execSlotRecordWritten_keeps {s : State} {next : State} (h : execSlotRecordWritten s = .next next) : Keeps 0x100004 s next := by
  unfold execSlotRecordWritten at h
  cases h
  skip
  repeat' first
    | with_reducible exact Keeps.refl _ _
    | with_reducible assumption
    | ((with_reducible apply State.slotRecord_keeps); (case hm => exact rfl))
    | split
    | (dsimp only)

theorem execSlotAttemptDone_keeps {s : State} {next : State} (h : execSlotAttemptDone s = .next next) : Keeps 0x1008100340084 s next := by
  unfold execSlotAttemptDone at h
  cases h
  skip
  repeat' first
    | with_reducible exact Keeps.refl _ _
    | with_reducible assumption
    | ((with_reducible apply State.slotAttemptDone_keeps); (case hm => exact rfl))
    | split
    | (dsimp only)

theorem execQuery_keeps {t : Xact} {s : State} {next : State} (h : execQuery t s = .next next) : Keeps 0x3dffffffffffe s next := by
  unfold execQuery at h
  cases h
  skip
  repeat' first
    | with_reducible exact Keeps.refl _ _
    | with_reducible assumption
    | ((with_reducible apply State.hostXact_keeps); (case hm => exact rfl))
    | split
    | (dsimp only)

theorem execQueryChunkPosted_keeps {s : State} {next : State} (h : execQueryChunkPosted s = .next next) : Keeps 0x100004 s next := by
  unfold execQueryChunkPosted at h
  cases h
  skip
  repeat' first
    | with_reducible exact Keeps.refl _ _
    | with_reducible assumption
    | ((with_reducible apply State.hostChunk_keeps); (case hm => exact rfl))
    | split
    | (dsimp only)

theorem execQueryNext_keeps {s : State} {next : State} (h : execQueryNext s = .next next) : Keeps 0x3dffffffffffe s next := by
  unfold execQueryNext at h
  cases h
  skip
  repeat' first
    | with_reducible exact Keeps.refl _ _
    | with_reducible assumption
    | ((with_reducible apply State.hostWrite_keeps); (case hm => exact rfl))
    | (dsimp only)

theorem execQueryCancel_keeps {s : State} {next : State} (h : execQueryCancel s = .next next) : Keeps 0x3dffffffffffe s next := by
  unfold execQueryCancel at h
  cases h
  skip
  repeat' first
    | with_reducible exact Keeps.refl _ _
    | with_reducible assumption
    | ((with_reducible apply State.hostWrite_keeps); (case hm => exact rfl))
    | (dsimp only)

theorem execTrendUnitProgrammed_keeps {ok : Bool} {s : State} {next : State} (h : execTrendUnitProgrammed ok s = .next next) : Keeps 0x140004 s next := by
  unfold execTrendUnitProgrammed at h
  cases h
  skip
  repeat' first
    | with_reducible exact Keeps.refl _ _
    | with_reducible assumption
    | ((with_reducible apply State.trendProgram_keeps); (case hm => exact rfl))
    | split
    | (dsimp only)

end Sys2Proof.Machine
end

