-- ==== Sys2Proof/Laws/KeepsCmdFab.lean ====
section
/-! SUPPORT. What each operation of Machine/CmdFab.lean may touch (Laws/Keeps.lean): the mask lists the fields it may change,
and the invariant of the block is kept. -/
set_option Elab.async false
set_option linter.all false
namespace Sys2Proof.Machine

theorem execPhyLinkUp_keeps {port : Nat} {amp24 : Bool} {sqi : Nat} {s : State} {next : State} (h : execPhyLinkUp port amp24 sqi s = .next next) : Keeps 0x1c00000840004 s next := by
  unfold execPhyLinkUp at h
  cases h
  unfold State.onPort
  repeat' first
    | with_reducible exact Keeps.refl _ _
    | with_reducible assumption
    | ((with_reducible apply State.phyUp_keeps); (case hm => exact rfl))
    | split
    | (dsimp only)

theorem execPhyLinkDown_keeps {port : Nat} {s : State} {next : State} (h : execPhyLinkDown port s = .next next) : Keeps 0x1c00000840004 s next := by
  unfold execPhyLinkDown at h
  cases h
  unfold State.onPort
  repeat' first
    | with_reducible exact Keeps.refl _ _
    | with_reducible assumption
    | ((with_reducible apply State.portDown_keeps); (case hm => exact rfl))
    | split
    | (dsimp only)

theorem execPhyTraining_keeps {port : Nat} {s : State} {next : State} (h : execPhyTraining port s = .next next) : Keeps 0x1c00000840004 s next := by
  unfold execPhyTraining at h
  cases h
  unfold State.onPort
  repeat' first
    | with_reducible exact Keeps.refl _ _
    | with_reducible assumption
    | ((with_reducible apply State.phyTrain_keeps); (case hm => exact rfl))
    | split
    | (dsimp only)

theorem execHelloTimer_keeps {port : Nat} {s : State} {next : State} (h : execHelloTimer port s = .next next) : Keeps 0x1c00000840004 s next := by
  unfold execHelloTimer at h
  cases h
  unfold State.onPort
  repeat' first
    | with_reducible exact Keeps.refl _ _
    | with_reducible assumption
    | ((with_reducible apply State.sendHello_keeps); (case hm => exact rfl))
    | split
    | (dsimp only)

theorem execHelloReceived_keeps {port : Nat} {frame : List Byte} {s : State} {next : State} (h : execHelloReceived port frame s = .next next) : Keeps 0x1c00000840004 s next := by
  unfold execHelloReceived at h
  cases h
  unfold State.onLink State.onPort
  repeat' first
    | with_reducible exact Keeps.refl _ _
    | with_reducible assumption
    | ((with_reducible apply State.rxHello_keeps); (case hm => exact rfl))
    | ((with_reducible apply State.discard_keeps); (case hm => exact rfl))
    | split
    | (dsimp only)

theorem execHelloTimeout_keeps {port : Nat} {s : State} {next : State} (h : execHelloTimeout port s = .next next) : Keeps 0x1c00000840006 s next := by
  unfold execHelloTimeout at h
  cases h
  unfold State.onPort
  repeat' first
    | with_reducible exact Keeps.refl _ _
    | with_reducible assumption
    | ((with_reducible apply State.helloLost_keeps); (case hm => exact rfl))
    | split
    | (dsimp only)

theorem execLsaReceived_keeps {port : Nat} {frame : List Byte} {s : State} {next : State} (h : execLsaReceived port frame s = .next next) : Keeps 0x1c00000840004 s next := by
  unfold execLsaReceived at h
  cases h
  unfold State.onLink State.onPort
  repeat' first
    | with_reducible exact Keeps.refl _ _
    | with_reducible assumption
    | ((with_reducible apply State.rxLsa_keeps); (case hm => exact rfl))
    | ((with_reducible apply State.discard_keeps); (case hm => exact rfl))
    | split
    | (dsimp only)

theorem execLsaAckReceived_keeps {port : Nat} {frame : List Byte} {s : State} {next : State} (h : execLsaAckReceived port frame s = .next next) : Keeps 0x1c00000840004 s next := by
  unfold execLsaAckReceived at h
  cases h
  unfold State.onLink State.onPort
  repeat' first
    | with_reducible exact Keeps.refl _ _
    | with_reducible assumption
    | ((with_reducible apply State.rxAck_keeps); (case hm => exact rfl))
    | ((with_reducible apply State.discard_keeps); (case hm => exact rfl))
    | split
    | (dsimp only)

theorem execLsaRetransmit_keeps {port : Nat} {s : State} {next : State} (h : execLsaRetransmit port s = .next next) : Keeps 0x1c00000840006 s next := by
  unfold execLsaRetransmit at h
  cases h
  unfold State.onPort
  repeat' first
    | with_reducible exact Keeps.refl _ _
    | with_reducible assumption
    | ((with_reducible apply State.retransmit_keeps); (case hm => exact rfl))
    | split
    | (dsimp only)

theorem execLsaRefresh_keeps {s : State} {next : State} (h : execLsaRefresh s = .next next) : Keeps 0x1c00000840006 s next := by
  unfold execLsaRefresh at h
  cases h
  unfold State.onFab
  repeat' first
    | with_reducible exact Keeps.refl _ _
    | with_reducible assumption
    | ((with_reducible apply State.lsaRefresh_keeps); (case hm => exact rfl))
    | split
    | (dsimp only)

theorem execLsaExpiry_keeps {uid : Nat} {s : State} {next : State} (h : execLsaExpiry uid s = .next next) : Keeps 0x800000000006 s next := by
  unfold execLsaExpiry at h
  cases h
  unfold State.onFab
  repeat' first
    | with_reducible exact Keeps.refl _ _
    | with_reducible assumption
    | ((with_reducible apply State.lsaExpire_keeps); (case hm => exact rfl))
    | split
    | (dsimp only)

theorem execReconvergenceWaitEnd_keeps {s : State} {next : State} (h : execReconvergenceWaitEnd s = .next next) : Keeps 0x800000000002 s next := by
  unfold execReconvergenceWaitEnd at h
  cases h
  unfold State.onFab
  repeat' first
    | with_reducible exact Keeps.refl _ _
    | with_reducible assumption
    | ((with_reducible apply State.reconvWait_keeps); (case hm => exact rfl))
    | split
    | (dsimp only)

theorem execRouteTableReplace_keeps {s : State} {next : State} (h : execRouteTableReplace s = .next next) : Keeps 0x1c00000840004 s next := by
  unfold execRouteTableReplace at h
  cases h
  unfold State.onFab
  repeat' first
    | with_reducible exact Keeps.refl _ _
    | with_reducible assumption
    | ((with_reducible apply State.replaceTable_keeps); (case hm => exact rfl))
    | ((with_reducible apply State.pathChange_keeps); (case hm => exact rfl))
    | split
    | (dsimp only)

theorem execGrantReceived_keeps {port : Nat} {frame : List Byte} {s : State} {next : State} (h : execGrantReceived port frame s = .next next) : Keeps 0x1c00000840004 s next := by
  unfold execGrantReceived at h
  cases h
  unfold State.onLink State.onPort
  repeat' first
    | with_reducible exact Keeps.refl _ _
    | with_reducible assumption
    | ((with_reducible apply State.rxGrant_keeps); (case hm => exact rfl))
    | ((with_reducible apply State.discard_keeps); (case hm => exact rfl))
    | split
    | (dsimp only)

theorem execAddrReq_keeps {w : Word} {s : State} {next : State} (h : execAddrReq w s = .next next) : Keeps 0x3dffffffffffe s next := by
  unfold execAddrReq at h
  cases h
  skip
  repeat' first
    | with_reducible exact Keeps.refl _ _
    | with_reducible assumption
    | ((with_reducible apply State.hostWrite_keeps); (case hm => exact rfl))
    | (dsimp only)

theorem execPdelayTimer_keeps {port : Nat} {s : State} {next : State} (h : execPdelayTimer port s = .next next) : Keeps 0x1c00000840004 s next := by
  unfold execPdelayTimer at h
  cases h
  unfold State.onPort
  repeat' first
    | with_reducible exact Keeps.refl _ _
    | with_reducible assumption
    | ((with_reducible apply State.pdelayReq_keeps); (case hm => exact rfl))
    | split
    | (dsimp only)

theorem execPdelayReqReceived_keeps {port : Nat} {frame : List Byte} {s : State} {next : State} (h : execPdelayReqReceived port frame s = .next next) : Keeps 0x3c00000840004 s next := by
  unfold execPdelayReqReceived at h
  cases h
  unfold State.onLink State.onPort
  repeat' first
    | with_reducible exact Keeps.refl _ _
    | with_reducible assumption
    | ((with_reducible apply State.rxPdelayReq_keeps); (case hm => exact rfl))
    | ((with_reducible apply State.discard_keeps); (case hm => exact rfl))
    | split
    | (dsimp only)

theorem execPdelayRespReceived_keeps {port : Nat} {frame : List Byte} {s : State} {next : State} (h : execPdelayRespReceived port frame s = .next next) : Keeps 0x3c00000840004 s next := by
  unfold execPdelayRespReceived at h
  cases h
  unfold State.onLink State.onPort
  repeat' first
    | with_reducible exact Keeps.refl _ _
    | with_reducible assumption
    | ((with_reducible apply State.rxPdelayResp_keeps); (case hm => exact rfl))
    | ((with_reducible apply State.discard_keeps); (case hm => exact rfl))
    | split
    | (dsimp only)

theorem execSyncTimer_keeps {s : State} {next : State} (h : execSyncTimer s = .next next) : Keeps 0x1c00000840006 s next := by
  unfold execSyncTimer at h
  cases h
  unfold State.onFab
  repeat' first
    | with_reducible exact Keeps.refl _ _
    | with_reducible assumption
    | ((with_reducible apply State.syncSend_keeps); (case hm => exact rfl))
    | split
    | (dsimp only)

theorem execSyncReceived_keeps {port : Nat} {frame : List Byte} {s : State} {next : State} (h : execSyncReceived port frame s = .next next) : Keeps 0x3c00001840086 s next := by
  unfold execSyncReceived at h
  cases h
  unfold State.onLink State.onPort
  repeat' first
    | with_reducible exact Keeps.refl _ _
    | with_reducible assumption
    | ((with_reducible apply State.rxSync_keeps); (case hm => exact rfl))
    | ((with_reducible apply State.discard_keeps); (case hm => exact rfl))
    | split
    | (dsimp only)

theorem execSyncTimeout_keeps {s : State} {next : State} (h : execSyncTimeout s = .next next) : Keeps 0x1800000000006 s next := by
  unfold execSyncTimeout at h
  cases h
  unfold State.onFab
  repeat' first
    | with_reducible exact Keeps.refl _ _
    | with_reducible assumption
    | ((with_reducible apply State.syncLost_keeps); (case hm => exact rfl))
    | split
    | (dsimp only)

theorem execFabricCycleStart_keeps {s : State} {next : State} (h : execFabricCycleStart s = .next next) : Keeps 0x1c00000840006 s next := by
  unfold execFabricCycleStart at h
  cases h
  unfold State.onFab
  repeat' first
    | with_reducible exact Keeps.refl _ _
    | with_reducible assumption
    | ((with_reducible apply State.cycleStart_keeps); (case hm => exact rfl))
    | split
    | (dsimp only)

theorem execTSlotStart_keeps {port : Nat} {slot : Nat} {s : State} {next : State} (h : execTSlotStart port slot s = .next next) : Keeps 0x800000000006 s next := by
  unfold execTSlotStart at h
  cases h
  unfold State.onPort
  repeat' first
    | with_reducible exact Keeps.refl _ _
    | with_reducible assumption
    | ((with_reducible apply State.tSlotStart_keeps); (case hm => exact rfl))
    | split
    | (dsimp only)

theorem execFrameSent_keeps {port : Nat} {s : State} {next : State} (h : execFrameSent port s = .next next) : Keeps 0x2800000000006 s next := by
  unfold execFrameSent at h
  cases h
  unfold State.onPort
  repeat' first
    | with_reducible exact Keeps.refl _ _
    | with_reducible assumption
    | ((with_reducible apply State.frameStart_keeps); (case hm => exact rfl))
    | split
    | (dsimp only)

theorem execTForwardPoint_keeps {s : State} {next : State} (h : execTForwardPoint s = .next next) : Keeps 0x800000000006 s next := by
  unfold execTForwardPoint at h
  cases h
  unfold State.onFab
  repeat' first
    | with_reducible exact Keeps.refl _ _
    | with_reducible assumption
    | ((with_reducible apply State.tForward_keeps); (case hm => exact rfl))
    | split
    | (dsimp only)

theorem execDiscardedFrameReceived_keeps {port : Nat} {frame : List Byte} {fcsOk : Bool} {s : State} {next : State} (h : execDiscardedFrameReceived port frame fcsOk s = .next next) : Keeps 0x1c00000840004 s next := by
  unfold execDiscardedFrameReceived at h
  cases h
  unfold State.onPort
  repeat' first
    | with_reducible exact Keeps.refl _ _
    | with_reducible assumption
    | ((with_reducible apply State.discard_keeps); (case hm => exact rfl))
    | split
    | (dsimp only)

end Sys2Proof.Machine
end

