-- ==== Sys2Proof/Laws/KeepsCmdDlv.lean ====
section
/-! SUPPORT. What each operation of Machine/CmdDlv.lean may touch (Laws/Keeps.lean): the mask lists the fields it may change,
and the invariant of the block is kept. -/
set_option Elab.async false
set_option linter.all false
namespace Sys2Proof.Machine

theorem execTFrameReceived_keeps {port : Nat} {frame : List Byte} {s : State} {next : State} (h : execTFrameReceived port frame s = .next next) : Keeps 0x1c00200b42084 s next := by
  unfold execTFrameReceived at h
  cases h
  unfold State.onPort
  repeat' first
    | with_reducible exact Keeps.refl _ _
    | with_reducible assumption
    | ((with_reducible apply State.rxTFrame_keeps); (case hm => exact rfl))
    | split
    | (dsimp only)

theorem execPublishReceived_keeps {port : Nat} {frame : List Byte} {s : State} {next : State} (h : execPublishReceived port frame s = .next next) : Keeps 0x1c00200b42084 s next := by
  unfold execPublishReceived at h
  cases h
  unfold State.onPort
  repeat' first
    | with_reducible exact Keeps.refl _ _
    | with_reducible assumption
    | ((with_reducible apply State.rxKind_keeps); (case hm => exact rfl))
    | split
    | (dsimp only)

theorem execFrameForward_keeps {port : Nat} {frame : List Byte} {s : State} {next : State} (h : execFrameForward port frame s = .next next) : Keeps 0x1c00200b42084 s next := by
  unfold execFrameForward at h
  cases h
  unfold State.onPort
  repeat' first
    | with_reducible exact Keeps.refl _ _
    | with_reducible assumption
    | ((with_reducible apply State.rxForward_keeps); (case hm => exact rfl))
    | split
    | (dsimp only)

theorem execReadRequest_keeps {port : Nat} {frame : List Byte} {s : State} {next : State} (h : execReadRequest port frame s = .next next) : Keeps 0x1c00200b42084 s next := by
  unfold execReadRequest at h
  cases h
  unfold State.onPort
  repeat' first
    | with_reducible exact Keeps.refl _ _
    | with_reducible assumption
    | ((with_reducible apply State.rxKind_keeps); (case hm => exact rfl))
    | split
    | (dsimp only)

theorem execWriteRequest_keeps {port : Nat} {frame : List Byte} {s : State} {next : State} (h : execWriteRequest port frame s = .next next) : Keeps 0x1c00200b42084 s next := by
  unfold execWriteRequest at h
  cases h
  unfold State.onPort
  repeat' first
    | with_reducible exact Keeps.refl _ _
    | with_reducible assumption
    | ((with_reducible apply State.rxKind_keeps); (case hm => exact rfl))
    | split
    | (dsimp only)

theorem execSubscribeRequest_keeps {port : Nat} {frame : List Byte} {s : State} {next : State} (h : execSubscribeRequest port frame s = .next next) : Keeps 0x1c00200b42084 s next := by
  unfold execSubscribeRequest at h
  cases h
  unfold State.onPort
  repeat' first
    | with_reducible exact Keeps.refl _ _
    | with_reducible assumption
    | ((with_reducible apply State.rxKind_keeps); (case hm => exact rfl))
    | split
    | (dsimp only)

theorem execUnsubscribeRequest_keeps {port : Nat} {frame : List Byte} {s : State} {next : State} (h : execUnsubscribeRequest port frame s = .next next) : Keeps 0x1c00200b42084 s next := by
  unfold execUnsubscribeRequest at h
  cases h
  unfold State.onPort
  repeat' first
    | with_reducible exact Keeps.refl _ _
    | with_reducible assumption
    | ((with_reducible apply State.rxKind_keeps); (case hm => exact rfl))
    | split
    | (dsimp only)

theorem execStreamReqReceived_keeps {port : Nat} {frame : List Byte} {s : State} {next : State} (h : execStreamReqReceived port frame s = .next next) : Keeps 0x1c00200b42084 s next := by
  unfold execStreamReqReceived at h
  cases h
  unfold State.onPort
  repeat' first
    | with_reducible exact Keeps.refl _ _
    | with_reducible assumption
    | ((with_reducible apply State.rxPath_keeps); (case hm => exact rfl))
    | split
    | (dsimp only)

theorem execStreamRelReceived_keeps {port : Nat} {frame : List Byte} {s : State} {next : State} (h : execStreamRelReceived port frame s = .next next) : Keeps 0x1c00200b42084 s next := by
  unfold execStreamRelReceived at h
  cases h
  unfold State.onPort
  repeat' first
    | with_reducible exact Keeps.refl _ _
    | with_reducible assumption
    | ((with_reducible apply State.rxPath_keeps); (case hm => exact rfl))
    | split
    | (dsimp only)

theorem execStreamLostReceived_keeps {port : Nat} {frame : List Byte} {s : State} {next : State} (h : execStreamLostReceived port frame s = .next next) : Keeps 0x1c00200b42084 s next := by
  unfold execStreamLostReceived at h
  cases h
  unfold State.onPort
  repeat' first
    | with_reducible exact Keeps.refl _ _
    | with_reducible assumption
    | ((with_reducible apply State.rxKind_keeps); (case hm => exact rfl))
    | split
    | (dsimp only)

theorem execAlarmReceived_keeps {port : Nat} {frame : List Byte} {s : State} {next : State} (h : execAlarmReceived port frame s = .next next) : Keeps 0x1c00200b42084 s next := by
  unfold execAlarmReceived at h
  cases h
  unfold State.onPort
  repeat' first
    | with_reducible exact Keeps.refl _ _
    | with_reducible assumption
    | ((with_reducible apply State.rxKind_keeps); (case hm => exact rfl))
    | split
    | (dsimp only)

theorem execQueryRequest_keeps {port : Nat} {frame : List Byte} {s : State} {next : State} (h : execQueryRequest port frame s = .next next) : Keeps 0x1c00200b42084 s next := by
  unfold execQueryRequest at h
  cases h
  unfold State.onPort
  repeat' first
    | with_reducible exact Keeps.refl _ _
    | with_reducible assumption
    | ((with_reducible apply State.rxKind_keeps); (case hm => exact rfl))
    | split
    | (dsimp only)

theorem execQueryNextRequest_keeps {port : Nat} {frame : List Byte} {s : State} {next : State} (h : execQueryNextRequest port frame s = .next next) : Keeps 0x1c00200b42084 s next := by
  unfold execQueryNextRequest at h
  cases h
  unfold State.onPort
  repeat' first
    | with_reducible exact Keeps.refl _ _
    | with_reducible assumption
    | ((with_reducible apply State.rxKind_keeps); (case hm => exact rfl))
    | split
    | (dsimp only)

theorem execResponseReceived_keeps {port : Nat} {frame : List Byte} {s : State} {next : State} (h : execResponseReceived port frame s = .next next) : Keeps 0x1c00200b42084 s next := by
  unfold execResponseReceived at h
  cases h
  unfold State.onPort
  repeat' first
    | with_reducible exact Keeps.refl _ _
    | with_reducible assumption
    | ((with_reducible apply State.rxKind_keeps); (case hm => exact rfl))
    | split
    | (dsimp only)

theorem execTransactionTimeout_keeps {tid : Nat} {s : State} {next : State} (h : execTransactionTimeout tid s = .next next) : Keeps 0x1c00000840006 s next := by
  unfold execTransactionTimeout at h
  cases h
  unfold State.onFab
  repeat' first
    | with_reducible exact Keeps.refl _ _
    | with_reducible assumption
    | ((with_reducible apply State.xferTimeout_keeps); (case hm => exact rfl))
    | split
    | (dsimp only)

theorem execStreamRefresh_keeps {s : State} {next : State} (h : execStreamRefresh s = .next next) : Keeps 0x1c00000840006 s next := by
  unfold execStreamRefresh at h
  cases h
  unfold State.onFab
  repeat' first
    | with_reducible exact Keeps.refl _ _
    | with_reducible assumption
    | ((with_reducible apply State.streamRefresh_keeps); (case hm => exact rfl))
    | split
    | (dsimp only)

theorem execTransitReservationExpiry_keeps {s : State} {next : State} (h : execTransitReservationExpiry s = .next next) : Keeps 0x1000000000006 s next := by
  unfold execTransitReservationExpiry at h
  cases h
  unfold State.onFab
  repeat' first
    | with_reducible exact Keeps.refl _ _
    | with_reducible assumption
    | ((with_reducible apply State.transitExpire_keeps); (case hm => exact rfl))
    | split
    | (dsimp only)

theorem execAdmissionRecordExpiry_keeps {s : State} {next : State} (h : execAdmissionRecordExpiry s = .next next) : Keeps 0x82 s next := by
  unfold execAdmissionRecordExpiry at h
  cases h
  unfold State.onFab
  repeat' first
    | with_reducible exact Keeps.refl _ _
    | with_reducible assumption
    | ((with_reducible apply State.admExpire_keeps); (case hm => exact rfl))
    | split
    | (dsimp only)

theorem execSubscriberExpiry_keeps {s : State} {next : State} (h : execSubscriberExpiry s = .next next) : Keeps 0x200006 s next := by
  unfold execSubscriberExpiry at h
  cases h
  unfold State.onFab
  repeat' first
    | with_reducible exact Keeps.refl _ _
    | with_reducible assumption
    | ((with_reducible apply State.subExpire_keeps); (case hm => exact rfl))
    | split
    | (dsimp only)

theorem execSubscribeRefresh_keeps {s : State} {next : State} (h : execSubscribeRefresh s = .next next) : Keeps 0x1c00000a40006 s next := by
  unfold execSubscribeRefresh at h
  cases h
  unfold State.onFab
  repeat' first
    | with_reducible exact Keeps.refl _ _
    | with_reducible assumption
    | ((with_reducible apply State.subscribeRefresh_keeps); (case hm => exact rfl))
    | split
    | (dsimp only)

theorem execTidQuarantineEnd_keeps {tid : Nat} {s : State} {next : State} (h : execTidQuarantineEnd tid s = .next next) : Keeps 0x1c00000840006 s next := by
  unfold execTidQuarantineEnd at h
  cases h
  unfold State.onFab
  repeat' first
    | with_reducible exact Keeps.refl _ _
    | with_reducible assumption
    | ((with_reducible apply State.tidQuarantineEnd_keeps); (case hm => exact rfl))
    | split
    | (dsimp only)

end Sys2Proof.Machine
end

