-- ==== Sys2Proof/Laws/KeepsCmdLevee.lean ====
section
/-! SUPPORT. What each operation of Machine/CmdLevee.lean may touch (Laws/Keeps.lean): the mask lists the fields it may change,
and the invariant of the block is kept. -/
set_option Elab.async false
set_option linter.all false
namespace Sys2Proof.Machine

theorem State.takeCommand_keeps {n0 : Nat} {s0 : State} {s : State} {src : CmdSrc} {f : List Byte} (hK : Keeps n0 s0 s) (hm : Keeps.sub 0x3dffffffffffe n0 = true) :
    Keeps n0 s0 (State.takeCommand s src f) := by
  refine Keeps.step hK ?_ hm
  clear hK hm
  unfold State.takeCommand State.onPort
  repeat' first
    | with_reducible exact Keeps.refl _ _
    | with_reducible assumption
    | ((with_reducible apply State.rxCommand_keeps); (case hm => exact rfl))
    | ((with_reducible apply State.takeCmdReset_keeps); (case hm => exact rfl))
    | ((with_reducible apply State.hostFrame_keeps); (case hm => exact rfl))
    | (with_reducible refine Keeps.ofP2 (by assumption) ?_)
    | (with_reducible refine Keeps.ofP1 (by assumption) ?_)
    | (with_reducible refine Keeps.ofP3 (by assumption) ?_)
    | split
    | (dsimp only)

theorem execRegWrite_keeps {src : CmdSrc} {frame : List Byte} {s : State} {next : State} (h : execRegWrite src frame s = .next next) : Keeps 0x3dffffffffffe s next := by
  unfold execRegWrite at h
  cases h
  skip
  repeat' first
    | with_reducible exact Keeps.refl _ _
    | with_reducible assumption
    | ((with_reducible apply State.takeCommand_keeps); (case hm => exact rfl))
    | split
    | (dsimp only)

theorem execStoreGo_keeps {src : CmdSrc} {frame : List Byte} {s : State} {next : State} (h : execStoreGo src frame s = .next next) : Keeps 0x3dffffffffffe s next := by
  unfold execStoreGo at h
  cases h
  skip
  repeat' first
    | with_reducible exact Keeps.refl _ _
    | with_reducible assumption
    | ((with_reducible apply State.takeCommand_keeps); (case hm => exact rfl))
    | split
    | (dsimp only)

theorem execActivateOp_keeps {src : CmdSrc} {frame : List Byte} {s : State} {next : State} (h : execActivateOp src frame s = .next next) : Keeps 0x3dffffffffffe s next := by
  unfold execActivateOp at h
  cases h
  skip
  repeat' first
    | with_reducible exact Keeps.refl _ _
    | with_reducible assumption
    | ((with_reducible apply State.takeCommand_keeps); (case hm => exact rfl))
    | split
    | (dsimp only)

theorem execPageUnlock_keeps {src : CmdSrc} {frame : List Byte} {s : State} {next : State} (h : execPageUnlock src frame s = .next next) : Keeps 0x3dffffffffffe s next := by
  unfold execPageUnlock at h
  cases h
  skip
  repeat' first
    | with_reducible exact Keeps.refl _ _
    | with_reducible assumption
    | ((with_reducible apply State.takeCommand_keeps); (case hm => exact rfl))
    | split
    | (dsimp only)

theorem execKeyRoll_keeps {src : CmdSrc} {frame : List Byte} {s : State} {next : State} (h : execKeyRoll src frame s = .next next) : Keeps 0x3dffffffffffe s next := by
  unfold execKeyRoll at h
  cases h
  skip
  repeat' first
    | with_reducible exact Keeps.refl _ _
    | with_reducible assumption
    | ((with_reducible apply State.takeCommand_keeps); (case hm => exact rfl))
    | split
    | (dsimp only)

theorem execSessionSet_keeps {src : CmdSrc} {frame : List Byte} {s : State} {next : State} (h : execSessionSet src frame s = .next next) : Keeps 0x3dffffffffffe s next := by
  unfold execSessionSet at h
  cases h
  skip
  repeat' first
    | with_reducible exact Keeps.refl _ _
    | with_reducible assumption
    | ((with_reducible apply State.takeCommand_keeps); (case hm => exact rfl))
    | split
    | (dsimp only)

theorem execSessionClr_keeps {src : CmdSrc} {frame : List Byte} {s : State} {next : State} (h : execSessionClr src frame s = .next next) : Keeps 0x3dffffffffffe s next := by
  unfold execSessionClr at h
  cases h
  skip
  repeat' first
    | with_reducible exact Keeps.refl _ _
    | with_reducible assumption
    | ((with_reducible apply State.takeCommand_keeps); (case hm => exact rfl))
    | split
    | (dsimp only)

theorem execTrustSet_keeps {src : CmdSrc} {frame : List Byte} {s : State} {next : State} (h : execTrustSet src frame s = .next next) : Keeps 0x3dffffffffffe s next := by
  unfold execTrustSet at h
  cases h
  skip
  repeat' first
    | with_reducible exact Keeps.refl _ _
    | with_reducible assumption
    | ((with_reducible apply State.takeCommand_keeps); (case hm => exact rfl))
    | split
    | (dsimp only)

theorem execKeyErase_keeps {src : CmdSrc} {frame : List Byte} {s : State} {next : State} (h : execKeyErase src frame s = .next next) : Keeps 0x3dffffffffffe s next := by
  unfold execKeyErase at h
  cases h
  skip
  repeat' first
    | with_reducible exact Keeps.refl _ _
    | with_reducible assumption
    | ((with_reducible apply State.takeCommand_keeps); (case hm => exact rfl))
    | split
    | (dsimp only)

theorem execGraceSet_keeps {src : CmdSrc} {frame : List Byte} {s : State} {next : State} (h : execGraceSet src frame s = .next next) : Keeps 0x3dffffffffffe s next := by
  unfold execGraceSet at h
  cases h
  skip
  repeat' first
    | with_reducible exact Keeps.refl _ _
    | with_reducible assumption
    | ((with_reducible apply State.takeCommand_keeps); (case hm => exact rfl))
    | split
    | (dsimp only)

theorem execIdent_keeps {src : CmdSrc} {frame : List Byte} {s : State} {next : State} (h : execIdent src frame s = .next next) : Keeps 0x3dffffffffffe s next := by
  unfold execIdent at h
  cases h
  skip
  repeat' first
    | with_reducible exact Keeps.refl _ _
    | with_reducible assumption
    | ((with_reducible apply State.takeCommand_keeps); (case hm => exact rfl))
    | split
    | (dsimp only)

theorem execSessionRecordCommitted_keeps {s : State} {next : State} (h : execSessionRecordCommitted s = .next next) : Keeps 0x3dffffffffffe s next := by
  unfold execSessionRecordCommitted at h
  cases h
  skip
  repeat' first
    | with_reducible exact Keeps.refl _ _
    | with_reducible assumption
    | ((with_reducible apply State.takeCmdReset_keeps); (case hm => exact rfl))
    | ((with_reducible apply State.levFloorTake_keeps); (case hm => exact rfl))
    | split
    | (dsimp only)

theorem execQuarantineEnd_keeps {session : Nat} {s : State} {next : State} (h : execQuarantineEnd session s = .next next) : Keeps 0x400000040006 s next := by
  unfold execQuarantineEnd at h
  cases h
  skip
  repeat' first
    | with_reducible exact Keeps.refl _ _
    | with_reducible assumption
    | ((with_reducible apply State.quarEnd_keeps); (case hm => exact rfl))
    | split
    | (dsimp only)

theorem execGraceExpiry_keeps {s : State} {next : State} (h : execGraceExpiry s = .next next) : Keeps 0x400000000006 s next := by
  unfold execGraceExpiry at h
  cases h
  skip
  repeat' first
    | with_reducible exact Keeps.refl _ _
    | with_reducible assumption
    | ((with_reducible apply State.graceEnd_keeps); (case hm => exact rfl))
    | split
    | (dsimp only)

theorem execKeyProvision_keeps {s : State} {next : State} (h : execKeyProvision s = .next next) : Keeps 0x3dffffffffffe s next := by
  unfold execKeyProvision at h
  cases h
  skip
  repeat' first
    | with_reducible exact Keeps.refl _ _
    | with_reducible assumption
    | ((with_reducible apply State.hostWrite_keeps); (case hm => exact rfl))
    | (dsimp only)

theorem execSessionBind_keeps {w : Word} {s : State} {next : State} (h : execSessionBind w s = .next next) : Keeps 0x3dffffffffffe s next := by
  unfold execSessionBind at h
  cases h
  skip
  repeat' first
    | with_reducible exact Keeps.refl _ _
    | with_reducible assumption
    | ((with_reducible apply State.hostWrite_keeps); (case hm => exact rfl))
    | (dsimp only)

theorem execLeveeDiscard_keeps {s : State} {next : State} (h : execLeveeDiscard s = .next next) : Keeps 0x3dffffffffffe s next := by
  unfold execLeveeDiscard at h
  cases h
  skip
  repeat' first
    | with_reducible exact Keeps.refl _ _
    | with_reducible assumption
    | ((with_reducible apply State.hostWrite_keeps); (case hm => exact rfl))
    | (dsimp only)

end Sys2Proof.Machine
end

