-- ==== Sys2Proof/Laws/KeepsCmdFault.lean ====
section
/-! SUPPORT. What each operation of Machine/CmdFault.lean may touch (Laws/Keeps.lean): the mask lists the fields it may change,
and the invariant of the block is kept. -/
set_option Elab.async false
set_option linter.all false
namespace Sys2Proof.Machine

theorem State.fmLate_keeps {n0 : Nat} {s0 : State} {s : State} (hK : Keeps n0 s0 s) (hm : Keeps.sub 0x40586 n0 = true) :
    Keeps n0 s0 (State.fmLate s) := by
  refine Keeps.step hK ?_ hm
  clear hK hm
  unfold State.fmLate
  repeat' first
    | with_reducible exact Keeps.refl _ _
    | with_reducible assumption
    | ((with_reducible apply State.at__keeps); (case hm => exact rfl))
    | ((with_reducible apply State.fmStop_keeps); (case hm => exact rfl))
    | (with_reducible refine Keeps.ofP2 (by assumption) ?_)
    | (with_reducible refine Keeps.ofP1 (by assumption) ?_)
    | (with_reducible refine Keeps.ofP3 (by assumption) ?_)
    | split
    | (dsimp only)

theorem execFaultProcessingDone_keeps {s : State} {next : State} (h : execFaultProcessingDone s = .next next) : Keeps 0x1c00000940004 s next := by
  unfold execFaultProcessingDone at h
  cases h
  skip
  repeat' first
    | with_reducible exact Keeps.refl _ _
    | with_reducible assumption
    | ((with_reducible apply State.faultProcessed_keeps); (case hm => exact rfl))
    | ((with_reducible apply State.pumpAlarms_keeps); (case hm => exact rfl))
    | split
    | (dsimp only)

theorem execQueueOverflow_keeps {s : State} {next : State} (h : execQueueOverflow s = .next next) : Keeps 0x40006 s next := by
  unfold execQueueOverflow at h
  cases h
  skip
  repeat' first
    | with_reducible exact Keeps.refl _ _
    | with_reducible assumption
    | ((with_reducible apply State.queueOverflow_keeps); (case hm => exact rfl))
    | split
    | (dsimp only)

theorem execFmWatchdog_keeps {s : State} {next : State} (h : execFmWatchdog s = .next next) : Keeps 0x40586 s next := by
  unfold execFmWatchdog at h
  cases h
  skip
  repeat' first
    | with_reducible exact Keeps.refl _ _
    | with_reducible assumption
    | ((with_reducible apply State.fmLate_keeps); (case hm => exact rfl))
    | split
    | (dsimp only)

theorem execFmStateError_keeps {s : State} {next : State} (h : execFmStateError s = .next next) : Keeps 0x40584 s next := by
  unfold execFmStateError at h
  cases h
  skip
  repeat' first
    | with_reducible exact Keeps.refl _ _
    | with_reducible assumption
    | ((with_reducible apply State.fmStop_keeps); (case hm => exact rfl))
    | split
    | (dsimp only)

theorem execFaultClr_keeps {s : State} {next : State} (h : execFaultClr s = .next next) : Keeps 0x3dffffffffffe s next := by
  unfold execFaultClr at h
  cases h
  skip
  repeat' first
    | with_reducible exact Keeps.refl _ _
    | with_reducible assumption
    | ((with_reducible apply State.hostWrite_keeps); (case hm => exact rfl))
    | (dsimp only)

theorem execSramScrub_keeps {corr : Nat} {uncorr : Option Nat} {s : State} {next : State} (h : execSramScrub corr uncorr s = .next next) : Keeps 0x40504 s next := by
  unfold execSramScrub at h
  cases h
  skip
  repeat' first
    | with_reducible exact Keeps.refl _ _
    | with_reducible assumption
    | ((with_reducible apply State.sramErrors_keeps); (case hm => exact rfl))
    | split
    | (dsimp only)

theorem execTjCritClear_keeps {s : State} {next : State} (h : execTjCritClear s = .next next) : Keeps 0x40006 s next := by
  unfold execTjCritClear at h
  cases h
  skip
  repeat' first
    | with_reducible exact Keeps.refl _ _
    | with_reducible assumption
    | ((with_reducible apply State.tjClear_keeps); (case hm => exact rfl))
    | split
    | (dsimp only)

end Sys2Proof.Machine
end

