-- ==== Sys2Proof/Laws/KeepsCmdPanel.lean ====
section
/-! SUPPORT. What each operation of Machine/CmdPanel.lean may touch (Laws/Keeps.lean): the mask lists the fields it may change,
and the invariant of the block is kept. -/
set_option Elab.async false
set_option linter.all false
namespace Sys2Proof.Machine

theorem State.comboActs_keeps {n0 : Nat} {s0 : State} {s : State} {k : Nat} (hK : Keeps n0 s0 s) (hm : Keeps.sub 0x3dffffffffffe n0 = true) :
    Keeps n0 s0 (State.comboActs s k) := by
  refine Keeps.step hK ?_ hm
  clear hK hm
  unfold State.comboActs
  repeat' first
    | with_reducible exact Keeps.refl _ _
    | with_reducible assumption
    | ((with_reducible apply State.keyErase_keeps); (case hm => exact rfl))
    | ((with_reducible apply State.comboFire_keeps); (case hm => exact rfl))
    | ((with_reducible apply State.assertReset_keeps); (case hm => exact rfl))
    | (with_reducible refine Keeps.ofP2 (by assumption) ?_)
    | (with_reducible refine Keeps.ofP1 (by assumption) ?_)
    | (with_reducible refine Keeps.ofP3 (by assumption) ?_)
    | split
    | (dsimp only)

theorem State.fixedFires_keeps {n0 : Nat} {s0 : State} {s : State} (hK : Keeps n0 s0 s) (hm : Keeps.sub 0x3dffffffffffe n0 = true) :
    Keeps n0 s0 (State.fixedFires s) := by
  refine Keeps.step hK ?_ hm
  clear hK hm
  unfold State.fixedFires
  repeat' first
    | with_reducible exact Keeps.refl _ _
    | with_reducible assumption
    | ((with_reducible apply State.assertReset_keeps); (case hm => exact rfl))
    | ((with_reducible apply State.updKey_keeps); (case hm => exact rfl); (case hf => first | exact id | (intro h; simp_all; try omega)))
    | split
    | (dsimp only)

theorem execKeyWake_keeps {s : State} {next : State} (h : execKeyWake s = .next next) : Keeps 0x20000000004 s next := by
  unfold execKeyWake at h
  cases h
  skip
  repeat' first
    | with_reducible exact Keeps.refl _ _
    | with_reducible assumption
    | ((with_reducible apply State.keyWake_keeps); (case hm => exact rfl))
    | split
    | (dsimp only)

theorem execKeyScan_keeps {rows : Matrix} {s : State} {next : State} (h : execKeyScan rows s = .next next) : Keeps 0x20000000006 s next := by
  unfold execKeyScan at h
  cases h
  skip
  repeat' first
    | with_reducible exact Keeps.refl _ _
    | with_reducible assumption
    | ((with_reducible apply State.keyScan_keeps); (case hm => exact rfl))
    | split
    | (dsimp only)

theorem execKeyIdle_keeps {s : State} {next : State} (h : execKeyIdle s = .next next) : Keeps 0x20000000006 s next := by
  unfold execKeyIdle at h
  cases h
  skip
  repeat' first
    | with_reducible exact Keeps.refl _ _
    | with_reducible assumption
    | ((with_reducible apply State.keyIdle_keeps); (case hm => exact rfl))
    | split
    | (dsimp only)

theorem execKeyEventRead_keeps {s : State} {next : State} (h : execKeyEventRead s = .next next) : Keeps 0x3dffffffffffe s next := by
  unfold execKeyEventRead at h
  cases h
  skip
  repeat' first
    | with_reducible exact Keeps.refl _ _
    | with_reducible assumption
    | ((with_reducible apply State.hostXact_keeps); (case hm => exact rfl))
    | (dsimp only)

theorem execEncoderTransition_keeps {enc : Nat} {ab : Nat} {s : State} {next : State} (h : execEncoderTransition enc ab s = .next next) : Keeps 0x20000000004 s next := by
  unfold execEncoderTransition at h
  cases h
  skip
  repeat' first
    | with_reducible exact Keeps.refl _ _
    | with_reducible assumption
    | ((with_reducible apply State.encoderMove_keeps); (case hm => exact rfl))
    | (with_reducible refine Keeps.ofP2 (by assumption) ?_)
    | (with_reducible refine Keeps.ofP1 (by assumption) ?_)
    | (with_reducible refine Keeps.ofP3 (by assumption) ?_)
    | split
    | (dsimp only)

theorem execComboFire_keeps {k : Nat} {s : State} {next : State} (h : execComboFire k s = .next next) : Keeps 0x3dffffffffffe s next := by
  unfold execComboFire at h
  cases h
  skip
  repeat' first
    | with_reducible exact Keeps.refl _ _
    | with_reducible assumption
    | ((with_reducible apply State.comboActs_keeps); (case hm => exact rfl))
    | split
    | (dsimp only)

theorem execFixedCombo_keeps {s : State} {next : State} (h : execFixedCombo s = .next next) : Keeps 0x3dffffffffffe s next := by
  unfold execFixedCombo at h
  cases h
  skip
  repeat' first
    | with_reducible exact Keeps.refl _ _
    | with_reducible assumption
    | ((with_reducible apply State.fixedFires_keeps); (case hm => exact rfl))
    | (dsimp only)

theorem execUnlockExpiry_keeps {s : State} {next : State} (h : execUnlockExpiry s = .next next) : Keeps 0x20000000006 s next := by
  unfold execUnlockExpiry at h
  cases h
  skip
  repeat' first
    | with_reducible exact Keeps.refl _ _
    | with_reducible assumption
    | ((with_reducible apply State.unlockExpiry_keeps); (case hm => exact rfl))
    | split
    | (dsimp only)

theorem execPanelWrite_keeps {w : Word} {s : State} {next : State} (h : execPanelWrite w s = .next next) : Keeps 0x3dffffffffffe s next := by
  unfold execPanelWrite at h
  cases h
  skip
  repeat' first
    | with_reducible exact Keeps.refl _ _
    | with_reducible assumption
    | ((with_reducible apply State.hostWrite_keeps); (case hm => exact rfl))
    | (dsimp only)

theorem execPanelRelinquish_keeps {w : Word} {s : State} {next : State} (h : execPanelRelinquish w s = .next next) : Keeps 0x3dffffffffffe s next := by
  unfold execPanelRelinquish at h
  cases h
  skip
  repeat' first
    | with_reducible exact Keeps.refl _ _
    | with_reducible assumption
    | ((with_reducible apply State.hostWrite_keeps); (case hm => exact rfl))
    | (dsimp only)

theorem execPanelLock_keeps {s : State} {next : State} (h : execPanelLock s = .next next) : Keeps 0x3dffffffffffe s next := by
  unfold execPanelLock at h
  cases h
  skip
  repeat' first
    | with_reducible exact Keeps.refl _ _
    | with_reducible assumption
    | ((with_reducible apply State.hostWrite_keeps); (case hm => exact rfl))
    | (dsimp only)

theorem execUpdateRequest_keeps {w : Word} {s : State} {next : State} (h : execUpdateRequest w s = .next next) : Keeps 0x3dffffffffffe s next := by
  unfold execUpdateRequest at h
  cases h
  skip
  repeat' first
    | with_reducible exact Keeps.refl _ _
    | with_reducible assumption
    | ((with_reducible apply State.hostWrite_keeps); (case hm => exact rfl))
    | (dsimp only)

theorem execEpdFrameBoundary_keeps {s : State} {next : State} (h : execEpdFrameBoundary s = .next next) : Keeps 0x40000000006 s next := by
  unfold execEpdFrameBoundary at h
  cases h
  unfold State.onEpd
  repeat' first
    | with_reducible exact Keeps.refl _ _
    | with_reducible assumption
    | ((with_reducible apply State.epdBoundary_keeps); (case hm => exact rfl))
    | split
    | (dsimp only)

theorem execUpdateCopyDone_keeps {id : Nat} {s : State} {next : State} (h : execUpdateCopyDone id s = .next next) : Keeps 0x40000000004 s next := by
  unfold execUpdateCopyDone at h
  cases h
  unfold State.onEpd
  repeat' first
    | with_reducible exact Keeps.refl _ _
    | with_reducible assumption
    | ((with_reducible apply State.updCopied_keeps); (case hm => exact rfl))
    | split
    | (dsimp only)

theorem execCrcStale_keeps {s : State} {next : State} (h : execCrcStale s = .next next) : Keeps 0x40000000006 s next := by
  unfold execCrcStale at h
  cases h
  unfold State.onEpd
  repeat' first
    | with_reducible exact Keeps.refl _ _
    | with_reducible assumption
    | ((with_reducible apply State.crcStale_keeps); (case hm => exact rfl))
    | split
    | (dsimp only)

theorem execFbCrcPass_keeps {s : State} {next : State} (h : execFbCrcPass s = .next next) : Keeps 0x40000000002 s next := by
  unfold execFbCrcPass at h
  cases h
  repeat' first
    | with_reducible exact Keeps.refl _ _
    | with_reducible assumption
    | ((with_reducible apply State.crcPass_keeps); (case hm => exact rfl))
    | split
    | (dsimp only)

theorem execFbCrcPassEnd_keeps {s : State} {next : State} (h : execFbCrcPassEnd s = .next next) : Keeps 0x40000000006 s next := by
  unfold execFbCrcPassEnd at h
  cases h
  repeat' first
    | with_reducible exact Keeps.refl _ _
    | with_reducible assumption
    | ((with_reducible apply State.crcPassEnd_keeps); (case hm => exact rfl))
    | split
    | (dsimp only)

theorem execRailStep_keeps {good : Bool} {s : State} {next : State} (h : execRailStep good s = .next next) : Keeps 0x40000040006 s next := by
  unfold execRailStep at h
  cases h
  unfold State.onEpd
  repeat' first
    | with_reducible exact Keeps.refl _ _
    | with_reducible assumption
    | ((with_reducible apply State.railStep_keeps); (case hm => exact rfl))
    | split
    | (dsimp only)

theorem execRailHoldExpiry_keeps {s : State} {next : State} (h : execRailHoldExpiry s = .next next) : Keeps 0x40000000002 s next := by
  unfold execRailHoldExpiry at h
  cases h
  unfold State.onEpd
  repeat' first
    | with_reducible exact Keeps.refl _ _
    | with_reducible assumption
    | ((with_reducible apply State.railHold_keeps); (case hm => exact rfl))
    | split
    | (dsimp only)

theorem execRailDownStep_keeps {s : State} {next : State} (h : execRailDownStep s = .next next) : Keeps 0x40000000006 s next := by
  unfold execRailDownStep at h
  cases h
  unfold State.onEpd
  repeat' first
    | with_reducible exact Keeps.refl _ _
    | with_reducible assumption
    | ((with_reducible apply State.railDown_keeps); (case hm => exact rfl))
    | split
    | (dsimp only)

end Sys2Proof.Machine
end

