-- ==== Sys2Proof/Laws/KeepsCmdPower.lean ====
section
/-! SUPPORT. What each operation of Machine/CmdPower.lean may touch (Laws/Keeps.lean): the mask lists the fields it may change,
and the invariant of the block is kept. -/
set_option Elab.async false
set_option linter.all false
namespace Sys2Proof.Machine

theorem State.brownOutReset_keeps {n0 : Nat} {s0 : State} {s : State} (hK : Keeps n0 s0 s) (hm : Keeps.sub 0x3dffffffffffe n0 = true) :
    Keeps n0 s0 (State.brownOutReset s) := by
  refine Keeps.step hK ?_ hm
  clear hK hm
  unfold State.brownOutReset
  repeat' first
    | with_reducible exact Keeps.refl _ _
    | with_reducible assumption
    | ((with_reducible apply State.assertReset_keeps); (case hm => exact rfl))
    | split
    | (dsimp only)

theorem State.pfwRecovers_keeps {n0 : Nat} {s0 : State} {s : State} (hK : Keeps n0 s0 s) (hm : Keeps.sub 0x3dffffffffffe n0 = true) :
    Keeps n0 s0 (State.pfwRecovers s) := by
  refine Keeps.step hK ?_ hm
  clear hK hm
  unfold State.pfwRecovers
  repeat' first
    | with_reducible exact Keeps.refl _ _
    | with_reducible assumption
    | ((with_reducible apply State.at__keeps); (case hm => exact rfl))
    | ((with_reducible apply State.assertReset_keeps); (case hm => exact rfl))
    | (with_reducible refine Keeps.ofP2 (by assumption) ?_)
    | (with_reducible refine Keeps.ofP1 (by assumption) ?_)
    | (with_reducible refine Keeps.ofP3 (by assumption) ?_)
    | split
    | (dsimp only)

theorem execPfw_keeps {s : State} {next : State} (h : execPfw s = .next next) : Keeps 0xc0000840504 s next := by
  unfold execPfw at h
  cases h
  skip
  repeat' first
    | with_reducible exact Keeps.refl _ _
    | with_reducible assumption
    | ((with_reducible apply State.pfwTrip_keeps); (case hm => exact rfl))
    | split
    | (dsimp only)

theorem execVfieldDip_keeps {s : State} {next : State} (h : execVfieldDip s = .next next) : Keeps 0x4 s next := by
  unfold execVfieldDip at h
  cases h
  skip
  repeat' first
    | with_reducible exact Keeps.refl _ _
    | with_reducible assumption
    | ((with_reducible apply State.vfieldDip_keeps); (case hm => exact rfl))
    | split
    | (dsimp only)

theorem execBrownOut_keeps {s : State} {next : State} (h : execBrownOut s = .next next) : Keeps 0xc0000840504 s next := by
  unfold execBrownOut at h
  cases h
  skip
  repeat' first
    | with_reducible exact Keeps.refl _ _
    | with_reducible assumption
    | ((with_reducible apply State.brownOut_keeps); (case hm => exact rfl))
    | split
    | (dsimp only)

theorem execBrownOutCoreReset_keeps {s : State} {next : State} (h : execBrownOutCoreReset s = .next next) : Keeps 0x3dffffffffffe s next := by
  unfold execBrownOutCoreReset at h
  cases h
  skip
  repeat' first
    | with_reducible exact Keeps.refl _ _
    | with_reducible assumption
    | ((with_reducible apply State.brownOutReset_keeps); (case hm => exact rfl))
    | (dsimp only)

theorem execPfwRecoveryReset_keeps {s : State} {next : State} (h : execPfwRecoveryReset s = .next next) : Keeps 0x3dffffffffffe s next := by
  unfold execPfwRecoveryReset at h
  cases h
  skip
  repeat' first
    | with_reducible exact Keeps.refl _ _
    | with_reducible assumption
    | ((with_reducible apply State.pfwRecovers_keeps); (case hm => exact rfl))
    | split
    | (dsimp only)

theorem execCoreUndervoltage_keeps {s : State} {next : State} (h : execCoreUndervoltage s = .next next) : Keeps 0x3dffffffffffe s next := by
  unfold execCoreUndervoltage at h
  cases h
  skip
  repeat' first
    | with_reducible exact Keeps.refl _ _
    | with_reducible assumption
    | ((with_reducible apply State.assertReset_keeps); (case hm => exact rfl))
    | ((with_reducible apply State.coreUv_keeps); (case hm => exact rfl))
    | split
    | (dsimp only)

theorem execVfieldLow_keeps {s : State} {next : State} (h : execVfieldLow s = .next next) : Keeps 0x40004 s next := by
  unfold execVfieldLow at h
  cases h
  skip
  repeat' first
    | with_reducible exact Keeps.refl _ _
    | with_reducible assumption
    | ((with_reducible apply State.vfieldSet_keeps); (case hm => exact rfl))
    | split
    | (dsimp only)

theorem execVfieldHigh_keeps {s : State} {next : State} (h : execVfieldHigh s = .next next) : Keeps 0x40004 s next := by
  unfold execVfieldHigh at h
  cases h
  skip
  repeat' first
    | with_reducible exact Keeps.refl _ _
    | with_reducible assumption
    | ((with_reducible apply State.vfieldSet_keeps); (case hm => exact rfl))
    | split
    | (dsimp only)

theorem execShedRestore_keeps {s : State} {next : State} (h : execShedRestore s = .next next) : Keeps 0x80000040106 s next := by
  unfold execShedRestore at h
  cases h
  skip
  repeat' first
    | with_reducible exact Keeps.refl _ _
    | with_reducible assumption
    | ((with_reducible apply State.shedRestore_keeps); (case hm => exact rfl))
    | split
    | (dsimp only)

end Sys2Proof.Machine
end

