-- ==== Sys2Proof/Laws/KeepsCmdClk.lean ====
section
/-! SUPPORT. What each operation of Machine/CmdClk.lean may touch (Laws/Keeps.lean): the mask lists the fields it may change,
and the invariant of the block is kept. -/
set_option Elab.async false
set_option linter.all false
namespace Sys2Proof.Machine

theorem State.moscTrips_keeps {n0 : Nat} {s0 : State} {s : State} (hK : Keeps n0 s0 s) (hm : Keeps.sub 0x1d00000840004 n0 = true) :
    Keeps n0 s0 (State.moscTrips s) := by
  refine Keeps.step hK ?_ hm
  clear hK hm
  unfold State.moscTrips
  repeat' first
    | with_reducible exact Keeps.refl _ _
    | with_reducible assumption
    | ((with_reducible apply State.portDown_keeps); (case hm => exact rfl))
    | ((with_reducible apply State.moscTripped_keeps); (case hm => exact rfl))
    | (with_reducible refine Keeps.fold _ _ ?_ (fun u b hu => ?_))
    | (with_reducible refine Keeps.ofP2 (by assumption) ?_)
    | (with_reducible refine Keeps.ofP1 (by assumption) ?_)
    | (with_reducible refine Keeps.ofP3 (by assumption) ?_)
    | split
    | (dsimp only)

theorem State.hrcAttempt_keeps {n0 : Nat} {s0 : State} {s : State} {ok : Bool} (hK : Keeps n0 s0 s) (hm : Keeps.sub 0x3dffffffffffe n0 = true) :
    Keeps n0 s0 (State.hrcAttempt s ok) := by
  refine Keeps.step hK ?_ hm
  clear hK hm
  unfold State.hrcAttempt
  repeat' first
    | with_reducible exact Keeps.refl _ _
    | with_reducible assumption
    | ((with_reducible apply State.hrcPass_keeps); (case hm => exact rfl))
    | ((with_reducible apply State.safeRosc_keeps); (case hm => exact rfl))
    | ((with_reducible apply State.hrcMiss_keeps); (case hm => exact rfl))
    | (with_reducible refine Keeps.ofP2 (by assumption) ?_)
    | (with_reducible refine Keeps.ofP1 (by assumption) ?_)
    | (with_reducible refine Keeps.ofP3 (by assumption) ?_)
    | split
    | (dsimp only)

theorem State.railsRise_keeps {n0 : Nat} {s0 : State} {s : State} (hK : Keeps n0 s0 s) (hm : Keeps.sub 0x100000000000 n0 = true) :
    Keeps n0 s0 (State.railsRise s) := by
  refine Keeps.step hK ?_ hm
  clear hK hm
  unfold State.railsRise
  repeat' first
    | with_reducible exact Keeps.refl _ _
    | with_reducible assumption
    | ((with_reducible apply State.updClk_keeps); (case hm => exact rfl))
    | split
    | (dsimp only)

theorem State.moscPass_keeps {n0 : Nat} {s0 : State} {s : State} {us : Nat} (hK : Keeps n0 s0 s) (hm : Keeps.sub 0x6 n0 = true) :
    Keeps n0 s0 (State.moscPass s us) := by
  refine Keeps.step hK ?_ hm
  clear hK hm
  unfold State.moscPass
  repeat' first
    | with_reducible exact Keeps.refl _ _
    | with_reducible assumption
    | (extract_lets +onlyGivenNames -underBinder x; (with_reducible refine Keeps.cut (v := x) ?_ (fun hx => ?_)); subst x; rotate_left; clear_value x; rotate_right)
    | (extract_lets +onlyGivenNames -underBinder x; clear_value x)
    | ((with_reducible apply State.setB_keeps); (case hm => exact rfl))
    | ((with_reducible apply State.tbSource_keeps); (case hm => exact rfl))
    | ((with_reducible apply State.at__keeps); (case hm => exact rfl))
    | ((with_reducible apply State.set_keeps); (case hm => exact rfl))
    | ((with_reducible apply State.trimSource_keeps); (case hm => exact rfl))
    | (with_reducible refine Keeps.ofP2 (by assumption) ?_)
    | (with_reducible refine Keeps.ofP1 (by assumption) ?_)
    | (with_reducible refine Keeps.ofP3 (by assumption) ?_)
    | split
    | (dsimp only)

theorem State.moscLate_keeps {n0 : Nat} {s0 : State} {s : State} (hK : Keeps n0 s0 s) (hm : Keeps.sub 0x100000040006 n0 = true) :
    Keeps n0 s0 (State.moscLate s) := by
  refine Keeps.step hK ?_ hm
  clear hK hm
  unfold State.moscLate
  repeat' first
    | with_reducible exact Keeps.refl _ _
    | with_reducible assumption
    | ((with_reducible apply State.clkFail_keeps); (case hm => exact rfl))
    | ((with_reducible apply State.at__keeps); (case hm => exact rfl))
    | ((with_reducible apply State.updClk_keeps); (case hm => exact rfl))
    | (with_reducible refine Keeps.ofP2 (by assumption) ?_)
    | (with_reducible refine Keeps.ofP1 (by assumption) ?_)
    | (with_reducible refine Keeps.ofP3 (by assumption) ?_)
    | split
    | (dsimp only)

theorem State.coreStarts_keeps {n0 : Nat} {s0 : State} {s : State} {serviceN : Bool} {bootSafeN : Bool} (hK : Keeps n0 s0 s) (hm : Keeps.sub 0x10081007c0084 n0 = true) :
    Keeps n0 s0 (State.coreStarts s serviceN bootSafeN) := by
  refine Keeps.step hK ?_ hm
  clear hK hm
  unfold State.coreStarts
  repeat' first
    | with_reducible exact Keeps.refl _ _
    | with_reducible assumption
    | (extract_lets +onlyGivenNames -underBinder x; (with_reducible refine Keeps.cut (v := x) ?_ (fun hx => ?_)); subst x; rotate_left; clear_value x; rotate_right)
    | (extract_lets +onlyGivenNames -underBinder x; clear_value x)
    | ((with_reducible apply State.startSelect_keeps); (case hm => exact rfl))
    | ((with_reducible apply State.setSlot_keeps); (case hm => exact rfl))
    | ((with_reducible apply State.releaseCore_keeps); (case hm => exact rfl))
    | (dsimp only)

theorem State.pllLocks_keeps {n0 : Nat} {s0 : State} {s : State} {serviceN : Bool} {bootSafeN : Bool} (hK : Keeps n0 s0 s) (hm : Keeps.sub 0x10081007c0084 n0 = true) :
    Keeps n0 s0 (State.pllLocks s serviceN bootSafeN) := by
  refine Keeps.step hK ?_ hm
  clear hK hm
  unfold State.pllLocks
  repeat' first
    | with_reducible exact Keeps.refl _ _
    | with_reducible assumption
    | (extract_lets +onlyGivenNames -underBinder x; (with_reducible refine Keeps.cut (v := x) ?_ (fun hx => ?_)); subst x; rotate_left; clear_value x; rotate_right)
    | (extract_lets +onlyGivenNames -underBinder x; clear_value x)
    | ((with_reducible apply State.coreStarts_keeps); (case hm => exact rfl))
    | ((with_reducible apply State.pllLock_keeps); (case hm => exact rfl))
    | (with_reducible refine Keeps.ofP2 (by assumption) ?_)
    | (with_reducible refine Keeps.ofP1 (by assumption) ?_)
    | (with_reducible refine Keeps.ofP3 (by assumption) ?_)
    | split
    | (dsimp only)

theorem State.requalified_keeps {n0 : Nat} {s0 : State} {s : State} {src : Nat} (hK : Keeps n0 s0 s) (hm : Keeps.sub 0x100000040004 n0 = true) :
    Keeps n0 s0 (State.requalified s src) := by
  refine Keeps.step hK ?_ hm
  clear hK hm
  unfold State.requalified
  repeat' first
    | with_reducible exact Keeps.refl _ _
    | with_reducible assumption
    | ((with_reducible apply State.sourceOk_keeps); (case hm => exact rfl))
    | (with_reducible refine Keeps.ofP2 (by assumption) ?_)
    | (with_reducible refine Keeps.ofP1 (by assumption) ?_)
    | (with_reducible refine Keeps.ofP3 (by assumption) ?_)
    | split
    | (dsimp only)

theorem State.powerOn_keeps {n0 : Nat} {s0 : State} {s : State} {coreSrc : Bool} (hK : Keeps n0 s0 s) (hm : Keeps.sub 0x3dffffffffffe n0 = true) :
    Keeps n0 s0 (State.powerOn s coreSrc) := by
  refine Keeps.step hK ?_ hm
  clear hK hm
  unfold State.powerOn
  repeat' first
    | with_reducible exact Keeps.refl _ _
    | with_reducible assumption
    | (extract_lets +onlyGivenNames -underBinder x; (with_reducible refine Keeps.cut (v := x) ?_ (fun hx => ?_)); subst x; rotate_left; clear_value x; rotate_right)
    | (extract_lets +onlyGivenNames -underBinder x; clear_value x)
    | ((with_reducible apply State.coldRelease_keeps); (case hm => exact rfl))
    | ((with_reducible apply State.assertReset_keeps); (case hm => exact rfl))
    | split
    | (dsimp only)

theorem State.brownOutOver_keeps {n0 : Nat} {s0 : State} {s : State} {coreSrc : Bool} (hK : Keeps n0 s0 s) (hm : Keeps.sub 0x2180000400004 n0 = true) :
    Keeps n0 s0 (State.brownOutOver s coreSrc) := by
  refine Keeps.step hK ?_ hm
  clear hK hm
  unfold State.brownOutOver
  repeat' first
    | with_reducible exact Keeps.refl _ _
    | with_reducible assumption
    | ((with_reducible apply State.coldRelease_keeps); (case hm => exact rfl))
    | split
    | (dsimp only)

theorem State.rstLow_keeps {n0 : Nat} {s0 : State} {s : State} {ns : Nat} (hK : Keeps n0 s0 s) (hm : Keeps.sub 0x3dffffffffffe n0 = true) :
    Keeps n0 s0 (State.rstLow s ns) := by
  refine Keeps.step hK ?_ hm
  clear hK hm
  unfold State.rstLow
  repeat' first
    | with_reducible exact Keeps.refl _ _
    | with_reducible assumption
    | (extract_lets +onlyGivenNames -underBinder x; (with_reducible refine Keeps.cut (v := x) ?_ (fun hx => ?_)); subst x; rotate_left; clear_value x; rotate_right)
    | (extract_lets +onlyGivenNames -underBinder x; clear_value x)
    | ((with_reducible apply State.assertReset_keeps); (case hm => exact rfl))
    | ((with_reducible apply State.freeBool_keeps); (case hm => exact rfl))
    | (with_reducible refine Keeps.ofP2 (by assumption) ?_)
    | (with_reducible refine Keeps.ofP1 (by assumption) ?_)
    | (with_reducible refine Keeps.ofP3 (by assumption) ?_)
    | split
    | (with_reducible refine Keeps.leaf ?_ (h_boot := Keeps.chg (by decide)))
    | (dsimp only)

theorem State.releaseKind_keeps {n0 : Nat} {s0 : State} {s : State} {t : Nat} (hK : Keeps n0 s0 s) (hm : Keeps.sub 0x2180000400006 n0 = true) :
    Keeps n0 s0 (State.releaseKind s t) := by
  refine Keeps.step hK ?_ hm
  clear hK hm
  unfold State.releaseKind
  repeat' first
    | with_reducible exact Keeps.refl _ _
    | with_reducible assumption
    | ((with_reducible apply State.coldRelease_keeps); (case hm => exact rfl))
    | ((with_reducible apply State.warmRelease_keeps); (case hm => exact rfl))
    | split
    | (dsimp only)

theorem State.rstRises_keeps {n0 : Nat} {s0 : State} {s : State} {serviceN : Bool} {bootSafeN : Bool} (hK : Keeps n0 s0 s) (hm : Keeps.sub 0x31881007c0086 n0 = true) :
    Keeps n0 s0 (State.rstRises s serviceN bootSafeN) := by
  refine Keeps.step hK ?_ hm
  clear hK hm
  unfold State.rstRises
  repeat' first
    | with_reducible exact Keeps.refl _ _
    | with_reducible assumption
    | (extract_lets +onlyGivenNames -underBinder x; (with_reducible refine Keeps.cut (v := x) ?_ (fun hx => ?_)); subst x; rotate_left; clear_value x; rotate_right)
    | (extract_lets +onlyGivenNames -underBinder x; clear_value x)
    | ((with_reducible apply State.coreStarts_keeps); (case hm => exact rfl))
    | ((with_reducible apply State.releaseKind_keeps); (case hm => exact rfl))
    | split
    | (with_reducible refine Keeps.leaf ?_ (h_boot := Keeps.chg (by decide)))
    | (dsimp only)

theorem State.innerRelease_keeps {n0 : Nat} {s0 : State} {s : State} (hK : Keeps n0 s0 s) (hm : Keeps.sub 0x2180000400006 n0 = true) :
    Keeps n0 s0 (State.innerRelease s) := by
  refine Keeps.step hK ?_ hm
  clear hK hm
  unfold State.innerRelease
  repeat' first
    | with_reducible exact Keeps.refl _ _
    | with_reducible assumption
    | ((with_reducible apply State.releaseKind_keeps); (case hm => exact rfl))
    | split
    | (dsimp only)

theorem execMoscTrip_keeps {s : State} {next : State} (h : execMoscTrip s = .next next) : Keeps 0x1d00000840004 s next := by
  unfold execMoscTrip at h
  cases h
  skip
  repeat' first
    | with_reducible exact Keeps.refl _ _
    | with_reducible assumption
    | ((with_reducible apply State.moscTrips_keeps); (case hm => exact rfl))
    | split
    | (dsimp only)

theorem execLxoTrip_keeps {s : State} {next : State} (h : execLxoTrip s = .next next) : Keeps 0x100000040004 s next := by
  unfold execLxoTrip at h
  cases h
  skip
  repeat' first
    | with_reducible exact Keeps.refl _ _
    | with_reducible assumption
    | ((with_reducible apply State.lxoTripped_keeps); (case hm => exact rfl))
    | split
    | (dsimp only)

theorem execHrcTrip_keeps {s : State} {next : State} (h : execHrcTrip s = .next next) : Keeps 0x100000040004 s next := by
  unfold execHrcTrip at h
  cases h
  skip
  repeat' first
    | with_reducible exact Keeps.refl _ _
    | with_reducible assumption
    | ((with_reducible apply State.hrcTripped_keeps); (case hm => exact rfl))
    | split
    | (dsimp only)

theorem execPllLockLoss_keeps {s : State} {next : State} (h : execPllLockLoss s = .next next) : Keeps 0x4 s next := by
  unfold execPllLockLoss at h
  cases h
  unfold State.clocksRun
  repeat' first
    | with_reducible exact Keeps.refl _ _
    | with_reducible assumption
    | ((with_reducible apply State.pllLost_keeps); (case hm => exact rfl))
    | split
    | (dsimp only)

theorem execPllLocked_keeps {serviceN : Bool} {bootSafeN : Bool} {s : State} {next : State} (h : execPllLocked serviceN bootSafeN s = .next next) : Keeps 0x10081007c0084 s next := by
  unfold execPllLocked at h
  cases h
  unfold State.clocksRun
  repeat' first
    | with_reducible exact Keeps.refl _ _
    | with_reducible assumption
    | ((with_reducible apply State.pllLocks_keeps); (case hm => exact rfl))
    | split
    | (dsimp only)

theorem execSourceRequalified_keeps {src : Nat} {s : State} {next : State} (h : execSourceRequalified src s = .next next) : Keeps 0x100000040004 s next := by
  unfold execSourceRequalified at h
  cases h
  unfold State.clocksRun
  repeat' first
    | with_reducible exact Keeps.refl _ _
    | with_reducible assumption
    | ((with_reducible apply State.requalified_keeps); (case hm => exact rfl))
    | split
    | (dsimp only)

theorem execClockReturn_keeps {s : State} {next : State} (h : execClockReturn s = .next next) : Keeps 0x3dffffffffffe s next := by
  unfold execClockReturn at h
  cases h
  skip
  repeat' first
    | with_reducible exact Keeps.refl _ _
    | with_reducible assumption
    | ((with_reducible apply State.hostWrite_keeps); (case hm => exact rfl))
    | (dsimp only)

theorem execHrcQualAttempt_keeps {ok : Bool} {s : State} {next : State} (h : execHrcQualAttempt ok s = .next next) : Keeps 0x3dffffffffffe s next := by
  unfold execHrcQualAttempt at h
  cases h
  unfold State.clocksRun
  repeat' first
    | with_reducible exact Keeps.refl _ _
    | with_reducible assumption
    | ((with_reducible apply State.hrcAttempt_keeps); (case hm => exact rfl))
    | split
    | (dsimp only)

theorem execMoscQualified_keeps {us : Nat} {s : State} {next : State} (h : execMoscQualified us s = .next next) : Keeps 0x6 s next := by
  unfold execMoscQualified at h
  cases h
  unfold State.clocksRun
  repeat' first
    | with_reducible exact Keeps.refl _ _
    | with_reducible assumption
    | ((with_reducible apply State.moscPass_keeps); (case hm => exact rfl))
    | split
    | (dsimp only)

theorem execMoscQualTimeout_keeps {s : State} {next : State} (h : execMoscQualTimeout s = .next next) : Keeps 0x100000040006 s next := by
  unfold execMoscQualTimeout at h
  cases h
  unfold State.clocksRun
  repeat' first
    | with_reducible exact Keeps.refl _ _
    | with_reducible assumption
    | ((with_reducible apply State.moscLate_keeps); (case hm => exact rfl))
    | split
    | (dsimp only)

theorem execLxoQualified_keeps {s : State} {next : State} (h : execLxoQualified s = .next next) : Keeps 0x100000000004 s next := by
  unfold execLxoQualified at h
  cases h
  unfold State.clocksRun
  repeat' first
    | with_reducible exact Keeps.refl _ _
    | with_reducible assumption
    | ((with_reducible apply State.lxoPass_keeps); (case hm => exact rfl))
    | split
    | (dsimp only)

theorem execTrimStep_keeps {dev : Int} {s : State} {next : State} (h : execTrimStep dev s = .next next) : Keeps 0x40004 s next := by
  unfold execTrimStep at h
  cases h
  skip
  repeat' first
    | with_reducible exact Keeps.refl _ _
    | with_reducible assumption
    | ((with_reducible apply State.trimStep_keeps); (case hm => exact rfl))
    | split
    | (dsimp only)

theorem execDisciplineWindow_keeps {ppb : Int} {s : State} {next : State} (h : execDisciplineWindow ppb s = .next next) : Keeps 0x4 s next := by
  unfold execDisciplineWindow at h
  cases h
  skip
  repeat' first
    | with_reducible exact Keeps.refl _ _
    | with_reducible assumption
    | ((with_reducible apply State.discipline_keeps); (case hm => exact rfl))
    | split
    | (dsimp only)

theorem execNoFallbackRetry_keeps {s : State} {next : State} (h : execNoFallbackRetry s = .next next) : Keeps 0x100000000002 s next := by
  unfold execNoFallbackRetry at h
  cases h
  skip
  repeat' first
    | with_reducible exact Keeps.refl _ _
    | with_reducible assumption
    | ((with_reducible apply State.noFallRetry_keeps); (case hm => exact rfl))
    | split
    | (dsimp only)

theorem execExtrefQualified_keeps {s : State} {next : State} (h : execExtrefQualified s = .next next) : Keeps 0x40004 s next := by
  unfold execExtrefQualified at h
  cases h
  skip
  repeat' first
    | with_reducible exact Keeps.refl _ _
    | with_reducible assumption
    | ((with_reducible apply State.extrefOk_keeps); (case hm => exact rfl))
    | split
    | (dsimp only)

theorem execExtrefDisqualified_keeps {s : State} {next : State} (h : execExtrefDisqualified s = .next next) : Keeps 0x40004 s next := by
  unfold execExtrefDisqualified at h
  cases h
  skip
  repeat' first
    | with_reducible exact Keeps.refl _ _
    | with_reducible assumption
    | ((with_reducible apply State.extrefOk_keeps); (case hm => exact rfl))
    | split
    | (dsimp only)

theorem execRailsUp_keeps {s : State} {next : State} (h : execRailsUp s = .next next) : Keeps 0x100000000000 s next := by
  unfold execRailsUp at h
  cases h
  unfold State.clocksRun
  repeat' first
    | with_reducible exact Keeps.refl _ _
    | with_reducible assumption
    | ((with_reducible apply State.railsRise_keeps); (case hm => exact rfl))
    | split
    | (dsimp only)

theorem execPowerOnReset_keeps {coreSrc : Bool} {s : State} {next : State} (h : execPowerOnReset coreSrc s = .next next) : Keeps 0x3dffffffffffe s next := by
  unfold execPowerOnReset at h
  cases h
  skip
  repeat' first
    | with_reducible exact Keeps.refl _ _
    | with_reducible assumption
    | ((with_reducible apply State.powerOn_keeps); (case hm => exact rfl))
    | (dsimp only)

theorem execBrownOutRelease_keeps {coreSrc : Bool} {s : State} {next : State} (h : execBrownOutRelease coreSrc s = .next next) : Keeps 0x2180000400004 s next := by
  unfold execBrownOutRelease at h
  cases h
  skip
  repeat' first
    | with_reducible exact Keeps.refl _ _
    | with_reducible assumption
    | ((with_reducible apply State.brownOutOver_keeps); (case hm => exact rfl))
    | (dsimp only)

theorem execRstNAssert_keeps {lowNs : Nat} {s : State} {next : State} (h : execRstNAssert lowNs s = .next next) : Keeps 0x3dffffffffffe s next := by
  unfold execRstNAssert at h
  cases h
  skip
  repeat' first
    | with_reducible exact Keeps.refl _ _
    | with_reducible assumption
    | ((with_reducible apply State.rstLow_keeps); (case hm => exact rfl))
    | (dsimp only)

theorem execRstNRelease_keeps {serviceN : Bool} {bootSafeN : Bool} {s : State} {next : State} (h : execRstNRelease serviceN bootSafeN s = .next next) : Keeps 0x31881007c0086 s next := by
  unfold execRstNRelease at h
  cases h
  skip
  repeat' first
    | with_reducible exact Keeps.refl _ _
    | with_reducible assumption
    | ((with_reducible apply State.rstRises_keeps); (case hm => exact rfl))
    | (dsimp only)

theorem execResetRelease_keeps {s : State} {next : State} (h : execResetRelease s = .next next) : Keeps 0x2180000400006 s next := by
  unfold execResetRelease at h
  cases h
  skip
  repeat' first
    | with_reducible exact Keeps.refl _ _
    | with_reducible assumption
    | ((with_reducible apply State.innerRelease_keeps); (case hm => exact rfl))
    | (dsimp only)

end Sys2Proof.Machine
end

