-- ==== Sys2Proof/Tests/Sample.lean ====
section
/-! SUPPORT. Sample states of the tests: a device that runs, and small changes to it. -/
set_option Elab.async false
namespace Sys2Proof.Machine.State

/-- A device out of reset in the last skim frame of a lath frame: L = 100 ms, no site key, every engine at its reset value. -/
def up : State := { State.reset with
  now := 1095000
  boot := { rst := none, coreRst := false, first := true, locked := true }
  clk := { counts := true }
  lath := { running := true, cap := 1000000, due := 1100000, phase := 7, skim := 9, skimCap := 1090000 }
  sto := { State.reset.sto with served := true } }
/-- `up` with channel `n` in `c`. -/
def upCh (n : Nat) (c : Chan) : State := { up with uch := [(n, c)] }
/-- A channel in use in a mode. -/
def inMode (m : Nat) : Chan := { mode := m, started := true }

/-- `up` in a fabric: ports 1 and 2 UP, address 5, counters to originate with, devices 7 and 9 reached by those ports. -/
def fab2 : State := (({ up with
  lev := { up.lev with ready := true, tx := 40 }
  fab := { rt := { root := 3, level := 1, parent := some (3, 1, 7), routes := [(7, some (1, 1)), (9, some (2, 1))] } } }.set
    (fFportStatState 1) 3).set (fFportStatState 2) 3).set fFabAddrAddr 5
/-- An untagged frame from address 7. -/
def fr (vc kind tid dst ctr : Nat) (p : List Byte) : List Byte := mkFrame vc 0 0 7 dst tid kind 0 ctr (List.replicate 8 0#8) 0 p

/-- A command frame with a body, as host software pushes it (untagged), and as address 7 sends it to address 5. -/
def hf (b : List Byte) : List Byte := mkFrame 1 0 0 0 0 0 8 0xFF 3 (List.replicate 8 0#8) 0 b
def pf (flags : Nat) (b : List Byte) : List Byte := mkFrame 1 0 flags 7 5 9 8 1 3 (List.replicate 8 0#8) 0 b
/-- `up` with a site key and the mode LOCAL_TRUSTED stored. -/
def keyed : State := { up with
  lev := { up.lev with site := some (List.replicate 16 5#8) }, sto := { up.sto with ram := [(49152, 1#32)] } }

end Sys2Proof.Machine.State
end

