-- ==== Sys2Proof/Tests/Slice0.lean ====
section
/-! SUPPORT. Tests: ill-formed commands that the checks refuse, figures that the spec works out, and for each clause of the
statements a state and operands that meet its hypotheses. -/
namespace Sys2Proof.Machine.Tests
open Sys2Proof Sys2Proof.Machine Sys2Proof.Machine.State

section Slice0
set_option Elab.async false
set_option linter.unusedVariables false

/-! ### Well-formedness: each check refuses an ill-formed command -/

theorem test_wf_pageno : ∀ c ∈ ([
      .lockWrite 256 0#32, .softReset 256 0#32, .blockEnable 256 0#32, .gateRequest 256 0#32,
      .gateForce 256 0 true true 0#32, .ungate 256 0#32, .irqTestWrite 256 0#32, .irqStatClear 256 0#32] : List Instr),
    c.wf = false := by decide

theorem test_wf_channel : ∀ c ∈ ([
      .modeChange 96, .modeGapEnd 96, .fltClrRdbk 96, .fltClrLswSc 96, .fltClrLswOt 96, .fltClrOvv 96 0, .ovvDetect 96 0,
      .ovvAutoReentry 96 0, .oviDetect 96 0, .burdenClosure 96, .burdenClosureEnd 96 0, .lswSc 96, .lswOt 96,
      .lswOtRecovered 96, .diDebounce 96 0, .tachEdge 96 0, .tachTimeout 96, .countPulse 96 0, .fltFailsafeTimeout 96,
      .intervalEnd 96] : List Instr),
    c.wf = false := by decide

theorem test_wf_array : ∀ c ∈ ([
      .priWrite 120 1 0#32, .priRelinquish 120 0#32] : List Instr),
    c.wf = false := by decide

theorem test_wf_bound : ∀ c ∈ ([
      .priWrite 0 0 0#32, .priWrite 0 8 0#32, .correctionWrite 0 12 true 0#32, .setpointWrite 0 4 0#32,
      .loopParamWrite 0 0x80 0#32, .heldFieldWrite 0 4 0#32, .heldFieldWrite 0 0xC 0#32, .heldFieldWrite 0 0x20 0#32,
      .thetaWrite 0 6 0#32, .encoderTransition 2 0, .comboFire 4, .sourceRequalified 2] : List Instr),
    c.wf = false := by decide

theorem test_wf_core : ∀ c ∈ ([
      .conversionDone 8 0 true true, .dischargeEnd 8, .sluiceRequest 8 0, .urgentStart 8, .urgentResult 8 0 true true,
      .selfCheckBlockEnd 8, .stall 8, .tempBlockEnd 8, .correctionWrite 8 0 true 0#32] : List Instr),
    c.wf = false := by decide

theorem test_wf_port : ∀ c ∈ ([
      .pollCycleStart 4, .modbusReply 4 [], .replyTimeout 4, .retryGapEnd 4, .peatProgramDone 4 true, .phyLinkUp 4 true 0,
      .phyLinkDown 4, .phyTraining 4, .helloTimer 4, .helloReceived 4 [], .helloTimeout 4, .lsaReceived 4 [],
      .lsaAckReceived 4 [], .lsaRetransmit 4, .grantReceived 4 [], .pdelayTimer 4, .pdelayReqReceived 4 [],
      .pdelayRespReceived 4 [], .syncReceived 4 [], .tSlotStart 4 0, .frameSent 4, .discardedFrameReceived 4 [] true,
      .tFrameReceived 4 [], .publishReceived 4 [], .frameForward 4 [], .readRequest 4 [], .writeRequest 4 [],
      .subscribeRequest 4 [], .unsubscribeRequest 4 [], .streamReqReceived 4 [], .streamRelReceived 4 [],
      .streamLostReceived 4 [], .alarmReceived 4 [], .queryRequest 4 [], .queryNextRequest 4 [], .responseReceived 4 []] : List Instr),
    c.wf = false := by decide

theorem test_wf_zone : ∀ c ∈ ([
      .zoneModeWrite 96 0 0, .zoneModeRelinquish 96 0, .setpointWrite 96 0 0#32, .resetP 96, .resetTheta 96,
      .thetaWrite 96 0 0#32] : List Instr),
    c.wf = false := by decide

theorem test_wf_fen : ∀ c ∈ ([
      .fenModeWrite 32 0 0, .fenModeRelinquish 32 0] : List Instr),
    c.wf = false := by decide

theorem test_wf_loop : ∀ c ∈ ([
      .loopParamWrite 512 0 0#32, .heldFieldWrite 512 0 0#32] : List Instr),
    c.wf = false := by decide

theorem test_wf_fan : ∀ c ∈ ([
      .fanStartTimeout 24, .fanPulseTimeout 24, .retryOffEnd 24, .kickEnd 24, .fanFltClr 24, .learn 24, .learnAbort 24,
      .learnPointEnd 24, .ageUpdate 24] : List Instr),
    c.wf = false := by decide

theorem test_wf_range : ∀ c ∈ ([
      .lathEdge 16 {}, .skimEdge 16 {}, .gateForce 0 0x1000 true true 0#32, .gateForce 0 2 true true 0#32,
      .conversionDone 0 0x10000 true true, .urgentResult 0 0x10000 true true, .sluiceRequest 0 16, .zoneModeWrite 0 8 0,
      .zoneModeWrite 0 0 8, .zoneModeRelinquish 0 8, .fenModeWrite 0 8 0, .fenModeWrite 0 0 8, .fenModeRelinquish 0 8,
      .xformWrite 0x19000 0#32, .loopParamWrite 0 2 0#32, .heldFieldWrite 0 2 0#32, .activate 2, .phyLinkUp 0 true 8,
      .encoderTransition 0 4, .transactionTimeout 65536, .tidQuarantineEnd 65536, .keyScan { keys := 2 ^ 64 }] : List Instr),
    c.wf = false := by decide

theorem test_wf_source : ∀ c ∈ ([
      .regWrite (.fabric 4) [], .storeGo (.fabric 4) [], .activateOp (.fabric 4) [], .pageUnlock (.fabric 4) [],
      .keyRoll (.fabric 4) [], .sessionSet (.fabric 4) [], .sessionClr (.fabric 4) [], .trustSet (.fabric 4) [],
      .keyErase (.fabric 4) [], .graceSet (.fabric 4) [], .ident (.fabric 4) []] : List Instr),
    c.wf = false := by decide

/-- Commands with an operand at the last value that its check admits. -/
theorem test_wf_good : ∀ c ∈ ([
      .modeChange 95, .tempBlockEnd 7, .tachTimeout 0, .priWrite 119 7 5#32, .priWrite 0 1 5#32, .setpointWrite 95 3 0#32,
      .loopParamWrite 511 0x7C 0#32, .heldFieldWrite 511 0x1C 0#32, .thetaWrite 95 5 0#32, .learn 23, .phyLinkUp 3 true 7,
      .encoderTransition 1 3, .comboFire 3, .sourceRequalified 1, .activate 1, .ident (.fabric 3) []] : List Instr),
    c.wf = true := by decide

/-! ### Figures of the spec -/

/-- R66: the check value of the host port's CRC-16 over "123456789". -/
theorem test_crc16_check : crc16 [0x31, 0x32, 0x33, 0x34, 0x35, 0x36, 0x37, 0x38, 0x39] = 0x29B1 := by decide +kernel
/-- R273: the check value of the CRC-32 over "123456789". -/
theorem test_crc32_check : crc32 [0x31, 0x32, 0x33, 0x34, 0x35, 0x36, 0x37, 0x38, 0x39] = 0xCBF43926 := by decide +kernel
/-- The ageing example of *Fan governors*: 900 rpm at 54.29 % and 1080 rpm at 65.71 % give 57.46 % at 950 rpm. -/
theorem test_fan_baseline : divHalfUp (fanInterp [(900, pctQ 5429), (1080, pctQ 6571)] 950 * 100) 65536 = 5746 := by decide +kernel
/-- The member curve of *A worked floor*, half way between 24 °C (20 %) and 26 °C (60 %), and beyond its last point. -/
theorem test_fan_curve :
    pwl [(22 * 65536, 0), (24 * 65536, 20 * 65536), (26 * 65536, 60 * 65536), (27 * 65536, 100 * 65536)] (25 * 65536) = 40 * 65536
    ∧ pwl [(22 * 65536, 0), (24 * 65536, 20 * 65536), (26 * 65536, 60 * 65536), (27 * 65536, 100 * 65536)] (30 * 65536) = 100 * 65536 := by
  decide +kernel
/-- R10: the default lath period is 100 ms, and the skim period a tenth of it. -/
theorem test_periods : up.lathPeriod = 100000 ∧ up.skimPeriod = 10000 := by decide +kernel
/-- R432: the table's panel has a line of 1947 cycles of 10 ns and 604 lines to a frame. -/
theorem test_epd_frame :
    ((up.setWord rEpdGeom 0x02580320#32).setWord rEpdTiming 0x04550008#32).frameUs = 1947 * 604 / 100 := by decide +kernel
/-- R425, R424: the twentieth scan of a key reports it; the scan that completes the rectangle of the example posts GHOST for its
lowest suppressed key and reports neither. -/
theorem test_key_reported :
    ((({ up with key := { scanning := true, pres := [(0, 19)] } } : State).keyScan { keys := 1 }).key.fifo.map
      (fun e => (e.kind, e.code))) = [(0, 0)] := by decide +kernel
theorem test_key_ghost :
    (fun t : State => (t.key.rep, t.key.supp, t.key.fifo.map (fun e => (e.kind, e.code))))
      (({ up with key := { scanning := true, pres := [(8, 19), (9, 19)], cand := 3, rep := 3 } } : State).keyScan { keys := 0x303 })
    = (3, 0x300, [(2, 8)]) := by decide +kernel
/-- R1, R49: SYS.BLK_ID reads type 0xD000 and version 0x02. -/
theorem test_read_blk_id : (up.hostXact (readXact 0)).port.rdata = [0xD0000002#32] := by decide +kernel
/-- R488: while the core is held in reset a read drives nothing. -/
theorem test_read_in_reset : (State.reset.hostXact (readXact 0)).port.hostStatus = none := by decide +kernel
/-- R55: the two words of the sequence lock a page; the second alone does not. -/
theorem test_lock :
    ((up.hostWrite (rLock 8) 0x5A5A#32).hostWrite (rLock 8) 0xA5A5#32).locked 8 = true
    ∧ (up.hostWrite (rLock 8) 0xA5A5#32).locked 8 = false := by decide +kernel
/-- R61: an unassigned page answers BAD_ADDR (5), a word across a page's end SIZE_ERR (10). -/
theorem test_bad_addr : (up.hostXact (readXact 0x7000)).port.resp = 5 := by decide +kernel
theorem test_size_err : (up.hostXact { cmd := 0x11#8, addr := 0x8FFC#24 }).port.resp = 10 := by decide +kernel
/-- R426: from 01 to 00 is a step clockwise, and the fourth step of a detent counts. -/
theorem test_encoder :
    (({ up with key := { ab := [(0, 1)], sub := [(0, 3)] } } : State).encoderMove 0 0).get (fKeyEncCount 0) = 1 := by decide +kernel
/-- The queue is first in, first out. -/
theorem test_queue_front :
    (match step { up with pending := [.vfieldDip, .keyWake] } with | .next t => t.pending | _ => []) = [.keyWake] := by decide +kernel
/-- A word of the table spells no command: the rows give no bits. -/
theorem test_no_bits : decodeTableWord 32 0x12345678 = none ∧ up.withFetchWord 32 5 = up := ⟨rfl, rfl⟩

/-! ### The hypotheses of the statements can be met -/

theorem witness_OvervoltageProtects_1 :
    ∃ (s : State) (ch : Nat) (pin : Int), ch < 96
      ∧ s.coreOff = false
      ∧ 1 ≤ effMode (s.chan ch)
      ∧ effMode (s.chan ch) ≤ 10
      ∧ (if (s.chan ch).mode ∈ [5, 6, 7, 10] then (15000 : Int) else 12000) < pin :=
  ⟨upCh 3 (inMode 5), 3, 15001, by decide +kernel⟩
theorem witness_OvervoltageProtects_2 :
    ∃ (s : State) (ch : Nat) (ua : Int), ch < 96
      ∧ s.coreOff = false
      ∧ effMode (s.chan ch) = 2
      ∧ 32000 < ua
      ∧ (s.chan ch).burdenOpen = none
      ∧ (s.chan ch).faults &&& 0x10 = 0 :=
  ⟨upCh 3 (inMode 2), 3, 32001, by decide +kernel⟩
theorem witness_LswEventsTurnTheStageOff_1 :
    ∃ (s : State) (ch m : Nat) (k : Nat), ch < 96
      ∧ s.coreOff = false
      ∧ m = (if s.oddMember ch then ch - 1 else ch)
      ∧ ((k = 7 ∧ s.conducts ch = true) ∨ k = 8)
      ∧ 0xB ≤ effMode (s.chan m)
      ∧ effMode (s.chan m) ≤ 0xD :=
  ⟨upCh 3 { inMode 11 with lswOn := true }, 3, 3, 7, by decide +kernel⟩
theorem witness_LswEventsTurnTheStageOff_2 :
    ∃ (s : State) (ch m : Nat), ch < 96
      ∧ s.coreOff = false
      ∧ m = (if s.oddMember ch then ch - 1 else ch)
      ∧ (s.chan m).otOff = true :=
  ⟨upCh 3 { inMode 11 with otOff := true, faults := 0x80 }, 3, 3, by decide +kernel⟩
theorem witness_DigitalInputsCount_1 :
    ∃ (s : State) (ch : Nat) (mv : Int) (lv : Bool), ch < 96
      ∧ s.coreOff = false
      ∧ effMode (s.chan ch) = 5
      ∧ ((mv < 3000 ∧ lv = true) ∨ (4000 < mv ∧ lv = false)) :=
  ⟨upCh 3 (inMode 5), 3, 2999, true, by decide +kernel⟩
theorem witness_DigitalInputsCount_2 :
    ∃ (s : State) (ch : Nat) (dt t0 : Nat), ch < 96
      ∧ s.coreOff = false
      ∧ effMode (s.chan ch) = 6
      ∧ (s.chan ch).lastEdge = some t0 :=
  ⟨upCh 3 { inMode 6 with lastEdge := some 1090000, cnt := 0xFFFFFFFF }, 3, 30000, 1090000, by decide +kernel⟩
theorem witness_DigitalInputsCount_3 :
    ∃ (s : State) (ch : Nat) (t0 : Nat), ch < 96
      ∧ s.coreOff = false
      ∧ effMode (s.chan ch) = 6
      ∧ (s.chan ch).lastEdge = some t0 :=
  ⟨upCh 3 { inMode 6 with lastEdge := some 1090000, period := 5 }, 3, 1090000, by decide +kernel⟩
theorem witness_DigitalInputsCount_4 :
    ∃ (s : State) (ch : Nat) (lowUs : Nat), ch < 96
      ∧ s.coreOff = false
      ∧ effMode (s.chan ch) = 7 :=
  ⟨upCh 3 (inMode 7), 3, 200, by decide +kernel⟩
theorem witness_ModeChangesThroughTheGap_1 :
    ∃ (s : State) (ch : Nat) (new : Nat), ch < 96
      ∧ s.coreOff = false
      ∧ s.framesRun = true
      ∧ (s.chan ch).started = true
      ∧ s.oddMember ch = false
      ∧ s.now = (if s.outRate ch = .lath then s.lath.cap else s.lath.skimCap)
      ∧ s.get (fUchCfgMode ch) = new
      ∧ (s.chan ch).mode ≠ new :=
  ⟨{ upCh 4 { inMode 8 with latched := 0x20 } with now := 1000000, lv := [(33, some 5), (37, some 6)] }.set (fUchCfgMode 4) 13, 4, 13, by decide +kernel⟩
theorem witness_ModeChangesThroughTheGap_2 :
    ∃ (s : State) (ch : Nat) (g : Nat), ch < 96
      ∧ s.coreOff = false
      ∧ (s.chan ch).gapEnd = some g :=
  ⟨upCh 4 { inMode 6 with gapEnd := some 1096000, cnt := 7 }, 4, 1096000, by decide +kernel⟩
theorem witness_ProtectionTimersRunOut_1 :
    ∃ (s : State) (ch : Nat) (pin : Int), ch < 96
      ∧ s.coreOff = false
      ∧ (s.chan ch).hizProt = true :=
  ⟨upCh 4 { inMode 5 with hizProt := true, belowSince := some 1090000 }, 4, 14000, by decide +kernel⟩
theorem witness_ProtectionTimersRunOut_2 :
    ∃ (s : State) (ch : Nat) (t0 : Nat), ch < 96
      ∧ s.coreOff = false
      ∧ (s.chan ch).burdenOpen = some t0
      ∧ (s.chan ch).closure = none :=
  ⟨upCh 4 { inMode 2 with burdenOpen := some 1090000 }, 4, 1090000, by decide +kernel⟩
theorem witness_ProtectionTimersRunOut_3 :
    ∃ (s : State) (ch : Nat) (ua : Int) (t0 : Nat), ch < 96
      ∧ s.coreOff = false
      ∧ (s.chan ch).closure = some t0 :=
  ⟨upCh 4 { inMode 2 with burdenOpen := some 90000, closure := some 1090000 }, 4, 30000, 1090000, by decide +kernel⟩
theorem witness_ProtectionTimersRunOut_4 :
    ∃ (s : State) (ch : Nat) (e : Nat), ch < 96
      ∧ s.coreOff = false
      ∧ (s.chan ch).fsEnd = some e :=
  ⟨upCh 4 { inMode 13 with fltDir := 1, fsEnd := some 1096000 }, 4, 1096000, by decide +kernel⟩
theorem witness_HostLevelsWaitForTheEdge_1 :
    ∃ (s : State) (out a : Nat) (w : Word) (lv : Nat), out < 120
      ∧ s.HostOpen a w
      ∧ 1 ≤ lv
      ∧ lv ≤ 7
      ∧ a = (if out < 96 then rUchPri out (lv - 1) else rFanDrvpri (out - 96) (lv - 1)) :=
  ⟨up, 95, rUchPri 95 6, 0x80000000, 7, by unfold State.HostOpen regsOk; decide +kernel⟩
theorem witness_HostLevelsWaitForTheEdge_2 :
    ∃ (s : State) (out a : Nat) (w : Word), out < 120
      ∧ s.HostOpen a w
      ∧ a = (if out < 96 then rUchPriRel out else rFanDrvpriRel (out - 96))
      ∧ w &&& 0xFFFFFF01#32 = 0 :=
  ⟨up, 0, rUchPriRel 0, 0x82, by unfold State.HostOpen regsOk; decide +kernel⟩
theorem witness_FaultClearsReleaseTheLatch_1 :
    ∃ (s : State) (ch : Nat) (k : Nat), ch < 96
      ∧ 6 ≤ k
      ∧ k ≤ 8
      ∧ s.HostOpen (rUchFltClr ch) (BitVec.ofNat 32 (2 ^ (k - 1)))
      ∧ (s.chan ch).latched &&& 2 ^ (k - 1) ≠ 0 :=
  ⟨upCh 3 { inMode 11 with latched := 0x60, faults := 0x60, streak := 3 }, 3, 6, by unfold State.HostOpen regsOk; decide +kernel⟩
theorem witness_FaultClearsReleaseTheLatch_2 :
    ∃ (s : State) (ch : Nat) (pin : Int), ch < 96
      ∧ s.HostOpen (rUchFltClr ch) 8
      ∧ s.coreOff = false
      ∧ (s.chan ch).hizProt = true
      ∧ pin < (if (s.chan ch).mode ∈ [5, 6, 7, 10] then (14000 : Int) else 11000) :=
  ⟨upCh 3 { inMode 5 with hizProt := true, faults := 8 }, 3, 13999, by unfold State.HostOpen regsOk; decide +kernel⟩
theorem witness_LathEdgesBeginTheNextFrame_1 :
    ∃ (s : State) (u : Nat) (meas : Meas), s.framesRun = true
      ∧ s.lath.resetAtEdge = none
      ∧ s.switchDue = false :=
  ⟨{ upCh 3 { inMode 8 with out := 65536 } with lv := [(29, some 131072)] }, 0, {}, by decide +kernel⟩
theorem witness_LathEdgesBeginTheNextFrame_2 :
    ∃ (s : State) (u : Nat) (meas : Meas), s.framesRun = true
      ∧ s.lath.resetAtEdge = none
      ∧ s.switchDue = true :=
  ⟨{ up with lath := { up.lath with act := some { stage := .accepted } } }, 0, {}, by decide +kernel⟩
theorem witness_LathEdgesBeginTheNextFrame_3 :
    ∃ (s : State) (u : Nat) (meas : Meas) (c : Nat), s.framesRun = true
      ∧ s.lath.resetAtEdge = some c
      ∧ s.boot.rst = none
      ∧ s.boot.first = true
      ∧ (c = 5 ∨ c = 6 ∨ c = 7) :=
  ⟨{ up with lath := { up.lath with resetAtEdge := some 5 } }, 1, {}, 5, by decide +kernel⟩
theorem witness_SkimEdgesAdvanceTheFrame_1 :
    ∃ (s : State) (u : Nat) (meas : Meas), s.framesRun = true
      ∧ s.lath.skim < 9 :=
  ⟨{ up with lath := { up.lath with skim := 8, skimCap := 1080000, phase := 3 } }, 0, {}, by decide +kernel⟩
theorem witness_SkimEdgesAdvanceTheFrame_2 :
    ∃ (s : State) (u : Nat) (meas : Meas), s.framesRun = true
      ∧ 9 ≤ s.lath.skim :=
  ⟨up, 0, {}, by decide +kernel⟩
theorem witness_SkimEdgesAdvanceTheFrame_3 :
    ∃ (s : State), s.framesRun = true
      ∧ 2 ≤ s.lath.phase
      ∧ s.lath.phase ≤ 6 :=
  ⟨{ up with lath := { up.lath with phase := 2 } }, by decide +kernel⟩
theorem witness_WrittenParametersTakeEffect_1 :
    ∃ (s : State), s.framesRun = true
      ∧ s.now = s.lath.skimCap :=
  ⟨{ up with now := 1090000, hostLv := [{ out := 3, lv := 4, v := some 7 }], held := [(rUchCfg 3, some 0)] }, by decide +kernel⟩
theorem witness_WrittenParametersTakeEffect_2 :
    ∃ (s : State), s.framesRun = true
      ∧ s.now = s.lath.cap
      ∧ s.lath.phase = 2 :=
  ⟨{ up with now := 1000000, hostLv := [{ out := 3, lv := 4, v := some 7 }], lath := { up.lath with phase := 2 } }, by decide +kernel⟩
theorem witness_WrittenParametersTakeEffect_3 :
    ∃ (s : State), s.HostOpen rLathCtrl (s.word rLathCtrl ||| 1#32)
      ∧ s.locked 3 = false
      ∧ s.word rLathCtrl &&& 0xFFFFFEFE#32 = 0 :=
  ⟨(up.set fLathStatFailsafe 1).setL0 5 .path 0, by unfold State.HostOpen regsOk; decide +kernel⟩
theorem witness_ActivationsAreCheckedThenSwitched_1 :
    ∃ (s : State) (a : Activation) (v : State) (r : Verdict), s.coreOff = false
      ∧ s.lath.act = some a
      ∧ a.stage = .applied
      ∧ a.startup = false
      ∧ v = s.actView a
      ∧ r = v.lathCheck v.dir.pend s.net.pend s.tab.pend v.dlv.pend :=
  ⟨{ up with lath := { up.lath with act := some {} } }, {}, ({ up with lath := { up.lath with act := some {} } } : State).actView ({} : Activation), (({ up with lath := { up.lath with act := some {} } } : State).actView ({} : Activation) : State).lathCheck (({ up with lath := { up.lath with act := some {} } } : State).actView ({} : Activation) : State).dir.pend [] [] [], by decide +kernel⟩
theorem witness_ActivationsAreCheckedThenSwitched_2 :
    ∃ (s : State) (a : Activation) (l : Nat), s.alive = true
      ∧ s.lath.gapTo = none
      ∧ s.lath.running = true
      ∧ s.lath.atE = true
      ∧ s.lath.act = some a
      ∧ l = 10000 * ((s.actView a).get fLathPendPeriodPeriod) :=
  ⟨{ up with lath := { up.lath with atE := true, act := some { stage := .accepted, slot := 1 } } }, { stage := .accepted, slot := 1 }, 100000, by decide +kernel⟩
theorem witness_ActivationsAreCheckedThenSwitched_3 :
    ∃ (s : State) (e : Nat), s.alive = true
      ∧ s.lath.gapTo = none
      ∧ s.lath.running = false
      ∧ s.lath.safeSel = true
      ∧ s.softRst = []
      ∧ e = (s.lath.readyAt / s.lathPeriod + 1) * s.lathPeriod :=
  ⟨{ up with boot := { up.boot with first := false }, lath := { safeSel := true, readyAt := 1090000 } }, 1100000, by decide +kernel⟩
theorem witness_ActivationsAreCheckedThenSwitched_4 :
    ∃ (s : State) (e : Nat), s.alive = true
      ∧ s.lath.gapTo = some e :=
  ⟨{ up with lath := { up.lath with gapTo := some 1200000, running := false } }, 1200000, by decide +kernel⟩
theorem witness_LowestLevelWins_1 :
    ∃ (s : State) (n : Nat) (k : Nat) (v : Int), n < 96
      ∧ (s.chan n).started = true
      ∧ s.isOutput n = true
      ∧ s.driveGov n = none
      ∧ s.level n k = some v
      ∧ k ≤ 7
      ∧ (∀ j < k, s.level n j = none) :=
  ⟨{ upCh 3 (inMode 8) with lv := [(28, some 700000), (31, some 3)] }, 3, 4, 700000, by decide +kernel⟩
theorem witness_LowestLevelWins_2 :
    ∃ (s : State) (n : Nat), n < 96
      ∧ (s.chan n).started = true
      ∧ s.isOutput n = true
      ∧ s.driveGov n = none
      ∧ (∀ j < 8, s.level n j = none) :=
  ⟨upCh 3 (inMode 8), 3, by decide +kernel⟩
theorem witness_LowestLevelWins_3 :
    ∃ (s : State) (n : Nat) (k : Nat), n < 96
      ∧ (s.chan n).started = true
      ∧ s.isOutput n = true
      ∧ s.driveGov n = none
      ∧ 1 ≤ k
      ∧ k ≤ 7 :=
  ⟨upCh 3 (inMode 8), 3, 7, by decide +kernel⟩
theorem witness_TransactionsReachTheirWords_1 :
    ∃ (s : State) (x : Xact), s.XactOpen x
      ∧ xactOp x = 1 :=
  ⟨up, { cmd := 0x11#8, addr := 0x002028#24 }, by unfold State.XactOpen State.XactWhole; decide +kernel⟩
theorem witness_TransactionsReachTheirWords_2 :
    ∃ (s : State) (x : Xact) (r : State × Option Nat), s.XactOpen x
      ∧ xactOp x = 2
      ∧ winOf (xactStart x) ≠ some 2
      ∧ (s.authRequired = true → ∀ i < x.data.length, s.wordClass (xactStart x + 4 * i) (x.data.getD i 0) = 0)
      ∧ s.epdBars (xactStart x) x.data = none
      ∧ r = s.writeLocked {} (xactStart x) 0 x.data
      ∧ r.1.boot.cmdRst = none :=
  ⟨up, { cmd := 0x20#8, addr := 0x00400C#24, data := [1] }, (up : State).writeLocked {} (xactStart ({ cmd := 0x20#8, addr := 0x00400C#24, data := [1] } : Xact)) 0 ({ cmd := 0x20#8, addr := 0x00400C#24, data := [1] } : Xact).data, by unfold State.XactOpen State.XactWhole; decide +kernel⟩
theorem witness_TransactionsReachTheirWords_3 :
    ∃ (s : State) (x : Xact), s.XactOpen x
      ∧ xactOp x = 4
      ∧ isMailbox (xactStart x) = true
      ∧ s.mailboxRoom (xactStart x) (xactLen x) = true
      ∧ (s.mailPush (xactStart x) x.data).boot.cmdRst = none :=
  ⟨up, { cmd := 0x40#8, addr := 0x080060#24, data := [0x12345678] }, by unfold State.XactOpen State.XactWhole; decide +kernel⟩
theorem witness_RefusedTransactionsChangeNothing_1 :
    ∃ (s : State) (x : Xact) (c : Instr) (code : Nat), (c = (if xactOp x = 2 ∨ xactOp x = 4 then .registerWrite x else .hostRead x))
      ∧ s.boot.coreRst = false
      ∧ s.boot.cmdRst = none
      ∧ ((code = 8 ∧ x.whole = true ∧ (xactOp x = 1 ∨ ((xactOp x = 2 ∨ xactOp x = 4) ∧ x.data.length = xactLen x)) ∧ s.bit fHostCfgCrcEn = true ∧ crc16 (xactBytes x) ≠ x.crc.toNat) ∨ (code = 10 ∧ (¬ (x.whole = true ∧ (xactOp x = 1 ∨ ((xactOp x = 2 ∨ xactOp x = 4) ∧ x.data.length = xactLen x))) ∨ (s.XactWhole x ∧ sizeOk (xactStart x) (xactLen x) = false))) ∨ (s.XactWhole x ∧ sizeOk (xactStart x) (xactLen x) = true ∧ ((code = 5 ∧ (xactStart x % 4 ≠ 0 ∨ addrOk (xactStart x) = false ∨ (xactOp x = 4 ∧ isMailbox (xactStart x) = false))) ∨ (xactStart x % 4 = 0 ∧ addrOk (xactStart x) = true ∧ ((code = 4 ∧ xactOp x = 2 ∧ xactLen x = 1 ∧ s.authRequired = true ∧ s.wordClass (xactStart x) (x.data.getD 0 0) ≠ 0) ∨ (xactOp x = 1 ∧ winOf (xactStart x) ≠ some 2 ∧ ((code = 9 ∧ s.notReady (xactStart x) (xactLen x) = true) ∨ (code = 6 ∧ s.notReady (xactStart x) (xactLen x) = false ∧ s.gatedAt (xactStart x) (xactLen x) = true)))))))) :=
  ⟨up.set fHostCfgCrcEn 1, { cmd := 0x20#8, addr := 0x008100#24, data := [8], crc := 1 }, .registerWrite { cmd := 0x20#8, addr := 0x008100#24, data := [8], crc := 1 }, 8, by unfold State.XactWhole; decide +kernel⟩
theorem witness_RefusedTransactionsChangeNothing_2 :
    ∃ (s : State) (x : Xact) (c : Instr), (c = (if xactOp x = 2 ∨ xactOp x = 4 then .registerWrite x else .hostRead x))
      ∧ s.boot.coreRst = true :=
  ⟨State.reset, { cmd := 0x10#8, addr := 0x008100#24 }, .hostRead ({ cmd := 0x10#8, addr := 0x008100#24 } : Xact), by decide +kernel⟩
theorem witness_SixtyFourBitPairs_1 :
    ∃ (s : State) (a : Nat), pairLo a = true
      ∧ s.port.snap.map (fun x => x.1) ≠ some a :=
  ⟨up, rClkTbLo, by decide +kernel⟩
theorem witness_SixtyFourBitPairs_2 :
    ∃ (s : State) (a t0 : Nat) (w : Word), s.port.snap = some (a, w, t0)
      ∧ s.now ≤ t0 + 1000 :=
  ⟨{ up with port := { snap := some (rClkTbHi, 9, 1094000) } }, rClkTbHi, 1094000, 9, by decide +kernel⟩
theorem witness_SixtyFourBitPairs_3 :
    ∃ (s : State) (a : Nat), pairLo a = false
      ∧ (∀ x ∈ s.port.snap, x.1 = a → x.2.2 + 1000 < s.now) :=
  ⟨{ up with port := { snap := some (rClkTbHi, 9, 1093999) } }, rClkTbHi, by decide +kernel⟩
theorem witness_SixtyFourBitPairs_4 :
    ∃ (s : State) (x : Nat × Word × Nat), s.coreOff = false
      ∧ s.port.snap = some x :=
  ⟨{ up with port := { snap := some (rClkTbHi, 9, 1094500) } }, (rClkTbHi, 9, 1094500), by decide +kernel⟩
theorem witness_SixtyFourBitPairs_5 :
    ∃ (s : State) (a : Nat) (w : Word), (a = rCalSetLo ∨ a = rPeatPresetLo ∨ a = rLeveeSessUidLo)
      ∧ s.HostOpen a w
      ∧ s.locked (a / 0x1000) = false :=
  ⟨up, rCalSetLo, 5, by unfold State.HostOpen regsOk; decide +kernel⟩
theorem witness_SixtyFourBitPairs_6 :
    ∃ (s : State) (a t0 : Nat) (w : Word), s.coreOff = false
      ∧ s.port.staged = [(a, w, t0)] :=
  ⟨{ up with port := { staged := [(rCalSetLo, 5, 1094500)] } }, rCalSetLo, 1094500, 5, by decide +kernel⟩
theorem witness_BlockControl_1 :
    ∃ (s : State) (p : Nat) (b : Blk) (w v : Word), blkOfPage p = some b
      ∧ v = w &&& 0xFFFFFFFD#32
      ∧ s.HostOpen (rBlkCtrl p) v
      ∧ s.CtrlTaken b p v :=
  ⟨up, 0x08, .uch, 0, 0, by unfold State.HostOpen regsOk State.CtrlTaken; decide +kernel⟩
theorem witness_BlockControl_2 :
    ∃ (s : State) (p : Nat) (b : Blk) (w : Word), blkOfPage p = some b
      ∧ b = .conv
      ∧ s.HostOpen (rBlkCtrl p) (w &&& 0xFFFFFFFD#32)
      ∧ bitAt w 0 = false
      ∧ (List.range 12).any (fun i => (s.chan (12 * (p - 0x10) + i)).mode ≠ 0) = true :=
  ⟨upCh 3 (inMode 8), 0x10, .conv, 0, by unfold State.HostOpen regsOk; decide +kernel⟩
theorem witness_BlockControl_3 :
    ∃ (s : State) (p : Nat) (b : Blk) (w v : Word), blkOfPage p = some b
      ∧ v = (w ||| 4#32) &&& 0xFFFFFFFD#32
      ∧ s.HostOpen (rBlkCtrl p) v
      ∧ s.CtrlTaken b p v :=
  ⟨up, 0x08, .uch, 1, 5, by unfold State.HostOpen regsOk State.CtrlTaken; decide +kernel⟩
theorem witness_BlockControl_4 :
    ∃ (s : State) (p : Nat) (b : Blk) (w v : Word), blkOfPage p = some b
      ∧ v = w &&& 0xFFFFFFF9#32
      ∧ s.HostOpen (rBlkCtrl p) v
      ∧ s.CtrlTaken b p v :=
  ⟨(up.set (fBlkGated 0x10) 1).set (fBlkGateReq 0x10) 1, 0x10, .conv, 1, 1, by unfold State.HostOpen regsOk State.CtrlTaken; decide +kernel⟩
theorem witness_BlockControl_5 :
    ∃ (s : State) (p : Nat) (b : Blk) (w v : Word), blkOfPage p = some b
      ∧ v = w ||| 2#32
      ∧ s.HostOpen (rBlkCtrl p) v
      ∧ fixedEn b = false :=
  ⟨up, 0x10, .conv, 1, 3, by unfold State.HostOpen regsOk; decide +kernel⟩
theorem witness_BlockControl_6 :
    ∃ (s : State) (p : Nat) (b : Blk) (t0 : Nat), blkOfPage p = some b
      ∧ s.coreOff = false
      ∧ s.softRst.lookup p = some t0 :=
  ⟨{ up with softRst := [(0x10, 1094950)] }, 0x10, .conv, 1094950, by decide +kernel⟩
theorem witness_BlockControl_7 :
    ∃ (s : State) (p : Nat) (b : Blk) (off : Nat) (write took : Bool) (w : Word), blkOfPage p = some b
      ∧ 0x20 ≤ off
      ∧ off < 0x1000
      ∧ off % 4 = 0
      ∧ s.HostOpen (0x1000 * p + off) w
      ∧ s.coreOff = false
      ∧ s.bit (fBlkGateReq p) = true
      ∧ s.enAck p = false
      ∧ s.bit (fBlkGated p) = false :=
  ⟨(up.set (fBlkGateReq 0x10) 1).set (fBlkEnAck 0x10) 0, 0x10, .conv, 0x20, true, true, 0x100, by unfold State.HostOpen regsOk; decide +kernel⟩
theorem witness_CommonHeader_1 :
    ∃ (s : State) (p : Nat) (w : Word), s.HostOpen (rLock p) w :=
  ⟨up, 0x10, 0x5A5A, by unfold State.HostOpen regsOk; decide +kernel⟩
theorem witness_CommonHeader_2 :
    ∃ (s : State) (p : Nat) (b : Blk) (w : Word), blkOfPage p = some b
      ∧ s.HostOpen (rIrqTest p) w :=
  ⟨up, 0x03, .lath, 0xFFFFFFFF, by unfold State.HostOpen regsOk; decide +kernel⟩
theorem witness_CommonHeader_3 :
    ∃ (s : State) (p : Nat) (w : Word), s.HostOpen (rIrqStat p) w :=
  ⟨up.setWord (rIrqStat 3) 5, 0x03, 4, by unfold State.HostOpen regsOk; decide +kernel⟩
theorem witness_CommonHeader_4 :
    ∃ (s : State) (w : Word), s.HostOpen rSysNmeStat w
      ∧ s.locked 0 = false :=
  ⟨{ (up.setWord rSysNmeStat 31) with flt := { tjHeld := true } }, 0xFFFFFFFF, by unfold State.HostOpen regsOk; decide +kernel⟩
theorem witness_CommonHeader_5 :
    ∃ (s : State) (w : Word), s.HostOpen rSysRstCmd w
      ∧ s.locked 0 = false
      ∧ s.boot.rst = none
      ∧ s.boot.first = true :=
  ⟨up, 0xC3C3, by unfold State.HostOpen regsOk; decide +kernel⟩
theorem witness_ScanConvertsSlotAfterSlot_1 :
    ∃ (s : State) (c : Nat) (code : Nat) (ovf hi : Bool), c < 8
      ∧ s.coreOff = false
      ∧ (s.core c).run = true
      ∧ (s.core c).ph = .conv :=
  ⟨{ up with cores := [(1, { run := true, slot := 5, t0 := 54750000 })] }, 1, 5, true, true, by decide +kernel⟩
theorem witness_ScanConvertsSlotAfterSlot_2 :
    ∃ (s : State) (c : Nat) (len : Nat), c < 8
      ∧ s.coreOff = false
      ∧ (s.core c).run = true
      ∧ (s.core c).ph = .disch
      ∧ len = (if (s.core c).left = 0 then 100 * s.slow else (s.core c).left) :=
  ⟨{ up with cores := [(1, { run := true, ph := .disch, slot := 0, ovr := 0x8000, t0 := 54750000 })] }, 1, 100, by decide +kernel⟩
theorem witness_ScanConvertsSlotAfterSlot_3 :
    ∃ (s : State) (c : Nat), c < 8
      ∧ s.coreOff = false
      ∧ (s.core c).run = true
      ∧ (s.core c).ph ≠ .urgent
      ∧ 7 ≤ (s.core c).since
      ∧ (s.core c).queue ≠ [] :=
  ⟨{ up with cores := [(1, { run := true, since := 7, queue := [(3, 0)], t0 := 54750000 })] }, 1, by decide +kernel⟩
theorem witness_ScanConvertsSlotAfterSlot_4 :
    ∃ (s : State) (c : Nat) (code slot req : Nat) (ovf hi : Bool) (q : List (Nat × Nat)), c < 8
      ∧ s.coreOff = false
      ∧ (s.core c).run = true
      ∧ (s.core c).ph = .urgent
      ∧ (s.core c).queue = (slot, req) :: q
      ∧ slot < 16
      ∧ req < 4 :=
  ⟨{ upCh 15 (inMode 1) with cores := [(1, { run := true, ph := .urgent, queue := [(3, 0), (4, 1)], t0 := 54750000 })] }, 1, 40000, 3, 0, false, false, [(4, 1)], by decide +kernel⟩
theorem witness_ScanConvertsSlotAfterSlot_5 :
    ∃ (s : State) (c : Nat), c < 8
      ∧ s.coreOff = false
      ∧ (s.core c).run = true
      ∧ s.bit (fConvFaultStall c) = false :=
  ⟨{ up with cores := [(1, { run := true, t0 := 54747000 })] }, 1, by decide +kernel⟩
theorem witness_ConverterResultsAndChecks_1 :
    ∃ (s : State) (ch c i due : Nat) (a : Acc), ch < 96
      ∧ c = ch / 12
      ∧ i = ch % 12
      ∧ s.coreOff = false
      ∧ (s.core c).run = true
      ∧ a = Map.look (fun _ => {}) (s.core c).cur i
      ∧ due = max (Map.look (fun _ => 0) (s.core c).lastEnd i / rateUs (s.eget (fUchCfgRate ch)) * rateUs (s.eget (fUchCfgRate ch)) + rateUs (s.eget (fUchCfgRate ch))) ((s.now + rateUs (s.eget (fUchCfgRate ch)) - 1) / rateUs (s.eget (fUchCfgRate ch)) * rateUs (s.eget (fUchCfgRate ch))) :=
  ⟨{ upCh 15 (inMode 1) with cores := [(1, { run := true, cur := [(3, { acc := 400000, n := 10 })], lastEnd := [(3, 1000000)] })] }, 15, 1, 3, 1100000, { acc := 400000, n := 10 }, by decide +kernel⟩
theorem witness_ConverterResultsAndChecks_2 :
    ∃ (s : State) (c slot : Nat) (w : Word), c < 8
      ∧ w = BitVec.ofNat 32 (0x100 + slot % 16)
      ∧ s.HostOpen (rConvSluice c) w
      ∧ s.locked (0x10 + c) = false :=
  ⟨{ up with cores := [(1, { run := true, queue := [(3, 0)] })] }, 1, 15, 0x10F, by unfold State.HostOpen regsOk; decide +kernel⟩
theorem witness_ConverterResultsAndChecks_3 :
    ∃ (s : State) (c x y : Nat), c < 8
      ∧ s.coreOff = false
      ∧ (s.core c).blk = some (x, y) :=
  ⟨{ up with cores := [(1, { run := true, blk := some (786688, 525000) })] }, 1, 786688, 525000, by decide +kernel⟩
theorem witness_ConverterResultsAndChecks_4 :
    ∃ (s : State) (c : Nat), c < 8
      ∧ s.coreOff = false
      ∧ (s.core c).n14 ≠ 0 :=
  ⟨{ up with cores := [(1, { run := true, t14 := 65536, n14 := 1 })] }, 1, by decide +kernel⟩
theorem witness_ConverterResultsAndChecks_5 :
    ∃ (s : State) (c i : Nat) (gain : Bool) (w : Word) (a : Nat), c < 8
      ∧ i < 12
      ∧ a = (if gain then rConvCorGain c i else rConvCorOfs c i)
      ∧ s.HostOpen a w
      ∧ s.locked (0x10 + c) = false
      ∧ (gain = true → 0x200000 ≤ w.toNat ∧ w.toNat ≤ 0x800000)
      ∧ (gain = false → w &&& 0xFF000000#32 = 0) :=
  ⟨up, 7, 11, true, 0x800000, rConvCorGain 7 11, by unfold State.HostOpen regsOk; decide +kernel⟩
theorem witness_WrittenFieldsWaitForTheEdge_1 :
    ∃ (s : State) (c : Instr) (a p k o : Nat) (w : Word) (d : RegDesc), p = a / 0x1000
      ∧ ((c = .xformWrite a w ∧ p = 0x18) ∨ (k < 96 ∧ o < 4 ∧ c = .setpointWrite k o w ∧ a = rZoneSp k o) ∨ (k < 512 ∧ o < 0x80 ∧ a = rLoopCfg k + o ∧ (c = .loopParamWrite k o w ∨ (c = .heldFieldWrite k o w ∧ (o = 0 ∨ (0x10 ≤ o ∧ o < 0x20))))))
      ∧ s.HostOpen a w
      ∧ s.locked p = false
      ∧ s.boot.first = true
      ∧ s.wordRefuse a w true = none
      ∧ descAt a = some d
      ∧ (s.regRate a).isSome :=
  ⟨up, .xformWrite (rSenseCfg 95) 0x1400#32, rSenseCfg 95, 0x18, 0, 0, 0x1400#32, ⟨0x100, 96, 32, 1, 0, 0x80000000, 0x7FFFFC00, 0x0, 0x0, 0x0, 0x0⟩, by unfold State.HostOpen regsOk; decide +kernel⟩
theorem witness_WrittenFieldsWaitForTheEdge_2 :
    ∃ (s : State) (c : Instr) (a p k o : Nat) (w : Word) (e : Nat), p = a / 0x1000
      ∧ ((c = .xformWrite a w ∧ p = 0x18) ∨ (k < 96 ∧ o < 4 ∧ c = .setpointWrite k o w ∧ a = rZoneSp k o) ∨ (k < 512 ∧ o < 0x80 ∧ a = rLoopCfg k + o ∧ (c = .loopParamWrite k o w ∨ (c = .heldFieldWrite k o w ∧ (o = 0 ∨ (0x10 ≤ o ∧ o < 0x20))))))
      ∧ s.HostOpen a w
      ∧ s.locked p = false
      ∧ s.boot.first = true
      ∧ s.wordRefuse a w true = some e
      ∧ (descAt a).isSome :=
  ⟨up, .xformWrite (rSenseCfg 95) 0x9000#32, rSenseCfg 95, 0x18, 0, 0, 0x9000#32, 0x40, by unfold State.HostOpen regsOk; decide +kernel⟩
theorem witness_ModeLevelsAndModelCommandsWait_1 :
    ∃ (s : State) (c : Instr) (fen rel : Bool) (k lv m a : Nat) (w : Word), 1 ≤ lv
      ∧ lv ≤ 7
      ∧ m ≤ 4
      ∧ k < (if fen then 32 else 96)
      ∧ c = (if fen then (if rel then .fenModeRelinquish k lv else .fenModeWrite k lv m) else (if rel then .zoneModeRelinquish k lv else .zoneModeWrite k lv m))
      ∧ a = (if fen then rZoneFenmodeWr k else rZoneModeWr k)
      ∧ w = modeWord lv (if rel then 0 else m) rel
      ∧ s.HostOpen a w
      ∧ s.boot.first = true :=
  ⟨up, .zoneModeWrite 95 7 4, false, false, 95, 7, 4, rZoneModeWr 95, modeWord 7 4 false, by unfold State.HostOpen regsOk; decide +kernel⟩
theorem witness_ModeLevelsAndModelCommandsWait_2 :
    ∃ (s : State) (z : Nat) (th : Bool), z < 96
      ∧ s.HostOpen (rTmeCmd z) (if th then 2#32 else 1#32) :=
  ⟨up, 95, true, by unfold State.HostOpen regsOk; decide +kernel⟩
theorem witness_ModeLevelsAndModelCommandsWait_3 :
    ∃ (s : State) (z i a : Nat) (w : Word), z < 96
      ∧ i < 6
      ∧ a = 0x1F0000 + 0x200 * z + 4 * i
      ∧ s.XactOpen (writeXact a w)
      ∧ (s.authRequired = true → s.wordClass a w = 0) :=
  ⟨up, 95, 5, 0x1FBE14, 0x3F800000, by unfold State.XactOpen State.XactWhole; decide +kernel⟩
theorem witness_ModeLevelsAndModelCommandsWait_4 :
    ∃ (s : State) (tod today due : Int), s.coreOff = false
      ∧ s.enAck 0x60 = true
      ∧ s.bit fTmeCfgSaveEn = true
      ∧ tod = 3600 * (s.get fTmeCfgSaveHour : Nat)
      ∧ today = s.localInstant (s.localDay s.calSec) tod
      ∧ due = (if today + 60 ≤ s.calSec then s.localInstant (s.localDay s.calSec + 1) tod else today) :=
  ⟨up, 3600 * (up.get fTmeCfgSaveHour : Nat), (up : State).localInstant ((up : State).localDay (up : State).calSec) (3600 * (up.get fTmeCfgSaveHour : Nat) : Int), (up : State).localInstant ((up : State).localDay (up : State).calSec) (3600 * (up.get fTmeCfgSaveHour : Nat) : Int), by decide +kernel⟩
theorem witness_RbusPollsItsUnits_1 :
    ∃ (s : State) (p : Nat), p < 4
      ∧ s.coreOff = false
      ∧ s.en (rbPage p) = true
      ∧ s.lath.running = true
      ∧ s.lath.safe = false
      ∧ (s.rport p).ph = .idle
      ∧ (s.rport p).ended ≤ s.lath.cap
      ∧ s.mapEntries p false ++ s.mapEntries p true ≠ [] :=
  ⟨(({ up with rbus := [(1, { plan := [{ slot := 2, func := 3, reg := 5, n := 1, entries := [0] }] })] }.set (fRbusUnitCfgEn 1 2) 1).set (fRbusMap0En 1 0) 1).set (fRbusMap0Unit 1 0) 2, 1, by decide +kernel⟩
theorem witness_RbusPollsItsUnits_2 :
    ∃ (s : State) (p : Nat) (x : RbTx) (rest : List RbTx) (bs : List Byte), p < 4
      ∧ s.coreOff = false
      ∧ s.en (rbPage p) = true
      ∧ (s.rport p).ph = .reply
      ∧ (s.rport p).todo = x :: rest
      ∧ x.slot < 32
      ∧ 4 ≤ bs.length
      ∧ leNat (bs.drop (bs.length - 2)) = crcModbus bs.dropLast.dropLast
      ∧ (bs.getD 0 0).toNat = s.get (fRbusUnitCfgAddr p x.slot)
      ∧ (bs.getD 1 0).toNat = x.func
      ∧ (x.func = 3 ∨ x.func = 4)
      ∧ bs.length = 5 + 2 * x.n
      ∧ (bs.getD 2 0).toNat = 2 * x.n :=
  ⟨{ up with rbus := [(1, { ph := .reply, tries := 1, todo := [{ slot := 2, func := 3, reg := 5, n := 1, entries := [0] }] })] }.set (fRbusUnitCfgAddr 1 2) 17, 1, { slot := 2, func := 3, reg := 5, n := 1, entries := [0] }, [], [17, 3, 2, 1, 2] ++ leBytes 2 (crcModbus [17, 3, 2, 1, 2]), by decide +kernel⟩
theorem witness_RbusPollsItsUnits_3 :
    ∃ (s : State) (p : Nat) (x : RbTx) (rest : List RbTx) (bs : List Byte), p < 4
      ∧ s.coreOff = false
      ∧ s.en (rbPage p) = true
      ∧ (s.rport p).ph = .reply
      ∧ (s.rport p).todo = x :: rest
      ∧ (s.rport p).tries < 4
      ∧ s.unitState p x.slot ≠ 2
      ∧ (bs.length < 4 ∨ leNat (bs.drop (bs.length - 2)) ≠ crcModbus bs.dropLast.dropLast) :=
  ⟨{ up with rbus := [(1, { ph := .reply, tries := 1, todo := [{ slot := 2, func := 3, reg := 5, n := 1, entries := [0] }] })] }, 1, { slot := 2, func := 3, reg := 5, n := 1, entries := [0] }, [], [17, 3, 2, 1, 2, 0, 0], by decide +kernel⟩
theorem witness_RbusPollsItsUnits_4 :
    ∃ (s : State) (p : Nat) (x : RbTx) (rest : List RbTx), p < 4
      ∧ s.coreOff = false
      ∧ s.en (rbPage p) = true
      ∧ (s.rport p).ph = .reply
      ∧ (s.rport p).todo = x :: rest
      ∧ x.slot < 32 :=
  ⟨{ up with rbus := [(1, { ph := .reply, tries := 1, todo := [{ slot := 2, func := 3, reg := 5, n := 1, entries := [0] }] })] }, 1, { slot := 2, func := 3, reg := 5, n := 1, entries := [0] }, [], by decide +kernel⟩
theorem witness_RbusPollsItsUnits_5 :
    ∃ (s : State) (p : Nat), p < 4
      ∧ s.coreOff = false
      ∧ s.en (rbPage p) = true
      ∧ (s.rport p).ph = .gap :=
  ⟨{ up with rbus := [(1, { ph := .gap, tries := 1 })] }, 1, by decide +kernel⟩
theorem witness_GovernorTimersMoveItsState_1 :
    ∃ (s : State) (g cnt : Nat), g < 24
      ∧ s.coreOff = false
      ∧ s.fanOn g = true
      ∧ s.enAck (fanPage g) = true
      ∧ cnt = (match s.fanTach g with | some m => (s.capOf m).cnt | none => 0)
      ∧ (s.fanSt g).state = 1
      ∧ (s.fanSt g).verify = 0 :=
  ⟨{ up with eng := { up.eng with fan := [(9, { state := 1, mark := some 0, t0 := 1000000 })] } }.set (fFanCfgEn 9) 1, 9, 0, by decide +kernel⟩
theorem witness_GovernorTimersMoveItsState_2 :
    ∃ (s : State) (g cnt : Nat), g < 24
      ∧ s.coreOff = false
      ∧ s.fanOn g = true
      ∧ s.enAck (fanPage g) = true
      ∧ cnt = (match s.fanTach g with | some m => (s.capOf m).cnt | none => 0)
      ∧ (s.fanSt g).state = 2
      ∧ 0 < (s.fanSt g).duty :=
  ⟨{ up with eng := { up.eng with fan := [(9, { state := 2, duty := 65536, pulseAt := 1000000 })] } }.set (fFanCfgEn 9) 1, 9, 0, by decide +kernel⟩
theorem witness_GovernorTimersMoveItsState_3 :
    ∃ (s : State) (g cnt : Nat), g < 24
      ∧ s.coreOff = false
      ∧ s.fanOn g = true
      ∧ s.enAck (fanPage g) = true
      ∧ cnt = (match s.fanTach g with | some m => (s.capOf m).cnt | none => 0)
      ∧ (s.fanSt g).state = 3 :=
  ⟨{ up with eng := { up.eng with fan := [(9, { state := 3, attempt := 2, t0 := 1000000 })] } }.set (fFanCfgEn 9) 1, 9, 0, by decide +kernel⟩
theorem witness_GovernorTimersMoveItsState_4 :
    ∃ (s : State) (g cnt : Nat), g < 24
      ∧ s.coreOff = false
      ∧ s.fanOn g = true
      ∧ s.enAck (fanPage g) = true
      ∧ cnt = (match s.fanTach g with | some m => (s.capOf m).cnt | none => 0)
      ∧ (s.fanSt g).state = 4 :=
  ⟨{ up with eng := { up.eng with fan := [(9, { state := 4, attempt := 2, mark := some 0, t0 := 1000000 })] } }.set (fFanCfgEn 9) 1, 9, 0, by decide +kernel⟩
theorem witness_GovernorCommandsAndLearning_1 :
    ∃ (s : State) (g : Nat) (k : Nat) (w : Word), g < 24
      ∧ ((k = 0 ∧ w = 1#32) ∨ (k = 2 ∧ w = 4#32) ∨ (k = 1 ∧ w = 2#32 ∧ (s.fanTach g).isSome ∧ s.get (fFanStatState g) ∉ [5, 8, 10]))
      ∧ s.HostOpen (rFanCmd g) w :=
  ⟨up, 23, 0, 1, by unfold State.HostOpen regsOk; decide +kernel⟩
theorem witness_GovernorCommandsAndLearning_2 :
    ∃ (s : State) (g : Nat), g < 24
      ∧ s.HostOpen (rFanCmd g) 2#32
      ∧ (s.fanTach g = none ∨ s.get (fFanStatState g) ∈ [5, 8, 10]) :=
  ⟨up, 23, by unfold State.HostOpen regsOk; decide +kernel⟩
theorem witness_GovernorCommandsAndLearning_3 :
    ∃ (s : State) (g : Nat) (cnt : Nat), g < 24
      ∧ s.coreOff = false
      ∧ s.fanOn g = true
      ∧ s.enAck (fanPage g) = true
      ∧ (s.fanSt g).state = 8
      ∧ cnt = (match s.fanTach g with | some m => (s.capOf m).cnt | none => 0) :=
  ⟨{ up with eng := { up.eng with fan := [(9, { state := 8, k := 3, mark := some 5, t0 := 1000000 })] } }.set (fFanCfgEn 9) 1, 9, 0, by decide +kernel⟩
theorem witness_GovernorCommandsAndLearning_4 :
    ∃ (s : State) (g : Nat) (m : Nat) (d : Int), g < 24
      ∧ s.coreOff = false
      ∧ s.fanOn g = true
      ∧ s.enAck (fanPage g) = true
      ∧ (s.fanSt g).minute = some m
      ∧ (s.fanSt g).x = some d
      ∧ s.now < 60000000 * (m + 2) :=
  ⟨{ up with eng := { up.eng with fan := [(9, { state := 2, minute := some 0, age := 600000, x := some 200000000 })] } }.set (fFanCfgEn 9) 1, 9, 0, 200000000, by decide +kernel⟩
theorem witness_BlockNetworkHostCommands_1 :
    ∃ (s : State) (i k : Nat) (w : Word) (r' : BRec), i = s.get fBlkParamSelInst
      ∧ k = s.get fBlkParamSelWord
      ∧ s.HostOpen rBlkParamVal w
      ∧ blkOn s.net.run i = true
      ∧ (k ≠ 0 ∨ (blkRec s.net.run i).typ ∉ [0x03, 0x35, 0x38, 0x37, 0x30, 0x39, 0x3F])
      ∧ r' = (match k with | 0 => { blkRec s.net.run i with arg := bitsOf w 0 16 } | 1 => { blkRec s.net.run i with w5 := w } | 2 => { blkRec s.net.run i with w6 := w } | _ => { blkRec s.net.run i with w7 := w }) :=
  ⟨{ up with net := { up.net with run := [(0, 0x95000000), (5, 9)], pend := [(0, 0x95000000), (5, 9)] } }.set fBlkParamSelWord 1, 0, 1, 0x10000, { blkRec ({ up with net := { up.net with run := [(0, 0x95000000), (5, 9)], pend := [(0, 0x95000000), (5, 9)] } }.set fBlkParamSelWord 1 : State).net.run 0 with w5 := 0x10000 }, by unfold State.HostOpen regsOk; decide +kernel⟩
theorem witness_BlockNetworkHostCommands_2 :
    ∃ (s : State) (w : Word), s.HostOpen rBlkParamVal w
      ∧ blkOn s.net.run (s.get fBlkParamSelInst) = false :=
  ⟨up, 5, by unfold State.HostOpen regsOk; decide +kernel⟩
theorem witness_BlockNetworkHostCommands_3 :
    ∃ (s : State) (w : Word) (i : Nat), i = bitsOf w 0 12
      ∧ w &&& 0xFFFFF000#32 = 0
      ∧ s.HostOpen rBlkViewSel w :=
  ⟨{ up with net := { up.net with run := [(0, 0x95000000), (5, 9)] } }, 0, 0, by unfold State.HostOpen regsOk; decide +kernel⟩
theorem witness_BlockNetworkHostCommands_4 :
    ∃ (s : State), s.HostOpen rSchedApply 1#32 :=
  ⟨up, by unfold State.HostOpen regsOk; decide +kernel⟩
theorem witness_CalendarIsSetAndChanges_1 :
    ∃ (s : State) (lo hi : Word) (v : Nat) (d : Int), v = lo.toNat + 2 ^ 32 * hi.toNat
      ∧ s.HostOpen rCalSetLo lo
      ∧ s.HostOpen rCalSetHi hi
      ∧ s.locked 0x68 = false
      ∧ d = (v : Int) - s.calSec
      ∧ v ≤ 0x17830D57F
      ∧ (s.bit fLathStatFsync = true → s.bit fFabStatRoot = true) :=
  ⟨up, 1000, 0, 1000, 999, by unfold State.HostOpen regsOk; decide +kernel⟩
theorem witness_CalendarIsSetAndChanges_2 :
    ∃ (s : State) (lo hi : Word) (v : Nat), v = lo.toNat + 2 ^ 32 * hi.toNat
      ∧ s.HostOpen rCalSetLo lo
      ∧ s.HostOpen rCalSetHi hi
      ∧ s.locked 0x68 = false
      ∧ (0x17830D57F < v ∨ (s.bit fLathStatFsync = true ∧ s.bit fFabStatRoot = false)) :=
  ⟨up, 0x7830D580, 1, 0x17830D580, by unfold State.HostOpen regsOk; decide +kernel⟩
theorem witness_CalendarIsSetAndChanges_3 :
    ∃ (s : State), s.coreOff = false
      ∧ s.bit fCalStatRange = false :=
  ⟨up, by decide +kernel⟩
theorem witness_CalendarIsSetAndChanges_4 :
    ∃ (s : State), s.coreOff = false
      ∧ s.dstAt s.calSec ≠ s.bit fCalStatDst :=
  ⟨up.set fCalStatDst 1, by decide +kernel⟩
theorem witness_CalendarIsSetAndChanges_5 :
    ∃ (s : State), s.coreOff = false :=
  ⟨(up.setWord (rCalDstStart) 0x835003C0).setWord rCalDstEnd 0x8A5003C0, by decide +kernel⟩
theorem witness_StoreRunsAreWholeOrRefused_1 :
    ∃ (s : State) (x : Xact) (r : Run), s.XactOpen x
      ∧ xactOp x = 2
      ∧ winOf (xactStart x) = some 2
      ∧ s.authRequired = false
      ∧ s.epdBars (xactStart x) x.data = none
      ∧ r = { src := .window, addr := xactStart x - 0x180000, bytes := wordsBytes x.data } :=
  ⟨up, { cmd := 0x20#8, addr := 0x180FFC#24, data := [1] }, { src := .window, addr := xactStart ({ cmd := 0x20#8, addr := 0x180FFC#24, data := [1] } : Xact) - 0x180000, bytes := wordsBytes ({ cmd := 0x20#8, addr := 0x180FFC#24, data := [1] } : Xact).data }, by unfold State.XactOpen State.XactWhole; decide +kernel⟩
theorem witness_StoreRunsAreWholeOrRefused_2 :
    ∃ (s : State) (addr len : Word), s.HostOpen rStoreRunAddr addr
      ∧ addr &&& 0xFFFC0000#32 = 0
      ∧ 1 ≤ len.toNat
      ∧ len.toNat ≤ 4096 :=
  ⟨{ up with sto := { up.sto with buf := [1, 2], armed := some 5 } }, 0x3FFFF, 0x1000, by unfold State.HostOpen regsOk; decide +kernel⟩
theorem witness_StoreRunsAreWholeOrRefused_3 :
    ∃ (s : State) (x : Xact), s.XactOpen x
      ∧ xactOp x = 4
      ∧ xactStart x = rStoreRunMbx
      ∧ s.runCanPush (xactLen x) = true :=
  ⟨up.set fStoreRunLenLen 3, { cmd := 0x40#8, addr := 0x070048#24, data := [0x12345678] }, by unfold State.XactOpen State.XactWhole; decide +kernel⟩
theorem witness_StoreRunsAreWholeOrRefused_4 :
    ∃ (s : State) (addr n : Nat) (r : Run), s.HostOpen rStoreRunCtrl 1#32
      ∧ addr = s.get fStoreRunAddrAddr
      ∧ n = s.get fStoreRunLenLen
      ∧ r = { src := .staged, addr := addr, bytes := s.sto.buf.take n } :=
  ⟨(({ up with sto := { up.sto with buf := [1, 2, 3, 4] } }).set fStoreRunLenLen 3).set fStoreRunAddrAddr 0x100, 0x100, 3, { src := .staged, addr := (0x100 : Nat), bytes := [1, 2, 3] }, by unfold State.HostOpen regsOk; decide +kernel⟩
theorem witness_StoreRunsAreWholeOrRefused_5 :
    ∃ (s : State), s.HostOpen rStoreRunCtrl 2#32 :=
  ⟨{ up with sto := { up.sto with buf := [1, 2] } }, by unfold State.HostOpen regsOk; decide +kernel⟩
theorem witness_StoreRunsAreWholeOrRefused_6 :
    ∃ (s : State) (r : Run) (p : Nat), s.sto.cur = some r
      ∧ p = r.addr / 256 + r.done
      ∧ s.sto.stop = none
      ∧ s.sto.queue = []
      ∧ s.sto.ended = []
      ∧ s.sto.served = true
      ∧ (r.src = .window ∨ r.src = .staged) :=
  ⟨{ up with sto := { up.sto with cur := some { src := .staged, addr := 0x1F0, bytes := List.replicate 32 7, total := 2 } } }, { src := .staged, addr := 0x1F0, bytes := List.replicate 32 7, total := 2 }, 1, by decide +kernel⟩
theorem witness_StoreRunsAreWholeOrRefused_7 :
    ∃ (s : State) (r : Run), s.sto.cur = some r
      ∧ s.sto.stop = none
      ∧ s.sto.queue = []
      ∧ s.sto.ended = []
      ∧ (r.src = .window ∨ r.src = .staged) :=
  ⟨{ up with sto := { up.sto with cur := some { src := .window, addr := 0x100, bytes := [7], total := 1 } } }, { src := .window, addr := 0x100, bytes := [7], total := 1 }, by decide +kernel⟩
theorem witness_BlockProtectArmingAndRecall_1 :
    ∃ (s : State) (w : Word), s.HostOpen rStoreUnlock w :=
  ⟨up, 0x00003C3C, by unfold State.HostOpen regsOk; decide +kernel⟩
theorem witness_BlockProtectArmingAndRecall_2 :
    ∃ (s : State) (a : Nat), s.coreOff = false
      ∧ s.sto.armed = some a :=
  ⟨{ up with sto := { up.sto with armed := some 1094000 } }, 1094000, by decide +kernel⟩
theorem witness_BlockProtectArmingAndRecall_3 :
    ∃ (s : State) (w : Word), s.HostOpen rStoreProtect w :=
  ⟨{ up with sto := { up.sto with armed := some 1094000, wpHigh := true } }, 2, by unfold State.HostOpen regsOk; decide +kernel⟩
theorem witness_BlockProtectArmingAndRecall_4 :
    ∃ (s : State) (high : Bool), s.sto.wpHigh ≠ high :=
  ⟨up, true, by decide +kernel⟩
theorem witness_BlockProtectArmingAndRecall_5 :
    ∃ (s : State), s.coreOff = false
      ∧ s.sto.served = false
      ∧ s.sto.queue = [] :=
  ⟨{ up with sto := { up.sto with served := false } }, by decide +kernel⟩
theorem witness_BlockProtectArmingAndRecall_6 :
    ∃ (s : State), s.coreOff = false
      ∧ s.sto.served = true
      ∧ s.sto.resv = false
      ∧ s.lev.dead = false
      ∧ s.fab.wait = [] :=
  ⟨up, by decide +kernel⟩
theorem witness_PeatFlushesAndPresets_1 :
    ∃ (s : State) (t0 : Nat), s.coreOff = false
      ∧ s.sto.served = true
      ∧ s.sto.pfw = false
      ∧ s.sto.flushRef = some t0 :=
  ⟨{ up with sto := { up.sto with flushRef := some 5, ents := up.sto.ents ++ [(2048, {})] } }, 5, by decide +kernel⟩
theorem witness_PeatFlushesAndPresets_2 :
    ∃ (s : State), s.HostOpen rPeatCtrl 1#32
      ∧ s.sto.served = true
      ∧ s.sto.pfw = false
      ∧ (∀ g < 24, s.bit (fFanPeatBEn g) = false) :=
  ⟨{ up with sto := { up.sto with ents := [(17, { v := 3 })] ++ up.sto.ents } }, by unfold State.HostOpen regsOk; decide +kernel⟩
theorem witness_PeatFlushesAndPresets_3 :
    ∃ (s : State) (b e : Nat) (op : POp) (rest : List POp), b < 4
      ∧ (s.pbank b).cur = some (e, op :: rest) :=
  ⟨{ up with sto := { up.sto with ents := [(17, { v := 3 })] ++ up.sto.ents, banks := [(1, { cur := some (17, [.base false 3 1 true, .base true 3 1 true]) })] } }, 1, 17, .base false 3 1 true, [.base true 3 1 true], by decide +kernel⟩
theorem witness_PeatFlushesAndPresets_4 :
    ∃ (s : State) (b e : Nat) (op : POp) (rest : List POp), b < 4
      ∧ (s.pbank b).cur = some (e, op :: rest) :=
  ⟨{ up with sto := { up.sto with ents := [(17, { v := 3, next := 2, epoch := 18 })] ++ up.sto.ents, banks := [(1, { cur := some (17, [.cell 2 3]) })] } }, 1, 17, .cell 2 3, [], by decide +kernel⟩
theorem witness_PeatFlushesAndPresets_5 :
    ∃ (s : State) (lo hi : Word) (e : Nat), s.HostOpen rPeatPresetLo lo
      ∧ s.HostOpen rPeatPresetHi hi
      ∧ s.locked 0x71 = false
      ∧ e = s.get fPeatSelEntry :=
  ⟨(up.setWord (rPeatMap 0) 0x80000011).set fPeatSelEntry 17, 5, 1, 17, by unfold State.HostOpen regsOk; decide +kernel⟩
theorem witness_ImagesAreLoadedAndChecked_1 :
    ∃ (s : State) (i : Nat), s.HostOpen rNstoreImgCtrl 1#32
      ∧ i = s.loadSlot :=
  ⟨up.set fNstoreStatActive 0, 1, by unfold State.HostOpen regsOk; decide +kernel⟩
theorem witness_ImagesAreLoadedAndChecked_2 :
    ∃ (s : State), s.coreOff = false :=
  ⟨{ up with nst := { loading := true, erasing := true } }, by decide +kernel⟩
theorem witness_ImagesAreLoadedAndChecked_3 :
    ∃ (s : State) (x : Xact), s.XactOpen x
      ∧ xactOp x = 4
      ∧ xactStart x = rNstoreImgMbx :=
  ⟨{ up with nst := { loading := true, buf := [1, 2, 3, 4] } }, { cmd := 0x40#8, addr := 0x07203C#24, data := [0x12345678] }, by unfold State.XactOpen State.XactWhole; decide +kernel⟩
theorem witness_ImagesAreLoadedAndChecked_4 :
    ∃ (s : State), s.HostOpen rNstoreImgCtrl 2#32 :=
  ⟨{ up with nst := { loading := true } }, by unfold State.HostOpen regsOk; decide +kernel⟩
theorem witness_ImagesAreLoadedAndChecked_5 :
    ∃ (s : State) (i : Nat) (b : List Byte), s.coreOff = false
      ∧ s.nst.checking = true
      ∧ i = s.loadSlot
      ∧ b = s.nst.buf :=
  ⟨{ up with nst := { loading := true, checking := true, buf := [1, 2] } }, 0, [1, 2], by decide +kernel⟩
theorem witness_ImagesAreLoadedAndChecked_6 :
    ∃ (s : State), s.HostOpen rNstoreImgCtrl 4#32 :=
  ⟨{ up with nst := { loading := true, buf := [1, 2] } }, by unfold State.HostOpen regsOk; decide +kernel⟩
theorem witness_ActivationsOfSlots_1 :
    ∃ (s : State) (slot i : Nat), i = slot % 2
      ∧ s.HostOpen rNstoreActivate (BitVec.ofNat 32 (1 + 0x100 * i)) :=
  ⟨up, 3, 1, by unfold State.HostOpen regsOk; decide +kernel⟩
theorem witness_ActivationsOfSlots_2 :
    ∃ (s : State) (i : Nat), s.coreOff = false
      ∧ s.nst.recDue = some i
      ∧ i < 2 :=
  ⟨{ up with nst := { recDue := some 0, slotB := { valid := true, aseq := 4 } } }, 0, by decide +kernel⟩
theorem witness_ActivationsOfSlots_3 :
    ∃ (s : State) (a : Activation), s.coreOff = false
      ∧ s.lath.act = some a
      ∧ a.startup = true
      ∧ a.stage = .refused :=
  ⟨{ up with boot := { up.boot with first := false }, lath := { act := some { slot := 0, startup := true, stage := .refused } } }.set fNstoreStatTried 1, { slot := 0, startup := true, stage := .refused }, by decide +kernel⟩
theorem witness_TrendUnitsAndQueries_1 :
    ∃ (s : State) (ok : Bool), s.coreOff = false
      ∧ s.nst.pendRecs ≠ []
      ∧ s.nst.segNew = true
      ∧ s.nst.segs.length < 59000 :=
  ⟨{ up with nst := { pendRecs := [{ time := 5, point := 1, st := 0, reason := 3, unit := 2, v := 7 }] } }, true, by decide +kernel⟩
theorem witness_TrendUnitsAndQueries_2 :
    ∃ (s : State) (x : Xact), s.XactOpen x
      ∧ xactOp x = 4
      ∧ xactStart x = rNstoreQryMbx
      ∧ s.nst.query = none :=
  ⟨up, { cmd := 0x43#8, addr := 0x07206C#24, data := [1, 0, 0, 9, 0, 1, 0, 0] }, by unfold State.XactOpen State.XactWhole; decide +kernel⟩
theorem witness_TrendUnitsAndQueries_3 :
    ∃ (s : State) (q : Query) (c : List Byte × Nat × Bool × Query), s.coreOff = false
      ∧ s.nst.query = some q
      ∧ q.owed = true
      ∧ c = s.queryChunk q false 170 63 :=
  ⟨{ up with nst := { segs := [{ base := 5, num := 0, recs := [{ time := 5, point := 1, st := 0, reason := 3, unit := 2, v := 7 }] }], query := some { points := [1], frm := 0, upto := 9 } } }, { points := [1], frm := 0, upto := 9 }, ({ up with nst := { segs := [{ base := 5, num := 0, recs := [{ time := 5, point := 1, st := 0, reason := 3, unit := 2, v := 7 }] }], query := some { points := [1], frm := 0, upto := 9 } } } : State).queryChunk ({ points := [1], frm := 0, upto := 9 } : Query) false 170 63, by decide +kernel⟩
theorem witness_TrendUnitsAndQueries_4 :
    ∃ (s : State) (q : Query), s.HostOpen rNstoreQryNext 1#32
      ∧ s.nst.query = some q :=
  ⟨{ up with nst := { query := some { points := [1], frm := 0, upto := 9, owed := false } } }, { points := [1], frm := 0, upto := 9, owed := false }, by unfold State.HostOpen regsOk; decide +kernel⟩
theorem witness_TrendUnitsAndQueries_5 :
    ∃ (s : State), s.HostOpen rNstoreQryNext 2#32 :=
  ⟨{ up with nst := { query := some { points := [1], frm := 0, upto := 9, owed := false } } }, by unfold State.HostOpen regsOk; decide +kernel⟩
theorem witness_PortsFindTheirNeighbours_1 :
    ∃ (s : State) (p : Nat), p < 4
      ∧ s.coreOff = false
      ∧ s.pstate p = 0 :=
  ⟨up, 3, by decide +kernel⟩
theorem witness_PortsFindTheirNeighbours_2 :
    ∃ (s : State) (p : Nat) (amp24 : Bool) (sqi : Nat), p < 4
      ∧ s.coreOff = false
      ∧ (s.pstate p = 0 ∨ s.pstate p = 1)
      ∧ sqi < 8 :=
  ⟨up, 3, true, 7, by decide +kernel⟩
theorem witness_PortsFindTheirNeighbours_3 :
    ∃ (s : State) (p : Nat), p < 4
      ∧ s.coreOff = false
      ∧ s.pstate p ≠ 6 :=
  ⟨fab2, 1, by decide +kernel⟩
theorem witness_PortsFindTheirNeighbours_4 :
    ∃ (s : State) (p : Nat), p < 4
      ∧ s.coreOff = false
      ∧ (s.pstate p = 2 ∨ s.pstate p = 3) :=
  ⟨fab2, 1, by decide +kernel⟩
theorem witness_PortsFindTheirNeighbours_5 :
    ∃ (s : State) (p : Nat) (f : List Byte) (uid : Nat), p < 4
      ∧ s.coreOff = false
      ∧ (s.pstate p = 2 ∨ s.pstate p = 3)
      ∧ frameOk f = true
      ∧ frVc f = 5
      ∧ frKind f = 0
      ∧ uid = be (frBody f) 0 8 :=
  ⟨fab2.set (fFportStatState 0) 2, 0, fr 5 0 0 0 1 (beBytes 8 77 ++ beBytes 8 0x70002020 ++ beBytes 8 fab2.uid), 77, by decide +kernel⟩
theorem witness_PortsFindTheirNeighbours_6 :
    ∃ (s : State) (p : Nat), p < 4
      ∧ s.coreOff = false
      ∧ (s.pstate p = 2 ∨ s.pstate p = 3) :=
  ⟨fab2, 1, by decide +kernel⟩
theorem witness_PortsFindTheirNeighbours_7 :
    ∃ (s : State) (p : Nat) (f : List Byte) (fcsOk : Bool), p < 4
      ∧ s.coreOff = false
      ∧ (s.pstate p = 2 ∨ s.pstate p = 3)
      ∧ (fcsOk && frameOk f) = false :=
  ⟨fab2, 1, [1, 2], false, by decide +kernel⟩
theorem witness_LinkStateAndRoutes_1 :
    ∃ (s : State) (p : Nat) (f : List Byte) (l : Lsa), p < 4
      ∧ s.coreOff = false
      ∧ s.isUp p = true
      ∧ frameOk f = true
      ∧ frVc f = 5
      ∧ frKind f = 1
      ∧ lsaOf (frBody f) = some l
      ∧ l.uid ≠ s.uid
      ∧ s.fab.rt.root ≠ s.uid
      ∧ s.myAddr = 0 :=
  ⟨fab2.set fFabAddrAddr 0, 1, fr 5 1 0 0 1 (lsaBytes { uid := 77, seq := 4 }), { uid := 77, seq := 4 }, by decide +kernel⟩
theorem witness_LinkStateAndRoutes_2 :
    ∃ (s : State) (p : Nat) (f : List Byte), p < 4
      ∧ s.coreOff = false
      ∧ s.isUp p = true
      ∧ frameOk f = true
      ∧ frVc f = 5
      ∧ frKind f = 2 :=
  ⟨{ fab2 with fab := { fab2.fab with ports := [(1, { unack := [{ uid := 77, seq := 4, kind := 1, payload := [], sent := 5 }] })] } }, 1, fr 5 2 0 0 1 (beBytes 8 77 ++ beBytes 4 4), by decide +kernel⟩
theorem witness_LinkStateAndRoutes_3 :
    ∃ (s : State) (p : Nat) (u : Unack), p < 4
      ∧ s.coreOff = false
      ∧ s.isUp p = true
      ∧ s.ctrFree = true
      ∧ (s.port_ p).unack = [u]
      ∧ (s.port_ p).linkQ = [] :=
  ⟨{ fab2 with fab := { fab2.fab with ports := [(1, { unack := [{ uid := 77, seq := 4, kind := 1, payload := [7], sent := 5 }] })] } }, 1, { uid := 77, seq := 4, kind := 1, payload := [7], sent := 5 }, by decide +kernel⟩
theorem witness_LinkStateAndRoutes_4 :
    ∃ (s : State), s.coreOff = false
      ∧ s.en 0x78 = true :=
  ⟨fab2, by decide +kernel⟩
theorem witness_LinkStateAndRoutes_5 :
    ∃ (s : State) (uid : Nat) (l : Lsa), s.coreOff = false
      ∧ s.en 0x78 = true
      ∧ lsaFind s.fab.db uid = some l
      ∧ uid ≠ s.uid :=
  ⟨{ fab2 with fab := { fab2.fab with db := [{ uid := 77, seq := 4, time := 9 }] } }, 77, { uid := 77, seq := 4, time := 9 }, by decide +kernel⟩
theorem witness_LinkStateAndRoutes_6 :
    ∃ (s : State) (c : Nat × Nat), s.coreOff = false
      ∧ s.en 0x78 = true
      ∧ s.fab.change = some c :=
  ⟨{ fab2 with fab := { fab2.fab with change := some (5, 1094000), db := [{ uid := 77, seq := 4, time := 9 }] } }, (5, 1094000), by decide +kernel⟩
theorem witness_LinkStateAndRoutes_7 :
    ∃ (s : State) (n : Nat × Routes) (c : Nat × Nat), s.coreOff = false
      ∧ s.en 0x78 = true
      ∧ s.fab.next = some n
      ∧ s.fab.change = some c :=
  ⟨{ fab2 with fab := { fab2.fab with change := some (5, 1094000), next := some (6, { root := 77, devs := 2 }) } }, (6, { root := 77, devs := 2 }), (5, 1094000), by decide +kernel⟩
theorem witness_LinkStateAndRoutes_8 :
    ∃ (s : State) (p : Nat) (f b : List Byte), p < 4
      ∧ s.coreOff = false
      ∧ s.isUp p = true
      ∧ frameOk f = true
      ∧ frVc f = 5
      ∧ frKind f = 6
      ∧ b = frBody f
      ∧ s.fab.seen.contains (be b 16 8, be b 12 4) = false :=
  ⟨fab2.set fFabAddrAddr 0, 1, fr 5 6 0 0 1 (beBytes 8 fab2.uid ++ beBytes 2 6 ++ beBytes 6 3 ++ beBytes 8 77), beBytes 8 fab2.uid ++ beBytes 2 6 ++ beBytes 6 3 ++ beBytes 8 77, by decide +kernel⟩
theorem witness_LinkStateAndRoutes_9 :
    ∃ (s : State) (w : Word), s.HostOpen rFabAddrReq w :=
  ⟨fab2, 0x80000009, by unfold State.HostOpen regsOk; decide +kernel⟩
theorem witness_FabricTimeAndTheCycle_1 :
    ∃ (s : State) (p : Nat), p < 4
      ∧ s.coreOff = false
      ∧ s.isUp p = true
      ∧ s.ctrFree = true
      ∧ (s.port_ p).linkQ = [] :=
  ⟨fab2, 1, by decide +kernel⟩
theorem witness_FabricTimeAndTheCycle_2 :
    ∃ (s : State) (p : Nat) (f : List Byte), p < 4
      ∧ s.coreOff = false
      ∧ s.isUp p = true
      ∧ frameOk f = true
      ∧ frVc f = 5
      ∧ frKind f = 3
      ∧ s.ctrFree = true
      ∧ (s.port_ p).linkQ = [] :=
  ⟨fab2, 1, fr 5 3 9 0 1 (beBytes 8 0), by decide +kernel⟩
theorem witness_FabricTimeAndTheCycle_3 :
    ∃ (s : State) (p t1 : Nat) (f : List Byte), p < 4
      ∧ s.coreOff = false
      ∧ s.isUp p = true
      ∧ frameOk f = true
      ∧ frVc f = 5
      ∧ frKind f = 4
      ∧ (s.port_ p).t1 = some (frTid f, t1) :=
  ⟨{ fab2 with fab := { fab2.fab with ports := [(1, { t1 := some (9, 77), delays := [1, 2, 3] })] } }, 1, 77, fr 5 4 9 0 1 (beBytes 8 0 ++ beBytes 8 7), by decide +kernel⟩
theorem witness_FabricTimeAndTheCycle_4 :
    ∃ (s : State), s.coreOff = false
      ∧ s.en 0x78 = true :=
  ⟨fab2, by decide +kernel⟩
theorem witness_FabricTimeAndTheCycle_5 :
    ∃ (s : State) (p : Nat) (f : List Byte) (q : Nat × Nat × Nat), p < 4
      ∧ s.coreOff = false
      ∧ s.isUp p = true
      ∧ frameOk f = true
      ∧ frVc f = 5
      ∧ frKind f = 5
      ∧ s.fab.rt.parent = some q :=
  ⟨fab2, 1, fr 5 5 0 0 1 (beBytes 8 0 ++ beBytes 8 7 ++ beBytes 8 0), (3, 1, 7), by decide +kernel⟩
theorem witness_FabricTimeAndTheCycle_6 :
    ∃ (s : State) (t0 : Nat), s.coreOff = false
      ∧ s.en 0x78 = true
      ∧ s.fab.syncAt = some t0
      ∧ s.fab.rt.root ≠ s.uid :=
  ⟨{ fab2 with fab := { fab2.fab with syncAt := some 5, offs := [1] } }.set fLathStatFsync 1, 5, by decide +kernel⟩
theorem witness_FabricTimeAndTheCycle_7 :
    ∃ (s : State), s.coreOff = false
      ∧ s.en 0x78 = true :=
  ⟨{ fab2 with now := 1095400, fab := { fab2.fab with ports := [(1, { bAllow := 4800 })] } }, by decide +kernel⟩
theorem witness_FabricTimeAndTheCycle_8 :
    ∃ (s : State) (p slot : Nat) (x : Nat × Nat × List Byte), p < 4
      ∧ s.coreOff = false
      ∧ s.isUp p = true
      ∧ (s.port_ p).tReg = [x]
      ∧ x.1 = slot :=
  ⟨{ fab2 with fab := { fab2.fab with ports := [(1, { tReg := [(2, 1096, fr 0 1 0 9 1 [])] })] } }.set fLathStatFsync 1, 1, 2, (2, 1096, fr 0 1 0 9 1 []), by decide +kernel⟩
theorem witness_FabricTimeAndTheCycle_9 :
    ∃ (s : State) (p : Nat) (x : OutFrame), p < 4
      ∧ s.coreOff = false
      ∧ s.isUp p = true
      ∧ (s.port_ p).linkQ.head? = some x
      ∧ wireOf x.bytes ≤ 3000
      ∧ (s.port_ p).till = 0
      ∧ s.now % 1000 < 500 :=
  ⟨{ fab2 with fab := { fab2.fab with ports := [(1, { linkQ := [{ vc := 5, bytes := fr 5 0 0 0 1 [] }], q := [{ vc := 1, bytes := [] }] })] } }, 1, { vc := 5, bytes := fr 5 0 0 0 1 [] }, by decide +kernel⟩
theorem witness_FabricTimeAndTheCycle_10 :
    ∃ (s : State), s.coreOff = false
      ∧ s.en 0x78 = true :=
  ⟨{ fab2 with now := 1095700, fab := { fab2.fab with ports := [(1, { tWait := [(1095600, fr 0 1 0 9 1 [])] })] } }.set fLathStatFsync 1, by decide +kernel⟩
theorem witness_RequestsOfPeersAreAnswered_1 :
    ∃ (s : State) (p : Nat) (f b : List Byte) (n : Nat), p < 4
      ∧ s.coreOff = false
      ∧ s.isUp p = true
      ∧ frameOk f = true
      ∧ frAuth f = false
      ∧ frRetry f = false
      ∧ frDst f = s.myAddr
      ∧ s.myAddr ≠ 0
      ∧ isGroup s.myAddr = false
      ∧ Map.look (fun _ => 0) s.dlv.last (frSrc f) ≤ frCtr f
      ∧ s.freeBuf p (frVc f - 1) ≠ 0
      ∧ b = frBody f
      ∧ frVc f = 1
      ∧ frKind f = 2
      ∧ n = byteAt b 0 :=
  ⟨fab2, 1, fr 1 2 5 5 9 [1, 0, 0, 3], [1, 0, 0, 3], 1, by decide +kernel⟩
theorem witness_RequestsOfPeersAreAnswered_2 :
    ∃ (s : State) (p : Nat) (f b : List Byte) (i lv : Nat) (v : Int) (rel : Bool) (r : Nat), p < 4
      ∧ s.coreOff = false
      ∧ s.isUp p = true
      ∧ frameOk f = true
      ∧ frAuth f = false
      ∧ frRetry f = false
      ∧ frDst f = s.myAddr
      ∧ s.myAddr ≠ 0
      ∧ isGroup s.myAddr = false
      ∧ Map.look (fun _ => 0) s.dlv.last (frSrc f) ≤ frCtr f
      ∧ s.freeBuf p (frVc f - 1) ≠ 0
      ∧ b = frBody f
      ∧ frVc f = 1
      ∧ frKind f = 3
      ∧ i = be b 0 2
      ∧ lv = byteAt b 2 % 8
      ∧ rel = bitNat (byteAt b 2) 7
      ∧ v = signedOf 32 (be b 4 4)
      ∧ (r = (if s.en 0x7D = false then 4 else if b.length ≠ 8 ∨ byteAt b 3 ≠ 0 ∨ byteAt b 2 / 8 % 16 ≠ 0 then 5 else if lv ≠ 0 ∧ lv ≠ 2 ∧ lv ≠ 4 then 1 else if 16384 ≤ i ∨ s.kindOf i ≠ some (if lv = 0 then 1 else 2) then 2 else if bitAt (entW s.dir.run i 0) 18 = false ∨ lv = 2 then 3 else if lv ≠ 0 ∧ bitsOf (entW s.dir.run i 1) 30 2 = 3 ∧ rel = false ∧ (v % 65536 ≠ 0 ∨ v < 0 ∨ 4 < v / 65536) then 1 else 0)) :=
  ⟨fab2, 1, fr 1 3 5 5 9 [0, 3, 4, 0, 0, 1, 0, 0], [0, 3, 4, 0, 0, 1, 0, 0], 3, 4, 65536, false, 2, by decide +kernel⟩
theorem witness_RequestsOfPeersAreAnswered_3 :
    ∃ (s : State) (p : Nat) (f b : List Byte) (i r : Nat), p < 4
      ∧ s.coreOff = false
      ∧ s.isUp p = true
      ∧ frameOk f = true
      ∧ frAuth f = false
      ∧ frRetry f = false
      ∧ frDst f = s.myAddr
      ∧ s.myAddr ≠ 0
      ∧ isGroup s.myAddr = false
      ∧ Map.look (fun _ => 0) s.dlv.last (frSrc f) ≤ frCtr f
      ∧ s.freeBuf p (frVc f - 1) ≠ 0
      ∧ b = frBody f
      ∧ frVc f = 1
      ∧ frKind f = 4
      ∧ i = be b 0 2
      ∧ (r = (if s.en 0x7D = false then 4 else if b.length ≠ 4 ∨ be b 2 2 ≠ 0 then 5 else if 16384 ≤ i ∨ entLocal s.dir.run i = false ∨ entPubEn s.dir.run i = false then 2 else if entClassT s.dir.run i = true ∨ entGroup s.dir.run i ≠ 0 ∨ (s.subList i).any (fun a => a.1 == frSrc f) = true then 0 else if 8 ≤ (s.subList i).length ∨ 8192 ≤ s.subUsed then 6 else 0)) :=
  ⟨fab2, 1, fr 1 4 5 5 9 [0, 3, 0, 0], [0, 3, 0, 0], 3, 2, by decide +kernel⟩
theorem witness_RequestsOfPeersAreAnswered_4 :
    ∃ (s : State) (p : Nat) (f b : List Byte) (i : Nat), p < 4
      ∧ s.coreOff = false
      ∧ s.isUp p = true
      ∧ frameOk f = true
      ∧ frAuth f = false
      ∧ frRetry f = false
      ∧ frDst f = s.myAddr
      ∧ s.myAddr ≠ 0
      ∧ isGroup s.myAddr = false
      ∧ Map.look (fun _ => 0) s.dlv.last (frSrc f) ≤ frCtr f
      ∧ s.freeBuf p (frVc f - 1) ≠ 0
      ∧ b = frBody f
      ∧ frVc f = 1
      ∧ frKind f = 5
      ∧ i = be b 0 2 :=
  ⟨{ fab2 with dir := { fab2.dir with subs := [(3, [(7, 5), (9, 6)])] } }, 1, fr 1 5 5 5 9 [0, 3, 0, 0], [0, 3, 0, 0], 3, by decide +kernel⟩
theorem witness_RequestsOfPeersAreAnswered_5 :
    ∃ (s : State) (p : Nat) (f b : List Byte), p < 4
      ∧ s.coreOff = false
      ∧ s.isUp p = true
      ∧ frameOk f = true
      ∧ frAuth f = false
      ∧ frRetry f = false
      ∧ frDst f = s.myAddr
      ∧ s.myAddr ≠ 0
      ∧ isGroup s.myAddr = false
      ∧ Map.look (fun _ => 0) s.dlv.last (frSrc f) ≤ frCtr f
      ∧ s.freeBuf p (frVc f - 1) ≠ 0
      ∧ b = frBody f
      ∧ frVc f = 1
      ∧ frKind f = 9 :=
  ⟨fab2, 1, fr 1 9 5 5 9 (List.replicate 24 0), List.replicate 24 0, by decide +kernel⟩
theorem witness_RequestsOfPeersAreAnswered_6 :
    ∃ (s : State) (p : Nat) (f b : List Byte) (q : Option Query), p < 4
      ∧ s.coreOff = false
      ∧ s.isUp p = true
      ∧ frameOk f = true
      ∧ frAuth f = false
      ∧ frRetry f = false
      ∧ frDst f = s.myAddr
      ∧ s.myAddr ≠ 0
      ∧ isGroup s.myAddr = false
      ∧ Map.look (fun _ => 0) s.dlv.last (frSrc f) ≤ frCtr f
      ∧ s.freeBuf p (frVc f - 1) ≠ 0
      ∧ b = frBody f
      ∧ frVc f = 3
      ∧ frKind f = 0xA
      ∧ q = parseQuery (be32s (b.length / 4) b)
      ∧ (s.nst.peers.filter (fun x => x.peer ≠ peerOf f)).length < 4 :=
  ⟨fab2, 1, fr 3 0xA 5 5 9 (beBytes 4 1 ++ beBytes 8 0 ++ beBytes 4 9 ++ beBytes 4 0 ++ beBytes 4 1), beBytes 4 1 ++ beBytes 8 0 ++ beBytes 4 9 ++ beBytes 4 0 ++ beBytes 4 1, parseQuery (be32s 6 (beBytes 4 1 ++ beBytes 8 0 ++ beBytes 4 9 ++ beBytes 4 0 ++ beBytes 4 1 : List Byte)), by decide +kernel⟩
theorem witness_RequestsOfPeersAreAnswered_7 :
    ∃ (s : State) (p : Nat) (f b : List Byte) (q : Query), p < 4
      ∧ s.coreOff = false
      ∧ s.isUp p = true
      ∧ frameOk f = true
      ∧ frAuth f = false
      ∧ frRetry f = false
      ∧ frDst f = s.myAddr
      ∧ s.myAddr ≠ 0
      ∧ isGroup s.myAddr = false
      ∧ Map.look (fun _ => 0) s.dlv.last (frSrc f) ≤ frCtr f
      ∧ s.freeBuf p (frVc f - 1) ≠ 0
      ∧ b = frBody f
      ∧ frVc f = 3
      ∧ frKind f = 0xB
      ∧ s.nst.peers = [q]
      ∧ q.peer = peerOf f
      ∧ q.done = false
      ∧ b.length = 4
      ∧ be b 2 2 = 0 :=
  ⟨{ fab2 with nst := { peers := [{ points := [1], upto := 9, chunk := 1, peer := some (7, 5) }] } }, 1, fr 3 0xB 5 5 9 [0, 1, 0, 0], [0, 1, 0, 0], { points := [1], upto := 9, chunk := 1, peer := some (7, 5) }, by decide +kernel⟩
theorem witness_StreamsAndFramesPassThrough_1 :
    ∃ (s : State) (p : Nat) (f b : List Byte), p < 4
      ∧ s.coreOff = false
      ∧ s.isUp p = true
      ∧ frameOk f = true
      ∧ frAuth f = false
      ∧ frRetry f = false
      ∧ s.myAddr ≠ 0
      ∧ isGroup s.myAddr = false
      ∧ isGroup (frDst f) = false
      ∧ b = frBody f
      ∧ frVc f = 1
      ∧ frKind f = 1
      ∧ frDst f = s.myAddr
      ∧ s.freeBuf p 0 ≠ 0 :=
  ⟨{ fab2 with dir := { fab2.dir with run := [(24, 0xB0000000), (25, 0x00070004)] } }, 1, fr 1 1 0 5 9 [1, 0, 0, 4, 0x10, 0, 0, 1, 0, 0], [1, 0, 0, 4, 0x10, 0, 0, 1, 0, 0], by decide +kernel⟩
theorem witness_StreamsAndFramesPassThrough_2 :
    ∃ (s : State) (p : Nat) (f b : List Byte) (e h : Nat), p < 4
      ∧ s.coreOff = false
      ∧ s.isUp p = true
      ∧ frameOk f = true
      ∧ frAuth f = false
      ∧ frRetry f = false
      ∧ s.myAddr ≠ 0
      ∧ isGroup s.myAddr = false
      ∧ isGroup (frDst f) = false
      ∧ b = frBody f
      ∧ 1 ≤ frVc f
      ∧ frVc f ≤ 4
      ∧ frKind f ∈ [2, 3, 4, 5, 9]
      ∧ frDst f ≠ s.myAddr
      ∧ frDst f ≠ 0
      ∧ s.freeBuf p (frVc f - 1) ≠ 0
      ∧ s.routeOf (frDst f) = some (e, h)
      ∧ e < 4
      ∧ s.isUp e = true :=
  ⟨fab2, 1, fr 1 3 5 9 9 [1], [1], 2, 1, by decide +kernel⟩
theorem witness_StreamsAndFramesPassThrough_3 :
    ∃ (s : State) (p : Nat) (f b : List Byte), p < 4
      ∧ s.coreOff = false
      ∧ s.isUp p = true
      ∧ frameOk f = true
      ∧ frAuth f = false
      ∧ frRetry f = false
      ∧ s.myAddr ≠ 0
      ∧ isGroup s.myAddr = false
      ∧ isGroup (frDst f) = false
      ∧ b = frBody f
      ∧ 1 ≤ frVc f
      ∧ frVc f ≤ 4
      ∧ frKind f ∈ [2, 3, 4, 5, 9]
      ∧ frDst f ≠ s.myAddr
      ∧ s.freeBuf p (frVc f - 1) ≠ 0
      ∧ s.routeOf (frDst f) = none :=
  ⟨fab2, 1, fr 1 3 5 8 9 [1], [1], by decide +kernel⟩
theorem witness_StreamsAndFramesPassThrough_4 :
    ∃ (s : State) (p : Nat) (f b : List Byte) (c : Nat), p < 4
      ∧ s.coreOff = false
      ∧ s.isUp p = true
      ∧ frameOk f = true
      ∧ frAuth f = false
      ∧ frRetry f = false
      ∧ s.myAddr ≠ 0
      ∧ isGroup s.myAddr = false
      ∧ isGroup (frDst f) = false
      ∧ b = frBody f
      ∧ frVc f = 0
      ∧ frKind f = 1
      ∧ frDst f ≠ s.myAddr
      ∧ (s.port_ p).tWait.length < 4
      ∧ s.bit fLathStatFsync = true
      ∧ c = (if s.now % 1000 ≤ 750 then s.now / 1000 else s.now / 1000 + 1) :=
  ⟨fab2.set fLathStatFsync 1, 1, fr 0 1 0 9 9 [1], [1], 1095, by decide +kernel⟩
theorem witness_StreamsAndFramesPassThrough_5 :
    ∃ (s : State) (p : Nat) (f b : List Byte) (st n : Nat), p < 4
      ∧ s.coreOff = false
      ∧ s.isUp p = true
      ∧ frameOk f = true
      ∧ frAuth f = false
      ∧ frRetry f = false
      ∧ s.myAddr ≠ 0
      ∧ isGroup s.myAddr = false
      ∧ isGroup (frDst f) = false
      ∧ b = frBody f
      ∧ frVc f = 1
      ∧ frKind f = 6
      ∧ frDst f = s.myAddr
      ∧ s.freeBuf p 0 ≠ 0
      ∧ Map.look (fun _ => 0) s.dlv.last (frSrc f) ≤ frCtr f
      ∧ st = be b 0 2
      ∧ n = be b 2 2
      ∧ b.length = 12
      ∧ 1 ≤ st
      ∧ st ≤ 1024
      ∧ be b 4 2 < n
      ∧ byteAt b 7 = 0
      ∧ be b 8 2 = frDst f
      ∧ be b 10 2 = 0 :=
  ⟨fab2, 1, fr 1 6 5 5 9 [0, 1, 1, 0, 0, 9, 1, 0, 0, 5, 0, 0], [0, 1, 1, 0, 0, 9, 1, 0, 0, 5, 0, 0], 1, 256, by decide +kernel⟩
theorem witness_StreamsAndFramesPassThrough_6 :
    ∃ (s : State) (p : Nat) (f b : List Byte) (st : Nat), p < 4
      ∧ s.coreOff = false
      ∧ s.isUp p = true
      ∧ frameOk f = true
      ∧ frAuth f = false
      ∧ frRetry f = false
      ∧ s.myAddr ≠ 0
      ∧ isGroup s.myAddr = false
      ∧ isGroup (frDst f) = false
      ∧ b = frBody f
      ∧ frVc f = 1
      ∧ frKind f = 7
      ∧ s.freeBuf p 0 ≠ 0
      ∧ Map.look (fun _ => 0) s.dlv.last (frSrc f) ≤ frCtr f
      ∧ st = be b 0 2
      ∧ b.length = 4
      ∧ be b 2 2 = 0 :=
  ⟨{ fab2 with dlv := { resv := [{ port := 2, slot := 1, off := 1, n := 100, src := 7, stream := 3 }] } }, 1, fr 1 7 5 5 9 [0, 3, 0, 0], [0, 3, 0, 0], 3, by decide +kernel⟩
theorem witness_StreamsAndFramesPassThrough_7 :
    ∃ (s : State) (p : Nat) (f b : List Byte) (i : Nat), p < 4
      ∧ s.coreOff = false
      ∧ s.isUp p = true
      ∧ frameOk f = true
      ∧ frAuth f = false
      ∧ frRetry f = false
      ∧ s.myAddr ≠ 0
      ∧ isGroup s.myAddr = false
      ∧ isGroup (frDst f) = false
      ∧ b = frBody f
      ∧ frVc f = 1
      ∧ frKind f = 0xC
      ∧ frDst f = s.myAddr
      ∧ s.freeBuf p 0 ≠ 0
      ∧ be b 0 2 = i + 1 :=
  ⟨{ fab2 with dlv := { run := [(2, 0x80010009)], strm := [(2, { state := 2 })] } }, 1, fr 1 0xC 0 5 9 [0, 3, 1], [0, 3, 1], 2, by decide +kernel⟩
theorem witness_TransactionsAndTheirTimers_1 :
    ∃ (s : State) (p : Nat) (f : List Byte) (x : Xfer), p < 4
      ∧ s.coreOff = false
      ∧ s.isUp p = true
      ∧ frameOk f = true
      ∧ frAuth f = false
      ∧ (frVc f = 2 ∨ frVc f = 4)
      ∧ s.myAddr ≠ 0
      ∧ frDst f = s.myAddr
      ∧ isGroup s.myAddr = false
      ∧ s.freeBuf p (frVc f - 1) ≠ 0
      ∧ s.dlv.waits = []
      ∧ s.dlv.opens = [x]
      ∧ 8 ≤ (frBody f).length
      ∧ x.kind ≠ 6
      ∧ x.kind ≠ 9
      ∧ x.sess = 0 :=
  ⟨{ fab2 with dlv := { opens := [{ tid := 5, vc := 1, kind := 4, dst := 7, payload := [], ctrs := [41] }] } }, 1, fr 2 4 5 5 9 (beBytes 6 41 ++ [0, 0]), { tid := 5, vc := 1, kind := 4, dst := 7, payload := [], ctrs := [41] }, by decide +kernel⟩
theorem witness_TransactionsAndTheirTimers_2 :
    ∃ (s : State) (x : Xfer), s.coreOff = false
      ∧ s.en 0x78 = true
      ∧ s.dlv.opens = [x]
      ∧ s.dlv.waits = []
      ∧ x.kind ≠ 6
      ∧ x.kind ≠ 9 :=
  ⟨{ fab2 with dlv := { opens := [{ tid := 5, vc := 1, kind := 4, dst := 7, payload := [], ctrs := [41], sent := 5 }] } }, { tid := 5, vc := 1, kind := 4, dst := 7, payload := [], ctrs := [41], sent := 5 }, by decide +kernel⟩
theorem witness_TransactionsAndTheirTimers_3 :
    ∃ (s : State) (tid t0 : Nat), s.coreOff = false
      ∧ s.en 0x78 = true
      ∧ Map.look (fun _ => none) s.dlv.freed tid = some t0
      ∧ s.dlv.waits = [] :=
  ⟨{ fab2 with dlv := { freed := [(5, some 9)] } }, 5, 9, by decide +kernel⟩
theorem witness_TransactionsAndTheirTimers_4 :
    ∃ (s : State), s.coreOff = false
      ∧ s.en 0x78 = true :=
  ⟨{ fab2 with dlv := { run := [(2, 0x80010009)], strm := [(2, { state := 1, n := 100 })] } }.set fLathStatFsync 1, by decide +kernel⟩
theorem witness_TransactionsAndTheirTimers_5 :
    ∃ (s : State) (r : Resv), s.coreOff = false
      ∧ s.en 0x78 = true
      ∧ s.dlv.resv.filter (fun x => !x.own) = [r] :=
  ⟨{ fab2 with dlv := { resv := [{ port := 2, slot := 1, off := 1, n := 100, src := 7, stream := 3, time := 5 }] } }, { port := 2, slot := 1, off := 1, n := 100, src := 7, stream := 3, time := 5 }, by decide +kernel⟩
theorem witness_TransactionsAndTheirTimers_6 :
    ∃ (s : State) (a : Nat × Nat × Nat × Nat × Nat), s.coreOff = false
      ∧ s.en 0x78 = true
      ∧ s.lath.adm = [a] :=
  ⟨{ fab2 with lath := { fab2.lath with adm := [(7, 1, 100, 2, 5)] } }, (7, 1, 100, 2, 5), by decide +kernel⟩
theorem witness_TransactionsAndTheirTimers_7 :
    ∃ (s : State) (i src t0 : Nat), s.coreOff = false
      ∧ s.en 0x78 = true
      ∧ s.dir.subs = [(i, [(src, t0)])] :=
  ⟨{ fab2 with dir := { fab2.dir with subs := [(3, [(7, 5)])] } }, 3, 7, 5, by decide +kernel⟩
theorem witness_TransactionsAndTheirTimers_8 :
    ∃ (s : State) (i t0 : Nat), s.coreOff = false
      ∧ s.en 0x78 = true
      ∧ s.en 0x7D = true
      ∧ s.subscribing = [i]
      ∧ Map.look (fun _ => none) s.dir.subSent i = some t0 :=
  ⟨{ fab2 with dir := { fab2.dir with run := [(24, 0xB0000000), (25, 0x00070004), (27, 0x80000000)], subSent := [(3, some 5)] } }, 3, 5, by decide +kernel⟩
theorem witness_HostCommandsWithoutATag_1 :
    ∃ (s : State) (f b : List Byte) (u : State) (a : Nat) (ws : List Word) (r : Nat × Nat × State), s.boot.coreRst = false
      ∧ s.boot.cmdRst = none
      ∧ s.notReady 0x80060 1 = false
      ∧ s.gatedAt 0x80060 1 = false
      ∧ s.lev.busy = false
      ∧ s.lev.mbx = []
      ∧ Map.wf resetWord s.regs = true
      ∧ s.authRequired = false
      ∧ f.length = 32 + frLen f
      ∧ b = frBody f
      ∧ b.length ≤ 136
      ∧ hostHeaderOk f = true
      ∧ frAuth f = false
      ∧ u = (bytesWords (f ++ List.replicate ((4 - f.length % 4) % 4) 0#8)).dropLast.foldl (fun y x => y.hostXact (mailXact 0x80060 x)) s
      ∧ cmdBody b = some (.regWrite a ws)
      ∧ byteAt b 1 = u.cmdClass (some (.regWrite a ws))
      ∧ r = ({ u with lev := { u.lev with mbx := [] } }).writeTxn { cmd := true, sess := 0xFF } a ws false
      ∧ r.2.2.boot.cmdRst = none :=
  ⟨up, hf [1, 0, 1, 0, 0, 0, 0, 0x10, 0, 0, 0, 1], [1, 0, 1, 0, 0, 0, 0, 0x10, 0, 0, 0, 1], (bytesWords (hf [1, 0, 1, 0, 0, 0, 0, 0x10, 0, 0, 0, 1] : List Byte)).dropLast.foldl (fun y x => y.hostXact (mailXact 0x80060 x)) (up : State), 0x10, [1], ({ ((bytesWords (hf [1, 0, 1, 0, 0, 0, 0, 0x10, 0, 0, 0, 1] : List Byte)).dropLast.foldl (fun y x => y.hostXact (mailXact 0x80060 x)) (up : State) : State) with lev := { ((bytesWords (hf [1, 0, 1, 0, 0, 0, 0, 0x10, 0, 0, 0, 1] : List Byte)).dropLast.foldl (fun y x => y.hostXact (mailXact 0x80060 x)) (up : State) : State).lev with mbx := [] } }).writeTxn { cmd := true, sess := 0xFF } (0x10 : Nat) ([1] : List Word) false, by decide +kernel⟩
theorem witness_HostCommandsWithoutATag_2 :
    ∃ (s : State) (f b : List Byte) (u : State), s.boot.coreRst = false
      ∧ s.boot.cmdRst = none
      ∧ s.notReady 0x80060 1 = false
      ∧ s.gatedAt 0x80060 1 = false
      ∧ s.lev.busy = false
      ∧ s.lev.mbx = []
      ∧ Map.wf resetWord s.regs = true
      ∧ s.authRequired = false
      ∧ f.length = 32 + frLen f
      ∧ b = frBody f
      ∧ b.length ≤ 136
      ∧ hostHeaderOk f = true
      ∧ frAuth f = false
      ∧ u = (bytesWords (f ++ List.replicate ((4 - f.length % 4) % 4) 0#8)).dropLast.foldl (fun y x => y.hostXact (mailXact 0x80060 x)) s
      ∧ knownOp (cmdOp f) = false :=
  ⟨up, hf [7, 0, 1, 0], [7, 0, 1, 0], (bytesWords (hf [7, 0, 1, 0] : List Byte)).dropLast.foldl (fun y x => y.hostXact (mailXact 0x80060 x)) (up : State), by decide +kernel⟩
theorem witness_HostCommandsWithoutATag_3 :
    ∃ (s : State) (f b : List Byte) (u : State) (addr n crc : Nat), s.boot.coreRst = false
      ∧ s.boot.cmdRst = none
      ∧ s.notReady 0x80060 1 = false
      ∧ s.gatedAt 0x80060 1 = false
      ∧ s.lev.busy = false
      ∧ s.lev.mbx = []
      ∧ Map.wf resetWord s.regs = true
      ∧ s.authRequired = false
      ∧ f.length = 32 + frLen f
      ∧ b = frBody f
      ∧ b.length ≤ 136
      ∧ hostHeaderOk f = true
      ∧ frAuth f = false
      ∧ u = (bytesWords (f ++ List.replicate ((4 - f.length % 4) % 4) 0#8)).dropLast.foldl (fun y x => y.hostXact (mailXact 0x80060 x)) s
      ∧ cmdBody b = some (.storeGo addr n crc)
      ∧ byteAt b 1 = 4 :=
  ⟨up, hf [2, 4, 0, 0, 0, 0, 1, 0, 0, 9, 0, 0, 0, 0, 0, 1], [2, 4, 0, 0, 0, 0, 1, 0, 0, 9, 0, 0, 0, 0, 0, 1], (bytesWords (hf [2, 4, 0, 0, 0, 0, 1, 0, 0, 9, 0, 0, 0, 0, 0, 1] : List Byte)).dropLast.foldl (fun y x => y.hostXact (mailXact 0x80060 x)) (up : State), 256, 9, 1, by decide +kernel⟩
theorem witness_HostCommandsWithoutATag_4 :
    ∃ (s : State) (f b : List Byte) (u : State) (i crc gen : Nat), s.boot.coreRst = false
      ∧ s.boot.cmdRst = none
      ∧ s.notReady 0x80060 1 = false
      ∧ s.gatedAt 0x80060 1 = false
      ∧ s.lev.busy = false
      ∧ s.lev.mbx = []
      ∧ Map.wf resetWord s.regs = true
      ∧ s.authRequired = false
      ∧ f.length = 32 + frLen f
      ∧ b = frBody f
      ∧ b.length ≤ 136
      ∧ hostHeaderOk f = true
      ∧ frAuth f = false
      ∧ u = (bytesWords (f ++ List.replicate ((4 - f.length % 4) % 4) 0#8)).dropLast.foldl (fun y x => y.hostXact (mailXact 0x80060 x)) s
      ∧ cmdBody b = some (.activate i crc gen)
      ∧ byteAt b 1 = 3 :=
  ⟨up, hf [3, 3, 0, 0, 0, 0, 0, 0, 0, 0, 0, 0, 0, 0, 0, 1], [3, 3, 0, 0, 0, 0, 0, 0, 0, 0, 0, 0, 0, 0, 0, 1], (bytesWords (hf [3, 3, 0, 0, 0, 0, 0, 0, 0, 0, 0, 0, 0, 0, 0, 1] : List Byte)).dropLast.foldl (fun y x => y.hostXact (mailXact 0x80060 x)) (up : State), 0, 0, 1, by decide +kernel⟩
theorem witness_HostCommandsWithoutATag_5 :
    ∃ (s : State) (f b : List Byte) (u : State) (p : Nat), s.boot.coreRst = false
      ∧ s.boot.cmdRst = none
      ∧ s.notReady 0x80060 1 = false
      ∧ s.gatedAt 0x80060 1 = false
      ∧ s.lev.busy = false
      ∧ s.lev.mbx = []
      ∧ Map.wf resetWord s.regs = true
      ∧ s.authRequired = false
      ∧ f.length = 32 + frLen f
      ∧ b = frBody f
      ∧ b.length ≤ 136
      ∧ hostHeaderOk f = true
      ∧ frAuth f = false
      ∧ u = (bytesWords (f ++ List.replicate ((4 - f.length % 4) % 4) 0#8)).dropLast.foldl (fun y x => y.hostXact (mailXact 0x80060 x)) s
      ∧ cmdBody b = some (.pageUnlock p)
      ∧ byteAt b 1 = 3 :=
  ⟨up.setWord (rLock 0x91) 1, hf [4, 3, 0, 0, 0x91, 0, 0, 0], [4, 3, 0, 0, 0x91, 0, 0, 0], (bytesWords (hf [4, 3, 0, 0, 0x91, 0, 0, 0] : List Byte)).dropLast.foldl (fun y x => y.hostXact (mailXact 0x80060 x)) (up.setWord (rLock 0x91) 1 : State), 0x91, by decide +kernel⟩
theorem witness_HostCommandsWithoutATag_6 :
    ∃ (s : State) (f b : List Byte) (u : State) (w : List Byte) (id : Nat) (k : Option (List Byte)), s.boot.coreRst = false
      ∧ s.boot.cmdRst = none
      ∧ s.notReady 0x80060 1 = false
      ∧ s.gatedAt 0x80060 1 = false
      ∧ s.lev.busy = false
      ∧ s.lev.mbx = []
      ∧ Map.wf resetWord s.regs = true
      ∧ s.authRequired = false
      ∧ f.length = 32 + frLen f
      ∧ b = frBody f
      ∧ b.length ≤ 136
      ∧ hostHeaderOk f = true
      ∧ frAuth f = false
      ∧ u = (bytesWords (f ++ List.replicate ((4 - f.length % 4) % 4) 0#8)).dropLast.foldl (fun y x => y.hostXact (mailXact 0x80060 x)) s
      ∧ cmdBody b = some (.keyRoll w id)
      ∧ byteAt b 1 = 6
      ∧ s.sto.closed = false
      ∧ s.sto.cur = none
      ∧ s.sto.served = true
      ∧ k = s.lev.site.bind (fun c => keyUnwrap c w) :=
  ⟨up, hf ([0x10, 6, 0, 0] ++ List.replicate 28 0), [0x10, 6, 0, 0] ++ List.replicate 28 0, (bytesWords (hf ([0x10, 6, 0, 0] ++ List.replicate 28 0) : List Byte)).dropLast.foldl (fun y x => y.hostXact (mailXact 0x80060 x)) (up : State), List.replicate 24 0, 0, none, by decide +kernel⟩
theorem witness_HostCommandsWithoutATag_7 :
    ∃ (s : State) (f b : List Byte) (u : State) (i m v : Nat), s.boot.coreRst = false
      ∧ s.boot.cmdRst = none
      ∧ s.notReady 0x80060 1 = false
      ∧ s.gatedAt 0x80060 1 = false
      ∧ s.lev.busy = false
      ∧ s.lev.mbx = []
      ∧ Map.wf resetWord s.regs = true
      ∧ s.authRequired = false
      ∧ f.length = 32 + frLen f
      ∧ b = frBody f
      ∧ b.length ≤ 136
      ∧ hostHeaderOk f = true
      ∧ frAuth f = false
      ∧ u = (bytesWords (f ++ List.replicate ((4 - f.length % 4) % 4) 0#8)).dropLast.foldl (fun y x => y.hostXact (mailXact 0x80060 x)) s
      ∧ cmdBody b = some (.sessionSet i m v)
      ∧ byteAt b 1 = 6
      ∧ s.sto.closed = false
      ∧ s.sto.cur = none
      ∧ s.sto.served = true :=
  ⟨up, hf [0x11, 6, 0, 0, 9, 0, 0, 6, 0, 0, 0, 0, 0, 0, 0, 77], [0x11, 6, 0, 0, 9, 0, 0, 6, 0, 0, 0, 0, 0, 0, 0, 77], (bytesWords (hf [0x11, 6, 0, 0, 9, 0, 0, 6, 0, 0, 0, 0, 0, 0, 0, 77] : List Byte)).dropLast.foldl (fun y x => y.hostXact (mailXact 0x80060 x)) (up : State), 9, 6, 77, by decide +kernel⟩
theorem witness_HostCommandsWithoutATag_8 :
    ∃ (s : State) (f b : List Byte) (u : State) (i : Nat), s.boot.coreRst = false
      ∧ s.boot.cmdRst = none
      ∧ s.notReady 0x80060 1 = false
      ∧ s.gatedAt 0x80060 1 = false
      ∧ s.lev.busy = false
      ∧ s.lev.mbx = []
      ∧ Map.wf resetWord s.regs = true
      ∧ s.authRequired = false
      ∧ f.length = 32 + frLen f
      ∧ b = frBody f
      ∧ b.length ≤ 136
      ∧ hostHeaderOk f = true
      ∧ frAuth f = false
      ∧ u = (bytesWords (f ++ List.replicate ((4 - f.length % 4) % 4) 0#8)).dropLast.foldl (fun y x => y.hostXact (mailXact 0x80060 x)) s
      ∧ cmdBody b = some (.sessionClr i)
      ∧ byteAt b 1 = 6
      ∧ s.sto.closed = false
      ∧ s.sto.cur = none
      ∧ s.sto.served = true :=
  ⟨up, hf [0x12, 6, 0, 0, 9, 0, 0, 0], [0x12, 6, 0, 0, 9, 0, 0, 0], (bytesWords (hf [0x12, 6, 0, 0, 9, 0, 0, 0] : List Byte)).dropLast.foldl (fun y x => y.hostXact (mailXact 0x80060 x)) (up : State), 9, by decide +kernel⟩
theorem witness_HostCommandsWithoutATag_9 :
    ∃ (s : State) (f b : List Byte) (u : State) (m : Nat), s.boot.coreRst = false
      ∧ s.boot.cmdRst = none
      ∧ s.notReady 0x80060 1 = false
      ∧ s.gatedAt 0x80060 1 = false
      ∧ s.lev.busy = false
      ∧ s.lev.mbx = []
      ∧ Map.wf resetWord s.regs = true
      ∧ s.authRequired = false
      ∧ f.length = 32 + frLen f
      ∧ b = frBody f
      ∧ b.length ≤ 136
      ∧ hostHeaderOk f = true
      ∧ frAuth f = false
      ∧ u = (bytesWords (f ++ List.replicate ((4 - f.length % 4) % 4) 0#8)).dropLast.foldl (fun y x => y.hostXact (mailXact 0x80060 x)) s
      ∧ cmdBody b = some (.trustSet m)
      ∧ byteAt b 1 = 6
      ∧ s.sto.closed = false
      ∧ s.sto.cur = none
      ∧ s.sto.served = true :=
  ⟨up, hf [0x13, 6, 0, 0, 1, 0, 0, 0], [0x13, 6, 0, 0, 1, 0, 0, 0], (bytesWords (hf [0x13, 6, 0, 0, 1, 0, 0, 0] : List Byte)).dropLast.foldl (fun y x => y.hostXact (mailXact 0x80060 x)) (up : State), 1, by decide +kernel⟩
theorem witness_HostCommandsWithoutATag_10 :
    ∃ (s : State) (f b : List Byte) (u : State), s.boot.coreRst = false
      ∧ s.boot.cmdRst = none
      ∧ s.notReady 0x80060 1 = false
      ∧ s.gatedAt 0x80060 1 = false
      ∧ s.lev.busy = false
      ∧ s.lev.mbx = []
      ∧ Map.wf resetWord s.regs = true
      ∧ s.authRequired = false
      ∧ f.length = 32 + frLen f
      ∧ b = frBody f
      ∧ b.length ≤ 136
      ∧ hostHeaderOk f = true
      ∧ frAuth f = false
      ∧ u = (bytesWords (f ++ List.replicate ((4 - f.length % 4) % 4) 0#8)).dropLast.foldl (fun y x => y.hostXact (mailXact 0x80060 x)) s
      ∧ cmdBody b = some .keyErase
      ∧ byteAt b 1 = 6
      ∧ s.sto.closed = false
      ∧ s.sto.cur = none
      ∧ s.sto.served = true :=
  ⟨{ keyed with lev := { keyed.lev with sess := [(3, { bound := true })] } }, hf [0x14, 6, 0, 0], [0x14, 6, 0, 0], (bytesWords (hf [0x14, 6, 0, 0] : List Byte)).dropLast.foldl (fun y x => y.hostXact (mailXact 0x80060 x)) ({ keyed with lev := { keyed.lev with sess := [(3, { bound := true })] } } : State), by decide +kernel⟩
theorem witness_HostCommandsWithoutATag_11 :
    ∃ (s : State) (f b : List Byte) (u : State) (n : Nat), s.boot.coreRst = false
      ∧ s.boot.cmdRst = none
      ∧ s.notReady 0x80060 1 = false
      ∧ s.gatedAt 0x80060 1 = false
      ∧ s.lev.busy = false
      ∧ s.lev.mbx = []
      ∧ Map.wf resetWord s.regs = true
      ∧ s.authRequired = false
      ∧ f.length = 32 + frLen f
      ∧ b = frBody f
      ∧ b.length ≤ 136
      ∧ hostHeaderOk f = true
      ∧ frAuth f = false
      ∧ u = (bytesWords (f ++ List.replicate ((4 - f.length % 4) % 4) 0#8)).dropLast.foldl (fun y x => y.hostXact (mailXact 0x80060 x)) s
      ∧ cmdBody b = some (.graceSet n)
      ∧ byteAt b 1 = 6 :=
  ⟨up, hf [0x15, 6, 0, 0, 0x0E, 0x10, 0, 0], [0x15, 6, 0, 0, 0x0E, 0x10, 0, 0], (bytesWords (hf [0x15, 6, 0, 0, 0x0E, 0x10, 0, 0] : List Byte)).dropLast.foldl (fun y x => y.hostXact (mailXact 0x80060 x)) (up : State), 3600, by decide +kernel⟩
theorem witness_HostCommandsWithoutATag_12 :
    ∃ (s : State) (f b : List Byte) (u : State) (c : List Byte), s.boot.coreRst = false
      ∧ s.boot.cmdRst = none
      ∧ s.notReady 0x80060 1 = false
      ∧ s.gatedAt 0x80060 1 = false
      ∧ s.lev.busy = false
      ∧ s.lev.mbx = []
      ∧ Map.wf resetWord s.regs = true
      ∧ s.authRequired = false
      ∧ f.length = 32 + frLen f
      ∧ b = frBody f
      ∧ b.length ≤ 136
      ∧ hostHeaderOk f = true
      ∧ frAuth f = false
      ∧ u = (bytesWords (f ++ List.replicate ((4 - f.length % 4) % 4) 0#8)).dropLast.foldl (fun y x => y.hostXact (mailXact 0x80060 x)) s
      ∧ cmdBody b = some (.ident c)
      ∧ byteAt b 1 = 0 :=
  ⟨up, hf ([0x20, 0, 0, 0] ++ List.replicate 16 3), [0x20, 0, 0, 0] ++ List.replicate 16 3, (bytesWords (hf ([0x20, 0, 0, 0] ++ List.replicate 16 3) : List Byte)).dropLast.foldl (fun y x => y.hostXact (mailXact 0x80060 x)) (up : State), List.replicate 16 3, by decide +kernel⟩
theorem witness_PeerCommandsPassTheChecks_1 :
    ∃ (s v : State) (p : Nat) (f b : List Byte) (c : Instr) (cls : Nat), p < 4
      ∧ s.coreOff = false
      ∧ s.boot.cmdRst = none
      ∧ s.isUp p = true
      ∧ frameOk f = true
      ∧ frVc f = 1
      ∧ frKind f = 8
      ∧ frDst f = s.myAddr
      ∧ s.myAddr ≠ 0
      ∧ isGroup s.myAddr = false
      ∧ s.freeBuf p 0 ≠ 0
      ∧ b = frBody f
      ∧ v = s.bumpWrap (fFportRxCount p)
      ∧ cls = v.cmdClass (cmdBody b)
      ∧ c = (match cmdOp f with | 0x02 => .storeGo (.fabric p) f | 0x03 => .activateOp (.fabric p) f | 0x04 => .pageUnlock (.fabric p) f | 0x10 => .keyRoll (.fabric p) f | 0x11 => .sessionSet (.fabric p) f | 0x12 => .sessionClr (.fabric p) f | 0x13 => .trustSet (.fabric p) f | 0x14 => .keyErase (.fabric p) f | 0x15 => .graceSet (.fabric p) f | 0x20 => .ident (.fabric p) f | _ => .regWrite (.fabric p) f)
      ∧ frAuth f = false
      ∧ cls ≠ 0 :=
  ⟨fab2, fab2.bumpWrap (fFportRxCount 1), 1, pf 0 [4, 3, 0, 0, 0x91, 0, 0, 0], [4, 3, 0, 0, 0x91, 0, 0, 0], .pageUnlock (.fabric 1) (pf 0 [4, 3, 0, 0, 0x91, 0, 0, 0] : List Byte), 3, by decide +kernel⟩
theorem witness_PeerCommandsPassTheChecks_2 :
    ∃ (s v : State) (p : Nat) (f b : List Byte) (c : Instr) (cls : Nat) (r : Nat), p < 4
      ∧ s.coreOff = false
      ∧ s.boot.cmdRst = none
      ∧ s.isUp p = true
      ∧ frameOk f = true
      ∧ frVc f = 1
      ∧ frKind f = 8
      ∧ frDst f = s.myAddr
      ∧ s.myAddr ≠ 0
      ∧ isGroup s.myAddr = false
      ∧ s.freeBuf p 0 ≠ 0
      ∧ b = frBody f
      ∧ v = s.bumpWrap (fFportRxCount p)
      ∧ cls = v.cmdClass (cmdBody b)
      ∧ c = (match cmdOp f with | 0x02 => .storeGo (.fabric p) f | 0x03 => .activateOp (.fabric p) f | 0x04 => .pageUnlock (.fabric p) f | 0x10 => .keyRoll (.fabric p) f | 0x11 => .sessionSet (.fabric p) f | 0x12 => .sessionClr (.fabric p) f | 0x13 => .trustSet (.fabric p) f | 0x14 => .keyErase (.fabric p) f | 0x15 => .graceSet (.fabric p) f | 0x20 => .ident (.fabric p) f | _ => .regWrite (.fabric p) f)
      ∧ frAuth f = true
      ∧ (r = (if s.lev.site = none then 5 else if (s.sess (frSess f)).bound = false ∨ frSess f = 255 ∨ s.fab.db.any (fun l => l.addr == frSrc f && l.uid == (s.sess (frSess f)).uid) = false then 7 else if (s.sess (frSess f)).quar.isSome then 4 else 0))
      ∧ r ≠ 0 :=
  ⟨fab2, fab2.bumpWrap (fFportRxCount 1), 1, pf 0x8000 [4, 3, 0, 0, 0x91, 0, 0, 0], [4, 3, 0, 0, 0x91, 0, 0, 0], .pageUnlock (.fabric 1) (pf 0x8000 [4, 3, 0, 0, 0x91, 0, 0, 0] : List Byte), 3, 5, by decide +kernel⟩
theorem witness_PeerCommandsPassTheChecks_3 :
    ∃ (s v : State) (p : Nat) (f b : List Byte) (c : Instr) (cls : Nat) (k : List Byte) (x : Sess), p < 4
      ∧ s.coreOff = false
      ∧ s.boot.cmdRst = none
      ∧ s.isUp p = true
      ∧ frameOk f = true
      ∧ frVc f = 1
      ∧ frKind f = 8
      ∧ frDst f = s.myAddr
      ∧ s.myAddr ≠ 0
      ∧ isGroup s.myAddr = false
      ∧ s.freeBuf p 0 ≠ 0
      ∧ b = frBody f
      ∧ v = s.bumpWrap (fFportRxCount p)
      ∧ cls = v.cmdClass (cmdBody b)
      ∧ c = (match cmdOp f with | 0x02 => .storeGo (.fabric p) f | 0x03 => .activateOp (.fabric p) f | 0x04 => .pageUnlock (.fabric p) f | 0x10 => .keyRoll (.fabric p) f | 0x11 => .sessionSet (.fabric p) f | 0x12 => .sessionClr (.fabric p) f | 0x13 => .trustSet (.fabric p) f | 0x14 => .keyErase (.fabric p) f | 0x15 => .graceSet (.fabric p) f | 0x20 => .ident (.fabric p) f | _ => .regWrite (.fabric p) f)
      ∧ frAuth f = true
      ∧ s.lev.site = some k
      ∧ s.lev.prev = none
      ∧ x = s.sess (frSess f)
      ∧ x.bound = true
      ∧ frSess f ≠ 255
      ∧ s.fab.db.any (fun l => l.addr == frSrc f && l.uid == x.uid) = true
      ∧ x.quar = none :=
  ⟨{ fab2 with lev := { fab2.lev with site := some (List.replicate 16 5#8), sess := [(1, { bound := true, uid := 77, fails := 7 })] }, fab := { fab2.fab with db := [{ uid := 77, addr := 7 }] } }, ({ fab2 with lev := { fab2.lev with site := some (List.replicate 16 5#8), sess := [(1, { bound := true, uid := 77, fails := 7 })] }, fab := { fab2.fab with db := [{ uid := 77, addr := 7 }] } } : State).bumpWrap (fFportRxCount 1), 1, pf 0x8000 [0x20], [0x20], .ident (.fabric 1) (pf 0x8000 [0x20] : List Byte), 0, List.replicate 16 5#8, { bound := true, uid := 77, fails := 7 }, by decide +kernel⟩
theorem witness_PeerCommandsPassTheChecks_4 :
    ∃ (s v : State) (p : Nat) (f b : List Byte) (c : Instr) (cls : Nat) (d : List Byte), p < 4
      ∧ s.coreOff = false
      ∧ s.boot.cmdRst = none
      ∧ s.isUp p = true
      ∧ frameOk f = true
      ∧ frVc f = 1
      ∧ frKind f = 8
      ∧ frDst f = s.myAddr
      ∧ s.myAddr ≠ 0
      ∧ isGroup s.myAddr = false
      ∧ s.freeBuf p 0 ≠ 0
      ∧ b = frBody f
      ∧ v = s.bumpWrap (fFportRxCount p)
      ∧ cls = v.cmdClass (cmdBody b)
      ∧ c = (match cmdOp f with | 0x02 => .storeGo (.fabric p) f | 0x03 => .activateOp (.fabric p) f | 0x04 => .pageUnlock (.fabric p) f | 0x10 => .keyRoll (.fabric p) f | 0x11 => .sessionSet (.fabric p) f | 0x12 => .sessionClr (.fabric p) f | 0x13 => .trustSet (.fabric p) f | 0x14 => .keyErase (.fabric p) f | 0x15 => .graceSet (.fabric p) f | 0x20 => .ident (.fabric p) f | _ => .regWrite (.fabric p) f)
      ∧ frAuth f = false
      ∧ frRetry f = false
      ∧ Map.look (fun _ => 0) s.dlv.last (frSrc f) ≤ frCtr f
      ∧ cmdBody b = some (.ident d)
      ∧ byteAt b 1 = 0 :=
  ⟨fab2, (fab2 : State).bumpWrap (fFportRxCount 1), 1, pf 0 ([0x20, 0, 0, 0] ++ List.replicate 16 3), [0x20, 0, 0, 0] ++ List.replicate 16 3, .ident (.fabric 1) (pf 0 ([0x20, 0, 0, 0] ++ List.replicate 16 3) : List Byte), 0, List.replicate 16 3, by decide +kernel⟩
theorem witness_KeysSessionsAndTheirTimers_1 :
    ∃ (s : State) (tag i k : Nat) (ok : Bool) (f : List Byte) (x : Sess) (v : State), s.coreOff = false
      ∧ s.sto.ended = [(.levee, tag, ok)]
      ∧ Map.look (fun _ => none) s.lev.runs tag = some (.floor i k .mailbox f)
      ∧ x = { s.sess i with b := max k (s.sess i).b }
      ∧ (x.sync = false ∨ x.hi < frCtr f)
      ∧ v = ((s.updSto (fun t => { t with ended := [] })).updLev (fun l => { l with busy := false, runs := Map.put (fun _ => none) l.runs tag none })).setSess i (windowFloor x (frCtr f) x.b) :=
  ⟨{ keyed with sto := { keyed.sto with ended := [(.levee, 4, false)] }, lev := { keyed.lev with busy := true, runs := [(4, some (.floor 255 2 .mailbox (hf [0x20])))] } }, 4, 255, 2, false, hf [0x20], { b := 2 }, ((({ keyed with sto := { keyed.sto with ended := [(.levee, 4, false)] }, lev := { keyed.lev with busy := true, runs := [(4, some (.floor 255 2 .mailbox (hf [0x20])))] } } : State).updSto (fun t => { t with ended := [] })).updLev (fun l => { l with busy := false, runs := Map.put (fun _ => none) l.runs 4 none })).setSess 255 (windowFloor { b := 2 } (frCtr (hf [0x20])) 2), by decide +kernel⟩
theorem witness_KeysSessionsAndTheirTimers_2 :
    ∃ (s : State) (i t0 : Nat), s.coreOff = false
      ∧ (s.sess i).quar = some t0 :=
  ⟨{ keyed with lev := { keyed.lev with sess := [(1, { bound := true, fails := 8, quar := some 2000000 })] } }, 1, 2000000, by decide +kernel⟩
theorem witness_KeysSessionsAndTheirTimers_3 :
    ∃ (s : State) (q : List Byte × Nat), s.coreOff = false
      ∧ s.lev.prev = some q :=
  ⟨{ keyed with lev := { keyed.lev with prev := some ([], 2000000) } }, ([], 2000000), by decide +kernel⟩
theorem witness_KeysSessionsAndTheirTimers_4 :
    ∃ (s : State) (key : List Byte), s.HostOpen rLeveeKeyCmd 1#32
      ∧ s.locked 0x80 = false
      ∧ key = beBytes 16 ((s.lev.keyIn.mapIdx (fun i w => w.toNat * 2 ^ (32 * i))).foldl (· + ·) 0)
      ∧ s.sto.closed = false
      ∧ s.sto.cur = none
      ∧ s.sto.served = true :=
  ⟨up.set fSysStrapsServiceN 1, List.replicate 16 0#8, by unfold State.HostOpen regsOk; decide +kernel⟩
theorem witness_KeysSessionsAndTheirTimers_5 :
    ∃ (s : State) (w : Word) (i : Nat), s.HostOpen rLeveeSessCfg w
      ∧ s.locked 0x80 = false
      ∧ i = s.get fLeveeSessSelSession
      ∧ s.sto.closed = false
      ∧ s.sto.cur = none
      ∧ s.sto.served = true :=
  ⟨up.set fLeveeSessSelSession 9, 0x80000006, 9, by unfold State.HostOpen regsOk; decide +kernel⟩
theorem witness_KeysSessionsAndTheirTimers_6 :
    ∃ (s : State) (r : Run) (i uid mask : Nat) (on : Bool), s.sto.cur = some r
      ∧ r.src = .levee
      ∧ r.total = r.done + 1
      ∧ s.sto.stop = none
      ∧ s.sto.queue = []
      ∧ s.sto.ended = []
      ∧ Map.look (fun _ => none) s.lev.runs r.tag = some (.bind i on uid mask none []) :=
  ⟨{ up with sto := { up.sto with cur := some { src := .levee, addr := 0x38020, bytes := [1], tag := 4, total := 1 } }, lev := { up.lev with runs := [(4, some (.bind 1 true 77 6 none []))] } }, { src := .levee, addr := 0x38020, bytes := [1], tag := 4, total := 1 }, 1, 77, 6, true, by decide +kernel⟩
theorem witness_KeysSessionsAndTheirTimers_7 :
    ∃ (s : State), s.HostOpen rLeveeCmdCtrl 1#32 :=
  ⟨{ up with lev := { up.lev with mbx := [1, 2] } }, by unfold State.HostOpen regsOk; decide +kernel⟩
theorem witness_FaultsAreProcessedAndReleased_1 :
    ∃ (s : State) (q : FReq) (t0 : Nat) (b : Blk), s.coreOff = false
      ∧ s.flt.stopped = false
      ∧ s.flt.proc = some (q, t0)
      ∧ s.flt.susp = none
      ∧ s.flt.flags = []
      ∧ s.flt.ordQ = []
      ∧ s.flt.critQ = []
      ∧ s.flt.active.any (fun r => r.code == 0x10) = false
      ∧ s.flt.active.length < 128
      ∧ s.bit fFaultAlmCfgEn = false
      ∧ q.clear = false
      ∧ q.code < 0x10000
      ∧ q.code ≠ 0x10
      ∧ blkOfPage (srcPage q.code q.inst) = some b :=
  ⟨{ upCh 3 (inMode 8) with flt := { proc := some ({ code := 5, inst := 0, cls := .critical, rep := 2 }, 1094990) } }, { code := 5, inst := 0, cls := .critical, rep := 2 }, 1094990, .sys, by decide +kernel⟩
theorem witness_FaultsAreProcessedAndReleased_2 :
    ∃ (s : State) (q : FReq) (t0 : Nat), s.coreOff = false
      ∧ s.flt.stopped = false
      ∧ s.flt.proc = some (q, t0)
      ∧ s.flt.susp = none
      ∧ s.flt.flags = []
      ∧ s.flt.ordQ = []
      ∧ s.flt.critQ = []
      ∧ s.flt.active.any (fun r => r.code == 0x10) = false
      ∧ s.bit fFaultAlmCfgEn = false
      ∧ q.clear = true
      ∧ q.code < 0x10000 :=
  ⟨{ upCh 3 (inMode 8) with flt := { proc := some ({ code := 0x3001, inst := 30, cls := .minor, clear := true }, 1094990), active := [{ code := 0x3001, inst := 30, cls := .minor, rep := 0, time := 5, slot := some 0 }] } }, { code := 0x3001, inst := 30, cls := .minor, clear := true }, 1094990, by decide +kernel⟩
theorem witness_FaultsAreProcessedAndReleased_3 :
    ∃ (s : State) (t0 : Nat), s.coreOff = false
      ∧ s.flt.fullSince = some t0 :=
  ⟨{ up with flt := { fullSince := some 1094990 } }, 1094990, by decide +kernel⟩
theorem witness_FaultsAreProcessedAndReleased_4 :
    ∃ (s : State) (c : Instr) (trig t0 : Nat) (q : FReq), s.coreOff = false
      ∧ s.flt.stopped = false
      ∧ ((c = .fmWatchdog ∧ trig = 6 ∧ s.flt.proc = some (q, t0)) ∨ (c = .fmStateError ∧ trig = 5 ∧ t0 = 0)) :=
  ⟨{ upCh 3 (inMode 8) with flt := { proc := some ({ code := 0x3001, inst := 30, cls := .minor }, 1094990) } }, .fmWatchdog, 6, 1094990, { code := 0x3001, inst := 30, cls := .minor }, by decide +kernel⟩
theorem witness_FaultsAreProcessedAndReleased_5 :
    ∃ (s : State) (w : Word), w = s.word rFaultCtrl ||| 1#32
      ∧ s.HostOpen rFaultCtrl w
      ∧ s.locked 0x88 = false :=
  ⟨(up.set fFaultStatDevFs 1).setL0 5 .devFs 0, ((up.set fFaultStatDevFs 1).setL0 5 .devFs 0 : State).word rFaultCtrl ||| 1#32, by unfold State.HostOpen regsOk; decide +kernel⟩
theorem witness_FaultsAreProcessedAndReleased_6 :
    ∃ (s : State) (corr : Nat) (uncorr : Option Nat), s.coreOff = false
      ∧ uncorr.all (fun i => i < 1048576) = true :=
  ⟨upCh 3 (inMode 8), 2, none, by decide +kernel⟩
theorem witness_FaultsAreProcessedAndReleased_7 :
    ∃ (s : State) (t0 : Nat), s.coreOff = false
      ∧ s.flt.tjHeld = true
      ∧ s.flt.tjBelow = some t0 :=
  ⟨{ up with flt := { tjHeld := true, tjBelow := some 5 } }.setL0 5 .path 0, 5, by decide +kernel⟩
theorem witness_SupplyEventsAct_1 :
    ∃ (s : State), s.coreOff = false
      ∧ s.bit fPwrStatPfw = false :=
  ⟨upCh 3 (inMode 8), by decide +kernel⟩
theorem witness_SupplyEventsAct_2 :
    ∃ (s : State), s.coreOff = false :=
  ⟨up, by decide +kernel⟩
theorem witness_SupplyEventsAct_3 :
    ∃ (s : State), s.coreOff = false :=
  ⟨upCh 3 (inMode 0xB), by decide +kernel⟩
theorem witness_SupplyEventsAct_4 :
    ∃ (s : State), s.pwr.bor = true
      ∧ s.boot.coreRst = false
      ∧ s.boot.rst = none :=
  ⟨{ up with pwr := { up.pwr with bor := true } }, by decide +kernel⟩
theorem witness_SupplyEventsAct_5 :
    ∃ (s : State) (t0 : Nat), s.coreOff = false
      ∧ s.pwr.pfwAt = some t0
      ∧ s.pwr.bor = false
      ∧ s.boot.rst = none :=
  ⟨{ up with pwr := { up.pwr with pfwAt := some 5 } }, 5, by decide +kernel⟩
theorem witness_SupplyEventsAct_6 :
    ∃ (s : State), s.boot.coreRst = false
      ∧ s.boot.rst = none :=
  ⟨up, by decide +kernel⟩
theorem witness_SupplyEventsAct_7 :
    ∃ (s : State) (hi : Bool) (b code : Nat), b = (if hi then 1 else 0)
      ∧ code = (if hi then 0x1004 else 0x1003)
      ∧ s.coreOff = false :=
  ⟨up, true, 1, 0x1004, by decide +kernel⟩
theorem witness_SupplyEventsAct_8 :
    ∃ (s : State) (n old sv t0 : Nat), s.coreOff = false
      ∧ s.pwr.stepped.getLast? = some (n, old, sv)
      ∧ s.pwr.okSince = some t0 :=
  ⟨{ upCh 3 { inMode 8 with step := 2 } with pwr := { up.pwr with stepped := [(3, 0, 40), (3, 1, 50)], okSince := some 5 } }, 3, 1, 50, 5, by decide +kernel⟩
theorem witness_ResetsAreAssertedAndReleased_1 :
    ∃ (s : State) (v : Bool), (s.boot.rst = none ∨ s.boot.heldBy = 1 ∧ s.boot.coreRst = true) :=
  ⟨State.reset, false, by decide +kernel⟩
theorem witness_ResetsAreAssertedAndReleased_2 :
    ∃ (s : State) (v : Bool), s.boot.rst.isSome :=
  ⟨{ State.reset with boot := { rst := some 2, heldBy := 2 } }, true, by decide +kernel⟩
theorem witness_ResetsAreAssertedAndReleased_3 :
    ∃ (s : State) (ns : Nat), s.boot.rst = none
      ∧ s.boot.first = true :=
  ⟨up, 499, by decide +kernel⟩
theorem witness_ResetsAreAssertedAndReleased_4 :
    ∃ (s : State) (v w : Bool), s.boot.rstN = true :=
  ⟨{ up with boot := { rst := some 3, heldBy := 3, rstN := true, cold := false, rstAt := 1094999 } }, true, true, by decide +kernel⟩
theorem witness_ResetsAreAssertedAndReleased_5 :
    ∃ (s : State), s.boot.rst.isSome
      ∧ 4 ≤ s.boot.heldBy
      ∧ s.boot.heldBy ≤ 8
      ∧ s.boot.cold = false :=
  ⟨{ up with boot := { rst := some 5, heldBy := 5, cold := false, rstAt := 1094999 } }, by decide +kernel⟩
theorem witness_ClocksQualifyTripAndReturn_1 :
    ∃ (s : State), s.coreOff = false :=
  ⟨up.set fClkStatMoscOk 1, by decide +kernel⟩
theorem witness_ClocksQualifyTripAndReturn_2 :
    ∃ (s : State), s.coreOff = false
      ∧ s.bit fClkStatLxoOk = true
      ∧ s.clk.hrcQual = true :=
  ⟨up.set fClkStatLxoOk 1, by decide +kernel⟩
theorem witness_ClocksQualifyTripAndReturn_3 :
    ∃ (s : State), s.coreOff = false
      ∧ s.bit fClkStatHrcOk = true :=
  ⟨(up.set fClkStatHrcOk 1).set fClkStatRef 1, by decide +kernel⟩
theorem witness_ClocksQualifyTripAndReturn_4 :
    ∃ (s : State), s.boot.rst = none :=
  ⟨up.set fClkStatLock 1, by decide +kernel⟩
theorem witness_ClocksQualifyTripAndReturn_5 :
    ∃ (s : State) (v w : Bool), s.boot.rst = none
      ∧ s.bit fClkStatSafeRosc = false
      ∧ s.bit fClkStatLock = false
      ∧ s.bit fClkStatMoscOk = true :=
  ⟨{ State.reset with boot := { rst := none } }.set fClkStatMoscOk 1, true, true, by decide +kernel⟩
theorem witness_ClocksQualifyTripAndReturn_6 :
    ∃ (s : State) (src : Nat), s.boot.rst = none
      ∧ s.clk.hrcQual = true
      ∧ s.bit fClkStatSafeRosc = false
      ∧ ((src = 0 ∧ s.bit fClkStatMoscOk = false ∧ s.boot.locked = true) ∨ (src = 1 ∧ s.bit fClkStatLxoOk = false)) :=
  ⟨{ up with clk := { up.clk with moscTrip := true } }.set fClkStatCoast 1, 0, by decide +kernel⟩
theorem witness_ClocksQualifyTripAndReturn_7 :
    ∃ (s : State) (w : Word), w = s.word rClkCtrl ||| 8#32
      ∧ s.HostOpen rClkCtrl w
      ∧ s.locked 2 = false :=
  ⟨((up.set fClkStatMoscOk 1).set fClkStatRef 1).set fClkStatLock 1, (((up.set fClkStatMoscOk 1).set fClkStatRef 1).set fClkStatLock 1 : State).word rClkCtrl ||| 8#32, by unfold State.HostOpen regsOk; decide +kernel⟩
theorem witness_ClocksQualifyTripAndReturn_8 :
    ∃ (s : State), s.boot.rst = none
      ∧ s.clk.hrcQual = false
      ∧ s.bit fClkStatSafeRosc = false :=
  ⟨{ State.reset with boot := { rst := none }, clk := { hrcQual := false } }, by decide +kernel⟩
theorem witness_ClocksQualifyTripAndReturn_9 :
    ∃ (s : State), s.boot.rst = none
      ∧ s.clk.hrcQual = false
      ∧ s.bit fClkStatSafeRosc = false :=
  ⟨{ State.reset with boot := { rst := none }, clk := { hrcQual := false, tries := 7 } }, by decide +kernel⟩
theorem witness_ClocksQualifyTripAndReturn_10 :
    ∃ (s : State) (us t0 : Nat), s.boot.rst = none
      ∧ s.clk.railsUp = some t0
      ∧ s.bit fClkStatMoscOk = false
      ∧ s.clk.moscTrip = false
      ∧ s.clk.startHrc = false
      ∧ s.clk.hrcQual = true
      ∧ s.bit fClkStatSafeRosc = false :=
  ⟨{ State.reset with now := 500, boot := { rst := none }, clk := { railsUp := some 400, counts := true } }, 1500, 400, by decide +kernel⟩
theorem witness_ClocksQualifyTripAndReturn_11 :
    ∃ (s : State) (t0 : Nat), s.boot.rst = none
      ∧ s.clk.railsUp = some t0
      ∧ s.bit fClkStatMoscOk = false
      ∧ s.bit fClkStatLock = false
      ∧ s.clk.startHrc = false
      ∧ s.clk.hrcQual = true
      ∧ s.bit fClkStatSafeRosc = false :=
  ⟨{ State.reset with now := 500, boot := { rst := none }, clk := { railsUp := some 400, counts := true } }, 400, by decide +kernel⟩
theorem witness_ClocksQualifyTripAndReturn_12 :
    ∃ (s : State), s.boot.rst = none
      ∧ s.clk.hrcQual = true
      ∧ s.bit fClkStatLxoOk = false
      ∧ s.clk.lxoTrip = false :=
  ⟨up, by decide +kernel⟩
theorem witness_ClocksQualifyTripAndReturn_13 :
    ∃ (s : State) (dev k : Int), s.coreOff = false
      ∧ s.bit fClkStatMoscOk = true
      ∧ k = s.geti fClkTrimSteps
      ∧ -300 ≤ k
      ∧ k ≤ 300 :=
  ⟨(up.set fClkStatMoscOk 1).seti fClkTrimSteps 299, -21, 299, by decide +kernel⟩
theorem witness_ClocksQualifyTripAndReturn_14 :
    ∃ (s : State) (ppb : Int), s.coreOff = false
      ∧ s.bit fLathStatFsync = false
      ∧ s.bit fClkStatMoscOk = true
      ∧ -2147483648 ≤ ppb
      ∧ ppb ≤ 2147483647 :=
  ⟨up.set fClkStatMoscOk 1, -5000, by decide +kernel⟩
theorem witness_ClocksQualifyTripAndReturn_15 :
    ∃ (s : State) (t0 : Nat), s.coreOff = false
      ∧ s.clk.noFall = some t0 :=
  ⟨{ up with clk := { up.clk with noFall := some 5 } }, 5, by decide +kernel⟩
theorem witness_ClocksQualifyTripAndReturn_16 :
    ∃ (s : State) (on : Bool), s.coreOff = false
      ∧ s.bit fClkStatExtrefOk ≠ on
      ∧ s.bit fClkCtrlExtrefEn = true :=
  ⟨up.set fClkCtrlExtrefEn 1, true, by decide +kernel⟩
theorem witness_ClocksQualifyTripAndReturn_17 :
    ∃ (s : State), s.boot.rst = none
      ∧ s.clk.hrcQual = true
      ∧ s.clk.railsUp = none
      ∧ s.bit fClkStatSafeRosc = false :=
  ⟨up, by decide +kernel⟩
theorem witness_KeysAreDebouncedAndReported_1 :
    ∃ (s : State), s.coreOff = false
      ∧ s.key.scanning = false
      ∧ s.en 0x90 = true :=
  ⟨up, by decide +kernel⟩
theorem witness_KeysAreDebouncedAndReported_2 :
    ∃ (s : State) (t0 : Nat), s.coreOff = false
      ∧ s.key.scanning = true
      ∧ s.key.quiet = some t0 :=
  ⟨{ up with key := { scanning := true, quiet := some 1000000 } }, 1000000, by decide +kernel⟩
theorem witness_KeysAreDebouncedAndReported_3 :
    ∃ (s : State) (m : Matrix), s.boot.coreRst = false
      ∧ s.key.scanning = true
      ∧ s.en 0x90 = true :=
  ⟨{ up with key := { scanning := true, last := 1094500, pres := [(5, 19)] } }, { keys := 32, sw0 := true }, by decide +kernel⟩
theorem witness_KeysAreDebouncedAndReported_4 :
    ∃ (s : State) (e : KeyEv) (l : List KeyEv), s.XactOpen (readXact rKeyEvt)
      ∧ Map.look (fun _ => none) s.frozen rKeyEvt = none
      ∧ s.port.snap.all (fun x => decide (x.1 ≠ rKeyEvt)) = true
      ∧ s.key.fifo = e :: l
      ∧ e.kind ≤ 3
      ∧ e.code < 66
      ∧ e.time < 65536 :=
  ⟨{ up with key := { fifo := [{ kind := 3, refused := true, code := 2, time := 65535 }, { kind := 0, code := 65, time := 7 }] } }, { kind := 3, refused := true, code := 2, time := 65535 }, [{ kind := 0, code := 65, time := 7 }], by unfold State.XactOpen State.XactWhole; decide +kernel⟩
theorem witness_KeysAreDebouncedAndReported_5 :
    ∃ (s : State), s.XactOpen (readXact rKeyEvt)
      ∧ Map.look (fun _ => none) s.frozen rKeyEvt = none
      ∧ s.port.snap.all (fun x => decide (x.1 ≠ rKeyEvt)) = true
      ∧ s.key.fifo = [] :=
  ⟨up, by unfold State.XactOpen State.XactWhole; decide +kernel⟩
theorem witness_KeysAreDebouncedAndReported_6 :
    ∃ (s : State) (e ab n : Nat) (d c : Int), e < 2
      ∧ s.coreOff = false
      ∧ s.en 0x90 = true
      ∧ n = (match (if e = 0 then s.get fKeyEncCfgSteps0 else s.get fKeyEncCfgSteps1) with | 0 => 4 | 1 => 2 | _ => 1)
      ∧ d = (if s.bit (if e = 0 then fKeyEncCfgDir0 else fKeyEncCfgDir1) then -1 else 1) * encTurn (Map.look (fun _ => 0) s.key.ab e) (ab % 4)
      ∧ c = Map.look (fun _ => 0) s.key.sub e + d :=
  ⟨{ up with key := { ab := [(1, 1)], sub := [(1, 3)] } }, 1, 0, 4, 1, 4, by decide +kernel⟩
theorem witness_CombinationsAndPanelWrites_1 :
    ∃ (s : State) (k act t0 : Nat), k < 4
      ∧ s.coreOff = false
      ∧ s.en 0x90 = true
      ∧ s.comboMatch k = true
      ∧ Map.look (fun _ => false) s.key.fired k = false
      ∧ Map.look (fun _ => none) s.key.since k = some t0
      ∧ act = s.get (fKeyComboCtrlAction k)
      ∧ (act = 1 ∨ act = 2 ∨ (act = 3 ∧ s.bit fSysStrapsServiceN = true))
      ∧ s.key.fifo.length < 16 :=
  ⟨({ up with key := { rep := 9, since := [(3, some 5)] } }.setWord (rKeyComboCtrl 3) 0xA3000000#32).setWord (rKeyComboKeys 3) 0x8380#32, 3, 1, 5, by decide +kernel⟩
theorem witness_CombinationsAndPanelWrites_2 :
    ∃ (s : State) (c : Instr) (k : Nat), (c = .fixedCombo ∧ s.key.fixed = false ∧ s.boot.rst = none ∨ (c = .comboFire k ∧ k < 4 ∧ s.coreOff = false ∧ s.boot.rst = none ∧ s.en 0x90 = true ∧ s.comboMatch k = true ∧ s.get (fKeyComboCtrlAction k) = 0 ∧ Map.look (fun _ => false) s.key.fired k = false ∧ (Map.look (fun _ => none) s.key.since k).isSome)) :=
  ⟨up, .fixedCombo, 0, by decide +kernel⟩
theorem witness_CombinationsAndPanelWrites_3 :
    ∃ (s : State) (t0 : Nat), s.coreOff = false
      ∧ s.key.unlock = some t0 :=
  ⟨{ up with key := { unlock := some 2000000 } }.set fKeyStatUnlocked 1, 2000000, by decide +kernel⟩
theorem witness_CombinationsAndPanelWrites_4 :
    ∃ (s : State), s.HostOpen rKeyCmd 1#32 :=
  ⟨{ up with key := { unlock := some 2000000 } }.set fKeyStatUnlocked 1, by unfold State.HostOpen regsOk; decide +kernel⟩
theorem witness_CombinationsAndPanelWrites_5 :
    ∃ (s : State) (w v : Word) (rel : Bool) (kind i : Nat), v = (if rel then w ||| 0x80000000#32 else w &&& 0x7FFFFFFF#32)
      ∧ kind = bitsOf w 29 2
      ∧ i = bitsOf w 0 14
      ∧ s.HostOpen rKeyPanelWr v
      ∧ w &&& 0x1FFFC000#32 = 0
      ∧ s.bit fKeyStatUnlocked = true
      ∧ ((kind = 1 ∧ i < 96 ∧ s.isOutput i = true) ∨ (kind = 2 ∧ i < 24) ∨ (kind = 3 ∧ i < 96 ∧ (rel = false → 0 ≤ divHalfUp (s.geti fKeyPanelValValue) 65536 ∧ divHalfUp (s.geti fKeyPanelValValue) 65536 ≤ 4)) ∨ (kind = 0 ∧ rel = false ∧ s.bit fKeyStatCommission = true ∧ s.kindOf i = some 1)) :=
  ⟨((upCh 3 (inMode 8)).set fKeyStatUnlocked 1).set (fUchCfgMode 3) 8, 0x20000003#32, 0x20000003#32, false, 1, 3, by unfold State.HostOpen regsOk; decide +kernel⟩
theorem witness_CombinationsAndPanelWrites_6 :
    ∃ (s : State) (w v : Word) (rel : Bool), v = (if rel then w ||| 0x80000000#32 else w &&& 0x7FFFFFFF#32)
      ∧ s.HostOpen rKeyPanelWr v
      ∧ w &&& 0x1FFFC000#32 = 0
      ∧ s.bit fKeyStatUnlocked = false :=
  ⟨up, 0x20000003#32, 0x20000003#32, false, by unfold State.HostOpen regsOk; decide +kernel⟩
theorem witness_DisplayUpdatesAreQueuedAndRun_1 :
    ∃ (s : State) (w : Word) (mode x y dw dh : Nat) (bad lut full : Bool), s.HostOpen rEpdUpdCmd w
      ∧ bitAt w 31 = true
      ∧ w &&& 0x7FFFFFFC#32 = 0
      ∧ mode = bitsOf w 0 2
      ∧ x = s.get fEpdUpdXyX
      ∧ y = s.get fEpdUpdXyY
      ∧ dw = s.get fEpdUpdWhW
      ∧ dh = s.get fEpdUpdWhH
      ∧ mode ≤ 2
      ∧ (bad = decide (dw = 0 ∨ dh = 0 ∨ s.get fEpdGeomW < x + dw ∨ s.get fEpdGeomH < y + dh))
      ∧ lut = decide (s.phaseCount (s.get fEpdRunBand) mode = 0)
      ∧ full = decide (16 ≤ s.epd.queue.length) :=
  ⟨{ (up.setWord rEpdUpdXy 0x00080010#32).setWord rEpdUpdWh 0x00080010#32 with epd := { win := [(0x12000, 0x2#32)] } }, 0x80000001#32, 1, 16, 8, 16, 8, false, false, false, by unfold State.HostOpen regsOk; decide +kernel⟩
theorem witness_DisplayUpdatesAreQueuedAndRun_2 :
    ∃ (s : State) (q : UpdRun), s.coreOff = false
      ∧ s.en 0x91 = true
      ∧ s.epd.rails = .up
      ∧ s.epd.runs = [q]
      ∧ s.epd.queue = []
      ∧ s.epd.boot = .no :=
  ⟨{ up with epd := { rails := .up, runs := [{ slot := 1, u := { id := 7, x := 8, y := 2, w := 2, h := 2, mode := 2 }, band := 0, phase := 2, total := 3, buf := [0, 8, 15, 7] }] } }, { slot := 1, u := { id := 7, x := 8, y := 2, w := 2, h := 2, mode := 2 }, band := 0, phase := 2, total := 3, buf := [0, 8, 15, 7] }, by decide +kernel⟩
theorem witness_DisplayUpdatesAreQueuedAndRun_3 :
    ∃ (s : State) (u : Upd) (g : List Nat), s.coreOff = false
      ∧ s.en 0x91 = true
      ∧ g = (List.range (u.w * u.h)).map (fun i => s.newGrey (u.x + i % u.w) (u.y + i / u.w))
      ∧ s.epd.rails = .up
      ∧ s.epd.runs = []
      ∧ s.epd.queue = [u]
      ∧ s.epd.boot = .no :=
  ⟨{ up with epd := { rails := .up, queue := [{ id := 7, x := 8, y := 2, w := 2, h := 2, mode := 2 }], win := [(402, 0x12345678#32)] } }, { id := 7, x := 8, y := 2, w := 2, h := 2, mode := 2 }, (List.range (({ id := 7, x := 8, y := 2, w := 2, h := 2, mode := 2 } : Upd).w * ({ id := 7, x := 8, y := 2, w := 2, h := 2, mode := 2 } : Upd).h)).map (fun y => ({ up with epd := { rails := .up, queue := [{ id := 7, x := 8, y := 2, w := 2, h := 2, mode := 2 }], win := [(402, 0x12345678#32)] } } : State).newGrey (({ id := 7, x := 8, y := 2, w := 2, h := 2, mode := 2 } : Upd).x + y % ({ id := 7, x := 8, y := 2, w := 2, h := 2, mode := 2 } : Upd).w) (({ id := 7, x := 8, y := 2, w := 2, h := 2, mode := 2 } : Upd).y + y / ({ id := 7, x := 8, y := 2, w := 2, h := 2, mode := 2 } : Upd).w)), by decide +kernel⟩
theorem witness_DisplayUpdatesAreQueuedAndRun_4 :
    ∃ (s : State) (id : Nat), s.coreOff = false
      ∧ s.en 0x91 = true
      ∧ s.epd.runs.any (fun q => decide (q.u.id = id) && q.copying) = true :=
  ⟨{ up with epd := { rails := .up, runs := [{ slot := 1, u := { id := 7, x := 8, y := 2, w := 2, h := 2, mode := 2 }, band := 0, total := 3 }] } }, 7, by decide +kernel⟩
theorem witness_DisplayUpdatesAreQueuedAndRun_5 :
    ∃ (s : State) (u : Upd) (t0 : Nat), s.coreOff = false
      ∧ s.en 0x91 = true
      ∧ s.bit fEpdFbStatCrcValid = false
      ∧ s.epd.queue.find? (fun v => v.wait.isSome) = some u
      ∧ u.wait = some t0 :=
  ⟨{ up with epd := { rails := .up, queue := [{ id := 7, x := 8, y := 2, w := 2, h := 2, mode := 2, wait := some 1000000 }] } }, { id := 7, x := 8, y := 2, w := 2, h := 2, mode := 2, wait := some 1000000 }, 1000000, by decide +kernel⟩
theorem witness_DisplayUpdatesAreQueuedAndRun_6 :
    ∃ (s : State), s.coreOff = false :=
  ⟨up, by decide +kernel⟩
theorem witness_DisplayUpdatesAreQueuedAndRun_7 :
    ∃ (s : State) (t0 : Nat), s.coreOff = false
      ∧ s.epd.crcT = some t0 :=
  ⟨{ up.setWord rEpdGeom 0x10008#32 with epd := { crcT := some 1095000, win := [(0, 5#32)] } }, 1095000, by decide +kernel⟩
theorem witness_PanelRailsStepUpAndDown_1 :
    ∃ (s : State) (k : Nat), s.coreOff = false
      ∧ s.en 0x91 = true
      ∧ s.epd.rails = .rising k
      ∧ k < 5 :=
  ⟨{ up with epd := { rails := .rising 0, railT := 1094500 } }, 0, by decide +kernel⟩
theorem witness_PanelRailsStepUpAndDown_2 :
    ∃ (s : State) (k : Nat), s.coreOff = false
      ∧ s.en 0x91 = true
      ∧ s.epd.rails = .rising k
      ∧ k < 5
      ∧ (s.epd.queue ≠ [] ∨ s.epd.runs ≠ []) :=
  ⟨{ up with epd := { rails := .rising 2, railT := 1094500, queue := [{ id := 7, x := 8, y := 2, w := 2, h := 2, mode := 2 }], boot := .run 3 8 0 5 } }, 2, by decide +kernel⟩
theorem witness_PanelRailsStepUpAndDown_3 :
    ∃ (s : State) (k : Nat) (t0 : Nat), s.coreOff = false
      ∧ s.en 0x91 = true
      ∧ s.epd.rails = .up
      ∧ s.epd.runs = []
      ∧ s.epd.idle = some t0 :=
  ⟨{ up with epd := { rails := .up, idle := some 1094500 } }, 0, 1094500, by decide +kernel⟩
theorem witness_PanelRailsStepUpAndDown_4 :
    ∃ (s : State) (k : Nat), s.coreOff = false
      ∧ s.en 0x91 = true
      ∧ s.epd.rails = .falling k
      ∧ k < 5
      ∧ s.epd.queue = []
      ∧ s.epd.boot = .no :=
  ⟨{ up with epd := { rails := .falling 0, railT := 1094500 } }, 0, by decide +kernel⟩
theorem witness_StepRunsTheFrontCommand_1 :
    ∃ (s : State) (c : Instr) (rest : List Instr), s.pending = c :: rest :=
  ⟨{ up with pending := [.pfw, .keyWake] }, .pfw, [.keyWake], by decide +kernel⟩
theorem witness_StepRunsTheFrontCommand_2 :
    ∃ (s : State), s.pending = [] :=
  ⟨up, by decide +kernel⟩
theorem witness_AbsentInstancesChangeNothing_1 :
    ∃ (c : Instr) (s : State), c.here = false :=
  ⟨.lswSc 96, up, by decide +kernel⟩
theorem witness_StepKeepsTheInvariant_1 :
    ∃ (s t : State), s.Inv
      ∧ step s = .next t :=
  ⟨{ up with pending := [.vfieldDip] }, up.vfieldDip, ⟨by unfold State.Inv State.queuesOk State.positionOk regsOk ramOk chansOk levelsOk; decide +kernel, rfl⟩⟩
theorem witness_RunsKeepIdentityAndInvariant_1 :
    ∃ (s t : State), Runs s t :=
  ⟨State.reset, State.reset, .refl _⟩
theorem witness_CanonicalMapsAreTheirReads_1 :
    ∃ (d : Nat → Word) (m n : Map Word), Map.wf d m = true
      ∧ Map.wf d n = true :=
  ⟨fun _ => 0, [(1, 5)], [(1, 5)], by decide +kernel⟩
theorem witness_CanonicalMapsAreTheirReads_2 :
    ∃ (d : Nat → Word) (m n : Map Word) (k : Nat) (v : Word), Map.wf d m = true :=
  ⟨fun _ => 0, [(1, 5), (7, 3)], [], 7, 0, by decide +kernel⟩
theorem witness_FailedReadsReturnZeros_1 :
    ∃ (s : State) (x : Xact), s.boot.coreRst = false
      ∧ s.boot.cmdRst = none
      ∧ xactOp x = 1 :=
  ⟨up.set fHostCfgCrcEn 1, { cmd := 0x12#8, addr := 0x007000#24 }, by decide +kernel⟩
theorem witness_TransactionsStayWithinTheirSpace_1 :
    ∃ (s : State) (x : Xact) (c : Instr) (a n : Nat), a = xactStart x
      ∧ n = xactLen x
      ∧ c = (if xactOp x = 1 then .hostRead x else .registerWrite x)
      ∧ s.boot.coreRst = false
      ∧ s.boot.cmdRst = none
      ∧ s.XactWhole x
      ∧ ((a < 0x100000 ∧ 0x1000 < a % 0x1000 + 4 * n) ∨ (a < 0x180000 ∧ 0x180000 < a + 4 * n) ∨ (a < 0x1C0000 ∧ 0x1C0000 < a + 4 * n) ∨ (a < 0x1E0000 ∧ 0x1E0000 < a + 4 * n) ∨ (a < 0x1F0000 ∧ 0x1F0000 < a + 4 * n) ∨ (a < 0x200000 ∧ 0x200000 < a + 4 * n) ∨ (a < 0x280000 ∧ 0x280000 < a + 4 * n)) :=
  ⟨up, { cmd := 0x11#8, addr := 0x008FFC#24 }, .hostRead ({ cmd := 0x11#8, addr := 0x008FFC#24 } : Xact), 0x008FFC, 2, by unfold State.XactWhole; decide +kernel⟩
theorem witness_TheInterruptTree_1 :
    ∃ (s : State) (b : Nat), b < 27 :=
  ⟨(up.irq 0x08 3).setWord (rIrqEn 0x08) 8, 5, by decide +kernel⟩
theorem witness_TheInterruptTree_3 :
    ∃ (s : State) (p k : Nat), p < 256
      ∧ k < 32 :=
  ⟨up, 8, 31, by decide +kernel⟩

end Slice0

end Sys2Proof.Machine.Tests
end

section
/-! PROOFS. One step of the block: the command at the front of the queue, or a tick of TIMEBASE. -/
namespace Sys2Proof.Machine

/-- A step of a state with a command at the front of its queue runs that command. -/
theorem step_of_pending_cons {s : State} {c : Instr} {rest : List Instr} (h : s.pending = c :: rest) :
    step s = exec c { s with pending := rest } := by
  simp only [step, h]

/-- A step on an empty queue is one tick of TIMEBASE. -/
theorem step_of_pending_nil {s : State} (h : s.pending = []) : step s = .next s.tick := by
  simp only [step, h]

theorem State.tick_eq (s : State) : s.tick = { s with now := if s.clk.counts then s.now + 1 else s.now } := by
  unfold State.tick
  split <;> rfl

/-- Settles O50: the front command runs on the rest of the queue, and an empty queue ticks. -/
theorem stepRunsTheFrontCommand : Obligations.StepRunsTheFrontCommand := by
  unfold Obligations.StepRunsTheFrontCommand
  intro s
  exact ⟨fun c rest h => step_of_pending_cons h, fun h => by rw [step_of_pending_nil h, State.tick_eq]⟩

end Sys2Proof.Machine
end

section
/-! PROOFS. Commands that name a part the block does not have (WellFormed.lean): each stands behind one of the model's guards,
and behind a guard that fails a command leaves the state as it is. -/
namespace Sys2Proof.Machine

namespace State

/-- A guard fails with its first part. -/
theorem guard_fails {a b : Bool} (h : a = false) : (a && b) = false := by rw [h, Bool.false_and]

/-- What stands behind a guard that fails is not done. -/
theorem not_guarded {b : Bool} (h : b = false) (t s : State) : (if b then t else s) = s := if_neg (Bool.eq_false_iff.mp h)

variable {n : Nat}

theorem onChan_absent (h : isChannel n = false) (s : State) (f : State → State) : s.onChan n f = s :=
  not_guarded (guard_fails h) _ _

theorem onCore_absent (h : isCore n = false) (s : State) (f : State → State) : s.onCore n f = s :=
  not_guarded (guard_fails h) _ _

theorem onBus_absent (h : isPort n = false) (s : State) (f : State → State) : s.onBus n f = s :=
  not_guarded (guard_fails h) _ _

theorem onPort_absent (h : isPort n = false) (s : State) (f : State → State) : s.onPort n f = s :=
  not_guarded (guard_fails h) _ _

theorem onLink_absent (h : isPort n = false) (s : State) (frame : List Byte) (k : Nat) (f : State → State) :
    s.onLink n frame k f = s :=
  onPort_absent h s _

theorem onFan_absent (h : isFan n = false) (s : State) (f : State → State) : s.onFan n f = s :=
  not_guarded (guard_fails (guard_fails (guard_fails h))) _ _

/-- Twelve channels belong to a core: no channel beyond the last has one. -/
theorem isCore_div_of_not_isChannel (h : isChannel n = false) : isCore (n / 12) = false := by
  have hn : ¬ n < 96 := of_decide_eq_false h
  exact decide_eq_false (by omega)

theorem modeEffect_absent (h : isChannel n = false) (s : State) : s.modeEffect n = s := by
  have hn : 96 ≤ n := Nat.le_of_not_lt (of_decide_eq_false h)
  exact if_pos (by simp [hn])

theorem encoderMove_absent (h : decide (n < 2) = false) (s : State) (ab : Nat) : s.encoderMove n ab = s :=
  if_pos (Nat.le_of_not_lt (of_decide_eq_false h))

theorem comboActs_absent (h : decide (n < 4) = false) (s : State) : s.comboActs n = s := by
  have hn : 4 ≤ n := Nat.le_of_not_lt (of_decide_eq_false h)
  have hf : s.comboFire n = (none, s) := if_pos (by simp [hn])
  simp only [comboActs, hf]

theorem requalified_absent (h : decide (n < 2) = false) (s : State) : s.requalified n = s := by
  have hn : ¬ n < 2 := of_decide_eq_false h
  have h0 : n ≠ 0 := by omega
  have h1 : n ≠ 1 := by omega
  simp [requalified, h0, h1]

end State

/-- A meaning behind a Boolean guard that fails. -/
theorem next_guard {b : Bool} (h : b = false) (t s : State) :
    (.next (if b then t else s) : Host.Outcome State Fault Refusal) = .next s :=
  congrArg Host.Outcome.next (State.not_guarded h t s)

/-- A meaning behind a bound that the operand exceeds. -/
theorem next_bound {p : Prop} [Decidable p] (h : decide p = false) (t s : State) :
    (.next (if p then t else s) : Host.Outcome State Fault Refusal) = .next s := by
  rw [if_neg (of_decide_eq_false h)]

theorem execFltClrOvv_absent {n : Nat} (h : isChannel n = false) (pin : Int) (s : State) :
    execFltClrOvv n pin s = .next s := by
  have hn : decide (n < 96) = false := h
  simp [execFltClrOvv, hn]

theorem execPriWrite_absent {o k : Nat} (h : (isArray o && decide (1 ≤ k) && decide (k ≤ 7)) = false) (w : Word) (s : State) :
    execPriWrite o k w s = .next s := by
  unfold execPriWrite
  by_cases hk : k = 0 ∨ 7 < k
  · simp [hk]
  · have ho : ¬ o < 120 := by
      simp only [isArray, Bool.and_eq_false_iff, decide_eq_false_iff_not] at h
      omega
    have ho' : ¬ o < 96 := by omega
    simp [ho, ho']

theorem execPriRelinquish_absent {o : Nat} (h : isArray o = false) (w : Word) (s : State) :
    execPriRelinquish o w s = .next s := by
  have ho : ¬ o < 120 := of_decide_eq_false h
  have ho' : ¬ o < 96 := by omega
  simp [execPriRelinquish, ho, ho']

theorem execCorrectionWrite_absent {c i : Nat} (h : (isCore c && decide (i < 12)) = false) (gain : Bool) (w : Word) (s : State) :
    execCorrectionWrite c i gain w s = .next s := by
  have hc : 8 ≤ c ∨ 12 ≤ i := by
    simp only [isCore, Bool.and_eq_false_iff, decide_eq_false_iff_not] at h
    omega
  simp [execCorrectionWrite, hc]

theorem execEncoderTransition_absent {e : Nat} (h : decide (e < 2) = false) (ab : Nat) (s : State) :
    execEncoderTransition e ab s = .next s := by
  simp [execEncoderTransition, State.encoderMove_absent h]

theorem execComboFire_absent {k : Nat} (h : decide (k < 4) = false) (s : State) : execComboFire k s = .next s := by
  simp [execComboFire, State.comboActs_absent h]

theorem execSourceRequalified_absent {x : Nat} (h : decide (x < 2) = false) (s : State) :
    execSourceRequalified x s = .next s := by
  simp [execSourceRequalified, State.clocksRun, State.requalified_absent h]

/-- Settles O52: each command that can name an absent part stands behind one guard of the model, and that guard fails. -/
theorem absentInstancesChangeNothing : Obligations.AbsentInstancesChangeNothing := by
  unfold Obligations.AbsentInstancesChangeNothing
  intro c s h
  cases c with
  | lockWrite | softReset | blockEnable | gateRequest | gateForce | ungate | irqTestWrite | irqStatClear =>
    exact next_guard h _ s
  | setpointWrite | loopParamWrite | heldFieldWrite | thetaWrite => exact next_guard h _ s
  | fltClrRdbk | fltClrLswSc | fltClrLswOt | sluiceRequest | zoneModeWrite | zoneModeRelinquish | fenModeWrite
  | fenModeRelinquish | resetP | resetTheta | fanFltClr | learn | learnAbort | peatProgramDone => exact next_bound h _ s
  | modeGapEnd | ovvDetect | ovvAutoReentry | oviDetect | burdenClosure | burdenClosureEnd | lswSc | lswOt | lswOtRecovered
  | diDebounce | tachEdge | tachTimeout | countPulse | fltFailsafeTimeout =>
    exact congrArg Host.Outcome.next (State.onChan_absent h s _)
  | conversionDone | dischargeEnd | urgentStart | urgentResult | selfCheckBlockEnd | stall | tempBlockEnd =>
    exact congrArg Host.Outcome.next (State.onCore_absent h s _)
  | intervalEnd => exact congrArg Host.Outcome.next (State.onCore_absent (State.isCore_div_of_not_isChannel h) s _)
  | pollCycleStart | modbusReply | replyTimeout | retryGapEnd => exact congrArg Host.Outcome.next (State.onBus_absent h s _)
  | fanStartTimeout | fanPulseTimeout | retryOffEnd | kickEnd | learnPointEnd | ageUpdate =>
    exact congrArg Host.Outcome.next (State.onFan_absent h s _)
  | phyLinkUp | phyLinkDown | phyTraining | helloTimer | helloTimeout | lsaRetransmit | pdelayTimer | tSlotStart | frameSent
  | discardedFrameReceived | tFrameReceived | publishReceived | frameForward | readRequest | writeRequest | subscribeRequest
  | unsubscribeRequest | streamReqReceived | streamRelReceived | streamLostReceived | alarmReceived | queryRequest
  | queryNextRequest | responseReceived => exact congrArg Host.Outcome.next (State.onPort_absent h s _)
  | helloReceived | lsaReceived | lsaAckReceived | grantReceived | pdelayReqReceived | pdelayRespReceived | syncReceived =>
    exact congrArg Host.Outcome.next (State.onLink_absent h s _ _ _)
  | modeChange => exact congrArg Host.Outcome.next (State.modeEffect_absent h s)
  | priWrite => exact execPriWrite_absent h _ s
  | priRelinquish => exact execPriRelinquish_absent h _ s
  | fltClrOvv => exact execFltClrOvv_absent h _ s
  | correctionWrite => exact execCorrectionWrite_absent h _ _ s
  | encoderTransition => exact execEncoderTransition_absent h _ s
  | comboFire => exact execComboFire_absent h s
  | sourceRequalified => exact execSourceRequalified_absent h s
  | _ =>
    -- the other commands name no part, and `here` is true of them
    exact absurd h.symm Bool.false_ne_true

end Sys2Proof.Machine
end

section
/-! PROOFS. A host write of one word as the word's own effect and the port's account of it, and what such a write may touch. -/
namespace Sys2Proof.Machine
namespace State

/-! ### The transaction around the word -/

/-- `u` after the transaction that led to it is counted and the port shows its account of it (R60). -/
def account (u : State) (q : Port) : State := { u.bumpWrap fHostXactCntCount with port := q }

@[simp] theorem account_port (u : State) (q : Port) : (u.account q).port = q := rfl
@[simp] theorem account_boot (u : State) (q : Port) : (u.account q).boot = u.boot := rfl
@[simp] theorem account_now (u : State) (q : Port) : (u.account q).now = u.now := rfl
@[simp] theorem account_sto (u : State) (q : Port) : (u.account q).sto = u.sto := rfl
theorem account_word (u : State) (q : Port) {a : Nat} (h : a ≠ rHostXactCnt) : (u.account q).word a = u.word a :=
  word_bumpWrap_ne u _ h

theorem account_bit (u : State) (q : Port) {f : Field} (h : f.addr ≠ rHostXactCnt) : (u.account q).bit f = u.bit f := by
  simp only [bit, get, account_word u q h]

/-- The one law of host writes with the port's account spelt out, and with the reset that the word may ask for (R71). -/
theorem hostWrite_open_eq {s : State} {a : Nat} {w : Word} (h : s.HostOpen a w) (hl : (s.writeWord {} a w).2 = false) :
    ∃ q : Port, q.resp = 0 ∧ q.lockSeq = (s.writeWord {} a w).1.port.lockSeq
      ∧ s.hostWrite a w = ((s.writeWord {} a w).1.account q).takeCmdReset := by
  have ho : xactOp (writeXact a w) = 2 := by simp [xactOp, writeXact]
  refine ⟨{ (s.writeWord {} a w).1.port with resp := 0, hostStatus := some s.hostStatus, rdata := [], rcrc := none },
    rfl, rfl, ?_⟩
  unfold hostWrite hostXact
  rw [xactRun_write h hl, h.1]
  simp [ho, account]

theorem takeCmdReset_none {s : State} (h : s.boot.cmdRst = none) : s.takeCmdReset = s := by
  simp only [takeCmdReset, h]

theorem takeCmdReset_some {s : State} {c : Nat} (h : s.boot.cmdRst = some c) : s.takeCmdReset = s.assertReset c := by
  simp only [takeCmdReset, h]

theorem HostOpen.cmdRst_none {s : State} {a : Nat} {w : Word} (h : s.HostOpen a w) : s.boot.cmdRst = none := h.2.1

/-- Where no reset waits, a word that met no LOCKED field leaves the transaction answered, and the LOCK sequences as they came
to be. -/
theorem hostWrite_answered {s u : State} {a : Nat} {w : Word} (h : s.HostOpen a w) (hw : s.writeWord {} a w = (u, false))
    (hr : u.boot.cmdRst = none) :
    ∃ q : Port, q.resp = 0 ∧ q.lockSeq = u.port.lockSeq ∧ s.hostWrite a w = u.account q := by
  obtain ⟨q, hq, hls, he⟩ := hostWrite_open_eq h (by rw [hw])
  rw [hw] at hls he
  exact ⟨q, hq, hls, he.trans (takeCmdReset_none hr)⟩

/-! ### What the word may touch -/

/-- From `s` to `t` the port, the state of the parameter store and the register words that `p` names may change, and nothing
else. -/
def WriteTouches (s t : State) (p : Nat → Bool) : Prop :=
  t = { s with regs := t.regs, port := t.port, sto := t.sto } ∧ s.OnlyWords t p

namespace WriteTouches

variable {s t : State} {p : Nat → Bool}

theorem refl (s : State) (p : Nat → Bool) : WriteTouches s s p := ⟨rfl, fun _ _ => rfl⟩

theorem setWord (h : WriteTouches s t p) {a : Nat} (ha : p a = true) (w : Word) : WriteTouches s (t.setWord a w) p := by
  obtain ⟨he, hw⟩ := h
  refine ⟨congrArg (fun u : State => u.setWord a w) he, fun b hb => ?_⟩
  rw [word_setWord_ne _ _ (fun hba => by simp [hba, ha] at hb)]
  exact hw b hb

/-- Writing back what a register reads changes no word. -/
theorem setWord_same (h : WriteTouches s t p) {a : Nat} {w : Word} (hw : w = t.word a) : WriteTouches s (t.setWord a w) p := by
  obtain ⟨he, ho⟩ := h
  refine ⟨congrArg (fun u : State => u.setWord a w) he, fun b hb => ?_⟩
  rw [word_setWord, ← ho b hb]
  split
  · next hba => rw [hw, hba]
  · rfl

theorem set (h : WriteTouches s t p) {f : Field} (hf : p f.addr = true) (v : Nat) : WriteTouches s (t.set f v) p := h.setWord hf _

theorem setB (h : WriteTouches s t p) {f : Field} (hf : p f.addr = true) (b : Bool) : WriteTouches s (t.setB f b) p := h.set hf _

theorem blkErr (h : WriteTouches s t p) {n : Nat} (hn : p (rBlkErr n) = true) (c : Nat) (wr : Bool) (o : Nat) :
    WriteTouches s (t.blkErr n c wr o) p := h.setWord hn _

theorem withPort (h : WriteTouches s t p) (q : Port) : WriteTouches s { t with port := q } p :=
  ⟨congrArg (fun u : State => { u with port := q }) h.1, h.2⟩

theorem updSto (h : WriteTouches s t p) (f : StoSt → StoSt) : WriteTouches s (t.updSto f) p :=
  ⟨congrArg (fun u : State => u.updSto f) h.1, h.2⟩

theorem storeDisarm (h : WriteTouches s t p) (hstatus : p rStoreStatus = true) (hblk : p (rBlkStat 0x70) = true) :
    WriteTouches s t.storeDisarm p := by
  unfold State.storeDisarm State.storeFaces
  have hq := ((h.updSto (fun x => { x with armed := none, unlock1 := none })).setB (f := fStoreStatusBusy) hstatus
    t.sto.cur.isSome).set (f := fStoreStatusQdepth) hstatus t.sto.queue.length
  refine WriteTouches.set (f := fBlkState 0x70) (WriteTouches.setB (f := fStoreStatusBpArmed) ?_ hstatus _) hblk _
  split
  · exact hq.set (f := fStoreStatusPage) hstatus _
  · exact hq

theorem boot_eq (h : WriteTouches s t p) : t.boot = s.boot := by rw [h.1]
theorem now_eq (h : WriteTouches s t p) : t.now = s.now := by rw [h.1]
theorem pwr_eq (h : WriteTouches s t p) : t.pwr = s.pwr := by rw [h.1]
theorem flt_eq (h : WriteTouches s t p) : t.flt = s.flt := by rw [h.1]
theorem clk_eq (h : WriteTouches s t p) : t.clk = s.clk := by rw [h.1]

theorem bit_eq (h : WriteTouches s t p) {f : Field} (hf : p f.addr = false) : t.bit f = s.bit f := by
  simp only [bit, get, h.2 _ hf]

/-- Where the store is as it was, only registers and port remain. -/
theorem eq_of_sto (h : WriteTouches s t p) (hs : t.sto = s.sto) : t = { s with regs := t.regs, port := t.port } := by
  have := h.1
  rwa [hs] at this

theorem account (h : WriteTouches s t p) (hc : p rHostXactCnt = true) (q : Port) : WriteTouches s (t.account q) p :=
  (h.setWord hc _).withPort q

theorem mono (h : WriteTouches s t p) {q : Nat → Bool} (hq : ∀ a, q a = false → p a = false) : WriteTouches s t q :=
  ⟨h.1, fun a ha => h.2 a (hq a ha)⟩

end WriteTouches

end State
end Sys2Proof.Machine
end

section
/-! PROOFS. The common registers LOCK, IRQ_TEST and IRQ_STAT of a page (R55, R54, R4). -/
namespace Sys2Proof.Machine
namespace State

/-- The pages whose LOCK sequences are open become `l`. -/
def withLockSeq (s : State) (l : List (Nat × Nat)) : State := { s with port := { s.port with lockSeq := l } }

/-- The LOCK sequence of page `p` starts anew (R55). -/
def restartLock (s : State) (p : Nat) : State := s.withLockSeq (s.port.lockSeq.filter (fun x => x.1 ≠ p))

/-- The state that a write to the common register at `off` of page `p` finds: any write but to LOCK restarts the page's LOCK
sequence (R55), and one to the store's page disarms PROTECT (R285). -/
def commonReady (s : State) (b : Blk) (p off : Nat) : State :=
  let s := if off = 0x18 then s else s.restartLock p
  if b = .store then s.storeDisarm else s

/-- A word with bits that its register does not have is recorded in BLK_ERR (R46, R56). -/
def noteReserved (s : State) (p off : Nat) (known w : Word) : State :=
  if w &&& ~~~known ≠ 0 then s.blkErr p 0x05 true off else s

variable {s t : State} {p off : Nat} {b : Blk} {q : Nat → Bool} {w : Word}

theorem page_lt (h : blkOfPage p = some b) : p < 0x100 := by
  have hend : ∀ b : Blk, b.first + b.count ≤ 0x100 := by intro b; cases b <;> decide
  have hb := hend b
  have hp : b.first ≤ p ∧ p < b.first + b.count := by simpa using List.find?_some h
  omega

theorem isPage_of_blk (h : blkOfPage p = some b) : isPage p = true := decide_eq_true (page_lt h)

theorem writeWord_common (hb : blkOfPage p = some b) (ho : off < 0x20) :
    s.writeWord {} (0x1000 * p + off) w = (s.commonReady b p off).commonWrite b p off w false := by
  have hp := page_lt hb
  have hpage : (0x1000 * p + off) / 0x1000 = p := by omega
  have hoff : (0x1000 * p + off) % 0x1000 = off := by omega
  have hreg : ¬ 0x100000 ≤ 0x1000 * p + off := by omega
  simp only [writeWord, hpage, hoff, hreg, hb, ho, if_true, if_false]
  rfl

theorem WriteTouches.commonReady (h : WriteTouches s t q) (hstatus : q rStoreStatus = true)
    (hblk : q (rBlkStat 0x70) = true) (b : Blk) (p off : Nat) : WriteTouches s (t.commonReady b p off) q := by
  have hseq : WriteTouches s (if off = 0x18 then t else t.restartLock p) q := by
    split
    · exact h
    · exact h.withPort _
  by_cases hb : b = .store
  · simpa only [State.commonReady, hb, if_true] using hseq.storeDisarm hstatus hblk
  · simpa only [State.commonReady, hb, if_false] using hseq

theorem WriteTouches.noteReserved (h : WriteTouches s t q) (hp : q (rBlkErr p) = true) (off : Nat) (known w : Word) :
    WriteTouches s (t.noteReserved p off known w) q := by
  unfold State.noteReserved
  split
  · exact h.blkErr hp _ _ _
  · exact h

theorem HostOpen.page {off : Nat} (h : s.HostOpen (0x1000 * p + off) w) (ho : off < 0x1000) : ∃ b, blkOfPage p = some b := by
  obtain ⟨-, -, hlt, -, hok, -⟩ := h
  have hp : (0x1000 * p + off) / 0x1000 = p := by omega
  simp only [addrOk, hlt, if_true, hp] at hok
  exact Option.isSome_iff_exists.mp hok

/-! ### The words that such a write may change -/

/-- The words that a write to LOCK may change. -/
def lockWords (p a : Nat) : Bool := a == rLock p || a == rHostXactCnt || a / 0x1000 == 0x70
/-- The words that a write to IRQ_TEST or IRQ_STAT may change. -/
def irqWords (p a : Nat) : Bool := a == rIrqStat p || a == rBlkErr p || a == rHostXactCnt || a / 0x1000 == 0x70
/-- The words that may change before a common register takes its word: the store's status and BLK_ERR. -/
def readyWords (p a : Nat) : Bool := a == rStoreStatus || a == rBlkStat 0x70 || a == rBlkErr p

theorem lockWords_store (p : Nat) {a : Nat} (h : a / 0x1000 = 0x70) : lockWords p a = true := by simp [lockWords, h]
theorem irqWords_store (p : Nat) {a : Nat} (h : a / 0x1000 = 0x70) : irqWords p a = true := by simp [irqWords, h]

theorem readyWords_rLock (p : Nat) : readyWords p (rLock p) = false := by
  simp only [readyWords, rLock, rStoreStatus, rBlkStat, rBlkErr, Bool.or_eq_false_iff, beq_eq_false_iff_ne]
  omega

theorem readyWords_rIrqStat (p : Nat) : readyWords p (rIrqStat p) = false := by
  simp only [readyWords, rIrqStat, rStoreStatus, rBlkStat, rBlkErr, Bool.or_eq_false_iff, beq_eq_false_iff_ne]
  omega

theorem rLock_ne_rHostXactCnt (p : Nat) : rLock p ≠ rHostXactCnt := by unfold rLock rHostXactCnt; omega
theorem rIrqStat_ne_rHostXactCnt (p : Nat) : rIrqStat p ≠ rHostXactCnt := by unfold rIrqStat rHostXactCnt; omega

theorem locked_of_word (h : t.word (rLock p) = s.word (rLock p)) : t.locked p = s.locked p := by
  unfold locked bit get
  rw [show t.word (⟨rLock p, 0, 1⟩ : Field).addr = s.word (⟨rLock p, 0, 1⟩ : Field).addr from h]

theorem locked_of_word_one (h : s.word (rLock p) = 1#32) : s.locked p = true := by
  unfold locked bit get
  rw [show s.word (⟨rLock p, 0, 1⟩ : Field).addr = 1#32 from h]
  exact (by decide : (bitsOf 1#32 0 1 != 0) = true)

/-! ### LOCK (R55) -/

/-- A LOCK sequence of page `p` is open: its first word came within the last millisecond (R55). -/
def lockOpen (s : State) (p : Nat) : Bool :=
  match s.port.lockSeq.lookup p with
  | some t0 => decide (s.now ≤ t0 + 1000)
  | none => false

theorem lockOpen_iff : s.lockOpen p = true ↔ ∃ t0 ∈ s.port.lockSeq.lookup p, s.now ≤ t0 + 1000 := by
  unfold lockOpen
  cases s.port.lockSeq.lookup p <;> simp

/-- The LOCK sequences after the word `w` for page `p`. -/
def lockSeqAfter (s : State) (p : Nat) (w : Word) : List (Nat × Nat) :=
  s.port.lockSeq.filter (fun x => x.1 ≠ p) ++ (if w = 0x5A5A#32 then [(p, s.now)] else [])

theorem lockWrite_eq (s : State) (p : Nat) (w : Word) :
    s.lockWrite p w
      = if w = 0xA5A5#32 ∧ s.lockOpen p = true
        then (s.withLockSeq (s.lockSeqAfter p w)).setWord (rLock p) 1
        else s.withLockSeq (s.lockSeqAfter p w) := by
  unfold lockWrite lockSeqAfter withLockSeq
  change (if (decide (w = 0xA5A5#32) && s.lockOpen p) = true then _ else _) = _
  by_cases hlock : w = 0xA5A5#32 ∧ s.lockOpen p = true
  · obtain ⟨rfl, hopen⟩ := hlock
    simp [hopen]
  · by_cases hfirst : w = 0x5A5A#32
    · simp [hfirst]
    · simp [hlock, hfirst]

@[simp] theorem storeDisarm_port (s : State) : s.storeDisarm.port = s.port :=
  (storeDisarm_keeps (Keeps.refl 0x800004 s) rfl).port_eq rfl

/-- A write to LOCK does not restart the page's sequence before it is judged. -/
theorem commonReady_lock_port (s : State) (b : Blk) (p : Nat) : (s.commonReady b p 0x18).port = s.port := by
  change (if b = .store then s.storeDisarm else s).port = _
  split
  · exact storeDisarm_port s
  · rfl

theorem WriteTouches.withLockSeq (h : WriteTouches s t q) (l : List (Nat × Nat)) : WriteTouches s (t.withLockSeq l) q :=
  h.withPort _

/-- A word written to LOCK: the page's sequence takes it, and the second word of an open sequence locks the page. -/
theorem writeWord_lock (hb : blkOfPage p = some b) :
    ∃ r, WriteTouches s r (lockWords p) ∧ r.word (rLock p) = s.word (rLock p) ∧ r.port.lockSeq = s.lockSeqAfter p w
      ∧ s.writeWord {} (rLock p) w = (if w = 0xA5A5#32 ∧ s.lockOpen p = true then r.setWord (rLock p) 1 else r, false) := by
  have hw : s.writeWord {} (rLock p) w = ((s.commonReady b p 0x18).lockWrite p w, false) := writeWord_common hb (by decide)
  have ht : WriteTouches s (s.commonReady b p 0x18) (lockWords p) :=
    (WriteTouches.refl s _).commonReady (lockWords_store p rfl) (lockWords_store p rfl) b p _
  have hready : WriteTouches s (s.commonReady b p 0x18) (readyWords p) :=
    (WriteTouches.refl s _).commonReady (by simp [readyWords]) (by simp [readyWords]) b p _
  have hport := commonReady_lock_port s b p
  have hopen : (s.commonReady b p 0x18).lockOpen p = s.lockOpen p := by simp only [lockOpen, hport, ht.now_eq]
  have hseq : (s.commonReady b p 0x18).lockSeqAfter p w = s.lockSeqAfter p w := by simp only [lockSeqAfter, hport, ht.now_eq]
  rw [lockWrite_eq, hopen, hseq] at hw
  exact ⟨_, ht.withLockSeq (s.lockSeqAfter p w), hready.2 _ (readyWords_rLock p), rfl, hw⟩

/-- R55: what a write to LOCK does. -/
theorem exec_lockWrite_open (s : State) (p : Nat) (w : Word) (h : s.HostOpen (rLock p) w) :
    ∃ t, exec (.lockWrite p w) s = .next t
      ∧ t.port.resp = 0
      ∧ t.port.lockSeq = s.lockSeqAfter p w
      ∧ (w = 0xA5A5#32 → (∃ t0 ∈ s.port.lockSeq.lookup p, s.now ≤ t0 + 1000) → t.locked p = true)
      ∧ (w ≠ 0xA5A5#32 ∨ (∀ t0 ∈ s.port.lockSeq.lookup p, t0 + 1000 < s.now) → t.locked p = s.locked p)
      ∧ WriteTouches s t (lockWords p) := by
  obtain ⟨b, hb⟩ := h.page (by decide)
  obtain ⟨r, hr, hlock, hseq, hw⟩ := writeWord_lock (s := s) (w := w) hb
  have hexec (t : State) (he : s.hostWrite (rLock p) w = t) : exec (.lockWrite p w) s = .next t := by
    rw [exec, execLockWrite, if_pos (isPage_of_blk hb), he]
  by_cases ho : w = 0xA5A5#32 ∧ s.lockOpen p = true
  · rw [if_pos ho] at hw
    have hu : WriteTouches s (r.setWord (rLock p) 1) (lockWords p) := hr.setWord (by simp [lockWords]) 1
    obtain ⟨q, hq, hls, he⟩ := hostWrite_answered h hw (hu.boot_eq ▸ h.cmdRst_none)
    refine ⟨_, hexec _ he, hq, hls.trans hseq, fun _ _ => ?_, fun hn => ?_, hu.account (by simp [lockWords]) q⟩
    · exact locked_of_word_one ((account_word _ q (rLock_ne_rHostXactCnt p)).trans (word_setWord_self _ _ _))
    · obtain ⟨t0, hmem, hle⟩ := lockOpen_iff.mp ho.2
      exact absurd hle (hn.elim (absurd ho.1) fun hlate => Nat.not_le.mpr (hlate t0 hmem))
  · rw [if_neg ho] at hw
    obtain ⟨q, hq, hls, he⟩ := hostWrite_answered h hw (hr.boot_eq ▸ h.cmdRst_none)
    refine ⟨_, hexec _ he, hq, hls.trans hseq, fun hkey hin => ?_, fun _ => ?_, hr.account (by simp [lockWords]) q⟩
    · exact absurd ⟨hkey, lockOpen_iff.mpr hin⟩ ho
    · exact locked_of_word ((account_word _ q (rLock_ne_rHostXactCnt p)).trans hlock)

/-! ### IRQ_TEST and IRQ_STAT (R54, R4) -/

/-- Making the write ready and noting its reserved bits leaves IRQ_STAT, and touches what the write may touch. -/
theorem noteReserved_irqStat (s : State) (b : Blk) (p off : Nat) (known w : Word) :
    ((s.commonReady b p off).noteReserved p off known w).word (rIrqStat p) = s.word (rIrqStat p)
      ∧ WriteTouches s ((s.commonReady b p off).noteReserved p off known w) (irqWords p) := by
  have hready : WriteTouches s ((s.commonReady b p off).noteReserved p off known w) (readyWords p) :=
    ((WriteTouches.refl s _).commonReady (by simp [readyWords]) (by simp [readyWords]) b p off).noteReserved
      (by simp [readyWords]) off known w
  exact ⟨hready.2 _ (readyWords_rIrqStat p),
    ((WriteTouches.refl s _).commonReady (irqWords_store p rfl) (irqWords_store p rfl) b p off).noteReserved
      (by simp [irqWords]) off known w⟩

theorem writeWord_irqTest (hb : blkOfPage p = some b) :
    ∃ r, WriteTouches s r (irqWords p) ∧ s.writeWord {} (rIrqTest p) w
        = (r.setWord (rIrqStat p) (s.word (rIrqStat p) ||| (w &&& BitVec.ofNat 32 b.irqMask)), false) := by
  obtain ⟨hword, ht⟩ := noteReserved_irqStat s b p 0x14 (BitVec.ofNat 32 b.irqMask) w
  refine ⟨_, ht, (writeWord_common hb (by decide)).trans ?_⟩
  rw [← hword]
  simp [commonWrite, noteReserved, commonKnown]

theorem writeWord_irqStat (hb : blkOfPage p = some b) :
    ∃ r, WriteTouches s r (irqWords p)
      ∧ s.writeWord {} (rIrqStat p) w = (r.setWord (rIrqStat p) (s.word (rIrqStat p) &&& ~~~w), false) := by
  obtain ⟨hword, ht⟩ := noteReserved_irqStat s b p 0xC (BitVec.ofNat 32 b.irqMask) w
  refine ⟨_, ht, (writeWord_common hb (by decide)).trans ?_⟩
  rw [← hword]
  simp [commonWrite, noteReserved, commonKnown]

/-- A write whose word leaves a new IRQ_STAT ends with it. -/
theorem hostWrite_irqStat {r : State} {a : Nat} {new : Word} (h : s.HostOpen a w) (hr : WriteTouches s r (irqWords p))
    (hw : s.writeWord {} a w = (r.setWord (rIrqStat p) new, false)) :
    ∃ t, s.hostWrite a w = t ∧ t.port.resp = 0 ∧ t.word (rIrqStat p) = new ∧ WriteTouches s t (irqWords p) := by
  have hu : WriteTouches s (r.setWord (rIrqStat p) new) (irqWords p) := hr.setWord (by simp [irqWords]) _
  obtain ⟨q, hq, -, he⟩ := hostWrite_answered h hw (hu.boot_eq ▸ h.cmdRst_none)
  refine ⟨_, he, hq, ?_, hu.account (by simp [irqWords]) q⟩
  exact (account_word _ q (rIrqStat_ne_rHostXactCnt p)).trans (word_setWord_self _ _ _)

/-- R54: what a write to IRQ_TEST does. -/
theorem exec_irqTestWrite_open (s : State) (p : Nat) (b : Blk) (w : Word) (hb : blkOfPage p = some b)
    (h : s.HostOpen (rIrqTest p) w) :
    ∃ t, exec (.irqTestWrite p w) s = .next t
      ∧ t.port.resp = 0 ∧ t.word (rIrqStat p) = s.word (rIrqStat p) ||| (w &&& BitVec.ofNat 32 b.irqMask)
      ∧ WriteTouches s t (irqWords p) := by
  obtain ⟨r, hr, hw⟩ := writeWord_irqTest (s := s) (w := w) hb
  obtain ⟨t, he, ht⟩ := hostWrite_irqStat h hr hw
  exact ⟨t, by rw [exec, execIrqTestWrite, if_pos (isPage_of_blk hb), he], ht⟩

/-- R4: what a write to IRQ_STAT does. -/
theorem exec_irqStatClear_open (s : State) (p : Nat) (w : Word) (h : s.HostOpen (rIrqStat p) w) :
    ∃ t, exec (.irqStatClear p w) s = .next t
      ∧ t.port.resp = 0 ∧ t.word (rIrqStat p) = s.word (rIrqStat p) &&& ~~~w
      ∧ WriteTouches s t (irqWords p) := by
  obtain ⟨b, hb⟩ := h.page (by decide)
  obtain ⟨r, hr, hw⟩ := writeWord_irqStat (s := s) (w := w) hb
  obtain ⟨t, he, ht⟩ := hostWrite_irqStat h hr hw
  exact ⟨t, by rw [exec, execIrqStatClear, if_pos (isPage_of_blk hb), he], ht⟩

end State
end Sys2Proof.Machine
end

section
/-! PROOFS. NME_STAT and RST_CMD of the SYS page (R70, R71), and the statement about the common header. -/
namespace Sys2Proof

theorem bitsOf_one (w : Word) {i : Nat} (h : i < 32) : bitsOf w i 1 = (bitAt w i).toNat := by
  apply Nat.eq_of_testBit_eq
  intro j
  rw [bitsOf_testBit _ _ _ _ h]
  cases j with
  | zero => cases hb : w.getLsbD i <;> simp [bitAt, hb]
  | succ j => cases hb : w.getLsbD i <;> simp [bitAt, hb, Nat.testBit_succ]

namespace Machine

/-- The bits that a register has. -/
def RegDesc.known (d : RegDesc) : Word := BitVec.ofNat 32 (d.rw ||| d.rwl ||| d.w1c ||| d.wo ||| d.ro)

namespace State

/-! ### A word written to either register -/

/-- A register with no bits that a write takes keeps its face. -/
theorem maskWrite_of_desc {a : Nat} {d : RegDesc} (hd : descAt a = some d) (hrw : d.rw = 0) (hrwl : d.rwl = 0) (s : State)
    (w : Word) :
    s.maskWrite a w = s.setWord a (s.word a) := by
  have hm : s.writeMask d (a / 0x1000) = 0#32 := by simp [writeMask, hrw, hrwl]
  simp only [maskWrite, hd, hm, BitVec.not_zero, BitVec.and_allOnes, BitVec.and_zero, BitVec.or_zero]

/-- The description of SYS.NME_STAT: five bits that a written 1 clears. -/
theorem descAt_nmeStat : descAt 0x24 = some ⟨0x024, 1, 0, 1, 0, 0x0, 0x0, 0x1F, 0x0, 0x0, 0x0⟩ := rfl
/-- The description of SYS.RST_CMD: a key that is only written. -/
theorem descAt_rstCmd : descAt 0x2C = some ⟨0x02C, 1, 0, 1, 0, 0x0, 0x0, 0x0, 0xFFFFFFFF, 0x0, 0x0⟩ := rfl

/-- The words that a write to NME_STAT may change. -/
def nmeWords (a : Nat) : Bool := a == rSysNmeStat || a == rBlkErr 0 || a == rHostXactCnt
/-- The words that a write to RST_CMD without its key may change. -/
def rstWords (a : Nat) : Bool := a == rBlkErr 0 || a == rHostXactCnt

@[simp] theorem noteReserved_sto (s : State) (p off : Nat) (known w : Word) : (s.noteReserved p off known w).sto = s.sto := by
  unfold noteReserved; split <;> rfl

/-- A word written to NME_STAT or RST_CMD, which no frame reads, no pair holds and no write takes as it is: reserved bits are
noted, the bits that a 1 clears are cleared, and then the word acts (R46). -/
theorem writeWord_sys (s : State) (w : Word) {a : Nat} {d : RegDesc} (ha : a = rSysNmeStat ∨ a = rSysRstCmd)
    (hd : descAt a = some d) (hrw : d.rw = 0) (hrwl : d.rwl = 0) :
    ∃ v, WriteTouches s v rstWords ∧ v.sto = s.sto ∧ v.word a = s.word a
      ∧ s.writeWord {} a w
        = ((v.setWord a (s.word a &&& ~~~(w &&& BitVec.ofNat 32 d.w1c))).wordActs {} a (s.word a) w, false) := by
  have hreg : s.writeWord {} a w = (s.restartLock 0).regWrite {} .sys 0 a w := by rcases ha with rfl | rfl <;> rfl
  have hface : ∀ x : State, x.faceWrite a w false = x.setWord a (x.word a) := by
    intro x
    rw [← maskWrite_of_desc hd hrw hrwl x w]
    rcases ha with rfl | rfl <;> rfl
  have hfree : (s.restartLock 0).wordRefuse a w true = none := by rcases ha with rfl | rfl <;> rfl
  have hkind : isMailbox a = false ∧ pairLo a = false ∧ pairTakes a = false ∧ pairLo (a - 4) = false
      ∧ pairTakes (a - 4) = false := by
    rcases ha with rfl | rfl <;> exact ⟨rfl, rfl, rfl, rfl, rfl⟩
  have hother : a ≠ rPdirStrmCfg ∧ a ≠ rStoreProtect ∧ a ≠ rLeveeSessCfg := by rcases ha with rfl | rfl <;> decide
  obtain ⟨hmail, hlo, htake, hlo', htake'⟩ := hkind
  obtain ⟨hstrm, hprot, hsess⟩ := hother
  have hquiet : rstWords a = false := by rcases ha with rfl | rfl <;> rfl
  have hnote (known : Word) : WriteTouches s ((s.restartLock 0).noteReserved 0 a known w) rstWords :=
    ((WriteTouches.refl s _).withPort _).noteReserved (by decide) _ _ _
  have hword (known : Word) := (hnote known).2 a hquiet
  refine ⟨_, (hnote d.known).setWord_same (a := a) rfl, by simp [restartLock, withLockSeq],
    by rw [word_setWord_self, hword], hreg.trans ?_⟩
  rw [← hword d.known]
  simp [regWrite, noteReserved, RegDesc.known, hd, hrwl, hface, hfree, hmail, hlo, htake, hlo', htake', hstrm, hprot, hsess]

theorem wordActs_nmeStat (s : State) (old w : Word) : s.wordActs {} rSysNmeStat old w = s.nmeAgain := rfl

/-- The key of RST_CMD has asked for a reset with cause 7, asserted when the transaction ends (R71). -/
def askReset (s : State) : State := { s with boot := { s.boot with cmdRst := some 7 } }

theorem wordActs_rstCmd (s : State) (old w : Word) :
    s.wordActs {} rSysRstCmd old w = if w = 0xC3C3#32 then s.askReset else s := by
  have hb : blkOfPage (rSysRstCmd / 0x1000) = some .sys := rfl
  have hne : rSysRstCmd ≠ rSysNmeStat := by decide
  simp [wordActs, hb, hne, askReset]

/-- A word written to NME_STAT clears bits, and the bits whose condition persists are set again. -/
theorem writeWord_nmeStat (s : State) (w : Word) :
    ∃ u, WriteTouches s u nmeWords ∧ u.sto = s.sto ∧ u.word rSysNmeStat = s.word rSysNmeStat &&& ~~~(w &&& 0x1F#32)
      ∧ s.writeWord {} rSysNmeStat w = (u.nmeAgain, false) := by
  obtain ⟨v, hv, hsto, -, hw⟩ := writeWord_sys s w (.inl rfl) descAt_nmeStat rfl rfl
  rw [wordActs_nmeStat] at hw
  have hv' : WriteTouches s v nmeWords := hv.mono fun a ha => by
    simp only [nmeWords, rstWords, Bool.or_eq_false_iff] at ha ⊢
    exact ⟨ha.1.2, ha.2⟩
  exact ⟨_, hv'.setWord (by decide) _, hsto, word_setWord_self _ _ _, hw⟩

/-- A word written to RST_CMD changes no register; the key asks for the reset. -/
theorem writeWord_rstCmd (s : State) (w : Word) :
    ∃ u, WriteTouches s u rstWords ∧ u.sto = s.sto
      ∧ s.writeWord {} rSysRstCmd w
        = (if w = 0xC3C3#32 then u.askReset else u, false) := by
  obtain ⟨v, hv, hsto, hword, hw⟩ := writeWord_sys s w (.inr rfl) descAt_rstCmd rfl rfl
  rw [wordActs_rstCmd] at hw
  refine ⟨_, hv.setWord_same (a := rSysRstCmd) ?_, hsto, hw⟩
  rw [hword]
  change _ &&& ~~~(w &&& 0#32) = _
  simp only [BitVec.and_zero, BitVec.not_zero, BitVec.and_allOnes]

/-! ### NME_STAT (R70) -/

/-- Bit `f` is set when `on` holds, and else is as it was. -/
def setIf (s : State) (f : Field) (on : Bool) : State := if on then s.set f 1 else s

section
variable (s : State) (f : Field) (on : Bool)
@[simp] theorem setIf_flt : (s.setIf f on).flt = s.flt := by unfold setIf; split <;> rfl
@[simp] theorem setIf_pwr : (s.setIf f on).pwr = s.pwr := by unfold setIf; split <;> rfl
end

theorem setIf_bit_self (s : State) {f : Field} (on : Bool) (hw : f.width = 1) (hl : f.lsb < 32) :
    (s.setIf f on).bit f = (s.bit f || on) := by
  cases on
  · simp [setIf]
  · have h1 : (s.set f 1).get f = 1 % 2 ^ f.width := get_set_self s f 1 (by omega)
    simp [setIf, bit, h1, hw]

theorem setIf_bit_ne (s : State) {f g : Field} (on : Bool) (h : apart f g = true) : (s.setIf f on).bit g = s.bit g := by
  unfold setIf
  split
  · simp only [bit, get_set_ne _ _ h]
  · rfl

theorem WriteTouches.setIf {q : Nat → Bool} {s t : State} (h : WriteTouches s t q) {f : Field} (hf : q f.addr = true)
    (on : Bool) :
    WriteTouches s (t.setIf f on) q := by
  unfold State.setIf
  split
  · exact h.set hf _
  · exact h

theorem nmeAgain_eq (s : State) :
    s.nmeAgain = ((((s.setIf fSysNmeStatClkfail s.clkFailed).setIf fSysNmeStatPfw s.pwr.pfwAt.isSome).setIf fSysNmeStatTjCrit
      s.flt.tjHeld).setIf fSysNmeStatLathMiss (s.bit fLathStatFailsafe)).setIf fSysNmeStatSramUncorr
      (s.flt.active.any (fun r => r.code = 5)) := by
  have hf : ∀ (x : State) (g : Field) (on : Bool), (if on then x.set g 1 else x) = x.setIf g on := fun _ _ _ => rfl
  simp (disch := decide) only [nmeAgain, hf, setIf_flt, setIf_pwr, setIf_bit_ne]

theorem nmeAgain_bits (s : State) :
    s.nmeAgain.bit fSysNmeStatClkfail = (s.bit fSysNmeStatClkfail || s.clkFailed)
      ∧ s.nmeAgain.bit fSysNmeStatPfw = (s.bit fSysNmeStatPfw || s.pwr.pfwAt.isSome)
      ∧ s.nmeAgain.bit fSysNmeStatTjCrit = (s.bit fSysNmeStatTjCrit || s.flt.tjHeld)
      ∧ s.nmeAgain.bit fSysNmeStatLathMiss = (s.bit fSysNmeStatLathMiss || s.bit fLathStatFailsafe)
      ∧ s.nmeAgain.bit fSysNmeStatSramUncorr = (s.bit fSysNmeStatSramUncorr || s.flt.active.any (fun r => r.code = 5)) := by
  rw [nmeAgain_eq]
  refine ⟨?_, ?_, ?_, ?_, ?_⟩ <;> simp (disch := decide) only [setIf_bit_ne, setIf_bit_self]

theorem WriteTouches.nmeAgain {q : Nat → Bool} {s t : State} (h : WriteTouches s t q) (hq : q rSysNmeStat = true) :
    WriteTouches s t.nmeAgain q := by
  rw [nmeAgain_eq]
  exact ((((h.setIf (f := fSysNmeStatClkfail) hq _).setIf (f := fSysNmeStatPfw) hq _).setIf (f := fSysNmeStatTjCrit) hq _).setIf
    (f := fSysNmeStatLathMiss) hq _).setIf (f := fSysNmeStatSramUncorr) hq _

theorem bit_eq_bitAt (s : State) (a : Nat) {i : Nat} (hi : i < 32) : s.bit ⟨a, i, 1⟩ = bitAt (s.word a) i := by
  simp only [bit, get, bitsOf_one _ hi]
  cases bitAt (s.word a) i <;> rfl

theorem bit_of_cleared {s u : State} {a i : Nat} {w m : Word} (h : u.word a = s.word a &&& ~~~(w &&& m)) (hi : i < 32)
    (hm : m.getLsbD i = true) : u.bit ⟨a, i, 1⟩ = (s.bit ⟨a, i, 1⟩ && !bitAt w i) := by
  rw [bit_eq_bitAt _ _ hi, bit_eq_bitAt _ _ hi, h]
  simp only [bitAt, BitVec.getLsbD_and, BitVec.getLsbD_not, hm, hi, decide_true, Bool.and_true, Bool.true_and]

@[simp] theorem setIf_sto (s : State) (f : Field) (on : Bool) : (s.setIf f on).sto = s.sto := by unfold setIf; split <;> rfl
@[simp] theorem nmeAgain_sto (s : State) : s.nmeAgain.sto = s.sto := by simp [nmeAgain_eq]

/-- R70: what a write to NME_STAT does. -/
theorem exec_nmeClear_open (s : State) (w : Word) (h : s.HostOpen rSysNmeStat w) :
    ∃ t, exec (.nmeClear w) s = .next t
      ∧ t.port.resp = 0
      ∧ t.bit fSysNmeStatClkfail = ((s.bit fSysNmeStatClkfail && !bitAt w fSysNmeStatClkfail.lsb) || s.clkFailed)
      ∧ t.bit fSysNmeStatPfw = ((s.bit fSysNmeStatPfw && !bitAt w fSysNmeStatPfw.lsb) || s.pwr.pfwAt.isSome)
      ∧ t.bit fSysNmeStatTjCrit = ((s.bit fSysNmeStatTjCrit && !bitAt w fSysNmeStatTjCrit.lsb) || s.flt.tjHeld)
      ∧ t.bit fSysNmeStatLathMiss = ((s.bit fSysNmeStatLathMiss && !bitAt w fSysNmeStatLathMiss.lsb) || s.bit fLathStatFailsafe)
      ∧ t.bit fSysNmeStatSramUncorr =
          ((s.bit fSysNmeStatSramUncorr && !bitAt w fSysNmeStatSramUncorr.lsb) || s.flt.active.any (fun r => r.code = 5))
      ∧ t = { s with regs := t.regs, port := t.port }
      ∧ s.OnlyWords t nmeWords := by
  obtain ⟨u, htu, hsto, hword, hw⟩ := writeWord_nmeStat s w
  have hta : WriteTouches s u.nmeAgain nmeWords := htu.nmeAgain (by decide)
  obtain ⟨q, hq, -, he⟩ := hostWrite_answered h hw (hta.boot_eq ▸ h.cmdRst_none)
  have ht : WriteTouches s (u.nmeAgain.account q) nmeWords := hta.account (by decide) q
  have hbit {i : Nat} {on : Bool} (hi : i < 32) (hm : (0x1F#32 : Word).getLsbD i = true)
      (hagain : u.nmeAgain.bit ⟨rSysNmeStat, i, 1⟩ = (u.bit ⟨rSysNmeStat, i, 1⟩ || on)) :
      (u.nmeAgain.account q).bit ⟨rSysNmeStat, i, 1⟩ = ((s.bit ⟨rSysNmeStat, i, 1⟩ && !bitAt w i) || on) := by
    rw [account_bit _ q (show rSysNmeStat ≠ rHostXactCnt by decide), hagain, bit_of_cleared hword hi hm]
  have hclk : u.clkFailed = s.clkFailed := by simp only [clkFailed, htu.clk_eq]
  obtain ⟨hclkfail, hpfw, htj, hmiss, hsram⟩ := nmeAgain_bits u
  rw [hclk] at hclkfail
  rw [htu.pwr_eq] at hpfw
  rw [htu.flt_eq] at htj hsram
  rw [htu.bit_eq (f := fLathStatFailsafe) (by decide)] at hmiss
  exact ⟨_, congrArg Host.Outcome.next he, hq, hbit (by decide) (by decide) hclkfail, hbit (by decide) (by decide) hpfw,
    hbit (by decide) (by decide) htj, hbit (by decide) (by decide) hmiss, hbit (by decide) (by decide) hsram,
    ht.eq_of_sto (by simp [hsto]), ht.2⟩

/-! ### RST_CMD (R71) -/

theorem resetStores_now (s : State) (c : Nat) : (s.resetStores c).now = s.now :=
  (resetStores_keeps (Keeps.refl 0x2000000840004 s) rfl).now_eq rfl

/-- What a device shows once a reset with cause `c` is asserted while its count reads `n`: the core is held, nothing has
committed, no channel is in use, and the count goes on (R478, R480, R487). -/
structure ShowsReset (c n : Nat) (u : State) : Prop where
  rst : u.boot.rst = some c
  core : u.boot.coreRst = true
  first : u.boot.first = false
  cause : u.get fSysRstCauseCause = c
  uch : u.uch = []
  now : u.now = n

theorem ShowsReset.set {c n : Nat} {u : State} (h : ShowsReset c n u) {f : Field} (hf : apart f fSysRstCauseCause = true)
    (v : Nat) :
    ShowsReset c n (u.set f v) := by
  obtain ⟨hrst, hcore, hfirst, hcause, huch, hnow⟩ := h
  exact ⟨hrst, hcore, hfirst, (get_set_ne u v hf).trans hcause, huch, hnow⟩

/-- A warm reset of a device that has committed a frame, with no other reset asserted, is recorded with its own cause. -/
theorem assertReset_warm {s : State} (hrst : s.boot.rst = none) (hfirst : s.boot.first = true) :
    ShowsReset 7 s.now (s.assertReset 7) := by
  have hcode : s.resetCause 7 = 7 := by simp [resetCause, hrst, hfirst]
  have hcold : (isCold 7 || (s.boot.cold && !s.boot.first)) = false := by simp [isCold, hfirst]
  have hnow := resetStores_now s 7
  simp only [assertReset, hcode, hcold, Bool.false_eq_true, if_false]
  generalize s.resetStores 7 = r at hnow ⊢
  -- the fields that the reset keeps or sets are apart from CAUSE
  have shows_of (u : State) (h : ShowsReset 7 s.now u) (b : Prop) [Decidable b] :
      ShowsReset 7 s.now (if b then (u.set fLathStatOp 0).set fClkStatCoreDiv 3 else u) := by
    split
    · exact (h.set (by decide) _).set (by decide) _
    · exact h
  refine shows_of _ ?_ _
  iterate 15 refine ShowsReset.set ?_ (by decide) _
  exact ⟨rfl, rfl, rfl, get_set_self _ _ _ (by decide), rfl, hnow⟩

/-- R71: what a write to RST_CMD does. -/
theorem exec_rstCmd_open (s : State) (w : Word) (h : s.HostOpen rSysRstCmd w) (hrst : s.boot.rst = none)
    (hfirst : s.boot.first = true) :
    ∃ t, exec (.rstCmd w) s = .next t
      ∧ (w = 0xC3C3#32 → t.boot.rst = some 7 ∧ t.boot.coreRst = true ∧ t.boot.first = false
          ∧ t.get fSysRstCauseCause = 7 ∧ t.uch = [] ∧ t.now = s.now)
      ∧ (w ≠ 0xC3C3#32 → t.port.resp = 0 ∧ t = { s with regs := t.regs, port := t.port } ∧ s.OnlyWords t rstWords) := by
  obtain ⟨u, hu, hsto, hw⟩ := writeWord_rstCmd s w
  by_cases hk : w = 0xC3C3#32
  · rw [if_pos hk] at hw
    obtain ⟨q, -, -, he⟩ := hostWrite_open_eq h (by rw [hw])
    rw [hw] at he
    have hreset := assertReset_warm (s := u.askReset.account q)
      ((congrArg Boot.rst hu.boot_eq).trans hrst) ((congrArg Boot.first hu.boot_eq).trans hfirst)
    obtain ⟨hr, hcore, hf, hcause, huch, hnow⟩ := hreset
    exact ⟨_, congrArg Host.Outcome.next (he.trans (takeCmdReset_some rfl)),
      fun _ => ⟨hr, hcore, hf, hcause, huch, hnow.trans hu.now_eq⟩, fun hn => absurd hk hn⟩
  · rw [if_neg hk] at hw
    obtain ⟨q, hq, -, he⟩ := hostWrite_answered h hw (hu.boot_eq ▸ h.cmdRst_none)
    have ht : WriteTouches s (u.account q) rstWords := hu.account (by decide) q
    exact ⟨_, congrArg Host.Outcome.next he, fun h' => absurd h' hk, fun _ => ⟨hq, ht.eq_of_sto hsto, ht.2⟩⟩

end State

/-- Settles O17, clause by clause: a word written to a header register, NME_STAT or RST_CMD is the whole effect of its
transaction but for the port's account. -/
theorem commonHeader : Obligations.CommonHeader := by
  unfold Obligations.CommonHeader
  intro s
  refine ⟨fun p w h => ?_, fun p b w hb h => ?_, fun p w h => ?_, fun w h _ => ?_, fun w h _ hrst hfirst => ?_⟩
  · exact State.exec_lockWrite_open s p w h
  · exact State.exec_irqTestWrite_open s p b w hb h
  · exact State.exec_irqStatClear_open s p w h
  · exact State.exec_nmeClear_open s w h
  · exact State.exec_rstCmd_open s w h hrst hfirst

end Machine
end Sys2Proof
end

section
/-! PROOFS. The record of a converter core behind the operations of the block, and the conversions and discharges of its scan
(R103, R116, R119). -/
namespace Sys2Proof.Machine
namespace State

variable {s t : State} {c : Nat}

/-! ### The core record behind the other operations -/

theorem core_of_cores (h : t.cores = s.cores) (c : Nat) : t.core c = s.core c := by unfold core; rw [h]
@[simp] theorem raise_core (s : State) (code i : Nat) (k : FClass) (c : Nat) : (s.raise code i k).core c = s.core c :=
  core_of_cores (raise_cores s code i k) c
@[simp] theorem clearFault_core (s : State) (code i c : Nat) : (s.clearFault code i).core c = s.core c :=
  core_of_cores (clearFault_cores s code i) c
@[simp] theorem coreFaces_core (s : State) (c d : Nat) : (s.coreFaces c).core d = s.core d := rfl
@[simp] theorem coreFaces_now (s : State) (c : Nat) : (s.coreFaces c).now = s.now := rfl
@[simp] theorem coreFaces_chan (s : State) (c n : Nat) : (s.coreFaces c).chan n = s.chan n := rfl
@[simp] theorem coreFaces_flt (s : State) (c : Nat) : (s.coreFaces c).flt = s.flt := rfl
@[simp] theorem modCore_core_self (s : State) (c : Nat) (f : Core → Core) : (s.modCore c f).core c = f (s.core c) :=
  core_setCore_self _ _ _
@[simp] theorem modCore_now (s : State) (c : Nat) (f : Core → Core) : (s.modCore c f).now = s.now := rfl
@[simp] theorem modCore_flt (s : State) (c : Nat) (f : Core → Core) : (s.modCore c f).flt = s.flt := rfl
@[simp] theorem modCore_chan (s : State) (c : Nat) (f : Core → Core) (n : Nat) : (s.modCore c f).chan n = s.chan n := rfl
@[simp] theorem modCore_word (s : State) (c : Nat) (f : Core → Core) (a : Nat) : (s.modCore c f).word a = s.word a := rfl
@[simp] theorem modCore_en (s : State) (c : Nat) (f : Core → Core) (p : Nat) : (s.modCore c f).en p = s.en p := rfl

theorem coreFaces_word (s : State) (c : Nat) {a : Nat} (hs : a ≠ rConvSluiceStat c) (hb : a ≠ rBlkStat (0x10 + c)) :
    (s.coreFaces c).word a = s.word a := by
  unfold coreFaces
  simp only [word_set_ne _ (fBlkState (0x10 + c)) _ hb, word_setB_ne _ (fConvSluiceStatCredit c) _ hs,
    word_set_ne _ (fConvSluiceStatQdepth c) _ hs]

theorem coreFaces_credit (s : State) (c : Nat) :
    (s.coreFaces c).bit (fConvSluiceStatCredit c) = decide (7 ≤ (s.core c).since) := by
  have hstat : apart (fBlkState (0x10 + c)) (fConvSluiceStatCredit c) = true := by
    simp [apart, fBlkState, fConvSluiceStatCredit, rBlkStat, rConvSluiceStat]; omega
  unfold coreFaces bit
  simp only [get_set_ne _ _ hstat]
  exact bit_setB_self _ _ _ (Nat.le_of_ble_eq_true rfl) Nat.one_pos

theorem get_of_word {f : Field} (h : t.word f.addr = s.word f.addr) : t.get f = s.get f := by unfold get; rw [h]
theorem onCore_running (hc : c < 8) (hoff : s.coreOff = false) (f : State → State) : s.onCore c f = f s := by
  simp [onCore, hc, hoff]

/-! ### EN of the core's page -/

theorem en_of_word {p : Nat} (h : t.word (rBlkCtrl p) = s.word (rBlkCtrl p)) : t.en p = s.en p := by
  unfold en bit
  rw [get_of_word (f := fBlkEn p) h]
theorem en_set {p : Nat} {f : Field} (h : rBlkCtrl p ≠ f.addr) (v : Nat) : (s.set f v).en p = s.en p :=
  en_of_word (word_set_ne s f v h)
/-- The registers of a core lie above the common header of its page (R49). -/
theorem en_setConv {f : Field} (h : 0x10020 + 0x1000 * c ≤ f.addr) (v : Nat) : (s.set f v).en (0x10 + c) = s.en (0x10 + c) :=
  en_set (by unfold rBlkCtrl; omega) v
theorem en_irq (s : State) (q b p : Nat) : (s.irq q b).en p = s.en p :=
  en_of_word (word_irq_ne s q b (by unfold rBlkCtrl rIrqStat; omega))
theorem en_clearFault {p : Nat} (h : p ≠ 0x88) (code i : Nat) : (s.clearFault code i).en p = s.en p :=
  en_of_word (clearFault_word s code i (by unfold rBlkCtrl; omega))
theorem en_coreFaces (s : State) (c p : Nat) : (s.coreFaces c).en p = s.en p :=
  en_of_word (coreFaces_word s c (by unfold rBlkCtrl rConvSluiceStat; omega) (by unfold rBlkCtrl rBlkStat; omega))

/-! ### Where the scan of a core stands -/

/-- Two records of a core agree in where its scan stands (R103, R116, R119). -/
structure SameScan (k k' : Core) : Prop where
  run : k'.run = k.run
  slot : k'.slot = k.slot
  ph : k'.ph = k.ph
  t0 : k'.t0 = k.t0
  left : k'.left = k.left
  since : k'.since = k.since

namespace SameScan
theorem refl (k : Core) : SameScan k k := ⟨rfl, rfl, rfl, rfl, rfl, rfl⟩
theorem of_eq {k k' : Core} (h : k' = k) : SameScan k k' := h ▸ refl k
theorem trans {k k' k'' : Core} (h : SameScan k k') (h' : SameScan k' k'') : SameScan k k'' :=
  ⟨h'.run.trans h.run, h'.slot.trans h.slot, h'.ph.trans h.ph, h'.t0.trans h.t0, h'.left.trans h.left, h'.since.trans h.since⟩
end SameScan

/-- A sample enters the accumulators of its slot only (R110). -/
theorem addSample_sameScan (s : State) (c i code : Nat) (ovf hi : Bool) (tick : Nat) :
    SameScan (s.core c) ((s.addSample c i code ovf hi tick).core c) := by
  unfold addSample
  dsimp only
  split <;> rw [core_setCore_self] <;> exact ⟨rfl, rfl, rfl, rfl, rfl, rfl⟩

theorem addSample_regs (s : State) (c i code : Nat) (ovf hi : Bool) (tick : Nat) :
    (s.addSample c i code ovf hi tick).regs = s.regs :=
  (addSample_keeps (Keeps.refl 0x80000 s) rfl).regs_eq rfl

/-- The end of a round leaves the scan where it stands (R105, R117, R126). -/
theorem endRound_sameScan (s : State) (c e : Nat) : SameScan (s.core c) ((s.endRound c e).core c) := by
  unfold endRound
  extract_lets k len clean s1 s2 old s3 s4 k1 k2 s5 s6 s7
  have hk2 : SameScan (s.core c) k2 := by
    unfold k2
    split <;> exact ⟨rfl, rfl, rfl, rfl, rfl, rfl⟩
  have h5 : s5.core c = k2 := core_setCore_self s4 c k2
  split
  · have h6 : SameScan k2 (s6.core c) := by
      unfold s6
      rw [modCore_core_self, h5]
      exact ⟨rfl, rfl, rfl, rfl, rfl, rfl⟩
    rw [coreFaces_core, clearFault_core]
    exact hk2.trans h6
  · rw [h5]
    exact hk2

theorem endRound_en (s : State) (hc : c < 8) (e : Nat) : (s.endRound c e).en (0x10 + c) = s.en (0x10 + c) := by
  unfold endRound
  extract_lets k len clean s1 s2 old s3 s4 k1 k2 s5 s6 s7
  have h3 : s3.en (0x10 + c) = s.en (0x10 + c) := by
    unfold s3 s2 s1
    rw [en_setConv (by simp only [fConvOvrMaskSlot, rConvOvrMask]; omega),
      en_setConv (by simp only [fConvRoundMax, rConvRound]; omega),
      en_setConv (by simp only [fConvRoundLast, rConvRound]; omega)]
  have h4 : s4.en (0x10 + c) = s.en (0x10 + c) := by
    unfold s4
    split
    · rw [en_irq, h3]
    · exact h3
  have h5 : s5.en (0x10 + c) = s.en (0x10 + c) := h4
  split
  · rw [en_coreFaces, en_clearFault (by omega)]
    unfold s7 s6
    rw [en_irq, setB, en_setConv (by simp only [fConvFaultStall, rConvFault]; omega), modCore_en, h5]
  · exact h5

theorem endRound_now (s : State) (c e : Nat) : (s.endRound c e).now = s.now :=
  (endRound_keeps (Keeps.refl 0xc0004 s) rfl).now_eq rfl

/-- The supply that slot 15 sampled is judged apart from the scan (R453). -/
theorem railSample_sameScan (s : State) (c k : Nat) : SameScan (s.core c) ((s.railSample c k).core c) := by
  have hv (u : State) (b code : Nat) (on : Bool) : (u.vfieldSet b code on).core c = u.core c :=
    core_of_cores ((vfieldSet_keeps (Keeps.refl 0x40004 u) rfl).cores_eq rfl) c
  have hr (u : State) (b code : Nat) (cls : FClass) (on : Bool) : (u.railSet b code cls on).core c = u.core c :=
    core_of_cores ((railSet_keeps (Keeps.refl 0x40004 u) rfl).cores_eq rfl) c
  unfold railSample
  extract_lets mv
  split
  · exact SameScan.refl _
  split
  · rename_i low high s1 past s2 _ _
    have h2 : s2.core c = s.core c := by
      unfold s2
      split
      · exact hv _ _ _ _
      · rfl
    apply SameScan.of_eq
    split
    · rw [hv, h2]
    · exact h2
  split
  · exact SameScan.refl _
  extract_lets bad out inn s1
  have h1 : SameScan (s.core c) (s1.core c) := by
    unfold s1
    rw [modCore_core_self]
    exact ⟨rfl, rfl, rfl, rfl, rfl, rfl⟩
  split
  · split
    · rw [hr]; exact h1
    · exact h1
  · split
    · rw [hr]; exact h1
    · exact h1

theorem railSample_now (s : State) (c k : Nat) : (s.railSample c k).now = s.now :=
  (railSample_keeps (Keeps.refl 0x800000c0004 s) rfl).now_eq rfl

/-! ### Conversions of the scan (R103, R116, R119) -/

/-- At the end of a conversion a core whose page is disabled stops, and its faces follow (R51, R119, R127). -/
theorem stopped_sameScan {u : State} {k : Core} {e : Bool} (h : SameScan k (u.core c)) (hrun : k.run = true)
    (hen : u.en (0x10 + c) = e) :
    SameScan { k with run := e }
      (((if u.en (0x10 + c) then u else u.modCore c (fun k => { k with run := false })).coreFaces c).core c) := by
  obtain ⟨r, sl, p, t, l, si⟩ := h
  rw [coreFaces_core, hen]
  cases e
  · rw [if_neg Bool.false_ne_true, modCore_core_self]
    exact ⟨rfl, sl, p, t, l, si⟩
  · exact ⟨r.trans hrun, sl, p, t, l, si⟩

/-- Where the scan of core `c` stands after the conversion in progress; `beyond` says that the input lay beyond its span
(R103, R116, R119). -/
def scanned (s : State) (c : Nat) (beyond : Bool) : Core :=
  { s.core c with
    run := s.en (0x10 + c), slot := ((s.core c).slot + 1) % 16, t0 := (s.core c).t0 + 50 * s.slow,
    ph := if beyond then .disch else .conv, since := min 7 ((s.core c).since + 1) }

theorem conversionDone_scanned (s : State) (code : Nat) (ovf hi : Bool) (hc : c < 8) (hrun : (s.core c).run = true)
    (hph : (s.core c).ph = .conv) :
    SameScan (s.scanned c (ovf && !s.convertsZero c (s.core c).slot)) ((s.conversionDone c code ovf hi).core c) := by
  unfold conversionDone
  extract_lets k i zero ovf' code' tick done s1 s2 k2 k3 rail s4 s5 s6 s7
  rw [if_neg (by simp [k, hrun, hph])]
  have h2 : SameScan (s.core c) k2 := by
    unfold k2 s2
    split
    · exact addSample_sameScan s1 c i code' ovf' hi tick
    · exact SameScan.refl _
  have h2r : s2.regs = s.regs := by
    unfold s2
    split
    · exact addSample_regs s1 c i code' ovf' hi tick
    · rfl
  have h5 : s5.core c = k3 := by
    unfold s5
    split
    · exact core_setCore_self s2 c k3
    · exact core_setCore_self s2 c k3
  have h5e : s5.en (0x10 + c) = s.en (0x10 + c) := by
    have h4 : s4.en (0x10 + c) = s.en (0x10 + c) := en_of_word (congrArg (Map.look resetWord · _) h2r)
    unfold s5
    split
    · rw [seti, en_setConv (by simp only [fConvSupplyValue, rConvSupply]; omega), h4]
    · exact h4
  have h6 : SameScan k3 (s6.core c) ∧ s6.en (0x10 + c) = s.en (0x10 + c) := by
    unfold s6
    split
    · exact ⟨h5 ▸ endRound_sameScan s5 c done, (endRound_en s5 hc done).trans h5e⟩
    · exact ⟨SameScan.of_eq h5, h5e⟩
  refine SameScan.trans ?_ (stopped_sameScan h6.1 (h2.run.trans hrun) h6.2)
  exact ⟨rfl, rfl, rfl, rfl, h2.left, congrArg (fun n => min 7 (n + 1)) h2.since⟩

theorem conversionDone_now (s : State) (c code : Nat) (ovf hi : Bool) (hrun : (s.core c).run = true)
    (hph : (s.core c).ph = .conv) :
    (s.conversionDone c code ovf hi).now = max s.now (((s.core c).t0 + 50 * s.slow) / 50) := by
  unfold conversionDone
  extract_lets k i zero ovf' code' tick done s1 s2 k2 k3 rail s4 s5 s6 s7
  rw [if_neg (by simp [k, hrun, hph])]
  have h2 : s2.now = s1.now := by
    unfold s2
    split
    · exact (addSample_keeps (Keeps.refl 0x80000 s1) rfl).now_eq rfl
    · rfl
  have h5 : s5.now = s1.now := by
    unfold s5
    split <;> exact h2
  have h6 : s6.now = s1.now := by
    unfold s6
    split
    · exact (endRound_now s5 c done).trans h5
    · exact h5
  rw [coreFaces_now]
  unfold s7
  split <;> exact h6

/-- R103, R116, R119: a conversion of the scan. -/
theorem exec_conversionDone_running (s : State) (code : Nat) (ovf hi : Bool) (hc : c < 8) (hoff : s.coreOff = false)
    (hrun : (s.core c).run = true) (hph : (s.core c).ph = .conv) :
    ∃ t, exec (.conversionDone c code ovf hi) s = .next t
      ∧ t.now = max s.now (((s.core c).t0 + 50 * s.slow) / 50)
      ∧ SameScan (s.scanned c (ovf && !s.convertsZero c (s.core c).slot)) (t.core c)
      ∧ t = { s with now := t.now, regs := t.regs, flt := t.flt, cores := t.cores, pwr := t.pwr } := by
  have hnow := conversionDone_now s c code ovf hi hrun hph
  have hscan := conversionDone_scanned s code ovf hi hc hrun hph
  refine ⟨s.scanStep c code ovf hi, congrArg Host.Outcome.next (onCore_running hc hoff _), ?_, ?_,
    (scanStep_keeps (Keeps.refl 0x800000c0006 s) rfl).eta⟩
  · unfold scanStep
    extract_lets k u
    split
    · exact (railSample_now u c k.rail).trans hnow
    · exact hnow
  · unfold scanStep
    extract_lets k u
    split
    · exact hscan.trans (railSample_sameScan u c k.rail)
    · exact hscan

/-! ### Discharges (R116) -/

/-- What is left of the discharge in progress: its full 100 clocks, or what an urgent conversion left of it (R116, R121). -/
def dischLen (s : State) (c : Nat) : Nat := if (s.core c).left = 0 then 100 * s.slow else (s.core c).left

theorem dischargeEnd_scan (s : State) (c : Nat) (hrun : (s.core c).run = true) (hph : (s.core c).ph = .disch) :
    (s.dischargeEnd c).now = max s.now (((s.core c).t0 + s.dischLen c) / 50)
    ∧ SameScan { s.core c with ph := .conv, t0 := (s.core c).t0 + s.dischLen c, left := 0 } ((s.dischargeEnd c).core c) := by
  unfold dischargeEnd
  extract_lets k len done s1 s2
  rw [if_neg (by simp [k, hrun, hph]), coreFaces_now, coreFaces_core]
  have h1 : s1.core c = { k with ph := .conv, t0 := done, left := 0 } := core_setCore_self _ c _
  have h2 : s2.now = s1.now ∧ SameScan (s1.core c) (s2.core c) := by
    unfold s2
    split
    · exact ⟨endRound_now s1 c done, endRound_sameScan s1 c done⟩
    · exact ⟨rfl, SameScan.refl _⟩
  exact ⟨h2.1, h1 ▸ h2.2⟩

/-- R116: a discharge ends and the next slot starts. -/
theorem exec_dischargeEnd_running (s : State) {len : Nat} (hc : c < 8) (hoff : s.coreOff = false)
    (hrun : (s.core c).run = true) (hph : (s.core c).ph = .disch)
    (hlen : len = if (s.core c).left = 0 then 100 * s.slow else (s.core c).left) :
    ∃ t, exec (.dischargeEnd c) s = .next t
      ∧ t.now = max s.now (((s.core c).t0 + len) / 50)
      ∧ SameScan { s.core c with ph := .conv, t0 := (s.core c).t0 + len, left := 0 } (t.core c)
      ∧ t = { s with now := t.now, regs := t.regs, flt := t.flt, cores := t.cores } := by
  obtain ⟨hnow, hscan⟩ := dischargeEnd_scan s c hrun hph
  subst hlen
  exact ⟨s.dischargeEnd c, congrArg Host.Outcome.next (onCore_running hc hoff _), hnow, hscan,
    (dischargeEnd_keeps (Keeps.refl 0xc0006 s) rfl).eta⟩

end State
end Sys2Proof.Machine
end

section
/-! PROOFS. Urgent conversions: their start, their result and who takes it (R119–R121, R124). -/
namespace Sys2Proof.Machine
namespace State

variable {s : State} {c : Nat}

/-- What an urgent conversion makes of the core it starts on: the running conversion is lost, a discharge is cut short
(R119–R121). -/
theorem urgentStart_eq (s : State) (c : Nat) (hrun : (s.core c).run = true) (hph : (s.core c).ph ≠ .urgent)
    (hsince : 7 ≤ (s.core c).since) (hq : (s.core c).queue ≠ []) :
    ∃ k, s.urgentStart c = ((s.at_ (k.t0 / 50)).setCore c k).coreFaces c
      ∧ k.ph = .urgent ∧ k.since = 0 ∧ k.queue = (s.core c).queue
      ∧ k.dsc = ((s.core c).ph == .disch && k.left != 0) := by
  have hgo : ¬ (!(s.core c).run || decide ((s.core c).ph = .urgent) || decide ((s.core c).since < 7)
      || (s.core c).queue.isEmpty) = true := by
    simp [hrun, hph, hq]; omega
  unfold urgentStart
  extract_lets k tick len el k'
  rw [if_neg hgo]
  refine ⟨k', rfl, ?_⟩
  unfold k'
  cases h : k.ph with
  | conv => exact ⟨rfl, rfl, rfl, rfl⟩
  | urgent => exact absurd h hph
  | disch =>
    have hcut : decide (el < len) = (len - el != 0) := by
      rw [Bool.eq_iff_iff]
      simp only [decide_eq_true_eq, bne_iff_ne]
      omega
    exact ⟨rfl, rfl, rfl, hcut⟩

/-- R119, R121: an urgent conversion starts. -/
theorem exec_urgentStart_running (s : State) (hc : c < 8) (hoff : s.coreOff = false) (hrun : (s.core c).run = true)
    (hph : (s.core c).ph ≠ .urgent) (hsince : 7 ≤ (s.core c).since) (hq : (s.core c).queue ≠ []) :
    ∃ t, exec (.urgentStart c) s = .next t
      ∧ (t.core c).ph = .urgent ∧ (t.core c).since = 0 ∧ (t.core c).queue = (s.core c).queue
      ∧ t.now = max s.now ((t.core c).t0 / 50) ∧ t.bit (fConvSluiceStatCredit c) = false
      ∧ (t.core c).dsc = ((s.core c).ph == .disch && (t.core c).left != 0)
      ∧ t = { s with now := t.now, regs := t.regs, cores := t.cores } := by
  obtain ⟨k, hk, hkph, hksince, hkq, hkdsc⟩ := urgentStart_eq s c hrun hph hsince hq
  have hcore : (s.urgentStart c).core c = k := by rw [hk, coreFaces_core, core_setCore_self]
  refine ⟨s.urgentStart c, congrArg Host.Outcome.next (onCore_running hc hoff _), ?_⟩
  rw [hcore]
  refine ⟨hkph, hksince, hkq, by rw [hk]; rfl, ?_, hkdsc, (urgentStart_keeps (Keeps.refl 0x80006 s) rfl).eta⟩
  rw [hk, coreFaces_credit, core_setCore_self, hksince]
  rfl

/-- The core after its urgent conversion: the request has left the queue, and the scan takes up a discharge that the
conversion leads to or that it had cut short (R120, R121, R124). -/
def urgentLeaves (s : State) (c : Nat) (q : List (Nat × Nat)) (beyond : Bool) : Core :=
  { s.core c with
    queue := q, urgN := ((s.core c).urgN + 1) % 16, since := 0, t0 := (s.core c).t0 + 50 * s.slow,
    left := if beyond then 0 else (s.core c).left,
    ph := if beyond || decide ((s.core c).left ≠ 0) then .disch else .conv }

theorem urgentFinish_core (s : State) (c slot req : Nat) (q : List (Nat × Nat)) (ovf hi zero : Bool) (y : Int) :
    (s.urgentFinish c slot req q ovf hi zero y).core c = s.urgentLeaves c q ovf := by
  unfold urgentFinish
  extract_lets k done s1 n flt b lo disch s2 s3 s4 s5 s6 s7 s8 s9 s10 s11
  have h2 : s2.core c = s.urgentLeaves c q ovf := core_setCore_self _ c _
  have h10 : s10.core c = s2.core c := by
    unfold s10 s9 s8 s7 s6 s5 s4 s3
    rw [bump_core, set_core, set_core, set_core, setB_core, set_core, setWord_core, setWord_core]
  have h11 : s11.core c = s10.core c := by
    unfold s11
    split
    · exact irq_core ..
    · rfl
  rw [coreFaces_core, h11, h10, h2]

theorem urgentFinish_now (s : State) (c slot req : Nat) (q : List (Nat × Nat)) (ovf hi zero : Bool) (y : Int) :
    (s.urgentFinish c slot req q ovf hi zero y).now = max s.now (((s.core c).t0 + 50 * s.slow) / 50) := by
  unfold urgentFinish
  extract_lets k done s1 n flt b lo disch s2 s3 s4 s5 s6 s7 s8 s9 s10 s11
  have h10 : s10.now = s1.now := by
    unfold s10 s9 s8 s7 s6 s5 s4 s3 s2
    rw [bump_now, set_now, set_now, set_now, setB_now, set_now, setWord_now, setWord_now, setCore_now]
  have h11 : s11.now = s10.now := by
    unfold s11
    split
    · exact irq_now ..
    · rfl
  rw [coreFaces_now, h11, h10]
  exact at_now s _

/-- R124: the tag says the slot, the requester and the number of the result. -/
theorem urgentFinish_tag (s : State) (c slot req : Nat) (q : List (Nat × Nat)) (ovf hi zero : Bool) (y : Int) :
    (s.urgentFinish c slot req q ovf hi zero y).get (fConvSluiceTagSlot c) = slot % 16
    ∧ (s.urgentFinish c slot req q ovf hi zero y).get (fConvSluiceTagReq c) = req % 4
    ∧ (s.urgentFinish c slot req q ovf hi zero y).get (fConvSluiceTagSeq c) = ((s.core c).urgN + 1) % 16 := by
  unfold urgentFinish
  extract_lets k done s1 n flt b lo disch s2 s3 s4 s5 s6 s7 s8 s9 s10 s11
  have hlast : (s11.coreFaces c).word (rConvSluiceTag c) = s8.word (rConvSluiceTag c) := by
    rw [coreFaces_word _ _ (by unfold rConvSluiceTag rConvSluiceStat; omega) (by unfold rConvSluiceTag rBlkStat; omega)]
    have h11 : s11.word (rConvSluiceTag c) = s10.word (rConvSluiceTag c) := by
      unfold s11
      split
      · exact word_irq_ne _ _ _ (by unfold rConvSluiceTag rIrqStat; omega)
      · rfl
    rw [h11]
    unfold s10 s9
    rw [word_bump_ne _ _ (by simp only [fConvUrgCntDone, rConvSluiceTag, rConvUrgCnt]; omega),
      word_set_ne _ _ _ (by simp only [fConvSluiceStatSeq, rConvSluiceTag, rConvSluiceStat]; omega)]
  have hreq : apart (fConvSluiceTagSlot c) (fConvSluiceTagReq c) = true := by simp [apart, fConvSluiceTagSlot, fConvSluiceTagReq]
  have hseqSlot : apart (fConvSluiceTagSlot c) (fConvSluiceTagSeq c) = true := by
    simp [apart, fConvSluiceTagSlot, fConvSluiceTagSeq]
  have hseqReq : apart (fConvSluiceTagReq c) (fConvSluiceTagSeq c) = true := by
    simp [apart, fConvSluiceTagReq, fConvSluiceTagSeq]
  have hseqDsc : apart (fConvSluiceTagDsc c) (fConvSluiceTagSeq c) = true := by
    simp [apart, fConvSluiceTagDsc, fConvSluiceTagSeq]
  refine ⟨(get_of_word hlast).trans ?_, (get_of_word hlast).trans ?_, (get_of_word hlast).trans ?_⟩
  · exact get_set_self s7 _ _ (Nat.le_of_ble_eq_true rfl)
  · unfold s8
    rw [get_set_ne _ _ hreq]
    exact get_set_self s6 _ _ (Nat.le_of_ble_eq_true rfl)
  · unfold s8 s7 s6
    rw [get_set_ne _ _ hseqSlot, get_set_ne _ _ hseqReq, setB, get_set_ne _ _ hseqDsc]
    exact (get_set_self s4 _ _ (Nat.le_of_ble_eq_true rfl)).trans (Nat.mod_mod _ _)

/-! ### Who asked takes the result (R92, R224, R240) -/

/-- The registers of a channel lie below those of the cores (R43). -/
theorem upChan_word_core (s : State) {n a : Nat} (f : Chan → Chan) (hn : n < 192) (ha : 0x10000 ≤ a) :
    (s.upChan n f).word a = s.word a := by
  refine upChan_word s n f ?_
  simp only [chanFace, rUchStat, rUchOut, rUchRdbk, rUchCnt, rUchPeriod, uchBase, Bool.or_eq_false_iff, beq_eq_false_iff_ne]
  omega

theorem raiseRdbk_word_core (s : State) {n a : Nat} (hn : n < 192) (ha : 0x10000 ≤ a) (hp : a / 0x1000 ≠ 0x88) :
    (s.raiseRdbk n).word a = s.word a := by
  unfold raiseRdbk
  extract_lets s1
  rw [raise_word _ _ _ _ hp, markFault, word_irq_ne _ _ _ (by unfold rIrqStat; omega), upChan_word_core _ _ hn ha]
  exact upChan_word_core s _ hn ha

theorem verifyResult_word_core (s : State) {n a : Nat} (y : Int) (hn : n < 192) (ha : 0x10000 ≤ a) (hp : a / 0x1000 ≠ 0x88) :
    (s.verifyResult n y).word a = s.word a := by
  unfold verifyResult
  extract_lets k m
  split
  · rfl
  split
  · exact raiseRdbk_word_core s hn ha hp
  · exact upChan_word_core s _ hn ha

/-- Where an urgent result goes leaves the core that made it, its tag and the time as they are. -/
theorem urgentGive_of_done {u : State} {code slot req : Nat} {ovf hi zero : Bool} {y : Int} (hc : c < 8) (hslot : slot < 16)
    (h : s.urgentDone c code ovf hi = some (slot, req, y, zero, u)) :
    (s.urgentGive c code ovf hi).now = u.now ∧ (s.urgentGive c code ovf hi).core c = u.core c
    ∧ (s.urgentGive c code ovf hi).word (rConvSluiceTag c) = u.word (rConvSluiceTag c) := by
  unfold urgentGive
  rw [h]
  dsimp only
  split
  · have hK (out flt : Bool) := blkSampleDone_keeps (core := c) (slot := slot) (y := y) (ovf := out) (flt := flt) (stale := zero)
      (Keeps.refl 0x8000000000 u) rfl
    exact ⟨(hK _ _).now_eq rfl, core_of_cores ((hK _ _).cores_eq rfl) c,
      congrArg (Map.look resetWord · _) ((hK _ _).regs_eq rfl)⟩
  · have hK := verifyResult_keeps (n := 12 * c + slot) (y := y) (Keeps.refl 0x40104 u) rfl
    exact ⟨hK.now_eq rfl, core_of_cores (hK.cores_eq rfl) c, verifyResult_word_core u y (by omega)
      (by unfold rConvSluiceTag; omega) (by unfold rConvSluiceTag; omega)⟩
  · have hK (out : Bool) := fanSampleDone_keeps (core := c) (slot := slot) (y := y) (ovf := out) (Keeps.refl 0x10000000000 u) rfl
    exact ⟨(hK _).now_eq rfl, core_of_cores ((hK _).cores_eq rfl) c,
      congrArg (Map.look resetWord · _) ((hK _).regs_eq rfl)⟩
  · exact ⟨rfl, rfl, rfl⟩

theorem urgentDone_urgent {slot req : Nat} {q : List (Nat × Nat)} (code : Nat) (ovf hi : Bool)
    (hph : (s.core c).ph = .urgent) (hq : (s.core c).queue = (slot, req) :: q) :
    ∃ y, s.urgentDone c code ovf hi = some (slot, req, y, s.convertsZero c slot,
      s.urgentFinish c slot req q (ovf && !s.convertsZero c slot) hi (s.convertsZero c slot) y) := by
  simp only [urgentDone, hph, hq]
  exact ⟨_, rfl⟩

/-- R124: an urgent conversion ends. -/
theorem exec_urgentResult_running (s : State) {slot req : Nat} {q : List (Nat × Nat)} (code : Nat) (ovf hi : Bool) (hc : c < 8)
    (hoff : s.coreOff = false) (hph : (s.core c).ph = .urgent) (hq : (s.core c).queue = (slot, req) :: q) (hslot : slot < 16)
    (hreq : req < 4) :
    ∃ t, exec (.urgentResult c code ovf hi) s = .next t
      ∧ t.now = max s.now (((s.core c).t0 + 50 * s.slow) / 50)
      ∧ t.core c = s.urgentLeaves c q (ovf && !s.convertsZero c slot)
      ∧ t.get (fConvSluiceTagSlot c) = slot ∧ t.get (fConvSluiceTagReq c) = req
      ∧ t.get (fConvSluiceTagSeq c) = ((s.core c).urgN + 1) % 16
      ∧ t = { s with
        now := t.now, regs := t.regs, uch := t.uch, flt := t.flt, cores := t.cores, net := t.net, fanIo := t.fanIo } := by
  obtain ⟨y, hdone⟩ := urgentDone_urgent code ovf hi hph hq
  obtain ⟨hnow, hcore, hword⟩ := urgentGive_of_done hc hslot hdone
  obtain ⟨hs, hr, hn⟩ := urgentFinish_tag s c slot req q (ovf && !s.convertsZero c slot) hi (s.convertsZero c slot) y
  rw [Nat.mod_eq_of_lt hslot] at hs
  rw [Nat.mod_eq_of_lt hreq] at hr
  exact ⟨s.urgentGive c code ovf hi, congrArg Host.Outcome.next (onCore_running hc hoff _),
    hnow.trans (urgentFinish_now ..), hcore.trans (urgentFinish_core ..),
    (get_of_word hword).trans hs, (get_of_word hword).trans hr, (get_of_word hword).trans hn,
    (urgentGive_keeps (Keeps.refl 0x180000c0106 s) rfl).eta⟩

end State
end Sys2Proof.Machine
end

section
/-! PROOFS. STALL of a core and the soft reset that goes with it (R126, R49), and the statement about the scan. -/
namespace Sys2Proof.Machine
namespace State

variable {s t : State} {c : Nat}

theorem blkOfPage_core (hc : c < 8) : blkOfPage (0x10 + c) = some .conv := by
  have hall : ∀ c < 8, blkOfPage (0x10 + c) = some .conv := by decide
  exact hall c hc

/-- An update that leaves the value and the mode of one channel leaves those of all. -/
theorem modChan_output (s : State) (k n : Nat) {f : Chan → Chan} (hout : ∀ x, (f x).out = x.out) (hmode : ∀ x, (f x).mode = x.mode) :
    ((s.modChan k f).chan n).out = (s.chan n).out ∧ ((s.modChan k f).chan n).mode = (s.chan n).mode := by
  by_cases hn : n = k
  · rw [hn, chan_modChan_self]
    exact ⟨hout _, hmode _⟩
  · rw [chan_modChan_ne s f hn]
    exact ⟨rfl, rfl⟩

/-- The slots of a list no longer await a verification sample (R126). -/
def unverify (s : State) (c : Nat) (l : List Nat) : State :=
  l.foldl (fun s i => s.modChan (12 * c + i) (fun x => { x with verify := false })) s

theorem unverify_output (c : Nat) (l : List Nat) (s : State) (n : Nat) :
    ((s.unverify c l).chan n).out = (s.chan n).out ∧ ((s.unverify c l).chan n).mode = (s.chan n).mode := by
  induction l generalizing s with
  | nil => exact ⟨rfl, rfl⟩
  | cons i l ih =>
    obtain ⟨hout, hmode⟩ := s.modChan_output (12 * c + i) n (f := fun x => { x with verify := false }) (fun _ => rfl) (fun _ => rfl)
    exact ⟨(ih _).1.trans hout, (ih _).2.trans hmode⟩

theorem startScan_chan (s : State) (c n : Nat) : (s.startScan c).chan n = s.chan n :=
  chan_of_uch ((startScan_keeps (Keeps.refl 0x80004 s) rfl).uch_eq rfl) n
theorem modEng_chan (s : State) (f : Eng → Eng) (n : Nat) : (s.modEng f).chan n = s.chan n :=
  chan_of_uch ((modEng_keeps (Keeps.refl 0x7000000 s) rfl).uch_eq rfl) n
theorem chan_withRequests (s : State) (net : BlkNet) (io : FanIo) (n : Nat) :
    ({ s with net := net, fanIo := io } : State).chan n = s.chan n := rfl

/-- The outputs of a core's channels stay in their modes and at their values while the core starts afresh (R126). -/
theorem convReset_output (s : State) (c n : Nat) :
    ((s.convReset c).chan n).out = (s.chan n).out ∧ ((s.convReset c).chan n).mode = (s.chan n).mode := by
  unfold convReset
  extract_lets seqs lost again s1 s2 net io s3
  have h2 := unverify_output c (List.range 12) s1 n
  rw [startScan_chan, setCore_chan] at h2
  rw [modEng_chan, chan_withRequests]
  exact h2

theorem engReset_conv (s : State) (c : Nat) : s.engReset .conv (0x10 + c) = s.convReset c := by
  have hi : 0x10 + c - Blk.conv.first = c := Nat.add_sub_cancel_left 0x10 c
  show s.convReset (0x10 + c - Blk.conv.first) = s.convReset c
  rw [hi]

/-- The soft reset of a core's page is the fresh start of its core on top of what every page's reset does (R49, R126). -/
theorem softReset_core_eq (s : State) (hc : c < 8) :
    ∃ u : State, s.softReset (0x10 + c) = (u.convReset c).setB (fBlkBusy (0x10 + c)) true ∧ u.now = s.now ∧ u.uch = s.uch := by
  unfold softReset
  rw [blkOfPage_core hc]
  dsimp only
  rw [if_neg (by decide), if_neg (by decide), if_neg (by decide), engReset_conv]
  have hK := pageFaultsClear_keeps (p := 0x10 + c) (Keeps.refl 0x40004 s) rfl
  exact ⟨_, rfl, hK.now_eq rfl, hK.uch_eq rfl⟩

/-- The soft reset of a core leaves the time, and the modes and values of the outputs (R49, R126). -/
theorem softReset_core_leaves (s : State) (hc : c < 8) :
    (s.softReset (0x10 + c)).now = s.now
    ∧ ∀ n, ((s.softReset (0x10 + c)).chan n).out = (s.chan n).out
        ∧ ((s.softReset (0x10 + c)).chan n).mode = (s.chan n).mode := by
  obtain ⟨u, hu, hnow, huch⟩ := softReset_core_eq s hc
  rw [hu]
  refine ⟨?_, fun n => ?_⟩
  · rw [setB_now, ← hnow]
    exact (convReset_keeps (Keeps.refl 0x18007080104 u) rfl).now_eq rfl
  · rw [setB_chan, ← chan_of_uch huch]
    exact convReset_output u c n

/-- STALE and FLT are set in the results of the slots of a list (R126). -/
def markStale (s : State) (c : Nat) (l : List Nat) : State :=
  l.foldl (fun s i => s.setWord (rConvResLo c i) (s.word (rConvResLo c i) ||| 0x03000000#32)) s

theorem markStale_keeps (s : State) (c : Nat) (l : List Nat) : Keeps 0x4 s (s.markStale c l) :=
  Keeps.fold l _ (Keeps.refl _ s) (fun _ _ h => setWord_keeps h rfl)

theorem markStale_word_ne (c : Nat) (l : List Nat) (s : State) {a : Nat} (ha : ∀ i, a ≠ rConvResLo c i) :
    (s.markStale c l).word a = s.word a := by
  induction l generalizing s with
  | nil => rfl
  | cons i l ih => exact (ih _).trans (word_setWord_ne s _ (ha i))

/-- A bit of a result, once set, stays set while other results are marked. -/
theorem markStale_bitAt_mono (c : Nat) (l : List Nat) (s : State) (a j : Nat) (h : bitAt (s.word a) j = true) :
    bitAt ((s.markStale c l).word a) j = true := by
  induction l generalizing s with
  | nil => exact h
  | cons i l ih =>
    refine ih _ ?_
    rw [word_setWord]
    split
    · next ha => simpa [bitAt, ← ha] using Or.inl h
    · exact h

theorem markStale_bitAt (c : Nat) (l : List Nat) (s : State) {i j : Nat} (hi : i ∈ l) (hj : j = 24 ∨ j = 25) :
    bitAt ((s.markStale c l).word (rConvResLo c i)) j = true := by
  induction l generalizing s with
  | nil => exact absurd hi List.not_mem_nil
  | cons d l ih =>
    rcases List.mem_cons.mp hi with rfl | hl
    · refine markStale_bitAt_mono c l _ _ j ?_
      rw [word_setWord_self]
      have hm : (0x03000000#32).getLsbD j = true := by rcases hj with rfl | rfl <;> decide
      simp [bitAt, hm]
    · exact ih _ hl

theorem raised_of_flt {code inst : Nat} (h : t.flt = s.flt) (hr : s.Raised code inst) : t.Raised code inst := by
  unfold Raised requests at hr ⊢
  rwa [h]

/-- What the STALL of a core does once its soft reset is done (R126). -/
def stalled (u : State) (c : Nat) : State :=
  ((((((u.setB (fConvFaultStall c) true).irq (0x10 + c) 3).raise 0x4003 c .major).markStale c (List.range 12)).modCore c
    (fun k => { k with stallRst := true })).coreFaces c)

theorem coreStall_eq (s : State) (c : Nat) (f : State → State) (hrun : (s.core c).run = true)
    (hstall : s.bit (fConvFaultStall c) = false) :
    s.coreStall c f = (f (s.at_ ((s.core c).t0 / 50 + 50))).stalled c := by
  unfold coreStall
  rw [if_neg (by simp [hrun, hstall])]
  rfl

theorem stalled_now (u : State) (c : Nat) : (u.stalled c).now = u.now := by
  unfold stalled
  rw [coreFaces_now, modCore_now, (markStale_keeps _ _ _).now_eq rfl, raise_now, irq_now, setB_now]

theorem stalled_chan (u : State) (c n : Nat) : (u.stalled c).chan n = u.chan n := by
  unfold stalled
  rw [coreFaces_chan, modCore_chan, chan_of_uch ((markStale_keeps _ _ _).uch_eq rfl), chan_of_uch (raise_uch _ _ _ _), irq_chan,
    setB_chan]

theorem stalled_stallRst (u : State) (c : Nat) : ((u.stalled c).core c).stallRst = true := by
  unfold stalled
  rw [coreFaces_core, modCore_core_self]

theorem stalled_raised (u : State) (c : Nat) : (u.stalled c).Raised 0x4003 c := by
  have hflt : (u.stalled c).flt = (((u.setB (fConvFaultStall c) true).irq (0x10 + c) 3).raise 0x4003 c .major).flt := by
    unfold stalled
    rw [coreFaces_flt, modCore_flt, (markStale_keeps _ _ _).flt_eq rfl]
  exact raised_of_flt hflt (raise_raised _ _ _ _)

theorem stalled_bit (u : State) (hc : c < 8) : (u.stalled c).bit (fConvFaultStall c) = true := by
  have hword : (u.stalled c).word (rConvFault c) = (u.setB (fConvFaultStall c) true).word (rConvFault c) := by
    unfold stalled
    rw [coreFaces_word _ _ (by unfold rConvFault rConvSluiceStat; omega) (by unfold rConvFault rBlkStat; omega), modCore_word,
      markStale_word_ne _ _ _ (fun i => by unfold rConvFault rConvResLo convSlotBase; omega),
      raise_word _ _ _ _ (by unfold rConvFault; omega), word_irq_ne _ _ _ (by unfold rConvFault rIrqStat; omega)]
  have hself := bit_setB_self u (fConvFaultStall c) true (Nat.le_of_ble_eq_true rfl) Nat.one_pos
  unfold bit at hself ⊢
  rwa [get_of_word (f := fConvFaultStall c) hword]

theorem stalled_result (u : State) (c : Nat) {i j : Nat} (hi : i < 12) (hj : j = 24 ∨ j = 25) :
    bitAt ((u.stalled c).word (rConvResLo c i)) j = true := by
  unfold stalled
  rw [coreFaces_word _ _ (by unfold rConvResLo convSlotBase rConvSluiceStat; omega)
    (by unfold rConvResLo convSlotBase rBlkStat; omega), modCore_word]
  exact markStale_bitAt c _ _ (List.mem_range.mpr hi) hj

/-- R126: 50 µs without a conversion are a STALL of the core. -/
theorem exec_stall_running (s : State) (hc : c < 8) (hoff : s.coreOff = false) (hrun : (s.core c).run = true)
    (hstall : s.bit (fConvFaultStall c) = false) :
    ∃ t, exec (.stall c) s = .next t
      ∧ t.now = max s.now ((s.core c).t0 / 50 + 50)
      ∧ t.bit (fConvFaultStall c) = true ∧ (t.core c).stallRst = true ∧ t.Raised 0x4003 c
      ∧ (∀ i, i < 12 → bitAt (t.word (rConvResLo c i)) 24 = true ∧ bitAt (t.word (rConvResLo c i)) 25 = true)
      ∧ (∀ n, (t.chan n).out = (s.chan n).out ∧ (t.chan n).mode = (s.chan n).mode)
      ∧ t.lath = s.lath ∧ t.vis = s.vis ∧ t.nst = s.nst := by
  have hexec : exec (.stall c) s = .next (s.coreStall c (fun s => s.softReset (0x10 + c))) :=
    congrArg Host.Outcome.next (onCore_running hc hoff _)
  have hK := execStall_keeps hexec
  have hstalled := coreStall_eq s c (fun s => s.softReset (0x10 + c)) hrun hstall
  obtain ⟨hnow, hchan⟩ := softReset_core_leaves (s.at_ ((s.core c).t0 / 50 + 50)) hc
  refine ⟨_, hexec, ?_, ?_, ?_, ?_, ?_, ?_, hK.lath_eq rfl, hK.vis_eq rfl, hK.nst_eq rfl⟩ <;> rw [hstalled]
  · rw [stalled_now, hnow, at_now]
  · exact stalled_bit _ hc
  · exact stalled_stallRst _ c
  · exact stalled_raised _ c
  · exact fun i hi => ⟨stalled_result _ c hi (.inl rfl), stalled_result _ c hi (.inr rfl)⟩
  · intro n
    rw [stalled_chan]
    exact hchan n

end State

/-- Settles O18, clause by clause: what each command of a core that runs makes of the core, the time and the registers. -/
theorem scanConvertsSlotAfterSlot : Obligations.ScanConvertsSlotAfterSlot := by
  unfold Obligations.ScanConvertsSlotAfterSlot
  intro s c hc hoff hrun
  refine ⟨fun code ovf hi hph => ?_, fun len hph hlen => ?_, fun hph hsince hq => ?_,
    fun code slot req ovf hi q hph hq hslot hreq => ?_, fun hstall => ?_⟩
  · obtain ⟨t, he, hnow, hscan, ht⟩ := State.exec_conversionDone_running s code ovf hi hc hoff hrun hph
    exact ⟨t, he, hnow, hscan.slot, hscan.t0, hscan.ph, hscan.since, hscan.run, ht⟩
  · obtain ⟨t, he, hnow, hscan, ht⟩ := State.exec_dischargeEnd_running s hc hoff hrun hph hlen
    exact ⟨t, he, hnow, hscan.ph, hscan.t0, hscan.left, hscan.slot, ht⟩
  · exact State.exec_urgentStart_running s hc hoff hrun hph hsince hq
  · obtain ⟨t, he, hnow, hcore, hs, hr, hn, ht⟩ := State.exec_urgentResult_running s code ovf hi hc hoff hph hq hslot hreq
    refine ⟨t, he, hnow, ?_, ?_, ?_, ?_, hs, hr, hn, ht⟩ <;> rw [hcore] <;> rfl
  · exact State.exec_stall_running s hc hoff hrun hstall

end Sys2Proof.Machine
end

section
/-! PROOFS. The order of the transactions of a poll cycle (R139, R140): whose cycles send writes before reads, and a port that
does not. -/
namespace Sys2Proof.Machine

/-- A transaction that writes to its unit (R136). -/
def RbTx.IsWrite (x : RbTx) : Prop := x.func = 6 ∨ x.func = 0x10

/-- A transaction that reads from its unit (R136). -/
def RbTx.IsRead (x : RbTx) : Prop := x.func = 3 ∨ x.func = 4

theorem RbTx.IsRead.not_isWrite {x : RbTx} (h : x.IsRead) : ¬ x.IsWrite := by
  unfold RbTx.IsRead at h
  unfold RbTx.IsWrite
  omega

namespace State

variable {s t : State} {p : Nat}

theorem rport_of_rbus (h : t.rbus = s.rbus) (p : Nat) : t.rport p = s.rport p := by
  unfold rport
  rw [h]

@[simp] theorem rport_setRport_self (s : State) (p : Nat) (x : RbPort) : (s.setRport p x).rport p = x :=
  Map.look_put_self _ _ _ _

@[simp] theorem cycleDone_todo (s : State) (p : Nat) : ((s.cycleDone p).rport p).todo = [] := by
  unfold cycleDone
  extract_lets x s1 s2
  rw [rport_of_rbus (t := (s2.bumpWrap (fRbusCycleCount p)).irq (rbPage p) 2) (s := s1) rfl, rport_setRport_self]

/-! ### The plan holds reads only (R139) -/

theorem groupReads_func (s : State) (p slot func : Nat) (es : List Nat) :
    ∀ x ∈ s.groupReads p slot func es, x.func = func := by
  unfold groupReads
  simp only [List.mem_reverse]
  refine List.foldlRecOn es _ (motive := fun acc : List RbTx => ∀ x ∈ acc, x.func = func)
    (fun x hx => absurd hx List.not_mem_nil) (fun acc hacc e _ => ?_)
  split
  · split
    · obtain ⟨ht, hts⟩ := List.forall_mem_cons.mp hacc
      exact List.forall_mem_cons.mpr ⟨ht, hts⟩
    · exact List.forall_mem_cons.mpr ⟨rfl, hacc⟩
  · exact List.forall_mem_singleton.mpr rfl

theorem planReads_isRead (s : State) (p : Nat) : ∀ x ∈ s.planReads p, x.IsRead := by
  intro x hx
  unfold planReads at hx
  obtain ⟨k, -, hk⟩ := List.mem_flatMap.mp hx
  split at hk
  · exact absurd hk List.not_mem_nil
  · obtain ⟨fc, hfc, hmem⟩ := List.mem_flatMap.mp hk
    have hfunc := groupReads_func _ _ _ _ _ x hmem
    rw [List.mem_cons, List.mem_singleton] at hfc
    rcases hfc with rfl | rfl
    · exact .inl hfunc
    · exact .inr hfunc

theorem rbPlan_plan_isRead (s : State) (p : Nat) : ∀ x ∈ ((s.rbPlan p).rport p).plan, x.IsRead := by
  unfold rbPlan
  rw [rport_setRport_self]
  exact s.planReads_isRead p

/-! ### The cycle sends writes, then what the plan holds (R140) -/

theorem writeTx_isWrite (s : State) (p e : Nat) : (s.writeTx p e).IsWrite := by
  unfold writeTx RbTx.IsWrite
  dsimp only
  split
  · exact .inr rfl
  · exact .inl rfl

/-- A command of the wires of a port reaches it while the core runs. -/
theorem onBus_running (hp : p < 4) (hoff : s.coreOff = false) (f : State → State) : s.onBus p f = f s := by
  simp [onBus, hp, hoff]

theorem exec_pollCycleStart_running (hp : p < 4) (hoff : s.coreOff = false) :
    exec (.pollCycleStart p) s = .next (s.pollStart p) :=
  congrArg Host.Outcome.next (onBus_running hp hoff _)

/-- R140: the transactions of a cycle that starts are writes, then transactions of the plan. -/
theorem pollStart_todo (hen : s.en (rbPage p) = true) (hrun : s.lath.running = true) (hsafe : s.lath.safe = false)
    (hph : (s.rport p).ph = .idle) (hended : (s.rport p).ended ≤ s.lath.cap)
    (hmap : s.mapEntries p false ++ s.mapEntries p true ≠ []) :
    ∃ writes reads, ((s.pollStart p).rport p).todo = writes ++ reads
      ∧ (∀ x ∈ writes, x.IsWrite) ∧ (∀ x ∈ reads, x ∈ (s.rport p).plan) := by
  unfold pollStart
  extract_lets x s1 dueW reads dueR todo x1 s2
  rw [if_neg (by simp [hen, hrun, hsafe, x, hph, hended, hmap])]
  refine ⟨dueW, dueR, ?_, fun w hw => ?_, fun r hr => (List.mem_filter.mp (List.mem_filter.mp hr).1).1⟩
  · split
    · next hnil => rw [cycleDone_todo]; exact (List.isEmpty_iff.mp hnil).symm
    · rw [rport_setRport_self]
  · obtain ⟨e, -, he⟩ := List.mem_filterMap.mp hw
    extract_lets tx v due at he
    split at he
    · cases he
      exact s1.writeTx_isWrite p e
    · cases he

/-- R140: when the plan holds reads only, as `rbPlan` leaves it (`rbPlan_plan_isRead`), no write comes after a read. -/
theorem pollStart_writes_before_reads (hplan : ∀ x ∈ (s.rport p).plan, x.IsRead) (hen : s.en (rbPage p) = true)
    (hrun : s.lath.running = true) (hsafe : s.lath.safe = false) (hph : (s.rport p).ph = .idle)
    (hended : (s.rport p).ended ≤ s.lath.cap) (hmap : s.mapEntries p false ++ s.mapEntries p true ≠ []) :
    ((s.pollStart p).rport p).todo.Pairwise (fun x y => y.IsWrite → x.IsWrite) := by
  obtain ⟨writes, reads, htodo, hw, hr⟩ := pollStart_todo hen hrun hsafe hph hended hmap
  rw [htodo, List.pairwise_append]
  exact ⟨List.pairwise_of_forall_mem_list (fun x hx _ _ _ => hw x hx),
    List.pairwise_of_forall_mem_list (fun _ _ y hy hwy => absurd hwy (hplan y (hr y hy)).not_isWrite),
    fun x hx _ _ _ => hw x hx⟩

/-! ### A plan that holds a write after a read -/

/-- A read and a write of register 5 of the unit in slot 2. -/
def slot2Read : RbTx := { slot := 2, func := 3, reg := 5, n := 1, entries := [0] }
def slot2Write : RbTx := { slot := 2, func := 6, reg := 5, n := 1, entries := [0] }

/-- A device that runs its frames, with unit 2 of port 1 and the port's map entry 0 enabled and the port idle; the plan of the
port holds a write after a read, which `rbPlan` never makes and no premise of the statement shuts out. -/
def planWithWrite : State :=
  ({ State.reset with
      boot := { rst := none, coreRst := false, first := true }
      lath := { running := true }
      rbus := [(1, { plan := [slot2Read, slot2Write] })] }.set (fRbusUnitCfgEn 1 2) 1).set (fRbusMap0En 1 0) 1

/-- The invariant of the block says nothing of plans either. -/
theorem planWithWrite_inv : planWithWrite.Inv := by
  unfold Inv queuesOk positionOk regsOk ramOk chansOk levelsOk
  decide +kernel

theorem planWithWrite_todo : ((planWithWrite.pollStart 1).rport 1).todo = [slot2Read, slot2Write] := by decide +kernel

end State

/-- Refutes O22: the plan of a port is a list of any transactions, and the cycle of `State.planWithWrite` sends the write of its
plan after the read. On plans of reads the order of R140 holds (`State.pollStart_writes_before_reads`). -/
theorem not_rbusPollsItsUnits : ¬ Obligations.RbusPollsItsUnits := by
  unfold Obligations.RbusPollsItsUnits
  intro h
  have hoff : State.planWithWrite.coreOff = false := by decide +kernel
  obtain ⟨hstart, -⟩ := h State.planWithWrite 1 (by decide) hoff (by decide +kernel)
  obtain ⟨t, hexec, -, -, -, -, horder, -⟩ :=
    hstart rfl rfl (by decide +kernel) (by decide +kernel) (by decide +kernel)
  rw [State.exec_pollCycleStart_running (by decide) hoff] at hexec
  rw [← Host.Outcome.next.inj hexec, State.planWithWrite_todo] at horder
  exact absurd horder (by decide)

end Sys2Proof.Machine
end

section
/-! PROOFS. The timers of a fan governor (R239–R241): what becomes of the governor whose timer is due, and what each timer
leaves as it was. -/
namespace Sys2Proof.Machine
namespace State

variable {s t : State} {g h cnt : Nat} {r : Rate} {x : FanSt}

/-- The governor takes part in control, and the core runs (R229, R249). -/
def FanRuns (s : State) (g : Nat) : Prop :=
  g < 24 ∧ s.coreOff = false ∧ s.fanOn g = true ∧ s.enAck (fanPage g) = true

/-- CNT of the governor's tach channel; 0 without a tach (R237). -/
def tachCnt (s : State) (g : Nat) : Nat := match s.fanTach g with | some m => (s.capOf m).cnt | none => 0

/-! ### The governors' records behind the operations of a frame -/

theorem fanSt_of_eng (he : t.eng = s.eng) (h : Nat) : t.fanSt h = s.fanSt h := by
  unfold fanSt
  rw [he]

theorem setFan_fanSt (s : State) (g : Nat) (x : FanSt) (h : Nat) :
    (s.setFan g x).fanSt h = if h = g then x else s.fanSt h :=
  Map.look_put _ _ _ _ _

/-- CNT counts by the state, not by the clock. -/
theorem tachCnt_at_ (s : State) (u g : Nat) : (s.at_ u).tachCnt g = s.tachCnt g := by
  have hcnt (m : Nat) : ((s.at_ u).capOf m).cnt = (s.capOf m).cnt := by
    unfold capOf
    split <;> rfl
  unfold tachCnt
  rw [show (s.at_ u).fanTach g = s.fanTach g from rfl]
  split
  · exact hcnt _
  · rfl

/-- What a governor drives and shows leaves the records of the governors as `setFan` made them. -/
theorem fanFinish_fanSt (s : State) (r : Rate) (g : Nat) (x : FanSt) (fen : Bool) (h : Nat) :
    (s.fanFinish r g x fen).fanSt h = if h = g then x else s.fanSt h := by
  unfold fanFinish
  extract_lets +onlyGivenNames s0 o l0 s1 cl lo hi l5 s2 sp pts s3
  clear_value l0 l5
  have hl0 : s1.fanSt h = s0.fanSt h := by
    unfold s1
    split
    · exact stage_fanSt ..
    · split
      · exact stage_fanSt ..
      · rfl
  have hl5 : s2.fanSt h = s1.fanSt h := by
    unfold s2
    split
    · exact stage_fanSt ..
    · rfl
  have hpts : s3.fanSt h = s2.fanSt h := by
    unfold s3
    split
    · exact fanSt_of_eng ((Keeps.fold _ _ (Keeps.refl 0x30000 s2) (fun _ _ hu => produce_keeps hu rfl)).eng_eq rfl) h
    · rfl
  simp only [laterSet, laterSeti, laterB, later_fanSt]
  rw [hpts, hl5, hl0, setFan_fanSt]

/-! ### A governor that changes state (R239–R244) -/

@[simp] theorem fanTo_state (s : State) (r : Rate) (g : Nat) (x : FanSt) (new : Nat) :
    (s.fanTo r g x new).1.state = new := rfl

theorem fanTo_attempt (s : State) (r : Rate) (g : Nat) (x : FanSt) (new : Nat) :
    (s.fanTo r g x new).1.attempt = if fanRetrying new then (if fanRetrying x.state then x.attempt else 1)
      else if new = 5 then x.attempt else 0 := rfl

theorem fanTo_held (s : State) (r : Rate) (g : Nat) (x : FanSt) (new : Nat) :
    (s.fanTo r g x new).1.held = if new = 6 && x.state ≠ 6 then x.duty else x.held := rfl

theorem fanTo_blocked (s : State) (r : Rate) (g : Nat) (x : FanSt) (new : Nat) :
    (s.fanTo r g x new).1.blocked = (x.blocked || new = 5) := rfl

/-! ### What becomes of a governor at its timer -/

/-- TSTART is over (R239, R240). -/
def fanStartStep (g : Nat) (s : State) (x : FanSt) (cnt : Nat) : FanSt × State :=
  if x.mark ≠ some cnt then s.fanTo (s.fanRate g) g x 2 else
  let (x, s) := s.fanStartEnd (s.fanRate g) g x
  if x.state = 1 then s.fanVerify (s.fanRate g) g x else (x, s)

/-- The 2 s without a pulse in RUN are over (R239). -/
def fanPulseStep (g : Nat) (s : State) (x : FanSt) (cnt : Nat) : FanSt × State :=
  if cnt ≠ x.cnt then (x, s) else s.fanPulseEnd (s.fanRate g) g x

/-- The off time of a retry is over (R241). -/
def fanOffStep (g : Nat) (s : State) (x : FanSt) (_cnt : Nat) : FanSt × State := s.fanTo (s.fanRate g) g x 4

/-- A kick is over (R241). -/
def fanKickStep (g : Nat) (s : State) (x : FanSt) (cnt : Nat) : FanSt × State :=
  s.fanKickEnd (s.fanRate g) g { x with mark := some (x.mark.getD cnt) } cnt

theorem onFan_runs (hrun : s.FanRuns g) (f : State → State) : s.onFan g f = f s := by
  obtain ⟨hg, hoff, hon, hack⟩ := hrun
  simp [onFan, hg, hoff, hon, hack]

theorem exec_fanStartTimeout (hrun : s.FanRuns g) (hst : (s.fanSt g).state = 1) (hver : (s.fanSt g).verify = 0) :
    exec (.fanStartTimeout g) s =
      .next (s.fanDue g ((s.fanSt g).t0 + 1000000 * s.eget (fFanCfgTstart g)) (fanStartStep g)) :=
  congrArg Host.Outcome.next ((onFan_runs hrun _).trans (if_neg (by simp [hst, hver])))

theorem exec_fanPulseTimeout (hrun : s.FanRuns g) (hst : (s.fanSt g).state = 2) (hduty : 0 < (s.fanSt g).duty) :
    exec (.fanPulseTimeout g) s = .next (s.fanDue g ((s.fanSt g).pulseAt + 2000000) (fanPulseStep g)) :=
  congrArg Host.Outcome.next ((onFan_runs hrun _).trans (if_neg (by simp [hst, hduty])))

theorem exec_retryOffEnd (hrun : s.FanRuns g) (hst : (s.fanSt g).state = 3) :
    exec (.retryOffEnd g) s = .next (s.fanDue g ((s.fanSt g).t0 + 5000000) (fanOffStep g)) :=
  congrArg Host.Outcome.next ((onFan_runs hrun _).trans (if_neg (by simp [hst])))

theorem exec_kickEnd (hrun : s.FanRuns g) (hst : (s.fanSt g).state = 4) :
    exec (.kickEnd g) s = .next (s.fanDue g ((s.fanSt g).t0 + 2000000) (fanKickStep g)) :=
  congrArg Host.Outcome.next ((onFan_runs hrun _).trans (if_neg (by simp [hst])))

/-! ### What the answers of the timers are -/

theorem fanStartStep_pulse (hmark : x.mark ≠ some cnt) : (fanStartStep g s x cnt).1.state = 2 := by
  rw [fanStartStep, if_pos hmark, fanTo_state]

/-- Without a current path the retry sequence begins (R241). -/
theorem fanStartStep_retry (hmark : x.mark = some cnt) (hst : x.state = 1) (hi : s.ebit (fFanDrvIEn g) = false) :
    (fanStartStep g s x cnt).1.state = 3 ∧ (fanStartStep g s x cnt).1.attempt = 1 := by
  have hstep : fanStartStep g s x cnt = s.fanTo (s.fanRate g) g x 3 := by
    simp [fanStartStep, fanStartEnd, hmark, hi]
  rw [hstep, fanTo_state, fanTo_attempt]
  simp [fanRetrying, hst]

/-- With a current path the conversion of the drive is wanted, or requested at once (R240). -/
theorem fanStartStep_verify (hmark : x.mark = some cnt) (hst : x.state = 1) (hver : x.verify = 0)
    (hi : s.ebit (fFanDrvIEn g) = true) (hd : (s.fanDrive g).isSome) :
    (fanStartStep g s x cnt).1.state = 1 ∧ 1 ≤ (fanStartStep g s x cnt).1.verify := by
  have hstep : fanStartStep g s x cnt = s.fanVerify (s.fanRate g) g { x with verify := 1 } := by
    simp [fanStartStep, fanStartEnd, hmark, hst, hver, hi]
  obtain ⟨d, hdrive⟩ := Option.isSome_iff_exists.mp hd
  rw [hstep, fanVerify, hdrive]
  dsimp only
  rw [if_pos rfl]
  split
  · exact ⟨hst, Nat.le_succ 1⟩
  · exact ⟨hst, Nat.le_refl 1⟩

theorem fanPulseStep_pulse (hcnt : cnt ≠ x.cnt) : (fanPulseStep g s x cnt).1 = x := by
  rw [fanPulseStep, if_pos hcnt]

theorem fanPulseStep_noPath (hcnt : cnt = x.cnt) (hi : s.ebit (fFanDrvIEn g) = false) :
    (fanPulseStep g s x cnt).1.state = 7 := by
  rw [fanPulseStep, if_neg (fun hne => hne hcnt), fanPulseEnd, if_neg (by simp [hi]), fanTo_state]

/-- With a current path, TACH_LOST within the band and the retry sequence outside it (R239). -/
theorem fanPulseStep_path (hcnt : cnt = x.cnt) (hst : x.state = 2) (hi : s.ebit (fFanDrvIEn g) = true) :
    (fanPulseStep g s x cnt).1.state = 6 ∧ (fanPulseStep g s x cnt).1.held = x.duty
      ∨ (fanPulseStep g s x cnt).1.state = 3 ∧ (fanPulseStep g s x cnt).1.attempt = 1 := by
  rw [fanPulseStep, if_neg (fun hne => hne hcnt), fanPulseEnd, if_pos hi, fanTo_state, fanTo_held, fanTo_attempt]
  cases s.fanInBand g x (some x.current) with
  | true => exact .inl (by simp [hst])
  | false => exact .inr (by simp [fanRetrying, hst])

theorem fanOffStep_kick (hst : x.state = 3) :
    (fanOffStep g s x cnt).1.state = 4 ∧ (fanOffStep g s x cnt).1.attempt = x.attempt := by
  rw [fanOffStep, fanTo_state, fanTo_attempt]
  simp [fanRetrying, hst]

theorem fanKickStep_pulse (hmark : x.mark.getD cnt ≠ cnt) :
    (fanKickStep g s x cnt).1.state = 2 ∧ (fanKickStep g s x cnt).1.attempt = 0 := by
  rw [fanKickStep, fanKickEnd, if_pos (by simp [hmark]), fanTo_state, fanTo_attempt]
  exact ⟨rfl, rfl⟩

theorem fanKickStep_again (hmark : x.mark.getD cnt = cnt) (hst : x.state = 4) (hatt : x.attempt < 3) :
    (fanKickStep g s x cnt).1.state = 3 ∧ (fanKickStep g s x cnt).1.attempt = x.attempt + 1 := by
  rw [fanKickStep, fanKickEnd, if_neg (by simp [hmark]), if_pos hatt]
  dsimp only
  rw [fanTo_state, fanTo_attempt]
  simp [fanRetrying, hst]

theorem fanKickStep_blocked (hmark : x.mark.getD cnt = cnt) (hatt : 3 ≤ x.attempt) :
    (fanKickStep g s x cnt).1.state = 5 ∧ (fanKickStep g s x cnt).1.blocked = true := by
  rw [fanKickStep, fanKickEnd, if_neg (by simp [hmark]), if_neg (Nat.not_lt.mpr hatt), fanTo_state, fanTo_blocked]
  simp

/-! ### What the answers of the timers leave -/

theorem fanStartStep_keeps (g : Nat) (s : State) (x : FanSt) (cnt : Nat) :
    Keeps 0x10018080004 s (fanStartStep g s x cnt).2 := by
  have hr := Keeps.refl 0x10018080004 s
  unfold fanStartStep
  split
  · exact fanTo_keeps hr rfl
  · split
    next y u hend =>
      have hu : Keeps 0x10018080004 s u := Keeps.ofP2 hend (fanStartEnd_keeps hr rfl)
      split
      · exact fanVerify_keeps hu rfl
      · exact hu

theorem fanPulseStep_keeps (g : Nat) (s : State) (x : FanSt) (cnt : Nat) :
    Keeps 0x10018080004 s (fanPulseStep g s x cnt).2 := by
  unfold fanPulseStep
  split
  · exact Keeps.refl _ s
  · exact fanPulseEnd_keeps (Keeps.refl _ s) rfl

theorem fanOffStep_keeps (g : Nat) (s : State) (x : FanSt) (cnt : Nat) :
    Keeps 0x10018080004 s (fanOffStep g s x cnt).2 := fanTo_keeps (Keeps.refl _ s) rfl

theorem fanKickStep_keeps (g : Nat) (s : State) (x : FanSt) (cnt : Nat) :
    Keeps 0x10018080004 s (fanKickStep g s x cnt).2 := fanKickEnd_keeps (Keeps.refl _ s) rfl

/-- A due step of a governor ends at its instant, with the answer for this governor and every other governor as it was. -/
theorem fanDue_moves {f : State → FanSt → Nat → FanSt × State} (hf : ∀ u x cnt, Keeps 0x10018080004 u (f u x cnt).2)
    (s : State) (g due : Nat) :
    (s.fanDue g due f).now = max s.now due
      ∧ (s.fanDue g due f).fanSt g = (f (s.at_ due) (s.fanSt g) (s.tachCnt g)).1
      ∧ ∀ h, h ≠ g → (s.fanDue g due f).fanSt h = s.fanSt h := by
  have hK := hf (s.at_ due) (s.fanSt g) (s.tachCnt g)
  have hdue : s.fanDue g due f = (f (s.at_ due) (s.fanSt g) (s.tachCnt g)).2.fanFinish (s.fanRate g) g
      (f (s.at_ due) (s.fanSt g) (s.tachCnt g)).1
      ((f (s.at_ due) (s.fanSt g) (s.tachCnt g)).2.bit (fFanStatFenRaise g)) := by
    rw [← tachCnt_at_ s due g]
    rfl
  rw [hdue]
  refine ⟨((fanFinish_keeps (Keeps.refl 0x19031800 _) rfl).now_eq rfl).trans (hK.now_eq rfl), ?_, fun h hh => ?_⟩
  · rw [fanFinish_fanSt, if_pos rfl]
  · rw [fanFinish_fanSt, if_neg hh, fanSt_of_eng (hK.eng_eq rfl), at__fanSt]

end State

/-- Settles O23: each timer is a due step of its governor (`State.fanDue_moves`); its answer is read off case by case. -/
theorem governorTimersMoveItsState : Obligations.GovernorTimersMoveItsState := by
  unfold Obligations.GovernorTimersMoveItsState
  intro s g cnt hg hoff hon hack hcnt
  have hrun : s.FanRuns g := ⟨hg, hoff, hon, hack⟩
  obtain rfl : cnt = s.tachCnt g := hcnt
  refine ⟨fun hst hver => ?_, fun hst hduty => ?_, fun hst => ?_, fun hst => ?_⟩
  · have hexec := State.exec_fanStartTimeout hrun hst hver
    obtain ⟨hnow, hx, hothers⟩ := State.fanDue_moves (State.fanStartStep_keeps g) s g
      ((s.fanSt g).t0 + 1000000 * s.eget (fFanCfgTstart g))
    refine ⟨_, hexec, hnow, ?_, ?_, ?_, hothers, (execFanStartTimeout_keeps hexec).eta⟩ <;> rw [hx]
    · exact State.fanStartStep_pulse
    · exact fun hmark hi => State.fanStartStep_retry hmark hst hi
    · exact fun hmark hi hd => State.fanStartStep_verify hmark hst hver hi hd
  · have hexec := State.exec_fanPulseTimeout hrun hst hduty
    obtain ⟨hnow, hx, hothers⟩ := State.fanDue_moves (State.fanPulseStep_keeps g) s g ((s.fanSt g).pulseAt + 2000000)
    refine ⟨_, hexec, hnow, ?_, ?_, ?_, hothers, (execFanPulseTimeout_keeps hexec).eta⟩ <;> rw [hx]
    · exact State.fanPulseStep_pulse
    · exact fun heq hi => State.fanPulseStep_noPath heq hi
    · exact fun heq hi => State.fanPulseStep_path heq hst hi
  · have hexec := State.exec_retryOffEnd hrun hst
    obtain ⟨hnow, hx, hothers⟩ := State.fanDue_moves (State.fanOffStep_keeps g) s g ((s.fanSt g).t0 + 5000000)
    obtain ⟨hkick, hatt⟩ := State.fanOffStep_kick (g := g) (s := s.at_ ((s.fanSt g).t0 + 5000000)) (cnt := s.tachCnt g) hst
    exact ⟨_, hexec, hnow, by rw [hx, hkick], by rw [hx, hatt], hothers, (execRetryOffEnd_keeps hexec).eta⟩
  · have hexec := State.exec_kickEnd hrun hst
    obtain ⟨hnow, hx, hothers⟩ := State.fanDue_moves (State.fanKickStep_keeps g) s g ((s.fanSt g).t0 + 2000000)
    refine ⟨_, hexec, hnow, ?_, ?_, ?_, hothers, (execKickEnd_keeps hexec).eta⟩ <;> rw [hx]
    · exact State.fanKickStep_pulse
    · exact fun hmark hatt => State.fanKickStep_again hmark hst hatt
    · exact State.fanKickStep_blocked

end Sys2Proof.Machine
end

section
/-! PROOFS. What the operations of the parameter store make of its state and of its registers (R275–R277, R284, R285). -/
namespace Sys2Proof.Machine
namespace State

variable (s : State)

/-! ### Fields and words -/

theorem get_setB_ne {f g : Field} (b : Bool) (h : apart f g = true) : (s.setB f b).get g = s.get g := get_set_ne s _ h

theorem get_irq_ne {f : Field} {p : Nat} (k : Nat) (h : f.addr ≠ rIrqStat p) : (s.irq p k).get f = s.get f :=
  get_of_word (word_irq_ne s p k h)

theorem get_blkErr_ne {f : Field} {p : Nat} (c : Nat) (wr : Bool) (o : Nat) (h : f.addr ≠ rBlkErr p) :
    (s.blkErr p c wr o).get f = s.get f := get_of_word (word_blkErr_ne s p c wr o h)

theorem get_raise {f : Field} (c i : Nat) (k : FClass) (h : f.addr / 0x1000 ≠ 0x88) : (s.raise c i k).get f = s.get f :=
  get_of_word (raise_word s c i k h)

theorem get_account (q : Port) {f : Field} (h : f.addr ≠ rHostXactCnt) : (s.account q).get f = s.get f :=
  get_of_word (account_word s q h)

/-- BLK_ERR shows the cause of the error it records (R56). -/
theorem blkErr_cause (p c : Nat) (wr : Bool) (o : Nat) : bitsOf ((s.blkErr p c wr o).word (rBlkErr p)) 16 8 = c % 256 := by
  have hword : (s.blkErr p c wr o).word (rBlkErr p) = BitVec.ofNat 32
      (0x80000000 + (if wr then 0x40000000 else 0) + 0x10000 * (c % 256) + o % 0x1000 / 4 * 4) := word_setWord_self _ _ _
  rw [hword]
  unfold bitsOf ones
  have hmask : (BitVec.ofNat 32 (2 ^ 8 - 1)).toNat = 2 ^ 8 - 1 := rfl
  rw [BitVec.toNat_and, BitVec.toNat_ushiftRight, hmask, Nat.and_two_pow_sub_one_eq_mod, BitVec.toNat_ofNat, Nat.shiftRight_eq_div_pow]
  split <;> omega

/-! ### The faces of STATUS -/

@[simp] theorem storeFaces_sto : s.storeFaces.sto = s.sto := (storeFaces_keeps (Keeps.refl 0x4 s) rfl).sto_eq rfl

/-- The faces of the store are five fields; another field reads as before. -/
theorem storeFaces_get {f : Field} (hbusy : apart fStoreStatusBusy f = true) (hq : apart fStoreStatusQdepth f = true)
    (hpage : apart fStoreStatusPage f = true) (harm : apart fStoreStatusBpArmed f = true)
    (hstate : apart (fBlkState 0x70) f = true) : s.storeFaces.get f = s.get f := by
  unfold storeFaces
  rw [get_set_ne _ _ hstate, get_setB_ne _ _ harm]
  split <;> simp only [get_set_ne, get_setB_ne, hbusy, hq, hpage]

theorem storeFaces_word {a : Nat} (hs : a ≠ rStoreStatus) (hb : a ≠ rBlkStat 0x70) : s.storeFaces.word a = s.word a := by
  unfold storeFaces
  rw [word_set_ne _ _ _ hb, word_setB_ne _ _ _ hs]
  split <;> simp only [word_set_ne _ fStoreStatusQdepth _ hs, word_setB_ne _ fStoreStatusBusy _ hs, word_set_ne _ fStoreStatusPage _ hs]

theorem storeFaces_busy : s.storeFaces.bit fStoreStatusBusy = s.sto.cur.isSome := by
  have hself := bit_setB_self s fStoreStatusBusy s.sto.cur.isSome (by decide) (by decide)
  unfold bit at hself ⊢
  unfold storeFaces
  rw [get_set_ne _ _ (by decide), get_setB_ne _ _ (by decide)]
  split
  · rwa [get_set_ne _ _ (by decide), get_set_ne _ _ (by decide)]
  · rwa [get_set_ne _ _ (by decide)]

theorem storeFaces_bpArmed : s.storeFaces.bit fStoreStatusBpArmed = s.sto.armed.isSome := by
  unfold storeFaces bit
  rw [get_set_ne _ _ (by decide)]
  split <;> exact bit_setB_self _ fStoreStatusBpArmed s.sto.armed.isSome (by decide) (by decide)

/-! ### The staged buffer (R275) -/

theorem emptyBuffer_sto : s.emptyBuffer.sto = { s.sto with buf := [] } := rfl
theorem emptyBuffer_fill : s.emptyBuffer.get fStoreRunFillValue = 0 := by
  unfold emptyBuffer
  rw [get_set_ne _ _ (by decide)]
  exact (get_set_self _ _ _ (by decide)).trans (Nat.zero_mod _)
theorem emptyBuffer_crc : s.emptyBuffer.get fStoreRunCrcValue = 0xFFFFFFFF := get_set_self _ _ _ (by decide)
theorem emptyBuffer_word {a : Nat} (hf : a ≠ rStoreRunFill) (hc : a ≠ rStoreRunCrc) : s.emptyBuffer.word a = s.word a := by
  unfold emptyBuffer
  rw [word_set_ne _ _ _ hc, word_set_ne _ _ _ hf]
  rfl

theorem crc32_lt (bs : List Byte) : crc32 bs < 2 ^ 32 := BitVec.isLt _

theorem bufferFaces_sto : s.bufferFaces.sto = s.sto := (bufferFaces_keeps (Keeps.refl 0x2000000000004 s) rfl).sto_eq rfl
theorem bufferFaces_fill : s.bufferFaces.get fStoreRunFillValue = s.sto.buf.length % 2 ^ 32 := by
  have hfill (n : Nat) : (s.set fStoreRunFillValue n).get fStoreRunFillValue = n % 2 ^ 32 := get_set_self _ _ _ (by decide)
  unfold bufferFaces
  dsimp only
  split
  · rw [get_set_ne _ _ (by decide), hfill]
  · rw [get_set_ne _ _ (by decide)]
    exact hfill _
theorem bufferFaces_crc (h : s.get fStoreRunLenLen ≤ s.sto.buf.length) :
    s.bufferFaces.get fStoreRunCrcValue = crc32 (s.sto.buf.take (s.get fStoreRunLenLen)) := by
  unfold bufferFaces
  dsimp only
  rw [set_sto, if_pos h, get_set_self _ _ _ (by decide)]
  exact Nat.mod_eq_of_lt (crc32_lt _)

/-! ### Disarming (R285) -/

theorem storeDisarm_sto : s.storeDisarm.sto = { s.sto with armed := none, unlock1 := none } := storeFaces_sto _
theorem storeDisarm_word {a : Nat} (hs : a ≠ rStoreStatus) (hb : a ≠ rBlkStat 0x70) : s.storeDisarm.word a = s.word a :=
  storeFaces_word _ hs hb
theorem storeDisarm_bpArmed : s.storeDisarm.bit fStoreStatusBpArmed = false := storeFaces_bpArmed _

/-! ### A run starts or is refused (R276, R277, R284) -/

/-- A run that has started: its identity and its pages are known (R277). -/
def started (r : Run) : Run :=
  { r with id := (s.sto.runId + 1) % 2 ^ 32, total := runPages r.addr r.bytes.length, done := 0, tries := 0 }

theorem runStart_sto (r : Run) : (s.runStart r).sto = { s.sto with
    runId := (s.sto.runId + 1) % 2 ^ 32
    journal := some ((s.sto.runId + 1) % 2 ^ 32, r.addr, runPages r.addr r.bytes.length)
    cur := some (s.started r) } := storeFaces_sto _
theorem runStart_busy (r : Run) : (s.runStart r).bit fStoreStatusBusy = true := storeFaces_busy _
theorem runStart_total (r : Run) : (s.runStart r).get fStoreLastRunTotal = runPages r.addr r.bytes.length % 32 := by
  unfold runStart
  rw [storeFaces_get _ (by decide) (by decide) (by decide) (by decide) (by decide), get_set_ne _ _ (by decide),
    get_set_ne _ _ (by decide)]
  exact get_set_self _ _ _ (by decide)
theorem runStart_word {r : Run} {a : Nat} (hs : a ≠ rStoreStatus) (hb : a ≠ rBlkStat 0x70) (hl : a ≠ rStoreLastRun)
    (ha : a ≠ rStoreLastRunAddr) : (s.runStart r).word a = s.word a := by
  unfold runStart
  rw [storeFaces_word _ hs hb, word_set_ne _ _ _ ha, word_set_ne _ _ _ hl, word_set_ne _ _ _ hl, word_set_ne _ _ _ hl]
  rfl

section
variable (src : RunSrc) (addr len result cause off : Nat)

theorem runRefuse_sto : (s.runRefuse src addr len result cause off).sto = s.sto := rfl
theorem runRefuse_word {a : Nat} (hl : a ≠ rStoreLastRun) (ha : a ≠ rStoreLastRunAddr) (he : a ≠ rBlkErr 0x70)
    (hi : a ≠ rIrqStat 0x70) : (s.runRefuse src addr len result cause off).word a = s.word a := by
  unfold runRefuse
  rw [word_irq_ne _ _ _ hi, word_blkErr_ne _ _ _ _ _ he, word_set_ne _ _ _ ha, word_set_ne _ _ _ hl, word_set_ne _ _ _ hl,
    word_set_ne _ _ _ hl, word_set_ne _ _ _ hl]
theorem runRefuse_result : (s.runRefuse src addr len result cause off).get fStoreLastRunResult = result % 16 := by
  unfold runRefuse
  rw [get_irq_ne _ _ (by decide), get_blkErr_ne _ _ _ _ (by decide)]
  simp (disch := decide) only [get_set_ne]
  exact get_set_self _ _ _ (by decide)
theorem runRefuse_total : (s.runRefuse src addr len result cause off).get fStoreLastRunTotal = runPages addr len % 32 := by
  unfold runRefuse
  rw [get_irq_ne _ _ (by decide), get_blkErr_ne _ _ _ _ (by decide), get_set_ne _ _ (by decide), get_set_ne _ _ (by decide)]
  exact get_set_self _ _ _ (by decide)
theorem runRefuse_cause : bitsOf ((s.runRefuse src addr len result cause off).word (rBlkErr 0x70)) 16 8 = cause % 256 := by
  unfold runRefuse
  rw [word_irq_ne _ _ _ (by decide), blkErr_cause]
end

/-- Whether a run is barred is read off BP (R284). -/
theorem runBarred_congr {t : State} (h : t.get fStoreProtectBp = s.get fStoreProtectBp) (r : Run) : t.runBarred r = s.runBarred r := by
  unfold runBarred runProtected
  rw [h]

end State
end Sys2Proof.Machine
end

section
/-! PROOFS. A host write of one word to the STORE page: the register takes it, then it acts (R46, R284); and the account of a
transaction that reaches its words (R60–R62). -/
namespace Sys2Proof.Machine
namespace State

variable {s t u : State} {a : Nat} {w : Word}

/-! ### The account of the port -/

theorem regsOk_setWord (h : regsOk t.regs) (a : Nat) (w : Word) : regsOk (t.setWord a w).regs := Map.put_wf _ _ _ h

theorem account_keeps {m : Nat} (h : Keeps m s t) (hm : Keeps.sub 0x44 m = true) (q : Port) : Keeps m s (t.account q) := by
  refine h.step (n := m) (m := 0x44) ?_ hm
  exact Keeps.leaf (bumpWrap_keeps (f := fHostXactCntCount) (Keeps.refl 0x44 t) rfl) (h_port := Keeps.chg (by decide))

/-- After a transaction that touched the store and its page, only registers, port and store are other than before. -/
theorem account_store (h : Keeps 0x800044 s u) (q : Port) :
    u.account q = { s with regs := (u.account q).regs, port := (u.account q).port, sto := (u.account q).sto } :=
  (account_keeps h rfl q).eta

/-- A transaction whose code is OK, on a port where no reset waits, is what it did and the port's account of it (R60, R61). -/
theorem hostXact_answered {x : Xact} {ws : List Word} (hcore : s.boot.coreRst = false) (h : s.xactRun x = (0, ws, u))
    (hr : u.boot.cmdRst = none) : ∃ q : Port, q.resp = 0 ∧ s.hostXact x = u.account q := by
  refine ⟨{ u.port with
      resp := 0, hostStatus := some s.hostStatus, rdata := if xactOp x = 1 then ws else []
      rcrc := if xactOp x = 1 && s.bit fHostCfgCrcEn then some (crc16 (wordsBytes ws)) else none }, rfl, ?_⟩
  have hnone (v : State) (hv : v.boot = u.boot) : v.takeCmdReset = v := takeCmdReset_none (hv ▸ hr)
  unfold hostXact
  rw [hcore, h]
  exact hnone _ rfl

/-! ### Transactions that reach their words (R61, R62) -/

theorem XactOpen.cmdRst_none {x : Xact} (h : s.XactOpen x) : s.boot.cmdRst = none := h.2.1

theorem XactOpen.sizeOk {x : Xact} (h : s.XactOpen x) : sizeOk (xactStart x) (xactLen x) = true := h.2.2.2.1

theorem XactOpen.data_length {x : Xact} (h : s.XactOpen x) (ho : xactOp x ≠ 1) : x.data.length = xactLen x := by
  obtain ⟨-, -, ⟨-, -, hlen, -⟩, -⟩ := h
  exact hlen.resolve_left ho

/-- Nothing of R62 bars an open transaction that needs no authentication and whose mailbox, if it has one, has room. -/
theorem XactOpen.barred {x : Xact} (h : s.XactOpen x) (wr mail : Bool)
    (hmail : mail = true → isMailbox (xactStart x) = true ∧ s.mailboxRoom (xactStart x) (xactLen x) = true) :
    s.barred (xactStart x) (xactLen x) wr mail 0 = (none, s) := by
  obtain ⟨-, -, -, -, halign, haddr, hstore, hready, hgate⟩ := h
  have hmbx : (mail && !isMailbox (xactStart x)) = false := by
    cases mail
    · rfl
    · simp [(hmail rfl).1]
  have hroom : (mail && !s.mailboxRoom (xactStart x) (xactLen x)) = false := by
    cases mail
    · rfl
    · simp [(hmail rfl).2]
  unfold State.barred
  by_cases hw : winOf (xactStart x) = some 2
  · obtain ⟨hserved, hidle⟩ := hstore hw
    simp [halign, haddr, hmbx, hserved, hidle, hready, hroom, hgate]
  · simp [halign, haddr, hmbx, hw, hready, hroom, hgate]

/-- The bytes of an open transaction arrived whole and right (R58). -/
theorem XactOpen.complete {x : Xact} (h : s.XactOpen x) :
    x.whole = true ∧ (decide (xactOp x = 1) || decide (xactOp x = 2) || decide (xactOp x = 4)) = true
      ∧ (decide (xactOp x = 1) || decide (x.data.length = xactLen x)) = true
      ∧ (s.bit fHostCfgCrcEn && decide (crc16 (xactBytes x) ≠ x.crc.toNat)) = false := by
  obtain ⟨-, -, ⟨hwhole, hop, hlen, hcrc⟩, -⟩ := h
  refine ⟨hwhole, by simpa [or_assoc] using hop, by simpa using hlen, ?_⟩
  simpa using hcrc

/-- A WRITE to the store window that needs no authentication is a request for a run (R275). -/
theorem xactRun_window {x : Xact} (h : s.XactOpen x) (ho : xactOp x = 2) (hw : winOf (xactStart x) = some 2)
    (ha : s.authRequired = false) : s.xactRun x = (0, [], s.windowRun (xactStart x - 0x180000) x.data) := by
  obtain ⟨hwhole, -, -, hcrc⟩ := h.complete
  have hlen : x.data.length = xactLen x := h.data_length (by rw [ho]; decide)
  have hbar := h.barred true false (fun hm => absurd hm (by decide))
  have hepd : s.epdBars (xactStart x) x.data = none := by simp [epdBars, hw]
  have htxn : s.writeTxn {} (xactStart x) x.data false = (0, 0, s.windowRun (xactStart x - 0x180000) x.data) := by
    simp [writeTxn, hlen, hbar, hepd, hw]
  unfold xactRun
  simp [ho, hwhole, hlen, h.sizeOk, ha, htxn] at hcrc ⊢
  exact hcrc

/-- A MAILBOX push that the mailbox has room for is the push (R65). -/
theorem xactRun_mailbox {x : Xact} (h : s.XactOpen x) (ho : xactOp x = 4) (hm : isMailbox (xactStart x) = true)
    (hroom : s.mailboxRoom (xactStart x) (xactLen x) = true) : s.xactRun x = (0, [], s.mailPush (xactStart x) x.data) := by
  obtain ⟨hwhole, -, -, hcrc⟩ := h.complete
  have hlen : x.data.length = xactLen x := h.data_length (by rw [ho]; decide)
  have hbar := h.barred true true (fun _ => ⟨hm, hroom⟩)
  unfold xactRun
  simp [ho, hwhole, hlen, h.sizeOk, hbar] at hcrc ⊢
  exact hcrc

/-! ### A word written to a register of the STORE page -/

/-- What a register that held `old` reads after the word `w`, when it takes the bits of `m` (R46). -/
def masked (old w m : Word) : Word := (old &&& ~~~m) ||| (w &&& m)

/-- `v` is `s` after the register at `a` of the STORE page took a word and reads `new`; a reserved bit may have been recorded
in BLK_ERR, and the page's LOCK sequence has started anew (R46, R55). -/
structure TakesWord (s v : State) (a : Nat) (new : Word) : Prop where
  keeps : Keeps 0x44 s v
  word : ∀ b, b ≠ rBlkErr 0x70 → v.word b = if b = a then new else s.word b
  regs : regsOk s.regs → regsOk v.regs

namespace TakesWord
variable {v : State} {new : Word}

theorem sto_eq (h : TakesWord s v a new) : v.sto = s.sto := h.keeps.sto_eq rfl
theorem now_eq (h : TakesWord s v a new) : v.now = s.now := h.keeps.now_eq rfl

theorem get_eq (h : TakesWord s v a new) {f : Field} (hf : f.addr ≠ a) (he : f.addr ≠ rBlkErr 0x70) : v.get f = s.get f :=
  get_of_word ((h.word _ he).trans (if_neg hf))

/-- A register that takes no word: only its reserved bits are noted. -/
theorem noted (s : State) (a off : Nat) (known w : Word) :
    TakesWord s ((s.restartLock 0x70).noteReserved 0x70 off known w) a (s.word a) := by
  have hlock : Keeps 0x44 s (s.restartLock 0x70) := Keeps.leaf (Keeps.refl _ s) (h_port := Keeps.chg (by decide))
  unfold State.noteReserved
  split
  · refine ⟨blkErr_keeps hlock rfl, fun b hb => ?_, fun h => regsOk_setWord h _ _⟩
    rw [word_blkErr_ne _ _ _ _ _ hb]
    split
    · next hba => rw [hba]; rfl
    · rfl
  · refine ⟨hlock, fun b _ => ?_, id⟩
    split
    · next hba => rw [hba]; rfl
    · rfl

theorem setWord (h : TakesWord s v a new) (w : Word) : TakesWord s (v.setWord a w) a w := by
  obtain ⟨hk, hw, hr⟩ := h
  refine ⟨setWord_keeps hk rfl, fun b hb => ?_, fun hs => regsOk_setWord (hr hs) _ _⟩
  rw [word_setWord]
  split
  · rfl
  · next hba => rw [hw b hb, if_neg hba]
end TakesWord

/-- A word written to a register that a page has of its own, beyond the common ones (R46, R55). -/
theorem writeWord_own {p off : Nat} {b : Blk} (s : State) (w : Word) (hb : blkOfPage p = some b) (ho : 0x20 ≤ off) (hoff : off < 0x1000) :
    s.writeWord {} (0x1000 * p + off) w = (s.restartLock p).regWrite {} b p off w := by
  have hp := page_lt hb
  have hpage : (0x1000 * p + off) / 0x1000 = p := by omega
  have hmod : (0x1000 * p + off) % 0x1000 = off := by omega
  have hreg : ¬ 0x100000 ≤ 0x1000 * p + off := by omega
  have hlock : off ≠ 0x18 := by omega
  have hown : ¬ off < 0x20 := by omega
  simp only [writeWord, hpage, hmod, hreg, hb, hown, hlock, if_false]
  rfl

theorem blkOfPage_store : blkOfPage 0x70 = some .store := rfl

/-- Offsets of the registers of the STORE page that host software writes, but PROTECT: UNLOCK, RUN_ADDR, RUN_LEN, RUN_CTRL. -/
def isStoreOff (off : Nat) : Prop := off = 0x30 ∨ off = 0x34 ∨ off = 0x38 ∨ off = 0x3C

/-- No write of such a register but one of RUN_LEN beyond its range is refused (R276). -/
def storeRegFree (off : Nat) (w : Word) : Prop := off = 0x38 → bitsOf w 0 13 ≠ 0 ∧ bitsOf w 0 13 ≤ 4096

theorem wordRefuse_store (u : State) {off : Nat} (hlo : 0x20 ≤ off) (hhi : off < 0x1000) (hfree : storeRegFree off w) :
    u.wordRefuse (0x70000 + off) w true = none := by
  have hrange (h : off = 0x38) : ¬ (bitsOf w 0 13 = 0 ∨ 4096 < bitsOf w 0 13) := by have := hfree h; omega
  have hpage : (0x70000 + off) / 0x1000 = 0x70 ∧ (0x70000 + off) % 0x1000 = off ∧ ¬ 0x100000 ≤ 0x70000 + off ∧ ¬ off < 0x20 := by
    omega
  obtain ⟨hp, hoff, hwin, hown⟩ := hpage
  unfold wordRefuse
  simp only [hp, hoff, hwin, hown, blkOfPage_store, decide_false, Bool.or_self, Bool.false_eq_true, if_false]
  exact if_neg (by simpa using hrange)

/-- A word written to a register of the STORE page leaves its face there and then acts (R46). -/
theorem writeWord_store (s : State) (w : Word) {off : Nat} {d : RegDesc} (ho : isStoreOff off) (hfree : storeRegFree off w)
    (hd : descAt (0x70000 + off) = some d) (hrwl : d.rwl = 0) (hw1c : d.w1c = 0) :
    ∃ v, TakesWord s v (0x70000 + off) (masked (s.word (0x70000 + off)) w (BitVec.ofNat 32 d.rw))
      ∧ s.writeWord {} (0x70000 + off) w = (v.actsStore off w, false) := by
  have hoff : 0x20 ≤ off ∧ off < 0x1000 := by unfold isStoreOff at ho; omega
  have hreg := writeWord_own s w blkOfPage_store hoff.1 hoff.2
  have herr : 0x70000 + off ≠ rBlkErr 0x70 := by unfold isStoreOff at ho; unfold rBlkErr; omega
  have hacts (x : State) (old : Word) : x.wordActs {} (0x70000 + off) old w = x.actsStore off w := by
    rcases ho with rfl | rfl | rfl | rfl <;> rfl
  have hface : ∀ x : State, x.faceWrite (0x70000 + off) w false
      = x.setWord (0x70000 + off) (masked (x.word (0x70000 + off)) w (BitVec.ofNat 32 d.rw)) := by
    intro x
    have hmask : x.faceWrite (0x70000 + off) w false = x.maskWrite (0x70000 + off) w := by
      rcases ho with rfl | rfl | rfl | rfl <;> rfl
    simp [hmask, maskWrite, hd, writeMask, hrwl, masked]
  have hkind : isMailbox (0x70000 + off) = false ∧ pairLo (0x70000 + off) = false ∧ pairTakes (0x70000 + off) = false
      ∧ pairLo (0x70000 + off - 4) = false ∧ pairTakes (0x70000 + off - 4) = false := by
    rcases ho with rfl | rfl | rfl | rfl <;> exact ⟨rfl, rfl, rfl, rfl, rfl⟩
  have hother : 0x70000 + off ≠ rPdirStrmCfg ∧ 0x70000 + off ≠ rStoreProtect ∧ 0x70000 + off ≠ rLeveeSessCfg := by
    unfold isStoreOff at ho; unfold rPdirStrmCfg rStoreProtect rLeveeSessCfg; omega
  have hones (x : Word) : x &&& 4294967295#32 = x := BitVec.and_allOnes
  obtain ⟨hmail, hlo, htake, hlo', htake'⟩ := hkind
  obtain ⟨hstrm, hprot, hsess⟩ := hother
  have hfree' := wordRefuse_store (s.restartLock 0x70) hoff.1 hoff.2 hfree
  have hnote := TakesWord.noted s (0x70000 + off) off d.known w
  have hnew := hnote.setWord (masked (s.word (0x70000 + off)) w (BitVec.ofNat 32 d.rw))
  refine ⟨_, hnew.setWord _, hreg.trans ?_⟩
  rw [← (hnote.word _ herr).trans (if_pos rfl)]
  simp [regWrite, noteReserved, RegDesc.known, hd, hrwl, hw1c, hface, hfree', hmail, hlo, htake, hlo', htake', hstrm, hprot,
    hsess, hacts, hones]

theorem descAt_unlock : descAt rStoreUnlock = some ⟨0x030, 1, 0, 1, 0, 0x0, 0x0, 0x0, 0xFFFFFFFF, 0x0, 0x0⟩ := rfl
theorem descAt_runAddr : descAt rStoreRunAddr = some ⟨0x034, 1, 0, 1, 0, 0x3FFFF, 0x0, 0x0, 0x0, 0x0, 0x0⟩ := rfl
theorem descAt_runLen : descAt rStoreRunLen = some ⟨0x038, 1, 0, 1, 0, 0x1FFF, 0x0, 0x0, 0x0, 0x0, 0x1⟩ := rfl
theorem descAt_runCtrl : descAt rStoreRunCtrl = some ⟨0x03C, 1, 0, 1, 0, 0x0, 0x0, 0x0, 0x3, 0x0, 0x0⟩ := rfl

/-- A word written to PROTECT is judged whatever the page's LOCK is (R285). -/
theorem writeWord_protect (s : State) (w : Word) :
    ∃ v, TakesWord s v rStoreProtect (s.word rStoreProtect) ∧ s.writeWord {} rStoreProtect w = (v.protectWrite w, false) := by
  have hreg := writeWord_own (off := 0x2C) s w blkOfPage_store (by decide) (by decide)
  have hfree := wordRefuse_store (off := 0x2C) (w := w) (s.restartLock 0x70) (by decide) (by decide) (fun h => absurd h (by decide))
  have hdesc : descAt 0x7002C = some ⟨0x02C, 1, 0, 1, 0, 0x3, 0x0, 0x0, 0x0, 0x0, 0x1⟩ := rfl
  have hkind : isMailbox 0x7002C = false ∧ pairLo 0x7002C = false ∧ pairTakes 0x7002C = false ∧ pairLo (0x7002C - 4) = false
      ∧ pairTakes (0x7002C - 4) = false := ⟨rfl, rfl, rfl, rfl, rfl⟩
  have hother : 0x7002C ≠ rPdirStrmCfg ∧ rStoreProtect = 0x7002C := by decide
  obtain ⟨hmail, hlo, htake, hlo', htake'⟩ := hkind
  obtain ⟨hstrm, hprot⟩ := hother
  refine ⟨_, TakesWord.noted s rStoreProtect 0x2C (BitVec.ofNat 32 3) w, hreg.trans ?_⟩
  simp [regWrite, noteReserved, hdesc, hfree, hmail, hlo, htake, hlo', htake', hstrm, hprot]

end State
end Sys2Proof.Machine
end

section
/-! PROOFS. Host runs of the parameter store: a WRITE to its window, the staged buffer, GO and DISCARD (R275, R276, R284). -/
namespace Sys2Proof.Machine
namespace State

variable {s t u v : State} {a : Nat} {w : Word}

/-! ### Where a window WRITE may lie -/

theorem winOf_store (h : winOf a = some 2) : 0x180000 ≤ a ∧ a < 0x1C0000 := by
  unfold winOf at h
  repeat' split at h
  all_goals first | omega | exact absurd h (by simp)

theorem length_wordsBytes (ws : List Word) : (wordsBytes ws).length = 4 * ws.length := by
  induction ws with
  | nil => rfl
  | cons w ws ih =>
    have hword : (leBytes 4 w.toNat).length = 4 := rfl
    rw [wordsBytes, List.flatMap_cons, List.length_append, hword, ← wordsBytes, ih, List.length_cons]
    omega

/-- The words of an open WRITE to the store window end inside the window (R45). -/
theorem XactOpen.window_end {x : Xact} (h : s.XactOpen x) (ho : xactOp x = 2) (hw : winOf (xactStart x) = some 2) :
    xactStart x - 0x180000 + (wordsBytes x.data).length ≤ 0x40000 := by
  have hsize := h.sizeOk
  have hlen : x.data.length = xactLen x := h.data_length (by rw [ho]; decide)
  have hpos : 0 < xactLen x := Nat.two_pow_pos _
  obtain ⟨hlo, hhi⟩ := winOf_store hw
  have hpage : ¬ xactStart x < 0x100000 := by omega
  have hend : winOf (xactStart x + 4 * xactLen x - 1) = some 2 := by
    simp [Machine.sizeOk, hpage, hw] at hsize
    exact hsize.1
  have := winOf_store hend
  rw [length_wordsBytes, hlen]
  omega

/-! ### A WRITE to the window (R275, R276) -/

/-- The run that a WRITE of the words `ws` to the address `addr` of the store asks for (R275). -/
def windowReq (addr : Nat) (ws : List Word) : Run := { src := .window, addr := addr, bytes := wordsBytes ws }

theorem windowRun_eq (s : State) {addr : Nat} {ws : List Word} (h : addr + (wordsBytes ws).length ≤ 0x40000) :
    s.windowRun addr ws = if s.runBarred (windowReq addr ws) then s.runRefuse .window addr (wordsBytes ws).length 6 0x41 addr
      else s.runStart (windowReq addr ws) := if_neg (by omega)

/-- R275, R276: a WRITE to the window starts a run, or is refused with PROTECTED and still ends with OK. -/
theorem exec_storeWindowWrite_open (s : State) (x : Xact) (h : s.XactOpen x) (ho : xactOp x = 2)
    (hw : winOf (xactStart x) = some 2) (ha : s.authRequired = false) :
    ∃ t, exec (.storeWindowWrite x) s = .next t
      ∧ t.port.resp = 0
      ∧ t.get fStoreLastRunTotal = runPages (xactStart x - 0x180000) (wordsBytes x.data).length % 32
      ∧ (s.runBarred (windowReq (xactStart x - 0x180000) x.data) = false →
          t.sto = (s.runStart (windowReq (xactStart x - 0x180000) x.data)).sto ∧ t.bit fStoreStatusBusy = true)
      ∧ (s.runBarred (windowReq (xactStart x - 0x180000) x.data) = true →
          t.sto = s.sto ∧ t.get fStoreLastRunResult = 6 ∧ bitsOf (t.word (rBlkErr 0x70)) 16 8 = 0x41)
      ∧ t = { s with regs := t.regs, port := t.port, sto := t.sto } := by
  have hrun := xactRun_window h ho hw ha
  have hK : Keeps 0x800044 s (s.windowRun (xactStart x - 0x180000) x.data) := windowRun_keeps (Keeps.refl _ s) rfl
  have heq := windowRun_eq s (h.window_end ho hw)
  generalize xactStart x - 0x180000 = addr at *
  obtain ⟨q, hq, he⟩ := hostXact_answered h.1 hrun ((congrArg Boot.cmdRst (hK.boot_eq rfl)).trans h.cmdRst_none)
  have hexec : exec (.storeWindowWrite x) s = .next ((s.windowRun addr x.data).account q) := by
    rw [← he, exec, execStoreWindowWrite, if_pos (by simp [ho, hw])]
  refine ⟨_, hexec, hq, ?_, fun hopen => ?_, fun hbar => ?_, account_store hK q⟩
  · rw [get_account _ _ (by decide), heq]
    split
    · exact runRefuse_total ..
    · exact runStart_total ..
  · rw [heq, hopen, if_neg Bool.false_ne_true, bit, get_account _ _ (by decide)]
    exact ⟨account_sto _ _, runStart_busy ..⟩
  · rw [heq, hbar, if_pos rfl, get_account _ _ (by decide), account_word _ _ (by decide), account_sto]
    refine ⟨runRefuse_sto .., ?_, ?_⟩
    · rw [runRefuse_result]
    · rw [runRefuse_cause]

end State
end Sys2Proof.Machine
end

section
/-! PROOFS. The staged buffer of the parameter store and its run (R275, R276, R284). -/
namespace Sys2Proof.Machine

/-! ### A field of a register that took a word -/

theorem bitsOf_zero (w : Word) {n : Nat} (h : n ≤ 32) : bitsOf w 0 n = w.toNat % 2 ^ n := by
  apply Nat.eq_of_testBit_eq
  intro i
  rw [bitsOf_testBit _ _ _ _ (by omega), Nat.testBit_mod_two_pow, Nat.zero_add, BitVec.testBit_toNat]

/-- An address of the store whose reserved bits are 0 (R275). -/
theorem toNat_lt_of_reserved {addr : Word} (h : addr &&& 0xFFFC0000#32 = 0) : addr.toNat < 2 ^ 18 := by
  have hlow : addr = addr &&& 0x3FFFF#32 := by
    calc addr = addr &&& (0xFFFC0000#32 ||| 0x3FFFF#32) := BitVec.and_allOnes.symm
      _ = (addr &&& 0xFFFC0000#32) ||| (addr &&& 0x3FFFF#32) := by
        ext i; simp only [BitVec.getElem_and, BitVec.getElem_or, Bool.and_or_distrib_left]
      _ = addr &&& 0x3FFFF#32 := by rw [h]; exact BitVec.zero_or
  rw [hlow, BitVec.toNat_and]
  exact Nat.lt_of_le_of_lt Nat.and_le_right (by decide)

namespace State

variable {s t u v : State} {a off : Nat} {w : Word}

/-- The low bits that a register takes read as in the word. -/
theorem bitsOf_masked (old w : Word) {n : Nat} (h : n ≤ 32) : bitsOf (masked old w (BitVec.ofNat 32 (2 ^ n - 1))) 0 n = bitsOf w 0 n := by
  apply Nat.eq_of_testBit_eq
  intro i
  rw [bitsOf_testBit _ _ _ _ (by omega), bitsOf_testBit _ _ _ _ (by omega)]
  by_cases hi : i < n
  · have h32 : i < 32 := by omega
    simp only [masked, BitVec.getLsbD_or, BitVec.getLsbD_and, BitVec.getLsbD_not, BitVec.getLsbD_ofNat, Nat.zero_add,
      Nat.testBit_two_pow_sub_one, hi, h32, decide_true, Bool.and_true, Bool.not_true, Bool.and_false, Bool.false_or, Bool.true_and]
  · simp only [hi, decide_false, Bool.false_and]

/-! ### Host writes of the STORE page -/

/-- A host write that touches the store and its page is the word's effect and the port's account of it. -/
theorem hostWrite_store (h : s.HostOpen a w) (hw : s.writeWord {} a w = (u, false)) (hK : Keeps 0x800044 s u) :
    ∃ q : Port, q.resp = 0 ∧ s.hostWrite a w = u.account q := by
  obtain ⟨q, hq, -, he⟩ := hostWrite_answered h hw ((congrArg Boot.cmdRst (hK.boot_eq rfl)).trans h.cmdRst_none)
  exact ⟨q, hq, he⟩

theorem actsStore_setup (s : State) (w : Word) (ho : off = 0x34 ∨ off = 0x38) :
    s.actsStore off w = s.storeDisarm.emptyBuffer := by rcases ho with rfl | rfl <;> rfl
theorem actsStore_discard (s : State) : s.actsStore 0x3C 2#32 = s.storeDisarm.emptyBuffer := rfl
theorem actsStore_go (s : State) : s.actsStore 0x3C 1#32 = s.storeDisarm.runGo none := rfl

/-- The words that a write to RUN_ADDR, RUN_LEN or RUN_CTRL.DISCARD changes beside its own register. -/
def bufferWords (b : Nat) : Bool :=
  b == rStoreStatus || b == rBlkStat 0x70 || b == rBlkErr 0x70 || b == rStoreRunFill || b == rStoreRunCrc || b == rHostXactCnt

/-- What a write to RUN_ADDR or RUN_LEN, or DISCARD, makes of `s`: the staged buffer is empty, the arming has ended, and the
register at `a` reads `new` (R275, R285). -/
structure EmptiesBuffer (s t : State) (a : Nat) (new : Word) : Prop where
  keeps : Keeps 0x800044 s t
  resp : t.port.resp = 0
  sto : t.sto = { s.sto with buf := [], armed := none, unlock1 := none }
  fill : t.get fStoreRunFillValue = 0
  crc : t.get fStoreRunCrcValue = 0xFFFFFFFF
  word : ∀ b, bufferWords b = false → t.word b = if b = a then new else s.word b
  gated : t.get (fBlkGated 0x70) = s.get (fBlkGated 0x70)
  regs : regsOk s.regs → regsOk t.regs

theorem storeDisarm_regsOk (h : regsOk s.regs) : regsOk s.storeDisarm.regs := by
  unfold storeDisarm storeFaces
  refine regsOk_setWord (regsOk_setWord ?_ _ _) _ _
  split
  · exact regsOk_setWord (regsOk_setWord (regsOk_setWord h _ _) _ _) _ _
  · exact regsOk_setWord (regsOk_setWord h _ _) _ _

/-- A state that took a word and then empties the staged buffer. -/
theorem TakesWord.emptiesBuffer {new : Word} (h : TakesWord s v a new) (ha : a / 0x1000 = 0x70 ∧ 0x20 ≤ a % 0x1000)
    {q : Port} (hq : q.resp = 0) : EmptiesBuffer s (v.storeDisarm.emptyBuffer.account q) a new where
  keeps := account_keeps (emptyBuffer_keeps (storeDisarm_keeps (h.keeps.mono rfl) rfl) rfl) rfl q
  resp := hq
  sto := by rw [account_sto, emptyBuffer_sto, storeDisarm_sto, h.sto_eq]
  fill := by rw [get_account _ _ (by decide), emptyBuffer_fill]
  crc := by rw [get_account _ _ (by decide), emptyBuffer_crc]
  word := by
    intro b hb
    simp only [bufferWords, Bool.or_eq_false_iff, beq_eq_false_iff_ne] at hb
    obtain ⟨⟨⟨⟨⟨hs, hstat⟩, herr⟩, hf⟩, hc⟩, hx⟩ := hb
    rw [account_word _ _ hx, emptyBuffer_word _ hf hc, storeDisarm_word _ hs hstat, h.word b herr]
  gated := by
    have hown : rBlkStat 0x70 ≠ a := by rintro rfl; exact absurd ha.2 (by decide)
    have hface := storeFaces_get (f := fBlkGated 0x70) (v.updSto (fun x => { x with armed := none, unlock1 := none }))
      (by decide) (by decide) (by decide) (by decide) (by decide)
    rw [get_account _ _ (by decide), get_of_word (emptyBuffer_word _ (by decide) (by decide)), storeDisarm, hface]
    exact h.get_eq hown (by decide)
  regs := fun hr => regsOk_setWord (regsOk_setWord (regsOk_setWord (storeDisarm_regsOk (h.regs hr)) _ _) _ _) _ _

theorem EmptiesBuffer.get_eq {new : Word} (h : EmptiesBuffer s t a new) {f : Field} (hf : f.addr ≠ a)
    (hb : bufferWords f.addr = false) : t.get f = s.get f := get_of_word ((h.word _ hb).trans (if_neg hf))
theorem EmptiesBuffer.get_self {new : Word} (h : EmptiesBuffer s t a new) {f : Field} (hf : f.addr = a)
    (hb : bufferWords a = false) : t.get f = bitsOf new f.lsb f.width := by
  unfold get
  rw [hf, h.word _ hb, if_pos rfl]

/-- A write to RUN_ADDR or RUN_LEN. -/
theorem hostWrite_setup {d : RegDesc} {m : Word} (ha : a = 0x70000 + off) (h : s.HostOpen a w) (ho : off = 0x34 ∨ off = 0x38)
    (hfree : storeRegFree off w) (hd : descAt a = some d) (hrw : BitVec.ofNat 32 d.rw = m) (hrwl : d.rwl = 0) (hw1c : d.w1c = 0) :
    EmptiesBuffer s (s.hostWrite a w) a (masked (s.word a) w m) := by
  subst ha hrw
  have hoff : isStoreOff off := by unfold isStoreOff; omega
  obtain ⟨v, hv, hw⟩ := writeWord_store s w hoff hfree hd hrwl hw1c
  rw [actsStore_setup v w ho] at hw
  obtain ⟨q, hq, he⟩ := hostWrite_store h hw (emptyBuffer_keeps (storeDisarm_keeps (hv.keeps.mono rfl) rfl) rfl)
  rw [he]
  exact hv.emptiesBuffer (by omega) hq

theorem hostWrite_runAddr (h : s.HostOpen rStoreRunAddr w) :
    EmptiesBuffer s (s.hostWrite rStoreRunAddr w) rStoreRunAddr (masked (s.word rStoreRunAddr) w (BitVec.ofNat 32 (2 ^ 18 - 1))) :=
  hostWrite_setup (off := 0x34) rfl h (.inl rfl) (fun hoff => absurd hoff (by decide)) descAt_runAddr rfl rfl rfl
theorem hostWrite_runLen (h : s.HostOpen rStoreRunLen w) (hw : bitsOf w 0 13 ≠ 0 ∧ bitsOf w 0 13 ≤ 4096) :
    EmptiesBuffer s (s.hostWrite rStoreRunLen w) rStoreRunLen (masked (s.word rStoreRunLen) w (BitVec.ofNat 32 (2 ^ 13 - 1))) :=
  hostWrite_setup (off := 0x38) rfl h (.inr rfl) (fun _ => hw) descAt_runLen rfl rfl rfl

theorem notReady_store (s : State) {off : Nat} (ho : 0x20 ≤ off ∧ off < 0x1000) :
    s.notReady (0x70000 + off) 1 = (s.bit fClkStatSafeRosc || (s.softRst.lookup 0x70).isSome) := by
  have hp : (0x70000 + off) / 0x1000 = 0x70 ∧ (0x70000 + off) % 0x1000 = off ∧ 0x70000 + off < 0x100000 := by omega
  obtain ⟨hpage, hoff, hreg⟩ := hp
  have hown : decide (0x20 ≤ off + 4 * 1 - 4) = true := decide_eq_true (by omega)
  have hcontains : [0x00, 0x02, 0x88].contains 0x70 = false ∧ [0x00, 0x02, 0x04, 0x70, 0x71, 0x72, 0x80, 0x88].contains 0x70 = true := by
    decide
  obtain ⟨hrosc, hearly⟩ := hcontains
  unfold notReady earlyAnswers
  rw [hpage, hoff, if_pos hreg, hearly, hrosc, hown]
  cases s.bit fClkStatSafeRosc <;> simp [hreg]

/-- After a write to RUN_ADDR, RUN_LEN is open to a write. -/
theorem EmptiesBuffer.runLen_open {new : Word} (h : EmptiesBuffer s t rStoreRunAddr new) (hs : s.HostOpen rStoreRunAddr w) (len : Word) :
    t.HostOpen rStoreRunLen len := by
  obtain ⟨hcore, hcmd, -, -, -, hready, hgate, -, hregs⟩ := hs
  have hboot : t.boot = s.boot := h.keeps.boot_eq rfl
  have hsafe : t.bit fClkStatSafeRosc = s.bit fClkStatSafeRosc := by
    unfold bit
    rw [h.get_eq (by decide) (by decide)]
  have hgated : t.bit (fBlkGated 0x70) = s.bit (fBlkGated 0x70) := by
    unfold bit
    rw [h.gated]
  refine ⟨hboot ▸ hcore, hboot ▸ hcmd, by decide, by decide, rfl, ?_, ?_, fun _ => rfl, h.regs hregs⟩
  · have hr := notReady_store s (off := 0x34) (by decide)
    have hr' := notReady_store t (off := 0x38) (by decide)
    rw [hsafe, h.keeps.softRst_eq rfl] at hr'
    exact hr'.trans (hr.symm.trans hready)
  · have hg : s.gatedAt rStoreRunAddr 1 = (s.bit (fBlkGated 0x70) && true) := rfl
    have hg' : t.gatedAt rStoreRunLen 1 = (t.bit (fBlkGated 0x70) && true) := rfl
    rw [hg', hgated, ← hg, hgate]

/-- R275: RUN_ADDR, then RUN_LEN written: the buffer is empty and the registers hold what was written. -/
theorem exec_runSetup_open (s : State) (addr len : Word) (h : s.HostOpen rStoreRunAddr addr) (haddr : addr &&& 0xFFFC0000#32 = 0)
    (hmin : 1 ≤ len.toNat) (hmax : len.toNat ≤ 4096) :
    ∃ t, exec (.runSetup addr len) s = .next t
      ∧ t.get fStoreRunAddrAddr = addr.toNat ∧ t.get fStoreRunLenLen = len.toNat
      ∧ t.get fStoreRunFillValue = 0 ∧ t.sto = { s.sto with buf := [], armed := none, unlock1 := none }
      ∧ t.port.resp = 0 ∧ t = { s with regs := t.regs, port := t.port, sto := t.sto } := by
  have h1 := hostWrite_runAddr h
  have hlen : bitsOf len 0 13 = len.toNat := by
    rw [bitsOf_zero _ (by decide)]
    exact Nat.mod_eq_of_lt (by omega)
  have h2 := hostWrite_runLen (h1.runLen_open h len) (by omega)
  refine ⟨_, rfl, ?_, ?_, h2.fill, ?_, h2.resp, (h1.keeps.trans h2.keeps).eta⟩
  · rw [h2.get_eq (by decide) (by decide), h1.get_self rfl (by decide)]
    exact ((bitsOf_masked _ _ (n := 18) (by decide)).trans (bitsOf_zero _ (by decide))).trans
      (Nat.mod_eq_of_lt (toNat_lt_of_reserved haddr))
  · rw [h2.get_self rfl (by decide)]
    exact (bitsOf_masked _ _ (n := 13) (by decide)).trans hlen
  · rw [h2.sto, h1.sto]

/-- R275: RUN_CTRL.DISCARD empties the staged buffer. -/
theorem exec_runDiscard_open (s : State) (h : s.HostOpen rStoreRunCtrl 2#32) :
    ∃ t new, exec .runDiscard s = .next t ∧ EmptiesBuffer s t rStoreRunCtrl new := by
  obtain ⟨v, hv, hw⟩ := writeWord_store (off := 0x3C) s 2#32 (by simp [isStoreOff]) (fun hoff => absurd hoff (by decide))
    descAt_runCtrl rfl rfl
  rw [actsStore_discard] at hw
  obtain ⟨q, hq, he⟩ := hostWrite_store h hw (emptyBuffer_keeps (storeDisarm_keeps (hv.keeps.mono rfl) rfl) rfl)
  exact ⟨_, _, congrArg Host.Outcome.next he, hv.emptiesBuffer (by decide) hq⟩

end State
end Sys2Proof.Machine
end

section
/-! PROOFS. Pushes to the staged buffer, and GO (R275, R276, R284). -/
namespace Sys2Proof.Machine
namespace State

variable {s t u v : State} {a off : Nat} {w : Word}

/-! ### A push (R275) -/

theorem runPush_sto (s : State) (ws : List Word) : (s.runPush ws).sto = { s.sto with buf := s.sto.buf ++ wordsBytes ws } :=
  bufferFaces_sto _
theorem runPush_fill (s : State) (ws : List Word) :
    (s.runPush ws).get fStoreRunFillValue = (s.sto.buf ++ wordsBytes ws).length % 2 ^ 32 := bufferFaces_fill _
theorem runPush_crc (s : State) (ws : List Word) (h : s.get fStoreRunLenLen ≤ (s.sto.buf ++ wordsBytes ws).length) :
    (s.runPush ws).get fStoreRunCrcValue = crc32 ((s.sto.buf ++ wordsBytes ws).take (s.get fStoreRunLenLen)) :=
  bufferFaces_crc (s.updSto (fun t => { t with buf := t.buf ++ wordsBytes ws })) h

/-- After a transaction that filled the staged buffer, only registers, port, store and the counter of free values are other
than before. -/
theorem account_push (h : Keeps 0x2000000800044 s u) (q : Port) :
    u.account q = { s with
      regs := (u.account q).regs, port := (u.account q).port, sto := (u.account q).sto, fresh := (u.account q).fresh } :=
  (account_keeps h rfl q).eta

/-- R275: a MAILBOX push to RUN_MBX that fits fills the staged buffer. -/
theorem exec_storeRunPush_open (s : State) (x : Xact) (h : s.XactOpen x) (ho : xactOp x = 4) (ha : xactStart x = rStoreRunMbx)
    (hroom : s.runCanPush (xactLen x) = true) :
    ∃ t, exec (.storeRunPush x) s = .next t
      ∧ t.port.resp = 0 ∧ t.sto = { s.sto with buf := s.sto.buf ++ wordsBytes x.data }
      ∧ t.get fStoreRunFillValue = (s.sto.buf ++ wordsBytes x.data).length % 2 ^ 32
      ∧ (s.get fStoreRunLenLen ≤ t.sto.buf.length → t.get fStoreRunCrcValue = crc32 (t.sto.buf.take (s.get fStoreRunLenLen)))
      ∧ t = { s with regs := t.regs, port := t.port, sto := t.sto, fresh := t.fresh } := by
  have hmail : isMailbox (xactStart x) = true := by rw [ha]; rfl
  have hbox : s.mailboxRoom (xactStart x) (xactLen x) = s.runCanPush (xactLen x) := by rw [ha]; rfl
  have hpush : s.mailPush (xactStart x) x.data = s.runPush x.data := by rw [ha]; rfl
  have hrun := xactRun_mailbox h ho hmail (hbox.trans hroom)
  rw [hpush] at hrun
  have hK : Keeps 0x2000000800044 s (s.runPush x.data) := runPush_keeps (Keeps.refl _ s) rfl
  obtain ⟨q, hq, he⟩ := hostXact_answered h.1 hrun ((congrArg Boot.cmdRst (hK.boot_eq rfl)).trans h.cmdRst_none)
  have hexec : exec (.storeRunPush x) s = .next ((s.runPush x.data).account q) := by
    rw [← he, exec, execStoreRunPush, if_pos (by simp [ho, ha])]
  refine ⟨_, hexec, hq, runPush_sto s x.data, ?_, fun hlen => ?_, account_push hK q⟩
  · rw [get_account _ _ (by decide), runPush_fill]
  · rw [account_sto, runPush_sto] at hlen ⊢
    rw [get_account _ _ (by decide), runPush_crc s x.data hlen]

/-! ### GO (R276) -/

/-- The staged run that RUN_ADDR, RUN_LEN and the buffer describe (R275). -/
def stagedReq (s : State) : Run :=
  { src := .staged, addr := s.get fStoreRunAddrAddr, bytes := s.sto.buf.take (s.get fStoreRunLenLen) }
/-- GO is refused with a LAST_RUN code and a cause (R276). -/
def goRefuse (s : State) (result cause : Nat) : State :=
  s.runRefuse .staged (s.get fStoreRunAddrAddr) (s.get fStoreRunLenLen) result cause 0x3C

/-- GO by host software: the refusals in their order, else the run starts (R276). -/
theorem runGo_eq (s : State) : s.runGo none =
    if 0x40000 < s.get fStoreRunAddrAddr + s.get fStoreRunLenLen then s.goRefuse 5 0x40
    else if (s.sto.cur.isSome || !s.sto.served) = true then s.goRefuse 7 0x42
    else if s.sto.buf.length < s.get fStoreRunLenLen then s.goRefuse 9 0x45
    else if s.runBarred s.stagedReq = true then s.goRefuse 6 0x41 else s.runStart s.stagedReq := by
  unfold runGo
  dsimp only
  rw [if_neg Bool.false_ne_true]
  rfl

/-- What GO did, read off the state it leaves. -/
structure GoRefused (s t : State) (result cause : Nat) : Prop where
  sto : t.sto = s.sto
  result : t.get fStoreLastRunResult = result
  cause : bitsOf (t.word (rBlkErr 0x70)) 16 8 = cause

theorem goRefuse_refused (s : State) {result cause : Nat} (hr : result < 16) (hc : cause < 256) :
    GoRefused s (s.goRefuse result cause) result cause :=
  ⟨runRefuse_sto .., (runRefuse_result ..).trans (Nat.mod_eq_of_lt hr), (runRefuse_cause ..).trans (Nat.mod_eq_of_lt hc)⟩

section
variable (hr : s.get fStoreRunAddrAddr + s.get fStoreRunLenLen ≤ 0x40000)
include hr

theorem runGo_busy (h : s.sto.cur.isSome ∨ s.sto.served = false) : GoRefused s (s.runGo none) 7 0x42 := by
  rw [runGo_eq, if_neg (by omega), if_pos (by simpa using h)]
  exact goRefuse_refused s (by decide) (by decide)

theorem runGo_short (hc : s.sto.cur = none) (hv : s.sto.served = true) (h : s.sto.buf.length < s.get fStoreRunLenLen) :
    GoRefused s (s.runGo none) 9 0x45 := by
  rw [runGo_eq, if_neg (by omega), if_neg (by simp [hc, hv]), if_pos h]
  exact goRefuse_refused s (by decide) (by decide)

theorem runGo_barred (hc : s.sto.cur = none) (hv : s.sto.served = true) (hl : s.get fStoreRunLenLen ≤ s.sto.buf.length)
    (h : s.runBarred s.stagedReq = true) : GoRefused s (s.runGo none) 6 0x41 := by
  rw [runGo_eq, if_neg (by omega), if_neg (by simp [hc, hv]), if_neg (by omega), if_pos h]
  exact goRefuse_refused s (by decide) (by decide)

theorem runGo_starts (hc : s.sto.cur = none) (hv : s.sto.served = true) (hl : s.get fStoreRunLenLen ≤ s.sto.buf.length)
    (h : s.runBarred s.stagedReq = false) : s.runGo none = s.runStart s.stagedReq := by
  rw [runGo_eq, if_neg (by omega), if_neg (by simp [hc, hv]), if_neg (by omega), h, if_neg Bool.false_ne_true]
end

theorem runGo_range (h : 0x40000 < s.get fStoreRunAddrAddr + s.get fStoreRunLenLen) : GoRefused s (s.runGo none) 5 0x40 := by
  rw [runGo_eq, if_pos h]
  exact goRefuse_refused s (by decide) (by decide)

/-- Nothing is programmed where a condition of GO fails. -/
theorem runGo_sto (h : ¬ (s.get fStoreRunAddrAddr + s.get fStoreRunLenLen ≤ 0x40000 ∧ s.sto.cur = none ∧ s.sto.served = true
      ∧ s.get fStoreRunLenLen ≤ s.sto.buf.length ∧ s.runBarred s.stagedReq = false)) : (s.runGo none).sto = s.sto := by
  by_cases hr : 0x40000 < s.get fStoreRunAddrAddr + s.get fStoreRunLenLen
  · exact (runGo_range hr).sto
  replace hr := Nat.le_of_not_lt hr
  by_cases hb : s.sto.cur.isSome ∨ s.sto.served = false
  · exact (runGo_busy hr hb).sto
  have hidle : s.sto.cur = none ∧ s.sto.served = true := by simpa using hb
  obtain ⟨hc, hv⟩ := hidle
  by_cases hl : s.sto.buf.length < s.get fStoreRunLenLen
  · exact (runGo_short hr hc hv hl).sto
  replace hl := Nat.le_of_not_lt hl
  cases hbar : s.runBarred s.stagedReq with
  | true => exact (runGo_barred hr hc hv hl hbar).sto
  | false => exact absurd ⟨hr, hc, hv, hl, hbar⟩ h

/-- The state that GO finds: RUN_CTRL has taken its word and the arming has ended. -/
structure GoesFrom (s d : State) : Prop where
  keeps : Keeps 0x800044 s d
  sto : d.sto = { s.sto with armed := none, unlock1 := none }
  addr : d.get fStoreRunAddrAddr = s.get fStoreRunAddrAddr
  len : d.get fStoreRunLenLen = s.get fStoreRunLenLen
  bp : d.get fStoreProtectBp = s.get fStoreProtectBp

theorem GoesFrom.stagedReq {d : State} (h : GoesFrom s d) : d.stagedReq = s.stagedReq := by
  unfold State.stagedReq
  rw [h.addr, h.len, h.sto]

theorem GoesFrom.runBarred {d : State} (h : GoesFrom s d) : d.runBarred d.stagedReq = s.runBarred s.stagedReq := by
  rw [h.stagedReq]
  exact runBarred_congr s h.bp _

/-- A write of RUN_CTRL.GO is the GO of such a state, and the port's account of it. -/
theorem exec_runGo_open (h : s.HostOpen rStoreRunCtrl 1#32) :
    ∃ d q, GoesFrom s d ∧ q.resp = 0 ∧ exec .runGo s = .next ((d.runGo none).account q) := by
  obtain ⟨v, hv, hw⟩ := writeWord_store (off := 0x3C) s 1#32 (by simp [isStoreOff]) (fun hoff => absurd hoff (by decide))
    descAt_runCtrl rfl rfl
  rw [actsStore_go] at hw
  have hK : Keeps 0x800044 s v.storeDisarm := storeDisarm_keeps (hv.keeps.mono rfl) rfl
  obtain ⟨q, hq, he⟩ := hostWrite_store h hw (runGo_keeps hK rfl)
  have hget {f : Field} (hs : f.addr ≠ rStoreStatus ∧ f.addr ≠ rBlkStat 0x70 ∧ f.addr ≠ rStoreRunCtrl ∧ f.addr ≠ rBlkErr 0x70) :
      v.storeDisarm.get f = s.get f := by
    obtain ⟨hstatus, hstat, hctrl, herr⟩ := hs
    exact (get_of_word (storeDisarm_word _ hstatus hstat)).trans (hv.get_eq hctrl herr)
  refine ⟨_, q, ⟨hK, ?_, hget (by decide), hget (by decide), hget (by decide)⟩, hq, congrArg Host.Outcome.next he⟩
  rw [storeDisarm_sto, hv.sto_eq]

theorem GoRefused.account {d : State} {result cause : Nat} (h : GoRefused d t result cause) (q : Port) :
    (t.account q).get fStoreLastRunResult = result ∧ bitsOf ((t.account q).word (rBlkErr 0x70)) 16 8 = cause := by
  rw [get_account _ _ (by decide), account_word _ _ (by decide)]
  exact ⟨h.result, h.cause⟩

end State
end Sys2Proof.Machine
end

section
/-! PROOFS. A page of a run is programmed, or fails its verification (R274, R277, R280). -/
namespace Sys2Proof

/-! ### A stretch of a map written in one go -/

namespace Map
variable {α : Type} [DecidableEq α] (d : Nat → α) (base : Nat) (f : Nat → α)

theorem look_putAll_ne (l : List Nat) (m : Map α) {j : Nat} (h : ∀ i ∈ l, j ≠ base + i) :
    look d (l.foldl (fun m i => put d m (base + i) (f i)) m) j = look d m j := by
  induction l generalizing m with
  | nil => rfl
  | cons k l ih =>
    rw [List.foldl_cons, ih _ (fun i hi => h i (List.mem_cons_of_mem k hi))]
    exact look_put_ne d m (f k) (h k List.mem_cons_self)

theorem look_putAll (l : List Nat) (m : Map α) {j : Nat} (h : j ∈ l) :
    look d (l.foldl (fun m i => put d m (base + i) (f i)) m) (base + j) = f j := by
  induction l generalizing m with
  | nil => exact absurd h List.not_mem_nil
  | cons k l ih =>
    by_cases hj : j ∈ l
    · exact ih _ hj
    · obtain rfl : j = k := (List.mem_cons.mp h).resolve_right hj
      rw [List.foldl_cons, look_putAll_ne d base f l _ (fun i hi heq => hj (by rwa [Nat.add_left_cancel heq]))]
      exact look_put_self d m _ _
end Map

namespace Machine
namespace State

variable {s t : State} {r : Run} {p : Nat}

/-! ### The served image (R270, R286) -/

theorem storeWord_of_sto (h : t.sto = s.sto) (a : Nat) : t.storeWord a = s.storeWord a := by unfold storeWord; rw [h]
theorem pslot_of_sto (h : t.sto = s.sto) (k : Nat) : t.pslot k = s.pslot k := by unfold pslot; rw [h]

theorem serve_storeWord (s : State) (p : Nat) (ws : List Word) {i : Nat} (hi : i < 64) :
    (s.serve p ws).storeWord (256 * p + 4 * i) = ws.getD i 0xFFFFFFFF#32 := by
  have haddr : (256 * p + 4 * i) / 4 = 64 * p + i := by omega
  unfold storeWord
  rw [haddr]
  exact Map.look_putAll _ (64 * p) (fun i => ws.getD i 0xFFFFFFFF#32) _ _ (List.mem_range.mpr hi)

theorem serve_storeWord_ne (s : State) (p : Nat) (ws : List Word) {a : Nat} (ha : a / 256 ≠ p) :
    (s.serve p ws).storeWord a = s.storeWord a := by
  refine Map.look_putAll_ne _ (64 * p) (fun i => ws.getD i 0xFFFFFFFF#32) _ _ (fun i hi heq => ha ?_)
  have := List.mem_range.mp hi
  omega

/-! ### The commitment of a page (R274) -/

/-- The slot that takes the new copy of a page: the one that is not served. -/
def freeSlot (s : State) (p : Nat) : Nat :=
  match s.servedSlot p with
  | some k => if k = 2 * p then 2 * p + 1 else 2 * p
  | none => 2 * p
/-- The copy of a page that a run commits. -/
def newCopy (s : State) (r : Run) (p : Nat) : PSlot :=
  { erased := false, valid := true, seq := ((s.servedSlot p).map (fun k => (s.pslot k).seq)).getD 0 + 1, run := r.id
    data := s.mergePage r p }

theorem freeSlot_ne {k : Nat} (h : s.servedSlot p = some k) : k ≠ s.freeSlot p := by
  unfold freeSlot
  rw [h]
  dsimp only
  split <;> omega

/-- The store after a page is committed while its image is served: the new copy in the free slot, and its words in the image. -/
theorem pageCommit_sto (hserved : s.sto.served = true) (r : Run) (p : Nat) :
    (s.pageCommit r p).sto = ((s.setPslot (s.freeSlot p) (s.newCopy r p)).serve p (s.mergePage r p)).sto := by
  unfold pageCommit
  extract_lets old k seq ws s1 s2 bad s3
  have h3 : s3.sto = s2.sto := by
    unfold s3
    split <;> rfl
  have h2 : s2 = s1.serve p ws := if_pos hserved
  rw [(wearSee_keeps (Keeps.refl 0x40004 s3) rfl).sto_eq rfl, h3, h2]
  rfl

theorem serve_pslot (s : State) (p : Nat) (ws : List Word) (k : Nat) : (s.serve p ws).pslot k = s.pslot k := rfl
theorem pslot_setPslot_ne (s : State) {k j : Nat} (x : PSlot) (h : j ≠ k) : (s.setPslot k x).pslot j = s.pslot j :=
  Map.look_put_ne _ _ _ h

/-- A page that is committed is served, every other page reads as before, and the copy that was served stays (R274). -/
structure CommitsPage (s t : State) (r : Run) (p : Nat) : Prop where
  page : ∀ i < 64, t.storeWord (256 * p + 4 * i) = (s.mergePage r p).getD i 0xFFFFFFFF#32
  other : ∀ a, a / 256 ≠ p → t.storeWord a = s.storeWord a
  old : ∀ k, s.servedSlot p = some k → t.pslot k = s.pslot k

theorem pageCommit_commits (hserved : s.sto.served = true) (r : Run) (p : Nat) : CommitsPage s (s.pageCommit r p) r p where
  page i hi := (storeWord_of_sto (pageCommit_sto hserved r p) _).trans (serve_storeWord _ p _ hi)
  other a ha := (storeWord_of_sto (pageCommit_sto hserved r p) a).trans (serve_storeWord_ne _ p _ ha)
  old k hk := by
    rw [pslot_of_sto (pageCommit_sto hserved r p) k, serve_pslot]
    exact pslot_setPslot_ne s _ (freeSlot_ne hk)

theorem CommitsPage.of_same (h : CommitsPage s t r p) {u : State} (hram : u.sto.ram = t.sto.ram) (hslots : u.sto.slots = t.sto.slots) :
    CommitsPage s u r p := by
  have hw (a : Nat) : u.storeWord a = t.storeWord a := by unfold storeWord; rw [hram]
  have hp (k : Nat) : u.pslot k = t.pslot k := by unfold pslot; rw [hslots]
  exact ⟨fun i hi => (hw _).trans (h.page i hi), fun a ha => (hw a).trans (h.other a ha), fun k hk => (hp k).trans (h.old k hk)⟩

/-! ### The end of a run (R277, R280) -/

theorem runNext_idle (h : s.sto.queue = []) (n : Nat) : runNext n s = s := by
  cases n with
  | zero => rfl
  | succ n =>
    unfold runNext
    rw [h]
    split
    · next heq => cases heq
    · rfl

/-- What the end of a run with no other waiting leaves in the store. -/
theorem runEnd_sto (hq : s.sto.queue = []) (r : Run) (result : Nat) : (s.runEnd r result).sto = { s.sto with
    cur := none, journal := if result = 2 || result = 3 then s.sto.journal else none
    ended := s.sto.ended ++ [(r.src, r.tag, decide (result = 1))] } := by
  unfold runEnd
  extract_lets s1 s2 s3 s4
  have h4 : s4.sto = s3.sto := by
    unfold s4
    split <;> rfl
  rw [storeFaces_sto, runNext_idle (h4 ▸ hq), h4]
  rfl

theorem runEnd_result (hq : s.sto.queue = []) (r : Run) (result : Nat) :
    (s.runEnd r result).get fStoreLastRunResult = result % 16 := by
  unfold runEnd
  extract_lets s1 s2 s3 s4
  have h4 : s4.sto = s3.sto := by
    unfold s4
    split <;> rfl
  have h4g : s4.get fStoreLastRunResult = s2.get fStoreLastRunResult := by
    unfold s4
    split <;> exact get_irq_ne s3 _ (by decide)
  rw [runNext_idle (h4 ▸ hq), storeFaces_get _ (by decide) (by decide) (by decide) (by decide) (by decide), h4g]
  unfold s2
  rw [get_set_ne _ _ (by decide)]
  exact get_set_self _ _ _ (by decide)

/-! ### Ended runs reach their engines (R279) -/

/-- Every run that has ended was asked for by host software. -/
def HostEnded (s : State) : Prop := ∀ e ∈ s.sto.ended, e.1 = .window ∨ e.1 = .staged

/-- Other runs are waiting to be taken up by their engines. -/
def withEnded (s : State) (l : List (RunSrc × Nat × Bool)) : State := s.updSto (fun x => { x with ended := l })

theorem foldl_withEnded (f : State → RunSrc × Nat × Bool → State) (l : List (RunSrc × Nat × Bool))
    (hf : ∀ u, ∀ e ∈ l, f u e = u.withEnded (u.sto.ended.erase e)) (s : State) : ∃ l', l.foldl f s = s.withEnded l' := by
  induction l generalizing s with
  | nil => exact ⟨s.sto.ended, rfl⟩
  | cons e l ih =>
    obtain ⟨l', h⟩ := ih (fun u d hd => hf u d (List.mem_cons_of_mem e hd)) (f s e)
    exact ⟨l', by rw [List.foldl_cons, h, hf s e List.mem_cons_self]; rfl⟩

/-- No engine waits for the end of a host run. -/
theorem runsEnded_host (h : s.HostEnded) : ∃ l, s.runsEnded = s.withEnded l := by
  unfold runsEnded
  refine foldl_withEnded _ _ (fun u e he => ?_) s
  obtain ⟨src, tag, ok⟩ := e
  have hnone (v : State) : v.levRunOf (src, tag, ok) = none := by rcases h _ he with rfl | rfl <;> rfl
  have htake : u.levRunTake (src, tag, ok) = u.withEnded (u.sto.ended.erase (src, tag, ok)) := by
    unfold levRunTake
    simp only [hnone]
    rfl
  rw [← htake]
  rcases h _ he with rfl | rfl <;> exact if_neg (by simp [hnone])

/-! ### PAGE_PROGRAMMED of a host run -/

theorem withEnded_keeps {u : State} (h : Keeps 0x840004 s u) (l : List (RunSrc × Nat × Bool)) : Keeps 0x840004 s (u.withEnded l) :=
  updSto_keeps id h rfl

/-- What a page's program leaves of the rest of the block. -/
theorem pageProgram_leaves (h : Keeps 0x840004 s t) :
    t.now = s.now ∧ t.pending = s.pending ∧ t.stL = s.stL ∧ t.stS = s.stS ∧ t.vis = s.vis ∧ t.img = s.img ∧ t.lwork = s.lwork
      ∧ t.swork = s.swork ∧ t.evL = s.evL ∧ t.evS = s.evS ∧ t.cap = s.cap ∧ t.stZ = s.stZ ∧ t.pwr = s.pwr ∧ t.clk = s.clk
      ∧ t.uid = s.uid :=
  ⟨h.now_eq rfl, h.pending_eq rfl, h.stL_eq rfl, h.stS_eq rfl, h.vis_eq rfl, h.img_eq rfl, h.lwork_eq rfl, h.swork_eq rfl,
    h.evL_eq rfl, h.evS_eq rfl, h.cap_eq rfl, h.stZ_eq rfl, h.pwr_eq rfl, h.clk_eq rfl, h.uid_eq rfl⟩

/-- A page of a host run ends as its run leaves it, but for the list of ended runs. -/
theorem exec_pageProgrammed_host (s : State) (ok : Bool) (h : (s.pageDone ok).HostEnded) :
    ∃ l, exec (.pageProgrammed ok) s = .next ((s.pageDone ok).withEnded l) ∧ Keeps 0x840004 s ((s.pageDone ok).withEnded l) := by
  obtain ⟨l, hl⟩ := runsEnded_host h
  exact ⟨l, congrArg Host.Outcome.next hl, withEnded_keeps (pageDone_keeps (Keeps.refl _ s) rfl) l⟩

/-- The run with one more page done (R277). -/
def onePageOn (r : Run) : Run := { r with done := r.done + 1, tries := 0 }

/-- A committed page is counted. -/
def pageCounted (s : State) (r : Run) : State := (s.pageCommit r (r.addr / 256 + r.done)).set fStoreLastRunDone (r.done + 1)

theorem pageCounted_sto (hserved : s.sto.served = true) (r : Run) :
    (s.pageCounted r).sto = ((s.setPslot (s.freeSlot (r.addr / 256 + r.done)) (s.newCopy r (r.addr / 256 + r.done))).serve
      (r.addr / 256 + r.done) (s.mergePage r (r.addr / 256 + r.done))).sto := pageCommit_sto hserved r _

theorem pageDone_verified (hcur : s.sto.cur = some r) (hstop : s.sto.stop = none) (hserved : s.sto.served = true) :
    s.pageDone true = if r.total ≤ r.done + 1 then (s.pageCounted r).runEnd (onePageOn r) 1
      else ((s.pageCounted r).updSto (fun t => { t with cur := some (onePageOn r) })).storeFaces := by
  have hstop' : (s.pageCounted r).sto.stop = none := by
    rw [pageCounted_sto hserved]
    exact hstop
  have hstop'' : ((s.pageCommit r (r.addr / 256 + r.done)).set fStoreLastRunDone (r.done + 1)).sto.stop = none := hstop'
  unfold pageDone
  rw [hcur]
  dsimp only
  rw [if_pos rfl, hstop'']
  rfl

theorem pageDone_failed (hcur : s.sto.cur = some r) (hstop : s.sto.stop = none) :
    s.pageDone false = if r.tries = 0 then s.updSto (fun t => { t with cur := some { r with tries := 1 } })
      else (s.runEnd r 4).raise 0xB002 0 .minor := by
  unfold pageDone
  rw [hcur]
  dsimp only
  rw [if_neg Bool.false_ne_true, hstop]

section
variable (hcur : s.sto.cur = some r) (hstop : s.sto.stop = none) (hq : s.sto.queue = []) (hend : s.sto.ended = [])
  (hsrc : r.src = .window ∨ r.src = .staged)
include hcur hstop hq hend hsrc

/-- R277: a page that verifies is served; the next one follows, or the run is complete. -/
theorem exec_pageProgrammed_verified (hserved : s.sto.served = true) :
    ∃ t, exec (.pageProgrammed true) s = .next t
      ∧ CommitsPage s t r (r.addr / 256 + r.done)
      ∧ (r.done + 1 < r.total → t.sto.cur = some { r with done := r.done + 1, tries := 0 })
      ∧ (r.total ≤ r.done + 1 → t.sto.cur = none ∧ t.get fStoreLastRunResult = 1)
      ∧ Keeps 0x840004 s t := by
  have hdone := pageDone_verified hcur hstop hserved
  have hcommit : CommitsPage s (s.pageCounted r) r (r.addr / 256 + r.done) :=
    (pageCommit_commits hserved r _).of_same rfl rfl
  have hcq : (s.pageCounted r).sto.queue = [] := by rw [pageCounted_sto hserved]; exact hq
  have hce : (s.pageCounted r).sto.ended = [] := by rw [pageCounted_sto hserved]; exact hend
  by_cases hlast : r.total ≤ r.done + 1
  · rw [if_pos hlast] at hdone
    have hsto := runEnd_sto hcq (onePageOn r) 1
    rw [← hdone] at hsto
    have hhost : (s.pageDone true).HostEnded := by
      unfold HostEnded
      rw [hsto, hce]
      intro e he
      rw [List.mem_singleton.mp he]
      exact hsrc
    obtain ⟨l, hexec, hK⟩ := exec_pageProgrammed_host s true hhost
    refine ⟨_, hexec, (hcommit.of_same (u := s.pageDone true) (by rw [hsto]) (by rw [hsto])).of_same rfl rfl, fun h => by omega,
      fun _ => ⟨congrArg StoSt.cur hsto, ?_⟩, hK⟩
    exact (congrArg (fun u : State => u.get fStoreLastRunResult) hdone).trans (runEnd_result hcq _ 1)
  · rw [if_neg hlast] at hdone
    have hsto : (s.pageDone true).sto = { (s.pageCounted r).sto with cur := some (onePageOn r) } := by
      rw [hdone, storeFaces_sto]
      rfl
    have hhost : (s.pageDone true).HostEnded := by
      unfold HostEnded
      rw [hsto, hce]
      exact fun e he => absurd he List.not_mem_nil
    obtain ⟨l, hexec, hK⟩ := exec_pageProgrammed_host s true hhost
    exact ⟨_, hexec, (hcommit.of_same (u := s.pageDone true) (by rw [hsto]) (by rw [hsto])).of_same rfl rfl, fun _ => congrArg StoSt.cur hsto,
      fun h => absurd h hlast, hK⟩

/-- R280: a page that fails is tried once more, then the run stops with the fault VERIFY and the page stays old. -/
theorem exec_pageProgrammed_failed :
    ∃ t, exec (.pageProgrammed false) s = .next t
      ∧ (r.tries = 0 → t = { s with sto := { s.sto with cur := some { r with tries := 1 } } })
      ∧ (r.tries ≠ 0 → t.sto.cur = none ∧ t.get fStoreLastRunResult = 4 ∧ t.Raised 0xB002 0
          ∧ t.sto.slots = s.sto.slots ∧ t.sto.ram = s.sto.ram)
      ∧ Keeps 0x840004 s t := by
  have hdone := pageDone_failed hcur hstop
  by_cases htries : r.tries = 0
  · rw [if_pos htries] at hdone
    have hnone : (s.pageDone false).sto.ended = [] := by rw [hdone]; exact hend
    have hexec : exec (.pageProgrammed false) s = .next (s.pageDone false) := by
      have hsame : (s.pageDone false).runsEnded = s.pageDone false := by
        unfold runsEnded
        rw [hnone]
        rfl
      exact congrArg Host.Outcome.next hsame
    exact ⟨_, hexec, fun _ => hdone, fun h => absurd htries h, pageDone_keeps (Keeps.refl _ s) rfl⟩
  · rw [if_neg htries] at hdone
    have hsto : (s.pageDone false).sto = (s.runEnd r 4).sto := by rw [hdone, raise_sto]
    rw [runEnd_sto hq, hend] at hsto
    have hhost : (s.pageDone false).HostEnded := by
      unfold HostEnded
      rw [hsto]
      intro e he
      rw [List.mem_singleton.mp he]
      exact hsrc
    obtain ⟨l, hexec, hK⟩ := exec_pageProgrammed_host s false hhost
    have hslots : (s.pageDone false).sto.slots = s.sto.slots := by rw [hsto]
    have hram : (s.pageDone false).sto.ram = s.sto.ram := by rw [hsto]
    have hraised : (s.pageDone false).Raised 0xB002 0 := by rw [hdone]; exact raise_raised ..
    have hresult : (s.pageDone false).get fStoreLastRunResult = 4 := by
      rw [hdone, get_raise _ _ _ _ (by decide), runEnd_result hq]
    exact ⟨_, hexec, fun h => absurd h htries, fun _ => ⟨congrArg StoSt.cur hsto, hresult, raised_of_flt rfl hraised,
      hslots, hram⟩, hK⟩
end

end State
end Machine
end Sys2Proof
end

section
/-! PROOFS. GO as one transaction (R276), and the statement about store runs. -/
namespace Sys2Proof.Machine

/-- R276: GO starts the staged run whole, or refuses it whole. -/
theorem State.exec_runGo_answered (s : State) {addr n : Nat} {r : Run} (h : s.HostOpen rStoreRunCtrl 1#32)
    (haddr : addr = s.get fStoreRunAddrAddr) (hn : n = s.get fStoreRunLenLen)
    (hr : r = { src := .staged, addr := addr, bytes := s.sto.buf.take n }) :
    ∃ t, exec .runGo s = .next t
      ∧ t.port.resp = 0
      ∧ (0x40000 < addr + n → t.get fStoreLastRunResult = 5 ∧ bitsOf (t.word (rBlkErr 0x70)) 16 8 = 0x40)
      ∧ (addr + n ≤ 0x40000 → s.sto.cur.isSome ∨ s.sto.served = false →
          t.get fStoreLastRunResult = 7 ∧ bitsOf (t.word (rBlkErr 0x70)) 16 8 = 0x42)
      ∧ (addr + n ≤ 0x40000 → s.sto.cur = none → s.sto.served = true → s.sto.buf.length < n →
          t.get fStoreLastRunResult = 9 ∧ bitsOf (t.word (rBlkErr 0x70)) 16 8 = 0x45)
      ∧ (addr + n ≤ 0x40000 → s.sto.cur = none → s.sto.served = true → n ≤ s.sto.buf.length → s.runBarred r = true →
          t.get fStoreLastRunResult = 6 ∧ bitsOf (t.word (rBlkErr 0x70)) 16 8 = 0x41)
      ∧ (addr + n ≤ 0x40000 → s.sto.cur = none → s.sto.served = true → n ≤ s.sto.buf.length → s.runBarred r = false →
          t.sto.cur = some { r with id := (s.sto.runId + 1) % 2 ^ 32, total := runPages addr r.bytes.length } ∧ t.bit fStoreStatusBusy = true)
      ∧ (¬ (addr + n ≤ 0x40000 ∧ s.sto.cur = none ∧ s.sto.served = true ∧ n ≤ s.sto.buf.length ∧ s.runBarred r = false) →
          t.sto = { s.sto with armed := none, unlock1 := none })
      ∧ t = { s with regs := t.regs, port := t.port, sto := t.sto } := by
  subst haddr hn
  obtain rfl : r = s.stagedReq := hr
  obtain ⟨d, q, hd, hq, hexec⟩ := State.exec_runGo_open h
  obtain ⟨hcur, hserved, hbuf, hid⟩ : d.sto.cur = s.sto.cur ∧ d.sto.served = s.sto.served ∧ d.sto.buf = s.sto.buf
      ∧ d.sto.runId = s.sto.runId := by
    rw [hd.sto]
    exact ⟨rfl, rfl, rfl, rfl⟩
  rw [← hd.addr, ← hd.len, ← hcur, ← hserved, ← hbuf, ← hid, ← hd.runBarred, ← hd.sto, ← hd.stagedReq]
  refine ⟨_, hexec, hq, fun hr => (State.runGo_range hr).account q, fun hr hb => (State.runGo_busy hr hb).account q,
    fun hr hc hv hl => (State.runGo_short hr hc hv hl).account q, fun hr hc hv hl hb => (State.runGo_barred hr hc hv hl hb).account q,
    fun hr hc hv hl hb => ?_, fun hno => State.runGo_sto hno, State.account_store (runGo_keeps hd.keeps rfl) q⟩
  rw [State.runGo_starts hr hc hv hl hb, State.account_sto, State.runStart_sto, State.bit, State.get_account _ _ (by decide)]
  exact ⟨rfl, State.runStart_busy ..⟩

/-- Settles O27, clause by clause: a run starts whole or is refused whole, the staged buffer is emptied and filled, and a page is
committed or the run stops. -/
theorem storeRunsAreWholeOrRefused : Obligations.StoreRunsAreWholeOrRefused := by
  unfold Obligations.StoreRunsAreWholeOrRefused
  intro s
  refine ⟨fun x r h ho hw ha _ hr => ?_, fun addr len h haddr hmin hmax => ?_, fun x h ho ha hroom => ?_,
    fun addr n r h haddr hn hr => ?_, fun h => ?_, fun r p hcur hp hstop hq hend hserved hsrc => ?_,
    fun r hcur hstop hq hend hsrc => ?_⟩
  · obtain rfl : r = State.windowReq (xactStart x - 0x180000) x.data := hr
    obtain ⟨t, he, hq, htotal, hopen, hbar, ht⟩ := State.exec_storeWindowWrite_open s x h ho hw ha
    refine ⟨t, he, hq, htotal, fun hb => ?_, hbar, ht⟩
    obtain ⟨hsto, hbusy⟩ := hopen hb
    exact ⟨hsto.trans (State.runStart_sto ..), hbusy⟩
  · exact State.exec_runSetup_open s addr len h haddr hmin hmax
  · exact State.exec_storeRunPush_open s x h ho ha hroom
  · exact State.exec_runGo_answered s h haddr hn hr
  · obtain ⟨t, new, he, ht⟩ := State.exec_runDiscard_open s h
    exact ⟨t, he, ht.resp, ht.sto, ht.fill, ht.crc, ht.keeps.eta⟩
  · subst hp
    obtain ⟨t, he, hcommit, hnext, hlast, hK⟩ := State.exec_pageProgrammed_verified hcur hstop hq hend hsrc hserved
    exact ⟨t, he, hcommit.page, hcommit.other, hcommit.old, hnext, hlast, State.pageProgram_leaves hK⟩
  · obtain ⟨t, he, hagain, hfail, hK⟩ := State.exec_pageProgrammed_failed hcur hstop hq hend hsrc
    exact ⟨t, he, hagain, hfail, State.pageProgram_leaves hK⟩

end Sys2Proof.Machine
end

section
/-! PROOFS. UNLOCK, PROTECT and WP_N (R285), and the counter reservation of the levee (R395). -/
namespace Sys2Proof.Machine
namespace State

variable {s t u v : State} {w : Word}

theorem regsSto_eq (h : Keeps 0x800004 s t) : t = { s with regs := t.regs, sto := t.sto } := h.eta

/-! ### UNLOCK -/

/-- The second word arms PROTECT within a millisecond of the first; any other word ends what came before. -/
theorem storeUnlock_sto (s : State) (w : Word) : (s.storeUnlock w).sto = { s.sto with
    armed := if w = 0x0000C3C3#32 ∧ s.sto.unlock1.any (fun t0 => s.now ≤ t0 + 1000) = true then some s.now else none
    unlock1 := if w = 0x00003C3C#32 then some s.now else none } := by
  unfold storeUnlock
  extract_lets s1 s2
  rw [storeFaces_sto]
  have hfirst (hno : ¬ (w = 0x0000C3C3#32 ∧ s.sto.unlock1.any (fun t0 => s.now ≤ t0 + 1000) = true)) :
      (s1.updSto (fun t => { t with unlock1 := if w = 0x00003C3C#32 then some s1.now else none })).sto = { s.sto with
        armed := if w = 0x0000C3C3#32 ∧ s.sto.unlock1.any (fun t0 => s.now ≤ t0 + 1000) = true then some s.now else none
        unlock1 := if w = 0x00003C3C#32 then some s.now else none } := by
    rw [if_neg hno]
    rfl
  unfold s2
  split
  · next t0 hu =>
    have hu' : s.sto.unlock1 = some t0 := hu
    by_cases hkey : w = 0x0000C3C3#32 ∧ s.now ≤ t0 + 1000
    · obtain ⟨rfl, hin⟩ := hkey
      have hin' : s1.now ≤ t0 + 1000 := hin
      rw [if_pos (by simp [hin']), if_neg (by decide), if_pos (by simp [hu', hin])]
      rfl
    · have hkey' : ¬ (w = 0x0000C3C3#32 ∧ s1.now ≤ t0 + 1000) := hkey
      rw [if_neg (by simpa using hkey')]
      exact hfirst (by simpa [hu'] using hkey)
  · next hu =>
    have hu' : s.sto.unlock1 = none := hu
    exact hfirst (by simp [hu'])

theorem storeUnlock_bpArmed (s : State) (w : Word) :
    (s.storeUnlock w).bit fStoreStatusBpArmed = (s.storeUnlock w).sto.armed.isSome := by
  unfold storeUnlock
  rw [storeFaces_bpArmed, storeFaces_sto]

/-- R285: a write of UNLOCK. -/
theorem exec_storeUnlock_open (s : State) (w : Word) (h : s.HostOpen rStoreUnlock w) :
    ∃ t, exec (.storeUnlock w) s = .next t
      ∧ t.port.resp = 0
      ∧ t.sto = { s.sto with
          armed := if w = 0x0000C3C3#32 ∧ s.sto.unlock1.any (fun t0 => s.now ≤ t0 + 1000) = true then some s.now else none
          unlock1 := if w = 0x00003C3C#32 then some s.now else none }
      ∧ t.bit fStoreStatusBpArmed = t.sto.armed.isSome
      ∧ t = { s with regs := t.regs, port := t.port, sto := t.sto } := by
  obtain ⟨v, hv, hw⟩ := writeWord_store (off := 0x30) s w (by simp [isStoreOff]) (fun hoff => absurd hoff (by decide))
    descAt_unlock rfl rfl
  have hacts : v.actsStore 0x30 w = v.storeUnlock w := rfl
  rw [hacts] at hw
  have hK : Keeps 0x800044 s (v.storeUnlock w) := storeUnlock_keeps (hv.keeps.mono rfl) rfl
  obtain ⟨q, hq, he⟩ := hostWrite_store h hw hK
  refine ⟨_, congrArg Host.Outcome.next he, hq, ?_, ?_, account_store hK q⟩
  · rw [account_sto, storeUnlock_sto, hv.sto_eq, hv.now_eq]
  · rw [account_bit _ q (by decide)]
    exact storeUnlock_bpArmed v w

/-- R285: the arming runs out 100 ms after UNLOCK. -/
theorem exec_armTimeout_armed (s : State) {a : Nat} (hoff : s.coreOff = false) (harm : s.sto.armed = some a) :
    ∃ t, exec .armTimeout s = .next t
      ∧ t.now = max s.now (a + 100000) ∧ t.sto = { s.sto with armed := none, unlock1 := none } ∧ t.bit fStoreStatusBpArmed = false
      ∧ t = { s with now := t.now, regs := t.regs, sto := t.sto } := by
  have harmed : s.armExpire = (s.at_ (a + 100000)).storeDisarm := by
    unfold armExpire
    rw [harm]
  have hexec : exec .armTimeout s = .next s.armExpire := by rw [exec, execArmTimeout, hoff, if_neg Bool.false_ne_true]
  have hnow : (s.at_ (a + 100000)).storeDisarm.now = (s.at_ (a + 100000)).now :=
    (storeDisarm_keeps (Keeps.refl 0x800004 _) rfl).now_eq rfl
  refine ⟨_, hexec, ?_, ?_, ?_, (armExpire_keeps (Keeps.refl 0x800006 s) rfl).eta⟩ <;> rw [harmed]
  · exact hnow
  · exact storeDisarm_sto _
  · exact storeDisarm_bpArmed _

/-! ### PROTECT -/

theorem engineRun_word (s : State) (r : Run) {a : Nat} (hs : a ≠ rStoreStatus) (hb : a ≠ rBlkStat 0x70) (hl : a ≠ rStoreLastRun)
    (ha : a ≠ rStoreLastRunAddr) (he : a ≠ rBlkErr 0x70) (hi : a ≠ rIrqStat 0x70) : (s.engineRun r).2.word a = s.word a := by
  unfold engineRun
  split
  · rfl
  split
  · split
    · rfl
    · exact storeFaces_word _ hs hb
  split
  · exact runRefuse_word s _ _ _ _ _ _ hl ha he hi
  · exact runStart_word s hs hb hl ha

/-- A request for a run leaves the arming and its sequence. -/
theorem engineRun_arming (s : State) (r : Run) :
    (s.engineRun r).2.sto.armed = s.sto.armed ∧ (s.engineRun r).2.sto.unlock1 = s.sto.unlock1 := by
  unfold engineRun
  split
  · exact ⟨rfl, rfl⟩
  split
  · split
    · exact ⟨rfl, rfl⟩
    · rw [storeFaces_sto]
      exact ⟨rfl, rfl⟩
  split
  · exact ⟨rfl, rfl⟩
  · rw [runStart_sto]
    exact ⟨rfl, rfl⟩

/-- The run that writes the control record starts at once on an idle store, whatever BP protects (R284, R285). -/
theorem engineRun_control (hclosed : s.sto.closed = false) (hcur : s.sto.cur = none) (hserved : s.sto.served = true) {r : Run}
    (hr : r.src = .control) : (s.engineRun r).2.sto.cur = some (s.started r) := by
  have hbar : s.runBarred r = false := by simp [runBarred, hr]
  unfold engineRun
  rw [hclosed, if_neg Bool.false_ne_true, if_neg (by simp [hcur, hserved]), hbar, if_neg Bool.false_ne_true, runStart_sto]

/-- An accepted change of BP: the register shows it, the arming ends, and an idle store starts to write the control record. -/
structure BpChanged (s t : State) (bp : Nat) : Prop where
  bp : t.get fStoreProtectBp = bp
  armed : t.sto.armed = none
  unlock1 : t.sto.unlock1 = s.sto.unlock1
  record : s.sto.closed = false → s.sto.cur = none → s.sto.served = true →
    t.sto.cur.any (fun r => r.src == .control && r.addr == 0x30000) = true

theorem setBp_changed (s : State) {bp : Nat} (hbp : bp < 4) : BpChanged s (s.setBp bp) bp := by
  unfold setBp
  extract_lets s1
  have h1 : s1.get fStoreProtectBp = bp := (get_set_self s fStoreProtectBp bp (by decide)).trans (Nat.mod_eq_of_lt hbp)
  refine ⟨?_, ?_, ?_, fun hclosed hcur hserved => ?_⟩
  · rw [storeFaces_get _ (by decide) (by decide) (by decide) (by decide) (by decide)]
    exact (get_of_word (engineRun_word s1 _ (by decide) (by decide) (by decide) (by decide) (by decide) (by decide))).trans h1
  · rw [storeFaces_sto, (engineRun_arming s1 _).1]
    rfl
  · rw [storeFaces_sto, (engineRun_arming s1 _).2]
    rfl
  · rw [storeFaces_sto, engineRun_control (s := s1) hclosed hcur hserved rfl]
    rfl

/-- A write of PROTECT: refused with a cause while WP_N is low or no arming is there, else BP changes; either way the arming has
ended. -/
theorem protectWrite_eq (s : State) (w : Word) : s.protectWrite w =
    if s.sto.wpHigh = false then s.storeDisarm.blkErr 0x70 0x43 true 0x2C
    else if s.sto.armed = none then s.storeDisarm.blkErr 0x70 0x44 true 0x2C
    else s.storeDisarm.setBp (bitsOf w 0 2) := by
  have hwp : s.storeDisarm.sto.wpHigh = s.sto.wpHigh := by rw [storeDisarm_sto]
  unfold protectWrite
  extract_lets armed s1
  have h1 : s1.sto.wpHigh = s.sto.wpHigh := hwp
  rw [h1]
  unfold armed
  cases s.sto.wpHigh <;> cases s.sto.armed <;> rfl

/-- A PROTECT write that is refused: BP is as before, the cause is shown, and the arming has ended. -/
structure BpRefused (s t : State) (cause : Nat) : Prop where
  bp : t.get fStoreProtectBp = s.get fStoreProtectBp
  cause : bitsOf (t.word (rBlkErr 0x70)) 16 8 = cause
  sto : t.sto = { s.sto with armed := none, unlock1 := none }

theorem protectRefuse_refused (s : State) {cause : Nat} (hc : cause < 256) :
    BpRefused s (s.storeDisarm.blkErr 0x70 cause true 0x2C) cause where
  bp := (get_blkErr_ne _ _ _ _ (by decide)).trans (get_of_word (storeDisarm_word s (by decide) (by decide)))
  cause := (blkErr_cause _ _ _ _ _).trans (Nat.mod_eq_of_lt hc)
  sto := storeDisarm_sto s

theorem protectWrite_low (s : State) (w : Word) (h : s.sto.wpHigh = false) : BpRefused s (s.protectWrite w) 0x43 := by
  rw [protectWrite_eq, if_pos h]
  exact protectRefuse_refused s (by decide)

theorem protectWrite_notArmed (s : State) (w : Word) (h : s.sto.wpHigh = true) (ha : s.sto.armed = none) :
    BpRefused s (s.protectWrite w) 0x44 := by
  rw [protectWrite_eq, if_neg (by simp [h]), if_pos ha]
  exact protectRefuse_refused s (by decide)

theorem protectWrite_armed (s : State) (w : Word) (h : s.sto.wpHigh = true) (ha : s.sto.armed.isSome = true) :
    BpChanged s.storeDisarm (s.protectWrite w) (bitsOf w 0 2) := by
  rw [protectWrite_eq, if_neg (by simp [h]), if_neg (Option.isSome_iff_ne_none.mp ha)]
  exact setBp_changed _ (bitsOf_lt w 0 2)

theorem protectWrite_disarms (s : State) (w : Word) : (s.protectWrite w).sto.armed = none ∧ (s.protectWrite w).sto.unlock1 = none := by
  cases hw : s.sto.wpHigh with
  | false =>
    rw [(protectWrite_low s w hw).sto]
    exact ⟨rfl, rfl⟩
  | true =>
    cases ha : s.sto.armed with
    | none =>
      rw [(protectWrite_notArmed s w hw ha).sto]
      exact ⟨rfl, rfl⟩
    | some a =>
      have hb := protectWrite_armed s w hw (by rw [ha]; rfl)
      exact ⟨hb.armed, hb.unlock1.trans (by rw [storeDisarm_sto])⟩

/-- R285: a write of PROTECT. -/
theorem exec_protectWrite_open (s : State) (w : Word) (h : s.HostOpen rStoreProtect w) :
    ∃ t, exec (.protectWrite w) s = .next t
      ∧ t.port.resp = 0 ∧ t.sto.armed = none ∧ t.sto.unlock1 = none
      ∧ (s.sto.wpHigh = false → t.get fStoreProtectBp = s.get fStoreProtectBp ∧ bitsOf (t.word (rBlkErr 0x70)) 16 8 = 0x43)
      ∧ (s.sto.wpHigh = true → s.sto.armed = none →
          t.get fStoreProtectBp = s.get fStoreProtectBp ∧ bitsOf (t.word (rBlkErr 0x70)) 16 8 = 0x44)
      ∧ (s.sto.wpHigh = true → s.sto.armed.isSome → t.get fStoreProtectBp = bitsOf w 0 2)
      ∧ (s.sto.wpHigh = true → s.sto.armed.isSome → s.sto.closed = false → s.sto.cur = none → s.sto.served = true →
          t.sto.cur.any (fun r => r.src == .control && r.addr == 0x30000) = true)
      ∧ t = { s with regs := t.regs, port := t.port, sto := t.sto } := by
  obtain ⟨v, hv, hw⟩ := writeWord_protect s w
  have hK : Keeps 0x800044 s (v.protectWrite w) := protectWrite_keeps (hv.keeps.mono rfl) rfl
  obtain ⟨q, hq, he⟩ := hostWrite_store h hw hK
  obtain ⟨harmed, hunlock⟩ := protectWrite_disarms v w
  have hbp : v.get fStoreProtectBp = s.get fStoreProtectBp := get_of_word ((hv.word _ (by decide)).trans (if_pos rfl))
  have hrefused {cause : Nat} (hb : BpRefused v (v.protectWrite w) cause) :
      ((v.protectWrite w).account q).get fStoreProtectBp = s.get fStoreProtectBp
        ∧ bitsOf (((v.protectWrite w).account q).word (rBlkErr 0x70)) 16 8 = cause := by
    rw [get_account _ _ (by decide), account_word _ _ (by decide), hb.bp, hbp]
    exact ⟨rfl, hb.cause⟩
  refine ⟨_, congrArg Host.Outcome.next he, hq, harmed, hunlock, fun hl => hrefused (protectWrite_low v w (hv.sto_eq ▸ hl)),
    fun hh ha => hrefused (protectWrite_notArmed v w (hv.sto_eq ▸ hh) (hv.sto_eq ▸ ha)), fun hh ha => ?_,
    fun hh ha hclosed hcur hserved => ?_, account_store hK q⟩
  · rw [get_account _ _ (by decide)]
    exact (protectWrite_armed v w (hv.sto_eq ▸ hh) (hv.sto_eq ▸ ha)).bp
  · have hrec := (protectWrite_armed v w (hv.sto_eq ▸ hh) (hv.sto_eq ▸ ha)).record
    rw [storeDisarm_sto, hv.sto_eq] at hrec
    exact hrec hclosed hcur hserved

/-! ### WP_N -/

/-- R285: WP_N changes; a fall ends the arming. -/
theorem exec_wpChange_changed (s : State) {high : Bool} (h : s.sto.wpHigh ≠ high) :
    ∃ t, exec (.wpChange high) s = .next t
      ∧ t.bit fSysStrapsWpN = high ∧ t.sto.wpHigh = high ∧ (high = false → t.sto.armed = none ∧ t.sto.unlock1 = none)
      ∧ t = { s with regs := t.regs, sto := t.sto } := by
  refine ⟨s.wpChange high, rfl, ?_, ?_, fun hlow => ?_, regsSto_eq (wpChange_keeps (Keeps.refl _ s) rfl)⟩
  all_goals
    unfold wpChange
    rw [if_neg h]
    extract_lets s1 s2
  · have h1 : s1.bit fSysStrapsWpN = high := bit_setB_self _ fSysStrapsWpN high (by decide) (by decide)
    have h2 : s2.word rSysStraps = s1.word rSysStraps := by
      unfold s2
      split
      · rfl
      · exact word_irq_ne _ _ _ (by decide)
    have h2' : s2.bit fSysStrapsWpN = high := by rw [← h1]; simp only [bit, get_of_word (f := fSysStrapsWpN) h2]
    split
    · exact h2'
    · rw [← h2']
      simp only [bit, get_of_word (f := fSysStrapsWpN) (storeDisarm_word s2 (by decide) (by decide))]
  · have h2 : s2.sto.wpHigh = high := by
      unfold s2
      split <;> rfl
    split
    · exact h2
    · rw [storeDisarm_sto]
      exact h2
  · rw [hlow, if_neg Bool.false_ne_true, storeDisarm_sto]
    exact ⟨rfl, rfl⟩

/-! ### A counter reservation has completed (R395) -/

theorem levFaces_lev (u : State) : u.levFaces.lev = u.lev := (levFaces_keeps (Keeps.refl 0x4 u) rfl).lev_eq rfl
theorem levFaces_fab (u : State) : u.levFaces.fab = u.fab := (levFaces_keeps (Keeps.refl 0x4 u) rfl).fab_eq rfl


theorem originateWaiting_nil (h : s.fab.wait = []) : s.originateWaiting = s.updFab (fun f => { f with wait := [] }) := by
  unfold originateWaiting
  rw [h]
  rfl

theorem reservationDone_lev (hoff : s.coreOff = false) (hserved : s.sto.served = true) (hresv : s.sto.resv = false)
    (hdead : s.lev.dead = false) (hwait : s.fab.wait = []) : s.reservationDone.lev = { s.lev with ready := true } := by
  have hw : ((s.updLev (fun l => { l with ready := true })).levFaces).fab.wait = [] := by
    rw [levFaces_fab, updLev_fab]
    exact hwait
  unfold reservationDone
  rw [if_neg (by simp [hoff, hserved, hresv, hdead]), originateWaiting_nil hw, updFab_lev, levFaces_lev]
  rfl

/-- R395: the levee may use the counters of a completed reservation. -/
theorem exec_reservationDone_open (s : State) (hoff : s.coreOff = false) (hserved : s.sto.served = true)
    (hresv : s.sto.resv = false) (hdead : s.lev.dead = false) (hwait : s.fab.wait = []) :
    ∃ t, exec .reservationDone s = .next t
      ∧ t.lev.ready = true ∧ t.lev.sess = s.lev.sess
      ∧ t.now = s.now ∧ t.lath = s.lath
      ∧ t = { s with regs := t.regs, flt := t.flt, sto := t.sto, lev := t.lev, fab := t.fab, dlv := t.dlv } := by
  have hK : Keeps 0x1c00000840004 s s.reservationDone := reservationDone_keeps (Keeps.refl _ s) rfl
  have hlev := reservationDone_lev hoff hserved hresv hdead hwait
  exact ⟨_, rfl, by rw [hlev], by rw [hlev], hK.now_eq rfl, hK.lath_eq rfl, hK.eta⟩

end State
end Sys2Proof.Machine
end

section
/-! PROOFS. Recall (R272, R286, R293): at its end the store and peat are served. -/
namespace Sys2Proof.Machine
namespace State

variable {s t u : State}

/-! ### The store (R286) -/

/-- The store in its recall: it serves its image, and no run waits. -/
def Recalling (u : State) : Prop := u.sto.served = true ∧ u.sto.queue = []

theorem Recalling.of_sto (h : Recalling s) (hsto : t.sto = s.sto) : Recalling t := by
  unfold Recalling
  rwa [hsto]

theorem Recalling.foldl {α : Type} (f : State → α → State) (l : List α) (h : Recalling s)
    (hf : ∀ u a, Recalling u → Recalling (f u a)) : Recalling (l.foldl f s) :=
  List.foldlRecOn l f h (fun u hu a _ => hf u a hu)

/-- STORE.STATUS reads READY, and no longer RECALL; the store serves its image. -/
structure StoreReady (u : State) : Prop where
  served : u.sto.served = true
  ready : u.bit fStoreStatusReady = true
  notRecall : u.bit fStoreStatusRecall = false

theorem Recalling.ends (h : Recalling u) : StoreReady (runNext 5 ((u.setB fStoreStatusRecall false).setB fStoreStatusReady true)).storeFaces := by
  have hidle := runNext_idle (s := (u.setB fStoreStatusRecall false).setB fStoreStatusReady true) h.2 5
  have hface (v : State) {f : Field} (hf : f = fStoreStatusReady ∨ f = fStoreStatusRecall) : v.storeFaces.bit f = v.bit f := by
    unfold bit
    rcases hf with rfl | rfl <;>
      rw [storeFaces_get _ (by decide) (by decide) (by decide) (by decide) (by decide)]
  rw [hidle]
  refine ⟨?_, ?_, ?_⟩
  · rw [storeFaces_sto]
    exact h.1
  · rw [hface _ (.inl rfl)]
    exact bit_setB_self _ _ _ (by decide) (by decide)
  · rw [hface _ (.inr rfl), bit_setB_ne _ _ (by decide)]
    exact bit_setB_self _ _ _ (by decide) (by decide)

theorem storeRecall_ready (hq : s.sto.queue = []) : StoreReady s.storeRecall := by
  unfold storeRecall
  extract_lets pages served images bad marks counted reported worn aged idOk checked protect closed
  have hserved : Recalling served := ⟨rfl, hq⟩
  have himages : Recalling images := hserved.foldl _ _ (fun _ _ h => h)
  have hmarks : Recalling marks := himages.foldl _ _ (fun _ _ h => h)
  have hreported : Recalling reported := by
    unfold reported
    split
    · exact hmarks
    · exact hmarks.of_sto (raise_sto _ _ _ _)
  have hworn : Recalling worn := by
    refine hreported.foldl _ _ (fun v p h => ?_)
    split
    · dsimp only
      split
      · exact h
      · exact h
    · exact h
  have haged : Recalling aged := by
    unfold aged
    split
    · exact hworn.of_sto (raise_sto _ _ _ _)
    · exact hworn
  have hchecked : Recalling checked := by
    unfold checked
    split
    · exact haged
    · exact haged.of_sto (raise_sto _ _ _ _)
  have hprotect : Recalling protect := hchecked
  refine Recalling.ends ?_
  unfold closed
  clear_value protect
  split
  · exact hprotect
  · exact hprotect

/-! ### What follows keeps the store and peat served -/

/-- The store is ready and peat shows READY. -/
structure Serving (u : State) : Prop extends StoreReady u where
  peat : u.bit fPeatStatReady = true

theorem StoreReady.of_word (h : StoreReady s) (hsto : t.sto.served = s.sto.served) (hw : t.word rStoreStatus = s.word rStoreStatus) :
    StoreReady t where
  served := hsto.trans h.served
  ready := by
    rw [← h.ready]
    simp only [bit, get_of_word (f := fStoreStatusReady) hw]
  notRecall := by
    rw [← h.notRecall]
    simp only [bit, get_of_word (f := fStoreStatusRecall) hw]

namespace Serving

theorem of_words (h : Serving s) (hsto : t.sto.served = s.sto.served) (hs : t.word rStoreStatus = s.word rStoreStatus)
    (hp : t.word rPeatStat = s.word rPeatStat) : Serving t where
  toStoreReady := h.toStoreReady.of_word hsto hs
  peat := by
    rw [← h.peat]
    simp only [bit, get_of_word (f := fPeatStatReady) hp]

theorem of_regs (h : Serving s) (hr : t.regs = s.regs) (hsto : t.sto.served = s.sto.served) : Serving t :=
  h.of_words hsto (by unfold word; rw [hr]) (by unfold word; rw [hr])

theorem setWord (h : Serving s) {a : Nat} (w : Word) (hs : rStoreStatus ≠ a) (hp : rPeatStat ≠ a) : Serving (s.setWord a w) :=
  h.of_words rfl (word_setWord_ne s w hs) (word_setWord_ne s w hp)

theorem set (h : Serving s) {f : Field} (v : Nat) (hs : rStoreStatus ≠ f.addr) (hp : rPeatStat ≠ f.addr) : Serving (s.set f v) :=
  h.setWord _ hs hp

theorem setB (h : Serving s) {f : Field} (b : Bool) (hs : rStoreStatus ≠ f.addr) (hp : rPeatStat ≠ f.addr) : Serving (s.setB f b) :=
  h.setWord _ hs hp

theorem bump (h : Serving s) {f : Field} (hs : rStoreStatus ≠ f.addr) (hp : rPeatStat ≠ f.addr) : Serving (s.bump f) :=
  h.setWord _ hs hp

theorem irq (h : Serving s) {p : Nat} (k : Nat) (hs : rStoreStatus ≠ rIrqStat p) (hp : rPeatStat ≠ rIrqStat p) : Serving (s.irq p k) :=
  h.setWord _ hs hp

theorem setPair (h : Serving s) {lo hi : Nat} (v : Nat) (hlo : rStoreStatus ≠ lo ∧ rPeatStat ≠ lo)
    (hhi : rStoreStatus ≠ hi ∧ rPeatStat ≠ hi) : Serving (s.setPair lo hi v) :=
  (h.setWord _ hlo.1 hlo.2).setWord _ hhi.1 hhi.2

theorem raise (h : Serving s) (c i : Nat) (k : FClass) : Serving (s.raise c i k) :=
  h.of_words (congrArg StoSt.served (raise_sto s c i k)) (raise_word s c i k (by decide)) (raise_word s c i k (by decide))

theorem foldl {α : Type} (f : State → α → State) (l : List α) (h : Serving s) (hf : ∀ u a, Serving u → Serving (f u a)) :
    Serving (l.foldl f s) :=
  List.foldlRecOn l f h (fun u hu a _ => hf u a hu)

end Serving

/-! ### Peat (R293) and the zone models (R199) -/

theorem peatFaces_ready (s : State) : s.peatFaces.bit fPeatStatReady = s.bit fPeatStatReady := by
  unfold peatFaces bit
  rw [get_set_ne _ _ (by decide), get_set_ne _ _ (by decide), get_setB_ne _ _ (by decide)]

theorem StoreReady.peatFaces (h : StoreReady s) : StoreReady s.peatFaces :=
  h.of_word (congrArg StoSt.served ((peatFaces_keeps (Keeps.refl 0x4 s) rfl).sto_eq rfl)) (by
    unfold State.peatFaces
    rw [word_set_ne _ _ _ (by decide), word_set_ne _ _ _ (by decide), word_setB_ne _ _ _ (by decide)])

theorem Serving.peatFaces (h : Serving s) : Serving s.peatFaces where
  toStoreReady := h.toStoreReady.peatFaces
  peat := (peatFaces_ready s).trans h.peat

theorem StoreReady.peatRecall (h : StoreReady s) : Serving s.peatRecall := by
  unfold State.peatRecall
  extract_lets recovered lost reported
  have hreported : StoreReady reported := by
    refine List.foldlRecOn lost _ (motive := StoreReady) (h.of_word rfl rfl) (fun u hu e _ => ?_)
    exact hu.of_word (congrArg StoSt.served (raise_sto _ _ _ _))
      ((raise_word _ _ _ _ (by decide)).trans (word_irq_ne _ _ _ (by decide)))
  have hready : StoreReady (reported.setB fPeatStatReady true) := hreported.of_word rfl (word_setB_ne _ _ _ (by decide))
  exact {
    toStoreReady := hready.peatFaces
    peat := (peatFaces_ready _).trans (bit_setB_self _ _ _ (by decide) (by decide)) }

theorem tmeLoad_leaves (s : State) (z : Nat) : (s.tmeLoad z).regs = s.regs ∧ (s.tmeLoad z).sto = s.sto :=
  have hK := tmeLoad_keeps (z := z) (Keeps.refl 0x1000000 s) rfl
  ⟨hK.regs_eq rfl, hK.sto_eq rfl⟩

theorem Serving.tmePowerUp (h : Serving s) : Serving s.tmePowerUp := by
  unfold State.tmePowerUp
  refine Serving.foldl _ _ ?_ (fun u z hu => ?_)
  · exact h.of_regs rfl rfl
  · have hload : Serving (u.tmeLoad z) := hu.of_regs (tmeLoad_leaves u z).1 (congrArg StoSt.served (tmeLoad_leaves u z).2)
    exact (hload.irq 2 (by decide) (by decide)).bump (by decide) (by decide)

/-! ### The levee (R388, R395) -/

theorem Serving.levFaces (h : Serving s) : Serving s.levFaces := by
  unfold State.levFaces
  extract_lets has s1 s2 s3 s4 s5 s6 s7 s8
  have h1 : Serving s1 := h.setB _ (by decide) (by decide)
  have h2 : Serving s2 := h1.setB _ (by decide) (by decide)
  have h3 : Serving s3 := h2.setB _ (by decide) (by decide)
  have h4 : Serving s4 := h3.setB _ (by decide) (by decide)
  have h5 : Serving s5 := h4.set _ (by decide) (by decide)
  have h6 : Serving s6 := h5.setPair _ (by decide) (by decide)
  have h7 : Serving s7 := h6.setPair _ (by decide) (by decide)
  have h8 : Serving s8 := h7.setB _ (by decide) (by decide)
  exact h8.setB _ (by decide) (by decide)

theorem Serving.levRecall (h : Serving s) : Serving s.levRecall := by
  unfold State.levRecall
  extract_lets wrapped key cleared bound c b
  have hbound : Serving bound := by
    refine Serving.foldl _ _ (h.of_regs rfl rfl) (fun u i hu => ?_)
    dsimp only
    split
    · exact hu
    · exact hu.of_regs rfl rfl
  clear_value bound
  have hown : Serving (bound.setSess 255 { bound := true, uid := bound.uid, mask := 0x3FE, b := b }) := hbound.of_regs rfl rfl
  exact hown.levFaces

theorem Serving.bankStart (h : Serving s) (b : Nat) : Serving (s.bankStart b) := by
  unfold State.bankStart
  dsimp only
  split
  · exact h.of_regs rfl rfl
  · exact h

theorem Serving.peatReserve (h : Serving s) : Serving s.peatReserve := by
  unfold State.peatReserve
  extract_lets x raised reserving k
  have hreserving : Serving reserving := h.of_regs rfl rfl
  clear_value reserving
  have hqueued : Serving (reserving.setPbank 3 { k with queue := 2047 :: k.queue.filter (fun e => e ≠ 2047) }) :=
    hreserving.of_regs rfl rfl
  exact (hqueued.bankStart 3).peatFaces

theorem Serving.levReserve (h : Serving s) : Serving s.levReserve := by
  unfold State.levReserve
  split
  · exact h
  split
  · refine Serving.raise ?_ _ _ _
    exact h.of_regs rfl rfl
  · refine Serving.levFaces (Serving.peatReserve ?_)
    exact h.of_regs rfl rfl

theorem Serving.levStart (h : Serving s) : Serving s.levStart := Serving.levReserve (h.of_regs rfl rfl)

theorem Serving.takeCtr (h : Serving s) : Serving s.takeCtr.2 := by
  unfold State.takeCtr
  extract_lets c taken reserved
  have htaken : Serving taken := h.of_regs rfl rfl
  have hreserved : Serving reserved := by
    unfold reserved
    split
    · exact htaken.levReserve
    · exact htaken
  exact hreserved.levFaces

/-! ### The fabric (R317, R323, R327) -/

theorem Serving.enqueue (h : Serving s) (p : Nat) (x : OutFrame) : Serving (s.enqueue p x) := by
  unfold State.enqueue
  split
  · split
    · exact h
    · exact h.of_regs rfl rfl
  split
  · exact h
  · exact h.of_regs rfl rfl

theorem Serving.noteCtr (h : Serving s) (o : Origin) (c : Nat) : Serving (s.noteCtr o c) := by
  unfold State.noteCtr
  split
  · exact h.of_regs rfl rfl
  · exact h

theorem Serving.originate (h : Serving s) (o : Origin) : Serving (s.originate o).2 := by
  unfold State.originate
  split
  · dsimp only
    split
    · exact h
    · exact h.of_regs rfl rfl
  · exact Serving.foldl _ _ (h.takeCtr.noteCtr o _) (fun u p hu => hu.enqueue p _)

theorem Serving.linkSend (h : Serving s) (p kind : Nat) (payload : List Byte) : Serving (s.linkSend p kind payload) := by
  unfold State.linkSend
  split
  · exact h.originate _
  · exact h

theorem Serving.floodOn (h : Serving s) (p kind uid seq : Nat) (payload : List Byte) : Serving (s.floodOn p kind uid seq payload) :=
  (h.linkSend p kind payload).of_regs rfl rfl

theorem Serving.dbChanged (h : Serving s) : Serving s.dbChanged := by
  unfold State.dbChanged
  extract_lets waiting
  have hwaiting : Serving waiting := h.of_regs rfl rfl
  exact (hwaiting.set _ (by decide) (by decide)).irq 0 (by decide) (by decide)

theorem Serving.originateLsa (h : Serving s) : Serving s.originateLsa := by
  unfold State.originateLsa
  split
  · exact h
  · extract_lets numbered l
    have hput : Serving (numbered.dbPut l) := h.of_regs rfl rfl
    exact Serving.foldl _ _ hput.dbChanged (fun u p hu => hu.floodOn p _ _ _ _)

theorem Serving.fabAddrFaces (h : Serving s) : Serving s.fabAddrFaces :=
  ((h.setB _ (by decide) (by decide)).setB _ (by decide) (by decide)).setB _ (by decide) (by decide)

theorem Serving.fabStart (h : Serving s) : Serving s.fabStart := by
  unfold State.fabStart
  extract_lets found a ok prio rooted addressed
  have hrooted : Serving rooted := (h.set (f := fFabCfgPrio) _ (by decide) (by decide)).of_regs rfl rfl
  have haddressed : Serving addressed := (hrooted.set _ (by decide) (by decide)).fabAddrFaces
  exact (haddressed.setPair _ (by decide) (by decide)).originateLsa

/-! ### The end of recall -/

theorem recallDone_serving (hoff : s.coreOff = false) (hserved : s.sto.served = false) (hq : s.sto.queue = []) :
    Serving s.recallDone := by
  unfold recallDone
  rw [if_neg (by simp [hoff, hserved])]
  exact (storeRecall_ready hq).peatRecall.tmePowerUp.levRecall.levStart.fabStart

/-- R286, R293: recall ends. -/
theorem exec_recallDone_open (s : State) (hoff : s.coreOff = false) (hserved : s.sto.served = false) (hq : s.sto.queue = []) :
    ∃ t, exec .recallDone s = .next t
      ∧ t.sto.served = true ∧ t.bit fStoreStatusReady = true ∧ t.bit fStoreStatusRecall = false ∧ t.bit fPeatStatReady = true
      ∧ t.now = s.now ∧ t.lath = s.lath ∧ t.vis = s.vis ∧ t.uch = s.uch ∧ t.lv = s.lv ∧ t = { s with
        regs := t.regs, flt := t.flt, sto := t.sto, eng := t.eng, lev := t.lev, fab := t.fab, dlv := t.dlv,
        fresh := t.fresh } := by
  have hK : Keeps 0x3c00001840004 s s.recallDone := recallDone_keeps (Keeps.refl _ s) rfl
  have hS := recallDone_serving hoff hserved hq
  exact ⟨_, rfl, hS.served, hS.ready, hS.notRecall, hS.peat, hK.now_eq rfl, hK.lath_eq rfl, hK.vis_eq rfl, hK.uch_eq rfl,
    hK.lv_eq rfl, hK.eta⟩

end State

/-- Settles O28, clause by clause: UNLOCK, the end of the arming, PROTECT, WP_N, the end of recall, and the counter reservation of
the levee. -/
theorem blockProtectArmingAndRecall : Obligations.BlockProtectArmingAndRecall := by
  unfold Obligations.BlockProtectArmingAndRecall
  intro s
  exact ⟨State.exec_storeUnlock_open s, fun _ => State.exec_armTimeout_armed s, State.exec_protectWrite_open s,
    fun _ => State.exec_wpChange_changed s, State.exec_recallDone_open s, State.exec_reservationDone_open s⟩

end Sys2Proof.Machine
end
